-- ==== Sys2Proof/Word.lean ====
section
/-! DEFINITION. The word types of the model and the plain numbering of bays, streams and registers (R9, R10, R178). -/

namespace Sys2Proof

/-- A byte; bit 0 is the least significant (R10). -/
abbrev Byte := BitVec 8

/-- A 32-bit word of a counter, lane or scratchpad element. -/
abbrev W32 := BitVec 32

/-- A bay number B0 to B11 (R21). -/
abbrev Bay := Fin 12

/-- A stack number MS0 to MS11 (R21). -/
abbrev Stk := Fin 12

/-- A session slot 0 to 3 (R341). -/
abbrev Slot := Fin 4

/-- A counter C0 to C15 (R178). -/
abbrev Ctr := Fin 16

/-- A local flag F0 to F63 (R178). -/
abbrev LFlag := Fin 64

/-- A vector register V0 to V31 (R141). -/
abbrev VReg := Fin 32

/-- A predicate register P0 to P7 (R141). -/
abbrev PReg := Fin 8

/-- A logical tile LT0 to LT7 (R28). -/
abbrev Lt := Fin 8

/-- A descriptor index, 0 to 2,047 (R214). -/
abbrev Dix := Fin 2048

/-- A bay mask, bit n for Bn. -/
abbrev BayMask := BitVec 12

end Sys2Proof
end

