-- ==== Sys2Proof/Syntax.lean ====
section
/-! DEFINITION. The commands of the block: one constructor of `Instr` for each row of spec/opcode_table.json, with the operand types they carry. -/

namespace Sys2Proof

/-- The two streams of a bay (R178). -/
inductive Strm where
  | a
  | x
  deriving DecidableEq, Repr

/-- Operand B of the counter group: a counter or a sign-extended 16-bit immediate (R181, R217). -/
inductive BOp where
  | reg (c : Ctr)
  | imm (i : BitVec 16)
  deriving DecidableEq, Repr

/-- The relations of TS.CMP and VE.CMP (R181, R217). -/
inductive Rel where
  | eq | ne | lt | ge | ltu | geu
  deriving DecidableEq, Repr

/-- The relations of VE.FCMP (R221). -/
inductive FRel where
  | eq | ne | lt | ge | le | gt | un
  deriving DecidableEq, Repr

/-- The operations of TS.KLOG (R181). -/
inductive KOp where
  | and | or | xor | andn
  deriving DecidableEq, Repr

/-- What TS.BR tests (R183). -/
inductive BrSrc where
  | cmp (k : Fin 8)
  | flag (f : LFlag)
  deriving DecidableEq, Repr

/-- The form field NF of TS.HEND (R454); code 3 is refused by the loader. -/
inductive NForm where
  | keep | coef | ntt
  deriving DecidableEq, Repr

/-- Operand B of an element-wise vector instruction (R146, R221). -/
inductive VBOp where
  | reg (v : VReg)
  | ctr (c : Ctr)
  deriving DecidableEq, Repr

/-- The registers MM.STAT copies (R68). -/
inductive TileReg where
  | tcfg | tstat | stRow
  deriving DecidableEq, Repr

/-- The functions of VE.SF (R166, R168). -/
inductive SfFunc where
  | exp | exp2 | ln | log2 | rcp | sqrt | rsqrt | tanh | sigmoid | gelu | silu | erf
  | rowmax | rowsumexp | rowstat | rowmsq | rowsum
  deriving DecidableEq, Repr

/-- The scratchpad formats of VE.LD and VE.ST (R144). -/
inductive VFmt where
  | w32 | bf16 | e4m3 | e5m2 | int8 | uint8 | int16
  deriving DecidableEq, Repr

/-- The KIND of VE.SUM with its source (R151). -/
inductive SumKind where
  | any (p : PReg)
  | all (p : PReg)
  | cnt (p : PReg)
  | maxi (v : VReg)
  | maxu (v : VReg)
  | maxf (v : VReg)
  | ovf
  deriving DecidableEq, Repr

/-- The operands VE.KMAC uses under WB (R149, R221). -/
structure KmacWb where
  fd : LFlag
  db : Dix
  da : Dix
  deriving DecidableEq, Repr

/-- The destination of XF.MOV (R218). -/
inductive XDest where
  | desc (d : Dix)
  | queue (q : Fin 8)
  deriving DecidableEq, Repr

/-- Symbol errors a read of one sector of stacked memory meets: the sector, as its address over 64, and the symbols in
error with the difference each shows (R285). -/
structure SectorErr where
  sec : Nat
  syms : List (Fin 72 × Byte)
  deriving DecidableEq, Repr

/-- What the check codes of the memories read in a step report (R242, R251): nothing, or one word in the part named.
`page w` is 64-bit word `w` of the bay's page-coded memories, counted through the scratchpad and then the key buffer,
reported uncorrectable before any repair (R248); `wrong w v` such a word that passes the word code, unseen or
miscorrected, as `v` (R242); `fixed id i` a single-bit error corrected in the data delivered (R243); `small` an
uncorrectable byte of a byte-coded memory by its Id, `vreg` of a vector register, predicate or KA word, and `queue` of a
queue, bank or regeneration-queue entry; `slip id i v` such a unit that passes its code, unseen or wrongly corrected, as `v`
(R242); `i` picks among the units of that memory the step reads. `sectors` are symbol errors met in stacked memory.
(DEDUCED, log 15) -/
inductive CodeEvent where
  | clean
  | page (w : Nat)
  | wrong (w : Nat) (v : BitVec 64)
  | fixed (id : Byte) (i : Nat)
  | small (id : Byte) (i : Nat)
  | vreg (i : Nat)
  | queue (i : Nat)
  | slip (id : Byte) (i : Nat) (v : Nat)
  | sectors (l : List SectorErr)
  deriving DecidableEq, Repr

/-- What the word code of a page and its parity line, or the code of a small memory, reports as it is read whole (R246,
R252): the units with a single-bit error, the units reported uncorrectable, the words that pass as another value than the
page holds, and in the parity line the words reported uncorrectable and the further symbols in error. Units of a page are
its words 0 to 511, units of a small memory its bytes by their offset under R453, of whose `wrong` values the low 8 bits count. (DEDUCED, log 15) -/
structure PageRead where
  fixed : List Nat
  ue : List Nat
  wrong : List (Nat × BitVec 64)
  parUe : Nat
  parWrong : Nat
  deriving DecidableEq, Repr

/-- A frame as the link receives it after decryption (R335, R336). `rsvd` holds its RSVD bits, [15:8], [47:40] and
[127:112] of the header from the lowest up, and `tag` its GCM tag (R344). -/
structure Frame where
  ver : Byte
  rsvd : Nat
  cls : Byte
  opc : Byte
  sess : Byte
  lseq : BitVec 48
  tid : BitVec 16
  addr : BitVec 48
  arg : BitVec 64
  payload : List Byte
  tag : List Byte
  deriving DecidableEq, Repr

/-- What a session handshake draws and where its points are (R342, R343, R397): the device nonce, the randomness of the
encapsulation, the slot with the device's ephemeral point and the sealed slot with the shared point. -/
structure Handshake where
  nonce : List Byte
  rnd : List Byte
  pub : Fin 64
  z : Fin 64
  deriving DecidableEq, Repr

/-- The sensor readings of one expected beat position (R416, R296): the four temperatures of each bay and the two of the uncore in
1/16 °C, rail and input voltages in mV, input power in W, the power-stage dies that report a fault (R417); and the FEC codewords of the link corrected and found uncorrectable since the last
one (R329, R350). (DESIGN CHOICE, log 126) -/
structure Sample where
  bayTemp : Vector (Vector Int 4) 12
  uncoreTemp : Vector Int 2
  bayMv : Vector Nat 12
  uncoreMv : Nat
  inputMv : Nat
  inputW : Nat
  psBad : BitVec 6
  fecFixed : Nat
  fecBad : Nat
  deriving DecidableEq, Repr

/-- The fields of a BN_CMD write besides OP (R398); `rsvd` is the value of its RSVD bits taken together. -/
structure BnArgs where
  sc : Fin 64
  c : Fin 64
  b : Fin 64
  a : Fin 64
  d : Fin 64
  curve : BitVec 2
  rsvd : Nat
  deriving DecidableEq, Repr

/-- A field of the fuse array (R375). -/
inductive FuseField where
  | serial | variant | seed | cert | relHash | devHash | map | ceiling | maxClass | closedGroups | policy | svn | journal
  deriving DecidableEq, Repr

/-- One access of the steward firmware: to state behind a Breakwater fence (R386), to the fuse array (R375), to its own
memory (R251), or to the registers of the big-number engine (R395 to R400, R405). -/
inductive FwAccess where
  | powerLimit (watts : Nat)
  | opticalClass (cls : Nat)
  | laneRate (ppmOff : Int)
  | writeSpad (addr : Nat) (v : Byte) (ev : CodeEvent)
  | writeMem (addr : Nat) (v : Byte) (ev : CodeEvent)
  | writeImem (b : Bay) (st : Strm) (ix : Fin 32768) (v : BitVec 64)
  | writeDmem (b : Bay) (st : Strm) (ix : Fin 16384) (v : W32)
  | writeParam (off : Nat) (v : Byte) (ev : CodeEvent)
  | readRing (addr : Nat)
  | readSecret
  | clearMapBit (i : Fin 108)
  | setMapBit (i : Fin 108)
  | lowerVersion (v : Nat)
  | startImage
  | reopenPolicy
  | editGate
  | writeCtx (ctx : Fin 16384) (off : Fin 256) (v : Byte)
  | writeDesc (b : Bay) (ix : Dix) (v : List Byte)
  | writeRoutine (b : Bay) (kind : Nat) (pc : BitVec 15)
  | writeReg (ix : BitVec 16) (sub : Byte) (v : List Byte)
  | readFuse (f : FuseField)
  | readSteward (off : Nat) (ue : Bool)
  | bnCmd (w : BitVec 64) (trng : Nat)
  | bnCtl (w : W32)
  | bnStat (w : W32)
  | bnSlot (i : Fin 64) (w : W32)
  | readBnCmd
  | readBnCtl
  | readBnStat
  | readBnSlot (i : Fin 64)
  | readBnWord (i word : Fin 64)
  | readBnReason
  deriving DecidableEq, Repr

/-- The commands: one constructor per row of the table of operations and events. -/
inductive Instr where
  -- counters, comparators, data memory (R181, R182)
  | tsCset (b : Bay) (st : Strm) (cd : Ctr) (imm : W32)
  | tsCadd (b : Bay) (st : Strm) (cd ca : Ctr) (o : BOp)
  | tsCsub (b : Bay) (st : Strm) (cd ca : Ctr) (o : BOp)
  | tsCmul (b : Bay) (st : Strm) (cd ca : Ctr) (o : BOp)
  | tsCshl (b : Bay) (st : Strm) (cd ca : Ctr) (o : BOp)
  | tsCshr (b : Bay) (st : Strm) (cd ca : Ctr) (o : BOp)
  | tsCand (b : Bay) (st : Strm) (cd ca : Ctr) (o : BOp)
  | tsCor (b : Bay) (st : Strm) (cd ca : Ctr) (o : BOp)
  | tsCxor (b : Bay) (st : Strm) (cd ca : Ctr) (o : BOp)
  | tsCmp (b : Bay) (st : Strm) (kd : Fin 8) (ca : Ctr) (r : Rel) (o : BOp)
  | tsKlog (b : Bay) (st : Strm) (kd ka : Fin 8) (op : KOp) (kb : Fin 8)
  | tsLdw (b : Bay) (st : Strm) (cd ca : Ctr) (imm : BitVec 16) (ev : CodeEvent)
  | tsStw (b : Bay) (st : Strm) (cs ca : Ctr) (imm : BitVec 16)
  | tsBeat (b : Bay) (st : Strm) (cd : Ctr)
  | tsLidx (b : Bay) (st : Strm) (cd : Ctr) (l : Fin 4)
  -- control flow and loops (R183 to R185)
  | tsBr (b : Bay) (st : Strm) (src : BrSrc) (pol : Bool) (target : BitVec 15)
  | tsJmp (b : Bay) (st : Strm) (target : BitVec 15)
  | tsCall (b : Bay) (st : Strm) (target : BitVec 15)
  | tsRet (b : Bay) (st : Strm)
  | tsEnd (b : Bay) (st : Strm)
  | tsLoop (b : Bay) (st : Strm) (cn : Ctr) (last : BitVec 15)
  | tsBreak (b : Bay) (st : Strm) (k : Nat)
  -- flags (R187 to R190)
  | tsFset (b : Bay) (st : Strm) (f : LFlag)
  | tsFclr (b : Bay) (st : Strm) (f : LFlag)
  | tsWait (b : Bay) (st : Strm) (f : LFlag) (pol clr : Bool)
  | flagWaitEnd (b : Bay) (st : Strm)
  | tsGadd (b : Bay) (st : Strm) (g : Fin 256) (imm : Byte)
  | tsGset (b : Bay) (st : Strm) (g : Fin 256) (cs : Ctr)
  | tsGwait (b : Bay) (st : Strm) (g : Fin 256) (cn : Ctr)
  | globalWaitEnd (b : Bay) (st : Strm)
  -- queues, release, preemption, pools (R191 to R212)
  | tsQput (b : Bay) (st : Strm) (q : Fin 8) (cn : Ctr) (m1 : Fin 16)
  | tsQpop (b : Bay) (st : Strm) (q : Fin 8) (cd : Ctr) (m1 : Fin 16) (ev : CodeEvent)
  | tsRel (b : Bay) (st : Strm) (cb : Ctr)
  | releaseWaitEnd (b : Bay) (st : Strm)
  | tsYield (b : Bay) (st : Strm)
  | tsPinit (b : Bay) (st : Strm) (cn cm : Ctr) (p : Fin 64)
  | poolArmed (p : Fin 64)
  | tsTake (b : Bay) (st : Strm) (cd : Ctr) (p : Fin 64)
  | takeIndexWrite (b : Bay) (st : Strm)
  -- brackets (R51, R121, R203, R222)
  | tsHop (b : Bay) (s1 s2 dst x : Ctr) (kind : Fin 16) (mask : BayMask)
  | bracketOpen (mask : BayMask) (ev : CodeEvent)
  | tsHend (b : Bay) (nf : NForm)
  | bracketClose (mask : BayMask)
  | tsHout (b : Bay) (level scale : Byte)
  | tsDarm (b : Bay) (cb : Ctr) (d : Dix)
  -- statistics (R171 to R175)
  | tsScfg (b : Bay) (cs cc : Ctr)
  | tsAmax (b : Bay) (cs cv : Ctr) (cmt ovf : Bool)
  | tsScale (b : Bay) (cs cd : Ctr)
  | tsUwr (b : Bay) (cs cu cw : Ctr) (cmt : Bool)
  | tsUstat (b : Bay) (cs cd : Ctr)
  | statsApply (b : Bay) (ev : CodeEvent)
  | statsResultWrite (b : Bay)
  -- Tide (R96 to R109)
  | tdKey (b : Bay) (ck cg : Ctr) (cb : Option Ctr) (next : Bool) (level : Fin 64) (ev : CodeEvent)
  | tdDrop (b : Bay)
  | tdStat (b : Bay) (cn : Ctr)
  | keyStreamOpen (b : Bay) (slot : Fin 4) (ev : CodeEvent)
  | keySetCombine (mask : BayMask) (k : Nat)
  | keyFillStart (b : Bay)
  | keyFillData (b : Bay) (ev : CodeEvent)
  | xofSegmentStart (b : Bay)
  | xofSegmentComplete (b : Bay) (core : Fin 36)
  | keyRowDeliver (b : Bay) (ev : CodeEvent)
  -- tiles (R62 to R89)
  | mmCfg (b : Bay) (lt : Lt) (imm : W32)
  | mmLdp (b : Bay) (lt : Lt) (e m1 : Fin 256) (d : Dix)
  | mmLds (b : Bay) (lt : Lt) (buf resume tide : Bool) (n1 : Fin 256) (d : Dix)
  | mmMul (b : Bay) (mask : BitVec 8) (buf ob acc : Bool) (n1 : Fin 256) (d : Dix)
  | mmDrain (b : Bay) (lt : Lt) (ob : Bool) (fd fo : LFlag) (n1 : Fin 256) (d : Dix)
  | mmClr (b : Bay) (lt : Lt) (ob : Bool)
  | mmStat (b : Bay) (lt : Lt) (r : TileReg) (cn : Ctr)
  | tileInstrStart (b : Bay) (lt : Lt) (ev : CodeEvent)
  | stationaryLoadComplete (b : Bay) (lt : Lt) (ev : CodeEvent)
  | mmMulComplete (b : Bay) (lt : Lt) (ev : CodeEvent)
  | mmDrainComplete (b : Bay) (lt : Lt) (ev : CodeEvent)
  -- ring NTT unit (R127 to R132)
  | ntCfg (b : Bay) (imm : W32)
  | ntLdp (b : Bay) (d : Dix)
  | ntFwd (b : Bay) (fd : LFlag) (d2 d1 : Dix)
  | ntInv (b : Bay) (fd : LFlag) (d2 d1 : Dix)
  | ntTv (b : Bay) (ac ident : Bool) (slot : Fin 16) (cb : Ctr)
  | ntStep (b : Bay) (ac : Bool) (fd : LFlag) (ce : Ctr) (d1 : Dix)
  | ntAcc (b : Bay) (ac : Bool) (fd : LFlag) (d2 : Dix)
  | ntOut (b : Bay) (ac : Bool) (fd : LFlag) (d1 : Dix)
  | ntInstrStart (b : Bay) (ev : CodeEvent)
  | ntInstrComplete (b : Bay)
  -- tables (R136 to R140)
  | tblLd (b : Bay) (bank : Bool) (slot : Fin 16) (fd : LFlag) (d : Dix)
  | tblLdComplete (b : Bay) (ev : CodeEvent)
  | tblSwap (b : Bay)
  | tblStat (b : Bay) (cn : Ctr)
  | tableBankFlip (b : Bay)
  -- vector engine (R141 to R159, R166 to R170)
  | veAdd (b : Bay) (vd va : VReg) (o : VBOp) (pg : PReg)
  | veSub (b : Bay) (vd va : VReg) (o : VBOp) (pg : PReg)
  | veMull (b : Bay) (vd va : VReg) (o : VBOp) (pg : PReg)
  | veMulh (b : Bay) (vd va : VReg) (o : VBOp) (pg : PReg)
  | veMulhu (b : Bay) (vd va : VReg) (o : VBOp) (pg : PReg)
  | veAnd (b : Bay) (vd va : VReg) (o : VBOp) (pg : PReg)
  | veOr (b : Bay) (vd va : VReg) (o : VBOp) (pg : PReg)
  | veXor (b : Bay) (vd va : VReg) (o : VBOp) (pg : PReg)
  | veShl (b : Bay) (vd va : VReg) (o : VBOp) (pg : PReg)
  | veShr (b : Bay) (vd va : VReg) (o : VBOp) (pg : PReg)
  | veSra (b : Bay) (vd va : VReg) (o : VBOp) (pg : PReg)
  | veMin (b : Bay) (vd va : VReg) (o : VBOp) (pg : PReg)
  | veMax (b : Bay) (vd va : VReg) (o : VBOp) (pg : PReg)
  | veMinu (b : Bay) (vd va : VReg) (o : VBOp) (pg : PReg)
  | veMaxu (b : Bay) (vd va : VReg) (o : VBOp) (pg : PReg)
  | veSel (b : Bay) (vd va : VReg) (o : VBOp) (ps pg : PReg)
  | veIota (b : Bay) (vd : VReg) (cb : Ctr) (pg : PReg)
  | veCmp (b : Bay) (pd : PReg) (r : Rel) (va : VReg) (o : VBOp) (pg : PReg)
  | veFcmp (b : Bay) (pd : PReg) (r : FRel) (va : VReg) (o : VBOp) (pg : PReg)
  | vePand (b : Bay) (pd pa pb pg : PReg)
  | vePor (b : Bay) (pd pa pb pg : PReg)
  | vePxor (b : Bay) (pd pa pb pg : PReg)
  | vePnot (b : Bay) (pd pa pg : PReg)
  | veFadd (b : Bay) (vd va : VReg) (o : VBOp) (pg : PReg)
  | veFsub (b : Bay) (vd va : VReg) (o : VBOp) (pg : PReg)
  | veFmul (b : Bay) (vd va : VReg) (o : VBOp) (pg : PReg)
  | veFma (b : Bay) (vd va : VReg) (o : VBOp) (vc : VReg) (pg : PReg)
  | veFmin (b : Bay) (vd va : VReg) (o : VBOp) (pg : PReg)
  | veFmax (b : Bay) (vd va : VReg) (o : VBOp) (pg : PReg)
  | veCvt (b : Bay) (vd va : VReg) (toInt : Bool) (pg : PReg)
  | veMadd (b : Bay) (vd va : VReg) (o : VBOp) (v : Fin 64) (pg : PReg)
  | veMsub (b : Bay) (vd va : VReg) (o : VBOp) (v : Fin 64) (pg : PReg)
  | veMmul (b : Bay) (vd va : VReg) (o : VBOp) (v : Fin 64) (pg : PReg)
  | veMmac (b : Bay) (vd va : VReg) (o : VBOp) (v : Fin 64) (pg : PReg)
  | veMneg (b : Bay) (vd va : VReg) (v : Fin 64) (pg : PReg)
  | veMred (b : Bay) (vd va : VReg) (v : Fin 64) (pg : PReg)
  | veMlift (b : Bay) (vd va : VReg) (v w : Fin 64) (pg : PReg)
  | veKmac (b : Bay) (cr : Ctr) (init : Bool) (dx : Dix) (wb : Option KmacWb)
  | veKmacWriteback (b : Bay) (ev : CodeEvent)
  | veLrot (b : Bay) (vd va : VReg) (cb : Ctr) (pg : PReg)
  | vePerm (b : Bay) (vd va vb : VReg) (pg : PReg)
  | veSf (b : Bay) (vd va : VReg) (func : SfFunc) (m1 : Fin 32) (cc : Ctr) (pg : PReg)
  | veLd (b : Bay) (vd : VReg) (fmt : VFmt) (d : Dix) (pg : PReg)
  | veSt (b : Bay) (va : VReg) (fmt : VFmt) (d : Dix) (pg : PReg)
  | veLdq (b : Bay) (vd : VReg) (q : Fin 8) (m1 : Fin 32) (pg : PReg)
  | veGsign (b : Bay) (pd : PReg) (cg cb : Ctr) (logn : Nat) (pg : PReg)
  | veSum (b : Bay) (cn : Ctr) (kind : SumKind) (fn : LFlag) (pg : PReg)
  | veSumResult (b : Bay)
  | veLdp (b : Bay) (e m1 : Fin 64) (d : Dix)
  | veStat (b : Bay) (cn : Ctr)
  | veInstrStart (b : Bay) (ev : CodeEvent)
  -- transfer engine (R260 to R276)
  | xfMov (b : Bay) (dst : XDest) (fd : Option LFlag) (d2 : Dix)
  | xfGath (b : Bay) (di : Dix) (fd : Option LFlag) (d2 d1 : Dix)
  | xfScat (b : Bay) (acc : Bool) (di : Dix) (fd : Option LFlag) (d2 d1 : Dix)
  | xfRing (b : Bay) (fd : Option LFlag) (d1 : Dix)
  | xfDnew (b : Bay) (ca : Ctr) (d1 : Dix)
  | xfDarm (b : Bay) (cb : Ctr) (d1 : Dix)
  | xfDdel (b : Bay) (d1 : Dix)
  | xfStat (b : Bay) (cn : Ctr)
  | transferStart (b : Bay)
  | transferComplete (b : Bay) (slot : Fin 4) (rb : Bay) (ev : CodeEvent)
  | ringBurstFetch (b : Bay) (rb : Bay) (ev : CodeEvent)
  | ringRecordStart (b : Bay)
  -- waits, parks, release (R196 to R208)
  | waitTimeout (b : Bay) (st : Strm)
  | dlk (b : Bay)
  | parkComplete (b : Bay)
  | programRelease (mask : BayMask)
  -- stacked memory (R278 to R300)
  | memRequestArrive (ms : Stk) (req : Nat) (src : Bay) (addr len : Nat) (data : Option (List Byte))
  | memRequestServe (ms : Stk) (pc : Fin 32) (errs : List SectorErr)
  | memReadReturn (ms : Stk) (req : Nat) (src : Bay)
  | dramRefresh (ms : Stk)
  | hotRefreshEnter (ms : Stk)
  | hotRefreshLeave (ms : Stk)
  | patrolScrub (ms : Stk) (pc : Fin 32) (errs : List SectorErr)
  | stackTempRead (ms : Stk) (dies : Vector Int 16)
  | stackCapLower (ms : Stk)
  | stackCapRaise (ms : Stk)
  | actLimitSet (ms : Stk)
  | actLimitLift (ms : Stk)
  | stackThermFault (ms : Stk)
  | bandZeroComplete
  | stackInitComplete
  -- on-die codes (R243 to R255)
  | pageRepairStart (b : Bay)
  | pageRepairComplete (b : Bay) (rd : PageRead)
  | correctedWriteback (b : Bay) (id : Byte) (met : Option Nat)
  | scrubStep (b : Bay) (rd : PageRead)
  | reencodeComplete
  | scratchpadInitComplete
  -- beat time base (R301 to R311)
  | beatBlockReceive (bnum : BitVec 48) (crc : Byte)
  | markerArrival (off : Int) (gap : Nat)
  | beatEdge (smp : Sample)
  | holdEnter
  | holdExit
  | beatLost
  | acquisitionDone
  | lockingDone
  | lockingFail
  -- record and replay (R318 to R327)
  | recordDrain (n : Nat) (ev : CodeEvent)
  | replayInputRelease (ev : CodeEvent)
  -- link and sessions (R331 to R349)
  | linkAlignmentChange (lanes : BitVec 4)
  | linkReinit
  | linkAck (f : Frame) (crc : W32)
  | linkNak (f : Frame) (crc : W32)
  | retransmitTimeout
  | resendLimit
  | ackDue
  | creditRepeat
  | sessionHello (f : Frame)
  | sessionAccept (slot : Slot) (h : Handshake)
  | sessionFinish (f : Frame)
  | sessionClose (f : Frame)
  | finishTimeout (slot : Slot)
  | sessionIdleTimeout (slot : Slot)
  | odRead (f : Frame) (ev : CodeEvent)
  | odWrite (f : Frame)
  | bulkWrite (f : Frame) (ev : CodeEvent)
  | bulkRead (f : Frame)
  | bulkReadData (ev : CodeEvent)
  | flagUpdate (f : Frame)
  | recordScript (f : Frame)
  | heldFrameRelease (ix : Nat) (ev : CodeEvent)
  -- object dictionary actions
  | writeOther
  | odInstall (ev : CodeEvent)
  | installComplete
  | odEvict
  | contextRetireEmpty (ctx : Fin 16384)
  | odTideRestart
  | odPark
  | odResume
  | odLoad
  | loadComplete (ev : CodeEvent)
  | odUnload
  | odLaunch
  | odChannelRestart
  | odLinkReset
  | linkResetEffect
  | odBayReset
  | bayResetEffect
  | odStreamReset
  | odPowerCeiling
  | odPageCodeStrength
  | odBandModes
  | odBeatFree
  | odBeatRelock
  | odRunArm
  | odRunClose
  | odRecordingEnable
  | odReplayArm
  | odReplayStop
  | odSessionClose
  | odAttestNonce
  | attestReportReady (slot : Slot)
  | odTmxSelect
  | odSecurityVersion
  | odOwnerKey
  | odTileRetire
  | odDebugClose
  | journalIntentDone (readBackOk : Bool)
  | journalCommitDone
  -- boot and firmware (R379 to R386)
  | bootStageFuseDone
  | bootStageIdentityDone
  | fwVerifyDone (ev : CodeEvent)
  | firmwareAccess (acc : FwAccess)
  -- big-number engine (R392 to R408)
  | bnModmul (x : BnArgs)
  | bnModexp (x : BnArgs)
  | bnModinv (x : BnArgs)
  | bnPchk (x : BnArgs)
  | bnPmul (x : BnArgs)
  | bnPmulg (x : BnArgs)
  | bnPadd (x : BnArgs)
  | bnRands (x : BnArgs) (trng : Nat)
  | bnAbort
  | bnSlotLenWrite (slot : Fin 64) (len : BitVec 7)
  | bnSlotDataWrite (slot word : Fin 64) (v : BitVec 64)
  | bnOpComplete
  | bnUeAbort (slot : Fin 64) (byte : Fin 512)
  | trngHealthFail
  | bnAbortComplete
  -- power, clocks, thermal (R409 to R424)
  | inputRise (mv : Nat)
  | rampStep
  | refclkValid
  | powerOnResetRelease
  | rampAbort (mv : Nat)
  | inputFail (mv : Nat)
  | holdupEnd
  | failRestart
  | brownoutEnter
  | brownoutLeave
  | overvoltageFault
  | psDieFault (ps : Fin 6)
  | sensorHistoryFull
  | powerCapRaise
  | powerCeilingFault
  | dvfsClockSwitch (b : Bay)
  | railSettled (b : Bay)
  | thermalCapLower (b : Bay)
  | thermalCapRaise (b : Bay)
  | neighbourThermFault (b1 b2 : Bay)
  | bayThermFault (b : Bay)
  | uncoreThermFault
  -- test access port (R444 to R449)
  | trstAssert (low : Bool)
  | tapExtest (refclk : Bool) (load : Option (BitVec 21))
  | tapSamplePreload (refclk : Bool) (load : Option (BitVec 21))
  | tapIdcode
  | tapIntscan
  | tapMemacc (dr : Option (BitVec 128))
  | tapBypass (code : Byte)
  | memaccRead (addr : BitVec 48)
  | memaccWrite (addr : BitVec 48) (data : BitVec 64)
  | memaccServe (ev : CodeEvent)
  -- link receive errors (R332, R337)
  | frameCrcFail (v : List Byte)
  | blockError
  deriving DecidableEq, Repr

end Sys2Proof
end

