-- ==== Sys2Proof/Decode.lean ====
section
/-! DEFINITION. The words of the opcode table: no row of it gives bits, so no word spells a command. -/

namespace Sys2Proof

/-- The command a word of the table spells: none, since no row of the table gives bits. A command is a step of the part,
not a word fetched from a memory. -/
def decodeTableWord (nbits w : Nat) : Option Instr :=
  match nbits, w with
  | _, _ => none

end Sys2Proof
end

