-- ==== Sys2Proof/Machine/Bytes.lean ====
section
/-! DEFINITION. Byte strings, little-endian values, saturating counts and the CRC of the record ring (R10, R320). -/

namespace Sys2Proof.Machine

/-- The `n` bytes of a value, least significant first (R10). -/
def leBytes (v : Nat) : Nat → List Byte
  | 0 => []
  | n + 1 => BitVec.ofNat 8 v :: leBytes (v / 256) n

/-- The value of a byte string stored little-endian (R10). -/
def leNat : List Byte → Nat
  | [] => 0
  | b :: r => b.toNat + 256 * leNat r

/-- Bits [hi:lo] of a number (R9). -/
def bitsAt (v hi lo : Nat) : Nat := v / 2 ^ lo % 2 ^ (hi + 1 - lo)

/-- `n` bytes of a string from byte `k`, as a little-endian value. -/
def fieldAt (l : List Byte) (k n : Nat) : Nat := leNat ((l.drop k).take n)

/-- A string cut or zero-padded to `n` bytes. -/
def padTo (n : Nat) (l : List Byte) : List Byte := l.take n ++ List.replicate (n - l.length) 0#8

/-- Adds to a counter that saturates at its largest value. -/
def satAdd (bits v k : Nat) : Nat := min (2 ^ bits - 1) (v + k)

/-- One bit step of the reflected CRC-64 of R320. -/
def crcBit (c : Nat) : Nat := if c % 2 = 1 then (c / 2) ^^^ 0xC96C5795D7870F42 else c / 2

/-- One byte of the reflected CRC-64. -/
def crcByte (c : Nat) (b : Byte) : Nat := (crcBit ∘ crcBit ∘ crcBit ∘ crcBit ∘ crcBit ∘ crcBit ∘ crcBit ∘ crcBit) (c ^^^ b.toNat)

/-- CRC-64 of R320: ECMA-182 polynomial, reflected, initial value and final exclusive-or all ones. -/
def crc64 (l : List Byte) : BitVec 64 :=
  BitVec.ofNat 64 (l.foldl crcByte 0xFFFFFFFFFFFFFFFF ^^^ 0xFFFFFFFFFFFFFFFF)

/-- One bit step of the reflected CRC-32 of R334, polynomial 0x04C11DB7. -/
def crc32Bit (c : Nat) : Nat := if c % 2 = 1 then (c / 2) ^^^ 0xEDB88320 else c / 2

/-- CRC-32 of R334 over a byte string: reflected, initial value and final exclusive-or all ones. -/
def crc32 (l : List Byte) : BitVec 32 :=
  BitVec.ofNat 32 (l.foldl (fun c (b : Byte) => crc32Bit (crc32Bit (crc32Bit (crc32Bit (crc32Bit (crc32Bit (crc32Bit
    (crc32Bit (c ^^^ b.toNat))))))))) 0xFFFFFFFF ^^^ 0xFFFFFFFF)

/-- One bit step of the CRC-8 of R332, polynomial 0x07. -/
def crc8Bit (c : Nat) : Nat := if c / 128 % 2 = 1 then (c * 2 % 256) ^^^ 7 else c * 2 % 256

/-- CRC-8 of R332 over a byte string. -/
def crc8 (l : List Byte) : Byte :=
  BitVec.ofNat 8 (l.foldl (fun c b => crc8Bit (crc8Bit (crc8Bit (crc8Bit (crc8Bit (crc8Bit (crc8Bit (crc8Bit
    (c ^^^ b.toNat))))))))) 0)

/-- The bits of a mask that are set, ascending. -/
def bitsSet (n : Nat) (m : BitVec n) : List Nat := (List.range n).filter (fun i => m.getLsbD i)

/-- A mask with one bit changed. -/
def setBit {n : Nat} (m : BitVec n) (i : Nat) (v : Bool) : BitVec n :=
  if v then m ||| BitVec.twoPow n i else m &&& ~~~BitVec.twoPow n i

/-- Replaces the element at a position of a list. -/
def listSet {α : Type} : List α → Nat → α → List α
  | [], _, _ => []
  | _ :: r, 0, v => v :: r
  | a :: r, n + 1, v => a :: listSet r n v

/-- x^e mod q by halving the exponent, in at most `fuel` steps. -/
def powMod (q x : Nat) : Nat → Nat → Nat
  | 0, _ => 1 % q
  | fuel + 1, e =>
    if e = 0 then 1 % q
    else
      let h := powMod q (x * x % q) fuel (e / 2)
      if e % 2 = 1 then h * x % q else h

end Sys2Proof.Machine
end

