-- ==== Sys2Proof/Machine/Galois.lean ====
section
/-! DEFINITION. The Reed–Solomon codes of the device: the parity line of a page (R244) and the code of a stacked-memory sector (R285). -/

namespace Sys2Proof.Machine

/-- An element times α, in the field of 2^n elements with the polynomial `p`. -/
def gfTwice (n p a : Nat) : Nat := if a.testBit (n - 1) then (2 * a) ^^^ p else 2 * a

/-- A product in the field of 2^n elements. -/
def gfMul (n p a b : Nat) : Nat :=
  ((List.range n).foldl (fun (r : Nat × Nat) i => (if b.testBit i then r.1 ^^^ r.2 else r.1, gfTwice n p r.2)) (0, a)).1

/-- α^k. -/
def gfAlpha (n p : Nat) : Nat → Nat
  | 0 => 1
  | k + 1 => gfTwice n p (gfAlpha n p k)

/-- A polynomial, lowest coefficient first and leading coefficient 1 left out, times x + r. -/
def rootTimes (n p r : Nat) (g : List Nat) : List Nat :=
  List.zipWith (fun a b => a ^^^ b) (0 :: g) ((g ++ [1]).map (gfMul n p r))

/-- The generator polynomial with roots α^from to α^(from + k - 1), its leading 1 left out. -/
def generator (n p : Nat) (from_ k : Nat) : List Nat :=
  (List.range k).foldl (fun g i => rootTimes n p (gfAlpha n p (from_ + i)) g) []

/-- The remainder of a register, lowest coefficient first, after one more data symbol. -/
def rsShift (n p : Nat) (g r : List Nat) (d : Nat) : List Nat :=
  let f := d ^^^ r.getLastD 0
  List.zipWith (fun a c => a ^^^ gfMul n p f c) (0 :: r.dropLast) g

/-- The check symbols of a run of data symbols, the first data symbol being the highest coefficient.
(DESIGN CHOICE, log 137) -/
def rsCheck (n p : Nat) (g data : List Nat) : List Nat :=
  data.foldl (rsShift n p g) (List.replicate g.length 0)

/-! ### The page code (R244) -/

/-- The field polynomial of the page code. -/
def pagePoly : Nat := 0x1100B

/-- A parity line: 32 symbols of 16 bits, the ones beyond P held at 0 (R244). (DESIGN CHOICE, log 137) -/
abbrev ParLine := Vector (BitVec 16) 32

/-- The parity line of a page of zeros. -/
def ParLine.zero : ParLine := Vector.replicate 32 0#16

/-- The sum of two parity lines. -/
def ParLine.add (a b : ParLine) : ParLine := Vector.zipWith (fun x y => x ^^^ y) a b

/-- The four data symbols of a 64-bit word (R244). -/
def wordSyms (w : BitVec 64) : List Nat := (List.range 4).map (fun i => w.toNat / 2 ^ (16 * i) % 65536)

/-- The parity line of a page of 512 words with P parity symbols (R244). -/
def parityOf (P : Nat) (page : List (BitVec 64)) : ParLine :=
  let c := rsCheck 16 pagePoly (generator 16 pagePoly 1 P) (page.flatMap wordSyms)
  Vector.ofFn (fun i : Fin 32 => BitVec.ofNat 16 (c.getD i 0))

/-- P under a strength code of OD 0x4010 (R254). -/
def parityP (code : Nat) : Nat := if code = 0 then 8 else if code = 1 then 16 else 32

/-! ### The sector code (R285) -/

/-- The field polynomial of the sector code. -/
def secPoly : Nat := 0x11D

/-- The eight check bytes of a sector's 64 data bytes (R285). -/
def sectorCheck (data : List Byte) : List Byte :=
  (rsCheck 8 secPoly (generator 8 secPoly 0 8) (data.map (fun x => x.toNat))).reverse.map (BitVec.ofNat 8)

/-- The locator of symbol i of a sector. -/
def secLoc (i : Nat) : Nat := gfAlpha 8 secPoly (71 - i)

/-- a^k in the sector code's field. -/
def secPow (a : Nat) : Nat → Nat
  | 0 => 1
  | k + 1 => gfMul 8 secPoly (secPow a k) a

/-- A pattern of symbol errors: positions and values. -/
abbrev SymErrs := List (Nat × Nat)

/-- The syndrome of a pattern at root α^j. -/
def secSynd (e : SymErrs) (j : Nat) : Nat := e.foldl (fun s x => s ^^^ gfMul 8 secPoly x.2 (secPow (secLoc x.1) j)) 0

/-- Two patterns have the same syndromes. -/
def sameSynd (e f : SymErrs) : Bool := (List.range 8).all (fun j => secSynd e j == secSynd f j)

/-- The value at position b of the pattern over positions a and b that agrees with two syndromes. -/
def secSolve (s0 s1 a b : Nat) : Nat :=
  gfMul 8 secPoly (s1 ^^^ gfMul 8 secPoly (secLoc a) s0) (secPow (secLoc a ^^^ secLoc b) 254)

/-- The patterns of one or two symbols a decoder can take a syndrome for. -/
def secGuesses (e : SymErrs) : List SymErrs :=
  let s0 := secSynd e 0
  let s1 := secSynd e 1
  (List.range 72).map (fun a => [(a, s0)]) ++
    (List.range 72).flatMap (fun b => (List.range b).map (fun a =>
      let v := secSolve s0 s1 a b
      [(a, s0 ^^^ v), (b, v)]))

/-- What the decoder of R285 makes of a pattern: nothing seen, a correction it applies, or a report. -/
inductive SecDecode where
  | unseen
  | correct (e : SymErrs)
  | report
  deriving DecidableEq, Repr

/-- The decoder of R285: one or two symbols are corrected and three or four reported; of more, what their syndromes spell. -/
def secDecode (e : SymErrs) : SecDecode :=
  if e.length ≤ 2 then (if e.isEmpty then .unseen else .correct e)
  else if e.length ≤ 4 then .report
  else if sameSynd e [] then .unseen
  else
    match (secGuesses e).find? (sameSynd e) with
    | some f => .correct f
    | none => .report

/-- The data bytes of a sector with a pattern's data symbols changed. -/
def symApply (e : SymErrs) (data : List Byte) : List Byte :=
  data.zipIdx.map (fun p => (e.filter (fun x => x.1 == p.2)).foldl (fun v x => v ^^^ BitVec.ofNat 8 x.2) p.1)

end Sys2Proof.Machine
end

