-- ==== Sys2Proof/Machine/Sparse.lean ====
section
/-! DEFINITION. Sparse tables in one canonical form: pairs of key and value, keys strictly rising, no value equal to what an unlisted key reads as. Memory and every large table of the device is held so. -/

namespace Sys2Proof

/-- A table from keys to values; a key that is not listed reads as the default the caller names. -/
abbrev Sparse (α : Type) := List (Nat × α)

variable {α : Type}

/-- The value at key `k`, with `d k` for an unlisted key. -/
def Sparse.get (d : Nat → α) (m : Sparse α) (k : Nat) : α :=
  match m with
  | [] => d k
  | (j, v) :: r => if j = k then v else Sparse.get d r k

/-- Puts `v` at key `k` of a table in canonical form; the default removes the entry. -/
def Sparse.set [DecidableEq α] (d : Nat → α) (m : Sparse α) (k : Nat) (v : α) : Sparse α :=
  match m with
  | [] => if v = d k then [] else [(k, v)]
  | (j, w) :: r =>
    if j < k then (j, w) :: Sparse.set d r k v
    else if j = k then (if v = d k then r else (k, v) :: r)
    else if v = d k then (j, w) :: r
    else (k, v) :: (j, w) :: r

/-- Writes a run of values from key `k` upward. -/
def Sparse.setList [DecidableEq α] (d : Nat → α) (m : Sparse α) (k : Nat) : List α → Sparse α
  | [] => m
  | v :: vs => Sparse.setList d (Sparse.set d m k v) (k + 1) vs

/-- The values at `n` keys from `k` upward. -/
def Sparse.getList (d : Nat → α) (m : Sparse α) (k : Nat) : Nat → List α
  | 0 => []
  | n + 1 => Sparse.get d m k :: Sparse.getList d m (k + 1) n

/-- Removes every key that `p` holds of, so that it reads as the default again. -/
def Sparse.erase (m : Sparse α) (p : Nat → Bool) : Sparse α :=
  m.filter (fun e => !p e.1)

/-- The table of `n` values `f 0` … `f (n-1)` at keys `k` upward. -/
def Sparse.tab [DecidableEq α] (d : Nat → α) (f : Nat → α) (k : Nat) : Nat → Sparse α
  | 0 => []
  | n + 1 => if f k = d k then Sparse.tab d f (k + 1) n else (k, f k) :: Sparse.tab d f (k + 1) n

/-- Every key is above `b`, keys rise strictly and no value is the default of its key. -/
def Sparse.wfFrom [DecidableEq α] (d : Nat → α) (b : Nat) : Sparse α → Bool
  | [] => true
  | (j, v) :: r => decide (b ≤ j) && !decide (v = d j) && Sparse.wfFrom d (j + 1) r

/-- The canonical form. -/
def Sparse.wf [DecidableEq α] (d : Nat → α) (m : Sparse α) : Bool := Sparse.wfFrom d 0 m

end Sys2Proof
end

