-- ==== Sys2Proof/Machine/State.lean ====
section
/-! DEFINITION. The state of the SZ9612 as plain data, every piece the spec names, and `State.reset`, the part right after the release of power-on reset. -/

namespace Sys2Proof.Machine

/-! ### Streams and control core (R178 to R208) -/

/-- STATE of STREAM_STAT (R204). -/
inductive StStat where
  | idle | run | wait | parked | halted
  deriving DecidableEq, Repr

/-- Wait cause codes (R198). -/
inductive Cause where
  | flagL | flagG | flagLink | dqEmpty | dqFull | tile | vec | ntt | tdOpen | keyEmpty | hop | pool | beat | park | other
  deriving DecidableEq, Repr

/-- A wait of a stream: its cause, its timer in expected beat positions (R199), the waiting command and the value its end
is compared with (a target beat or global-flag target). -/
structure Wait where
  cause : Cause
  timer : Nat
  limit : Nat
  cmd : Instr
  target : W32
  deriving DecidableEq, Repr

/-- The timer of a unit whose oldest instruction cannot start, and the timeout in force when that wait began (R198,
R199). (DEDUCED, log 26) -/
structure UWait where
  timer : Nat
  limit : Nat
  deriving DecidableEq, Repr

/-- One open hardware loop level (R184). -/
structure LoopLvl where
  start : BitVec 15
  last : BitVec 15
  left : Nat
  idx : Nat
  deriving DecidableEq, Repr

/-- What a refresh insertion saves (R186, R225): loop stack, counters, comparators, the PC to return to with the TS.HOP
that waits there, and where the call depth stood. -/
structure HiddenFrame where
  loops : List LoopLvl
  ctr : Vector W32 16
  cmp : BitVec 8
  depth : Nat
  ret : BitVec 15
  hop : Instr
  deriving DecidableEq, Repr

/-- One instruction stream (R178). -/
structure Stream where
  imem : Sparse (BitVec 64)
  dmem : Sparse W32
  pc : BitVec 15
  ctr : Vector W32 16
  cmp : BitVec 8
  loops : List LoopLvl
  calls : List (BitVec 15)
  status : StStat
  fault : Byte
  fpc : BitVec 15
  /-- while the cy in which the stream halted lasts: the age of the instruction whose fault it shows (R428) -/
  haltAge : Option Nat
  /-- the stream's WAIT_TIMEOUT of this cy has been raised, or gives way to DLK (R201, R428) -/
  timedOut : Bool
  wait : Option Wait
  stall : Vector Nat 15
  frame : Option HiddenFrame
  /-- counters whose result is still under way (interlock of R171, R210, R151, R78) -/
  busy : BitVec 16
  /-- work pools this stream used since each last left IDLE (R211) -/
  pools : List (Fin 64)
  /-- handed-out indices of TS.TAKE under way: counter, index, pool and the pool's arming (R210) -/
  takes : List (Ctr × W32 × Fin 64 × Nat)
  /-- an instruction has issued since the last sample of the test multiplexers (R450) -/
  strobe : Bool
  deriving DecidableEq, Repr

/-- One entry of a data queue: its reservation ticket and its 64 bytes once they are present (R192). -/
structure DqEntry where
  ticket : Nat
  data : Option (List Byte)
  deriving DecidableEq, Repr

/-! ### Descriptors and transfers (R256 to R276) -/

/-- A tensor descriptor with its origin and ring position (R256, R261, R271). -/
structure Desc where
  kind : Nat
  etype : Nat
  red : Bool
  form : Bool
  sbay : Nat
  alloc : Nat
  base : Nat
  q : Nat
  gal : Nat
  size : Vector Nat 4
  stride : Vector Int 4
  origin : Nat
  pos : Nat
  deriving DecidableEq, Repr

/-- A transfer with its captured descriptors (R215, R264). -/
inductive XOp where
  | mov (src dst : Desc)
  | movq (src : Desc) (q : Fin 8) (ticket count : Nat)
  | gath (di src dst : Desc)
  | scat (acc : Bool) (di src dst : Desc)
  | ring (ix : Dix) (d : Desc)
  deriving DecidableEq, Repr

/-- A queued or active transfer; `run` is the ring run whose record started it. -/
structure XEntry where
  op : XOp
  fd : Option LFlag
  run : Option Nat
  pc : BitVec 15
  wl : Option UWait
  deriving DecidableEq, Repr

/-- A ring run whose records are not all started (R272): its number, its ring with the position it began at, records
fetched and not started, and how many were fetched and started. -/
structure RingRun where
  no : Nat
  ix : Dix
  d : Desc
  buf : List (List Byte)
  fetched : Nat
  started : Nat
  deriving DecidableEq, Repr

/-- A ring run whose records have not all completed: its number, its flag and the records still to complete (R272). -/
structure RingDone where
  no : Nat
  fd : Option LFlag
  left : Nat
  deriving DecidableEq, Repr

/-- The layout and transfer engine of a bay (R264 to R276). -/
structure Xfer where
  queue : List XEntry
  active : List XEntry
  ring : Option RingRun
  runs : List RingDone
  runNo : Nat
  halt : Bool
  hcode : Byte
  causes : Vector Nat 7
  rd : Nat
  wr : Nat
  nulls : Nat
  records : Nat
  deriving DecidableEq, Repr

/-! ### Tiles (R62 to R89) -/

/-- A prime record (R81). -/
structure PrimeRec where
  q : BitVec 32
  mlen : BitVec 5
  mu : BitVec 64
  deriving DecidableEq, Repr

/-- The reset record, for 2^31 - 1 (R81). -/
def PrimeRec.reset : PrimeRec := { q := 0x7FFFFFFF#32, mlen := 31#5, mu := 0x0400000008000000#64 }

/-- State of a stationary buffer (R69). -/
inductive BufSt where
  | empty | loading | loaded | partLoaded
  deriving DecidableEq, Repr

/-- State of an output bank (R74). -/
inductive BankSt where
  | empty | filling | held | draining
  deriving DecidableEq, Repr

/-- A stationary buffer: word of cell (k, c) at key 256 k + c (R62). -/
structure SBuf where
  st : BufSt
  words : Sparse W32
  deriving DecidableEq, Repr

/-- An output bank: entry (r, c) at key 256 r + c, overflow bit and block count (R62, R75, R76). -/
structure OBank where
  st : BankSt
  ovf : Bool
  cnt : Nat
  ent : Sparse (BitVec 96)
  deriving DecidableEq, Repr

/-- ST_ROW (R71). -/
structure StRow where
  pend : Bool
  err : Bool
  buf : Bool
  row : Nat
  desc : BitVec 16
  deriving DecidableEq, Repr

/-- A queued tile instruction with its captured descriptors (R68, R215). -/
inductive TileOp where
  | ldp (e m : Nat) (d : Desc)
  | lds (buf resume tide : Bool) (n : Nat) (d : Option Desc) (dix : BitVec 16)
  | mul (mask : BitVec 8) (buf ob acc : Bool) (n : Nat) (d : Desc)
  | drain (ob : Bool) (fd fo : LFlag) (n : Nat) (d : Desc)
  | clr (ob : Bool)
  | stat (r : TileReg) (cn : Ctr)
  deriving DecidableEq, Repr

/-- A tile-queue entry: the instruction, its PC, whether it issued quenched and inside a bracket (R53, R98). -/
structure TileEnt where
  op : TileOp
  seq : Nat
  pc : BitVec 15
  quench : Bool
  inBr : Bool
  wl : Option UWait
  deriving DecidableEq, Repr

/-- A stationary load in progress (R69, R107). -/
structure LoadRun where
  buf : Bool
  tide : Bool
  next : Nat
  n : Nat
  d : Option Desc
  dix : BitVec 16
  seq : Nat
  pc : BitVec 15
  quench : Bool
  inBr : Bool
  wl : Option UWait
  /-- the stream whose row the load took last -/
  fed : Option Nat
  deriving DecidableEq, Repr

/-- A multiplication in flight with the rows it streamed (R64, R78). (DEDUCED, log 37) -/
structure MulRun where
  buf : Bool
  ob : Bool
  acc : Bool
  rows : List (List W32)
  seq : Nat
  pc : BitVec 15
  quench : Bool
  deriving DecidableEq, Repr

/-- A drain in progress (R75). -/
structure DrainRun where
  ob : Bool
  fd : LFlag
  fo : LFlag
  n : Nat
  d : Desc
  seq : Nat
  pc : BitVec 15
  quench : Bool
  deriving DecidableEq, Repr

/-- One logical tile (R62). -/
structure Tile where
  cfg : W32
  cpt : Sparse PrimeRec
  s0 : SBuf
  s1 : SBuf
  ob0 : OBank
  ob1 : OBank
  stRow : StRow
  queue : List TileEnt
  load : Option LoadRun
  muls : List MulRun
  drain : Option DrainRun
  haltLoad : Bool
  haltWest : Bool
  /-- the stream that fed a Tide-fed load stopped by a park, while no row was delivered since (R107, R208) -/
  tideKept : Option Nat
  /-- a load that a park stopped and the resume restarts (R207, R208) -/
  stopped : Option LoadRun
  deriving DecidableEq, Repr

/-! ### Vector engine (R141 to R159) -/

/-- Element-wise integer operations (R146, R147). -/
inductive VAlu where
  | add | sub | mull | mulh | mulhu | and | or | xor | shl | shr | sra | min | max | minu | maxu
  deriving DecidableEq, Repr

/-- Element-wise F32 operations (R145). -/
inductive VFalu where
  | fadd | fsub | fmul | fmin | fmax
  deriving DecidableEq, Repr

/-- Two-operand modular operations (R148). -/
inductive VMod where
  | madd | msub | mmul | mmac
  deriving DecidableEq, Repr

/-- Operand B after issue: a register, or the counter's value read at issue (R146, R215). -/
inductive VB where
  | reg (v : VReg)
  | val (w : W32)
  deriving DecidableEq, Repr

/-- The scratchpad write-back of a VE.KMAC with its captured descriptors. -/
structure KWb where
  fd : LFlag
  db : Desc
  da : Desc
  deriving DecidableEq, Repr

/-- A queued vector instruction with its captured counters and descriptors (R146, R215). -/
inductive VecOp where
  | alu (op : VAlu) (vd va : VReg) (o : VB) (pg : PReg)
  | sel (vd va : VReg) (o : VB) (ps pg : PReg)
  | iota (vd : VReg) (base : W32) (pg : PReg)
  | cmp (pd : PReg) (r : Rel) (va : VReg) (o : VB) (pg : PReg)
  | fcmp (pd : PReg) (r : FRel) (va : VReg) (o : VB) (pg : PReg)
  | plog (op : KOp) (pd pa pb pg : PReg)
  | pnot (pd pa pg : PReg)
  | falu (op : VFalu) (vd va : VReg) (o : VB) (pg : PReg)
  | fma (vd va : VReg) (o : VB) (vc : VReg) (pg : PReg)
  | cvt (vd va : VReg) (toInt : Bool) (pg : PReg)
  | modb (op : VMod) (vd va : VReg) (o : VB) (v : Fin 64) (pg : PReg)
  | mneg (vd va : VReg) (v : Fin 64) (pg : PReg)
  | mred (vd va : VReg) (v : Fin 64) (pg : PReg)
  | mlift (vd va : VReg) (v s : Fin 64) (pg : PReg)
  | kmac (r : Nat) (init : Bool) (dx : Desc) (wb : Option KWb)
  | lrot (vd va : VReg) (k : W32) (pg : PReg)
  | perm (vd va vb : VReg) (pg : PReg)
  | sf (f : SfFunc) (vd va : VReg) (m : Nat) (c : W32) (pg : PReg)
  | ld (vd : VReg) (fmt : VFmt) (d : Desc) (pg : PReg)
  | st (va : VReg) (fmt : VFmt) (d : Desc) (pg : PReg)
  | ldq (vd : VReg) (q : Fin 8) (m : Nat) (pg : PReg)
  | gsign (pd : PReg) (g k0 : W32) (logn : Nat) (pg : PReg)
  | sum (cn : Ctr) (kind : SumKind) (fn : LFlag) (pg : PReg)
  | ldp (e m : Nat) (d : Desc)
  | stat (cn : Ctr)
  deriving DecidableEq, Repr

/-- A vector-queue entry (R154). -/
structure VecEnt where
  op : VecOp
  seq : Nat
  pc : BitVec 15
  quench : Bool
  inBr : Bool
  wl : Option UWait
  deriving DecidableEq, Repr

/-- A delivered key row with its residue index (R105). -/
structure KeyRow where
  j : Nat
  words : List W32
  deriving DecidableEq, Repr

/-- A KMAC write-back or summary under way (R149, R151). -/
structure KmacPend where
  wb : KWb
  b : List W32
  a : List W32
  deriving DecidableEq, Repr

structure SumPend where
  cn : Ctr
  fn : LFlag
  val : W32
  deriving DecidableEq, Repr

/-- The vector engine of a bay (R141). VPT entry e at key e; KA word i of row r at key 512 r + i, ACB first. -/
structure Vec where
  vregs : Vector (Sparse W32) 32
  preds : Vector (BitVec 512) 8
  vpt : Sparse PrimeRec
  ka : Sparse W32
  ovf : Bool
  halt : Bool
  lastJ : BitVec 6
  queue : List VecEnt
  rowsIn : List KeyRow
  kmacs : List KmacPend
  sums : List SumPend
  deriving DecidableEq, Repr

/-! ### Ring NTT unit and tables (R127 to R140) -/

/-- A queued NT. instruction (R128). -/
inductive NtOp where
  | cfg (imm : W32)
  | ldp (d : Desc)
  | fwd (fd : LFlag) (src dst : Desc)
  | inv (fd : LFlag) (src dst : Desc)
  | tv (ac : Bool) (slot : Option (Bool × Fin 16)) (b : W32) (refresh : Bool)
  | step (ac : Bool) (fd : LFlag) (e : W32) (dst : Desc)
  | acc (ac : Bool) (fd : LFlag) (src : Desc)
  | out (ac : Bool) (fd : LFlag) (dst : Desc)
  deriving DecidableEq, Repr

structure NtEnt where
  op : NtOp
  seq : Nat
  pc : BitVec 15
  quench : Bool
  wl : Option UWait
  deriving DecidableEq, Repr

/-- The ring NTT unit: word k of component c of accumulator n at key 4096 (2 n + c) + k (R127). -/
structure Nt where
  cfg : W32
  prime : PrimeRec
  acc : Sparse W32
  queue : List NtEnt
  run : Option NtEnt
  halt : Bool
  deriving DecidableEq, Repr

structure TblLoad where
  bank : Bool
  slot : Fin 16
  fd : LFlag
  d : Desc
  seq : Nat
  pc : BitVec 15
  deriving DecidableEq, Repr

/-- The table banks: entry m of slot s of bank k at key 16384 k + 1024 s + m (R136, R138). -/
structure Tbl where
  ent : Sparse (BitVec 16)
  act : Bool
  pend : Bool
  ref : Bool
  loads : List TblLoad
  halt : Bool
  deriving DecidableEq, Repr

/-! ### Tide (R90 to R109) -/

/-- What a stream captures when it opens (R97). -/
structure TideCap where
  fprint : BitVec 64
  seed : List Byte
  primes : List Nat
  cls : BitVec 2
  logn : Nat
  l : Nat
  k : Nat
  d : Nat
  kind : Nat
  dx : Nat
  gal : Nat
  kpg : Nat
  kidx : W32
  deriving DecidableEq, Repr

/-- A key stream (R97 to R105). `cap` is none for a stream that is void or not open; `nset` its stream set in its
bracket; `rows` the key rows delivered; `segs` segments started; `fills` fills started. -/
structure TStream where
  sid : Nat
  ctx : Fin 16384
  eidx : Nat
  cg : W32
  level : Nat
  start : Option W32
  next : Bool
  opened : Bool
  cap : Option TideCap
  bound : Bool
  nset : Nat
  chk : Option Byte
  zero : Bool
  allowed : Bool
  refs : Bool
  rows : Nat
  segs : Nat
  fills : Nat
  deriving DecidableEq, Repr

/-- A segment being regenerated or complete: its stream, number in delivery order and words once complete (R93, R95). -/
structure Seg where
  sid : Nat
  num : Nat
  core : Fin 36
  words : Option (List W32)
  deriving DecidableEq, Repr

/-- State of a key-buffer half (R104). -/
inductive HalfSt where
  | free | filling | full | halted
  deriving DecidableEq, Repr

/-- A half of the key buffer: its state, the stream and fill it holds, and the rows of the fill present (R104). -/
structure Half where
  st : HalfSt
  sid : Nat
  fill : Nat
  rows : Nat
  deriving DecidableEq, Repr

structure Tide where
  streams : List TStream
  segs : List Seg
  kh0 : Half
  kh1 : Half
  nextHalf : Bool
  chk : Byte
  halt : Bool
  nextSid : Nat
  /-- streams bound to the bracket open in this bay so far (R98) -/
  nbound : Nat
  /-- the bracket open in this bay is bound to a stream the halted channel delivers as zeros (R108) -/
  spoiled : Bool
  deriving DecidableEq, Repr

/-! ### Scratchpad protection, parks, the bay -/

/-- A waiting page repair: the page, its words already reported uncorrectable, and whether the scrubber asked for it (R248,
R252). -/
structure Repair where
  page : Nat
  words : List Nat
  scrub : Bool
  /-- no access of the program waits for it, only one of MEMACC (R447) -/
  quiet : Bool
  deriving DecidableEq, Repr

/-- Protection of a bay's on-die memories (R242 to R254). Words are numbered through the scratchpad and then the key
buffer: `bad` the known-bad ones; `silent` those that read, unreported, as another value than they were written with, beside
what was written; `par` the parity lines by page. `wbs` are corrected units whose write-back waits and `smallBad`
uncorrectable bytes of the byte-coded memories, each as Id and offset under R453. -/
structure Prot where
  bad : List Nat
  silent : List (Nat × BitVec 64)
  par : Sparse ParLine
  wbs : List (Nat × Nat)
  smallBad : List (Nat × Nat)
  repairs : List Repair
  repairing : Option Repair
  scrubPos : Nat
  lapStart : Nat
  lapLen : Option Nat
  laps : Nat
  waits : Vector Nat 10
  aged : Nat
  repairWaits : Nat
  deriving DecidableEq, Repr

/-- One bay (R24, R178). -/
structure Bays where
  a : Stream
  x : Stream
  flags : BitVec 64
  /-- flags a summary is about to write (R151) -/
  flagBusy : BitVec 64
  dq : Vector (List DqEntry) 8
  tickets : Nat
  /-- instructions the X-stream has issued to units, which orders key consumers (R106) -/
  issued : Nat
  desc : Sparse (Option Desc)
  /-- the routine table: class and entry PC of each refresh routine (R230) -/
  routines : List (Nat × BitVec 15)
  tiles : Vector Tile 8
  vec : Vec
  nt : Nt
  tbl : Tbl
  tide : Tide
  /-- the Tide key buffer: stored words as they arrived, KH0 at keys 0 to 1,048,575 and KH1 above (R90, R104) -/
  keyBuf : Sparse W32
  xf : Xfer
  prot : Prot
  parkPend : Bool
  parked : Bool
  npc : Nat
  moved : Bool
  phase : Nat
  /-- the source the bay's fabric port granted last (R33) -/
  grant : Bay
  deriving DecidableEq, Repr

/-! ### Contexts, headers and brackets (R38 to R61, R222 to R225) -/

inductive CtxSt where
  | empty | loading | ready | retiring
  deriving DecidableEq, Repr

/-- A context table entry (R47). -/
structure CtxEntry where
  /-- the version byte (R15) -/
  ver : Byte
  st : CtxSt
  cls : BitVec 2
  pol : BitVec 2
  rkeys : Bool
  logn : Nat
  l : Nat
  k : Nat
  d : Nat
  tlog : Nat
  glog : Nat
  scale0 : Nat
  fprint : BitVec 64
  refs : Nat
  dcount : Nat
  dirAddr : Nat
  cost : Vector Nat 16
  seed : List Byte
  /-- its RSVD bits, each at its place in the 2,048 (R14) -/
  rsvd : Nat
  deriving DecidableEq, Repr

/-- A ciphertext header's fields (R39); `rsvd` is the value of its RSVD bits taken together. -/
structure Hdr where
  magic : BitVec 16
  ver : Byte
  cls : BitVec 2
  ctx : BitVec 14
  budget : BitVec 16
  fprint : BitVec 64
  level : Byte
  scale : Byte
  slots : BitVec 24
  invalid : Bool
  spent : Bool
  nttf : Bool
  cause : Byte
  limbPg : BitVec 25
  comp : BitVec 2
  rsvd : Nat
  deriving DecidableEq, Repr

inductive Verdict where
  | run | malformed | poison | mismatch | spent
  deriving DecidableEq, Repr

/-- One bay's TS.HOP with its resolved header addresses (R222, R223). -/
structure HopIssue where
  bay : Bay
  kind : Nat
  s1 : Nat
  s2 : Option Nat
  dst : Nat
  x : W32
  deriving DecidableEq, Repr

/-- A refresh insertion under way (R61): headers still to refresh, and the bays whose routine has not returned. -/
structure Insertion where
  todo : List Nat
  cur : Nat
  back : BayMask
  deriving DecidableEq, Repr

/-- The part of a bracket that an operation fills in when it opens: its verdict and the header to be written. -/
structure OpenOp where
  kind : Nat
  s1 : Nat
  s2 : Option Nat
  dst : Nat
  x : W32
  verdict : Verdict
  /-- destination header as R56, R120 or R54 derive it, NTTF and declared fields still open -/
  out : Hdr
  /-- the fields R54 gives the destination where a running bracket is marked later -/
  clamped : Hdr
  /-- source 1 as read when the bracket opened, and source 2 (R52) -/
  src : Hdr
  src2 : Option Hdr
  /-- contexts whose REFS rose (R51, R120) -/
  refs : List (Fin 16384)
  /-- the destination header was uncorrectable and is not written (R54) -/
  dstBad : Bool
  /-- the mark put on a running bracket (R108, R203, R435) -/
  mark : Option Byte
  /-- fault 0x39 has been counted for the bracket (R435) -/
  r39 : Bool
  ended : BayMask
  nf : List NForm
  hout : List (Bay × Byte × Byte)
  /-- OD 0x2120:01 as latched at TS.HOP (R102) -/
  haltOn : Bool
  /-- the verdict was RUN when the bracket's TS.HOP retired (R103) -/
  hopRun : Bool
  /-- the threshold in force at the TS.HOP (R59) -/
  thresh : Nat
  /-- the checks recorded so far: bay, stream set, code (R99, R100) -/
  checks : List (Bay × Nat × Byte)
  /-- stream sets whose checks were combined (R100) -/
  setsDone : List Nat
  /-- bays whose TS.HEND has retired, with its PC (R102) -/
  hends : List (Bay × BitVec 15 × Nat)
  deriving DecidableEq, Repr

/-- A bracket of a bay mask: formation, then its open operation; an inserted refresh runs in front of `op`. -/
structure Bracket where
  mask : BayMask
  issues : List HopIssue
  op : Option OpenOp
  ins : Option Insertion
  /-- the refresh operation the insertion runs (R225) -/
  insOp : Option OpenOp
  /-- headers the inserted refreshes wrote, by address (R61) -/
  wrote : List (Nat × Hdr)
  locks : List Nat
  deriving DecidableEq, Repr

/-- The header unit, contexts and global flags (R47 to R61, R189). -/
structure Header where
  ctx : Sparse CtxEntry
  brackets : List Bracket
  gflags : Sparse (BitVec 16)
  sel : Nat
  ppb : List Byte
  cost : List Byte
  dir : Nat
  pol : BitVec 2
  status : Byte
  installing : Option (Fin 16384)
  cSpent : Nat
  cInserted : Nat
  cPoison : Nat
  cMismatch : Nat
  moved : Bool
  deriving DecidableEq, Repr

/-! ### Pools, statistics -/

/-- A work pool (R209, R210); `arming` counts its armings, which tells an index under way which of them it is from. -/
structure Pool where
  armed : Bool
  arming : Nat
  decls : List (Bay × Strm × Nat × BayMask)
  count : Nat
  mask : BayMask
  bal : Bool
  next : Nat
  taken : Vector Nat 12
  done : BayMask
  deriving DecidableEq, Repr

/-- A scale slot (R171 to R173); history oldest first. -/
structure ScaleSlot where
  e5m2 : Bool
  margin : Nat
  hist : List W32
  p : W32
  backoff : Nat
  clean : Nat
  deriving DecidableEq, Repr

/-- A ratio slot (R175). -/
structure RatioSlot where
  pairs : Vector (Option (W32 × W32)) 12
  last : W32
  largest : W32
  commits : Nat
  deriving DecidableEq, Repr

/-- A statistics instruction between issue and application (R171). -/
inductive StatOp where
  | scfg (slot : Nat) (c : W32)
  | amax (slot : Nat) (v : W32) (cmt ovf : Bool)
  | scale (slot : Nat) (cd : Ctr)
  | uwr (slot : Nat) (u w : W32) (cmt : Bool)
  | ustat (slot : Nat) (cd : Ctr)
  deriving DecidableEq, Repr

structure Stats where
  scale : Sparse ScaleSlot
  ratio : Sparse RatioSlot
  queue : List (Bay × StatOp)
  results : List (Bay × Ctr × W32)
  skips : Nat
  deriving DecidableEq, Repr

/-! ### Stacks (R278 to R300) -/

/-- A tracked request at a memory controller (R289), and what a read found when it was served: its bytes, none where the
sector was uncorrectable (R290). -/
structure MemReq where
  req : Nat
  src : Bay
  addr : Nat
  len : Nat
  data : Option (List Byte)
  served : Bool
  got : Option (List Byte)
  age : Nat
  deriving DecidableEq, Repr

/-- A stack and its controller. Open row of bank b of pseudo-channel c at key 32 c + b, as row + 1; row counters and
patrol rows likewise. -/
structure Stack where
  reqs : List MemReq
  /-- requests that found no entry free and wait for one, in the order sent (R289) -/
  blocked : List MemReq
  openRow : Sparse Nat
  rowCtr : Sparse Nat
  hot : Bool
  /-- entries into hot refresh (true) and exits from it that wait for their position, oldest first (R293) -/
  hotDue : List Bool
  temp : Int
  cap : Nat
  /-- the cap as the last edge leaves it: where it differs from `cap` the move is due (R297) -/
  capDue : Nat
  capSince : Nat
  actLimit : Bool
  hotBt : Nat
  wbq : List (Nat × Nat)
  patrol : Sparse Nat
  lapStart : Sparse Nat
  lapLen : Sparse Nat
  laps : Sparse Nat
  refreshedAt : Option Nat
  /-- position of a pseudo-channel's last scrub opportunity, plus 1 (R294) -/
  scrubAt : Sparse Nat
  /-- position of the last temperature read (R296) -/
  readAt : Option Nat
  rowHits : Nat
  activates : Nat
  noEntry : Nat
  rdBytes : Nat
  wrBytes : Nat
  missed : Nat
  deriving DecidableEq, Repr

/-- Device memory state beside its bytes (R247, R255, R282, R287, R300); `dieBad` are uncorrectable bytes of the die-wide
memories, as Id and offset under R453. -/
structure MemSt where
  badSectors : List Nat
  dieBad : List (Nat × Nat)
  bands : BitVec 128
  zeroing : List Nat
  stackInit : Bool
  spadInit : Bool
  deriving DecidableEq, Repr

/-- Code and stack counters and controls (R254, R299). `spadNow` and `keyNow` are the strengths the parity lines carry, which
follow OD 0x4010:01 and :02 when re-encoding ends (R250). -/
structure Codes where
  spadP : Nat
  keyP : Nat
  spadNow : Nat
  keyNow : Nat
  reenc : Option Bool
  scrubOn : Bool
  patrolOn : Bool
  spadCorr : Nat
  spadPages : Nat
  spadUe : Nat
  keyCorr : Nat
  keyPages : Nat
  keyUe : Nat
  byteCorr : Nat
  byteUe : Nat
  wordCorr : Nat
  wordUe : Nat
  lastUe : BitVec 64
  scrubUe : Nat
  secCorr : Nat
  secUe : Nat
  wbDropped : Nat
  partDropped : Nat
  lastSecUe : BitVec 64
  deriving DecidableEq, Repr

/-! ### Beat time base, runs, recording (R301 to R328) -/

inductive BeatSt where
  | acquire | locking | locked | hold | lost | free
  deriving DecidableEq, Repr

/-- The beat time base (R301 to R311). -/
structure Beat where
  st : BeatSt
  beat : BitVec 48
  pos : Nat
  hpos : Nat
  missing : Nat
  /-- an accepted marker of the current position, with arrival - X (R304) -/
  accepted : Option Int
  /-- a marker has already arrived in the current window -/
  seen : Bool
  /-- a marker came since the last edge -/
  came : Bool
  /-- the number BEAT takes at the edge of a position the grid was moved to (R306, R308) -/
  jump : Option (BitVec 48)
  lastBnum : Option (BitVec 48)
  qual : Nat
  close : Nat
  /-- a RELOCK is in force (R309) -/
  acquiring : Bool
  from_ : BeatSt
  freePend : Bool
  inflight : List (BitVec 48)
  edgeNow : Bool
  autoRelock : Bool
  cAccepted : Nat
  cPos : Nat
  cNum : Nat
  cBridged : Nat
  cHold : Nat
  cRefused : Nat
  lastOff : Int
  /-- arrival - X of the last marker (R320) -/
  arrOff : Int
  /-- BNUM of the last accepted marker (R320) -/
  accNum : BitVec 48
  deriving DecidableEq, Repr

/-- OD 0x7020 (R314 to R322). -/
structure Run where
  isOpen : Bool
  time : Bool
  void : Bool
  replayable : Bool
  armBeat : BitVec 48
  closeBeat : BitVec 48
  throttles : Nat
  first : BitVec 64
  digest : BitVec 64
  barDigest : BitVec 64
  lastBar : BitVec 64
  barHdrs : Nat
  deriving DecidableEq, Repr

inductive ReplaySt where
  | off | armed | active | diverged | done
  deriving DecidableEq, Repr

/-- Recording and replay (R318 to R327). `script` holds the SEQ of the staged entries not yet consumed, `armAt` the stamp
at which the replay was armed; entries from `halfFrom` up to `halfTo` lie in the lower half of the ring; `live` are
recorded outcomes not yet compared. -/
structure Rec where
  on : Bool
  seq : Nat
  drain : Nat
  lost : Nat
  damaged : Nat
  replay : ReplaySt
  script : List Nat
  scriptNext : Option Nat
  armAt : Nat
  halfFrom : Nat
  halfTo : Nat
  divSeq : Nat
  divKind : Nat
  stopOn : Bool
  gated : List Frame
  live : List (List Byte)
  /-- the entries written in this cy, in their order, each with SEQ 0 (R318) -/
  cyEnt : List Nat
  deriving DecidableEq, Repr

/-! ### Link and sessions (R331 to R350) -/

/-- An outbound frame (R336): the key and IV base that protect it, taken as it is built, and once it is sent its bytes on
the line, which a resend repeats (R334, R338, R344); of a response, `ask` is the LSEQ of the request it answers. -/
structure OutFrame where
  cls : Byte
  opc : Byte
  sess : Byte
  lseq : Nat
  tid : BitVec 16
  addr : BitVec 48
  arg : BitVec 64
  payload : List Byte
  key : List Byte
  iv : List Byte
  wire : List Byte
  ask : Option Nat
  deriving DecidableEq, Repr

/-- A bulk read being answered (R348). -/
structure BulkRun where
  sess : Byte
  tid : BitVec 16
  addr : Nat
  left : Nat
  deriving DecidableEq, Repr

/-- A HELLO whose handshake the device computes: the role it asks for, its TID, its payload (R342). -/
structure Hello where
  role : Nat
  tid : BitVec 16
  bytes : List Byte
  deriving DecidableEq, Repr

/-- The place of an OD response among those still to leave, in the order their requests arrived: the LSEQ of its request, and
the response once it is known (R347). -/
structure RespSlot where
  slot : Slot
  lseq : Nat
  frame : Option OutFrame
  deriving DecidableEq, Repr

structure Link where
  /-- HELLOs whose handshake is not yet answered, oldest first (R342) -/
  hellos : List Hello
  lanes : BitVec 4
  downPos : Nat
  rxNext : Nat
  txNext : Nat
  nakSent : Bool
  rxUnacked : Nat
  /-- frames built and not yet sent, and frames sent and not acknowledged, oldest first -/
  out : List OutFrame
  unacked : List OutFrame
  linkOut : List OutFrame
  resps : List RespSlot
  resends : Nat
  sinceAck : Nat
  credits : Vector Nat 8
  creditsSent : Vector Nat 8
  held : List Frame
  reads : List BulkRun
  fecCorr : Nat
  fecUncorr : Nat
  cResent : Nat
  cDiscard : Nat
  cRefused : Vector Nat 6
  lastRefusal : BitVec 64
  cReinit : Nat
  cBadBeat : Nat
  deriving DecidableEq, Repr

inductive SessPh where
  | free | finish | opened
  deriving DecidableEq, Repr

/-- Attestation state of a session (R385). -/
structure Attest where
  status : Nat
  snapshot : List Byte
  report : List Byte
  deriving DecidableEq, Repr

/-- A session slot with its per-session selectors (R341, R355). -/
structure Session where
  ph : SessPh
  role : Nat
  tid : BitVec 16
  timer : Nat
  kn : List Byte
  kd : List Byte
  ivn : List Byte
  ivd : List Byte
  th : List Byte
  /-- its FINISH has been received (R342) -/
  finCame : Bool
  selFault : Byte
  selStall : Byte
  selBank : Byte
  selRatio : BitVec 16
  selScale : BitVec 16
  selXf : Byte
  selStack : Byte
  selJrn : Byte
  att : Attest
  deriving DecidableEq, Repr

/-! ### Object dictionary, loader -/

/-- An OD write that has passed the gate and is being applied; `mute` once its session has closed, so that its response is
dropped (R345, R356, R359). `lseq` is its frame's LSEQ, and `head` what a report it starts takes from the state at its stamp
(R385). -/
structure OdReq where
  slot : Slot
  mute : Bool
  role : Nat
  lseq : Nat
  tid : BitVec 16
  ix : BitVec 16
  sub : Byte
  value : List Byte
  head : List Byte
  deriving DecidableEq, Repr

/-- Values of RW entries that belong to no unit above (R205, R350, R366, R370, R374). -/
structure Od where
  cur : Option OdReq
  tideHalt : Bool
  waitTimeout : Nat
  balance : Bool
  budgetPolicy : Nat
  thresh : Nat
  assetTag : Option (List Byte)
  powerClass : Nat
  idleTimeout : Nat
  recordSink : Byte
  tmxSel : Nat
  tmxNow : Nat
  /-- slots whose session closes once its RESP has left (R389) -/
  closeAfter : List (Slot × Nat)
  deriving DecidableEq, Repr

/-- A stacked-memory region of a loaded image with its base (R228). -/
structure Region where
  id : Nat
  kind : Nat
  stack : Nat
  size : Nat
  base : Nat
  deriving DecidableEq, Repr

/-- A loaded image (R232, R235). -/
structure Image where
  bays : BayMask
  meas : List Byte
  regions : List Region
  hwBase : Nat
  hwCount : Nat
  deriving DecidableEq, Repr

/-- A launch waiting for its release beat (R196). -/
structure Launch where
  bays : BayMask
  beat : BitVec 48
  deriving DecidableEq, Repr

structure Loader where
  imgAddr : Nat
  bindAddr : Nat
  unloadMask : BayMask
  status : Byte
  detail : W32
  meas : List Byte
  loading : Bool
  /-- bays of the image a LOAD in progress is on (R433), and the addresses it was given (R232) -/
  loadMask : BayMask
  loadAddr : Nat
  loadBind : Nat
  busyShown : Bool
  images : List Image
  launchCode : Byte
  launches : List Launch
  deriving DecidableEq, Repr

/-- Fault counters and Gong (R371, R426, R430); `gongNow` where it was raised in this cy. -/
structure Faults where
  cnt : Sparse Nat
  last : Sparse (BitVec 64)
  gong : Byte
  gongNow : Bool
  deriving DecidableEq, Repr

/-- Resets requested and not yet in effect, the link-commanded one by the LSEQ of its write with that of a limited write that was
in progress meanwhile, and those whose edge has come (R433). -/
structure Resets where
  link : Option Nat
  after : Option Nat
  bays : BayMask
  linkDue : Bool
  baysDue : BayMask
  deriving DecidableEq, Repr

/-! ### Trust and boot -/

/-- The fuse array (R375); of the device certificate it holds the manufacturing signature, the other fields of R377 being the
array's own. -/
structure Fuses where
  variantD1 : Bool
  stepping : Byte
  serial : List Byte
  seed : List Byte
  certSig : List Byte
  relHash : List Byte
  devHash : List Byte
  map : BitVec 108
  ceilingW : Nat
  maxClass : Nat
  closedGroups : BitVec 16
  closed : Bool
  svn : Nat
  deriving DecidableEq, Repr

/-- A limited write in progress (R363); `pulse` once a pulse of its present phase, intent or COMMIT, has begun (R424). -/
structure Wlim where
  req : OdReq
  entry : Nat
  value : BitVec 256
  rcd : Nat
  intentDone : Bool
  pulse : Bool
  deriving DecidableEq, Repr

inductive Stage where
  | fuse | identity | service | verify | run
  deriving DecidableEq, Repr

structure Trust where
  fuses : Fuses
  journal : Sparse (BitVec 320)
  wlim : Option Wlim
  stage : Stage
  idKey : Bool
  mapNow : BitVec 108
  romVer : BitVec 16
  fwVer : W32
  fwSvn : Nat
  fwKeysel : Nat
  fwMeas : List Byte
  steward : List Byte
  stewardDown : Bool
  /-- what the last read of the firmware returned -/
  fwRead : List Byte
  deriving DecidableEq, Repr

/-! ### Big-number engine (R392 to R408) -/

inductive BnSt where
  | free | loaded | result | busy | aborted | refused
  deriving DecidableEq, Repr

structure BnSlot where
  st : BnSt
  len : Nat
  words : Sparse (BitVec 64)
  deriving DecidableEq, Repr

/-- A running operation: its code, operands, TRNG draw, the source states to restore, and an abort under way. -/
structure BnRun where
  op : Nat
  x : BnArgs
  trng : Nat
  former : List (Fin 64 × BnSt)
  abort : Option (Nat × Fin 64)
  deriving DecidableEq, Repr

structure Bn where
  slots : Vector BnSlot 64
  cerr : Nat
  lop : Nat
  out : Nat
  werr : Bool
  reason : W32
  run : Option BnRun
  deriving DecidableEq, Repr

/-! ### Power (R409 to R424) -/

inductive PwrSt where
  | off | ramp | run | fail
  deriving DecidableEq, Repr

/-- The thermal and power manager (R409 to R421). `settle` is the positions until a rail has settled, `raise` the
positions until a raised bay's clock switches with the THROTTLE code it will record (R414, R415), `target` the targets computed
at the last edge and `capMoved` the bays whose own stack's cap changes at it (R413, R415), `pause` the cy for which a bay's clock
still pauses after a switch (R414). `limitSet` is the operator's limit as the last edge found it (R417). -/
structure Power where
  st : PwrSt
  ramp : Nat
  refclk : Bool
  regsOn : Bool
  inputMv : Nat
  inputW : Nat
  brownout : Bool
  hist : Nat
  opcap : Vector Nat 12
  thermcap : Vector Nat 12
  pwrcap : Vector Nat 12
  step : Vector Nat 12
  settle : Vector Nat 12
  raise : Vector (Option (Nat × Nat)) 12
  target : Vector Nat 12
  pause : Vector Nat 12
  capMoved : BitVec 12
  quiet : Nat
  opLimit : Nat
  ceiling : Option Nat
  limitSet : Nat
  limit : Nat
  limitFull : Bool
  bayTemp : Vector Int 12
  uncoreTemp : Int
  bayMv : Vector Nat 12
  uncoreMv : Nat
  lowerSince : Vector Nat 12
  raiseSince : Vector Nat 12
  bayHot : Vector Nat 12
  uncoreHot : Nat
  pairOut : Sparse Nat
  over60 : Nat
  overCeil : Nat
  /-- positions the input has been at or above 40 V, up to 1,024 (R364) -/
  v40 : Nat
  /-- positions the input has been below 40 V since it last was not, up to 1,024 (R424) -/
  low : Nat
  psFault : BitVec 6
  thermN : Bool
  deriving DecidableEq, Repr

/-! ### Test access -/

inductive TapIr where
  | extest | sample | idcode | intscan | memacc | bypass
  deriving DecidableEq, Repr

/-- The TAP (R444 to R449): the code in the instruction register and what the register last captured, the level of TRST_N (true
while low), the boundary register as it last captured the contacts and as its cells hold a loaded value, the memory access
register, and whether INTSCAN has stopped the compute die. -/
structure Tap where
  ir : Byte
  irOut : Byte
  byp : Bool
  trstLow : Bool
  bnd : BitVec 21
  bndOut : BitVec 21
  maAddr : BitVec 48
  maCmd : Byte
  maSts : BitVec 2
  maData : BitVec 64
  cdStopped : Bool
  deriving DecidableEq, Repr

/-- The test multiplexers (R450): the last sample, the cy for which the pins still drive zeros after a change of group, the cy
since the last sample, the events since then (edge, bar edge, accepted marker, rejected marker, throttle event), each bay's cy
of its own clock modulo 256 and those of the core clock modulo 1280, and the draw that sets the phases of the divided clocks. -/
structure Tmx where
  out : BitVec 16
  hold : Nat
  phase : Nat
  ev : BitVec 5
  clk : Vector Nat 12
  core : Nat
  seed : Nat
  deriving DecidableEq, Repr

/-- Tide counters OD 0x6040 (R110). -/
structure TideCtr where
  bytes : Nat
  perms : Nat
  rejected : Nat
  keyWait : Nat
  dropped : Nat
  /-- cy in which a Tide request waited for a tracker entry (R289) -/
  readerStall : Nat
  deriving DecidableEq, Repr

/-- The block: every piece of state the spec gives it, the command queue, and the model's own tick and free-value counter. -/
structure State where
  pending : List Instr
  bays : Vector Bays 12
  mem : List Host.Cell
  ms : MemSt
  stk : Vector Stack 12
  hdr : Header
  pools : Sparse Pool
  stats : Stats
  codes : Codes
  tideCtr : TideCtr
  beat : Beat
  run : Run
  rcd : Rec
  link : Link
  sess : Vector Session 4
  od : Od
  ldr : Loader
  faults : Faults
  rst : Resets
  trust : Trust
  bn : Bn
  pwr : Power
  tap : Tap
  tmx : Tmx
  tick : Nat
  free : Nat
  deriving DecidableEq, Repr

/-- Why a step stops the block. -/
inductive Fault where
  /-- Raised by MEM_REQUEST_ARRIVE for an address that maps to no memory of that stack (R281). Safe: the block stops where the
  device has no such access. -/
  | noMemory (addr : Nat)
  deriving DecidableEq, Repr

/-- Why a command has no meaning. -/
inductive Refusal where
  /-- Raised by an arm of `exec` whose command has no meaning in this model yet. Safe: nothing happens. -/
  | notModelled (mnemonic : String)
  deriving DecidableEq, Repr

/-! ### Reset -/

/-- A stream at reset (R182, R204, R213). -/
def Stream.reset : Stream :=
  { imem := [], dmem := [], pc := 0#15, ctr := Vector.replicate 16 0#32, cmp := 0#8, loops := [], calls := [],
    status := .idle, fault := 0#8, fpc := 0#15, haltAge := none, timedOut := false, wait := none, stall := Vector.replicate 15 0, frame := none,
    busy := 0#16, pools := [], takes := [], strobe := false }

def SBuf.reset : SBuf := { st := .empty, words := [] }

def OBank.reset : OBank := { st := .empty, ovf := false, cnt := 0, ent := [] }

def StRow.reset : StRow := { pend := false, err := false, buf := false, row := 0, desc := 0#16 }

/-- A tile at reset (R89). -/
def Tile.reset : Tile :=
  { cfg := 0#32, cpt := [], s0 := SBuf.reset, s1 := SBuf.reset, ob0 := OBank.reset, ob1 := OBank.reset,
    stRow := StRow.reset, queue := [], load := none, muls := [], drain := none, haltLoad := false, haltWest := false,
    tideKept := none, stopped := none }

/-- The vector engine at reset (R158). -/
def Vec.reset : Vec :=
  { vregs := Vector.replicate 32 [], preds := Vector.replicate 8 0#512, vpt := [], ka := [], ovf := false,
    halt := false, lastJ := 0#6, queue := [], rowsIn := [], kmacs := [], sums := [] }

/-- The ring NTT unit at reset (R127, R130). (PRESUMED, log 9) -/
def Nt.reset : Nt :=
  { cfg := 0x0001100A#32, prime := PrimeRec.reset, acc := [], queue := [], run := none, halt := false }

/-- The table banks at reset (R136). -/
def Tbl.reset : Tbl := { ent := [], act := false, pend := false, ref := false, loads := [], halt := false }

def Half.reset : Half := { st := .free, sid := 0, fill := 0, rows := 0 }

/-- Tide at reset (R104, R109). -/
def Tide.reset : Tide :=
  { streams := [], segs := [], kh0 := Half.reset, kh1 := Half.reset, nextHalf := false, chk := 0#8, halt := false,
    nextSid := 0, nbound := 0, spoiled := false }

/-- The transfer engine at reset (R275, R276). -/
def Xfer.reset : Xfer :=
  { queue := [], active := [], ring := none, runs := [], runNo := 0, halt := false, hcode := 0#8, causes := Vector.replicate 7 0, rd := 0,
    wr := 0, nulls := 0, records := 0 }

def Prot.reset : Prot :=
  { bad := [], silent := [], par := [], wbs := [], smallBad := [], repairs := [], repairing := none, scrubPos := 0, lapStart := 0, lapLen := none, laps := 0,
    waits := Vector.replicate 10 0, aged := 0, repairWaits := 0 }

/-- A bay at reset (R434). (DEDUCED, log 70) -/
def Bays.reset : Bays :=
  { a := Stream.reset, x := Stream.reset, flags := 0#64, flagBusy := 0#64, dq := Vector.replicate 8 [], tickets := 0, issued := 0,
    desc := [], routines := [], tiles := Vector.replicate 8 Tile.reset, vec := Vec.reset, nt := Nt.reset, tbl := Tbl.reset,
    tide := Tide.reset, keyBuf := [], xf := Xfer.reset, prot := Prot.reset, parkPend := false, parked := false, npc := 0,
    moved := false, phase := 0, grant := 0 }

/-- An EMPTY context entry (R47). -/
def CtxEntry.reset : CtxEntry :=
  { ver := 1#8, st := .empty, cls := 0#2, pol := 0#2, rkeys := false, logn := 0, l := 0, k := 0, d := 0, tlog := 0, glog := 0,
    scale0 := 0, fprint := 0#64, refs := 0, dcount := 0, dirAddr := 0, cost := Vector.replicate 16 0,
    seed := List.replicate 32 0#8, rsvd := 0 }

/-- The header unit at reset (R48, R55). (DESIGN CHOICE, log 154) -/
def Header.reset : Header :=
  { ctx := [], brackets := [], gflags := [], sel := 0, ppb := List.replicate 336 0#8, cost := List.replicate 32 0#8,
    dir := 0, pol := 0#2, status := 0#8, installing := none, cSpent := 0, cInserted := 0, cPoison := 0,
    cMismatch := 0, moved := false }

/-- An IDLE work pool (R209). -/
def Pool.reset : Pool :=
  { armed := false, arming := 0, decls := [], count := 0, mask := 0#12, bal := false, next := 0, taken := Vector.replicate 12 0,
    done := 0#12 }

/-- A scale slot in its reset state (R177). -/
def ScaleSlot.reset : ScaleSlot := { e5m2 := false, margin := 1, hist := [], p := 0#32, backoff := 0, clean := 0 }

def RatioSlot.reset : RatioSlot :=
  { pairs := Vector.replicate 12 none, last := 0#32, largest := 0#32, commits := 0 }

def Stats.reset : Stats := { scale := [], ratio := [], queue := [], results := [], skips := 0 }

/-- A stack at reset (R299, R300). -/
def Stack.reset : Stack :=
  { reqs := [], blocked := [], openRow := [], rowCtr := [], hot := false, hotDue := [], temp := 0, cap := 15, capDue := 15, capSince := 0,
    actLimit := false,
    hotBt := 0, wbq := [], patrol := [], lapStart := [], lapLen := [], laps := [], refreshedAt := none, scrubAt := [],
    readAt := none, rowHits := 0,
    activates := 0, noEntry := 0, rdBytes := 0, wrBytes := 0, missed := 0 }

/-- Memory at the release of reset: initialisation is running (R255, R300). -/
def MemSt.reset : MemSt :=
  { badSectors := [], dieBad := [], bands := 0#128, zeroing := [], stackInit := true, spadInit := true }

def Codes.reset : Codes :=
  { spadP := 1, keyP := 1, spadNow := 1, keyNow := 1, reenc := none, scrubOn := true, patrolOn := true, spadCorr := 0,
    spadPages := 0, spadUe := 0, keyCorr := 0, keyPages := 0, keyUe := 0, byteCorr := 0, byteUe := 0, wordCorr := 0, wordUe := 0, lastUe := 0#64,
    scrubUe := 0, secCorr := 0, secUe := 0, wbDropped := 0, partDropped := 0, lastSecUe := 0#64 }

/-- The time base at power-on reset (R311). -/
def Beat.reset : Beat :=
  { st := .acquire, beat := 0#48, pos := 0, hpos := 0, missing := 0, accepted := none, seen := false, came := false, jump := none, lastBnum := none,
    qual := 0, close := 0, acquiring := false, from_ := .acquire, freePend := false, inflight := [], edgeNow := false,
    autoRelock := false, cAccepted := 0, cPos := 0, cNum := 0, cBridged := 0, cHold := 0, cRefused := 0, lastOff := 0,
    arrOff := 0, accNum := 0#48 }

def Run.reset : Run :=
  { isOpen := false, time := false, void := false, replayable := false, armBeat := 0#48, closeBeat := 0#48,
    throttles := 0, first := 0#64, digest := 0#64, barDigest := 0#64, lastBar := 0#64, barHdrs := 0 }

def Rec.reset : Rec :=
  { on := true, seq := 0, drain := 0, lost := 0, damaged := 0, replay := .off, script := [], scriptNext := none,
    armAt := 0, halfFrom := 0, halfTo := 0,
    divSeq := 0, divKind := 0, stopOn := true, gated := [], live := [], cyEnt := [] }

/-- Initial credit limits (R339). -/
def Link.credits0 : Vector Nat 8 := #v[32, 256, 16, 32, 64, 4, 0, 0]

/-- The link at reset (R331, R339, R350). -/
def Link.reset : Link :=
  { hellos := [], lanes := 0#4, downPos := 0, rxNext := 0, txNext := 0, nakSent := false, rxUnacked := 0, out := [], unacked := [],
    linkOut := [], resps := [], resends := 0, sinceAck := 0, credits := Link.credits0, creditsSent := Link.credits0, held := [],
    reads := [], fecCorr := 0, fecUncorr := 0, cResent := 0, cDiscard := 0, cRefused := Vector.replicate 6 0,
    lastRefusal := 0#64, cReinit := 0, cBadBeat := 0 }

/-- A free session slot with its selectors at their defaults (R341, R355). -/
def Session.reset : Session :=
  { ph := .free, role := 0, tid := 0#16, timer := 0, kn := [], kd := [], ivn := [], ivd := [], th := [], finCame := false,
    selFault := 0x21#8, selStall := 0#8, selBank := 0#8, selRatio := 0#16, selScale := 0#16, selXf := 0#8,
    selStack := 0#8, selJrn := 0#8, att := { status := 0, snapshot := [], report := [] } }

/-- RW entries at their defaults (R205, R350, R370, R374). -/
def Od.reset : Od :=
  { cur := none, tideHalt := false, waitTimeout := 16384, balance := false, budgetPolicy := 0, thresh := 0x40,
    assetTag := none, powerClass := 1, idleTimeout := 60000000, recordSink := 0xFF#8, tmxSel := 0, tmxNow := 0,
    closeAfter := [] }

def Loader.reset : Loader :=
  { imgAddr := 0, bindAddr := 0, unloadMask := 0#12, status := 0#8, detail := 0#32, meas := List.replicate 32 0#8,
    loading := false, loadMask := 0#12, loadAddr := 0, loadBind := 0, busyShown := false, images := [], launchCode := 0#8, launches := [] }

def Faults.reset : Faults := { cnt := [], last := [], gong := 0#8, gongNow := false }

/-- The fuse array of the part this model resets to: an SZ9612-L1. (DESIGN CHOICE, log 10) -/
def Fuses.reset : Fuses :=
  { variantD1 := false, stepping := 0#8, serial := List.replicate 16 0#8, seed := List.replicate 32 0#8,
    certSig := List.replicate 1280 0#8, relHash := List.replicate 32 0#8, devHash := List.replicate 32 0#8, map := 0#108,
    ceilingW := 3200, maxClass := 2, closedGroups := 0x000F#16, closed := true, svn := 0 }

/-- The security die at the release of power-on reset: boot stage 0 (R379). -/
def Trust.reset : Trust :=
  { fuses := Fuses.reset, journal := [], wlim := none, stage := .fuse, idKey := false, mapNow := 0#108, romVer := 1#16,
    fwVer := 0#32, fwSvn := 0, fwKeysel := 0xFF, fwMeas := List.replicate 32 0#8, steward := [], stewardDown := false, fwRead := [] }

def BnSlot.reset : BnSlot := { st := .free, len := 0, words := [] }

/-- The big-number engine at power-on reset (R392, R400, R405). -/
def Bn.reset : Bn :=
  { slots := Vector.replicate 64 BnSlot.reset, cerr := 0, lop := 0, out := 0, werr := false, reason := 0#32,
    run := none }

/-- The manager at the release of power-on reset (R411, R417, R418): no sensor sampled yet (R370), every bay at step 0.
(DEDUCED, log 19; DEDUCED, log 20) -/
def Power.reset : Power :=
  { st := .run, ramp := 5, refclk := true, regsOn := true, inputMv := 0, inputW := 0, brownout := false, hist := 0,
    opcap := Vector.replicate 12 15, thermcap := Vector.replicate 12 15, pwrcap := Vector.replicate 12 15,
    step := Vector.replicate 12 0, settle := Vector.replicate 12 0, raise := Vector.replicate 12 none,
    target := Vector.replicate 12 15, pause := Vector.replicate 12 0, capMoved := 0#12,
    quiet := 0, opLimit := 2800, ceiling := none, limitSet := 2800, limit := 2000, limitFull := false, bayTemp := Vector.replicate 12 0,
    uncoreTemp := 0, bayMv := Vector.replicate 12 0, uncoreMv := 0, lowerSince := Vector.replicate 12 0,
    raiseSince := Vector.replicate 12 0, bayHot := Vector.replicate 12 0, uncoreHot := 0, pairOut := [], over60 := 0,
    overCeil := 0, v40 := 1024, low := 0, psFault := 0#6, thermN := false }

def Tmx.reset : Tmx := { out := 0#16, hold := 0, phase := 0, ev := 0#5, clk := Vector.replicate 12 0, core := 0, seed := 0 }

/-- The TAP in Test-Logic-Reset (R444). (DESIGN CHOICE, log 11) -/
def Tap.reset : Tap :=
  { ir := 2#8, irOut := 1#8, byp := false, trstLow := false, bnd := 0#21, bndOut := 0#21, maAddr := 0#48, maCmd := 0#8, maSts := 0#2, maData := 0#64, cdStopped := false }

def TideCtr.reset : TideCtr := { bytes := 0, perms := 0, rejected := 0, keyWait := 0, dropped := 0, readerStall := 0 }

def Resets.reset : Resets := { link := none, after := none, bays := 0#12, linkDue := false, baysDue := 0#12 }

/-- The block right after the release of power-on reset (R411, R434). -/
def State.reset : State :=
  { pending := [], bays := Vector.replicate 12 Bays.reset, mem := [], ms := MemSt.reset,
    stk := Vector.replicate 12 Stack.reset, hdr := Header.reset, pools := [], stats := Stats.reset,
    codes := Codes.reset, tideCtr := TideCtr.reset, beat := Beat.reset, run := Run.reset, rcd := Rec.reset,
    link := Link.reset, sess := Vector.replicate 4 Session.reset, od := Od.reset, ldr := Loader.reset,
    faults := Faults.reset, rst := Resets.reset, trust := Trust.reset, bn := Bn.reset,
    pwr := Power.reset, tap := Tap.reset, tmx := Tmx.reset, tick := 0, free := 0 }

end Sys2Proof.Machine
end

