-- ==== Sys2Proof/Machine/Mem.lean ====
section
/-! DEFINITION. The device address space (R236, R281): reading and writing bytes, the words and sectors left uncorrectable (R247, R287), zeroing. -/

namespace Sys2Proof.Machine

/-- What an unlisted address reads as: reset writes zeros everywhere (R255, R300). (DEDUCED, log 60) -/
def memDefault : Nat → Byte := fun _ => 0#8

/-- One byte of a memory. -/
def Memory.rd (m : List Host.Cell) (a : Nat) : Byte := Sparse.get memDefault m a

/-- A memory with one byte written. -/
def Memory.wr (m : List Host.Cell) (a : Nat) (v : Byte) : List Host.Cell := Sparse.set memDefault m a v

/-- The canonical form of a memory: addresses strictly rising, no listed zero. -/
def Memory.wf (m : List Host.Cell) : Bool := Sparse.wf memDefault m

/-- Writes a run of bytes upward from `a`, leaving out the addresses `keep` refuses. -/
def Memory.wrRun (keep : Nat → Bool) (m : List Host.Cell) (a : Nat) : List Byte → List Host.Cell
  | [] => m
  | v :: vs => Memory.wrRun keep (if keep a then Memory.wr m a v else m) (a + 1) vs

/-- Zeroes the bytes from `lo` up to but not including `hi`. -/
def Memory.zero (m : List Host.Cell) (lo hi : Nat) : List Host.Cell :=
  Sparse.erase m (fun a => decide (lo ≤ a) && decide (a < hi))

/-- Size of a stack's window (R41). -/
def winSize : Nat := 0x2000000000

/-- First address above the stacks' twelve windows (R281). -/
def stackEnd : Nat := 12 * winSize

/-- Base of bay n's scratchpad window (R236). -/
def spadBase (n : Nat) : Nat := 0x200000000000 + n * 0x4000000

/-- Populated bytes of a scratchpad (R236). -/
def spadSize : Nat := 0x3000000

/-- The bay and offset of a populated scratchpad address. -/
def spadAt (a : Nat) : Option (Nat × Nat) :=
  if a < 0x200000000000 then none
  else
    let n := (a - 0x200000000000) / 0x4000000
    let o := (a - 0x200000000000) % 0x4000000
    if n < 12 ∧ o < spadSize then some (n, o) else none

/-- Line, bank, row, page and word of a scratchpad offset (R236). -/
def spadLine (o : Nat) : Nat := o / 64
def spadBank (o : Nat) : Nat := (spadLine o % 64) ^^^ (spadLine o / 64 % 64)
def spadRow (o : Nat) : Nat := spadLine o / 64
def spadPage (o : Nat) : Nat := o / 4096
def spadWord (o : Nat) : Nat := o / 8 % 8

/-- Words of a scratchpad, and of a scratchpad and a key buffer together: the page-coded words of a bay, the scratchpad's
first (R242). -/
def spadWords : Nat := 6291456
def pageWords : Nat := 7340032

/-- Pages of a scratchpad, and of a scratchpad and a key buffer together. -/
def pagesSpad : Nat := 12288
def allPages : Nat := 14336

/-- The band of a stacked-memory address (R281). -/
def bandOf (a : Nat) : Nat := a / 2 ^ 30 % 128

/-- A byte range lies wholly in bands 0 to 126 of stacked memory (R281). -/
def inBands (a len : Nat) : Bool :=
  decide (a + len ≤ stackEnd) &&
    (List.range 12).all (fun n =>
      let lo := n * winSize + 127 * 2 ^ 30
      decide (a + len ≤ lo) || decide (lo + 2 ^ 30 ≤ a))

/-- A byte range lies wholly in one populated scratchpad window. -/
def inSpad (a len : Nat) : Bool :=
  match spadAt a with
  | some (_, o) => decide (o + len ≤ spadSize)
  | none => false

/-- The context parameter area (R281). -/
def paramBase : Nat := 0x1FC0000000

/-- The record ring (R281, R318). -/
def ringBase : Nat := 0x17FC0000000

/-- A band is SPREAD (R282); band 127 is always LOCAL. -/
def bandSpread (s : State) (k : Nat) : Bool := decide (k < 127) && s.ms.bands.getLsbD k

/-- Stack and stack offset an address is placed at (R283, R284). (DEDUCED, log 61) -/
def placeOf (s : State) (a : Nat) : Nat × Nat :=
  if bandSpread s (bandOf a) then
    let k := a / winSize * 262144 + a / 4096 % 262144
    (k % 12, bandOf a * 2 ^ 30 + k / 12 * 4096 + a % 4096)
  else (a / winSize, a % winSize)

/-- Pseudo-channel, bank, row and column of a stack offset (R283). -/
def coordOf (o : Nat) : Nat × Nat × Nat × Nat :=
  let sx := o / 64
  (sx % 32, (sx / 1024 % 32) ^^^ (sx / 32768 % 32), sx / 32768 % 65536, sx / 32 % 32)

/-- The known-bad words of bay `n` (R247), none for a number above 11. -/
def badWords (s : State) (n : Nat) : List Nat :=
  if h : n < 12 then s.bays[n].prot.bad else []

/-- The byte lies in a word or sector left uncorrectable (R247, R287). -/
def byteBad (s : State) (a : Nat) : Bool :=
  match spadAt a with
  | some (n, o) => (badWords s n).contains (o / 8)
  | none => s.ms.badSectors.contains (a / 64 * 64)

/-- A read of the range meets an uncorrectable word or sector (R247, R288). -/
def rangeBad (s : State) (a len : Nat) : Bool := (List.range len).any (fun i => byteBad s (a + i))

/-- One byte as stored. -/
def State.rd (s : State) (a : Nat) : Byte := Memory.rd s.mem a

/-- The bytes stored from `a` upward. -/
def State.ld (s : State) (a n : Nat) : List Byte := Sparse.getList memDefault s.mem a n

/-- The little-endian value stored at `a`. -/
def State.ldNat (s : State) (a n : Nat) : Nat := leNat (s.ld a n)

/-- Whether a write of `len` bytes at `a` stores its byte at `x`: not where it covers an uncorrectable word or sector only
in part (R247, R287). -/
def storeKeeps (s : State) (a len x : Nat) : Bool :=
  !byteBad s x ||
    (let g := if (spadAt x).isSome then 8 else 64
     decide (a ≤ x / g * g) && decide (x / g * g + g ≤ a + len))

/-- Words of bay n's scratchpad wholly covered by a write. -/
def wordCovered (n a len w : Nat) : Bool :=
  decide (a ≤ spadBase n + 8 * w) && decide (spadBase n + 8 * w + 8 ≤ a + len)

/-- Words of bay n's scratchpad touched by a write. -/
def wordTouched (n a len w : Nat) : Bool :=
  decide (w < spadWords) && decide (spadBase n + 8 * w < a + len) && decide (a < spadBase n + 8 * w + 8)

/-- Words of bay n's scratchpad touched and not wholly covered by a write. -/
def wordPartly (n a len w : Nat) : Bool := wordTouched n a len w && !wordCovered n a len w

/-! ### Parity lines (R244, R245) -/

/-- A scratchpad word of bay n as stored. -/
def spadWordAt (m : List Host.Cell) (n w : Nat) : BitVec 64 :=
  BitVec.ofNat 64 (leNat (Sparse.getList memDefault m (spadBase n + 8 * w) 8))

/-- A page-coded word of bay n as stored. -/
def wordAt (m : List Host.Cell) (kb : Sparse W32) (n w : Nat) : BitVec 64 :=
  if w < spadWords then spadWordAt m n w
  else
    let k := 2 * (w - spadWords)
    BitVec.ofNat 64 ((Sparse.get (fun _ => 0#32) kb k).toNat + 2 ^ 32 * (Sparse.get (fun _ => 0#32) kb (k + 1)).toNat)

/-- What a word was written with: the word as stored, but for one that reads silently wrong (R245). -/
def Prot.written (p : Prot) (w : Nat) (v : BitVec 64) : BitVec 64 :=
  match p.silent.find? (fun e => e.1 == w) with
  | some e => e.2
  | none => v

/-- The 512 words of a page as they were written. -/
def Prot.pageWritten (p : Prot) (m : List Host.Cell) (kb : Sparse W32) (n g : Nat) : List (BitVec 64) :=
  (List.range 512).map (fun i => p.written (512 * g + i) (wordAt m kb n (512 * g + i)))

/-- The parity line of a page. -/
def Prot.parity (p : Prot) (g : Nat) : ParLine := Sparse.get (fun _ => ParLine.zero) p.par g

/-- The parity line of a page replaced. -/
def Prot.setParity (p : Prot) (g : Nat) (l : ParLine) : Prot := { p with par := Sparse.set (fun _ => ParLine.zero) p.par g l }

/-- The parity symbols a page carries (R244, R250). -/
def Codes.pageP (c : Codes) (g : Nat) : Nat := parityP (if g < pagesSpad then c.spadNow else c.keyNow)

/-- The parity line of a page after its words changed: updated from the difference between the old and the new contents
(R245). -/
def Prot.parityDiff (p : Prot) (P g : Nat) (old new : List (BitVec 64)) : Prot :=
  p.setParity g ((p.parity g).add (parityOf P (List.zipWith (fun x y => x ^^^ y) old new)))

/-- Pages of bay n's scratchpad that a byte range touches. -/
def pagesIn (n a len : Nat) : List Nat :=
  let lo := max a (spadBase n) - spadBase n
  let hi := min (a + len) (spadBase n + spadSize) - spadBase n
  if lo < hi then (List.range ((hi - 1) / 4096 + 1 - lo / 4096)).map (fun i => lo / 4096 + i) else []

/-- A 64-bit word at address `base` after the bytes of a write at `a`. -/
def wordOver (o : BitVec 64) (base a : Nat) (v : List Byte) : BitVec 64 :=
  BitVec.ofNat 64 (leNat ((List.range 8).map (fun i =>
    if a ≤ base + i then v.getD (base + i - a) (BitVec.ofNat 8 (o.toNat / 2 ^ (8 * i)))
    else BitVec.ofNat 8 (o.toNat / 2 ^ (8 * i)))))

/-- A bay's protection after a write left memory `m`: wholly covered words are good again, a write-back that waits for a
touched word is superseded, and a silently wrong word holds the new bytes over what it was written with (R243, R247). -/
def Prot.stored (p : Prot) (n a : Nat) (v : List Byte) (m : List Host.Cell) : Prot :=
  { p with
    bad := p.bad.filter (fun w => !wordCovered n a v.length w)
    wbs := p.wbs.filter (fun e => !(e.1 == 1 && wordTouched n a v.length (e.2 / 8)))
    repairs := p.repairs.map (fun r => { r with words := r.words.filter (fun w => !wordCovered n a v.length w) })
    silent := (p.silent.map (fun e =>
      if wordTouched n a v.length e.1 then (e.1, wordOver e.2 (spadBase n + 8 * e.1) a v) else e)).filter
        (fun e => !(wordTouched n a v.length e.1 && e.2 == spadWordAt m n e.1)) }

/-- A bay's protection after a write changed memory from `m` to `m'` (R245). (DEDUCED, log 138) -/
def Prot.afterWrite (p : Prot) (c : Codes) (kb : Sparse W32) (n a : Nat) (v : List Byte) (m m' : List Host.Cell) : Prot :=
  let q := p.stored n a v m'
  (pagesIn n a v.length).foldl (fun (r : Prot) g =>
    r.parityDiff (c.pageP g) g (p.pageWritten m kb n g) (q.pageWritten m' kb n g)) q

/-- Known-bad words a write meets in part, as bay and word. -/
def partlyBad (s : State) (a len : Nat) : List (Nat × Nat) :=
  (List.range 12).flatMap (fun n => ((badWords s n).filter (wordPartly n a len)).map (fun w => (n, w)))

/-- Uncorrectable sectors a write meets in part (R287). -/
def partlySectors (s : State) (a len : Nat) : List Nat :=
  s.ms.badSectors.filter (fun x =>
    decide (x < a + len) && decide (a < x + 64) && !(decide (a ≤ x) && decide (x + 64 ≤ a + len)))

/-- The uncorrectable sector a requester read last, as OD 0x4060:05 shows it (R288, R299). -/
def secUeWord (a req : Nat) : BitVec 64 := BitVec.ofNat 64 (req * 2 ^ 48 + a / 64 * 64)

/-- Counts of the dropped partial writes and the uncorrectable reads a write by a requester of R289 met (R251, R254, R287,
R288). -/
def Codes.stored (c : Codes) (req : Nat) (sectors : List Nat) (words : List (Nat × Nat)) : Codes :=
  { c with
    partDropped := satAdd 64 c.partDropped sectors.length
    secUe := satAdd 64 c.secUe sectors.length
    lastSecUe := match sectors.getLast? with
      | some x => secUeWord x req
      | none => c.lastSecUe
    spadUe := satAdd 64 c.spadUe words.length
    lastUe := match words with
      | [] => c.lastUe
      | (n, w) :: _ => BitVec.ofNat 64 (0x01 * 2 ^ 56 + n * 2 ^ 52 + 8 * w) }

/-- A stack after a write: pending write-backs of the sectors it touches are cancelled (R286). -/
def Stack.written (k : Stack) (a len : Nat) : Stack :=
  { k with wbq := k.wbq.filter (fun e => !(decide (e.2 < a + len) && decide (a < e.2 + 64))) }

/-- The requester of R289 a sector's stack sees: a bay's engine at its own stack, fabric inbound at another's, else the one
named (R288, R289). -/
def reqAt (s : State) (req : Nat) (via : Option Bay) (sectors : List Nat) : Nat :=
  match via, sectors.getLast? with
  | some b, some x => if (placeOf s x).1 = b.val then 6 else 5
  | _, _ => req

/-- A write of bytes at an address by a unit, the transfer engine unless another requester of R289 is named; `via` is the bay whose
transfer it is (R245, R247, R287). (DESIGN CHOICE, log 59) -/
def State.store (s : State) (a : Nat) (v : List Byte) (req : Nat := 6) (via : Option Bay := none) : State :=
  { s with
    mem := Memory.wrRun (storeKeeps s a v.length) s.mem a v
    ms := { s.ms with
      badSectors := s.ms.badSectors.filter (fun x => !(decide (a ≤ x) && decide (x + 64 ≤ a + v.length))) }
    bays := s.bays.mapFinIdx (fun n b _ =>
      { b with
        prot := b.prot.afterWrite s.codes b.keyBuf n a v s.mem (Memory.wrRun (storeKeeps s a v.length) s.mem a v) })
    codes := s.codes.stored (reqAt s req via (partlySectors s a v.length)) (partlySectors s a v.length) (partlyBad s a v.length)
    stk := s.stk.map (fun k => k.written a v.length) }

/-- Zeroes an aligned range of whole sectors. -/
def State.zeroRange (s : State) (lo len : Nat) : State :=
  { s with
    mem := Memory.zero s.mem lo (lo + len)
    ms := { s.ms with badSectors := s.ms.badSectors.filter (fun x => !(decide (lo ≤ x) && decide (x < lo + len))) }
    stk := s.stk.map (fun k => k.written lo len) }

/-- The bytes of a list of addresses. -/
def State.gather (s : State) (l : List Nat) : List Byte := l.map s.rd

end Sys2Proof.Machine
end

