-- ==== Sys2Proof/Machine/Track.lean ====
section
/-! DEFINITION. The requests the memory controllers track (R289 to R291), what an access counts at its stack (R299), and earlier requests that land before a sector is read or written (R290). -/

namespace Sys2Proof.Machine

/-! ### Places and counts (R283, R291, R299) -/

/-- The address lies in stacked memory. -/
def inStack (a : Nat) : Bool := decide (a < stackEnd)

/-- A stack of the device. -/
def State.updStk (s : State) (n : Nat) (f : Stack → Stack) : State :=
  if h : n < 12 then { s with stk := s.stk.set n (f s.stk[n]) } else s

/-- The parts of a byte range by sector. -/
def sectorsOf (a len : Nat) : List (Nat × Nat) :=
  (List.range ((a + len + 63) / 64 - a / 64)).map (fun i =>
    let lo := max a ((a / 64 + i) * 64)
    (lo, min (a + len) ((a / 64 + i + 1) * 64) - lo))

/-- Two requests touch a common byte. -/
def MemReq.overlaps (a b : MemReq) : Bool := decide (a.addr < b.addr + b.len) && decide (b.addr < a.addr + a.len)

/-- A pending request touches a byte range. -/
def MemReq.hits (q : MemReq) (r : Nat × Nat) : Bool := decide (q.addr < r.1 + r.2) && decide (r.1 < q.addr + q.len)

/-- Bank and row of an address in its stack. -/
def rowAt (s : State) (a : Nat) : Nat × Nat :=
  let c := coordOf (placeOf s a).2
  (32 * c.1 + c.2.1, c.2.2.1)

/-- The counts of a stack after a unit's access: a row not open is activated once, its further sectors are hits (R291, R299). -/
def Stack.transferred (k : Stack) (s : State) (n : Nat) (rd wr : List (Nat × Nat)) : Stack :=
  let here := fun l : List (Nat × Nat) =>
    (l.flatMap (fun r => sectorsOf r.1 r.2)).filter (fun p => inStack p.1 && (placeOf s p.1).1 == n)
  let r := here rd
  let w := here wr
  let secs := (r.map (fun p => p.1 / 64)).eraseDups ++ (w.map (fun p => p.1 / 64)).eraseDups
  let fresh := ((secs.map (fun x => rowAt s (64 * x))).eraseDups.filter (fun x =>
    Sparse.get (fun _ => 0) k.openRow x.1 != x.2 + 1)).length
  let bytes := fun l : List (Nat × Nat) => (l.map (fun p => p.2)).sum
  { k with
    activates := satAdd 64 k.activates fresh, rowHits := satAdd 64 k.rowHits (secs.length - fresh)
    rdBytes := satAdd 64 k.rdBytes (bytes r), wrBytes := satAdd 64 k.wrBytes (bytes w) }

/-- A unit has read and written byte ranges, which the stacks that hold them count (R299). (DEDUCED, log 166) -/
def traffic (rd wr : List (Nat × Nat)) (s : State) : State :=
  { s with stk := s.stk.mapFinIdx (fun n k _ => k.transferred s n rd wr) }

/-! ### Requests (R289 to R291) -/

/-- A stack of the device. -/
def State.stack (s : State) (n : Stk) : Stack := s.stk[n]

/-- Changes a stack. -/
def updStack (n : Stk) (f : Stack → Stack) (s : State) : State := { s with stk := s.stk.set n (f s.stk[n]) }

/-- Pseudo-channel of a request's sector. -/
def MemReq.chan (s : State) (q : MemReq) : Nat := (coordOf (placeOf s q.addr).2).1

/-- Bank of a request's sector in its pseudo-channel. -/
def MemReq.bank (s : State) (q : MemReq) : Nat := (coordOf (placeOf s q.addr).2).2.1

/-- Row of a request's sector. -/
def MemReq.row (s : State) (q : MemReq) : Nat := (coordOf (placeOf s q.addr).2).2.2.1

/-- The requests of an arrival, one entry for each sector it touches (R289). -/
def splitReq (req : Nat) (src : Bay) (a len : Nat) (data : Option (List Byte)) : List MemReq :=
  (sectorsOf a len).map (fun p =>
    { req := req, src := src, addr := p.1, len := p.2, data := data.map (fun d => (d.drop (p.1 - a)).take p.2), served := false,
      got := none, age := 0 })

/-- The requester may use the entries held back: header unit, record/replay unit, link, steward firmware (R289). -/
def heldBack (req : Nat) : Bool := decide (1 ≤ req) && decide (req ≤ 4)

/-- Requests tracked in a pseudo-channel. -/
def inChan (s : State) (k : Stack) (c : Nat) : List MemReq := k.reqs.filter (fun q => q.chan s == c)

/-- A pseudo-channel has an entry free for a requester: 768 in all, 704 of them shared (R289). -/
def entryFree (l : List MemReq) (req : Nat) : Bool :=
  let own := (l.filter (fun q => heldBack q.req)).length
  decide (l.length < 768) && (heldBack req || decide (l.length - min 64 own < 704))

/-- A requester's next request is taken where its pseudo-channel has an entry free and none of its earlier ones waits; else it
waits (R289). -/
def Stack.admit1 (s : State) (k : Stack) (q : MemReq) : Stack :=
  if entryFree (inChan s k (q.chan s)) q.req && !k.blocked.any (fun p => p.req == q.req && p.src == q.src) then
    { k with reqs := k.reqs ++ [q] }
  else { k with blocked := k.blocked ++ [q] }

/-- The place of a request among those of one cy: the requester's number, and for fabric inbound the source bay (R289). -/
def MemReq.rank (q : MemReq) : Nat := 16 * q.req + (if q.req = 5 then q.src.val else 0)

/-- Requests in the order of one cy, those of one requester in the order sent. -/
def byRank (l : List MemReq) : List MemReq :=
  l.foldl (fun r q => r.takeWhile (fun p => decide (p.rank ≤ q.rank)) ++ [q] ++ r.dropWhile (fun p => decide (p.rank ≤ q.rank))) []

/-- The request arrived in this cy and is not yet served. -/
def MemReq.fresh (q : MemReq) : Bool := q.age == 0 && !q.served

/-- Requests are taken: those of this cy, those that wait and new ones together, in the order of R289. -/
def Stack.takeIn (k : Stack) (s : State) (l : List MemReq) : Stack :=
  (byRank (k.reqs.filter MemReq.fresh ++ k.blocked ++ l)).foldl (Stack.admit1 s)
    { k with reqs := k.reqs.filter (fun q => !q.fresh), blocked := [] }

/-- Waiting requests are taken where an entry has become free. -/
def Stack.unblock (k : Stack) (s : State) : Stack := k.takeIn s []

/-- The row of a request is open in its bank. -/
def rowOpen (s : State) (k : Stack) (q : MemReq) : Bool :=
  Sparse.get (fun _ => 0) k.openRow (32 * q.chan s + q.bank s) == q.row s + 1

/-- Replaces the first entry equal to a request. -/
def putReq (q : MemReq) (v : Option MemReq) : List MemReq → List MemReq
  | [] => []
  | e :: r => if e = q then v.toList ++ r else e :: putReq q v r

/-- The stack's counters and open row after serving a request, a read with what it found; the row closes when no pending
request targets it (R290, R291, R299). -/
def Stack.serve (k : Stack) (s : State) (q : MemReq) (got : Option (List Byte)) : Stack :=
  let hit := rowOpen s k q
  let reqs := putReq q (if q.data.isNone then some { q with served := true, got := got } else none) k.reqs
  let wanted := reqs.any (fun p => !p.served && p.chan s == q.chan s && p.bank s == q.bank s && p.row s == q.row s)
  { k with
    reqs := reqs
    openRow := Sparse.set (fun _ => 0) k.openRow (32 * q.chan s + q.bank s) (if wanted then q.row s + 1 else 0)
    rowHits := if hit then satAdd 64 k.rowHits 1 else k.rowHits
    activates := if hit then k.activates else satAdd 64 k.activates 1
    rdBytes := if q.data.isNone then satAdd 64 k.rdBytes q.len else k.rdBytes
    wrBytes := if q.data.isNone then k.wrBytes else satAdd 64 k.wrBytes q.len }

/-! ### Earlier requests to a sector (R290) -/

/-- A request takes effect: it leaves its controller's waiting requests, a read with what it finds now, and a write stores its
bytes (R287, R290, R291). -/
def landReq (n : Stk) (q : MemReq) (d : Option (List Byte)) (s : State) : State :=
  let got := if rangeBad s q.addr q.len then none else some (s.ld q.addr q.len)
  let s := updStack n (fun k => (k.serve s q got).unblock s) s
  match d with
  | some d => s.store q.addr d q.req
  | none => s

/-- The requests of a stack to the sector at an address that wait to be served, oldest first. -/
def Stack.waitsAt (k : Stack) (a : Nat) : List MemReq := k.reqs.filter (fun q => !q.served && q.addr / 64 == a / 64)

/-- Every request to the sector at `a` that arrived before takes effect, in order of arrival, each within the sector (R290). -/
def landSector (a : Nat) (s : State) : State :=
  (List.finRange 12).foldl (fun (s : State) n =>
    (s.stk[n].waitsAt a).foldl (fun (s : State) q => landReq n q (q.data.map (fun d => d.take (64 - q.addr % 64))) s) s) s

end Sys2Proof.Machine
end

