-- ==== Sys2Proof/WellFormed.lean ====
section
/-! DEFINITION. The field values the loader refuses in an instruction (R190, R191, R217 to R222): a command that carries one never reaches a stream. -/

namespace Sys2Proof

/-- TCFG values MM.CFG may carry: MODE 0 to 4 and every RSVD bit 0 (R67, R219). -/
def tcfgOk (w : W32) : Bool := (w &&& 0x00FFF0F8#32) == 0#32 && decide ((w &&& 7#32).toNat ≤ 4)

/-- NT_CFG values NT.CFG may carry (R127, R219). -/
def ntCfgOk (w : W32) : Bool :=
  (w &&& 0xFF000FF0#32) == 0#32 &&
  decide (1 ≤ (w >>> 16 &&& 15#32).toNat) &&
  decide (1 ≤ (w >>> 12 &&& 15#32).toNat) && decide ((w >>> 12 &&& 15#32).toNat ≤ 10) &&
  decide (10 ≤ (w &&& 15#32).toNat) && decide ((w &&& 15#32).toNat ≤ 12)

/-- The kinds of TS.HOP that use S2 (R222). -/
def hopUsesS2 (kind : Fin 16) : Bool := kind == 0 || kind == 3

/-- The kinds of TS.HOP that use X (R222). -/
def hopUsesX (kind : Fin 16) : Bool := kind == 2 || kind == 8

/-- Row functions of VE.SF (R168). -/
def SfFunc.isRow : SfFunc → Bool
  | .rowmax | .rowsumexp | .rowstat | .rowmsq | .rowsum => true
  | _ => false

/-- Row functions that read counter Cc (R168, R221). -/
def SfFunc.usesCc : SfFunc → Bool
  | .rowsumexp | .rowstat | .rowmsq => true
  | _ => false

/-- A queue a stream may fill with TS.QPUT (R191): DQ0 to DQ5 from the A-stream, DQ6 and DQ7 from the X-stream. -/
def qputOk (st : Strm) (q : Fin 8) : Bool :=
  match st with
  | .a => decide (q.val < 6)
  | .x => decide (6 ≤ q.val)

/-- The checks of the loader on one instruction's fields. Commands that are no instruction carry no such check. -/
def Instr.wf : Instr → Bool
  | .tsGadd _ _ g _ => decide (g.val < 224)
  | .tsGset _ _ g _ => decide (g.val < 224)
  | .tsBreak _ _ k => decide (1 ≤ k) && decide (k ≤ 4)
  | .tsQput _ st q cn m1 => qputOk st q && decide (cn.val + m1.val ≤ 15)
  | .tsQpop _ st q cd m1 _ => !qputOk st q && decide (cd.val + m1.val ≤ 15)
  | .tsHop b _ s2 _ x kind mask =>
    (hopUsesS2 kind || s2 == 0) && (hopUsesX kind || x == 0) && mask.getLsbD b
  | .mmCfg _ _ imm => tcfgOk imm
  | .mmLdp _ _ e m1 _ => decide (e.val + m1.val + 1 ≤ 256)
  | .mmLds _ _ _ _ tide _ d => !tide || d == 0
  | .mmMul _ mask _ _ _ _ _ => mask != 0#8
  | .tdKey _ _ _ _ _ level _ => level != 0
  | .ntCfg _ imm => ntCfgOk imm
  | .ntTv _ _ ident slot _ => !ident || slot == 0
  | .veCmp _ pd _ _ _ _ => pd != 0
  | .veFcmp _ pd _ _ _ _ => pd != 0
  | .vePand _ pd _ _ _ => pd != 0
  | .vePor _ pd _ _ _ => pd != 0
  | .vePxor _ pd _ _ _ => pd != 0
  | .vePnot _ pd _ _ => pd != 0
  | .veGsign _ pd _ _ logn _ => pd != 0 && decide (10 ≤ logn) && decide (logn ≤ 17)
  | .veSf _ _ va func m1 cc _ =>
    (func.isRow || m1 == 0) && (func.usesCc || cc == 0) && decide (va.val + m1.val ≤ 31)
  | .veLdq _ _ q _ _ => decide (q.val < 6)
  | .veLdp _ e m1 _ => decide (e.val + m1.val + 1 ≤ 64)
  | .xfMov _ (.queue q) _ _ => decide (q.val < 6)
  | _ => true

end Sys2Proof
end

