-- ==== Sys2Proof/Machine/Ops.lean ====
section
/-! DEFINITION. The named operations the meanings share: bays and streams, counters, waits and retirement, the record ring, fault counting, halts, throttle events and Gong. -/

namespace Sys2Proof.Machine

/-! ### Bays and streams -/

/-- The state of a bay. -/
def State.bay (s : State) (b : Bay) : Bays := s.bays[b]

/-- Replaces a bay's state. -/
def State.setBay (s : State) (b : Bay) (x : Bays) : State := { s with bays := s.bays.set b x }

/-- Changes a bay and notes that it moved (R200). -/
def State.updBay (s : State) (b : Bay) (f : Bays → Bays) : State :=
  s.setBay b { f (s.bay b) with moved := true }

/-- Changes every bay. -/
def State.mapBays (s : State) (f : Bay → Bays → Bays) : State :=
  { s with bays := s.bays.mapFinIdx (fun i x h => f ⟨i, h⟩ x) }

/-- A stream of a bay (R178). -/
def Bays.strm (x : Bays) : Strm → Stream
  | .a => x.a
  | .x => x.x

/-- Replaces a stream of a bay. -/
def Bays.setStrm (x : Bays) (st : Strm) (v : Stream) : Bays :=
  match st with
  | .a => { x with a := v }
  | .x => { x with x := v }

/-- A stream of the block. -/
def State.strm (s : State) (b : Bay) (st : Strm) : Stream := (s.bay b).strm st

/-- Changes a stream; its bay moved (R200). -/
def State.updStrm (s : State) (b : Bay) (st : Strm) (f : Stream → Stream) : State :=
  s.updBay b (fun x => x.setStrm st (f (x.strm st)))

/-- Unit number of a stream in fault reports (R428): 0 A, 1 X. -/
def strmNo : Strm → Nat
  | .a => 0
  | .x => 1

/-- BEAT as a number (R301). -/
def State.beatNat (s : State) : Nat := s.beat.beat.toNat

/-! ### Record ring (R318 to R321) -/

/-- Entries the ring holds: half of it while a replay is under way (R318, R324). (DEDUCED, log 77) -/
def ringCap (s : State) : Nat :=
  match s.rcd.replay with
  | .off => 8388608
  | .done => 8388608
  | _ => 4194304

/-- A ring entry stamped now, with SEQ 0 (R319). -/
def entryNew (s : State) (ty arg len payload : Nat) : Nat :=
  1 + ty * 2 ^ 8 + s.beatNat * 2 ^ 96 + min s.tick 4095 * 2 ^ 148 +
    min s.beat.hpos 65535 * 2 ^ 160 + len % 2 ^ 32 * 2 ^ 176 + arg % 2 ^ 48 * 2 ^ 208 + payload % 2 ^ 256 * 2 ^ 256

/-- The 64 bytes of an entry that takes a SEQ. -/
def recBytes (v q : Nat) : List Byte := leBytes (v + q % 2 ^ 40 * 2 ^ 56) 64

/-- TYPE of an entry and its unit, the ARG of a THROTTLE or FAULT, which order the entries of one cy (R318).
(DEDUCED, log 151) -/
def entOrder (v : Nat) : Nat × Nat :=
  let ty := bitsAt v 15 8
  (ty, if ty = 0x10 ∨ ty = 0x11 then bitsAt v 255 208 else 0)

/-- An entry comes before, or with, a later one of its cy. -/
def entBefore (v w : Nat) : Bool :=
  let a := entOrder v
  let b := entOrder w
  decide (a.1 < b.1) || (a.1 == b.1 && decide (a.2 ≤ b.2))

/-- An open run is no longer REPLAYABLE; CLOSE has frozen the flag of any other (R314, R323). (DEDUCED, log 78) -/
def Run.unreplayable (r : Run) : Run := if r.isOpen then { r with replayable := false } else r

/-- Where an entry lies: in the whole ring, or in its lower half while a replay uses the upper one (R318, R324). -/
def entryAddr (s : State) (q : Nat) : Nat :=
  ringBase + q % (if s.rcd.halfFrom ≤ q ∧ q < s.rcd.halfTo then 4194304 else 8388608) * 64

/-- Makes room for an entry: when the ring is full of undrained entries the oldest is lost (R323). -/
def recRoom (s : State) : State :=
  if s.rcd.seq - s.rcd.drain < ringCap s then s
  else
    { s with
      rcd := { s.rcd with
        drain := s.rcd.seq + 1 - ringCap s, lost := satAdd 64 s.rcd.lost (s.rcd.seq + 1 - ringCap s - s.rcd.drain) }
      run := s.run.unreplayable }

/-- Whether an entry type is compared under an active replay (R326). -/
def recCompared (ty : Nat) : Bool := ty == 0x10 || ty == 0x11 || ty == 0x12

/-- Writes an entry whole into a sector of the ring, after every earlier request to it, and counts it at its stack (R290, R299,
R318). -/
def putEntry (a : Nat) (v : List Byte) (s : State) : State := traffic [] [(a, 64)] ((landSector a s).store a v 2)

/-- Writes entries into the ring from a SEQ on. -/
def writeEnts (q : Nat) : List Nat → State → State
  | [], s => s
  | v :: r, s => writeEnts (q + 1) r (putEntry (entryAddr s q) (recBytes v q) s)

/-- Where a new entry stands among those of its cy: behind the ones that come before it, and behind those already drained
(R318, R323). -/
def entPlace (c : Rec) (v : Nat) : Nat :=
  max ((c.cyEnt.filter (fun w => entBefore w v)).length) (c.drain - (c.seq - c.cyEnt.length))

/-- The stamp of an entry as one number that rises with time: BEAT, then HPOS, then OFFSET. -/
def entStamp (v : Nat) : Nat := bitsAt v 143 96 * 2 ^ 28 + bitsAt v 175 160 * 2 ^ 12 + bitsAt v 159 148

/-- Adds a recorded outcome to those not yet compared, in the order of the ring. -/
def addLive (v : Nat) (l : List (List Byte)) : List (List Byte) :=
  let first := fun e : List Byte =>
    decide (entStamp (leNat e) < entStamp v) || (entStamp (leNat e) == entStamp v && entBefore (leNat e) v)
  l.takeWhile first ++ [leBytes v 64] ++ l.dropWhile first

/-- Writes one entry into the record ring while recording is enabled; the entries of one cy stand in ascending TYPE and unit,
so the later ones of this cy move up by one (R318); none while the compute die is stopped (R448). -/
def record (ty arg len payload : Nat) (s : State) : State :=
  if s.rcd.on ∧ s.tap.cdStopped = false then
    let v := entryNew s ty arg len payload
    let s := recRoom s
    let k := entPlace s.rcd v
    let q := s.rcd.seq - s.rcd.cyEnt.length
    let r := s.rcd.cyEnt.drop k
    let s := writeEnts (q + k) (v :: r) s
    { s with
      rcd := { s.rcd with
        seq := s.rcd.seq + 1
        cyEnt := s.rcd.cyEnt.take k ++ v :: r
        live := if s.rcd.replay = .active ∧ recCompared ty then addLive v s.rcd.live else s.rcd.live } }
  else s

/-! ### Faults (R425 to R432) -/

/-- Counts a fault and notes its last occurrence (R371, R428). `bay` is 15 for the die, `unit` 0 A-stream, 1 X-stream,
2 channel, 3 device. -/
def countFault (code bay unit : Nat) (s : State) : State :=
  { s with
    faults := { s.faults with
      cnt := Sparse.set (fun _ => 0) s.faults.cnt code (satAdd 64 (Sparse.get (fun _ => 0) s.faults.cnt code) 1)
      last := Sparse.set (fun _ => 0#64) s.faults.last code
        (BitVec.ofNat 64 (code * 2 ^ 56 + bay * 2 ^ 52 + unit * 2 ^ 48 + s.beatNat)) } }

/-- Codes after an uncorrectable event in a memory (R254). -/
def Codes.ue (c : Codes) (id bay off : Nat) : Codes :=
  let c := { c with lastUe := BitVec.ofNat 64 (id * 2 ^ 56 + bay * 2 ^ 52 + off % 2 ^ 48) }
  if id = 1 then { c with spadUe := satAdd 64 c.spadUe 1 }
  else if id = 2 then { c with keyUe := satAdd 64 c.keyUe 1 }
  else if id = 3 ∨ id = 4 then { c with wordUe := satAdd 64 c.wordUe 1 }
  else { c with byteUe := satAdd 64 c.byteUe 1 }

/-- Counts an uncorrectable event with its memory Id, bay and byte offset (R254, R453). (DEDUCED, log 66) -/
def ueAt (id bay off : Nat) (s : State) : State := { s with codes := s.codes.ue id bay off }

/-- Withdraws a bay's TS.HOP whose bracket has not opened (R51). -/
def withdrawHop (b : Bay) (s : State) : State :=
  { s with
    hdr := { s.hdr with
      brackets := (s.hdr.brackets.map (fun k =>
        if k.op.isNone ∧ k.ins.isNone then { k with issues := k.issues.filter (fun i => i.bay != b) } else k)).filter
          (fun k => k.op.isSome || k.ins.isSome || !k.issues.isEmpty) } }

/-- Waits with this cause are timed; BEAT and PARK are exempt. -/
def Cause.timed : Cause → Bool
  | .beat => false
  | .park => false
  | _ => true

/-- A stream's own wait has reached its timeout. -/
def Stream.expired (x : Stream) : Bool :=
  x.status == .wait && (match x.wait with
    | some w => w.cause.timed && decide (w.limit ≤ w.timer)
    | none => false)

/-- The wait a stream that halts keeps while the cy lasts: its own, where it has reached its timeout in that cy too (R428). -/
def Stream.dueWait (x : Stream) : Option Wait := if x.expired || x.status == .halted then x.wait else none

/-- The stream's own wait falls due in this cy. -/
def Stream.ownDue (x : Stream) : Bool := x.expired || (x.status == .halted && x.wait.isSome)

/-- A stream as a stream-class fault leaves it (R202, R426); `keep` keeps the wait of R201 for STREAM_STAT. -/
def Stream.halted (x : Stream) (code : Nat) (fpc : BitVec 15) (keep : Bool) : Stream :=
  { x with
    status := .halted, fault := BitVec.ofNat 8 code, fpc := fpc, wait := if keep then x.wait else x.dueWait, haltAge := none }

/-- A stream after the cy in which it may have halted (R428). -/
def Stream.cyOver (x : Stream) : Stream :=
  { x with haltAge := none, timedOut := false, wait := if x.haltAge.isSome && x.fault != 0x31#8 then none else x.wait }

/-- The cy in which a stream of the bay halted is over (R428). -/
def Bays.cyOver (x : Bays) : Bays := { x with a := x.a.cyOver, x := x.x.cyOver }

/-- The FAULT entry of a fault (R320). -/
def recFault (arg code : Nat) (fpc : BitVec 15) : State → State := record 0x11 arg code fpc.toNat

/-- The stream takes no fault now: it was HALTED before this cy (R428). -/
def Stream.deaf (x : Stream) : Bool := x.status == .halted && x.haltAge.isNone

/-- A fault of an instruction of this age replaces what STREAM_STAT records: the stream has not halted, or halted in this cy
for a younger instruction, or for the same one with a higher code (R428). -/
def Stream.outdone (x : Stream) (code age : Nat) : Bool :=
  x.status != .halted ||
    (match x.haltAge with
     | some a => decide (age < a) || (age == a && decide (code < x.fault.toNat))
     | none => true)

/-- The stream is HALTED by a fault, recorded in the ring, and in STREAM_STAT unless that shows an older instruction's of this cy;
`keep` keeps its wait for STREAM_STAT (R202, R426, R428). -/
def haltRec (b : Bay) (st : Strm) (arg code : Nat) (fpc : BitVec 15) (age : Nat) (keep : Bool) (s : State) : State :=
  let s := recFault arg code fpc s
  if (s.strm b st).outdone code age then s.updStrm b st (fun x => { x.halted code fpc keep with haltAge := some age }) else s

/-- A stream-class fault at the PC of an instruction, `age` its place in program order: counted and recorded, and the stream
HALTED; nothing for a stream HALTED before this cy (R202, R426, R428). (DEDUCED, log 158) -/
def haltBy (b : Bay) (st : Strm) (arg code : Nat) (fpc : BitVec 15) (age : Nat) (s : State) : State :=
  if (s.strm b st).deaf then s
  else
    let s := haltRec b st arg code fpc age false (countFault code b (strmNo st) s)
    if st = .x then withdrawHop b s else s

/-- Halts a stream with a stream-class fault at a PC (R202, R426, R428). -/
def haltStream (b : Bay) (st : Strm) (code : Nat) (fpc : BitVec 15) (age : Nat) (s : State) : State :=
  haltBy b st (b + 16 * strmNo st) code fpc age s

/-- Halts the X-stream for a halted read path of its units: fault 0x42 of channel-halt class (R89, R158, R251, R426).
(DEDUCED, log 58) -/
def haltReadPath (b : Bay) (fpc : BitVec 15) (age : Nat) (s : State) : State := haltBy b .x (b + 48) 0x42 fpc age s

/-- A channel halt that stops no stream: counted and recorded (R426). -/
def channelFault (b : Bay) (code : Nat) (s : State) : State :=
  recFault (b + 32) code 0#15 (countFault code b 2 s)

/-- A fault of operation class for a bracket: counted under its lowest bay (R426, R428). -/
def operationFault (code : Nat) (mask : BayMask) (s : State) : State :=
  countFault code ((bitsSet 12 mask).headD 15) 1 s

/-- Run flags as OD 0x7020:02 shows them (R328). -/
def runFlags (r : Run) : Nat :=
  (if r.isOpen then 1 else 0) + (if r.time then 2 else 0) + (if r.void then 4 else 0) + (if r.replayable then 8 else 0)

/-- The run after an event of R316. -/
def Run.event (r : Run) (code unit beat : Nat) : Run :=
  if r.isOpen then
    { r with
      time := false
      void := r.void || code == 7
      throttles := if code ≤ 7 then satAdd 32 r.throttles 1 else r.throttles
      first := if r.first = 0#64 then BitVec.ofNat 64 (code * 2 ^ 56 + unit * 2 ^ 48 + beat) else r.first }
  else r

/-- An event of the test multiplexers since their last sample (R450): 0 an edge, 1 a bar edge, 2 an accepted marker, 3 a rejected
one, 4 a throttle event. -/
def strobe (i : Fin 5) (s : State) : State := { s with tmx := { s.tmx with ev := setBit s.tmx.ev i true } }

/-- An event of R316: a THROTTLE entry, and in an open run TIME cleared. `unit` is a bay or stack, 255 for the device.
(DEDUCED, log 76) -/
def throttle (code unit level : Nat) (s : State) : State :=
  let s := strobe 4 (record 0x10 unit code level s)
  { s with run := s.run.event code unit s.beatNat }

/-- A stream as Gong leaves it (R430). -/
def Stream.gonged (x : Stream) (code : Nat) : Stream :=
  { x with status := .halted, fault := BitVec.ofNat 8 code, fpc := x.pc, wait := none, haltAge := none }

/-- Brackets without those that have not opened. -/
def openBrackets (l : List Bracket) : List Bracket := l.filter (fun k => k.op.isSome || k.ins.isSome)

/-- Every stream and the device show a Gong code. -/
def gongCode (code : Nat) (s : State) : State :=
  let s := s.mapBays (fun _ x =>
    { x with a := { x.a with fault := BitVec.ofNat 8 code }, x := { x.x with fault := BitVec.ofNat 8 code } })
  { s with faults := { s.faults with gong := BitVec.ofNat 8 code } }

/-- Raises Gong (R430): counted and recorded; the first one halts every stream and sets every DVFS step to 0; of several in one
cy the lowest code is shown. -/
def gong (code bay : Nat) (s : State) : State :=
  let s := countFault code bay 3 s
  let s := recFault 15 code 0#15 s
  if s.faults.gongNow ∧ code < s.faults.gong.toNat then gongCode code s
  else if s.faults.gong = 0#8 then
    let s := s.mapBays (fun _ x => { x with a := x.a.gonged code, x := x.x.gonged code, moved := true })
    { s with
      faults := { s.faults with gong := BitVec.ofNat 8 code, gongNow := true }
      hdr := { s.hdr with brackets := openBrackets s.hdr.brackets }
      pwr := { s.pwr with step := Vector.replicate 12 0, raise := Vector.replicate 12 none } }
  else s

/-! ### What keeps the device from acting -/

/-- The compute die is clocked: supply in RUN, its clocks not stopped by INTSCAN (R411, R422, R448). -/
def clocked (s : State) : Bool := s.pwr.st == .run && !s.tap.cdStopped

/-- The compute die runs: supply in RUN, no Gong, clocks not stopped by INTSCAN (R411, R422, R430, R448). -/
def alive (s : State) : Bool := s.pwr.st == .run && s.faults.gong == 0#8 && !s.tap.cdStopped

/-- The bay's units may start an instruction: alive and no park pending or active (R207). (DEDUCED, log 45) -/
def unitsRun (b : Bay) (s : State) : Bool := alive s && !(s.bay b).parkPend && !(s.bay b).parked

/-- The X-stream of the bay has not halted, so its queued instructions may start (R202). -/
def xLive (b : Bay) (s : State) : Bool := (s.strm b .x).status != .halted

/-! ### Issue, wait, retirement (R179, R184, R198, R199) -/

/-- An instruction without what its read of a memory met, which a wait for it does not know yet. (DEDUCED, log 24) -/
def plainCmd (c : Instr) : Instr :=
  match c with
  | .tsLdw b st cd ca imm _ => .tsLdw b st cd ca imm .clean
  | .tsQpop b st q cd m1 _ => .tsQpop b st q cd m1 .clean
  | .tdKey b ck cg cb next level _ => .tdKey b ck cg cb next level .clean
  | c => c

/-- A wait of the stream on this very command. -/
def Stream.waitsOn (x : Stream) (c : Instr) : Bool :=
  x.status == .wait && (match x.wait with
    | some w => plainCmd w.cmd == plainCmd c
    | none => false)

/-- The stream may issue the command now: the die runs, its bay is not parked, the loader accepts the instruction, and the
stream runs or waits on it (R179, R198, R208). (DESIGN CHOICE, log 4) -/
def canIssue (b : Bay) (st : Strm) (c : Instr) (s : State) : Bool :=
  alive s && !(s.bay b).parked && c.wf && ((s.strm b st).status == .run || (s.strm b st).waitsOn c)

/-- The wait of a stream that cannot issue: a wait on the same command keeps its timer (R199). -/
def Stream.waiting (x : Stream) (cause : Cause) (limit : Nat) (c : Instr) (target : W32) : Stream :=
  match x.wait with
  | some w =>
    if x.status = .wait ∧ plainCmd w.cmd = plainCmd c then { x with wait := some { w with cause := cause, target := target } }
    else { x with status := .wait, fpc := x.pc, wait := some ⟨cause, 0, limit, c, target⟩ }
  | none => { x with status := .wait, fpc := x.pc, wait := some ⟨cause, 0, limit, c, target⟩ }

/-- The stream waits to issue a command (R198). (DESIGN CHOICE, log 5) -/
def stall (b : Bay) (st : Strm) (cause : Cause) (c : Instr) (target : W32) (s : State) : State :=
  s.setBay b ((s.bay b).setStrm st ((s.strm b st).waiting cause s.od.waitTimeout c target))

/-- Counting down at the end of a loop body (R184): the next PC and the open levels. -/
def loopNext (pc : BitVec 15) (l : List LoopLvl) : BitVec 15 × List LoopLvl :=
  match l with
  | [] => (pc + 1, [])
  | t :: r =>
    if pc = t.last then
      if t.left ≤ 1 then (pc + 1, r) else (t.start, { t with left := t.left - 1, idx := t.idx + 1 } :: r)
    else (pc + 1, t :: r)

/-- A stream after its instruction retires and control goes to `pc`. -/
def Stream.goto (x : Stream) (pc : BitVec 15) (l : List LoopLvl) : Stream :=
  { x with pc := pc, loops := l, status := .run, wait := none, fpc := 0#15, strobe := true }

/-- A stream after its instruction retires in sequence (R184). -/
def Stream.next (x : Stream) : Stream := x.goto (loopNext x.pc x.loops).1 (loopNext x.pc x.loops).2

/-- Retires the stream's instruction in sequence. -/
def retire (b : Bay) (st : Strm) (s : State) : State := s.updStrm b st Stream.next

/-- Retires the stream's instruction with control going to a target (R183). -/
def jump (b : Bay) (st : Strm) (pc : BitVec 15) (s : State) : State :=
  s.updStrm b st (fun x => x.goto pc x.loops)

/-- Faults the stream at the instruction it would issue (R202). -/
def trap (b : Bay) (st : Strm) (code : Nat) (s : State) : State :=
  haltStream b st code (s.strm b st).pc (s.bay b).issued s

/-- No counter of the list has a result still under way (R171, R210). (DEDUCED, log 122) -/
def Stream.free (x : Stream) (rs : List Ctr) : Bool := rs.all (fun r => !x.busy.getLsbD r)

/-- An uncorrectable byte of the IMEM word a running stream fetches: its offset under R453; a stream that waits has fetched
its instruction (R178, R251). (DEDUCED, log 69) -/
def fetchBad (b : Bay) (st : Strm) (s : State) : Option Nat :=
  let o := 0x40000 * strmNo st + 8 * (s.strm b st).pc.toNat
  if (s.strm b st).status = .run then
    ((s.bay b).prot.smallBad.find? (fun e => e.1 == 0x10 && decide (o ≤ e.2) && decide (e.2 < o + 8))).map (fun e => e.2)
  else none

/-- Issues a command of a stream: nothing when it may not issue, fault 0x41 where its IMEM word is uncorrectable, an OTHER
wait while a counter it names is busy (R178, R179, R198), else what `k` makes of the state. (DESIGN CHOICE, log 1) -/
def issue (b : Bay) (st : Strm) (c : Instr) (rs : List Ctr) (k : State → State) (s : State) : State :=
  if canIssue b st c s then
    match fetchBad b st s with
    | some o => trap b st 0x41 (ueAt 0x10 b o s)
    | none => if (s.strm b st).free rs then k s else stall b st .other c 0#32 s
  else s

/-- A counter of a stream. -/
def ctrOf (b : Bay) (st : Strm) (c : Ctr) (s : State) : W32 := (s.strm b st).ctr[c]

/-- Writes a counter of a stream. -/
def Stream.setCtr (x : Stream) (c : Ctr) (v : W32) : Stream := { x with ctr := x.ctr.set c v }

/-- Writes a comparator of a stream. -/
def Stream.setCmp (x : Stream) (k : Fin 8) (v : Bool) : Stream := { x with cmp := setBit x.cmp k v }

/-- Marks a counter as awaiting a result, or as written. -/
def Stream.mark (x : Stream) (c : Ctr) (v : Bool) : Stream := { x with busy := setBit x.busy c v }

/-- The result of a counter instruction: the counter takes a value and the stream goes on (R181). -/
def putCtr (b : Bay) (st : Strm) (c : Ctr) (v : W32) (s : State) : State :=
  s.updStrm b st (fun x => (x.setCtr c v).next)

/-- A result that lands in a counter later (R171, R210): written and no longer busy. -/
def landCtr (b : Bay) (st : Strm) (c : Ctr) (v : W32) (s : State) : State :=
  s.updStrm b st (fun x => (x.setCtr c v).mark c false)

/-! ### Local flags (R187) -/

/-- The value of a local flag. -/
def flagOf (b : Bay) (f : LFlag) (s : State) : Bool := (s.bay b).flags.getLsbD f

/-- Writes a local flag of a bay. -/
def Bays.setFlag (x : Bays) (f : LFlag) (v : Bool) : Bays := { x with flags := setBit x.flags f v }

/-- Writes a local flag. -/
def putFlag (b : Bay) (f : LFlag) (v : Bool) (s : State) : State := s.updBay b (fun x => x.setFlag f v)

/-- Sets a completion flag where the instruction names one. -/
def putFlagOpt (b : Bay) (f : Option LFlag) (s : State) : State :=
  match f with
  | some f => putFlag b f true s
  | none => s

/-! ### Brackets a bay is in (R51, R203, R204) -/

/-- The bracket has taken its locks and the bay has not ended it. -/
def Bracket.holds (k : Bracket) (b : Bay) : Bool :=
  (k.op.isSome || k.ins.isSome) && k.mask.getLsbD b &&
    (match k.op with
     | some o => !o.ended.getLsbD b
     | none => true)

/-- The bracket a bay's X-stream is in: an inserted refresh counts with its operation's (INBR of R204). -/
def bracketOf (b : Bay) (s : State) : Option Bracket := s.hdr.brackets.find? (fun k => k.holds b)

/-- The bay's X-stream is in a bracket. -/
def inBracket (b : Bay) (s : State) : Bool := (bracketOf b s).isSome

/-- The operation a bay runs: the inserted refresh in front of the bracket's own, and none between an insertion's brackets,
while the operation has no verdict yet (R61, R225). -/
def Bracket.cur (k : Bracket) : Option OpenOp :=
  match k.insOp with
  | some o => some o
  | none => if k.ins.isSome then none else k.op

/-- The operation a bay is in: none once it has ended the inserted refresh, until its TS.RET (R53, R225). -/
def Bracket.curIn (k : Bracket) (b : Bay) : Option OpenOp :=
  k.cur.bind (fun o => if k.insOp.isSome && o.ended.getLsbD b then none else some o)

/-- The operation a bay's X-stream is in. -/
def curOf (b : Bay) (s : State) : Option OpenOp := (bracketOf b s).bind (fun k => k.curIn b)

/-- Instructions of the bay issue quenched (R53). -/
def quenched (b : Bay) (s : State) : Bool :=
  match curOf b s with
  | some o => o.verdict != .run
  | none => false

/-! ### Descriptors an instruction names (R215, R263) -/

/-- The descriptor at an index. -/
def descAt (b : Bay) (d : Dix) (s : State) : Option Desc := Sparse.get (fun _ => none) (s.bay b).desc d

/-- The descriptor a unit instruction may use: KIND 1 in the bay's own scratchpad (R263). -/
def unitDesc (b : Bay) (d : Dix) (s : State) : Option Desc :=
  match descAt b d s with
  | some x => if x.kind = 1 ∧ x.alloc = 0xFFFF ∧ x.sbay = b then some x else none
  | none => none

end Sys2Proof.Machine
end

