-- ==== Sys2Proof/Machine/Journal.lean ====
section
/-! DEFINITION. The fuse journal and what it commits: security version, owner key hash, tile retirements, debug policy (R28 to R31, R361, R362). -/

namespace Sys2Proof.Machine

/-- A journal record; an unburned one is 0 (R362). -/
def recordAt (t : Trust) (i : Nat) : BitVec 320 := Sparse.get (fun _ => 0#320) t.journal i

/-- Replaces a journal record. -/
def Trust.putRecord (t : Trust) (i : Nat) (v : BitVec 320) : Trust :=
  { t with journal := Sparse.set (fun _ => 0#320) t.journal i v }

/-- Fields of a record (R362). -/
def recCommitted (r : BitVec 320) : Bool := r.getLsbD 1 && !r.getLsbD 2
def recVoid (r : BitVec 320) : Bool := r.getLsbD 2
def recEntry (r : BitVec 320) : Nat := bitsAt r.toNat 23 16
def recValue (r : BitVec 320) : Nat := r.toNat / 2 ^ 64

/-- The record with INTENT, ENTRY and VALUE burned. -/
def recIntent (entry : Nat) (v : BitVec 256) : BitVec 320 := BitVec.ofNat 320 (1 + entry * 2 ^ 16 + v.toNat * 2 ^ 64)

/-- The values an entry has had committed, in record order. -/
def committed (t : Trust) (entry : Nat) : List Nat :=
  (List.range 96).filterMap (fun i =>
    let r := recordAt t i
    if recCommitted r && recEntry r == entry then some (recValue r) else none)

/-- The lowest free record. -/
def freeRecord (t : Trust) : Option Nat := (List.range 96).find? (fun i => recordAt t i == 0#320)

/-- Free and voided records (R373). -/
def freeRecords (t : Trust) : Nat := ((List.range 96).filter (fun i => recordAt t i == 0#320)).length
def voidRecords (t : Trust) : Nat := ((List.range 96).filter (fun i => recVoid (recordAt t i))).length

/-- The current security version (R361). -/
def svnNow (t : Trust) : Nat := (committed t 1).getLastD t.fuses.svn

/-- The owner key hash (R361). -/
def ownerHash (t : Trust) : List Byte := leBytes ((committed t 2).getLastD 0) 32

/-- The last committed retirement, 0xFF if none. -/
def retirement (t : Trust) : Nat := (committed t 3).getLastD 0xFF

/-- The debug policy in force is CLOSED (R390). -/
def policyClosed (t : Trust) : Bool := t.fuses.closed || !(committed t 4).isEmpty

/-- The map that takes effect at the next reset (R29, R362). -/
def mapNext (t : Trust) : BitVec 108 :=
  (committed t 3).foldl (fun m v => m ||| BitVec.twoPow 108 (9 * (v / 16) + v % 16)) t.fuses.map

/-- Units an entry has left (R361, R362). -/
def unitsLeft (t : Trust) (entry : Nat) : Nat :=
  match entry with
  | 1 => 64 - (svnNow t - t.fuses.svn)
  | 2 => 2 - (committed t 2).length
  | 3 => 4 - (committed t 3).length
  | _ => if t.fuses.closed then 0 else 1 - (committed t 4).length

/-- Units a write of a value would consume. -/
def unitsFor (t : Trust) (entry v : Nat) : Nat := if entry = 1 then v - svnNow t else 1

/-- A retirement R30 accepts: a tile of a bay that has none disabled in the map of the next reset. -/
def retirable (t : Trust) (v : Nat) : Bool :=
  let n := v / 16
  let p := v % 16
  decide (n ≤ 11) && decide (p ≤ 8) && (List.range 9).all (fun i => !(mapNext t).getLsbD (9 * n + i))

/-- A value an entry accepts (R361). -/
def limitedOk (t : Trust) (entry v : Nat) : Bool :=
  match entry with
  | 1 => decide (svnNow t + 1 ≤ v) && decide (v ≤ 64)
  | 2 => v != 0 && v != leNat (ownerHash t)
  | 3 => retirable t v
  | _ => v == 1 && !policyClosed t

/-- The test groups permitted under the debug policy in force (R451). -/
def tmxGroups (t : Trust) : BitVec 16 := if policyClosed t then t.fuses.closedGroups else 0xFFFF#16

end Sys2Proof.Machine
end

