-- ==== Sys2Proof/Machine/Keccak.lean ====
section
/-! DEFINITION. SHAKE128 and SHAKE256 of FIPS 202, which seed expansion, fingerprints and measurements use (R44, R93, R232). -/

namespace Sys2Proof.Machine

/-- A lane turned left. -/
def turn64 (v k : Nat) : Nat := v * 2 ^ k % 2 ^ 64 + v / 2 ^ (64 - k)

/-- Two lanes, and two planes of five lanes, added. -/
def xorL (a b : List Nat) : List Nat := List.zipWith (fun v w => v ^^^ w) a b

/-- Theta: to each plane goes, at x, the sum of column x - 1 and of column x + 1 turned by one. -/
def theta (ps : List (List Nat)) : List (List Nat) :=
  let c := ps.foldl xorL (List.replicate 5 0)
  ps.map (fun p => xorL p (xorL (c.rotateRight 1) ((c.rotateLeft 1).map (fun v => turn64 v 1))))

/-- A lane's place in rho and pi: from (x, y), turned by k, it goes to (y, 2x + 3y). -/
structure RhoStep where
  x : Nat
  y : Nat
  k : Nat

/-- The 24 places in the order rho visits them from (1, 0), turned by the triangular numbers. -/
def rhoWalk : Nat → RhoStep → List RhoStep
  | 0, _ => []
  | n + 1, w => w :: rhoWalk n { x := w.y, y := (2 * w.x + 3 * w.y) % 5, k := w.k + 25 - n }

/-- Rho and pi. -/
def rhoPi (ps : List (List Nat)) : List (List Nat) :=
  (rhoWalk 24 ⟨1, 0, 1⟩).foldl (fun out w =>
    out.modify ((2 * w.x + 3 * w.y) % 5) (fun p => p.set w.y (turn64 ((ps.getD w.y []).getD w.x 0) (w.k % 64)))) ps

/-- Chi: in each plane, lane x takes up the lanes x + 2 that lane x + 1 does not cover. -/
def chi (ps : List (List Nat)) : List (List Nat) :=
  ps.map (fun p => xorL p (List.zipWith (fun v w => (2 ^ 64 - 1 - v) &&& w) (p.rotateLeft 1) (p.rotateLeft 2)))

/-- The shift register of iota, one step on. -/
def iotaStep (r : Nat) : Nat := if r < 128 then 2 * r else (2 * r) ^^^ 0x171

/-- The constant of a round from the register at its start, whose seven bits fall on the places 2^j - 1, and the register
after it. -/
def iotaConst (r : Nat) : Nat × Nat :=
  (List.range 7).foldl (fun (c : Nat × Nat) j => (c.1 + c.2 % 2 * 2 ^ (2 ^ j - 1), iotaStep c.2)) (0, r)

/-- The rounds that remain, with the register of iota. -/
def keccakRounds : Nat → Nat → List (List Nat) → List (List Nat)
  | 0, _, ps => ps
  | n + 1, r, ps =>
    let c := iotaConst r
    keccakRounds n c.2 ((chi (rhoPi (theta ps))).modify 0 (fun p => p.modify 0 (fun v => v ^^^ c.1)))

/-- Keccak-f[1600] on 25 lanes, lane (x, y) at x + 5y. -/
def keccakF (a : List Nat) : List Nat :=
  (keccakRounds 24 1 ((List.range 5).map (fun y => (a.drop (5 * y)).take 5))).flatten

/-- A block of input bytes as lanes. -/
def blockLanes (b : List Byte) : List Nat := (List.range 25).map (fun i => fieldAt b (8 * i) 8)

/-- Absorbs padded blocks of `rate` bytes. -/
def absorb (rate : Nat) (a : List Nat) : List (List Byte) → List Nat
  | [] => a
  | b :: r => absorb rate (keccakF (List.zipWith (· ^^^ ·) a (blockLanes b))) r

/-- The SHAKE padding: the suffix 1111, then 1 0* 1 to a multiple of the rate. -/
def shakePad (rate : Nat) (m : List Byte) : List Byte :=
  let k := rate - m.length % rate
  m ++ (if k = 1 then [0x9F#8] else 0x1F#8 :: (List.replicate (k - 2) 0#8 ++ [0x80#8]))

/-- Cuts a padded string into `n` blocks. -/
def blocks (rate : Nat) (m : List Byte) : Nat → List (List Byte)
  | 0 => []
  | n + 1 => m.take rate :: blocks rate (m.drop rate) n

/-- The state after absorbing a whole message. -/
def sponge (rate : Nat) (m : List Byte) : List Nat :=
  let p := shakePad rate m
  absorb rate (List.replicate 25 0) (blocks rate p (p.length / rate))

/-- The bytes one permutation's state releases. -/
def release (rate : Nat) (a : List Nat) : List Byte := (a.flatMap (fun l => leBytes l 8)).take rate

/-- Output of `n` blocks, in release order; each block after the first costs a permutation. -/
def squeeze (rate : Nat) (a : List Nat) : Nat → List Byte
  | 0 => []
  | n + 1 => release rate a ++ squeeze rate (keccakF a) n

/-- SHAKE256 cut to `n` bytes. -/
def shake256 (m : List Byte) (n : Nat) : List Byte := (squeeze 136 (sponge 136 m) (n / 136 + 1)).take n

/-- The first release state of SHAKE128. -/
def shake128 (m : List Byte) : List Nat := sponge 168 m

end Sys2Proof.Machine
end

