-- ==== Sys2Proof/Machine/Falcon.lean ====
section
/-! DEFINITION. Verification of a padded Falcon-1024 signature (R382, R388). (PRESUMED, log 83) -/

namespace Sys2Proof.Machine

/-- The modulus, and the bound of the squared norm. -/
def falconQ : Nat := 12289
def falconBound : Nat := 70265242

/-- The value of big-endian bytes. -/
def beValue (l : List Byte) : Nat := leNat l.reverse

/-- The 1,024 coefficients of a public key: a header byte, then 14 bits each, most significant first. -/
def falconKey (key : List Byte) : List Nat :=
  let n := beValue (key.drop 1)
  (List.range 1024).map (fun i => n / 2 ^ (14 * (1023 - i)) % 2 ^ 14)

/-- The key has its length, header and range. -/
def falconKeyOk (key : List Byte) : Bool :=
  key.length == 1793 && key.headD 0#8 == 0x0A#8 && (falconKey key).all (fun c => decide (c < falconQ))

/-- The residues that 16-bit big-endian values below 5 × 12,289 give. -/
def falconCands : List Byte → List Nat
  | x :: y :: r =>
    let v := x.toNat * 256 + y.toNat
    if v < 5 * falconQ then v % falconQ :: falconCands r else falconCands r
  | _ => []

/-- Candidates from successive release states of SHAKE256 until there are 1,024. -/
def falconFill : Nat → List Nat → List Nat → List Nat
  | 0, _, acc => acc
  | n + 1, st, acc => if 1024 ≤ acc.length then acc else falconFill n (keccakF st) (acc ++ falconCands (release 136 st))

/-- The point a message hashes to under a nonce. -/
def falconPoint (nonce msg : List Byte) : List Nat := (falconFill 128 (sponge 136 (nonce ++ msg)) []).take 1024

/-- Bits of bytes, most significant first. -/
def falconBits (l : List Byte) : List Bool := l.flatMap (fun v => (List.range 8).map (fun i => v.getLsbD (7 - i)))

/-- The zeros before the next 1, and what follows it. -/
def falconUnary : List Bool → Nat → Option (Nat × List Bool)
  | [], _ => none
  | true :: r, k => some (k, r)
  | false :: r, k => falconUnary r (k + 1)

/-- Coefficients of a compressed polynomial: a sign, seven low bits, the rest in unary; no -0, and zeros behind the last. -/
def falconUnpack : Nat → List Bool → Option (List Int)
  | 0, r => if r.any id then none else some []
  | _ + 1, [] => none
  | n + 1, neg :: r =>
    match falconUnary (r.drop 7) 0 with
    | none => none
    | some (k, t) =>
      let v := (r.take 7).foldl (fun a d => 2 * a + (if d then 1 else 0)) 0 + 128 * k
      if neg && v == 0 then none
      else (falconUnpack n t).map (fun l => (if neg then -(v : Int) else (v : Int)) :: l)

/-- A polynomial times X modulo X^1024 + 1. -/
def timesX (l : List Int) : List Int :=
  match l.getLast? with
  | some c => -c :: l.dropLast
  | none => []

/-- The product of two polynomials modulo X^1024 + 1, added to a third. -/
def mulAdd : List Int → List Int → List Int → List Int
  | [], _, acc => acc
  | c :: r, h, acc => mulAdd r (timesX h) (List.zipWith (fun x y => x + c * y) acc h)

/-- A residue in the range around zero. -/
def falconMid (v : Int) : Int :=
  let r := v % (falconQ : Int)
  if 2 * r ≤ (falconQ : Int) then r else r - (falconQ : Int)

/-- The squared norm of a polynomial. -/
def normSq (l : List Int) : Int := (l.map (fun v => v * v)).foldl (· + ·) 0

/-- The signature verifies under the key over the message. (PRESUMED, log 83) -/
def falconVerify (key msg sig : List Byte) : Bool :=
  falconKeyOk key && sig.length == 1280 && sig.headD 0#8 == 0x3A#8 &&
    (match falconUnpack 1024 (falconBits (sig.drop 41)) with
     | none => false
     | some s2 =>
       let c := (falconPoint ((sig.drop 1).take 40) msg).map (fun v : Nat => (v : Int))
       let p := mulAdd s2 ((falconKey key).map (fun v : Nat => (v : Int))) (List.replicate 1024 0)
       let s1 := List.zipWith (fun x y => falconMid (x - y)) c p
       decide (normSq s1 + normSq s2 ≤ (falconBound : Int)))

end Sys2Proof.Machine
end

