-- ==== Sys2Proof/Machine/Pair.lean ====
section
/-! DEFINITION. Falcon-1024 key pairs: a public key and signatures that verify under it (R376, R378), with one pair that shows there is such a thing. -/

namespace Sys2Proof.Machine

/-! ### A pair that exists: the public polynomial is the constant 111 -/

/-- The public key 111. -/
def plainKey : List Byte := [0x0A#8, 0x01#8, 0xBC#8] ++ List.replicate 1790 0#8

/-- A byte from eight bits, most significant first, and the bytes of longer strings of bits. -/
def packByte (l : List Bool) : Byte := BitVec.ofNat 8 (l.foldl (fun a d => 2 * a + (if d then 1 else 0)) 0)
def packBits : Nat → List Bool → List Byte
  | 0, _ => []
  | n + 1, l => packByte (l.take 8) :: packBits n (l.drop 8)

/-- A coefficient below 128 in compressed form. -/
def plainCoeff (v : Nat) : List Bool := false :: ((List.range 7).map (fun i => v.testBit (6 - i)) ++ [true])

/-- The multiple of 111 nearest to a residue. -/
def plainMult (v : Nat) : Nat := (v + 55) / 111

/-- The nonce of its signatures. -/
def plainNonce : List Byte := List.replicate 40 0#8

/-- The short polynomial of a signature under the key 111. -/
def plainShort (msg : List Byte) : List Nat :=
  let c := falconPoint plainNonce msg
  c.map plainMult ++ List.replicate (1024 - c.length) 0

/-- A signature under the key 111. -/
def plainSign (msg : List Byte) : List Byte :=
  0x3A#8 :: (plainNonce ++ packBits 1239 ((plainShort msg).flatMap plainCoeff ++ List.replicate 696 false))

theorem falconKey_plainKey : falconKey plainKey = 111 :: List.replicate 1023 0 := by decide +kernel

theorem falconKeyOk_plainKey : falconKeyOk plainKey = true := by decide +kernel

theorem bits_packByte : ∀ a b c d e f g h : Bool,
    (List.range 8).map (fun i => (packByte [a, b, c, d, e, f, g, h]).getLsbD (7 - i)) = [a, b, c, d, e, f, g, h] := by decide

theorem falconBits_packBits (n : Nat) (l : List Bool) (h : l.length = 8 * n) : falconBits (packBits n l) = l := by
  induction n generalizing l with
  | zero => simp_all [packBits, falconBits]
  | succ n ih =>
    match l, h with
    | a :: b :: c :: d :: e :: f :: g :: k :: r, h =>
      have hr := ih r (by simp at h; omega)
      simp only [falconBits] at hr
      simp only [packBits, falconBits, List.flatMap_cons, List.take_succ_cons, List.take_zero, List.drop_succ_cons, List.drop_zero,
        bits_packByte, hr, List.cons_append, List.nil_append]

theorem length_packBits (n : Nat) (l : List Bool) : (packBits n l).length = n := by
  induction n generalizing l with
  | zero => rfl
  | succ n ih => simp [packBits, ih]

theorem plainCoeff_value : ∀ v : Fin 128,
    ((List.range 7).map (fun i => v.val.testBit (6 - i))).foldl (fun a d => 2 * a + (if d then 1 else 0)) 0 = v.val := by decide

theorem falconUnpack_plain (l : List Nat) (h : ∀ v ∈ l, v < 128) (z : Nat) :
    falconUnpack l.length (l.flatMap plainCoeff ++ List.replicate z false) = some (l.map (fun v : Nat => (v : Int))) := by
  induction l with
  | nil => simp [falconUnpack]
  | cons v r ih =>
    have hv := plainCoeff_value ⟨v, h v (by simp)⟩
    have hl : ((List.range 7).map (fun i => v.testBit (6 - i))).length = 7 := by simp
    simp only [List.length_cons, List.flatMap_cons, plainCoeff, List.cons_append, List.append_assoc, falconUnpack]
    rw [List.drop_append_of_le_length (by omega), List.take_append_of_le_length (by omega),
      List.drop_of_length_le (by omega), List.take_of_length_le (by omega)]
    simp only [List.nil_append, falconUnary, hv]
    simp only [Bool.false_and, Bool.false_eq_true, if_false]
    rw [ih (fun w hw => h w (by simp [hw]))]
    simp

theorem timesX_mono (k m : Nat) (a : Int) :
    timesX (List.replicate k 0 ++ a :: List.replicate (m + 1) 0) = List.replicate (k + 1) 0 ++ a :: List.replicate m 0 := by
  have : List.replicate k (0 : Int) ++ a :: List.replicate (m + 1) 0 = (List.replicate k 0 ++ a :: List.replicate m 0) ++ [0] := by
    rw [List.replicate_succ']; simp
  rw [this]
  simp only [timesX, List.getLast?_concat, List.dropLast_concat, neg_zero, List.replicate_succ, List.cons_append]

theorem zipWith_zeros (c : Int) (p : List Int) :
    List.zipWith (fun x y => x + c * y) p (List.replicate p.length 0) = p := by
  induction p with
  | nil => rfl
  | cons x r ih => simp [List.replicate_succ, ih]

theorem mulAdd_mono (a : Int) (s p q h : List Int) (hs : s.length = q.length)
    (hh : q ≠ [] → h = List.replicate p.length 0 ++ a :: List.replicate (q.length - 1) 0) :
    mulAdd s h (p ++ q) = p ++ List.zipWith (fun x c => x + c * a) q s := by
  induction s generalizing p q h with
  | nil => cases q with
    | nil => simp [mulAdd]
    | cons x r => simp at hs
  | cons c r ih =>
    cases q with
    | nil => simp at hs
    | cons x t =>
      have hr : r.length = t.length := by simpa using hs
      obtain rfl := hh (by simp)
      simp only [mulAdd, List.length_cons, Nat.add_sub_cancel]
      rw [List.zipWith_append (by simp), zipWith_zeros, List.zipWith_cons_cons, zipWith_zeros]
      have := ih (p ++ [x + c * a]) t (timesX (List.replicate p.length 0 ++ a :: List.replicate t.length 0)) hr (by
        intro ht
        obtain ⟨y, u, rfl⟩ := List.exists_cons_of_ne_nil ht
        rw [List.length_cons, timesX_mono]
        simp)
      simpa using this

theorem normSq_le (b : Int) (l : List Int) (h : ∀ v ∈ l, -b ≤ v ∧ v ≤ b) : normSq l ≤ l.length * (b * b) := by
  have key : ∀ (l : List Int) (n : Int), (∀ v ∈ l, -b ≤ v ∧ v ≤ b) →
      (l.map (fun v => v * v)).foldl (· + ·) n ≤ n + l.length * (b * b) := by
    intro l
    induction l with
    | nil => intro n _; simp
    | cons v r ih =>
      intro n h
      have h1 := ih (n + v * v) (fun w hw => h w (by simp [hw]))
      have h2 : v * v ≤ b * b := by nlinarith [(h v (by simp)).1, (h v (by simp)).2]
      simp only [List.map_cons, List.foldl_cons, List.length_cons]
      push_cast
      linarith
  simpa [normSq] using key l 0 h

theorem falconFill_lt (n : Nat) (st : List Nat) (acc : List Nat) (h : ∀ v ∈ acc, v < falconQ) : ∀ v ∈ falconFill n st acc, v < falconQ := by
  have hc : ∀ l : List Byte, ∀ v ∈ falconCands l, v < falconQ := by
    intro l
    induction l using falconCands.induct with
    | case1 x y r w hw ih =>
      intro v hv
      simp only [falconCands] at hv
      rw [if_pos hw] at hv
      rcases List.mem_cons.1 hv with rfl | hv
      · exact Nat.mod_lt _ (by decide)
      · exact ih v hv
    | case2 x y r w hw ih =>
      intro v hv
      simp only [falconCands] at hv
      rw [if_neg hw] at hv
      exact ih v hv
    | case3 l hl => intro v hv; simp [falconCands] at hv
  induction n generalizing st acc with
  | zero => simpa [falconFill] using h
  | succ n ih =>
    rw [falconFill]
    split
    · exact h
    · refine ih _ _ ?_
      intro v hv
      rcases List.mem_append.1 hv with hv | hv
      · exact h v hv
      · exact hc _ v hv

theorem falconPoint_lt (nonce msg : List Byte) : ∀ v ∈ falconPoint nonce msg, v < falconQ := fun v hv =>
  falconFill_lt 128 _ [] (by simp) v (List.mem_of_mem_take hv)

theorem length_falconPoint (nonce msg : List Byte) : (falconPoint nonce msg).length ≤ 1024 := by
  simp only [falconPoint, List.length_take]; omega

theorem length_plainNonce : plainNonce.length = 40 := List.length_replicate ..

theorem length_plainShort (msg : List Byte) : (plainShort msg).length = 1024 := by
  have := length_falconPoint plainNonce msg
  simp only [plainShort, List.length_append, List.length_map, List.length_replicate]; omega

theorem plainShort_lt (msg : List Byte) : ∀ v ∈ plainShort msg, v < 112 := by
  intro v hv
  simp only [plainShort, List.mem_append, List.mem_map, List.mem_replicate] at hv
  rcases hv with ⟨w, hw, rfl⟩ | ⟨_, rfl⟩
  · have := falconPoint_lt _ _ w hw
    simp only [falconQ] at this
    simp only [plainMult]; omega
  · omega

theorem plain_rest (c : List Nat) (r : List Nat) (h : ∀ v ∈ c, v < falconQ) :
    ∀ x ∈ List.zipWith (fun x y => falconMid (x - y)) (c.map (fun v : Nat => (v : Int)))
      (((c.map plainMult ++ r).map (fun v : Nat => (v : Int))).map (fun v => v * 111)), -55 ≤ x ∧ x ≤ 55 := by
  induction c with
  | nil => simp
  | cons v t ih =>
    intro x hx
    simp only [List.map_cons, List.cons_append, List.zipWith_cons_cons, List.mem_cons] at hx
    rcases hx with rfl | hx
    · have hv := h v (by simp)
      simp only [falconQ] at hv
      simp only [falconMid, falconQ, plainMult]
      push_cast
      split <;> omega
    · exact ih (fun w hw => h w (by simp [hw])) x (by simpa using hx)

theorem length_plainCoeffs (l : List Nat) : (l.flatMap plainCoeff).length = 9 * l.length := by
  induction l with
  | nil => rfl
  | cons v r ih => simp [List.flatMap_cons, ih, plainCoeff]; omega

theorem zipWith_times (s : List Int) :
    List.zipWith (fun x c => x + c * 111) (List.replicate s.length 0) s = s.map (fun v => v * 111) := by
  induction s with
  | nil => rfl
  | cons v r ih => simp [List.replicate_succ, ih]

theorem drop_plainSign (msg : List Byte) :
    (plainSign msg).drop 41 = packBits 1239 ((plainShort msg).flatMap plainCoeff ++ List.replicate 696 false) := by
  rw [plainSign, List.drop_succ_cons, List.drop_append_of_le_length (Nat.le_of_eq length_plainNonce.symm),
    List.drop_of_length_le (Nat.le_of_eq length_plainNonce), List.nil_append]

theorem nonce_plainSign (msg : List Byte) : ((plainSign msg).drop 1).take 40 = plainNonce := by
  rw [plainSign, List.drop_succ_cons, List.drop_zero, List.take_append_of_le_length (Nat.le_of_eq length_plainNonce.symm),
    List.take_of_length_le (Nat.le_of_eq length_plainNonce)]

theorem length_plainSign (msg : List Byte) : (plainSign msg).length = 1280 := by
  rw [plainSign, List.length_cons, List.length_append, length_packBits, length_plainNonce]

theorem unpack_plainSign (msg : List Byte) :
    falconUnpack 1024 (falconBits ((plainSign msg).drop 41)) = some ((plainShort msg).map (fun v : Nat => (v : Int))) := by
  have hu := falconUnpack_plain (plainShort msg) (fun v hv => by have := plainShort_lt msg v hv; omega) 696
  rw [length_plainShort] at hu
  rw [drop_plainSign, falconBits_packBits, hu]
  rw [List.length_append, length_plainCoeffs, length_plainShort, List.length_replicate]

/-- A short polynomial times 111. -/
theorem mulAdd_plain (n : Nat) (s : List Int) (hs : s.length = n + 1) :
    mulAdd s (111 :: List.replicate n 0) (List.replicate (n + 1) 0) = s.map (fun v => v * 111) := by
  have hm := mulAdd_mono 111 s [] (List.replicate (n + 1) 0) (111 :: List.replicate n 0)
    (by rw [hs, List.length_replicate]) (fun _ => by rw [List.length_replicate]; rfl)
  rw [List.nil_append, List.nil_append] at hm
  rw [hm, ← hs, zipWith_times]

theorem key_plain : (falconKey plainKey).map (fun v : Nat => (v : Int)) = 111 :: List.replicate 1023 0 := by
  rw [falconKey_plainKey, List.map_cons, List.map_replicate]; rfl

theorem rest_plain (msg : List Byte) :
    normSq (List.zipWith (fun x y => falconMid (x - y)) ((falconPoint plainNonce msg).map (fun v : Nat => (v : Int)))
      (((plainShort msg).map (fun v : Nat => (v : Int))).map (fun v => v * 111))) ≤ 1024 * (55 * 55) := by
  refine le_trans (normSq_le 55 _ (plain_rest _ _ (falconPoint_lt plainNonce msg))) ?_
  have := length_falconPoint plainNonce msg
  have : ((List.zipWith (fun x y => falconMid (x - y)) ((falconPoint plainNonce msg).map (fun v : Nat => (v : Int)))
      (((plainShort msg).map (fun v : Nat => (v : Int))).map (fun v => v * 111))).length : Int) ≤ 1024 := by
    rw [List.length_zipWith, List.length_map]; omega
  exact Int.mul_le_mul_of_nonneg_right this (by decide)

theorem short_plain (msg : List Byte) : normSq ((plainShort msg).map (fun v : Nat => (v : Int))) ≤ 1024 * (111 * 111) := by
  refine le_trans (normSq_le 111 _ ?_) (by rw [List.length_map, length_plainShort]; decide)
  intro v hv
  obtain ⟨w, hw, rfl⟩ := List.mem_map.1 hv
  have := plainShort_lt msg w hw
  omega

theorem plainSign_verifies (msg : List Byte) : falconVerify plainKey msg (plainSign msg) = true := by
  have h1 := rest_plain msg
  have h2 := short_plain msg
  have hh : (plainSign msg).headD 0#8 = 0x3A#8 := rfl
  have hm := mulAdd_plain 1023 ((plainShort msg).map (fun v : Nat => (v : Int))) (by rw [List.length_map, length_plainShort])
  rw [falconVerify, falconKeyOk_plainKey, length_plainSign, hh, unpack_plainSign, nonce_plainSign, key_plain]
  simp only [beq_self_eq_true, Bool.true_and, hm, decide_eq_true_eq, falconBound]
  omega

/-! ### Pairs -/

/-- A Falcon-1024 key pair: the public key in its 1,793-byte encoding, and a signature of each message that verifies under it. -/
structure FalconPair where
  pub : List Byte := plainKey
  sign : List Byte → List Byte := plainSign
  verifies : ∀ msg : List Byte, falconVerify pub msg (sign msg) = true := by exact plainSign_verifies
  deriving Inhabited

end Sys2Proof.Machine
end

