-- ==== Sys2Proof/Config.lean ====
section
/-! DEFINITION. Values the specification leaves open, as constants nothing can look into, and the identity functions of published standards that the model does not compute. -/

namespace Sys2Proof

/-- The free values (log 2): the number of a draw gives a value the specification does not state.
(DESIGN CHOICE, log 2) -/
opaque Config.freeNat : Nat → Nat

/-- The place, modulo 32, of a data-queue entry in its queue's memory, by bay, queue and ticket, and the slot, modulo 64, of a
segment in the regeneration queue, by bay, stream and number (R453, log 191). (DESIGN CHOICE, log 191) -/
opaque Config.dqPlace : Nat → Nat → Nat → Nat
opaque Config.regenSlot : Nat → Nat → Nat → Nat

/-- The phase of a divided clock of the test multiplexers, by power-on and pin (R450, log 118). (DESIGN CHOICE, log 118) -/
opaque Config.clockPhase : Nat → Nat → Nat

/-- The Falcon-1024 pair that key generation makes from its random draws, each a byte by its number (R376, R378, log 12).
(DESIGN CHOICE, log 12) -/
opaque Config.identity : (Nat → Byte) → Machine.FalconPair

end Sys2Proof
end

