-- ==== Sys2Proof/Machine/Prime.lean ====
section
/-! DEFINITION. Prime records and the Barrett reduction of the bottom unit (R81 to R83). -/

namespace Sys2Proof.Machine

/-- The fields of a 16-byte prime record and the value of its RSVD bits. -/
def PrimeRec.ofNat (v : Nat) : PrimeRec × Nat :=
  ({ q := BitVec.ofNat 32 v, mlen := BitVec.ofNat 5 (v / 2 ^ 32), mu := BitVec.ofNat 64 (v / 2 ^ 64) }, bitsAt v 63 37)

/-- Bit length of a modulus. -/
def bitLength (q : Nat) : Nat := if q = 0 then 0 else Nat.log2 q + 1

/-- A prime record passes the checks of R83. -/
def primeOk (r : PrimeRec × Nat) : Bool :=
  let q := r.1.q.toNat
  let mu := r.1.mu.toNat
  r.2 == 0 && decide (2 ^ 27 < q) && decide (q < 2 ^ 31) && decide (r.1.mlen.toNat = bitLength q) &&
    decide (mu * q ≤ 2 ^ 89) && decide (2 ^ 89 < (mu + 1) * q)

/-- The reduction of R82: two multiplications and at most two conditional subtractions. -/
def PrimeRec.reduce (p : PrimeRec) (acc : Nat) : Nat :=
  let q := p.q.toNat
  let t := acc / 2 ^ (p.mlen.toNat - 1)
  let qhat := t * p.mu.toNat / 2 ^ (90 - p.mlen.toNat)
  let r := (acc + 2 ^ 34 * (qhat * q / 2 ^ 34 + 1) - qhat * q) % 2 ^ 34
  let r := if q ≤ r then r - q else r
  if q ≤ r then r - q else r

/-- A prime table of records, by entry. -/
def primeAt (t : Sparse PrimeRec) (e : Nat) : PrimeRec := Sparse.get (fun _ => PrimeRec.reset) t e

/-- The m records stored in a byte string, with their reserved bits. -/
def primeRecs (l : List Byte) (m : Nat) : List (PrimeRec × Nat) :=
  (List.range m).map (fun i => PrimeRec.ofNat (fieldAt l (16 * i) 16))

/-- A table with records written from entry e on. -/
def putPrimes (t : Sparse PrimeRec) (e : Nat) (l : List (PrimeRec × Nat)) : Sparse PrimeRec :=
  Sparse.setList (fun _ => PrimeRec.reset) t e (l.map (fun r => r.1))

end Sys2Proof.Machine
end

