-- ==== Sys2Proof/Machine/Protect.lean ====
section
/-! DEFINITION. Uncorrectable events as they are counted, requests for a page repair, and free values (R247 to R254). -/

namespace Sys2Proof.Machine

/-- The next free value (log 2). (DESIGN CHOICE, log 16) -/
def freeVal (s : State) : Nat := Config.freeNat s.free

/-- The state after `n` free values were used. -/
def drew (n : Nat) (s : State) : State := { s with free := s.free + n }

/-- Counts an uncorrectable event at a page-coded word. -/
def uePage (b : Bay) (w : Nat) (s : State) : State :=
  if w < spadWords then ueAt 1 b (8 * w) s else ueAt 2 b (8 * (w - spadWords)) s

/-- Counts a corrected word or byte of the memory with an Id (R254). -/
def Codes.corrected (c : Codes) (id : Nat) : Codes :=
  if id = 1 then { c with spadCorr := satAdd 64 c.spadCorr 1 }
  else if id = 2 then { c with keyCorr := satAdd 64 c.keyCorr 1 }
  else if id = 3 ∨ id = 4 then { c with wordCorr := satAdd 64 c.wordCorr 1 }
  else { c with byteCorr := satAdd 64 c.byteCorr 1 }

/-- Changes a bay's protection; a repair moves nothing of R200. -/
def updProt (b : Bay) (f : Prot → Prot) (s : State) : State := s.setBay b { s.bay b with prot := f (s.bay b).prot }

/-- A single-bit error corrected in the data delivered: counted, and its write-back waits (R243). -/
def correctedAt (b : Bay) (id off : Nat) (s : State) : State :=
  updProt b (fun p => { p with wbs := if p.wbs.contains (id, off) then p.wbs else p.wbs ++ [(id, off)] })
    { s with codes := s.codes.corrected id }

/-- Words of a bay's page-coded memories replaced as stored, no write of any unit. -/
def Bays.putWord (x : Bays) (w : Nat) (v : BitVec 64) : Bays :=
  if w < spadWords then x
  else { x with keyBuf := Sparse.setList (fun _ => 0#32) x.keyBuf (2 * (w - spadWords)) [v.setWidth 32, (v >>> 32).setWidth 32] }

/-- A page-coded word as stored. -/
def wordOf (b : Bay) (w : Nat) (s : State) : BitVec 64 := wordAt s.mem (s.bay b).keyBuf b w

/-- Replaces a page-coded word as stored. -/
def putWord (b : Bay) (w : Nat) (v : BitVec 64) (s : State) : State :=
  let s := s.setBay b ((s.bay b).putWord w v)
  if w < spadWords then
    { s with mem := Memory.wrRun (fun _ => true) s.mem (spadBase b + 8 * w) (leBytes v.toNat 8) }
  else s

/-- The page's silently wrong words, after word `w` holds `v` where it was written as `o`. -/
def Prot.setSilent (p : Prot) (w : Nat) (v o : BitVec 64) : Prot :=
  let l := p.silent.filter (fun e => e.1 != w)
  { p with silent := if v = o then l else l ++ [(w, o)] }

/-- A word passes its word code, unseen or miscorrected, as another value: it stands so, and is delivered so (R242). -/
def misread (b : Bay) (w : Nat) (v : BitVec 64) (s : State) : State :=
  if (s.bay b).prot.bad.contains w then s
  else
    let o := (s.bay b).prot.written w (wordOf b w s)
    putWord b w v (updProt b (fun p => p.setSilent w v o) s)

/-! ### Page repairs asked for (R248, R249) -/

/-- A repair of the word's page waits in the repair unit. -/
def Prot.repairAsked (p : Prot) (w : Nat) : Bool := p.repairs.any (fun r => r.page == w / 512 && !r.scrub)

/-- A demand repair of the word's page waits in the repair unit (R248). -/
def Prot.asked (p : Prot) (w : Nat) (quiet : Bool) : Prot :=
  if p.repairAsked w then
    { p with repairs := p.repairs.map (fun r =>
        if r.page = w / 512 ∧ r.scrub = false then
          { r with words := if r.words.contains w then r.words else r.words ++ [w], quiet := r.quiet && quiet }
        else r) }
  else { p with repairs := p.repairs ++ [⟨w / 512, [w], false, quiet⟩] }

/-- An access of the program has asked for a repair of the word's page. -/
def Prot.demanded (p : Prot) (w : Nat) : Bool := p.repairs.any (fun r => r.page == w / 512 && !r.scrub && !r.quiet)

/-- The page is under repair, so every request to it waits (R248). -/
def Prot.repairs? (p : Prot) (g : Nat) : Bool :=
  match p.repairing with
  | some r => r.page == g
  | none => false

/-- Asks for a demand page repair, a throttle event (R248, R249, R316). (DEDUCED, log 67) -/
def askRepair (b : Bay) (w : Nat) (s : State) : State :=
  let new := !(s.bay b).prot.demanded w
  let s := s.updBay b (fun x => { x with prot := x.prot.asked w false })
  if new then throttle 5 b 0 s else s

/-- Asks for a page repair of which the run and the record ring learn nothing (R447). (DEDUCED, log 193) -/
def askQuiet (b : Bay) (w : Nat) (s : State) : State := s.updBay b (fun x => { x with prot := x.prot.asked w true })

/-- One of the addresses lies in a page under repair. -/
def underRepair (s : State) (l : List Nat) : Bool :=
  s.bays.toList.any (fun x => x.prot.repairing.isSome) &&
    l.any (fun a =>
      match spadAt a with
      | some (n, o) => if h : n < 12 then s.bays[n].prot.repairs? (o / 4096) else false
      | none => false)

/-- Word `w` of bay b's scratchpad is among the addresses. -/
def touches (b : Bay) (l : List Nat) (w : Nat) : Bool :=
  decide (w < spadWords) && l.any (fun a => a / 8 == (spadBase b + 8 * w) / 8)

/-! ### Units of the small memories a step reads (R251, R453) -/

/-- The unit an event names: memory Id and number among the units read. -/
def evUnit : CodeEvent → Option (Nat × Nat)
  | .small id i => if 0x10 ≤ id.toNat then some (id.toNat, i) else none
  | .vreg i => some (3, i)
  | .queue i => some (4, i)
  | _ => none

/-- The event is an uncorrectable unit of the memory with an Id. -/
def evIs (ev : CodeEvent) (id : Nat) : Bool :=
  match evUnit ev with
  | some e => e.1 == id
  | none => false

/-- The event is an error corrected in the memory with an Id. -/
def evFixes (ev : CodeEvent) (id : Nat) : Bool :=
  match ev with
  | .fixed x _ => x.toNat == id
  | _ => false

/-- The number an event names its unit by. -/
def evIndex : CodeEvent → Nat
  | .fixed _ i => i
  | .slip _ i _ => i
  | .small _ i => i
  | _ => 0

/-- Unit i of the memory with an Id among those a step reads, each as Id and byte offset. -/
def pickUnit (l : List (Nat × Nat)) (id i : Nat) : Option Nat :=
  let offs := (l.filter (fun x => x.1 == id)).map (fun x => x.2)
  offs[i % offs.length]?

/-- Bytes of a unit of a byte-coded memory (R453). -/
def unitSize (id : Nat) : Nat :=
  if id = 0x10 then 8 else if id = 0x12 then 64 else if id = 0x13 then 16 else if id = 0x14 then 2 else 4

/-- A unit holds a byte left uncorrectable. -/
def Prot.unitBad (p : Prot) (x : Nat × Nat) : Bool :=
  p.smallBad.any (fun e => e.1 == x.1 && decide (x.2 ≤ e.2) && decide (e.2 < x.2 + unitSize x.1))

/-- Units of a small memory are written, those of its offsets that `w` picks: their bytes are good again, and a write-back that
waits for one of them is superseded (R243). -/
def Prot.rewritten (p : Prot) (id : Nat) (w : Nat → Bool) : Prot :=
  { p with
    smallBad := p.smallBad.filter (fun e => !(e.1 == id && w e.2))
    wbs := p.wbs.filter (fun e => !(e.1 == id && w e.2)) }

/-- A written unit of a byte-coded memory is good again. -/
def Prot.cured (p : Prot) (id off : Nat) : Prot :=
  p.rewritten id (fun o => decide (off ≤ o) && decide (o < off + unitSize id))

/-- The words of a bay's memories in a range of offsets are written (R243). -/
def rewrote (b : Bay) (id lo n : Nat) (s : State) : State :=
  updProt b (fun p => p.rewritten id (fun o => decide (lo ≤ o) && decide (o < lo + n))) s

/-- IMEM, DMEM and descriptors of a bay are written whole. -/
def Prot.reloaded (p : Prot) : Prot :=
  ((p.rewritten 0x10 (fun _ => true)).rewritten 0x11 (fun _ => true)).rewritten 0x12 (fun _ => true)

/-- A written unit of a bay's byte-coded memory is good again. -/
def cure (b : Bay) (id off : Nat) (s : State) : State := updProt b (fun p => p.cured id off) s

/-- The uncorrectable unit a step meets among those it reads. -/
def metUnit (b : Bay) (ev : CodeEvent) (l : List (Nat × Nat)) (s : State) : Option (Nat × Nat) :=
  match (evUnit ev).bind (fun e => (pickUnit l e.1 e.2).map (fun o => (e.1, o))) with
  | some x => some x
  | none => if (s.bay b).prot.smallBad.isEmpty then none else l.find? (s.bay b).prot.unitBad

/-- The stream fault of an uncorrectable unit (R251). -/
def unitFault (id : Nat) : Nat := if id = 3 then 0x45 else if id = 4 then 0x46 else 0x44

/-! ### A small memory's unit that reads as another value (R242, R453) -/

/-- The physical tile that serves a logical tile: the (i + 1)-th enabled one of its bay in the disabled-unit map (R28). -/
def physTile (map : BitVec 108) (b : Bay) (lt : Lt) : Nat :=
  ((List.range 9).filter (fun p => !map.getLsbD (9 * b + p))).getD lt 8

/-- The entry of a table bank at a key: 0 where none was loaded, its own number (R136). -/
def tblDefault : Nat → BitVec 16 := fun k => BitVec.ofNat 16 (k % 1024)

/-- A 32-bit word of a predicate replaced. -/
def predWord (p : BitVec 512) (k v : Nat) : BitVec 512 :=
  (p &&& ~~~(BitVec.ofNat 512 (0xFFFFFFFF * 2 ^ (32 * k)))) ||| BitVec.ofNat 512 (v % 2 ^ 32 * 2 ^ (32 * k))

/-- A word of a vector register, predicate or KA row reads as `v`. -/
def Vec.putUnit (x : Vec) (off v : Nat) : Vec :=
  let w := BitVec.ofNat 32 v
  if off < 0x10000 then
    let r : VReg := Fin.ofNat 32 (off / 2048)
    { x with vregs := x.vregs.set r (Sparse.set (fun _ => 0#32) x.vregs[r] (off % 2048 / 4) w) }
  else if off < 0x20000 then
    let p : PReg := Fin.ofNat 8 ((off - 0x10000) / 64)
    { x with preds := x.preds.set p (predWord x.preds[p] (off % 64 / 4) v) }
  else { x with ka := Sparse.set (fun _ => 0#32) x.ka ((off - 0x20000) / 4) w }

/-- A bank entry of a tile, a CPT entry and a stationary word read as `v`; `off` lies in the tile's own part. -/
def Tile.putBankUnit (t : Tile) (off v : Nat) : Tile :=
  let e := off / 12
  let put := fun x : OBank => { x with ent := Sparse.set (fun _ => 0#96) x.ent (e % 65536) (BitVec.ofNat 96 v) }
  if e / 65536 = 0 then { t with ob0 := put t.ob0 } else { t with ob1 := put t.ob1 }

def Tile.putCptUnit (t : Tile) (off v : Nat) : Tile :=
  { t with cpt := Sparse.set (fun _ => PrimeRec.reset) t.cpt (off / 16) (PrimeRec.ofNat v).1 }

def Tile.putSbufUnit (t : Tile) (off v : Nat) : Tile :=
  let put := fun x : SBuf => { x with words := Sparse.set (fun _ => 0#32) x.words (off % 0x40000 / 4) (BitVec.ofNat 32 v) }
  if off / 0x40000 = 0 then { t with s0 := put t.s0 } else { t with s1 := put t.s1 }

/-- Changes the tile a physical tile serves. -/
def Bays.updPhys (x : Bays) (map : BitVec 108) (b : Bay) (p : Nat) (f : Tile → Tile) : Bays :=
  { x with tiles := x.tiles.mapFinIdx (fun i t h => if physTile map b ⟨i, h⟩ = p then f t else t) }

/-- The VPT, the ring NTT prime record and an accumulator word read as `v`. -/
def Bays.putPrimeUnit (x : Bays) (off v : Nat) : Bays :=
  if off < 0x11000 then
    { x with vec := { x.vec with vpt := Sparse.set (fun _ => PrimeRec.reset) x.vec.vpt ((off - 0x10000) / 16) (PrimeRec.ofNat v).1 } }
  else if off < 0x20000 then { x with nt := { x.nt with prime := (PrimeRec.ofNat v).1 } }
  else { x with nt := { x.nt with acc := Sparse.set (fun _ => 0#32) x.nt.acc ((off - 0x20000) / 4) (BitVec.ofNat 32 v) } }

/-- Byte 0 of a data-queue entry and of a segment in the regeneration queue (R453). (DESIGN CHOICE, log 191) -/
def dqOff (b q ticket : Nat) : Nat := 0x1000000 + 64 * (32 * q + Config.dqPlace b q ticket % 32)

def segOff (b sid num : Nat) : Nat := 0x1100000 + 4096 * (Config.regenSlot b sid num % 64)

/-- The bytes of a data-queue entry with a 64-bit word replaced. -/
def entryWordSet (k v : Nat) (l : List Byte) : List Byte :=
  (List.range 8).foldl (fun l i => l.set (8 * k + i) (BitVec.ofNat 8 (v / 256 ^ i))) l

/-- A segment with a 64-bit word replaced. -/
def Seg.setWord (g : Seg) (k v : Nat) : Seg :=
  { g with words := g.words.map (fun w => (w.set (2 * k) (BitVec.ofNat 32 v)).set (2 * k + 1) (BitVec.ofNat 32 (v / 2 ^ 32))) }

/-- A 64-bit word of the data queues, or of the regeneration queue, reads as `v`. -/
def Bays.putQueueUnit (x : Bays) (b : Bay) (off v : Nat) : Bays :=
  if off < 0x1100000 then
    { x with dq := x.dq.mapFinIdx (fun q l _ => l.map (fun e =>
        if dqOff b q e.ticket = off / 64 * 64 then { e with data := e.data.map (entryWordSet (off % 64 / 8) v) } else e)) }
  else
    { x with tide := { x.tide with segs := x.tide.segs.map (fun g =>
        if segOff b g.sid g.num = off / 4096 * 4096 then g.setWord (off % 4096 / 8) v else g) } }

/-- A unit of a bay's small memory passes its code as the value `v`: it stands so, and is delivered so. An IMEM or descriptor
unit is left to its reader. (DEDUCED, log 15) -/
def Bays.putUnit (x : Bays) (map : BitVec 108) (b : Bay) (id off v : Nat) : Bays :=
  if id = 3 then { x with vec := x.vec.putUnit off v }
  else if id = 4 then
    (if off < 0x1000000 then x.updPhys map b (off / 1572864) (fun t => t.putBankUnit (off % 1572864) v)
     else x.putQueueUnit b off v)
  else if id = 0x11 then
    (let st := if off < 0x10000 then Strm.a else Strm.x
     let y := x.strm st
     x.setStrm st { y with dmem := Sparse.set (fun _ => 0#32) y.dmem (off % 0x10000 / 4) (BitVec.ofNat 32 v) })
  else if id = 0x13 then
    (if off < 0x10000 then x.updPhys map b (off / 4096) (fun t => t.putCptUnit (off % 4096) v) else x.putPrimeUnit off v)
  else if id = 0x14 then { x with tbl := { x.tbl with ent := Sparse.set tblDefault x.tbl.ent (off / 2) (BitVec.ofNat 16 v) } }
  else if id = 0x15 then x.updPhys map b (off / 0x80000) (fun t => t.putSbufUnit (off % 0x80000) v)
  else x

/-- A word of a predicate, and a prime record, as numbers. -/
def predWordAt (p : BitVec 512) (k : Nat) : Nat := p.toNat / 2 ^ (32 * k) % 2 ^ 32

def PrimeRec.num (r : PrimeRec) : Nat := r.q.toNat + r.mlen.toNat * 2 ^ 32 + r.mu.toNat * 2 ^ 64

/-- The value of a word of a vector register, predicate or KA row, and of a unit in a tile's own part. -/
def Vec.unit (x : Vec) (off : Nat) : Nat :=
  if off < 0x10000 then (Sparse.get (fun _ => 0#32) x.vregs[(Fin.ofNat 32 (off / 2048) : VReg)] (off % 2048 / 4)).toNat
  else if off < 0x20000 then predWordAt x.preds[(Fin.ofNat 8 ((off - 0x10000) / 64) : PReg)] (off % 64 / 4)
  else (Sparse.get (fun _ => 0#32) x.ka ((off - 0x20000) / 4)).toNat

def Tile.bankUnit (t : Tile) (off : Nat) : Nat :=
  let e := off / 12
  (Sparse.get (fun _ => 0#96) (if e / 65536 = 0 then t.ob0 else t.ob1).ent (e % 65536)).toNat

def Tile.cptUnit (t : Tile) (off : Nat) : Nat := (Sparse.get (fun _ => PrimeRec.reset) t.cpt (off / 16)).num

def Tile.sbufUnit (t : Tile) (off : Nat) : Nat :=
  (Sparse.get (fun _ => 0#32) (if off / 0x40000 = 0 then t.s0 else t.s1).words (off % 0x40000 / 4)).toNat

/-- What `f` gives for the tile a physical tile serves; 0 for the spare one. -/
def Bays.physUnit (x : Bays) (map : BitVec 108) (b : Bay) (p : Nat) (f : Tile → Nat) : Nat :=
  match (List.finRange 8).find? (fun lt => physTile map b lt == p) with
  | some lt => f x.tiles[lt]
  | none => 0

/-- The value of a 64-bit word of the data queues, or of the regeneration queue; 0 where nothing is held. -/
def Bays.queueUnit (x : Bays) (b : Bay) (off : Nat) : Nat :=
  if off < 0x1100000 then
    let q : Fin 8 := Fin.ofNat 8 ((off - 0x1000000) / 2048)
    match (x.dq[q].find? (fun e => dqOff b q e.ticket == off / 64 * 64)).bind (fun e => e.data) with
    | some l => fieldAt l (off % 64 / 8 * 8) 8
    | none => 0
  else
    match (x.tide.segs.find? (fun g => segOff b g.sid g.num == off / 4096 * 4096)).bind (fun g => g.words) with
    | some w =>
      let k := off % 4096 / 8
      (w.getD (2 * k) 0#32).toNat + 2 ^ 32 * (w.getD (2 * k + 1) 0#32).toNat
    | none => 0

/-- The value of a unit of a bay's small memory. -/
def Bays.unit (x : Bays) (map : BitVec 108) (b : Bay) (id off : Nat) : Nat :=
  if id = 3 then x.vec.unit off
  else if id = 4 then
    (if off < 0x1000000 then x.physUnit map b (off / 1572864) (fun t => t.bankUnit (off % 1572864)) else x.queueUnit b off)
  else if id = 0x11 then (Sparse.get (fun _ => 0#32) (if off < 0x10000 then x.a else x.x).dmem (off % 0x10000 / 4)).toNat
  else if id = 0x13 then
    (if off < 0x10000 then x.physUnit map b (off / 4096) (fun t => t.cptUnit (off % 4096))
     else if off < 0x11000 then (Sparse.get (fun _ => PrimeRec.reset) x.vec.vpt ((off - 0x10000) / 16)).num
     else if off < 0x20000 then x.nt.prime.num
     else (Sparse.get (fun _ => 0#32) x.nt.acc ((off - 0x20000) / 4)).toNat)
  else if id = 0x14 then (Sparse.get tblDefault x.tbl.ent (off / 2)).toNat
  else if id = 0x15 then x.physUnit map b (off / 0x80000) (fun t => t.sbufUnit (off % 0x80000))
  else 0

/-- A number with byte k replaced. -/
def byteOver (n k : Nat) (v : Byte) : Nat := n - n / 256 ^ k % 256 * 256 ^ k + v.toNat * 256 ^ k

/-- The unit lies in a data queue, whose entry its reader has popped and delivers as it reads. -/
def popped (u : Nat × Nat) : Bool := u.1 == 4 && decide (0x1000000 ≤ u.2) && decide (u.2 < 0x1100000)

/-- What an event did to the units a step reads, none being uncorrectable: a single-bit error is corrected in the data
delivered (R243), a wrong word is delivered as it stands (R242). -/
def noteFixed (b : Bay) (ev : CodeEvent) (l : List (Nat × Nat)) (s : State) : State :=
  match ev with
  | .fixed id i =>
    (match pickUnit l id.toNat i with
     | some o => correctedAt b id.toNat o s
     | none => s)
  | .slip id i v =>
    (match pickUnit l id.toNat i with
     | some o => if popped (id.toNat, o) then s else s.setBay b ((s.bay b).putUnit s.trust.mapNow b id.toNat o v)
     | none => s)
  | _ => s

/-- The units a step reads are checked: an uncorrectable one is counted and halts the X-stream at the instruction, a
corrected one waits for its write-back; else `k` (R243, R251). -/
def withUnits (b : Bay) (fpc : BitVec 15) (age : Nat) (ev : CodeEvent) (l : List (Nat × Nat)) (k : State → State) (s : State) : State :=
  match metUnit b ev l s with
  | some u => haltStream b .x (unitFault u.1) fpc age (ueAt u.1 b u.2 s)
  | none => k (noteFixed b ev l s)

/-- A byte of a die-wide memory stays uncorrectable. -/
def dieSpoil (id off : Nat) (s : State) : State :=
  { s with
    ms := { s.ms with dieBad := if s.ms.dieBad.contains (id, off) then s.ms.dieBad else s.ms.dieBad ++ [(id, off)] } }

/-- The first uncorrectable byte of a list of addresses. -/
def firstBad (s : State) (l : List Nat) : Option Nat := l.find? (byteBad s)

/-- Counts the uncorrectable scratchpad word a read met (R254). -/
def ueRead (l : List Nat) (s : State) : State :=
  match (firstBad s l).bind spadAt with
  | some (n, o) => ueAt 1 n (o / 8 * 8) s
  | none => s

/-! ### Sectors of stacked memory (R285 to R288) -/

/-- A corrected sector enters the write-back queue of its pseudo-channel, or is dropped when 16 wait there (R286). -/
def sectorCorrected (a : Nat) (s : State) : State :=
  let p := placeOf s a
  let c := (coordOf p.2).1
  let full := if h : p.1 < 12 then decide (16 ≤ (s.stk[p.1].wbq.filter (fun e => e.1 == c)).length) else true
  let s := { s with codes := { s.codes with secCorr := satAdd 64 s.codes.secCorr 1 } }
  if full then { s with codes := { s.codes with wbDropped := satAdd 64 s.codes.wbDropped 1 } }
  else s.updStk p.1 (fun k => { k with wbq := k.wbq ++ [(c, a / 64 * 64)] })

/-- Counts an uncorrectable sector read by a requester of R289 (R288, R299). -/
def sectorUe (a requester : Nat) (s : State) : State :=
  { s with
    codes := { s.codes with
      secUe := satAdd 64 s.codes.secUe 1
      lastSecUe := secUeWord a requester } }

/-- The sector at an address stays uncorrectable until a whole write (R287). -/
def sectorSpoil (a : Nat) (s : State) : State :=
  { s with
    ms := { s.ms with
      badSectors := if s.ms.badSectors.contains (a / 64 * 64) then s.ms.badSectors
        else s.ms.badSectors ++ [a / 64 * 64] } }

/-- The pattern of symbol errors of a sector read, one entry a symbol, none of value 0. -/
def errPattern (e : SectorErr) : SymErrs :=
  ((List.range 72).map (fun i => (i, (e.syms.filter (fun x => x.1.val == i)).foldl (fun v x => v ^^^ x.2.toNat) 0))).filter
    (fun x => x.2 != 0)

/-- A sector of stacked memory holds the bytes a wrong correction or an unseen error gives it. -/
def sectorPut (a : Nat) (v : List Byte) (s : State) : State := { s with mem := Memory.wrRun (fun _ => true) s.mem a v }

/-- A sector is read with the symbol errors met: corrected, left uncorrectable, or past the decoder with wrong data (R285 to
R287). -/
def sectorRead (e : SectorErr) (s : State) : State :=
  let a := e.sec * 64
  if s.ms.badSectors.contains a then s
  else
    match secDecode (errPattern e) with
    | .report => sectorSpoil a s
    | .unseen => if (errPattern e).isEmpty then s else sectorPut a (symApply (errPattern e) (s.ld a 64)) s
    | .correct f => sectorCorrected a (sectorPut a (symApply f (symApply (errPattern e) (s.ld a 64))) s)

/-- The sectors read at the addresses of a list meet the symbol errors named for them. -/
def readSectors (errs : List SectorErr) (l : List Nat) (s : State) : State :=
  errs.foldl (fun s e => if decide (e.sec * 64 < stackEnd) && l.any (fun a => a / 64 == e.sec) then sectorRead e s else s) s

/-- The bytes of a range, one address to an eighth of a sector. -/
def rangeWords (a len : Nat) : List Nat := (List.range ((a + len + 7) / 8 - a / 8)).map (fun i => (a / 8 + i) * 8)

/-- The written addresses whose word or sector is not written whole, which the write reads first (R246, R287). -/
def partWrites (l : List Nat) : List Nat :=
  l.filter (fun a =>
    let n := if a < stackEnd then 64 else 8
    !(List.range n).all (fun i => l.contains (a / n * n + i)))

/-! ### What the units' own accesses find at a memory controller (R290, R299) -/

/-- A request that arrived before and is not yet served touches a common byte: a write a range read or written, a read a range
written. (DESIGN CHOICE, log 62) -/
def ahead (s : State) (rd wr : List (Nat × Nat)) : Bool :=
  s.stk.any (fun k => k.reqs.any (fun q => !q.served && (wr.any q.hits || (q.data.isSome && rd.any q.hits))))

/-- Words as byte ranges, and single bytes. -/
def wordSpans (l : List Nat) : List (Nat × Nat) := l.map (fun a => (a / 8 * 8, 8))

def byteSpans (l : List Nat) : List (Nat × Nat) := l.map (fun a => (a, 1))

/-- The bay whose scratchpad holds an address, bay 0 for any other address. -/
def spadBay (a : Nat) : Bay :=
  match spadAt a with
  | some (n, _) => Fin.ofNat 12 n
  | none => 0

/-- A step of a unit that reads the addresses `rd` and writes `wr`, under its code event: it waits while one of their pages is
under repair or a request that arrived before touches them (R290); an uncorrectable word of a page asks for a repair and the
step does not happen yet; a known-bad word or any other event leaves it to `k` (R242, R243, R247, R248, R285). -/
def guardedBy (ask : Bay → Nat → State → State) (b : Bay) (ev : CodeEvent) (rd wr : List Nat) (k : State → State) (s : State) :
    State :=
  if underRepair s (rd ++ wr) || ahead s (wordSpans rd) (wordSpans wr) then s
  else
    let l := rd ++ partWrites wr
    match ev with
    | .page w => if touches b l w && !(s.bay b).prot.bad.contains w then ask b w s else k s
    | .wrong w v => k (if touches b l w then misread b w v s else s)
    | .fixed id i => k (if id = 1#8 ∧ touches b l i = true then correctedAt b 1 (8 * i) s else s)
    | .sectors es => k (readSectors es l s)
    | .clean => k s
    | .small _ _ => k s
    | .vreg _ => k s
    | .queue _ => k s
    | .slip _ _ _ => k s

/-- A step of a unit the program uses, under its code event: the repair it asks for is a demand repair (R248, R249). -/
def guarded (b : Bay) (ev : CodeEvent) (rd wr : List Nat) (k : State → State) (s : State) : State :=
  guardedBy askRepair b ev rd wr k s

/-- The symbol errors of a step's event met at the addresses it reads. -/
def readIn (ev : CodeEvent) (l : List Nat) (s : State) : State :=
  match ev with
  | .sectors es => readSectors es l s
  | _ => s

/-- Counts every uncorrectable sector among the addresses a requester of R289 read (R288). -/
def countBad (l : List Nat) (requester : Nat) (s : State) : State :=
  (s.ms.badSectors.filter (fun x => l.any (fun a => a / 64 * 64 == x))).foldl
    (fun (s : State) x => sectorUe x requester s) s

/-- A bay's protection once 128 words from `w` of its key buffer are written whole: they are good again (R243, R247). -/
def Prot.rowStored (p : Prot) (w : Nat) : Prot :=
  let out := fun y : Nat => !(decide (w ≤ y) && decide (y < w + 128))
  { p with
    bad := p.bad.filter out
    silent := p.silent.filter (fun e => out e.1)
    repairs := p.repairs.map (fun (r : Repair) => { r with words := r.words.filter out })
    wbs := p.wbs.filter (fun e => !(e.1 == 2 && !out (spadWords + e.2 / 8))) }

/-- A row of 256 stored words written into the key buffer from word `k`: its words are good again and the parity line follows
(R104, R245, R247). -/
def Bays.putKeyRow (x : Bays) (c : Codes) (n k : Nat) (ws : List W32) : Bays :=
  let kb := Sparse.setList (fun _ => 0#32) x.keyBuf k ws
  let g := pagesSpad + k / 1024
  let p := x.prot.rowStored (spadWords + k / 2)
  { x with keyBuf := kb, prot := p.parityDiff (c.pageP g) g (x.prot.pageWritten [] x.keyBuf n g) (p.pageWritten [] kb n g) }

/-- Counts the first uncorrectable word or sector among the bytes a unit read. -/
def ueBytes (l : List Nat) (requester : Nat) (s : State) : State :=
  match firstBad s l with
  | some a => if inStack a then sectorUe a requester s else ueRead [a] s
  | none => s

/-! ### Fabric ports (R33) -/

/-- The bay whose scratchpad, or whose stack, holds an address. -/
def bayAt (s : State) (a : Nat) : Nat :=
  if inStack a then (placeOf s a).1
  else
    match spadAt a with
    | some (n, _) => n
    | none => 15

/-- Sources in the round-robin order of a port that granted `last` last (R33). -/
def grantOrder (last : Bay) (srcs : List Bay) : List Bay :=
  ((List.range 12).map (fun k => (Fin.ofNat 12 (last.val + 1 + k) : Bay))).filter srcs.contains

/-- A fabric port after it granted every source of a list once, in round-robin order (R33). -/
def Bays.granted (x : Bays) (srcs : List Bay) : Bays := { x with grant := ((grantOrder x.grant srcs).getLast?).getD x.grant }

/-- The bays other than b that hold one of the addresses. -/
def otherBays (b : Bay) (s : State) (l : List Nat) : List Bay :=
  (List.finRange 12).filter (fun n => n != b && l.any (fun a => bayAt s a == n.val))

/-- The fabric ports a step of bay b passes: its own takes what it reads elsewhere, another bay's what it writes there; every bay
whose port a flit crosses moves (R33, R200). (DEDUCED, log 70) -/
def passPorts (b : Bay) (rd wr : List Nat) (s : State) : State :=
  let src := otherBays b s rd
  let dst := otherBays b s wr
  s.mapBays (fun i x =>
    if i = b then { x.granted src with moved := x.moved || !src.isEmpty || !dst.isEmpty }
    else if dst.contains i then { x.granted [b] with moved := true }
    else { x with moved := x.moved || src.contains i })

end Sys2Proof.Machine
end

