-- ==== Sys2Proof/Machine/Power.lean ====
section
/-! DEFINITION. Supply states, DVFS steps, power and thermal caps and their faults (R409 to R424). -/

namespace Sys2Proof.Machine

/-- Changes the power manager. -/
def updPwr (f : Power → Power) (s : State) : State := { s with pwr := f s.pwr }

/-! ### The grid of bays (R21, R22) -/

/-- Distance between two natural numbers. -/
def natDist (a b : Nat) : Nat := (a - b) + (b - a)

/-- Grid distance of two bays: four to a row (R22, R413). -/
def bayDist (m n : Bay) : Nat := natDist (m.val / 4) (n.val / 4) + natDist (m.val % 4) (n.val % 4)

/-- Neighbouring bays. -/
def neighbours (m n : Bay) : Bool := bayDist m n == 1

/-! ### What heats and cools a bay, and caps that move together (R418 to R420) -/

/-- Degrees in 1/16 °C. -/
def deg (c : Int) : Int := 16 * c

/-- A raise still moves the rail: its clock switch lies ahead. -/
def risesOn (r : Option (Nat × Nat)) : Bool :=
  match r with
  | some (n, _) => n != 0
  | none => false

/-- A bay's rail is settled: from 2 bt per step after a lowering, and not in the 2 bt of a raise (R414). -/
def Power.still (p : Power) (b : Bay) : Bool := decide (p.settle[b] ≤ 1) && !risesOn p.raise[b]

/-- A pair's rails may be compared: both settled. -/
def Power.railsStill (p : Power) (m n : Bay) : Bool := p.still m && p.still n

/-- A neighbouring pair differs by more than 20 K. -/
def Power.tempApart (p : Power) (m n : Bay) : Bool :=
  decide (deg 20 < p.bayTemp[m] - p.bayTemp[n]) || decide (deg 20 < p.bayTemp[n] - p.bayTemp[m])

/-- A neighbouring pair differs by more than 100 mV. -/
def Power.voltApart (p : Power) (m n : Bay) : Bool :=
  p.railsStill m n && decide (100 < natDist p.bayMv[m] p.bayMv[n])

/-- A pair of neighbouring bays is outside a limit (R420). -/
def Power.pairOutside (p : Power) (m n : Bay) : Bool := neighbours m n && (p.tempApart m n || p.voltApart m n)

/-- The bay is the outlier of some pair: the hotter one, or the one with the higher voltage (R420). -/
def Power.outlier (p : Power) (b : Bay) : Bool :=
  (List.finRange 12).any (fun m => neighbours b m &&
    ((p.tempApart b m && decide (p.bayTemp[m] < p.bayTemp[b])) || (p.voltApart b m && decide (p.bayMv[m] < p.bayMv[b]))))

/-- The bay's thermal cap is being lowered (R419, R420). -/
def Power.heats (p : Power) (b : Bay) : Bool :=
  decide (deg 100 ≤ p.bayTemp[b]) || decide (deg 105 ≤ p.uncoreTemp) || p.outlier b

/-- The bay's thermal cap is being raised (R419, R420). -/
def Power.cools (p : Power) (b : Bay) : Bool := decide (p.bayTemp[b] ≤ deg 95) && !p.heats b

/-- The highest power cap lowered together, or all at 0 (R418). -/
def lowerPwr (v : Vector Nat 12) : Vector Nat 12 :=
  let top := v.toList.foldl max 0
  if top = 0 then v else v.map (fun c => if c = top then top - 1 else c)

/-- The lowest power caps raised together (R418). -/
def raisePwr (v : Vector Nat 12) : Vector Nat 12 :=
  let low := v.toList.foldl min 15
  if low = 15 then v else v.map (fun c => if c = low then low + 1 else c)

/-! ### Caps as this edge leaves them (R297, R413, R418, R419) -/

/-- A stack's cap once the move due at this edge is made: 1 down every 4 bt at or above 95 °C, 1 up every 64 bt at or below
90 °C (R297). -/
def Stack.capNext (k : Stack) : Nat :=
  if deg 95 ≤ k.temp ∧ 4 ≤ k.capSince then k.cap - 1
  else if k.temp ≤ deg 90 ∧ 64 ≤ k.capSince ∧ k.cap < 15 then k.cap + 1
  else k.cap

/-- A bay's thermal cap once the move due at this edge is made (R419). -/
def Power.thermNext (p : Power) (b : Bay) : Nat :=
  if p.heats b ∧ 4 ≤ p.lowerSince[b] then p.thermcap[b] - 1
  else if p.cools b ∧ 64 ≤ p.raiseSince[b] ∧ p.thermcap[b] < 15 then p.thermcap[b] + 1
  else p.thermcap[b]

/-- A bay's power cap once the raise due at this edge is made (R418). -/
def Power.pwrNext (p : Power) (b : Bay) : Nat := if p.quiet = 64 then (raisePwr p.pwrcap)[b] else p.pwrcap[b]

/-! ### Caps, targets and steps (R413 to R415) -/

/-- The cap of a bay, from the caps as the moves due at the edge leave them (R413). -/
def capOf (s : State) (b : Bay) : Nat :=
  min (min s.pwr.opcap[b] s.stk[b].capDue) (min (s.pwr.thermNext b) (s.pwr.pwrNext b))

/-- The target of a bay (R413). -/
def targetOf (s : State) (b : Bay) : Nat :=
  (List.finRange 12).foldl (fun (t : Nat) (m : Bay) => min t (capOf s m + 6 * bayDist b m)) 15

/-- The THROTTLE code of a switch that starts at this edge: 2 where the cap of the bay's own stack changes at it (R415). -/
def switchCode (s : State) (b : Bay) : Nat := if s.pwr.capMoved.getLsbD b then 2 else 1

/-- A bay's clock switches to a step: recorded, and the clock pauses for 32 cy (R414, R415). -/
def switchClock (code : Nat) (b : Bay) (k : Nat) (s : State) : State :=
  throttle code b k (updPwr (fun p => { p with step := p.step.set b k, raise := p.raise.set b none, pause := p.pause.set b 32 }) s)

/-- Lowers a bay whose target lies below its step: the clock switches at once, the rail settles 2 bt per step later and not
before an earlier lowering's, a raise under way is dropped (R414, R415). (DEDUCED, log 116) -/
def lowerBay (s : State) (b : Bay) : State :=
  let t := s.pwr.target[b]
  let k := s.pwr.step[b]
  if t < k then
    switchClock (switchCode s b) b t
      (updPwr (fun p => { p with settle := p.settle.set b (max p.settle[b] (2 * (k - t) + 1)) }) s)
  else s


/-- A step one higher is at most 6 above every neighbour's (R414). -/
def raiseFits (p : Power) (b : Bay) : Bool :=
  (List.finRange 12).all (fun m => !neighbours b m || decide (p.step[b] + 1 ≤ p.step[m] + 6))

/-- Ends a raise under way that a neighbour's lowering left more than 6 above it: its clock does not switch, and the rail settles
within the 2 bt of one step (R414). (DEDUCED, log 116) -/
def dropRaise (s : State) (b : Bay) : State :=
  if s.pwr.raise[b].isSome && !raiseFits s.pwr b then
    updPwr (fun p => { p with raise := p.raise.set b none, settle := p.settle.set b (max p.settle[b] 3) }) s
  else s

/-- A bay may start a raise: its rail settled, no raise in progress, at most 6 above every neighbour (R414). -/
def mayRaise (s : State) (b : Bay) : Bool :=
  decide (s.pwr.step[b] < s.pwr.target[b]) && decide (s.pwr.settle[b] ≤ 1) && s.pwr.raise[b].isNone && raiseFits s.pwr b

/-- Starts a bay's raise by one step (R414). -/
def startRaise (s : State) (b : Bay) : State :=
  if mayRaise s b then updPwr (fun p => { p with raise := p.raise.set b (some (2, switchCode s b)) }) s else s

/-- The raises that may start at this edge; none during Gong (R414, R430). -/
def startRaises (s : State) : State := if s.faults.gong ≠ 0#8 then s else (List.finRange 12).foldl startRaise s

/-- The steps at an edge from the targets computed at it: lowerings first, raises they no longer allow ended, then raises (R414); none
during Gong (R430). -/
def applyTargets (s : State) : State :=
  if s.faults.gong ≠ 0#8 then s
  else startRaises ((List.finRange 12).foldl dropRaise ((List.finRange 12).foldl lowerBay s))

/-- A stack's cap move of this edge becomes due, and its count starts again; one still due stays so (R297). -/
def Stack.latchCap (k : Stack) : Stack :=
  if k.capDue = k.cap ∧ k.capNext ≠ k.cap then { k with capDue := k.capNext, capSince := 0 } else k

/-- The manager's part of an edge: the cap moves that fall due, the one set of targets of the edge, and the steps they ask for
(R413, R414). (DEDUCED, log 113) -/
def setTargets (s : State) : State :=
  let s := { s with stk := s.stk.map Stack.latchCap }
  applyTargets (updPwr (fun p =>
    { p with
      capMoved := (List.finRange 12).foldl (fun (m : BitVec 12) (b : Bay) => setBit m b (s.stk[b].capDue != s.stk[b].cap)) 0#12
      target := Vector.ofFn (fun b => targetOf s b) }) s)

/-- The manager acts at this edge: RUN, the compute die clocked, and the edge's own cy. (DESIGN CHOICE, log 72) -/
def atEdge (s : State) : Bool := clocked s && s.beat.edgeNow

/-- DVFS_CLOCK_SWITCH: a raised bay's clock switches at the edge 2 bt after its raise started, and raises that the new step allows
start (R414, R415). (DEDUCED, log 116) -/
def execDvfsClockSwitch (b : Bay) (s : State) : Host.Outcome State Fault Refusal :=
  .next
    (match s.pwr.raise[b] with
     | some (0, code) => if atEdge s then startRaises (switchClock code b (s.pwr.step[b] + 1) s) else s
     | _ => s)

/-- RAIL_SETTLED: a lowered rail is settled 2 bt per step after its edge (R414). -/
def execRailSettled (b : Bay) (s : State) : Host.Outcome State Fault Refusal :=
  .next (if atEdge s && s.pwr.settle[b] == 1 then updPwr (fun p => { p with settle := p.settle.set b 0 }) s else s)

/-! ### Power limit and caps (R417, R418) -/

/-- Power-stage dies that report a fault. -/
def Power.faulty (p : Power) : Nat := (bitsSet 6 p.psFault).length

/-- The operator's limits (R417). -/
def Power.limitAsked (p : Power) : Nat := match p.ceiling with | some c => min p.opLimit c | none => p.opLimit

/-- The limit in force (R417). -/
def Power.limitNow (p : Power) : Nat :=
  let l := p.limitSet
  let l := if p.limitFull then l else min 2000 l
  if p.brownout || decide (2 ≤ p.faulty) then min 2000 l else l

/-- The power caps at an edge, from the power of the bt just ended (R418). -/
def Power.capsAt (p : Power) : Power :=
  let l := p.limit
  let w := p.inputW
  if 11 * l < 10 * w then { p with pwrcap := Vector.replicate 12 0, quiet := 0 }
  else if l < w then { p with pwrcap := lowerPwr p.pwrcap, quiet := 0 }
  else if 20 * w ≤ 19 * l then { p with quiet := min 64 (p.quiet + 1) }
  else { p with quiet := 0 }

/-- POWER_CAP_RAISE: the 64th quiet bt raises the lowest power caps by one level (R418). -/
def execPowerCapRaise (s : State) : Host.Outcome State Fault Refusal :=
  .next
    (if atEdge s && s.pwr.quiet == 64 then
       updPwr (fun p => { p with pwrcap := raisePwr p.pwrcap, quiet := 0 }) s
     else s)

/-- SENSOR_HISTORY_FULL: at 1,024 bt the initial 2,000 W limit is lifted (R417). -/
def execSensorHistoryFull (s : State) : Host.Outcome State Fault Refusal :=
  .next
    (if atEdge s && decide (1024 ≤ s.pwr.hist) && !s.pwr.limitFull then
       updPwr (fun p => { p with limitFull := true, limit := { p with limitFull := true }.limitNow }) s
     else s)

/-! ### Temperatures (R419 to R421) -/

/-- Consecutive edges a condition has held. -/
def count (v : Bool) (n : Nat) : Nat := if v then n + 1 else 0

/-- The edge counters of temperatures, pairs and power (R419 to R421). (DESIGN CHOICE, log 179) -/
def Power.counts (p : Power) (ceilingW : Nat) : Power :=
  { p with
    lowerSince := p.lowerSince.mapFinIdx (fun i n h => count (p.heats ⟨i, h⟩) n)
    raiseSince := p.raiseSince.mapFinIdx (fun i n h => count (p.cools ⟨i, h⟩) n)
    bayHot := p.bayHot.mapFinIdx (fun i n h => count (decide (deg 110 ≤ p.bayTemp[i]) && p.thermcap[i] == 0) n)
    uncoreHot := count (decide (deg 110 ≤ p.uncoreTemp)) p.uncoreHot
    pairOut := (List.finRange 12).foldl (fun t (m : Bay) => (List.finRange 12).foldl (fun t (n : Bay) =>
      if m < n then
        Sparse.set (fun _ => 0) t (12 * m.val + n.val)
          (count (p.pairOutside m n) (Sparse.get (fun _ => 0) p.pairOut (12 * m.val + n.val)))
      else t) t) p.pairOut
    over60 := count (decide (60000 < p.inputMv)) p.over60
    overCeil := count (decide (ceilingW < p.inputW) && p.pwrcap.all (fun c => c == 0)) p.overCeil }

/-- A condition that asserts THERM_N holds: a bay at 100 °C, the uncore at 105 °C or a stack at 95 °C (R419). -/
def Power.thermCond (p : Power) (stackMax : Int) : Bool :=
  p.bayTemp.any (fun t => decide (deg 100 ≤ t)) || decide (deg 105 ≤ p.uncoreTemp) || decide (deg 95 ≤ stackMax)

/-- A temperature is not yet 5 K below its threshold. -/
def Power.thermNear (p : Power) (stackMax : Int) : Bool :=
  p.bayTemp.any (fun t => decide (deg 95 < t)) || decide (deg 100 < p.uncoreTemp) || decide (deg 90 < stackMax)

/-- THERM_N at an edge: asserted by a threshold, deasserted 5 K below every one (R419). -/
def Power.thermPin (p : Power) (stackMax : Int) : Bool := p.thermCond stackMax || (p.thermN && p.thermNear stackMax)

/-- The largest stack temperature. -/
def stackMax (s : State) : Int := s.stk.toList.foldl (fun m k => max m k.temp) s.stk[0].temp

/-- THERMAL_CAP_LOWER: a hot bay, a hot uncore or an outlier lowers the bay's thermal cap, one step every 4 bt (R419,
R420). -/
def execThermalCapLower (b : Bay) (s : State) : Host.Outcome State Fault Refusal :=
  .next
    (if atEdge s && s.pwr.heats b && decide (4 ≤ s.pwr.lowerSince[b]) && s.pwr.thermcap[b] != 0 then
       updPwr (fun p =>
         { p with thermcap := p.thermcap.set b (p.thermcap[b] - 1), lowerSince := p.lowerSince.set b 0 }) s
     else s)

/-- THERMAL_CAP_RAISE: a cool bay raises its thermal cap, one step every 64 bt (R419). -/
def execThermalCapRaise (b : Bay) (s : State) : Host.Outcome State Fault Refusal :=
  .next
    (if atEdge s && s.pwr.cools b && decide (64 ≤ s.pwr.raiseSince[b]) && decide (s.pwr.thermcap[b] < 15) then
       updPwr (fun p =>
         { p with thermcap := p.thermcap.set b (p.thermcap[b] + 1), raiseSince := p.raiseSince.set b 0 }) s
     else s)

/-- NEIGHBOUR_THERM_FAULT: a pair outside a limit at every edge for 64 bt raises Gong 0x61 (R420, R430). -/
def execNeighbourThermFault (b1 b2 : Bay) (s : State) : Host.Outcome State Fault Refusal :=
  .next
    (let k := 12 * (min b1.val b2.val) + max b1.val b2.val
     if atEdge s && decide (64 ≤ Sparse.get (fun _ => 0) s.pwr.pairOut k) then
       gong 0x61 15 (updPwr (fun p => { p with pairOut := Sparse.set (fun _ => 0) p.pairOut k 0 }) s)
     else s)

/-- BAY_THERM_FAULT: a bay at 110 °C at 64 edges with its thermal cap at 0 raises Gong 0x61 (R421). -/
def execBayThermFault (b : Bay) (s : State) : Host.Outcome State Fault Refusal :=
  .next
    (if atEdge s && decide (64 ≤ s.pwr.bayHot[b]) then
       gong 0x61 15 (updPwr (fun p => { p with bayHot := p.bayHot.set b 0 }) s)
     else s)

/-- UNCORE_THERM_FAULT: the uncore at 110 °C at 64 edges raises Gong 0x61 (R421). -/
def execUncoreThermFault (s : State) : Host.Outcome State Fault Refusal :=
  .next
    (if atEdge s && decide (64 ≤ s.pwr.uncoreHot) then
       gong 0x61 15 (updPwr (fun p => { p with uncoreHot := 0 }) s)
     else s)

/-! ### Faults of the supply (R409, R421) -/

/-- BROWNOUT_ENTER: the input sampled at this position lies in 36 V to 40 V: fault 0x62 is counted and the limit drops to
2,000 W (R409, R417, R421). -/
def execBrownoutEnter (s : State) : Host.Outcome State Fault Refusal :=
  .next
    (if atEdge s && decide (36000 ≤ s.pwr.inputMv) && decide (s.pwr.inputMv < 40000) && !s.pwr.brownout then
       countFault 0x62 15 3 (updPwr (fun p => { p with brownout := true, limit := { p with brownout := true }.limitNow }) s)
     else s)

/-- BROWNOUT_LEAVE: the input sampled at this position is back at 40 V or above (R409). -/
def execBrownoutLeave (s : State) : Host.Outcome State Fault Refusal :=
  .next
    (if atEdge s && decide (40000 ≤ s.pwr.inputMv) && s.pwr.brownout then
       updPwr (fun p => { p with brownout := false, limit := { p with brownout := false }.limitNow }) s
     else s)

/-- OVERVOLTAGE_FAULT: above 60 V at 16 consecutive positions raises Gong 0x62 (R421). -/
def execOvervoltageFault (s : State) : Host.Outcome State Fault Refusal :=
  .next
    (if clocked s && decide (16 ≤ s.pwr.over60) then
       gong 0x62 15 (updPwr (fun p => { p with over60 := 0 }) s)
     else s)

/-- POWER_CEILING_FAULT: power above the fused ceiling at 64 edges with every power cap at 0 raises Gong 0x62 (R421). -/
def execPowerCeilingFault (s : State) : Host.Outcome State Fault Refusal :=
  .next
    (if atEdge s && decide (64 ≤ s.pwr.overCeil) then
       gong 0x62 15 (updPwr (fun p => { p with overCeil := 0 }) s)
     else s)

/-- PS_DIE_FAULT: a power-stage die reports a fault: the first two are counted, the second limits power, the third raises Gong; a
report that still holds after a reset with three or more raises it again (R417, R421, R432). (DEDUCED, log 114) -/
def execPsDieFault (ps : Fin 6) (s : State) : Host.Outcome State Fault Refusal :=
  .next
    (if clocked s then
       let new := !s.pwr.psFault.getLsbD ps
       let s := updPwr (fun p =>
         let p := { p with psFault := setBit p.psFault ps true }
         { p with limit := p.limitNow }) s
       if s.pwr.faulty ≤ 2 then (if new then countFault 0x62 15 3 s else s)
       else if (new ∧ s.pwr.faulty = 3) ∨ s.faults.gong = 0#8 then gong 0x62 15 s else s
     else s)

/-! ### Supply states (R411, R422, R423) -/

/-- Of an intent under way some further bits are burned: which is not known (R424). (DEDUCED, log 104) -/
def burnSome (s : State) : State :=
  match s.trust.wlim with
  | some w =>
    if w.pulse && !w.intentDone then
      let r := recordAt s.trust w.rcd ||| (recIntent w.entry w.value &&& BitVec.ofNat 320 (freeVal s))
      drew 1 { s with trust := s.trust.putRecord w.rcd r }
    else s
  | none => s

/-- The journal engine goes on with a limited write whose pulses had to wait: the input reads 40 V or above again (R424). -/
def resumePulses (s : State) : State :=
  match s.trust.wlim with
  | some w =>
    if !w.pulse && s.pwr.low == 0 then burnSome { s with trust := { s.trust with wlim := some { w with pulse := true } } } else s
  | none => s

/-- INPUT_RISE: the input reaches 40 V in OFF and RAMP begins. -/
def execInputRise (mv : Nat) (s : State) : Host.Outcome State Fault Refusal :=
  .next
    (if s.pwr.st == .off && decide (40000 ≤ mv) then
       updPwr (fun p => { p with st := .ramp, ramp := 0, inputMv := mv }) s
     else s)

/-- RAMP_STEP: the next timed step of RAMP; the third waits for REFCLK (R411). -/
def execRampStep (s : State) : Host.Outcome State Fault Refusal :=
  .next
    (if s.pwr.st == .ramp && decide (s.pwr.ramp < 4) && (s.pwr.ramp != 2 || s.pwr.refclk) then
       updPwr (fun p => { p with ramp := p.ramp + 1, regsOn := decide (0 < p.ramp + 1) }) s
     else s)

/-- REFCLK_VALID: the reference clock is valid, which lets a waiting RAMP go on (R411). -/
def execRefclkValid (s : State) : Host.Outcome State Fault Refusal :=
  .next (updPwr (fun p => { p with refclk := true }) s)

/-- The TAP in Test-Logic-Reset: IDCODE selected (R444). A compute die that INTSCAN stopped stays stopped (R448). -/
def Tap.logicReset (t : Tap) : Tap := { t with ir := 2#8 }

/-- A pending memory access ends (R391). -/
def Tap.dropAccess (t : Tap) : Tap := { t with maCmd := 0#8, maSts := 0#2 }

/-- The volatile state at its reset values, the fuse array and its journal kept (R423, R434), and the level of TRST_N, which is
driven from outside. -/
def powerOn (s : State) : State :=
  { State.reset with
    pending := s.pending
    trust := { Trust.reset with fuses := s.trust.fuses, journal := s.trust.journal, romVer := s.trust.romVer }
    tap := { Tap.reset with trstLow := s.tap.trstLow }
    tmx := { Tmx.reset with seed := s.free }
    free := s.free + 1 }

/-- POWER_ON_RESET_RELEASE: PWR_OK asserts, every volatile state takes its reset value, the device enters RUN and boot
stage 0 begins (R411, R433, R434). -/
def execPowerOnResetRelease (s : State) : Host.Outcome State Fault Refusal :=
  .next
    (if s.pwr.st == .ramp && s.pwr.ramp == 4 then
       powerOn s
     else s)

/-- Every regulator off: what is volatile is lost. -/
def powerOff (st : PwrSt) (s : State) : State :=
  let t := powerOn s
  { t with pwr := { t.pwr with st := st, ramp := 0, refclk := false, regsOn := false, inputMv := s.pwr.inputMv } }

/-- RAMP_ABORT: the input falls below 40 V in RAMP: every regulator off, back to OFF (R411). -/
def execRampAbort (mv : Nat) (s : State) : Host.Outcome State Fault Refusal :=
  .next
    (if s.pwr.st == .ramp && decide (mv < 40000) then
       powerOff .off (updPwr (fun p => { p with inputMv := mv }) s)
     else s)

/-- INPUT_FAIL: the input falls below 36 V in RUN: FAIL, every clock and the transmitter stopped (R422). -/
def execInputFail (mv : Nat) (s : State) : Host.Outcome State Fault Refusal :=
  .next
    (if s.pwr.st == .run && decide (mv < 36000) then
       updPwr (fun p => { p with st := .fail, ramp := 0, inputMv := mv }) s
     else s)

/-- A COMMIT pulse that was begun has ended by the end of hold-up; of an intent that the loss of power cut off some further bits are
burned (R422, R424). -/
def cutLimited (s : State) : State :=
  match s.trust.wlim with
  | some w => if w.intentDone && w.pulse then { s with trust := s.trust.putRecord w.rcd (recordAt s.trust w.rcd ||| 2#320) } else burnSome s
  | none => s

/-- HOLDUP_END: after hold-up every regulator is off and everything volatile is lost (R422, R423, R424). -/
def execHoldupEnd (s : State) : Host.Outcome State Fault Refusal :=
  .next (if s.pwr.st == .fail && s.pwr.regsOn then powerOff .fail (cutLimited s) else s)

/-- FAIL_RESTART: 10 ms after the regulators went off the device enters OFF (R422). -/
def execFailRestart (s : State) : Host.Outcome State Fault Refusal :=
  .next (if s.pwr.st == .fail && !s.pwr.regsOn then updPwr (fun p => { p with st := .off }) s else s)

end Sys2Proof.Machine
end

