-- ==== Sys2Proof/Machine/Replay.lean ====
section
/-! DEFINITION. The replay script: staged entries, divergence, consuming the script in order (R324 to R327). -/

namespace Sys2Proof.Machine

/-- Where a staged script entry lies (R324). -/
def stageAddr (q : Nat) : Nat := 0x17FD0000000 + q % 4194304 * 64

/-- The fields of an entry of the ring or the script (R319). -/
structure Entry where
  ty : Nat
  seq : Nat
  beat : Nat
  off : Nat
  hpos : Nat
  len : Nat
  arg : Nat
  payload : Nat
  deriving DecidableEq, Repr

/-- Reads the 64 bytes of an entry. -/
def Entry.ofNat (v : Nat) : Entry :=
  { ty := bitsAt v 15 8, seq := bitsAt v 95 56, beat := bitsAt v 143 96, off := bitsAt v 159 148
    hpos := bitsAt v 175 160, len := bitsAt v 207 176, arg := bitsAt v 255 208, payload := v / 2 ^ 256 }

/-- The state in which the record/replay unit reads a staged entry: every earlier request to its sector has taken effect (R290). -/
def staged (s : State) (q : Nat) : State := landSector (stageAddr q) s

/-- A staged entry. Symbol errors come to its sector with the request the record/replay unit makes of its controller.
(DESIGN CHOICE, log 192) -/
def entryAt (s : State) (q : Nat) : Entry := Entry.ofNat ((staged s q).ldNat (stageAddr q) 64)

/-- The read of a staged entry, counted at its stack (R299). -/
def readEntry (q : Nat) (s : State) : State := traffic [(stageAddr q, 64)] [] (staged s q)

/-- A stamp as one number that rises with time: BEAT, then HPOS, then OFFSET. -/
def stampKey (beat hpos off : Nat) : Nat := beat * 2 ^ 28 + hpos * 2 ^ 12 + off

/-- The stamp of an entry. -/
def Entry.key (e : Entry) : Nat := stampKey e.beat e.hpos e.off

/-- The entry's turn is over at a stamp; the rejection of a marker concerns its position until that position's edge (R326). -/
def Entry.pastAt (e : Entry) (now : Nat) : Bool :=
  decide ((if e.len = 2 ∨ e.len = 3 then stampKey e.beat e.hpos 4095 else e.key) < now)

/-- The stamp of the present cy. -/
def nowKey (s : State) : Nat := stampKey s.beatNat (min s.beat.hpos 65535) (min s.tick 4095)

/-- A replay is armed or active (R346, R360, R364). -/
def replaying (s : State) : Bool := s.rcd.replay == .armed || s.rcd.replay == .active

/-- The entry gates an input (R326). (DEDUCED, log 81) -/
def Entry.gates (e : Entry) : Bool := e.ty == 2 || e.ty == 3 || e.ty == 4

/-- Divergence kinds that stop a replay whatever OD 0x7030:09 says (R326). -/
def alwaysStops (kind : Nat) : Bool := kind == 2 || kind == 3 || kind == 7 || kind == 8

/-- A divergence: the first is recorded; one that stops ends the replay in DIVERGED (R326, R327). -/
def diverge (kind q : Nat) (s : State) : State :=
  if replaying s then
    { s with
      rcd := { s.rcd with
        divKind := if s.rcd.divKind = 0 then kind else s.rcd.divKind
        divSeq := if s.rcd.divKind = 0 then q else s.rcd.divSeq
        replay := if alwaysStops kind || s.rcd.stopOn then .diverged else s.rcd.replay } }
  else s

/-- Ends the use of the upper half of the ring from the next entry on, staged entries discarded (R324). -/
def endStaging (st : ReplaySt) (s : State) : State :=
  { s with
    rcd := { s.rcd with replay := st, script := [], scriptNext := none, live := [], halfTo := min s.rcd.halfTo s.rcd.seq } }

/-- The entry at the head of the script is consumed; with the last one the script has ended, unless a divergence has stopped the
replay (R324, R327). -/
def consume (s : State) : State :=
  match s.rcd.script with
  | q :: [] =>
    let s := readEntry q s
    if replaying s then endStaging .done s else { s with rcd := { s.rcd with script := [] } }
  | q :: r =>
    let s := readEntry q s
    { s with rcd := { s.rcd with script := r } }
  | [] => s

/-- SEQ of the script entry that stands at the head, or the next one expected. -/
def headSeq (s : State) : Nat := s.rcd.script.headD (s.rcd.scriptNext.getD 0)

/-- A recorded outcome agrees with the script's (R326). -/
def Entry.agrees (a b : Entry) : Bool :=
  if a.ty == 0x12 then
    b.ty == 0x12 && a.arg == b.arg && a.payload % 2 ^ 64 == b.payload % 2 ^ 64 &&
      bitsAt a.payload 159 128 == bitsAt b.payload 159 128
  else a.ty == b.ty && a.arg == b.arg && a.len == b.len && a.payload == b.payload

/-- The divergence kind of two outcomes that differ. -/
def outcomeKind (a b : Entry) : Nat := if a.ty == 0x12 && b.ty == 0x12 then 5 else 6

/-- Drops the oldest recorded outcome not yet compared. -/
def dropLive (s : State) : State := { s with rcd := { s.rcd with live := s.rcd.live.drop 1 } }

/-- One step along the script: a SESSION entry and a past beat exception are passed over, an outcome is compared, an outcome
only one side has is a divergence (R326). None: the script waits. (DEDUCED, log 80) -/
def scriptStep (s : State) : Option State :=
  let live := s.rcd.live.head?.map (fun l => Entry.ofNat (leNat l))
  match s.rcd.script with
  | [] => none
  | q :: _ =>
    if rangeBad (staged s q) (stageAddr q) 64 then some (consume (diverge 8 q (sectorUe (stageAddr q) 2 s)))
    else
      let e := entryAt s q
      if e.ty = 5 then some (consume s)
      else if e.gates then
        if e.key < s.rcd.armAt then some (consume s)
        else match live with
          | some l => if l.key < e.key then some (diverge 6 q (dropLive s)) else none
          | none => none
      else if e.ty = 1 then
        if e.pastAt (nowKey s) then some (consume s)
        else match live with
          | some l => if l.key < e.key then some (diverge 6 q (dropLive s)) else none
          | none => none
      else if e.key < s.rcd.armAt then some (consume s)
      else
        match live with
        | some l =>
          if l.agrees e then some (consume (dropLive s))
          else if l.key < e.key then some (diverge 6 q (dropLive s))
          else some (consume (diverge (outcomeKind l e) q (dropLive s)))
        | none => if e.key < nowKey s then some (consume (diverge (if e.ty = 0x12 then 5 else 6) q s)) else none

/-- Follows the script as far as it goes. -/
def replayRun : Nat → State → State
  | 0, s => s
  | n + 1, s =>
    if s.rcd.replay = .active then
      match scriptStep s with
      | some t => replayRun n t
      | none => s
    else s

/-- Follows the script: at most every staged entry and every outcome recorded. -/
def replayAdvance (s : State) : State := replayRun (s.rcd.script.length + s.rcd.live.length) s

/-- The staged entry that gates the next input. -/
def nextGate (s : State) : Option (Nat × Entry) :=
  (s.rcd.script.find? (fun q => (entryAt s q).gates)).map (fun q => (q, entryAt s q))

/-- The first beat exception of the script, under an active replay, that `p` picks and whose event came with BEAT at this
value (R326). -/
def scriptExc (p : Entry → Bool) (s : State) : Option Entry :=
  if s.rcd.replay = .active then
    (s.rcd.script.find? (fun q =>
      let e := entryAt s q
      e.ty == 1 && e.payload % 2 ^ 48 == s.beatNat && p e)).map (entryAt s)
  else none

/-- The beat exception the script records for the position whose edge is next, where the position is bridged, rejected or the
missing one that enters HOLD (R326). -/
def scriptPos (s : State) : Option Entry := scriptExc (fun e => decide (1 ≤ e.len) && decide (e.len ≤ 4)) s

/-- The script records the position with this code. -/
def scriptHas (code : Nat) (s : State) : Bool := (scriptExc (fun e => e.len == code) s).isSome

/-- Its code. -/
def scriptBeatExc (s : State) : Option Nat := (scriptPos s).map (fun e => e.len)

/-- The script records the position as one whose marker was rejected, for position or for number (R326). -/
def scriptRejects (s : State) : Option Entry := (scriptPos s).filter (fun e => e.len == 2 || e.len == 3)

/-- The beat exception the script records for the edge of the position, other than of a position accepted, bridged or missing:
a HOLD left with a jump, which has no stamp in HOLD and comes with the live exit, LOST entered from HOLD at its stamp,
LOCKING entered from LOST or FREE, and LOCKED entered from LOCKING (R326). (DEDUCED, log 161) -/
def scriptTurn (s : State) : Option Entry :=
  scriptExc (fun e =>
    match s.beat.st with
    | .hold => (e.len == 5 && s.beat.jump.isSome) || (e.len == 6 && e.beat == s.beatNat && e.hpos == min (s.beat.hpos + 1) 65535)
    | .lost => e.len == 8
    | .free => e.len == 8
    | .locking => e.len == 9
    | _ => false) s

/-- The script records an exit or acquisition as refused at this stamp (R326). -/
def scriptRefuses (s : State) : Bool :=
  (scriptExc (fun e => e.len == 10 && e.beat == s.beatNat && e.hpos == min s.beat.hpos 65535) s).isSome

/-- Before the first edge of a bar its CHECKPOINT must be staged, from the replay's ARM on (R325). -/
def checkGap (bar : Nat) (s : State) : State :=
  if replaying s ∧ !(s.rcd.script.any (fun q => (entryAt s q).ty == 0x12 && (entryAt s q).arg == bar)) then
    diverge 7 (headSeq s) s
  else s

end Sys2Proof.Machine
end

