-- ==== Sys2Proof/Machine/Operands.lean ====
section
/-! DEFINITION. The operand forms of the instructions (R181, R214, R217): counters, immediates and descriptor walks. -/

namespace Sys2Proof.Machine

/-- A 16-bit immediate sign-extended to 32 bits (R217). -/
def sext16 (i : BitVec 16) : W32 := i.signExtend 32

/-- Operand B of the counter group (R181). -/
def BOp.val (o : BOp) (x : Stream) : W32 :=
  match o with
  | .reg c => x.ctr[c]
  | .imm i => sext16 i

/-- The counters operand B reads. -/
def BOp.regs : BOp → List Ctr
  | .reg c => [c]
  | .imm _ => []

/-- The DMEM word index of TS.LDW and TS.STW (R181), wrapping modulo 2^32. -/
def dmemIndex (x : Stream) (ca : Ctr) (imm : BitVec 16) : Nat := (x.ctr[ca] + sext16 imm).toNat

/-- Element size in bytes of an ETYPE (R256). -/
def esz : Nat → Nat
  | 0 => 1
  | 1 => 2
  | 3 => 8
  | _ => 4

/-- Elements of a TENSOR or INDEX walk (R257). -/
def Desc.count (d : Desc) : Nat := d.size[0] * d.size[1] * d.size[2] * d.size[3]

/-- Address of the element with indices i0 to i3 (R257). -/
def Desc.at (d : Desc) (i0 i1 i2 i3 : Nat) : Nat :=
  ((d.base : Int) + i0 * d.stride[0] + i1 * d.stride[1] + i2 * d.stride[2] + i3 * d.stride[3]).toNat

/-- Address of element p of a TENSOR or INDEX walk (R257). -/
def Desc.elem (d : Desc) (p : Nat) : Nat :=
  d.at (p % d.size[0]) (p / d.size[0] % d.size[1]) (p / d.size[0] / d.size[1] % d.size[2])
    (p / d.size[0] / d.size[1] / d.size[2])

/-- Word permutation of an AUTO walk over limbs of n words (R268). -/
def autoPi (form : Bool) (g n i : Nat) : Nat :=
  if form then g * i % (2 * n) % n else (g * (2 * i + 1) % (2 * n) - 1) / 2

/-- Elements of any descriptor's walk; a RING counts its records. -/
def Desc.elems (d : Desc) : Nat :=
  if d.kind = 4 then d.size[0] * d.size[1] else if d.kind = 3 then d.size[0] else d.count

/-- Address of element p of any descriptor's walk (R257, R268). -/
def Desc.walk (d : Desc) (p : Nat) : Nat :=
  if d.kind = 4 then
    ((d.base : Int) + (p / d.size[0] : Nat) * d.stride[1] + 4 * autoPi d.form d.gal d.size[0] (p % d.size[0])).toNat
  else d.elem p

/-- Bytes of a descriptor's walk. -/
def Desc.bytes (d : Desc) : Nat := d.elems * esz d.etype

/-- Address of byte k of a descriptor's byte sequence; the walk restarts at element 0 at its end (R263, R266). -/
def Desc.byteAddr (d : Desc) (k : Nat) : Nat :=
  let j := k % d.bytes
  d.walk (j / esz d.etype) + j % esz d.etype

/-- The addresses of n bytes of the walk's byte sequence from byte k on. -/
def Desc.addrs (d : Desc) (k n : Nat) : List Nat := (List.range n).map (fun i => d.byteAddr (k + i))

/-- Bytes k … k + n - 1 of a descriptor's walk as stored. -/
def State.walkBytes (s : State) (d : Desc) (k n : Nat) : List Byte := s.gather (d.addrs k n)

/-- A read of these bytes of the walk meets an uncorrectable word or sector. -/
def walkBad (s : State) (d : Desc) (k n : Nat) : Bool := (d.addrs k n).any (byteBad s)

/-- The 32-bit word w of a descriptor's byte sequence. -/
def State.walkWord (s : State) (d : Desc) (w : Nat) : W32 := BitVec.ofNat 32 (leNat (s.walkBytes d (4 * w) 4))

/-- n words of the walk from word w on. -/
def State.walkWords (s : State) (d : Desc) (w n : Nat) : List W32 := (List.range n).map (fun i => s.walkWord d (w + i))

/-- A 32-bit word as a RED descriptor stores it: bits [30:0] reduced mod Q and bit 31 zero (R266). -/
def redWord (q : Nat) (w : Nat) : Nat := w % 2 ^ 31 % q

/-- Stores one byte through a walk: through a RED descriptor the 32-bit word it lies in is merged, reduced and stored (R266). -/
def State.putByte (s : State) (d : Desc) (k : Nat) (v : Byte) : State :=
  let a := d.byteAddr k
  if d.red then
    let w := a / 4 * 4
    let old := s.ldNat w 4
    let sh := 2 ^ (8 * (a % 4))
    let merged := old - old / sh % 256 * sh + v.toNat * sh
    s.store w (leBytes (redWord d.q merged) 4)
  else s.store a [v]

/-- Stores one aligned 32-bit word through a walk (R266). -/
def State.putWord (s : State) (d : Desc) (w : Nat) (v : W32) : State :=
  let a := d.byteAddr (4 * w)
  let contiguous := decide (4 ≤ esz d.etype)
  if contiguous then s.store a (leBytes (if d.red then redWord d.q v.toNat else v.toNat) 4)
  else (List.range 4).foldl (fun s i => s.putByte d (4 * w + i) (BitVec.ofNat 8 (v.toNat / 256 ^ i))) s

/-- Stores bytes through a walk from byte k on (R266): runs of whole elements at once, single bytes merged. -/
def State.putBytes (s : State) (d : Desc) (k : Nat) : List Byte → State
  | [] => s
  | v :: vs => State.putBytes (s.putByte d k v) d (k + 1) vs

/-- Stores words through a walk from word w on. -/
def State.putWords (s : State) (d : Desc) (w : Nat) : List W32 → State
  | [] => s
  | v :: vs => State.putWords (s.putWord d w v) d (w + 1) vs

end Sys2Proof.Machine
end

