-- ==== Sys2Proof/Machine/Flags.lean ====
section
/-! DEFINITION. Comparisons and logic on comparators, predicates and flags (R181, R189, R196, R217). -/

namespace Sys2Proof.Machine

/-- The relations of TS.CMP and VE.CMP (R181). -/
def Rel.holds (r : Rel) (a b : W32) : Bool :=
  match r with
  | .eq => a == b
  | .ne => a != b
  | .lt => a.slt b
  | .ge => !a.slt b
  | .ltu => a.ult b
  | .geu => !a.ult b

/-- The operations of TS.KLOG (R181). -/
def KOp.eval (o : KOp) (a b : Bool) : Bool :=
  match o with
  | .and => a && b
  | .or => a || b
  | .xor => a ^^ b
  | .andn => a && !b

/-- A global flag has reached or passed its target (R189). -/
def gflagDone (g : BitVec 16) (target : W32) : Bool := decide ((g - target.truncate 16).toNat < 2 ^ 15)

/-- BEAT[31:0] has reached or passed a target (R97, R196). -/
def beatDone (beat : BitVec 48) (target : W32) : Bool := !(beat.truncate 32 - target).msb

/-- The value of a global flag. -/
def gflagOf (g : Fin 256) (s : State) : BitVec 16 := Sparse.get (fun _ => 0#16) s.hdr.gflags g

/-- Writes a global flag at its home, the header unit (R189). -/
def putGflag (g : Fin 256) (v : BitVec 16) (s : State) : State :=
  { s with hdr := { s.hdr with gflags := Sparse.set (fun _ => 0#16) s.hdr.gflags g v, moved := true } }

end Sys2Proof.Machine
end

