-- ==== Sys2Proof/Machine/Header.lean ====
section
/-! DEFINITION. Ciphertext headers, contexts and the checks of the header unit (R38 to R61, R119, R120). -/

namespace Sys2Proof.Machine

/-! ### Reading and writing a header (R39) -/

/-- The fields of a 64-byte header. -/
def Hdr.ofNat (v : Nat) : Hdr :=
  { magic := BitVec.ofNat 16 v
    ver := BitVec.ofNat 8 (v / 2 ^ 16)
    cls := BitVec.ofNat 2 (v / 2 ^ 24)
    ctx := BitVec.ofNat 14 (v / 2 ^ 32)
    budget := BitVec.ofNat 16 (v / 2 ^ 48)
    fprint := BitVec.ofNat 64 (v / 2 ^ 64)
    level := BitVec.ofNat 8 (v / 2 ^ 128)
    scale := BitVec.ofNat 8 (v / 2 ^ 136)
    slots := BitVec.ofNat 24 (v / 2 ^ 144)
    invalid := v.testBit 176
    spent := v.testBit 177
    nttf := v.testBit 178
    cause := BitVec.ofNat 8 (v / 2 ^ 184)
    limbPg := BitVec.ofNat 25 (v / 2 ^ 192)
    comp := BitVec.ofNat 2 (v / 2 ^ 224)
    rsvd := bitsAt v 31 26 + bitsAt v 47 46 * 2 ^ 6 + bitsAt v 175 168 * 2 ^ 8 + bitsAt v 183 179 * 2 ^ 16 +
      bitsAt v 223 217 * 2 ^ 21 + bitsAt v 511 226 * 2 ^ 28 }

/-- The 64-byte image of a header, with every RSVD bit 0. -/
def Hdr.toNat (h : Hdr) : Nat :=
  h.magic.toNat + h.ver.toNat * 2 ^ 16 + h.cls.toNat * 2 ^ 24 + h.ctx.toNat * 2 ^ 32 + h.budget.toNat * 2 ^ 48 +
    h.fprint.toNat * 2 ^ 64 + h.level.toNat * 2 ^ 128 + h.scale.toNat * 2 ^ 136 + h.slots.toNat * 2 ^ 144 +
    h.invalid.toNat * 2 ^ 176 + h.spent.toNat * 2 ^ 177 + h.nttf.toNat * 2 ^ 178 + h.cause.toNat * 2 ^ 184 +
    h.limbPg.toNat * 2 ^ 192 + h.comp.toNat * 2 ^ 224

/-- The header stored at an address. -/
def hdrAt (s : State) (a : Nat) : Hdr := Hdr.ofNat (s.ldNat a 64)

/-- The blank header of R39. -/
def Hdr.blank : Hdr :=
  { magic := 0x5A9C#16, ver := 1#8, cls := 0#2, ctx := 0#14, budget := 0#16, fprint := 0#64, level := 0#8, scale := 0#8,
    slots := 0#24, invalid := false, spent := false, nttf := false, cause := 0#8, limbPg := 0#25, comp := 0#2, rsvd := 0 }

/-- INVALID or SPENT set. -/
def Hdr.marked (h : Hdr) : Bool := h.invalid || h.spent

/-- The first two conditions of R40: marker, version and reserved bits. -/
def Hdr.basic (h : Hdr) : Bool := h.magic == 0x5A9C#16 && h.ver == 1#8 && h.rsvd == 0

/-! ### Contexts (R47) -/

/-- A context table entry. -/
def ctxAt (s : State) (i : Nat) : CtxEntry := Sparse.get (fun _ => CtxEntry.reset) s.hdr.ctx i

/-- Replaces a context table entry. -/
def putCtx (i : Nat) (c : CtxEntry) (s : State) : State :=
  { s with hdr := { s.hdr with ctx := Sparse.set (fun _ => CtxEntry.reset) s.hdr.ctx i c, moved := true } }

/-- Ring degree of a context. -/
def CtxEntry.n (c : CtxEntry) : Nat := 2 ^ c.logn

/-- Prime i of a context's basis, read from its stored parameter block (R47, R281); 0 where the basis has none. -/
def ctxPrime (s : State) (ctx i : Nat) : Nat :=
  if i < (ctxAt s ctx).l + (ctxAt s ctx).k then s.ldNat (paramBase + 512 * ctx + 16 + 4 * i) 4 else 0

/-- REFS of a context rises for an operation or stream that names it; an EMPTY entry holds no count (R51, R97). -/
def refUp (i : Nat) (s : State) : State :=
  let c := ctxAt s i
  if c.st = .empty then s else putCtx i { c with refs := c.refs + 1 } s

/-- REFS falls. -/
def refDown (i : Nat) (s : State) : State :=
  let c := ctxAt s i
  if c.st = .empty then s else putCtx i { c with refs := c.refs - 1 } s

/-- The rounded logarithm e(q) of R56. -/
def elog (q : Nat) : Int :=
  let b := if q = 0 then 0 else Nat.log2 q + 1
  if 2 ^ (2 * b - 1) ≤ q * q then b else (b : Int) - 1

/-! ### Ranges (R39, R40, R41) -/

/-- A byte range of stack n's window lies in LOCAL bands 0 to 126 (R40, R281). -/
def localRange (s : State) (n off len : Nat) : Bool :=
  len == 0 ||
    (decide (n < 12) && decide (off + len ≤ 127 * 2 ^ 30) &&
      (List.range 127).all (fun k =>
        !s.ms.bands.getLsbD k || decide (off + len ≤ k * 2 ^ 30) || decide ((k + 1) * 2 ^ 30 ≤ off)))

/-- Residues j < level with j mod 12 = n (R41). -/
def residuesIn (level n : Nat) : Nat := (level + 11 - n) / 12

/-- Every limb address lies where R40 asks. -/
def limbsOk (s : State) (pg level comp ringN : Nat) : Bool :=
  (List.range 12).all (fun n => localRange s n (pg * 4096) (residuesIn level n * comp * 4 * ringN))

/-- An entry that is not malformed: version 1, no RSVD bit set (R14, R15, R36). -/
def CtxEntry.usable (c : CtxEntry) : Bool := c.ver == 1#8 && c.rsvd == 0

/-- A READY entry; the STATE of a malformed one is not read, so it is in none (R15). (DEDUCED, log 177) -/
def CtxEntry.isReady (c : CtxEntry) : Bool := c.usable && c.st == .ready

/-- LEVEL in the range of R39 for a context. -/
def CtxEntry.levelOk (c : CtxEntry) (l : Int) : Bool :=
  if c.cls = 1#2 then decide (1 ≤ l) && decide (l ≤ c.l) else decide (l = 1)

/-- SCALE_EXP in range. -/
def scaleOk (cls : BitVec 2) (e : Int) : Bool :=
  if cls = 1#2 then decide (1 ≤ e) && decide (e ≤ 120) else decide (e = 0)

/-- SLOTS in range. -/
def CtxEntry.slotsOk (c : CtxEntry) (n : Nat) : Bool :=
  decide (1 ≤ n) && decide (n ≤ if c.cls = 1#2 then c.n / 2 else c.n)

/-- A source header is well-formed (R40); `bad` says its own read or its context entry's was uncorrectable. -/
def sourceOk (s : State) (h : Hdr) (bad : Bool) : Bool :=
  let c := ctxAt s h.ctx.toNat
  !bad && h.basic &&
    (h.marked ||
      ((h.cls == 1#2 || h.cls == 2#2) && h.cls == c.cls && c.isReady &&
        (h.comp == 2#2 || h.comp == 3#2) && c.levelOk h.level.toNat && c.slotsOk h.slots.toNat &&
        scaleOk c.cls h.scale.toNat && limbsOk s h.limbPg.toNat h.level.toNat h.comp.toNat c.n))

/-! ### What an operation derives (R56, R120) -/

/-- The fields R56 or R120 derive for a destination. -/
structure Derived where
  ctx : BitVec 14
  fprint : BitVec 64
  cls : BitVec 2
  level : Int
  scale : Int
  comp : Nat
  slots : Nat

/-- An approximate-class REFRESH, whose LEVEL and SCALE_EXP TS.HOUT declares (R121). -/
def declares (kind : Nat) (h : Hdr) : Bool := kind == 6 && h.cls == 1#2

/-- The context the destination takes (R56, R120). -/
def destCtx (kind : Nat) (x : W32) (h1 : Hdr) : BitVec 14 := if kind = 8 then x.truncate 14 else h1.ctx

/-- The destination's fields (R56, R120). (DEDUCED, log 135) -/
def derive (s : State) (kind : Nat) (x : W32) (h1 : Hdr) (h2 : Option Hdr) : Derived :=
  let dc := destCtx kind x h1
  let c := ctxAt s dc.toNat
  let q0 := ctxPrime s h1.ctx.toNat 0
  let l1 : Int := h1.level.toNat
  let e1 : Int := h1.scale.toNat
  { ctx := dc
    fprint := if kind = 8 then c.fprint else h1.fprint
    cls := if kind = 8 then c.cls else h1.cls
    level := match kind with
      | 4 => l1 - 1
      | 6 => if declares kind h1 then 0 else 1
      | 7 => 1
      | 8 => 1
      | _ => l1
    scale := match kind with
      | 2 => e1 + (x.toNat % 256 : Nat)
      | 3 => e1 + (match h2 with | some h => (h.scale.toNat : Int) | none => 0)
      | 4 =>
        let b := ctxAt s h1.ctx.toNat
        if 1 ≤ h1.level.toNat ∧ h1.level.toNat ≤ b.l + b.k then e1 - elog (ctxPrime s h1.ctx.toNat (h1.level.toNat - 1))
        else -1
      | 6 => 0
      | 7 => 0
      | 8 => if c.cls = 1#2 then elog q0 - 1 - (ctxAt s h1.ctx.toNat).tlog else 0
      | _ => e1
    comp := match kind with
      | 0 => max h1.comp.toNat (match h2 with | some h => h.comp.toNat | none => 0)
      | 3 => 3
      | 5 => 2
      | 6 => 2
      | 7 => 2
      | 8 => 2
      | _ => h1.comp.toNat
    slots := match kind with
      | 0 => max h1.slots.toNat (match h2 with | some h => h.slots.toNat | none => 0)
      | 3 => max h1.slots.toNat (match h2 with | some h => h.slots.toNat | none => 0)
      | _ => h1.slots.toNat }

/-- A value written 0 when it lies outside its range (R54). -/
def clampNat (ok : Bool) (v : Nat) : Nat := if ok then v else 0

/-- The header R56 or R120 derives under RUN; flags clear, BUDGET and form still to be written. -/
def Derived.run (d : Derived) (limbPg : BitVec 25) (decl : Bool) : Hdr :=
  { Hdr.blank with
    cls := d.cls
    ctx := d.ctx
    fprint := d.fprint
    limbPg := limbPg
    level := if decl then 0#8 else BitVec.ofInt 8 d.level
    scale := if decl then 0#8 else BitVec.ofInt 8 d.scale
    comp := BitVec.ofNat 2 d.comp
    slots := BitVec.ofNat 24 d.slots }

/-- The header R54 gives a marked destination: the fields of R56 or R120, the out-of-range ones 0. The ranges of LEVEL and
SLOTS are those of the destination context's entry, whatever its state, that of SCALE_EXP the class the header takes.
(DESIGN CHOICE, log 143) -/
def Derived.hdr (d : Derived) (s : State) (limbPg : BitVec 25) (decl : Bool) : Hdr :=
  let c := ctxAt s d.ctx.toNat
  { Hdr.blank with
    cls := d.cls
    ctx := d.ctx
    fprint := d.fprint
    limbPg := limbPg
    level := if decl then 0#8 else BitVec.ofNat 8 (clampNat (c.levelOk d.level) d.level.toNat)
    scale := if decl then 0#8 else BitVec.ofNat 8 (clampNat (scaleOk d.cls d.scale) d.scale.toNat)
    comp := BitVec.ofNat 2 (clampNat (d.comp == 2 || d.comp == 3) d.comp)
    slots := BitVec.ofNat 24 (clampNat (c.slotsOk d.slots) d.slots) }

/-- A destination header is usable (R40); LEVEL and COMP are those it would be written with, 0 where out of range.
(DESIGN CHOICE, log 143) -/
def destOk (s : State) (h : Hdr) (bad : Bool) (d : Derived) (decl : Bool) : Bool :=
  let c := ctxAt s d.ctx.toNat
  let o := d.hdr s h.limbPg decl
  !bad && h.basic && limbsOk s h.limbPg.toNat (if decl then c.l else o.level.toNat) o.comp.toNat c.n

/-- The operand conditions of R56 and R119, evaluated when no source is marked. -/
def operandOk (s : State) (kind : Nat) (x : W32) (h1 : Hdr) (h2 : Option Hdr) : Bool :=
  let d := derive s kind x h1 h2
  let c1 := ctxAt s h1.ctx.toNat
  let t := ctxAt s (x.toNat % 2 ^ 14)
  let q0 := ctxPrime s h1.ctx.toNat 0
  let eqLevel := match h2 with | some h => h.level == h1.level | none => false
  let scale := declares kind h1 || scaleOk d.cls d.scale
  match kind with
  | 0 => eqLevel && scale
  | 3 => eqLevel && h1.comp == 2#2 && (match h2 with | some h => h.comp == 2#2 | none => false) && scale
  | 4 => (h1.cls == 1#2 && h1.level == 1#8) || scale
  | 6 => h1.comp == 2#2
  | 7 => h1.cls == 2#2 && h1.comp == 2#2
  | 8 =>
    h1.comp == 2#2 && h1.level == 1#8 && decide (x.toNat < 2 ^ 14) && t.isReady && t.cls != h1.cls &&
      ctxPrime s (x.toNat % 2 ^ 14) 0 == q0 &&
      decide (c1.n * (if h1.cls = 2#2 then c1.d else t.d) ≤ 2 ^ 18) &&
      (if h1.cls = 1#2 then
        decide ((h1.scale.toNat : Int) = elog q0 - 1 - t.tlog) && decide (h1.slots.toNat ≤ t.n)
      else decide (t.logn ≤ 16)) && scale
  | _ => scale

/-! ### The budget check (R57, R58) -/

/-- A source's budget clamped to C_FRESH (R58). -/
def clampBudget (c : CtxEntry) (h : Hdr) : Nat := min h.budget.toNat (c.cost[11])

/-- The cost slot an operation is charged (R58). -/
def costOf (c : CtxEntry) (kind : Nat) : Nat :=
  match kind with
  | 6 => c.cost[6]
  | 7 => c.cost[8]
  | 8 => c.cost[10]
  | 9 => 0
  | k => if h : k < 6 then c.cost[k] else 0

/-- The prediction p of Cliff (R58). -/
def cliff (c : CtxEntry) (kind : Nat) (h1 : Hdr) (h2 : Option Hdr) : Int :=
  let b1 := clampBudget c h1
  let b := match h2 with | some h => min b1 (clampBudget c h) | none => b1
  if c.cls = 1#2 ∧ kind = 4 ∧ h1.level = 1#8 then -1 else (b : Int) - costOf c kind

/-- The headroom written under RUN (R58). -/
def cliffOut (c : CtxEntry) (kind : Nat) (p : Int) : Nat :=
  match kind with
  | 6 => c.cost[7]
  | 7 => c.cost[9]
  | _ => p.toNat

/-- REFRESH is the policy in force for a context (R59). -/
def policyRefresh (s : State) (c : CtxEntry) : Bool :=
  if c.pol = 2#2 then true else if c.pol = 1#2 then false else decide (s.od.budgetPolicy = 1)

/-- The image a bay holds (R232). -/
def imageOf (b : Bay) (s : State) : Option Image := s.ldr.images.find? (fun i => i.bays.getLsbD b)

/-- The entry PC of a bay's refresh routine for a class (R230). -/
def routineOf (b : Bay) (cls : Nat) (s : State) : Option (BitVec 15) :=
  ((s.bay b).routines.find? (fun r => r.1 == cls)).map (fun r => r.2)

/-- Every bay of the mask holds a refresh routine for the class (R61). -/
def routinesFor (mask : BayMask) (cls : Nat) (s : State) : Bool :=
  (List.finRange 12).all (fun b => !mask.getLsbD b || (routineOf b cls s).isSome)

/-! ### Verdicts (R52, R54) -/

/-- A header marked under R54: flags, CAUSE, BUDGET 0, form of source 1. -/
def Hdr.mark (h : Hdr) (src : Hdr) (invalid spent : Bool) (cause : Byte) : Hdr :=
  { h with budget := 0#16, nttf := src.nttf, invalid := invalid, spent := spent, cause := cause }

/-- The header of a MALFORMED verdict: blank but for LIMB_PG, INVALID and CAUSE 0x24 (R54). -/
def Hdr.malformed (limbPg : BitVec 25) : Hdr := { Hdr.blank with limbPg := limbPg, invalid := true, cause := 0x24#8 }

/-- The verdict of an operation before insertion is considered, by the order of R52; `same` that the bays agree (R223),
`ue` that the context entry read was uncorrectable (R251). -/
def verdictOf (s : State) (kind : Nat) (x : W32) (h1 : Hdr) (h2 : Option Hdr) (hd : Hdr)
    (bad1 bad2 badD same ue : Bool) (thresh : Nat) : Verdict :=
  let d := derive s kind x h1 h2
  let marked := h1.marked || (match h2 with | some h => h.marked | none => false)
  let src2 := match h2 with | some h => sourceOk s h (bad2 || ue) | none => true
  let c := ctxAt s h1.ctx.toNat
  if !same || decide (10 ≤ kind) || !sourceOk s h1 (bad1 || ue) || !src2 ||
      !destOk s hd badD d (declares kind h1) || (!marked && !operandOk s kind x h1 h2) then .malformed
  else if marked then .poison
  else if (match h2 with | some h => h.ctx != h1.ctx || h.fprint != h1.fprint | none => false) ||
      h1.fprint != c.fprint then .mismatch
  else if cliff c kind h1 h2 < thresh then .spent
  else .run

/-- The lowest-numbered marked source (R52). -/
def markedSource (h1 : Hdr) (h2 : Option Hdr) : Hdr :=
  if h1.marked then h1 else match h2 with | some h => h | none => h1

/-- The fields R54 gives a marked destination, its flags, CAUSE, BUDGET and form still to be written. -/
def clampedHdr (s : State) (kind : Nat) (x : W32) (h1 : Hdr) (h2 : Option Hdr) (limbPg : BitVec 25) : Hdr :=
  (derive s kind x h1 h2).hdr s limbPg (declares kind h1)

/-- The destination header a verdict leads to (R52, R54, R56). -/
def verdictHdr (s : State) (v : Verdict) (kind : Nat) (x : W32) (h1 : Hdr) (h2 : Option Hdr) (limbPg : BitVec 25) : Hdr :=
  let o := clampedHdr s kind x h1 h2 limbPg
  let c := ctxAt s h1.ctx.toNat
  match v with
  | .run => { (derive s kind x h1 h2).run limbPg (declares kind h1) with budget := BitVec.ofNat 16 (cliffOut c kind (cliff c kind h1 h2)) }
  | .malformed => Hdr.malformed limbPg
  | .poison =>
    let m := markedSource h1 h2
    o.mark h1 m.invalid m.spent m.cause
  | .mismatch => o.mark h1 true false 0x21#8
  | .spent => o.mark h1 false true 0x22#8

/-- The RSVD bits of a context table entry (R47). -/
def ctxRsvd : Nat :=
  2 ^ 15 + 7 * 2 ^ 21 + (2 ^ 19 - 1) * 2 ^ 173 + 0xFFFF * 2 ^ 240 + (2 ^ 1280 - 1) * 2 ^ 768

/-- The 256 bytes a context table entry holds (R47). -/
def CtxEntry.stored (c : CtxEntry) : List Byte :=
  let st := match c.st with
    | .empty => 0
    | .loading => 1
    | .ready => 2
    | .retiring => 3
  leBytes (c.ver.toNat + st * 2 ^ 8 + c.cls.toNat * 2 ^ 10 + c.pol.toNat * 2 ^ 12 + (if c.rkeys then 2 ^ 14 else 0) +
    c.logn * 2 ^ 16 + c.l * 2 ^ 24 + c.k * 2 ^ 32 + c.d * 2 ^ 40 + c.tlog * 2 ^ 48 + c.glog * 2 ^ 52 +
    c.scale0 * 2 ^ 56 + c.fprint.toNat * 2 ^ 64 + c.refs % 2 ^ 32 * 2 ^ 128 + c.dcount * 2 ^ 160 +
    c.dirAddr * 2 ^ 192 + leNat (c.cost.toList.flatMap (fun v => leBytes v 2)) * 2 ^ 256 + leNat c.seed * 2 ^ 512 + c.rsvd) 256

/-- The 256-byte image a read of a context table entry returns, its RSVD fields 0 (R14, R47). -/
def CtxEntry.image (c : CtxEntry) : List Byte := { c with rsvd := 0 }.stored

/-- A context table entry from its 256 bytes (R47). -/
def CtxEntry.ofImage (v : List Byte) : CtxEntry :=
  let n := leNat v
  { ver := BitVec.ofNat 8 n
    st := match bitsAt n 9 8 with
      | 0 => .empty
      | 1 => .loading
      | 2 => .ready
      | _ => .retiring
    cls := BitVec.ofNat 2 (bitsAt n 11 10), pol := BitVec.ofNat 2 (bitsAt n 13 12), rkeys := n.testBit 14
    logn := bitsAt n 20 16, l := bitsAt n 31 24, k := bitsAt n 39 32, d := bitsAt n 47 40, tlog := bitsAt n 51 48
    glog := bitsAt n 55 52, scale0 := bitsAt n 63 56, fprint := BitVec.ofNat 64 (bitsAt n 127 64), refs := bitsAt n 159 128
    dcount := bitsAt n 172 160, dirAddr := bitsAt n 239 192
    cost := Vector.ofFn (fun (i : Fin 16) => bitsAt n (271 + 16 * i.val) (256 + 16 * i.val)), seed := leBytes (bitsAt n 767 512) 32
    rsvd := n &&& ctxRsvd }

/-- A byte of a context table entry written. -/
def putCtxByte (ctx : Fin 16384) (off : Fin 256) (v : Byte) (s : State) : State :=
  putCtx ctx.val (CtxEntry.ofImage (listSet (ctxAt s ctx.val).stored off.val v)) s

end Sys2Proof.Machine
end

