-- ==== Sys2Proof/Machine/TideOps.lean ====
section
/-! DEFINITION. What a key stream captures, checks and delivers (R45, R46, R91 to R109, R122 to R124). -/

namespace Sys2Proof.Machine

/-- Ceiling division. -/
def cdiv (a b : Nat) : Nat := (a + b - 1) / b

/-! ### The key directory (R46, R49) -/

/-- The fields of a directory entry (R46). -/
structure DirEntry where
  ver : Nat
  kind : Nat
  dx : Nat
  rsvd : Nat
  gal : Nat
  kpgHi : Nat
  kpg : Nat
  kidx : Nat
  tail : Nat

/-- Reads a directory entry of 32 bytes. -/
def DirEntry.ofBytes (l : List Byte) : DirEntry :=
  { ver := fieldAt l 0 1, kind := fieldAt l 1 1, dx := fieldAt l 2 1, rsvd := fieldAt l 3 1, gal := fieldAt l 4 4,
    kpgHi := fieldAt l 8 4 / 2 ^ 25, kpg := fieldAt l 8 4 % 2 ^ 25, kidx := fieldAt l 12 4, tail := fieldAt l 16 16 }

/-- Digits per key at a level: ⌈λ ÷ α⌉ with α = ⌈L ÷ D⌉ (R97, R124). -/
def digitsAt (l d lam : Nat) : Nat := cdiv lam (cdiv l d)

/-- Bytes a directory entry's blocks occupy in stack n from its first page (R45, R91, R124), for the largest admissible
level of step 4 of R49. -/
def dirSpan (c : CtxEntry) (e : DirEntry) (n : Nat) : Nat :=
  if e.kind = 5 then
    (2 ^ (e.kidx % 2 ^ 18) / 256 + 11 - n) / 12 * (1024 * (c.n * e.dx))
  else if e.kind = 4 ∧ c.cls = 2#2 then (2 * c.d * 7 + 2 * c.d) * 4 * c.n
  else if residuesIn (c.l + c.k) n = 0 then 0
  else ((residuesIn (c.l + c.k) n - 1) * c.d + digitsAt c.l c.d c.l) * 4 * c.n

/-- The target LOGN a KIND 5 entry carries in KIDX[17:0] is admitted (R49, R122). -/
def kidxOk (c : CtxEntry) (e : DirEntry) : Bool :=
  let low := e.kidx % 2 ^ 18
  e.kind != 5 || (decide (10 ≤ low) && decide (low ≤ if c.cls = 1#2 then 12 else 16))

/-- A directory entry meets R46 and the range rules of step 4 of R49 for a context's parameters. -/
def dirEntryOk (s : State) (c : CtxEntry) (e : DirEntry) : Bool :=
  decide (e.ver = 1) && decide (1 ≤ e.kind) && decide (e.kind ≤ 5) && decide (e.rsvd = 0) && decide (e.kpgHi = 0) &&
  decide (e.tail = 0) &&
  (if e.kind = 2 ∨ e.kind = 3 then decide (e.gal % 2 = 1) && decide (e.gal < 2 * c.n) else decide (e.gal = 0)) &&
  (if e.kind = 5 then
    decide (1 ≤ e.dx) && decide (e.dx ≤ 16) && (c.cls == 1#2 || e.dx == c.d) && decide (c.n * e.dx ≤ 2 ^ 18)
   else decide (e.dx = 0)) &&
  kidxOk c e && (List.range 12).all (fun n => localRange s n (e.kpg * 4096) (dirSpan c e n))

/-! ### Capture at opening (R97) -/

/-- Address of a directory entry. -/
def dirAddr (c : CtxEntry) (i : Nat) : Nat := c.dirAddr + 32 + 32 * i

/-- What Tide captures when a stream opens; none for a void stream (R97, R288). -/
def captureKey (s : State) (ctx eidx level : Nat) : Option TideCap :=
  let c := ctxAt s ctx
  let pa := paramBase + 512 * ctx
  let a := dirAddr c eidx
  let e := DirEntry.ofBytes (s.ld a 32)
  if c.isReady ∧ eidx < c.dcount ∧ level ≤ c.l ∧ rangeBad s pa 336 = false ∧ rangeBad s a 32 = false ∧
      dirEntryOk s c e then
    some { fprint := c.fprint, seed := s.ld (pa + 272) 32,
           primes := (List.range (c.l + c.k)).map (ctxPrime s ctx), cls := c.cls, logn := c.logn, l := c.l, k := c.k,
           d := c.d, kind := e.kind, dx := e.dx, gal := e.gal, kpg := e.kpg, kidx := BitVec.ofNat 32 e.kidx }
  else none

/-- The working level λ of a stream's Cg (R123). -/
def TStream.lam (t : TStream) : Nat := bitsAt t.cg.toNat 29 24

/-- Words of one key polynomial (R91, R124). -/
def TideCap.polyLen (c : TideCap) : Nat := if c.kind = 5 then 2 ^ c.logn * c.dx * 256 else 2 ^ c.logn

/-- Rows of one key polynomial. -/
def TideCap.polyRows (c : TideCap) : Nat := c.polyLen / 256

/-- The blocks of a stream in bay n, in delivery order (R97, R124). -/
def TideCap.blocks (c : TideCap) (n level lam : Nat) : List (Nat × Nat) :=
  let lv := if c.kind = 4 then lam else level
  if c.kind = 5 then
    ((List.range (2 ^ (c.kidx.toNat % 2 ^ 18) / 256)).filter (fun w => w % 12 = n)).map (fun w => (0, w))
  else if c.kind = 4 ∧ c.cls = 2#2 then
    (List.range 8).flatMap (fun u => (List.range (2 * c.d)).map (fun e => (0, 32 * u + e)))
  else
    ((List.range (c.l + c.k)).filter (fun j => j % 12 = n ∧ (j < lv ∨ c.l ≤ j))).flatMap
      (fun j => (List.range (digitsAt c.l c.d lv)).map (fun d => (j, d)))

/-- The blocks of a stream in its bay; none when it captured nothing. -/
def TStream.blocks (t : TStream) (n : Nat) : List (Nat × Nat) :=
  match t.cap with
  | some c => c.blocks n t.level t.lam
  | none => []

/-- Rows a stream delivers in its bay; none bounds a void stream. (DESIGN CHOICE, log 182) -/
def TStream.total (t : TStream) (n : Nat) : Option Nat :=
  t.cap.map (fun c => (c.blocks n t.level t.lam).length * 2 * c.polyRows)

/-- Address of the stored polynomial of a block in stack n (R91, R124). -/
def TideCap.stored (c : TideCap) (n : Nat) (blk : Nat × Nat) : Nat :=
  n * winSize + c.kpg * 4096 +
    (if c.kind = 5 then blk.2 / 12 * (1024 * (2 ^ c.logn * c.dx))
     else if c.kind = 4 ∧ c.cls = 2#2 then (2 * c.d * (blk.2 / 32) + blk.2 % 32) * 4 * 2 ^ c.logn
     else (blk.1 / 12 * c.d + blk.2) * 4 * 2 ^ c.logn)

/-- The prime a block is reduced by. -/
def TideCap.prime (c : TideCap) (blk : Nat × Nat) : Nat := c.primes.getD blk.1 1

/-- Seed-expansion bytes 36 and 37 of a block (R93, R124). -/
def TideCap.seedBytes (c : TideCap) (blk : Nat × Nat) : Nat × Nat :=
  if c.kind = 5 ∨ (c.kind = 4 ∧ c.cls = 2#2) then (blk.2, 0) else (blk.2, blk.1)

/-! ### Seed expansion (R93, R94) -/

/-- The 41 input bytes of a segment's SHAKE128 (R93). -/
def TideCap.xofInput (c : TideCap) (blk : Nat × Nat) (seg : Nat) : List Byte :=
  c.seed ++ leBytes c.kidx.toNat 4 ++ leBytes (c.seedBytes blk).1 1 ++ leBytes (c.seedBytes blk).2 1 ++ leBytes seg 2 ++
    [0x01#8]

/-- Accepts candidates of a released block until `want` words are drawn: the words in reverse, how many are still wanted
and how many candidates were rejected (R94). -/
def sampleBlock (q mask : Nat) (acc : List W32) (want rej : Nat) : List Byte → Nat → List W32 × Nat × Nat
  | _, 0 => (acc, want, rej)
  | l, n + 1 =>
    if want = 0 then (acc, want, rej)
    else
      let v := fieldAt l 0 4 &&& mask
      if v < q then sampleBlock q mask (BitVec.ofNat 32 v :: acc) (want - 1) rej (l.drop 4) n
      else sampleBlock q mask acc want (rej + 1) (l.drop 4) n

/-- Draws words block by block, with a bound on the blocks: words in reverse, permutations run, candidates rejected. -/
def sampleSeg (q mask : Nat) (a : List Nat) (acc : List W32) (want rej perms : Nat) : Nat → List W32 × Nat × Nat
  | 0 => (acc, perms, rej)
  | n + 1 =>
    let r := sampleBlock q mask acc want rej (release 168 a) 42
    if r.2.1 = 0 then (r.1, perms + 1, r.2.2)
    else sampleSeg q mask (keccakF a) r.1 r.2.1 r.2.2 (perms + 1) n

/-- Bit length of a number. -/
def bitLen (q : Nat) : Nat := if q = 0 then 0 else Nat.log2 q + 1

/-- A segment of 1,024 words with the permutations run and candidates rejected (R93, R94). The bound of 4,096 blocks is
never met by a prime above half its mask. -/
def expandSeg (c : TideCap) (blk : Nat × Nat) (seg : Nat) : List W32 × Nat × Nat :=
  let q := c.prime blk
  let r := sampleSeg q (2 ^ bitLen q - 1) (shake128 (c.xofInput blk seg)) [] 1024 0 0 4096
  (r.1.reverse, r.2)

/-! ### Fills and rows (R104, R105) -/

/-- Start and count, in stored rows, of fill f of a stream with `nb` blocks of `rp` rows (R104). -/
def fillSpan (rp nb f : Nat) : Nat × Nat :=
  if rp ≤ 4096 then
    let per := 4096 / rp * rp
    (f * per, min per (nb * rp - f * per))
  else
    let fpp := cdiv rp 4096
    (f / fpp * rp + f % fpp * 4096, min 4096 (rp - f % fpp * 4096))

/-- Number of fills of a stream. -/
def fillCount (rp nb : Nat) : Nat := if rp ≤ 4096 then cdiv nb (4096 / rp) else nb * cdiv rp 4096

/-- Fills of a stream in its bay; a void or zero-delivering stream reads none. -/
def TStream.fillsTotal (t : TStream) (n : Nat) : Nat :=
  match t.cap with
  | some c => if t.zero then 0 else fillCount c.polyRows (t.blocks n).length
  | none => 0

/-- Segments of a stream in its bay. -/
def TStream.segsTotal (t : TStream) (n : Nat) : Nat :=
  match t.cap with
  | some c => if t.zero then 0 else (t.blocks n).length * (c.polyLen / 1024)
  | none => 0

/-- Block, row within the block and half of the pair of delivery row i. -/
def rowPos (rp i : Nat) : Nat × Nat × Bool := (i / (2 * rp), i % (2 * rp) / 2, decide (i % 2 = 1))

/-- First word of row i of a half in the key buffer (R104). -/
def halfWord (k : Bool) (i : Nat) : Nat := (if k then 1048576 else 0) + 256 * i

/-- A stored word as Tide delivers it (R92). -/
def keyWord (q : Nat) (w : W32) : W32 := BitVec.ofNat 32 (w.toNat % 2 ^ 31 % q)

/-- The row of a half that is stored row r of stream `sid`, when it is present. -/
def Half.rowOf (h : Half) (rp nb sid r : Nat) : Option Nat :=
  if h.sid = sid ∧ (h.st = .full ∨ h.st = .filling) then
    let f := fillSpan rp nb h.fill
    if f.1 ≤ r ∧ r < f.1 + f.2 ∧ r - f.1 < h.rows then some (r - f.1) else none
  else none

/-- Stored row r of stream `sid` in the key buffer: first word, when it is present in a half (R104). -/
def Tide.stored (t : Tide) (rp nb sid r : Nat) : Option Nat :=
  match t.kh0.rowOf rp nb sid r with
  | some i => some (halfWord false i)
  | none => (t.kh1.rowOf rp nb sid r).map (halfWord true)

/-- Seeded row w of a block from its completed segment. -/
def segRow (l : List Seg) (sid num w : Nat) : Option (List W32) :=
  match l.find? (fun g => g.sid == sid && g.num == num) with
  | some g => g.words.map (fun x => (x.drop (256 * (w % 4))).take 256)
  | none => none

/-- The next row of a stream when it is available: residue index and words (R101, R103, R105, R108). -/
def Tide.nextRow (t : Tide) (kb : Sparse W32) (st : TStream) (n : Nat) : Option KeyRow :=
  if st.zero ∨ t.halt then some ⟨((st.blocks n).getD
      (match st.cap with | some c => (rowPos c.polyRows st.rows).1 | none => 0) (0, 0)).1, List.replicate 256 0#32⟩
  else
    match st.cap with
    | none => none
    | some c =>
      let bl := st.blocks n
      let p := rowPos c.polyRows st.rows
      let blk := bl.getD p.1 (0, 0)
      let r := p.1 * c.polyRows + p.2.1
      if p.2.2 then (segRow t.segs st.sid (p.1 * (c.polyLen / 1024) + p.2.1 / 4) p.2.1).map (fun w => ⟨blk.1, w⟩)
      else
        (t.stored c.polyRows bl.length st.sid r).map (fun k =>
          ⟨blk.1, (Sparse.getList (fun _ => 0#32) kb k 256).map (keyWord (c.prime blk))⟩)

/-- First 64-bit word, in the numbering of page-coded words, of the row that is delivered next, when it is a stored one (R453). -/
def Tide.rowWord (t : Tide) (st : TStream) (n : Nat) : Option Nat :=
  match st.cap with
  | none => none
  | some c =>
    let bl := st.blocks n
    let p := rowPos c.polyRows st.rows
    let r := p.1 * c.polyRows + p.2.1
    if st.zero ∨ t.halt ∨ p.2.2 then none
    else (t.stored c.polyRows bl.length st.sid r).map (fun k => spadWords + k / 2)

/-- Stream, segment and quarter of the segment of the row that is delivered next, when it is a seeded one (R94, R105). -/
def Tide.rowSeg (t : Tide) (st : TStream) : Option (Nat × Nat × Nat) :=
  match st.cap with
  | none => none
  | some c =>
    let p := rowPos c.polyRows st.rows
    if st.zero ∨ t.halt ∨ !p.2.2 then none else some (st.sid, p.1 * (c.polyLen / 1024) + p.2.1 / 4, p.2.1 % 4)

/-- A known-bad word among the 128 of a key row (R247). -/
def badInRow (p : Prot) (w : Option Nat) : Option Nat :=
  w.bind (fun w => p.bad.find? (fun x => decide (w ≤ x) && decide (x < w + 128)))

/-! ### Checks, binding and ends (R98 to R103) -/

/-- A stream's KIND fits its bracket (R99, R123); `x` is the SWITCH operand's target. -/
def fitsBracket (s : State) (c : TideCap) (cg : W32) (lam : Nat) (o : OpenOp) : Bool :=
  let approx := o.src.cls == 1#2
  let ksrc := ctxAt s o.src.ctx.toNat
  let t := ctxAt s (o.x.toNat % 2 ^ 14)
  let tl := c.kidx.toNat % 2 ^ 18
  let cgOk := bitsAt cg.toNat 31 30 == c.kidx.toNat / 2 ^ 30 && bitsAt cg.toNat 17 0 == tl && bitsAt cg.toNat 23 18 == 0
  match o.kind with
  | 5 => approx && ((c.kind == 1 && o.src.comp == 3#2) || ((c.kind == 2 || c.kind == 3) && o.src.comp == 2#2))
  | 6 =>
    if approx then c.kind == 4 && cgOk && decide (1 ≤ lam) && decide (lam ≤ c.l)
    else cgOk && lam == 0 && (c.kind == 4 || (c.kind == 5 && tl == ksrc.logn))
  | 7 => cgOk && lam == 0 && (c.kind == 4 || (c.kind == 5 && tl == ksrc.logn))
  | 8 => cgOk && lam == 0 && c.kind == 5 && tl == t.logn && c.dx == (if approx then t.d else ksrc.d)
  | _ => false

/-- The check code of a stream against source 1 of its bracket (R99). -/
def checkCode (s : State) (t : TStream) (o : OpenOp) : Byte :=
  match t.cap with
  | none => 0x01#8
  | some c =>
    if BitVec.ofNat 14 t.ctx.val != o.src.ctx then 0x02#8
    else if c.fprint != o.src.fprint then 0x03#8
    else if !fitsBracket s c t.cg t.lam o then 0x04#8
    else if (c.kind == 2 || c.kind == 3) && (c.gal != t.cg.toNat % 2 ^ 18 ||
        (c.kind == 3 && t.cg.toNat % 2 ^ 18 != 2 * 2 ^ c.logn - 1)) then 0x05#8
    else if t.level != o.src.level.toNat then 0x06#8
    else 0x00#8

/-- A stream once it has both bound and opened is checked, unless its bracket's verdict at TS.HOP was not RUN; one bound to a
bracket not under RUN delivers zeros (R99, R101, R103). -/
def TStream.judge (t : TStream) (s : State) (o : OpenOp) : TStream :=
  if t.bound ∧ t.chk.isNone then
    { t with
      chk := if t.opened ∧ o.hopRun then some (checkCode s t o) else none
      zero := t.zero || o.verdict != .run }
  else t

/-- The last check code a judged list of streams leaves in TD_STAT.CHK, given the list before. -/
def lastChk (old new : List TStream) (chk : Byte) : Byte :=
  (old.zip new).foldl (fun k p => match p.1.chk, p.2.chk with | none, some v => v | _, _ => k) chk

/-- Judges every stream of a bay against its bracket's operation. -/
def Tide.judgeAll (t : Tide) (s : State) (o : OpenOp) : Tide :=
  let l := t.streams.map (fun x => x.judge s o)
  { t with streams := l, chk := lastChk t.streams l t.chk }

/-- Binds the unbound streams of a bay to the bracket whose TS.HOP retires (R98). -/
def Tide.bindAll (t : Tide) : Tide :=
  t.streams.foldl (fun (r : Tide) x =>
    if x.bound then { r with streams := r.streams ++ [x] }
    else { r with streams := r.streams ++ [{ x with bound := true, next := false, nset := r.nbound }],
                  nbound := r.nbound + 1 })
    { t with streams := [], nbound := 0, spoiled := t.halt && !t.streams.isEmpty }

/-- Frees the halves that hold a fill of one of the streams named. -/
def Tide.freeHalves (t : Tide) (sids : List Nat) : Tide :=
  let f := fun h : Half => if h.st ≠ .halted ∧ h.st ≠ .free ∧ sids.contains h.sid then Half.reset else h
  { t with kh0 := f t.kh0, kh1 := f t.kh1, segs := t.segs.filter (fun g => !sids.contains g.sid) }

/-- Rows a stream still owes when it ends. -/
def TStream.owed (t : TStream) (n : Nat) : Nat :=
  match t.total n with
  | some k => k - t.rows
  | none => 0

/-- Ends the streams of a bay that `p` picks: REFS falls, halves are freed, undelivered rows are counted (R98, R110). -/
def endStreams (b : Bay) (p : TStream → Bool) (count : Bool) (s : State) : State :=
  let gone := (s.bay b).tide.streams.filter p
  if gone.isEmpty then s
  else
    let s := s.updBay b (fun x =>
      { x with tide :=
        { (x.tide.freeHalves (gone.map (fun t => t.sid))) with streams := x.tide.streams.filter (fun t => !p t) } })
    let s := gone.foldl (fun s t => if t.refs then refDown t.ctx s else s) s
    if count then
      { s with tideCtr := { s.tideCtr with
        dropped := satAdd 64 s.tideCtr.dropped ((gone.map (fun t => t.owed b)).foldl (· + ·) 0) } }
    else s

end Sys2Proof.Machine
end

