-- ==== Sys2Proof/Machine/Bracket.lean ====
section
/-! DEFINITION. Brackets: TS.HOP, opening with its verdict or a refresh insertion, TS.HEND, TS.HOUT and closure (R51 to R61, R121, R203, R222 to R225, R454). -/

namespace Sys2Proof.Machine

/-! ### TS.HOP -/

/-- The header address of window index h (R222). -/
def hdrAddr (i : Image) (h : W32) : Nat := i.hwBase + 64 * h.toNat

/-- The bracket of a mask that has not opened. -/
def forming (mask : BayMask) (k : Bracket) : Bool := k.mask == mask && k.op.isNone && k.ins.isNone

/-- The bay's TS.HOP has been issued and its bracket has not opened. -/
def hopIssued (b : Bay) (mask : BayMask) (s : State) : Bool :=
  s.hdr.brackets.any (fun k => forming mask k && k.issues.any (fun i => i.bay == b))

/-- Adds a bay's TS.HOP to the group of its mask (R223). -/
def addIssue (mask : BayMask) (i : HopIssue) (s : State) : State :=
  { s with
    hdr := { s.hdr with
      brackets :=
        if s.hdr.brackets.any (forming mask) then
          s.hdr.brackets.map (fun k => if forming mask k then { k with issues := k.issues ++ [i] } else k)
        else s.hdr.brackets ++ [⟨mask, [i], none, none, none, [], []⟩] } }

/-- The header counters a TS.HOP uses. -/
def hopCtrs (s1 s2 dst x : Ctr) (kind : Fin 16) : List Ctr :=
  [s1, dst] ++ (if hopUsesS2 kind then [s2] else []) ++ (if hopUsesX kind then [x] else [])

/-- The operand X as the kind uses it: X[7:0] of a MULP, all of a SWITCH's, none else (R222). -/
def hopOperand (kind : Fin 16) (x : W32) : W32 := if kind = 2 then x &&& 0xFF#32 else if hopUsesX kind then x else 0#32

/-- TS.HOP: joins the group of its mask and waits with cause HOP; fault 0x38 inside a bracket, 0x36 for a header index at
or above HWCOUNT, both counted where both fall due (R222 to R224, R428). (DEDUCED, log 50) -/
def execTsHop (b : Bay) (s1 s2 dst x : Ctr) (kind : Fin 16) (mask : BayMask) (s : State) :
    Host.Outcome State Fault Refusal :=
  .next (issue b .x (.tsHop b s1 s2 dst x kind mask) (hopCtrs s1 s2 dst x kind)
    (fun s =>
      if hopIssued b mask s && !inBracket b s then stall b .x .hop (.tsHop b s1 s2 dst x kind mask) 0#32 s
      else
        let c := fun r => ctrOf b .x r s
        let hs := [c s1, c dst] ++ (if hopUsesS2 kind then [c s2] else [])
        let nest := fun s => if inBracket b s then trap b .x 0x38 s else s
        match (imageOf b s).filter (fun i => hs.all (fun h => decide (h.toNat < i.hwCount))) with
        | none => nest (trap b .x 0x36 s)
        | some i =>
          if inBracket b s then nest s
          else
            stall b .x .hop (.tsHop b s1 s2 dst x kind mask) 0#32
              (addIssue mask
                { bay := b, kind := kind, s1 := hdrAddr i (c s1),
                  s2 := if hopUsesS2 kind then some (hdrAddr i (c s2)) else none, dst := hdrAddr i (c dst),
                  x := hopOperand kind (c x) } s)) s)

/-! ### Opening (R51, R52, R61, R223) -/

/-- Every bay of the mask has issued. -/
def issuesFull (k : Bracket) : Bool :=
  (List.finRange 12).all (fun b => !k.mask.getLsbD b || k.issues.any (fun i => i.bay == b))

/-- The issue of the lowest-numbered bay. -/
def firstIssue (l : List HopIssue) : Option HopIssue :=
  ((List.finRange 12).filterMap (fun b => l.find? (fun i => i.bay == b))).head?

/-- The bays agree in kind, headers and operand (R223). -/
def issuesAgree (l : List HopIssue) : Bool :=
  match l with
  | [] => true
  | i :: r => r.all (fun j => j.kind == i.kind && j.s1 == i.s1 && j.s2 == i.s2 && j.dst == i.dst && j.x == i.x)

/-- The headers an operation names. -/
def issueLocks (i : HopIssue) : List Nat := (i.s1 :: i.s2.toList ++ [i.dst]).eraseDups

/-- No other bracket holds one of these headers (R51). -/
def locksFree (l : List Nat) (s : State) : Bool :=
  s.hdr.brackets.all (fun k => k.locks.all (fun a => !l.contains a))

/-- A bay of the mask has a table swap pending (R140). -/
def swapPending (mask : BayMask) (s : State) : Bool :=
  (List.finRange 12).any (fun b => mask.getLsbD b && (s.bay b).tbl.pend)

/-- The contexts whose REFS an operation raises: source 1's and a SWITCH's target, none for a source 1 that fails the marker,
and none in state EMPTY or malformed (R15, R51, R120). (DESIGN CHOICE, log 144) -/
def opRefs (s : State) (i : HopIssue) (h1 : Hdr) : List (Fin 16384) :=
  if h1.basic then
    (Fin.ofNat 16384 h1.ctx.toNat :: (if i.kind = 8 then [Fin.ofNat 16384 i.x.toNat] else [])).filter
      (fun (c : Fin 16384) => (ctxAt s c.val).usable && (ctxAt s c.val).st != .empty)
  else []

/-- The operation a group opens, with its verdict before any insertion, at the threshold given (R52, R59). -/
def openOp (s : State) (i : HopIssue) (same ue : Bool) (thresh : Nat) : OpenOp :=
  let h1 := hdrAt s i.s1
  let h2 := i.s2.map (hdrAt s)
  let hd := hdrAt s i.dst
  let bad := fun a => rangeBad s a 64
  let v := verdictOf s i.kind i.x h1 h2 hd (bad i.s1) (i.s2.any bad) (bad i.dst) same ue thresh
  { kind := i.kind, s1 := i.s1, s2 := i.s2, dst := i.dst, x := i.x, verdict := v
    out := verdictHdr s v i.kind i.x h1 h2 hd.limbPg, clamped := clampedHdr s i.kind i.x h1 h2 hd.limbPg, src := h1, src2 := h2
    refs := opRefs s i h1
    dstBad := bad i.dst, mark := none, r39 := false, ended := 0#12, nf := [], hout := [], haltOn := s.od.tideHalt
    hopRun := v == .run, thresh := thresh, checks := [], setsDone := [], hends := [] }

/-- REFS rises for the contexts an operation names (R51, R120). -/
def raiseRefs (l : List (Fin 16384)) (s : State) : State := l.foldl (fun (s : State) (i : Fin 16384) => refUp i.val s) s

/-- REFS falls for the contexts an operation names. -/
def lowerRefs (l : List (Fin 16384)) (s : State) : State := l.foldl (fun (s : State) (i : Fin 16384) => refDown i.val s) s

/-- Counts a verdict and posts its fault (R52, R55, R101). -/
def postVerdict (v : Verdict) (mask : BayMask) (s : State) : State :=
  let h := s.hdr
  match v with
  | .run => s
  | .malformed => operationFault 0x24 mask { s with hdr := { h with cMismatch := satAdd 32 h.cMismatch 1 } }
  | .poison => operationFault 0x23 mask { s with hdr := { h with cPoison := satAdd 32 h.cPoison 1 } }
  | .mismatch => operationFault 0x21 mask { s with hdr := { h with cMismatch := satAdd 32 h.cMismatch 1 } }
  | .spent => operationFault 0x22 mask { s with hdr := { h with cSpent := satAdd 32 h.cSpent 1 } }

/-- The source headers a refresh is inserted for, in operand order (R61). (DEDUCED, log 51) -/
def insertionTodo (s : State) (o : OpenOp) : List Nat :=
  let c := ctxAt s o.src.ctx.toNat
  let low := fun h : Hdr => decide ((clampBudget c h : Int) - costOf c o.kind < o.thresh)
  ((if low o.src then [o.s1] else []) ++
    (match o.s2, o.src2 with
     | some a, some h => if low h then [a] else []
     | _, _ => [])).eraseDups

/-- A refusal of this operation leads to a refresh insertion (R61). -/
def inserts (s : State) (mask : BayMask) (o : OpenOp) : Bool :=
  let c := ctxAt s o.src.ctx.toNat
  o.verdict == .spent && policyRefresh s c && !(o.kind == 6 || o.kind == 7 || o.kind == 8) && c.rkeys &&
    routinesFor mask o.src.cls.toNat s && !(insertionTodo s o).isEmpty

/-- The bracket has taken its locks and some bay has not ended it, or a refresh is inserted in front of it. -/
def Bracket.going (k : Bracket) : Bool :=
  match k.op with
  | some o => k.ins.isSome || !(o.ended &&& k.mask == k.mask)
  | none => false

/-- Rewrites the bracket of a mask that is going on. -/
def mapBracket (mask : BayMask) (f : Bracket → Bracket) (s : State) : State :=
  { s with
    hdr := { s.hdr with
      brackets := s.hdr.brackets.map (fun k => if k.mask == mask && k.going then f k else k)
      moved := true } }

/-- Rewrites the operation a bay is in: the inserted refresh, or the bracket's own. -/
def updCur (b : Bay) (f : OpenOp → OpenOp) (s : State) : State :=
  { s with
    hdr := { s.hdr with
      brackets := s.hdr.brackets.map (fun k =>
        if k.holds b then
          (match k.insOp with
           | some o => { k with insOp := some (f o) }
           | none => { k with op := k.op.map f })
        else k)
      moved := true } }

/-- The checks of a bay's streams that the operation has not recorded yet (R99). -/
def OpenOp.noteChecks (o : OpenOp) (b : Bay) (l : List TStream) : OpenOp :=
  { o with
    checks := o.checks ++ l.filterMap (fun t =>
      match t.chk with
      | some c => if t.bound ∧ !o.checks.any (fun e => e.1 == b && e.2.1 == t.nset) then some (b, t.nset, c) else none
      | none => none) }

/-- A bay's streams judged against its operation; the checks are recorded, and a bound stream without rows ends at once (R98,
R99, R124). -/
def judgeIn (o : OpenOp) (b : Bay) (s : State) : State :=
  let s := s.updBay b (fun x => { x with tide := x.tide.judgeAll s o })
  let s := updCur b (fun o => o.noteChecks b (s.bay b).tide.streams) s
  endStreams b (fun t => t.bound && (t.chk.isSome || t.zero) && t.total b == some 0) false s

/-- A stream whose TS.HOP retires, with the streams of its bay's Tide bound and judged; one that has halted in its wait
retires nothing and holds the bracket open until its reset (R51, R98, R99, R202, R203). -/
def retireHop (o : OpenOp) (b : Bay) (s : State) : State :=
  if xLive b s then retire b .x (judgeIn o b (s.updBay b (fun x => { x with tide := x.tide.bindAll }))) else s

/-- Does something for every bay of a mask. -/
def forBays (mask : BayMask) (f : Bay → State → State) (s : State) : State :=
  (List.finRange 12).foldl (fun (s : State) (b : Bay) => if mask.getLsbD b then f b s else s) s

/-- The stream enters its refresh routine (R186, R225): the hidden frame saved, C0 the window index, no loop open. -/
def Stream.enterRoutine (x : Stream) (pc : BitVec 15) (index : W32) (hop : Instr) : Stream :=
  { x with
    frame := some ⟨x.loops, x.ctr, x.cmp, x.calls.length, x.pc, hop⟩
    loops := []
    ctr := x.ctr.set 0 index
    pc := pc
    status := .run
    wait := none
    fpc := 0#15 }

/-- The command a waiting stream waits on. -/
def Stream.waitCmd (x : Stream) : Option Instr := x.wait.map (fun w => w.cmd)

/-- Enters the refresh routine in one bay; a halted stream stays as it is (R202, R225). -/
def enterRoutine (cls : Nat) (addr : Nat) (b : Bay) (s : State) : State :=
  match routineOf b cls s, imageOf b s, if xLive b s then (s.strm b .x).waitCmd else none with
  | some pc, some i, some c =>
    s.updBay b (fun x =>
      { (x.setStrm .x (x.x.enterRoutine pc (BitVec.ofNat 32 ((addr - i.hwBase) / 64)) c)) with
        tide := { x.tide with nbound := 0, spoiled := false } })
  | _, _, _ => s

/-- Opens the inserted KIND 6 bracket on one header in front of operation `p` and enters the routine in every bay of the mask
that takes part; `ue` says that the context entry read was uncorrectable. What the TS.HOP latched stands (R59, R61, R102,
R225). It is an operation of its own: one whose context has left READY since `p` opened is MALFORMED.
(DESIGN CHOICE, log 159) -/
def insertRefresh (mask : BayMask) (p : OpenOp) (addr : Nat) (rest : List Nat) (ue : Bool) (s : State) : State :=
  let i : HopIssue := ⟨0, 6, addr, none, addr, 0#32⟩
  let o := { openOp s i true ue p.thresh with ended := p.ended, haltOn := p.haltOn }
  let s := postVerdict o.verdict mask s
  let s := raiseRefs o.refs s
  let s := { s with hdr := { s.hdr with cInserted := satAdd 32 s.hdr.cInserted 1 } }
  let s := mapBracket mask (fun k => { k with insOp := some o, ins := some ⟨rest, addr, p.ended⟩ }) s
  forBays (mask &&& ~~~p.ended) (enterRoutine p.src.cls.toNat addr) s

/-- The operation goes ahead: its verdict posted, every bay's TS.HOP retired (R51, R52). -/
def goAhead (mask : BayMask) (o : OpenOp) (s : State) : State :=
  let s := postVerdict o.verdict mask s
  let s := mapBracket mask (fun k => { k with op := some o, ins := none, insOp := none }) s
  forBays (mask &&& ~~~o.ended) (retireHop o) s

/-- The header an inserted refresh left, or the one read when the bracket opened (R61). -/
def refreshed (wrote : List (Nat × Hdr)) (a : Nat) (h : Hdr) : Hdr :=
  match wrote.find? (fun e => e.1 == a) with
  | some e => e.2
  | none => h

/-- The operation evaluated again after its insertions (R61): POISON from a refreshed source that came out marked, SPENT
when the prediction still falls below the threshold, else RUN. -/
def reevaluate (s : State) (wrote : List (Nat × Hdr)) (o : OpenOp) : OpenOp :=
  let h1 := refreshed wrote o.s1 o.src
  let h2 := match o.s2, o.src2 with | some a, some h => some (refreshed wrote a h) | _, _ => none
  let c := ctxAt s o.src.ctx.toNat
  let marked := h1.marked || (match h2 with | some h => h.marked | none => false)
  let v : Verdict := if marked then .poison else if cliff c o.kind h1 h2 < o.thresh then .spent else .run
  { o with verdict := v, hopRun := v == .run, src := h1, src2 := h2, out := verdictHdr s v o.kind o.x h1 h2 o.out.limbPg
           clamped := clampedHdr s o.kind o.x h1 h2 o.out.limbPg }

/-- The insertion's routine has returned in every bay and its bracket is closed. -/
def insertionDone (k : Bracket) : Bool :=
  k.insOp.isNone && (match k.ins with | some i => i.back &&& k.mask == k.mask | none => false)

/-- The event names an uncorrectable byte of the context table: its place in the entry (R251, R453). -/
def evCtx : CodeEvent → Option Nat
  | .small id i => if id = 0x20#8 then some (i % 256) else none
  | _ => none

/-- The header unit's reads of the headers an operation names: their symbol errors met, uncorrectable ones counted (R288). -/
def readHeaders (l : List Nat) (ev : CodeEvent) (s : State) : State :=
  traffic (l.map (fun a => (a, 64))) [] (countBad l 1 (readIn ev l s))

/-- The context entry of a source as the header unit reads it: an uncorrectable byte is counted (R251). -/
def readCtx (ctx : Nat) (ev : CodeEvent) (s : State) : State :=
  match evCtx ev with
  | some j => ueAt 0x20 15 (256 * ctx + j) (countFault 0x44 15 3 s)
  | none => if evFixes ev 0x20 then correctedAt 0 0x20 (256 * ctx + evIndex ev % 256) s else s

/-- The next stage of a bracket whose insertion has returned: the next source's refresh, whose header is read, or the
operation itself (R61, R288). -/
def nextStage (k : Bracket) (i : Insertion) (o : OpenOp) (ev : CodeEvent) (s : State) : State :=
  match i.todo with
  | a :: r =>
    let s := readHeaders [a] ev s
    insertRefresh k.mask o a r (evCtx ev).isSome (readCtx (hdrAt s a).ctx.toNat ev s)
  | [] => goAhead k.mask (reevaluate s k.wrote o) s

/-- Opens the group of a mask: headers read, locks taken, REFS raised, verdict given, or a refresh inserted (R51, R52, R61,
R251, R288). -/
def openBracket (k : Bracket) (i : HopIssue) (ev : CodeEvent) (s : State) : State :=
  let s := readHeaders (issueLocks i) ev s
  let o := openOp s i (issuesAgree k.issues) (evCtx ev).isSome s.od.thresh
  let s := readCtx o.src.ctx.toNat ev s
  let ins := inserts s k.mask o
  let s := raiseRefs o.refs s
  let s := { s with
    hdr := { s.hdr with
      brackets := s.hdr.brackets.map (fun q =>
        if forming k.mask q then { q with op := some o, locks := issueLocks i } else q)
      moved := true } }
  if ins then
    match insertionTodo s o with
    | a :: r => insertRefresh k.mask o a r false s
    | [] => goAhead k.mask o s
  else goAhead k.mask o s

/-- BRACKET_OPEN: once every bay of the mask has issued and the locks are free, the bracket opens; while a refresh is
inserted, the next stage once its routine has returned (R51, R61, R140). -/
def execBracketOpen (mask : BayMask) (ev : CodeEvent) (s : State) : Host.Outcome State Fault Refusal :=
  .next
    (if alive s then
       match s.hdr.brackets.find? (fun k => k.mask == mask && k.ins.isSome) with
       | some k =>
         match k.ins, k.op with
         | some i, some o => if insertionDone k && !ahead s ((i.todo.take 1).map (fun a => (a, 64))) [] then nextStage k i o ev s else s
         | _, _ => s
       | none =>
         match s.hdr.brackets.find? (forming mask) with
         | some k =>
           match firstIssue k.issues with
           | some i =>
             if issuesFull k && locksFree (issueLocks i) s && !((i.kind == 6 || i.kind == 7) && swapPending mask s) &&
                !ahead s ((issueLocks i).map (fun a => (a, 64))) [] then
               openBracket k i ev s
             else s
           | none => s
         | none => s
     else s)

/-! ### TS.HEND, TS.HOUT (R98, R121, R203, R454) -/

/-- The NF code of a declaration (R454). -/
def nfCode : NForm → Nat
  | .keep => 0
  | .coef => 1
  | .ntt => 2

/-- The VE.KMAC entries of a vector queue that have not received their rows: the oldest takes the rows that have come. -/
def Vec.rowless (x : Vec) : List VecEnt :=
  (x.queue.filter (fun e => match e.op with | .kmac .. => true | _ => false)).drop (x.rowsIn.length / 2)

/-- A stationary load fed by Tide, issued in a bracket, that has not received all its rows. -/
def LoadRun.hungry (l : LoadRun) : Bool := l.tide && l.inBr && decide (l.next < l.n)

/-- A key consumer that the bay's X-stream issued in the bracket has not received all its rows (R98). -/
def keyConsumers (b : Bay) (s : State) : Bool :=
  let x := s.bay b
  x.vec.rowless.any (fun e => e.inBr) ||
  x.tiles.any (fun t =>
    t.load.any LoadRun.hungry || t.stopped.any LoadRun.hungry ||
    t.queue.any (fun e => e.inBr && (match e.op with | .lds _ _ tide _ _ _ => tide | _ => false)))

/-- A mark put on an operation stays the first one (R108, R203). (DEDUCED, log 48) -/
def OpenOp.markBy (o : OpenOp) (code : Byte) : OpenOp := if o.mark.isNone then { o with mark := some code } else o

/-- A bay's TS.HEND in its operation: the declaration, the PC and the place in program order kept, a halted Tide's mark put on it (R98, R102, R108,
R454). -/
def OpenOp.hend (o : OpenOp) (b : Bay) (nf : NForm) (pc : BitVec 15) (age : Nat) (tideHalted : Bool) : OpenOp :=
  let o := { o with ended := setBit o.ended b true, nf := o.nf ++ [nf], hends := o.hends ++ [(b, pc, age)] }
  if tideHalted then o.markBy 0x42#8 else o

/-- The operation a bay's TS.HEND would end: none outside a bracket, between two inserted routines, or when the bay has
ended the inserted refresh already. -/
def hendOp (b : Bay) (s : State) : Option OpenOp := curOf b s

/-- Halts an X-stream after its TS.HEND for a key mismatch under HALT, without counting the fault again; nothing for a stream
HALTED before this cy (R51, R102, R428). -/
def haltMismatch (b : Bay) (pc : BitVec 15) (age : Nat) (s : State) : State :=
  if (s.strm b .x).deaf then s else withdrawHop b (haltRec b .x (b + 16) 0x21 pc age false s)

/-- TS.HEND: ends the bracket in this bay once its key consumers are served; fault 0x38 with no bracket open (R98, R102,
R203, R224, R454). -/
def execTsHend (b : Bay) (nf : NForm) (s : State) : Host.Outcome State Fault Refusal :=
  .next (issue b .x (.tsHend b nf) []
    (fun s =>
      match hendOp b s with
      | none => trap b .x 0x38 s
      | some o =>
        if keyConsumers b s then stall b .x .keyEmpty (.tsHend b nf) 0#32 s
        else
          let pc := (s.strm b .x).pc
          let t := (s.bay b).tide
          let s := updCur b (fun o => o.hend b nf pc (s.bay b).issued t.spoiled) s
          let s := endStreams b (fun z => z.bound) true s
          let s := s.updBay b (fun x => { x with tide := { x.tide with spoiled := false } })
          let s := retire b .x s
          if o.verdict = .mismatch ∧ o.haltOn then haltMismatch b pc (s.bay b).issued s else s) s)

/-- TS.HOUT: declares LEVEL and SCALE_EXP in an approximate REFRESH bracket; no effect elsewhere (R121). -/
def execTsHout (b : Bay) (level scale : Byte) (s : State) : Host.Outcome State Fault Refusal :=
  .next (issue b .x (.tsHout b level scale) []
    (fun s =>
      match hendOp b s with
      | some o =>
        if declares o.kind o.src then
          retire b .x (updCur b (fun o => { o with hout := o.hout ++ [(b, level, scale)] }) s)
        else retire b .x s
      | none => retire b .x s) s)

/-! ### Closure (R53, R54, R121, R203, R454) -/

/-- The declarations of an approximate REFRESH when they meet R121. -/
def declared (s : State) (mask : BayMask) (o : OpenOp) : Option (Byte × Byte) :=
  match o.hout with
  | [] => none
  | (_, l, e) :: _ =>
    if (List.finRange 12).all (fun b =>
          !mask.getLsbD b || (o.hout.filter (fun h => h.1 == b)).length == 1) &&
        o.hout.all (fun h => h.2 == (l, e)) && (ctxAt s o.src.ctx.toNat).levelOk l.toNat && scaleOk 1#2 e.toNat
    then some (l, e) else none

/-- The form declared when the bays agree (R454). -/
def declaredForm (o : OpenOp) : Option NForm :=
  match o.nf with
  | [] => none
  | f :: r => if r.all (fun g => g == f) then some f else none

/-- The header at closure with a REFRESH's declarations put in, 0 where they fail (R54, R121). -/
def withDecl (s : State) (mask : BayMask) (o : OpenOp) (h : Hdr) : Hdr :=
  if declares o.kind o.src then
    match declared s mask o with
    | some (l, e) => { h with level := l, scale := e }
    | none => { h with level := 0#8, scale := 0#8 }
  else h

/-- The header of a running operation that is marked: the values of R54 with its declarations, the flags and CAUSE put in
(R54, R108, R203). -/
def markedHdr (s : State) (mask : BayMask) (o : OpenOp) (cause : Byte) : Hdr :=
  (withDecl s mask o o.clamped).mark o.src true false cause

/-- The header of failing declarations: INVALID with CAUSE 0x24, LEVEL, SLOTS and COMP 0 (R121, R454).
(DEDUCED, log 133) -/
def Hdr.badDecl (h src : Hdr) : Hdr := { h.mark src true false 0x24#8 with level := 0#8, slots := 0#24, comp := 0#2 }

/-- The header a closure writes, and whether the destination's limbs are zeroed and fault 0x24 is posted. -/
def closing (s : State) (mask : BayMask) (o : OpenOp) : Hdr × Bool × Bool :=
  let h := withDecl s mask o o.out
  if o.verdict = .malformed then (o.out, false, false)
  else if o.verdict ≠ .run then (h, true, false)
  else
    match o.mark with
    | some c => (markedHdr s mask o c, true, false)
    | none =>
      match declaredForm o with
      | none => (h.badDecl o.src, false, true)
      | some f =>
        if declares o.kind o.src ∧ (declared s mask o).isNone then (h.badDecl o.src, false, true)
        else ({ h with nttf := match f with | .keep => o.src.nttf | .coef => false | .ntt => true }, false, false)

/-- Zeroes LEVEL × COMP limbs of a header (R41, R53). -/
def zeroLimbs (h : Hdr) (s : State) : State :=
  let n := (ctxAt s h.ctx.toNat).n
  (List.range 12).foldl (fun s k =>
    let lo := k * winSize + h.limbPg.toNat * 4096
    let len := residuesIn h.level.toNat k * h.comp.toNat * 4 * n
    traffic [] [(lo, len)] (s.zeroRange lo len)) s

/-- Writes a destination header and adds its CRC to the digests (R322). (DEDUCED, log 49) -/
def writeHdr (a : Nat) (h : Hdr) (s : State) : State :=
  let v := leBytes h.toNat 64
  let c := crc64 (leBytes a 8 ++ v)
  let s := traffic [] [(a, 64)] (s.store a v 1)
  { s with
    run := { s.run with
      barDigest := s.run.barDigest + c
      barHdrs := satAdd 32 s.run.barHdrs 1
      digest := if s.run.isOpen then s.run.digest + c else s.run.digest } }

/-- Closes an operation: limbs zeroed where it is marked, the header written unless its own read was uncorrectable, REFS
lowered (R53, R54, R203). -/
def closeOp (mask : BayMask) (o : OpenOp) (s : State) : State :=
  let r := closing s mask o
  let s := if r.2.1 then zeroLimbs r.1 s else s
  let s := if o.dstBad then s else writeHdr o.dst r.1 s
  let s := if r.2.2 then operationFault 0x24 mask s else s
  lowerRefs o.refs s

/-- The ranges of stacked memory the closure of an operation writes. -/
def closeSpans (s : State) (mask : BayMask) (o : OpenOp) : List (Nat × Nat) :=
  let r := closing s mask o
  let h := r.1
  (if o.dstBad then [] else [(o.dst, 64)]) ++
    (if r.2.1 then
      (List.range 12).map (fun k =>
        (k * winSize + h.limbPg.toNat * 4096, residuesIn h.level.toNat k * h.comp.toNat * 4 * (ctxAt s h.ctx.toNat).n))
     else [])

/-- Every bay of the mask has ended the operation. -/
def OpenOp.allEnded (o : OpenOp) (mask : BayMask) : Bool := o.ended &&& mask == mask

/-- BRACKET_CLOSE: when every bay has ended the operation, limbs are zeroed if marked, the header written, and the locks
released (R53, R203). -/
def execBracketClose (mask : BayMask) (s : State) : Host.Outcome State Fault Refusal :=
  .next
    (if alive s then
       match s.hdr.brackets.find? (fun k => k.mask == mask && k.op.isSome &&
           (match k.cur with | some o => o.allEnded mask && (k.insOp.isSome || k.ins.isNone) | none => false)) with
       | some k =>
         if (k.cur.map (closeSpans s mask)).any (ahead s []) then s
         else
         match k.insOp, k.op with
         | some o, some _ =>
           let h := (closing s mask o).1
           let s := closeOp mask o s
           { s with
             hdr := { s.hdr with
               brackets := s.hdr.brackets.map (fun q => if q == k then { q with insOp := none, wrote := q.wrote ++ [(o.dst, h)] } else q)
               moved := true } }
         | none, some o =>
           let s := closeOp mask o s
           { s with hdr := { s.hdr with brackets := s.hdr.brackets.erase k, moved := true } }
         | _, none => s
       | none => s
     else s)

end Sys2Proof.Machine
end

