-- ==== Sys2Proof/Machine/Control.lean ====
section
/-! DEFINITION. Control flow and hardware loops (R183 to R186). -/

namespace Sys2Proof.Machine

/-- A tile has nothing issued and not completed. -/
def Tile.done (t : Tile) : Bool := t.queue.isEmpty && t.load.isNone && t.stopped.isNone && t.muls.isEmpty && t.drain.isNone

/-- Every instruction the stream has issued to a unit has completed (R183). -/
def workDone (b : Bay) (st : Strm) (s : State) : Bool :=
  let x := s.bay b
  (x.strm st).takes.isEmpty &&
  (match st with
   | .a => x.xf.queue.isEmpty && x.xf.active.isEmpty && x.xf.ring.isNone
   | .x =>
     x.tiles.all Tile.done && x.vec.queue.isEmpty && x.vec.kmacs.isEmpty && x.vec.sums.isEmpty &&
     x.nt.queue.isEmpty && x.nt.run.isNone && x.tbl.loads.isEmpty && x.tide.streams.all (fun t => t.opened) &&
     !(s.stats.queue.any (fun e => e.1 == b)) && !(s.stats.results.any (fun e => e.1 == b)))

/-- What TS.BR tests (R183). -/
def BrSrc.val (q : BrSrc) (b : Bay) (st : Strm) (s : State) : Bool :=
  match q with
  | .cmp k => (s.strm b st).cmp.getLsbD k
  | .flag f => flagOf b f s

/-- The local flag the X-stream's TS.BR tests is about to be written by a summary (R151). -/
def BrSrc.busy (q : BrSrc) (b : Bay) (st : Strm) (s : State) : Bool :=
  match q with
  | .cmp _ => false
  | .flag f => st == .x && (s.bay b).flagBusy.getLsbD f

/-- TS.BR: to its target when the source equals the polarity, else in sequence, counting down at END (R184). -/
def execTsBr (b : Bay) (st : Strm) (src : BrSrc) (pol : Bool) (target : BitVec 15) (s : State) :
    Host.Outcome State Fault Refusal :=
  .next (issue b st (.tsBr b st src pol target) []
    (fun s =>
      if BrSrc.busy src b st s then stall b st .other (.tsBr b st src pol target) 0#32 s
      else if BrSrc.val src b st s = pol then jump b st target s else retire b st s) s)

/-- TS.JMP: always to its target, without counting down (R184). -/
def execTsJmp (b : Bay) (st : Strm) (target : BitVec 15) (s : State) : Host.Outcome State Fault Refusal :=
  .next (issue b st (.tsJmp b st target) [] (jump b st target) s)

/-- TS.CALL: pushes the return PC, which the count-down selects at END, and branches; fault 0x34 at depth 8 (R183, R184). -/
def execTsCall (b : Bay) (st : Strm) (target : BitVec 15) (s : State) : Host.Outcome State Fault Refusal :=
  .next (issue b st (.tsCall b st target) []
    (fun s =>
      if 8 ≤ (s.strm b st).calls.length then trap b st 0x34 s
      else s.updStrm b st (fun x =>
        { x with calls := (loopNext x.pc x.loops).1 :: x.calls }.goto target (loopNext x.pc x.loops).2)) s)

/-- The inserted refresh of the bay's bracket has not reached its TS.HEND in this bay (R225). -/
def refreshOpen (b : Bay) (s : State) : Bool :=
  match (bracketOf b s).bind (fun k => k.insOp) with
  | some o => !o.ended.getLsbD b
  | none => false

/-- The stream as the refresh routine's TS.RET leaves it: the hidden frame restored and its TS.HOP waiting again (R186,
R225). -/
def Stream.leaveFrame (x : Stream) (f : HiddenFrame) (limit : Nat) : Stream :=
  { x with
    loops := f.loops
    ctr := f.ctr
    cmp := f.cmp
    pc := f.ret
    fpc := f.ret
    status := .wait
    wait := some ⟨.hop, 0, limit, f.hop, 0#32⟩
    frame := none }

/-- Notes that a bay's refresh routine has returned (R61). -/
def refreshBack (b : Bay) (s : State) : State :=
  { s with
    hdr := { s.hdr with
      brackets := s.hdr.brackets.map (fun k =>
        if k.holds b then { k with ins := k.ins.map (fun i => { i with back := setBit i.back b true }) } else k)
      moved := true } }

/-- TS.RET: pops the return PC; fault 0x34 at depth 0. In a refresh routine at the depth it was entered with, restores the
hidden frame, or raises 0x38 while the inserted bracket is open (R183, R186, R225). -/
def execTsRet (b : Bay) (st : Strm) (s : State) : Host.Outcome State Fault Refusal :=
  .next (issue b st (.tsRet b st) []
    (fun s =>
      let x := s.strm b st
      match x.frame with
      | some f =>
        if x.calls.length = f.depth then
          if refreshOpen b s then trap b st 0x38 s
          else refreshBack b (s.updStrm b st (fun x => x.leaveFrame f s.od.waitTimeout))
        else
          match x.calls with
          | p :: r => s.updStrm b st (fun x => { x with calls := r }.goto p x.loops)
          | [] => trap b st 0x34 s
      | none =>
        match x.calls with
        | p :: r => s.updStrm b st (fun x => { x with calls := r }.goto p x.loops)
        | [] => trap b st 0x34 s) s)

/-- TS.END: retires once every instruction issued to a unit has completed; the stream becomes IDLE (R183). -/
def execTsEnd (b : Bay) (st : Strm) (s : State) : Host.Outcome State Fault Refusal :=
  .next (issue b st (.tsEnd b st) []
    (fun s =>
      if workDone b st s then
        s.updStrm b st (fun x => { x.goto (x.pc + 1) x.loops with status := .idle })
      else stall b st .other (.tsEnd b st) 0#32 s) s)

/-- TS.LOOP: opens a level with the latched count, skips the body on count 0, fault 0x33 for a fifth level (R184, R185). -/
def execTsLoop (b : Bay) (st : Strm) (cn : Ctr) (last : BitVec 15) (s : State) : Host.Outcome State Fault Refusal :=
  .next (issue b st (.tsLoop b st cn last) [cn]
    (fun s =>
      let n := (ctrOf b st cn s).toNat
      if n = 0 then jump b st (last + 1) s
      else if 4 ≤ (s.strm b st).loops.length then trap b st 0x33 s
      else s.updStrm b st (fun x => x.goto (x.pc + 1) (⟨x.pc + 1, last, n, 0⟩ :: x.loops))) s)

/-- TS.BREAK k: closes the k innermost levels and continues after the k-th end (R185). -/
def execTsBreak (b : Bay) (st : Strm) (k : Nat) (s : State) : Host.Outcome State Fault Refusal :=
  .next (issue b st (.tsBreak b st k) []
    (fun s =>
      match (s.strm b st).loops.drop (k - 1) with
      | t :: r => s.updStrm b st (fun x => x.goto (t.last + 1) r)
      | [] => s) s)

end Sys2Proof.Machine
end

