-- ==== Sys2Proof/Machine/Float.lean ====
section
/-! DEFINITION. Binary floating point as exact dyadic values with one rounding: binary32, BF16, E4M3, E5M2 and the 48-bit internal format (R144, R145, R161, R168). -/

namespace Sys2Proof.Machine

/-- The number of bits of a natural number. -/
def bitSize (q : Nat) : Nat := if q = 0 then 0 else Nat.log2 q + 1

/-- An exact dyadic value: a signed magnitude m × 2^e, which tells -0 from +0. -/
structure Dy where
  neg : Bool
  m : Nat
  e : Int
  deriving DecidableEq, Repr

/-- A floating-point datum as a value. -/
inductive FV where
  | nan
  | inf (neg : Bool)
  | fin (d : Dy)
  deriving DecidableEq, Repr

/-- A format: significand bits, exponent of the last place of a subnormal, and the code of its largest finite
magnitude. -/
structure Fmt where
  p : Nat
  emin : Int
  top : Nat

def Fmt.f32 : Fmt := ⟨24, -149, 0x7F7FFFFF⟩
def Fmt.bf16 : Fmt := ⟨8, -133, 0x7F7F⟩
def Fmt.e4m3 : Fmt := ⟨4, -9, 0x7E⟩
def Fmt.e5m2 : Fmt := ⟨3, -16, 0x7B⟩

/-- A magnitude m × 2^e, plus a part below the last bit when `sticky`, rounded to nearest even with `p` bits and last
place at least 2^emin: the significand and its exponent (R145). -/
def rne (p : Nat) (emin : Int) (m : Nat) (e : Int) (sticky : Bool) : Nat × Int :=
  let q := max (e + bitSize m - p) emin
  if q ≤ e then (m * 2 ^ (e - q).toNat, q)
  else
    let k := (q - e).toNat
    let hi := m / 2 ^ k
    let lo := m % 2 ^ k
    let half := 2 ^ (k - 1)
    (if half < lo ∨ (lo = half ∧ (sticky = true ∨ hi % 2 = 1)) then hi + 1 else hi, q)

/-- The code of a rounded magnitude, before any bound. -/
def Fmt.code (f : Fmt) (r : Nat × Int) : Nat :=
  if r.1 = 0 then 0 else (r.2 - f.emin).toNat * 2 ^ (f.p - 1) + r.1

/-- A magnitude rounded into a format: its code, unbounded. -/
def Fmt.round (f : Fmt) (m : Nat) (e : Int) (sticky : Bool) : Nat := f.code (rne f.p f.emin m e sticky)

/-! ### Binary32 -/

/-- The canonical NaN (R145). -/
def nan32 : W32 := 0x7FC00000#32

/-- An infinity or a finite code with a sign. -/
def sign32 (neg : Bool) (c : Nat) : W32 := BitVec.ofNat 32 (if neg then c + 2 ^ 31 else c)

/-- The infinity of a sign. -/
def inf32 (neg : Bool) : W32 := sign32 neg 0x7F800000

/-- rne32 of a signed magnitude: beyond the range an infinity (R145, R161). -/
def rne32 (neg : Bool) (m : Nat) (e : Int) (sticky : Bool) : W32 :=
  sign32 neg (min 0x7F800000 (Fmt.f32.round m e sticky))

/-- rne32 of an exact value. -/
def Dy.f32 (d : Dy) : W32 := rne32 d.neg d.m d.e false

/-- Reads a code of a format with `w` exponent bits whose top exponent is infinity and NaN. -/
def ieeeVal (p : Nat) (emin : Int) (w : Nat) (c : Nat) (neg : Bool) : FV :=
  let x := c / 2 ^ (p - 1) % 2 ^ w
  let f := c % 2 ^ (p - 1)
  if x = 2 ^ w - 1 then (if f = 0 then .inf neg else .nan)
  else if x = 0 then .fin ⟨neg, f, emin⟩
  else .fin ⟨neg, f + 2 ^ (p - 1), emin + (x - 1)⟩

/-- The value of a binary32 datum. -/
def val32 (b : W32) : FV := ieeeVal 24 (-149) 8 b.toNat b.msb

/-- The binary32 datum of a value. -/
def FV.f32 : FV → W32
  | .nan => nan32
  | .inf n => inf32 n
  | .fin d => d.f32

/-- A datum is neither infinite nor NaN. -/
def finite32 (b : W32) : Bool :=
  match val32 b with
  | .fin _ => true
  | _ => false

/-! ### Exact arithmetic -/

/-- The signed integer of a value at a smaller exponent. -/
def Dy.int (d : Dy) (e : Int) : Int :=
  let v : Int := (d.m * 2 ^ (d.e - e).toNat : Nat)
  if d.neg then -v else v

/-- The exact sum; an exact zero is -0 only when both terms are negative (R145). -/
def Dy.add (a b : Dy) : Dy :=
  let e := min a.e b.e
  let s := a.int e + b.int e
  if s = 0 then ⟨a.neg && b.neg, 0, e⟩ else ⟨decide (s < 0), s.natAbs, e⟩

/-- The exact product. -/
def Dy.mul (a b : Dy) : Dy := ⟨a.neg ^^ b.neg, a.m * b.m, a.e + b.e⟩

/-- The opposite value. -/
def Dy.opp (a : Dy) : Dy := { a with neg := !a.neg }

/-- The sum of two values (R145). -/
def FV.add : FV → FV → FV
  | .nan, _ => .nan
  | _, .nan => .nan
  | .inf a, .inf b => if a = b then .inf a else .nan
  | .inf a, .fin _ => .inf a
  | .fin _, .inf b => .inf b
  | .fin a, .fin b => .fin (a.add b)

/-- The opposite of a value. -/
def FV.opp : FV → FV
  | .nan => .nan
  | .inf a => .inf (!a)
  | .fin a => .fin a.opp

/-- The product of two values (R145): zero times infinity is NaN. -/
def FV.mul : FV → FV → FV
  | .nan, _ => .nan
  | _, .nan => .nan
  | .inf a, .inf b => .inf (a ^^ b)
  | .inf a, .fin b => if b.m = 0 then .nan else .inf (a ^^ b.neg)
  | .fin a, .inf b => if a.m = 0 then .nan else .inf (a.neg ^^ b)
  | .fin a, .fin b => .fin (a.mul b)

/-- VE.FADD of one lane. -/
def fadd32 (a b : W32) : W32 := ((val32 a).add (val32 b)).f32

/-- VE.FSUB of one lane. -/
def fsub32 (a b : W32) : W32 := ((val32 a).add (val32 b).opp).f32

/-- VE.FMUL of one lane. -/
def fmul32 (a b : W32) : W32 := ((val32 a).mul (val32 b)).f32

/-- VE.FMA of one lane, with one rounding. -/
def fma32 (a b c : W32) : W32 := (((val32 a).mul (val32 b)).add (val32 c)).f32

/-- Position of a datum that is no NaN in the order with -0 below +0 (R145, R151). -/
def ord32 (a : W32) : Int := if a.msb then -((a &&& 0x7FFFFFFF#32).toNat : Int) - 1 else (a.toNat : Int)

/-- A datum is NaN. -/
def isNan32 (a : W32) : Bool :=
  match val32 a with
  | .nan => true
  | _ => false

/-- VE.FMIN of one lane. -/
def fmin32 (a b : W32) : W32 := if isNan32 a || isNan32 b then nan32 else if ord32 b < ord32 a then b else a

/-- VE.FMAX of one lane. -/
def fmax32 (a b : W32) : W32 := if isNan32 a || isNan32 b then nan32 else if ord32 a < ord32 b then b else a

/-- The IEEE 754 comparison, none when a NaN takes part: less, equal, greater. -/
def cmp32 (a b : W32) : Option Ordering :=
  if isNan32 a || isNan32 b then none
  else
    let x := if a = 0x80000000#32 then 0 else ord32 a
    let y := if b = 0x80000000#32 then 0 else ord32 b
    some (if x < y then .lt else if x = y then .eq else .gt)

/-! ### Conversions (R144, R145) -/

/-- The nearest integer to a value, ties to even. -/
def Dy.nearest (d : Dy) : Int :=
  let r := rne (bitSize d.m + 1 + d.e.toNat) 0 d.m d.e false
  let v : Int := (r.1 * 2 ^ r.2.toNat : Nat)
  if d.neg then -v else v

/-- An integer clamped into a range, and whether it had to be. -/
def clampInt (lo hi v : Int) : Int × Bool := if v < lo then (lo, true) else if hi < v then (hi, true) else (v, false)

/-- VE.CVT from F32 to I32: the word and whether it saturated or met a NaN (R145). -/
def toI32 (a : W32) : W32 × Bool :=
  match val32 a with
  | .nan => (0#32, true)
  | .inf n => (if n then 0x80000000#32 else 0x7FFFFFFF#32, true)
  | .fin d =>
    let r := clampInt (-2147483648) 2147483647 d.nearest
    (BitVec.ofInt 32 r.1, r.2)

/-- VE.CVT from I32 to F32. -/
def ofI32 (a : W32) : W32 := (⟨decide (a.toInt < 0), a.toInt.natAbs, 0⟩ : Dy).f32

/-- BF16 read exactly to F32, every NaN canonical (R144). -/
def bf16Load (h : Nat) : W32 := (ieeeVal 8 (-133) 8 h (h.testBit 15)).f32

/-- E5M2 read exactly to F32. -/
def e5m2Val (h : Nat) : FV := ieeeVal 3 (-16) 5 h (h.testBit 7)

/-- E4M3 read exactly: no infinity, NaN S.1111.111. -/
def e4m3Val (h : Nat) : FV :=
  if h % 128 = 127 then .nan
  else
    let x := h / 8 % 16
    if x = 0 then .fin ⟨h.testBit 7, h % 8, -9⟩ else .fin ⟨h.testBit 7, h % 8 + 8, (x : Int) - 10⟩

/-- The value of a BF16 element. -/
def bf16Val (h : Nat) : FV := ieeeVal 8 (-133) 8 h (h.testBit 15)

/-- The store into BF16: code and whether a finite value overflowed (R144). -/
def bf16Store (a : W32) : Nat × Bool :=
  match val32 a with
  | .nan => (0x7FC0, false)
  | .inf n => (if n then 0xFF80 else 0x7F80, false)
  | .fin d =>
    let c := Fmt.bf16.round d.m d.e false
    ((if d.neg then 0x8000 else 0) + min 0x7F80 c, decide (Fmt.bf16.top < c))

/-- A finite magnitude lies beyond the largest of a format. -/
def Fmt.beyond (f : Fmt) (d : Dy) : Bool :=
  let t : Nat × Int := (f.top % 2 ^ (f.p - 1) + 2 ^ (f.p - 1), f.emin + (f.top / 2 ^ (f.p - 1) - 1 : Nat))
  let e := min d.e t.2
  decide (t.1 * 2 ^ (t.2 - e).toNat < d.m * 2 ^ (d.e - e).toNat)

/-- The store into an 8-bit format with its largest magnitude and NaN codes: a value beyond the range, and an infinity, gives
the largest magnitude of the sign and sets the overflow bit (R144). (DEDUCED, log 130) -/
def fp8Store (f : Fmt) (nan : Nat) (a : W32) : Nat × Bool :=
  match val32 a with
  | .nan => (nan, false)
  | .inf n => ((if n then 0x80 else 0) + f.top, true)
  | .fin d =>
    let c := f.round d.m d.e false
    ((if d.neg then 0x80 else 0) + min f.top c, f.beyond d)

/-! ### Quotients and roots -/

/-- The quotient of two magnitudes to at least `k` significant bits: digits, exponent and whether more follow. -/
def divBits (k : Nat) (a b : Nat) (e : Int) : Nat × Int × Bool :=
  let s := k + bitSize b
  (a * 2 ^ s / b, e - s, decide (a * 2 ^ s % b ≠ 0))

/-- Integer square root by halving the interval, in at most `fuel` steps. -/
def isqrtFrom (n : Nat) (lo hi : Nat) : Nat → Nat
  | 0 => lo
  | fuel + 1 =>
    if hi ≤ lo + 1 then lo
    else
      let mid := (lo + hi) / 2
      if mid * mid ≤ n then isqrtFrom n mid hi fuel else isqrtFrom n lo mid fuel

/-- The integer square root. -/
def isqrt (n : Nat) : Nat :=
  let k := (bitSize n + 1) / 2
  isqrtFrom n 0 (2 ^ k + 1) (k + 2)

/-- The square root of (a ÷ b) × 2^e to at least `k` bits: digits, exponent and whether more follow. -/
def sqrtBits (k : Nat) (a b : Nat) (e : Int) : Nat × Int × Bool :=
  let s := 2 * (k + bitSize b) + (e % 2).toNat
  let n := a * 2 ^ s
  let r := isqrt (n / b)
  (r, (e - s) / 2, decide (r * r * b ≠ n))

/-- rne32 of a triple of digits, exponent and sticky. -/
def rnd3 (neg : Bool) (r : Nat × Int × Bool) : W32 := rne32 neg r.1 r.2.1 r.2.2

/-- rne32(1 ÷ √d) of a positive exact value. -/
def rsqrtDy (d : Dy) : W32 :=
  rnd3 false (if d.e ≥ 0 then sqrtBits 64 1 (d.m * 2 ^ d.e.toNat) 0 else sqrtBits 64 (2 ^ (-d.e).toNat) d.m 0)

/-! ### The internal format X48 (R168) -/

/-- Rounds an exact value to X48. -/
def Dy.x48 (d : Dy) : Dy :=
  let r := rne 48 (-2094) d.m d.e false
  ⟨d.neg, r.1, r.2⟩

end Sys2Proof.Machine
end

