-- ==== Sys2Proof/Machine/Special.lean ====
section
/-! DEFINITION. The special function unit: element functions rounded once from 512 fraction bits, and the row functions in the reference order (R162, R163, R166 to R170). -/

namespace Sys2Proof.Machine

/-! ### Fixed-point evaluation -/

/-- Fraction bits of an evaluation. (DESIGN CHOICE, log 31) -/
def fxP : Nat := 512

/-- One in fixed point. -/
def fxOne : Int := (2 ^ fxP : Nat)

/-- A dyadic value in fixed point, rounded down. -/
def Dy.fx (d : Dy) : Int :=
  let v : Int := if 0 ≤ d.e + fxP then (d.m * 2 ^ (d.e + fxP).toNat : Nat) else (d.m / 2 ^ (-(d.e + fxP)).toNat : Nat)
  if d.neg then -v else v

/-- Product in fixed point. -/
def fxMul (a b : Int) : Int := a * b / fxOne

/-- Quotient in fixed point. -/
def fxDiv (a b : Int) : Int := a * fxOne / b

/-- The sum of the series whose term k is the one before times `f` divided by `g k`. -/
def fxSeries (f : Int) (g : Nat → Int) (sum term : Int) (k : Nat) : Nat → Int
  | 0 => sum
  | fuel + 1 =>
    if term = 0 then sum
    else
      let t := fxMul term f / g k
      fxSeries f g (sum + t) t (k + 1) fuel

/-- 2 artanh z for a small z, by its power series. -/
def fxAtanh2 (z : Int) : Int :=
  let z2 := fxMul z z
  let rec go (sum p : Int) (k : Nat) : Nat → Int
    | 0 => sum
    | fuel + 1 => if p = 0 then sum else go (sum + p / (2 * k + 1)) (fxMul p z2) (k + 1) fuel
  2 * go 0 z 0 600

/-- ln 2. -/
def fxLn2 : Int := fxAtanh2 (fxOne / 3)

/-- e^r for |r| below 1. -/
def fxExpSmall (r : Int) : Int := fxSeries r (fun k => ((k + 1 : Nat) : Int)) fxOne fxOne 0 400

/-- e^t as a fixed-point number times a power of two, t a fixed-point number. -/
def fxExp (t : Int) : Int × Int :=
  let n := (2 * t + fxLn2) / (2 * fxLn2)
  (fxExpSmall (t - n * fxLn2), n)

/-- e^t in fixed point. -/
def fxExpAbs (t : Int) : Int :=
  let r := fxExp t
  if 0 ≤ r.2 then r.1 * 2 ^ r.2.toNat else r.1 / 2 ^ (-r.2).toNat

/-- ln of m × 2^e for a positive magnitude, its significand folded into [√2 ÷ 2, √2). -/
def fxLn (m : Nat) (e : Int) : Int :=
  let b := bitSize m
  let fold := decide (2 ^ (2 * b) < 2 * (m * m))
  let k : Nat := if fold then b else b - 1
  let x : Int := (m * 2 ^ fxP / 2 ^ k : Nat)
  fxAtanh2 (fxDiv (x - fxOne) (x + fxOne)) + (e + k) * fxLn2

/-- π by Machin's formula. -/
def fxPi : Int :=
  let rec go (q2 sum p : Int) (k : Nat) : Nat → Int
    | 0 => sum
    | fuel + 1 =>
      if p = 0 then sum else go q2 (sum + (if k % 2 = 0 then p / (2 * k + 1) else -(p / (2 * k + 1)))) (p / q2) (k + 1) fuel
  4 * (4 * go 25 0 (fxOne / 5) 0 300 - go 57121 0 (fxOne / 239) 0 300)

/-- √ of a fixed-point number. -/
def fxSqrt (a : Int) : Int := (isqrt (a.toNat * 2 ^ fxP) : Nat)

/-- erf z for |z| below 16: 2 ÷ √π × e^(-z²) × Σ 2^n z^(2n+1) ÷ (2n+1)!!. -/
def fxErf (z : Int) : Int :=
  let z2 := fxMul z z
  let s := fxSeries (2 * z2) (fun k => ((2 * k + 3 : Nat) : Int)) z z 0 2500
  fxMul (fxDiv (2 * fxOne) (fxSqrt fxPi)) (fxMul (fxExpAbs (-z2)) s)

/-- rne32 of a fixed-point number times a power of two that is not exact. -/
def fxRound (v : Int) (e : Int) : W32 := rne32 (decide (v < 0)) v.natAbs (e - fxP) true

/-! ### Element functions (R166) -/

/-- The floor of a value that fits 16 bits, or a bound beyond. -/
def Dy.floorSmall (d : Dy) : Int :=
  let v : Int := if 0 ≤ d.e then (d.m * 2 ^ (min d.e 16).toNat : Nat) else (d.m / 2 ^ (-d.e).toNat : Nat)
  let exact := decide (0 ≤ d.e) || decide (d.m % 2 ^ (-d.e).toNat = 0)
  if d.neg then (if exact then -v else -v - 1) else v

/-- A value is an integer. -/
def Dy.isInt (d : Dy) : Bool := decide (0 ≤ d.e) || decide (d.m % 2 ^ (-d.e).toNat = 0)

/-- e^x of an exact value in binary32. -/
def expDy (d : Dy) : W32 :=
  if d.m = 0 then 0x3F800000#32
  else
    let f := d.floorSmall
    if 90 ≤ f then inf32 false else if f < -110 then 0#32
    else
      let r := fxExp d.fx
      fxRound r.1 r.2

/-- 2^x of an exact value. -/
def exp2Dy (d : Dy) : W32 :=
  let f := d.floorSmall
  if 128 ≤ f then inf32 false else if f < -151 then 0#32
  else if d.isInt then rne32 false 1 f false
  else
    let r := fxExp (fxMul (d.fx - f * fxOne) fxLn2)
    fxRound r.1 (r.2 + f)

/-- ln x, or log2 x, of an exact value. -/
def lnDy (two : Bool) (d : Dy) : W32 :=
  if d.m = 0 then inf32 true
  else if d.neg then nan32
  else if d.m = 2 ^ (bitSize d.m - 1) then
    let k := d.e + ((bitSize d.m - 1 : Nat) : Int)
    if two then (⟨decide (k < 0), k.natAbs, 0⟩ : Dy).f32 else if k = 0 then 0#32 else fxRound (k * fxLn2) 0
  else
    let l := fxLn d.m d.e
    fxRound (if two then fxDiv l fxLn2 else l) 0

/-- 1 ÷ x of an exact value. -/
def rcpDy (d : Dy) : W32 := if d.m = 0 then inf32 d.neg else rnd3 d.neg (divBits 64 1 d.m (-d.e))

/-- √x of an exact value. -/
def sqrtDy (d : Dy) : W32 :=
  if d.m = 0 then d.f32 else if d.neg then nan32 else rnd3 false (sqrtBits 64 d.m 1 d.e)

/-- 1 ÷ √x of an exact value. -/
def rsqrtElem (d : Dy) : W32 := if d.m = 0 then inf32 d.neg else if d.neg then nan32 else rsqrtDy d

/-- tanh x of an exact value. -/
def tanhDy (d : Dy) : W32 :=
  let a := { d with neg := false }
  let g := fun v : W32 => if d.neg then v ||| 0x80000000#32 else v
  if d.m = 0 then d.f32
  else if 16 ≤ a.floorSmall then g 0x3F800000#32
  else
    let x := fxExpAbs (2 * a.fx)
    g (fxRound (fxDiv (x - fxOne) (x + fxOne)) 0)

/-- 1 ÷ (1 + e^-x) in fixed point. -/
def fxSigmoid (t : Int) : Int := fxDiv fxOne (fxOne + fxExpAbs (-t))

/-- The sigmoid of an exact value. -/
def sigmoidDy (d : Dy) : W32 :=
  let f := d.floorSmall
  if d.m = 0 then 0x3F000000#32
  else if 128 ≤ f then 0x3F800000#32 else if f < -128 then 0#32 else fxRound (fxSigmoid d.fx) 0

/-- x × g(x) for a factor in fixed point that lies in (0, 1); beyond `top` it is 1 or 0. -/
def gatedDy (top : Int) (g : Int → Int) (d : Dy) : W32 :=
  let f := d.floorSmall
  if d.m = 0 then d.f32
  else if top ≤ f then d.f32
  else if f < -top then sign32 true 0
  else rne32 d.neg (d.m * (g d.fx).toNat) (d.e - fxP) true

/-- The standard normal distribution function in fixed point, |t| below 20. -/
def fxPhi (t : Int) : Int := (fxOne + fxErf (fxDiv t (fxSqrt (2 * fxOne)))) / 2

/-- erf of an exact value. -/
def erfDy (d : Dy) : W32 :=
  let a := { d with neg := false }
  let g := fun v : W32 => if d.neg then v ||| 0x80000000#32 else v
  if d.m = 0 then d.f32
  else if 8 ≤ a.floorSmall then g 0x3F800000#32
  else g (rne32 false (fxErf a.fx).natAbs (-fxP) true)

/-- An element function at an infinity. -/
def sfInf (f : SfFunc) (neg : Bool) : W32 :=
  match f with
  | .exp | .exp2 => if neg then 0#32 else inf32 false
  | .ln | .log2 => if neg then nan32 else inf32 false
  | .rcp => sign32 neg 0
  | .sqrt => if neg then nan32 else inf32 false
  | .rsqrt => if neg then nan32 else 0#32
  | .tanh | .erf => sign32 neg 0x3F800000
  | .sigmoid => if neg then 0#32 else 0x3F800000#32
  | .gelu | .silu => if neg then sign32 true 0 else inf32 false
  | .rowmax | .rowsumexp | .rowstat | .rowmsq | .rowsum => nan32

/-- An element function at an exact value. -/
def sfFin (f : SfFunc) (d : Dy) : W32 :=
  match f with
  | .exp => expDy d
  | .exp2 => exp2Dy d
  | .ln => lnDy false d
  | .log2 => lnDy true d
  | .rcp => rcpDy d
  | .sqrt => sqrtDy d
  | .rsqrt => rsqrtElem d
  | .tanh => tanhDy d
  | .sigmoid => sigmoidDy d
  | .gelu => gatedDy 18 fxPhi d
  | .silu => gatedDy 130 fxSigmoid d
  | .erf => erfDy d
  | .rowmax | .rowsumexp | .rowstat | .rowmsq | .rowsum => nan32

/-- An element function of VE.SF (R166). -/
def sfElem (f : SfFunc) (x : W32) : W32 :=
  match val32 x with
  | .nan => nan32
  | .inf n => sfInf f n
  | .fin d => sfFin f d

/-! ### The reference order (R162) -/

/-- The exact sum of a list of values. -/
def FV.sum (l : List FV) : FV := l.foldl FV.add (.fin ⟨false, 0, 0⟩)

/-- The lists of `k` consecutive elements of a list, the last one shorter. -/
def chunks {α : Type} (k : Nat) (l : List α) : List (List α) :=
  (List.range ((l.length + k - 1) / k)).map (fun i => (l.drop (k * i)).take k)

/-- One level of the pairwise tree. -/
def pairUp (rnd : FV → FV) : List FV → List FV
  | a :: b :: r => rnd (a.add b) :: pairUp rnd r
  | l => l

/-- The pairwise tree, of at most `fuel` levels. -/
def treeSum (rnd : FV → FV) (l : List FV) : Nat → FV
  | 0 => l.headD (.fin ⟨false, 0, 0⟩)
  | fuel + 1 =>
    match l with
    | [] => .fin ⟨false, 0, 0⟩
    | [a] => a
    | _ => treeSum rnd (pairUp rnd l) fuel

/-- A group of block sums folded with one rounding per block. -/
def groupSum (rnd : FV → FV) : List FV → FV
  | [] => .fin ⟨false, 0, 0⟩
  | a :: r => r.foldl (fun acc b => rnd (acc.add b)) (rnd a)

/-- The sum of a row in the reference order (R162). -/
def refSum (rnd : FV → FV) (l : List FV) : FV :=
  treeSum rnd ((chunks 16 ((chunks 256 l).map FV.sum)).map (groupSum rnd)) 64

/-- Rounding to X48. -/
def FV.x48 : FV → FV
  | .fin d => .fin d.x48
  | v => v

/-! ### Row functions (R167 to R170) -/

/-- e^t of an exact value in X48; below its range it rounds to zero, above it to infinity (log 30).
(DEDUCED, log 30) -/
def expX48 (d : Dy) : FV :=
  if d.m = 0 then .fin ⟨false, 1, 0⟩
  else
    let f := d.floorSmall
    if 1500 ≤ f then .inf false
    else if f < -1500 then .fin ⟨false, 0, 0⟩
    else
      let r := fxExp d.fx
      let q := rne 48 (-2094) r.1.natAbs (r.2 - fxP) true
      .fin ⟨false, q.1, q.2⟩

/-- A term of ROWSUMEXP: none where an infinite element meets an infinite shift, of which the spec states no difference. -/
def sumExpTerm (c x : FV) : FV :=
  match c, x with
  | .inf true, _ => .fin ⟨false, 0, 0⟩
  | _, .inf true => .fin ⟨false, 0, 0⟩
  | .inf false, .inf false => .nan
  | .inf false, _ => .fin ⟨false, 0, 0⟩
  | _, .inf false => .inf false
  | .fin c, .fin x => expX48 (x.add c.opp)
  | _, _ => .nan

/-- An element of the row and the shift are both +∞, so that the spec states no term (R168). (DESIGN CHOICE, log 32) -/
def sumExpOpen (c : W32) (xs : List W32) : Bool :=
  c == 0x7F800000#32 && xs.any (fun x => x == 0x7F800000#32) && !xs.any isNan32

/-- Lanes 0 to 7 from their first values. -/
def lanes8 (l : List W32) : List W32 := l ++ List.replicate (8 - l.length) 0#32

/-- ROWMAX. (DESIGN CHOICE, log 189) -/
def rowMax (xs : List W32) : W32 :=
  if xs.any isNan32 then nan32 else xs.foldl (fun a x => if ord32 a < ord32 x then x else a) 0xFF800000#32

/-- ROWSUM. -/
def rowSum (xs : List W32) : W32 := (refSum FV.x48 (xs.map val32)).f32

/-- ROWSUMEXP: the sum and its reciprocal. -/
def rowSumExp (c : W32) (xs : List W32) : List W32 :=
  if isNan32 c || xs.any isNan32 then [nan32, nan32]
  else
    let s := (refSum FV.x48 (xs.map (fun x => sumExpTerm (val32 c) (val32 x)))).f32
    [s, if s = 0#32 then 0#32 else sfElem .rcp s]

/-- The largest exponent of a row, 0 when every element is zero (R169). -/
def rowExp (l : List Dy) : Int :=
  let es := (l.filter (fun d => d.m != 0)).map (fun d => d.e + ((bitSize d.m - 1 : Nat) : Int))
  match es with
  | [] => 0
  | e :: r => r.foldl max e

/-- The exact value of a finite datum. -/
def finDy (x : W32) : Dy :=
  match val32 x with
  | .fin d => d
  | _ => ⟨false, 0, 0⟩

/-- rne32 of a datum divided by a count; an exact zero is +0 (R161, R169). -/
def divCount (s : W32) (n : Nat) : W32 :=
  let d := finDy s
  if d.m = 0 then 0#32 else rnd3 d.neg (divBits 64 d.m n d.e)

/-- A value scaled by a power of two. -/
def Dy.shift (d : Dy) (k : Int) : Dy := { d with e := d.e + k }

/-- rne32 of an exact value, an exact zero being +0 (R161). -/
def Dy.rne (d : Dy) : W32 := if d.m = 0 then 0#32 else d.f32

/-- ρ = rne32(1 ÷ √(v × 2^(2e) + ε)) (R169, R170). -/
def rowRho (v : W32) (e : Int) (eps : W32) : W32 :=
  match val32 eps with
  | .nan => nan32
  | .inf n => if n then nan32 else 0#32
  | .fin d =>
    if d.neg ∧ d.m ≠ 0 then nan32
    else
      let t := ((finDy v).shift (2 * e)).add { d with neg := false }
      if t.m = 0 then inf32 false else rsqrtDy t

/-- ROWSTAT and ROWMSQ (R169, R170). With an element NaN or infinite, lanes 1 and 3 are NaN of ROWMSQ too, which uses neither.
(DESIGN CHOICE, log 173) -/
def rowStat (msq : Bool) (eps : W32) (xs : List W32) : List W32 :=
  if xs.any (fun x => !finite32 x) then [nan32, nan32, 0#32, nan32, nan32]
  else
    let ds := xs.map finDy
    let n := xs.length
    let e := rowExp ds
    let ys := ds.map (fun d => d.shift (-e))
    if n = 0 ∨ ds.all (fun d => d.m == 0) then [0#32, 0#32, 0#32, 0#32, rowRho 0#32 0 eps]
    else
      let mu := divCount (refSum FV.x48 (ys.map FV.fin)).f32 n
      let dev := if msq then ys else ys.map (fun y => (y.add (finDy mu).opp).x48)
      let q := dev.map (fun d => FV.fin (d.mul d).x48)
      let v := divCount (refSum FV.x48 q).f32 n
      let rho := rowRho v e eps
      if msq then [v, 0#32, BitVec.ofInt 32 e, 0#32, rho]
      else
        [((finDy mu).shift e).rne, v, BitVec.ofInt 32 e, ((finDy (sqrtDy (finDy v))).shift e).rne, rho]

/-- Lanes 0 to 7 a row function writes (R167, R168). -/
def sfRow (f : SfFunc) (c : W32) (xs : List W32) : List W32 :=
  match f with
  | .rowmax => lanes8 [rowMax xs]
  | .rowsumexp => lanes8 (rowSumExp c xs)
  | .rowstat => lanes8 (rowStat false c xs)
  | .rowmsq => lanes8 (rowStat true c xs)
  | .rowsum => lanes8 [rowSum xs]
  | .exp | .exp2 | .ln | .log2 | .rcp | .sqrt | .rsqrt | .tanh | .sigmoid | .gelu | .silu | .erf => lanes8 []

end Sys2Proof.Machine
end

