-- ==== Sys2Proof/Machine/Descr.lean ====
section
/-! DEFINITION. Tensor descriptors: their fields, the checks of creation, re-arming and deletion (R256 to R262, R268). -/

namespace Sys2Proof.Machine

/-- The fields of a 64-byte descriptor (R256), before any check. -/
structure RawDesc where
  ver : Nat
  kind : Nat
  etype : Nat
  red : Bool
  form : Bool
  sbay : Nat
  alloc : Nat
  base : Nat
  q : Nat
  gal : Nat
  size : Vector Nat 4
  stride : Vector Int 4
  rsvd : Nat

/-- A 40-bit two's complement value. -/
def int40 (v : Nat) : Int := (BitVec.ofNat 40 v).toInt

/-- Reads the fields of a descriptor. -/
def RawDesc.ofNat (v : Nat) : RawDesc :=
  { ver := bitsAt v 7 0, kind := bitsAt v 11 8, etype := bitsAt v 15 12, red := v.testBit 16, form := v.testBit 17
    sbay := bitsAt v 23 20, alloc := bitsAt v 39 24, base := bitsAt v 111 64, q := bitsAt v 158 128
    gal := bitsAt v 177 160
    size := #v[bitsAt v 215 192, bitsAt v 247 224, bitsAt v 279 256, bitsAt v 311 288]
    stride := #v[int40 (bitsAt v 359 320), int40 (bitsAt v 407 368), int40 (bitsAt v 455 416), int40 (bitsAt v 503 464)]
    rsvd := bitsAt v 19 18 + bitsAt v 63 40 + bitsAt v 127 112 + bitsAt v 159 159 + bitsAt v 191 178 +
      bitsAt v 223 216 + bitsAt v 255 248 + bitsAt v 287 280 + bitsAt v 319 312 + bitsAt v 367 360 + bitsAt v 415 408 +
      bitsAt v 463 456 + bitsAt v 511 504 }

/-- A field of w bits at a place. -/
def fieldPut (v w at_ : Nat) : Nat := v % 2 ^ w * 2 ^ at_

/-- The 64 bytes of a descriptor, as one number (R256). -/
def Desc.num (d : Desc) : Nat :=
  1 + fieldPut d.kind 4 8 + fieldPut d.etype 4 12 + fieldPut d.red.toNat 1 16 + fieldPut d.form.toNat 1 17 + fieldPut d.sbay 4 20 +
    fieldPut d.alloc 16 24 + fieldPut d.base 48 64 + fieldPut d.q 31 128 + fieldPut d.gal 18 160 +
    ((List.finRange 4).map (fun i => fieldPut d.size[i] 24 (192 + 32 * i.val))).sum +
    ((List.finRange 4).map (fun i => fieldPut (BitVec.ofInt 40 d.stride[i]).toNat 40 (320 + 48 * i.val))).sum

/-- A descriptor with one of its bytes read as another value (R242). -/
def Desc.withByte (d : Desc) (k : Nat) (v : Byte) : Desc :=
  let r := RawDesc.ofNat (byteOver d.num k v)
  { d with
    kind := r.kind, etype := r.etype, red := r.red, form := r.form, sbay := r.sbay, alloc := r.alloc, base := r.base
    q := r.q, gal := r.gal, size := r.size, stride := r.stride }

/-- Step 1 of R260. -/
def RawDesc.step1 (d : RawDesc) : Bool :=
  d.ver == 1 && decide (1 ≤ d.kind) && decide (d.kind ≤ 4) && decide (d.etype ≤ 6) && d.rsvd == 0 &&
    (d.sbay == 0 || d.alloc == 0xFFFF)

/-- Step 2: sizes and byte count. -/
def RawDesc.step2 (d : RawDesc) : Bool :=
  d.size.all (fun n => decide (1 ≤ n)) && decide (esz d.etype * (d.size[0] * d.size[1] * d.size[2] * d.size[3]) ≤ 2 ^ 36)

/-- Step 3: alignment under R258. -/
def aligned (e base : Nat) (stride : Vector Int 4) : Bool := base % e == 0 && stride.all (fun x => x % e == 0)

/-- Step 4: the modulus. -/
def RawDesc.step4 (d : RawDesc) : Bool :=
  (!d.red || ((d.etype == 2 || d.etype == 6) && d.alloc == 0xFFFF)) &&
    (if d.red = true ∨ d.etype = 6 then decide (2 ^ 27 < d.q) && decide (d.q < 2 ^ 31) else d.q == 0)

/-- A power of two. -/
def isPow2 (n : Nat) : Bool := n != 0 && 2 ^ Nat.log2 n == n

/-- Step 6: what each KIND asks (R268 for KIND 4). -/
def RawDesc.step6 (d : RawDesc) : Bool :=
  match d.kind with
  | 2 => d.etype == 2
  | 3 =>
    d.etype == 3 && d.stride[0] == 32 && isPow2 d.size[0] && decide (d.size[0] ≤ 4096) && decide (d.size[1] ≤ 64) &&
      decide (d.size[2] ≤ d.size[0]) && d.size[3] == 1 && d.stride[1] == 0 && d.stride[2] == 0 && d.stride[3] == 0
  | 4 =>
    isPow2 d.size[0] && decide (2 ^ 10 ≤ d.size[0]) && decide (d.size[0] ≤ 2 ^ 17) && d.stride[0] == 4 &&
      (d.etype == 2 || d.etype == 6) && d.gal % 2 == 1 && decide (d.gal < 2 * d.size[0]) && d.size[2] == 1 &&
      d.size[3] == 1 && d.stride[2] == 0 && d.stride[3] == 0 && d.alloc == 0xFFFF
  | _ => true

/-- The allocation as first address and size (R259). -/
def allocOf (regions : List Region) (alloc sbay : Nat) : Option (Nat × Nat) :=
  if alloc = 0xFFFF then (if sbay < 12 then some (spadBase sbay, spadSize) else none)
  else if alloc < 4096 then (regions.find? (fun r => r.id == alloc)).map (fun r => (r.base, r.size))
  else none

/-- The offsets of the extent's ends from BASE (R259). -/
def spanLo (size : Vector Nat 4) (stride : Vector Int 4) : Int :=
  min (0 : Int) ((size[0] - 1 : Nat) * stride[0]) + min (0 : Int) ((size[1] - 1 : Nat) * stride[1]) +
    min (0 : Int) ((size[2] - 1 : Nat) * stride[2]) + min (0 : Int) ((size[3] - 1 : Nat) * stride[3])

def spanHi (size : Vector Nat 4) (stride : Vector Int 4) : Int :=
  max (0 : Int) ((size[0] - 1 : Nat) * stride[0]) + max (0 : Int) ((size[1] - 1 : Nat) * stride[1]) +
    max (0 : Int) ((size[2] - 1 : Nat) * stride[2]) + max (0 : Int) ((size[3] - 1 : Nat) * stride[3])

/-- The extent: lowest and highest byte (R259). -/
def extent (kind etype base : Nat) (size : Vector Nat 4) (stride : Vector Int 4) : Int × Int :=
  if kind = 3 then (base, base + 32 * size[0] - 1)
  else (base + spanLo size stride, base + spanHi size stride + esz etype - 1)

/-- The extent of a descriptor. -/
def Desc.extent (d : Desc) : Int × Int := Machine.extent d.kind d.etype d.base d.size d.stride

/-- An extent lies within an allocation. -/
def within (x : Int × Int) (a : Nat × Nat) : Bool := decide ((a.1 : Int) ≤ x.1) && decide (x.2 < a.1 + a.2)

/-- The checks of creation in their order; the descriptor when all of them hold (R260). -/
def RawDesc.check (d : RawDesc) (regions : List Region) : Option Desc :=
  if d.step1 && d.step2 && aligned (esz d.etype) d.base d.stride && d.step4 && (d.kind == 4 || (d.gal == 0 && !d.form)) &&
      d.step6 then
    match allocOf regions d.alloc d.sbay with
    | some a =>
      if within (Machine.extent d.kind d.etype d.base d.size d.stride) a then
        some { kind := d.kind, etype := d.etype, red := d.red, form := d.form, sbay := d.sbay, alloc := d.alloc,
               base := d.base, q := d.q, gal := d.gal, size := d.size, stride := d.stride, origin := d.base, pos := 0 }
      else none
    | none => none
  else none

/-- Regions of the image a bay holds. -/
def regionsOf (b : Bay) (s : State) : List Region :=
  match imageOf b s with
  | some i => i.regions
  | none => []

/-- A tile's PEND when a descriptor it waits to resume is replaced, re-armed or deleted (R73, R261, R262). -/
def Tile.unpend (t : Tile) (d : Dix) : Tile :=
  if t.stRow.desc = BitVec.ofNat 16 d.val then { t with stRow := { t.stRow with pend := false } } else t

/-- Writes a descriptor table entry. -/
def putDesc (b : Bay) (d : Dix) (v : Option Desc) (s : State) : State :=
  s.updBay b (fun x => { x with desc := Sparse.set (fun _ => none) x.desc d v, prot := x.prot.cured 0x12 (64 * d.val) })

/-- Clears the PEND bits that name a descriptor (R73, R262). -/
def unpendAll (b : Bay) (d : Dix) (s : State) : State :=
  s.updBay b (fun x => { x with tiles := x.tiles.map (fun t => t.unpend d) })

/-- The byte of an uncorrectable descriptor table entry among those of a list. -/
def descBad (b : Bay) (ds : List Dix) (s : State) : Option Nat :=
  ((s.bay b).prot.smallBad.find? (fun e => e.1 == 0x12 && ds.any (fun d => e.2 / 64 == d.val))).map (fun e => e.2)

/-- Reads descriptor table entries as an instruction issues: one that is uncorrectable halts the stream with fault 0x44
(R251); else `k`. -/
def descRead (b : Bay) (st : Strm) (ds : List Dix) (k : State → State) (s : State) : State :=
  match descBad b ds s with
  | some o => trap b st 0x44 (ueAt 0x12 b o s)
  | none => k s

/-- Reads the descriptor a unit instruction of the X-stream names, as it issues: fault 0x44 where the entry is uncorrectable,
0x43 where R263 does not allow it (R215, R251, R263). -/
def unitRead (b : Bay) (d : Dix) (k : Desc → State → State) (s : State) : State :=
  descRead b .x [d] (fun s =>
    match unitDesc b d s with
    | some x => k x s
    | none => trap b .x 0x43 s) s

/-- A re-arm of a descriptor with value u; none when a check fails (R261). -/
def Desc.rearm (d : Desc) (regions : List Region) (u : W32) : Option Desc :=
  let base := (d.origin + 64 * u.toNat) % 2 ^ 48
  match allocOf regions d.alloc d.sbay with
  | some a =>
    if aligned (esz d.etype) base d.stride && within (Machine.extent d.kind d.etype base d.size d.stride) a then
      some { d with base := base, pos := 0 }
    else none
  | none => none

/-- The re-armed descriptor at an index; none when the index is empty or a check fails (R261). -/
def rearmAt (b : Bay) (d : Dix) (u : W32) (s : State) : Option Desc :=
  (descAt b d s).bind (fun x => x.rearm (regionsOf b s) u)

/-- A re-arm from a stream: fault 0x43 when it fails (R261). -/
def darm (b : Bay) (st : Strm) (cb : Ctr) (d : Dix) (s : State) : State :=
  descRead b st [d] (fun s =>
    match rearmAt b d (ctrOf b st cb s) s with
    | some x => retire b st (unpendAll b d (putDesc b d (some x) s))
    | none => trap b st 0x43 s) s

/-- TS.DARM: re-arms a descriptor from the X-stream. -/
def execTsDarm (b : Bay) (cb : Ctr) (d : Dix) (s : State) : Host.Outcome State Fault Refusal :=
  .next (issue b .x (.tsDarm b cb d) [cb] (darm b .x cb d) s)

/-- XF.DARM: re-arms a descriptor from the A-stream. -/
def execXfDarm (b : Bay) (cb : Ctr) (d1 : Dix) (s : State) : Host.Outcome State Fault Refusal :=
  .next (issue b .a (.xfDarm b cb d1) [cb] (darm b .a cb d1) s)

/-- The 16 DMEM words of a stream from an index, as one value. -/
def dmemDesc (x : Stream) (i : Nat) : Nat :=
  leNat ((Sparse.getList (fun _ => 0#32) x.dmem i 16).flatMap (fun w => leBytes w.toNat 4))

/-- An uncorrectable byte among the 16 DMEM words of the A-stream from an index: its offset (R251, R453). -/
def dmemBad (b : Bay) (i : Nat) (s : State) : Option Nat :=
  ((s.bay b).prot.smallBad.find? (fun e => e.1 == 0x11 && decide (4 * i ≤ e.2) && decide (e.2 < 4 * i + 64))).map
    (fun e => e.2)

/-- XF.DNEW: checks and creates a descriptor from 16 DMEM words, destroying one the index held; faults 0x35, 0x43 and, on an
uncorrectable word, 0x44 (R251, R260, R262). -/
def execXfDnew (b : Bay) (ca : Ctr) (d1 : Dix) (s : State) : Host.Outcome State Fault Refusal :=
  .next (issue b .a (.xfDnew b ca d1) [ca]
    (fun s =>
      let i := (ctrOf b .a ca s).toNat
      if 16383 < i + 15 then trap b .a 0x35 s
      else
        match dmemBad b i s with
        | some o => trap b .a 0x44 (ueAt 0x11 b o s)
        | none =>
          match (RawDesc.ofNat (dmemDesc (s.strm b .a) i)).check (regionsOf b s) with
          | some d =>
            retire b .a (putDesc b d1 (some d) (if (descAt b d1 s).isSome then unpendAll b d1 s else s))
          | none => trap b .a 0x43 s) s)

/-- XF.DDEL: empties a descriptor entry; one that holds no descriptor raises fault 0x43 (R215, R262). -/
def execXfDdel (b : Bay) (d1 : Dix) (s : State) : Host.Outcome State Fault Refusal :=
  .next (issue b .a (.xfDdel b d1) []
    (fun s =>
      if (descAt b d1 s).isSome then retire b .a (unpendAll b d1 (putDesc b d1 none s)) else trap b .a 0x43 s) s)

end Sys2Proof.Machine
end

