-- ==== Sys2Proof/Machine/Queue.lean ====
section
/-! DEFINITION. Data queues, beat-scheduled release, preemption points and work pools (R191 to R212). -/

namespace Sys2Proof.Machine

/-! ### Data queues -/

/-- Counters Cn to Cn + m - 1 (R191). -/
def ctrRun (cn : Ctr) (m1 : Fin 16) : List Ctr := (List.range (m1.val + 1)).map (fun i => Fin.ofNat 16 (cn.val + i))

/-- The 64 bytes TS.QPUT writes: the counters' words, then zeros (R191). -/
def qputBytes (x : Stream) (l : List Ctr) : List Byte := padTo 64 (l.flatMap (fun c => leBytes x.ctr[c].toNat 4))

/-- Changes a data queue of a bay. -/
def Bays.setDq (x : Bays) (q : Fin 8) (l : List DqEntry) : Bays := { x with dq := x.dq.set q l }

/-- Reserves `n` entries at a queue's tail, with data where it is already there (R192). (DEDUCED, log 23) -/
def Bays.reserve (x : Bays) (q : Fin 8) (n : Nat) (data : Option (List Byte)) : Bays :=
  { x.setDq q (x.dq[q] ++ (List.range n).map (fun i => ⟨x.tickets + i, data⟩)) with tickets := x.tickets + n }

/-- Entries of a queue are written: a write-back that waits for one of them is superseded (R243). -/
def Bays.dqWritten (x : Bays) (b : Bay) (q : Fin 8) (tickets : List Nat) : Bays :=
  { x with prot := tickets.foldl (fun (p : Prot) t => p.rewritten 4 (fun o => decide (dqOff b q t ≤ o) && decide (o < dqOff b q t + 64))) x.prot }

/-- The first `m` entries of a queue when all of them hold their data (R192). -/
def Bays.ready (x : Bays) (q : Fin 8) (m : Nat) : Option (List (List Byte)) :=
  let l := (x.dq[q].take m).filterMap (fun e => e.data)
  if l.length = m then some l else none

/-- Pops the first `m` entries. -/
def Bays.pop (x : Bays) (q : Fin 8) (m : Nat) : Bays := x.setDq q (x.dq[q].drop m)

/-- TS.QPUT: reserves one entry and writes counters into it; waits DQ_FULL while none is free. -/
def execTsQput (b : Bay) (st : Strm) (q : Fin 8) (cn : Ctr) (m1 : Fin 16) (s : State) :
    Host.Outcome State Fault Refusal :=
  .next (issue b st (.tsQput b st q cn m1) (ctrRun cn m1)
    (fun s =>
      if 32 ≤ (s.bay b).dq[q].length then stall b st .dqFull (.tsQput b st q cn m1) 0#32 s
      else retire b st (s.updBay b (fun x =>
        (x.reserve q 1 (some (qputBytes (x.strm st) (ctrRun cn m1)))).dqWritten b q [x.tickets]))) s)

/-- Loads the words of a popped entry into counters (R191). -/
def Stream.fillCtrs (x : Stream) (l : List Ctr) (e : List Byte) : Stream :=
  { x with ctr := (l.zipIdx).foldl (fun v ci => v.set ci.1 (BitVec.ofNat 32 (fieldAt e (4 * ci.2) 4))) x.ctr }

/-- The first m entries of a data queue in its memory (R453). -/
def dqUnits (b : Bay) (q : Fin 8) (m : Nat) (s : State) : List (Nat × Nat) :=
  ((s.bay b).dq[q].take m).map (fun e => (4, dqOff b q e.ticket))

/-- Popped entries as they are delivered: one that passes its code wrong reads as another value (R242). -/
def slipEntries (ev : CodeEvent) (l : List (List Byte)) : List (List Byte) :=
  match ev with
  | .slip id i v => if id = 4#8 then l.set (i % l.length) (leBytes v 64) else l
  | _ => l

/-- The bytes TS.QPOP takes from the entry at the front. -/
def qpopBytes (ev : CodeEvent) (e : List Byte) : List Byte := (slipEntries ev [e]).headD e

/-- TS.QPOP: pops one entry into counters once it holds its data; waits DQ_EMPTY until then; fault 0x46 on an
uncorrectable entry (R192, R242, R243, R251, R453). -/
def execTsQpop (b : Bay) (st : Strm) (q : Fin 8) (cd : Ctr) (m1 : Fin 16) (ev : CodeEvent) (s : State) :
    Host.Outcome State Fault Refusal :=
  .next (issue b st (.tsQpop b st q cd m1 ev) (ctrRun cd m1)
    (fun s =>
      match (s.bay b).ready q 1 with
      | some (e :: _) =>
        let l := dqUnits b q 1 s
        let s := s.updBay b (fun x => x.pop q 1)
        (match metUnit b ev l s with
         | some u => trap b st 0x46 (ueAt 4 b u.2 s)
         | none => (noteFixed b ev l s).updStrm b st (fun x => (x.fillCtrs (ctrRun cd m1) (qpopBytes ev e)).next))
      | _ => stall b st .dqEmpty (.tsQpop b st q cd m1 ev) 0#32 s) s)

/-! ### Release and preemption -/

/-- TS.REL: releases at once when BEAT has reached the target, else waits with cause BEAT (R196). -/
def execTsRel (b : Bay) (st : Strm) (cb : Ctr) (s : State) : Host.Outcome State Fault Refusal :=
  .next (issue b st (.tsRel b st cb) [cb]
    (fun s =>
      if (s.strm b st).status = .wait ∧ (s.strm b st).wait.any (fun w => w.cause == .beat) then s
      else if beatDone s.beat.beat (ctrOf b st cb s) then retire b st s
      else stall b st .beat (.tsRel b st cb) (ctrOf b st cb s) s) s)

/-- RELEASE_WAIT_END: a TS.REL wait ends at its beat; none ends in HOLD (R196, R197). -/
def execReleaseWaitEnd (b : Bay) (st : Strm) (s : State) : Host.Outcome State Fault Refusal :=
  .next
    (match (s.strm b st).wait with
     | some ⟨.beat, _, _, .tsRel b' st' _, target⟩ =>
       if alive s && (s.strm b st).status == .wait && b' == b && st' == st && s.beat.st != .hold &&
           beatDone s.beat.beat target then
         retire b st s
       else s
     | _ => s)

/-- TS.YIELD: parks the stream when a park is pending and, in the X-stream, no bracket is open; else does nothing (R207). -/
def execTsYield (b : Bay) (st : Strm) (s : State) : Host.Outcome State Fault Refusal :=
  .next (issue b st (.tsYield b st) []
    (fun s =>
      if ((s.bay b).parkPend || (s.bay b).parked) && !(st == .x && inBracket b s) then
        s.updStrm b st (fun x =>
          { x.next with status := .parked, wait := some ⟨.park, 0, 0, .tsYield b st, 0#32⟩, fpc := x.pc })
      else retire b st s) s)

/-! ### Work pools -/

/-- A work pool (R209). -/
def poolOf (p : Fin 64) (s : State) : Pool := Sparse.get (fun _ => Pool.reset) s.pools p

/-- Replaces a work pool. -/
def putPool (p : Fin 64) (x : Pool) (s : State) : State :=
  { s with pools := Sparse.set (fun _ => Pool.reset) s.pools p x }

/-- Notes that a stream uses a pool (R211). -/
def usePool (b : Bay) (st : Strm) (p : Fin 64) (s : State) : State :=
  s.setBay b ((s.bay b).setStrm st
    (let x := s.strm b st
     { x with pools := if x.pools.contains p then x.pools else x.pools ++ [p] }))

/-- Notes that no stream but those of the list uses a pool any more, once it has returned to IDLE (R211). -/
def forgetPool (p : Fin 64) (keep : List (Bay × Strm × Nat × BayMask)) (s : State) : State :=
  s.mapBays (fun b x =>
    let f := fun (st : Strm) (v : Stream) =>
      if keep.any (fun d => d.1 == b && d.2.1 == st) then v else { v with pools := v.pools.filter (fun q => q != p) }
    { x with a := f .a x.a, x := f .x x.x })

/-- The pool has left IDLE: some bay has declared it, or it is ARMED. -/
def Pool.left (q : Pool) : Bool := q.armed || !q.decls.isEmpty

/-- TS.PINIT: declares the pool's count and mask and waits until it is ARMED; waits on a pool still ARMED (R209). -/
def execTsPinit (b : Bay) (st : Strm) (cn cm : Ctr) (p : Fin 64) (s : State) : Host.Outcome State Fault Refusal :=
  .next (issue b st (.tsPinit b st cn cm p) [cn, cm]
    (fun s =>
      let q := poolOf p s
      let s := stall b st .pool (.tsPinit b st cn cm p) 0#32 s
      if q.armed then s
      else if q.decls.any (fun d => d.1 == b && d.2.1 == st) then s
      else
        usePool b st p
          (putPool p { q with
            decls := q.decls ++ [(b, st, (ctrOf b st cn s).toNat, (ctrOf b st cm s).truncate 12)] } s)) s)

/-- Halts every listed stream with fault 0x37 (R209). -/
def haltPool (l : List (Bay × Strm × Nat × BayMask)) (s : State) : State :=
  l.foldl (fun s d => trap d.1 d.2.1 0x37 s) s

/-- A stream waits on TS.PINIT. -/
def Stream.pinits (x : Stream) : Bool :=
  x.status == .wait && (match x.wait with
    | some ⟨_, _, _, .tsPinit .., _⟩ => true
    | _ => false)

/-- Retires the TS.PINIT of every listed stream that waits on it. -/
def retireDecls (l : List (Bay × Strm × Nat × BayMask)) (s : State) : State :=
  l.foldl (fun s d => if (s.strm d.1 d.2.1).pinits then retire d.1 d.2.1 s else s) s

/-- A stream waits on TS.TAKE of the pool from outside the mask (R210). -/
def takesOutside (p : Fin 64) (mask : BayMask) (b : Bay) (st : Strm) (s : State) : Bool :=
  (s.strm b st).status == .wait && !mask.getLsbD b &&
  (match (s.strm b st).wait with
   | some ⟨_, _, _, .tsTake _ _ _ p', _⟩ => p' == p
   | _ => false)

/-- Every bay and stream. -/
def allStreams : List (Bay × Strm) := (List.finRange 12).flatMap (fun b => [(b, Strm.a), (b, Strm.x)])

/-- Halts the streams whose waiting TS.TAKE lies outside the mask (R210). -/
def haltOutside (p : Fin 64) (mask : BayMask) (s : State) : State :=
  allStreams.foldl (fun s e => if takesOutside p mask e.1 e.2 s then trap e.1 e.2 0x37 s else s) s

/-- Every bay that some declaration names has declared the pool. (DEDUCED, log 134) -/
def declsFull (l : List (Bay × Strm × Nat × BayMask)) : Bool :=
  !l.isEmpty && (List.finRange 12).all (fun b => !(l.any (fun d => d.2.2.2.getLsbD b)) || l.any (fun d => d.1 == b))

/-- All declarations agree in count and mask, and come from bays of the mask. -/
def declsAgree (l : List (Bay × Strm × Nat × BayMask)) : Bool :=
  match l with
  | [] => false
  | d :: _ => l.all (fun e => e.2.2 == d.2.2 && d.2.2.2.getLsbD e.1)

/-- POOL_ARMED: when every named bay has issued TS.PINIT the pool is ARMED, or each of them halts on a mismatch (R209,
R210, R316). -/
def execPoolArmed (p : Fin 64) (s : State) : Host.Outcome State Fault Refusal :=
  .next
    (let q := poolOf p s
     if alive s && !q.armed && declsFull q.decls then
       match q.decls with
       | [] => s
       | (_, _, n, mask) :: _ =>
         if declsAgree q.decls then
           let s := putPool p { Pool.reset with arming := q.arming + 1, armed := true, count := n, mask := mask, bal := s.od.balance } s
           let s := retireDecls q.decls s
           let s := haltOutside p mask s
           if s.od.balance then throttle 9 255 0 s else s
         else haltPool q.decls (forgetPool p [] (putPool p { q with decls := [] } s))
     else s)

/-- Rank of a bay in a mask (R210). -/
def rankIn (mask : BayMask) (b : Bay) : Nat := ((bitsSet 12 mask).filter (fun i => i < b.val)).length

/-- The index a bay's TS.TAKE receives (R210). -/
def Pool.index (q : Pool) (b : Bay) : Nat :=
  let i := if q.bal then q.next else rankIn q.mask b + (bitsSet 12 q.mask).length * q.taken[b]
  if i < q.count then i else 0xFFFFFFFF

/-- The pool after it has handed out an index to a bay. (DEDUCED, log 25) -/
def Pool.hand (q : Pool) (b : Bay) : Pool :=
  { q with
    next := if q.bal ∧ q.next < q.count then q.next + 1 else q.next
    taken := q.taken.set b (q.taken[b] + 1) }

/-- TS.TAKE: hands out the next index, to be written later; waits on a pool not ARMED; fault 0x37 outside its mask (R210). -/
def execTsTake (b : Bay) (st : Strm) (cd : Ctr) (p : Fin 64) (s : State) : Host.Outcome State Fault Refusal :=
  .next (issue b st (.tsTake b st cd p) [cd]
    (fun s =>
      let q := poolOf p s
      let s := if q.left then usePool b st p s else s
      if !q.armed then stall b st .pool (.tsTake b st cd p) 0#32 s
      else if !q.mask.getLsbD b then trap b st 0x37 s
      else
        (putPool p (q.hand b) s).updStrm b st (fun x =>
          ({ x with takes := x.takes ++ [(cd, BitVec.ofNat 32 (q.index b), p, q.arming)] }.mark cd true).next)) s)

/-- The pool once a bay has received the exhaustion value: IDLE when every bay of its mask has (R209). -/
def Pool.exhaust (q : Pool) (b : Bay) : Pool :=
  let d := setBit q.done b true
  if d &&& q.mask = q.mask then { Pool.reset with arming := q.arming, decls := q.decls } else { q with done := d }

/-- TAKE_INDEX_WRITE: the oldest handed-out index of the stream lands in its counter (R210). -/
def execTakeIndexWrite (b : Bay) (st : Strm) (s : State) : Host.Outcome State Fault Refusal :=
  .next
    (match (s.strm b st).takes with
     | (cd, v, p, g) :: r =>
       if alive s then
         let s := s.updStrm b st (fun x => ({ x with takes := r }.setCtr cd v).mark cd false)
         if v = 0xFFFFFFFF#32 ∧ (poolOf p s).armed ∧ (poolOf p s).arming = g then
           let q := (poolOf p s).exhaust b
           let s := putPool p q s
           if q.armed then s else forgetPool p q.decls s
         else s
       else s
     | [] => s)

end Sys2Proof.Machine
end

