-- ==== Sys2Proof/Machine/Xfer.lean ====
section
/-! DEFINITION. The layout and transfer engine: XF. instructions, starts, completions and ring runs (R263 to R276). -/

namespace Sys2Proof.Machine

/-! ### Operands and conflicts (R264) -/

/-- A descriptor of one of the kinds an operand admits. (DEDUCED, log 41) -/
def descOf (b : Bay) (d : Dix) (kinds : List Nat) (s : State) : Option Desc :=
  (descAt b d s).bind (fun x => if kinds.contains x.kind then some x else none)

/-- The transfer's descriptors as XF.MOV, XF.GATH and XF.SCAT capture them. -/
def movOp (b : Bay) (d2 d1 : Dix) (s : State) : Option XOp :=
  match descOf b d2 [1, 2, 4] s, descOf b d1 [1, 2, 4] s with
  | some x, some y => some (.mov x y)
  | _, _ => none

def gathOp (b : Bay) (di d2 d1 : Dix) (s : State) : Option XOp :=
  match descOf b di [2] s, descOf b d2 [1, 2] s, descOf b d1 [1, 2, 4] s with
  | some i, some x, some y => some (.gath i x y)
  | _, _, _ => none

def scatOp (b : Bay) (acc : Bool) (di d2 d1 : Dix) (s : State) : Option XOp :=
  match descOf b di [2] s, descOf b d2 [1, 2, 4] s, descOf b d1 [1, 2] s with
  | some i, some x, some y => some (.scat acc i x y)
  | _, _, _ => none

/-- The extents a transfer reads and writes; a data queue has none. -/
def XOp.extents : XOp → List (Int × Int) × List (Int × Int)
  | .mov x y => ([x.extent], [y.extent])
  | .movq x _ _ _ => ([x.extent], [])
  | .gath i x y => ([i.extent, x.extent], [y.extent])
  | .scat _ i x y => ([i.extent, x.extent], [y.extent])
  | .ring _ _ => ([], [])

/-- Two extents intersect. -/
def meets (a b : Int × Int) : Bool := decide (a.1 ≤ b.2) && decide (b.1 ≤ a.2)

/-- Two transfers conflict: the destination of one intersects an extent of the other. -/
def XOp.conflicts (a b : XOp) : Bool :=
  let x := a.extents
  let y := b.extents
  x.2.any (fun e => (y.1 ++ y.2).any (meets e)) || y.2.any (fun e => (x.1 ++ x.2).any (meets e))

/-- Changes a bay's transfer engine. -/
def updXf (b : Bay) (f : Xfer → Xfer) (s : State) : State := s.updBay b (fun x => { x with xf := f x.xf })

/-! ### Issue -/

/-- The stream's instruction enters the transfer queue. -/
def xfPush (b : Bay) (op : XOp) (fd : Option LFlag) (s : State) : State :=
  let pc := (s.strm b .a).pc
  retire b .a (updXf b (fun x => { x with queue := x.queue ++ [⟨op, fd, none, pc, none⟩] }) s)

/-- Issues a transfer: OTHER while the queue is full, then its descriptors are read, with fault 0x43 where an operand admits
none (R215, R264). -/
def xfIssue (b : Bay) (c : Instr) (ds : List Dix) (op : State → Option XOp) (fd : Option LFlag) (s : State) : State :=
  issue b .a c []
    (fun s =>
      if 16 ≤ (s.bay b).xf.queue.length then stall b .a .other c 0#32 s
      else
        descRead b .a ds (fun s =>
          match op s with
          | none => trap b .a 0x43 s
          | some o => xfPush b o fd s) s) s

/-- Entries a source descriptor fills in a data queue (R266). -/
def dqEntries (d : Desc) : Nat := (min 2048 d.bytes + 63) / 64

/-- XF.MOV: queues a copy; into a data queue its entries are reserved at issue (R192, R266). -/
def execXfMov (b : Bay) (dst : XDest) (fd : Option LFlag) (d2 : Dix) (s : State) : Host.Outcome State Fault Refusal :=
  .next
    (match dst with
     | .desc d1 => xfIssue b (.xfMov b dst fd d2) [d2, d1] (movOp b d2 d1) fd s
     | .queue q =>
       issue b .a (.xfMov b dst fd d2) []
         (fun s =>
           if 16 ≤ (s.bay b).xf.queue.length then stall b .a .other (.xfMov b dst fd d2) 0#32 s
           else
             descRead b .a [d2] (fun s =>
               match descOf b d2 [1, 2, 4] s with
               | none => trap b .a 0x43 s
               | some d =>
                 let n := dqEntries d
                 if 32 < (s.bay b).dq[q].length + n then stall b .a .dqFull (.xfMov b dst fd d2) 0#32 s
                 else
                   let t := (s.bay b).tickets
                   xfPush b (.movq d q t n) fd (s.updBay b (fun x => x.reserve q n none))) s) s)

/-- XF.GATH: queues an indexed gather. -/
def execXfGath (b : Bay) (di : Dix) (fd : Option LFlag) (d2 d1 : Dix) (s : State) : Host.Outcome State Fault Refusal :=
  .next (xfIssue b (.xfGath b di fd d2 d1) [di, d2, d1] (gathOp b di d2 d1) fd s)

/-- XF.SCAT: queues an indexed scatter. -/
def execXfScat (b : Bay) (acc : Bool) (di : Dix) (fd : Option LFlag) (d2 d1 : Dix) (s : State) :
    Host.Outcome State Fault Refusal :=
  .next (xfIssue b (.xfScat b acc di fd d2 d1) [di, d2, d1] (scatOp b acc di d2 d1) fd s)

/-- XF.RING: queues a run of ring records. -/
def execXfRing (b : Bay) (fd : Option LFlag) (d1 : Dix) (s : State) : Host.Outcome State Fault Refusal :=
  .next (xfIssue b (.xfRing b fd d1) [d1] (fun s => (descOf b d1 [3] s).map (fun d => .ring d1 d)) fd s)

/-- XF_STAT (R275). -/
def xfStat (x : Xfer) : W32 :=
  BitVec.ofNat 32 ((if x.runs.isEmpty then 0 else 1) + x.active.length * 2 ^ 4 + x.queue.length * 2 ^ 7 +
    (if x.halt then 2 ^ 15 else 0) + x.hcode.toNat * 2 ^ 16)

/-- XF.STAT: copies XF_STAT into a counter. -/
def execXfStat (b : Bay) (cn : Ctr) (s : State) : Host.Outcome State Fault Refusal :=
  .next (issue b .a (.xfStat b cn) [cn] (fun s => putCtr b .a cn (xfStat (s.bay b).xf) s) s)

/-! ### Starts (R264, R272) -/

/-- The transfer may start beside the active ones. -/
def xfFits (x : Xfer) (op : XOp) : Bool :=
  decide (x.active.length < 4) && x.active.all (fun a => !op.conflicts a.op)

/-- The A-stream of the bay has not halted, so its queued instructions may start (R202). -/
def aLive (b : Bay) (s : State) : Bool := (s.strm b .a).status != .halted

/-- The head of the transfer queue may start now. -/
def xferCan (b : Bay) (s : State) : Bool :=
  let x := (s.bay b).xf
  unitsRun b s && aLive b s && !x.halt && x.ring.isNone &&
    (match x.queue with
     | e :: _ => (match e.op with | .ring _ _ => true | _ => xfFits x e.op)
     | [] => false)

/-- The ring's position when it starts: the table's, or the captured one once the entry is another descriptor (R271).
(DEDUCED, log 42) -/
def ringPos (b : Bay) (ix : Dix) (d : Desc) (s : State) : Nat :=
  match descAt b ix s with
  | some e => if e.kind = 3 then e.pos else d.pos
  | none => d.pos

/-- The head of the queue leaves it: a ring begins its run, any other transfer takes an active slot. -/
def Xfer.startHead (x : Xfer) (pos : Dix → Desc → Nat) : Xfer :=
  match x.queue with
  | e :: r =>
    match e.op with
    | .ring ix d =>
      { x with
        queue := r
        ring := some { no := x.runNo, ix := ix, d := { d with pos := pos ix d }, buf := [], fetched := 0, started := 0 }
        runs := x.runs ++ [⟨x.runNo, e.fd, d.size[2]⟩]
        runNo := x.runNo + 1 }
    | _ => { x with queue := r, active := x.active ++ [e] }
  | [] => x

/-- TRANSFER_START: the oldest queued transfer takes an active slot, in order and without conflict (R264). -/
def execTransferStart (b : Bay) (s : State) : Host.Outcome State Fault Refusal :=
  .next (if xferCan b s then updXf b (fun x => x.startHead (fun ix d => ringPos b ix d s)) s else s)

/-! ### What a transfer moves (R266, R269, R270) -/

/-- One byte of an output: the addresses its read needs, and where it comes from; none for a zero. -/
abbrev OutByte := List Nat × Option Nat

/-- Bytes of a row of an indexed descriptor. -/
def Desc.rowBytes (d : Desc) : Nat := d.size[0] * esz d.etype

/-- Rows of an indexed descriptor. -/
def Desc.rows (d : Desc) : Nat := d.size[1] * d.size[2] * d.size[3]

/-- Addresses of index p and its value. -/
def idxAddrs (d : Desc) (p : Nat) : List Nat := d.addrs (4 * p) 4

def idxVal (s : State) (d : Desc) (p : Nat) : Nat := leNat (s.gather (idxAddrs d p))

/-- The output of XF.MOV, cut to n bytes. -/
def movOut (x : Desc) (n : Nat) : List OutByte := (x.addrs 0 n).map (fun a => ([a], some a))

/-- The output of XF.GATH (R269). -/
def gathOut (s : State) (i x : Desc) : List OutByte :=
  (List.range i.count).flatMap (fun p =>
    let v := idxVal s i p
    let need := idxAddrs i p
    if v < x.rows then (x.addrs (v * x.rowBytes) x.rowBytes).map (fun a => (a :: need, some a))
    else List.replicate x.rowBytes (need, none))

/-- The output up to the first read that meets an uncorrectable word (R274). -/
def goodPart (s : State) (l : List OutByte) : List OutByte := l.takeWhile (fun o => !o.1.any (byteBad s))

/-- The bytes of an output. -/
def outBytes (s : State) (l : List OutByte) : List Byte :=
  l.map (fun o => match o.2 with | some a => s.rd a | none => 0#8)

/-- The bytes that land at an element's address: through a RED descriptor merged with what is stored, and reduced
(R266). -/
def redBytes (s : State) (d : Desc) (a : Nat) (v : List Byte) : List Byte :=
  if d.red then leBytes (redWord d.q (leNat (v ++ s.ld (a + v.length) (4 - v.length)))) 4 else v

/-- Joins runs that follow each other in memory, so that whole words and sectors are written at once (log 14).
(DEDUCED, log 14) -/
def joinRuns : List (Nat × List Byte) → List (Nat × List Byte)
  | [] => []
  | (a, v) :: r =>
    match joinRuns r with
    | (a2, v2) :: r2 => if a + v.length = a2 then (a, v ++ v2) :: r2 else (a, v) :: (a2, v2) :: r2
    | [] => [(a, v)]

/-- Writes runs in order; `via` is the bay whose transfer writes them. -/
def storeRuns (l : List (Nat × List Byte)) (s : State) (via : Option Bay := none) : State :=
  l.foldl (fun (s : State) r => s.store r.1 r.2 6 via) s

/-- The element writes of a byte string through a walk from element p on (R263, R266). -/
def elemRuns (s : State) (d : Desc) (p : Nat) (bs : List Byte) : List (Nat × List Byte) :=
  let e := esz d.etype
  (List.range ((bs.length + e - 1) / e)).map (fun k =>
    let a := d.walk ((p + k) % d.elems)
    (a, redBytes s d a ((bs.drop (e * k)).take e)))

/-- Writes a byte string through a walk from element 0, restarting at its end; a last element covered in part comes after the
whole ones, so that it merges with what they wrote (R266). -/
def streamOut (d : Desc) (bs : List Byte) (s : State) (via : Option Bay := none) : State :=
  let n := bs.length / esz d.etype
  let s := storeRuns (joinRuns (elemRuns s d 0 (bs.take (esz d.etype * n)))) s via
  storeRuns (elemRuns s d n (bs.drop (esz d.etype * n))) s via

/-- e ⊕ s of R270 for the destination's ETYPE. -/
def accum (etype q : Nat) (e v : List Byte) : List Byte :=
  match etype with
  | 5 => leBytes (fadd32 (BitVec.ofNat 32 (leNat e)) (BitVec.ofNat 32 (leNat v))).toNat 4
  | 6 => leBytes ((leNat e % 2 ^ 31 + leNat v % 2 ^ 31) % q) 4
  | _ => leBytes (leNat e + leNat v) e.length

/-- One row of XF.SCAT written into row v of its destination; ACC adds to each element as it stood before the row, so that the
last of elements at one address stands (R269, R270). (DESIGN CHOICE, log 175) -/
def scatRow (b : Bay) (acc : Bool) (y : Desc) (v : Nat) (bs : List Byte) (s : State) : State :=
  let e := esz y.etype
  let put := fun k =>
    let a := y.walk (v * y.size[0] + k)
    let x := (bs.drop (e * k)).take e
    (a, redBytes s y a (if acc then accum y.etype y.q (s.ld a e) x else x))
  storeRuns (joinRuns ((List.range y.size[0]).map put)) s (some b)

/-- What a transfer has done: the state, bytes read and written, null indices, and the read that failed. -/
structure XDone where
  st : State
  rd : Nat
  wr : Nat
  nulls : Nat
  bad : Option (List Nat)

/-- XF.SCAT row by row, until one of its reads is uncorrectable: whole rows before it are written (R274).
(DESIGN CHOICE, log 176) -/
def scatFrom (b : Bay) (s0 : State) (acc : Bool) (i x y : Desc) (r : XDone) (p : Nat) : Nat → XDone
  | 0 => r
  | n + 1 =>
    let v := idxVal s0 i p
    let src := x.addrs (p * y.rowBytes) y.rowBytes
    let dst := if acc ∧ v < y.rows then y.addrs (v * y.rowBytes) y.rowBytes else []
    let need := idxAddrs i p ++ (if v < y.rows then src else []) ++ dst
    if need.any (byteBad r.st) then { r with bad := some need }
    else if v < y.rows then
      scatFrom b s0 acc i x y
        { r with st := scatRow b acc y v (s0.gather src) r.st, rd := r.rd + 4 + src.length + dst.length,
                 wr := r.wr + y.rowBytes } (p + 1) n
    else scatFrom b s0 acc i x y { r with rd := r.rd + 4, nulls := r.nulls + 1 } (p + 1) n

/-- Bytes an output reads. -/
def outReads (l : List OutByte) : Nat := (l.filter (fun o => o.2.isSome)).length

/-- Fills queue entries by ticket; data for a cancelled entry is discarded (R193), and a write-back that waits for one filled is
superseded (R243). -/
def fillQueue (b : Bay) (q : Fin 8) (t : Nat) (es : List (List Byte)) (x : Bays) : Bays :=
  let here := fun e : DqEntry => decide (t ≤ e.ticket) && decide (e.ticket < t + es.length)
  (x.setDq q (x.dq[q].map (fun e => if here e then { e with data := es[e.ticket - t]? } else e))).dqWritten b q
    ((x.dq[q].filter here).map (fun e => e.ticket))

/-- Null indices met before the failing read. -/
def nullsOf (s : State) (i : Desc) (rows n : Nat) : Nat :=
  ((List.range n).filter (fun p => decide (rows ≤ idxVal s i p))).length

/-- A byte string as whole queue entries, the last one zero-padded. -/
def dqChunks (bs : List Byte) (n : Nat) : List (List Byte) :=
  (List.range n).map (fun k => padTo 64 ((bs.drop (64 * k)).take 64))

/-- The data a transfer moves, as it completes (R265, R266, R269, R270, R274). (DESIGN CHOICE, log 40) -/
def runXfer (b : Bay) (s : State) (op : XOp) : XDone :=
  match op with
  | .mov x y =>
    let l := movOut x y.bytes
    let g := goodPart s l
    { st := streamOut y (outBytes s g) s (some b), rd := g.length, wr := g.length, nulls := 0,
      bad := (l[g.length]?).map (fun o => o.1) }
  | .movq x q t n =>
    let l := movOut x (min 2048 x.bytes)
    let g := goodPart s l
    let full := if g.length = l.length then n else g.length / 64
    { st := s.updBay b (fillQueue b q t (dqChunks (outBytes s g) full)), rd := g.length, wr := g.length, nulls := 0,
      bad := (l[g.length]?).map (fun o => o.1) }
  | .gath i x y =>
    let l := gathOut s i x
    let g := goodPart s l
    { st := streamOut y (outBytes s g) s (some b), rd := outReads g + 4 * cdiv4 g.length x.rowBytes, wr := g.length,
      nulls := nullsOf s i x.rows (cdiv4 g.length x.rowBytes), bad := (l[g.length]?).map (fun o => o.1) }
  | .scat acc i x y => scatFrom b s acc i x y ⟨s, 0, 0, 0, none⟩ 0 i.count
  | .ring _ _ => ⟨s, 0, 0, 0, none⟩
where
  /-- Ceiling division. -/
  cdiv4 (a k : Nat) : Nat := (a + k - 1) / k

/-! ### Completion, halts, rings -/

/-- A record of a run has completed; the run's flag when it was the last (R272). -/
def endRecord (no : Nat) (x : Xfer) : Xfer × Option LFlag :=
  match x.runs.find? (fun r => r.no == no) with
  | some r =>
    if r.left ≤ 1 then ({ x with runs := x.runs.filter (fun z => z.no != no) }, r.fd)
    else ({ x with runs := x.runs.map (fun z => if z.no = no then { z with left := z.left - 1 } else z) }, none)
  | none => (x, none)

/-- Notes the completion of a ring record. -/
def recordDone (b : Bay) (no : Nat) (s : State) : State :=
  let r := endRecord no (s.bay b).xf
  putFlagOpt b r.2 (updXf b (fun _ => r.1) s)

/-- Halts the transfer channel; HCODE keeps the fault that halted it where it stands halted already (R274, R275). -/
def haltChannel (b : Bay) (code : Nat) (s : State) : State :=
  channelFault b code (updXf b (fun x => { x with halt := true, hcode := if x.halt then x.hcode else BitVec.ofNat 8 code }) s)

/-- The bytes a transfer reads and those it writes. -/
def XOp.touched (s : State) : XOp → List Nat × List Nat
  | .mov x y => (x.addrs 0 (min x.bytes y.bytes), y.addrs 0 y.bytes)
  | .movq x _ _ _ => (x.addrs 0 (min 2048 x.bytes), [])
  | .gath i x y => ((gathOut s i x).flatMap (fun o => o.1), y.addrs 0 (i.count * x.rowBytes))
  | .scat acc i x y =>
    let rows := (List.range i.count).filter (fun p => decide (idxVal s i p < y.rows))
    let dst := rows.flatMap (fun p => y.addrs (idxVal s i p * y.rowBytes) y.rowBytes)
    ((List.range i.count).flatMap (idxAddrs i) ++ rows.flatMap (fun p => x.addrs (p * y.rowBytes) y.rowBytes) ++
      (if acc then dst else []), dst)
  | .ring _ _ => ([], [])

/-- The requester of R289 a stack sees in bay b's transfer: its own engine, or fabric inbound from another bay (R299). -/
def xfRequester (b : Bay) (need : List Nat) (s : State) : Nat :=
  match firstBad s need with
  | some a => if inStack a && bayAt s a != b.val then 5 else 6
  | none => 6

/-- The counts of OD 0x6060 after a transfer. -/
def Xfer.counted (x : Xfer) (r : XDone) : Xfer :=
  { x with rd := satAdd 64 x.rd r.rd, wr := satAdd 64 x.wr r.wr, nulls := satAdd 64 x.nulls r.nulls }

/-- An active transfer ends: its writes are visible and its flag sets, or its failing read halts the channel (R265,
R274). -/
def finishXfer (b : Bay) (i : Nat) (e : XEntry) (s : State) : State :=
  let l := e.op.touched s
  let r := runXfer b s e.op
  let s := traffic (byteSpans l.1) (byteSpans l.2) <| passPorts b l.1 l.2 (updXf b (fun x => { (x.counted r) with active := x.active.eraseIdx i }) r.st)
  match r.bad with
  | some need => haltChannel b 0x42 (ueBytes need (xfRequester b need s) s)
  | none =>
    let s := putFlagOpt b e.fd s
    match e.run with
    | some no => recordDone b no s
    | none => s

/-- TRANSFER_COMPLETE: active transfer i ends; an uncorrectable word of bay `rb` asks for a repair first (R248, R265). -/
def execTransferComplete (b : Bay) (i : Fin 4) (rb : Bay) (ev : CodeEvent) (s : State) :
    Host.Outcome State Fault Refusal :=
  .next
    (if alive s then
       match (s.bay b).xf.active[i.val]? with
       | some e => guarded rb ev (e.op.touched s).1 (e.op.touched s).2 (finishXfer b i e) s
       | none => s
     else s)

/-- A burst may be fetched: records remain, and the last burst's first record has started (R272). -/
def burstCan (r : RingRun) : Bool :=
  decide (r.fetched < r.d.size[2]) && (r.fetched == 0 || decide (r.fetched < r.started + r.d.size[1]))

/-- Address of record k of a run. -/
def RingRun.addr (r : RingRun) (k : Nat) : Nat := r.d.base + 32 * ((r.d.pos + k) % r.d.size[0])

/-- Addresses of the records of the next burst, and their bytes. -/
def RingRun.burst (r : RingRun) : List Nat :=
  (List.range (min r.d.size[1] (r.d.size[2] - r.fetched))).map (fun k => r.addr (r.fetched + k))

def RingRun.burstBytes (r : RingRun) : List Nat := r.burst.flatMap (fun a => (List.range 32).map (fun j => a + j))

/-- Reads the next burst of a run; an uncorrectable record halts the channel. -/
def fetchBurst (b : Bay) (r : RingRun) (s : State) : State :=
  let n := min r.d.size[1] (r.d.size[2] - r.fetched)
  let as := r.burst
  let bytes := r.burstBytes
  let t := traffic (byteSpans bytes) [] (passPorts b bytes [] s)
  if bytes.any (byteBad s) then haltChannel b 0x42 (ueBytes bytes (xfRequester b bytes s) t)
  else
    updXf b (fun x => { x with ring := some { r with buf := r.buf ++ as.map (fun a => s.ld a 32), fetched := r.fetched + n }
                               rd := satAdd 64 x.rd (32 * n) }) t

/-- RING_BURST_FETCH: the engine reads the next burst of ring records. -/
def execRingBurstFetch (b : Bay) (rb : Bay) (ev : CodeEvent) (s : State) : Host.Outcome State Fault Refusal :=
  .next
    (match (s.bay b).xf.ring with
     | some r => if alive s && !(s.bay b).xf.halt && burstCan r then guarded rb ev r.burstBytes [] (fetchBurst b r) s else s
     | none => s)

/-- What a ring record asks for (R271). -/
inductive RingAct where
  | bad
  | start (op : XOp) (fd : Option LFlag)
  | darm (d1 : Dix) (d : Desc) (fd : Option LFlag)

/-- The descriptors a ring record names. -/
def ringDescs (l : List Byte) : List Dix :=
  let v := leNat l
  let d1 : Dix := Fin.ofNat 2048 (bitsAt v 58 48)
  let d2 : Dix := Fin.ofNat 2048 (bitsAt v 74 64)
  let di : Dix := Fin.ofNat 2048 (bitsAt v 90 80)
  match bitsAt v 3 0 with
  | 1 => [d2, d1]
  | 2 => [di, d2, d1]
  | 3 => [di, d2, d1]
  | 4 => [d1]
  | _ => []

/-- Reads a ring record: malformed, a transfer with its captured descriptors, or a re-arm (R271, R273). -/
def ringAct (b : Bay) (l : List Byte) (s : State) : RingAct :=
  let v := leNat l
  let op := bitsAt v 3 0
  let d1 : Dix := Fin.ofNat 2048 (bitsAt v 58 48)
  let d2 : Dix := Fin.ofNat 2048 (bitsAt v 74 64)
  let di : Dix := Fin.ofNat 2048 (bitsAt v 90 80)
  let fe := v.testBit 16
  let acc := v.testBit 17
  let fdn := bitsAt v 37 32
  let arg := bitsAt v 127 96
  let rsvd := bitsAt v 7 4 + bitsAt v 31 18 + bitsAt v 47 38 + bitsAt v 63 59 + bitsAt v 79 75 + bitsAt v 95 91 +
    bitsAt v 255 128
  let fd : Option LFlag := if fe then some (Fin.ofNat 64 fdn) else none
  if bitsAt v 15 8 ≠ 1 ∨ rsvd ≠ 0 ∨ (fe = false ∧ fdn ≠ 0) ∨ (acc = true ∧ op ≠ 3) ∨ (op ≠ 4 ∧ arg ≠ 0) ∨
      (op = 4 ∧ d2.val ≠ 0) ∨ (op ≠ 2 ∧ op ≠ 3 ∧ di.val ≠ 0) then .bad
  else
    let go := fun o : Option XOp => match o with | some x => RingAct.start x fd | none => .bad
    match op with
    | 1 => go (movOp b d2 d1 s)
    | 2 => go (gathOp b di d2 d1 s)
    | 3 => go (scatOp b acc di d2 d1 s)
    | 4 =>
      match rearmAt b d1 (BitVec.ofNat 32 arg) s with
      | some d => .darm d1 d fd
      | none => .bad
    | _ => .bad

/-- Two ring descriptors are the same creation. -/
def sameRing (a d : Desc) : Bool := a.kind == 3 && { a with base := d.base, pos := d.pos } == d

/-- The position advances by C modulo SIZE0 once the last record has started (R272). -/
def advanceRing (b : Bay) (r : RingRun) (s : State) : State :=
  match descAt b r.ix s with
  | some a =>
    if sameRing a r.d then
      s.updBay b (fun x =>
        { x with desc := Sparse.set (fun _ => none) x.desc r.ix (some { a with pos := (a.pos + a.size[2]) % a.size[0] }) })
    else s
  | none => s

/-- The run after a record has started. -/
def recordStarted (b : Bay) (r : RingRun) (s : State) : State :=
  let r2 := { r with buf := r.buf.drop 1, started := r.started + 1 }
  let s := updXf b (fun x =>
    { x with ring := if r2.started = r.d.size[2] then none else some r2, records := satAdd 64 x.records 1 }) s
  if r2.started = r.d.size[2] then advanceRing b r s else s

/-- The next record of a run starts: a transfer when a slot is free and nothing conflicts, a re-arm at once, or the halt
of the channel with fault 0x43 (R272, R273). A descriptor entry that reads uncorrectable starts nothing and halts the
A-stream with fault 0x44 (R251). (DEDUCED, log 149) -/
def startRecord (b : Bay) (r : RingRun) (l : List Byte) (s : State) : State :=
  let pc := (s.strm b .a).pc
  match descBad b (ringDescs l) s with
  | some o => if aLive b s then trap b .a 0x44 (ueAt 0x12 b o s) else s
  | none =>
  match ringAct b l s with
  | .bad => haltChannel b 0x43 s
  | .start op fd =>
    if xfFits (s.bay b).xf op then
      recordStarted b r (updXf b (fun x => { x with active := x.active ++ [⟨op, fd, some r.no, pc, none⟩] }) s)
    else s
  | .darm d1 d fd => recordDone b r.no (putFlagOpt b fd (recordStarted b r (unpendAll b d1 (putDesc b d1 (some d) s))))

/-- RING_RECORD_START: the next fetched record starts, in order. -/
def execRingRecordStart (b : Bay) (s : State) : Host.Outcome State Fault Refusal :=
  .next
    (match (s.bay b).xf.ring with
     | some r =>
       match r.buf with
       | l :: _ => if alive s && !(s.bay b).xf.halt then startRecord b r l s else s
       | [] => s
     | none => s)

end Sys2Proof.Machine
end

