-- ==== Sys2Proof/Machine/Tiles.lean ====
section
/-! DEFINITION. The matrix tiles: MM. instructions, their starts and completions, and the arithmetic of every mode (R62 to R89, R161). -/

namespace Sys2Proof.Machine

/-! ### Access -/

/-- A tile of a bay. -/
def tileOf (b : Bay) (lt : Lt) (s : State) : Tile := (s.bay b).tiles[lt]

/-- Changes a tile. -/
def updTile (b : Bay) (lt : Lt) (f : Tile → Tile) (s : State) : State :=
  s.updBay b (fun x => { x with tiles := x.tiles.set lt (f x.tiles[lt]) })

/-- A stationary buffer and an output bank by number. -/
def Tile.sbuf (t : Tile) (h : Bool) : SBuf := if h then t.s1 else t.s0

def Tile.setSbuf (t : Tile) (h : Bool) (x : SBuf) : Tile := if h then { t with s1 := x } else { t with s0 := x }

def Tile.bank (t : Tile) (h : Bool) : OBank := if h then t.ob1 else t.ob0

def Tile.setBank (t : Tile) (h : Bool) (x : OBank) : Tile := if h then { t with ob1 := x } else { t with ob0 := x }

/-- TCFG.MODE (R67). -/
def Tile.mode (t : Tile) : Nat := bitsAt t.cfg.toNat 2 0

/-- Both banks are EMPTY. -/
def Tile.banksEmpty (t : Tile) : Bool := t.ob0.st == .empty && t.ob1.st == .empty

/-- Bytes of one stationary or streamed element in a mode (R65). -/
def elemBytes (mode : Nat) : Nat := if mode ≤ 1 then 1 else if mode = 2 then 2 else 4

/-- Elements of a streamed row (R63). -/
def streamLen (mode : Nat) : Nat := if mode = 4 then 64 else 256

/-- Byte offsets of a tile's memories as R453 lays them out: a CPT entry, a stationary word and an output-bank entry. -/
def cptOff (p e : Nat) : Nat := 4096 * p + 16 * e

def sbufOff (p : Nat) (buf : Bool) (row col : Nat) : Nat :=
  0x80000 * p + (if buf then 0x40000 else 0) + 1024 * row + 4 * col

def bankOff (p : Nat) (ob : Bool) (a : Nat) : Nat := 12 * (131072 * p + (if ob then 65536 else 0) + a)

/-! ### Stationary rows -/

/-- The words of a stationary row of 256 elements from its bytes. -/
def rowWords (mode : Nat) (l : List Byte) : List W32 :=
  (List.range 256).map (fun i => BitVec.ofNat 32 (fieldAt l (elemBytes mode * i) (elemBytes mode)))

/-- Writes logical row i; in BCV mode to the four physical rows 4i to 4i + 3, of which there are 64 (R69). -/
def SBuf.putRow (x : SBuf) (mode i : Nat) (w : List W32) : SBuf :=
  if mode = 4 then
    if i < 64 then
      { x with words := (List.range 4).foldl (fun m k => Sparse.setList (fun _ => 0#32) m (256 * (4 * i + k)) w) x.words }
    else x
  else if i < 256 then { x with words := Sparse.setList (fun _ => 0#32) x.words (256 * i) w } else x

/-- A buffer whose load is complete: rows n and above hold zeros (R63). -/
def SBuf.loaded (x : SBuf) (mode n : Nat) : SBuf :=
  let k := if mode = 4 then 4 * n else n
  { st := .loaded, words := Sparse.erase x.words (fun a => decide (256 * k ≤ a)) }

/-- Address bytes of stationary row i of a scratchpad load. -/
def ldsAddrs (d : Desc) (mode i : Nat) : List Nat := d.addrs (256 * elemBytes mode * i) (256 * elemBytes mode)

/-! ### Arithmetic (R64, R80, R84, R161) -/

/-- An 8-bit integer element. -/
def int8Val (uns : Bool) (w : Nat) : Int := if uns then (w % 256 : Nat) else (BitVec.ofNat 8 w).toInt

/-- An F8 element. -/
def f8Val (e5m2 : Bool) (w : Nat) : FV := if e5m2 then e5m2Val (w % 256) else e4m3Val (w % 256)

/-- Leading-bit exponent of a nonzero value. -/
def Dy.lead (d : Dy) : Int := d.e + ((bitSize d.m - 1 : Nat) : Int)

/-- A value truncated toward zero to a multiple of 2^g. -/
def Dy.trunc (d : Dy) (g : Int) : Dy := if g ≤ d.e then d else { d with m := d.m / 2 ^ (g - d.e).toNat, e := g }

/-- The exact products of a column that are finite. -/
def finProducts (l : List FV) : List Dy := l.filterMap (fun v => match v with | .fin d => some d | _ => none)

/-- The sum of a column's products (R161). -/
def colSum (l : List FV) : FV :=
  if l.contains .nan || (l.contains (.inf true) && l.contains (.inf false)) then .nan
  else if l.contains (.inf true) then .inf true
  else if l.contains (.inf false) then .inf false
  else
    let ds := (finProducts l).filter (fun d => d.m != 0)
    match ds with
    | [] => .fin ⟨false, 0, 0⟩
    | d :: r =>
      let emax := (r.map Dy.lead).foldl max d.lead
      FV.sum (ds.map (fun d => .fin (d.trunc (emax - 64))))

/-- rne32 of a bank sum: an exact zero is +0, a nonzero sum keeps its sign though it rounds to zero (R161).
(DESIGN CHOICE, log 156) -/
def bankRound (v : FV) : W32 :=
  match v with
  | .fin d => if d.m = 0 then 0#32 else d.f32
  | v => v.f32

/-- Column c of a stationary buffer: the words of n rows. -/
def SBuf.col (x : SBuf) (c : Nat) (rows : List Nat) : List Nat :=
  rows.map (fun k => (Sparse.get (fun _ => 0#32) x.words (256 * k + c)).toNat)

/-- The new bank entry of one column for one streamed row, and whether it sets the overflow bit (R64, R65, R75). -/
def Tile.cell (t : Tile) (buf acc : Bool) (x : List W32) (c : Nat) (old : BitVec 96) : BitVec 96 × Bool :=
  let cfg := t.cfg
  let col := (t.sbuf buf).col c (if t.mode = 4 then (List.range 64).map (fun i => 4 * i) else List.range 256)
  match t.mode with
  | 0 =>
    let v := ((x.zip col).map (fun p => int8Val (cfg.getLsbD 8) p.1.toNat * int8Val (cfg.getLsbD 9) p.2)).foldl (· + ·) 0
    let e := if acc then (BitVec.ofNat 32 old.toNat).toInt + v else v
    (BitVec.ofNat 96 (BitVec.ofInt 32 e).toNat, decide (e < -2147483648) || decide (2147483647 < e))
  | 1 =>
    let v := colSum ((x.zip col).map (fun p => (f8Val (cfg.getLsbD 10) p.1.toNat).mul (f8Val (cfg.getLsbD 11) p.2)))
    let w := bankRound (if acc then (val32 (BitVec.ofNat 32 old.toNat)).add v else v)
    (BitVec.ofNat 96 w.toNat, !finite32 w)
  | 2 =>
    let v := colSum ((x.zip col).map (fun p => (bf16Val (p.1.toNat % 65536)).mul (bf16Val (p.2 % 65536))))
    let w := bankRound (if acc then (val32 (BitVec.ofNat 32 old.toNat)).add v else v)
    (BitVec.ofNat 96 w.toNat, !finite32 w)
  | _ =>
    let v := ((x.zip col).map (fun p => p.1.toNat % 2 ^ 31 * (p.2 % 2 ^ 31))).foldl (· + ·) 0
    (BitVec.ofNat 96 (if acc then old.toNat + v else v), false)

/-- A bank after one streamed row into row r. (DEDUCED, log 129) -/
def Tile.mulRow (t : Tile) (m : MulRun) (bank : OBank) (r : Nat) (x : List W32) : OBank :=
  let get := fun c => Sparse.get (fun _ => 0#96) bank.ent (256 * r + c)
  if m.quench then { bank with ent := Sparse.erase bank.ent (fun a => decide (a / 256 = r)) }
  else
    let l := (List.range 256).map (fun c => t.cell m.buf m.acc x c (get c))
    { bank with
      ent := Sparse.setList (fun _ => 0#96) bank.ent (256 * r) (l.map (fun p => p.1))
      ovf := bank.ovf || l.any (fun p => p.2) }

/-- A bank after every row of a multiplication. -/
def Tile.mulBank (t : Tile) (m : MulRun) : OBank :=
  (m.rows.zipIdx).foldl (fun bank p => t.mulRow m bank p.2 p.1) (t.bank m.ob)

/-- The word a drain writes for an entry (R65, R75, R82). -/
def Tile.drainWord (t : Tile) (a : Nat) (e : BitVec 96) : W32 :=
  if t.mode = 3 then BitVec.ofNat 32 ((primeAt t.cpt (bitsAt t.cfg.toNat 31 24)).reduce e.toNat)
  else if t.mode = 4 then BitVec.ofNat 32 ((primeAt t.cpt (a % 256)).reduce e.toNat)
  else BitVec.ofNat 32 e.toNat

/-! ### Issue (R78, R79) -/

/-- TSTAT (R77). -/
def sbufCode : BufSt → Nat
  | .empty => 0
  | .loading => 1
  | .loaded => 2
  | .partLoaded => 3

def bankCode : BankSt → Nat
  | .empty => 0
  | .filling => 1
  | .held => 2
  | .draining => 3

def Tile.tstat (t : Tile) : W32 :=
  BitVec.ofNat 32 (t.queue.length + sbufCode t.s0.st * 2 ^ 12 + sbufCode t.s1.st * 2 ^ 14 + (if t.ob0.ovf then 2 ^ 18 else 0) +
    (if t.ob1.ovf then 2 ^ 19 else 0) + bankCode t.ob0.st * 2 ^ 20 + bankCode t.ob1.st * 2 ^ 22)

/-- ST_ROW (R71). -/
def StRow.word (r : StRow) : W32 :=
  BitVec.ofNat 32 (r.desc.toNat + r.row * 2 ^ 16 + (if r.buf then 2 ^ 29 else 0) + (if r.err then 2 ^ 30 else 0) +
    (if r.pend then 2 ^ 31 else 0))

/-- A register MM.STAT copies. -/
def Tile.reg (t : Tile) : TileReg → W32
  | .tcfg => t.cfg
  | .tstat => t.tstat
  | .stRow => t.stRow.word

/-- The queue entry of an instruction issued now. -/
def tileEnt (b : Bay) (op : TileOp) (s : State) : TileEnt :=
  { op := op, seq := (s.bay b).issued, pc := (s.strm b .x).pc, quench := quenched b s, inBr := inBracket b s, wl := none }

/-- Notes one more instruction issued to the units of a bay. -/
def countIssue (b : Bay) (s : State) : State := s.updBay b (fun x => { x with issued := x.issued + 1 })

/-- Puts an instruction into the queues of the tiles of a mask and retires it. -/
def tilePush (b : Bay) (mask : BitVec 8) (op : TileOp) (s : State) : State :=
  let e := tileEnt b op s
  let s := s.updBay b (fun x =>
    { x with tiles := x.tiles.mapFinIdx (fun i t _ => if mask.getLsbD i then { t with queue := t.queue ++ [e] } else t) })
  retire b .x (countIssue b s)

/-- A tile of the mask has no free queue entry. -/
def tilesFull (b : Bay) (mask : BitVec 8) (s : State) : Bool :=
  (List.finRange 8).any (fun lt => mask.getLsbD lt && decide (8 ≤ (tileOf b lt s).queue.length))

/-- The mask of one tile. -/
def ltMask (lt : Lt) : BitVec 8 := BitVec.twoPow 8 lt

/-- Issues an instruction to the queues of a mask, TILE while one of them is full. -/
def tileIssue (b : Bay) (mask : BitVec 8) (c : Instr) (op : TileOp) (s : State) : State :=
  if tilesFull b mask s then stall b .x .tile c 0#32 s else tilePush b mask op s

/-- Issues an instruction that names a descriptor, which is read once the queues have an entry free (R78, R215). -/
def tileIssueD (b : Bay) (mask : BitVec 8) (c : Instr) (d : Dix) (op : Desc → TileOp) (s : State) : State :=
  if tilesFull b mask s then stall b .x .tile c 0#32 s else unitRead b d (fun x => tilePush b mask (op x)) s

/-- The tile has nothing left to complete and both banks EMPTY (R79). -/
def Tile.quiet (t : Tile) : Bool := t.done && t.banksEmpty && t.stopped.isNone

/-- The cause of the wait of MM.CFG and MM.LDP for a quiet tile: TILE behind a bank not EMPTY, else OTHER (R198). -/
def Tile.quietCause (t : Tile) : Cause := if t.banksEmpty then .other else .tile

/-- TCFG written; a change of MODE empties the buffers and clears ST_ROW (R79). -/
def Tile.configure (t : Tile) (imm : W32) : Tile :=
  if bitsAt imm.toNat 2 0 = t.mode then { t with cfg := imm }
  else { t with cfg := imm, s0 := SBuf.reset, s1 := SBuf.reset, stRow := StRow.reset }

/-- MM.CFG: writes TCFG once the tile is idle with both banks EMPTY (R79). (DEDUCED, log 56) -/
def execMmCfg (b : Bay) (lt : Lt) (imm : W32) (s : State) : Host.Outcome State Fault Refusal :=
  .next (issue b .x (.mmCfg b lt imm) []
    (fun s =>
      if (tileOf b lt s).quiet then retire b .x (updTile b lt (fun t => t.configure imm) s)
      else stall b .x (tileOf b lt s).quietCause (.mmCfg b lt imm) 0#32 s) s)

/-- MM.LDP: queues the load of prime records, with the interlock of MM.CFG (R79, R83). -/
def execMmLdp (b : Bay) (lt : Lt) (e m1 : Fin 256) (d : Dix) (s : State) : Host.Outcome State Fault Refusal :=
  .next (issue b .x (.mmLdp b lt e m1 d) []
    (fun s =>
      if (tileOf b lt s).quiet then
        unitRead b d (fun x => tilePush b (ltMask lt) (.ldp e (m1.val + 1) x)) s
      else stall b .x (tileOf b lt s).quietCause (.mmLdp b lt e m1 d) 0#32 s) s)

/-- MM.LDS: queues a stationary load from scratchpad or Tide (R69, R73, R107). -/
def execMmLds (b : Bay) (lt : Lt) (buf resume tide : Bool) (n1 : Fin 256) (d : Dix) (s : State) :
    Host.Outcome State Fault Refusal :=
  .next (issue b .x (.mmLds b lt buf resume tide n1 d) []
    (fun s =>
      if tide then
        tileIssue b (ltMask lt) (.mmLds b lt buf resume tide n1 d) (.lds buf resume tide (n1.val + 1) none 0xFFFF#16) s
      else
        tileIssueD b (ltMask lt) (.mmLds b lt buf resume tide n1 d) d
          (fun x => .lds buf resume tide (n1.val + 1) (some x) (BitVec.ofNat 16 d.val)) s) s)

/-- MM.MUL: queues a multiplication in every tile of its mask (R64, R70). -/
def execMmMul (b : Bay) (mask : BitVec 8) (buf ob acc : Bool) (n1 : Fin 256) (d : Dix) (s : State) :
    Host.Outcome State Fault Refusal :=
  .next (issue b .x (.mmMul b mask buf ob acc n1 d) []
    (tileIssueD b mask (.mmMul b mask buf ob acc n1 d) d (fun x => .mul mask buf ob acc (n1.val + 1) x)) s)

/-- MM.DRAIN: queues a drain (R75). -/
def execMmDrain (b : Bay) (lt : Lt) (ob : Bool) (fd fo : LFlag) (n1 : Fin 256) (d : Dix) (s : State) :
    Host.Outcome State Fault Refusal :=
  .next (issue b .x (.mmDrain b lt ob fd fo n1 d) []
    (tileIssueD b (ltMask lt) (.mmDrain b lt ob fd fo n1 d) d (fun x => .drain ob fd fo (n1.val + 1) x)) s)

/-- MM.CLR: queues the emptying of a bank (R74). -/
def execMmClr (b : Bay) (lt : Lt) (ob : Bool) (s : State) : Host.Outcome State Fault Refusal :=
  .next (issue b .x (.mmClr b lt ob) [] (tileIssue b (ltMask lt) (.mmClr b lt ob) (.clr ob)) s)

/-- MM.STAT: queues the copy of a register into a counter, which is busy until then (R68, R78). -/
def execMmStat (b : Bay) (lt : Lt) (r : TileReg) (cn : Ctr) (s : State) : Host.Outcome State Fault Refusal :=
  .next (issue b .x (.mmStat b lt r cn) [cn]
    (fun s =>
      if tilesFull b (ltMask lt) s then stall b .x .tile (.mmStat b lt r cn) 0#32 s
      else tilePush b (ltMask lt) (.stat r cn) (s.updStrm b .x (fun x => x.mark cn true))) s)

/-! ### Starts (R78) -/

/-- An instruction waits while an earlier one of its tile is still queued: for the same engine in program order, for a
dependency of R78, and behind an MM.STAT, which has no engine to leave the queue for; an MM.LDP leaves it for the load engine.
(DESIGN CHOICE, log 160) -/
def TileOp.behind (op g : TileOp) : Bool :=
  match op, g with
  | .ldp .., _ => true
  | .stat .., _ => true
  | _, .stat .. => true
  | .lds .., .lds .. => true
  | .lds .., .ldp .. => true
  | .lds buf _ _ _ _ _, .mul _ b _ _ _ _ => buf == b
  | .lds .., _ => false
  | .mul .., .mul .. => true
  | .mul .., .ldp .. => false
  | .mul _ buf _ _ _ _, .lds b _ _ _ _ _ => buf == b
  | .mul _ _ ob _ _ _, .drain o _ _ _ _ => ob == o
  | .mul _ _ ob _ _ _, .clr o => ob == o
  | .drain ob _ _ _ _, .mul _ _ o _ _ _ => ob == o
  | .clr ob, .mul _ _ o _ _ _ => ob == o
  | .drain .., .lds .. => false
  | .clr _, .lds .. => false
  | .drain .., .ldp .. => false
  | .clr _, .ldp .. => false
  | .drain .., _ => true
  | .clr _, _ => true

/-- The instruction can start on this tile, as far as its engines, buffers and banks go; what an MM.LDP asks of the tile was met
as it issued (R79). -/
def Tile.can (t : Tile) (op : TileOp) : Bool :=
  t.stopped.isNone &&
  (match op with
   | .ldp _ _ _ => !t.haltLoad && t.load.isNone
   | .lds buf _ _ _ _ _ => !t.haltLoad && t.load.isNone && t.muls.all (fun m => m.buf != buf)
   | .mul _ buf ob _ _ _ => !t.haltWest && (t.sbuf buf).st == .loaded && (t.bank ob).st != .draining
   | .drain ob _ _ _ _ => t.drain.isNone && t.muls.all (fun m => m.ob != ob)
   | .clr ob => t.drain.isNone && t.muls.all (fun m => m.ob != ob)
   | .stat _ _ => t.load.isNone && t.muls.isEmpty && t.drain.isNone)

/-- The tiles an entry starts in. -/
def entTiles (lt : Lt) (op : TileOp) : List Lt :=
  match op with
  | .mul mask _ _ _ _ _ => (List.finRange 8).filter (fun i => mask.getLsbD i)
  | _ => [lt]

/-- A queued entry can start on this tile: no earlier entry holds it back, and the tile has what it needs (R78). -/
def Tile.ready (t : Tile) (e : TileEnt) : Bool :=
  t.queue.any (fun g => g.seq == e.seq) && (t.queue.takeWhile (fun g => g.seq != e.seq)).all (fun g => !e.op.behind g.op) &&
    t.can e.op

/-- A queued entry can start now, in every tile it names (R70, R78, R202, R207). -/
def entCan (b : Bay) (lt : Lt) (e : TileEnt) (s : State) : Bool :=
  unitsRun b s && xLive b s && (entTiles lt e.op).all (fun i => (tileOf b i s).ready e)

/-- The head of a tile's queue can start now. -/
def tileCan (b : Bay) (lt : Lt) (s : State) : Bool := (tileOf b lt s).queue.head?.any (fun e => entCan b lt e s)

/-- The entry of a tile's queue that starts next: the oldest that can (R78). -/
def tileNext (b : Bay) (lt : Lt) (s : State) : Option TileEnt := (tileOf b lt s).queue.find? (fun e => entCan b lt e s)

/-- A tile's queue without an entry. -/
def Tile.pop (t : Tile) (seq : Nat) : Tile := { t with queue := t.queue.filter (fun g => g.seq != seq) }

/-- Takes an entry out of the queues it stands in. -/
def popTiles (b : Bay) (l : List Lt) (seq : Nat) (s : State) : State :=
  l.foldl (fun (s : State) i => updTile b i (fun t => t.pop seq) s) s

/-- The row a stationary load begins at: one from Tide resumes while the stream that fed it is still bound and no row was
delivered since (R73, R107). -/
def Tile.loadFrom (t : Tile) (tide : Tide) (buf resume fromTide : Bool) (dix : BitVec 16) : Nat :=
  let r := t.stRow
  if resume && r.pend && r.buf == buf && r.desc == dix &&
      (!fromTide || tide.streams.any (fun x => x.bound && t.tideKept == some x.sid)) then r.row
  else 0

/-- A tile as a stationary load starts: the buffer is LOADING, its words kept until rows are written, and PEND cleared where
the load names its buffer (R69, R72, R73). -/
def Tile.startLoad (t : Tile) (l : LoadRun) : Tile :=
  { (t.setSbuf l.buf { t.sbuf l.buf with st := .loading }) with
    load := some l
    stRow := if t.stRow.buf = l.buf then { t.stRow with pend := false } else t.stRow
    tideKept := if l.next = 0 then none else t.tideKept }

/-- MM.LDP as it starts: every record is checked before any is written (R83). -/
def runMmLdp (b : Bay) (lt : Lt) (ent : TileEnt) (e m : Nat) (d : Desc) (s : State) : State :=
  let as := d.addrs 0 (16 * m)
  if as.any (byteBad s) then
    haltReadPath b ent.pc ent.seq (ueBytes as 6 (updTile b lt (fun t => { t with haltLoad := true }) s))
  else
    let rs := primeRecs (s.gather as) m
    if rs.all primeOk then
      rewrote b 0x13 (cptOff (physTile s.trust.mapNow b lt) e) (16 * m) (updTile b lt (fun t => { t with cpt := putPrimes t.cpt e rs }) s)
    else haltStream b .x 0x29 ent.pc ent.seq s

/-- The streamed rows an MM.MUL reads. -/
def mulRows (s : State) (d : Desc) (mode n : Nat) : List (List W32) :=
  let k := streamLen mode
  let e := elemBytes mode
  (List.range n).map (fun r =>
    let l := s.gather (d.addrs (k * e * r) (k * e))
    (List.range k).map (fun i => BitVec.ofNat 32 (fieldAt l (e * i) e)))

/-- The block count of a bank's sum once an MM.MUL is added (R76). -/
def OBank.count (x : OBank) (acc : Bool) : Nat := if acc && x.st != .empty then x.cnt + 1 else 1

/-- A tile as an MM.MUL starts: its bank FILLING, its sum counted; a bank still EMPTY reads as zeros, so nothing is read from it
to add to (R64, R74, R76). -/
def Tile.startMul (t : Tile) (m : MulRun) : Tile :=
  let x := t.bank m.ob
  { (t.setBank m.ob { x with st := .filling, cnt := x.count m.acc }) with muls := t.muls ++ [{ m with acc := m.acc && x.st != .empty }] }

/-- MM.MUL as it starts in every tile of its mask (R70, R74, R76, R89). -/
def runMmMul (b : Bay) (lt : Lt) (ent : TileEnt) (mask : BitVec 8) (buf ob acc : Bool) (n : Nat) (d : Desc) (s : State) :
    State :=
  let ts : List Lt := (List.finRange 8).filter (fun i => mask.getLsbD i)
  let mode := (tileOf b lt s).mode
  let modular := mode == 3 || mode == 4
  let as := d.addrs 0 (streamLen mode * elemBytes mode * n)
  if ts.any (fun i => (tileOf b i s).mode != mode) then haltStream b .x 0x2B ent.pc ent.seq s
  else if modular && ts.any (fun i => decide (262144 < ((tileOf b i s).bank ob).count acc)) then
    haltStream b .x 0x2A ent.pc ent.seq s
  else if !ent.quench && as.any (byteBad s) then
    haltReadPath b ent.pc ent.seq (ueBytes as 6 (ts.foldl (fun (s : State) i => updTile b i (fun t => { t with haltWest := true }) s) s))
  else
    let rows := if ent.quench then List.replicate n [] else mulRows s d mode n
    ts.foldl (fun (s : State) i => updTile b i (fun t => t.startMul ⟨buf, ob, acc, rows, ent.seq, ent.pc, ent.quench⟩) s) s

/-- An entry of a tile's queue starts; a BCV load takes at most 64 rows (R220). (DEDUCED, log 39) -/
def startTile (b : Bay) (lt : Lt) (ent : TileEnt) (s : State) : State :=
  let s := popTiles b (entTiles lt ent.op) ent.seq s
  match ent.op with
  | .ldp e m d => runMmLdp b lt ent e m d s
  | .lds buf resume tide n d dix =>
    let next := (tileOf b lt s).loadFrom (s.bay b).tide buf resume tide dix
    let n := if (tileOf b lt s).mode = 4 then min n 64 else n
    updTile b lt (fun t => t.startLoad
      { buf := buf, tide := tide, next := next, n := n, d := d, dix := dix, seq := ent.seq, pc := ent.pc,
        quench := ent.quench, inBr := ent.inBr, wl := none
        fed := if next = 0 then none else (tileOf b lt s).tideKept }) s
  | .mul mask buf ob acc n d => runMmMul b lt ent mask buf ob acc n d s
  | .drain ob fd fo n d =>
    updTile b lt (fun t =>
      { (t.setBank ob { t.bank ob with st := .draining }) with drain := some ⟨ob, fd, fo, n, d, ent.seq, ent.pc, ent.quench⟩ }) s
  | .clr ob => updTile b lt (fun t => t.setBank ob OBank.reset) s
  | .stat r cn => landCtr b .x cn ((tileOf b lt s).reg r) s

/-- The scratchpad bytes an entry reads as it starts. -/
def startAddrs (mode : Nat) (ent : TileEnt) : List Nat :=
  match ent.op with
  | .ldp _ m d => d.addrs 0 (16 * m)
  | .mul _ _ _ _ n d => if ent.quench then [] else d.addrs 0 (streamLen mode * elemBytes mode * n)
  | _ => []

/-- TILE_INSTR_START: the oldest instruction of a tile's queue that can start does, on its engine (R78).
(DESIGN CHOICE, log 6) -/
def execTileInstrStart (b : Bay) (lt : Lt) (ev : CodeEvent) (s : State) : Host.Outcome State Fault Refusal :=
  .next
    (match tileNext b lt s with
     | some ent => guarded b ev (startAddrs (tileOf b lt s).mode ent) [] (startTile b lt ent) s
     | none => s)

/-! ### Completions -/

/-- Rows a scratchpad load can still write before the first uncorrectable row. -/
def goodRows (s : State) (d : Desc) (mode lo hi : Nat) : Nat :=
  ((List.range (hi - lo)).takeWhile (fun i => !(ldsAddrs d mode (lo + i)).any (byteBad s))).length

/-- A buffer with rows lo to lo + n - 1 of a scratchpad load written. -/
def SBuf.fill (x : SBuf) (s : State) (d : Desc) (mode lo n : Nat) (quench : Bool) : SBuf :=
  (List.range n).foldl (fun x i =>
    x.putRow mode (lo + i)
      (if quench then List.replicate 256 0#32 else rowWords mode (s.gather (ldsAddrs d mode (lo + i))))) x

/-- A tile whose load stopped at a row: the buffer PARTIAL, ST_ROW recorded (R71, R72). -/
def Tile.interrupt (t : Tile) (l : LoadRun) (row : Nat) (err : Bool) (x : SBuf) : Tile :=
  { (t.setSbuf l.buf { x with st := .partLoaded }) with
    load := none
    stRow := { pend := true, err := err, buf := l.buf, row := row, desc := l.dix } }

/-- Logical rows of a stationary buffer are written, in BCV mode four physical rows each (R69, R243). -/
def rowsWritten (b : Bay) (lt : Lt) (mode : Nat) (buf : Bool) (row n : Nat) (s : State) : State :=
  let k := if mode = 4 then 4 else 1
  rewrote b 0x15 (sbufOff (physTile s.trust.mapNow b lt) buf (k * row) 0) (1024 * (k * n)) s

/-- A stationary load ends: its last row written, or stopped at a failing row (R69, R72). -/
def finishLoad (b : Bay) (lt : Lt) (l : LoadRun) (s : State) : State :=
  let t := tileOf b lt s
  match l.d with
  | some d =>
    let k := if l.quench then l.n - l.next else goodRows s d t.mode l.next l.n
    let x := (t.sbuf l.buf).fill s d t.mode l.next k l.quench
    let s := rowsWritten b lt t.mode l.buf l.next k s
    if l.next + k < l.n then
      channelFault b 0x42 (ueBytes (ldsAddrs d t.mode (l.next + k)) 6
        (updTile b lt (fun t => { (t.interrupt l (l.next + k) true x) with haltLoad := true }) s))
    else updTile b lt (fun t => { (t.setSbuf l.buf (x.loaded t.mode l.n)) with load := none }) s
  | none =>
    if l.n ≤ l.next then updTile b lt (fun t => { (t.setSbuf l.buf ((t.sbuf l.buf).loaded t.mode l.n)) with load := none }) s
    else s

/-- The scratchpad bytes a stationary load reads from its next row on. -/
def LoadRun.addrs (l : LoadRun) (mode : Nat) : List Nat :=
  match l.d with
  | some d =>
    if l.quench then [] else (List.range (l.n - l.next)).flatMap (fun i => ldsAddrs d mode (l.next + i))
  | none => []

/-- STATIONARY_LOAD_COMPLETE: a stationary load writes its last row and the buffer is LOADED. -/
def execStationaryLoadComplete (b : Bay) (lt : Lt) (ev : CodeEvent) (s : State) : Host.Outcome State Fault Refusal :=
  .next
    (match (tileOf b lt s).load with
     | some l => if alive s then guarded b ev (l.addrs (tileOf b lt s).mode) [] (finishLoad b lt l) s else s
     | none => s)

/-- A bank once its oldest multiplication is over: HELD unless another is in flight. -/
def Tile.endMul (t : Tile) (m : MulRun) (x : OBank) : Tile :=
  let r := t.muls.drop 1
  { (t.setBank m.ob { x with st := if r.any (fun z => z.ob == m.ob) then .filling else .held }) with muls := r }

/-- The stationary words, and the bank entries it adds to, that a multiplication reads in physical tile `p`, none when quenched
(R64, R80, R243). (DESIGN CHOICE, log 147; DEDUCED, log 190) -/
def MulRun.units (m : MulRun) (p : Nat) : List (Nat × Nat) :=
  if m.quench then []
  else
    (List.range 65536).map (fun a => (0x15, sbufOff p m.buf (a / 256) (a % 256))) ++
      (if m.acc then (List.range (256 * m.rows.length)).map (fun a => (4, bankOff p m.ob a)) else [])

/-- The oldest multiplication of a tile completes; an uncorrectable stationary byte, or bank entry
it adds to, writes no row (R78, R89, R251). (DESIGN CHOICE, log 190) -/
def finishMul (b : Bay) (lt : Lt) (m : MulRun) (ev : CodeEvent) (s : State) : State :=
  let p := physTile s.trust.mapNow b lt
  let l := m.units p
  match metUnit b ev l s with
  | some u => haltStream b .x (unitFault u.1) m.pc m.seq (ueAt u.1 b u.2 (updTile b lt (fun t => t.endMul m (t.bank m.ob)) s))
  | none =>
    rewrote b 4 (bankOff p m.ob 0) (3072 * m.rows.length) (updTile b lt (fun t => t.endMul m (t.mulBank m)) (noteFixed b ev l s))

/-- MM_MUL_COMPLETE: the oldest multiplication of a tile completes and its rows are in the bank. -/
def execMmMulComplete (b : Bay) (lt : Lt) (ev : CodeEvent) (s : State) : Host.Outcome State Fault Refusal :=
  .next
    (match (tileOf b lt s).muls with
     | m :: _ => if alive s then finishMul b lt m ev s else s
     | [] => s)

/-- The bytes a drain writes for the first k entries of its bank. -/
def Tile.drainBytes (t : Tile) (r : DrainRun) (k : Nat) : List Byte :=
  (List.range k).flatMap (fun a =>
    leBytes (if r.quench then 0 else (t.drainWord a (Sparse.get (fun _ => 0#96) (t.bank r.ob).ent a)).toNat) 4)

/-- The CPT and output-bank entries a drain reads in physical tile `p`, none when quenched. (DESIGN CHOICE, log 147) -/
def Tile.drainUnits (t : Tile) (p : Nat) (r : DrainRun) : List (Nat × Nat) :=
  if r.quench then []
  else
    (if t.mode = 3 then [(0x13, cptOff p (bitsAt t.cfg.toNat 31 24))]
     else if t.mode = 4 then (List.range 256).map (fun c => (0x13, cptOff p c)) else []) ++
      (List.range (256 * r.n)).map (fun a => (4, bankOff p r.ob a))

/-- Words a drain writes before an uncorrectable unit: those before a failing bank entry, none at a failing CPT entry (R89).
(DEDUCED, log 38) -/
def drainPart (u : Nat × Nat) : Nat := if u.1 = 4 then u.2 / 12 % 65536 else 0

/-- A drain ends: words written, Fd set, then Fo written, and the bank EMPTY; or stopped with the bank HELD (R75, R89).
Where Fd and Fo name one flag, Fo's value stands. (DEDUCED, log 38; DESIGN CHOICE, log 148) -/
def finishDrain (b : Bay) (lt : Lt) (r : DrainRun) (ev : CodeEvent) (s : State) : State :=
  let t := tileOf b lt s
  let l := t.drainUnits (physTile s.trust.mapNow b lt) r
  match metUnit b ev l s with
  | some u =>
    haltStream b .x (unitFault u.1) r.pc r.seq (ueAt u.1 b u.2
      (updTile b lt (fun t => { (t.setBank r.ob { t.bank r.ob with st := .held }) with drain := none })
        (streamOut r.d (t.drainBytes r (drainPart u)) s)))
  | none =>
    let s := noteFixed b ev l s
    let t := tileOf b lt s
    let s := streamOut r.d (t.drainBytes r (256 * r.n)) s
    let s := updTile b lt (fun t => { (t.setBank r.ob OBank.reset) with drain := none }) s
    putFlag b r.fo ((t.bank r.ob).ovf && !r.quench) (putFlag b r.fd true s)

/-- MM_DRAIN_COMPLETE: a drain writes its last word, sets Fd and Fo and empties the bank. -/
def execMmDrainComplete (b : Bay) (lt : Lt) (ev : CodeEvent) (s : State) : Host.Outcome State Fault Refusal :=
  .next
    (match (tileOf b lt s).drain with
     | some r => if alive s then guarded b ev [] (r.d.addrs 0 (1024 * r.n)) (finishDrain b lt r ev) s else s
     | none => s)

end Sys2Proof.Machine
end

