-- ==== Sys2Proof/Machine/Ring.lean ====
section
/-! DEFINITION. The ring NTT unit and the lookup-table banks (R85, R127 to R140). -/

namespace Sys2Proof.Machine

/-! ### Modular arithmetic and the canonical root (R85) -/

/-- No divisor of q from d upward in steps of 2 has its square at most q. -/
def noDivisor (q d : Nat) : Nat → Bool
  | 0 => true
  | fuel + 1 => if q < d * d then true else if q % d = 0 then false else noDivisor q (d + 2) fuel

/-- q is prime, for q below 2^32. (DEDUCED, log 18) -/
def isPrime32 (q : Nat) : Bool := q == 2 || (decide (2 < q) && q % 2 == 1 && noDivisor q 3 32768)

/-- Some x with x^n ≡ q - 1, found through the powers of small bases. -/
def someRoot (q n g : Nat) : Nat → Option Nat
  | 0 => none
  | fuel + 1 =>
    let r := powMod q g 64 ((q - 1) / (2 * n))
    if powMod q r 64 n = q - 1 then some r else someRoot q n (g + 1) fuel

/-- The least of r, r^3, r^5, …: the odd powers of one root are all the roots. -/
def leastRoot (q r2 : Nat) (x best : Nat) : Nat → Nat
  | 0 => best
  | fuel + 1 => leastRoot q r2 (x * r2 % q) (min best x) fuel

/-- The canonical root of a prime q for ring degree n (R85); none where q is no prime or has no such root.
(DESIGN CHOICE, log 35) -/
def canonRoot (q n : Nat) : Option Nat :=
  if isPrime32 q && (q - 1) % (2 * n) == 0 then
    (someRoot q n 2 2000).map (fun r => leastRoot q (r * r % q) r r n)
  else none

/-- The powers 1, x, x², … of x mod q, k of them. -/
def powers (q x : Nat) (p : Nat) : Nat → List Nat
  | 0 => []
  | k + 1 => p :: powers q x (p * x % q) k

/-- The value at x of a polynomial given by its coefficients, lowest first. -/
def evalPoly (q x : Nat) (l : List Nat) : Nat := l.foldr (fun a acc => (a + x * acc) % q) 0

/-- The negacyclic transform in the order of R85: word m is a(ψ^(2m+1)). -/
def nttFwd (q psi : Nat) (l : List Nat) : List Nat :=
  (powers q (psi * psi % q) psi l.length).map (fun x => evalPoly q x l)

/-- The inverse transform, with the factor N^-1: word k is N^-1 Σ A[m] ψ^(-k(2m+1)). -/
def nttInv (q psi : Nat) (l : List Nat) : List Nat :=
  let n := l.length
  let inv := powMod q psi 64 (2 * n - 1)
  let ninv := powMod q (n % q) 64 (q - 2)
  let w := powers q (inv * inv % q) 1 n
  let t := powers q inv 1 n
  (w.zip t).map (fun p => ninv * (p.2 * evalPoly q p.1 l % q) % q)

/-! ### The unit's registers and accumulators (R127) -/

/-- Fields of NT_CFG. -/
def Nt.n (x : Nt) : Nat := 2 ^ bitsAt x.cfg.toNat 3 0
def Nt.tlog (x : Nt) : Nat := bitsAt x.cfg.toNat 15 12
def Nt.glog (x : Nt) : Nat := bitsAt x.cfg.toNat 19 16
def Nt.dd (x : Nt) : Nat := bitsAt x.cfg.toNat 23 20 + 1

/-- The modulus. -/
def Nt.q (x : Nt) : Nat := x.prime.q.toNat

/-- Component c of an accumulator. -/
def Nt.poly (x : Nt) (ac : Bool) (c : Nat) : List Nat :=
  (Sparse.getList (fun _ => 0#32) x.acc (4096 * ((if ac then 2 else 0) + c)) x.n).map (fun w => w.toNat)

/-- Writes component c of an accumulator. -/
def Nt.putPoly (x : Nt) (ac : Bool) (c : Nat) (l : List Nat) : Nt :=
  { x with acc := Sparse.setList (fun _ => 0#32) x.acc (4096 * ((if ac then 2 else 0) + c)) (l.map (BitVec.ofNat 32)) }

/-- Multiplies a polynomial of n coefficients by X^e modulo X^n + 1 (R129). -/
def rotPoly (q e : Nat) (l : List Nat) : List Nat :=
  let n := l.length
  (List.range n).map (fun k =>
    let j := (k + 2 * n - e % (2 * n)) % (2 * n)
    if j < n then l.getD j 0 else (q - l.getD (j - n) 0 % q) % q)

/-- The gadget digits of a value (R129). -/
def gadget (glog : Nat) (v : Int) : Nat → List Int
  | 0 => []
  | 1 => [v]
  | k + 1 =>
    let m := v % (2 ^ glog : Nat)
    let g := if (2 ^ (glog - 1) : Nat) ≤ m then m - (2 ^ glog : Nat) else m
    g :: gadget glog ((v - g) / (2 ^ glog : Nat)) k

/-- A residue as a signed value. -/
def centred (q y : Nat) : Int := if y < (q + 1) / 2 then y else (y : Int) - q

/-- The digit polynomials of one component (R129). -/
def digitPolys (q glog dd : Nat) (y : List Nat) : List (List Nat) :=
  let ds := y.map (fun v => gadget glog (centred q v) dd)
  (List.range dd).map (fun i => ds.map (fun d => ((d.getD i 0) % (q : Int)).toNat))

/-- The 2D digit polynomials of NT.STEP before their transform. -/
def Nt.digits (x : Nt) (ac : Bool) (e : Nat) : List (List Nat) :=
  (List.range 2).flatMap (fun c =>
    let a := (x.poly ac c).map (fun v => v % x.q)
    let y := ((rotPoly x.q e a).zip a).map (fun p => (p.1 + x.q - p.2) % x.q)
    digitPolys x.q x.glog x.dd y)

/-- The test polynomial of R132 from a table. -/
def testPoly (q n tlog : Nat) (t : Nat → Nat) : List Nat :=
  let tt := 2 ^ tlog
  let delta := q / (2 * tt)
  let w := n / tt
  (List.range n).map (fun j =>
    let i := (j + w / 2) / w
    if i < tt then delta * (t i % tt) % q else (q - delta * (t 0 % tt) % q) % q)

/-! ### Issue (R128, R130) -/

/-- Changes the ring NTT unit of a bay. -/
def updNt (b : Bay) (f : Nt → Nt) (s : State) : State := s.updBay b (fun x => { x with nt := f x.nt })

/-- Puts an instruction into the NT. queue and retires it. -/
def ntPush (b : Bay) (o : NtOp) (s : State) : State :=
  let e : NtEnt := { op := o, seq := (s.bay b).issued, pc := (s.strm b .x).pc, quench := quenched b s, wl := none }
  retire b .x (countIssue b (updNt b (fun x => { x with queue := x.queue ++ [e] }) s))

/-- Issues an instruction into the NT. queue: NTT while it is full, then its descriptors are read, with fault 0x43 for one it
may not use (R130, R215). -/
def ntIssue (b : Bay) (c : Instr) (rs : List Ctr) (ds : List Dix) (op : State → Option NtOp) (s : State) : State :=
  issue b .x c rs
    (fun s =>
      if 4 ≤ (s.bay b).nt.queue.length then stall b .x .ntt c 0#32 s
      else
        descRead b .x ds (fun s =>
          match op s with
          | none => trap b .x 0x43 s
          | some o => ntPush b o s) s) s

/-- The bay runs a REFRESH operation now (R132). -/
def inRefresh (b : Bay) (s : State) : Bool :=
  match curOf b s with
  | some o => o.kind == 6
  | none => false

/-- NT.CFG: queues the write of NT_CFG. -/
def execNtCfg (b : Bay) (imm : W32) (s : State) : Host.Outcome State Fault Refusal :=
  .next (ntIssue b (.ntCfg b imm) [] [] (fun _ => some (.cfg imm)) s)

/-- NT.LDP: queues the load of the prime record. -/
def execNtLdp (b : Bay) (d : Dix) (s : State) : Host.Outcome State Fault Refusal :=
  .next (ntIssue b (.ntLdp b d) [] [d] (fun s => (unitDesc b d s).map .ldp) s)

/-- NT.FWD: queues a forward transform. -/
def execNtFwd (b : Bay) (fd : LFlag) (d2 d1 : Dix) (s : State) : Host.Outcome State Fault Refusal :=
  .next (ntIssue b (.ntFwd b fd d2 d1) [] [d2, d1]
    (fun s => (unitDesc b d2 s).bind (fun x => (unitDesc b d1 s).map (fun y => .fwd fd x y))) s)

/-- NT.INV: queues an inverse transform. -/
def execNtInv (b : Bay) (fd : LFlag) (d2 d1 : Dix) (s : State) : Host.Outcome State Fault Refusal :=
  .next (ntIssue b (.ntInv b fd d2 d1) [] [d2, d1]
    (fun s => (unitDesc b d2 s).bind (fun x => (unitDesc b d1 s).map (fun y => .inv fd x y))) s)

/-- NT.TV: queues the setting of an accumulator to a rotated test polynomial, from the bank active now: a lookup in flight
finishes on the old bank though the banks flip meanwhile (R132, R140). (DESIGN CHOICE, log 169) -/
def execNtTv (b : Bay) (ac ident : Bool) (slot : Fin 16) (cb : Ctr) (s : State) : Host.Outcome State Fault Refusal :=
  .next (ntIssue b (.ntTv b ac ident slot cb) [cb] []
    (fun s => some (.tv ac (if ident then none else some ((s.bay b).tbl.act, slot)) (ctrOf b .x cb s) (inRefresh b s))) s)

/-- NT.STEP: queues the digit polynomials of a blind-rotation step. -/
def execNtStep (b : Bay) (ac : Bool) (fd : LFlag) (ce : Ctr) (d1 : Dix) (s : State) : Host.Outcome State Fault Refusal :=
  .next (ntIssue b (.ntStep b ac fd ce d1) [ce] [d1]
    (fun s => (unitDesc b d1 s).map (fun y => .step ac fd (ctrOf b .x ce s) y)) s)

/-- NT.ACC: queues the addition of two inverse-transformed polynomials. -/
def execNtAcc (b : Bay) (ac : Bool) (fd : LFlag) (d2 : Dix) (s : State) : Host.Outcome State Fault Refusal :=
  .next (ntIssue b (.ntAcc b ac fd d2) [] [d2] (fun s => (unitDesc b d2 s).map (fun x => .acc ac fd x)) s)

/-- NT.OUT: queues the writing of an accumulator. -/
def execNtOut (b : Bay) (ac : Bool) (fd : LFlag) (d1 : Dix) (s : State) : Host.Outcome State Fault Refusal :=
  .next (ntIssue b (.ntOut b ac fd d1) [] [d1] (fun s => (unitDesc b d1 s).map (fun y => .out ac fd y)) s)

/-! ### Start and completion -/

/-- Scratchpad bytes an NT. instruction reads. -/
def NtOp.reads (o : NtOp) (x : Nt) : List Nat :=
  match o with
  | .ldp d => d.addrs 0 16
  | .fwd _ d _ => d.addrs 0 (4 * x.n)
  | .inv _ d _ => d.addrs 0 (4 * x.n)
  | .acc _ _ d => d.addrs 0 (8 * x.n)
  | .cfg _ => []
  | .tv .. => []
  | .step .. => []
  | .out .. => []

/-- Scratchpad bytes an NT. instruction writes. -/
def NtOp.writes (o : NtOp) (x : Nt) : List Nat :=
  match o with
  | .fwd _ _ d => d.addrs 0 (4 * x.n)
  | .inv _ _ d => d.addrs 0 (4 * x.n)
  | .step _ _ _ d => d.addrs 0 (8 * x.dd * x.n)
  | .out _ _ d => d.addrs 0 (8 * x.n)
  | .cfg _ => []
  | .ldp _ => []
  | .tv .. => []
  | .acc .. => []

/-- The prime record, and the words of an accumulator, as Id and byte offset (R453). -/
def ntPrimeUnit : Nat × Nat := (0x13, 0x11000)

def accUnits (x : Nt) (ac : Bool) : List (Nat × Nat) :=
  (List.range 2).flatMap (fun c =>
    (List.range x.n).map (fun k => (0x13, 0x20000 + (if ac then 0x8000 else 0) + 0x4000 * c + 4 * k)))

/-- The entries NT.TV reads of a slot of its bank; none for the identity (R132, R453). -/
def tvUnits (x : Nt) (slot : Option (Bool × Fin 16)) (refresh : Bool) : List (Nat × Nat) :=
  match slot with
  | some (k1, k) =>
    if refresh then []
    else (List.range (2 ^ x.tlog)).map (fun i => (0x14, (if k1 then 0x8000 else 0) + 2048 * k.val + 2 * i))
  | none => []

/-- Units of small memories an NT. instruction reads (R251, R453). -/
def NtOp.units (o : NtOp) (x : Nt) : List (Nat × Nat) :=
  match o with
  | .cfg _ => []
  | .ldp _ => []
  | .fwd .. => [ntPrimeUnit]
  | .inv .. => [ntPrimeUnit]
  | .tv _ slot _ refresh => [ntPrimeUnit] ++ tvUnits x slot refresh
  | .step ac .. => [ntPrimeUnit] ++ accUnits x ac
  | .acc ac .. => [ntPrimeUnit] ++ accUnits x ac
  | .out ac .. => accUnits x ac

/-- The instruction reads ciphertext data, so that it writes zeros when quenched (R130, log 17). (DEDUCED, log 17) -/
def NtOp.cipher : NtOp → Bool
  | .fwd .. => true
  | .inv .. => true
  | .step .. => true
  | .acc .. => true
  | .out .. => true
  | .cfg _ => false
  | .ldp _ => false
  | .tv .. => false

/-- The head of the NT. queue can start now (R130). -/
def ntCan (b : Bay) (s : State) : Bool :=
  let x := (s.bay b).nt
  unitsRun b s && xLive b s && !x.halt && x.run.isNone && !x.queue.isEmpty

/-- An NT. instruction's read meets an uncorrectable word: the read path halts (R251). -/
def ntUe (b : Bay) (e : NtEnt) (l : List Nat) (s : State) : State :=
  haltReadPath b e.pc e.seq (ueBytes l 6 (updNt b (fun x => { x with halt := true, run := none }) s))

/-- An entry reads nothing of ciphertext data: it is quenched. (DESIGN CHOICE, log 147) -/
def NtEnt.idle (e : NtEnt) : Bool := e.quench && e.op.cipher

/-- The head of the NT. queue starts and its entry is free: fault 0x29 for a digit length that is too short, read before
anything (R129); faults of its reads (R251). (DESIGN CHOICE, log 168) -/
def startNt (b : Bay) (e : NtEnt) (ev : CodeEvent) (s : State) : State :=
  let x := (s.bay b).nt
  let s := updNt b (fun x => { x with queue := x.queue.drop 1 }) s
  let short := match e.op with
    | .step .. => decide (x.dd * x.glog < x.prime.mlen.toNat)
    | _ => false
  let l := if e.idle then [] else e.op.reads x
  if short then haltStream b .x 0x29 e.pc e.seq s
  else
    withUnits b e.pc e.seq ev (if e.idle then [] else e.op.units x)
      (fun s => if l.any (byteBad s) then ntUe b e l s else updNt b (fun x => { x with run := some e }) s) s

/-- NT_INSTR_START: the next queued NT. instruction starts when the unit is free. -/
def execNtInstrStart (b : Bay) (ev : CodeEvent) (s : State) : Host.Outcome State Fault Refusal :=
  .next
    (match (s.bay b).nt.queue with
     | e :: _ =>
       if ntCan b s then
         guarded b ev (if e.idle then [] else e.op.reads (s.bay b).nt) (e.op.writes (s.bay b).nt) (startNt b e ev) s
       else s
     | [] => s)

/-- A list of polynomials transformed; free words where the modulus has no canonical root, so that the specification
states no transform. -/
def transformed (f : Nat → Nat → List Nat → List Nat) (q n : Nat) (ls : List (List Nat)) (s : State) :
    List (List Nat) × State :=
  match canonRoot q n with
  | some psi => (ls.map (f q psi), s)
  | none => (ls.zipIdx.map (fun p => (List.range n).map (fun i => Config.freeNat (s.free + n * p.2 + i) % 2 ^ 32)), drew (n * ls.length) s)

/-- Words read through a descriptor: bits [30:0] mod q, also of a word with bit 31 set or not below q.
(DESIGN CHOICE, log 167) -/
def polyAt (s : State) (d : Desc) (q w n : Nat) : List Nat := (s.walkWords d w n).map (fun x => x.toNat % 2 ^ 31 % q)

/-- Writes polynomials one after another through a descriptor. -/
def putPolys (d : Desc) (ls : List (List Nat)) (s : State) : State :=
  streamOut d (ls.flatten.flatMap (fun v => leBytes v 4)) s

/-- The table NT.TV reads: the identity, or a slot of the bank that was active as it issued (R132, R140).
(DESIGN CHOICE, log 185) -/
def tvTable (t : Tbl) (slot : Option (Bool × Fin 16)) (refresh : Bool) (i : Nat) : Nat :=
  match slot with
  | some (k1, k) => if refresh then i else (Sparse.get tblDefault t.ent ((if k1 then 16384 else 0) + 1024 * k.val + i)).toNat
  | none => i

/-- What a completing NT. instruction does under RUN (R128, R129, R132). -/
def ntRun (b : Bay) (op : NtOp) (s : State) : State :=
  let x := (s.bay b).nt
  let q := x.q
  let n := x.n
  match op with
  | .cfg imm => updNt b (fun x => { x with cfg := imm }) s
  | .ldp _ => s
  | .fwd _ src dst =>
    let r := transformed nttFwd q n [polyAt s src q 0 n] s
    putPolys dst r.1 r.2
  | .inv _ src dst =>
    let r := transformed nttInv q n [polyAt s src q 0 n] s
    putPolys dst r.1 r.2
  | .tv ac slot bt refresh =>
    let tv := testPoly q n x.tlog (tvTable (s.bay b).tbl slot refresh)
    updNt b (fun x =>
      (x.putPoly ac 0 (rotPoly q (2 * n - bt.toNat % (2 * n)) tv)).putPoly ac 1 (List.replicate n 0)) s
  | .step ac _ e dst =>
    let r := transformed nttFwd q n (x.digits ac e.toNat) s
    putPolys dst r.1 r.2
  | .acc ac _ src =>
    let r := transformed nttInv q n [polyAt s src q 0 n, polyAt s src q n n] s
    let sum := fun c => (((x.poly ac c).zip (r.1.getD c [])).map (fun p => (p.1 + p.2) % q))
    updNt b (fun x => (x.putPoly ac 0 (sum 0)).putPoly ac 1 (sum 1)) r.2
  | .out ac _ dst => putPolys dst [x.poly ac 0, x.poly ac 1] s

/-- What it does in a quenched bracket: zeros to its destination (R53, R130). -/
def ntZero (b : Bay) (op : NtOp) (s : State) : State :=
  let x := (s.bay b).nt
  let z := List.replicate x.n 0
  match op with
  | .fwd _ _ dst => putPolys dst [z] s
  | .inv _ _ dst => putPolys dst [z] s
  | .step _ _ _ dst => putPolys dst (List.replicate (2 * x.dd) z) s
  | .acc ac _ _ => updNt b (fun x => (x.putPoly ac 0 z).putPoly ac 1 z) s
  | .out _ _ dst => putPolys dst [z, z] s
  | .cfg _ => s
  | .ldp _ => s
  | .tv .. => s

/-- The flag an NT. instruction sets. -/
def NtOp.flag : NtOp → Option LFlag
  | .fwd f _ _ => some f
  | .inv f _ _ => some f
  | .step _ f _ _ => some f
  | .acc _ f _ => some f
  | .out _ f _ => some f
  | .cfg _ => none
  | .ldp _ => none
  | .tv .. => none

/-- NT.LDP as it completes: the record checked and loaded, or fault 0x29 (R128). -/
def ntLdp (b : Bay) (e : NtEnt) (d : Desc) (s : State) : State :=
  let r := PrimeRec.ofNat (leNat (s.gather (d.addrs 0 16)))
  if primeOk r then rewrote b 0x13 0x11000 16 (updNt b (fun x => { x with prime := r.1 }) s) else haltStream b .x 0x29 e.pc e.seq s

/-- The accumulator an NT. instruction wrote supersedes what waits to be written back to it (R243). -/
def accWritten (b : Bay) (op : NtOp) (s : State) : State :=
  match op with
  | .tv ac _ _ _ => rewrote b 0x13 (if ac then 0x28000 else 0x20000) 0x8000 s
  | .acc ac _ _ => rewrote b 0x13 (if ac then 0x28000 else 0x20000) 0x8000 s
  | _ => s

/-- The running NT. instruction completes and sets its flag (R128). -/
def finishNt (b : Bay) (e : NtEnt) (s : State) : State :=
  let zero := e.idle
  let l := if zero then [] else e.op.reads (s.bay b).nt
  if l.any (byteBad s) then ntUe b e l s
  else
    let s := updNt b (fun x => { x with run := none }) s
    match e.op with
    | .ldp d => ntLdp b e d s
    | _ => putFlagOpt b e.op.flag (accWritten b e.op (if zero then ntZero b e.op s else ntRun b e.op s))

/-- NT_INSTR_COMPLETE: the running NT. instruction completes; it waits while a page it reads or writes is under repair (R248). -/
def execNtInstrComplete (b : Bay) (s : State) : Host.Outcome State Fault Refusal :=
  .next
    (match (s.bay b).nt.run with
     | some e =>
       if alive s then
         guarded b .clean (if e.idle then [] else e.op.reads (s.bay b).nt) (e.op.writes (s.bay b).nt) (finishNt b e) s
       else s
     | none => s)

/-! ### Tables (R136 to R140) -/

/-- Changes the table banks of a bay. -/
def updTbl (b : Bay) (f : Tbl → Tbl) (s : State) : State := s.updBay b (fun x => { x with tbl := f x.tbl })

/-- A table load is accepted, or refused with fault 0x28 because it names the active bank (R139). -/
def startTbl (b : Bay) (bank : Bool) (slot : Fin 16) (fd : LFlag) (x : Desc) (s : State) : State :=
  if (s.bay b).tbl.act = bank then
    retire b .x (putFlag b fd true (updTbl b (fun t => { t with ref := true }) (countFault 0x28 b (strmNo .x) s)))
  else
    let e : TblLoad := ⟨bank, slot, fd, x, (s.bay b).issued, (s.strm b .x).pc⟩
    retire b .x (countIssue b (updTbl b (fun t => { t with ref := false, loads := t.loads ++ [e] }) s))

/-- TBL.LD: starts the load of a table into a slot of the inactive bank; the active bank is refused with fault 0x28; waits
while four are in flight (R137, R139). -/
def execTblLd (b : Bay) (bank : Bool) (slot : Fin 16) (fd : LFlag) (d : Dix) (s : State) :
    Host.Outcome State Fault Refusal :=
  .next (issue b .x (.tblLd b bank slot fd d) []
    (fun s =>
      if 4 ≤ (s.bay b).tbl.loads.length then stall b .x .ntt (.tblLd b bank slot fd d) 0#32 s
      else unitRead b d (fun x => startTbl b bank slot fd x) s) s)

/-- The oldest table load ends: entries written and its flag set, or its read path halted (R136, R137, R251). -/
def finishTbl (b : Bay) (e : TblLoad) (s : State) : State :=
  let as := e.d.addrs 0 2048
  let s := updTbl b (fun t => { t with loads := t.loads.drop 1 }) s
  if as.any (byteBad s) then haltReadPath b e.pc e.seq (ueBytes as 6 (updTbl b (fun t => { t with halt := true }) s))
  else
    let l := s.gather as
    let ws := (List.range 1024).map (fun i => BitVec.ofNat 16 (fieldAt l (2 * i) 2))
    putFlag b e.fd true <| rewrote b 0x14 ((if e.bank then 0x8000 else 0) + 2048 * e.slot.val) 2048 (updTbl b (fun t =>
      { t with ent := Sparse.setList tblDefault t.ent ((if e.bank then 16384 else 0) + 1024 * e.slot.val) ws }) s)

/-- TBL_LD_COMPLETE: the oldest table load finishes. -/
def execTblLdComplete (b : Bay) (ev : CodeEvent) (s : State) : Host.Outcome State Fault Refusal :=
  .next
    (match (s.bay b).tbl.loads with
     | e :: _ => if alive s then guarded b ev (e.d.addrs 0 2048) [] (finishTbl b e) s else s
     | [] => s)

/-- TBL.SWAP: sets PEND. -/
def execTblSwap (b : Bay) (s : State) : Host.Outcome State Fault Refusal :=
  .next (issue b .x (.tblSwap b) [] (fun s => retire b .x (updTbl b (fun t => { t with pend := true }) s)) s)

/-- TBL_STAT (R138). -/
def tblStat (t : Tbl) : W32 :=
  BitVec.ofNat 32 ((if t.ref then 1 else 0) + t.loads.length * 2 ^ 8 + (if t.act then 2 ^ 16 else 0) +
    (if t.pend then 2 ^ 17 else 0))

/-- TBL.STAT: copies TBL_STAT into a counter. -/
def execTblStat (b : Bay) (cn : Ctr) (s : State) : Host.Outcome State Fault Refusal :=
  .next (issue b .x (.tblStat b cn) [cn] (fun s => putCtr b .x cn (tblStat (s.bay b).tbl) s) s)

/-- A REFRESH or LOOKUP bracket is open in the bay's X-stream (R140). -/
def lookupOpen (b : Bay) (s : State) : Bool :=
  match bracketOf b s with
  | some k => (k.op.any (fun o => o.kind == 6 || o.kind == 7)) || (k.insOp.any (fun o => !o.ended.getLsbD b))
  | none => false

/-- TABLE_BANK_FLIP: the active bank flips at a refresh boundary with PEND set and no load in flight (R140). -/
def execTableBankFlip (b : Bay) (s : State) : Host.Outcome State Fault Refusal :=
  .next
    (let t := (s.bay b).tbl
     if alive s && t.pend && t.loads.isEmpty && !lookupOpen b s then
       updTbl b (fun t => { t with act := !t.act, pend := false }) s
     else s)

end Sys2Proof.Machine
end

