-- ==== Sys2Proof/Machine/Tide.lean ====
section
/-! DEFINITION. Tide: the TD. instructions, opening, set checks, fills and segment regeneration (R95 to R110). -/

namespace Sys2Proof.Machine

/-- Changes a bay's Tide. -/
def updTide (b : Bay) (f : Tide → Tide) (s : State) : State := s.updBay b (fun x => { x with tide := f x.tide })

/-- Replaces the stream with an identity. -/
def Tide.mapStream (t : Tide) (sid : Nat) (f : TStream → TStream) : Tide :=
  { t with streams := t.streams.map (fun x => if x.sid = sid then f x else x) }

/-- A bay's streams judged against the operation the bay is in (R99, R103). -/
def judgeBay (b : Bay) (s : State) : State :=
  match hendOp b s with
  | some o => judgeIn o b s
  | none => s

/-- The addresses Tide reads as a stream opens: of a READY context the parameter area, and the directory entry below DCOUNT
(R97). -/
def openReads (s : State) (x : TStream) : List Nat :=
  let c := ctxAt s x.ctx
  if c.isReady then
    rangeWords (paramBase + 512 * x.ctx.val) 336 ++ (if x.eidx < c.dcount then rangeWords (dirAddr c x.eidx) 32 else [])
  else []

/-- Opens a stream: its reads, with the symbol errors met, its capture, and REFS raised on a READY context (R97, R288). -/
def openStream (b : Bay) (x : TStream) (ev : CodeEvent) (s : State) : State :=
  let l := openReads s x
  let s := traffic (wordSpans l) [] (countBad l 7 (readIn ev l s))
  let ready := (ctxAt s x.ctx).isReady
  let cap := captureKey s x.ctx x.eidx x.level
  let s := updTide b (fun t => t.mapStream x.sid (fun x => { x with opened := true, cap := cap, refs := ready })) s
  judgeBay b (if ready then refUp x.ctx s else s)

/-- TD.KEY: opens a stream, or schedules it at a start beat; binds it to the open bracket or the next; waits while four
streams are held (R96 to R98). -/
def execTdKey (b : Bay) (ck cg : Ctr) (cb : Option Ctr) (next : Bool) (level : Fin 64) (ev : CodeEvent)
    (s : State) :
    Host.Outcome State Fault Refusal :=
  .next (issue b .x (.tdKey b ck cg cb next level ev) ([ck, cg] ++ cb.toList)
    (fun s =>
      let t := (s.bay b).tide
      if 4 ≤ t.streams.length then stall b .x .tdOpen (.tdKey b ck cg cb next level ev) 0#32 s
      else
        let k := ctrOf b .x ck s
        let bind := (hendOp b s).isSome && !next
        let x : TStream :=
          { sid := t.nextSid, ctx := Fin.ofNat 16384 (bitsAt k.toNat 13 0), eidx := bitsAt k.toNat 27 16,
            cg := ctrOf b .x cg s, level := level, start := cb.map (fun c => ctrOf b .x c s), next := next,
            opened := false, cap := none, bound := bind, nset := t.nbound, chk := none, zero := false,
            allowed := false, refs := false, rows := 0, segs := 0, fills := 0 }
        if cb.isNone && ahead s (wordSpans (openReads s x)) [] then s else
        let s := updTide b (fun t =>
          { t with streams := t.streams ++ [x], nextSid := t.nextSid + 1, nbound := if bind then t.nbound + 1 else t.nbound
                   spoiled := t.spoiled || (bind && t.halt) }) s
        retire b .x (if cb.isNone then openStream b x ev s else judgeBay b s)) s)

/-- TD.DROP: ends every stream not yet bound (R98). -/
def execTdDrop (b : Bay) (s : State) : Host.Outcome State Fault Refusal :=
  .next (issue b .x (.tdDrop b) [] (fun s => retire b .x (endStreams b (fun x => !x.bound) true s)) s)

/-- The code of a half's state in TD_STAT (R109). -/
def halfCode : HalfSt → Nat
  | .free => 0
  | .filling => 1
  | .full => 2
  | .halted => 3

/-- The number w in its block of the next row to deliver, whether b or a (R105, R109).
(DEDUCED, log 132; DESIGN CHOICE, log 183) -/
def Tide.row (t : Tide) : Nat :=
  match t.streams with
  | x :: _ => (match x.cap with | some c => x.rows % (2 * c.polyRows) / 2 % 512 | none => 0)
  | [] => 0

/-- TD_STAT (R109). NSTR counts every stream the queue holds, one whose start beat has not come among them.
(DESIGN CHOICE, log 145) -/
def tdStat (t : Tide) : W32 :=
  BitVec.ofNat 32 ((t.segs.filter (fun g => g.words.isSome)).length + t.row * 2 ^ 7 + t.chk.toNat * 2 ^ 16 +
    t.streams.length * 2 ^ 24 + (if t.halt then 2 ^ 27 else 0) + halfCode t.kh0.st * 2 ^ 28 + halfCode t.kh1.st * 2 ^ 30)

/-- TD.STAT: copies TD_STAT into a counter. -/
def execTdStat (b : Bay) (cn : Ctr) (s : State) : Host.Outcome State Fault Refusal :=
  .next (issue b .x (.tdStat b cn) [cn] (fun s => putCtr b .x cn (tdStat (s.bay b).tide) s) s)

/-- KEY_STREAM_OPEN: a stream with a start beat opens once BEAT has reached it; none opens in HOLD (R97, R197). -/
def execKeyStreamOpen (b : Bay) (i : Fin 4) (ev : CodeEvent) (s : State) : Host.Outcome State Fault Refusal :=
  .next
    (match (s.bay b).tide.streams[i.val]? with
     | some x =>
       match x.start with
       | some t =>
         if alive s && !x.opened && s.beat.st != .hold && beatDone s.beat.beat t && !ahead s (wordSpans (openReads s x)) [] then
           openStream b x ev s
         else s
       | none => s
     | none => s)

/-! ### Set checks (R100, R101) -/

/-- The bays of a mask. -/
def baysIn (mask : BayMask) : List Bay := (List.finRange 12).filter (fun b => mask.getLsbD b)

/-- The code recorded for a bay's stream of set k (R99). -/
def OpenOp.code (o : OpenOp) (b : Bay) (k : Nat) : Option Byte :=
  (o.checks.find? (fun e => e.1 == b && e.2.1 == k)).map (fun e => e.2.2)

/-- Every bay of the mask has bound and checked its k-th stream, and the set has not been combined (R100). -/
def setReady (mask : BayMask) (k : Nat) (o : OpenOp) : Bool :=
  !o.setsDone.contains k && (baysIn mask).all (fun b => (o.code b k).isSome)

/-- The set passes: its streams may deliver (R100). -/
def passSet (k : Nat) (b : Bay) (s : State) : State :=
  updTide b (fun t =>
    { t with streams := t.streams.map (fun x => if x.bound ∧ x.nset = k then { x with allowed := true } else x) }) s

/-- The set fails in a bay: code 0x07 where its own check passed; this set and later ones deliver zeros (R99, R101). -/
def failSet (o : OpenOp) (k : Nat) (b : Bay) (s : State) : State :=
  let own := o.code b k == some 0#8
  let s := updTide b (fun t =>
    { t with
      chk := if own then 7#8 else t.chk
      streams := t.streams.map (fun x =>
        if x.bound ∧ k ≤ x.nset then
          { x with zero := true, chk := if x.nset = k ∧ own then some 7#8 else x.chk }
        else x) }) s
  endStreams b (fun x => x.bound && x.zero && x.total b == some 0) false s

/-- The operation of a bracket takes the verdict MISMATCH (R101). -/
def OpenOp.mismatch (o : OpenOp) : OpenOp :=
  { o with verdict := .mismatch, out := o.clamped.mark o.src true false 0x21#8 }

/-- The operation of the mask's bracket that its bays run now. -/
def curOp (mask : BayMask) (s : State) : Option OpenOp :=
  (s.hdr.brackets.find? (fun k => k.mask == mask && k.going)).bind
    (fun k => match k.insOp with | some o => some o | none => if k.ins.isSome then none else k.op)

/-- Rewrites the operation of the mask's bracket that its bays run now. -/
def updOp (mask : BayMask) (f : OpenOp → OpenOp) (s : State) : State :=
  mapBracket mask (fun k =>
    match k.insOp with
    | some o => { k with insOp := some (f o) }
    | none => { k with op := k.op.map f }) s

/-- Under HALT, a failing set halts the X-streams whose TS.HEND has retired already, at that TS.HEND (R102). -/
def haltEnded (o : OpenOp) (s : State) : State :=
  if o.haltOn then o.hends.foldl (fun s e => haltMismatch e.1 e.2.1 e.2.2 s) s else s

/-- KEY_SET_COMBINE: a set whose checks all passed may deliver; else the bracket, once, takes the verdict MISMATCH (R100,
R101). -/
def execKeySetCombine (mask : BayMask) (k : Nat) (s : State) : Host.Outcome State Fault Refusal :=
  .next
    (match curOp mask s with
     | some o =>
       if alive s && o.hopRun && mask != 0#12 && setReady mask k o then
         let s := updOp mask (fun o => { o with setsDone := o.setsDone ++ [k] }) s
         if (baysIn mask).all (fun b => o.code b k == some 0#8) then forBays (mask &&& ~~~o.ended) (passSet k) s
         else
           let s := forBays (mask &&& ~~~o.ended) (failSet o k) s
           if o.verdict = .run then haltEnded o (postVerdict .mismatch mask (updOp mask OpenOp.mismatch s)) else s
       else s
     | none => s)

/-! ### Fills (R104, R108) -/

/-- A half of the key buffer. -/
def Tide.half (t : Tide) (h : Bool) : Half := if h then t.kh1 else t.kh0

/-- Replaces a half. -/
def Tide.setHalf (t : Tide) (h : Bool) (x : Half) : Tide := if h then { t with kh1 := x } else { t with kh0 := x }

/-- A stream has no fill left to start. -/
def TStream.fillsDone (x : TStream) (n : Nat) : Bool := x.opened && decide (x.fillsTotal n ≤ x.fills)

/-- KEY_FILL_START: the next fill, in stream order, takes the next half once it is FREE (R104). -/
def execKeyFillStart (b : Bay) (s : State) : Host.Outcome State Fault Refusal :=
  .next
    (let t := (s.bay b).tide
     match t.streams.find? (fun x => !x.fillsDone b) with
     | some x =>
       if alive s && !t.halt && x.opened && (t.half t.nextHalf).st == .free then
         updTide b (fun t =>
           { (t.setHalf t.nextHalf ⟨.filling, x.sid, x.fills, 0⟩).mapStream x.sid (fun x => { x with fills := x.fills + 1 })
             with nextHalf := !t.nextHalf }) s
       else s
     | none => s)

/-- Halts Tide's channel (R108). -/
def haltTide (b : Bay) (s : State) : State :=
  channelFault b 0x42 (updTide b (fun t =>
    { t with
      halt := true, kh0 := { t.kh0 with st := .halted }, kh1 := { t.kh1 with st := .halted }
      spoiled := t.spoiled || t.streams.any (fun x => x.bound) }) s)

/-- The half whose fill is the older one under way. -/
def Tide.fillingHalf (t : Tide) : Option Bool :=
  if (t.half t.nextHalf).st = .filling then some t.nextHalf
  else if (t.half (!t.nextHalf)).st = .filling then some (!t.nextHalf)
  else none

/-- 256 stored words from an address. -/
def keyRowAt (s : State) (a : Nat) : List W32 := (List.range 256).map (fun i => BitVec.ofNat 32 (s.ldNat (a + 4 * i) 4))

/-- The next row of stored words arrives into a half, unless its page of the key buffer is under repair (R104, R248); an uncorrectable sector halts the channel (R108). -/
def fillRow (b : Bay) (h : Bool) (x : TStream) (c : TideCap) (ev : CodeEvent) (s : State) : State :=
  let g := (s.bay b).tide.half h
  let bl := x.blocks b
  let f := fillSpan c.polyRows bl.length g.fill
  let r := f.1 + g.rows
  let blk := bl.getD (r / c.polyRows) (0, 0)
  let a := c.stored b blk + 1024 * (r % c.polyRows)
  if ahead s [(a, 1024)] [] || (s.bay b).prot.repairs? (pagesSpad + halfWord h g.rows / 1024) then s else
  let s := traffic [(a, 1024)] [] (passPorts b (rangeWords a 1024) [] (readIn ev (rangeWords a 1024) s))
  if rangeBad s a 1024 then haltTide b (countBad (rangeWords a 1024) 7 s)
  else
    let s := s.updBay b (fun x => x.putKeyRow s.codes b (halfWord h g.rows) (keyRowAt s a))
    let s := updTide b (fun t => t.setHalf h { g with rows := g.rows + 1, st := if g.rows + 1 = f.2 then .full else .filling }) s
    { s with tideCtr := { s.tideCtr with bytes := satAdd 64 s.tideCtr.bytes 1024 } }

/-- KEY_FILL_DATA: stored key words arrive into the older fill under way, one row at a time. -/
def execKeyFillData (b : Bay) (ev : CodeEvent) (s : State) : Host.Outcome State Fault Refusal :=
  .next
    (let t := (s.bay b).tide
     match t.fillingHalf with
     | some h =>
       match t.streams.find? (fun x => x.sid == (t.half h).sid) with
       | some x =>
         match x.cap with
         | some c => if alive s && !t.halt && !x.zero then fillRow b h x c ev s else s
         | none => s
       | none => s
     | none => s)

/-! ### Regeneration (R93 to R95) -/

/-- The lowest-numbered free core of the XOF bank. -/
def Tide.freeCore (t : Tide) : Option (Fin 36) :=
  (List.finRange 36).find? (fun c => !t.segs.any (fun g => g.words.isNone && g.core == c))

/-- A stream has no segment left to start. -/
def TStream.segsDone (x : TStream) (n : Nat) : Bool := x.opened && decide (x.segsTotal n ≤ x.segs)

/-- XOF_SEGMENT_START: the next segment in delivery order goes to the lowest free core while a queue slot is free (R95).
(DESIGN CHOICE, log 181) -/
def execXofSegmentStart (b : Bay) (s : State) : Host.Outcome State Fault Refusal :=
  .next
    (let t := (s.bay b).tide
     match t.streams.find? (fun x => !x.segsDone b), t.freeCore with
     | some x, some c =>
       if alive s && !t.halt && x.opened && decide (t.segs.length < 64) then
         updTide b (fun t =>
           { t.mapStream x.sid (fun x => { x with segs := x.segs + 1 }) with
             segs := t.segs ++ [⟨x.sid, x.segs, c, none⟩] }) s
       else s
     | _, _ => s)

/-- A core's segment with the permutations and rejections of its regeneration. -/
def segResult (t : Tide) (b : Bay) (g : Seg) : Option (List W32 × Nat × Nat) :=
  match t.streams.find? (fun x => x.sid == g.sid) with
  | some x => x.cap.map (fun c =>
      let per := c.polyLen / 1024
      expandSeg c ((x.blocks b).getD (g.num / per) (0, 0)) (g.num % per))
  | none => none

/-- XOF_SEGMENT_COMPLETE: a core's segment is complete and waits in the regeneration queue (R94).
(DESIGN CHOICE, log 184) -/
def execXofSegmentComplete (b : Bay) (core : Fin 36) (s : State) : Host.Outcome State Fault Refusal :=
  .next
    (let t := (s.bay b).tide
     match t.segs.find? (fun g => g.words.isNone && g.core == core) with
     | some g =>
       match segResult t b g with
       | some r =>
         if alive s then
           let s := rewrote b 4 (segOff b g.sid g.num) 4096 (updTide b (fun t =>
             { t with segs := t.segs.map (fun z => if z == g then { z with words := some r.1 } else z) }) s)
           { s with tideCtr := { s.tideCtr with
             perms := satAdd 64 s.tideCtr.perms r.2.1, rejected := satAdd 64 s.tideCtr.rejected r.2.2 } }
         else s
       | none => s
     | none => s)

/-! ### Delivery (R105, R108) -/

/-- A fill is wholly delivered once the stream has delivered past its last stored row. -/
def Half.spent (h : Half) (sid rp nb done : Nat) : Bool :=
  h.st == .full && h.sid == sid && (let f := fillSpan rp nb h.fill; decide (f.1 + f.2 ≤ done))

/-- Stored rows a stream has delivered after `rows` rows. -/
def storedDone (rp rows : Nat) : Nat := rows / (2 * rp) * rp + (rows % (2 * rp) + 1) / 2

/-- Tide after its current stream has delivered a row: halves and segments that are spent are released (R95, R104). -/
def Tide.delivered (t : Tide) (x : TStream) (n : Nat) : Tide :=
  let t := t.mapStream x.sid (fun x => { x with rows := x.rows + 1 })
  match x.cap with
  | none => t
  | some c =>
    let rows := x.rows + 1
    let nb := (x.blocks n).length
    let f := fun h : Half => if h.spent x.sid c.polyRows nb (storedDone c.polyRows rows) then Half.reset else h
    let p := rowPos c.polyRows x.rows
    let num := p.1 * (c.polyLen / 1024) + p.2.1 / 4
    { t with
      kh0 := f t.kh0
      kh1 := f t.kh1
      segs := if p.2.2 ∧ p.2.1 % 4 = 3 then t.segs.filter (fun g => !(g.sid == x.sid && g.num == num)) else t.segs }

/-- The stream whose row is delivered next, when it may deliver: the oldest stream, bound and allowed or delivering zeros
(R100, R101, R103, R108). No younger stream delivers before it, though it be bound and the oldest not yet.
(DESIGN CHOICE, log 146) -/
def Tide.source (t : Tide) : Option TStream :=
  match t.streams with
  | x :: _ => if x.bound && (x.allowed || x.zero) then some x else none
  | [] => none

/-- Delivers a row of a bay: the stream advances, and ends with its last row (R98). (DEDUCED, log 47) -/
def rowOut (b : Bay) (x : TStream) (s : State) : State :=
  let s := updTide b (fun t => t.delivered x b) s
  endStreams b (fun y => y.sid == x.sid && (match y.total b with | some k => decide (k ≤ y.rows) | none => false)) false s

end Sys2Proof.Machine
end

