-- ==== Sys2Proof/Machine/Vec.lean ====
section
/-! DEFINITION. The vector engine's data: registers, predicates, the lane operations and the scratchpad formats (R141 to R152, R157, R166, R167). -/

namespace Sys2Proof.Machine

/-! ### Registers and predicates (R141, R142) -/

/-- The 512 lanes of a register. -/
def Vec.lanes (x : Vec) (v : VReg) : List W32 := Sparse.getList (fun _ => 0#32) x.vregs[v] 0 512

/-- A register from its lanes. -/
def ofLanes (l : List W32) : Sparse W32 := (l.zipIdx.filter (fun p => p.1 != 0#32)).map (fun p => (p.2, p.1))

/-- Replaces a register. -/
def Vec.setReg (x : Vec) (v : VReg) (l : List W32) : Vec := { x with vregs := x.vregs.set v (ofLanes l) }

/-- A predicate; P0 reads as all ones (R141). -/
def Vec.pred (x : Vec) (p : PReg) : BitVec 512 := if p = 0 then BitVec.allOnes 512 else x.preds[p]

/-- Replaces a predicate. -/
def Vec.setPred (x : Vec) (p : PReg) (v : BitVec 512) : Vec := { x with preds := x.preds.set p v }

/-- Operand B of every lane. -/
def Vec.opB (x : Vec) : VB → List W32
  | .reg v => x.lanes v
  | .val w => List.replicate 512 w

/-- A register write under a predicate: inactive lanes keep their contents (R142). -/
def Vec.write (x : Vec) (pg : PReg) (vd : VReg) (l : List W32) : Vec :=
  let p := x.pred pg
  x.setReg vd (((x.lanes vd).zip l).zipIdx.map (fun e => if p.getLsbD e.2 then e.1.2 else e.1.1))

/-- A predicate write under a predicate. -/
def Vec.writePred (x : Vec) (pg pd : PReg) (v : BitVec 512) : Vec :=
  let p := x.pred pg
  x.setPred pd ((x.pred pd &&& ~~~p) ||| (v &&& p))

/-- A predicate from the bits of its lanes. -/
def ofBits (l : List Bool) : BitVec 512 := BitVec.ofNat 512 (l.foldr (fun b acc => (if b then 1 else 0) + 2 * acc) 0)

/-- Sets the overflow bit when an active lane overflows (R152). -/
def Vec.over (x : Vec) (pg : PReg) (l : List Bool) : Vec :=
  { x with ovf := x.ovf || (l.zipIdx.any (fun e => e.1 && (x.pred pg).getLsbD e.2)) }

/-! ### Lane operations -/

/-- The exact signed result lies outside I32 (R147). -/
def outside32 (v : Int) : Bool := decide (v < -2147483648) || decide (2147483647 < v)

/-- An integer lane operation: result and overflow (R147, R221). -/
def aluLane (op : VAlu) (a b : W32) : W32 × Bool :=
  let k := b.toNat % 32
  match op with
  | .add => (a + b, outside32 (a.toInt + b.toInt))
  | .sub => (a - b, outside32 (a.toInt - b.toInt))
  | .mull => (a * b, outside32 (a.toInt * b.toInt))
  | .mulh => (BitVec.ofInt 32 (a.toInt * b.toInt / 2 ^ 32), false)
  | .mulhu => (BitVec.ofNat 32 (a.toNat * b.toNat / 2 ^ 32), false)
  | .and => (a &&& b, false)
  | .or => (a ||| b, false)
  | .xor => (a ^^^ b, false)
  | .shl => (a <<< k, false)
  | .shr => (a >>> k, false)
  | .sra => (a.sshiftRight k, false)
  | .min => (if a.slt b then a else b, false)
  | .max => (if a.slt b then b else a, false)
  | .minu => (if a.ult b then a else b, false)
  | .maxu => (if a.ult b then b else a, false)

/-- A result is infinite or NaN while every operand is finite (R152). -/
def broke (r : W32) (l : List W32) : Bool := !finite32 r && l.all finite32

/-- An F32 lane operation: result and overflow (R145, R152). -/
def faluLane (op : VFalu) (a b : W32) : W32 × Bool :=
  match op with
  | .fadd => (fadd32 a b, broke (fadd32 a b) [a, b])
  | .fsub => (fsub32 a b, broke (fsub32 a b) [a, b])
  | .fmul => (fmul32 a b, broke (fmul32 a b) [a, b])
  | .fmin => (fmin32 a b, false)
  | .fmax => (fmax32 a b, false)

/-- VE.FMA of one lane: a × b + c, rounded once, and overflow (R145, R152). -/
def fmaLane (a b c : W32) : W32 × Bool := (fma32 a b c, broke (fma32 a b c) [a, b, c])

/-- The relations of VE.FCMP (R221). -/
def frelLane (r : FRel) (a b : W32) : Bool :=
  match r, cmp32 a b with
  | .ne, none => true
  | .un, none => true
  | _, none => false
  | .un, some _ => false
  | .eq, some o => o == .eq
  | .ne, some o => o != .eq
  | .lt, some o => o == .lt
  | .ge, some o => o != .lt
  | .le, some o => o != .gt
  | .gt, some o => o == .gt

/-- Bits [30:0] of a RES operand (R148). -/
def res31 (a : W32) : Nat := a.toNat % 2 ^ 31

/-- A modular lane operation with destination's previous value d: exact sums and products go through the reduction of R82 with
the record, as a tile drain's do (R148). -/
def modLane (op : VMod) (p : PrimeRec) (d a b : W32) : W32 :=
  BitVec.ofNat 32 (match op with
    | .madd => p.reduce (res31 a + res31 b)
    | .msub => (((res31 a : Int) - res31 b) % (p.q.toNat : Int)).toNat
    | .mmul => p.reduce (res31 a * res31 b)
    | .mmac => p.reduce (res31 d + res31 a * res31 b))

/-- VE.MLIFT of one lane (R148). -/
def liftLane (q qs : Nat) (a : W32) : W32 :=
  let x := res31 a % qs
  let v : Int := if (qs + 1) / 2 ≤ x then (x : Int) - qs else x
  BitVec.ofNat 32 (v % q).toNat

/-- The modulus of a VPT entry. -/
def Vec.q (x : Vec) (v : Nat) : Nat := (primeAt x.vpt v).q.toNat

/-- VE.GSIGN of one lane (R150). -/
def gsignLane (g k0 : W32) (logn i : Nat) : Bool :=
  decide (2 ^ logn ≤ g.toNat * (k0.toNat + i) % (2 * 2 ^ logn))

/-! ### Formats (R144) -/

/-- Bytes of a format's element. -/
def fmtSize : VFmt → Nat
  | .w32 => 4
  | .bf16 => 2
  | .e4m3 => 1
  | .e5m2 => 1
  | .int8 => 1
  | .uint8 => 1
  | .int16 => 2

/-- A load's conversion. -/
def fmtLoad (f : VFmt) (v : Nat) : W32 :=
  match f with
  | .w32 => BitVec.ofNat 32 v
  | .bf16 => bf16Load v
  | .e4m3 => (e4m3Val v).f32
  | .e5m2 => (e5m2Val v).f32
  | .int8 => (BitVec.ofNat 8 v).signExtend 32
  | .uint8 => BitVec.ofNat 32 (v % 256)
  | .int16 => (BitVec.ofNat 16 v).signExtend 32

/-- A store's conversion: the element and whether it sets the overflow bit. (DEDUCED, log 130) -/
def fmtStore (f : VFmt) (a : W32) : Nat × Bool :=
  match f with
  | .w32 => (a.toNat, false)
  | .bf16 => bf16Store a
  | .e4m3 => fp8Store Fmt.e4m3 0x7F a
  | .e5m2 => fp8Store Fmt.e5m2 0x7E a
  | .int8 => ((BitVec.ofInt 8 (clampInt (-128) 127 a.toInt).1).toNat, false)
  | .uint8 => ((BitVec.ofInt 8 (clampInt 0 255 a.toInt).1).toNat, false)
  | .int16 => ((BitVec.ofInt 16 (clampInt (-32768) 32767 a.toInt).1).toNat, false)

/-! ### Summaries (R151) -/

/-- The active elements of a register. -/
def Vec.active (x : Vec) (pg : PReg) (v : VReg) : List W32 :=
  ((x.lanes v).zipIdx.filter (fun e => (x.pred pg).getLsbD e.2)).map (fun e => e.1)

/-- The number of bits of a predicate that are 1. -/
def popCount (p : BitVec 512) : Nat := ((List.range 512).filter (fun i => p.getLsbD i)).length

/-- The value of VE.SUM. -/
def Vec.sum (x : Vec) (kind : SumKind) (pg : PReg) : W32 :=
  let m := x.pred pg
  match kind with
  | .any p => if x.pred p &&& m = 0#512 then 0#32 else 1#32
  | .all p => if x.pred p &&& m = m then 1#32 else 0#32
  | .cnt p => BitVec.ofNat 32 (popCount (x.pred p &&& m))
  | .maxi v => (x.active pg v).foldl (fun a b => if a.slt b then b else a) 0x80000000#32
  | .maxu v => (x.active pg v).foldl (fun a b => if a.ult b then b else a) 0#32
  | .maxf v => rowMax (x.active pg v)
  | .ovf => if x.ovf then 1#32 else 0#32

/-! ### Scratchpad access under a predicate -/

/-- Addresses of the bytes of lane i. -/
def laneAddrs (d : Desc) (f : VFmt) (i : Nat) : List Nat := d.addrs (fmtSize f * i) (fmtSize f)

/-- Addresses of the active lanes. -/
def Vec.lanesAddrs (x : Vec) (pg : PReg) (d : Desc) (f : VFmt) : List Nat :=
  ((List.range 512).filter (fun i => (x.pred pg).getLsbD i)).flatMap (laneAddrs d f)

/-- A partly written word of a RED descriptor, merged with what stands there after the writes before it, the last of them
first, and reduced (R266). -/
def redMerge (s : State) (d : Desc) (l : List (Option Byte)) (acc : List (Nat × List Byte)) (g : Nat) :
    List (Nat × List Byte) :=
  let w := (l.drop (4 * g)).take 4
  if w.all (fun b => b.isNone) then acc
  else
    let a := d.byteAddr (4 * g)
    let old := match acc.find? (fun r => r.1 == a) with
      | some r => r.2
      | none => s.ld a 4
    (a, leBytes (redWord d.q (leNat ((w.zip old).map (fun p => p.1.getD p.2)))) 4) :: acc

/-- Byte writes of a walk from byte 0, none where nothing is written; through a RED descriptor whole words (R266). -/
def maskRuns (s : State) (d : Desc) (l : List (Option Byte)) : List (Nat × List Byte) :=
  if d.red then ((List.range (l.length / 4)).foldl (redMerge s d l) []).reverse
  else (l.zipIdx.filterMap (fun p => p.1.map (fun b => (d.byteAddr p.2, [b]))))

/-- Writes bytes of a walk, leaving out those that are none. -/
def maskOut (d : Desc) (l : List (Option Byte)) (s : State) : State := storeRuns (joinRuns (maskRuns s d l)) s

/-! ### Key accumulator (R149) -/

/-- 256 words of a KA row: ACB, or ACA. -/
def Vec.kaRow (x : Vec) (r : Nat) (a : Bool) : List W32 :=
  Sparse.getList (fun _ => 0#32) x.ka (512 * r + (if a then 256 else 0)) 256

/-- Writes both halves of a KA row. -/
def Vec.setKa (x : Vec) (r : Nat) (b a : List W32) : Vec :=
  { x with ka := Sparse.setList (fun _ => 0#32) x.ka (512 * r) (b ++ a) }

/-- One half of a key product (R149). -/
def kmacRow (q : Nat) (init : Bool) (old x k : List W32) : List W32 :=
  ((old.zip x).zip k).map (fun p =>
    BitVec.ofNat 32 (((if init then 0 else res31 p.1.1) + res31 p.1.2 * res31 p.2) % q))

/-! ### Units of small memories an instruction reads (R251, R453) -/

/-- The words of a register, of a predicate (P0 is not stored) and of a KA row, and a VPT entry, as Id and byte offset. -/
def vregUnits (v : VReg) : List (Nat × Nat) := (List.range 512).map (fun i => (3, 2048 * v.val + 4 * i))

def predUnits (p : PReg) : List (Nat × Nat) :=
  if p = 0 then [] else (List.range 16).map (fun k => (3, 0x10000 + 64 * p.val + 4 * k))

def kaUnits (r : Nat) : List (Nat × Nat) := (List.range 512).map (fun k => (3, 0x20000 + 2048 * r + 4 * k))

def vptUnit (v : Nat) : Nat × Nat := (0x13, 0x10000 + 16 * v)

/-- The words operand B reads. -/
def vbUnits : VB → List (Nat × Nat)
  | .reg v => vregUnits v
  | .val _ => []

/-- The registers VE.SUM reads. -/
def sumUnits : SumKind → List (Nat × Nat)
  | .any p => predUnits p
  | .all p => predUnits p
  | .cnt p => predUnits p
  | .maxi v => vregUnits v
  | .maxu v => vregUnits v
  | .maxf v => vregUnits v
  | .ovf => []

/-- The source operands an instruction reads, its predicate apart; `j` is the residue index of the waiting key rows.
(DESIGN CHOICE, log 187) -/
def VecOp.sources (j : Nat) : VecOp → List (Nat × Nat)
  | .alu _ _ va o _ => vregUnits va ++ vbUnits o
  | .sel _ va o ps _ => vregUnits va ++ vbUnits o ++ predUnits ps
  | .iota _ _ _ => []
  | .cmp _ _ va o _ => vregUnits va ++ vbUnits o
  | .fcmp _ _ va o _ => vregUnits va ++ vbUnits o
  | .plog _ _ pa pb _ => predUnits pa ++ predUnits pb
  | .pnot _ pa _ => predUnits pa
  | .falu _ _ va o _ => vregUnits va ++ vbUnits o
  | .fma _ va o vc _ => vregUnits va ++ vbUnits o ++ vregUnits vc
  | .cvt _ va _ _ => vregUnits va
  | .modb op vd va o v _ => (if op = .mmac then vregUnits vd else []) ++ vregUnits va ++ vbUnits o ++ [vptUnit v]
  | .mneg _ va v _ => vregUnits va ++ [vptUnit v]
  | .mred _ va v _ => vregUnits va ++ [vptUnit v]
  | .mlift _ va v t _ => vregUnits va ++ [vptUnit v, vptUnit t]
  | .kmac r init _ _ => (if init then [] else kaUnits r) ++ [vptUnit j]
  | .lrot _ va _ _ => vregUnits va
  | .perm _ va vb _ => vregUnits va ++ vregUnits vb
  | .sf f _ va m _ _ =>
    if f.isRow then (List.range m).flatMap (fun i => vregUnits (Fin.ofNat 32 (va.val + i))) else vregUnits va
  | .ld .. => []
  | .st va _ _ _ => vregUnits va
  | .ldq .. => []
  | .gsign .. => []
  | .sum _ kind _ _ => sumUnits kind
  | .ldp .. => []
  | .stat _ => []

/-- The predicate that names an instruction's active lanes. -/
def VecOp.pg : VecOp → PReg
  | .alu _ _ _ _ pg => pg
  | .sel _ _ _ _ pg => pg
  | .iota _ _ pg => pg
  | .cmp _ _ _ _ pg => pg
  | .fcmp _ _ _ _ pg => pg
  | .plog _ _ _ _ pg => pg
  | .pnot _ _ pg => pg
  | .falu _ _ _ _ pg => pg
  | .fma _ _ _ _ pg => pg
  | .cvt _ _ _ pg => pg
  | .modb _ _ _ _ _ pg => pg
  | .mneg _ _ _ pg => pg
  | .mred _ _ _ pg => pg
  | .mlift _ _ _ _ pg => pg
  | .kmac .. => 0
  | .lrot _ _ _ pg => pg
  | .perm _ _ _ pg => pg
  | .sf _ _ _ _ _ pg => pg
  | .ld _ _ _ pg => pg
  | .st _ _ _ pg => pg
  | .ldq _ _ _ pg => pg
  | .gsign _ _ _ _ pg => pg
  | .sum _ kind _ pg => if kind = .ovf then 0 else pg
  | .ldp .. => 0
  | .stat _ => 0

/-- A VE.SUM, whose source is read under quench too (R157). -/
def VecOp.isSum : VecOp → Bool
  | .sum .. => true
  | _ => false

/-- The units an entry reads: under quench its predicate alone, for the zeros it writes, and a VE.SUM what it summarises.
(DESIGN CHOICE, log 147) -/
def VecEnt.units (e : VecEnt) (j : Nat) : List (Nat × Nat) :=
  (if e.quench && !e.op.isSum then [] else e.op.sources j) ++ predUnits e.op.pg

/-- Where an instruction's destination lies in the memory of registers, predicates and KA: its first byte offset and its bytes
(R453). -/
def VecOp.dest : VecOp → Nat × Nat
  | .alu _ vd _ _ _ => (2048 * vd.val, 2048)
  | .sel vd _ _ _ _ => (2048 * vd.val, 2048)
  | .iota vd _ _ => (2048 * vd.val, 2048)
  | .cmp pd _ _ _ _ => (0x10000 + 64 * pd.val, 64)
  | .fcmp pd _ _ _ _ => (0x10000 + 64 * pd.val, 64)
  | .plog _ pd _ _ _ => (0x10000 + 64 * pd.val, 64)
  | .pnot pd _ _ => (0x10000 + 64 * pd.val, 64)
  | .falu _ vd _ _ _ => (2048 * vd.val, 2048)
  | .fma vd _ _ _ _ => (2048 * vd.val, 2048)
  | .cvt vd _ _ _ => (2048 * vd.val, 2048)
  | .modb _ vd _ _ _ _ => (2048 * vd.val, 2048)
  | .mneg vd _ _ _ => (2048 * vd.val, 2048)
  | .mred vd _ _ _ => (2048 * vd.val, 2048)
  | .mlift vd _ _ _ _ => (2048 * vd.val, 2048)
  | .kmac r _ _ _ => (0x20000 + 2048 * r, 2048)
  | .lrot vd _ _ _ => (2048 * vd.val, 2048)
  | .perm vd _ _ _ => (2048 * vd.val, 2048)
  | .sf _ vd _ _ _ _ => (2048 * vd.val, 2048)
  | .ld vd _ _ _ => (2048 * vd.val, 2048)
  | .st .. => (0, 0)
  | .ldq vd _ _ _ => (2048 * vd.val, 2048)
  | .gsign pd _ _ _ _ => (0x10000 + 64 * pd.val, 64)
  | .sum .. => (0, 0)
  | .ldp .. => (0, 0)
  | .stat _ => (0, 0)

/-- The 64-bit word at an offset is written: it lies in the destination, and there a lane of a register, or a bit of a predicate,
is active (R142). -/
def VecOp.wrote (op : VecOp) (p : BitVec 512) (off : Nat) : Bool :=
  let d := op.dest
  let k := (off - d.1) / 8
  decide (d.1 ≤ off) && decide (off < d.1 + d.2) &&
    (if d.1 < 0x10000 then p.getLsbD (2 * k) || p.getLsbD (2 * k + 1)
     else if d.1 < 0x20000 then (p >>> (64 * k)).setWidth 64 != 0#64 else true)

/-- The scratchpad bytes an entry reads, and those it writes, as it starts. -/
def Vec.touched (x : Vec) (e : VecEnt) : List Nat × List Nat :=
  match e.op with
  | .ld _ f d pg => (if e.quench then [] else x.lanesAddrs pg d f, [])
  | .st _ f d pg => ([], x.lanesAddrs pg d f)
  | .kmac _ _ dx _ => (if e.quench then [] else dx.addrs 0 1024, [])
  | .ldp _ m d => (d.addrs 0 (16 * m), [])
  | _ => ([], [])

/-! ### Register results of an instruction under RUN -/

/-- Maps two lists of lanes through an operation with an overflow. -/
def lanes2 (f : W32 → W32 → W32 × Bool) (a b : List W32) : List W32 × List Bool :=
  let l := (a.zip b).map (fun p => f p.1 p.2)
  (l.map (fun p => p.1), l.map (fun p => p.2))

/-- Maps three lists of lanes through an operation with an overflow. -/
def lanes3 (f : W32 → W32 → W32 → W32 × Bool) (a b c : List W32) : List W32 × List Bool :=
  let l := ((a.zip b).zip c).map (fun p => f p.1.1 p.1.2 p.2)
  (l.map (fun p => p.1), l.map (fun p => p.2))

/-- A register write with its overflow. -/
def Vec.result (x : Vec) (pg : PReg) (vd : VReg) (r : List W32 × List Bool) : Vec := (x.over pg r.2).write pg vd r.1

/-- The elements of a row function's row (R167). -/
def Vec.rowElems (x : Vec) (pg : PReg) (va : VReg) (m : Nat) : List W32 :=
  (List.range m).flatMap (fun i => x.active pg (Fin.ofNat 32 (va.val + i)))

/-- Writes lanes 0 to 7 whatever the predicate holds (R167). -/
def Vec.writeLow (x : Vec) (vd : VReg) (l : List W32) : Vec := x.setReg vd (l ++ (x.lanes vd).drop 8)

/-- The lanes of a row function, with free values where the specification states none (log 2). -/
def rowLanes (f : SfFunc) (c : W32) (xs : List W32) (open_ : Nat → W32) : List W32 :=
  if f = .rowsumexp ∧ sumExpOpen c xs = true then lanes8 [open_ 0, open_ 1] else sfRow f c xs

/-- What an instruction on registers alone writes (R146 to R152, R166, R167). -/
def Vec.apply (x : Vec) (op : VecOp) (open_ : Nat → W32) : Vec :=
  match op with
  | .alu o vd va vb pg => x.result pg vd (lanes2 (aluLane o) (x.lanes va) (x.opB vb))
  | .sel vd va vb ps pg =>
    x.write pg vd (((x.lanes va).zip (x.opB vb)).zipIdx.map (fun e => if (x.pred ps).getLsbD e.2 then e.1.1 else e.1.2))
  | .iota vd base pg => x.write pg vd ((List.range 512).map (fun i => base + BitVec.ofNat 32 i))
  | .cmp pd r va vb pg => x.writePred pg pd (ofBits (((x.lanes va).zip (x.opB vb)).map (fun p => Machine.Rel.holds r p.1 p.2)))
  | .fcmp pd r va vb pg => x.writePred pg pd (ofBits (((x.lanes va).zip (x.opB vb)).map (fun p => frelLane r p.1 p.2)))
  | .plog o pd pa pb pg =>
    let a := x.pred pa
    let b := x.pred pb
    x.writePred pg pd (match o with | .and => a &&& b | .or => a ||| b | .xor => a ^^^ b | .andn => a &&& ~~~b)
  | .pnot pd pa pg => x.writePred pg pd (~~~(x.pred pa))
  | .falu o vd va vb pg => x.result pg vd (lanes2 (faluLane o) (x.lanes va) (x.opB vb))
  | .fma vd va vb vc pg =>
    x.result pg vd (lanes3 fmaLane (x.lanes va) (x.opB vb) (x.lanes vc))
  | .cvt vd va toInt pg =>
    x.result pg vd (if toInt then lanes2 (fun a _ => toI32 a) (x.lanes va) (x.lanes va)
      else lanes2 (fun a _ => (ofI32 a, false)) (x.lanes va) (x.lanes va))
  | .modb o vd va vb v pg =>
    x.write pg vd ((((x.lanes vd).zip (x.lanes va)).zip (x.opB vb)).map (fun p => modLane o (primeAt x.vpt v) p.1.1 p.1.2 p.2))
  | .mneg vd va v pg => x.write pg vd ((x.lanes va).map (fun a => BitVec.ofNat 32 ((x.q v - res31 a % x.q v) % x.q v)))
  | .mred vd va v pg => x.write pg vd ((x.lanes va).map (fun a => BitVec.ofNat 32 ((primeAt x.vpt v).reduce a.toNat)))
  | .mlift vd va v t pg => x.write pg vd ((x.lanes va).map (liftLane (x.q v) (x.q t)))
  | .lrot vd va k pg =>
    let l := x.lanes va
    let n := k.toNat % 512
    x.write pg vd (l.drop n ++ l.take n)
  | .perm vd va vb pg =>
    let l := x.lanes va
    x.write pg vd ((x.lanes vb).map (fun i => l.getD (i.toNat % 512) 0#32))
  | .sf f vd va m c pg =>
    if f.isRow then x.writeLow vd (rowLanes f c (x.rowElems pg va m) open_) else x.write pg vd ((x.lanes va).map (sfElem f))
  | .gsign pd g k0 logn pg => x.writePred pg pd (ofBits ((List.range 512).map (gsignLane g k0 logn)))
  | .kmac .. => x
  | .ld .. => x
  | .st .. => x
  | .ldq .. => x
  | .sum .. => x
  | .ldp .. => x
  | .stat _ => x

/-- What an instruction on registers alone writes in a quenched bracket: zeros to its active lanes, unless it reads no
ciphertext data; VE.PAND, VE.POR, VE.PXOR and VE.PNOT, which R157 puts on neither side, write zeros too (R157).
(DESIGN CHOICE, log 150) -/
def Vec.quench (x : Vec) (op : VecOp) : Vec :=
  let z := List.replicate 512 0#32
  match op with
  | .alu _ vd _ _ pg => x.write pg vd z
  | .sel vd _ _ _ pg => x.write pg vd z
  | .cmp pd _ _ _ pg => x.writePred pg pd 0#512
  | .fcmp pd _ _ _ pg => x.writePred pg pd 0#512
  | .plog _ pd _ _ pg => x.writePred pg pd 0#512
  | .pnot pd _ pg => x.writePred pg pd 0#512
  | .falu _ vd _ _ pg => x.write pg vd z
  | .fma vd _ _ _ pg => x.write pg vd z
  | .cvt vd _ _ pg => x.write pg vd z
  | .modb _ vd _ _ _ pg => x.write pg vd z
  | .mneg vd _ _ pg => x.write pg vd z
  | .mred vd _ _ pg => x.write pg vd z
  | .mlift vd _ _ _ pg => x.write pg vd z
  | .lrot vd _ _ pg => x.write pg vd z
  | .perm vd _ _ pg => x.write pg vd z
  | .sf f vd _ _ _ pg => if f.isRow then x.writeLow vd (List.replicate 8 0#32) else x.write pg vd z
  | .iota vd base pg => x.apply (.iota vd base pg) (fun _ => 0#32)
  | .gsign pd g k0 logn pg => x.apply (.gsign pd g k0 logn pg) (fun _ => 0#32)
  | .kmac .. => x
  | .ld .. => x
  | .st .. => x
  | .ldq .. => x
  | .sum .. => x
  | .ldp .. => x
  | .stat _ => x

end Sys2Proof.Machine
end

