-- ==== Sys2Proof/Machine/Vector.lean ====
section
/-! DEFINITION. The VE. instructions: issue, start and the write-backs and summaries that land later; key-row delivery (R105 to R108, R141 to R159). -/

namespace Sys2Proof.Machine

/-! ### Issue (R146, R154) -/

/-- Changes the vector engine of a bay. -/
def updVec (b : Bay) (f : Vec → Vec) (s : State) : State := s.updBay b (fun x => { x with vec := f x.vec })

/-- Puts an instruction into the vector queue and retires it. -/
def vePush (b : Bay) (op : VecOp) (s : State) : State :=
  let e : VecEnt :=
    { op := op, seq := (s.bay b).issued, pc := (s.strm b .x).pc, quench := quenched b s, inBr := inBracket b s, wl := none }
  retire b .x (countIssue b (updVec b (fun x => { x with queue := x.queue ++ [e] }) s))

/-- Issues a VE. instruction: VEC while the queue is full, then the descriptors it names are read, with fault 0x43 for one it
may not use (R154, R215). -/
def veIssueD (b : Bay) (c : Instr) (rs : List Ctr) (ds : List Dix) (op : State → Option VecOp) (s : State) : State :=
  issue b .x c rs
    (fun s =>
      if 16 ≤ (s.bay b).vec.queue.length then stall b .x .vec c 0#32 s
      else
        descRead b .x ds (fun s =>
          match op s with
          | none => trap b .x 0x43 s
          | some o => vePush b o s) s) s

/-- Issues a VE. instruction that names no descriptor. -/
def veIssue (b : Bay) (c : Instr) (rs : List Ctr) (op : State → VecOp) (s : State) : State :=
  issue b .x c rs
    (fun s => if 16 ≤ (s.bay b).vec.queue.length then stall b .x .vec c 0#32 s else vePush b (op s) s) s

/-- The counters a vector operand B reads. -/
def vbRegs : VBOp → List Ctr
  | .reg _ => []
  | .ctr c => [c]

/-- Operand B captured at issue (R146, R215). -/
def vbVal (b : Bay) (o : VBOp) (s : State) : VB :=
  match o with
  | .reg v => .reg v
  | .ctr c => .val (ctrOf b .x c s)

/-- Issues an element-wise integer instruction. -/
def veAlu (b : Bay) (c : Instr) (op : VAlu) (vd va : VReg) (o : VBOp) (pg : PReg) (s : State) : State :=
  veIssue b c (vbRegs o) (fun s => (.alu op vd va (vbVal b o s) pg)) s

/-- VE.ADD. -/
def execVeAdd (b : Bay) (vd va : VReg) (o : VBOp) (pg : PReg) (s : State) : Host.Outcome State Fault Refusal :=
  .next (veAlu b (.veAdd b vd va o pg) .add vd va o pg s)

/-- VE.SUB. -/
def execVeSub (b : Bay) (vd va : VReg) (o : VBOp) (pg : PReg) (s : State) : Host.Outcome State Fault Refusal :=
  .next (veAlu b (.veSub b vd va o pg) .sub vd va o pg s)

/-- VE.MULL. -/
def execVeMull (b : Bay) (vd va : VReg) (o : VBOp) (pg : PReg) (s : State) : Host.Outcome State Fault Refusal :=
  .next (veAlu b (.veMull b vd va o pg) .mull vd va o pg s)

/-- VE.MULH. -/
def execVeMulh (b : Bay) (vd va : VReg) (o : VBOp) (pg : PReg) (s : State) : Host.Outcome State Fault Refusal :=
  .next (veAlu b (.veMulh b vd va o pg) .mulh vd va o pg s)

/-- VE.MULHU. -/
def execVeMulhu (b : Bay) (vd va : VReg) (o : VBOp) (pg : PReg) (s : State) : Host.Outcome State Fault Refusal :=
  .next (veAlu b (.veMulhu b vd va o pg) .mulhu vd va o pg s)

/-- VE.AND. -/
def execVeAnd (b : Bay) (vd va : VReg) (o : VBOp) (pg : PReg) (s : State) : Host.Outcome State Fault Refusal :=
  .next (veAlu b (.veAnd b vd va o pg) .and vd va o pg s)

/-- VE.OR. -/
def execVeOr (b : Bay) (vd va : VReg) (o : VBOp) (pg : PReg) (s : State) : Host.Outcome State Fault Refusal :=
  .next (veAlu b (.veOr b vd va o pg) .or vd va o pg s)

/-- VE.XOR. -/
def execVeXor (b : Bay) (vd va : VReg) (o : VBOp) (pg : PReg) (s : State) : Host.Outcome State Fault Refusal :=
  .next (veAlu b (.veXor b vd va o pg) .xor vd va o pg s)

/-- VE.SHL. -/
def execVeShl (b : Bay) (vd va : VReg) (o : VBOp) (pg : PReg) (s : State) : Host.Outcome State Fault Refusal :=
  .next (veAlu b (.veShl b vd va o pg) .shl vd va o pg s)

/-- VE.SHR. -/
def execVeShr (b : Bay) (vd va : VReg) (o : VBOp) (pg : PReg) (s : State) : Host.Outcome State Fault Refusal :=
  .next (veAlu b (.veShr b vd va o pg) .shr vd va o pg s)

/-- VE.SRA. -/
def execVeSra (b : Bay) (vd va : VReg) (o : VBOp) (pg : PReg) (s : State) : Host.Outcome State Fault Refusal :=
  .next (veAlu b (.veSra b vd va o pg) .sra vd va o pg s)

/-- VE.MIN. -/
def execVeMin (b : Bay) (vd va : VReg) (o : VBOp) (pg : PReg) (s : State) : Host.Outcome State Fault Refusal :=
  .next (veAlu b (.veMin b vd va o pg) .min vd va o pg s)

/-- VE.MAX. -/
def execVeMax (b : Bay) (vd va : VReg) (o : VBOp) (pg : PReg) (s : State) : Host.Outcome State Fault Refusal :=
  .next (veAlu b (.veMax b vd va o pg) .max vd va o pg s)

/-- VE.MINU. -/
def execVeMinu (b : Bay) (vd va : VReg) (o : VBOp) (pg : PReg) (s : State) : Host.Outcome State Fault Refusal :=
  .next (veAlu b (.veMinu b vd va o pg) .minu vd va o pg s)

/-- VE.MAXU. -/
def execVeMaxu (b : Bay) (vd va : VReg) (o : VBOp) (pg : PReg) (s : State) : Host.Outcome State Fault Refusal :=
  .next (veAlu b (.veMaxu b vd va o pg) .maxu vd va o pg s)

/-- VE.SEL: Va where Ps holds, else operand B. -/
def execVeSel (b : Bay) (vd va : VReg) (o : VBOp) (ps pg : PReg) (s : State) : Host.Outcome State Fault Refusal :=
  .next (veIssue b (.veSel b vd va o ps pg) (vbRegs o) (fun s => (.sel vd va (vbVal b o s) ps pg)) s)

/-- VE.IOTA: base + i into lane i. -/
def execVeIota (b : Bay) (vd : VReg) (cb : Ctr) (pg : PReg) (s : State) : Host.Outcome State Fault Refusal :=
  .next (veIssue b (.veIota b vd cb pg) [cb] (fun s => (.iota vd (ctrOf b .x cb s) pg)) s)

/-- VE.CMP: an integer comparison into a predicate. -/
def execVeCmp (b : Bay) (pd : PReg) (r : Rel) (va : VReg) (o : VBOp) (pg : PReg) (s : State) :
    Host.Outcome State Fault Refusal :=
  .next (veIssue b (.veCmp b pd r va o pg) (vbRegs o) (fun s => (.cmp pd r va (vbVal b o s) pg)) s)

/-- VE.FCMP: an F32 comparison into a predicate. -/
def execVeFcmp (b : Bay) (pd : PReg) (r : FRel) (va : VReg) (o : VBOp) (pg : PReg) (s : State) :
    Host.Outcome State Fault Refusal :=
  .next (veIssue b (.veFcmp b pd r va o pg) (vbRegs o) (fun s => (.fcmp pd r va (vbVal b o s) pg)) s)

/-- VE.PAND. -/
def execVePand (b : Bay) (pd pa pb pg : PReg) (s : State) : Host.Outcome State Fault Refusal :=
  .next (veIssue b (.vePand b pd pa pb pg) [] (fun _ => (.plog .and pd pa pb pg)) s)

/-- VE.POR. -/
def execVePor (b : Bay) (pd pa pb pg : PReg) (s : State) : Host.Outcome State Fault Refusal :=
  .next (veIssue b (.vePor b pd pa pb pg) [] (fun _ => (.plog .or pd pa pb pg)) s)

/-- VE.PXOR. -/
def execVePxor (b : Bay) (pd pa pb pg : PReg) (s : State) : Host.Outcome State Fault Refusal :=
  .next (veIssue b (.vePxor b pd pa pb pg) [] (fun _ => (.plog .xor pd pa pb pg)) s)

/-- VE.PNOT. -/
def execVePnot (b : Bay) (pd pa pg : PReg) (s : State) : Host.Outcome State Fault Refusal :=
  .next (veIssue b (.vePnot b pd pa pg) [] (fun _ => (.pnot pd pa pg)) s)

/-- Issues an F32 instruction of two operands. -/
def veFalu (b : Bay) (c : Instr) (op : VFalu) (vd va : VReg) (o : VBOp) (pg : PReg) (s : State) : State :=
  veIssue b c (vbRegs o) (fun s => (.falu op vd va (vbVal b o s) pg)) s

/-- VE.FADD. -/
def execVeFadd (b : Bay) (vd va : VReg) (o : VBOp) (pg : PReg) (s : State) : Host.Outcome State Fault Refusal :=
  .next (veFalu b (.veFadd b vd va o pg) .fadd vd va o pg s)

/-- VE.FSUB. -/
def execVeFsub (b : Bay) (vd va : VReg) (o : VBOp) (pg : PReg) (s : State) : Host.Outcome State Fault Refusal :=
  .next (veFalu b (.veFsub b vd va o pg) .fsub vd va o pg s)

/-- VE.FMUL. -/
def execVeFmul (b : Bay) (vd va : VReg) (o : VBOp) (pg : PReg) (s : State) : Host.Outcome State Fault Refusal :=
  .next (veFalu b (.veFmul b vd va o pg) .fmul vd va o pg s)

/-- VE.FMA: a × b + c, rounded once. -/
def execVeFma (b : Bay) (vd va : VReg) (o : VBOp) (vc : VReg) (pg : PReg) (s : State) :
    Host.Outcome State Fault Refusal :=
  .next (veIssue b (.veFma b vd va o vc pg) (vbRegs o) (fun s => (.fma vd va (vbVal b o s) vc pg)) s)

/-- VE.FMIN. -/
def execVeFmin (b : Bay) (vd va : VReg) (o : VBOp) (pg : PReg) (s : State) : Host.Outcome State Fault Refusal :=
  .next (veFalu b (.veFmin b vd va o pg) .fmin vd va o pg s)

/-- VE.FMAX. -/
def execVeFmax (b : Bay) (vd va : VReg) (o : VBOp) (pg : PReg) (s : State) : Host.Outcome State Fault Refusal :=
  .next (veFalu b (.veFmax b vd va o pg) .fmax vd va o pg s)

/-- VE.CVT. -/
def execVeCvt (b : Bay) (vd va : VReg) (toInt : Bool) (pg : PReg) (s : State) : Host.Outcome State Fault Refusal :=
  .next (veIssue b (.veCvt b vd va toInt pg) [] (fun _ => (.cvt vd va toInt pg)) s)

/-- Issues a modular instruction of two operands. -/
def veModb (b : Bay) (c : Instr) (op : VMod) (vd va : VReg) (o : VBOp) (v : Fin 64) (pg : PReg) (s : State) : State :=
  veIssue b c (vbRegs o) (fun s => (.modb op vd va (vbVal b o s) v pg)) s

/-- VE.MADD. -/
def execVeMadd (b : Bay) (vd va : VReg) (o : VBOp) (v : Fin 64) (pg : PReg) (s : State) :
    Host.Outcome State Fault Refusal :=
  .next (veModb b (.veMadd b vd va o v pg) .madd vd va o v pg s)

/-- VE.MSUB. -/
def execVeMsub (b : Bay) (vd va : VReg) (o : VBOp) (v : Fin 64) (pg : PReg) (s : State) :
    Host.Outcome State Fault Refusal :=
  .next (veModb b (.veMsub b vd va o v pg) .msub vd va o v pg s)

/-- VE.MMUL. -/
def execVeMmul (b : Bay) (vd va : VReg) (o : VBOp) (v : Fin 64) (pg : PReg) (s : State) :
    Host.Outcome State Fault Refusal :=
  .next (veModb b (.veMmul b vd va o v pg) .mmul vd va o v pg s)

/-- VE.MMAC. -/
def execVeMmac (b : Bay) (vd va : VReg) (o : VBOp) (v : Fin 64) (pg : PReg) (s : State) :
    Host.Outcome State Fault Refusal :=
  .next (veModb b (.veMmac b vd va o v pg) .mmac vd va o v pg s)

/-- VE.MNEG. -/
def execVeMneg (b : Bay) (vd va : VReg) (v : Fin 64) (pg : PReg) (s : State) : Host.Outcome State Fault Refusal :=
  .next (veIssue b (.veMneg b vd va v pg) [] (fun _ => (.mneg vd va v pg)) s)

/-- VE.MRED. -/
def execVeMred (b : Bay) (vd va : VReg) (v : Fin 64) (pg : PReg) (s : State) : Host.Outcome State Fault Refusal :=
  .next (veIssue b (.veMred b vd va v pg) [] (fun _ => (.mred vd va v pg)) s)

/-- VE.MLIFT. -/
def execVeMlift (b : Bay) (vd va : VReg) (v sp : Fin 64) (pg : PReg) (s : State) : Host.Outcome State Fault Refusal :=
  .next (veIssue b (.veMlift b vd va v sp pg) [] (fun _ => (.mlift vd va v sp pg)) s)

/-- The captured write-back of a VE.KMAC; none when a descriptor may not be used. -/
def kmacWb (b : Bay) (wb : Option KmacWb) (s : State) : Option (Option KWb) :=
  match wb with
  | none => some none
  | some w => (unitDesc b w.db s).bind (fun x => (unitDesc b w.da s).map (fun y => some ⟨w.fd, x, y⟩))

/-- VE.KMAC: queues a key product (R149). -/
def execVeKmac (b : Bay) (cr : Ctr) (init : Bool) (dx : Dix) (wb : Option KmacWb) (s : State) :
    Host.Outcome State Fault Refusal :=
  .next (veIssueD b (.veKmac b cr init dx wb) [cr] ([dx] ++ (match wb with | some w => [w.db, w.da] | none => []))
    (fun s => (unitDesc b dx s).bind (fun d =>
      (kmacWb b wb s).map (fun w => .kmac (bitsAt (ctrOf b .x cr s).toNat 8 0) init d w))) s)

/-- VE.LROT. -/
def execVeLrot (b : Bay) (vd va : VReg) (cb : Ctr) (pg : PReg) (s : State) : Host.Outcome State Fault Refusal :=
  .next (veIssue b (.veLrot b vd va cb pg) [cb] (fun s => (.lrot vd va (ctrOf b .x cb s) pg)) s)

/-- VE.PERM. -/
def execVePerm (b : Bay) (vd va vb : VReg) (pg : PReg) (s : State) : Host.Outcome State Fault Refusal :=
  .next (veIssue b (.vePerm b vd va vb pg) [] (fun _ => (.perm vd va vb pg)) s)

/-- VE.SF: an element or row function (R166, R168). -/
def execVeSf (b : Bay) (vd va : VReg) (func : SfFunc) (m1 : Fin 32) (cc : Ctr) (pg : PReg) (s : State) :
    Host.Outcome State Fault Refusal :=
  .next (veIssue b (.veSf b vd va func m1 cc pg) (if func.usesCc then [cc] else [])
    (fun s => (.sf func vd va (m1.val + 1) (if func.usesCc then ctrOf b .x cc s else 0#32) pg)) s)

/-- VE.LD. -/
def execVeLd (b : Bay) (vd : VReg) (fmt : VFmt) (d : Dix) (pg : PReg) (s : State) : Host.Outcome State Fault Refusal :=
  .next (veIssueD b (.veLd b vd fmt d pg) [] [d] (fun s => (unitDesc b d s).map (fun x => .ld vd fmt x pg)) s)

/-- VE.ST: no flag, as its encoding of R221 has no field for the one R155 names. (DESIGN CHOICE, log 172) -/
def execVeSt (b : Bay) (va : VReg) (fmt : VFmt) (d : Dix) (pg : PReg) (s : State) : Host.Outcome State Fault Refusal :=
  .next (veIssueD b (.veSt b va fmt d pg) [] [d] (fun s => (unitDesc b d s).map (fun x => .st va fmt x pg)) s)

/-- VE.LDQ. -/
def execVeLdq (b : Bay) (vd : VReg) (q : Fin 8) (m1 : Fin 32) (pg : PReg) (s : State) :
    Host.Outcome State Fault Refusal :=
  .next (veIssue b (.veLdq b vd q m1 pg) [] (fun _ => (.ldq vd q (m1.val + 1) pg)) s)

/-- VE.GSIGN. -/
def execVeGsign (b : Bay) (pd : PReg) (cg cb : Ctr) (logn : Nat) (pg : PReg) (s : State) :
    Host.Outcome State Fault Refusal :=
  .next (veIssue b (.veGsign b pd cg cb logn pg) [cg, cb]
    (fun s => (.gsign pd (ctrOf b .x cg s) (ctrOf b .x cb s) logn pg)) s)

/-- Marks the counter and flag a summary will write (R151). -/
def markSum (b : Bay) (cn : Ctr) (fn : LFlag) (s : State) : State :=
  s.updBay b (fun x => { (x.setStrm .x (x.x.mark cn true)) with flagBusy := setBit x.flagBusy fn true })

/-- VE.SUM: queues a summary; its counter and flag are interlocked until it lands (R151). -/
def execVeSum (b : Bay) (cn : Ctr) (kind : SumKind) (fn : LFlag) (pg : PReg) (s : State) :
    Host.Outcome State Fault Refusal :=
  .next (issue b .x (.veSum b cn kind fn pg) [cn]
    (fun s =>
      if 16 ≤ (s.bay b).vec.queue.length then stall b .x .vec (.veSum b cn kind fn pg) 0#32 s
      else vePush b (.sum cn kind fn pg) (markSum b cn fn s)) s)

/-- VE.LDP. -/
def execVeLdp (b : Bay) (e m1 : Fin 64) (d : Dix) (s : State) : Host.Outcome State Fault Refusal :=
  .next (veIssueD b (.veLdp b e m1 d) [] [d] (fun s => (unitDesc b d s).map (fun x => .ldp e (m1.val + 1) x)) s)

/-- VE.STAT: queues the copy of VE_STAT into a counter. -/
def execVeStat (b : Bay) (cn : Ctr) (s : State) : Host.Outcome State Fault Refusal :=
  .next (issue b .x (.veStat b cn) [cn]
    (fun s =>
      if 16 ≤ (s.bay b).vec.queue.length then stall b .x .vec (.veStat b cn) 0#32 s
      else vePush b (.stat cn) (s.updStrm b .x (fun x => x.mark cn true))) s)

/-! ### Start (R154) -/

/-- VE_STAT (R159). -/
def veStat (x : Vec) : W32 :=
  BitVec.ofNat 32 (x.lastJ.toNat + (if x.ovf then 2 ^ 8 else 0) + (if x.halt then 2 ^ 16 else 0) + x.queue.length * 2 ^ 17)

/-- A write-back of a VE.KMAC that has not landed meets an extent (R154). -/
def Vec.lands (x : Vec) (d : Desc) : Bool :=
  x.kmacs.any (fun k => meets k.wb.db.extent d.extent || meets k.wb.da.extent d.extent)

/-- The head of the vector queue has what it waits for (R106, R143, R152, R154). -/
def vecReady (x : Bays) (op : VecOp) : Bool :=
  match op with
  | .kmac _ _ dx _ => decide (2 ≤ x.vec.rowsIn.length) && !x.vec.lands dx
  | .ldq _ q m _ => (x.ready q m).isSome
  | .ld .. => x.vec.kmacs.isEmpty
  | .st .. => x.vec.kmacs.isEmpty
  | .ldp .. => x.vec.kmacs.isEmpty
  | .sum _ kind _ _ => kind != .ovf || x.vec.kmacs.isEmpty
  | _ => true

/-- The head of the vector queue can start now. -/
def vecCan (b : Bay) (s : State) : Bool :=
  let x := s.bay b
  unitsRun b s && xLive b s && !x.vec.halt &&
    (match x.vec.queue with
     | e :: _ => vecReady x e.op
     | [] => false)

/-- A read of scratchpad met an uncorrectable word: the load path halts (R158). -/
def veUe (b : Bay) (e : VecEnt) (l : List Nat) (s : State) : State :=
  haltReadPath b e.pc e.seq (ueBytes l 6 (updVec b (fun x => { x with halt := true }) s))

/-- VE.LD as it starts: active lanes are read and converted; zeros when quenched (R142, R144). -/
def runLd (b : Bay) (e : VecEnt) (vd : VReg) (f : VFmt) (d : Desc) (pg : PReg) (s : State) : State :=
  let x := (s.bay b).vec
  let l := x.lanesAddrs pg d f
  if e.quench then updVec b (fun x => x.write pg vd (List.replicate 512 0#32)) s
  else if l.any (byteBad s) then veUe b e l s
  else
    let v := (List.range 512).map (fun i => if (x.pred pg).getLsbD i then fmtLoad f (leNat (s.gather (laneAddrs d f i))) else 0#32)
    updVec b (fun x => x.write pg vd v) s

/-- VE.ST as it starts: active lanes are converted and stored; zeros when quenched (R142, R144, R157). -/
def runSt (b : Bay) (e : VecEnt) (va : VReg) (f : VFmt) (d : Desc) (pg : PReg) (s : State) : State :=
  let x := (s.bay b).vec
  let r := (x.lanes va).map (fun w => if e.quench then (0, false) else fmtStore f w)
  let bytes := (r.zipIdx.flatMap (fun p =>
    if (x.pred pg).getLsbD p.2 then (leBytes p.1.1 (fmtSize f)).map some else List.replicate (fmtSize f) none))
  updVec b (fun x => x.over pg (r.map (fun p => p.2))) (maskOut d bytes s)

/-- The words of m queue entries in lane order. -/
def entryWords (l : List (List Byte)) : List W32 :=
  l.flatMap (fun e => (List.range 16).map (fun i => BitVec.ofNat 32 (fieldAt e (4 * i) 4)))

/-- VE.LDQ as it starts: m entries popped into lanes 16e to 16e + 15; lanes beyond them keep their contents (R146,
R158). -/
def runLdq (b : Bay) (e : VecEnt) (vd : VReg) (q : Fin 8) (m : Nat) (pg : PReg) (ev : CodeEvent) (s : State) : State :=
  match (s.bay b).ready q m with
  | some l =>
    withUnits b e.pc e.seq ev (if e.quench then [] else dqUnits b q m s) (fun s =>
      let w := if e.quench then List.replicate (16 * m) 0#32 else entryWords (slipEntries ev l)
      updVec b (fun x => x.write pg vd (w ++ (x.lanes vd).drop (16 * m))) s)
      (s.updBay b (fun x => x.pop q m))
  | none => s

/-- VE.KMAC as it starts, with the next pair of key rows (R149, R157). -/
def runKmac (b : Bay) (e : VecEnt) (r : Nat) (init : Bool) (dx : Desc) (wb : Option KWb) (s : State) : State :=
  let x := (s.bay b).vec
  match x.rowsIn with
  | kb :: ka :: rest =>
    let l := dx.addrs 0 1024
    let s := updVec b (fun x => { x with rowsIn := rest }) s
    if !e.quench && l.any (byteBad s) then veUe b e l s
    else
      let q := x.q kb.j
      let z := List.replicate 256 0#32
      let d := s.walkWords dx 0 256
      let nb := if e.quench then z else kmacRow q init (x.kaRow r false) d kb.words
      let na := if e.quench then z else kmacRow q init (x.kaRow r true) d ka.words
      updVec b (fun x =>
        { (x.setKa r nb na) with
          lastJ := BitVec.ofNat 6 kb.j
          kmacs := match wb with | some w => x.kmacs ++ [⟨w, nb, na⟩] | none => x.kmacs }) s
  | _ => s

/-- VE.LDP as it starts: every record is checked before any is written (R143). -/
def runVeLdp (b : Bay) (e : VecEnt) (n m : Nat) (d : Desc) (s : State) : State :=
  let l := d.addrs 0 (16 * m)
  if l.any (byteBad s) then veUe b e l s
  else
    let rs := primeRecs (s.gather l) m
    if rs.all primeOk then
      rewrote b 0x13 (0x10000 + 16 * n) (16 * m) (updVec b (fun x => { x with vpt := putPrimes x.vpt n rs }) s)
    else haltStream b .x 0x29 e.pc e.seq s

/-- The residue index of the key rows that wait for the head of the queue. -/
def Vec.waitingJ (x : Vec) : Nat :=
  match x.rowsIn with
  | r :: _ => r.j
  | [] => 0

/-- The registers an instruction wrote supersede what waits to be written back to them, unless its load path halted (R243);
`x` is the engine as it started. -/
def wroteRegs (b : Bay) (op : VecOp) (x : Vec) (s : State) : State :=
  if (s.bay b).vec.halt then s else updProt b (fun p => p.rewritten 3 (op.wrote (x.pred op.pg))) s

/-- The head of the vector queue starts and writes its destination, or faults (R154, R158). The VE_STAT that VE.STAT copies
no longer counts the VE.STAT itself. (DESIGN CHOICE, log 170) -/
def startVec (b : Bay) (e : VecEnt) (ev : CodeEvent) (s : State) : State :=
  let open_ : Nat → W32 := fun i => BitVec.ofNat 32 (Config.freeNat (s.free + i))
  withUnits b e.pc e.seq ev (e.units (s.bay b).vec.waitingJ) (fun s => wroteRegs b e.op (s.bay b).vec <|
    match e.op with
    | .ld vd f d pg => runLd b e vd f d pg s
    | .st va f d pg => runSt b e va f d pg s
    | .ldq vd q m pg => runLdq b e vd q m pg ev s
    | .kmac r init dx wb => runKmac b e r init dx wb s
    | .ldp n m d => runVeLdp b e n m d s
    | .stat cn => landCtr b .x cn (veStat (s.bay b).vec) s
    | .sum cn kind fn pg =>
      updVec b (fun x => { x with sums := x.sums ++ [⟨cn, fn, x.sum kind pg⟩], ovf := if kind = .ovf then false else x.ovf }) s
    | op => drew 2 (updVec b (fun x => if e.quench then x.quench op else x.apply op open_) s))
    (updVec b (fun x => { x with queue := x.queue.drop 1 }) s)

/-- VE_INSTR_START: the head of the vector queue starts once what it waits for is there. -/
def execVeInstrStart (b : Bay) (ev : CodeEvent) (s : State) : Host.Outcome State Fault Refusal :=
  .next
    (match (s.bay b).vec.queue with
     | e :: _ =>
       if vecCan b s then
         guarded b ev ((s.bay b).vec.touched e).1 ((s.bay b).vec.touched e).2 (startVec b e ev) s
       else s
     | [] => s)

/-- The oldest write-back of a VE.KMAC lands and its flag sets (R149). -/
def landKmac (b : Bay) (k : KmacPend) (s : State) : State :=
  let s := updVec b (fun x => { x with kmacs := x.kmacs.drop 1 }) s
  let s := streamOut k.wb.db (k.b.flatMap (fun w => leBytes w.toNat 4)) s
  let s := streamOut k.wb.da (k.a.flatMap (fun w => leBytes w.toNat 4)) s
  putFlag b k.wb.fd true s

/-- VE_KMAC_WRITEBACK: the oldest write-back of a VE.KMAC lands, unless a page it writes waits for a repair (R149, R248). -/
def execVeKmacWriteback (b : Bay) (ev : CodeEvent) (s : State) : Host.Outcome State Fault Refusal :=
  .next
    (match (s.bay b).vec.kmacs with
     | k :: _ =>
       if alive s then guarded b ev [] (k.wb.db.addrs 0 1024 ++ k.wb.da.addrs 0 1024) (landKmac b k) s else s
     | [] => s)

/-- A queued summary will write the flag (R151). -/
def VecOp.writesFlag (op : VecOp) (f : LFlag) : Bool :=
  match op with
  | .sum _ _ fn _ => fn == f
  | _ => false

/-- VE_SUM_RESULT: the oldest summary lands in its counter, and its flag tells whether it is nonzero; the interlock ends with
the last summary of the flag (R151). -/
def execVeSumResult (b : Bay) (s : State) : Host.Outcome State Fault Refusal :=
  .next
    (match (s.bay b).vec.sums with
     | k :: r =>
       if alive s then
         let s := s.updBay b (fun x =>
           { x with
             vec := { x.vec with sums := r }
             flagBusy :=
               if r.any (fun z => z.fn == k.fn) || x.vec.queue.any (fun e => e.op.writesFlag k.fn) then x.flagBusy
               else setBit x.flagBusy k.fn false })
         putFlag b k.fn (k.val != 0#32) (landCtr b .x k.cn k.val s)
       else s
     | [] => s)

/-! ### Key-row delivery (R105, R106) -/

/-- Who asks for the next key row: a running stationary load of a tile, a VE.KMAC at the head of its queue, or a consumer
that cannot take one yet. -/
inductive Taker where
  | load (lt : Lt)
  | kmac
  | blocked
  deriving DecidableEq, Repr

/-- The takers of a bay with the order in which their instructions were issued. -/
def takers (x : Bays) : List (Nat × Taker) :=
  ((List.finRange 8).flatMap (fun lt =>
    let t := x.tiles[lt]
    (match t.load with
     | some l => if l.tide && decide (l.next < l.n) then [(l.seq, Taker.load lt)] else []
     | none => []) ++
    (match t.stopped with
     | some l => if l.tide then [(l.seq, Taker.blocked)] else []
     | none => []) ++
    t.queue.filterMap (fun e => match e.op with | .lds _ _ true _ _ _ => some (e.seq, Taker.blocked) | _ => none))) ++
  (x.vec.queue.zipIdx.filterMap (fun p =>
    match p.1.op with
    | .kmac .. =>
      if p.2 = 0 then (if x.vec.rowsIn.length < 2 then some (p.1.seq, Taker.kmac) else none)
      else some (p.1.seq, Taker.blocked)
    | _ => none))

/-- The oldest taker, who receives the next row (R106). -/
def oldestTaker (l : List (Nat × Taker)) : Option Taker :=
  match l with
  | [] => none
  | e :: r => some (r.foldl (fun a b => if b.1 < a.1 then b else a) e).2

/-- The row a stationary load took last supersedes what waits to be written back there (R243). -/
def rowTaken (b : Bay) (lt : Lt) (s : State) : State :=
  match (tileOf b lt s).load with
  | some l => rowsWritten b lt (tileOf b lt s).mode l.buf (l.next - 1) 1 s
  | none => s

/-- A delivered row of stream `sid` goes into a stationary buffer, or to the VE.KMAC that waits for it (R106, R107). -/
def giveRow (b : Bay) (k : Taker) (sid : Nat) (row : KeyRow) (s : State) : State :=
  match k with
  | .load lt =>
    rowTaken b lt <| updTile b lt (fun t =>
      match t.load with
      | some l =>
        { (t.setSbuf l.buf ((t.sbuf l.buf).putRow t.mode l.next (if l.quench then List.replicate 256 0#32 else row.words))) with
          load := some { l with next := l.next + 1, wl := none, fed := some sid } }
      | none => t) s
  | .kmac => updVec b (fun x => { x with rowsIn := x.rowsIn ++ [row] }) s
  | .blocked => s

/-- A row of a bay was delivered: no interrupted Tide load of the bay may resume (R107). -/
def noTideKept (x : Bays) : Bays := { x with tiles := x.tiles.map (fun t => { t with tideKept := none }) }

/-- A 64-bit word of a completed segment replaced. -/
def Tide.setWord (t : Tide) (sid num k v : Nat) : Tide :=
  { t with segs := t.segs.map (fun g => if g.sid = sid ∧ g.num = num then g.setWord k v else g) }

/-- The read of a row as it is delivered: a stored row comes from word `w` of the key buffer on, under the page code; a seeded
one is a quarter of a segment in the regeneration queue, whose word may be uncorrectable, corrected, or pass its code wrong (R242,
R243, R248, R251, R453). -/
def rowRead (b : Bay) (ev : CodeEvent) (w : Option Nat) (g : Option (Nat × Nat × Nat)) (k : State → State) (s : State) : State :=
  match w with
  | some w =>
    let own := fun i : Nat => decide (w ≤ i) && decide (i < w + 128)
    if (s.bay b).prot.repairs? (w / 512) then s
    else
      match ev with
      | .page i => if own i && !(s.bay b).prot.bad.contains i then askRepair b i s else k s
      | .wrong i v => k (if own i then misread b i v s else s)
      | .fixed id i => k (if id = 2#8 ∧ own i = true then correctedAt b 2 (8 * (i - spadWords)) s else s)
      | _ => k s
  | none =>
    match g with
    | some (sid, num, r) =>
      let word := fun i : Nat => 128 * r + i % 128
      let off := fun i : Nat => segOff b sid num + 8 * word i
      match ev with
      | .queue i => haltTide b (ueAt 4 b (off i) s)
      | .fixed id i => k (if id = 4#8 then correctedAt b 4 (off i) s else s)
      | .slip id i v => k (if id = 4#8 then updTide b (fun t => t.setWord sid num (word i) v) s else s)
      | _ => k s
    | none => k s

/-- The row is delivered, or a known-bad word of it halts Tide's channel (R105 to R108, R247). -/
def deliverRow (b : Bay) (st : TStream) (k : Taker) (w : Option Nat) (s : State) : State :=
  match badInRow (s.bay b).prot w with
  | some i => haltTide b (uePage b i s)
  | none =>
    match (s.bay b).tide.nextRow (s.bay b).keyBuf st b with
    | some row => rowOut b st (giveRow b k st.sid row (s.updBay b noTideKept))
    | none => s

/-- The next row is given as zeros, with nothing read (R101, R103, R108). -/
def Tide.zeros (t : Tide) (st : TStream) : Bool := st.zero || t.halt

/-- KEY_ROW_DELIVER: Tide delivers its next available row to the oldest consumer; an uncorrectable key-buffer or queue
entry halts its channel (R105 to R108, R251). -/
def execKeyRowDeliver (b : Bay) (ev : CodeEvent) (s : State) : Host.Outcome State Fault Refusal :=
  .next
    (let x := s.bay b
     match x.tide.source, oldestTaker (takers x) with
     | some st, some k =>
       if !alive s || x.parked || x.parkPend || k == .blocked then s
       else
         match x.tide.nextRow x.keyBuf st b with
         | some _ =>
           let w := x.tide.rowWord st b
           if x.tide.zeros st then deliverRow b st k w s else rowRead b ev w (x.tide.rowSeg st) (deliverRow b st k w) s
         | none => s
     | _, _ => s)

end Sys2Proof.Machine
end

