-- ==== Sys2Proof/Machine/Wait.lean ====
section
/-! DEFINITION. The wait timeout, the no-progress detector, the end of a park and the release of a program (R196 to R208). -/

namespace Sys2Proof.Machine

/-! ### Waits (R198, R199) -/

/-- Waits with this cause end through events elsewhere on the device. -/
def Cause.external : Cause → Bool
  | .flagG => true
  | .hop => true
  | .pool => true
  | _ => false

/-- Waits with this cause are watched by the no-progress detector. -/
def Cause.watched : Cause → Bool
  | .flagLink => false
  | c => c.timed

/-- A unit's oldest instruction that cannot start: its order of issue, its PC, its timer once a position has passed, and
the wait's cause. -/
structure UnitWait where
  seq : Nat
  pc : BitVec 15
  wl : Option UWait
  cause : Cause

/-- The cause of a tile entry's wait: TILE for a multiplication on a buffer not LOADED in some tile it names and for an
MM.LDP behind a bank not EMPTY, OTHER else (R69, R79, R198). -/
def TileOp.cause (op : TileOp) (x : Bays) (t : Tile) : Cause :=
  match op with
  | .mul mask buf _ _ _ _ =>
    if (List.finRange 8).all (fun i => !mask.getLsbD i || (if buf then x.tiles[i].s1 else x.tiles[i].s0).st == .loaded) then
      .other
    else .tile
  | .ldp .. => if t.ob0.st = .empty ∧ t.ob1.st = .empty then .other else .tile
  | _ => .other

/-- The cause of a wait for a key row: HOP where the row's stream has passed its own check and waits for the other bays of its
set, KEY_EMPTY else (R100, R198). -/
def Tide.cause (t : Tide) : Cause :=
  match t.streams with
  | x :: _ => if x.bound && x.chk.isSome && !x.allowed && !x.zero then .hop else .keyEmpty
  | [] => .keyEmpty

/-- The cause of a vector entry's wait: a VE.KMAC with its rows there waits for scratchpad alone. -/
def VecOp.cause (x : Bays) : VecOp → Cause
  | .kmac .. => if 2 ≤ x.vec.rowsIn.length then .other else x.tide.cause
  | .ldq .. => .dqEmpty
  | _ => .other

/-- The wait of a queue's head, where it cannot start. -/
def headWait (can : Bool) (e : Option UnitWait) : List UnitWait := if can then [] else e.toList

/-- The waits of a tile: a stationary load that waits for a key row (R106), and the head of the queue. -/
def tileWaits (b : Bay) (lt : Lt) (s : State) : List UnitWait :=
  let x := s.bay b
  let t := tileOf b lt s
  (match t.load with
   | some l => if l.tide && decide (l.next < l.n) then [⟨l.seq, l.pc, l.wl, x.tide.cause⟩] else []
   | none => []) ++
  headWait (tileCan b lt s) (t.queue.head?.map (fun e => ⟨e.seq, e.pc, e.wl, e.op.cause x t⟩))

/-- The waiting instructions of the units a stream issued to; none while the bay parks or is parked (R198, R207).
(DEDUCED, log 120) -/
def unitWaits (b : Bay) (st : Strm) (s : State) : List UnitWait :=
  let x := s.bay b
  if x.parkPend || x.parked then []
  else
    match st with
    | .a => headWait (xferCan b s) (x.xf.queue.head?.map (fun e => ⟨0, e.pc, e.wl, .other⟩))
    | .x =>
      (List.finRange 8).flatMap (fun i => tileWaits b i s) ++
      headWait (vecCan b s) (x.vec.queue.head?.map (fun e => ⟨e.seq, e.pc, e.wl, e.op.cause x⟩)) ++
      headWait (ntCan b s) (x.nt.queue.head?.map (fun e => ⟨e.seq, e.pc, e.wl, .other⟩))

/-- The oldest of a list of waits, in program order. -/
def oldestWait (l : List UnitWait) : Option UnitWait :=
  match l with
  | [] => none
  | e :: r => some (r.foldl (fun a b => if b.seq < a.seq then b else a) e)

/-- The unit waits of a stream that have reached their timeout, each instruction once. -/
def expiredUnits (b : Bay) (st : Strm) (s : State) : List UnitWait :=
  ((unitWaits b st s).filter (fun e => e.wl.any (fun w => decide (w.limit ≤ w.timer)))).foldr
    (fun e l => if l.any (fun g => g.seq == e.seq && g.pc == e.pc) then l else e :: l) []

/-- The no-progress count at which DLK is raised (R200). -/
def dlkCount : Nat := 4096

/-- WAIT_TIMEOUT: a wait whose timer has reached the timeout halts its stream with fault 0x32; every wait that falls due is
counted and the oldest instruction's PC recorded, also in a stream that another fault halted in this cy; DLK alone is raised when
both fall due (R199, R201, R428). (DEDUCED, log 27) -/
def execWaitTimeout (b : Bay) (st : Strm) (s : State) : Host.Outcome State Fault Refusal :=
  .next
    (let us := expiredUnits b st s
     let own := (s.strm b st).ownDue
     if !alive s || (s.strm b st).deaf || (s.strm b st).timedOut || (s.bay b).npc == dlkCount then s
     else
       let done := fun s : State => s.updStrm b st (fun x => { x with timedOut := true })
       match oldestWait us with
       | some u =>
         done (haltStream b st 0x32 u.pc u.seq
           (Nat.repeat (countFault 0x32 b (strmNo st)) (us.length - 1 + (if own then 1 else 0)) s))
       | none => if own then done (trap b st 0x32 s) else s)

/-! ### The no-progress detector (R200, R201) -/

/-- The PC of the instruction that waits in a stream or in the units it issued to; its next PC when none does. -/
def waitPc (b : Bay) (st : Strm) (s : State) : BitVec 15 :=
  match oldestWait (unitWaits b st s) with
  | some u => u.pc
  | none => (s.strm b st).pc

/-- The age of that instruction (R428). -/
def waitAge (b : Bay) (st : Strm) (s : State) : Nat :=
  match if (s.strm b st).status = .parked ∨ (s.strm b st).status = .wait then none else oldestWait (unitWaits b st s) with
  | some u => u.seq
  | none => (s.bay b).issued

/-- DLK halts a stream that is neither IDLE nor HALTED before this cy; the cause of its wait stays readable, and no timeout of the
cy is posted (R201, R428). -/
def dlkStream (b : Bay) (st : Strm) (s : State) : State :=
  if (s.strm b st).status = .idle ∨ (s.strm b st).deaf then s
  else
    let x := s.strm b st
    let pc := if x.status = .parked then x.fpc else if x.status = .wait then x.pc else waitPc b st s
    (haltRec b st (b + 16 * strmNo st) 0x31 pc (waitAge b st s) true s).updStrm b st (fun x => { x with timedOut := true })

/-- A stream the no-progress detector can halt. -/
def dlkHits (b : Bay) (st : Strm) (s : State) : Bool := (s.strm b st).status != .idle && !(s.strm b st).deaf

/-- DLK: the bay has not moved for 4,096 cy; both streams halt with fault 0x31, counted once for the bay (R201, R428).
(DEDUCED, log 28) -/
def execDlk (b : Bay) (s : State) : Host.Outcome State Fault Refusal :=
  .next
    (if alive s && (s.bay b).npc == dlkCount && (dlkHits b .a s || dlkHits b .x s) then
       let s := countFault 0x31 b (if dlkHits b .a s then 0 else 1) s
       let s := withdrawHop b (dlkStream b .x (dlkStream b .a s))
       s.setBay b { s.bay b with npc := 0 }
     else s)

/-! ### Parks and release -/

/-- A stream is parked, IDLE or HALTED (R207). -/
def Stream.parkedNow (x : Stream) : Bool := x.status == .parked || x.status == .idle || x.status == .halted

/-- Every started instruction of the bay's units has completed or stopped (R207). -/
def unitsStill (x : Bays) : Bool :=
  x.tiles.all (fun t => t.load.isNone && t.muls.isEmpty && t.drain.isNone) && x.vec.kmacs.isEmpty && x.vec.sums.isEmpty &&
    x.nt.run.isNone && x.tbl.loads.isEmpty && x.xf.active.isEmpty && (x.xf.ring.isNone || x.xf.halt)

/-- PARK_COMPLETE: the bay's parked bit sets once both streams are parked and its started work has stopped (R207). -/
def execParkComplete (b : Bay) (s : State) : Host.Outcome State Fault Refusal :=
  .next
    (let x := s.bay b
     if alive s && x.parkPend && x.a.parkedNow && x.x.parkedNow && unitsStill x then
       s.setBay b { x with parkPend := false, parked := true }
     else s)

/-- Starts a stream that waits for its launch's release beat (R196). -/
def Stream.start (x : Stream) (mask : BayMask) : Stream :=
  if x.waitsOn (.programRelease mask) then { x with status := .run, wait := none, fpc := 0#15 } else x

/-- Starts both streams of every bay of a mask. -/
def startBays (mask : BayMask) (s : State) : State :=
  (List.finRange 12).foldl (fun (s : State) (b : Bay) =>
    if mask.getLsbD b then s.updBay b (fun x => { x with a := x.a.start mask, x := x.x.start mask }) else s) s

/-- A launch's release beat has come: compared on all 48 bits, and never in HOLD (R196, R197, R310). -/
def released (l : Launch) (s : State) : Bool := decide (l.beat.toNat ≤ s.beatNat) && s.beat.st != .hold

/-- PROGRAM_RELEASE: the streams of a launched image start at PC 0 in its release beat (R196). -/
def execProgramRelease (mask : BayMask) (s : State) : Host.Outcome State Fault Refusal :=
  .next
    (match s.ldr.launches.find? (fun l => l.bays == mask && released l s) with
     | some l =>
       if alive s then
         let s := startBays mask s
         { s with ldr := { s.ldr with launches := s.ldr.launches.erase l } }
       else s
     | none => s)

end Sys2Proof.Machine
end

