-- ==== Sys2Proof/Machine/Beat.lean ====
section
/-! DEFINITION. The beat time base: markers, edges, states, and what the grid counts (R301 to R311, R332, R333). -/

namespace Sys2Proof.Machine

/-- Changes the time base. -/
def updBeat (f : Beat → Beat) (s : State) : State := { s with beat := f s.beat }

/-- All four lanes hold alignment (R331). -/
def linkUp (s : State) : Bool := s.link.lanes == 0xF#4

/-- The largest BEAT (R310). -/
def beatMax : Nat := 2 ^ 48 - 1

/-- A BEAT_EXC entry (R320): code, BNUM of the marker or 0, BEAT before the event, arrival - X. (DEDUCED, log 75) -/
def beatExc (code bnum before : Nat) (off : Int) : State → State :=
  record 1 bnum code (before + (BitVec.ofInt 16 off).toNat * 2 ^ 64)

/-! ### Markers (R301, R304 to R308, R332, R333) -/

/-- BEAT_BLOCK_RECEIVE: a BEAT block with a good CRC-8 becomes a marker under way to the time base; another is counted
(R332, R333). -/
def execBeatBlockReceive (bnum : BitVec 48) (crc : Byte) (s : State) : Host.Outcome State Fault Refusal :=
  .next
    (if s.pwr.st == .run && linkUp s then
       if crc8 (leBytes bnum.toNat 6) = crc then updBeat (fun t => { t with inflight := t.inflight ++ [bnum] }) s
       else { s with link := { s.link with cBadBeat := satAdd 32 s.link.cBadBeat 1 } }
     else s)

/-- Acquisition runs (R308). -/
def Beat.acquires (t : Beat) : Bool :=
  t.st == .acquire || ((t.st == .lost || t.st == .free) && t.acquiring) || (t.st == .lost && t.autoRelock)

/-- A marker qualifies against the previous one, or is a start (R306). -/
def Beat.qualify (t : Beat) (bnum : BitVec 48) (gap : Nat) : Beat :=
  if t.st == .hold || t.st == .locking || t.acquires then
    let ok := decide (2450 ≤ gap) && decide (gap ≤ 2550) && t.lastBnum == some (bnum - 1) && t.qual != 0
    { t with qual := if ok then t.qual + 1 else 1, missing := 0 }
  else t

/-- A marker rejected for position, or for number (R304): counted and recorded. -/
def rejectMarker (number : Bool) (bnum : Nat) (off : Int) (s : State) : State :=
  let s := strobe 3 s
  if number then beatExc 3 bnum s.beatNat off (updBeat (fun t => { t with cNum := satAdd 32 t.cNum 1, seen := true }) s)
  else beatExc 2 bnum s.beatNat off (updBeat (fun t => { t with cPos := satAdd 32 t.cPos 1 }) s)

/-- A marker rejected live: the script's outcome of the position replaces the rejection, unless it records the same one (R326). -/
def rejectLive (number : Bool) (bnum : Nat) (off : Int) (s : State) : State :=
  match scriptBeatExc s with
  | none => rejectMarker number bnum off s
  | some c =>
    if scriptHas (if number then 3 else 2) s then rejectMarker number bnum off s
    else if c = 2 ∨ c = 3 then rejectMarker (c == 3) bnum off s
    else if number then updBeat (fun t => { t with seen := true }) s else s

/-- A marker in LOCKING or LOCKED: accepted, or rejected for position or for number (R304). Where the script records the position
as rejected, so is a valid marker; one it records as bridged or missing is seen and counts for nothing (R326). -/
def acceptMarker (bnum : BitVec 48) (off : Int) (s : State) : State :=
  let t := s.beat
  if off < -50 ∨ 50 < off ∨ t.seen then rejectLive false bnum.toNat off s
  else if bnum.toNat ≠ s.beatNat + 1 then rejectLive true bnum.toNat off s
  else if (scriptRejects s).isSome then rejectMarker (scriptBeatExc s == some 3) bnum.toNat off (updBeat (fun t => { t with seen := true }) s)
  else if (scriptBeatExc s).isSome then updBeat (fun t => { t with seen := true, accepted := some off }) s
  else
    strobe 2 (updBeat (fun t =>
      { t with
        seen := true, accepted := some off, lastOff := off, accNum := bnum, missing := 0
        cAccepted := satAdd 64 t.cAccepted 1, close := if -8 ≤ off ∧ off ≤ 8 then t.close + 1 else 0 }) s)

/-- MARKER_ARRIVAL: the oldest marker under way arrives `off` cy from X of the position whose edge is next and `gap` cy after
the previous one (R301, R304 to R306). (DESIGN CHOICE, log 71) -/
def execMarkerArrival (off : Int) (gap : Nat) (s : State) : Host.Outcome State Fault Refusal :=
  .next
    (match s.beat.inflight with
     | bnum :: r =>
       if clocked s then
         let s := updBeat (fun t =>
           { (t.qualify bnum gap) with inflight := r, came := true, lastBnum := some bnum, arrOff := off }) s
         if s.beat.st == .locking || s.beat.st == .locked then acceptMarker bnum off s else s
       else s
     | [] => s)

/-! ### What the grid counts (R199, R302, R338, R342, R345) -/

/-- The timer of a unit's head at a position: it counts while the head cannot start. -/
def UWait.tick (w : Option UWait) (can : Bool) (limit : Nat) : Option UWait :=
  if can then none
  else match w with
    | some w => some { w with timer := w.timer + 1 }
    | none => some ⟨1, limit⟩

/-- The timer of a unit's head when the timeout is written: a wait that has begun keeps the old one (R199). -/
def UWait.arm (w : Option UWait) (can : Bool) (limit : Nat) : Option UWait :=
  match w with
  | some w => some w
  | none => if can then none else some ⟨0, limit⟩

/-- What a tick or a write of the timeout does with a unit's timer. -/
abbrev UTick := Option UWait → Bool → Nat → Option UWait

/-- Applies it to the head of a tile's queue, and to a stationary load that waits for a key row. -/
def Tile.tick (t : Tile) (f : UTick) (can : Bool) (limit : Nat) : Tile :=
  { t with
    queue := match t.queue with
      | e :: r => { e with wl := f e.wl can limit } :: r
      | [] => []
    load := t.load.map (fun l => { l with wl := f l.wl (!(l.tide && decide (l.next < l.n))) limit }) }

/-- Applies it to the timers of a bay's units; none while the bay is parked (R207). -/
def tickUnits (f : UTick) (b : Bay) (s : State) : Bays :=
  let x := s.bay b
  let lim := s.od.waitTimeout
  if x.parkPend || x.parked then x
  else
    { x with
      tiles := x.tiles.mapFinIdx (fun i t h => t.tick f (tileCan b ⟨i, h⟩ s) lim)
      vec := { x.vec with
        queue := match x.vec.queue with
          | e :: r => { e with wl := f e.wl (vecCan b s) lim } :: r
          | [] => [] }
      nt := { x.nt with
        queue := match x.nt.queue with
          | e :: r => { e with wl := f e.wl (ntCan b s) lim } :: r
          | [] => [] }
      xf := { x.xf with
        queue := match x.xf.queue with
          | e :: r => { e with wl := f e.wl (xferCan b s) lim } :: r
          | [] => [] } }

/-- The wait timer of a stream (R199). -/
def Stream.tick (x : Stream) : Stream :=
  if x.status = .wait then
    { x with wait := x.wait.map (fun w => if w.cause.timed then { w with timer := w.timer + 1 } else w) }
  else x

/-- Every wait timer of a bay at a position. -/
def tickBay (s : State) (b : Bay) : Bays :=
  let x := tickUnits UWait.tick b s
  { x with a := x.a.tick, x := x.x.tick }.cyOver

/-- A session's timers: FINISH after ACCEPT, and idle time (R342, R345). -/
def Session.tick (x : Session) : Session :=
  match x.ph with
  | .finish => { x with timer := x.timer + 1 }
  | .opened => { x with timer := x.timer + 1 }
  | _ => x

/-- The link's position counts: DOWN, and frames outstanding with no ACK that advances (R331, R338). -/
def Link.tick (l : Link) : Link :=
  { l with
    downPos := if l.lanes = 0xF#4 then 0 else l.downPos + 1
    sinceAck := if l.unacked.isEmpty then 0 else l.sinceAck + 1 }

/-- A raise under way is one position nearer its clock switch. -/
def lessRaise (r : Option (Nat × Nat)) : Option (Nat × Nat) :=
  match r with
  | some (n, c) => some (n - 1, c)
  | none => none

/-- The largest reading of several sensors (R416). -/
def hottest {n : Nat} (v : Vector Int (n + 1)) : Int := v.toList.foldl max v[0]

/-- The thermal and power manager at an edge, from the readings of the bt just ended (R413 to R421).
(DESIGN CHOICE, log 112) -/
def Power.edge (p : Power) (smp : Sample) (ceilingW : Nat) (stack : Int) : Power :=
  let p := { p with
    hist := p.hist + 1
    inputMv := smp.inputMv, inputW := smp.inputW, bayTemp := smp.bayTemp.map hottest, uncoreTemp := hottest smp.uncoreTemp
    psFault := p.psFault &&& smp.psBad, limitSet := p.limitAsked
    bayMv := smp.bayMv, uncoreMv := smp.uncoreMv
    v40 := if 40000 ≤ smp.inputMv then min 1024 (p.v40 + 1) else 0
    low := if 40000 ≤ smp.inputMv then 0 else min 1024 (p.low + 1)
    settle := p.settle.map (fun n => if 1 < n then n - 1 else n)
    raise := p.raise.map lessRaise }
  let p := { p with limit := p.limitNow }
  let p := p.capsAt.counts ceilingW
  { p with thermN := p.thermPin stack }

/-! ### Edges (R302, R303, R305, R310, R322) -/

/-- The position is accepted, after the replay script has had its say (R304, R326). -/
def posAccepted (s : State) : Bool := s.beat.accepted.isSome && (scriptBeatExc s).isNone

/-- The position is bridged (R305). -/
def posBridged (s : State) : Bool := !posAccepted s && decide (s.beat.missing + 1 ≤ 7)

/-- BEAT advances by one, up to its last value (R310). -/
def Beat.advance (t : Beat) : Beat := if t.beat.toNat = beatMax then t else { t with beat := t.beat + 1, hpos := 0 }

/-- A position with no marker that the script records as rejected is counted and recorded as the script has it (R326). -/
def missedReject (e : Entry) (before : Nat) (s : State) : State :=
  beatExc e.len e.arg before (BitVec.ofNat 16 (e.payload / 2 ^ 64)).toInt
    (updBeat (fun t =>
      if e.len = 3 then { t with cNum := satAdd 32 t.cNum 1 } else { t with cPos := satAdd 32 t.cPos 1 }) s)

/-- The edge of a position in LOCKING or LOCKED: accepted, bridged or missing (R303 to R305). -/
def lockedEdge (s : State) : State :=
  let before := s.beatNat
  let live := s.beat.accepted.isSome
  let code := scriptBeatExc s
  if live && code.isNone then updBeat (fun t => { t with missing := 0 }.advance) s
  else
    let s := if !live && code.isNone && s.rcd.replay == .active then diverge 1 (headSeq s) s else s
    let m := s.beat.missing + 1
    let s := updBeat (fun t => { t with missing := m, close := 0 }) s
    let rej := scriptRejects s
    let came := s.beat.came
    let s := if m ≤ 7 then updBeat (fun t => { t with cBridged := satAdd 32 t.cBridged 1 }.advance) s else s
    if live then (if code = some 4 then s else beatExc (code.getD 1) 0 before 0 s)
    else if came && code != some 1 then s
    else
      match rej with
      | some e => missedReject e before s
      | none => if m ≤ 7 then beatExc 1 0 before 0 s else s

/-- FREE is entered at this edge: BEAT changes as the state being left prescribes for the position (R309, R310).
(DEDUCED, log 74) -/
def freeEdge (s : State) : State :=
  let before := s.beatNat
  let st := s.beat.st
  if st = .free then updBeat Beat.advance s
  else
    let s := if st = .locking ∨ st = .locked then lockedEdge s
      else if st = .lost then updBeat Beat.advance s else s
    throttle 7 255 0
      (beatExc 7 0 before 0 (updBeat (fun t => { t with st := .free, missing := 0, qual := 0, acquiring := false }) s))

/-- The edge of a position the grid was moved to (R306, R308). -/
def jumpEdge (bnum : BitVec 48) (s : State) : State :=
  let before := s.beatNat
  let locking := s.beat.st != .hold
  let s := updBeat (fun t =>
    { t with
      beat := bnum, hpos := 0, missing := 0, qual := 0, close := 0, acquiring := false
      from_ := if locking then t.st else t.from_
      st := if locking then .locking else .locked }) s
  beatExc (if locking then 8 else 5) bnum.toNat before 0 s

/-- LOST is entered at this edge from HOLD: fault 0x51 counted and recorded (R307, R316, R318). -/
def enterLost (s : State) : State :=
  let s := beatExc 6 0 s.beatNat 0
    (updBeat (fun t => { t with st := .lost, missing := 0, qual := 0, acquiring := false }) (countFault 0x51 15 3 s))
  recFault 15 0x51 0#15 (throttle 7 255 0 s)

/-- LOCKED is entered from LOCKING (R308). -/
def enterLocked (s : State) : State :=
  beatExc 9 s.beat.accNum.toNat s.beatNat s.beat.lastOff (updBeat (fun t => { t with st := .locked }) s)

/-- The edge of a position whose turn the script records: its outcome replaces the live one (R326). -/
def scriptedEdge (e : Entry) (s : State) : State :=
  if e.len = 6 then enterLost s
  else if e.len = 9 then enterLocked (lockedEdge s)
  else jumpEdge (BitVec.ofNat 48 e.arg) s

/-- What the edge makes of BEAT and the state (R303 to R310). -/
def edgeBeat (s : State) : State :=
  let turn := scriptTurn s
  let s := strobe 0 s
  let s := updBeat (fun t => { t with hpos := t.hpos + 1, pos := satAdd 64 t.pos 1, edgeNow := true }) { s with tick := 0 }
  let s :=
    if s.beat.freePend then freeEdge s
    else match turn, s.beat.jump with
      | some e, _ => scriptedEdge e s
      | none, some n => jumpEdge n s
      | none, none =>
        match s.beat.st with
        | .locking => lockedEdge s
        | .locked => lockedEdge s
        | .hold => updBeat (fun t => if t.came then t else { t with missing := t.missing + 1 }) s
        | .lost => updBeat Beat.advance s
        | .free => updBeat Beat.advance s
        | .acquire => s
  updBeat (fun t => { t with accepted := none, seen := false, came := false, jump := none, freePend := false }) s

/-- A bar edge: the CHECKPOINT of the bar being left, and a new bar digest (R310, R322, R325). -/
def barEdge (old : Nat) (s : State) : State :=
  let new := s.beatNat / 1024
  if old = new then s
  else
    let r := s.run
    let s := strobe 1 s
    let s := record 0x12 old (runFlags r)
      (r.barDigest.toNat + r.digest.toNat * 2 ^ 64 + r.barHdrs % 2 ^ 32 * 2 ^ 128) s
    checkGap new { s with run := { s.run with lastBar := r.barDigest, barDigest := 0#64, barHdrs := 0 } }

/-- FEC codewords of the link counted at a position (R350). (DESIGN CHOICE, log 126) -/
def Link.fec (l : Link) (smp : Sample) : Link :=
  { l with fecCorr := satAdd 64 l.fecCorr smp.fecFixed, fecUncorr := satAdd 64 l.fecUncorr smp.fecBad }

/-- The response to a request has left, or is no longer to be sent. -/
def Link.answered (l : Link) (lseq : Nat) : Bool :=
  !l.resps.any (fun r => r.lseq == lseq) && !l.out.any (fun f => f.ask == some lseq)

/-- Resets at an edge: the bays' take effect, and the link-commanded one once no limited write is in progress, and its own response
and that of a limited write it waited for have left (R433). (DEDUCED, log 103) -/
def Resets.edge (r : Resets) (l : Link) (limited : Bool) : Resets :=
  { r with
    linkDue := !limited && (match r.link with
      | some q => l.answered q && r.after.all l.answered
      | none => false)
    baysDue := r.bays }

/-- BEAT_EDGE: at the edge of a position BEAT advances, jumps or stays, the manager acts on the sample, and everything counted
in positions advances (R302, R303, R413). -/
def execBeatEdge (smp : Sample) (s : State) : Host.Outcome State Fault Refusal :=
  .next
    (if clocked s then
       let old := s.beatNat / 1024
       let s := { s with rcd := { s.rcd with cyEnt := [] }, faults := { s.faults with gongNow := false } }
       let s := s.mapBays (fun b _ => tickBay s b)
       let s := edgeBeat s
       let s := updPwr (fun p => p.edge smp s.trust.fuses.ceilingW (stackMax s)) s
       let s := { s with
         link := s.link.tick.fec smp, sess := s.sess.map Session.tick, od := { s.od with tmxNow := s.od.tmxSel }
         tmx := if s.od.tmxNow = s.od.tmxSel then s.tmx else { s.tmx with hold := 16 }
         rst := s.rst.edge s.link s.trust.wlim.isSome }
       replayAdvance (barEdge old (setTargets (resumePulses s)))
     else s)

/-! ### Changes of state (R305 to R308) -/

/-- HOLD_ENTER: at the edge of the 8th consecutive missing position in LOCKED (R305, R316). -/
def execHoldEnter (s : State) : Host.Outcome State Fault Refusal :=
  .next
    (if clocked s && s.beat.edgeNow && s.beat.st == .locked && decide (8 ≤ s.beat.missing) then
       throttle 6 255 0 (beatExc 4 0 s.beatNat 0
         (updBeat (fun t => { t with st := .hold, qual := 0, cHold := satAdd 32 t.cHold 1 }) s))
     else s)

/-- An exit or acquisition refused: counted, and qualification starts again (R306, R308). -/
def refuseExit (n : BitVec 48) (s : State) : State :=
  beatExc 10 n.toNat s.beatNat s.beat.arrOff (updBeat (fun t => { t with qual := 0, cRefused := satAdd 32 t.cRefused 1 }) s)

/-- HOLD_EXIT: the 4th consecutive qualifying marker in HOLD moves the grid, so that BEAT takes its number at the next edge,
or is refused (R306). -/
def execHoldExit (s : State) : Host.Outcome State Fault Refusal :=
  .next
    (match s.beat.lastBnum with
     | some n =>
       if clocked s && s.beat.st == .hold && decide (4 ≤ s.beat.qual) then
         if s.beatNat < n.toNat && !scriptRefuses s then updBeat (fun t => { t with jump := some n, qual := 0 }) s else refuseExit n s
       else s
     | none => s)

/-- BEAT_LOST: at the edge of the 1,024th consecutive missing position fault 0x51 is counted and recorded, and LOST is entered
(R307, R316, R318). -/
def execBeatLost (s : State) : Host.Outcome State Fault Refusal :=
  .next
    (if clocked s && s.beat.edgeNow && s.beat.st == .hold && decide (1024 ≤ s.beat.missing) then enterLost s else s)

/-- ACQUISITION_DONE: the 16th consecutive qualifying marker moves the grid, so that LOCKING is entered with its number at the
next edge, or is refused (R308). -/
def execAcquisitionDone (s : State) : Host.Outcome State Fault Refusal :=
  .next
    (match s.beat.lastBnum with
     | some n =>
       if clocked s && s.beat.acquires && decide (16 ≤ s.beat.qual) then
         if (s.beat.st == .acquire || decide (s.beatNat < n.toNat)) && !scriptRefuses s then
           updBeat (fun t => { t with jump := some n, qual := 0 }) s
         else refuseExit n s
       else s
     | none => s)

/-- LOCKING_DONE: 256 consecutive accepted markers within 8 cy make the device LOCKED (R308). -/
def execLockingDone (s : State) : Host.Outcome State Fault Refusal :=
  .next
    (if clocked s && s.beat.st == .locking && decide (256 ≤ s.beat.close) then enterLocked s else s)

/-- LOCKING_FAIL: at the edge of the 8th consecutive missing position LOCKING returns to the state acquisition began from, BEAT
keeping its value (R308); LOST and FREE are entered with their entries (R316). -/
def execLockingFail (s : State) : Host.Outcome State Fault Refusal :=
  .next
    (if clocked s && s.beat.edgeNow && s.beat.st == .locking && decide (8 ≤ s.beat.missing) then
       let dest := s.beat.from_
       let s := updBeat (fun t => { t with st := dest, missing := 0, qual := 0 }) s
       if dest = .lost then throttle 7 255 0 (beatExc 6 0 s.beatNat 0 s)
       else if dest = .free then throttle 7 255 0 (beatExc 7 0 s.beatNat 0 s) else s
     else s)

end Sys2Proof.Machine
end

