-- ==== Sys2Proof/Machine/Bignum.lean ====
section
/-! DEFINITION. The big-number and public-key engine: slots, command errors, operations, refusals and aborts (R392 to R408). -/

namespace Sys2Proof.Machine

/-! ### Curves (R394) -/

/-- A curve y² = x³ - 3x + b over a prime field, with its base point and group order. -/
structure Curve where
  w : Nat
  p : Nat
  b : Nat
  gx : Nat
  gy : Nat
  n : Nat

/-- P-256 of FIPS 186-5. (PRESUMED, log 108) -/
def p256 : Curve :=
  { w := 4
    p := 0xffffffff00000001000000000000000000000000ffffffffffffffffffffffff
    b := 0x5ac635d8aa3a93e7b3ebbd55769886bc651d06b0cc53b0f63bce3c3e27d2604b
    gx := 0x6b17d1f2e12c4247f8bce6e563a440f277037d812deb33a0f4a13945d898c296
    gy := 0x4fe342e2fe1a7f9b8ee7eb4a7c0f9e162bce33576b315ececbb6406837bf51f5
    n := 0xffffffff00000000ffffffffffffffffbce6faada7179e84f3b9cac2fc632551 }

/-- P-384 of FIPS 186-5. -/
def p384 : Curve :=
  { w := 6
    p := 2 ^ 384 - 2 ^ 128 - 2 ^ 96 + 2 ^ 32 - 1
    b := 0xb3312fa7e23ee7e4988e056be3f82d19181d9c6efe8141120314088f5013875ac656398d8a2ed19d2a85c8edd3ec2aef
    gx := 0xaa87ca22be8b05378eb1c71ef320ad746e1d3b628ba79b9859f741e082542a385502f25dbf55296c3a545e3872760ab7
    gy := 0x3617de4a96262c6f5d9e98bf9292dc29f8f41dbd289a147ce9da3113b5f0b8c00a60b1ce1d7e819d7a431d7c90ea0e5f
    n := 0xffffffffffffffffffffffffffffffffffffffffffffffffc7634d81f4372ddf581a0db248b0a77aecec196accc52973 }

/-- P-521 of FIPS 186-5. -/
def p521 : Curve :=
  { w := 9
    p := 2 ^ 521 - 1
    b := 0x0051953eb9618e1c9a1f929a21a0b68540eea2da725b99b315f3b8b489918ef109e156193951ec7e937b1652c0bd3bb1bf073573df883d2c34f1ef451fd46b503f00
    gx := 0x00c6858e06b70404e9cd9e3ecb662395b4429c648139053fb521f828af606b4d3dbaa14b5e77efe75928fe1dc127a2ffa8de3348b3c1856a429bf97e7e31c2e5bd66
    gy := 0x011839296a789a3bc0045c8a5fb42c7d1bd998f54449579b446817afbd17273e662c97ee72995ef42640c550b9013fad0761353c7086a272c24088be94769fd16650
    n := 2 ^ 521 - 2 ^ 260 + 0xa51868783bf2f966b7fcc0148f709a5d03bb5c9b8899c47aebb6fb71e91386409 }

/-- The curve of a CURVE code. -/
def curveOf (k : BitVec 2) : Option Curve :=
  match k.toNat with
  | 1 => some p256
  | 2 => some p384
  | 3 => some p521
  | _ => none

/-- A point; none is the point at infinity. -/
abbrev Pt := Option (Nat × Nat)

/-- Inverse in a prime field. -/
def fieldInv (p x : Nat) : Nat := powMod p (x % p) 521 (p - 2)

/-- The sum of two points. -/
def Curve.add (c : Curve) (a b : Pt) : Pt :=
  match a, b with
  | none, q => q
  | q, none => q
  | some (x1, y1), some (x2, y2) =>
    let p := c.p
    if x1 = x2 ∧ (y1 + y2) % p = 0 then none
    else
      let l := if x1 = x2 then (3 * x1 * x1 + (p - 3)) * fieldInv p (2 * y1) % p
        else (y2 + p - y1) * fieldInv p (x2 + p - x1) % p
      let x := (l * l + 2 * p - x1 - x2) % p
      some (x, (l * (x1 + p - x) + p - y1) % p)

/-- A scalar multiple, by doubling, with a bound on the scalar's bits. -/
def Curve.mul (c : Curve) : Nat → Nat → Pt → Pt
  | 0, _, _ => none
  | n + 1, k, a => if k = 0 then none else c.add (c.mul n (k / 2) (c.add a a)) (if k % 2 = 1 then a else none)

/-- The point lies on the curve. -/
def Curve.on (c : Curve) (x y : Nat) : Bool := y * y % c.p == (x * x % c.p * x + (c.p - 3) * x + c.b) % c.p

/-! ### Modular inverse -/

/-- The extended Euclidean algorithm with a bound on its steps: the gcd and the coefficient of the first number. -/
def egcd : Nat → Int → Int → Int → Int → Int × Int
  | 0, r, _, x, _ => (r, x)
  | n + 1, r, r', x, x' => if r' = 0 then (r, x) else egcd n r' (r % r') x' (x - r / r' * x')

/-- Inverse modulo m of a number prime to it. -/
def invMod (a m : Nat) : Nat := ((egcd 8192 a m 1 0).2 % m).toNat

/-! ### Slots (R393 to R397) -/

/-- A slot. -/
def slotAt (s : State) (i : Fin 64) : BnSlot := s.bn.slots[i]

/-- Changes the engine; replaces a slot. -/
def updBn (f : Bn → Bn) (s : State) : State := { s with bn := f s.bn }

def Bn.put (e : Bn) (i : Fin 64) (x : BnSlot) : Bn := { e with slots := e.slots.set i x }

/-- Word i of a slot, and the value of words lo to lo + n - 1. -/
def BnSlot.word (x : BnSlot) (i : Nat) : Nat := (Sparse.get (fun _ => 0#64) x.words i).toNat

def BnSlot.part (x : BnSlot) (lo n : Nat) : Nat := (List.range n).foldl (fun v i => v + x.word (lo + i) * 2 ^ (64 * i)) 0

/-- The value of a slot. -/
def BnSlot.val (x : BnSlot) : Nat := x.part 0 x.len

/-- The words of a value. -/
def wordsOf (v n : Nat) : Sparse (BitVec 64) :=
  Sparse.setList (fun _ => 0#64) [] 0 ((List.range n).map (fun i => BitVec.ofNat 64 (v / 2 ^ (64 * i))))

/-- A slot that holds a result. -/
def BnSlot.result (v n : Nat) : BnSlot := { st := .result, len := n, words := wordsOf v n }

/-- S56 to S63 are sealed (R397). -/
def sealed (i : Fin 64) : Bool := decide (56 ≤ i.val)

/-- LOADED or RESULT. -/
def BnSlot.ready (x : BnSlot) : Bool := x.st == .loaded || x.st == .result

/-- The STATE code of a slot (R395). -/
def BnSt.code : BnSt → Nat
  | .free => 0
  | .loaded => 1
  | .result => 2
  | .busy => 3
  | .aborted => 4
  | .refused => 5

/-- BN_SLOT of a slot (R395). -/
def bnSlotWord (i : Fin 64) (s : State) : W32 :=
  BitVec.ofNat 32 ((if sealed i then 2 ^ 15 else 0) + (slotAt s i).st.code * 2 ^ 8 + (slotAt s i).len)

/-- What a read of a slot's word returns: the word only where the slot is unsealed and LOADED or RESULT (R396). -/
def bnWordRead (i word : Fin 64) (s : State) : BitVec 64 :=
  if (slotAt s i).ready && !sealed i then BitVec.ofNat 64 ((slotAt s i).word word) else 0#64

/-- Bytes of the operand memory are written anew: none from `lo` up to `hi` stays uncorrectable (R251). -/
def bnCure (lo hi : Nat) (s : State) : State :=
  { s with
    ms := { s.ms with
      dieBad := s.ms.dieBad.filter (fun e => !(e.1 == 0x23 && decide (lo ≤ e.2) && decide (e.2 < hi))) } }

/-- Every byte of some slots is written anew. -/
def cureSlots (l : List (Fin 64)) (s : State) : State :=
  l.foldl (fun (s : State) i => bnCure (512 * i.val) (512 * i.val + 512) s) s

/-- A refused slot write sets WERR (R396). -/
def slotRefused (s : State) : State := updBn (fun e => { e with werr := true }) s

/-- A write of LEN: zeroes the slot, LOADED or FREE; refused for a BUSY slot, above 64, or a sealed slot with a length other
than 0 (R396, R397). -/
def bnLenWrite (slot : Fin 64) (len : BitVec 7) (s : State) : State :=
  if (slotAt s slot).st = .busy ∨ 64 < len.toNat ∨ (sealed slot = true ∧ len ≠ 0#7) then slotRefused s
  else
    updBn (fun e => e.put slot { st := if len = 0#7 then .free else .loaded, len := len.toNat, words := [] })
      (cureSlots [slot] s)

/-- BN_SLOT_LEN_WRITE. -/
def execBnSlotLenWrite (slot : Fin 64) (len : BitVec 7) (s : State) : Host.Outcome State Fault Refusal :=
  .next (if s.pwr.st == .run then bnLenWrite slot len s else s)

/-- BN_SLOT_DATA_WRITE: a word below LEN of a LOADED or RESULT slot that is not sealed (R396, R397). -/
def execBnSlotDataWrite (slot word : Fin 64) (v : BitVec 64) (s : State) : Host.Outcome State Fault Refusal :=
  .next
    (if s.pwr.st == .run then
       let x := slotAt s slot
       if x.ready && !sealed slot && decide (word.val < x.len) then
         updBn (fun e => e.put slot { x with st := .loaded, words := Sparse.set (fun _ => 0#64) x.words word v })
           (bnCure (512 * slot.val + 8 * word.val) (512 * slot.val + 8 * word.val + 8) s)
       else slotRefused s
     else s)

/-! ### Commands (R398 to R403) -/

/-- What an operation uses: source slots with their OPND code, scratch count, and whether it is one of a curve (R402). -/
structure BnShape where
  a : Bool
  b : Bool
  c : Bool
  scratch : Nat
  curve : Bool

/-- The operations of R402 by code. -/
def bnShape (op : Nat) : BnShape :=
  match op with
  | 0x01 => ⟨true, true, true, 2, false⟩
  | 0x02 => ⟨true, true, true, 4, false⟩
  | 0x03 => ⟨true, false, true, 3, false⟩
  | 0x08 => ⟨true, false, false, 2, true⟩
  | 0x09 => ⟨true, true, false, 8, true⟩
  | 0x0A => ⟨false, true, false, 8, true⟩
  | 0x0B => ⟨true, true, false, 6, true⟩
  | _ => ⟨false, false, false, 1, true⟩

/-- Source slots of a command with their OPND code, in order A, B, C. -/
def bnSources (op : Nat) (x : BnArgs) : List (Fin 64 × Nat) :=
  let k := bnShape op
  (if k.a then [(x.a, 0)] else []) ++ (if k.b then [(x.b, 1)] else []) ++ (if k.c then [(x.c, 2)] else [])

/-- Scratch slots of a command within the memory. -/
def bnScratch (op : Nat) (x : BnArgs) : List (Fin 64) :=
  (List.finRange 64).filter (fun i => decide (x.sc.val ≤ i.val) && decide (i.val < x.sc.val + (bnShape op).scratch))

/-- Operand length in words (R401, R402). -/
def bnW (s : State) (op : Nat) (x : BnArgs) : Nat :=
  if (bnShape op).curve then (match curveOf x.curve with | some c => c.w | none => 0) else (slotAt s x.c).len

/-- The length R402 requires of a source; MODEXP's exponent has any length from 1 to 64. -/
def bnLenOk (s : State) (op : Nat) (x : BnArgs) (e : Fin 64 × Nat) : Bool :=
  let w := bnW s op x
  let n := (slotAt s e.1).len
  if op = 0x02 ∧ e.2 = 1 then decide (1 ≤ n)
  else if (bnShape op).curve then
    n == (if op = 0x0B ∨ e.2 = 0 then 2 * w else w)
  else n == w && decide (1 ≤ w)

/-- The operation codes of R402. -/
def bnOps : List Nat := [0x01, 0x02, 0x03, 0x08, 0x09, 0x0A, 0x0B, 0x0C]

/-- The fields of a BN_CMD word besides OP (R398). -/
def BnArgs.ofWord (w : BitVec 64) : BnArgs :=
  let f := fun (lo : Nat) => Fin.ofNat 64 (bitsAt w.toNat (lo + 5) lo)
  { sc := f 40, c := f 32, b := f 24, a := f 16, d := f 8, curve := BitVec.ofNat 2 (bitsAt w.toNat 7 6)
    rsvd := bitsAt w.toNat 15 14 + bitsAt w.toNat 23 22 * 2 ^ 2 + bitsAt w.toNat 31 30 * 2 ^ 4 +
      bitsAt w.toNat 39 38 * 2 ^ 6 + bitsAt w.toNat 63 46 * 2 ^ 8 }

/-- OP of a BN_CMD word. -/
def bnOpOf (w : BitVec 64) : Nat := bitsAt w.toNat 5 0

/-- BAD_CMD: an unknown OP, a nonzero RSVD bit, an unused field nonzero, or a CURVE that does not suit the operation (R399). -/
def bnBadCmd (op : Nat) (x : BnArgs) : Bool :=
  let k := bnShape op
  !bnOps.contains op || x.rsvd != 0 || (!k.a && x.a.val != 0) || (!k.b && x.b.val != 0) || (!k.c && x.c.val != 0) ||
    (if k.curve then x.curve == 0#2 else x.curve != 0#2)

/-- ALIAS: D or a scratch slot equals another of them or a source (R399). -/
def bnAlias (op : Nat) (x : BnArgs) : Bool :=
  let src := (bnSources op x).map (fun e => e.1)
  let sc := bnScratch op x
  sc.contains x.d || src.contains x.d || src.any (fun i => sc.contains i)

/-- SEAL: the conditions of R399, and no sealed D of any operation but RANDS and PMUL (R397). (DEDUCED, log 110) -/
def bnSeal (op : Nat) (x : BnArgs) : Bool :=
  if op = 0x09 then sealed x.b != sealed x.d
  else if op = 0x0A then sealed x.d
  else if op = 0x0C then false
  else sealed x.d || (bnSources op x).any (fun e => sealed e.1)

/-- A slot the operation uses is not in a state it may have: a source other than LOADED or RESULT, or an ABORTED slot, which
only a write of LEN makes usable again (R399, R406). (DEDUCED, log 110) -/
def bnStateBad (s : State) (op : Nat) (x : BnArgs) : Bool :=
  (bnSources op x).any (fun e => !(slotAt s e.1).ready) || (x.d :: bnScratch op x).any (fun i => (slotAt s i).st == .aborted)

/-- The lowest command error that applies; 0 for none (R399). -/
def bnCerr (s : State) (op : Nat) (x : BnArgs) : Nat :=
  if s.bn.run.isSome then 1
  else if bnBadCmd op x then 2
  else if 64 < x.sc.val + (bnShape op).scratch then 3
  else if bnAlias op x then 4
  else if (bnSources op x).any (fun e => !bnLenOk s op x e) then 5
  else if bnSeal op x then 6
  else if bnStateBad s op x then 7
  else 0

/-- A slot with a state, its contents kept. -/
def Bn.mark (e : Bn) (i : Fin 64) (st : BnSt) : Bn := e.put i { e.slots[i] with st := st }

/-- Fault 0x47 is counted (R408). -/
def bnFail (s : State) : State := countFault 0x47 15 3 s

/-- A BN_CMD write: a command error starts nothing; else the slots it names are BUSY and the operation runs (R398, R399,
R403). -/
def bnCommand (op : Nat) (x : BnArgs) (trng : Nat) (s : State) : State :=
  if s.pwr.st == .run then
    let k := bnCerr s op x
    if k ≠ 0 then bnFail (updBn (fun e => { e with cerr := k }) s)
    else
      let src := ((bnSources op x).map (fun e => e.1)).eraseDups
      let former := src.map (fun i => (i, (slotAt s i).st))
      updBn (fun e =>
        { (src ++ [x.d] ++ bnScratch op x).foldl (fun (e : Bn) i => e.mark i .busy) e with
          cerr := 0, lop := op, out := 0
          run := some { op := op, x := x, trng := trng, former := former, abort := none } }) s
  else s

/-- A BN_CMD word written by the firmware (R398). -/
def bnWordCommand (w : BitVec 64) (trng : Nat) (s : State) : State := bnCommand (bnOpOf w) (BnArgs.ofWord w) trng s

/-- BN_STAT (R400). -/
def bnStatWord (e : Bn) : W32 :=
  BitVec.ofNat 32 (e.cerr * 2 ^ 16 + e.lop * 2 ^ 8 + e.out * 2 ^ 3 + (if e.werr then 2 else 0) + (if e.run.isSome then 1 else 0))

/-- A write of BN_STAT: WERR is cleared by a 1 (R12, R400). -/
def bnStatWrite (w : W32) (s : State) : State := updBn (fun e => { e with werr := e.werr && !w.getLsbD 1 }) s

/-- BN_MODMUL. -/
def execBnModmul (x : BnArgs) (s : State) : Host.Outcome State Fault Refusal := .next (bnCommand 0x01 x 0 s)

/-- BN_MODEXP. -/
def execBnModexp (x : BnArgs) (s : State) : Host.Outcome State Fault Refusal := .next (bnCommand 0x02 x 0 s)

/-- BN_MODINV. -/
def execBnModinv (x : BnArgs) (s : State) : Host.Outcome State Fault Refusal := .next (bnCommand 0x03 x 0 s)

/-- BN_PCHK. -/
def execBnPchk (x : BnArgs) (s : State) : Host.Outcome State Fault Refusal := .next (bnCommand 0x08 x 0 s)

/-- BN_PMUL. -/
def execBnPmul (x : BnArgs) (s : State) : Host.Outcome State Fault Refusal := .next (bnCommand 0x09 x 0 s)

/-- BN_PMULG. -/
def execBnPmulg (x : BnArgs) (s : State) : Host.Outcome State Fault Refusal := .next (bnCommand 0x0A x 0 s)

/-- BN_PADD. -/
def execBnPadd (x : BnArgs) (s : State) : Host.Outcome State Fault Refusal := .next (bnCommand 0x0B x 0 s)

/-- BN_RANDS: `trng` is the draw (R402). -/
def execBnRands (x : BnArgs) (trng : Nat) (s : State) : Host.Outcome State Fault Refusal :=
  .next (bnCommand 0x0C x trng s)

/-! ### Refusals and results (R402 to R405) -/

/-- A reason for refusal: CODE, and the slot and OPND where the manual names them. -/
abbrev BnWhy := Nat × Option (Fin 64 × Nat)

/-- A modulus is 0, 1 or even. -/
def whyMod (c : Fin 64) (v : Nat) : Option BnWhy :=
  if v = 0 then some (1, some (c, 2)) else if v = 1 then some (2, some (c, 2)) else if v % 2 = 0 then some (4, some (c, 2))
  else none

/-- A value is 0, 1, or at or above a bound. -/
def whyVal (i : Fin 64) (opnd v : Nat) (bound : Option Nat) : Option BnWhy :=
  if v = 0 then some (1, some (i, opnd)) else if v = 1 then some (2, some (i, opnd))
  else match bound with
    | some m => if m ≤ v then some (3, some (i, opnd)) else none
    | none => none

/-- A point is all zeros, out of range or off its curve. -/
def whyPoint (c : Curve) (i : Fin 64) (opnd : Nat) (x : BnSlot) : Option BnWhy :=
  let px := x.part 0 c.w
  let py := x.part c.w c.w
  if px = 0 ∧ py = 0 then some (1, some (i, opnd))
  else if c.p ≤ px ∨ c.p ≤ py then some (3, some (i, opnd))
  else if !c.on px py then some (5, some (i, opnd)) else none

/-- The point a slot holds. -/
def pointOf (c : Curve) (x : BnSlot) : Pt := some (x.part 0 c.w, x.part c.w c.w)

/-- The words of a point. -/
def pointVal (c : Curve) (p : Nat × Nat) : Nat := p.1 + p.2 * 2 ^ (64 * c.w)

/-- Bits the scalar loop runs over (R402). -/
def ladder (c : Curve) : Nat := 64 * c.w

/-- The first reason to refuse a running operation, or its result with its length in words (R402, R404). -/
def bnOutcome (s : State) (r : BnRun) : BnWhy ⊕ (Nat × Nat) :=
  let x := r.x
  let a := slotAt s x.a
  let b := slotAt s x.b
  let m := (slotAt s x.c).val
  let w := bnW s r.op x
  let done := fun (y : Option BnWhy) (v n : Nat) => match y with | some y => Sum.inl y | none => Sum.inr (v, n)
  match r.op with
  | 0x01 => done (whyMod x.c m <|> whyVal x.a 0 a.val (some m) <|> whyVal x.b 1 b.val (some m)) (a.val * b.val % m) w
  | 0x02 => done (whyMod x.c m <|> whyVal x.a 0 a.val (some m) <|> whyVal x.b 1 b.val none) (powMod m a.val 4096 b.val) w
  | 0x03 =>
    done (whyMod x.c m <|> whyVal x.a 0 a.val (some m) <|> (if Nat.gcd a.val m = 1 then none else some (6, none)))
      (invMod a.val m) w
  | op =>
    match curveOf x.curve with
    | none => Sum.inr (0, 0)
    | some c =>
      let out := fun (p : Pt) => match p with
        | some q => Sum.inr (pointVal c q, 2 * w)
        | none => Sum.inl (7, none)
      let orElse := fun (y : Option BnWhy) (p : Pt) => match y with | some y => Sum.inl y | none => out p
      match op with
      | 0x08 => orElse (whyPoint c x.a 0 a) (pointOf c a)
      | 0x09 =>
        orElse (whyPoint c x.a 0 a <|> whyVal x.b 1 b.val (some c.n)) (c.mul (ladder c) b.val (pointOf c a))
      | 0x0A => orElse (whyVal x.b 1 b.val (some c.n)) (c.mul (ladder c) b.val (some (c.gx, c.gy)))
      | 0x0B => orElse (whyPoint c x.a 0 a <|> whyPoint c x.b 1 b) (c.add (pointOf c a) (pointOf c b))
      | _ => Sum.inr (r.trng % 2 ^ (64 * w + 64) % (c.n - 2) + 2, w)

/-- BN_REASON (R405); the slot and OPND of a reason that names none are free values (log 2).
(DESIGN CHOICE, log 109) -/
def bnReason (op : Nat) (y : BnWhy) (s : State) : State :=
  let e := y.2.getD (Fin.ofNat 64 (freeVal s), Config.freeNat (s.free + 1) % 4)
  let s := updBn (fun e' => { e' with reason := BitVec.ofNat 32 (op * 2 ^ 24 + y.1 * 2 ^ 16 + e.1.val * 2 ^ 8 + e.2) }) s
  if y.2.isNone then drew 2 s else s

/-- Sources back in their former states (R403, R406). -/
def Bn.restore (e : Bn) (r : BnRun) : Bn := r.former.foldl (fun (e : Bn) p => e.mark p.1 p.2) e

/-- Scratch slots zeroed and FREE with LEN 0 (R403, R404). -/
def Bn.freeScratch (e : Bn) (r : BnRun) : Bn := (bnScratch r.op r.x).foldl (fun (e : Bn) i => e.put i BnSlot.reset) e

/-- A running operation ends DONE or REFUSED (R403, R404). -/
def bnFinish (r : BnRun) (s : State) : State :=
  let d := r.x.d
  let s := cureSlots (d :: bnScratch r.op r.x) s
  match bnOutcome s r with
  | .inr (v, n) =>
    updBn (fun e => { ((e.restore r).freeScratch r).put d (BnSlot.result v n) with run := none, out := 1 }) s
  | .inl y =>
    let s := updBn (fun e =>
      { ((e.restore r).freeScratch r).put d { st := .refused, len := e.slots[d].len, words := [] } with
        run := none, out := 2 }) s
    bnFail (bnReason r.op y s)

/-! ### Aborts and completion (R402 to R406) -/

/-- An abort begins: its reason is recorded and counted, and the engine zeroes D and scratch (R405, R406, R408). -/
def bnAbortWith (r : BnRun) (y : BnWhy) (s : State) : State :=
  let s := updBn (fun e => { e with run := some { r with abort := some (y.1, (y.2.map (fun p => p.1)).getD r.x.d) } }) s
  bnFail (bnReason r.op y s)

/-- An uncorrectable byte left in a source of the running operation: its offset in the operand memory, and the source with its
OPND code. -/
def bnBadSource (s : State) (r : BnRun) : Option (Nat × Fin 64 × Nat) :=
  (bnSources r.op r.x).findSome? (fun e =>
    (s.ms.dieBad.find? (fun b =>
      b.1 == 0x23 && decide (512 * e.1.val ≤ b.2) && decide (b.2 < 512 * e.1.val + 8 * (slotAt s e.1).len))).map
      (fun b => (b.2, e)))

/-- BN_OP_COMPLETE: the operation ends DONE or REFUSED; one that reads a byte left uncorrectable is aborted (R402 to R406,
R408). -/
def execBnOpComplete (s : State) : Host.Outcome State Fault Refusal :=
  .next
    (match s.bn.run with
     | some r =>
       if s.pwr.st == .run && r.abort.isNone then
         match bnBadSource s r with
         | some (o, e) => bnAbortWith r (0x11, some e) (ueAt 0x23 15 o s)
         | none => bnFinish r s
       else s
     | none => s)

/-- BN_CTL.ABORT; no effect while no operation runs (R400). -/
def bnAbortNow (s : State) : State :=
  match s.bn.run with
  | some r => if s.pwr.st == .run && r.abort.isNone then bnAbortWith r (0x10, none) s else s
  | none => s

/-- BN_ABORT. -/
def execBnAbort (s : State) : Host.Outcome State Fault Refusal := .next (bnAbortNow s)

/-- The OPND code of a slot the running operation uses; none for another slot. -/
def bnRole (r : BnRun) (i : Fin 64) : Option Nat :=
  match (bnSources r.op r.x).find? (fun e => e.1 == i) with
  | some e => some e.2
  | none => if i = r.x.d ∨ (bnScratch r.op r.x).contains i = true then some 3 else none

/-- BN_UE_ABORT: an uncorrectable byte of a slot the operation reads, which stays so in a source (R251, R406, R453). -/
def execBnUeAbort (slot : Fin 64) (byte : Fin 512) (s : State) : Host.Outcome State Fault Refusal :=
  .next
    (match s.bn.run with
     | some r =>
       match bnRole r slot with
       | some k =>
         if s.pwr.st == .run && r.abort.isNone then
           let o := 512 * slot.val + byte.val
           let s := if k = 3 then s else dieSpoil 0x23 o s
           bnAbortWith r (0x11, some (slot, k)) (ueAt 0x23 15 o s)
         else s
       | none => s
     | none => s)

/-- TRNG_HEALTH_FAIL: aborts a running RANDS (R406). -/
def execTrngHealthFail (s : State) : Host.Outcome State Fault Refusal :=
  .next
    (match s.bn.run with
     | some r => if s.pwr.st == .run && r.abort.isNone && r.op == 0x0C then bnAbortWith r (0x12, none) s else s
     | none => s)

/-- BN_ABORT_COMPLETE: D and scratch zeroed and ABORTED with their LEN, sources restored, BUSY cleared (R406). -/
def execBnAbortComplete (s : State) : Host.Outcome State Fault Refusal :=
  .next
    (match s.bn.run with
     | some r =>
       if s.pwr.st == .run && r.abort.isSome then
         updBn (fun e =>
           { (r.x.d :: bnScratch r.op r.x).foldl
               (fun (e : Bn) i => e.put i { st := .aborted, len := e.slots[i].len, words := [] }) (e.restore r) with
             run := none, out := 3 }) (cureSlots (r.x.d :: bnScratch r.op r.x) s)
       else s
     | none => s)

end Sys2Proof.Machine
end

