-- ==== Sys2Proof/Machine/Counter.lean ====
section
/-! DEFINITION. The counter group of the TS. instructions (R181, R182). -/

namespace Sys2Proof.Machine

/-- A counter operation with a counter and operand B: issue, write Cd, go on (R181). -/
def ctrAlu (f : W32 → W32 → W32) (b : Bay) (st : Strm) (c : Instr) (cd ca : Ctr) (o : BOp) (s : State) : State :=
  issue b st c (cd :: ca :: BOp.regs o)
    (fun s => putCtr b st cd (f (ctrOf b st ca s) (BOp.val o (s.strm b st))) s) s

/-- TS.CSET: Cd = imm32. -/
def execTsCset (b : Bay) (st : Strm) (cd : Ctr) (imm : W32) (s : State) : Host.Outcome State Fault Refusal :=
  .next (issue b st (.tsCset b st cd imm) [cd] (putCtr b st cd imm) s)

/-- TS.CADD: Cd = Ca + B. -/
def execTsCadd (b : Bay) (st : Strm) (cd ca : Ctr) (o : BOp) (s : State) : Host.Outcome State Fault Refusal :=
  .next (ctrAlu (· + ·) b st (.tsCadd b st cd ca o) cd ca o s)

/-- TS.CSUB: Cd = Ca - B. -/
def execTsCsub (b : Bay) (st : Strm) (cd ca : Ctr) (o : BOp) (s : State) : Host.Outcome State Fault Refusal :=
  .next (ctrAlu (· - ·) b st (.tsCsub b st cd ca o) cd ca o s)

/-- TS.CMUL: Cd = bits [31:0] of Ca × B. -/
def execTsCmul (b : Bay) (st : Strm) (cd ca : Ctr) (o : BOp) (s : State) : Host.Outcome State Fault Refusal :=
  .next (ctrAlu (· * ·) b st (.tsCmul b st cd ca o) cd ca o s)

/-- TS.CSHL: Cd = Ca shifted left by B[4:0]. -/
def execTsCshl (b : Bay) (st : Strm) (cd ca : Ctr) (o : BOp) (s : State) : Host.Outcome State Fault Refusal :=
  .next (ctrAlu (fun x y => x <<< (y.toNat % 32)) b st (.tsCshl b st cd ca o) cd ca o s)

/-- TS.CSHR: Cd = Ca shifted right logically by B[4:0]. -/
def execTsCshr (b : Bay) (st : Strm) (cd ca : Ctr) (o : BOp) (s : State) : Host.Outcome State Fault Refusal :=
  .next (ctrAlu (fun x y => x >>> (y.toNat % 32)) b st (.tsCshr b st cd ca o) cd ca o s)

/-- TS.CAND: bitwise AND. -/
def execTsCand (b : Bay) (st : Strm) (cd ca : Ctr) (o : BOp) (s : State) : Host.Outcome State Fault Refusal :=
  .next (ctrAlu (· &&& ·) b st (.tsCand b st cd ca o) cd ca o s)

/-- TS.COR: bitwise OR. -/
def execTsCor (b : Bay) (st : Strm) (cd ca : Ctr) (o : BOp) (s : State) : Host.Outcome State Fault Refusal :=
  .next (ctrAlu (· ||| ·) b st (.tsCor b st cd ca o) cd ca o s)

/-- TS.CXOR: bitwise exclusive or. -/
def execTsCxor (b : Bay) (st : Strm) (cd ca : Ctr) (o : BOp) (s : State) : Host.Outcome State Fault Refusal :=
  .next (ctrAlu (· ^^^ ·) b st (.tsCxor b st cd ca o) cd ca o s)

/-- TS.CMP: Kd = (Ca rel B). -/
def execTsCmp (b : Bay) (st : Strm) (kd : Fin 8) (ca : Ctr) (r : Rel) (o : BOp) (s : State) :
    Host.Outcome State Fault Refusal :=
  .next (issue b st (.tsCmp b st kd ca r o) (ca :: BOp.regs o)
    (fun s => s.updStrm b st (fun x => (x.setCmp kd (Rel.holds r x.ctr[ca] (BOp.val o x))).next)) s)

/-- TS.KLOG: Kd = Ka op Kb. -/
def execTsKlog (b : Bay) (st : Strm) (kd ka : Fin 8) (op : KOp) (kb : Fin 8) (s : State) :
    Host.Outcome State Fault Refusal :=
  .next (issue b st (.tsKlog b st kd ka op kb) []
    (fun s => s.updStrm b st (fun x => (x.setCmp kd (KOp.eval op (x.cmp.getLsbD ka) (x.cmp.getLsbD kb))).next)) s)

/-- Byte offset of a DMEM word (R453). -/
def dmemOff (st : Strm) (i : Nat) : Nat := 0x10000 * strmNo st + 4 * i

/-- TS.LDW: Cd = DMEM[Ca + imm]; fault 0x35 at or above 16,384, fault 0x44 on an uncorrectable byte (R182, R251). -/
def execTsLdw (b : Bay) (st : Strm) (cd ca : Ctr) (imm : BitVec 16) (ev : CodeEvent) (s : State) :
    Host.Outcome State Fault Refusal :=
  .next (issue b st (.tsLdw b st cd ca imm ev) [cd, ca]
    (fun s =>
      let i := dmemIndex (s.strm b st) ca imm
      if 16384 ≤ i then trap b st 0x35 s
      else if (metUnit b ev [(0x11, dmemOff st i)] s).isSome then trap b st 0x44 (ueAt 0x11 b (dmemOff st i) s)
      else
        let s := noteFixed b ev [(0x11, dmemOff st i)] s
        putCtr b st cd (Sparse.get (fun _ => 0#32) (s.strm b st).dmem i) s) s)

/-- TS.STW: DMEM[Ca + imm] = Cs; fault 0x35 at or above 16,384 (R182). -/
def execTsStw (b : Bay) (st : Strm) (cs ca : Ctr) (imm : BitVec 16) (s : State) : Host.Outcome State Fault Refusal :=
  .next (issue b st (.tsStw b st cs ca imm) [cs, ca]
    (fun s =>
      let i := dmemIndex (s.strm b st) ca imm
      if 16384 ≤ i then trap b st 0x35 s
      else cure b 0x11 (dmemOff st i) (s.updStrm b st (fun x =>
        { x with dmem := Sparse.set (fun _ => 0#32) x.dmem i x.ctr[cs] }.next))) s)

/-- TS.BEAT: Cd = BEAT[31:0] at issue. -/
def execTsBeat (b : Bay) (st : Strm) (cd : Ctr) (s : State) : Host.Outcome State Fault Refusal :=
  .next (issue b st (.tsBeat b st cd) [cd] (fun s => putCtr b st cd (s.beat.beat.truncate 32) s) s)

/-- TS.LIDX: Cd = iteration index of loop level l, innermost 0; 0 for a level not open (R182). -/
def execTsLidx (b : Bay) (st : Strm) (cd : Ctr) (l : Fin 4) (s : State) : Host.Outcome State Fault Refusal :=
  .next (issue b st (.tsLidx b st cd l) [cd]
    (fun s =>
      putCtr b st cd
        (match (s.strm b st).loops[l.val]? with
         | some t => BitVec.ofNat 32 t.idx
         | none => 0#32) s) s)

end Sys2Proof.Machine
end

