-- ==== Sys2Proof/Machine/Stats.lean ====
section
/-! DEFINITION. The statistics unit: scale slots, ratio slots and the TS. instructions that reach them (R171 to R177). -/

namespace Sys2Proof.Machine

/-- A scale slot. -/
def scaleAt (s : State) (t : Nat) : ScaleSlot := Sparse.get (fun _ => ScaleSlot.reset) s.stats.scale t

/-- Replaces a scale slot. -/
def putScale (t : Nat) (x : ScaleSlot) (s : State) : State :=
  { s with stats := { s.stats with scale := Sparse.set (fun _ => ScaleSlot.reset) s.stats.scale t x } }

/-- A ratio slot. -/
def ratioAt (s : State) (t : Nat) : RatioSlot := Sparse.get (fun _ => RatioSlot.reset) s.stats.ratio t

/-- Replaces a ratio slot. -/
def putRatio (t : Nat) (x : RatioSlot) (s : State) : State :=
  { s with stats := { s.stats with ratio := Sparse.set (fun _ => RatioSlot.reset) s.stats.ratio t x } }

/-- TS.SCFG on a slot: CLR returns it to its reset state before FMT and MARGIN are set (R171, log 13).
(DEDUCED, log 13) -/
def ScaleSlot.scfg (x : ScaleSlot) (c : W32) : ScaleSlot :=
  { (if c.getLsbD 3 then ScaleSlot.reset else x) with e5m2 := c.getLsbD 0, margin := bitsAt c.toNat 2 1 }

/-- P = max(P, |v|); a NaN stays in P (R171, log 13). -/
def ScaleSlot.amax (x : ScaleSlot) (v : W32) : ScaleSlot := { x with p := fmax32 x.p (v &&& 0x7FFFFFFF#32) }

/-- The commit of R173 for a step whose values are sound. -/
def ScaleSlot.push (x : ScaleSlot) : ScaleSlot :=
  let h := (if x.hist.length = 16 then x.hist.drop 1 else x.hist) ++ [x.p]
  if x.clean + 1 = 16 then { x with hist := h, clean := 0, backoff := x.backoff - 1, p := 0#32 }
  else { x with hist := h, clean := x.clean + 1, p := 0#32 }

/-- The step is skipped: OVF, or P is not finite. -/
def ScaleSlot.skips (x : ScaleSlot) (ovf : Bool) : Bool := ovf || !finite32 x.p

/-- The commit of R173. -/
def ScaleSlot.commit (x : ScaleSlot) (ovf : Bool) : ScaleSlot :=
  if x.skips ovf then { x with backoff := min (x.backoff + 1) 7, clean := 0, p := 0#32 } else x.push

/-- The maximum a scale is derived from (R173). -/
def ScaleSlot.top (x : ScaleSlot) : W32 :=
  let h := x.hist.foldl fmax32 0#32
  if x.hist.length < 16 then fmax32 h x.p else h

/-- ⌊log2 a⌋ of a positive finite value. -/
def exOf (a : W32) : Int :=
  let d := finDy a
  d.e + ((bitSize d.m - 1 : Nat) : Int)

/-- The scale exponent k (R173); a maximum that is not finite has none, and `open_` stands for it.
(DESIGN CHOICE, log 33) -/
def ScaleSlot.k (x : ScaleSlot) (open_ : Nat) : BitVec 8 :=
  let a := x.top
  if a = 0#32 then 0#8
  else if finite32 a then
    BitVec.ofInt 8 (clampInt (-127) 127 ((if x.e5m2 then 15 else 8) - exOf a - x.margin - x.backoff)).1
  else BitVec.ofNat 8 open_

/-- The scale word of R173. -/
def ScaleSlot.word (x : ScaleSlot) (open_ : Nat) : W32 :=
  BitVec.ofNat 32 ((x.k open_).toNat + (if x.hist.length < 16 then 2 ^ 8 else 0) + x.hist.length * 2 ^ 9 + x.backoff * 2 ^ 14)

/-- The reference tree over one value per bay (R162, R175). -/
def bayTree (l : List W32) : W32 :=
  (treeSum (fun v => val32 v.f32) (l.map val32) 8).f32

/-- √(u ÷ w) rounded once; a negative quotient has no root, and `open_` stands for it (R175).
(DESIGN CHOICE, log 34) -/
def ratioOf (u w : W32) (open_ : Nat) : W32 :=
  let a := finDy u
  let b := finDy w
  if !finite32 u || !finite32 w || b.m == 0 then nan32
  else if a.m = 0 then 0#32
  else if a.neg ≠ b.neg then BitVec.ofNat 32 open_
  else rnd3 false (sqrtBits 64 a.m b.m (a.e - b.e))

/-- The commit of a ratio slot (R175). -/
def RatioSlot.commit (x : RatioSlot) (open_ : Nat) : RatioSlot :=
  let u := bayTree (x.pairs.toList.map (fun p => (p.map (fun q => q.1)).getD 0#32))
  let w := bayTree (x.pairs.toList.map (fun p => (p.map (fun q => q.2)).getD 0#32))
  let r := ratioOf u w open_
  { pairs := Vector.replicate 12 none, last := r
    largest := if finite32 r ∧ ord32 x.largest < ord32 r then r else x.largest
    commits := satAdd 32 x.commits 1 }

/-- The slot an operation names. -/
def StatOp.slot : StatOp → Nat
  | .scfg t _ => t
  | .amax t _ _ _ => t
  | .scale t _ => t
  | .uwr t _ _ _ => t
  | .ustat t _ => t

/-- The operation works on a ratio slot. -/
def StatOp.ratio : StatOp → Bool
  | .uwr .. => true
  | .ustat .. => true
  | .scfg .. => false
  | .amax .. => false
  | .scale .. => false

/-- Adds a result to be written into a counter (R171). -/
def statResult (b : Bay) (cd : Ctr) (v : W32) (s : State) : State :=
  { s with stats := { s.stats with results := s.stats.results ++ [(b, cd, v)] } }

/-- The unit applies one operation (R171 to R175). -/
def statRun (b : Bay) (o : StatOp) (s : State) : State :=
  match o with
  | .scfg t c => putScale t ((scaleAt s t).scfg c) s
  | .amax t v cmt ovf =>
    let x := (scaleAt s t).amax v
    if cmt then
      let s := if x.skips ovf then { s with stats := { s.stats with skips := satAdd 32 s.stats.skips 1 } } else s
      putScale t (x.commit ovf) s
    else putScale t x s
  | .scale t cd => drew 1 (statResult b cd ((scaleAt s t).word (freeVal s)) s)
  | .uwr t u w cmt =>
    let x := ratioAt s t
    let x := { x with pairs := x.pairs.set b (some (u, w)) }
    if cmt then drew 1 (putRatio t (x.commit (freeVal s)) s) else putRatio t x s
  | .ustat t cd => statResult b cd (ratioAt s t).last s

/-- A byte of the slot an operation names, its place within the slot a free value (R453, log 2). -/
def statOff (o : StatOp) (s : State) : Nat := (if o.ratio then 0x20000 else 0) + 128 * o.slot + freeVal s % 128

/-- An uncorrectable slot returns to its reset state before the operation applies (R251). -/
def statUe (o : StatOp) (s : State) : State :=
  let s := countFault 0x44 15 3 (drew 1 (ueAt 0x21 15 (statOff o s) s))
  if o.ratio then putRatio o.slot RatioSlot.reset s else putScale o.slot ScaleSlot.reset s

/-- Takes the oldest operation of a bay. -/
def takeStat (b : Bay) : List (Bay × StatOp) → Option (StatOp × List (Bay × StatOp))
  | [] => none
  | e :: r => if e.1 = b then some (e.2, r) else (takeStat b r).map (fun p => (p.1, e :: p.2))

/-- A slot passes its code with another word: the scale P of a scale slot, the last ratio of a ratio slot, since the position of
the others in a slot is implementation-defined (R242, R453). (DESIGN CHOICE, log 162) -/
def statSlip (o : StatOp) (v : W32) (s : State) : State :=
  if o.ratio then putRatio o.slot { ratioAt s o.slot with last := v } s else putScale o.slot { scaleAt s o.slot with p := v } s

/-- What the read of the slot met: an uncorrectable one is reset, a corrected one waits for its write-back under B0 (R243,
R251). -/
def statRead (o : StatOp) (ev : CodeEvent) (s : State) : State :=
  if evIs ev 0x21 then statUe o s
  else if evFixes ev 0x21 then drew 1 (correctedAt 0 0x21 (statOff o s) s)
  else
    match ev with
    | .slip id _ v => if id = 0x21#8 then statSlip o (BitVec.ofNat 32 v) s else s
    | _ => s

/-- The unit applies the oldest operation of a bay. (DEDUCED, log 54) -/
def statNext (b : Bay) (ev : CodeEvent) (s : State) : State :=
  match takeStat b s.stats.queue with
  | some (o, r) => statRun b o (statRead o ev { s with stats := { s.stats with queue := r } })
  | none => s

/-- The unit applies everything a bay has issued, which precedes any global flag of its X-stream (R172). -/
def statFlush (b : Bay) (s : State) : State :=
  (s.stats.queue.filter (fun e => e.1 == b)).foldl (fun (s : State) _ => statNext b .clean s) s

/-- Issues a statistics instruction: fault 0x43 for a slot above 1,023 (R171). -/
def statIssue (b : Bay) (c : Instr) (rs : List Ctr) (cs : Ctr) (cd : Option Ctr) (o : Nat → State → StatOp) (s : State) :
    State :=
  issue b .x c rs
    (fun s =>
      let t := (ctrOf b .x cs s).toNat
      if 1023 < t then trap b .x 0x43 s
      else
        let s := { s with stats := { s.stats with queue := s.stats.queue ++ [(b, o t s)] } }
        s.updStrm b .x (fun x => (match cd with | some r => x.mark r true | none => x).next)) s

/-- TS.SCFG: sets a scale slot's format and margin. -/
def execTsScfg (b : Bay) (cs cc : Ctr) (s : State) : Host.Outcome State Fault Refusal :=
  .next (statIssue b (.tsScfg b cs cc) [cs, cc] cs none (fun t s => .scfg t (ctrOf b .x cc s)) s)

/-- TS.AMAX: gathers a step maximum and may commit the step. -/
def execTsAmax (b : Bay) (cs cv : Ctr) (cmt ovf : Bool) (s : State) : Host.Outcome State Fault Refusal :=
  .next (statIssue b (.tsAmax b cs cv cmt ovf) [cs, cv] cs none (fun t s => .amax t (ctrOf b .x cv s) cmt ovf) s)

/-- TS.SCALE: writes the scale word into Cd later. -/
def execTsScale (b : Bay) (cs cd : Ctr) (s : State) : Host.Outcome State Fault Refusal :=
  .next (statIssue b (.tsScale b cs cd) [cs, cd] cs (some cd) (fun t _ => .scale t cd) s)

/-- TS.UWR: stores this bay's pair and may commit. -/
def execTsUwr (b : Bay) (cs cu cw : Ctr) (cmt : Bool) (s : State) : Host.Outcome State Fault Refusal :=
  .next (statIssue b (.tsUwr b cs cu cw cmt) [cs, cu, cw] cs none
    (fun t s => .uwr t (ctrOf b .x cu s) (ctrOf b .x cw s) cmt) s)

/-- TS.USTAT: writes the slot's last ratio into Cd later. -/
def execTsUstat (b : Bay) (cs cd : Ctr) (s : State) : Host.Outcome State Fault Refusal :=
  .next (statIssue b (.tsUstat b cs cd) [cs, cd] cs (some cd) (fun t _ => .ustat t cd) s)

/-- STATS_APPLY: the unit applies the oldest operation of a bay's X-stream. -/
def execStatsApply (b : Bay) (ev : CodeEvent) (s : State) : Host.Outcome State Fault Refusal :=
  .next (if alive s then statNext b ev s else s)

/-- Takes the oldest result of a bay. -/
def takeResult (b : Bay) : List (Bay × Ctr × W32) → Option ((Ctr × W32) × List (Bay × Ctr × W32))
  | [] => none
  | e :: r => if e.1 = b then some (e.2, r) else (takeResult b r).map (fun p => (p.1, e :: p.2))

/-- STATS_RESULT_WRITE: the oldest result lands in its counter. -/
def execStatsResultWrite (b : Bay) (s : State) : Host.Outcome State Fault Refusal :=
  .next
    (match takeResult b s.stats.results with
     | some ((cd, v), r) =>
       if alive s then landCtr b .x cd v { s with stats := { s.stats with results := r } } else s
     | none => s)

end Sys2Proof.Machine
end

