-- ==== Sys2Proof/Machine/FlagInstr.lean ====
section
/-! DEFINITION. Local and global flag instructions and the ends of their waits (R187 to R190). -/

namespace Sys2Proof.Machine

/-- TS.FSET: sets a local flag. -/
def execTsFset (b : Bay) (st : Strm) (f : LFlag) (s : State) : Host.Outcome State Fault Refusal :=
  .next (issue b st (.tsFset b st f) []
    (fun s => retire b st (putFlag b f true s)) s)

/-- TS.FCLR: clears a local flag. -/
def execTsFclr (b : Bay) (st : Strm) (f : LFlag) (s : State) : Host.Outcome State Fault Refusal :=
  .next (issue b st (.tsFclr b st f) []
    (fun s => retire b st (putFlag b f false s)) s)

/-- A flag wait that ends: with CLR and POL 1 the flag is consumed (R187). -/
def endFlagWait (b : Bay) (st : Strm) (f : LFlag) (pol clr : Bool) (s : State) : State :=
  retire b st (if clr && pol then putFlag b f false s else s)

/-- A flag a stream waits on equals the polarity; the X-stream's wait is interlocked while a summary is about to write the
flag (R151, R187). -/
def flagReady (b : Bay) (st : Strm) (f : LFlag) (pol : Bool) (s : State) : Bool :=
  !(st == .x && (s.bay b).flagBusy.getLsbD f) && flagOf b f s == pol

/-- The X-stream waits to consume this flag too, so the A-stream's wait goes on (R188). -/
def xConsumes (b : Bay) (f : LFlag) (s : State) : Bool :=
  (s.strm b .x).status == .wait &&
  (match (s.strm b .x).wait with
   | some w => w.cmd == .tsWait b .x f true true
   | none => false)

/-- TS.WAIT: ends at once when the flag equals the polarity, but for one the waiting X-stream consumes; else waits with cause
FLAG_L (R187, R188). -/
def execTsWait (b : Bay) (st : Strm) (f : LFlag) (pol clr : Bool) (s : State) : Host.Outcome State Fault Refusal :=
  .next (issue b st (.tsWait b st f pol clr) []
    (fun s =>
      if (s.strm b st).status = .wait ∧ (s.strm b st).waitsOn (.tsWait b st f pol clr) then s
      else if flagReady b st f pol s && !(st == .a && clr && pol && xConsumes b f s) then endFlagWait b st f pol clr s
      else stall b st .flagL (.tsWait b st f pol clr) 0#32 s) s)

/-- FLAG_WAIT_END: a local-flag wait ends when the flag matches (R187, R188). (DEDUCED, log 21) -/
def execFlagWaitEnd (b : Bay) (st : Strm) (s : State) : Host.Outcome State Fault Refusal :=
  .next
    (match (s.strm b st).wait with
     | some ⟨_, _, _, .tsWait b' st' f pol clr, _⟩ =>
       if alive s && (s.strm b st).status == .wait && b' == b && st' == st && flagReady b st f pol s &&
           !(st == .a && clr && pol && xConsumes b f s) then
         endFlagWait b st f pol clr s
       else s
     | _ => s)

/-- What an X-stream has sent to the statistics unit is applied before its global flag is seen (R172).
(DEDUCED, log 55) -/
def beforeFlag (b : Bay) (st : Strm) (s : State) : State :=
  match st with
  | .a => s
  | .x => statFlush b s

/-- TS.GADD: adds an 8-bit value to a global flag at its home, modulo 2^16 (R189). -/
def execTsGadd (b : Bay) (st : Strm) (g : Fin 256) (imm : Byte) (s : State) : Host.Outcome State Fault Refusal :=
  .next (issue b st (.tsGadd b st g imm) []
    (fun s => retire b st (putGflag g (gflagOf g s + imm.zeroExtend 16) (beforeFlag b st s))) s)

/-- TS.GSET: writes Cs[15:0] to a global flag at its home (R189). -/
def execTsGset (b : Bay) (st : Strm) (g : Fin 256) (cs : Ctr) (s : State) : Host.Outcome State Fault Refusal :=
  .next (issue b st (.tsGset b st g cs) [cs]
    (fun s => retire b st (putGflag g ((ctrOf b st cs s).truncate 16) (beforeFlag b st s))) s)

/-- The wait cause of a global flag: link flags are G224 to G255 (R190, R198). -/
def gwaitCause (g : Fin 256) : Cause := if g.val < 224 then .flagG else .flagLink

/-- TS.GWAIT: ends at once when the flag has reached the target, else waits with cause FLAG_G or FLAG_LINK. -/
def execTsGwait (b : Bay) (st : Strm) (g : Fin 256) (cn : Ctr) (s : State) : Host.Outcome State Fault Refusal :=
  .next (issue b st (.tsGwait b st g cn) [cn]
    (fun s =>
      if (s.strm b st).status = .wait ∧ (s.strm b st).wait.any (fun w => w.cause == gwaitCause g) then s
      else if gflagDone (gflagOf g s) (ctrOf b st cn s) then retire b st s
      else stall b st (gwaitCause g) (.tsGwait b st g cn) (ctrOf b st cn s) s) s)

/-- GLOBAL_WAIT_END: a global-flag wait ends when the flag has reached the target (R189). -/
def execGlobalWaitEnd (b : Bay) (st : Strm) (s : State) : Host.Outcome State Fault Refusal :=
  .next
    (match (s.strm b st).wait with
     | some ⟨cause, _, _, .tsGwait b' st' g _, target⟩ =>
       if alive s && (s.strm b st).status == .wait && b' == b && st' == st && cause == gwaitCause g &&
           gflagDone (gflagOf g s) target then
         retire b st s
       else s
     | _ => s)

end Sys2Proof.Machine
end

