-- ==== Sys2Proof/Machine/Gcm.lean ====
section
/-! DEFINITION. AES-256 of FIPS 197 and its GCM mode of NIST SP 800-38D, which protect the frames of a session (R344). -/

namespace Sys2Proof.Machine

/-! ### AES-256 (PRESUMED, log 83) -/

/-- The substitution of a byte by its definition: the inverse in the field of 2^8 elements, then the affine map. -/
def sboxDef (x : Nat) : Nat :=
  let i := (List.range 254).foldl (fun r _ => gfMul 8 0x11B r x) (if x = 0 then 0 else 1)
  let rot := fun k => (i * 2 ^ k + i / 2 ^ (8 - k)) % 256
  i ^^^ rot 1 ^^^ rot 2 ^^^ rot 3 ^^^ rot 4 ^^^ 0x63

/-- All 256 substitutions, that of byte x in bits 8x to 8x + 7. -/
def sboxWord : Nat :=
  0x16bb54b00f2d99416842e6bf0d89a18cdf2855cee9871e9b948ed9691198f8e19e1dc186b95735610ef6034866b53e708a8bbd4b1f74dde8c6b4a61c2e2578ba08ae7a65eaf4566ca94ed58d6d37c8e779e4959162acd3c25c2406490a3a32e0db0b5ede14b8ee4688902a22dc4f816073195d643d7ea7c41744975fec130ccdd2f3ff1021dab6bcf5389d928f40a351a89f3c507f02f94585334d43fbaaefd0cf584c4a39becb6a5bb1fc20ed00d153842fe329b3d63b52a05a6e1b1a2c830975b227ebe28012079a059618c323c7041531d871f1e5a534ccf73f362693fdb7c072a49cafa2d4adf04759fa7dc982ca76abd7fe2b670130c56f6bf27b777c63

/-- The substitution of a byte. -/
def sbox (x : Nat) : Nat := sboxWord / 2 ^ (8 * x) % 256

/-- The bytes of a block or a word added. -/
def xorB (a b : List Nat) : List Nat := List.zipWith (fun x y => x ^^^ y) a b

/-- The next words of the key schedule, `w` holding those made so far with the latest first. -/
def keyMore : Nat → Nat → List (List Nat) → List (List Nat)
  | 0, _, w => w
  | n + 1, rc, w =>
    let p := w.headD []
    let i := w.length % 8
    let t := if i = 0 then xorB ((p.rotateLeft 1).map sbox) [rc, 0, 0, 0] else if i = 4 then p.map sbox else p
    keyMore n (if i = 0 then gfTwice 8 0x11B rc else rc) (xorB (w.getD 7 []) t :: w)

/-- The fifteen round keys of a 32-byte key. -/
def roundKeys (key : List Nat) : List (List Nat) :=
  let w := (keyMore 52 1 ((List.range 8).map (fun i => (key.drop (4 * i)).take 4)).reverse).reverse
  (List.range 15).map (fun r => ((w.drop (4 * r)).take 4).flatten)

/-- Each row of the block turned left by its number. -/
def shiftRows (a : List Nat) : List Nat := (List.range 16).map (fun i => a.getD ((i + 4 * (i % 4)) % 16) 0)

/-- One column times the fixed polynomial. -/
def mixColumn (c : List Nat) : List Nat :=
  let t := c.foldl (fun x y => x ^^^ y) 0
  List.zipWith (fun x y => t ^^^ x ^^^ gfTwice 8 0x11B (x ^^^ y)) c (c.rotateLeft 1)

/-- Every column of a block mixed. -/
def mixColumns (a : List Nat) : List Nat := (List.range 4).flatMap (fun c => mixColumn ((a.drop (4 * c)).take 4))

/-- A block after the rounds of the keys that remain; the last one mixes no columns. -/
def aesRounds : List (List Nat) → List Nat → List Nat
  | [], a => a
  | [k], a => xorB (shiftRows (a.map sbox)) k
  | k :: r, a => aesRounds r (xorB (mixColumns (shiftRows (a.map sbox))) k)

/-- A block enciphered. -/
def aes (ks : List (List Nat)) (a : List Nat) : List Nat := aesRounds (ks.drop 1) (xorB a (ks.headD []))

/-! ### GCM (PRESUMED, log 83) -/

/-- The value of a big-endian byte string, and its bytes. -/
def beNat (l : List Nat) : Nat := l.foldl (fun v x => v * 256 + x) 0
def beBytes (v n : Nat) : List Nat := (List.range n).map (fun i => v / 256 ^ (n - 1 - i) % 256)

/-- A product in the field of GCM, the highest bit being the constant term. -/
def ghMul (a b : Nat) : Nat :=
  ((List.range 128).foldl (fun (r : Nat × Nat) i =>
    (if b.testBit (127 - i) then r.1 ^^^ r.2 else r.1, if r.2 % 2 = 1 then r.2 / 2 ^^^ 0xE1 * 2 ^ 120 else r.2 / 2)) (0, a)).1

/-- A string cut into 16-byte blocks, the last padded with zeros, each as a number. -/
def ghBlocks (l : List Nat) : List Nat :=
  (List.range ((l.length + 15) / 16)).map (fun i =>
    let c := (l.drop (16 * i)).take 16
    beNat (c ++ List.replicate (16 - c.length) 0))

/-- The hash of associated data and ciphertext. -/
def ghash (h : Nat) (aad c : List Nat) : Nat :=
  (ghBlocks aad ++ ghBlocks c ++ [8 * aad.length * 2 ^ 64 + 8 * c.length]).foldl (fun y x => ghMul (y ^^^ x) h) 0

/-- The key stream of `n` blocks from counter `k`. -/
def ctrStream (ks : List (List Nat)) (nonce : List Nat) (k n : Nat) : List Nat :=
  (List.range n).flatMap (fun i => aes ks (nonce ++ beBytes (k + i) 4))

/-- The ciphertext and the 16-byte tag of AES-256-GCM with a 96-bit nonce. -/
def gcmSeal (key nonce aad plain : List Byte) : List Byte × List Byte :=
  let ks := roundKeys (key.map (fun x => x.toNat))
  let nc := nonce.map (fun x => x.toNat)
  let c := xorB (plain.map (fun x => x.toNat)) (ctrStream ks nc 2 ((plain.length + 15) / 16))
  let t := ghash (beNat (aes ks (List.replicate 16 0))) (aad.map (fun x => x.toNat)) c
  (c.map (BitVec.ofNat 8), (xorB (beBytes t 16) (ctrStream ks nc 1 1)).map (BitVec.ofNat 8))

/-- The nonce of a frame: bytes 4 to 11 of the IV base exclusive-ored with its LSEQ (R344). -/
def frameNonce (iv : List Byte) (lseq : Nat) : List Byte :=
  iv.take 4 ++ List.zipWith (fun x y => x ^^^ y) (iv.drop 4) (leBytes lseq 8)

end Sys2Proof.Machine
end

