-- ==== Sys2Proof/Machine/Link.lean ====
section
/-! DEFINITION. The link layer: lanes, frame bytes, sequence numbers, retransmission, credits, reception and the closing of sessions (R329 to R339, R344, R345). -/

namespace Sys2Proof.Machine

/-- Changes the link. -/
def updLink (f : Link → Link) (s : State) : State := { s with link := f s.link }

/-- Changes a session slot. -/
def updSess (i : Slot) (f : Session → Session) (s : State) : State := { s with sess := s.sess.set i (f s.sess[i]) }

/-- The link carries frames: supply in RUN and all lanes aligned (R331, R422). -/
def linkOn (s : State) : Bool := s.pwr.st == .run && linkUp s

/-- A slot of a frame. -/
def slotOf (sess : Byte) : Option Slot := if h : sess.toNat < 4 then some ⟨sess.toNat, h⟩ else none

/-! ### Frame bytes (R334, R335, R344) -/

/-- The 32-byte header of a frame; `rsvd` holds its RSVD bits as `Frame` does. -/
def headerBytes (ver : Byte) (rsvd : Nat) (cls opc sess : Byte) (lseq len tid addr arg : Nat) : List Byte :=
  [ver, BitVec.ofNat 8 rsvd, cls, opc, sess, BitVec.ofNat 8 (rsvd / 2 ^ 8)] ++ leBytes lseq 6 ++ leBytes len 2 ++
    leBytes (rsvd / 2 ^ 16) 2 ++ leBytes tid 2 ++ leBytes addr 6 ++ leBytes arg 8

/-- The header of an inbound frame (R335). -/
def frameHeader (f : Frame) : List Byte :=
  headerBytes f.ver f.rsvd f.cls f.opc f.sess f.lseq.toNat f.payload.length f.tid.toNat f.addr.toNat f.arg.toNat

/-- The header of an outbound frame. -/
def OutFrame.header (f : OutFrame) : List Byte :=
  headerBytes 1#8 0 f.cls f.opc f.sess f.lseq f.payload.length f.tid.toNat f.addr.toNat f.arg.toNat

/-- A string padded with zeros to a multiple of 8 bytes. -/
def pad8 (v : List Byte) : List Byte := padTo ((v.length + 7) / 8 * 8) v

/-- The protected classes and opcodes an outbound frame may have (R336). -/
def OutFrame.sealed (f : OutFrame) : Bool := f.cls != 1#8 && !(f.cls == 2#8 && (f.opc == 2#8 || f.opc == 5#8))

/-- Header, payload and tag of an outbound frame as it leaves, the payload enciphered and the frame authenticated where its
class asks for it (R344). -/
def OutFrame.body (f : OutFrame) : List Byte :=
  if f.sealed then
    let c := gcmSeal f.key (frameNonce f.iv f.lseq) f.header f.payload
    f.header ++ pad8 c.1 ++ c.2
  else f.header ++ pad8 f.payload

/-- The blocks of an outbound frame behind its SOF: header, payload, tag, and the trailer with the CRC-32 (R334). -/
def OutFrame.bytes (f : OutFrame) : List Byte := f.body ++ leBytes (crc32 f.body).toNat 8

/-! ### Sending (R336 to R339, R349) -/

/-- Line bytes of an outbound frame (R334). -/
def OutFrame.size (f : OutFrame) : Nat :=
  8 + 32 + (f.payload.length + 7) / 8 * 8 + (if f.sealed then 16 else 0) + 8

/-- Priority of an outbound frame: SESSION, OD RESP, DATA, ENTRIES (R349). -/
def OutFrame.rank (f : OutFrame) : Nat :=
  if f.cls = 2#8 then 0 else if f.cls = 3#8 then 1 else if f.cls = 4#8 then 2 else 3

/-- The frame to send next: the oldest of the highest priority. -/
def nextOut (l : List OutFrame) : Option OutFrame :=
  match l with
  | [] => none
  | f :: r => some (r.foldl (fun a g => if g.rank < a.rank then g else a) f)

/-- Line bytes of the unacknowledged frames. (DEDUCED, log 88) -/
def Link.heldBytes (l : Link) : Nat := l.unacked.foldl (fun n f => n + f.size) 0

/-- A new frame may be sent (R331, R338); none once LSEQ has reached its last value, which ends the sessions (R345). -/
def Link.maySend (l : Link) (f : OutFrame) : Bool :=
  l.lanes == 0xF#4 && decide (l.unacked.length < 1024) && decide (l.heldBytes + f.size ≤ 4194304) &&
    decide (l.txNext < 2 ^ 48 - 1)

/-- A frame as it is sent: its LSEQ, and the bytes a resend repeats (R338). -/
def OutFrame.sent (f : OutFrame) (q : Nat) : OutFrame :=
  let f := { f with lseq := q }
  { f with wire := f.bytes }

/-- Sends built frames while R338 lets it: each takes the next LSEQ and is kept until it is acknowledged. -/
def Link.flush (l : Link) : Nat → Link
  | 0 => l
  | n + 1 =>
    match nextOut l.out with
    | some f =>
      if l.maySend f then
        { l with
          out := l.out.erase f
          unacked := l.unacked ++ [f.sent l.txNext]
          txNext := l.txNext + 1 }.flush n
      else l
    | none => l

/-- Sends what may be sent. -/
def flushOut (s : State) : State := updLink (fun l => l.flush l.out.length) s

/-- A frame of a class and opcode for a session: without keys, LSEQ or bytes yet. -/
def outFrame (cls opc sess : Byte) (tid : BitVec 16) (addr : BitVec 48) (arg : BitVec 64) (payload : List Byte) : OutFrame :=
  { cls := cls, opc := opc, sess := sess, lseq := 0, tid := tid, addr := addr, arg := arg, payload := payload, key := []
    iv := [], wire := [], ask := none }

/-- A frame with the key and IV base of its session for the device's direction (R344). -/
def keyed (f : OutFrame) (s : State) : OutFrame :=
  match slotOf f.sess with
  | some i => { f with key := s.sess[i].kd, iv := s.sess[i].ivd }
  | none => f

/-- Sends a built frame when R338 lets it. -/
def pushFrame (f : OutFrame) (s : State) : State := flushOut (updLink (fun l => { l with out := l.out ++ [f] }) s)

/-- Builds a frame under its session's key and sends it when R338 lets it. -/
def sendFrame (f : OutFrame) (s : State) : State := pushFrame (keyed f s) s

/-! ### OD responses in the order of their requests (R347) -/

/-- Sends the responses that no earlier request's response is still to precede. -/
def sendReady : Nat → State → State
  | 0, s => s
  | n + 1, s =>
    match s.link.resps with
    | r :: rest =>
      match r.frame with
      | some f => sendReady n (pushFrame f (updLink (fun l => { l with resps := rest }) s))
      | none => s
    | [] => s

/-- Sends what may leave of the responses. -/
def flushResps (s : State) : State := sendReady s.link.resps.length s

/-- An OD request arrived whose response is still to come. -/
def awaitResp (i : Slot) (lseq : Nat) (s : State) : State :=
  updLink (fun l => { l with resps := l.resps ++ [⟨i, lseq, none⟩] }) s

/-- The response to a request takes its place, and leaves when its turn has come (R347). -/
def respond (i : Slot) (lseq : Nat) (f : OutFrame) (s : State) : State :=
  let g := { keyed f s with ask := some lseq }
  flushResps (updLink (fun l =>
    { l with
      resps := if l.resps.any (fun r => r.lseq == lseq) then
          l.resps.map (fun r => if r.lseq = lseq then { r with frame := some g } else r)
        else l.resps ++ [⟨i, lseq, some g⟩] }) s)

/-- The last LINK frame of each kind sent: a later one supersedes it (R338). (DEDUCED, log 89) -/
def sendLink (opc : Byte) (arg : BitVec 64) (payload : List Byte) (s : State) : State :=
  updLink (fun l =>
    { l with
      linkOut := l.linkOut.filter (fun g => g.opc != opc) ++ [(outFrame 1#8 opc 0xFF#8 0#16 0#48 arg payload).sent 0] }) s

/-- Sends an ACK: accepted frames are acknowledged (R337). -/
def sendAck (s : State) : State :=
  updLink (fun l => { l with rxUnacked := 0 }) (sendLink 1#8 (BitVec.ofNat 64 s.link.rxNext) [] s)

/-- Sends a CREDIT with the limits in force (R339). -/
def sendCredit (s : State) : State :=
  updLink (fun l => { l with creditsSent := l.credits })
    (sendLink 3#8 0#64 (s.link.credits.toList.flatMap (fun c => leBytes c 2)) s)

/-- Inbound channel of a frame (R339). -/
def chanOf (cls opc : Nat) : Option (Fin 8) :=
  match cls, opc with
  | 3, 1 => some 0
  | 3, 2 => some 0
  | 4, 1 => some 1
  | 4, 2 => some 2
  | 5, 1 => some 3
  | 6, 2 => some 4
  | 2, 1 => some 5
  | 2, 3 => some 5
  | 2, 6 => some 5
  | _, _ => none

/-- The channel of an inbound frame. -/
def frameChan (f : Frame) : Option (Fin 8) := chanOf f.cls.toNat f.opc.toNat

/-- A limit has risen by 8 or more since the last CREDIT (R339). -/
def Link.creditDue (l : Link) : Bool :=
  (List.finRange 8).any (fun c => decide (8 ≤ (l.credits[c] + 65536 - l.creditsSent[c]) % 65536))

/-- The frame's credit goes back into its channel's limit as the frame is applied or refused (R339). -/
def creditBack (ch : Option (Fin 8)) (s : State) : State :=
  match ch with
  | some c =>
    let s := updLink (fun l => { l with credits := l.credits.set c ((l.credits[c] + 1) % 65536) }) s
    if s.link.creditDue then sendCredit s else s
  | none => s

/-! ### Sessions that close (R345) -/

/-- A session is open or being opened in the slot. -/
def Session.busy (x : Session) : Bool := x.ph != .free

/-- Discards what is held, queued and being read for a slot (R345). -/
def Link.dropSlot (l : Link) (i : Slot) : Link :=
  { l with
    out := l.out.filter (fun f => f.sess.toNat != i.val)
    held := l.held.filter (fun f => f.sess.toNat != i.val)
    resps := l.resps.filter (fun r => r.slot != i)
    reads := l.reads.filter (fun r => r.sess.toNat != i.val) }

/-- The channels of the frames a closing slot had held. -/
def heldOf (i : Slot) (l : List Frame) : List (Option (Fin 8)) := (l.filter (fun f => f.sess.toNat == i.val)).map frameChan

/-- An OD request whose session has closed: its response is dropped (R345). -/
def OdReq.orphan (q : OdReq) (i : Slot) : OdReq := if q.slot = i then { q with mute := true } else q

/-- The requests being applied, without responses to a slot. -/
def orphanReqs (i : Slot) (s : State) : State :=
  { s with
    od := { s.od with cur := s.od.cur.map (fun q => q.orphan i), closeAfter := s.od.closeAfter.filter (fun e => e.1 != i) }
    trust := { s.trust with wlim := s.trust.wlim.map (fun w => { w with req := w.req.orphan i }) } }

/-- Frees a slot: keys erased, held and queued frames discarded with their credits returned (R339, R345). -/
def freeSlot (i : Slot) (s : State) : State :=
  let back := heldOf i (s.link.held ++ s.rcd.gated)
  let s := orphanReqs i (updSess i (fun _ => Session.reset) s)
  let s := updLink (fun l => l.dropSlot i) s
  let s := { s with rcd := { s.rcd with gated := s.rcd.gated.filter (fun f => f.sess.toNat != i.val) } }
  flushResps (back.foldl (fun (s : State) c => creditBack c s) s)

/-- The device closes a session and sends CLOSE, protected under the keys it then erases; nothing in a slot that is free
(R344, R345). -/
def closeSlot (i : Slot) (s : State) : State :=
  if s.sess[i].ph = .free then s
  else pushFrame (keyed (outFrame 2#8 6#8 (BitVec.ofNat 8 i.val) 0#16 0#48 0#64 []) s) (freeSlot i s)

/-- Sessions that close once the response to a write of theirs has left (R389). -/
def closeLeft (s : State) : State :=
  s.od.closeAfter.foldl (fun (s : State) e => if s.link.answered e.2 then closeSlot e.1 s else s) s

/-- Reinitialises the link: every session closed, retransmission buffers discarded, sequence numbers and credits at their
start (R331, R345). -/
def reinit (s : State) : State :=
  let s := (List.finRange 4).foldl (fun (s : State) (i : Slot) => freeSlot i s) s
  let s := updLink (fun l =>
    { l with
      hellos := [], downPos := 0, rxNext := 0, txNext := 0, nakSent := false, rxUnacked := 0, out := [], unacked := [], linkOut := [], resps := []
      resends := 0, sinceAck := 0, credits := Link.credits0, creditsSent := Link.credits0, held := [], reads := []
      cReinit := satAdd 32 l.cReinit 1 }) s
  let s := { s with rcd := { s.rcd with gated := [] } }
  if linkUp s then sendCredit s else s

/-- Either direction's LSEQ has reached its last value (R345). -/
def Link.spent (l : Link) : Bool := decide (2 ^ 48 - 1 ≤ l.rxNext) || decide (2 ^ 48 - 1 ≤ l.txNext)

/-- A direction whose LSEQ has reached its last value reinitialises the link (R345). -/
def lseqEnd (s : State) : State := if s.link.spent then reinit s else s

/-! ### Link events -/

/-- LINK_ALIGNMENT_CHANGE: lanes gain or lose alignment; as the link comes UP the limits are sent, and what waited leaves, the
session of a last response with it (R331, R339, R389). -/
def execLinkAlignmentChange (lanes : BitVec 4) (s : State) : Host.Outcome State Fault Refusal :=
  .next
    (if s.pwr.st == .run then
       let was := linkUp s
       let s := updLink (fun l => { l with lanes := lanes }) s
       if linkUp s && !was then closeLeft (flushOut (sendCredit s)) else s
     else s)

/-- LINK_REINIT: DOWN at 64 consecutive expected positions, or the last LSEQ of a direction, reinitialises the link (R331,
R345). (DEDUCED, log 152) -/
def execLinkReinit (s : State) : Host.Outcome State Fault Refusal :=
  .next (if s.pwr.st == .run && ((!linkUp s && decide (64 ≤ s.link.downPos)) || s.link.spent) then reinit s else s)

/-- The frames below an LSEQ are acknowledged; an advance restarts the resend counts (R337, R338). -/
def ackBelow (n : Nat) (s : State) : State :=
  flushOut (updLink (fun l =>
    let u := l.unacked.filter (fun f => decide (n ≤ f.lseq))
    if u.length = l.unacked.length then l else { l with unacked := u, resends := 0, sinceAck := 0 }) s)

/-- Resends every unacknowledged frame (R338). -/
def resendAll (s : State) : State :=
  updLink (fun l =>
    if l.unacked.isEmpty then l
    else { l with resends := l.resends + 1, sinceAck := 0, cResent := satAdd 64 l.cResent l.unacked.length }) s

/-- The CRC-32 a frame without a tag must carry (R334). -/
def frameCrc (f : Frame) : W32 := crc32 (frameHeader f ++ pad8 f.payload)

/-- A LINK frame passes its CRC and step 1 of R346 for an opcode (R337). -/
def linkValid (opc : Byte) (f : Frame) (crc : W32) : Bool :=
  crc == frameCrc f && f.ver == 1#8 && f.rsvd == 0 && f.cls == 1#8 && f.opc == opc && f.payload.isEmpty

/-- The row takes this LINK frame: one of its own opcode, or one of an opcode no LINK frame to the device has. -/
def linkTakes (opc : Byte) (f : Frame) : Bool := f.cls == 1#8 && (f.opc == opc || (f.opc != 1#8 && f.opc != 2#8))

/-- A LINK frame is received: a failing one is discarded and counted (R337). -/
def receiveLink (opc : Byte) (f : Frame) (crc : W32) (k : State → State) (s : State) : State :=
  if linkOn s && linkTakes opc f then
    if linkValid opc f crc then lseqEnd (closeLeft (k s))
    else updLink (fun l => { l with cDiscard := satAdd 64 l.cDiscard 1 }) s
  else s

/-- LSEQ a LINK frame names. -/
def linkNext (f : Frame) : Nat := f.arg.toNat % 2 ^ 48

/-- LINK_ACK: an ACK acknowledges every frame below the LSEQ it names (R337). -/
def execLinkAck (f : Frame) (crc : W32) (s : State) : Host.Outcome State Fault Refusal :=
  .next (receiveLink 1#8 f crc (ackBelow (linkNext f)) s)

/-- The frames below an LSEQ are acknowledged and the rest resent (R337, R338). -/
def nakFrom (n : Nat) (s : State) : State :=
  let s := updLink (fun l =>
    let u := l.unacked.filter (fun f => decide (n ≤ f.lseq))
    if u.length = l.unacked.length then l else { l with unacked := u, resends := 0, sinceAck := 0 }) s
  flushOut (resendAll s)

/-- LINK_NAK: a NAK acknowledges as an ACK does, and every frame from the LSEQ it names is resent (R337, R338). -/
def execLinkNak (f : Frame) (crc : W32) (s : State) : Host.Outcome State Fault Refusal :=
  .next (receiveLink 2#8 f crc (nakFrom (linkNext f)) s)

/-- RETRANSMIT_TIMEOUT: 8 bt with frames outstanding and no ACK that advances, whether the link is UP or not (R338). -/
def execRetransmitTimeout (s : State) : Host.Outcome State Fault Refusal :=
  .next (if s.pwr.st == .run && decide (8 ≤ s.link.sinceAck) && !s.link.unacked.isEmpty then resendAll s else s)

/-- RESEND_LIMIT: 64 consecutive resends with no advance reinitialise the link (R338). -/
def execResendLimit (s : State) : Host.Outcome State Fault Refusal :=
  .next (if s.pwr.st == .run && decide (64 ≤ s.link.resends) then reinit s else s)

/-- ACK_DUE: an ACK at the first expected position at which accepted frames remain unacknowledged (R337). -/
def execAckDue (s : State) : Host.Outcome State Fault Refusal :=
  .next (if linkOn s && s.beat.edgeNow && decide (0 < s.link.rxUnacked) then sendAck s else s)

/-- CREDIT_REPEAT: the current limits are sent again at every 64th expected position (R338). -/
def execCreditRepeat (s : State) : Host.Outcome State Fault Refusal :=
  .next (if linkOn s && s.beat.edgeNow && s.beat.pos % 64 == 0 then sendCredit s else s)

/-! ### Reception (R332, R334, R337) -/

/-- A frame out of order or with a bad CRC is discarded: counted, and the first time answered by a NAK (R337). -/
def discard (s : State) : State :=
  let s := updLink (fun l => { l with cDiscard := satAdd 64 l.cDiscard 1 }) s
  if s.link.nakSent then s
  else updLink (fun l => { l with nakSent := true }) (sendLink 2#8 (BitVec.ofNat 64 s.link.rxNext) [] s)

/-- The bytes in front of a frame's trailer, as its header gives them: header, padded payload, and the tag of a protected class
(R334 to R336). -/
def wireBody (v : List Byte) : Nat :=
  let cls := fieldAt v 2 1
  let opc := fieldAt v 3 1
  32 + (fieldAt v 12 2 + 7) / 8 * 8 + (if cls = 1 ∨ cls = 2 ∧ (opc = 1 ∨ opc = 2 ∨ opc = 5) then 0 else 16)

/-- The blocks of a frame between SOF and the next SOF or IDLE block hold all of it up to its trailer, and that carries the right
CRC-32 (R334). -/
def wireOk (v : List Byte) : Bool :=
  decide (32 ≤ v.length) && decide (wireBody v + 8 ≤ v.length) &&
    fieldAt v (wireBody v) 4 == (crc32 (v.take (wireBody v))).toNat

/-- FRAME_CRC_FAIL: a sequenced frame fails its CRC or is incomplete (R334, R337). -/
def execFrameCrcFail (v : List Byte) (s : State) : Host.Outcome State Fault Refusal :=
  .next (if linkOn s && !wireOk v then discard s else s)

/-- BLOCK_ERROR: a control block of an unlisted type is discarded and counted (R332). -/
def execBlockError (s : State) : Host.Outcome State Fault Refusal :=
  .next (if linkOn s then updLink (fun l => { l with cDiscard := satAdd 64 l.cDiscard 1 }) s else s)

/-- The frame with the expected LSEQ is accepted: it is acknowledged with every 32nd (R337). -/
def acceptSeq (s : State) : State :=
  let s := updLink (fun l => { l with rxNext := l.rxNext + 1, nakSent := false, rxUnacked := l.rxUnacked + 1 }) s
  if 32 ≤ s.link.rxUnacked then sendAck s else s

/-! ### The record of an input (R318, R320) -/

/-- The bytes a SESSION entry covers. -/
def frameBytes (f : Frame) : List Byte := frameHeader f ++ f.payload

/-- TYPE, ARG, LEN and PAYLOAD of the entry an inbound frame makes; `role` is its session's (R320).
(DEDUCED, log 92) -/
def frameEntry (f : Frame) (role : Nat) : Option (Nat × Nat × Nat × Nat) :=
  let n := f.payload.length
  match f.cls.toNat, f.opc.toNat with
  | 3, 2 => some (2, f.addr.toNat % 2 ^ 24 + role * 2 ^ 24, n, if n ≤ 32 then leNat f.payload else (crc64 f.payload).toNat)
  | 4, 1 => some (3, f.addr.toNat, n, (crc64 f.payload).toNat)
  | 4, 2 => some (3, f.addr.toNat, n, (crc64 f.payload).toNat)
  | 5, 1 => some (4, f.addr.toNat % 256, 4, leNat f.payload)
  | 2, _ => some (5, f.sess.toNat, (frameBytes f).length, (crc64 (frameBytes f)).toNat)
  | _, _ => none

/-- Role of the session a frame names. -/
def roleOf (f : Frame) (s : State) : Nat :=
  match slotOf f.sess with
  | some i => s.sess[i].role
  | none => 0

/-- Records an inbound frame as it is passed to its destination (R318, R321). -/
def recordInput (f : Frame) (s : State) : State :=
  match frameEntry f (roleOf f s) with
  | some (t, a, l, p) => record t a l p s
  | none => s

/-! ### Inbound checks (R346) -/

/-- A class and opcode the control node may send, other than LINK (R336). -/
def frameKnown (f : Frame) : Bool := (frameChan f).isSome

/-- The bytes of a record-ring entry have version 1 and their reserved bits at 0 (R14, R15, R36, R319). (DEDUCED, log 79) -/
def entryOk (v : List Byte) : Bool :=
  let n := leNat v
  n % 256 == 1 && bitsAt n 55 16 == 0 && bitsAt n 147 144 == 0

/-- Every entry of a SCRIPT frame is well formed. -/
def entriesOk (v : List Byte) : Bool := (List.range (v.length / 64)).all (fun i => entryOk ((v.drop (64 * i)).take 64))

/-- LEN, ARG and payload bits are in the opcode's range (R336, R342, R346 step 1). -/
def frameShaped (f : Frame) : Bool :=
  let n := f.payload.length
  match f.cls.toNat, f.opc.toNat with
  | 2, 1 =>
    n == 1701 && fieldAt f.payload 0 1 == 1 && decide (fieldAt f.payload 1 1 ≤ 2) && fieldAt f.payload 2 2 % 2 == 0
  | 2, 3 => decide (n ≤ 4096)
  | 2, 6 => n == 0
  | 3, 1 => n == 0
  | 3, 2 => decide (n ≤ 4096)
  | 4, 1 => decide (1 ≤ n) && decide (n ≤ 4096)
  | 4, 2 => n == 0 && decide (1 ≤ f.arg.toNat) && decide (f.arg.toNat ≤ 16777216)
  | 5, 1 => n == 4 && bitsAt (leNat f.payload) 30 16 == 0
  | 6, 2 => decide (64 ≤ n) && decide (n ≤ 4096) && n % 64 == 0 && f.arg == 0#64 && entriesOk f.payload
  | _, _ => false

/-- The frame is protected: all but HELLO. -/
def frameSealed (f : Frame) : Bool := !(f.cls == 2#8 && f.opc == 1#8)

/-- The slot the frame names is open, or awaits the FINISH it is. -/
def slotServes (f : Frame) (s : State) : Bool :=
  match slotOf f.sess with
  | some i => if f.cls = 2#8 ∧ f.opc = 3#8 then s.sess[i].ph == .finish else s.sess[i].ph == .opened
  | none => false

/-- BULK, FLAG and SCRIPT frames ask for OPERATOR. -/
def frameOperator (f : Frame) : Bool := f.cls == 4#8 || f.cls == 5#8 || f.cls == 6#8

/-- Bytes a bulk frame touches. -/
def frameSpan (f : Frame) : Nat := if f.opc = 1#8 then f.payload.length else f.arg.toNat

/-- Ranges of bulk and flag frames (R346 step 5). -/
def frameInRange (f : Frame) : Bool :=
  if f.cls = 4#8 then inBands f.addr.toNat (frameSpan f) || inSpad f.addr.toNat (frameSpan f)
  else if f.cls = 5#8 then decide (224 ≤ f.addr.toNat % 256) else true

/-- The tag a protected frame must carry, under the key and IV base of its session for the node's direction (R344). -/
def frameTag (f : Frame) (s : State) : List Byte :=
  match slotOf f.sess with
  | some i => (gcmSeal s.sess[i].kn (frameNonce s.sess[i].ivn f.lseq.toNat) (frameHeader f) f.payload).2
  | none => []

/-- The first check of R346 the frame fails: its step and the place of its reason's counter. (DEDUCED, log 91) -/
def frameFails (f : Frame) (s : State) : Option (Nat × Fin 6) :=
  if f.ver ≠ 1#8 ∨ f.rsvd ≠ 0 ∨ !frameKnown f ∨ !frameShaped f then some (1, 0)
  else if (frameSealed f) && !slotServes f s then some (2, 1)
  else if (frameSealed f) && f.tag != frameTag f s then some (3, 2)
  else if (frameOperator f) && decide (roleOf f s < 1) then some (4, 3)
  else if !frameInRange f then some (5, 4)
  else if f.cls == 6#8 && !replaying s then some (6, 5)
  else none

/-- A refused frame: counted, kept as the last refusal, its credit returned; a failing tag closes an open session (R344,
R346). -/
def refuseFrame (f : Frame) (step : Nat) (why : Fin 6) (s : State) : State :=
  let s := updLink (fun l =>
    { l with
      cRefused := l.cRefused.set why (satAdd 64 l.cRefused[why] 1)
      lastRefusal := BitVec.ofNat 64 (step * 2 ^ 56 + f.cls.toNat * 2 ^ 48 + f.lseq.toNat) }) s
  let s := creditBack (frameChan f) s
  if step = 3 then
    match slotOf f.sess with
    | some i => if s.sess[i].ph = .opened then closeSlot i s else s
    | none => s
  else s

/-- A protected frame restarts its session's idle time (R345). (DEDUCED, log 84) -/
def touch (f : Frame) (s : State) : State :=
  match slotOf f.sess with
  | some i => if frameSealed f = true ∧ s.sess[i].ph = .opened then updSess i (fun x => { x with timer := 0 }) s else s
  | none => s

/-- The row takes this frame: one of its own class and opcode, or one of no known kind. -/
def rowTakes (f : Frame) (cls opc : Byte) : Bool := (f.cls == cls && f.opc == opc) || (!frameKnown f && f.cls != 1#8)

/-- Receives a frame of the row of a class and opcode: its LSEQ, the checks of R346, then `k` (R337, R346). -/
def receive (cls opc : Byte) (f : Frame) (k : State → State) (s : State) : State :=
  if linkOn s && rowTakes f cls opc then
    if f.lseq.toNat = s.link.rxNext then
      let s := acceptSeq s
      lseqEnd
        (match frameFails f s with
         | some (step, why) => refuseFrame f step why s
         | none => k (touch f s))
    else discard s
  else s

end Sys2Proof.Machine
end

