-- ==== Sys2Proof/Machine/OdTable.lean ====
section
/-! DEFINITION. The table of the object dictionary: which entries exist, their types, classes and roles (R351 to R354, R365). -/

namespace Sys2Proof.Machine

/-- Types of entries (R352). -/
inductive OdTy where
  | bool | u8 | u16 | u32 | u64 | i32 | f32
  | octets (n : Nat)
  | string
  deriving DecidableEq, Repr

/-- Access classes (R353); a limited-write entry has its number of R362. -/
inductive OdCls where
  | ro | rw | wo | wonce
  | wlim (entry : Nat)
  deriving DecidableEq, Repr

/-- An entry of the gate's table; `openOnly` marks an entry accessed only under policy OPEN. -/
structure OdDef where
  ty : OdTy
  cls : OdCls
  role : Nat
  openOnly : Bool
  deriving DecidableEq, Repr

/-- Entries of each class. -/
def ro (t : OdTy) : OdDef := ⟨t, .ro, 0, false⟩
def rw (t : OdTy) (role : Nat) : OdDef := ⟨t, .rw, role, false⟩
def wo (t : OdTy) (role : Nat) : OdDef := ⟨t, .wo, role, false⟩

/-- Highest subindex of an index, for the indices that exist (R365). -/
def odMax (ix : Nat) : Option Nat :=
  match ix with
  | 0x1000 => some 0x09
  | 0x1010 => some 0x0A
  | 0x1020 => some 0x19
  | 0x2010 => some 0x02
  | 0x2100 => some 0x03
  | 0x2110 => some 0x03
  | 0x2120 => some 0x03
  | 0x2130 => some 0x01
  | 0x2140 => some 0x18
  | 0x2150 => some 0x01
  | 0x2160 => some 0x08
  | 0x2170 => some 0x02
  | 0x2180 => some 0x02
  | 0x2190 => some 0x02
  | 0x3010 => some 0x06
  | 0x3020 => some 0x18
  | 0x3030 => some 0x0D
  | 0x3040 => some 0x1A
  | 0x3050 => some 0x0D
  | 0x4010 => some 0x03
  | 0x4020 => some 0x02
  | 0x4030 => some 0x0B
  | 0x4040 => some 0x04
  | 0x4060 => some 0x05
  | 0x4070 => some 0x03
  | 0x5010 => some 0x08
  | 0x5020 => some 0x02
  | 0x5030 => some 0x04
  | 0x6010 => some 0x03
  | 0x6020 => some 0x10
  | 0x6030 => some 0x0D
  | 0x6040 => some 0x05
  | 0x6050 => some 0x04
  | 0x6051 => some 0x04
  | 0x6060 => some 0x0C
  | 0x6070 => some 0x07
  | 0x6080 => some 0x0D
  | 0x7010 => some 0x0C
  | 0x7020 => some 0x08
  | 0x7030 => some 0x0A
  | 0x8010 => some 0x02
  | 0x8020 => some 0x04
  | 0x8030 => some 0x03
  | 0x8040 => some 0x01
  | 0x8050 => some 0x01
  | 0x8100 => some 0x04
  | 0x9000 => some 0x04
  | 0x9010 => some 0x02
  | 0x9020 => some 0x02
  | 0x9030 => some 0x02
  | 0x9040 => some 0x02
  | 0xA010 => some 0x02
  | 0xA020 => some 0x01
  | _ => none

/-- The definition of an entry at a subindex that exists (R365 to R374 and the tables it names). -/
def odDef (ix sub : Nat) : OdDef :=
  if sub = 0 then ro .u8
  else match ix, sub with
    | 0x1000, 1 => ro .string
    | 0x1000, 2 => ro .string
    | 0x1000, 5 => ro .u32
    | 0x1000, 6 => ro .u16
    | 0x1000, 7 => ro (.octets 16)
    | 0x1000, 9 => ⟨.string, .wonce, 2, false⟩
    | 0x1000, _ => ro .u8
    | 0x1010, _ => ro .u8
    | 0x1020, _ => ro .u32
    | 0x2010, _ => ro (.octets 16)
    | 0x2100, 1 => wo .u8 1
    | 0x2100, 2 => wo .u16 1
    | 0x2100, _ => wo .u32 1
    | 0x2110, 3 => ro .u16
    | 0x2110, _ => wo .u16 1
    | 0x2120, 1 => rw .u8 1
    | 0x2120, 2 => wo .u16 1
    | 0x2120, _ => ro .u16
    | 0x2130, _ => rw .u32 1
    | 0x2140, _ => ro .u64
    | 0x2150, _ => rw .u8 1
    | 0x2160, 1 => wo .u64 1
    | 0x2160, 2 => wo .u64 1
    | 0x2160, 3 => wo .u8 1
    | 0x2160, 4 => wo .u16 1
    | 0x2160, 5 => ro .u8
    | 0x2160, 6 => ro .u32
    | 0x2160, 7 => ro (.octets 32)
    | 0x2160, _ => ro .u16
    | 0x2170, 1 => wo (.octets 32) 1
    | 0x2170, _ => ro .u8
    | 0x2180, 1 => wo .u16 1
    | 0x2180, _ => ro .u16
    | 0x2190, 1 => ro .u8
    | 0x2190, _ => ro .u32
    | 0x3010, 1 => rw .u16 1
    | 0x3010, 6 => ⟨.u16, .wonce, 2, false⟩
    | 0x3010, _ => ro .u16
    | 0x3020, n => if n ≤ 12 then ro .u8 else rw .u8 1
    | 0x3030, _ => ro .i32
    | 0x3040, n => if n ≤ 12 then ro .i32 else if n ≤ 14 then ro .u16 else ro .u8
    | 0x3050, _ => ro .u16
    | 0x4010, 3 => ro .u8
    | 0x4010, _ => rw .u8 1
    | 0x4020, 1 => rw (.octets 16) 1
    | 0x4020, _ => ro .u8
    | 0x4030, _ => ro .u64
    | 0x4040, 1 => rw .bool 1
    | 0x4040, _ => ro .u32
    | 0x4060, _ => ro .u64
    | 0x4070, 1 => rw .bool 1
    | 0x4070, _ => ro .u32
    | 0x5010, 1 => rw .u16 1
    | 0x5010, 2 => wo (.octets 336) 1
    | 0x5010, 3 => wo (.octets 32) 1
    | 0x5010, 4 => wo .u64 1
    | 0x5010, 5 => wo .u8 1
    | 0x5010, 6 => ro .u8
    | 0x5010, 7 => ro (.octets 256)
    | 0x5010, _ => wo .u8 1
    | 0x5020, 1 => rw .u8 1
    | 0x5020, _ => rw .u16 1
    | 0x5030, _ => ro .u32
    | 0x6010, 1 => rw .u8 0
    | 0x6010, _ => ro .u64
    | 0x6020, 1 => rw .u8 0
    | 0x6020, _ => ro .u64
    | 0x6030, 1 => rw .u8 0
    | 0x6030, _ => ro .u64
    | 0x6040, _ => ro .u64
    | 0x6050, 1 => rw .u16 0
    | 0x6050, 4 => ro .u32
    | 0x6050, _ => ro .f32
    | 0x6051, 1 => rw .u16 0
    | 0x6051, 2 => ro (.octets 64)
    | 0x6051, _ => ro .u32
    | 0x6060, 1 => rw .u8 0
    | 0x6060, _ => ro .u64
    | 0x6070, 1 => rw .u8 0
    | 0x6070, _ => ro .u64
    | 0x6080, n => if n ≤ 11 then ro .u64 else ro .u32
    | 0x7010, 1 => ro .u8
    | 0x7010, 3 => wo .u8 1
    | 0x7010, 4 => rw .u8 1
    | 0x7010, n => if n = 2 ∨ n = 5 ∨ n = 12 then ro .u64 else if n = 11 then ro .i32 else ro .u32
    | 0x7020, 1 => wo .u8 1
    | 0x7020, 2 => ro .u8
    | 0x7020, 5 => ro .u32
    | 0x7020, _ => ro .u64
    | 0x7030, 1 => rw .bool 1
    | 0x7030, 5 => wo .u8 1
    | 0x7030, 6 => ro .u8
    | 0x7030, 8 => ro .u8
    | 0x7030, 9 => rw .u8 1
    | 0x7030, _ => ro .u64
    | 0x8010, 1 => ro (.octets 1793)
    | 0x8010, _ => ro (.octets 4096)
    | 0x8020, 1 => rw .u32 2
    | 0x8020, 4 => wo .u8 2
    | 0x8020, _ => ro .u8
    | 0x8030, 1 => wo (.octets 32) 0
    | 0x8030, 2 => ro .u8
    | 0x8030, _ => ro (.octets 4096)
    | 0x8040, _ => rw .u8 1
    | 0x8050, _ => ro (.octets 32)
    | 0x8100, 1 => rw .u8 2
    | 0x8100, _ => ro .u8
    | 0x9000, 1 => rw .u8 0
    | 0x9000, 2 => ro (.octets 40)
    | 0x9000, _ => ro .u8
    | 0x9010, 1 => ⟨.u8, .wlim 1, 2, false⟩
    | 0x9020, 1 => ⟨.octets 32, .wlim 2, 2, false⟩
    | 0x9030, 1 => ⟨.u8, .wlim 3, 2, false⟩
    | 0x9040, 1 => ⟨.u8, .wlim 4, 2, false⟩
    | 0xA010, 1 => rw .u8 2
    | 0xA010, _ => ro .u16
    | 0xA020, _ => ⟨.u32, .ro, 2, true⟩
    | _, _ => ro .u8

/-- LEN fits the type (R352). -/
def OdTy.fits (t : OdTy) (n : Nat) : Bool :=
  match t with
  | .bool => n == 1
  | .u8 => n == 1
  | .u16 => n == 2
  | .u32 => n == 4
  | .u64 => n == 8
  | .i32 => n == 4
  | .f32 => n == 4
  | .octets k => n == k
  | .string => decide (1 ≤ n) && decide (n ≤ 64)

/-- The class permits the direction (R353). -/
def OdCls.permits (c : OdCls) (write : Bool) : Bool :=
  match c with
  | .ro => !write
  | .wo => write
  | _ => true

/-- Whether the role gate of an entry applies to the request (R354). -/
def OdDef.gated (d : OdDef) (write : Bool) : Bool := d.cls == .ro || write

end Sys2Proof.Machine
end

