-- ==== Sys2Proof/Machine/OdRead.lean ====
section
/-! DEFINITION. What an OD READ returns: the current value of every readable entry (R29, R48, R55, R59, R110, R176, R205, R231, R234, R254, R276, R299, R328, R350, R366 to R374). -/

namespace Sys2Proof.Machine

/-- Codes of the wait causes (R198). -/
def Cause.code : Cause → Nat
  | .flagL => 1
  | .flagG => 2
  | .flagLink => 3
  | .dqEmpty => 4
  | .dqFull => 5
  | .tile => 6
  | .vec => 7
  | .ntt => 8
  | .tdOpen => 9
  | .keyEmpty => 10
  | .hop => 11
  | .pool => 12
  | .beat => 13
  | .park => 14
  | .other => 15

/-- Codes of STATE (R204). -/
def StStat.code : StStat → Nat
  | .idle => 0
  | .run => 1
  | .wait => 2
  | .parked => 3
  | .halted => 4

/-- STREAM_STAT of a stream (R204): CAUSE and FPC show the stream's own wait before that of a unit instruction it issued.
(DESIGN CHOICE, log 174) -/
def streamStat (b : Bay) (st : Strm) (s : State) : Nat :=
  let x := s.strm b st
  let u := oldestWait (unitWaits b st s)
  let own := if x.haltAge.isSome && x.fault != 0x31#8 then none else x.wait
  let cause := match own, u with
    | some w, _ => w.cause.code
    | none, some u => u.cause.code
    | none, none => 0
  let fpc := match own, u with
    | none, some u => if x.status = StStat.halted then x.fpc else u.pc
    | _, _ => x.fpc
  x.fault.toNat * 2 ^ 56 + x.calls.length * 2 ^ 48 + x.loops.length * 2 ^ 45 + cause * 2 ^ 40 +
    x.status.code * 2 ^ 37 + (if st = .x ∧ inBracket b s then 2 ^ 36 else 0) + fpc.toNat * 2 ^ 16 + x.pc.toNat

/-- A mask of the bays a condition holds of. -/
def bayMaskOf (p : Bay → Bool) : Nat :=
  (List.finRange 12).foldl (fun m b => m + (if p b then 2 ^ b.val else 0)) 0

/-- Halted streams, bit 2n for the A-stream and 2n + 1 for the X-stream of Bn (R369). -/
def haltedMask (s : State) : Nat :=
  (List.finRange 12).foldl (fun (m : Nat) (b : Bay) =>
    m + (if (s.strm b .a).status = .halted then 2 ^ (2 * b.val) else 0) +
      (if (s.strm b .x).status = .halted then 2 ^ (2 * b.val + 1) else 0)) 0

/-- The steward firmware runs: started, and not stopped by an error in its memory (R251, R380). -/
def stewardRuns (s : State) : Bool := s.trust.stage == .run && !s.trust.stewardDown

/-- Version and measurement of the running steward firmware, zeros while none runs (R380). -/
def fwVerNow (s : State) : Nat := if stewardRuns s then s.trust.fwVer.toNat else 0

def fwMeasNow (s : State) : List Byte := padTo 32 (if stewardRuns s then s.trust.fwMeas else [])

/-- Bays that hold an image (R231). -/
def loadedMask (s : State) : BayMask := s.ldr.images.foldl (fun m i => m ||| i.bays) 0#12

/-- The ASCII bytes of a string. -/
def asciiBytes (t : String) : List Byte := t.toList.map (fun c => BitVec.ofNat 8 c.toNat)

/-- The draws of the device's key generation, in order: the output of SHAKE256 over the label and the seed (R376). -/
def idDraws (f : Fuses) : Nat → Byte :=
  fun n => (shake256 (asciiBytes "SHOZAL-I" ++ padTo 32 f.seed) (n + 1)).getD n 0#8

/-- The public identity key in its 1,793-byte encoding (R376), and a signature under it in the padded format (R378). -/
def idKeyOf (f : Fuses) : List Byte := (Config.identity (idDraws f)).pub
def idSign (f : Fuses) (msg : List Byte) : List Byte := (Config.identity (idDraws f)).sign msg

/-- What the identity key signs verifies under its public key (R376, R378). -/
theorem idSign_verifies (f : Fuses) (msg : List Byte) : falconVerify (idKeyOf f) msg (idSign f msg) = true :=
  (Config.identity (idDraws f)).verifies msg

/-- VARIANT (R377). -/
def variantOf (f : Fuses) : Nat := if f.variantD1 then 2 else 1

/-- The device certificate (R377). -/
def certificate (f : Fuses) : List Byte :=
  leBytes 1 1 ++ leBytes (variantOf f) 1 ++ [f.stepping] ++ leBytes 0 1 ++ padTo 16 f.serial ++ idKeyOf f ++ leBytes 0 3 ++
    padTo 32 f.relHash ++ padTo 1280 f.certSig

/-- Codes of the beat states (R328). -/
def BeatSt.code : BeatSt → Nat
  | .acquire => 0
  | .locking => 1
  | .locked => 2
  | .hold => 3
  | .lost => 4
  | .free => 5

/-- Codes of the replay states (R328). -/
def ReplaySt.code : ReplaySt → Nat
  | .off => 0
  | .armed => 1
  | .active => 2
  | .diverged => 3
  | .done => 4

/-- A signed 32-bit value as a number. -/
def i32 (v : Int) : Nat := (BitVec.ofInt 32 v).toNat

/-- The table of resource sizes (R368). -/
def sizeOf : List Nat :=
  [12, 8, 9, 512, 32768, 16384, 16, 8, 4, 8, 8, 32, 64, 256, 32, 64, 8, 16, 4, 4, 4, 50331648, 2048, 16384, 4]

/-- The longest of a list of laps, 0 while one has not been completed. -/
def longest (l : List (Option Nat)) : Nat := if l.any Option.isNone then 0 else (l.map (fun x => x.getD 0)).foldl max 0

/-- The smallest of a list. -/
def least (l : List Nat) : Nat := l.foldl min (l.headD 0)

/-- Last laps of every pseudo-channel of every stack, and how many it has completed. -/
def patrolLaps (s : State) : List (Option Nat) :=
  s.stk.toList.flatMap (fun k => (List.range 32).map (fun c =>
    if Sparse.get (fun _ => 0) k.laps c = 0 then none else some (Sparse.get (fun _ => 0) k.lapLen c)))

def patrolCounts (s : State) : List Nat :=
  s.stk.toList.flatMap (fun k => (List.range 32).map (fun c => Sparse.get (fun _ => 0) k.laps c))

/-- The slots whose session is open (R350). -/
def openSlots (s : State) : Nat :=
  (List.finRange 4).foldl (fun (m : Nat) (i : Slot) => m + (if s.sess[i].ph = .opened then 2 ^ i.val else 0)) 0

/-- The bay a selector names; selectors stay below 12. -/
def selBay (v : Byte) : Bay := Fin.ofNat 12 v.toNat

/-- OD 0x6051:03 (R176). -/
def scaleWord (x : ScaleSlot) : Nat :=
  x.hist.length + x.backoff * 2 ^ 5 + (if x.e5m2 then 2 ^ 8 else 0) + x.margin * 2 ^ 9 + x.clean * 2 ^ 11

/-- Entries of 0x1000 (R366). -/
def odIdentity (s : State) (sub : Nat) : List Byte :=
  let t := s.trust
  match sub with
  | 1 => asciiBytes "Jedrica Semiconductor"
  | 2 => asciiBytes (if t.fuses.variantD1 then "SZ9612-D1" else "SZ9612-L1")
  | 3 => [1#8]
  | 4 => [t.fuses.stepping]
  | 5 => leBytes (fwVerNow s) 4
  | 6 => leBytes t.romVer.toNat 2
  | 7 => padTo 16 t.fuses.serial
  | 8 => [if policyClosed t then 1#8 else 0#8]
  | _ => s.od.assetTag.getD (asciiBytes "-")

/-- Entries of 0x3010 (R370). -/
def odPower (s : State) (sub : Nat) : Nat :=
  match sub with
  | 1 => s.pwr.opLimit
  | 2 => s.trust.fuses.ceilingW
  | 3 => s.pwr.limit
  | 4 => s.pwr.inputW
  | 5 => s.pwr.inputMv
  | _ => s.pwr.ceiling.getD s.trust.fuses.ceilingW

/-- Entries of 0x4030 (R254). -/
def odCodes (c : Codes) (sub : Nat) : Nat :=
  match sub with
  | 1 => c.spadCorr
  | 2 => c.spadPages
  | 3 => c.spadUe
  | 4 => c.keyCorr
  | 5 => c.keyPages
  | 6 => c.keyUe
  | 7 => c.byteCorr
  | 8 => c.byteUe
  | 9 => c.wordCorr
  | 10 => c.wordUe
  | _ => c.lastUe.toNat

/-- Entries of 0x6040 (R110). -/
def odTide (c : TideCtr) (sub : Nat) : Nat :=
  match sub with
  | 1 => c.bytes
  | 2 => c.perms
  | 3 => c.rejected
  | 4 => c.keyWait
  | _ => c.dropped

/-- Entries of 0x6060 for the selected bay (R276). -/
def odXfer (x : Xfer) (sub : Nat) : Nat :=
  match sub with
  | 9 => x.rd
  | 10 => x.wr
  | 11 => x.nulls
  | 12 => x.records
  | n => x.causes.toList.getD (n - 2) 0

/-- Entries of 0x6070 for the selected stack (R299). -/
def odStack (k : Stack) (sub : Nat) : Nat :=
  match sub with
  | 2 => k.rowHits
  | 3 => k.activates
  | 4 => k.noEntry
  | 5 => k.rdBytes
  | 6 => k.wrBytes
  | _ => k.missed

/-- Entries of 0x6080 (R350). -/
def odLink (l : Link) (sub : Nat) : Nat :=
  match sub with
  | 1 => l.fecCorr
  | 2 => l.fecUncorr
  | 3 => l.cResent
  | 4 => l.cDiscard
  | 11 => l.lastRefusal.toNat
  | 12 => l.cReinit
  | 13 => l.cBadBeat
  | n => l.cRefused.toList.getD (n - 5) 0

/-- Entries of 0x7010 (R328). -/
def odBeat (t : Beat) (sub : Nat) : Nat :=
  match sub with
  | 1 => t.st.code
  | 2 => t.beat.toNat
  | 4 => if t.autoRelock then 1 else 0
  | 5 => t.cAccepted
  | 6 => t.cPos
  | 7 => t.cNum
  | 8 => t.cBridged
  | 9 => t.cHold
  | 10 => t.cRefused
  | 11 => i32 t.lastOff
  | _ => t.pos

/-- Entries of 0x7020 (R328). -/
def odRun (r : Run) (sub : Nat) : Nat :=
  match sub with
  | 2 => runFlags r
  | 3 => r.armBeat.toNat
  | 4 => if r.isOpen then 0 else r.closeBeat.toNat
  | 5 => r.throttles
  | 6 => r.first.toNat
  | 7 => r.digest.toNat
  | _ => r.lastBar.toNat

/-- Entries of 0x7030 (R328). -/
def odRecord (r : Rec) (sub : Nat) : Nat :=
  match sub with
  | 1 => if r.on then 1 else 0
  | 2 => r.seq
  | 3 => r.drain
  | 4 => r.lost
  | 6 => r.replay.code
  | 7 => r.divSeq
  | 8 => r.divKind
  | 9 => if r.stopOn then 1 else 0
  | _ => r.damaged

/-- Entries of 0x2160 (R231, R232). -/
def odLoader (s : State) (sub : Nat) : List Byte :=
  let l := s.ldr
  match sub with
  | 5 => [if l.loading then (if l.busyShown then 1#8 else 0xFE#8) else l.status]
  | 6 => leBytes (if l.loading then 0 else l.detail.toNat) 4
  | 7 => padTo 32 l.meas
  | _ => leBytes (loadedMask s).toNat 2

/-- Entries of 0x9000 (R373). -/
def odJournal (s : State) (i : Slot) (sub : Nat) : List Byte :=
  match sub with
  | 1 => [s.sess[i].selJrn]
  | 2 => leBytes (recordAt s.trust s.sess[i].selJrn.toNat).toNat 40
  | 3 => leBytes (freeRecords s.trust) 1
  | _ => leBytes (voidRecords s.trust) 1

/-- The current value of an entry that exists and may be read, for the session in a slot. -/
def odValue (s : State) (i : Slot) (ix sub : Nat) : List Byte :=
  let x := s.sess[i]
  if sub = 0 then leBytes ((odMax ix).getD 0) 1
  else match ix with
    | 0x1000 => odIdentity s sub
    | 0x1010 => [1#8]
    | 0x1020 => leBytes (sizeOf.getD (sub - 1) 0) 4
    | 0x2010 => leBytes (if sub = 1 then s.trust.mapNow.toNat else (mapNext s.trust).toNat) 16
    | 0x2110 => leBytes (bayMaskOf (fun b => (s.bay b).parked)) 2
    | 0x2120 =>
      if sub = 1 then [if s.od.tideHalt then 1#8 else 0#8] else leBytes (bayMaskOf (fun b => (s.bay b).tide.halt)) 2
    | 0x2130 => leBytes s.od.waitTimeout 4
    | 0x2140 => leBytes (streamStat (Fin.ofNat 12 ((sub - 1) / 2)) (if sub % 2 = 1 then .a else .x) s) 8
    | 0x2150 => [if s.od.balance then 1#8 else 0#8]
    | 0x2160 => odLoader s sub
    | 0x2170 => [s.ldr.launchCode]
    | 0x2180 => leBytes (bayMaskOf (fun b => (s.bay b).xf.halt)) 2
    | 0x2190 => if sub = 1 then [s.faults.gong] else leBytes (haltedMask s) 4
    | 0x3010 => leBytes (odPower s sub) 2
    | 0x3020 =>
      if sub ≤ 12 then leBytes (s.pwr.step.toList.getD (sub - 1) 0) 1 else leBytes (s.pwr.opcap.toList.getD (sub - 13) 0) 1
    | 0x3030 => leBytes (i32 (if sub ≤ 12 then s.pwr.bayTemp.toList.getD (sub - 1) 0 else s.pwr.uncoreTemp)) 4
    | 0x3040 =>
      if sub ≤ 12 then leBytes (i32 ((s.stk.toList.map (fun k => k.temp)).getD (sub - 1) 0)) 4
      else if sub = 13 then leBytes (bayMaskOf (fun b => s.stk[b].hot)) 2
      else if sub = 14 then leBytes (bayMaskOf (fun b => s.stk[b].actLimit)) 2
      else leBytes ((s.stk.toList.map (fun k => k.cap)).getD (sub - 15) 0) 1
    | 0x3050 => leBytes (if sub ≤ 12 then s.pwr.bayMv.toList.getD (sub - 1) 0 else s.pwr.uncoreMv) 2
    | 0x4010 => leBytes (if sub = 1 then s.codes.spadP else if sub = 2 then s.codes.keyP else if s.codes.reenc.isSome then 1 else 0) 1
    | 0x4020 => if sub = 1 then leBytes s.ms.bands.toNat 16 else [if s.ms.zeroing.isEmpty then 0#8 else 1#8]
    | 0x4030 => leBytes (odCodes s.codes sub) 8
    | 0x4040 =>
      if sub = 1 then [if s.codes.scrubOn then 1#8 else 0#8]
      else if sub = 2 then leBytes (longest (s.bays.toList.map (fun b => b.prot.lapLen))) 4
      else if sub = 3 then leBytes (least (s.bays.toList.map (fun b => b.prot.laps))) 4
      else leBytes s.codes.scrubUe 4
    | 0x4060 =>
      leBytes (if sub = 1 then s.codes.secCorr else if sub = 2 then s.codes.secUe else if sub = 3 then s.codes.wbDropped
        else if sub = 4 then s.codes.partDropped else s.codes.lastSecUe.toNat) 8
    | 0x4070 =>
      if sub = 1 then [if s.codes.patrolOn then 1#8 else 0#8]
      else if sub = 2 then leBytes (longest (patrolLaps s)) 4 else leBytes (least (patrolCounts s)) 4
    | 0x5010 =>
      if sub = 1 then leBytes s.hdr.sel 2 else if sub = 6 then [s.hdr.status] else (ctxAt s s.hdr.sel).image
    | 0x5020 => if sub = 1 then leBytes s.od.budgetPolicy 1 else leBytes s.od.thresh 2
    | 0x5030 =>
      leBytes (if sub = 1 then s.hdr.cSpent else if sub = 2 then s.hdr.cInserted else if sub = 3 then s.hdr.cPoison
        else s.hdr.cMismatch) 4
    | 0x6010 =>
      if sub = 1 then [x.selFault]
      else if sub = 2 then leBytes (Sparse.get (fun _ => 0) s.faults.cnt x.selFault.toNat) 8
      else leBytes (Sparse.get (fun _ => 0#64) s.faults.last x.selFault.toNat).toNat 8
    | 0x6020 =>
      if sub = 1 then [x.selStall]
      else
        let st : Strm := if x.selStall.getLsbD 4 then .x else .a
        leBytes ((s.strm (selBay (x.selStall &&& 0x0F#8)) st).stall.toList.getD (sub - 2) 0) 8
    | 0x6030 =>
      let p := (s.bay (selBay x.selBank)).prot
      if sub = 1 then [x.selBank]
      else if sub ≤ 11 then leBytes (p.waits.toList.getD (sub - 2) 0) 8
      else if sub = 12 then leBytes p.aged 8 else leBytes p.repairWaits 8
    | 0x6040 => leBytes (odTide s.tideCtr sub) 8
    | 0x6050 =>
      let r := ratioAt s x.selRatio.toNat
      if sub = 1 then leBytes x.selRatio.toNat 2
      else if sub = 2 then leBytes r.last.toNat 4 else if sub = 3 then leBytes r.largest.toNat 4 else leBytes r.commits 4
    | 0x6051 =>
      let r := scaleAt s x.selScale.toNat
      if sub = 1 then leBytes x.selScale.toNat 2
      else if sub = 2 then padTo 64 (r.hist.flatMap (fun v => leBytes v.toNat 4))
      else if sub = 3 then leBytes (scaleWord r) 4 else leBytes s.stats.skips 4
    | 0x6060 => if sub = 1 then [x.selXf] else leBytes (odXfer (s.bay (selBay x.selXf)).xf sub) 8
    | 0x6070 => if sub = 1 then [x.selStack] else leBytes (odStack s.stk[selBay x.selStack] sub) 8
    | 0x6080 => leBytes (odLink s.link sub) (if sub ≤ 11 then 8 else 4)
    | 0x7010 =>
      leBytes (odBeat s.beat sub) (if sub = 1 ∨ sub = 4 then 1 else if sub = 2 ∨ sub = 5 ∨ sub = 12 then 8 else 4)
    | 0x7020 => leBytes (odRun s.run sub) (if sub = 2 then 1 else if sub = 5 then 4 else 8)
    | 0x7030 => leBytes (odRecord s.rcd sub) (if sub = 1 ∨ sub = 6 ∨ sub = 8 ∨ sub = 9 then 1 else 8)
    | 0x8010 =>
      if sub = 1 then idKeyOf s.trust.fuses else padTo 4096 (certificate s.trust.fuses)
    | 0x8020 =>
      if sub = 1 then leBytes s.od.idleTimeout 4
      else if sub = 2 then leBytes (openSlots s) 1 else leBytes (i.val + x.role * 4) 1
    | 0x8030 => if sub = 2 then leBytes x.att.status 1 else padTo 4096 x.att.report
    | 0x8040 => [s.od.recordSink]
    | 0x8050 => fwMeasNow s
    | 0x8100 =>
      leBytes (if sub = 1 then s.od.powerClass else if sub = 2 then s.trust.fuses.maxClass
        else if sub = 3 then (if linkUp s then 1 else 0) else s.link.lanes.toNat) 1
    | 0x9000 => odJournal s i sub
    | 0x9010 => leBytes (if sub = 1 then svnNow s.trust else unitsLeft s.trust 1) 1
    | 0x9020 => if sub = 1 then ownerHash s.trust else leBytes (unitsLeft s.trust 2) 1
    | 0x9030 => leBytes (if sub = 1 then retirement s.trust else unitsLeft s.trust 3) 1
    | 0x9040 => leBytes (if sub = 1 then (if policyClosed s.trust then 1 else 0) else unitsLeft s.trust 4) 1
    | 0xA010 => if sub = 1 then leBytes s.od.tmxSel 1 else leBytes (tmxGroups s.trust).toNat 2
    | 0xA020 => leBytes s.bn.reason.toNat 4
    | _ => []

/-! ### Attestation reports (R385) -/

/-- Measurement of the image a bay holds; zeros for none. -/
def bayMeas (s : State) (b : Bay) : List Byte :=
  match imageOf b s with
  | some i => padTo 32 i.meas
  | none => List.replicate 32 0#8

/-- SVN and key choice of the running image; with none running, also after the firmware has stopped, what they read in stage 2
(R251, R385). (DEDUCED, log 178) -/
def fwSvnNow (s : State) : Nat := if stewardRuns s then s.trust.fwSvn else 0

def fwKeyselNow (s : State) : Nat := if stewardRuns s then s.trust.fwKeysel else 0xFF

/-- The first 576 bytes of an attestation report of the state in force. -/
def reportHead (s : State) (role : Nat) (nonce : List Byte) : List Byte :=
  let t := s.trust
  leBytes 1 1 ++ leBytes (variantOf t.fuses) 1 ++ leBytes 1 1 ++ [t.fuses.stepping] ++
    leBytes (if policyClosed t then 1 else 0) 1 ++ leBytes (svnNow t) 1 ++ leBytes (fwSvnNow s) 1 ++ leBytes (fwKeyselNow s) 1 ++
    leBytes t.romVer.toNat 2 ++ leBytes 0 2 ++ leBytes (fwVerNow s) 4 ++ padTo 16 t.fuses.serial ++ padTo 32 nonce ++
    fwMeasNow s ++ ownerHash t ++ leBytes t.mapNow.toNat 16 ++ leBytes s.beatNat 8 ++
    leBytes (loadedMask s).toNat 2 ++ leBytes 0 6 ++ (List.finRange 12).flatMap (bayMeas s) ++ leBytes role 1 ++ leBytes 0 31

/-- An entry shows bay, uncore or memory-controller state, which the chains of INTSCAN shift (R448). (DESIGN CHOICE, log 165) -/
def chained (ix sub : Nat) : Bool :=
  decide (0x2110 ≤ ix) && decide (ix < 0x8000) && (odDef ix sub).cls == .ro && sub != 0 &&
    !(ix == 0x2160) && !(ix == 0x2170) && !(ix == 0x2190 && sub == 1)

/-- The value an OD read returns; after INTSCAN the value of a chained entry is not known (R448). (DESIGN CHOICE, log 165) -/
def odShown (s : State) (i : Slot) (ix sub : Nat) : List Byte :=
  let v := odValue s i ix sub
  if s.tap.cdStopped && chained ix sub then
    (List.range v.length).map (fun k => BitVec.ofNat 8 (Config.freeNat (s.free + k)))
  else v

end Sys2Proof.Machine
end

