-- ==== Sys2Proof/Machine/Gate.lean ====
section
/-! DEFINITION. The OD gate: the nine checks of a request, and the response (R356 to R360, R364, R380, R432). -/

namespace Sys2Proof.Machine

/-- The per-session selectors (R355). -/
def odSelector (ix sub : Nat) : Bool :=
  match ix, sub with
  | 0x6010, 1 => true
  | 0x6020, 1 => true
  | 0x6030, 1 => true
  | 0x6050, 1 => true
  | 0x6051, 1 => true
  | 0x6060, 1 => true
  | 0x6070, 1 => true
  | 0x9000, 1 => true
  | _, _ => false

/-- An address of an image or binding table (R231). -/
def imageAddrOk (al v : Nat) : Bool := v % al == 0 && decide (v < stackEnd) && bandOf v != 127

/-- The value lies in the entry's range (R356 step 7). (DEDUCED, log 97) -/
def odRange (s : State) (ix sub : Nat) (v : List Byte) : Bool :=
  let n := leNat v
  match ix, sub with
  | 0x1000, _ => v.all (fun c => decide (0x20 ≤ c.toNat) && decide (c.toNat ≤ 0x7E))
  | 0x2100, 1 => n == 1
  | 0x2100, 2 => decide (n < 2 ^ 12)
  | 0x2100, _ => decide (n < 2 ^ 24)
  | 0x2110, _ => decide (n < 2 ^ 12)
  | 0x2120, 1 => decide (n ≤ 1)
  | 0x2120, _ => decide (n < 2 ^ 12)
  | 0x2130, _ => decide (16 ≤ n) && decide (n ≤ 1048576)
  | 0x2150, _ => decide (n ≤ 1)
  | 0x2160, 1 => imageAddrOk 64 n
  | 0x2160, 2 => imageAddrOk 16 n
  | 0x2160, 3 => n == 1 || n == 2
  | 0x2160, _ => decide (n < 2 ^ 12)
  | 0x2180, _ => decide (n < 2 ^ 12)
  | 0x3010, 1 => decide (1000 ≤ n) && decide (n ≤ s.pwr.ceiling.getD s.trust.fuses.ceilingW)
  | 0x3010, _ => decide (1000 ≤ n) && decide (n ≤ s.trust.fuses.ceilingW)
  | 0x3020, _ => decide (n ≤ 15)
  | 0x4010, _ => decide (n ≤ 2)
  | 0x4020, _ => !n.testBit 127
  | 0x4040, _ => decide (n ≤ 1)
  | 0x4070, _ => decide (n ≤ 1)
  | 0x5010, 1 => decide (n ≤ 16383)
  | 0x5010, 4 => n % 64 == 0 && decide (n < stackEnd)
  | 0x5010, 5 => n == 1 || n == 2
  | 0x5010, 8 => decide (n ≤ 2)
  | 0x5020, 1 => decide (n ≤ 1)
  | 0x6010, _ => decide (1 ≤ n)
  | 0x6020, _ => decide (n % 16 ≤ 11) && decide (n < 32)
  | 0x6030, _ => decide (n ≤ 11)
  | 0x6050, _ => decide (n ≤ 1023)
  | 0x6051, _ => decide (n ≤ 1023)
  | 0x6060, _ => decide (n ≤ 11)
  | 0x6070, _ => decide (n ≤ 11)
  | 0x7010, 3 => n == 1 || n == 2
  | 0x7010, _ => decide (n ≤ 1)
  | 0x7020, _ => n == 1 || n == 2
  | 0x7030, 5 => n == 1 || n == 2
  | 0x7030, _ => decide (n ≤ 1)
  | 0x8020, 1 => decide (1024 ≤ n)
  | 0x8020, _ => decide (n < 16)
  | 0x8040, _ => decide (n ≤ 3) || n == 0xFF
  | 0x8100, _ => decide (n ≤ 2) && decide (n ≤ s.trust.fuses.maxClass)
  | 0x9000, _ => decide (n ≤ 95)
  | 0x9010, _ => limitedOk s.trust 1 n
  | 0x9020, _ => limitedOk s.trust 2 n
  | 0x9030, _ => limitedOk s.trust 3 n
  | 0x9040, _ => limitedOk s.trust 4 n
  | 0xA010, _ => decide (n ≤ 15) && (tmxGroups s.trust).getLsbD n
  | _, _ => true

/-- Every stream of the bays of a mask is IDLE or HALTED. -/
def baysStill (s : State) (mask : Nat) : Bool :=
  (List.finRange 12).all (fun b => !mask.testBit b.val ||
    (((s.strm b .a).status == .idle || (s.strm b .a).status == .halted) &&
      ((s.strm b .x).status == .idle || (s.strm b .x).status == .halted)))

/-- Bays a LOAD in progress is on; an UNLOAD takes no time (R433). -/
def loadingBays (s : State) : Nat :=
  if s.ldr.loading then s.ldr.loadMask.toNat else 0

/-- The bays whose streams a write of OD 0x2100:03 names. -/
def streamBays (v : Nat) : Nat :=
  (List.range 12).foldl (fun m n => if v.testBit (2 * n) || v.testBit (2 * n + 1) then m + 2 ^ n else m) 0

/-- A bay or stream reset is refused (R433). -/
def resetRefused (s : State) (bays : Nat) : Bool := (loadingBays s &&& bays) != 0 || s.codes.reenc.isSome

/-- The writes accepted before the steward firmware runs (R380), and during Gong (R432). (DEDUCED, log 96) -/
def servedAlways (ix sub : Nat) : Bool :=
  odSelector ix sub || (ix == 0x8020 && sub == 4) || (ix == 0x8030 && sub == 1)

/-- A write that has passed the gate is served: by the firmware, or without it (R251, R380). -/
def odServed (q : OdReq) (s : State) : Bool := stewardRuns s || servedAlways q.ix.toNat q.sub.toNat

/-- A write that is being applied, or a limited write in progress, keeps the next one waiting (R359). -/
def odBusy (s : State) : Bool :=
  (s.od.cur.any (fun q => odServed q s)) || (s.trust.wlim.isSome && stewardRuns s)

/-- The state conditions of an entry's chapter (R356 step 9): STATE 0x0B or POWER 0x0D. -/
def odConditions (s : State) (ix sub : Nat) (v : List Byte) : Nat :=
  let n := leNat v
  if !stewardRuns s && !servedAlways ix sub then 0x0B
  else if s.faults.gong != 0#8 && !(servedAlways ix sub || (ix == 0x2100 && sub == 1)) then 0x0B
  else match ix, sub with
    | 0x2100, 2 => if resetRefused s n then 0x0B else 0
    | 0x2100, 3 => if resetRefused s (streamBays n) then 0x0B else 0
    | 0x2180, 1 => if baysStill s n then 0 else 0x0B
    | 0x4010, _ => if s.ldr.images.isEmpty && s.codes.reenc.isNone then 0 else 0x0B
    | 0x4020, _ => if s.ldr.images.isEmpty && s.hdr.ctx.isEmpty && s.ms.zeroing.isEmpty then 0 else 0x0B
    | 0x7030, 5 => if n = 2 ∨ (s.beat.st = .locked ∧ !s.run.isOpen ∧ s.rcd.on) then 0 else 0x0B
    | 0x9010, _ => if s.pwr.v40 < 1024 then 0x0D else if replaying s ∨ s.trust.wlim.isSome then 0x0B else 0
    | 0x9020, _ => if s.pwr.v40 < 1024 then 0x0D else if replaying s ∨ s.trust.wlim.isSome then 0x0B else 0
    | 0x9030, _ => if s.pwr.v40 < 1024 then 0x0D else if replaying s ∨ s.trust.wlim.isSome then 0x0B else 0
    | 0x9040, _ => if s.pwr.v40 < 1024 then 0x0D else if replaying s ∨ s.trust.wlim.isSome then 0x0B else 0
    | _, _ => 0

/-- An entry written once has its value, or a limited write costs more units than are left (R356 step 8). -/
def odSpent (s : State) (ix sub n : Nat) : Nat :=
  match ix, sub with
  | 0x1000, 9 => if s.od.assetTag.isSome then 0x09 else 0
  | 0x3010, 6 => if s.pwr.ceiling.isSome then 0x09 else 0
  | 0x9010, 1 => if unitsLeft s.trust 1 < unitsFor s.trust 1 n then 0x0A else 0
  | 0x9020, 1 => if unitsLeft s.trust 2 < 1 then 0x0A else 0
  | 0x9030, 1 => if unitsLeft s.trust 3 < 1 then 0x0A else 0
  | 0x9040, 1 => if unitsLeft s.trust 4 < 1 then 0x0A else 0
  | _, _ => 0

/-- Steps 1 to 5 of R356, which hold for reads and writes: 0 when all hold, else the status. (DEDUCED, log 93) -/
def gateAccess (s : State) (role ix sub : Nat) (write : Bool) : Nat :=
  match odMax ix with
  | none => 0x01
  | some m =>
    if m < sub then 0x02
    else
      let d := odDef ix sub
      if !d.cls.permits write then (if write then 0x03 else 0x04)
      else if d.gated write && decide (role < d.role) then 0x05
      else if d.openOnly && policyClosed s.trust then 0x06
      else 0

/-- Steps 6 to 9 of R356 for a write. -/
def gateValue (s : State) (ix sub : Nat) (v : List Byte) : Nat :=
  let d := odDef ix sub
  if !d.ty.fits v.length then 0x07
  else if !odRange s ix sub v then 0x08
  else if odSpent s ix sub (leNat v) ≠ 0 then odSpent s ix sub (leNat v)
  else odConditions s ix sub v

/-- The gate's answer to a write (R356). -/
def gateWrite (s : State) (role ix sub : Nat) (v : List Byte) : Nat :=
  if gateAccess s role ix sub true = 0 then gateValue s ix sub v else gateAccess s role ix sub true

/-! ### Responses (R358, R359) -/

/-- Index and subindex of an OD frame (R351). -/
def frameIx (f : Frame) : Nat := f.addr.toNat / 256 % 65536
def frameSub (f : Frame) : Nat := f.addr.toNat % 256

/-- A RESP. -/
def respFrame (i : Slot) (tid : BitVec 16) (status : Nat) (v : List Byte) : OutFrame :=
  outFrame 3#8 3#8 (BitVec.ofNat 8 i.val) tid 0#48 (BitVec.ofNat 64 status) v

/-- Answers an OD write, its credit returned; none to a session that has closed (R345, R358). -/
def answer (q : OdReq) (status : Nat) (s : State) : State :=
  let s := creditBack (some 0) s
  if q.mute then s else closeLeft (respond q.slot q.lseq (respFrame q.slot q.tid status []) s)

/-! ### Stored values with an uncorrectable error (R251, R453) -/

/-- Byte 0 of an entry's value in the OD store, one of each session for a per-session entry (R453). -/
def odCell (i : Slot) (ix sub : Nat) : Nat :=
  ix * 2 ^ 24 + sub * 2 ^ 16 + (if odSelector ix sub || ix == 0x8030 then i.val * 2 ^ 14 else 0)

/-- A byte of an entry's value is uncorrectable. -/
def odBad (i : Slot) (ix sub : Nat) (s : State) : Option Nat :=
  (s.ms.dieBad.find? (fun e => e.1 == 0x22 && e.2 / 2 ^ 14 == odCell i ix sub / 2 ^ 14)).map (fun e => e.2)

/-- An entry's value is written anew. -/
def odCure (i : Slot) (ix sub : Nat) (s : State) : State :=
  { s with
    ms := { s.ms with
      dieBad := s.ms.dieBad.filter (fun e => !(e.1 == 0x22 && e.2 / 2 ^ 14 == odCell i ix sub / 2 ^ 14)) } }

/-- The write being applied is answered and the next may be (R359); a value written is good again. -/
def finish (q : OdReq) (status : Nat) (s : State) : State :=
  let s := answer q status { s with od := { s.od with cur := none } }
  if status = 0 then odCure q.slot q.ix.toNat q.sub.toNat s else s

/-- An OD READ is served on receipt, and its response leaves in its turn; a stored value with an uncorrectable byte, known or
met now at a byte of the value, is counted and answered STORED; a corrected byte is counted, one that passes its code wrong
is delivered as it reads (R242, R243, R251, R347, R356, R358, R359). -/
def serveRead (f : Frame) (ev : CodeEvent) (s : State) : State :=
  match slotOf f.sess with
  | some i =>
    let ix := frameIx f
    let sub := frameSub f
    let st := gateAccess s s.sess[i].role ix sub false
    let s := creditBack (some 0) s
    let send := fun (status : Nat) (v : List Byte) => respond i f.lseq.toNat (respFrame i f.tid status v)
    if st ≠ 0 then send st [] s
    else
      let v := odShown s i ix sub
      let s := if s.tap.cdStopped then drew v.length s else s
      let at_ := fun k : Nat => odCell i ix sub + k % v.length
      match odBad i ix sub s, ev with
      | some o, _ => send 0x10 [] (ueAt 0x22 15 o s)
      | none, .small id k =>
        if id = 0x22#8 then send 0x10 [] (dieSpoil 0x22 (at_ k) (ueAt 0x22 15 (at_ k) s)) else send 0 v s
      | none, .fixed id k => send 0 v (if id = 0x22#8 then correctedAt 0 0x22 (at_ k) s else s)
      | none, .slip id k w => send 0 (if id = 0x22#8 then v.set (k % v.length) (BitVec.ofNat 8 w) else v) s
      | none, _ => send 0 v s
  | none => s

/-- What a write takes from the state at its stamp: the head of the report it starts (R385). -/
def stampHead (s : State) (i : Slot) (ix sub : Nat) (v : List Byte) : List Byte :=
  if ix = 0x8030 ∧ sub = 1 then reportHead s s.sess[i].role v else []

/-- An OD WRITE reaches the gate: refused with its status, or taken to be applied (R356). -/
def serveWrite (f : Frame) (s : State) : State :=
  match slotOf f.sess with
  | some i =>
    let ix := frameIx f
    let sub := frameSub f
    let q : OdReq :=
      { slot := i, mute := false, role := s.sess[i].role, lseq := f.lseq.toNat, tid := f.tid, ix := BitVec.ofNat 16 ix
        sub := BitVec.ofNat 8 sub, value := f.payload, head := stampHead s i ix sub f.payload }
    let st := gateWrite s s.sess[i].role ix sub f.payload
    if st ≠ 0 then answer q st s else { s with od := { s.od with cur := some q } }
  | none => s

end Sys2Proof.Machine
end

