-- ==== Sys2Proof/Machine/Kem.lean ====
section
/-! DEFINITION. ML-KEM-1024 encapsulation of FIPS 203 (R342, R343). (PRESUMED, log 83) -/

namespace Sys2Proof.Machine

/-! ### SHA-3 (FIPS 202) -/

/-- The SHA-3 padding: the suffix 01, then 1 0* 1 to a multiple of the rate. -/
def sha3Pad (rate : Nat) (m : List Byte) : List Byte :=
  let k := rate - m.length % rate
  m ++ (if k = 1 then [0x86#8] else 0x06#8 :: (List.replicate (k - 2) 0#8 ++ [0x80#8]))

/-- SHA-3 with a rate, `n` bytes of output. -/
def sha3 (rate n : Nat) (m : List Byte) : List Byte :=
  let p := sha3Pad rate m
  (release rate (absorb rate (List.replicate 25 0) (blocks rate p (p.length / rate)))).take n

/-! ### Polynomials of 256 coefficients modulo 3,329 -/

/-- The modulus. -/
def kemQ : Nat := 3329

/-- A power modulo the modulus. -/
def kemPow (g n : Nat) : Nat := powMod kemQ g 16 n

/-- The seven bits of a number reversed. -/
def rev7 (i : Nat) : Nat := (List.range 7).foldl (fun r k => if i.testBit k then r + 2 ^ (6 - k) else r) 0

/-- The root of the i-th factor X² - γ. -/
def kemRoot (i : Nat) : Nat := kemPow 17 (2 * rev7 i + 1)

/-- The value at g of the polynomial with coefficients in ascending order. -/
def kemEval (g : Nat) (l : List Nat) : Nat := l.foldr (fun c v => (c + g * v) % kemQ) 0

/-- The coefficients at even and odd places. -/
def evens : List Nat → List Nat
  | c :: _ :: r => c :: evens r
  | l => l

def odds : List Nat → List Nat
  | _ :: d :: r => d :: odds r
  | _ => []

/-- Two lists woven. -/
def weave (l r : List Nat) : List Nat := (l.zip r).flatMap (fun p => [p.1, p.2])

/-- A polynomial modulo each of the 128 factors. -/
def kemNtt (f : List Nat) : List Nat :=
  (List.range 128).flatMap (fun i => [kemEval (kemRoot i) (evens f), kemEval (kemRoot i) (odds f)])

/-- One half of the inverse: the coefficients j of a list of values at the 128 roots; 3,303 is the inverse of 128. -/
def kemHalf (l : List Nat) : List Nat :=
  (List.range 128).map (fun j =>
    3303 * ((l.zipIdx.map (fun e => e.1 * kemPow (kemRoot e.2) (256 - j))).sum % kemQ) % kemQ)

/-- The polynomial of its residues. -/
def kemInv (f : List Nat) : List Nat := weave (kemHalf (evens f)) (kemHalf (odds f))

/-- The product of two polynomials given by their residues, factor by factor. -/
def kemMul (f g : List Nat) : List Nat :=
  (List.range 128).flatMap (fun i =>
    let x := f.getD (2 * i) 0
    let y := f.getD (2 * i + 1) 0
    let u := g.getD (2 * i) 0
    let v := g.getD (2 * i + 1) 0
    [(x * u + y * v % kemQ * kemRoot i) % kemQ, (x * v + y * u) % kemQ])

/-- The sum of two polynomials. -/
def kemAdd (f g : List Nat) : List Nat := List.zipWith (fun x y => (x + y) % kemQ) f g

/-- The inner product of two vectors of residues. -/
def kemDot (l r : List (List Nat)) : List Nat :=
  (List.zipWith kemMul l r).foldl kemAdd (List.replicate 256 0)

/-! ### Sampling and coding -/

/-- The 12-bit values below the modulus in a string, two to three bytes. -/
def kemCands : List Byte → List Nat
  | x :: y :: z :: r =>
    [x.toNat + y.toNat % 16 * 256, y.toNat / 16 + z.toNat * 16].filter (fun v => decide (v < kemQ)) ++ kemCands r
  | _ => []

/-- Candidates from successive release states of SHAKE128 until there are 256. -/
def kemFill : Nat → List Nat → List Nat → List Nat
  | 0, _, acc => acc
  | n + 1, st, acc => if 256 ≤ acc.length then acc else kemFill n (keccakF st) (acc ++ kemCands (release 168 st))

/-- Entry (i, j) of the matrix of a seed, as residues. -/
def kemEntry (seed : List Byte) (i j : Nat) : List Nat :=
  (kemFill 64 (shake128 (seed ++ [BitVec.ofNat 8 j, BitVec.ofNat 8 i])) []).take 256

/-- Two coefficients of a byte of the centred binomial distribution with parameter 2. -/
def kemNibble (v : Nat) : Nat := (v % 2 + v / 2 % 2 + kemQ - v / 4 % 2 - v / 8 % 2) % kemQ

/-- The N-th noise polynomial of a seed. -/
def kemNoise (r : List Byte) (n : Nat) : List Nat :=
  (shake256 (r ++ [BitVec.ofNat 8 n]) 128).flatMap (fun v => [kemNibble (v.toNat % 16), kemNibble (v.toNat / 16)])

/-- A polynomial of 12-bit coefficients, two in three bytes. -/
def kemDecode : List Byte → List Nat
  | x :: y :: z :: r => (x.toNat + y.toNat % 16 * 256) :: (y.toNat / 16 + z.toNat * 16) :: kemDecode r
  | _ => []

/-- Coefficients rounded to d bits, and the bytes that hold them. -/
def kemCompress (d : Nat) (f : List Nat) : List Byte :=
  leBytes ((f.map (fun x => (2 ^ (d + 1) * x + kemQ) / (2 * kemQ) % 2 ^ d)).foldr (fun c v => c + 2 ^ d * v) 0) (32 * d)

/-- A message as a polynomial: each bit 0 or 1,665. -/
def kemMessage (m : List Byte) : List Nat := (List.range 256).map (fun i => if (leNat m).testBit i then 1665 else 0)

/-! ### Encapsulation -/

/-- The ciphertext of a message under an encapsulation key, with the seed of its noise. -/
def kemEncrypt (ek m r : List Byte) : List Byte :=
  let seed := ek.drop 1536
  let t := (List.range 4).map (fun i => kemDecode ((ek.drop (384 * i)).take 384))
  let y := (List.range 4).map (fun i => kemNtt (kemNoise r i))
  let u := (List.range 4).map (fun i =>
    kemAdd (kemInv (kemDot ((List.range 4).map (fun j => kemEntry seed j i)) y)) (kemNoise r (4 + i)))
  let v := kemAdd (kemAdd (kemInv (kemDot t y)) (kemNoise r 8)) (kemMessage m)
  u.flatMap (kemCompress 11) ++ kemCompress 5 v

/-- The shared secret and the noise seed of an encapsulation with randomness m. -/
def kemSeeds (ek m : List Byte) : List Byte := sha3 72 64 (m ++ sha3 136 32 ek)

/-- The shared secret, and the ciphertext. (PRESUMED, log 83) -/
def kemSecret (ek m : List Byte) : List Byte := (kemSeeds ek m).take 32

def kemCipher (ek m : List Byte) : List Byte := kemEncrypt ek m ((kemSeeds ek m).drop 32)

end Sys2Proof.Machine
end

