-- ==== Sys2Proof/Machine/Frames.lean ====
section
/-! DEFINITION. Inbound frames: holding, gating under a replay, passing to their destinations, sessions, bulk data and the record frames (R318, R323 to R327, R340 to R349, R387 to R389). -/

namespace Sys2Proof.Machine

/-! ### Holding (R340, R347, R379, R432) -/

/-- A bulk range touches a band being zeroed. -/
def zeroes (s : State) (a len : Nat) : Bool :=
  inStack a && (s.ms.zeroing.contains (bandOf a) || s.ms.zeroing.contains (bandOf (a + len - 1)))

/-- A write of INSTALL; a write of LOAD. -/
def isInstall (f : Frame) : Bool := frameIx f == 0x5010 && frameSub f == 5 && f.payload == [1#8]
def isLoad (f : Frame) : Bool := frameIx f == 0x2160 && frameSub f == 3 && f.payload == [1#8]

/-- INSTALL and LOAD wait for the stacks' initialisation, LOAD for the scratchpads' too (R255, R340). -/
def awaitsInit (f : Frame) (s : State) : Bool :=
  (isInstall f && s.ms.stackInit) || (isLoad f && (s.ms.stackInit || s.ms.spadInit))

/-- A SCRIPT frame's last entry lies more than 4,194,304 ahead of the entry being consumed (R324, R340). -/
def scriptAhead (s : State) (f : Frame) : Bool :=
  match s.rcd.script with
  | q :: _ => decide (q + 4194304 + 1 < f.addr.toNat % 2 ^ 40 + f.payload.length / 64)
  | [] => false

/-- The addresses a BULK WRITE reads, since it writes their word or sector only in part (R287). -/
def bulkReads (f : Frame) : List Nat := partWrites ((List.range f.payload.length).map (fun i => f.addr.toNat + i))

/-- The frame itself may not be applied yet. (DEDUCED, log 90) -/
def mustHold (f : Frame) (s : State) : Bool :=
  let gong := s.faults.gong != 0#8
  match f.cls.toNat, f.opc.toNat with
  | 2, 1 => !s.trust.idKey
  | 3, 2 => odBusy s || awaitsInit f s
  | 4, 1 =>
    s.ms.stackInit || s.ms.spadInit || zeroes s f.addr.toNat (frameSpan f) || gong || s.tap.cdStopped ||
      ahead s [] ((f.addr.toNat, f.payload.length) :: wordSpans (bulkReads f)) ||
      underRepair s ((List.range f.payload.length).map (fun i => f.addr.toNat + i))
  | 4, 2 => s.ms.stackInit || s.ms.spadInit || zeroes s f.addr.toNat (frameSpan f) || s.tap.cdStopped
  | 5, 1 => gong || s.tap.cdStopped
  | 6, 2 => scriptAhead s f || gong || s.tap.cdStopped
  | _, _ => false

/-- An OD WRITE. -/
def isOdWrite (f : Frame) : Bool := f.cls == 3#8 && f.opc == 2#8

/-- The frame may pass before the frames held ahead of it: none but, during Gong, OD writes and bulk reads, which no held bulk
write, flag or script frame may block (R347, R432). -/
def precedes (f : Frame) (ahead : List Frame) (s : State) : Bool :=
  if s.faults.gong != 0#8 && (isOdWrite f || (f.cls == 4#8 && f.opc == 2#8)) then
    ahead.all (fun g => (g.cls == f.cls && g.opc != f.opc) || g.cls != f.cls)
  else ahead.isEmpty

/-- The frame may be passed now. -/
def canPass (f : Frame) (ahead : List Frame) (s : State) : Bool := !mustHold f s && precedes f ahead s

/-! ### Sessions (R341 to R345, R387 to R389) -/

/-- Sends a session frame. -/
def sendSession (opc sess : Byte) (tid : BitVec 16) (v : List Byte) (s : State) : State :=
  sendFrame (outFrame 2#8 opc sess tid 0#48 0#64 v) s

/-- REFUSE with a reason; the slot, if one was taken, is free (R342). -/
def refuse (i : Slot) (reason : Byte) (s : State) : State :=
  sendSession 5#8 (BitVec.ofNat 8 i.val) s.sess[i].tid [reason] (freeSlot i s)

/-- REFUSE for a HELLO, which has no slot (R335, R342). -/
def refuseHello (tid : BitVec 16) (reason : Byte) (s : State) : State := sendSession 5#8 0xFF#8 tid [reason] s

/-- Some slot is free. -/
def slotFree (s : State) : Bool := (List.finRange 4).any (fun i => s.sess[i].ph == .free)

/-- A HELLO is served: refused with NO_VERSION or NO_SLOT, or its handshake is computed, with no slot reserved before ACCEPT
(R342). -/
def serveHello (f : Frame) (s : State) : State :=
  let s := creditBack (some 5) s
  if fieldAt f.payload 2 2 / 2 % 2 = 0 then refuseHello f.tid 1#8 s
  else if slotFree s then updLink (fun l => { l with hellos := l.hellos ++ [⟨fieldAt f.payload 1 1, f.tid, f.payload⟩] }) s
  else refuseHello f.tid 2#8 s

/-- A CUSTODIAN session is open in another slot (R341, R342). (DEDUCED, log 86) -/
def custodianOpen (i : Slot) (s : State) : Bool :=
  (List.finRange 4).any (fun j => j != i && s.sess[j].role == 2 && s.sess[j].ph == .opened)

/-- A big-endian byte string, and its value. -/
def beBytesOf (v n : Nat) : List Byte := (leBytes v n).reverse
def beNatOf (l : List Byte) : Nat := leNat l.reverse

/-- The node's point, uncompressed as SEC1 has it, is one the engine accepts (R342, R404). -/
def nodePointOk (v : List Byte) : Bool :=
  let x := beNatOf ((v.drop 1).take 48)
  let y := beNatOf ((v.drop 49).take 48)
  v.length == 97 && v.headD 0#8 == 4#8 && !(x == 0 && y == 0) && decide (x < p384.p) && decide (y < p384.p) && p384.on x y

/-- Every 12-bit coefficient, two in three bytes, is below the modulus 3,329 of FIPS 203. -/
def coeffsOk : List Byte → Bool
  | x :: y :: z :: r =>
    decide (x.toNat + y.toNat % 16 * 256 < 3329) && decide (y.toNat / 16 + z.toNat * 16 < 3329) && coeffsOk r
  | _ => true

/-- The encapsulation key passes the checks of FIPS 203: its length, and its coefficients. (PRESUMED, log 83) -/
def kemKeyOk (v : List Byte) : Bool := v.length == 1568 && coeffsOk (v.take 1536)

/-- The node's point, and its encapsulation key, in HELLO. -/
def helloPoint (v : List Byte) : List Byte := (v.drop 36).take 97
def helloKem (v : List Byte) : List Byte := (v.drop 133).take 1568

/-- The engine holds the device's ephemeral point where the firmware can read it, and the shared point as a result in a sealed
slot (R397). (DEDUCED, log 83) -/
def engineDone (h : Handshake) (s : State) : Bool :=
  (slotAt s h.pub).ready && !sealed h.pub && (slotAt s h.pub).len == 12 && sealed h.z && (slotAt s h.z).st == .result &&
    (slotAt s h.z).len == 12

/-- The keys of the exchange are good: the node's point and encapsulation key pass their checks, and the engine has not failed
(R342, R408). -/
def keysOk (q : Hello) (h : Handshake) (s : State) : Bool :=
  nodePointOk (helloPoint q.bytes) && kemKeyOk (helloKem q.bytes) && engineDone h s

/-- The device's ephemeral public key as SEC1 encodes it. -/
def devicePoint (h : Handshake) (s : State) : List Byte :=
  [4#8] ++ beBytesOf ((slotAt s h.pub).part 0 6) 48 ++ beBytesOf ((slotAt s h.pub).part 6 6) 48

/-- ACCEPT bytes 0 to 1,698 (R342). -/
def acceptHead (i : Slot) (q : Hello) (h : Handshake) (s : State) : List Byte :=
  [1#8, BitVec.ofNat 8 i.val] ++ padTo 32 h.nonce ++ devicePoint h s ++
    kemCipher (helloKem q.bytes) (padTo 32 h.rnd)

/-- The transcript hash TH (R343). -/
def transcript (hello head : List Byte) : List Byte := shake256 (asciiBytes "HORRIC-1" ++ hello ++ head) 64

/-- The key material of a session: Z_ecdh big-endian as SEC1 has it, Z_kem and TH hashed (R343). -/
def sessionOkm (q : Hello) (h : Handshake) (th : List Byte) (s : State) : List Byte :=
  shake256 (asciiBytes "HORRIC-K" ++ beBytesOf ((slotAt s h.z).part 0 6) 48 ++
    kemSecret (helloKem q.bytes) (padTo 32 h.rnd) ++ th) 88

/-- A session that awaits its FINISH, with its keys and IV bases (R343). -/
def Hello.keyed (q : Hello) (th okm : List Byte) : Session :=
  { Session.reset with
    ph := .finish, role := q.role, tid := q.tid, th := th, kn := okm.take 32, kd := (okm.drop 32).take 32
    ivn := (okm.drop 64).take 12, ivd := (okm.drop 76).take 12 }

/-- The derivation frees the slot of Z_ecdh, its contents zeroed (R397). -/
def freeZ (z : Fin 64) (s : State) : State := updBn (fun e => e.put z BnSlot.reset) (cureSlots [z] s)

/-- ACCEPT is sent and its slot, reserved from now on, awaits FINISH (R342, R343, R378). -/
def acceptHello (i : Slot) (q : Hello) (h : Handshake) (s : State) : State :=
  let head := acceptHead i q h s
  let th := transcript q.bytes head
  let okm := sessionOkm q h th s
  sendSession 2#8 (BitVec.ofNat 8 i.val) q.tid (head ++ idSign s.trust.fuses (asciiBytes "HORRIC-S" ++ th))
    (updSess i (fun _ => q.keyed th okm) (freeZ h.z s))

/-- The handshake of a HELLO ends: NO_SLOT where every slot has been taken meanwhile, BAD_KEY, ROLE_TAKEN, or ACCEPT of a free slot
(R342). (DEDUCED, log 85) -/
def answerHello (i : Slot) (q : Hello) (h : Handshake) (s : State) : State :=
  if !slotFree s then refuseHello q.tid 2#8 s
  else if !keysOk q h s then refuseHello q.tid 3#8 s
  else if q.role == 2 && custodianOpen i s then refuseHello q.tid 4#8 s
  else acceptHello i q h s

/-- SESSION_ACCEPT: the handshake of the oldest HELLO ends, in a slot the firmware picks among those that are free (R342, R343). -/
def execSessionAccept (slot : Slot) (h : Handshake) (s : State) : Host.Outcome State Fault Refusal :=
  .next
    (match s.link.hellos with
     | q :: r =>
       if s.pwr.st == .run && s.trust.idKey && (s.sess[slot].ph == .free || !slotFree s) then
         answerHello slot q h (updLink (fun l => { l with hellos := r }) s)
       else s
     | [] => s)

/-- What the proof of a FINISH signs (R388). -/
def finishMessage (x : Session) : List Byte := asciiBytes "HORRIC-R" ++ leBytes x.role 1 ++ x.th

/-- The proof of a FINISH holds (R388). -/
def proofHolds (f : Frame) (i : Slot) (s : State) : Bool :=
  let x := s.sess[i]
  if x.role = 0 then f.payload.isEmpty
  else
    let own := ownerHash s.trust
    let key := f.payload.take 1793
    f.payload.length == 3073 && falconVerify key (finishMessage x) (f.payload.drop 1793) &&
      (shake256 key 32 == own || leNat own == 0)

/-- A session opens, its selectors at their defaults (R341, R355). -/
def Session.open (x : Session) : Session :=
  { Session.reset with
    ph := .opened, role := x.role, tid := x.tid, kn := x.kn, kd := x.kd, ivn := x.ivn, ivd := x.ivd, th := x.th }

/-- A FINISH opens its session with READY, or is refused with PROOF, or with ROLE_TAKEN where another CUSTODIAN session has
opened meanwhile (R341, R342, R388). (DEDUCED, log 85) -/
def serveFinish (f : Frame) (s : State) : State :=
  let s := creditBack (some 5) s
  match slotOf f.sess with
  | some i =>
    let s := updSess i (fun x => { x with tid := f.tid }) s
    if !proofHolds f i s then refuse i 5#8 s
    else if s.sess[i].role == 2 && custodianOpen i s then refuse i 4#8 s
    else sendSession 4#8 f.sess f.tid [] (updSess i Session.open s)
  | none => s

/-- SESSION_CLOSE of the node frees the slot (R345). (DEDUCED, log 87) -/
def serveClose (f : Frame) (s : State) : State :=
  let s := creditBack (some 5) s
  match slotOf f.sess with
  | some i => freeSlot i s
  | none => s

/-- FINISH_TIMEOUT: no FINISH received within 1,024 bt of ACCEPT (R342). -/
def execFinishTimeout (slot : Slot) (s : State) : Host.Outcome State Fault Refusal :=
  .next
    (let x := s.sess[slot]
     if s.pwr.st == .run && x.ph == .finish && !x.finCame && decide (1024 ≤ x.timer) then refuse slot 6#8 s else s)

/-- SESSION_IDLE_TIMEOUT: no frame accepted for a session during OD 0x8020:01 bt (R345). -/
def execSessionIdleTimeout (slot : Slot) (s : State) : Host.Outcome State Fault Refusal :=
  .next
    (if s.pwr.st == .run && s.sess[slot].ph == .opened && decide (s.od.idleTimeout ≤ s.sess[slot].timer) then
       closeSlot slot s
     else s)

/-! ### Passing a frame to its destination (R321, R347, R348, R381) -/

/-- The bay whose scratchpad a frame's address lies in. -/
def frameBay (f : Frame) : Bay := spadBay f.addr.toNat

/-- A BULK WRITE lands, under what its own reads met (R243, R247, R287, R347). -/
def serveBulkWrite (f : Frame) (ev : CodeEvent) (s : State) : State :=
  creditBack (some 1)
    (guarded (frameBay f) ev [] (bulkReads f) (fun s => traffic [] [(f.addr.toNat, f.payload.length)] (s.store f.addr.toNat f.payload 3)) s)

/-- A BULK WRITE's read of a word it writes in part meets one reported uncorrectable: the word and its bay (R248). -/
def bulkPage (f : Frame) (ev : CodeEvent) (s : State) : Option (Bay × Nat) :=
  match ev with
  | .page w =>
    let b := frameBay f
    if f.cls = 4#8 ∧ f.opc = 1#8 ∧ touches b (bulkReads f) w = true ∧ (s.bay b).prot.bad.contains w = false then some (b, w)
    else none
  | _ => none

/-- A frame goes on, or, a BULK WRITE whose read asks for a page repair, stays where it is (R248). -/
def meetPage (f : Frame) (ev : CodeEvent) (keep go : State → State) (s : State) : State :=
  match bulkPage f ev s with
  | some p => keep (askRepair p.1 p.2 s)
  | none => go s

/-- A BULK READ begins to be answered (R348). -/
def serveBulkRead (f : Frame) (s : State) : State :=
  creditBack (some 2) (updLink (fun l => { l with reads := l.reads ++ [⟨f.sess, f.tid, f.addr.toNat, f.arg.toNat⟩] }) s)

/-- A FLAG UPDATE at the flag's home; one to G255 in boot stage 2 starts stage 3 (R347, R381). -/
def serveFlag (f : Frame) (s : State) : State :=
  let g : Fin 256 := Fin.ofNat 256 f.addr.toNat
  let v := leNat f.payload
  let w := BitVec.ofNat 16 v
  let s := creditBack (some 3) (putGflag g (if v.testBit 31 then gflagOf g s + w else w) s)
  if g.val = 255 ∧ s.trust.stage = .service then { s with trust := { s.trust with stage := .verify } } else s

/-- Stages one script entry; a jump in SEQ is a gap, whether the frame's ADDR or the entry's own SEQ shows it, and so is a first entry other than the one that follows a reset, which
has SEQ 0 (R318, R324, R325). (DEDUCED, log 79) -/
def stageEntry (q : Nat) (v : List Byte) (s : State) : State :=
  if s.rcd.scriptNext.getD 0 ≠ q ∨ (Entry.ofNat (leNat v)).seq ≠ q % 2 ^ 40 then diverge 7 q s
  else
    let s := putEntry (stageAddr q) v s
    { s with
      rcd := { s.rcd with
        script := s.rcd.script ++ [q], scriptNext := some (q + 1)
        replay := if s.rcd.replay = .armed then .active else s.rcd.replay } }

/-- Stages the entries of a SCRIPT frame. -/
def stageAll (q : Nat) : List Byte → Nat → State → State
  | _, 0, s => s
  | v, n + 1, s => stageAll (q + 1) (v.drop 64) n (if replaying s then stageEntry q (v.take 64) s else s)

/-- A SCRIPT frame (R324). -/
def serveScript (f : Frame) (s : State) : State :=
  creditBack (some 4) (replayAdvance (stageAll (f.addr.toNat % 2 ^ 40) f.payload (f.payload.length / 64) s))

/-- Passes a frame to its destination, recorded as it passes (R318, R321). -/
def passFrame (f : Frame) (ev : CodeEvent) (s : State) : State :=
  let s := recordInput f s
  match f.cls.toNat, f.opc.toNat with
  | 2, 1 => serveHello f s
  | 2, 3 => serveFinish f s
  | 2, 6 => serveClose f s
  | 3, 2 => serveWrite f s
  | 4, 1 => serveBulkWrite f ev s
  | 4, 2 => serveBulkRead f s
  | 5, 1 => serveFlag f s
  | 6, 2 => serveScript f s
  | _, _ => s

/-! ### Gating under a replay (R326, R327) -/

/-- The input kinds a replay gates: OD writes, bulk and flag frames; the write that stops a replay is not gated. -/
def isGated (f : Frame) : Bool :=
  (isOdWrite f && !(frameIx f == 0x7030 && frameSub f == 5)) || f.cls == 4#8 || f.cls == 5#8

/-- The frame keeps its place behind inputs that wait for their stamps: every one but a session frame (R326, R347). -/
def inOrder (f : Frame) : Bool := f.cls != 2#8

/-- The gating entry at the front of the script is consumed; with the last one the script has ended, unless a divergence has
stopped the replay (R324, R327). -/
def consumeGate (q : Nat) (s : State) : State :=
  let s := readEntry q s
  if s.rcd.script = [q] ∧ replaying s = true then endStaging .done s
  else { s with rcd := { s.rcd with script := s.rcd.script.filter (fun x => x != q) } }

/-- What the script says of an input: a divergence kind, 0 to pass now, none to wait for its stamp. `late` asks whether an
input that missed its stamp is reported. -/
def gateVerdict (f : Frame) (e : Entry) (late : Bool) (s : State) : Option Nat :=
  match frameEntry f (roleOf f s) with
  | some (t, a, l, p) =>
    if t ≠ e.ty ∨ a ≠ e.arg then some 2
    else if l ≠ e.len ∨ p ≠ e.payload then some 3
    else if late && decide (e.key < nowKey s) then some 4
    else if e.key ≤ nowKey s then some 0 else none
  | none => some 2

/-- An input that may pass as far as the holding rules go meets the gate. -/
def gateInput (f : Frame) (ev : CodeEvent) (late : Bool) (keep : State → State) (s : State) : State :=
  if isGated f ∧ s.rcd.replay = .active then
    match nextGate s with
    | some (q, e) =>
      match gateVerdict f e late s with
      | some 0 => replayAdvance (passFrame f ev (consumeGate q s))
      | some 4 => replayAdvance (passFrame f ev (consumeGate q (diverge 4 q s)))
      | some k => passFrame f ev (diverge k q s)
      | none => keep s
    | none => keep s
  else passFrame f ev s

/-- A frame that no holding rule keeps is gated or passed, behind every input that waits for its stamp (R326, R347). -/
def goOn (f : Frame) (ev : CodeEvent) (s : State) : State :=
  if inOrder f && !s.rcd.gated.isEmpty then { s with rcd := { s.rcd with gated := s.rcd.gated ++ [f] } }
  else gateInput f ev true (fun s => { s with rcd := { s.rcd with gated := [f] } }) s

/-- A frame is held (R340). -/
def holdFrame (f : Frame) (s : State) : State := updLink (fun l => { l with held := l.held ++ [f] }) s

/-- A frame that passed the checks arrives: held, gated or passed (R340, R347). -/
def arriveMet (f : Frame) (ev : CodeEvent) (s : State) : State :=
  if !canPass f s.link.held s then holdFrame f s else meetPage f ev (holdFrame f) (goOn f ev) s

/-- A frame that reads nothing arrives. -/
def arrive (f : Frame) (s : State) : State := arriveMet f .clean s

/-- REPLAY_INPUT_RELEASE: the oldest gated input passes at its entry's stamp, or once gating has ended; a frame that is not gated
itself passes in its turn (R326, R327, R347). -/
def execReplayInputRelease (ev : CodeEvent) (s : State) : Host.Outcome State Fault Refusal :=
  .next
    (match s.rcd.gated with
     | f :: r =>
       if s.pwr.st == .run && !mustHold f s then
         meetPage f ev id
           (fun s => gateInput f ev false (fun s => { s with rcd := { s.rcd with gated := f :: r } })
             { s with rcd := { s.rcd with gated := r } }) s
       else s
     | [] => s)

/-- HELD_FRAME_RELEASE: a held frame whose hold has ended goes on, no frame before it that it must follow (R340, R347). -/
def execHeldFrameRelease (i : Nat) (ev : CodeEvent) (s : State) : Host.Outcome State Fault Refusal :=
  .next
    (match s.link.held[i]? with
     | some f =>
       if s.pwr.st == .run && canPass f (s.link.held.take i) s then
         meetPage f ev id (fun s => goOn f ev (updLink (fun l => { l with held := l.held.eraseIdx i }) s)) s
       else s
     | none => s)

/-! ### Rows of inbound frames -/

/-- SESSION_HELLO (R342, R379). -/
def execSessionHello (f : Frame) (s : State) : Host.Outcome State Fault Refusal := .next (receive 2#8 1#8 f (arrive f) s)

/-- A slot has received its FINISH, also while the frame is held: it no longer times out (R342). -/
def noteFinish (f : Frame) (s : State) : State :=
  match slotOf f.sess with
  | some i => updSess i (fun x => { x with finCame := true }) s
  | none => s

/-- SESSION_FINISH (R342, R388). -/
def execSessionFinish (f : Frame) (s : State) : Host.Outcome State Fault Refusal :=
  .next (receive 2#8 3#8 f (fun s => arrive f (noteFinish f s)) s)

/-- SESSION_CLOSE (R345). -/
def execSessionClose (f : Frame) (s : State) : Host.Outcome State Fault Refusal := .next (receive 2#8 6#8 f (arrive f) s)

/-- OD_READ: served on receipt; not recorded (R318, R347). -/
def execOdRead (f : Frame) (ev : CodeEvent) (s : State) : Host.Outcome State Fault Refusal :=
  .next (receive 3#8 1#8 f (serveRead f ev) s)

/-- An OD WRITE's response has its place from its arrival on (R347). -/
def awaitWrite (f : Frame) (s : State) : State :=
  match slotOf f.sess with
  | some i => awaitResp i f.lseq.toNat s
  | none => s

/-- OD_WRITE: reaches the gate in order (R347, R356, R360). -/
def execOdWrite (f : Frame) (s : State) : Host.Outcome State Fault Refusal :=
  .next (receive 3#8 2#8 f (fun s => arrive f (awaitWrite f s)) s)

/-- BULK_WRITE. -/
def execBulkWrite (f : Frame) (ev : CodeEvent) (s : State) : Host.Outcome State Fault Refusal :=
  .next (receive 4#8 1#8 f (arriveMet f ev) s)

/-- BULK_READ. -/
def execBulkRead (f : Frame) (s : State) : Host.Outcome State Fault Refusal := .next (receive 4#8 2#8 f (arrive f) s)

/-- FLAG_UPDATE. -/
def execFlagUpdate (f : Frame) (s : State) : Host.Outcome State Fault Refusal := .next (receive 5#8 1#8 f (arrive f) s)

/-- RECORD_SCRIPT. -/
def execRecordScript (f : Frame) (s : State) : Host.Outcome State Fault Refusal := .next (receive 6#8 2#8 f (arrive f) s)

/-- Bytes of the next chunk of a read (R348). -/
def BulkRun.chunk (r : BulkRun) : Nat := min 4096 r.left

/-- The bay whose scratchpad a bulk read is of. -/
def BulkRun.bay (r : BulkRun) : Bay :=
  match spadAt r.addr with
  | some (n, _) => Fin.ofNat 12 n
  | none => 0

/-- Counts what the read of a chunk met (R254, R288). -/
def countChunk (r : BulkRun) (s : State) : State :=
  if inStack r.addr then countBad (rangeWords r.addr r.chunk) 3 s else ueRead (rangeWords r.addr r.chunk) s

/-- The next chunk of the oldest read leaves as a DATA frame, with status 0x42 and zeros when a sector or word of it is
uncorrectable (R348). (DEDUCED, log 127) -/
def sendChunk (r : BulkRun) (rest : List BulkRun) (s : State) : State :=
  let bad := rangeBad s r.addr r.chunk
  let v := if bad then List.replicate r.chunk 0#8 else s.ld r.addr r.chunk
  let r' : BulkRun := { r with addr := r.addr + r.chunk, left := r.left - r.chunk }
  let s := updLink (fun l => { l with reads := if r'.left = 0 then rest else r' :: rest })
    (traffic [(r.addr, r.chunk)] [] (countChunk r s))
  sendFrame (outFrame 4#8 3#8 r.sess r.tid (BitVec.ofNat 48 r.addr) (if bad then 0x42#64 else 0#64) v) s

/-- BULK_READ_DATA: a chunk in a page under repair waits, and an uncorrectable word asks for a repair (R248, R348). -/
def execBulkReadData (ev : CodeEvent) (s : State) : Host.Outcome State Fault Refusal :=
  .next
    (match s.link.reads with
     | r :: rest =>
       if clocked s then guarded r.bay ev (rangeWords r.addr r.chunk) [] (sendChunk r rest) s else s
     | [] => s)

/-! ### Draining the record ring (R323, R349) -/

/-- One drained entry: its bytes, or zeros and its damage mark. -/
def drainEntry (s : State) (q : Nat) : List Byte × Bool :=
  if rangeBad s (entryAddr s q) 64 then (List.replicate 64 0#8, true) else (s.ld (entryAddr s q) 64, false)

/-- The entries of a drained frame. -/
def drainList (s : State) (q n : Nat) : List (List Byte × Bool) := (List.range n).map (fun k => drainEntry s (q + k))

/-- What the drain of `n` entries reads. -/
def drainWords (s : State) (q n : Nat) : List Nat := (List.range n).flatMap (fun k => rangeWords (entryAddr s (q + k)) 64)

/-- The slot OD 0x8040:01 names, when its session is open. -/
def sinkOf (s : State) : Option Slot :=
  match slotOf s.od.recordSink with
  | some i => if s.sess[i].ph = .opened then some i else none
  | none => none

/-- RECORD_DRAIN: up to 64 undrained entries leave as an ENTRIES frame; a damaged one as zeros with its ARG bit set, counted,
and the run no longer replayable (R288, R323, R349). -/
def execRecordDrain (n : Nat) (ev : CodeEvent) (s : State) : Host.Outcome State Fault Refusal :=
  .next
    (match sinkOf s with
     | some i =>
       let m := min (min n 64) (s.rcd.seq - s.rcd.drain)
       if clocked s && decide (0 < m) && !ahead s (wordSpans (drainWords s s.rcd.drain m)) [] then
         let q := s.rcd.drain
         let s := traffic (wordSpans (drainWords s q m)) [] s
         let s := readIn ev (drainWords s q m) s
         let s := countBad (drainWords s q m) 2 s
         let l := drainList s q m
         let bad := (l.filter (fun e => e.2)).length
         let arg := (l.zipIdx.filter (fun e => e.1.2)).foldl (fun (a : Nat) e => a + 2 ^ e.2) 0
         let s := { s with
           rcd := { s.rcd with drain := q + m, damaged := satAdd 64 s.rcd.damaged bad }
           run := if bad = 0 then s.run else s.run.unreplayable }
         sendFrame (outFrame 6#8 1#8 (BitVec.ofNat 8 i.val) 0#16 (BitVec.ofNat 48 q) (BitVec.ofNat 64 arg)
           (l.flatMap (fun e => e.1))) s
       else s
     | none => s)

end Sys2Proof.Machine
end

