-- ==== Sys2Proof/Machine/Image.lean ====
section
/-! DEFINITION. The Shozal image and the checks of LOAD (R213 to R232). -/

namespace Sys2Proof.Machine

/-! ### The instruction word (R213 to R222) -/

/-- A field of an instruction word. -/
def fld (w hi lo : Nat) : Nat := bitsAt w hi lo

/-- Opcode of a word. -/
def opOf (w : Nat) : Nat := fld w 63 56

/-- The fields of the VR layout (R221). -/
def vrFields (w : Nat) : List (Nat × Nat) :=
  [(55, 51), (50, 46), (40, 40), (38, 36)] ++ (if fld w 40 40 = 1 then [(35, 32)] else [(45, 41)])

/-- The fields of a counter instruction with BI (R217). -/
def biFields (w : Nat) : List (Nat × Nat) := (47, 47) :: (if fld w 47 47 = 1 then [(15, 0)] else [(43, 40)])

/-- FE, and Fd under FE (R218). -/
def feFields (w : Nat) : List (Nat × Nat) := (39, 39) :: (if fld w 39 39 = 1 then [(37, 32)] else [])

/-- The bits of [55:0] a TS. instruction's row names (R217); none for an unassigned opcode. -/
def tsFields (w : Nat) : Option (List (Nat × Nat)) :=
  let op := opOf w
  match op with
  | 0x01 => some [(55, 52), (31, 0)]
  | 0x0A => some ([(54, 52), (51, 48), (46, 44)] ++ biFields w)
  | 0x0B => some [(54, 52), (50, 48), (45, 44), (42, 40)]
  | 0x0C => some [(55, 52), (51, 48), (15, 0)]
  | 0x0D => some [(55, 52), (51, 48), (15, 0)]
  | 0x0E => some [(55, 52)]
  | 0x0F => some [(55, 52), (33, 32)]
  | 0x10 => some [(55, 48), (14, 0)]
  | 0x11 => some [(14, 0)]
  | 0x12 => some [(14, 0)]
  | 0x13 => some []
  | 0x14 => some []
  | 0x15 => some [(55, 52), (14, 0)]
  | 0x16 => some [(34, 32)]
  | 0x18 => some [(53, 48)]
  | 0x19 => some [(53, 48)]
  | 0x1A => some [(53, 46)]
  | 0x1B => some [(47, 40), (7, 0)]
  | 0x1C => some [(55, 52), (47, 40)]
  | 0x1D => some [(55, 52), (47, 40)]
  | 0x20 => some [(55, 52), (50, 48), (35, 32)]
  | 0x21 => some [(55, 52), (50, 48), (35, 32)]
  | 0x22 => some [(55, 52)]
  | 0x23 => some []
  | 0x24 => some [(55, 48), (45, 40)]
  | 0x25 => some [(55, 52), (45, 40)]
  | 0x28 => some [(55, 40), (35, 32), (11, 0)]
  | 0x29 => some [(33, 32)]
  | 0x2A => some [(15, 0)]
  | 0x2C => some [(55, 52), (10, 0)]
  | 0x30 => some [(55, 48)]
  | 0x31 => some [(55, 46)]
  | 0x32 => some [(55, 48)]
  | 0x33 => some [(55, 43)]
  | 0x34 => some [(55, 48)]
  | _ => if 0x02 ≤ op ∧ op ≤ 0x09 then some ([(55, 48)] ++ biFields w) else none

/-- The bits an XF. instruction's row names (R218). -/
def xfFields (w : Nat) : Option (List (Nat × Nat)) :=
  match opOf w with
  | 0x40 => some ([(47, 47), (26, 16)] ++ feFields w ++ (if fld w 47 47 = 1 then [(42, 40)] else [(10, 0)]))
  | 0x41 => some ([(50, 40), (26, 16), (10, 0)] ++ feFields w)
  | 0x42 => some ([(51, 40), (26, 16), (10, 0)] ++ feFields w)
  | 0x43 => some ((10, 0) :: feFields w)
  | 0x44 => some [(55, 52), (10, 0)]
  | 0x45 => some [(55, 52), (10, 0)]
  | 0x46 => some [(10, 0)]
  | 0x47 => some [(55, 52)]
  | _ => none

/-- The bits an MM., TD., TBL. or NT. instruction's row names (R219). -/
def mmFields (w : Nat) : Option (List (Nat × Nat)) :=
  match opOf w with
  | 0x60 => some [(55, 53), (31, 0)]
  | 0x61 => some [(55, 53), (47, 32), (10, 0)]
  | 0x62 => some ([(55, 50), (39, 32)] ++ (if fld w 50 50 = 1 then [] else [(10, 0)]))
  | 0x63 => some [(55, 45), (39, 32), (10, 0)]
  | 0x64 => some [(55, 52), (45, 40), (39, 32), (21, 16), (10, 0)]
  | 0x65 => some [(55, 52)]
  | 0x66 => some [(55, 53), (41, 40), (35, 32)]
  | 0x68 => some ([(55, 48), (43, 42), (37, 32)] ++ (if fld w 43 43 = 1 then [(47, 44)] else []))
  | 0x69 => some []
  | 0x6A => some [(55, 52)]
  | 0x6C => some [(52, 48), (45, 40), (10, 0)]
  | 0x6D => some []
  | 0x6E => some [(55, 52)]
  | 0x70 => some [(31, 0)]
  | 0x71 => some [(10, 0)]
  | 0x72 => some [(45, 40), (26, 16), (10, 0)]
  | 0x73 => some [(45, 40), (26, 16), (10, 0)]
  | 0x74 => some ([(52, 52), (47, 47), (35, 32)] ++ (if fld w 47 47 = 1 then [] else [(43, 40)]))
  | 0x75 => some [(52, 52), (45, 40), (35, 32), (10, 0)]
  | 0x76 => some [(52, 52), (45, 40), (26, 16)]
  | 0x77 => some [(52, 52), (45, 40), (10, 0)]
  | _ => none

/-- The bits a VE. instruction's row names (R221). -/
def veFields (w : Nat) : Option (List (Nat × Nat)) :=
  let op := opOf w
  match op with
  | 0x8F => some ((30, 28) :: vrFields w)
  | 0x90 => some [(55, 51), (38, 36), (35, 32)]
  | 0x91 => some ([(55, 53), (50, 46), (40, 40), (38, 36), (31, 29)] ++ (if fld w 40 40 = 1 then [(35, 32)] else [(45, 41)]))
  | 0x92 => some ([(55, 53), (50, 46), (40, 40), (38, 36), (31, 29)] ++ (if fld w 40 40 = 1 then [(35, 32)] else [(45, 41)]))
  | 0x93 => some [(55, 53), (50, 45), (38, 36)]
  | 0x94 => some [(55, 53), (50, 45), (38, 36)]
  | 0x95 => some [(55, 53), (50, 45), (38, 36)]
  | 0x96 => some [(55, 53), (50, 48), (38, 36)]
  | 0x9B => some ((30, 26) :: vrFields w)
  | 0x9E => some [(55, 46), (38, 36), (31, 30)]
  | 0xA4 => some [(55, 46), (38, 36), (29, 24)]
  | 0xA5 => some [(55, 46), (38, 36), (29, 24)]
  | 0xA6 => some [(55, 46), (38, 36), (29, 24), (21, 16)]
  | 0xA8 => some ([(55, 39)] ++ (if fld w 39 39 = 1 then [(37, 32), (26, 16), (10, 0)] else []))
  | 0xA9 => some [(55, 46), (38, 32)]
  | 0xAA => some [(55, 41), (38, 36)]
  | 0xAB => some [(55, 46), (38, 36), (31, 27), (20, 12)]
  | 0xAC => some [(55, 51), (38, 36), (31, 28), (10, 0)]
  | 0xAD => some [(50, 46), (38, 36), (31, 28), (10, 0)]
  | 0xAE => some [(55, 51), (42, 40), (38, 36), (20, 16)]
  | 0xAF => some [(55, 53), (51, 48), (38, 32), (31, 27)]
  | 0xB0 => some [(55, 52), (50, 40), (38, 36), (31, 29)]
  | 0xB1 => some [(45, 40), (37, 32), (10, 0)]
  | 0xB2 => some [(55, 52)]
  | _ =>
    if (0x80 ≤ op ∧ op ≤ 0x8E) ∨ (0x98 ≤ op ∧ op ≤ 0x9D) then some (vrFields w)
    else if 0xA0 ≤ op ∧ op ≤ 0xA3 then some ((29, 24) :: vrFields w)
    else none

/-- The bits of [55:0] a word's row names under the values its other fields take (R214); none for an unassigned opcode
(R216). -/
def wordFields (w : Nat) : Option (List (Nat × Nat)) :=
  if opOf w < 0x40 then tsFields w else if opOf w < 0x60 then xfFields w else if opOf w < 0x80 then mmFields w
  else veFields w

/-- A field holds a value the loader does not refuse (R217 to R222), but for the stream, link-flag and direction checks.
(DEDUCED, log 136) -/
def fieldsOk (w : Nat) : Bool :=
  match opOf w with
  | 0x0A => decide (fld w 46 44 ≤ 5)
  | 0x10 => fld w 55 55 == 1 || fld w 53 51 == 0
  | 0x16 => decide (1 ≤ fld w 34 32) && decide (fld w 34 32 ≤ 4)
  | 0x20 => decide (fld w 55 52 + fld w 35 32 ≤ 15)
  | 0x21 => decide (fld w 55 52 + fld w 35 32 ≤ 15)
  | 0x28 =>
    let k := fld w 35 32
    (k == 0 || k == 3 || fld w 51 48 == 0) && (k == 2 || k == 8 || fld w 43 40 == 0)
  | 0x29 => decide (fld w 33 32 ≤ 2)
  | 0x60 => tcfgOk (BitVec.ofNat 32 w)
  | 0x61 => decide (fld w 47 40 + fld w 39 32 + 1 ≤ 256)
  | 0x63 => fld w 55 48 != 0
  | 0x66 => decide (fld w 41 40 ≤ 2)
  | 0x68 => fld w 37 32 != 0
  | 0x70 => ntCfgOk (BitVec.ofNat 32 w)
  | 0x91 => fld w 55 53 != 0 && decide (fld w 31 29 ≤ 5)
  | 0x92 => fld w 55 53 != 0 && decide (fld w 31 29 ≤ 6)
  | 0x93 => fld w 55 53 != 0
  | 0x94 => fld w 55 53 != 0
  | 0x95 => fld w 55 53 != 0
  | 0x96 => fld w 55 53 != 0
  | 0x9E => decide (fld w 31 30 ≤ 1)
  | 0xAB =>
    let f := fld w 31 27
    decide (f ≤ 0x0B) && fld w 20 16 == 0 && fld w 15 12 == 0 ||
      (decide (0x10 ≤ f) && decide (f ≤ 0x14) && (decide (0x11 ≤ f ∧ f ≤ 0x13) || fld w 15 12 == 0) &&
        decide (fld w 50 46 + fld w 20 16 ≤ 31))
  | 0xAC => decide (fld w 31 28 ≤ 6)
  | 0xAD => decide (fld w 31 28 ≤ 6)
  | 0xAF => fld w 55 53 != 0 && decide (10 ≤ fld w 31 27) && decide (fld w 31 27 ≤ 17)
  | 0xB0 =>
    let k := fld w 31 29
    decide (k ≤ 6) && (decide (3 ≤ k) || fld w 47 46 == 0) && (k != 6 || fld w 50 46 == 0)
  | 0xB1 => decide (fld w 45 40 + fld w 37 32 + 1 ≤ 64)
  | _ => true

/-- Every bit of [55:0] that no field names is 0. -/
def rsvdOk (w : Nat) (l : List (Nat × Nat)) : Bool :=
  (List.range 56).all (fun i => !w.testBit i || l.any (fun f => decide (f.2 ≤ i) && decide (i ≤ f.1)))

/-- Step 7 of R232 for a word. -/
def wordOk (w : Nat) : Bool :=
  match wordFields w with
  | some l => rsvdOk w l && fieldsOk w
  | none => false

/-- Step 8 for a word: it belongs to its stream, names no link flag it may not write, uses queues in their direction, and a
TS.HOP's mask names its own bay and bays of the image only (R180, R190, R191, R222). -/
def streamOk (st : Strm) (b : Nat) (bays : Nat) (w : Nat) : Bool :=
  let op := opOf w
  (match st with
   | .a => decide (op < 0x28) || (decide (0x40 ≤ op) && decide (op < 0x60))
   | .x => decide (op < 0x40) || decide (0x60 ≤ op)) &&
  (match op with
   | 0x1B => decide (fld w 47 40 < 224)
   | 0x1C => decide (fld w 47 40 < 224)
   | 0x20 => qputOk st (Fin.ofNat 8 (fld w 50 48))
   | 0x21 => !qputOk st (Fin.ofNat 8 (fld w 50 48))
   | 0x28 => (fld w 11 0).testBit b && fld w 11 0 &&& bays == fld w 11 0
   | 0x40 => fld w 47 47 == 0 || decide (fld w 42 40 < 6)
   | 0xAE => decide (fld w 42 40 < 6)
   | _ => true)

/-! ### Flow (R183, R185, R217) -/

/-- The loops of a code: the index of each TS.LOOP with its END. -/
def loopsOf (code : List Nat) : List (Nat × Nat) :=
  (code.zipIdx.filter (fun p => opOf p.1 == 0x15)).map (fun p => (p.2, fld p.1 14 0))

/-- The loops whose body holds an index, innermost last when they nest. -/
def loopsAt (l : List (Nat × Nat)) (i : Nat) : List (Nat × Nat) := l.filter (fun p => decide (p.1 < i) && decide (i ≤ p.2))

/-- The innermost loop body an index lies in. -/
def innermost (l : List (Nat × Nat)) (i : Nat) : Option (Nat × Nat) := (loopsAt l i).getLast?

/-- Two loops nest strictly or lie apart (R185). -/
def nests (p q : Nat × Nat) : Bool :=
  p == q || decide (p.2 < q.1) || decide (q.2 < p.1) ||
    (decide (p.1 < q.1) && decide (q.1 ≤ p.2) && decide (q.2 < p.2)) ||
    (decide (q.1 < p.1) && decide (p.1 ≤ q.2) && decide (p.2 < q.2))

/-- Step 9 of R232 for the instruction at an index. -/
def flowOk (code : List Nat) (l : List (Nat × Nat)) (i w : Nat) : Bool :=
  let t := fld w 14 0
  match opOf w with
  | 0x10 => decide (t < code.length) && innermost l t == innermost l i
  | 0x11 => decide (t < code.length) && innermost l t == innermost l i
  | 0x12 => decide (t < code.length)
  | 0x13 => (loopsAt l i).isEmpty
  | 0x15 =>
    decide (i < t) && decide (t < code.length) && l.all (fun q => nests (i, t) q) && decide ((loopsAt l i).length < 4)
  | 0x16 => decide (fld w 34 32 ≤ (loopsAt l i).length)
  | _ => true

/-! ### Head and sections (R226, R227) -/

/-- A section table entry (R227) with its index. -/
structure Sec where
  ix : Nat
  ty : Nat
  ver : Nat
  bay : Nat
  strm : Nat
  off : Nat
  len : Nat
  dest : Nat
  rsvd : Nat

/-- An image in stacked memory: its base and the fields of its head (R226). -/
structure Img where
  base : Nat
  nsec : Nat
  bays : Nat
  size : Nat

/-- A failed check: status, section entry and index within it, and the address of the sector whose read failed, if that is
the reason (R231, R232, R288). -/
structure Fail where
  status : Nat
  sec : Nat
  ix : Nat
  ue : Option Nat

/-- A number of the image at an offset. -/
def Img.num (s : State) (m : Img) (off n : Nat) : Nat := s.ldNat (m.base + off) n

/-- Reads the head at an address. -/
def Img.at (s : State) (a : Nat) : Img :=
  { base := a, nsec := s.ldNat (a + 6) 2, bays := s.ldNat (a + 8) 2, size := s.ldNat (a + 16) 8 }

/-- Reads a section table entry. -/
def Img.sec (s : State) (m : Img) (i : Nat) : Sec :=
  let o := 64 + 32 * i
  { ix := i, ty := m.num s o 1, ver := m.num s (o + 1) 1, bay := m.num s (o + 2) 1, strm := m.num s (o + 3) 1
    off := m.num s (o + 8) 8, len := m.num s (o + 16) 8, dest := m.num s (o + 24) 4
    rsvd := m.num s (o + 4) 4 + m.num s (o + 28) 4 }

/-- The section table. -/
def Img.secs (s : State) (m : Img) : List Sec := (List.range m.nsec).map (fun i => m.sec s i)

/-- The first uncorrectable sector of a range of stacked memory. -/
def sectorIn (s : State) (a len : Nat) : Option Nat :=
  s.ms.badSectors.find? (fun x => decide (x < a + len) && decide (a < x + 64))

/-- Step 2: the head and the image's place. (DEDUCED, log 99) -/
def Img.step2 (s : State) (m : Img) : Option Fail :=
  let a := m.base
  let bad : Option Fail → Nat → Option Fail := fun k len =>
    match sectorIn s a len with
    | some x => some ⟨2, 0, 0, some x⟩
    | none => k
  bad
    (if s.ldNat a 4 = 0x00495A53 ∧ s.ldNat (a + 4) 1 = 1 ∧ s.ldNat (a + 5) 1 ≤ 1 ∧ 1 ≤ m.nsec ∧ m.nsec ≤ 256 ∧
        m.bays ≠ 0 ∧ m.bays < 4096 ∧ s.ldNat (a + 10) 6 = 0 ∧ s.ldNat (a + 24) 40 = 0 ∧ m.size ≤ 2 ^ 32 ∧
        64 + 32 * m.nsec ≤ m.size ∧ inBands a m.size = true then
      bad none (64 + 32 * m.nsec)
    else some ⟨2, 0, 0, none⟩) 64

/-- Bytes of one item of a section, by type. -/
def itemSize (ty : Nat) : Nat :=
  match ty with
  | 1 => 8
  | 2 => 4
  | 3 => 64
  | 5 => 32
  | 6 => 16
  | 7 => 8
  | _ => 1

/-- Items of a section. -/
def Sec.items (x : Sec) : Nat := x.len / itemSize x.ty

/-- Two ranges meet. -/
def rangesMeet (a n b m : Nat) : Bool := decide (a < b + m) && decide (b < a + n) && n != 0 && m != 0

/-- Two sections overlap in content or in destination. -/
def Sec.clash (x y : Sec) : Bool :=
  rangesMeet x.off x.len y.off y.len ||
    (x.ty == y.ty && x.bay == y.bay && x.strm == y.strm &&
      (x.ty == 1 || ((x.ty == 2 || x.ty == 3 || x.ty == 4) && rangesMeet x.dest x.items y.dest y.items)))

/-- The fields of a section entry hold values its type admits. (DEDUCED, log 131) -/
def Sec.shape (x : Sec) (bays : Nat) : Bool :=
  let own := x.ty == 1 || x.ty == 2
  decide (1 ≤ x.ty) && decide (x.ty ≤ 8) && x.ver == 1 && x.rsvd == 0 &&
    (if x.ty = 5 ∨ x.ty = 6 ∨ x.ty = 8 then x.bay == 0xFF else decide (x.bay < 12) && bays.testBit x.bay) &&
    (if own then decide (x.strm ≤ 1) else x.strm == 0xFF) &&
    (x.ty == 2 || x.ty == 3 || x.ty == 4 || x.dest == 0) && x.len % itemSize x.ty == 0 && (x.ty != 1 || x.len != 0)

/-- The sections' instructions, DMEM words, and other items. -/
def Img.item (s : State) (m : Img) (x : Sec) (i : Nat) : Nat := m.num s (x.off + itemSize x.ty * i) (itemSize x.ty)

def Img.content (s : State) (m : Img) (x : Sec) : List Nat := (List.range x.items).map (fun i => m.item s x i)

/-- A code ends in TS.END, TS.JMP or TS.RET (R227). -/
def endsWell (w : Nat) : Bool := opOf w == 0x14 || opOf w == 0x11 || opOf w == 0x13

/-- Step 3 for one section, given those before it. -/
def Img.secFail (s : State) (m : Img) (before : List Sec) (x : Sec) : Option Fail :=
  if !(x.shape m.bays && x.off % 64 == 0 && decide (64 + 32 * m.nsec ≤ x.off) && decide (x.off + x.len ≤ m.size)) then
    some ⟨3, x.ix, 0, none⟩
  else if before.any (fun y => y.clash x) then some ⟨3, x.ix, 0, none⟩
  else
    let a := m.base + x.off
    match sectorIn s a x.len with
    | some y => some ⟨3, x.ix, (max y a - a) / itemSize x.ty % 65536, some y⟩
    | none =>
      if x.ty = 1 ∧ !endsWell (m.item s x (x.items - 1)) then some ⟨3, x.ix, (x.items - 1) % 65536, none⟩ else none

/-- Step 3: every section in order, then a CODE section for each stream of each bay. -/
def Img.step3 (s : State) (m : Img) (l : List Sec) : Option Fail :=
  match (List.range l.length).findSome? (fun i => (l[i]?).bind (m.secFail s (l.take i))) with
  | some f => some f
  | none =>
    if (List.range 12).all (fun b => !m.bays.testBit b ||
        (List.range 2).all (fun k => l.any (fun x => x.ty == 1 && x.bay == b && x.strm == k))) then none
    else some ⟨3, 0, 0, none⟩

/-- Step 4: destinations within their memories. -/
def step4 (l : List Sec) : Option Fail :=
  (l.find? (fun x =>
    match x.ty with
    | 1 => decide (32768 < x.items)
    | 2 => decide (16384 < x.dest + x.items)
    | 3 => decide (2048 < x.dest + x.items)
    | 4 => decide (spadSize < x.dest + x.items)
    | _ => false)).map (fun x => ⟨10, x.ix, 0, none⟩)

/-! ### Regions and relocation (R228, R229) -/

/-- The items of the sections of a type, each with its section and index. -/
def Img.all (s : State) (m : Img) (l : List Sec) (ty : Nat) : List (Sec × Nat × Nat) :=
  (l.filter (fun x => x.ty == ty)).flatMap (fun x => (m.content s x).zipIdx.map (fun p => (x, p.2, p.1)))

/-- A region record; its base is given by the binding table. -/
def regionOf (v : Nat) : Region :=
  { id := bitsAt v 15 0, kind := bitsAt v 23 16, stack := bitsAt v 31 24, size := bitsAt v 127 64, base := 0 }

/-- A region record holds values R228 admits. -/
def regionOk (v : Nat) : Bool :=
  let r := regionOf v
  decide (r.id ≤ 4095) && bitsAt v 63 32 == 0 && bitsAt v 255 128 == 0 && r.size != 0 && r.size % 4096 == 0 &&
    (if r.kind = 1 then decide (r.stack < 12) else r.kind == 2 && r.stack == 0)

/-- A range lies wholly in memory set to SPREAD (R228, R281). -/
def spreadRange (s : State) (a len : Nat) : Bool :=
  let o := a % winSize
  decide (a < stackEnd) && decide (o + len ≤ 127 * 2 ^ 30) &&
    (List.range 127).all (fun k => s.ms.bands.getLsbD k || decide (o + len ≤ k * 2 ^ 30) || decide ((k + 1) * 2 ^ 30 ≤ o))

/-- A base is accepted for a region, given the regions bound before it (R228). -/
def baseOk (s : State) (r : Region) (before : List Region) : Bool :=
  r.base % 4096 == 0 &&
    (if r.kind = 1 then decide (r.stack * winSize ≤ r.base) && localRange s r.stack (r.base - r.stack * winSize) r.size
     else spreadRange s r.base r.size) &&
    before.all (fun q => !rangesMeet r.base r.size q.base q.size)

/-- The binding table's entries: ID, base and the RSVD bytes. -/
def bindEntry (s : State) (i : Nat) : Nat × Nat × Nat :=
  let a := s.ldr.loadBind + 16 * i
  (s.ldNat a 2, s.ldNat (a + 8) 8, s.ldNat (a + 2) 6)

/-- A binding entry serves a region that no entry before it serves. -/
def bindOk (s : State) (l : List Region) (i : Nat) : Bool :=
  let e := bindEntry s i
  e.2.2 == 0 && l.any (fun r => r.id == e.1) && (List.range i).all (fun k => (bindEntry s k).1 != e.1)

/-- The region an entry binds, with its base. -/
def boundBy (s : State) (l : List Region) (i : Nat) : Option Region :=
  let e := bindEntry s i
  (l.find? (fun r => r.id == e.1)).map (fun r => { r with base := e.2.1 })

/-- The regions in the order of the binding table. -/
def boundRegions (s : State) (l : List Region) (n : Nat) : List Region := (List.range n).filterMap (boundBy s l)

/-- Step 5. -/
def Img.step5 (s : State) (m : Img) (l : List Sec) : Option Fail :=
  let recs := m.all s l 5
  let rs := recs.map (fun p => regionOf p.2.2)
  match (List.range recs.length).findSome? (fun i => (recs[i]?).bind (fun p =>
      if regionOk p.2.2 && (rs.take i).all (fun r => r.id != (regionOf p.2.2).id) then none
      else some ⟨7, p.1.ix, p.2.1 % 65536, none⟩)) with
  | some f => some f
  | none =>
    if rs.isEmpty then none
    else if !inBands s.ldr.loadBind (16 * rs.length) then some ⟨7, 0xFFFF, 0, none⟩
    else
      (List.range rs.length).findSome? (fun i =>
        let a := s.ldr.loadBind + 16 * i
        match sectorIn s a 16 with
        | some x => some ⟨7, 0xFFFF, i, some x⟩
        | none =>
          if bindOk s rs i && (boundBy s rs i).any (fun r => baseOk s r (boundRegions s rs i)) then none
          else some ⟨7, 0xFFFF, i, none⟩)

/-- The bound regions of an image whose step 5 holds. -/
def Img.regions (s : State) (m : Img) (l : List Sec) : List Region :=
  let rs := (m.all s l 5).map (fun p => regionOf p.2.2)
  boundRegions s rs rs.length

/-- A relocation record (R229). -/
structure Reloc where
  ty : Nat
  bay : Nat
  strm : Nat
  rsvd : Nat
  index : Nat
  region : Nat
  addend : Nat

def relocOf (v : Nat) : Reloc :=
  { ty := bitsAt v 7 0, bay := bitsAt v 15 8, strm := bitsAt v 23 16, rsvd := bitsAt v 31 24, index := bitsAt v 63 32
    region := bitsAt v 79 64, addend := bitsAt v 127 80 }

/-- The section type a relocation patches. -/
def Reloc.secTy (r : Reloc) : Nat := if r.ty ≤ 2 then 1 else if r.ty ≤ 4 then 2 else 3

/-- Two records name one target. -/
def Reloc.same (r q : Reloc) : Bool :=
  r.secTy == q.secTy && r.bay == q.bay && r.strm == q.strm && r.index == q.index

/-- The item a record patches, as the image holds it. -/
def Img.target (s : State) (m : Img) (l : List Sec) (r : Reloc) : Option Nat :=
  (l.find? (fun x => x.ty == r.secTy && x.bay == r.bay && x.strm == r.strm && decide (x.dest ≤ r.index) &&
    decide (r.index < x.dest + x.items))).map (fun x => m.item s x (r.index - x.dest))

/-- A record holds values R229 admits, and its target holds 0. -/
def Img.relocOk (s : State) (m : Img) (l : List Sec) (regs : List Region) (r : Reloc) : Bool :=
  decide (1 ≤ r.ty) && decide (r.ty ≤ 5) && r.rsvd == 0 && decide (r.bay < 12) &&
    (if r.ty = 5 then r.strm == 0xFF else decide (r.strm ≤ 1)) &&
    (match regs.find? (fun g => g.id == r.region) with
     | some g => decide (r.addend < g.size)
     | none => false) &&
    (match m.target s l r with
     | some w => if r.ty ≤ 2 then opOf w == 1 && fld w 31 0 == 0 else if r.ty ≤ 4 then w == 0 else bitsAt w 111 64 == 0
     | none => false)

/-- Step 6. -/
def Img.step6 (s : State) (m : Img) (l : List Sec) (regs : List Region) : Option Fail :=
  let recs := m.all s l 6
  let rs := recs.map (fun p => relocOf p.2.2)
  (List.range recs.length).findSome? (fun i => (recs[i]?).bind (fun p =>
    let r := relocOf p.2.2
    if m.relocOk s l regs r && (rs.take i).all (fun q => !q.same r) then none else some ⟨8, p.1.ix, p.2.1 % 65536, none⟩))

/-- What a record adds to its target (R229): the target holds 0 where it is patched. -/
def Reloc.patch (r : Reloc) (regs : List Region) : Nat :=
  let a := (match regs.find? (fun g => g.id == r.region) with | some g => g.base | none => 0) + r.addend
  if r.ty = 1 ∨ r.ty = 3 then a % 2 ^ 32 else if r.ty = 5 then a % 2 ^ 48 * 2 ^ 64 else a / 2 ^ 32 % 2 ^ 16

/-- A section's items with every patch applied. -/
def Img.patched (s : State) (m : Img) (l : List Sec) (regs : List Region) (x : Sec) : List Nat :=
  let rs := (m.all s l 6).map (fun p => relocOf p.2.2)
  (m.content s x).zipIdx.map (fun p =>
    match rs.find? (fun r => r.secTy == x.ty && r.bay == x.bay && r.strm == x.strm && r.index == x.dest + p.2) with
    | some r => p.1 + r.patch regs
    | none => p.1)

/-! ### Steps 7 to 10 -/

/-- A section's stream. -/
def Sec.st (x : Sec) : Strm := if x.strm = 0 then .a else .x

/-- The first instruction of the CODE sections that fails a check. -/
def codeFail (code : Nat) (l : List (Sec × List Nat)) (ok : Sec → List Nat → Nat → Nat → Bool) : Option Fail :=
  l.findSome? (fun p => (p.2.zipIdx.find? (fun w => !ok p.1 p.2 w.2 w.1)).map (fun w => ⟨code, p.1.ix, w.2 % 65536, none⟩))

/-- A ROUTINE record holds values R230 admits, for the code of its bay's X-stream. -/
def routineOk (v : Nat) (code : List Nat) : Bool :=
  (bitsAt v 7 0 == 1 || bitsAt v 7 0 == 2) && bitsAt v 31 8 == 0 && bitsAt v 63 48 == 0 &&
    decide (bitsAt v 47 32 < code.length) && (loopsAt (loopsOf code) (bitsAt v 47 32)).isEmpty

/-- The routines declared in an image: bay, class and PC (R230). -/
def Img.routines (s : State) (m : Img) (l : List Sec) : List (Nat × Nat × BitVec 15) :=
  (m.all s l 7).map (fun p => (p.1.bay, bitsAt p.2.2 7 0, BitVec.ofNat 15 (bitsAt p.2.2 47 32)))

/-- The routine check of step 9. -/
def Img.routineFail (s : State) (m : Img) (l : List Sec) (codes : List (Sec × List Nat)) : Option Fail :=
  let recs := m.all s l 7
  (List.range recs.length).findSome? (fun i => (recs[i]?).bind (fun p =>
    let code := ((codes.find? (fun c => c.1.bay == p.1.bay && c.1.strm == 1)).map (fun c => c.2)).getD []
    let twice := (recs.take i).any (fun q => q.1.bay == p.1.bay && bitsAt q.2.2 7 0 == bitsAt p.2.2 7 0)
    if routineOk p.2.2 code && !twice then none else some ⟨6, p.1.ix, p.2.1 % 65536, none⟩))

/-- The CODE sections with their patched words. -/
def Img.codes (s : State) (m : Img) (l : List Sec) (regs : List Region) : List (Sec × List Nat) :=
  (l.filter (fun x => x.ty == 1)).map (fun x => (x, m.patched s l regs x))

/-- The DESC sections with their descriptors as creation checks leave them. -/
def Img.descs (s : State) (m : Img) (l : List Sec) (regs : List Region) : List (Sec × List (Option Desc)) :=
  (l.filter (fun x => x.ty == 3)).map
    (fun x => (x, (m.patched s l regs x).map (fun v => (RawDesc.ofNat v).check regs)))

/-- Step 10. -/
def descFail (l : List (Sec × List (Option Desc))) : Option Fail :=
  l.findSome? (fun p => (p.2.zipIdx.find? (fun d => d.1.isNone)).map (fun d => ⟨9, p.1.ix, d.2 % 65536, none⟩))

/-- Steps 6 to 10, for an image whose sections and regions are in order. -/
def Img.steps (s : State) (m : Img) (l : List Sec) (regs : List Region) : Option Fail :=
  let codes := m.codes s l regs
  m.step6 s l regs <|>
    codeFail 4 codes (fun _ _ _ w => wordOk w) <|>
    codeFail 5 codes (fun x _ _ w => streamOk x.st x.bay m.bays w) <|>
    codeFail 6 codes (fun _ c i w => flowOk c (loopsOf c) i w) <|>
    m.routineFail s l codes <|> descFail (m.descs s l regs)

/-- The first failing check of LOAD from step 2 on; none when every check passes (R232). -/
def Img.fails (s : State) (m : Img) : Option Fail :=
  match m.step2 s with
  | some f => some f
  | none =>
    let l := m.secs s
    match m.step3 s l <|> step4 l <|> m.step5 s l with
    | some f => some f
    | none => m.steps s l (m.regions s l)

end Sys2Proof.Machine
end

