-- ==== Sys2Proof/Machine/Reset.lean ====
section
/-! DEFINITION. What each kind of reset does (R89, R136, R158, R193, R211, R274, R429, R433 to R436). -/

namespace Sys2Proof.Machine

/-! ### Brackets a reset ends (R203, R435) -/

/-- An operation whose bracket a bay's reset ends: its TS.HEND counted, and the mark put on it unless its verdict has
marked the destination. -/
def OpenOp.cut (o : OpenOp) (b : Bay) (unmarked : Bool) (code : Byte) : OpenOp :=
  if o.ended.getLsbD b then o
  else
    let o := { o with ended := setBit o.ended b true }
    if unmarked then { o.markBy code with r39 := o.r39 || code == 0x39#8 } else o

/-- The reset counts fault 0x39 for this operation. -/
def OpenOp.cuts39 (o : OpenOp) (b : Bay) (unmarked : Bool) (code : Byte) : Bool :=
  !o.ended.getLsbD b && unmarked && code == 0x39#8 && !o.r39

/-- The operation of a bracket is not yet marked by its verdict: it runs, or its insertion has not ended. -/
def Bracket.unmarked (k : Bracket) : Bool :=
  k.ins.isSome || (match k.op with | some o => o.verdict == .run | none => false)

/-- A bracket whose bay is reset: the operation and an open inserted refresh end in that bay, and no further refresh is
inserted. (DESIGN CHOICE, log 180) -/
def Bracket.cut (k : Bracket) (b : Bay) (code : Byte) : Bracket :=
  { k with
    op := k.op.map (fun o => o.cut b k.unmarked code)
    insOp := k.insOp.map (fun o => o.cut b (o.verdict == .run) code)
    ins := k.ins.map (fun i => { i with todo := [], back := setBit i.back b true }) }

/-- How often a reset counts fault 0x39 for a bracket. -/
def Bracket.cuts39 (k : Bracket) (b : Bay) (code : Byte) : Nat :=
  (match k.op with | some o => if o.cuts39 b k.unmarked code then 1 else 0 | none => 0) +
  (match k.insOp with | some o => if o.cuts39 b (o.verdict == .run) code then 1 else 0 | none => 0)

/-- CAUSE a reset gives: the code that halted the stream, or 0x39 HOP_RESET (R435). -/
def resetCause (b : Bay) (s : State) : Byte :=
  if (s.strm b .x).status = .halted then (s.strm b .x).fault else 0x39#8

/-- Ends the bracket a bay's X-stream has open (R203, R435; DEDUCED, log 52). A RUN bracket whose Tide channel is halted takes
CAUSE as R435 gives it, not the 0x42 of R108. (DEDUCED, log 52; DESIGN CHOICE, log 157) -/
def cutBracket (b : Bay) (s : State) : State :=
  match bracketOf b s with
  | none => s
  | some k =>
    let code := resetCause b s
    let s := Nat.repeat (countFault 0x39 b 1) (k.cuts39 b code) s
    { s with
      hdr := { s.hdr with
        brackets := s.hdr.brackets.map (fun q => if q.holds b then q.cut b code else q)
        moved := true } }

/-! ### Pools (R211) -/

/-- Returns a pool to IDLE; the declarations of other streams stay waiting and count toward the next one. -/
def idlePool (p : Fin 64) (gone : Bay → Strm → Bool) (s : State) : State :=
  let keep := (poolOf p s).decls.filter (fun d => !gone d.1 d.2.1)
  forgetPool p keep (putPool p { Pool.reset with arming := (poolOf p s).arming, decls := keep } s)

/-- Returns to IDLE the pools a stream has used. -/
def idleUsed (b : Bay) (st : Strm) (s : State) : State :=
  (s.strm b st).pools.foldl (fun (s : State) (p : Fin 64) => idlePool p (fun b' st' => b' == b && st' == st) s) s

/-- The pool's mask names the bay. -/
def Pool.names (q : Pool) (b : Bay) : Bool :=
  (q.armed && q.mask.getLsbD b) || q.decls.any (fun d => d.2.2.2.getLsbD b || d.1 == b)

/-- Returns to IDLE the pools whose mask names a bay. -/
def idleNamed (b : Bay) (s : State) : State :=
  (List.finRange 64).foldl
    (fun (s : State) (p : Fin 64) => if (poolOf p s).names b then idlePool p (fun b' _ => b' == b) s else s) s

/-! ### Streams -/

/-- A stream after its reset: IDLE, its PC, stacks and status at their reset values; counters, comparators, memories and
stall counters kept (R182, R434). -/
def Stream.idled (x : Stream) : Stream :=
  { x with
    pc := 0#15, loops := [], calls := [], status := .idle, fault := 0#8, fpc := 0#15, haltAge := none, timedOut := false, wait := none, frame := none
    busy := 0#16, pools := [], takes := [] }

/-- A tile after a stream reset of its X-stream (R89). -/
def Tile.dropWork (t : Tile) : Tile :=
  let f := fun x : SBuf => if x.st = .loaded then x else SBuf.reset
  { t with
    s0 := f t.s0, s1 := f t.s1, ob0 := OBank.reset, ob1 := OBank.reset, stRow := StRow.reset, queue := [], load := none
    muls := [], drain := none, haltLoad := false, haltWest := false, tideKept := none, stopped := none }

/-- The vector engine after a stream reset (R158): what a started VE.KMAC or VE.SUM has not delivered is dropped too.
(DESIGN CHOICE, log 171; DESIGN CHOICE, log 188) -/
def Vec.dropWork (v : Vec) : Vec := { v with queue := [], rowsIn := [], kmacs := [], sums := [], halt := false }

/-- The ring NTT unit after a stream reset. -/
def Nt.dropWork (v : Nt) : Nt := { v with queue := [], run := none, halt := false }

/-- The table banks after a stream reset: PEND cleared, loads dropped (R136). (DESIGN CHOICE, log 186) -/
def Tbl.dropWork (v : Tbl) : Tbl := { v with pend := false, loads := [], halt := false }

/-- Tide after its streams have ended: halves FREE, of a halted channel too, which stays halted, and the half whose turn it is
unchanged (R104, R108, R434). (DEDUCED, log 141) -/
def Tide.dropWork (v : Tide) : Tide :=
  { v with segs := [], kh0 := Half.reset, kh1 := Half.reset, nbound := 0, spoiled := false }

/-- The transfer engine after a stream reset of its A-stream: queued transfers and the rest of a ring run discarded, active
transfers going on (R274). -/
def Xfer.dropQueue (x : Xfer) : Xfer := { x with queue := [], ring := none, runs := [] }

/-- All eight queues of a bay empty (R193). -/
def Bays.dropQueues (x : Bays) : Bays := { x with dq := Vector.replicate 8 [] }

/-- The X-stream's part of the units dropped. -/
def Bays.dropX (x : Bays) : Bays :=
  { x.dropQueues with
    x := x.x.idled, flagBusy := 0#64, tiles := x.tiles.map Tile.dropWork, vec := x.vec.dropWork, nt := x.nt.dropWork
    tbl := x.tbl.dropWork, tide := x.tide.dropWork }

/-- The A-stream's part of the units dropped. -/
def Bays.dropA (x : Bays) : Bays := { x.dropQueues with a := x.a.idled, xf := x.xf.dropQueue }

/-- Statistics results still under way to a bay are discarded; what it sent is applied (R436). -/
def dropStats (b : Bay) (s : State) : State :=
  let s := statFlush b s
  { s with stats := { s.stats with results := s.stats.results.filter (fun e => e.1 != b) } }

/-- A stream reset takes effect (R434). -/
def resetStream (b : Bay) (st : Strm) (s : State) : State :=
  let s := idleUsed b st s
  match st with
  | .a => s.updBay b Bays.dropA
  | .x =>
    let s := dropStats b s
    let s := cutBracket b (withdrawHop b s)
    let s := endStreams b (fun _ => true) true s
    s.updBay b Bays.dropX

/-- A stream after a bay reset: counters and comparators zeroed too (R434). -/
def Stream.cleared (x : Stream) : Stream := { x.idled with ctr := Vector.replicate 16 0#32, cmp := 0#8 }

/-- An active transfer into another bay's scratchpad completes after its bay's reset (R434, R436). -/
def XEntry.outlives (e : XEntry) (b : Bay) : Bool :=
  let far := fun d : Desc =>
    match spadAt (d.walk 0) with
    | some (n, _) => n != b.val
    | none => false
  match e.op with
  | .mov _ d => far d
  | .movq _ _ _ _ => false
  | .gath _ _ d => far d
  | .scat _ _ _ d => far d
  | .ring _ _ => false

/-- The transfer engine after a bay reset: everything discarded but what outlives it; its counters are kept. -/
def Xfer.cleared (x : Xfer) (b : Bay) : Xfer :=
  { Xfer.reset with
    active := (x.active.filter (fun e => e.outlives b)).map (fun e => { e with fd := none, run := none })
    runNo := x.runNo, causes := x.causes, rd := x.rd, wr := x.wr, nulls := x.nulls, records := x.records }

/-- A bay after its reset: memories, descriptors, scratchpad, key buffer with their protection, and counters kept (R255,
R434). -/
def Bays.cleared (x : Bays) (b : Bay) : Bays :=
  { Bays.reset with
    a := x.a.cleared, x := x.x.cleared, tickets := x.tickets, desc := x.desc, routines := x.routines
    tide := { Tide.reset with nextSid := x.tide.nextSid }
    keyBuf := x.keyBuf, xf := x.xf.cleared b, prot := x.prot, phase := x.phase }

/-- A bay reset takes effect (R434, R435). -/
def resetBay (b : Bay) (s : State) : State :=
  let s := dropStats b (idleNamed b s)
  let s := cutBracket b (withdrawHop b s)
  let s := endStreams b (fun _ => true) true s
  s.updBay b (fun x => x.cleared b)

/-! ### Link-commanded reset (R433, R434) -/

/-- A stack after a link-commanded reset at a position: counters, queues and laps at reset, the lap under way begins there,
temperature and caps kept (R299, R302). -/
def Stack.cleared (k : Stack) (pos : Nat) : Stack :=
  { Stack.reset with
    lapStart := Sparse.tab (fun _ => 0) (fun _ => pos) 0 32, scrubAt := k.scrubAt, readAt := k.readAt
    hot := k.hot, hotDue := k.hotDue, temp := k.temp, cap := k.cap, capDue := k.capDue, capSince := k.capSince, actLimit := k.actLimit, hotBt := k.hotBt
    refreshedAt := k.refreshedAt }

/-- The header unit: contexts EMPTY, no bracket, counters 0; staged values kept; a running INSTALL reads ABANDONED (R48). -/
def Header.cleared (h : Header) : Header :=
  { Header.reset with
    sel := h.sel, ppb := h.ppb, cost := h.cost, dir := h.dir, pol := h.pol
    status := if h.installing.isSome then 8#8 else h.status }

/-- Codes: counters 0, re-encoding abandoned; strengths and enables kept (R254, R433). -/
def Codes.cleared (c : Codes) : Codes :=
  { Codes.reset with
    spadP := c.spadP, keyP := c.keyP, spadNow := c.spadP, keyNow := c.keyP, scrubOn := c.scrubOn, patrolOn := c.patrolOn }

/-- The loader: no image, no launch; a running LOAD or UNLOAD reads ABANDONED with detail 0 (R232). -/
def Loader.cleared (l : Loader) : Loader :=
  { l with
    images := [], launches := [], loading := false, busyShown := false
    status := if l.loading then 12#8 else l.status
    detail := if l.loading then 0#32 else l.detail }

/-- Recording: SEQ and the ring restart, replay OFF, settings and held inputs kept (R433, R434). (DEDUCED, log 82) -/
def Rec.cleared (r : Rec) : Rec := { Rec.reset with on := r.on, stopOn := r.stopOn, gated := r.gated }

/-- The time base: its counters cleared, all else kept (R311, R434). -/
def Beat.cleared (t : Beat) : Beat := { t with cAccepted := 0, cPos := 0, cNum := 0, cBridged := 0, cHold := 0, cRefused := 0 }

/-- The link: its counters cleared, all else kept (R434). -/
def Link.cleared (l : Link) : Link :=
  { l with
    fecCorr := 0, fecUncorr := 0, cResent := 0, cDiscard := 0, cRefused := Vector.replicate 6 0, lastRefusal := 0#64
    cReinit := 0, cBadBeat := 0 }

end Sys2Proof.Machine
end

