-- ==== Sys2Proof/Machine/Od.lean ====
section
/-! DEFINITION. OD writes that have passed the gate: entries that only take their value, contexts, parks, runs, replay, modes of memory, sessions and attestation (R48 to R50, R108, R207, R208, R250, R282, R309, R314, R323, R324, R345, R353, R370, R385, R450). -/

namespace Sys2Proof.Machine

/-! ### The write being applied (R356, R359) -/

/-- The entry belongs to a unit of the compute die. -/
def onCompute (ix sub : Nat) : Bool := (decide (0x2000 ≤ ix) && decide (ix < 0x8000) && !odSelector ix sub) || ix == 0xA010

/-- A write can be applied: the supply in RUN, the firmware running or the entry one served without it, and the compute die not
stopped where the entry is its own (R251, R380, R422, R448). (DEDUCED, log 163) -/
def canApply (q : OdReq) (s : State) : Bool :=
  s.pwr.st == .run && odServed q s && !(s.tap.cdStopped && onCompute q.ix.toNat q.sub.toNat)

/-- The write being applied when it is of this entry and its value is one the row takes. -/
def odTaken (ix sub : Nat) (ok : Nat → Bool) (s : State) : Option OdReq :=
  match s.od.cur with
  | some q => if q.ix.toNat = ix ∧ q.sub.toNat = sub ∧ ok (leNat q.value) = true ∧ canApply q s = true then some q else none
  | none => none

/-- Answers the write being applied, its session as the effect left it. -/
def finishCur (status : Nat) (s : State) : State :=
  match s.od.cur with
  | some q => finish q status s
  | none => s

/-- Applies the write of an entry: its effect, then the answer with the status the effect gives. (DEDUCED, log 94) -/
def applyOd (ix sub : Nat) (ok : Nat → Bool) (k : OdReq → Nat → State → State × Nat) (s : State) : State :=
  match odTaken ix sub ok s with
  | some q => let r := k q (leNat q.value) s; finishCur r.2 r.1
  | none => s

/-- An effect whose answer is OK. -/
def okOd (f : State → State) (s : State) : State × Nat := (f s, 0)

/-! ### Entries with no behaviour of their own (R353) -/

/-- Unit waits that have begun keep the timeout they began under (R199). -/
def armWaits (s : State) : State := s.mapBays (fun b _ => tickUnits UWait.arm b s)

/-- Changes the RW entries that belong to no unit. -/
def updOd (f : Od → Od) (s : State) : State := { s with od := f s.od }

/-- A per-session selector takes a value; none of another session than the writer's (R345, R355). -/
def Session.select (x : Session) (ix : Nat) (n : Nat) : Session :=
  match ix with
  | 0x6010 => { x with selFault := BitVec.ofNat 8 n }
  | 0x6020 => { x with selStall := BitVec.ofNat 8 n }
  | 0x6030 => { x with selBank := BitVec.ofNat 8 n }
  | 0x6050 => { x with selRatio := BitVec.ofNat 16 n }
  | 0x6051 => { x with selScale := BitVec.ofNat 16 n }
  | 0x6060 => { x with selXf := BitVec.ofNat 8 n }
  | 0x6070 => { x with selStack := BitVec.ofNat 8 n }
  | _ => { x with selJrn := BitVec.ofNat 8 n }

/-- The value an entry with no row of its own takes; none for any other entry. -/
def plainWrite (q : OdReq) (s : State) : Option State :=
  let n := leNat q.value
  let ix := q.ix.toNat
  let sub := q.sub.toNat
  if odSelector ix sub then
    some (if q.mute then s else { s with sess := s.sess.set q.slot (s.sess[q.slot].select ix n) })
  else match ix, sub with
    | 0x1000, 9 => some (updOd (fun o => { o with assetTag := some q.value }) s)
    | 0x2120, 1 => some (updOd (fun o => { o with tideHalt := n == 1 }) s)
    | 0x2130, 1 => some (updOd (fun o => { o with waitTimeout := n }) (armWaits s))
    | 0x2150, 1 => some (updOd (fun o => { o with balance := n == 1 }) s)
    | 0x2160, 1 => some { s with ldr := { s.ldr with imgAddr := n } }
    | 0x2160, 2 => some { s with ldr := { s.ldr with bindAddr := n } }
    | 0x2160, 4 => some { s with ldr := { s.ldr with unloadMask := BitVec.ofNat 12 n } }
    | 0x3010, 1 => some { s with pwr := { s.pwr with opLimit := n } }
    | 0x3020, k =>
      if h : 13 ≤ k ∧ k ≤ 24 then some { s with pwr := { s.pwr with opcap := s.pwr.opcap.set (k - 13) n } } else none
    | 0x4040, 1 => some { s with codes := { s.codes with scrubOn := n == 1 } }
    | 0x4070, 1 => some { s with codes := { s.codes with patrolOn := n == 1 } }
    | 0x5010, 1 => some { s with hdr := { s.hdr with sel := n } }
    | 0x5010, 2 => some { s with hdr := { s.hdr with ppb := q.value } }
    | 0x5010, 3 => some { s with hdr := { s.hdr with cost := q.value } }
    | 0x5010, 4 => some { s with hdr := { s.hdr with dir := n } }
    | 0x5010, 8 => some { s with hdr := { s.hdr with pol := BitVec.ofNat 2 n } }
    | 0x5020, 1 => some (updOd (fun o => { o with budgetPolicy := n }) s)
    | 0x5020, 2 => some (updOd (fun o => { o with thresh := n }) s)
    | 0x7010, 4 => some { s with beat := { s.beat with autoRelock := n == 1 } }
    | 0x7030, 9 => some { s with rcd := { s.rcd with stopOn := n == 1 } }
    | 0x8020, 1 => some (updOd (fun o => { o with idleTimeout := n }) s)
    | 0x8040, 1 => some (updOd (fun o => { o with recordSink := BitVec.ofNat 8 n }) s)
    | 0x8100, 1 => some (updOd (fun o => { o with powerClass := n }) s)
    | _, _ => none

/-- WRITE_OTHER: an entry with no behaviour of its own takes the value (R353). -/
def execWriteOther (s : State) : Host.Outcome State Fault Refusal :=
  .next
    (match s.od.cur with
     | some q =>
       if canApply q s then
         match plainWrite q s with
         | some t => finishCur 0 t
         | none => s
       else s
     | none => s)

/-! ### Contexts (R38, R43, R44, R49, R50) -/

/-- A witness of the Miller-Rabin chain: some square of x, within r squarings, is m - 1. -/
def mrChain (m : Nat) : Nat → Nat → Bool
  | 0, _ => false
  | r + 1, x => x == m - 1 || mrChain m r (x * x % m)

/-- Times 2 divides a number, with a bound. -/
def twos : Nat → Nat → Nat
  | 0, _ => 0
  | n + 1, v => if v % 2 = 0 then twos n (v / 2) + 1 else 0

/-- The Miller-Rabin test of an odd number above 2 to one base. -/
def millerRabin (q a : Nat) : Bool :=
  let r := twos 64 (q - 1)
  let x := powMod q a 64 ((q - 1) / 2 ^ r)
  x == 1 || mrChain q r x

/-- The deterministic test of R49, step 3. -/
def mrPrime (q : Nat) : Bool := millerRabin q 2 && millerRabin q 7 && millerRabin q 61

/-- The context entry the staged block, costs, directory address and policy describe (R43, R47). (DEDUCED, log 95) -/
def stagedCtx (h : Header) : CtxEntry :=
  let f := fieldAt h.ppb
  { CtxEntry.reset with
    st := .loading, cls := BitVec.ofNat 2 (f 1 1), pol := h.pol, logn := f 2 1, l := f 3 1, k := f 4 1, d := f 5 1
    tlog := f 6 1, scale0 := f 7 1, glog := f 8 1, dirAddr := h.dir, seed := (h.ppb.drop 272).take 32
    cost := Vector.ofFn (fun (i : Fin 16) => fieldAt h.cost (2 * i.val) 2)
    fprint := BitVec.ofNat 64 (leNat (shake256 h.ppb 8)) }

/-- The staged primes. -/
def stagedPrimes (h : Header) (n : Nat) : List Nat := (List.range n).map (fun i => fieldAt h.ppb (16 + 4 * i) 4)

/-- No two values of a list agree. -/
def distinct (l : List Nat) : Bool := l.eraseDups.length == l.length

/-- Step 2 of R49: the block meets R38 and R43. -/
def ppbOk (h : Header) : Bool :=
  let c := stagedCtx h
  let f := fieldAt h.ppb
  let ps := stagedPrimes h (c.l + c.k)
  f 0 1 == 1 && (f 1 1 == 1 || f 1 1 == 2) && f 9 7 == 0 &&
    (if f 1 1 = 1 then
      decide (13 ≤ c.logn ∧ c.logn ≤ 17 ∧ 1 ≤ c.l ∧ c.l ≤ 63 ∧ 1 ≤ c.k ∧ c.k ≤ 63 ∧ c.l + c.k ≤ 64 ∧ 1 ≤ c.d ∧ c.d ≤ 8) &&
        decide (cdiv c.l c.d ≤ c.k) && c.tlog == 0 && c.glog == 0 && decide (1 ≤ c.scale0 ∧ c.scale0 ≤ 120)
     else
      decide (10 ≤ c.logn ∧ c.logn ≤ 12) && c.l == 1 && c.k == 0 && decide (1 ≤ c.d ∧ c.d ≤ 16) &&
        decide (1 ≤ c.glog ∧ c.glog ≤ 15) && decide (bitLen (f 16 4) ≤ c.d * c.glog) && decide (1 ≤ c.tlog ∧ c.tlog ≤ 10) &&
        c.scale0 == 0) &&
    ps.all (fun q => decide (2 ^ 27 < q ∧ q < 2 ^ 31) && q % (2 * c.n) == 1) && distinct ps &&
    (List.range (64 - (c.l + c.k))).all (fun i => f (16 + 4 * (c.l + c.k + i)) 4 == 0)

/-- The directory's entries. -/
def dirEntries (s : State) (a n : Nat) : List DirEntry :=
  (List.range n).map (fun i => DirEntry.ofBytes (s.ld (a + 32 + 32 * i) 32))

/-- What the check of the directory reads: its head's sector, and where that is readable and COUNT in range, every entry
(R49, R288). -/
def dirWords (s : State) (a : Nat) : List Nat :=
  let n := s.ldNat (a + 4) 4
  if !inBands a 32 then []
  else if rangeBad s a 64 || n == 0 || decide (4096 < n) || !inBands a (32 + 32 * n) then rangeWords a 64
  else rangeWords a (32 + 32 * n)

/-- The directory is read: its head, then the entries. -/
def dirRead (ev : CodeEvent) (s : State) : State :=
  let a := s.hdr.dir
  if inBands a 32 then
    let s := readIn ev (rangeWords a 64) s
    let s := readIn ev ((dirWords s a).filter (fun x => decide (a + 64 ≤ x))) s
    traffic (wordSpans (dirWords s a)) [] s
  else s

/-- Step 4 of R49: the directory at an address with a head of COUNT n. -/
def dirOk (s : State) (c : CtxEntry) (a n : Nat) : Bool :=
  let l := dirEntries s a n
  inBands a 32 && decide (1 ≤ n ∧ n ≤ 4096) && inBands a (32 + 32 * n) && !(dirWords s a).any (byteBad s) &&
    s.ldNat a 1 == 1 && s.ldNat (a + 1) 3 == 0 && s.ldNat (a + 8) 24 == 0 && l.all (fun e => dirEntryOk s c e) &&
    distinct ((l.filter (fun e => e.kind == 2 || e.kind == 3)).map (fun e => e.kind * 2 ^ 32 + e.gal)) &&
    distinct (l.map (fun e => e.kidx))

/-- Step 5 of R49. -/
def costOk (c : CtxEntry) : Bool :=
  (List.range 4).all (fun i => c.cost.toList.getD (12 + i) 0 == 0) &&
    (c.cls == 1#2 || (c.cost[3] == 0 && c.cost[4] == 0))

/-- The status of the first check of INSTALL that fails before the directory is read; 0 for none (R49, steps 1 to 3). -/
def installEarly (s : State) : Nat :=
  let h := s.hdr
  let c := stagedCtx h
  if (ctxAt s h.sel).st ≠ .empty ∨ !(ctxAt s h.sel).usable then 2
  else if !ppbOk h then 3
  else if !(stagedPrimes h (c.l + c.k)).all mrPrime then 4
  else 0

/-- The status of the checks of the directory and the costs (R49, steps 4 and 5). -/
def installLate (s : State) : Nat :=
  let c := stagedCtx s.hdr
  if !dirOk s c s.hdr.dir (s.ldNat (s.hdr.dir + 4) 4) then 5 else if !costOk c then 6 else 0

/-- An accepted INSTALL: the entry is LOADING with what was staged, its block copied to the parameter area, whose last sector
is read first (R47, R49, R287). -/
def startInstall (ev : CodeEvent) (s : State) : State :=
  let h := s.hdr
  let a := paramBase + 512 * h.sel
  let n := s.ldNat (h.dir + 4) 4
  let c : CtxEntry := { stagedCtx h with dcount := n, rkeys := (dirEntries s h.dir n).any (fun e => e.kind == 4) }
  let s := traffic [(a + 320, 64)] [(a, 336)] ((readIn ev [a + 320] (putCtx h.sel c s)).store a h.ppb 4)
  { s with hdr := { s.hdr with installing := some (Fin.ofNat 16384 h.sel) } }

/-- INSTALL: the checks of R49 and the start of an installation; an uncorrectable sector of the directory is counted (R288). -/
def install (ev : CodeEvent) (s : State) : State :=
  let k := installEarly s
  if k ≠ 0 then { s with hdr := { s.hdr with status := BitVec.ofNat 8 k } }
  else
    let s := dirRead ev s
    let k := installLate s
    let s := countBad (dirWords s s.hdr.dir) 4 s
    if k = 0 then startInstall ev s else { s with hdr := { s.hdr with status := BitVec.ofNat 8 k } }

/-- OD_INSTALL: waits for an installation under way. -/
def execOdInstall (ev : CodeEvent) (s : State) : Host.Outcome State Fault Refusal :=
  .next
    (if s.hdr.installing.isSome || ahead s (wordSpans (dirWords s s.hdr.dir)) [(paramBase + 512 * s.hdr.sel, 336)] then s
     else applyOd 0x5010 5 (fun n => n == 1) (fun _ _ => okOd (install ev)) s)

/-- INSTALL_COMPLETE: the entry is READY and the status OK (R49); none while the steward firmware has stopped (R251). -/
def execInstallComplete (s : State) : Host.Outcome State Fault Refusal :=
  .next
    (match s.hdr.installing with
     | some i =>
       if clocked s && !s.trust.stewardDown then
         let s := putCtx i.val { ctxAt s i.val with st := .ready } s
         { s with hdr := { s.hdr with installing := none, status := 0#8 } }
       else s
     | none => s)

/-- OD_EVICT: a READY entry becomes RETIRING, any other, a malformed one too, reports NOT_READY (R50). -/
def execOdEvict (s : State) : Host.Outcome State Fault Refusal :=
  .next
    (if s.hdr.installing.isSome then s
     else applyOd 0x5010 5 (fun n => n == 2)
       (fun _ _ => okOd (fun s =>
         let c := ctxAt s s.hdr.sel
         if c.isReady then
           let s := putCtx s.hdr.sel { c with st := .retiring } s
           { s with hdr := { s.hdr with status := 0#8 } }
         else { s with hdr := { s.hdr with status := 7#8 } })) s)

/-- CONTEXT_RETIRE_EMPTY: a RETIRING entry that no operation names becomes EMPTY (R50). -/
def execContextRetireEmpty (ctx : Fin 16384) (s : State) : Host.Outcome State Fault Refusal :=
  .next
    (if clocked s && (ctxAt s ctx.val).usable && (ctxAt s ctx.val).st == .retiring && (ctxAt s ctx.val).refs == 0 then
       putCtx ctx.val CtxEntry.reset s
     else s)

/-! ### Channels, parks (R108, R207, R208, R274) -/

/-- A restarted Tide channel: the bay's streams end, both halves FREE (R108). (DEDUCED, log 125) -/
def restartTide (b : Bay) (s : State) : State :=
  let s := endStreams b (fun _ => true) true s
  s.updBay b (fun x =>
    { x with tide := { x.tide with segs := [], kh0 := Half.reset, kh1 := Half.reset, halt := false } })

/-- OD_TIDE_RESTART. -/
def execOdTideRestart (s : State) : Host.Outcome State Fault Refusal :=
  .next (applyOd 0x2120 2 (fun _ => true) (fun _ n => okOd (forBays (BitVec.ofNat 12 n) restartTide)) s)

/-- A stationary load stops at a row boundary for a park, the row it has reached free (R72, R207). (DEDUCED, log 44) -/
def stopLoad (b : Bay) (s : State) (lt : Lt) : State :=
  let t := tileOf b lt s
  match t.load with
  | none => s
  | some l =>
    if l.n ≤ l.next then s
    else match l.d with
      | some d =>
        let k := min (freeVal s % (l.n - l.next)) (if l.quench then l.n else goodRows s d t.mode l.next l.n)
        let x := (t.sbuf l.buf).fill s d t.mode l.next k l.quench
        drew 1 (updTile b lt (fun t => { t.interrupt l (l.next + k) false x with stopped := some l }) s)
      | none =>
        updTile b lt (fun t => { t.interrupt l l.next false (t.sbuf l.buf) with stopped := some l, tideKept := l.fed }) s

/-- A park is pending in the bay and its units freeze (R207). -/
def parkBay (b : Bay) (s : State) : State :=
  if (s.bay b).parked then s
  else (List.finRange 8).foldl (stopLoad b) (s.setBay b { s.bay b with parkPend := true })

/-- OD_PARK. -/
def execOdPark (s : State) : Host.Outcome State Fault Refusal :=
  .next (applyOd 0x2110 1 (fun _ => true) (fun _ n => okOd (forBays (BitVec.ofNat 12 n) parkBay)) s)

/-- A stopped load starts again at ST_ROW.ROW, ahead of the tile's queue (R208). -/
def Tile.restart (t : Tile) (tide : Tide) : Tile :=
  match t.stopped with
  | some l =>
    { (t.startLoad { l with next := t.loadFrom tide l.buf true l.tide l.dix, wl := none }) with stopped := none }
  | none => t

/-- A parked stream goes on behind its TS.YIELD. -/
def Stream.resume (x : Stream) : Stream :=
  if x.status = .parked then { x with status := .run, wait := none, fpc := 0#15 } else x

/-- A park ends, or a pending one is cancelled (R208). -/
def resumeBay (b : Bay) (s : State) : State :=
  s.updBay b (fun x =>
    { x with
      a := x.a.resume, x := x.x.resume, tiles := x.tiles.map (fun t => t.restart x.tide), parkPend := false
      parked := false })

/-- OD_RESUME. -/
def execOdResume (s : State) : Host.Outcome State Fault Refusal :=
  .next (applyOd 0x2110 2 (fun _ => true) (fun _ n => okOd (forBays (BitVec.ofNat 12 n) resumeBay)) s)

/-- A restarted transfer channel: every transfer and ring run discarded (R274). -/
def restartXfer (b : Bay) (s : State) : State :=
  s.updBay b (fun x =>
    { x with xf := { x.xf with queue := [], active := [], ring := none, runs := [], halt := false, hcode := 0#8 } })

/-- OD_CHANNEL_RESTART. -/
def execOdChannelRestart (s : State) : Host.Outcome State Fault Refusal :=
  .next (applyOd 0x2180 1 (fun _ => true) (fun _ n => okOd (forBays (BitVec.ofNat 12 n) restartXfer)) s)

/-! ### Resets (R433 to R436) -/

/-- OD_LINK_RESET: a link-commanded reset is requested (R433). -/
def execOdLinkReset (s : State) : Host.Outcome State Fault Refusal :=
  .next (applyOd 0x2100 1 (fun _ => true) (fun q _ => okOd (fun s => { s with rst := { s.rst with link := some q.lseq } })) s)

/-- A frame held during Gong that the reset discards (R432). -/
def gongHeld (f : Frame) : Bool := (f.cls == 4#8 && f.opc == 1#8) || f.cls == 5#8 || (f.cls == 6#8 && f.opc == 2#8)

/-- Discards the frames Gong held, their credits returned. -/
def dropGongHeld (s : State) : State :=
  if s.faults.gong = 0#8 then s
  else
    let gone := (s.link.held ++ s.rcd.gated).filter gongHeld
    let s := { s with
      link := { s.link with held := s.link.held.filter (fun f => !gongHeld f) }
      rcd := { s.rcd with gated := s.rcd.gated.filter (fun f => !gongHeld f) } }
    gone.foldl (fun (s : State) f => creditBack (frameChan f) s) s

/-- A bay after a link-commanded reset at a position, where the scrubber's lap begins (R253, R434). -/
def Bays.relinked (pos : Nat) : Bays := { Bays.reset with prot := { Prot.reset with lapStart := pos } }

/-- The bytes of a die-wide memory that a link-commanded reset keeps: OD values but the band modes, operand memory, steward
memory (R392, R434). -/
def keptByte (e : Nat × Nat) : Bool := e.1 == 0x23 || e.1 == 0x24 || (e.1 == 0x22 && e.2 / 2 ^ 16 != 0x402001)

/-- The device after a link-commanded reset (R434). -/
def linkReset (s : State) : State :=
  let s := dropGongHeld s
  { s with
    bays := Vector.replicate 12 (Bays.relinked s.beat.pos), mem := []
    ms := { MemSt.reset with dieBad := s.ms.dieBad.filter keptByte }
    stk := s.stk.map (fun k => k.cleared s.beat.pos)
    hdr := s.hdr.cleared, pools := [], stats := Stats.reset, codes := s.codes.cleared, tideCtr := TideCtr.reset
    beat := s.beat.cleared, run := Run.reset, rcd := s.rcd.cleared, link := s.link.cleared, ldr := s.ldr.cleared
    faults := Faults.reset, rst := Resets.reset, trust := { s.trust with mapNow := mapNext s.trust } }

/-- Gong is raised again where three power-stage dies still report a fault (R421, R432). -/
def gongAgain (s : State) : State := if 3 ≤ s.pwr.faulty then gong 0x62 15 s else s

/-- LINK_RESET_EFFECT: at its edge the device is reset (R433, R434). -/
def execLinkResetEffect (s : State) : Host.Outcome State Fault Refusal :=
  .next (if clocked s && s.beat.edgeNow && s.rst.linkDue then gongAgain (linkReset s) else s)

/-- OD_BAY_RESET: a reset of the named bays is requested (R433). -/
def execOdBayReset (s : State) : Host.Outcome State Fault Refusal :=
  .next (applyOd 0x2100 2 (fun _ => true)
    (fun _ n => okOd (fun s => { s with rst := { s.rst with bays := s.rst.bays ||| BitVec.ofNat 12 n } })) s)

/-- BAY_RESET_EFFECT: at its edge each named bay is reset, in ascending order (R433, R434). -/
def execBayResetEffect (s : State) : Host.Outcome State Fault Refusal :=
  .next
    (if clocked s && s.beat.edgeNow && s.rst.baysDue != 0#12 then
       let m := s.rst.baysDue
       let s := forBays m resetBay s
       { s with rst := { s.rst with bays := s.rst.bays &&& ~~~m, baysDue := 0#12 } }
     else s)

/-- Resets the named streams of a bay, but for a bay already being reset (R433). -/
def resetStreams (n : Nat) (b : Bay) (s : State) : State :=
  if s.rst.bays.getLsbD b then s
  else
    let s := if n.testBit (2 * b.val) then resetStream b .a s else s
    if n.testBit (2 * b.val + 1) then resetStream b .x s else s

/-- OD_STREAM_RESET: bit 2n is the A-stream of Bn and 2n + 1 its X-stream (R433, R434). -/
def execOdStreamReset (s : State) : Host.Outcome State Fault Refusal :=
  .next (applyOd 0x2100 3 (fun _ => true)
    (fun _ n => okOd (fun s => (List.finRange 12).foldl (fun (s : State) (b : Bay) => resetStreams n b s) s)) s)

/-! ### Power, codes, bands (R250, R282, R370) -/

/-- The ceiling of this power cycle is set (R370). -/
def setCeiling (n : Nat) (s : State) : State := { s with pwr := { s.pwr with ceiling := some n, opLimit := min n s.pwr.opLimit } }

/-- OD_POWER_CEILING: the ceiling of this power cycle; an operator limit above it is lowered to it (R370). -/
def execOdPowerCeiling (s : State) : Host.Outcome State Fault Refusal :=
  .next (applyOd 0x3010 6 (fun _ => true) (fun _ n => okOd (setCeiling n)) s)

/-- Sets a page-code strength and starts the re-encoding; `key` names the key buffer's (R250). -/
def setStrength (key : Bool) (n : Nat) (s : State) : State :=
  { s with codes := { s.codes with
      spadP := if key then s.codes.spadP else n, keyP := if key then n else s.codes.keyP, reenc := some key } }

/-- OD_PAGE_CODE_STRENGTH. -/
def execOdPageCodeStrength (s : State) : Host.Outcome State Fault Refusal :=
  .next (applyOd 0x4010 2 (fun _ => true) (fun _ n => okOd (setStrength true n))
    (applyOd 0x4010 1 (fun _ => true) (fun _ n => okOd (setStrength false n)) s))

/-- Zeroes a band in every window (R282). -/
def zeroBand (s : State) (k : Nat) : State :=
  (List.range 12).foldl (fun (s : State) (w : Nat) => s.zeroRange (w * winSize + k * 2 ^ 30) (2 ^ 30)) s

/-- Bands whose mode a value changes. -/
def changedBands (s : State) (n : Nat) : List Nat := (List.range 127).filter (fun k => n.testBit k != s.ms.bands.getLsbD k)

/-- The band modes change, and every changed band is zeroed (R282). -/
def setBands (n : Nat) (s : State) : State :=
  let l := changedBands s n
  let s := l.foldl zeroBand s
  { s with ms := { s.ms with bands := BitVec.ofNat 128 n, zeroing := l } }

/-- The byte ranges a change of the band modes zeroes. -/
def bandSpans (s : State) (n : Nat) : List (Nat × Nat) :=
  (changedBands s n).flatMap (fun k => (List.range 12).map (fun w => (w * winSize + k * 2 ^ 30, 2 ^ 30)))

/-- OD_BAND_MODES: the modes change and every changed band is zeroed, once no request that arrived before waits there (R282,
R290). -/
def execOdBandModes (s : State) : Host.Outcome State Fault Refusal :=
  .next
    (if s.od.cur.any (fun q => ahead s [] (bandSpans s (leNat q.value))) then s
     else applyOd 0x4020 1 (fun _ => true) (fun _ n => okOd (setBands n)) s)

/-! ### Time base, runs, recording (R309, R314, R323, R324) -/

/-- OD_BEAT_FREE: FREE is entered at the next edge (R309). -/
def execOdBeatFree (s : State) : Host.Outcome State Fault Refusal :=
  .next (applyOd 0x7010 3 (fun n => n == 1) (fun _ _ => okOd (updBeat (fun t => { t with freePend := true }))) s)

/-- OD_BEAT_RELOCK: acquisition starts in LOST or FREE (R309). -/
def execOdBeatRelock (s : State) : Host.Outcome State Fault Refusal :=
  .next (applyOd 0x7010 3 (fun n => n == 2)
    (fun _ _ => okOd (updBeat (fun t =>
      if t.st = .lost ∨ t.st = .free then { t with acquiring := true, qual := 0 } else t))) s)

/-- The run ARM opens (R314). -/
def armedRun (s : State) : Run :=
  { Run.reset with
    isOpen := true, time := s.beat.st == .locked, void := s.beat.st == .lost || s.beat.st == .free
    replayable := s.rcd.on, armBeat := s.beat.beat }

/-- OD_RUN_ARM: opens a run; in a state other than LOCKED this is event 0x08 (R314, R316). -/
def execOdRunArm (s : State) : Host.Outcome State Fault Refusal :=
  .next (applyOd 0x7020 1 (fun n => n == 1)
    (fun _ _ => okOd (fun s =>
      let s := { s with run := armedRun s }
      if s.beat.st = .locked then s else throttle 8 255 0 s)) s)

/-- OD_RUN_CLOSE: closes the run, its flags frozen (R314). -/
def execOdRunClose (s : State) : Host.Outcome State Fault Refusal :=
  .next (applyOd 0x7020 1 (fun n => n == 2)
    (fun _ _ => okOd (fun s =>
      if s.run.isOpen then { s with run := { s.run with isOpen := false, closeBeat := s.beat.beat } } else s)) s)

/-- Recording is switched on or off (R323). -/
def setRecording (n : Nat) (s : State) : State :=
  { s with rcd := { s.rcd with on := n == 1 }, run := if n = 1 then s.run else s.run.unreplayable }

/-- OD_RECORDING_ENABLE: 0 stops recording and clears REPLAYABLE (R323). -/
def execOdRecordingEnable (s : State) : Host.Outcome State Fault Refusal :=
  .next (applyOd 0x7030 1 (fun _ => true) (fun _ n => okOd (setRecording n)) s)

/-- OD_REPLAY_ARM: the replay is ARMED, recording in the lower half of the ring from now on (R324). -/
def execOdReplayArm (s : State) : Host.Outcome State Fault Refusal :=
  .next (applyOd 0x7030 5 (fun n => n == 1)
    (fun _ _ => okOd (fun s =>
      { s with rcd := { s.rcd with
          replay := .armed, script := [], scriptNext := none, live := [], divSeq := 0, divKind := 0, armAt := nowKey s
          halfFrom := if s.rcd.seq < s.rcd.halfTo then s.rcd.halfFrom else s.rcd.seq, halfTo := 2 ^ 64 } })) s)

/-- OD_REPLAY_STOP: the replay ends and staged entries are discarded (R324). -/
def execOdReplayStop (s : State) : Host.Outcome State Fault Refusal :=
  .next (applyOd 0x7030 5 (fun n => n == 2) (fun _ _ => okOd (endStaging .off)) s)

/-! ### Sessions, attestation, test groups (R345, R385, R450) -/

/-- OD_SESSION_CLOSE: closes the named slots (R345). -/
def execOdSessionClose (s : State) : Host.Outcome State Fault Refusal :=
  .next (applyOd 0x8020 4 (fun _ => true)
    (fun _ n => okOd (fun s =>
      (List.finRange 4).foldl (fun (s : State) (i : Slot) => if n.testBit i.val then closeSlot i s else s) s)) s)

/-- OD_ATTEST_NONCE: a report is begun from the state at the write's stamp, or BUSY is answered while one is in progress (R372, R385). -/
def execOdAttestNonce (s : State) : Host.Outcome State Fault Refusal :=
  .next (applyOd 0x8030 1 (fun _ => true)
    (fun q _ s =>
      if s.sess[q.slot].att.status = 1 then (s, 0x0C)
      else
        let a : Attest := { s.sess[q.slot].att with status := 1, snapshot := q.head }
        (if q.mute then s else updSess q.slot (fun x => { x with att := a }) s, 0)) s)

/-- ATTEST_REPORT_READY: the report is signed with the identity key and readable (R378, R385). -/
def execAttestReportReady (slot : Slot) (s : State) : Host.Outcome State Fault Refusal :=
  .next
    (let a := s.sess[slot].att
     if s.pwr.st == .run && a.status == 1 then
       let sig := idSign s.trust.fuses (asciiBytes "SHOZAL-A" ++ a.snapshot)
       updSess slot (fun x => { x with att := { a with status := 2, report := padTo 4096 (a.snapshot ++ sig) } }) s
     else s)

/-- A test group is selected. -/
def selectTmx (n : Nat) (s : State) : State := updOd (fun o => { o with tmxSel := n }) s

/-- OD_TMX_SELECT: the group shown from the next edge on (R450). -/
def execOdTmxSelect (s : State) : Host.Outcome State Fault Refusal :=
  .next (applyOd 0xA010 1 (fun _ => true) (fun _ n => okOd (selectTmx n)) s)

/-- What a write of a configuration register does: for an entry with a row of its own the same as that row (R353, R386). -/
def regEffect (q : OdReq) (s : State) : Option State :=
  let n := leNat q.value
  match q.ix.toNat, q.sub.toNat with
  | 0x3010, 6 => some (setCeiling n s)
  | 0x4010, 1 => some (setStrength false n s)
  | 0x4010, 2 => some (setStrength true n s)
  | 0x4020, 1 => some (setBands n s)
  | 0x7030, 1 => some (setRecording n s)
  | 0xA010, 1 => some (selectTmx n s)
  | _, _ => plainWrite q s

end Sys2Proof.Machine
end

