-- ==== Sys2Proof/Machine/Load.lean ====
section
/-! DEFINITION. Loading, unloading and launching images (R231 to R235). -/

namespace Sys2Proof.Machine

/-- Changes the loader. -/
def updLdr (f : Loader → Loader) (s : State) : State := { s with ldr := f s.ldr }

/-- Bays a staged head names; every bay when the head cannot be read (R433). -/
def headBays (s : State) : BayMask :=
  if (sectorIn s s.ldr.imgAddr 64).isSome then 0xFFF#12 else BitVec.ofNat 12 (s.ldNat (s.ldr.imgAddr + 8) 2)

/-- Step 1 of R232 for the bays an image names, but for a LOAD already in progress. (DEDUCED, log 100) -/
def loadBusy (bays : BayMask) (s : State) : Bool :=
  bays &&& loadedMask s != 0#12 || s.codes.reenc.isSome || !s.ms.zeroing.isEmpty

/-- OD_LOAD: a LOAD begins, BUSY as its outcome when step 1 fails; written while another is in progress it only shows BUSY
(R232). (DEDUCED, log 98) -/
def execOdLoad (s : State) : Host.Outcome State Fault Refusal :=
  .next (applyOd 0x2160 3 (fun n => n == 1)
    (fun _ _ => okOd (fun s =>
      if s.ldr.loading then updLdr (fun l => { l with busyShown := true }) s
      else if loadBusy (headBays s) s then updLdr (fun l => { l with status := 1#8, detail := 0#32 }) s
      else
        updLdr (fun l =>
          { l with
            loading := true, busyShown := false, loadMask := headBays s, loadAddr := l.imgAddr, loadBind := l.bindAddr }) s)) s)

/-- The loader ends with a status and a detail. -/
def endLoad (status sec ix : Nat) (s : State) : State :=
  updLdr (fun l =>
    { l with
      loading := false, busyShown := false, loadMask := 0#12, status := BitVec.ofNat 8 status
      detail := BitVec.ofNat 32 (sec * 65536 + ix) }) s

/-- IMEM of a stream: its code, zeros behind it. -/
def imemOf (codes : List (Sec × List Nat)) (b k : Nat) : Sparse (BitVec 64) :=
  match codes.find? (fun c => c.1.bay == b && c.1.strm == k) with
  | some c => Sparse.setList (fun _ => 0#64) [] 0 (c.2.map (BitVec.ofNat 64))
  | none => []

/-- DMEM of a stream: the words its DATA sections give, zero elsewhere. -/
def dmemOf (datas : List (Sec × List Nat)) (b k : Nat) : Sparse W32 :=
  (datas.filter (fun d => d.1.bay == b && d.1.strm == k)).foldl
    (fun m d => Sparse.setList (fun _ => 0#32) m d.1.dest (d.2.map (BitVec.ofNat 32))) []

/-- The descriptor table of a bay: what its DESC sections give, empty elsewhere. -/
def descTable (descs : List (Sec × List (Option Desc))) (b : Nat) : Sparse (Option Desc) :=
  (descs.filter (fun d => d.1.bay == b)).foldl (fun m d => Sparse.setList (fun _ => none) m d.1.dest d.2) []

/-- The SPAD bytes of a bay are written (R232). -/
def loadSpad (m : Img) (l : List Sec) (b : Bay) (s : State) : State :=
  (l.filter (fun x => x.ty == 4 && x.bay == b.val)).foldl
    (fun (s : State) (x : Sec) => s.store (spadBase b + x.dest) (s.ld (m.base + x.off) x.len) 4) s

/-- What an image holds for the bays, read before anything is written. -/
structure Loaded where
  codes : List (Sec × List Nat)
  datas : List (Sec × List Nat)
  descs : List (Sec × List (Option Desc))
  routines : List (Nat × Nat × BitVec 15)

/-- Writes one bay: both streams IDLE by a stream reset, then its memories and its table (R232). -/
def loadBay (m : Img) (l : List Sec) (g : Loaded) (b : Bay) (s : State) : State :=
  let s := resetStream b .x (resetStream b .a s)
  let s := s.updBay b (fun x =>
    { x with
      a := { x.a with imem := imemOf g.codes b 0, dmem := dmemOf g.datas b 0 }
      x := { x.x with imem := imemOf g.codes b 1, dmem := dmemOf g.datas b 1 }
      desc := descTable g.descs b, routines := (g.routines.filter (fun r => r.1 == b.val)).map (fun r => r.2), prot := x.prot.reloaded })
  loadSpad m l b s

/-- A LOAD whose checks all passed (R232). (DEDUCED, log 101) -/
def finishLoading (m : Img) (s : State) : State :=
  let l := m.secs s
  let regs := m.regions s l
  let g : Loaded :=
    { codes := m.codes s l regs
      datas := (l.filter (fun x => x.ty == 2)).map (fun x => (x, m.patched s l regs x))
      descs := m.descs s l regs, routines := m.routines s l }
  let meas := shake256 (s.ld m.base m.size) 32
  let bays := BitVec.ofNat 12 m.bays
  let img : Image :=
    { bays := bays, meas := meas, regions := regs, hwBase := 0, hwCount := 0 }
  let s := forBays bays (loadBay m l g) s
  endLoad 0 0 0 (updLdr (fun r => { r with images := r.images ++ [img], meas := meas }) s)

/-- An uncorrectable sector the loader met is counted (R288). -/
def loadUe (a : Option Nat) (s : State) : State :=
  match a with
  | some a => sectorUe a 4 s
  | none => s

/-- The head and the section table as the loader reads them (R285, R288). -/
def headReads (s : State) : List Nat :=
  let m := Img.at s s.ldr.loadAddr
  rangeWords m.base (if inBands m.base m.size ∧ 64 + 32 * m.nsec ≤ m.size then 64 + 32 * m.nsec else 64)

/-- What the loader reads behind the head: the contents of the sections, and the binding table. -/
def bodyReads (s : State) : List Nat :=
  let m := Img.at s s.ldr.loadAddr
  let l := m.secs s
  match m.step2 s with
  | some _ => []
  | none =>
    (l.filter (fun x => decide (x.off + x.len ≤ m.size))).flatMap (fun x => rangeWords (m.base + x.off) x.len) ++
      (if m.step3 s l = none ∧ step4 l = none ∧ inBands s.ldr.loadBind (16 * (m.all s l 5).length) then
        rangeWords s.ldr.loadBind (16 * (m.all s l 5).length) else [])

/-- The staged image is read with the symbol errors met in it (R285 to R288). -/
def imageRead (ev : CodeEvent) (s : State) : State :=
  let s := readIn ev (headReads s) s
  let s := readIn ev (bodyReads s) s
  traffic (wordSpans (headReads s ++ bodyReads s)) [] s

/-- A LOAD ends: every check is made of the image as it is read, and of step 1 again for the bays its head then names, and the
bays are written, or the first failure is reported (R35, R232). -/
def endLoading (s : State) : State :=
  let m := Img.at s s.ldr.loadAddr
  if BitVec.ofNat 12 m.bays &&& loadedMask s ≠ 0#12 then endLoad 1 0 0 s
  else
    match m.fails s with
    | some f => endLoad f.status f.sec f.ix (loadUe f.ue s)
    | none => finishLoading m s

/-- An address in every scratchpad page a SPAD section writes. -/
def Sec.pages (x : Sec) : List Nat :=
  if x.ty = 4 ∧ x.len ≠ 0 then
    (List.range (x.len / 4096 + 2)).map (fun i => spadBase x.bay + min (x.dest + 4096 * i) (x.dest + x.len - 1))
  else []

/-- A LOAD that writes a page under repair waits (R248). -/
def loadWaits (s : State) : Bool := underRepair s (((Img.at s s.ldr.loadAddr).secs s).flatMap Sec.pages)

/-- LOAD_COMPLETE: the loader has read the image the LOAD was given; none while the steward firmware has stopped (R251), and
none in Gong, in which scratchpad data stay as they stood (R431). (DEDUCED, log 101) -/
def execLoadComplete (ev : CodeEvent) (s : State) : Host.Outcome State Fault Refusal :=
  .next
    (if alive s && s.ldr.loading && !s.trust.stewardDown && !loadWaits s && !ahead s (wordSpans (headReads s ++ bodyReads s)) [] then endLoading (imageRead ev s) else s)

/-- A bay without its image: streams reset, memories and descriptors zeroed (R233). -/
def unloadBay (b : Bay) (s : State) : State :=
  let s := resetStream b .x (resetStream b .a s)
  s.updBay b (fun x =>
    { x with
      a := { x.a with imem := [], dmem := [] }, x := { x.x with imem := [], dmem := [] }, desc := [], routines := []
      prot := x.prot.reloaded })

/-- UNLOAD with no LOAD in progress (R233). -/
def unload (s : State) : State :=
  let m := s.ldr.unloadMask
  if !baysStill s m.toNat then endLoad 11 0 0 s
  else if !(s.ldr.images.any (fun i => i.bays == m)) then endLoad 2 0 0 s
  else
    let s := forBays m unloadBay s
    endLoad 0 0 0 (updLdr (fun l => { l with images := l.images.filter (fun i => i.bays != m) }) s)

/-- OD_UNLOAD. -/
def execOdUnload (s : State) : Host.Outcome State Fault Refusal :=
  .next (applyOd 0x2160 3 (fun n => n == 2)
    (fun _ _ => okOd (fun s =>
      if s.ldr.loading then updLdr (fun l => { l with busyShown := true }) s else unload s)) s)

/-! ### Launch (R234, R235) -/

/-- Fields of a launch object. -/
structure LaunchObj where
  bays : Nat
  release : Nat
  hwBase : Nat
  hwCount : Nat

def LaunchObj.ofBytes (v : List Byte) : LaunchObj :=
  { bays := fieldAt v 2 2, release := fieldAt v 8 8, hwBase := fieldAt v 16 8, hwCount := fieldAt v 24 4 }

/-- The object is well-formed. (DEDUCED, log 102) -/
def launchOk (v : List Byte) : Bool :=
  let o := LaunchObj.ofBytes v
  fieldAt v 0 1 == 1 && fieldAt v 1 1 == 0 && fieldAt v 4 4 == 0 && fieldAt v 28 4 == 0 && decide (o.bays < 4096) &&
    decide (o.release < 2 ^ 48) && o.hwBase % 64 == 0 && decide (1 ≤ o.hwCount)

/-- The code of a launch (R234, R235). -/
def launchCode (s : State) (v : List Byte) : Nat :=
  let o := LaunchObj.ofBytes v
  let m := BitVec.ofNat 12 o.bays
  if !launchOk v then 3
  else if !(s.ldr.images.any (fun i => i.bays == m)) then 1
  else if (List.finRange 12).any (fun b => m.getLsbD b && ((s.strm b .a).status != .idle || (s.strm b .x).status != .idle)) then 2
  else if !inBands o.hwBase (64 * o.hwCount) then 4
  else 0

/-- A stream of a launched image: PC 0, counters, comparators and stacks cleared, waiting for the release beat (R196,
R235). -/
def Stream.launch (x : Stream) (mask : BayMask) (beat : W32) : Stream :=
  { x with
    pc := 0#15, ctr := Vector.replicate 16 0#32, cmp := 0#8, loops := [], calls := [], frame := none, status := .wait
    fault := 0#8, fpc := 0#15, wait := some ⟨.beat, 0, 0, .programRelease mask, beat⟩ }

/-- A bay of a launched image: local flags cleared, queues emptied. (DEDUCED, log 29) -/
def launchBay (mask : BayMask) (beat : W32) (b : Bay) (s : State) : State :=
  s.updBay b (fun x =>
    { x.dropQueues with a := x.a.launch mask beat, x := x.x.launch mask beat, flags := 0#64, flagBusy := 0#64 })

/-- The window a launch gives its image (R222). -/
def Image.windowed (i : Image) (mask : BayMask) (o : LaunchObj) : Image :=
  if i.bays = mask then { i with hwBase := o.hwBase, hwCount := o.hwCount } else i

/-- An accepted launch takes effect (R235). -/
def launch (o : LaunchObj) (s : State) : State :=
  let m := BitVec.ofNat 12 o.bays
  let s := forBays m (launchBay m (BitVec.ofNat 32 o.release)) s
  updLdr (fun l =>
    { l with
      images := l.images.map (fun i => i.windowed m o)
      launches := l.launches.filter (fun k => k.bays &&& m == 0#12) ++ [⟨m, BitVec.ofNat 48 o.release⟩] }) s

/-- OD_LAUNCH. -/
def execOdLaunch (s : State) : Host.Outcome State Fault Refusal :=
  .next (applyOd 0x2170 1 (fun _ => true)
    (fun q _ => okOd (fun s =>
      let k := launchCode s q.value
      let s := updLdr (fun l => { l with launchCode := BitVec.ofNat 8 k }) s
      if k = 0 then launch (LaunchObj.ofBytes q.value) s else s)) s)

end Sys2Proof.Machine
end

