-- ==== Sys2Proof/Machine/Stack.lean ====
section
/-! DEFINITION. Memory controllers of the stacks: requests, refresh, patrol scrub, temperatures (R281 to R300). -/

namespace Sys2Proof.Machine

/-! ### Requests (R289 to R291) -/

/-- The range lies in a region of band 127. -/
def inRegion (base size a len : Nat) : Bool := decide (base ≤ a) && decide (a + len ≤ base + size)

/-- Band 127 is reached only in its two regions: the context parameter area by the header unit, the steward firmware and Tide,
the record ring by the record/replay unit; and by the patrol (R281). (DEDUCED, log 63) -/
def bandOk (req a len : Nat) : Bool :=
  inBands a len || req == 8 || (req == 2 && inRegion ringBase 0x20000000 a len) ||
    ((req == 1 || req == 4 || req == 7) && inRegion paramBase 0x800000 a len)

/-- MEM_REQUEST_ARRIVE: a request of the requester numbered in R289 takes one tracker entry per sector, and waits where none
is free; an address that maps to no memory stops the block (R281, R289). (DESIGN CHOICE, log 62) -/
def execMemRequestArrive (ms : Stk) (req : Nat) (src : Bay) (addr len : Nat) (data : Option (List Byte)) (s : State) :
    Host.Outcome State Fault Refusal :=
  if stackEnd < addr + len then .fault (.noMemory addr)
  else
    .next
      (let l := splitReq req src addr len data
       let here := l.all (fun q => (placeOf s q.addr).1 == ms.val)
       let shape := decide (1 ≤ req) && decide (req ≤ 8) && decide (1 ≤ len) && (match data with
         | some d => d.length == len
         | none => true)
       if clocked s && shape && here && bandOk req addr len then updStack ms (fun k => k.takeIn s l) s else s)

/-- The pending requests of a pseudo-channel that no older request of the stack holds back (R290), oldest first. -/
def eligible (s : State) (c : Nat) : List MemReq → List MemReq → List MemReq
  | _, [] => []
  | before, q :: r =>
    if q.served = false ∧ q.chan s = c ∧ before.all (fun p => !p.overlaps q) then
      q :: eligible s c (before ++ [q]) r
    else eligible s c (if q.served then before else before ++ [q]) r

/-- The request served next: one that has waited 512 cy, else a row hit, else the oldest (R291). -/
def nextServed (s : State) (k : Stack) (c : Nat) : Option MemReq :=
  let l := eligible s c [] k.reqs
  match l.find? (fun q => decide (512 ≤ q.age)) with
  | some q => some q
  | none =>
    match l.find? (rowOpen s k) with
    | some q => some q
    | none => l.head?

/-- The request reads its sector: a read, or a write that does not cover it (R287). -/
def MemReq.reads (q : MemReq) : Bool := q.data.isNone || q.len != 64

/-- A request is served: its sector is read with the symbol errors met, a read keeps what it finds then, a write lands (R285,
R287, R290). -/
def serveReq (ms : Stk) (q : MemReq) (errs : List SectorErr) (s : State) : State :=
  landReq ms q q.data (if q.reads then readSectors errs [q.addr] s else s)

/-- MEM_REQUEST_SERVE: a pseudo-channel serves its next request (R287, R290, R291). -/
def execMemRequestServe (ms : Stk) (pc : Fin 32) (errs : List SectorErr) (s : State) :
    Host.Outcome State Fault Refusal :=
  .next
    (match nextServed s (s.stack ms) pc with
     | some q => if clocked s then serveReq ms q errs s else s
     | none => s)

/-- Tide reads the address as a stream opens: the context parameter area, or the key directory of a READY context (R97,
R281). -/
def openingRead (s : State) (a : Nat) : Bool :=
  inRegion paramBase 0x800000 a 1 ||
    s.hdr.ctx.any (fun e => e.2.isReady && inRegion e.2.dirAddr (32 + 32 * e.2.dcount) a 1)

/-- What an uncorrectable read does to its requester: a transfer channel or Tide's key reader halts (R288). -/
def readFails (ms : Stk) (q : MemReq) (s : State) : State :=
  let s := sectorUe q.addr q.req s
  if q.req = 5 then haltChannel q.src 0x42 s
  else if q.req = 6 then haltChannel ms 0x42 s
  else if q.req = 7 ∧ openingRead s q.addr = false then haltTide ms s
  else s

/-- MEM_READ_RETURN: the oldest read of a requester, once served, returns what was found then; an uncorrectable sector has the
outcome of R288 (R286 to R290). -/
def execMemReadReturn (ms : Stk) (req : Nat) (src : Bay) (s : State) : Host.Outcome State Fault Refusal :=
  .next
    (match (s.stack ms).reqs.find? (fun q => q.req == req && q.src == src && q.data.isNone) with
     | some q =>
       if clocked s && q.served then
         let s := updStack ms (fun k => { k with reqs := putReq q none k.reqs }.unblock s) s
         if q.got.isNone then readFails ms q s else s
       else s
     | none => s)

/-! ### Refresh (R292, R293) -/

/-- The bank is refreshed at the position: one in four, in hot refresh one in two. -/
def Stack.refreshes (k : Stack) (p c b : Nat) : Bool :=
  if k.hot then (b + c) % 2 == p % 2 else (b + c) % 4 == p % 4

/-- DRAM_REFRESH: at an expected position each scheduled bank's row counter advances by 8 (R292). -/
def execDramRefresh (ms : Stk) (s : State) : Host.Outcome State Fault Refusal :=
  .next
    (if clocked s && (s.stack ms).refreshedAt != some s.beat.pos then
       updStack ms (fun k =>
         { k with
           refreshedAt := some s.beat.pos
           rowCtr := Sparse.tab (fun _ => 0) (fun i =>
             let v := Sparse.get (fun _ => 0) k.rowCtr i
             if k.refreshes s.beat.pos (i / 32) (i % 32) then (v + 8) % 65536 else v) 0 1024 }) s
     else s)

/-- HOT_REFRESH_ENTER: a stack that has reached 85 °C enters hot refresh at its next position with p mod 4 = 0 (R293, R298). -/
def execHotRefreshEnter (ms : Stk) (s : State) : Host.Outcome State Fault Refusal :=
  .next
    (match (s.stack ms).hotDue with
     | true :: r =>
       if atEdge s && s.beat.pos % 4 == 0 then throttle 3 ms 0 (updStack ms (fun k => { k with hot := true, hotDue := r }) s) else s
     | _ => s)

/-- HOT_REFRESH_LEAVE: a stack that has fallen below 83 °C leaves hot refresh in the same way (R293, R298). -/
def execHotRefreshLeave (ms : Stk) (s : State) : Host.Outcome State Fault Refusal :=
  .next
    (match (s.stack ms).hotDue with
     | false :: r =>
       if atEdge s && s.beat.pos % 4 == 0 then throttle 3 ms 0 (updStack ms (fun k => { k with hot := false, hotDue := r }) s)
       else s
     | _ => s)

/-! ### Patrol scrub (R294) -/

/-- Device address of a stack offset: the inverse of R283 and R284. -/
def addrOf (s : State) (n o : Nat) : Nat :=
  let band := o / 2 ^ 30
  if bandSpread s band then
    let k := o % 2 ^ 30 / 4096 * 12 + n
    k / 262144 * winSize + band * 2 ^ 30 + k % 262144 * 4096 + o % 4096
  else n * winSize + o

/-- Stack offset of a sector from its pseudo-channel, bank, row and column: the inverse of R283. -/
def offsetOf (c bk row col : Nat) : Nat := 64 * (c + 32 * col + 1024 * (bk ^^^ (row % 32)) + 32768 * row)

/-- Device addresses of the 32 sectors of a patrol position: row ascending within a bank, then bank. -/
def patrolRow (s : State) (n c k : Nat) : List Nat :=
  (List.range 32).map (fun col => addrOf s n (offsetOf c (k / 65536) (k % 65536) col))

/-- Rows of a patrol lap. -/
def patrolRows : Nat := 2097152

/-- A stack after a patrol step: write-backs done, the position advanced, a finished lap recorded (R294, R299). -/
def Stack.patrolled (k : Stack) (c pos : Nat) : Stack :=
  let p := Sparse.get (fun _ => 0) k.patrol c + 1
  let k := { k with wbq := k.wbq.filter (fun e => e.1 != c), patrol := Sparse.set (fun _ => 0) k.patrol c (p % patrolRows) }
  if p = patrolRows then
    { k with
      laps := Sparse.set (fun _ => 0) k.laps c (satAdd 32 (Sparse.get (fun _ => 0) k.laps c) 1)
      lapLen := Sparse.set (fun _ => 0) k.lapLen c (min 0xFFFFFFFF (pos - Sparse.get (fun _ => 0) k.lapStart c))
      lapStart := Sparse.set (fun _ => 0) k.lapStart c pos }
  else k

/-- The patrol reports an uncorrectable sector: counted, with fault 0x71 (R288). -/
def patrolUe (a : Nat) (s : State) : State :=
  let s := countFault 0x71 15 3 (sectorUe a 8 s)
  { s with codes := { s.codes with scrubUe := satAdd 32 s.codes.scrubUe 1 } }

/-- A sector of the row with the symbol errors met: corrected and written back at once, or left uncorrectable (R294). -/
def patrolRead (e : SectorErr) (s : State) : State :=
  let a := e.sec * 64
  if s.ms.badSectors.contains a then s
  else
    match secDecode (errPattern e) with
    | .report => sectorSpoil a s
    | .unseen => if (errPattern e).isEmpty then s else sectorPut a (symApply (errPattern e) (s.ld a 64)) s
    | .correct f =>
      let s := sectorPut a (symApply f (symApply (errPattern e) (s.ld a 64))) s
      { s with codes := { s.codes with secCorr := satAdd 64 s.codes.secCorr 1 } }

/-- The sectors of a row whose symbol errors are corrected as it is read. -/
def patrolFixes (l : List Nat) (errs : List SectorErr) (s : State) : List Nat :=
  (errs.filter (fun e => l.contains (e.sec * 64) && !s.ms.badSectors.contains (e.sec * 64) &&
    (match secDecode (errPattern e) with
     | .correct _ => true
     | _ => false))).map (fun e => e.sec * 64)

/-- The row is read under the symbol errors named, the sectors corrected are written back at once, and every sector then
uncorrectable is reported; the stack counts it (R287, R288, R294, R299). -/
def patrolScan (l : List Nat) (errs : List SectorErr) (s : State) : State :=
  let s := traffic (l.map (fun a => (a, 64))) ((patrolFixes l errs s).map (fun a => (a, 64))) s
  let s := errs.foldl (fun s e => if l.contains (e.sec * 64) then patrolRead e s else s) s
  (l.filter (byteBad s)).foldl (fun (s : State) (a : Nat) => patrolUe a s) s

/-- A pseudo-channel has had its scrub opportunity of the position (R294, R302). -/
def Stack.scrubbedAt (k : Stack) (pc : Fin 32) (pos : Nat) : Bool := Sparse.get (fun _ => 0) k.scrubAt pc == pos + 1

/-- PATROL_SCRUB: a pseudo-channel's scrub opportunity of the expected position: with no request waiting it writes back its
queue and scrubs its next row, else the opportunity is not taken (R294, R302). (DESIGN CHOICE, log 64) -/
def execPatrolScrub (ms : Stk) (pc : Fin 32) (errs : List SectorErr) (s : State) : Host.Outcome State Fault Refusal :=
  .next
    (if clocked s && s.codes.patrolOn && !(s.stack ms).scrubbedAt pc s.beat.pos then
       let s := updStack ms (fun k => { k with scrubAt := Sparse.set (fun _ => 0) k.scrubAt pc (s.beat.pos + 1) }) s
       if (inChan s (s.stack ms) pc).any (fun q => !q.served) then
         updStack ms (fun k => { k with missed := satAdd 64 k.missed 1 }) s
       else
         let l := patrolRow s ms pc (Sparse.get (fun _ => 0) (s.stack ms).patrol pc)
         let wbs := ((s.stack ms).wbq.filter (fun e => e.1 == pc.val)).map (fun e => (e.2, 64))
         patrolScan l errs (traffic [] wbs (updStack ms (fun k => k.patrolled pc s.beat.pos) s))
     else s)

/-! ### Temperature and throttling (R296 to R298) -/

/-- The zone of a stack temperature that moves its cap: 1 lowers, 2 raises. -/
def capZone (t : Int) : Nat := if deg 95 ≤ t then 1 else if t ≤ deg 90 then 2 else 0

/-- The stack is in hot refresh once what waits for its position has taken place (R293). -/
def Stack.hotAhead (k : Stack) : Bool := k.hotDue.getLast?.getD k.hot

/-- A temperature that reaches 85 °C, or falls below 83 °C, makes the entry into hot refresh, or the exit, due (R293). -/
def Stack.hotNext (k : Stack) (t : Int) : List Bool :=
  if (deg 85 ≤ t ∧ k.hotAhead = false) ∨ (t < deg 83 ∧ k.hotAhead = true) then k.hotDue ++ [!k.hotAhead] else k.hotDue

/-- A stack after its temperature is read (R293, R296, R297). -/
def Stack.read (k : Stack) (t : Int) : Stack :=
  { k with
    temp := t
    hotDue := k.hotNext t
    capSince := if capZone t = 0 then 0 else if capZone t = capZone k.temp then k.capSince + 1 else 1
    hotBt := if deg 105 ≤ t ∧ k.cap = 0 then k.hotBt + 1 else 0 }

/-- STACK_TEMP_READ: once per expected position, the stack temperature is the largest of the sixteen die readings (R296,
R302). -/
def execStackTempRead (ms : Stk) (dies : Vector Int 16) (s : State) : Host.Outcome State Fault Refusal :=
  .next
    (if clocked s && (s.stack ms).readAt != some s.beat.pos then
       updStack ms (fun k => { k.read (dies.toList.foldl max dies[0]) with readAt := some s.beat.pos }) s
     else s)

/-- A stack cap takes the value due at this edge (R297). -/
def moveCap (ms : Stk) (s : State) : State := updStack ms (fun k => { k with cap := k.capDue }) s

/-- STACK_CAP_LOWER: at or above 95 °C the cap falls one step every 4 bt, down to 0; the bay's step has followed at the edge
(R297, R413). -/
def execStackCapLower (ms : Stk) (s : State) : Host.Outcome State Fault Refusal :=
  .next (if atEdge s && decide ((s.stack ms).capDue < (s.stack ms).cap) then moveCap ms s else s)

/-- STACK_CAP_RAISE: at or below 90 °C the cap rises one step every 64 bt, up to 15 (R297, R413). -/
def execStackCapRaise (ms : Stk) (s : State) : Host.Outcome State Fault Refusal :=
  .next (if atEdge s && decide ((s.stack ms).cap < (s.stack ms).capDue) then moveCap ms s else s)

/-- ACT_LIMIT_SET: at or above 105 °C activations are limited (R297, R298). -/
def execActLimitSet (ms : Stk) (s : State) : Host.Outcome State Fault Refusal :=
  .next
    (if clocked s && decide (deg 105 ≤ (s.stack ms).temp) && !(s.stack ms).actLimit then
       throttle 4 ms 0 (updStack ms (fun k => { k with actLimit := true }) s)
     else s)

/-- ACT_LIMIT_LIFT: below 103 °C the limit lifts (R297, R298). -/
def execActLimitLift (ms : Stk) (s : State) : Host.Outcome State Fault Refusal :=
  .next
    (if clocked s && decide ((s.stack ms).temp < deg 103) && (s.stack ms).actLimit then
       throttle 4 ms 0 (updStack ms (fun k => { k with actLimit := false }) s)
     else s)

/-- STACK_THERM_FAULT: 105 °C for 64 consecutive bt with the cap at 0 raises Gong 0x61 (R297, R430). -/
def execStackThermFault (ms : Stk) (s : State) : Host.Outcome State Fault Refusal :=
  .next
    (if clocked s && decide (64 ≤ (s.stack ms).hotBt) then
       gong 0x61 15 (updStack ms (fun k => { k with hotBt := 0 }) s)
     else s)

/-! ### Zeroing (R282, R300) -/

/-- BAND_ZERO_COMPLETE: the last changed band is zeroed and held frames and loads may proceed (R282). -/
def execBandZeroComplete (s : State) : Host.Outcome State Fault Refusal :=
  .next (if clocked s && !s.ms.zeroing.isEmpty then { s with ms := { s.ms with zeroing := [] } } else s)

/-- STACK_INIT_COMPLETE: every stack is written with zeros (R300). -/
def execStackInitComplete (s : State) : Host.Outcome State Fault Refusal :=
  .next (if clocked s && s.ms.stackInit then { s with ms := { s.ms with stackInit := false } } else s)

end Sys2Proof.Machine
end

