-- ==== Sys2Proof/Machine/Scrub.lean ====
section
/-! DEFINITION. Page repairs, corrected words, the bay scrubbers, re-encoding and initialisation of the on-die memories (R242 to R255). -/

namespace Sys2Proof.Machine

/-- Counts a repaired page (R254). -/
def Codes.repaired (c : Codes) (page : Nat) : Codes :=
  if page < pagesSpad then { c with spadPages := satAdd 64 c.spadPages 1 } else { c with keyPages := satAdd 64 c.keyPages 1 }

/-- The words of a page that hold their number in the page. -/
def pageWordsOf (g : Nat) (l : List Nat) : List Nat := ((l.filter (fun k => decide (k < 512))).map (fun k => 512 * g + k)).eraseDups

/-- Symbols of the page code in which two words differ. -/
def symsApart (v w : BitVec 64) : Nat := ((wordSyms v).zip (wordSyms w)).countP (fun p => p.1 != p.2)

/-- The words a page's read names as wrong stand so in the page (R242). -/
def misreadPage (b : Bay) (g : Nat) (rd : PageRead) (s : State) : State :=
  rd.wrong.foldl (fun (s : State) e => if e.1 < 512 then misread b (512 * g + e.1) e.2 s else s) s

/-- The words of a page reported uncorrectable: those a request met and those the read of the page reports, not the
known-bad ones (R246). -/
def failing (p : Prot) (r : Repair) (rd : PageRead) : List Nat :=
  (((r.words.filter (fun w => w / 512 == r.page)) ++ pageWordsOf r.page rd.ue).eraseDups).filter (fun w => !p.bad.contains w)

/-- The page code's measure of a page, 4w + 2t: `l` are the words reported uncorrectable (R246). -/
def pageLoad (b : Bay) (g : Nat) (l : List Nat) (rd : PageRead) (s : State) : Nat :=
  let t := ((s.bay b).prot.silent.filter (fun e => e.1 / 512 == g && !l.contains e.1)).map
    (fun e => symsApart e.2 (wordOf b e.1 s))
  4 * (l.length + min 8 rd.parUe) + 2 * (t.foldl (· + ·) 0 + rd.parWrong)

/-- The parity line of a page computed afresh (R248). -/
def reparity (b : Bay) (g : Nat) (s : State) : State :=
  updProt b (fun p => p.setParity g (parityOf (s.codes.pageP g) (p.pageWritten s.mem (s.bay b).keyBuf b g))) s

/-- A decoded page: every silently wrong word holds what was written again (R246, R248). -/
def pageRestored (b : Bay) (g : Nat) (s : State) : State :=
  let l := (s.bay b).prot.silent.filter (fun e => e.1 / 512 == g)
  let s := l.foldl (fun (s : State) e => putWord b e.1 e.2 s) s
  let s := updProt b (fun p => { p with silent := p.silent.filter (fun e => e.1 / 512 != g) }) s
  reparity b g { s with codes := s.codes.repaired g }

/-- A page that did not decode: the words reported uncorrectable become known-bad and store 0, the others stand as they
read, and the parity line is computed from that (R247, R248). -/
def pageFailed (b : Bay) (g : Nat) (l : List Nat) (s : State) : State :=
  let s := l.foldl (fun (s : State) w => putWord b w 0#64 s) s
  reparity b g (updProt b (fun p =>
    { p with bad := p.bad ++ l, silent := p.silent.filter (fun e => e.1 / 512 != g) }) s)

/-- First failing word of a page as R453 names it: a data word, else one of the parity line. -/
def uePageFail (b : Bay) (g : Nat) (l : List Nat) (s : State) : State :=
  match l with
  | w :: _ => uePage b w s
  | [] => if g < pagesSpad then ueAt 1 b (spadSize + 64 * g) s else ueAt 2 b (0x800000 + 64 * (g - pagesSpad)) s

/-- A scrub repair that fails posts SCRUB_UE (R252). -/
def scrubUe (b : Bay) (g : Nat) (l : List Nat) (s : State) : State :=
  let s := countFault 0x71 b 3 (uePageFail b g l s)
  { s with codes := { s.codes with scrubUe := satAdd 32 s.codes.scrubUe 1 } }

/-- A page repair decodes what it read: restored where 4w + 2t ≤ P, else its failing words become known-bad (R246, R248,
R252). (DEDUCED, log 138) -/
def repairPage (b : Bay) (r : Repair) (rd : PageRead) (s : State) : State :=
  let s := misreadPage b r.page rd s
  let l := failing (s.bay b).prot r rd
  if pageLoad b r.page l rd s ≤ s.codes.pageP r.page then pageRestored b r.page s
  else if r.scrub then scrubUe b r.page l (pageFailed b r.page l s)
  else pageFailed b r.page l s

/-- PAGE_REPAIR_START: the repair unit takes the next waiting request, in order of arrival (R248). -/
def execPageRepairStart (b : Bay) (s : State) : Host.Outcome State Fault Refusal :=
  .next
    (match (s.bay b).prot.repairs, (s.bay b).prot.repairing with
     | r :: l, none => if alive s then updProt b (fun p => { p with repairs := l, repairing := some r }) s else s
     | _, _ => s)

/-- PAGE_REPAIR_COMPLETE: the page is repaired, or its failing words become known-bad; requests that waited for the same page
have their data or their outcome with it (R248, R252). -/
def execPageRepairComplete (b : Bay) (rd : PageRead) (s : State) : Host.Outcome State Fault Refusal :=
  .next
    (match (s.bay b).prot.repairing with
     | some r =>
       if alive s then
         repairPage b r rd (updProt b (fun p =>
           { p with repairing := none, repairs := p.repairs.filter (fun q => q.page != r.page) }) s)
       else s
     | none => s)

/-- The Ids of R242, in ascending order. -/
def bayIds : List Nat := [1, 2, 3, 4, 0x10, 0x11, 0x12, 0x13, 0x14, 0x15]
def dieIds : List Nat := [0x20, 0x21, 0x22, 0x23, 0x24]

/-- The small memories a bay's scrubber walks after its pages; B0 walks the die-wide ones too (R252). -/
def smallIds (b : Bay) : List Nat := bayIds.drop 2 ++ (if b.val = 0 then dieIds else [])

/-- Memories some of whose reads carry no code event of their own: a fetch, the descriptor of an instruction, the words of
XF.DNEW, and the die-wide memories. -/
def eventless : List Nat := [0x10, 0x11, 0x12] ++ dieIds

/-- CORRECTED_WRITEBACK: the oldest corrected word or byte of a memory that no write superseded is written back; what the
memory reads as does not change; the die-wide memories count under B0. With an offset, the byte is one that a read without a code
event of its own corrected, which counts here (R243). (DESIGN CHOICE, log 162) -/
def execCorrectedWriteback (b : Bay) (id : Byte) (met : Option Nat) (s : State) : Host.Outcome State Fault Refusal :=
  .next
    (if clocked s then
       match met with
       | some _ => if eventless.contains id.toNat then { s with codes := s.codes.corrected id.toNat } else s
       | none =>
         updProt b (fun p =>
           match p.wbs.find? (fun e => e.1 == id.toNat) with
           | some e => { p with wbs := p.wbs.erase e }
           | none => p) s
     else s)

/-- Steps of a lap. -/
def lapSteps (b : Bay) : Nat := allPages + (smallIds b).length

/-- The scrubber after a step: the next position, and at the lap's end its duration (R253). -/
def Prot.scrubbed (p : Prot) (b : Bay) (pos : Nat) : Prot :=
  if p.scrubPos + 1 < lapSteps b then { p with scrubPos := p.scrubPos + 1 }
  else
    { p with
      scrubPos := 0, lapStart := pos, lapLen := some (min 0xFFFFFFFF (pos - p.lapStart)), laps := satAdd 32 p.laps 1 }

/-- The page's syndrome is nonzero: a word stands wrong, or its parity line is in error (R252). -/
def syndromeBad (p : Prot) (g : Nat) (rd : PageRead) : Bool :=
  p.silent.any (fun e => e.1 / 512 == g) || decide (0 < rd.parUe) || decide (0 < rd.parWrong)

/-- Corrected units of a scrub check: counted, and written back in an idle cy (R252). -/
def scrubFixed (id : Nat) (l : List Nat) (s : State) : State :=
  l.foldl (fun (s : State) _ => { s with codes := s.codes.corrected id }) s

/-- A check of a page: single-bit errors are corrected, and a repair waits where a word is uncorrectable or the page's
syndrome is nonzero (R252). -/
def scrubPage (b : Bay) (g : Nat) (rd : PageRead) (s : State) : State :=
  let s := misreadPage b g rd (scrubFixed (if g < pagesSpad then 1 else 2) (pageWordsOf g rd.fixed) s)
  let l := failing (s.bay b).prot ⟨g, [], true, true⟩ rd
  if (l.isEmpty && !syndromeBad (s.bay b).prot g rd) || (s.bay b).prot.repairs.any (fun r => r.page == g) then s
  else updProt b (fun p => { p with repairs := p.repairs ++ [⟨g, l, true, true⟩] }) s

/-- The memories whose uncorrectable bytes stay so until they are written: those that streams, the OD, the big-number engine and
the steward core read. -/
def bayKept : List Nat := [0x10, 0x11, 0x12]
def dieKept : List Nat := [0x22, 0x23, 0x24]

/-- A byte of a small memory stays uncorrectable. -/
def smallSpoil (b : Bay) (id off : Nat) (s : State) : State :=
  if bayKept.contains id then
    updProt b (fun p => { p with smallBad := if p.smallBad.contains (id, off) then p.smallBad else p.smallBad ++ [(id, off)] }) s
  else if dieKept.contains id then dieSpoil id off s
  else s

/-- A byte of IMEM reads as another value. -/
def Stream.slipImem (x : Stream) (off : Nat) (v : Byte) : Stream :=
  let i := off % 0x40000 / 8
  { x with
    imem := Sparse.set (fun _ => 0#64) x.imem i
      (BitVec.ofNat 64 (byteOver (Sparse.get (fun _ => 0#64) x.imem i).toNat (off % 8) v)) }

/-- Bytes of a unit at an offset, the words of the ring NTT accumulators apart from the records of their memory. -/
def slipSize (id off : Nat) : Nat := if id = 4 then (if off < 0x1000000 then 12 else 8) else if id = 0x13 ∧ 0x20000 ≤ off then 4 else unitSize id

/-- A byte of a bay's small memory has come to pass its code as another value, and is delivered so from now on (R242). -/
def Bays.slip (x : Bays) (map : BitVec 108) (b : Bay) (id off : Nat) (v : Byte) : Bays :=
  if id = 0x10 then (if off < 0x40000 then { x with a := x.a.slipImem off v } else { x with x := x.x.slipImem off v })
  else if id = 0x12 then
    let d := (Sparse.get (fun _ => none) x.desc (off / 64)).map (fun d => d.withByte (off % 64) v)
    { x with desc := Sparse.set (fun _ => none) x.desc (off / 64) d }
  else
    let n := slipSize id off
    let u := off / n * n
    x.putUnit map b id u (byteOver (x.unit map b id u) (off - u) v)

/-- A byte of a memory of R242 with the byte or word code passes it as another value: of the die-wide memories an entry of the
context table, an operand word and the steward memory; the others' bytes are given as they are read. (DEDUCED, log 139) -/
def slipAt (b : Bay) (id off : Nat) (v : Byte) (s : State) : State :=
  if id = 0x20 then (if off < 0x400000 then putCtxByte (Fin.ofNat 16384 (off / 256)) (Fin.ofNat 256 off) v s else s)
  else if id = 0x23 then
    let i : Fin 64 := Fin.ofNat 64 (off / 512)
    let x := s.bn.slots[i]
    let k := off % 512 / 8
    let w := BitVec.ofNat 64 (byteOver (Sparse.get (fun _ => 0#64) x.words k).toNat (off % 8) v)
    let x' := { x with words := Sparse.set (fun _ => 0#64) x.words k w }
    { s with bn := { s.bn with slots := s.bn.slots.set i x' } }
  else if id = 0x24 then
    let w := if off < s.trust.steward.length then s.trust.steward.set off v else s.trust.steward
    { s with trust := { s.trust with steward := w } }
  else if id < 0x20 then s.setBay b ((s.bay b).slip s.trust.mapNow b id off v)
  else s

/-- A check of a small memory: corrected bytes are counted, uncorrectable ones counted and left so, and those that pass wrong
stand so (R242). (DEDUCED, log 139) -/
def scrubSmall (b : Bay) (id : Nat) (rd : PageRead) (s : State) : State :=
  let s := rd.wrong.foldl (fun (s : State) e => slipAt b id e.1 (e.2.setWidth 8) s) s
  rd.ue.foldl (fun (s : State) off => smallSpoil b id off (ueAt id (if 0x20 ≤ id then 15 else b) off s))
    (scrubFixed id rd.fixed s)

/-- SCRUB_STEP: the scrubber checks its next page or small memory; a page under repair it waits for (R248, R252, R253). -/
def execScrubStep (b : Bay) (rd : PageRead) (s : State) : Host.Outcome State Fault Refusal :=
  .next
    (let k := (s.bay b).prot.scrubPos
     if alive s && s.codes.scrubOn && !(s.bay b).prot.repairs? k then
       let s := updProt b (fun p => p.scrubbed b s.beat.pos) s
       if k < allPages then scrubPage b k rd s
       else
         match (smallIds b)[k - allPages]? with
         | some id => scrubSmall b id rd s
         | none => s
     else s)

/-- A bay's protection once every page carries the parity of the strength now set (R250). -/
def Prot.reencoded (p : Prot) (c : Codes) (m : List Host.Cell) (kb : Sparse W32) (n : Nat) : Prot :=
  { p with par := Sparse.tab (fun _ => ParLine.zero) (fun g => parityOf (c.pageP g) (p.pageWritten m kb n g)) 0 allPages }

/-- REENCODE_COMPLETE: every bay has re-encoded its pages at the strengths set (R250). (DEDUCED, log 140) -/
def execReencodeComplete (s : State) : Host.Outcome State Fault Refusal :=
  .next
    (if alive s && s.codes.reenc.isSome then
       let s := { s with
         codes := { s.codes with reenc := none, spadNow := s.codes.spadP, keyNow := s.codes.keyP } }
       s.mapBays (fun b x => { x with prot := x.prot.reencoded s.codes s.mem x.keyBuf b })
     else s)

/-- SCRATCHPAD_INIT_COMPLETE: scratchpads, key buffers and small memories are written with zeros (R255). -/
def execScratchpadInitComplete (s : State) : Host.Outcome State Fault Refusal :=
  .next (if clocked s && s.ms.spadInit then { s with ms := { s.ms with spadInit := false } } else s)

end Sys2Proof.Machine
end

