-- ==== Sys2Proof/Machine/Tmx.lean ====
section
/-! DEFINITION. The test multiplexers: what a group shows, its samples, and the pins (R450). -/

namespace Sys2Proof.Machine

/-- A stream of the bay is HALTED. -/
def bayHalted (x : Bays) : Bool := x.a.status == .halted || x.x.status == .halted

/-- A word with a bit in place. -/
def bitAt (i : Nat) (v : Bool) : Nat := if v then 2 ^ i else 0

/-- Group 1: the time base and the run (R450). -/
def tmxBeat (s : State) : Nat :=
  bitAt 0 (s.tmx.ev.getLsbD 0) + bitAt 1 (s.tmx.ev.getLsbD 1) + s.beat.st.code * 4 + bitAt 5 (s.tmx.ev.getLsbD 2) +
    bitAt 6 (s.tmx.ev.getLsbD 3) + bitAt 7 s.run.isOpen + bitAt 8 s.run.time + s.beatNat % 128 * 512

/-- Group 2: halted bays, Gong, the conditions of THERM_N, throttle events, the link (R450). -/
def tmxStatus (s : State) : Nat :=
  ((List.finRange 12).map (fun b => bitAt b.val (bayHalted s.bays[b]))).sum + bitAt 12 (s.faults.gong != 0#8) +
    bitAt 13 (s.pwr.thermCond (stackMax s)) + bitAt 14 (s.tmx.ev.getLsbD 4) + bitAt 15 (linkUp s)

/-- Group 3: the clocks, each divided down from its cy, high in the second half of a period; the phases are not stated and come
from the draw of the power-on (R412, R450). (DESIGN CHOICE, log 118) -/
def tmxClock (s : State) : Nat :=
  let level := fun (i n half : Nat) => bitAt i ((n + Config.clockPhase s.tmx.seed i) / half % 2 == 1)
  level 0 s.tmx.core 128 + level 1 s.tmx.core 128 + ((List.finRange 12).map (fun b => level (b.val + 2) s.tmx.clk[b] 128)).sum +
    level 14 (2 * s.tmx.core) 320

/-- A sample of a group (R450); the clock group is not sampled. (DESIGN CHOICE, log 118) -/
def tmxSample (g : Nat) (s : State) : BitVec 16 :=
  match g with
  | 0 => 0#16
  | 1 => BitVec.ofNat 16 (tmxBeat s)
  | 2 => BitVec.ofNat 16 (tmxStatus s)
  | 3 => 0#16
  | g => if h : g - 4 < 12 then BitVec.ofNat 16 (s.bays[g - 4].x.pc.toNat + bitAt 15 s.bays[g - 4].x.strobe) else 0#16

/-- The cy ends one of the 16 between two samples. -/
def Tmx.samples (t : Tmx) : Bool := t.phase == 15

/-- The multiplexers one cy later: a sample every 16 cy, its events then gone, and the cy of the bays' clocks. (DESIGN CHOICE,
log 118) -/
def Tmx.step (t : Tmx) (sample : BitVec 16) (cys : Bay → Bool) : Tmx :=
  let t := { t with hold := t.hold - 1, core := (t.core + 1) % 1280, clk := t.clk.mapFinIdx (fun i n h => if cys ⟨i, h⟩ then (n + 1) % 256 else n) }
  if t.samples then { t with out := sample, phase := 0, ev := 0#5 } else { t with phase := t.phase + 1 }

/-- TMX[15:0] as the device drives them: zeros for 16 cy after a change of group, the divided clocks as they stand, else the last
sample (R450). -/
def tmxPins (s : State) : BitVec 16 :=
  if s.tmx.hold ≠ 0 then 0#16 else if s.od.tmxNow = 3 then BitVec.ofNat 16 (tmxClock s) else s.tmx.out

end Sys2Proof.Machine
end

