-- ==== Sys2Proof/Machine/Trust.lean ====
section
/-! DEFINITION. Limited writes and the journal, boot stages, the verification of the steward image, Breakwater fences (R30, R361 to R364, R375 to R386, R389 to R391). -/

namespace Sys2Proof.Machine

/-- Changes the security die. -/
def updTrust (f : Trust → Trust) (s : State) : State := { s with trust := f s.trust }

/-! ### Limited writes (R361 to R363) -/

/-- A limited write begins: the lowest free record is its own; with none left JOURNAL_FULL is answered and nothing burned. The
engine's first pulse starts at once where the input reads 40 V or above, and later where it does not (R363, R424).
(DEDUCED, log 104) -/
def startLimited (entry : Nat) (q : OdReq) (s : State) : State :=
  match freeRecord s.trust with
  | none => finish q 0x0E s
  | some i =>
    let w : Wlim := ⟨q, entry, BitVec.ofNat 256 (leNat q.value), i, false, s.pwr.low == 0⟩
    burnSome { s with od := { s.od with cur := none }, trust := { s.trust with wlim := some w } }

/-- The write of a limited entry, when it is the one being applied. -/
def applyLimited (ix entry : Nat) (s : State) : State :=
  match odTaken ix 1 (fun _ => true) s with
  | some q => startLimited entry q s
  | none => s

/-- OD_SECURITY_VERSION (R384). -/
def execOdSecurityVersion (s : State) : Host.Outcome State Fault Refusal := .next (applyLimited 0x9010 1 s)

/-- OD_OWNER_KEY (R389). -/
def execOdOwnerKey (s : State) : Host.Outcome State Fault Refusal := .next (applyLimited 0x9020 2 s)

/-- OD_TILE_RETIRE (R30). -/
def execOdTileRetire (s : State) : Host.Outcome State Fault Refusal := .next (applyLimited 0x9030 3 s)

/-- OD_DEBUG_CLOSE (R391). -/
def execOdDebugClose (s : State) : Host.Outcome State Fault Refusal := .next (applyLimited 0x9040 4 s)

/-- The record of a burn that read back wrong: some bits beside those burned so far, which is not known, and VOID; no bit is
unburned (R362, R363). (DESIGN CHOICE, log 2) -/
def badRecord (w : Wlim) (s : State) : BitVec 320 := recordAt s.trust w.rcd ||| BitVec.ofNat 320 (freeVal s) ||| 4#320

/-- The limited write ends, and a link-commanded reset that waits for it waits for its response too (R433). -/
def endLimited (w : Wlim) (s : State) : State :=
  { s with
    trust := { s.trust with wlim := none }
    rst := { s.rst with after := if s.rst.link.isSome then some w.req.lseq else s.rst.after } }

/-- The supply lets a pulse end: RUN, or FAIL within its hold-up time (R422). (DEDUCED, log 164) -/
def pulseHeld (s : State) : Bool := s.pwr.st == .run || (s.pwr.st == .fail && s.pwr.regsOn)

/-- The steward firmware reads the journal back and answers: it runs, and FAIL has not been entered (R363, R422). -/
def journalRuns (s : State) : Bool := s.pwr.st == .run && stewardRuns s

/-- The last pulse of an intent can have ended: it began at 40 V or above, and takes at most 20 µs (R424). (DEDUCED, log 164) -/
def intentEnds (w : Wlim) (s : State) : Bool := pulseHeld s && w.pulse && !w.intentDone && decide (s.pwr.low ≤ 20)

/-- The intent is wholly burned (R362). -/
def burnIntent (w : Wlim) (t : Trust) : Trust := t.putRecord w.rcd (recordAt t w.rcd ||| recIntent w.entry w.value)

/-- The intent has been read back as it was burned: the COMMIT pulse begins, at once where the input reads 40 V or above (R363,
R424). -/
def readIntent (w : Wlim) (s : State) : State :=
  { s with trust := { burnIntent w s.trust with wlim := some { w with intentDone := true, pulse := s.pwr.low == 0 } } }

/-- JOURNAL_INTENT_DONE: the last bit of the intent is burned. The firmware reads it back, and where it differs VOID is burned, once
the input reads 40 V or above, and FUSE answered; after a fall of the input into FAIL, or with the firmware stopped, nothing is
read back (R363, R422, R424). (DEDUCED, log 164) -/
def execJournalIntentDone (readBackOk : Bool) (s : State) : Host.Outcome State Fault Refusal :=
  .next
    (match s.trust.wlim with
     | some w =>
       if intentEnds w s then
         if !journalRuns s then updTrust (burnIntent w) s
         else if readBackOk then readIntent w s
         else if s.pwr.low = 0 then
           answer w.req 0x0F (endLimited w (drew 1 (updTrust (fun t => t.putRecord w.rcd (badRecord w s)) s)))
         else s
       else s
     | none => s)

/-- The open sessions an owner-key commit closes at once: every OPERATOR and CUSTODIAN but the writer (R389). -/
def closeOwned (writer : OdReq) (s : State) : State :=
  (List.finRange 4).foldl (fun (s : State) (i : Slot) =>
    if s.sess[i].ph = .opened ∧ s.sess[i].role ≠ 0 ∧ (i ≠ writer.slot ∨ writer.mute = true) then closeSlot i s else s) s

/-- The writing session closes once its response has left (R389). -/
def closeWriter (writer : OdReq) (s : State) : State :=
  if writer.mute then s
  else { s with od := { s.od with closeAfter := s.od.closeAfter ++ [(writer.slot, writer.lseq)] } }

/-- The policy closes: the TAP enters Test-Logic-Reset and a pending memory access ends; a group that CLOSED does not permit
gives way to group 0, and the pins drive zeros (R391, R450). (DEDUCED, log 107) -/
def closePolicy (s : State) : State :=
  let may := fun g : Nat => (tmxGroups s.trust).getLsbD g
  { s with
    tap := s.tap.logicReset.dropAccess
    od :=
      { s.od with
        tmxSel := if may s.od.tmxSel then s.od.tmxSel else 0, tmxNow := if may s.od.tmxNow then s.od.tmxNow else 0 }
    tmx := if may s.od.tmxNow then s.tmx else { s.tmx with out := 0#16, hold := 16 } }

/-- What a committed record does at once, beside the value its entry now has. -/
def commitEffect (w : Wlim) (s : State) : State :=
  match w.entry with
  | 2 => closeWriter w.req (closeOwned w.req s)
  | 4 => closePolicy s
  | _ => s

/-- JOURNAL_COMMIT_DONE: the COMMIT pulse that was begun ends. In RUN the value takes effect, and the firmware answers OK (R31, R363,
R389, R391, R422, R424). (DEDUCED, log 164) -/
def execJournalCommitDone (s : State) : Host.Outcome State Fault Refusal :=
  .next
    (match s.trust.wlim with
     | some w =>
       if pulseHeld s && w.pulse && w.intentDone then
         let s := endLimited w (updTrust (fun t => t.putRecord w.rcd (recordAt t w.rcd ||| 2#320)) s)
         if s.pwr.st == .run then
           let s := commitEffect w s
           if stewardRuns s then answer w.req 0 s else s
         else s
       else s
     | none => s)

/-! ### Boot (R364, R379) -/

/-- Every record that is neither free nor committed is voided (R364). -/
def voidIncomplete (t : Trust) : Trust :=
  (List.range 96).foldl (fun (t : Trust) (i : Nat) =>
    let r := recordAt t i
    if r ≠ 0#320 ∧ recCommitted r = false then t.putRecord i (r ||| 4#320) else t) t

/-- Some record is neither free nor committed nor voided. -/
def leftIncomplete (t : Trust) : Bool :=
  (List.range 96).any (fun i => let r := recordAt t i; r != 0#320 && !recCommitted r && !recVoid r)

/-- BOOT_STAGE_FUSE_DONE: stage 0 ends, once the records to be voided are, which takes the input at 40 V or above; the map of the
fuses and the journal comes into force (R28, R364, R379, R424). -/
def execBootStageFuseDone (s : State) : Host.Outcome State Fault Refusal :=
  .next
    (if s.pwr.st == .run && s.trust.stage == .fuse && (s.pwr.low == 0 || !leftIncomplete s.trust) then
       let t := voidIncomplete s.trust
       { s with trust := { t with stage := .identity, mapNow := mapNext t } }
     else s)

/-- BOOT_STAGE_IDENTITY_DONE: the identity key exists and the ROM serves sessions (R376, R379). -/
def execBootStageIdentityDone (s : State) : Host.Outcome State Fault Refusal :=
  .next
    (if s.pwr.st == .run && s.trust.stage == .identity then
       updTrust (fun t => { t with idKey := true, stage := .service }) s
     else s)

/-- Bytes of the head of a steward image (R381). -/
def fwHead : Nat := 4096

/-- BODYLEN of the staged image. -/
def fwBody (s : State) : Nat := s.ldNat 12 4

/-- Step 1 of R382: marker, version, key choice, length, and every RSVD byte. (DEDUCED, log 105) -/
def fwShape (s : State) : Bool :=
  let n := fwBody s
  s.ldNat 0 4 == 0x46575A53 && s.ldNat 4 1 == 1 && decide (s.ldNat 6 1 ≤ 1) && decide (4096 ≤ n ∧ n ≤ 4194304) &&
    n % 64 == 0 && s.ldNat 7 1 == 0 && s.ldNat 16 48 == 0 && s.ldNat 1857 63 == 0 && s.ldNat 3200 896 == 0

/-- Step 2: the signer's key is the one its KEYSEL names, a development key only under OPEN. -/
def fwKeyOk (s : State) : Bool :=
  let h := shake256 (s.ld 64 1793) 32
  let f := s.trust.fuses
  if s.ldNat 6 1 = 0 then h == padTo 32 f.relHash else h == padTo 32 f.devHash && !policyClosed s.trust

/-- What SIG signs (R382, step 4). -/
def fwMessage (s : State) : List Byte := asciiBytes "SHOZAL-F" ++ s.ld 0 1920 ++ shake256 (s.ld fwHead (fwBody s)) 64

/-- Step 4: SIG verifies under SIGKEY. -/
def fwSigned (s : State) : Bool := falconVerify (s.ld 64 1793) (fwMessage s) (s.ld 1920 1280)

/-- What the verification reads: the head, and the body where the head gives its length. -/
def fwWords (s : State) : List Nat := rangeWords 0 (if fwShape s then fwHead + fwBody s else fwHead)

/-- The staged image is read (R288, R382). -/
def fwReadIn (ev : CodeEvent) (s : State) : State :=
  let s := readIn ev (rangeWords 0 fwHead) s
  let s := readIn ev ((fwWords s).filter (fun x => decide (fwHead ≤ x))) s
  traffic (wordSpans (fwWords s)) [] s

/-- The image as read is accepted (R382). -/
def fwAccepted (s : State) : Bool :=
  fwShape s && !(fwWords s).any (byteBad s) && fwKeyOk s && decide (svnNow s.trust ≤ s.ldNat 5 1) && fwSigned s

/-- An accepted image runs: body, measurement, version and key recorded, the staged range zeroed (R383). -/
def startFirmware (s : State) : State :=
  let n := fwBody s
  let t : Trust :=
    { s.trust with
      stage := .run, fwVer := BitVec.ofNat 32 (s.ldNat 8 4), fwSvn := s.ldNat 5 1, fwKeysel := s.ldNat 6 1
      fwMeas := shake256 (s.ld 0 (fwHead + n)) 32, steward := s.ld fwHead n }
  let ms := { s.ms with dieBad := s.ms.dieBad.filter (fun e => e.1 != 0x24) }
  traffic [] [(0, fwHead + n)] ({ s with trust := t, ms := ms }.zeroRange 0 (fwHead + n))

/-- FW_VERIFY_DONE: stage 3 starts the image, or counts 0x48 and returns to stage 2 (R382, R383). -/
def execFwVerifyDone (ev : CodeEvent) (s : State) : Host.Outcome State Fault Refusal :=
  .next
    (if clocked s && s.trust.stage == .verify && !ahead s (wordSpans (fwWords s)) [(0, fwHead + fwBody s)] then
       let s := fwReadIn ev s
       let s := countBad (fwWords s) 4 s
       if fwAccepted s then startFirmware s
       else countFault 0x48 15 3 (updTrust (fun t => { t with stage := .service }) s)
     else s)

/-! ### Breakwater (R386) -/

/-- The bay lies in a LOAD in progress. -/
def loads (s : State) (b : Bay) : Bool := (loadingBays s).testBit b.val

/-- Writes an IMEM or DMEM word. -/
def putImem (b : Bay) (st : Strm) (ix : Nat) (v : BitVec 64) (s : State) : State :=
  cure b 0x10 (0x40000 * strmNo st + 8 * ix) (s.updStrm b st (fun x => { x with imem := Sparse.set (fun _ => 0#64) x.imem ix v }))

def putDmem (b : Bay) (st : Strm) (ix : Nat) (v : W32) (s : State) : State :=
  cure b 0x11 (dmemOff st ix) (s.updStrm b st (fun x => { x with dmem := Sparse.set (fun _ => 0#32) x.dmem ix v }))

/-- An entry of a bay's routine table is written (R230). -/
def putRoutine (b : Bay) (kind : Nat) (pc : BitVec 15) (s : State) : State :=
  s.updBay b (fun x => { x with routines := x.routines.filter (fun r => r.1 != kind) ++ [(kind, pc)] })

/-- The scratchpad byte is a destination of the LOAD in progress (R386). -/
def loadDest (s : State) (n o : Nat) : Bool :=
  (loadingBays s).testBit n &&
    ((Img.at s s.ldr.loadAddr).secs s).any (fun x => x.ty == 4 && x.bay == n && decide (x.dest ≤ o) && decide (o < x.dest + x.len))

/-- A value of the limit in force stays where it is or falls; any other entry takes what it is given (R417). -/
def lowersLimit (s : State) (ix sub n : Nat) : Bool :=
  match ix, sub with
  | 0x3010, 1 => decide (n ≤ s.pwr.opLimit)
  | 0x3010, 6 => decide (n ≤ s.pwr.ceiling.getD s.trust.fuses.ceilingW)
  | _, _ => true

/-- A configuration register of the gate's table takes a value of its range, with the effect a write through the gate has
(R353, R386): an entry written once keeps its value, a limited value its units, a state condition holds as at the gate, and no
value of the power limit rises (R353, R356, R417). (DEDUCED, log 106) -/
def writeReg (ix : BitVec 16) (sub : Byte) (v : List Byte) (s : State) : Option State :=
  let i := ix.toNat
  let k := sub.toNat
  let q : OdReq := { slot := 0, mute := false, role := 2, lseq := 0, tid := 0#16, ix := ix, sub := sub, value := v, head := [] }
  if gateAccess s 2 i k true = 0 ∧ !odSelector i k ∧ (odDef i k).ty.fits v.length ∧ odRange s i k v ∧
      odSpent s i k (leNat v) = 0 ∧ odConditions s i k v = 0 ∧ lowersLimit s i k (leNat v) then
    some ((regEffect q s).getD s)
  else none

/-- What a read of a fuse field returns; zeros for the one the firmware cannot read (R375). -/
def fuseRead (t : Trust) (f : FuseField) : List Byte :=
  let u := t.fuses
  match f with
  | .serial => padTo 16 u.serial
  | .variant => leBytes (variantOf u) 1 ++ [u.stepping]
  | .seed => leBytes 0 32
  | .cert => certificate u
  | .relHash => padTo 32 u.relHash
  | .devHash => padTo 32 u.devHash
  | .map => leBytes u.map.toNat 14
  | .ceiling => leBytes u.ceilingW 2
  | .maxClass => leBytes u.maxClass 1
  | .closedGroups => leBytes u.closedGroups.toNat 2
  | .policy => leBytes (if u.closed then 1 else 0) 1
  | .svn => leBytes u.svn 1
  | .journal => (List.range 96).flatMap (fun i => leBytes (recordAt t i).toNat 40)

/-- A read of the firmware returns bytes. (DESIGN CHOICE, log 153) -/
def fwGets (v : List Byte) (s : State) : State := updTrust (fun t => { t with fwRead := v }) s

/-- A read of the steward memory; an uncorrectable byte is counted and stops the firmware (R251, R383). -/
def stewardRead (off : Nat) (ue : Bool) (s : State) : State :=
  if ue || s.ms.dieBad.contains (0x24, off) then
    countFault 0x44 15 3 (updTrust (fun t => { t with stewardDown := true }) (dieSpoil 0x24 off (ueAt 0x24 15 off s)))
  else fwGets [s.trust.steward.getD off 0#8] s

/-- A byte the firmware writes in memory, under what the read of the rest of its word or sector meets: an uncorrectable word of a
page asks for a repair, and the byte is not yet written (R243, R246, R248, R287, R299). -/
def fwStore (a : Nat) (v : Byte) (ev : CodeEvent) (s : State) : State :=
  guarded (spadBay a) ev [] [a] (fun s => traffic [] [(a, 1)] (s.store a [v] 4)) s

/-- The effect of an access the fences let pass; none for one they forbid (R386); a write-only register of the
big-number engine reads 0 (R12, R398, R400). -/
def fenced (acc : FwAccess) (s : State) : Option State :=
  match acc with
  | .powerLimit w =>
    if w ≤ min (s.pwr.ceiling.getD s.trust.fuses.ceilingW) s.trust.fuses.ceilingW ∧ w ≤ s.pwr.opLimit then
      some { s with pwr := { s.pwr with opLimit := w } }
    else none
  | .opticalClass c => if c ≤ s.trust.fuses.maxClass then some { s with od := { s.od with powerClass := c } } else none
  | .laneRate p => if -100 ≤ p ∧ p ≤ 100 then some s else none
  | .writeSpad a v ev =>
    match spadAt a with
    | some (n, o) => if loadDest s n o then some (fwStore a v ev s) else none
    | none => none
  | .writeMem a v ev => if paramBase ≤ a ∧ a < paramBase + 0x800000 then some (fwStore a v ev s) else none
  | .writeImem b st ix v => if loads s b then some (putImem b st ix.val v s) else none
  | .writeDmem b st ix v => if loads s b then some (putDmem b st ix.val v s) else none
  | .writeDesc b ix v => if loads s b then some (putDesc b ix ((RawDesc.ofNat (leNat v)).check (regionsOf b s)) s) else none
  | .writeRoutine b kind pc => if loads s b then some (putRoutine b kind pc s) else none
  | .writeCtx ctx off v => some (putCtxByte ctx off v s)
  | .writeParam off v ev => if off < 0x800000 then some (fwStore (paramBase + off) v ev s) else none
  | .writeReg ix sub v => writeReg ix sub v s
  | .readRing _ => none
  | .readSecret => none
  | .clearMapBit _ => none
  | .setMapBit _ => none
  | .lowerVersion v => if svnNow s.trust ≤ v then some s else none
  | .startImage => none
  | .reopenPolicy => none
  | .editGate => none
  | .readFuse f => if f = .seed then none else some (fwGets (fuseRead s.trust f) s)
  | .readSteward off ue => if off < 0x400000 then some (stewardRead off ue s) else none
  | .bnCmd w trng => some (bnWordCommand w trng s)
  | .bnCtl w => some (if w.getLsbD 0 then bnAbortNow s else s)
  | .bnStat w => some (bnStatWrite w s)
  | .bnSlot i w => some (bnLenWrite i (w.setWidth 7) s)
  | .readBnCmd => some (fwGets (leBytes 0 8) s)
  | .readBnCtl => some (fwGets (leBytes 0 4) s)
  | .readBnStat => some (fwGets (leBytes (bnStatWord s.bn).toNat 4) s)
  | .readBnSlot i => some (fwGets (leBytes (bnSlotWord i s).toNat 4) s)
  | .readBnWord i k => some (fwGets (leBytes (bnWordRead i k s).toNat 8) s)
  | .readBnReason => some (fwGets (leBytes (if policyClosed s.trust then 0 else s.bn.reason.toNat) 4) s)

/-- What a forbidden access returns: the identity seed reads as zeros (R375). -/
def deniedRead (acc : FwAccess) (s : State) : State :=
  if acc = .readFuse .seed then fwGets (fuseRead s.trust .seed) s else s

/-- An access to the big-number engine, which the boot ROM makes as well as the firmware (R392). -/
def ofEngine (acc : FwAccess) : Bool :=
  match acc with
  | .bnCmd _ _ => true
  | .bnCtl _ => true
  | .bnStat _ => true
  | .bnSlot _ _ => true
  | .readBnCmd => true
  | .readBnCtl => true
  | .readBnStat => true
  | .readBnSlot _ => true
  | .readBnWord _ _ => true
  | .readBnReason => true
  | _ => false

/-- The access writes compute-die state. -/
def ofCompute (acc : FwAccess) : Bool :=
  match acc with
  | .powerLimit _ => true
  | .writeSpad _ _ _ => true
  | .writeMem _ _ _ => true
  | .writeImem _ _ _ _ => true
  | .writeDmem _ _ _ _ => true
  | .writeParam _ _ _ => true
  | .writeCtx _ _ _ => true
  | .writeDesc _ _ _ => true
  | .writeRoutine _ _ _ => true
  | .writeReg ix sub _ => onCompute ix.toNat sub.toNat
  | _ => false

/-- A write into a page under repair, or into bytes an earlier request touches, waits (R248, R290). -/
def fwWaits (acc : FwAccess) (s : State) : Bool :=
  match acc with
  | .writeSpad a _ _ => underRepair s [a]
  | .writeMem a _ _ => ahead s [] [(a, 1)]
  | .writeParam off _ _ => ahead s [] [(paramBase + off, 1)]
  | .writeReg ix sub v => ix == 0x4020#16 && sub == 1#8 && ahead s [] (bandSpans s (leNat v))
  | _ => false

/-- The access can be made: of the engine in every boot stage, else by the running firmware, of the compute die only while it is
clocked. -/
def canMake (acc : FwAccess) (s : State) : Bool :=
  s.pwr.st == .run && (ofEngine acc || stewardRuns s) && (!ofCompute acc || clocked s) && !fwWaits acc s

/-- FIRMWARE_ACCESS: applied, or discarded and counted as 0x49 (R386). (DEDUCED, log 106) -/
def execFirmwareAccess (acc : FwAccess) (s : State) : Host.Outcome State Fault Refusal :=
  .next
    (if canMake acc s then
       match fenced acc s with
       | some t => t
       | none => countFault 0x49 15 3 (deniedRead acc s)
     else s)

end Sys2Proof.Machine
end

