-- ==== Sys2Proof/Machine/Tap.lean ====
section
/-! DEFINITION. The test access port: its instructions, the boundary register and memory access (R444 to R451). -/

namespace Sys2Proof.Machine

/-- Applies a function to the TAP. -/
def updTap (f : Tap → Tap) (s : State) : State := { s with tap := f s.tap }

/-- The TAP is operable: PWR_OK stands (R444). (DEDUCED, log 117) -/
def tapOn (s : State) : Bool := s.pwr.st == .run

/-! ### The instruction register (R444) -/

/-- The instruction of a code; an unlisted one is BYPASS. -/
def tapDecode (code : Byte) : TapIr :=
  match code.toNat with
  | 0x00 => .extest
  | 0x01 => .sample
  | 0x02 => .idcode
  | 0x10 => .intscan
  | 0x11 => .memacc
  | _ => .bypass

/-- The instruction a code selects under a debug policy: BYPASS for one that CLOSED does not permit. -/
def tapInstr (code : Byte) (closed : Bool) : TapIr :=
  match tapDecode code with
  | .intscan => if closed then .bypass else .intscan
  | .memacc => if closed then .bypass else .memacc
  | r => r

/-- The current instruction. -/
def tapNow (s : State) : TapIr := tapInstr s.tap.ir (policyClosed s.trust)

/-- The TAP takes commands: operable, and not held in Test-Logic-Reset by TRST_N. -/
def tapFree (s : State) : Bool := tapOn s && !s.tap.trstLow

/-- Every clock of the compute die stops until power-on reset; the stacks, no longer refreshed, keep nothing (R448).
(DESIGN CHOICE, log 165) -/
def stopDie (s : State) : State :=
  { s with tap := { s.tap with cdStopped := true }, mem := Sparse.erase s.mem inStack }

/-- A code is loaded: Capture-IR has put 0b0000_0001 before it, and the instruction it selects is current; the bypass register
it then selects captures 0 (R444). (DESIGN CHOICE, log 111) -/
def loadIr (code : Byte) (s : State) : State :=
  if tapFree s then
    let s := updTap (fun t => { t with ir := code, irOut := 1#8, byp := t.byp && tapInstr code (policyClosed s.trust) != .bypass }) s
    if tapNow s = .intscan then stopDie s else s
  else s

/-- TRST_ASSERT: TRST_N goes low, which puts the TAP in Test-Logic-Reset and holds it there, or high again; a command under way
is not touched (R444). -/
def execTrstAssert (low : Bool) (s : State) : Host.Outcome State Fault Refusal :=
  .next
    (updTap (fun t => if low then { t.logicReset with trstLow := true } else { t with trstLow := false }) s)

/-- TAP_IDCODE (R445). -/
def execTapIdcode (s : State) : Host.Outcome State Fault Refusal := .next (loadIr 0x02#8 s)

/-- TAP_BYPASS: 0xFF, or any code that is unlisted or not permitted (R444). -/
def execTapBypass (code : Byte) (s : State) : Host.Outcome State Fault Refusal := .next (loadIr code s)

/-- The identification register (R445). -/
def idcode (t : Trust) : W32 := BitVec.ofNat 32 (t.fuses.stepping.toNat % 16 * 2 ^ 28 + 0x9612 * 2 ^ 12 + 0x2E7 * 2 + 1)

/-! ### Contact levels (R446, R447) -/

/-- PWR_OK, GONG_N and THERM_N as the device drives them, as cells 1 to 3. -/
def statusPins (s : State) : Nat := bitAt 1 (s.pwr.st == .run) + bitAt 2 (s.faults.gong == 0#8) + bitAt 3 (!s.pwr.thermN)

/-- The levels of the status contacts, as cells 1 to 3: of the boundary register under EXTEST, else of the device; an open-drain
contact that is released reads high. -/
def statusLevels (s : State) : Nat := if tapNow s = .extest then s.tap.bndOut.toNat / 2 % 8 * 2 else statusPins s

/-- TMX[15:0], none while they are high impedance: PWR_OK is deasserted, or cell 4 is 0 under EXTEST (R442, R446). -/
def tmxLevels (s : State) : Option (BitVec 16) :=
  if !tapOn s then none
  else if tapNow s = .extest then
    (if s.tap.bndOut.getLsbD 4 then some (s.tap.bndOut.extractLsb' 5 16) else none)
  else some (tmxPins s)

/-- The boundary register as it captures the contacts; a contact no one drives is not known (R446). -/
def boundary (refclk : Bool) (s : State) (w : Nat) : BitVec 21 :=
  let en := (tmxLevels s).isSome
  BitVec.ofNat 21
    (bitAt 0 refclk + statusLevels s + bitAt 4 en + ((tmxLevels s).getD (BitVec.ofNat 16 w)).toNat * 32)

/-- A pass of the boundary register through Capture-DR and Update-DR: it captures the contacts, and its cells take the value shifted
in. (DESIGN CHOICE, log 111) -/
def boundaryScan (refclk : Bool) (load : Option (BitVec 21)) (s : State) : State :=
  match load with
  | some v => drew 1 (updTap (fun t => { t with bnd := boundary refclk s (freeVal s), bndOut := v }) s)
  | none => s

/-- TAP_EXTEST: the status and TMX contacts follow the boundary register, which a scan loads; nothing else changes (R446,
R447). -/
def execTapExtest (refclk : Bool) (load : Option (BitVec 21)) (s : State) : Host.Outcome State Fault Refusal :=
  .next (if tapFree s then boundaryScan refclk load (loadIr 0x00#8 s) else s)

/-- TAP_SAMPLE_PRELOAD: the boundary register captures the contacts' levels, and its cells take a value shifted in (R446). -/
def execTapSamplePreload (refclk : Bool) (load : Option (BitVec 21)) (s : State) : Host.Outcome State Fault Refusal :=
  .next
    (if tapFree s then
       let s := loadIr 0x01#8 s
       boundaryScan refclk (some (load.getD s.tap.bndOut)) s
     else s)

/-! ### What only OPEN permits (R448, R449) -/

/-- TAP_INTSCAN: under OPEN every clock of the compute die stops until power-on reset; else BYPASS (R444, R448). -/
def execTapIntscan (s : State) : Host.Outcome State Fault Refusal := .next (loadIr 0x10#8 s)

/-- Update-DR of the memory access register: a command of 1 or 2 starts; any other starts none, and one still pending gives way
(R449). (DEDUCED, log 119) -/
def memaccUpdate (cmd : Byte) (addr : BitVec 48) (data : Option (BitVec 64)) (s : State) : State :=
  if tapFree s && tapNow s == .memacc then
    updTap (fun t =>
      { t with
        maAddr := addr, maCmd := cmd, maData := data.getD t.maData
        maSts := if cmd = 1#8 ∨ cmd = 2#8 then 1#2 else if t.maSts = 1#2 then 0#2 else t.maSts }) s
  else s

/-- TAP_MEMACC: under OPEN the memory access register is selected, and a value shifted in is updated; else BYPASS (R444,
R449). -/
def execTapMemacc (dr : Option (BitVec 128)) (s : State) : Host.Outcome State Fault Refusal :=
  .next
    (let s := loadIr 0x11#8 s
     match dr with
     | some v => memaccUpdate (v.extractLsb' 72 8) (v.extractLsb' 80 48) (some (v.extractLsb' 0 64)) s
     | none => s)

/-- The memory access register as Capture-DR takes it (R449). -/
def memaccReg (t : Tap) : BitVec 128 :=
  BitVec.ofNat 128 (t.maData.toNat + t.maSts.toNat * 2 ^ 64 + t.maCmd.toNat * 2 ^ 72 + t.maAddr.toNat * 2 ^ 80)

/-- MEMACC_READ (R449). -/
def execMemaccRead (addr : BitVec 48) (s : State) : Host.Outcome State Fault Refusal := .next (memaccUpdate 1#8 addr none s)

/-- MEMACC_WRITE (R449). -/
def execMemaccWrite (addr : BitVec 48) (data : BitVec 64) (s : State) : Host.Outcome State Fault Refusal :=
  .next (memaccUpdate 2#8 addr (some data) s)

/-- Addresses MEMACC reaches: aligned words of bands 0 to 126 and of the populated scratchpads (R281, R449). -/
def memaccReaches (a : Nat) : Bool := a % 8 == 0 && (inBands a 8 || inSpad a 8)

/-- The command ends with a status (R449). -/
def memaccEnd (sts : BitVec 2) (s : State) : State := updTap (fun t => { t with maSts := sts }) s

/-- A request of the order of R289 is pending at the pseudo-channel of the address, which MEMACC lets go first (R449). -/
def memaccYields (a : Nat) (s : State) : Bool :=
  inStack a &&
    (let p := placeOf s a
     let k := s.stack (Fin.ofNat 12 p.1)
     (inChan s k (coordOf p.2).1).any (fun q => !q.served))

/-- A read is served: the word, or status 3 and the event counted (R247, R288, R299, R449). -/
def memaccReads (a : Nat) (s : State) : State :=
  let s := traffic [(a, 8)] [] s
  if rangeBad s a 8 then
    memaccEnd 3#2
      (if inStack a then drew 1 (sectorUe a (freeVal s % 256) s)
       else match spadAt a with
         | some (n, o) => ueAt 1 n o s
         | none => s)
  else updTap (fun t => { t with maSts := 0#2, maData := BitVec.ofNat 64 (s.ldNat a 8) }) s

/-- A write is served; one that merges into an uncorrectable sector is dropped, with status 3 (R287, R299, R449). -/
def memaccWrites (a : Nat) (s : State) : State :=
  let s := traffic [] [(a, 8)] s
  let bad := inStack a && rangeBad s a 8
  drew 1 (memaccEnd (if bad then 3#2 else 0#2) (s.store a (leBytes s.tap.maData.toNat 8) (freeVal s % 256)))

/-- The word of the access. -/
def memaccWord (a : Nat) : List Nat := (List.range 8).map (fun i => a + i)

/-- The bay whose scratchpad the access is of. -/
def memaccBay (a : Nat) : Bay :=
  match spadAt a with
  | some (n, _) => Fin.ofNat 12 n
  | none => 0

/-- MEMACC_SERVE: the pending access is served in an idle cy, under what its read meets; it waits behind every pending request of
its pseudo-channel, and while its page is under repair; a repair its read asks for is no throttle event (R248, R286, R287, R447,
R449). (DEDUCED, log 193) -/
def execMemaccServe (ev : CodeEvent) (s : State) : Host.Outcome State Fault Refusal :=
  .next
    (let a := s.tap.maAddr.toNat
     if clocked s && s.tap.maSts == 1#2 && !memaccYields a s then
       if !memaccReaches a then memaccEnd 2#2 s
       else if s.tap.maCmd = 1#8 then guardedBy askQuiet (memaccBay a) ev (memaccWord a) [] (memaccReads a) s
       else guarded (memaccBay a) ev [] (memaccWord a) (memaccWrites a) s
     else s)

end Sys2Proof.Machine
end

