-- ==== Sys2Proof/Machine/Dispatch.lean ====
section
/-! DEFINITION. One arm per command: the meaning it calls. -/

namespace Sys2Proof.Machine

/-- The effect of a command on everything but the queue. -/
def exec (i : Instr) (s : State) : Host.Outcome State Fault Refusal :=
  match i with
  | .tsCset b st cd imm => Sys2Proof.Machine.execTsCset b st cd imm s
  | .tsCadd b st cd ca o => Sys2Proof.Machine.execTsCadd b st cd ca o s
  | .tsCsub b st cd ca o => Sys2Proof.Machine.execTsCsub b st cd ca o s
  | .tsCmul b st cd ca o => Sys2Proof.Machine.execTsCmul b st cd ca o s
  | .tsCshl b st cd ca o => Sys2Proof.Machine.execTsCshl b st cd ca o s
  | .tsCshr b st cd ca o => Sys2Proof.Machine.execTsCshr b st cd ca o s
  | .tsCand b st cd ca o => Sys2Proof.Machine.execTsCand b st cd ca o s
  | .tsCor b st cd ca o => Sys2Proof.Machine.execTsCor b st cd ca o s
  | .tsCxor b st cd ca o => Sys2Proof.Machine.execTsCxor b st cd ca o s
  | .tsCmp b st kd ca r o => Sys2Proof.Machine.execTsCmp b st kd ca r o s
  | .tsKlog b st kd ka op kb => Sys2Proof.Machine.execTsKlog b st kd ka op kb s
  | .tsLdw b st cd ca imm ev => Sys2Proof.Machine.execTsLdw b st cd ca imm ev s
  | .tsStw b st cs ca imm => Sys2Proof.Machine.execTsStw b st cs ca imm s
  | .tsBeat b st cd => Sys2Proof.Machine.execTsBeat b st cd s
  | .tsLidx b st cd l => Sys2Proof.Machine.execTsLidx b st cd l s
  | .tsBr b st src pol target => Sys2Proof.Machine.execTsBr b st src pol target s
  | .tsJmp b st target => Sys2Proof.Machine.execTsJmp b st target s
  | .tsCall b st target => Sys2Proof.Machine.execTsCall b st target s
  | .tsRet b st => Sys2Proof.Machine.execTsRet b st s
  | .tsEnd b st => Sys2Proof.Machine.execTsEnd b st s
  | .tsLoop b st cn last => Sys2Proof.Machine.execTsLoop b st cn last s
  | .tsBreak b st k => Sys2Proof.Machine.execTsBreak b st k s
  | .tsFset b st f => Sys2Proof.Machine.execTsFset b st f s
  | .tsFclr b st f => Sys2Proof.Machine.execTsFclr b st f s
  | .tsWait b st f pol clr => Sys2Proof.Machine.execTsWait b st f pol clr s
  | .flagWaitEnd b st => Sys2Proof.Machine.execFlagWaitEnd b st s
  | .tsGadd b st g imm => Sys2Proof.Machine.execTsGadd b st g imm s
  | .tsGset b st g cs => Sys2Proof.Machine.execTsGset b st g cs s
  | .tsGwait b st g cn => Sys2Proof.Machine.execTsGwait b st g cn s
  | .globalWaitEnd b st => Sys2Proof.Machine.execGlobalWaitEnd b st s
  | .tsQput b st q cn m1 => Sys2Proof.Machine.execTsQput b st q cn m1 s
  | .tsQpop b st q cd m1 ev => Sys2Proof.Machine.execTsQpop b st q cd m1 ev s
  | .tsRel b st cb => Sys2Proof.Machine.execTsRel b st cb s
  | .releaseWaitEnd b st => Sys2Proof.Machine.execReleaseWaitEnd b st s
  | .tsYield b st => Sys2Proof.Machine.execTsYield b st s
  | .tsPinit b st cn cm p => Sys2Proof.Machine.execTsPinit b st cn cm p s
  | .poolArmed p => Sys2Proof.Machine.execPoolArmed p s
  | .tsTake b st cd p => Sys2Proof.Machine.execTsTake b st cd p s
  | .takeIndexWrite b st => Sys2Proof.Machine.execTakeIndexWrite b st s
  | .tsHop b s1 s2 dst x kind mask => Sys2Proof.Machine.execTsHop b s1 s2 dst x kind mask s
  | .bracketOpen mask ev => Sys2Proof.Machine.execBracketOpen mask ev s
  | .tsHend b nf => Sys2Proof.Machine.execTsHend b nf s
  | .bracketClose mask => Sys2Proof.Machine.execBracketClose mask s
  | .tsHout b level scale => Sys2Proof.Machine.execTsHout b level scale s
  | .tsDarm b cb d => Sys2Proof.Machine.execTsDarm b cb d s
  | .tsScfg b cs cc => Sys2Proof.Machine.execTsScfg b cs cc s
  | .tsAmax b cs cv cmt ovf => Sys2Proof.Machine.execTsAmax b cs cv cmt ovf s
  | .tsScale b cs cd => Sys2Proof.Machine.execTsScale b cs cd s
  | .tsUwr b cs cu cw cmt => Sys2Proof.Machine.execTsUwr b cs cu cw cmt s
  | .tsUstat b cs cd => Sys2Proof.Machine.execTsUstat b cs cd s
  | .statsApply b ev => Sys2Proof.Machine.execStatsApply b ev s
  | .statsResultWrite b => Sys2Proof.Machine.execStatsResultWrite b s
  | .tdKey b ck cg cb next level ev => Sys2Proof.Machine.execTdKey b ck cg cb next level ev s
  | .tdDrop b => Sys2Proof.Machine.execTdDrop b s
  | .tdStat b cn => Sys2Proof.Machine.execTdStat b cn s
  | .keyStreamOpen b slot ev => Sys2Proof.Machine.execKeyStreamOpen b slot ev s
  | .keySetCombine mask k => Sys2Proof.Machine.execKeySetCombine mask k s
  | .keyFillStart b => Sys2Proof.Machine.execKeyFillStart b s
  | .keyFillData b ev => Sys2Proof.Machine.execKeyFillData b ev s
  | .xofSegmentStart b => Sys2Proof.Machine.execXofSegmentStart b s
  | .xofSegmentComplete b core => Sys2Proof.Machine.execXofSegmentComplete b core s
  | .keyRowDeliver b ev => Sys2Proof.Machine.execKeyRowDeliver b ev s
  | .mmCfg b lt imm => Sys2Proof.Machine.execMmCfg b lt imm s
  | .mmLdp b lt e m1 d => Sys2Proof.Machine.execMmLdp b lt e m1 d s
  | .mmLds b lt buf resume tide n1 d => Sys2Proof.Machine.execMmLds b lt buf resume tide n1 d s
  | .mmMul b mask buf ob acc n1 d => Sys2Proof.Machine.execMmMul b mask buf ob acc n1 d s
  | .mmDrain b lt ob fd fo n1 d => Sys2Proof.Machine.execMmDrain b lt ob fd fo n1 d s
  | .mmClr b lt ob => Sys2Proof.Machine.execMmClr b lt ob s
  | .mmStat b lt r cn => Sys2Proof.Machine.execMmStat b lt r cn s
  | .tileInstrStart b lt ev => Sys2Proof.Machine.execTileInstrStart b lt ev s
  | .stationaryLoadComplete b lt ev => Sys2Proof.Machine.execStationaryLoadComplete b lt ev s
  | .mmMulComplete b lt ev => Sys2Proof.Machine.execMmMulComplete b lt ev s
  | .mmDrainComplete b lt ev => Sys2Proof.Machine.execMmDrainComplete b lt ev s
  | .ntCfg b imm => Sys2Proof.Machine.execNtCfg b imm s
  | .ntLdp b d => Sys2Proof.Machine.execNtLdp b d s
  | .ntFwd b fd d2 d1 => Sys2Proof.Machine.execNtFwd b fd d2 d1 s
  | .ntInv b fd d2 d1 => Sys2Proof.Machine.execNtInv b fd d2 d1 s
  | .ntTv b ac ident slot cb => Sys2Proof.Machine.execNtTv b ac ident slot cb s
  | .ntStep b ac fd ce d1 => Sys2Proof.Machine.execNtStep b ac fd ce d1 s
  | .ntAcc b ac fd d2 => Sys2Proof.Machine.execNtAcc b ac fd d2 s
  | .ntOut b ac fd d1 => Sys2Proof.Machine.execNtOut b ac fd d1 s
  | .ntInstrStart b ev => Sys2Proof.Machine.execNtInstrStart b ev s
  | .ntInstrComplete b => Sys2Proof.Machine.execNtInstrComplete b s
  | .tblLd b bank slot fd d => Sys2Proof.Machine.execTblLd b bank slot fd d s
  | .tblLdComplete b ev => Sys2Proof.Machine.execTblLdComplete b ev s
  | .tblSwap b => Sys2Proof.Machine.execTblSwap b s
  | .tblStat b cn => Sys2Proof.Machine.execTblStat b cn s
  | .tableBankFlip b => Sys2Proof.Machine.execTableBankFlip b s
  | .veAdd b vd va o pg => Sys2Proof.Machine.execVeAdd b vd va o pg s
  | .veSub b vd va o pg => Sys2Proof.Machine.execVeSub b vd va o pg s
  | .veMull b vd va o pg => Sys2Proof.Machine.execVeMull b vd va o pg s
  | .veMulh b vd va o pg => Sys2Proof.Machine.execVeMulh b vd va o pg s
  | .veMulhu b vd va o pg => Sys2Proof.Machine.execVeMulhu b vd va o pg s
  | .veAnd b vd va o pg => Sys2Proof.Machine.execVeAnd b vd va o pg s
  | .veOr b vd va o pg => Sys2Proof.Machine.execVeOr b vd va o pg s
  | .veXor b vd va o pg => Sys2Proof.Machine.execVeXor b vd va o pg s
  | .veShl b vd va o pg => Sys2Proof.Machine.execVeShl b vd va o pg s
  | .veShr b vd va o pg => Sys2Proof.Machine.execVeShr b vd va o pg s
  | .veSra b vd va o pg => Sys2Proof.Machine.execVeSra b vd va o pg s
  | .veMin b vd va o pg => Sys2Proof.Machine.execVeMin b vd va o pg s
  | .veMax b vd va o pg => Sys2Proof.Machine.execVeMax b vd va o pg s
  | .veMinu b vd va o pg => Sys2Proof.Machine.execVeMinu b vd va o pg s
  | .veMaxu b vd va o pg => Sys2Proof.Machine.execVeMaxu b vd va o pg s
  | .veSel b vd va o ps pg => Sys2Proof.Machine.execVeSel b vd va o ps pg s
  | .veIota b vd cb pg => Sys2Proof.Machine.execVeIota b vd cb pg s
  | .veCmp b pd r va o pg => Sys2Proof.Machine.execVeCmp b pd r va o pg s
  | .veFcmp b pd r va o pg => Sys2Proof.Machine.execVeFcmp b pd r va o pg s
  | .vePand b pd pa pb pg => Sys2Proof.Machine.execVePand b pd pa pb pg s
  | .vePor b pd pa pb pg => Sys2Proof.Machine.execVePor b pd pa pb pg s
  | .vePxor b pd pa pb pg => Sys2Proof.Machine.execVePxor b pd pa pb pg s
  | .vePnot b pd pa pg => Sys2Proof.Machine.execVePnot b pd pa pg s
  | .veFadd b vd va o pg => Sys2Proof.Machine.execVeFadd b vd va o pg s
  | .veFsub b vd va o pg => Sys2Proof.Machine.execVeFsub b vd va o pg s
  | .veFmul b vd va o pg => Sys2Proof.Machine.execVeFmul b vd va o pg s
  | .veFma b vd va o vc pg => Sys2Proof.Machine.execVeFma b vd va o vc pg s
  | .veFmin b vd va o pg => Sys2Proof.Machine.execVeFmin b vd va o pg s
  | .veFmax b vd va o pg => Sys2Proof.Machine.execVeFmax b vd va o pg s
  | .veCvt b vd va toInt pg => Sys2Proof.Machine.execVeCvt b vd va toInt pg s
  | .veMadd b vd va o v pg => Sys2Proof.Machine.execVeMadd b vd va o v pg s
  | .veMsub b vd va o v pg => Sys2Proof.Machine.execVeMsub b vd va o v pg s
  | .veMmul b vd va o v pg => Sys2Proof.Machine.execVeMmul b vd va o v pg s
  | .veMmac b vd va o v pg => Sys2Proof.Machine.execVeMmac b vd va o v pg s
  | .veMneg b vd va v pg => Sys2Proof.Machine.execVeMneg b vd va v pg s
  | .veMred b vd va v pg => Sys2Proof.Machine.execVeMred b vd va v pg s
  | .veMlift b vd va v w pg => Sys2Proof.Machine.execVeMlift b vd va v w pg s
  | .veKmac b cr init dx wb => Sys2Proof.Machine.execVeKmac b cr init dx wb s
  | .veKmacWriteback b ev => Sys2Proof.Machine.execVeKmacWriteback b ev s
  | .veLrot b vd va cb pg => Sys2Proof.Machine.execVeLrot b vd va cb pg s
  | .vePerm b vd va vb pg => Sys2Proof.Machine.execVePerm b vd va vb pg s
  | .veSf b vd va func m1 cc pg => Sys2Proof.Machine.execVeSf b vd va func m1 cc pg s
  | .veLd b vd fmt d pg => Sys2Proof.Machine.execVeLd b vd fmt d pg s
  | .veSt b va fmt d pg => Sys2Proof.Machine.execVeSt b va fmt d pg s
  | .veLdq b vd q m1 pg => Sys2Proof.Machine.execVeLdq b vd q m1 pg s
  | .veGsign b pd cg cb logn pg => Sys2Proof.Machine.execVeGsign b pd cg cb logn pg s
  | .veSum b cn kind fn pg => Sys2Proof.Machine.execVeSum b cn kind fn pg s
  | .veSumResult b => Sys2Proof.Machine.execVeSumResult b s
  | .veLdp b e m1 d => Sys2Proof.Machine.execVeLdp b e m1 d s
  | .veStat b cn => Sys2Proof.Machine.execVeStat b cn s
  | .veInstrStart b ev => Sys2Proof.Machine.execVeInstrStart b ev s
  | .xfMov b dst fd d2 => Sys2Proof.Machine.execXfMov b dst fd d2 s
  | .xfGath b di fd d2 d1 => Sys2Proof.Machine.execXfGath b di fd d2 d1 s
  | .xfScat b acc di fd d2 d1 => Sys2Proof.Machine.execXfScat b acc di fd d2 d1 s
  | .xfRing b fd d1 => Sys2Proof.Machine.execXfRing b fd d1 s
  | .xfDnew b ca d1 => Sys2Proof.Machine.execXfDnew b ca d1 s
  | .xfDarm b cb d1 => Sys2Proof.Machine.execXfDarm b cb d1 s
  | .xfDdel b d1 => Sys2Proof.Machine.execXfDdel b d1 s
  | .xfStat b cn => Sys2Proof.Machine.execXfStat b cn s
  | .transferStart b => Sys2Proof.Machine.execTransferStart b s
  | .transferComplete b slot rb ev => Sys2Proof.Machine.execTransferComplete b slot rb ev s
  | .ringBurstFetch b rb ev => Sys2Proof.Machine.execRingBurstFetch b rb ev s
  | .ringRecordStart b => Sys2Proof.Machine.execRingRecordStart b s
  | .waitTimeout b st => Sys2Proof.Machine.execWaitTimeout b st s
  | .dlk b => Sys2Proof.Machine.execDlk b s
  | .parkComplete b => Sys2Proof.Machine.execParkComplete b s
  | .programRelease mask => Sys2Proof.Machine.execProgramRelease mask s
  | .memRequestArrive ms req src addr len data => Sys2Proof.Machine.execMemRequestArrive ms req src addr len data s
  | .memRequestServe ms pc errs => Sys2Proof.Machine.execMemRequestServe ms pc errs s
  | .memReadReturn ms req src => Sys2Proof.Machine.execMemReadReturn ms req src s
  | .dramRefresh ms => Sys2Proof.Machine.execDramRefresh ms s
  | .hotRefreshEnter ms => Sys2Proof.Machine.execHotRefreshEnter ms s
  | .hotRefreshLeave ms => Sys2Proof.Machine.execHotRefreshLeave ms s
  | .patrolScrub ms pc errs => Sys2Proof.Machine.execPatrolScrub ms pc errs s
  | .stackTempRead ms dies => Sys2Proof.Machine.execStackTempRead ms dies s
  | .stackCapLower ms => Sys2Proof.Machine.execStackCapLower ms s
  | .stackCapRaise ms => Sys2Proof.Machine.execStackCapRaise ms s
  | .actLimitSet ms => Sys2Proof.Machine.execActLimitSet ms s
  | .actLimitLift ms => Sys2Proof.Machine.execActLimitLift ms s
  | .stackThermFault ms => Sys2Proof.Machine.execStackThermFault ms s
  | .bandZeroComplete => Sys2Proof.Machine.execBandZeroComplete s
  | .stackInitComplete => Sys2Proof.Machine.execStackInitComplete s
  | .pageRepairStart b => Sys2Proof.Machine.execPageRepairStart b s
  | .pageRepairComplete b rd => Sys2Proof.Machine.execPageRepairComplete b rd s
  | .correctedWriteback b id met => Sys2Proof.Machine.execCorrectedWriteback b id met s
  | .scrubStep b rd => Sys2Proof.Machine.execScrubStep b rd s
  | .reencodeComplete => Sys2Proof.Machine.execReencodeComplete s
  | .scratchpadInitComplete => Sys2Proof.Machine.execScratchpadInitComplete s
  | .beatBlockReceive bnum crc => Sys2Proof.Machine.execBeatBlockReceive bnum crc s
  | .markerArrival off gap => Sys2Proof.Machine.execMarkerArrival off gap s
  | .beatEdge smp => Sys2Proof.Machine.execBeatEdge smp s
  | .holdEnter => Sys2Proof.Machine.execHoldEnter s
  | .holdExit => Sys2Proof.Machine.execHoldExit s
  | .beatLost => Sys2Proof.Machine.execBeatLost s
  | .acquisitionDone => Sys2Proof.Machine.execAcquisitionDone s
  | .lockingDone => Sys2Proof.Machine.execLockingDone s
  | .lockingFail => Sys2Proof.Machine.execLockingFail s
  | .recordDrain n ev => Sys2Proof.Machine.execRecordDrain n ev s
  | .replayInputRelease ev => Sys2Proof.Machine.execReplayInputRelease ev s
  | .linkAlignmentChange lanes => Sys2Proof.Machine.execLinkAlignmentChange lanes s
  | .linkReinit => Sys2Proof.Machine.execLinkReinit s
  | .linkAck f crc => Sys2Proof.Machine.execLinkAck f crc s
  | .linkNak f crc => Sys2Proof.Machine.execLinkNak f crc s
  | .retransmitTimeout => Sys2Proof.Machine.execRetransmitTimeout s
  | .resendLimit => Sys2Proof.Machine.execResendLimit s
  | .ackDue => Sys2Proof.Machine.execAckDue s
  | .creditRepeat => Sys2Proof.Machine.execCreditRepeat s
  | .sessionHello f => Sys2Proof.Machine.execSessionHello f s
  | .sessionAccept slot h => Sys2Proof.Machine.execSessionAccept slot h s
  | .sessionFinish f => Sys2Proof.Machine.execSessionFinish f s
  | .sessionClose f => Sys2Proof.Machine.execSessionClose f s
  | .finishTimeout slot => Sys2Proof.Machine.execFinishTimeout slot s
  | .sessionIdleTimeout slot => Sys2Proof.Machine.execSessionIdleTimeout slot s
  | .odRead f ev => Sys2Proof.Machine.execOdRead f ev s
  | .odWrite f => Sys2Proof.Machine.execOdWrite f s
  | .bulkWrite f ev => Sys2Proof.Machine.execBulkWrite f ev s
  | .bulkRead f => Sys2Proof.Machine.execBulkRead f s
  | .bulkReadData ev => Sys2Proof.Machine.execBulkReadData ev s
  | .flagUpdate f => Sys2Proof.Machine.execFlagUpdate f s
  | .recordScript f => Sys2Proof.Machine.execRecordScript f s
  | .heldFrameRelease ix ev => Sys2Proof.Machine.execHeldFrameRelease ix ev s
  | .writeOther => Sys2Proof.Machine.execWriteOther s
  | .odInstall ev => Sys2Proof.Machine.execOdInstall ev s
  | .installComplete => Sys2Proof.Machine.execInstallComplete s
  | .odEvict => Sys2Proof.Machine.execOdEvict s
  | .contextRetireEmpty ctx => Sys2Proof.Machine.execContextRetireEmpty ctx s
  | .odTideRestart => Sys2Proof.Machine.execOdTideRestart s
  | .odPark => Sys2Proof.Machine.execOdPark s
  | .odResume => Sys2Proof.Machine.execOdResume s
  | .odLoad => Sys2Proof.Machine.execOdLoad s
  | .loadComplete ev => Sys2Proof.Machine.execLoadComplete ev s
  | .odUnload => Sys2Proof.Machine.execOdUnload s
  | .odLaunch => Sys2Proof.Machine.execOdLaunch s
  | .odChannelRestart => Sys2Proof.Machine.execOdChannelRestart s
  | .odLinkReset => Sys2Proof.Machine.execOdLinkReset s
  | .linkResetEffect => Sys2Proof.Machine.execLinkResetEffect s
  | .odBayReset => Sys2Proof.Machine.execOdBayReset s
  | .bayResetEffect => Sys2Proof.Machine.execBayResetEffect s
  | .odStreamReset => Sys2Proof.Machine.execOdStreamReset s
  | .odPowerCeiling => Sys2Proof.Machine.execOdPowerCeiling s
  | .odPageCodeStrength => Sys2Proof.Machine.execOdPageCodeStrength s
  | .odBandModes => Sys2Proof.Machine.execOdBandModes s
  | .odBeatFree => Sys2Proof.Machine.execOdBeatFree s
  | .odBeatRelock => Sys2Proof.Machine.execOdBeatRelock s
  | .odRunArm => Sys2Proof.Machine.execOdRunArm s
  | .odRunClose => Sys2Proof.Machine.execOdRunClose s
  | .odRecordingEnable => Sys2Proof.Machine.execOdRecordingEnable s
  | .odReplayArm => Sys2Proof.Machine.execOdReplayArm s
  | .odReplayStop => Sys2Proof.Machine.execOdReplayStop s
  | .odSessionClose => Sys2Proof.Machine.execOdSessionClose s
  | .odAttestNonce => Sys2Proof.Machine.execOdAttestNonce s
  | .attestReportReady slot => Sys2Proof.Machine.execAttestReportReady slot s
  | .odTmxSelect => Sys2Proof.Machine.execOdTmxSelect s
  | .odSecurityVersion => Sys2Proof.Machine.execOdSecurityVersion s
  | .odOwnerKey => Sys2Proof.Machine.execOdOwnerKey s
  | .odTileRetire => Sys2Proof.Machine.execOdTileRetire s
  | .odDebugClose => Sys2Proof.Machine.execOdDebugClose s
  | .journalIntentDone readBackOk => Sys2Proof.Machine.execJournalIntentDone readBackOk s
  | .journalCommitDone => Sys2Proof.Machine.execJournalCommitDone s
  | .bootStageFuseDone => Sys2Proof.Machine.execBootStageFuseDone s
  | .bootStageIdentityDone => Sys2Proof.Machine.execBootStageIdentityDone s
  | .fwVerifyDone ev => Sys2Proof.Machine.execFwVerifyDone ev s
  | .firmwareAccess acc => Sys2Proof.Machine.execFirmwareAccess acc s
  | .bnModmul x => Sys2Proof.Machine.execBnModmul x s
  | .bnModexp x => Sys2Proof.Machine.execBnModexp x s
  | .bnModinv x => Sys2Proof.Machine.execBnModinv x s
  | .bnPchk x => Sys2Proof.Machine.execBnPchk x s
  | .bnPmul x => Sys2Proof.Machine.execBnPmul x s
  | .bnPmulg x => Sys2Proof.Machine.execBnPmulg x s
  | .bnPadd x => Sys2Proof.Machine.execBnPadd x s
  | .bnRands x trng => Sys2Proof.Machine.execBnRands x trng s
  | .bnAbort => Sys2Proof.Machine.execBnAbort s
  | .bnSlotLenWrite slot len => Sys2Proof.Machine.execBnSlotLenWrite slot len s
  | .bnSlotDataWrite slot word v => Sys2Proof.Machine.execBnSlotDataWrite slot word v s
  | .bnOpComplete => Sys2Proof.Machine.execBnOpComplete s
  | .bnUeAbort slot byte => Sys2Proof.Machine.execBnUeAbort slot byte s
  | .trngHealthFail => Sys2Proof.Machine.execTrngHealthFail s
  | .bnAbortComplete => Sys2Proof.Machine.execBnAbortComplete s
  | .inputRise mv => Sys2Proof.Machine.execInputRise mv s
  | .rampStep => Sys2Proof.Machine.execRampStep s
  | .refclkValid => Sys2Proof.Machine.execRefclkValid s
  | .powerOnResetRelease => Sys2Proof.Machine.execPowerOnResetRelease s
  | .rampAbort mv => Sys2Proof.Machine.execRampAbort mv s
  | .inputFail mv => Sys2Proof.Machine.execInputFail mv s
  | .holdupEnd => Sys2Proof.Machine.execHoldupEnd s
  | .failRestart => Sys2Proof.Machine.execFailRestart s
  | .brownoutEnter => Sys2Proof.Machine.execBrownoutEnter s
  | .brownoutLeave => Sys2Proof.Machine.execBrownoutLeave s
  | .overvoltageFault => Sys2Proof.Machine.execOvervoltageFault s
  | .psDieFault ps => Sys2Proof.Machine.execPsDieFault ps s
  | .sensorHistoryFull => Sys2Proof.Machine.execSensorHistoryFull s
  | .powerCapRaise => Sys2Proof.Machine.execPowerCapRaise s
  | .powerCeilingFault => Sys2Proof.Machine.execPowerCeilingFault s
  | .dvfsClockSwitch b => Sys2Proof.Machine.execDvfsClockSwitch b s
  | .railSettled b => Sys2Proof.Machine.execRailSettled b s
  | .thermalCapLower b => Sys2Proof.Machine.execThermalCapLower b s
  | .thermalCapRaise b => Sys2Proof.Machine.execThermalCapRaise b s
  | .neighbourThermFault b1 b2 => Sys2Proof.Machine.execNeighbourThermFault b1 b2 s
  | .bayThermFault b => Sys2Proof.Machine.execBayThermFault b s
  | .uncoreThermFault => Sys2Proof.Machine.execUncoreThermFault s
  | .trstAssert low => Sys2Proof.Machine.execTrstAssert low s
  | .tapExtest refclk load => Sys2Proof.Machine.execTapExtest refclk load s
  | .tapSamplePreload refclk load => Sys2Proof.Machine.execTapSamplePreload refclk load s
  | .tapIdcode => Sys2Proof.Machine.execTapIdcode s
  | .tapIntscan => Sys2Proof.Machine.execTapIntscan s
  | .tapMemacc dr => Sys2Proof.Machine.execTapMemacc dr s
  | .tapBypass code => Sys2Proof.Machine.execTapBypass code s
  | .memaccRead addr => Sys2Proof.Machine.execMemaccRead addr s
  | .memaccWrite addr data => Sys2Proof.Machine.execMemaccWrite addr data s
  | .memaccServe ev => Sys2Proof.Machine.execMemaccServe ev s
  | .frameCrcFail v => Sys2Proof.Machine.execFrameCrcFail v s
  | .blockError => Sys2Proof.Machine.execBlockError s

end Sys2Proof.Machine
end

