-- ==== Sys2Proof/Machine/Tick.lean ====
section
/-! DEFINITION. One cy of the core clock, taken when no command waits: the no-progress count, the stall counters, the ages of memory requests and the stamp offset (R200, R206, R276, R291, R319). -/

namespace Sys2Proof.Machine

/-- The cause a stream waits with. -/
def Stream.waitCause (x : Stream) : Option Cause := if x.status = .wait then x.wait.map (fun w => w.cause) else none

/-- The causes of every wait of a bay. (DEDUCED, log 120) -/
def bayCauses (b : Bay) (s : State) : List Cause :=
  (s.bay b).a.waitCause.toList ++ (s.bay b).x.waitCause.toList ++ (unitWaits b .x s).map (fun h => h.cause) ++
    (unitWaits b .a s).map (fun h => h.cause)

/-- The cause a stream's stall is counted under: that of its oldest waiting instruction (R206). -/
def stallCause (own : Option Cause) (l : List UnitWait) : Option Cause :=
  match oldestWait l with
  | some e => some e.cause
  | none => own

/-- Index of a cause in the stall counters (R205). -/
def Cause.index : Cause → Fin 15
  | .flagL => 0
  | .flagG => 1
  | .flagLink => 2
  | .dqEmpty => 3
  | .dqFull => 4
  | .tile => 5
  | .vec => 6
  | .ntt => 7
  | .tdOpen => 8
  | .keyEmpty => 9
  | .hop => 10
  | .pool => 11
  | .beat => 12
  | .park => 13
  | .other => 14

/-- The cause counted for a stream that is parked or waits. -/
def Stream.ownCause (x : Stream) : Option Cause := if x.status = .parked then some .park else x.waitCause

/-- One cy counted under a cause. (DEDUCED, log 121) -/
def Stream.stalled (x : Stream) (c : Option Cause) : Stream :=
  match c with
  | some c => { x with stall := x.stall.set c.index (satAdd 64 x.stall[c.index] 1) }
  | none => x

/-- Two clock ratios: a bay at step k makes 15 + k cy in 30 of the core clock (R412). (DESIGN CHOICE, log 8) -/
def phaseNext (x : Bays) (step : Nat) : Nat := x.phase + 15 + step

/-- A unit of the bay works on a started instruction, or the key reader receives a fill: the bay moves (R200).
(DEDUCED, log 142) -/
def Bays.working (x : Bays) : Bool :=
  x.tiles.any (fun t =>
    !t.muls.isEmpty || t.drain.isSome || (match t.load with
      | some l => !l.tide
      | none => false)) ||
    !x.vec.kmacs.isEmpty || !x.vec.sums.isEmpty || x.nt.run.isSome || !x.tbl.loads.isEmpty ||
    (!x.tide.halt && (x.tide.kh0.st == .filling || x.tide.kh1.st == .filling))

/-- A request is of bay b's transfer engine, at stack m. -/
def engineReq (b : Bay) (m : Stk) (q : MemReq) : Bool := (q.req == 6 && m == b) || (q.req == 5 && q.src == b)

/-- The request is for one of a transfer's bytes: a read for those it reads, a write for those it writes. -/
def MemReq.isFor (q : MemReq) (t : List Nat × List Nat) : Bool :=
  (if q.data.isNone then t.1 else t.2).any (fun a => decide (q.addr ≤ a) && decide (a < q.addr + q.len))

/-- A request the bay's engine makes for a transfer's bytes waits at a stack for a tracker entry, or is an accepted read that
awaits its data (R276, R289). -/
def awaitsStack (b : Bay) (s : State) (t : Unit → List Nat × List Nat) : Bool :=
  (List.finRange 12).any (fun m =>
    s.stk[m].blocked.any (fun q => engineReq b m q && q.isFor (t ())) ||
      s.stk[m].reqs.any (fun q => q.data.isNone && engineReq b m q && q.isFor (t ())))

/-- The bytes of the burst a run's next record awaits. -/
def RingRun.awaited (r : RingRun) : List Nat × List Nat := (if r.buf.isEmpty && burstCan r then r.burstBytes else [], [])

/-- The oldest unfinished transfer of a bay, the first active one or the ring record that starts next, awaits stacked memory
(R264, R276). -/
def engineBlocked (b : Bay) (s : State) : Bool :=
  match (s.bay b).xf.active with
  | e :: _ => awaitsStack b s (fun _ => e.op.touched s)
  | [] =>
    match (s.bay b).xf.ring with
    | some r => awaitsStack b s (fun _ => r.awaited)
    | none => false

/-- The bay's transfer engine moves bytes: an active transfer, or the run's next burst, does not await stacked memory. -/
def engineMoves (b : Bay) (s : State) : Bool :=
  let x := (s.bay b).xf
  x.active.any (fun e => !awaitsStack b s (fun _ => e.op.touched s)) ||
    (!x.halt && x.ring.any (fun r => !awaitsStack b s (fun _ => r.awaited)))

/-- A transfer another bay has active passes the bay's fabric port (R200). -/
def crossed (b : Bay) (s : State) : Bool :=
  (List.finRange 12).any (fun n => n != b && engineMoves n s && (s.bay n).xf.active.any (fun e =>
    let l := e.op.touched s
    (l.1 ++ l.2).any (fun a => bayAt s a == b.val)))

/-- The bay moved since the last cy of the core clock, or moves in it (R200). -/
def bayMoves (b : Bay) (s : State) : Bool := (s.bay b).moved || (s.bay b).working || engineMoves b s || crossed b s

/-- The no-progress count after a cy of the core clock (R200). -/
def npcNext (x : Bays) (waits : List Cause) (moves device cy : Bool) : Nat :=
  if !waits.any Cause.watched then 0
  else if moves || (waits.any Cause.external && device) then 0
  else if cy then min dlkCount (x.npc + 1)
  else x.npc

/-- One cy in which the oldest unfinished transfer of a channel moves no byte, counted under its cause: an active one moves bytes
unless its request waits for stacked memory, which counts MEM; else HALT while the channel is halted, RING where the run's next
record awaits its burst (R276, R289). (DESIGN CHOICE, log 68) -/
def Xfer.stallCy (x : Xfer) (blocked : Bool) : Xfer :=
  let count := fun (i : Fin 7) => { x with causes := x.causes.set i (satAdd 64 x.causes[i] 1) }
  if x.queue.isEmpty && x.active.isEmpty && x.ring.isNone then x
  else if !x.active.isEmpty && !blocked then x
  else if x.halt then count 6
  else if blocked then count 2
  else
    match x.ring with
    | some r => if r.buf.isEmpty then count 5 else x
    | none => x

/-- A bay's clock runs: not stopped by Gong, not paused by a switch (R414, R430). -/
def bayRuns (b : Bay) (s : State) : Bool := s.faults.gong == 0#8 && s.pwr.pause[b] == 0

/-- Whether a bay completes a cy of its own clock in this cy of the core clock. -/
def bayCy (b : Bay) (s : State) : Bool := bayRuns b s && decide (30 ≤ phaseNext (s.bay b) s.pwr.step[b])

/-- The device moved since the last cy of the core clock (R200). -/
def deviceMoved (s : State) : Bool := s.hdr.moved || (List.finRange 12).any (fun b => bayMoves b s)

/-- A bay after a cy of the core clock. -/
def bayTick (b : Bay) (s : State) : Bays :=
  let x := (s.bay b).cyOver
  let x := { x with x := { x.x with strobe := x.x.strobe && !s.tmx.samples } }
  let cy := bayCy b s
  let n := npcNext x (bayCauses b s) (bayMoves b s) (deviceMoved s) cy
  let p := if bayRuns b s then phaseNext x s.pwr.step[b] % 30 else x.phase
  if cy then
    { x with
      npc := n, moved := false, phase := p
      a := x.a.stalled x.a.ownCause
      x := x.x.stalled (stallCause x.x.ownCause (unitWaits b .x s))
      xf := x.xf.stallCy (engineBlocked b s) }
  else { x with npc := n, phase := p }

/-- Bays whose X-stream's cy is counted under KEY_EMPTY (R110, R206). -/
def keyEmptyBays (s : State) : Nat :=
  ((List.finRange 12).filter (fun b =>
    bayCy b s && stallCause (s.bay b).x.ownCause (unitWaits b .x s) == some .keyEmpty)).length

/-- Stacks at which a Tide request waits for a tracker entry (R289). -/
def readerStalls (s : State) : Nat := ((List.finRange 12).filter (fun m => s.stk[m].blocked.any (fun q => q.req == 7))).length

/-- Some pseudo-channel of a stack has no shared entry free (R289, R299). -/
def Stack.noShared (k : Stack) (s : State) : Bool :=
  decide (704 ≤ k.reqs.length) && (List.range 32).any (fun c => !entryFree (inChan s k c) 6)

/-- Requests one cy older, and a cy with no shared entry free counted (R291, R299). (DEDUCED, log 128) -/
def Stack.older (k : Stack) (s : State) : Stack :=
  { k with
    reqs := k.reqs.map (fun q => { q with age := q.age + 1 })
    noEntry := if k.noShared s then satAdd 64 k.noEntry 1 else k.noEntry }

/-- One cy of the core clock; nothing where the compute die is not clocked. -/
def tick (s : State) : State :=
  if clocked s then
    let n := keyEmptyBays s
    replayAdvance
      { s with
        bays := s.bays.mapFinIdx (fun i _ h => bayTick ⟨i, h⟩ s)
        hdr := { s.hdr with moved := false }
        stk := s.stk.map (fun k => k.older s)
        pwr := { s.pwr with pause := s.pwr.pause.map (fun n => n - 1) }
        faults := { s.faults with gongNow := false }
        tideCtr :=
          { s.tideCtr with
            keyWait := satAdd 64 s.tideCtr.keyWait n, readerStall := satAdd 64 s.tideCtr.readerStall (readerStalls s) }
        beat := { s.beat with edgeNow := false }
        rcd := { s.rcd with cyEnt := [] }
        tmx := s.tmx.step (tmxSample s.od.tmxNow s) (fun b => bayCy b s)
        tick := s.tick + 1 }
  else s

end Sys2Proof.Machine
end

