-- ==== Sys2Proof/Machine/Step.lean ====
section
/-! DEFINITION. One step of the block: the command at the front of the queue, or one tick of the core clock when none waits. -/

namespace Sys2Proof.Machine

/-- One step: the first waiting command acts on the state with the queue's rest; with no command waiting, one cy of the
core clock passes (DESIGN CHOICE, log 7). (DESIGN CHOICE, log 3; DESIGN CHOICE, log 7) -/
def step (s : State) : Host.Outcome State Fault Refusal :=
  match s.pending with
  | [] => .next (tick s)
  | c :: r => exec c { s with pending := r }

/-- The state with the command a table word spells put at the front of its queue; unchanged where the word spells none. -/
def State.withFetchWord (s : State) (nbits w : Nat) : State :=
  match decodeTableWord nbits w with
  | some c => { s with pending := c :: s.pending }
  | none => s

end Sys2Proof.Machine
end

