-- ==== Sys2Proof/Safety.lean ====
section
/-! DEFINITION. The words the statements are written in: what a step leaves alone, when a stream may issue, and the invariants of the block. -/

namespace Sys2Proof.Machine

/-! ### Frames -/

/-- Nothing but the state of one bay differs: every register, memory byte, header, queue and counter outside it is as
before. -/
def onlyBay (b : Bay) (s t : State) : Prop :=
  t = { s with bays := t.bays } ∧ ∀ c : Bay, c ≠ b → t.bay c = s.bay c

/-- Nothing but one stream of one bay differs, and the bay is marked as having moved (R200). -/
def onlyStrm (b : Bay) (st : Strm) (s t : State) : Prop :=
  onlyBay b s t ∧ t.bay b = { (s.bay b).setStrm st (t.strm b st) with moved := true }

/-- The same, but the local flags of the bay may differ too. -/
def onlyStrmFlags (b : Bay) (st : Strm) (s t : State) : Prop :=
  onlyBay b s t ∧ t.bay b = { (s.bay b).setStrm st (t.strm b st) with moved := true, flags := (t.bay b).flags }

/-- Every byte of stacked memory and scratchpad outside the record ring reads as before. -/
def ringOnly (s t : State) : Prop := ∀ a : Nat, a < ringBase ∨ ringBase + 2 ^ 29 ≤ a → t.rd a = s.rd a

/-- A bay is as before, but that its streams may have been told a pool they used is IDLE again (R211). -/
def sameBay (b : Bay) (s t : State) : Prop :=
  t.bay b = { s.bay b with
    a := { (s.bay b).a with pools := (t.bay b).a.pools }, x := { (s.bay b).x with pools := (t.bay b).x.pools } }

/-! ### When a stream may issue (R179, R198, R411, R430, R448) -/

/-- The compute die is powered and clocked and Gong has not been raised. -/
def dieRuns (s : State) : Bool := s.pwr.st == .run && !s.tap.cdStopped && s.faults.gong == 0#8

/-- The stream is in RUN, or in WAIT for this very command. -/
def strmReady (b : Bay) (st : Strm) (c : Instr) (s : State) : Bool :=
  (s.strm b st).status == .run || (s.strm b st).waitsOn c

/-- The stream may issue the command: the die runs, the bay is not parked, the loader accepts the instruction, the stream is
ready, and its IMEM word is no uncorrectable one (R208, R251). -/
def mayIssue (b : Bay) (st : Strm) (c : Instr) (s : State) : Bool :=
  dieRuns s && !(s.bay b).parked && c.wf && strmReady b st c s && (fetchBad b st s).isNone

/-! ### Memories a step reads (R248, R251) -/

/-- No page of a page-coded memory is under repair, so no request waits for one. -/
def noRepair (s : State) : Bool := s.bays.toList.all (fun x => x.prot.repairing.isNone)

/-- No request to stacked memory waits to be served, so none keeps a unit's access waiting (R290). -/
def noReqs (s : State) : Bool := s.stk.toList.all (fun k => k.reqs.all (fun q => q.served))

/-- Nothing keeps an access to memory waiting: no repair and no earlier request. -/
def memFree (s : State) : Bool := noRepair s && noReqs s

/-- No unit of the bay's byte-coded memories is known to be uncorrectable. -/
def soundUnits (b : Bay) (s : State) : Bool := (s.bay b).prot.smallBad.isEmpty

/-! ### Frames of the link (R331, R337, R345, R346) -/

/-- The link accepts the frame: the lanes are aligned, it is of the row's class and opcode, carries the LSEQ expected, passes
every check of R346, and neither LSEQ is near its last value. -/
def accepts (cls opc : Byte) (f : Frame) (s : State) : Bool :=
  linkOn s && f.cls == cls && f.opc == opc && decide (f.lseq.toNat = s.link.rxNext) && (frameFails f s).isNone &&
    decide (s.link.rxNext + 1 < 2 ^ 48 - 1) && decide (s.link.txNext + s.link.out.length + s.link.resps.length + 8 < 2 ^ 48)

/-- The accepted frame is passed at once: no holding rule keeps it, and no replay gates it (R326, R347). -/
def passes (cls opc : Byte) (f : Frame) (s : State) : Bool :=
  accepts cls opc f s && canPass f s.link.held s && s.rcd.replay != .active && s.rcd.gated.isEmpty

/-- Some frame sent and not yet acknowledged, or built and waiting to be sent, has the property. -/
def sends (s : State) (p : OutFrame → Prop) : Prop := ∃ g ∈ s.link.out ++ s.link.unacked, p g

/-! ### Invariants -/

/-- The memory is in its canonical form: addresses rising, no byte listed that reads as an unlisted one does. -/
def MemInv (s : State) : Prop := Memory.wf s.mem = true

/-- No bay's no-progress count passes 4,096, and no bay's DVFS step passes 15 (R200, R412). -/
def ClockInv (s : State) : Prop := ∀ b : Bay, (s.bay b).npc ≤ 4096 ∧ s.pwr.step[b] ≤ 15

/-- Neither a raised DVFS step that is under way nor a target leads past step 15: what makes `ClockInv` one that steps keep. -/
def RaiseInv (s : State) : Prop :=
  ∀ b : Bay, ((s.pwr.raise[b]).isSome = true → s.pwr.step[b] ≤ 14) ∧ s.pwr.target[b] ≤ 15

end Sys2Proof.Machine
end

