-- ==== Sys2Proof/Certificates/Slice0/Obligations.lean ====
section
/-! DEFINITION. The statements for the provers, each with the rule of the spec it rests on. -/

open Sys2Proof Sys2Proof.Machine

/-- TS.CADD, TS.CSUB, TS.CMUL, TS.CSHL, TS.CSHR, TS.CAND, TS.COR, TS.CXOR and TS.CSET (R181): the result and the frame. -/
def Obligations.CounterArithmetic : Prop :=
  (∀ (b : Bay) (st : Strm) (cd ca : Ctr) (o : BOp) (s : State) (c : Instr) (f : Nat → Nat → Nat),
    (c, f) ∈ ([(.tsCadd b st cd ca o, fun x y => x + y),
               (.tsCsub b st cd ca o, fun x y => x + 2 ^ 32 - y),
               (.tsCmul b st cd ca o, fun x y => x * y),
               (.tsCshl b st cd ca o, fun x y => x * 2 ^ (y % 32)),
               (.tsCshr b st cd ca o, fun x y => x / 2 ^ (y % 32)),
               (.tsCand b st cd ca o, fun x y => x &&& y),
               (.tsCor b st cd ca o, fun x y => x ||| y),
               (.tsCxor b st cd ca o, fun x y => x ^^^ y)] : List (Instr × (Nat → Nat → Nat))) →
    mayIssue b st c s = true → (s.strm b st).free (cd :: ca :: BOp.regs o) = true →
    ∃ t, exec c s = .next t ∧ onlyStrm b st s t ∧
      t.strm b st = ((s.strm b st).setCtr cd
        (BitVec.ofNat 32 (f (s.strm b st).ctr[ca].toNat (BOp.val o (s.strm b st)).toNat))).next) ∧
  (∀ (b : Bay) (st : Strm) (cd : Ctr) (imm : W32) (s : State),
    mayIssue b st (.tsCset b st cd imm) s = true → (s.strm b st).free [cd] = true →
    ∃ t, exec (.tsCset b st cd imm) s = .next t ∧ onlyStrm b st s t ∧
      t.strm b st = ((s.strm b st).setCtr cd imm).next)

/-- TS.CMP and TS.KLOG (R181). -/
def Obligations.Comparators : Prop :=
  (∀ (b : Bay) (st : Strm) (kd : Fin 8) (ca : Ctr) (r : Rel) (o : BOp) (s : State),
    mayIssue b st (.tsCmp b st kd ca r o) s = true → (s.strm b st).free (ca :: BOp.regs o) = true →
    ∃ t, exec (.tsCmp b st kd ca r o) s = .next t ∧ onlyStrm b st s t ∧
      t.strm b st = ((s.strm b st).setCmp kd
        (let x := (s.strm b st).ctr[ca]
         let y := BOp.val o (s.strm b st)
         match r with
         | .eq => decide (x.toNat = y.toNat)
         | .ne => decide (x.toNat ≠ y.toNat)
         | .lt => decide (x.toInt < y.toInt)
         | .ge => decide (y.toInt ≤ x.toInt)
         | .ltu => decide (x.toNat < y.toNat)
         | .geu => decide (y.toNat ≤ x.toNat))).next) ∧
  (∀ (b : Bay) (st : Strm) (kd ka kb : Fin 8) (op : KOp) (s : State),
    mayIssue b st (.tsKlog b st kd ka op kb) s = true →
    ∃ t, exec (.tsKlog b st kd ka op kb) s = .next t ∧ onlyStrm b st s t ∧
      t.strm b st = ((s.strm b st).setCmp kd
        (let x := (s.strm b st).cmp.getLsbD ka
         let y := (s.strm b st).cmp.getLsbD kb
         match op with
         | .and => x && y
         | .or => x || y
         | .xor => x != y
         | .andn => x && !y)).next)

/-- TS.LDW, TS.STW, TS.BEAT, TS.LIDX (R181, R182). Where the rules are silent it states the model's choice: log 15, 69. -/
def Obligations.DmemAccess : Prop :=
  (∀ (b : Bay) (st : Strm) (cd ca : Ctr) (imm : BitVec 16) (s : State),
    mayIssue b st (.tsLdw b st cd ca imm .clean) s = true → (s.strm b st).free [cd, ca] = true →
    ((s.strm b st).ctr[ca] + imm.signExtend 32).toNat < 16384 →
    (s.bay b).prot.unitBad (0x11, 0x10000 * strmNo st + 4 * ((s.strm b st).ctr[ca] + imm.signExtend 32).toNat) = false →
    ∃ t, exec (.tsLdw b st cd ca imm .clean) s = .next t ∧ onlyStrm b st s t ∧
      t.strm b st = ((s.strm b st).setCtr cd
        (Sparse.get (fun _ => 0#32) (s.strm b st).dmem ((s.strm b st).ctr[ca] + imm.signExtend 32).toNat)).next) ∧
  (∀ (b : Bay) (st : Strm) (cs ca : Ctr) (imm : BitVec 16) (s : State),
    mayIssue b st (.tsStw b st cs ca imm) s = true → (s.strm b st).free [cs, ca] = true →
    ((s.strm b st).ctr[ca] + imm.signExtend 32).toNat < 16384 →
    Sparse.wf (fun _ => 0#32) (s.strm b st).dmem = true →
    ∃ t, exec (.tsStw b st cs ca imm) s = .next t ∧ onlyBay b s t ∧
      t.bay b = { (s.bay b).setStrm st (t.strm b st) with
        moved := true
        prot := (s.bay b).prot.cured 0x11 (0x10000 * strmNo st + 4 * ((s.strm b st).ctr[ca] + imm.signExtend 32).toNat) } ∧
      t.strm b st = { (s.strm b st).next with dmem := (t.strm b st).dmem } ∧
      ∀ i : Nat, Sparse.get (fun _ => 0#32) (t.strm b st).dmem i =
        if i = ((s.strm b st).ctr[ca] + imm.signExtend 32).toNat then (s.strm b st).ctr[cs]
        else Sparse.get (fun _ => 0#32) (s.strm b st).dmem i) ∧
  (∀ (b : Bay) (st : Strm) (cd ca : Ctr) (imm : BitVec 16) (ev : CodeEvent) (s : State),
    mayIssue b st (.tsLdw b st cd ca imm ev) s = true → (s.strm b st).free [cd, ca] = true →
    ((s.strm b st).ctr[ca] + imm.signExtend 32).toNat < 16384 →
    ((∃ i, ev = .small 0x11#8 i) ∨
      (s.bay b).prot.unitBad (0x11, 0x10000 * strmNo st + 4 * ((s.strm b st).ctr[ca] + imm.signExtend 32).toNat) = true) →
    ∃ t, exec (.tsLdw b st cd ca imm ev) s = .next t ∧ ringOnly s t ∧
      (t.strm b st).ctr = (s.strm b st).ctr ∧ (t.strm b st).status = .halted ∧ (t.strm b st).fault = 0x44#8 ∧
      (t.strm b st).fpc = (s.strm b st).pc) ∧
  (∀ (b : Bay) (st : Strm) (cd : Ctr) (s : State),
    mayIssue b st (.tsBeat b st cd) s = true → (s.strm b st).free [cd] = true →
    ∃ t, exec (.tsBeat b st cd) s = .next t ∧ onlyStrm b st s t ∧
      t.strm b st = ((s.strm b st).setCtr cd (BitVec.ofNat 32 s.beat.beat.toNat)).next) ∧
  (∀ (b : Bay) (st : Strm) (cd : Ctr) (l : Fin 4) (s : State),
    mayIssue b st (.tsLidx b st cd l) s = true → (s.strm b st).free [cd] = true →
    ∃ t, exec (.tsLidx b st cd l) s = .next t ∧ onlyStrm b st s t ∧
      t.strm b st = ((s.strm b st).setCtr cd
        (if h : l.val < (s.strm b st).loops.length then BitVec.ofNat 32 ((s.strm b st).loops[l.val]).idx else 0#32)).next)

/-- R182. -/
def Obligations.DmemRange : Prop :=
  (∀ (b : Bay) (st : Strm) (cd ca : Ctr) (imm : BitVec 16) (ev : CodeEvent) (s : State) (c : Instr),
    (c = .tsLdw b st cd ca imm ev ∨ c = .tsStw b st cd ca imm) →
    mayIssue b st c s = true → (s.strm b st).free [cd, ca] = true →
    16384 ≤ ((s.strm b st).ctr[ca] + imm.signExtend 32).toNat →
    ∃ t, exec c s = .next t ∧
      t = { s with
        bays := t.bays, mem := t.mem, ms := t.ms, stk := t.stk, codes := t.codes, faults := t.faults, rcd := t.rcd, run := t.run
        hdr := if st = .x then (withdrawHop b s).hdr else s.hdr } ∧
      t.bay b = { (s.bay b).setStrm st { s.strm b st with
        status := .halted, fault := 0x35#8, fpc := (s.strm b st).pc, wait := (s.strm b st).dueWait, haltAge := some (s.bay b).issued } with
        moved := true } ∧
      (∀ d : Bay, d ≠ b → t.bay d = s.bay d) ∧ ringOnly s t ∧
      t.faults = (countFault 0x35 b (strmNo st) s).faults) ∧
  (∀ (b : Bay) (st : Strm) (cd : Ctr) (l : Fin 4) (s : State),
    mayIssue b st (.tsLidx b st cd l) s = true → (s.strm b st).free [cd] = true →
    (s.strm b st).loops.length ≤ l.val →
    ∃ t, exec (.tsLidx b st cd l) s = .next t ∧ (t.strm b st).ctr[cd] = 0#32) ∧
  (∀ (s : State) (b : Bay) (st : Strm) (r : Ctr), ((powerOn s).strm b st).ctr[r] = 0#32 ∧ ((powerOn s).strm b st).cmp = 0#8) ∧
  (∀ (s : State) (b : Bay) (st : Strm) (r : Ctr), ((linkReset s).strm b st).ctr[r] = 0#32 ∧ ((linkReset s).strm b st).cmp = 0#8) ∧
  (∀ (s : State) (b : Bay) (st : Strm) (r : Ctr), ((resetBay b s).strm b st).ctr[r] = 0#32 ∧ ((resetBay b s).strm b st).cmp = 0#8) ∧
  (∀ (s : State) (b : Bay) (st : Strm), ((resetStream b st s).strm b st).ctr = (s.strm b st).ctr ∧
    ((resetStream b st s).strm b st).cmp = (s.strm b st).cmp)

/-- TS.BR, TS.JMP, TS.CALL, TS.RET, TS.LOOP, TS.BREAK, TS.END (R183 to R186, R225). -/
def Obligations.ControlFlow : Prop :=
  (∀ (b : Bay) (st : Strm) (src : BrSrc) (pol : Bool) (target : BitVec 15) (s : State),
    mayIssue b st (.tsBr b st src pol target) s = true → BrSrc.busy src b st s = false →
    ∃ t, exec (.tsBr b st src pol target) s = .next t ∧ onlyStrm b st s t ∧
      t.strm b st =
        if (match src with
            | .cmp k => (s.strm b st).cmp.getLsbD k
            | .flag f => (s.bay b).flags.getLsbD f) = pol then
          { s.strm b st with pc := target, status := .run, wait := none, fpc := 0#15, strobe := true }
        else (s.strm b st).next) ∧
  (∀ (b : Bay) (st : Strm) (target : BitVec 15) (s : State),
    mayIssue b st (.tsJmp b st target) s = true →
    ∃ t, exec (.tsJmp b st target) s = .next t ∧ onlyStrm b st s t ∧
      t.strm b st = { s.strm b st with pc := target, status := .run, wait := none, fpc := 0#15, strobe := true }) ∧
  (∀ (b : Bay) (st : Strm) (target : BitVec 15) (s : State),
    mayIssue b st (.tsCall b st target) s = true → (s.strm b st).calls.length < 8 →
    ∃ t, exec (.tsCall b st target) s = .next t ∧ onlyStrm b st s t ∧
      t.strm b st = { (s.strm b st).next with pc := target, calls := (s.strm b st).next.pc :: (s.strm b st).calls }) ∧
  (∀ (b : Bay) (st : Strm) (p : BitVec 15) (r : List (BitVec 15)) (s : State),
    mayIssue b st (.tsRet b st) s = true → (s.strm b st).frame.all (fun f => f.depth != r.length + 1) = true →
    (s.strm b st).calls = p :: r →
    ∃ t, exec (.tsRet b st) s = .next t ∧ onlyStrm b st s t ∧
      t.strm b st = { s.strm b st with pc := p, calls := r, status := .run, wait := none, fpc := 0#15, strobe := true }) ∧
  (∀ (b : Bay) (st : Strm) (f : HiddenFrame) (s : State),
    mayIssue b st (.tsRet b st) s = true → (s.strm b st).frame = some f → (s.strm b st).calls.length = f.depth →
    refreshOpen b s = false →
    ∃ t, exec (.tsRet b st) s = .next t ∧ t = { s with bays := t.bays, hdr := t.hdr } ∧
      (∀ d : Bay, d ≠ b → t.bay d = s.bay d) ∧
      t.bay b = { (s.bay b).setStrm st (t.strm b st) with moved := true } ∧
      t.strm b st = { s.strm b st with
        frame := none, loops := f.loops, ctr := f.ctr, cmp := f.cmp, pc := f.ret, fpc := f.ret, status := .wait
        wait := some { cause := .hop, timer := 0, limit := s.od.waitTimeout, cmd := f.hop, target := 0#32 } } ∧
      t.hdr = { s.hdr with
        brackets := s.hdr.brackets.map (fun k =>
          if k.holds b then { k with ins := k.ins.map (fun i => { i with back := setBit i.back b true }) } else k)
        moved := true }) ∧
  (∀ (b : Bay) (st : Strm) (cn : Ctr) (last : BitVec 15) (s : State),
    mayIssue b st (.tsLoop b st cn last) s = true → (s.strm b st).free [cn] = true →
    (s.strm b st).ctr[cn] = 0#32 →
    ∃ t, exec (.tsLoop b st cn last) s = .next t ∧ onlyStrm b st s t ∧
      t.strm b st = { s.strm b st with pc := last + 1, status := .run, wait := none, fpc := 0#15, strobe := true }) ∧
  (∀ (b : Bay) (st : Strm) (cn : Ctr) (last : BitVec 15) (s : State),
    mayIssue b st (.tsLoop b st cn last) s = true → (s.strm b st).free [cn] = true →
    (s.strm b st).ctr[cn] ≠ 0#32 → (s.strm b st).loops.length < 4 →
    ∃ t, exec (.tsLoop b st cn last) s = .next t ∧ onlyStrm b st s t ∧
      t.strm b st = { s.strm b st with
        pc := (s.strm b st).pc + 1
        loops := { start := (s.strm b st).pc + 1, last := last, left := (s.strm b st).ctr[cn].toNat, idx := 0 } ::
          (s.strm b st).loops
        status := .run, wait := none, fpc := 0#15, strobe := true }) ∧
  (∀ (b : Bay) (st : Strm) (k : Nat) (s : State) (h : k < (s.strm b st).loops.length),
    mayIssue b st (.tsBreak b st (k + 1)) s = true →
    ∃ t, exec (.tsBreak b st (k + 1)) s = .next t ∧ onlyStrm b st s t ∧
      t.strm b st = { s.strm b st with
        pc := ((s.strm b st).loops[k]'h).last + 1, loops := (s.strm b st).loops.drop (k + 1)
        status := .run, wait := none, fpc := 0#15, strobe := true }) ∧
  (∀ (b : Bay) (st : Strm) (s : State),
    mayIssue b st (.tsEnd b st) s = true → workDone b st s = true →
    ∃ t, exec (.tsEnd b st) s = .next t ∧ onlyStrm b st s t ∧
      t.strm b st = { s.strm b st with pc := (s.strm b st).pc + 1, status := .idle, wait := none, fpc := 0#15, strobe := true }) ∧
  (∀ (b : Bay) (st : Strm) (cn : Ctr) (last target : BitVec 15) (s : State) (c : Instr) (code : Byte),
    ((c = .tsLoop b st cn last ∧ code = 0x33#8 ∧ (s.strm b st).free [cn] = true ∧ (s.strm b st).ctr[cn] ≠ 0#32 ∧
        4 ≤ (s.strm b st).loops.length) ∨
      (c = .tsCall b st target ∧ code = 0x34#8 ∧ 8 ≤ (s.strm b st).calls.length) ∨
      (c = .tsRet b st ∧ code = 0x34#8 ∧ (s.strm b st).calls = [] ∧
        (s.strm b st).frame.all (fun f => f.depth != 0) = true) ∨
      (c = .tsRet b st ∧ code = 0x38#8 ∧ refreshOpen b s = true ∧
        (s.strm b st).frame.any (fun f => f.depth == (s.strm b st).calls.length) = true)) →
    mayIssue b st c s = true →
    ∃ t, exec c s = .next t ∧ ringOnly s t ∧
      t.strm b st = { s.strm b st with status := .halted, fault := code, fpc := (s.strm b st).pc, wait := (s.strm b st).dueWait, haltAge := some (s.bay b).issued })

/-- TS.FSET, TS.FCLR, TS.WAIT, FLAG_WAIT_END (R187). Where the rules are silent it states the model's choice: log 122. -/
def Obligations.LocalFlags : Prop :=
  (∀ (b : Bay) (st : Strm) (f : LFlag) (v : Bool) (s : State) (c : Instr),
    (c, v) ∈ [(Instr.tsFset b st f, true), (Instr.tsFclr b st f, false)] → mayIssue b st c s = true →
    ∃ t, exec c s = .next t ∧ onlyStrmFlags b st s t ∧ t.strm b st = (s.strm b st).next ∧
      ∀ g : LFlag, (t.bay b).flags.getLsbD g = if g = f then v else (s.bay b).flags.getLsbD g) ∧
  (∀ (b : Bay) (st : Strm) (f : LFlag) (pol clr : Bool) (s : State),
    mayIssue b st (.tsWait b st f pol clr) s = true → (s.strm b st).status = .run →
    (st = .x → (s.bay b).flagBusy.getLsbD f = false) → (s.bay b).flags.getLsbD f = pol →
    (st = .a → clr = true → pol = true → xConsumes b f s = false) →
    ∃ t, exec (.tsWait b st f pol clr) s = .next t ∧ onlyStrmFlags b st s t ∧ t.strm b st = (s.strm b st).next ∧
      ∀ g : LFlag, (t.bay b).flags.getLsbD g = if g = f ∧ pol = true ∧ clr = true then false else (s.bay b).flags.getLsbD g) ∧
  (∀ (b : Bay) (st : Strm) (f : LFlag) (pol clr : Bool) (s : State),
    mayIssue b st (.tsWait b st f pol clr) s = true → (s.strm b st).status = .run → (s.strm b st).wait = none →
    ((s.bay b).flags.getLsbD f ≠ pol ∨ (st = .a ∧ clr = true ∧ pol = true ∧ xConsumes b f s = true)) →
    exec (.tsWait b st f pol clr) s = .next (s.setBay b ((s.bay b).setStrm st
      { s.strm b st with
        status := .wait, fpc := (s.strm b st).pc
        wait := some ⟨.flagL, 0, s.od.waitTimeout, .tsWait b st f pol clr, 0#32⟩ }))) ∧
  (∀ (b : Bay) (st : Strm) (f : LFlag) (pol clr : Bool) (w : Wait) (s : State),
    dieRuns s = true → (s.strm b st).status = .wait → (s.strm b st).wait = some w →
    w.cmd = .tsWait b st f pol clr → (st = .x → (s.bay b).flagBusy.getLsbD f = false) →
    (s.bay b).flags.getLsbD f = pol →
    (st = .a → clr = true → pol = true → xConsumes b f s = false) →
    ∃ t, exec (.flagWaitEnd b st) s = .next t ∧ onlyStrmFlags b st s t ∧ t.strm b st = (s.strm b st).next ∧
      ∀ g : LFlag, (t.bay b).flags.getLsbD g = if g = f ∧ pol = true ∧ clr = true then false else (s.bay b).flags.getLsbD g)

/-- TS.GADD, TS.GSET, TS.GWAIT, GLOBAL_WAIT_END (R172, R189, R190). Where the rules are silent it states the model's choice: log 55. -/
def Obligations.GlobalFlags : Prop :=
  (∀ (b : Bay) (st : Strm) (g : Fin 256) (imm : Byte) (cs : Ctr) (s : State) (c : Instr) (v : Nat),
    (c, v) ∈ [(Instr.tsGadd b st g imm, (gflagOf g s).toNat + imm.toNat),
              (Instr.tsGset b st g cs, (s.strm b st).ctr[cs].toNat)] →
    mayIssue b st c s = true → (s.strm b st).free [cs] = true → Sparse.wf (fun _ => 0#16) s.hdr.gflags = true →
    (st = .x → s.stats.queue.all (fun e => e.1 != b) = true) →
    ∃ t, exec c s = .next t ∧ t = { s with bays := t.bays, hdr := { s.hdr with gflags := t.hdr.gflags, moved := true } } ∧
      t.bay b = { (s.bay b).setStrm st (s.strm b st).next with moved := true } ∧
      (∀ d : Bay, d ≠ b → t.bay d = s.bay d) ∧
      ∀ k : Fin 256, gflagOf k t = if k = g then BitVec.ofNat 16 v else gflagOf k s) ∧
  (∀ (b : Bay) (st : Strm) (g : Fin 256) (cn : Ctr) (s : State),
    mayIssue b st (.tsGwait b st g cn) s = true → (s.strm b st).status = .run → (s.strm b st).free [cn] = true →
    ((gflagOf g s).toNat + 2 ^ 16 - (s.strm b st).ctr[cn].toNat % 2 ^ 16) % 2 ^ 16 < 2 ^ 15 →
    ∃ t, exec (.tsGwait b st g cn) s = .next t ∧ onlyStrm b st s t ∧ t.strm b st = (s.strm b st).next) ∧
  (∀ (b : Bay) (st : Strm) (g : Fin 256) (cn : Ctr) (n m : Nat) (v : W32) (s : State),
    dieRuns s = true → (s.strm b st).status = .wait →
    (s.strm b st).wait = some ⟨if g.val < 224 then .flagG else .flagLink, n, m, .tsGwait b st g cn, v⟩ →
    ((gflagOf g s).toNat + 2 ^ 16 - v.toNat % 2 ^ 16) % 2 ^ 16 < 2 ^ 15 →
    ∃ t, exec (.globalWaitEnd b st) s = .next t ∧ onlyStrm b st s t ∧ t.strm b st = (s.strm b st).next)

/-- TS.QPUT, TS.QPOP, TS.REL, RELEASE_WAIT_END, TS.YIELD (R191, R192, R196, R197, R207). -/
def Obligations.QueuesAndRelease : Prop :=
  (∀ (b : Bay) (st : Strm) (q : Fin 8) (cn : Ctr) (m1 : Fin 16) (s : State),
    mayIssue b st (.tsQput b st q cn m1) s = true → (s.strm b st).free (ctrRun cn m1) = true →
    (s.bay b).dq[q].length < 32 →
    ∃ t, exec (.tsQput b st q cn m1) s = .next t ∧ onlyBay b s t ∧ t.strm b st = (s.strm b st).next ∧
      (∃ k : Nat, (t.bay b).dq[q] = (s.bay b).dq[q] ++
        [⟨k, some (padTo 64 ((ctrRun cn m1).flatMap (fun c => leBytes (s.strm b st).ctr[c].toNat 4)))⟩]) ∧
      (∀ r : Fin 8, r ≠ q → (t.bay b).dq[r] = (s.bay b).dq[r])) ∧
  (∀ (b : Bay) (st : Strm) (q : Fin 8) (cd : Ctr) (m1 : Fin 16) (k : Nat) (v : List Byte) (r : List DqEntry) (s : State),
    mayIssue b st (.tsQpop b st q cd m1 .clean) s = true → (s.strm b st).free (ctrRun cd m1) = true →
    soundUnits b s = true →
    (s.bay b).dq[q] = ⟨k, some v⟩ :: r →
    ∃ t, exec (.tsQpop b st q cd m1 .clean) s = .next t ∧ onlyBay b s t ∧ (t.bay b).dq[q] = r ∧
      t.strm b st = ((s.strm b st).fillCtrs (ctrRun cd m1) v).next) ∧
  (∀ (b : Bay) (st : Strm) (cb : Ctr) (s : State),
    mayIssue b st (.tsRel b st cb) s = true → (s.strm b st).status = .run → (s.strm b st).free [cb] = true →
    beatDone s.beat.beat (s.strm b st).ctr[cb] = true →
    ∃ t, exec (.tsRel b st cb) s = .next t ∧ onlyStrm b st s t ∧ t.strm b st = (s.strm b st).next) ∧
  (∀ (b : Bay) (st : Strm) (cb : Ctr) (n m : Nat) (v : W32) (s : State),
    dieRuns s = true → (s.strm b st).status = .wait → (s.strm b st).wait = some ⟨.beat, n, m, .tsRel b st cb, v⟩ →
    beatDone s.beat.beat v = true →
    if s.beat.st = .hold then exec (.releaseWaitEnd b st) s = .next s
    else ∃ t, exec (.releaseWaitEnd b st) s = .next t ∧ onlyStrm b st s t ∧ t.strm b st = (s.strm b st).next) ∧
  (∀ (b : Bay) (st : Strm) (s : State),
    mayIssue b st (.tsYield b st) s = true →
    ∃ t, exec (.tsYield b st) s = .next t ∧ onlyStrm b st s t ∧ (t.strm b st).pc = (s.strm b st).next.pc ∧
      ((t.strm b st).status = .parked ↔
        ((s.bay b).parkPend = true ∨ (s.bay b).parked = true) ∧ ¬ (st = .x ∧ inBracket b s = true)))

/-- TS.PINIT, POOL_ARMED, TS.TAKE, TAKE_INDEX_WRITE (R209, R210). Where the rules are silent it states the model's choice: log 25, 134. -/
def Obligations.WorkPools : Prop :=
  (∀ (b : Bay) (st : Strm) (cn cm : Ctr) (p : Fin 64) (s : State),
    mayIssue b st (.tsPinit b st cn cm p) s = true → (s.strm b st).free [cn, cm] = true →
    (poolOf p s).armed = false → (poolOf p s).decls.all (fun d => !(d.1 == b && d.2.1 == st)) = true →
    Sparse.wf (fun _ => Pool.reset) s.pools = true →
    ∃ t, exec (.tsPinit b st cn cm p) s = .next t ∧ t = { s with bays := t.bays, pools := t.pools } ∧
      (t.strm b st).status = .wait ∧ (t.strm b st).wait.map (fun w => w.cause) = some .pool ∧
      (t.strm b st).pc = (s.strm b st).pc ∧ (t.strm b st).ctr = (s.strm b st).ctr ∧
      poolOf p t = { poolOf p s with
        decls := (poolOf p s).decls ++
          [(b, st, (s.strm b st).ctr[cn].toNat, BitVec.ofNat 12 (s.strm b st).ctr[cm].toNat)] } ∧
      (∀ q : Fin 64, q ≠ p → poolOf q t = poolOf q s) ∧
      (declsFull (poolOf p t).decls = true → declsAgree (poolOf p t).decls = true →
        ∃ u, exec (.poolArmed p) t = .next u ∧ (u.strm b st).pc = (s.strm b st).next.pc ∧ (u.strm b st).status = .run ∧
          (u.strm b st).wait = none ∧ (u.strm b st).ctr = (s.strm b st).ctr)) ∧
  (∀ (p : Fin 64) (b : Bay) (st : Strm) (n : Nat) (mask : BayMask) (r : List (Bay × Strm × Nat × BayMask)) (s : State),
    dieRuns s = true → (poolOf p s).armed = false → (poolOf p s).decls = (b, st, n, mask) :: r →
    declsFull (poolOf p s).decls = true → declsAgree (poolOf p s).decls = true →
    Sparse.wf (fun _ => Pool.reset) s.pools = true →
    ∃ t, exec (.poolArmed p) s = .next t ∧ ringOnly s t ∧
      poolOf p t = { Pool.reset with
        arming := (poolOf p s).arming + 1, armed := true, count := n, mask := mask, bal := s.od.balance } ∧
      (∀ d ∈ (poolOf p s).decls, (s.strm d.1 d.2.1).pinits = true → t.strm d.1 d.2.1 = (s.strm d.1 d.2.1).next) ∧
      ∀ q : Fin 64, q ≠ p → poolOf q t = poolOf q s) ∧
  (∀ (p : Fin 64) (s : State),
    dieRuns s = true → (poolOf p s).armed = false → declsFull (poolOf p s).decls = true →
    declsAgree (poolOf p s).decls = false → Sparse.wf (fun _ => Pool.reset) s.pools = true →
    ∃ t, exec (.poolArmed p) s = .next t ∧ ringOnly s t ∧ poolOf p t = { poolOf p s with decls := [] } ∧
      ∀ d ∈ (poolOf p s).decls, (t.strm d.1 d.2.1).status = .halted ∧
        ((s.strm d.1 d.2.1).status ≠ .halted → (t.strm d.1 d.2.1).fault = 0x37#8)) ∧
  (∀ (b : Bay) (st : Strm) (cd : Ctr) (p : Fin 64) (s : State),
    mayIssue b st (.tsTake b st cd p) s = true → (s.strm b st).free [cd] = true →
    (poolOf p s).armed = true → (poolOf p s).mask.getLsbD b = true →
    Sparse.wf (fun _ => Pool.reset) s.pools = true →
    ∃ t, exec (.tsTake b st cd p) s = .next t ∧ ringOnly s t ∧ (t.strm b st).pc = (s.strm b st).next.pc ∧
      (t.strm b st).busy.getLsbD cd = true ∧ (t.strm b st).ctr = (s.strm b st).ctr ∧
      (∃ i : Nat,
        i = (if (poolOf p s).bal = true then (poolOf p s).next
             else rankIn (poolOf p s).mask b + (bitsSet 12 (poolOf p s).mask).length * (poolOf p s).taken[b]) ∧
        (t.strm b st).takes = (s.strm b st).takes ++
          [(cd, if i < (poolOf p s).count then BitVec.ofNat 32 i else 0xFFFFFFFF#32, p, (poolOf p s).arming)]) ∧
      (poolOf p t).taken[b] = (poolOf p s).taken[b] + 1) ∧
  (∀ (b : Bay) (st : Strm) (cd : Ctr) (p : Fin 64) (s : State),
    mayIssue b st (.tsTake b st cd p) s = true → (s.strm b st).free [cd] = true →
    (poolOf p s).armed = true → (poolOf p s).mask.getLsbD b = false →
    ∃ t, exec (.tsTake b st cd p) s = .next t ∧ ringOnly s t ∧ (poolOf p t).taken = (poolOf p s).taken ∧
      (poolOf p t).next = (poolOf p s).next ∧
      (t.strm b st).status = .halted ∧ (t.strm b st).fault = 0x37#8 ∧ (t.strm b st).fpc = (s.strm b st).pc) ∧
  (∀ (b : Bay) (st : Strm) (cd : Ctr) (v : W32) (p : Fin 64) (g : Nat) (r : List (Ctr × W32 × Fin 64 × Nat)) (s : State),
    dieRuns s = true → (s.strm b st).takes = (cd, v, p, g) :: r →
    ∃ t, exec (.takeIndexWrite b st) s = .next t ∧ t = { s with bays := t.bays, pools := t.pools } ∧
      (t.strm b st).takes = r ∧ (t.strm b st).ctr = (s.strm b st).ctr.set cd v ∧
      (t.strm b st).busy = setBit (s.strm b st).busy cd false ∧ (t.strm b st).pc = (s.strm b st).pc ∧
      (t.strm b st).status = (s.strm b st).status ∧
      (¬ (v = 0xFFFFFFFF#32 ∧ (poolOf p s).armed = true ∧ (poolOf p s).arming = g) → onlyStrm b st s t) ∧
      (v = 0xFFFFFFFF#32 → (poolOf p s).armed = true → (poolOf p s).arming = g →
        Sparse.wf (fun _ => Pool.reset) s.pools = true → poolOf p t = (poolOf p s).exhaust b))

/-- TS.HOP, TS.HEND, TS.HOUT (R51, R108, R121, R203, R222 to R224, R428, R454). Where the rules are silent it states the model's choice: log 50, 158. -/
def Obligations.BracketIssue : Prop :=
  (∀ (b : Bay) (s1 s2 dst x : Ctr) (kind : Fin 16) (mask : BayMask) (i : Image) (s : State),
    mayIssue b .x (.tsHop b s1 s2 dst x kind mask) s = true → (s.strm b .x).free (hopCtrs s1 s2 dst x kind) = true →
    inBracket b s = false → hopIssued b mask s = false → imageOf b s = some i →
    ((s.strm b .x).ctr[s1]).toNat < i.hwCount → ((s.strm b .x).ctr[dst]).toNat < i.hwCount →
    (hopUsesS2 kind = true → ((s.strm b .x).ctr[s2]).toNat < i.hwCount) →
    ∃ t, exec (.tsHop b s1 s2 dst x kind mask) s = .next t ∧ t = { s with bays := t.bays, hdr := { s.hdr with brackets := t.hdr.brackets } } ∧
      (t.strm b .x).status = .wait ∧ (t.strm b .x).wait.map (fun w => w.cause) = some .hop ∧
      (t.strm b .x).pc = (s.strm b .x).pc ∧ (t.strm b .x).ctr = (s.strm b .x).ctr ∧
      (∀ c : Bay, c ≠ b → t.bay c = s.bay c) ∧
      ∃ k ∈ t.hdr.brackets, k.mask = mask ∧
        (⟨b, kind, i.hwBase + 64 * ((s.strm b .x).ctr[s1]).toNat,
          if hopUsesS2 kind then some (i.hwBase + 64 * ((s.strm b .x).ctr[s2]).toNat) else none,
          i.hwBase + 64 * ((s.strm b .x).ctr[dst]).toNat,
          if kind = 2 then (s.strm b .x).ctr[x] &&& 0xFF#32 else if kind = 8 then (s.strm b .x).ctr[x] else 0#32⟩ :
            HopIssue) ∈ k.issues) ∧
  (∀ (b : Bay) (nf : NForm) (k : Bracket) (o : OpenOp) (s : State),
    mayIssue b .x (.tsHend b nf) s = true → bracketOf b s = some k → k.insOp = none → k.ins = none → k.op = some o →
    keyConsumers b s = false → ¬ (o.verdict = .mismatch ∧ o.haltOn = true) →
    ∃ t, exec (.tsHend b nf) s = .next t ∧ t.mem = s.mem ∧ (t.strm b .x).pc = (s.strm b .x).next.pc ∧
      (t.strm b .x).status = .run ∧
      ∃ k' ∈ t.hdr.brackets, ∃ o' : OpenOp, k'.mask = k.mask ∧ k'.op = some o' ∧ o'.ended.getLsbD b = true ∧
        o'.nf = o.nf ++ [nf] ∧ o'.out = o.out ∧ o'.verdict = o.verdict ∧
        o'.mark = (if (s.bay b).tide.spoiled = true ∧ o.mark = none then some 0x42#8 else o.mark)) ∧
  (∀ (b : Bay) (level scale : Byte) (k : Bracket) (o : OpenOp) (s : State),
    mayIssue b .x (.tsHout b level scale) s = true → bracketOf b s = some k → k.insOp = none → k.ins = none →
    k.op = some o → declares o.kind o.src = true →
    ∃ t, exec (.tsHout b level scale) s = .next t ∧ t.mem = s.mem ∧ t.strm b .x = (s.strm b .x).next ∧
      ∃ k' ∈ t.hdr.brackets, ∃ o' : OpenOp, k'.op = some o' ∧ o'.hout = o.hout ++ [(b, level, scale)]) ∧
  (∀ (b : Bay) (level scale : Byte) (s : State),
    mayIssue b .x (.tsHout b level scale) s = true → bracketOf b s = none →
    ∃ t, exec (.tsHout b level scale) s = .next t ∧ onlyStrm b .x s t ∧ t.strm b .x = (s.strm b .x).next) ∧
  (∀ (b : Bay) (s1 s2 dst x : Ctr) (kind : Fin 16) (mask : BayMask) (i : Image) (s : State),
    mayIssue b .x (.tsHop b s1 s2 dst x kind mask) s = true → (s.strm b .x).free (hopCtrs s1 s2 dst x kind) = true →
    imageOf b s = some i →
    (i.hwCount ≤ ((s.strm b .x).ctr[s1]).toNat ∨ i.hwCount ≤ ((s.strm b .x).ctr[dst]).toNat ∨
      hopUsesS2 kind = true ∧ i.hwCount ≤ ((s.strm b .x).ctr[s2]).toNat) →
    (inBracket b s = true ∨ hopIssued b mask s = false) →
    ∃ t, exec (.tsHop b s1 s2 dst x kind mask) s = .next t ∧ ringOnly s t ∧
      (t.strm b .x).status = .halted ∧ (t.strm b .x).fault = 0x36#8 ∧ (t.strm b .x).fpc = (s.strm b .x).pc ∧
      (t.strm b .x).ctr = (s.strm b .x).ctr ∧ t.strm b .a = s.strm b .a ∧
      (∀ k ∈ t.hdr.brackets, k.op.isSome = true → k ∈ s.hdr.brackets) ∧
      t.faults = (if inBracket b s then countFault 0x38 b.val 1 (countFault 0x36 b.val 1 s)
        else countFault 0x36 b.val 1 s).faults)

/-- R224. -/
def Obligations.HopNest : Prop :=
  (∀ (b : Bay) (s1 s2 dst x : Ctr) (kind : Fin 16) (mask : BayMask) (i : Image) (s : State),
    mayIssue b .x (.tsHop b s1 s2 dst x kind mask) s = true → (s.strm b .x).free (hopCtrs s1 s2 dst x kind) = true →
    inBracket b s = true → imageOf b s = some i →
    ((s.strm b .x).ctr[s1]).toNat < i.hwCount → ((s.strm b .x).ctr[dst]).toNat < i.hwCount →
    (hopUsesS2 kind = true → ((s.strm b .x).ctr[s2]).toNat < i.hwCount) →
    ∃ t, exec (.tsHop b s1 s2 dst x kind mask) s = .next t ∧ ringOnly s t ∧
      t.strm b .x = { s.strm b .x with
        status := .halted, fault := 0x38#8, fpc := (s.strm b .x).pc, wait := (s.strm b .x).dueWait, haltAge := some (s.bay b).issued } ∧
      t.strm b .a = s.strm b .a ∧ (∀ k ∈ t.hdr.brackets, k.op.isSome = true → k ∈ s.hdr.brackets) ∧
      t.faults = (countFault 0x38 b.val 1 s).faults) ∧
  (∀ (b : Bay) (s1 s2 dst x : Ctr) (kind : Fin 16) (mask : BayMask) (s : State),
    mayIssue b .x (.tsHop b s1 s2 dst x kind mask) s = true → (s.strm b .x).free (hopCtrs s1 s2 dst x kind) = true →
    inBracket b s = true →
    ∃ t, exec (.tsHop b s1 s2 dst x kind mask) s = .next t ∧ ringOnly s t ∧
      (t.strm b .x).status = .halted ∧ (t.strm b .x).fpc = (s.strm b .x).pc ∧
      (t.strm b .x).ctr = (s.strm b .x).ctr ∧
      t.strm b .a = s.strm b .a ∧ (∀ k ∈ t.hdr.brackets, k.op.isSome = true → k ∈ s.hdr.brackets) ∧
      ∃ u : State, (u = s ∨ u = countFault 0x36 b.val 1 s) ∧ t.faults = (countFault 0x38 b.val 1 u).faults) ∧
  (∀ (b : Bay) (nf : NForm) (s : State),
    mayIssue b .x (.tsHend b nf) s = true → inBracket b s = false →
    ∃ t, exec (.tsHend b nf) s = .next t ∧ ringOnly s t ∧
      t.strm b .x = { s.strm b .x with
        status := .halted, fault := 0x38#8, fpc := (s.strm b .x).pc, wait := (s.strm b .x).dueWait, haltAge := some (s.bay b).issued } ∧
      t.strm b .a = s.strm b .a ∧ t.faults = (countFault 0x38 b.val 1 s).faults)

/-- BRACKET_OPEN: an operation's verdict, a refresh insertion, and the evaluation after it (R51, R52, R54, R56, R58, R61, R186,
R225). Where the rules are silent it states the model's choice: log 51, 143, 144, 159. -/
def Obligations.BracketOpens : Prop :=
  (∀ (mask : BayMask) (k : Bracket) (i : HopIssue) (ev : CodeEvent) (s r : State) (h1 hd m : Hdr) (h2 : Option Hdr)
    (c dc : CtxEntry) (d : Derived) (ue marked decl : Bool),
    r = readHeaders (issueLocks i) ev s →
    h1 = hdrAt r i.s1 → h2 = i.s2.map (hdrAt r) → hd = hdrAt r i.dst → c = ctxAt r h1.ctx.toNat → ue = (evCtx ev).isSome →
    d = derive r i.kind i.x h1 h2 → dc = ctxAt r d.ctx.toNat → decl = declares i.kind h1 →
    marked = (h1.marked || h2.any Hdr.marked) → m = (if h1.marked then h1 else h2.getD h1) →
    dieRuns s = true → s.hdr.brackets.find? (fun q => q.mask == mask && q.ins.isSome) = none →
    s.hdr.brackets.find? (forming mask) = some k → firstIssue k.issues = some i → issuesFull k = true →
    locksFree (issueLocks i) s = true → ((i.kind = 6 ∨ i.kind = 7) → swapPending mask s = false) →
    ahead s ((issueLocks i).map (fun a => (a, 64))) [] = false →
    inserts r mask (openOp r i (issuesAgree k.issues) ue s.od.thresh) = false →
    ∃ t, exec (.bracketOpen mask ev) s = .next t ∧ t.mem = r.mem ∧ (ev = .clean → t.mem = s.mem) ∧
      (∃ k' ∈ t.hdr.brackets, ∃ o : OpenOp, k'.mask = mask ∧ k'.locks = issueLocks i ∧ k'.op = some o ∧
        o.verdict =
          (if issuesAgree k.issues = false ∨ 10 ≤ i.kind ∨ sourceOk r h1 (rangeBad r i.s1 64 || ue) = false ∨
              h2.any (fun h => !sourceOk r h (i.s2.any (fun a => rangeBad r a 64) || ue)) = true ∨
              destOk r hd (rangeBad r i.dst 64) d decl = false ∨
              (marked = false ∧ operandOk r i.kind i.x h1 h2 = false) then .malformed
           else if marked = true then .poison
           else if h2.any (fun h => h.ctx != h1.ctx || h.fprint != h1.fprint) = true ∨ h1.fprint ≠ c.fprint then .mismatch
           else if cliff c i.kind h1 h2 < s.od.thresh then .spent
           else .run) ∧
        (o.verdict = .malformed → o.out = { Hdr.blank with limbPg := hd.limbPg, invalid := true, cause := 0x24#8 }) ∧
        o.clamped =
          { magic := 0x5A9C#16, ver := 1#8, ctx := d.ctx, fprint := d.fprint, cls := d.cls, limbPg := hd.limbPg
            level := if decl = false ∧ dc.levelOk d.level = true then BitVec.ofNat 8 d.level.toNat else 0#8
            scale := if decl = false ∧ scaleOk d.cls d.scale = true then BitVec.ofNat 8 d.scale.toNat else 0#8
            comp := if d.comp = 2 ∨ d.comp = 3 then BitVec.ofNat 2 d.comp else 0#2
            slots := if dc.slotsOk d.slots = true then BitVec.ofNat 24 d.slots else 0#24
            nttf := false, budget := 0#16, invalid := false, spent := false, cause := 0#8, rsvd := 0 } ∧
        (o.verdict = .poison →
          o.out = { o.clamped with nttf := h1.nttf, invalid := m.invalid, spent := m.spent, cause := m.cause }) ∧
        (o.verdict = .mismatch → o.out = { o.clamped with nttf := h1.nttf, invalid := true, cause := 0x21#8 }) ∧
        (o.verdict = .spent → o.out = { o.clamped with nttf := h1.nttf, spent := true, cause := 0x22#8 }) ∧
        (o.verdict = .run →
          o.out.ctx = d.ctx ∧ o.out.fprint = d.fprint ∧ o.out.cls = d.cls ∧ o.out.limbPg = hd.limbPg ∧ o.out.rsvd = 0 ∧
          o.out.invalid = false ∧ o.out.spent = false ∧ o.out.cause = 0#8 ∧
          o.out.budget = BitVec.ofNat 16 (if i.kind = 6 then c.cost[7] else if i.kind = 7 then c.cost[9]
            else (cliff c i.kind h1 h2).toNat) ∧
          (i.kind < 6 ∨ i.kind = 9 →
            o.out.ctx = h1.ctx ∧ o.out.fprint = h1.fprint ∧ o.out.cls = h1.cls ∧
            o.out.level = BitVec.ofInt 8 ((h1.level.toNat : Int) - (if i.kind = 4 then 1 else 0)) ∧
            o.out.scale = BitVec.ofInt 8
              (if i.kind = 2 then (h1.scale.toNat : Int) + (i.x.toNat % 256 : Nat)
               else if i.kind = 3 then (h1.scale.toNat : Int) + ((h2.getD h1).scale.toNat : Int)
               else if i.kind = 4 then (h1.scale.toNat : Int) - elog (ctxPrime r h1.ctx.toNat (h1.level.toNat - 1))
               else (h1.scale.toNat : Int)) ∧
            (h2.isSome = true →
              o.out.comp = BitVec.ofNat 2
                (if i.kind = 0 then max h1.comp.toNat (h2.getD h1).comp.toNat else if i.kind = 3 then 3
                 else if i.kind = 5 then 2 else h1.comp.toNat) ∧
              o.out.slots = BitVec.ofNat 24
                (if i.kind = 0 ∨ i.kind = 3 then max h1.slots.toNat (h2.getD h1).slots.toNat else h1.slots.toNat)) ∧
            (i.kind ≠ 0 → i.kind ≠ 3 →
              o.out.comp = (if i.kind = 5 then 2#2 else h1.comp) ∧ o.out.slots = h1.slots)))) ∧
      ∀ b : Bay, mask.getLsbD b = true → xLive b s = true →
        (t.strm b .x).pc = (s.strm b .x).next.pc ∧ (t.strm b .x).status = .run) ∧
  (∀ (mask : BayMask) (k : Bracket) (i : HopIssue) (ev : CodeEvent) (s r : State) (o : OpenOp) (a : Nat) (l : List Nat)
    (h : Hdr) (c : CtxEntry) (ue : Bool),
    r = readHeaders (issueLocks i) ev s → o = openOp r i (issuesAgree k.issues) (evCtx ev).isSome s.od.thresh →
    h = hdrAt r a → c = ctxAt r h.ctx.toNat → ue = false →
    dieRuns s = true → s.hdr.brackets.find? (fun q => q.mask == mask && q.ins.isSome) = none →
    s.hdr.brackets.find? (forming mask) = some k → firstIssue k.issues = some i → issuesFull k = true →
    locksFree (issueLocks i) s = true → ahead s ((issueLocks i).map (fun a => (a, 64))) [] = false →
    inserts r mask o = true → insertionTodo r o = a :: l →
    ∃ t, exec (.bracketOpen mask ev) s = .next t ∧ t.mem = r.mem ∧ t.hdr.cInserted = satAdd 32 s.hdr.cInserted 1 ∧
      (∃ k' ∈ t.hdr.brackets, k'.mask = mask ∧ k'.locks = issueLocks i ∧ k'.op = some o ∧ o.verdict = .spent ∧
        k'.ins = some { todo := l, cur := a, back := o.ended } ∧
        (∃ p : OpenOp, k'.insOp = some p ∧ p.kind = 6 ∧ p.s1 = a ∧ p.s2 = none ∧ p.dst = a ∧ p.src = h ∧ p.thresh = o.thresh ∧
          p.ended = o.ended ∧ p.haltOn = o.haltOn ∧ p.mark = none ∧ p.nf = [] ∧ p.hout = [] ∧
          p.verdict =
            (if sourceOk r h (rangeBad r a 64 || ue) = false ∨
                destOk r h (rangeBad r a 64) (derive r 6 0#32 h none) (declares 6 h) = false ∨
                (h.marked = false ∧ operandOk r 6 0#32 h none = false) then .malformed
             else if h.marked = true then .poison
             else if h.fprint ≠ c.fprint then .mismatch
             else if cliff c 6 h none < o.thresh then .spent
             else .run))) ∧
      (∀ (b : Bay) (q : BitVec 15) (g : Image) (w : Instr), (mask &&& ~~~o.ended).getLsbD b = true → xLive b s = true →
        routineOf b o.src.cls.toNat s = some q → imageOf b s = some g → (s.strm b .x).waitCmd = some w →
        t.strm b .x = { s.strm b .x with
          frame := some { loops := (s.strm b .x).loops, ctr := (s.strm b .x).ctr, cmp := (s.strm b .x).cmp
                          depth := (s.strm b .x).calls.length, ret := (s.strm b .x).pc, hop := w }
          loops := [], ctr := (s.strm b .x).ctr.set 0 (BitVec.ofNat 32 ((a - g.hwBase) / 64)), pc := q
          status := .run, wait := none, fpc := 0#15 })) ∧
  (∀ (mask : BayMask) (k : Bracket) (n : Insertion) (ev : CodeEvent) (s r : State) (o : OpenOp) (a : Nat) (l : List Nat)
    (h : Hdr) (c : CtxEntry) (ue : Bool),
    r = readHeaders [a] ev s → h = hdrAt r a → c = ctxAt r h.ctx.toNat → ue = (evCtx ev).isSome →
    dieRuns s = true → s.hdr.brackets.find? (fun q => q.mask == mask && q.ins.isSome) = some k →
    k.ins = some n → k.op = some o → insertionDone k = true → n.todo = a :: l → ahead s [(a, 64)] [] = false →
    ∃ t, exec (.bracketOpen mask ev) s = .next t ∧ t.mem = r.mem ∧ t.hdr.cInserted = satAdd 32 s.hdr.cInserted 1 ∧
      (∃ k' ∈ t.hdr.brackets, k'.mask = mask ∧ k'.locks = k.locks ∧ k'.op = some o ∧ k'.wrote = k.wrote ∧
        k'.ins = some { todo := l, cur := a, back := o.ended } ∧
        (∃ p : OpenOp, k'.insOp = some p ∧ p.kind = 6 ∧ p.s1 = a ∧ p.s2 = none ∧ p.dst = a ∧ p.src = h ∧ p.thresh = o.thresh ∧
          p.ended = o.ended ∧ p.haltOn = o.haltOn ∧ p.mark = none ∧ p.nf = [] ∧ p.hout = [] ∧
          p.verdict =
            (if sourceOk r h (rangeBad r a 64 || ue) = false ∨
                destOk r h (rangeBad r a 64) (derive r 6 0#32 h none) (declares 6 h) = false ∨
                (h.marked = false ∧ operandOk r 6 0#32 h none = false) then .malformed
             else if h.marked = true then .poison
             else if h.fprint ≠ c.fprint then .mismatch
             else if cliff c 6 h none < o.thresh then .spent
             else .run))) ∧
      (∀ (b : Bay) (q : BitVec 15) (g : Image) (w : Instr), (mask &&& ~~~o.ended).getLsbD b = true → xLive b s = true →
        routineOf b o.src.cls.toNat s = some q → imageOf b s = some g → (s.strm b .x).waitCmd = some w →
        t.strm b .x = { s.strm b .x with
          frame := some { loops := (s.strm b .x).loops, ctr := (s.strm b .x).ctr, cmp := (s.strm b .x).cmp
                          depth := (s.strm b .x).calls.length, ret := (s.strm b .x).pc, hop := w }
          loops := [], ctr := (s.strm b .x).ctr.set 0 (BitVec.ofNat 32 ((a - g.hwBase) / 64)), pc := q
          status := .run, wait := none, fpc := 0#15 })) ∧
  (∀ (mask : BayMask) (k : Bracket) (n : Insertion) (ev : CodeEvent) (s : State) (o : OpenOp) (h1 : Hdr) (h2 : Option Hdr)
    (c : CtxEntry),
    h1 = (match k.wrote.find? (fun e => e.1 == o.s1) with | some e => e.2 | none => o.src) →
    h2 = (match o.s2, o.src2 with
      | some a, some h => some (match k.wrote.find? (fun e => e.1 == a) with | some e => e.2 | none => h)
      | _, _ => none) →
    c = ctxAt s o.src.ctx.toNat →
    dieRuns s = true → s.hdr.brackets.find? (fun q => q.mask == mask && q.ins.isSome) = some k →
    k.ins = some n → k.op = some o → insertionDone k = true → n.todo = [] →
    ∃ t, exec (.bracketOpen mask ev) s = .next t ∧ t.mem = s.mem ∧ t.hdr.cInserted = s.hdr.cInserted ∧
      (∃ k' ∈ t.hdr.brackets, k'.mask = mask ∧ k'.locks = k.locks ∧ k'.ins = none ∧ k'.insOp = none ∧
        ∃ p : OpenOp, k'.op = some p ∧ p.kind = o.kind ∧ p.s1 = o.s1 ∧ p.s2 = o.s2 ∧ p.dst = o.dst ∧ p.src = h1 ∧
          p.ended = o.ended ∧ p.mark = o.mark ∧
          p.verdict =
            (if h1.marked = true ∨ h2.any Hdr.marked = true then .poison
             else if cliff c o.kind h1 h2 < o.thresh then .spent else .run) ∧
          (p.verdict = .poison → ∀ m : Hdr, m = (if h1.marked then h1 else h2.getD h1) →
            p.out = { p.clamped with
              budget := 0#16, nttf := h1.nttf, invalid := m.invalid, spent := m.spent, cause := m.cause }) ∧
          (p.verdict = .spent →
            p.out = { p.clamped with budget := 0#16, nttf := h1.nttf, invalid := false, spent := true, cause := 0x22#8 }) ∧
          (p.verdict = .run → o.kind < 6 ∨ o.kind = 9 →
            p.out.budget = BitVec.ofNat 16 (cliff (ctxAt s h1.ctx.toNat) o.kind h1 h2).toNat ∧ p.out.invalid = false ∧ p.out.spent = false ∧
            p.out.cause = 0#8 ∧ p.out.limbPg = o.out.limbPg)) ∧
      ∀ b : Bay, (mask &&& ~~~o.ended).getLsbD b = true → xLive b s = true →
        (t.strm b .x).pc = (s.strm b .x).next.pc ∧ (t.strm b .x).status = .run)

/-- BRACKET_CLOSE (R53, R54, R61, R121, R203, R225, R454). Where the rules are silent it states the model's choice: log 48, 49, 51, 133. -/
def Obligations.BracketCloses : Prop :=
  ∀ (mask : BayMask) (k : Bracket) (o : OpenOp) (s : State) (dv : Option (Byte × Byte)) (decl : Byte × Byte) (w h : Hdr)
    (zeroes bad : Bool),
    dv = (match o.hout with
      | [] => none
      | (_, l, e) :: _ =>
        if (∀ b : Bay, mask.getLsbD b = true → (o.hout.filter (fun d => d.1 == b)).length = 1) ∧
            (∀ d ∈ o.hout, d.2 = (l, e)) ∧ (ctxAt s o.src.ctx.toNat).levelOk l.toNat = true ∧
            1 ≤ e.toNat ∧ e.toNat ≤ 120 then some (l, e)
        else none) →
    decl = dv.getD (0#8, 0#8) →
    bad = (o.verdict == .run && o.mark.isNone &&
      (o.nf.isEmpty || o.nf.any (fun f => o.nf.head? != some f) || (declares o.kind o.src && dv.isNone))) →
    zeroes = (o.verdict == .poison || o.verdict == .mismatch || o.verdict == .spent || (o.verdict == .run && o.mark.isSome)) →
    w = (match o.verdict, o.mark, o.nf with
      | .run, some c, _ => { o.clamped with budget := 0#16, nttf := o.src.nttf, invalid := true, spent := false, cause := c }
      | .run, none, .keep :: _ => { o.out with nttf := o.src.nttf }
      | .run, none, .coef :: _ => { o.out with nttf := false }
      | .run, none, .ntt :: _ => { o.out with nttf := true }
      | _, _, _ => o.out) →
    h = (if o.verdict = .malformed then o.out
      else if bad = true then
        { o.out with
          level := 0#8, slots := 0#24, comp := 0#2, budget := 0#16, nttf := o.src.nttf, invalid := true, spent := false,
          cause := 0x24#8, scale := if declares o.kind o.src then decl.2 else o.out.scale }
      else if declares o.kind o.src then { w with level := decl.1, scale := decl.2 } else w) →
    dieRuns s = true → MemInv s →
    s.hdr.brackets.find? (fun q => q.mask == mask && q.op.isSome &&
      (match q.cur with | some o => o.allEnded mask && (q.insOp.isSome || q.ins.isNone) | none => false)) = some k →
    (k.insOp = some o ∧ k.op.isSome = true ∨ k.insOp = none ∧ k.op = some o) → o.dstBad = false →
    (∀ j : Nat, j < 64 → byteBad s (o.dst + j) = false) → ahead s [] (closeSpans s mask o) = false →
    ∃ t, exec (.bracketClose mask) s = .next t ∧ t.ldNat o.dst 64 = h.toNat % 2 ^ 512 ∧
      t.hdr.brackets =
        (if k.insOp.isSome then
          s.hdr.brackets.map (fun q => if q == k then { q with insOp := none, wrote := q.wrote ++ [(o.dst, h)] } else q)
         else s.hdr.brackets.erase k) ∧
      (zeroes = true → ∀ (n a : Nat), n < 12 → (a < o.dst ∨ o.dst + 64 ≤ a) → n * winSize + h.limbPg.toNat * 4096 ≤ a →
        a < n * winSize + h.limbPg.toNat * 4096 +
          residuesIn h.level.toNat n * h.comp.toNat * 4 * (ctxAt s h.ctx.toNat).n → t.rd a = 0#8) ∧
      (∀ a : Nat, (a < o.dst ∨ o.dst + 64 ≤ a) →
        (zeroes = false ∨ ∀ n : Nat, n < 12 → ¬ (n * winSize + h.limbPg.toNat * 4096 ≤ a ∧
          a < n * winSize + h.limbPg.toNat * 4096 +
            residuesIn h.level.toNat n * h.comp.toNat * 4 * (ctxAt s h.ctx.toNat).n)) → t.rd a = s.rd a) ∧
      (bad = true → o.dst % 64 = 0 → t.faults = (countFault 0x24 ((bitsSet 12 mask).headD 15) 1 s).faults) ∧
      (∀ b : Bay, t.strm b .x = s.strm b .x ∧ t.strm b .a = s.strm b .a)

/-- TS.SCFG, TS.AMAX, TS.SCALE, TS.UWR, TS.USTAT, STATS_APPLY, STATS_RESULT_WRITE (R171 to R173, R175). Where the rules are silent it states the model's choice: log 13, 33, 34. -/
def Obligations.Statistics : Prop :=
  (∀ (b : Bay) (cs c1 c2 cd : Ctr) (cmt ovf : Bool) (s : State) (c : Instr) (o : StatOp) (mark : Option Ctr),
    (c, o, mark) ∈ ([(.tsScfg b cs c1, .scfg ((s.strm b .x).ctr[cs]).toNat (s.strm b .x).ctr[c1], none),
      (.tsAmax b cs c1 cmt ovf, .amax ((s.strm b .x).ctr[cs]).toNat (s.strm b .x).ctr[c1] cmt ovf, none),
      (.tsScale b cs cd, .scale ((s.strm b .x).ctr[cs]).toNat cd, some cd),
      (.tsUwr b cs c1 c2 cmt, .uwr ((s.strm b .x).ctr[cs]).toNat (s.strm b .x).ctr[c1] (s.strm b .x).ctr[c2] cmt, none),
      (.tsUstat b cs cd, .ustat ((s.strm b .x).ctr[cs]).toNat cd, some cd)] : List (Instr × StatOp × Option Ctr)) →
    mayIssue b .x c s = true → (s.strm b .x).free [cs, c1, c2, cd] = true →
    (((s.strm b .x).ctr[cs]).toNat ≤ 1023 →
      ∃ t, exec c s = .next t ∧
        t = { s with bays := t.bays, stats := { s.stats with queue := s.stats.queue ++ [(b, o)] } } ∧
        (∀ d : Bay, d ≠ b → t.bay d = s.bay d) ∧ (t.strm b .a) = (s.strm b .a) ∧
        t.strm b .x = (match mark with
          | some r => { (s.strm b .x).next with busy := setBit (s.strm b .x).busy r true }
          | none => (s.strm b .x).next)) ∧
    (((s.strm b .x).ctr[cs]).toNat ≤ 1023 → s.stats.queue.all (fun e => e.1 != b) = true →
      ∃ t, exec c s = .next t ∧ takeStat b t.stats.queue = some (o, s.stats.queue) ∧
        ∃ u, exec (.statsApply b .clean) t = .next u ∧ u.stats.queue = s.stats.queue ∧ u.mem = s.mem) ∧
    (1023 < ((s.strm b .x).ctr[cs]).toNat →
      ∃ t, exec c s = .next t ∧ t.stats = s.stats ∧ ringOnly s t ∧
        t.strm b .x = { s.strm b .x with
          status := .halted, fault := 0x43#8, fpc := (s.strm b .x).pc, wait := (s.strm b .x).dueWait, haltAge := some (s.bay b).issued })) ∧
  (∀ (b : Bay) (o : StatOp) (r : List (Bay × StatOp)) (s : State),
    dieRuns s = true → takeStat b s.stats.queue = some (o, r) →
    Sparse.wf (fun _ => ScaleSlot.reset) s.stats.scale = true → Sparse.wf (fun _ => RatioSlot.reset) s.stats.ratio = true →
    ∃ t, exec (.statsApply b .clean) s = .next t ∧ t.mem = s.mem ∧ t.bays = s.bays ∧ t.hdr = s.hdr ∧
      t.stats.queue = r ∧
      match o with
      | .scfg k c =>
          scaleAt t k = { (if c.getLsbD 3 then ScaleSlot.reset else scaleAt s k) with
            e5m2 := c.getLsbD 0, margin := c.toNat / 2 % 4 } ∧
          (∀ j, j ≠ k → scaleAt t j = scaleAt s j) ∧ t.stats.ratio = s.stats.ratio
      | .amax k v false _ =>
          scaleAt t k = { scaleAt s k with p := fmax32 (scaleAt s k).p (v &&& 0x7FFFFFFF#32) } ∧
          (∀ j, j ≠ k → scaleAt t j = scaleAt s j) ∧ t.stats.ratio = s.stats.ratio
      | .amax k v true ovf =>
          (let x := scaleAt s k
           let p := fmax32 x.p (v &&& 0x7FFFFFFF#32)
           if ovf = true ∨ finite32 p = false then
             scaleAt t k = { x with backoff := min (x.backoff + 1) 7, clean := 0, p := 0#32 } ∧
             t.stats.skips = satAdd 32 s.stats.skips 1
           else
             scaleAt t k = { x with
               hist := (if x.hist.length = 16 then x.hist.drop 1 else x.hist) ++ [p]
               clean := if x.clean + 1 = 16 then 0 else x.clean + 1
               backoff := if x.clean + 1 = 16 then x.backoff - 1 else x.backoff, p := 0#32 } ∧
             t.stats.skips = s.stats.skips) ∧
          (∀ j, j ≠ k → scaleAt t j = scaleAt s j) ∧ t.stats.ratio = s.stats.ratio
      | .scale k cd => t.stats.scale = s.stats.scale ∧ t.stats.ratio = s.stats.ratio ∧
          (let x := scaleAt s k
           let h := x.hist.foldl fmax32 0#32
           let a := if x.hist.length < 16 then fmax32 h x.p else h
           ∃ e : BitVec 8,
             (a = 0#32 → e = 0#8) ∧
             (a ≠ 0#32 → finite32 a = true → e = BitVec.ofInt 8
               (max (-127) (min 127 ((if x.e5m2 then 15 else 8) - exOf a - (x.margin : Int) - (x.backoff : Int))))) ∧
             t.stats.results = s.stats.results ++ [(b, cd, BitVec.ofNat 32
               (e.toNat + (if x.hist.length < 16 then 1 else 0) * 2 ^ 8 + x.hist.length * 2 ^ 9 + x.backoff * 2 ^ 14))])
      | .uwr k u w false => (ratioAt t k).pairs[b] = some (u, w) ∧ (ratioAt t k).last = (ratioAt s k).last ∧
          (∀ j, j ≠ k → ratioAt t j = ratioAt s j) ∧ t.stats.scale = s.stats.scale
      | .uwr k u w true => (ratioAt t k).pairs = Vector.replicate 12 none ∧
          (let ps := (ratioAt s k).pairs.set b (some (u, w))
           let us := bayTree (ps.toList.map (fun p => (p.map Prod.fst).getD 0#32))
           let ws := bayTree (ps.toList.map (fun p => (p.map Prod.snd).getD 0#32))
           (∃ x, (ratioAt t k).last = ratioOf us ws x) ∧
           (finite32 us = false ∨ finite32 ws = false ∨ (finDy ws).m = 0 → (ratioAt t k).last = 0x7FC00000#32)) ∧
          (ratioAt t k).commits = min ((ratioAt s k).commits + 1) (2 ^ 32 - 1) ∧
          (∀ j, j ≠ k → ratioAt t j = ratioAt s j) ∧ t.stats.scale = s.stats.scale
      | .ustat k cd => t.stats.scale = s.stats.scale ∧ t.stats.ratio = s.stats.ratio ∧
          t.stats.results = s.stats.results ++ [(b, cd, (ratioAt s k).last)]) ∧
  (∀ (b : Bay) (cd : Ctr) (v : W32) (r : List (Bay × Ctr × W32)) (s : State),
    dieRuns s = true → takeResult b s.stats.results = some ((cd, v), r) →
    ∃ t, exec (.statsResultWrite b) s = .next t ∧ t = { s with bays := t.bays, stats := { s.stats with results := r } } ∧
      (∀ d : Bay, d ≠ b → t.bay d = s.bay d) ∧ t.strm b .a = s.strm b .a ∧
      t.strm b .x = { s.strm b .x with ctr := (s.strm b .x).ctr.set cd v, busy := setBit (s.strm b .x).busy cd false })

/-- TD.KEY, TD.DROP, TD.STAT (R96 to R98, R109). Where the rules are silent it states the model's choice: log 145. -/
def Obligations.TideIssue : Prop :=
  (∀ (b : Bay) (ck cg : Ctr) (cb : Option Ctr) (next : Bool) (level : Fin 64) (s : State),
    mayIssue b .x (.tdKey b ck cg cb next level .clean) s = true → (s.strm b .x).free ([ck, cg] ++ cb.toList) = true →
    (s.bay b).tide.streams.length < 4 → (cb = none → noReqs s = true) →
    ∃ t, exec (.tdKey b ck cg cb next level .clean) s = .next t ∧ t.mem = s.mem ∧ t.strm b .x = (s.strm b .x).next ∧
      t.strm b .a = s.strm b .a ∧
      (hendOp b s = none → (t.bay b).tide.streams.length = (s.bay b).tide.streams.length + 1) ∧
      ∃ x : TStream,
        (x ∈ (t.bay b).tide.streams ∨ (x.bound = true ∧ x.total b = some 0)) ∧
        x.ctx.val = bitsAt ((s.strm b .x).ctr[ck]).toNat 13 0 ∧ x.eidx = bitsAt ((s.strm b .x).ctr[ck]).toNat 27 16 ∧
        x.level = level.val ∧ x.cg = (s.strm b .x).ctr[cg] ∧ x.next = next ∧ x.sid = (s.bay b).tide.nextSid ∧
        x.start = cb.map (fun c => (s.strm b .x).ctr[c]) ∧ x.opened = cb.isNone ∧
        x.cap = (if cb.isNone then captureKey s x.ctx x.eidx x.level else none) ∧
        x.bound = ((hendOp b s).isSome && !next)) ∧
  (∀ (b : Bay) (ck cg : Ctr) (cb : Option Ctr) (next : Bool) (level : Fin 64) (ev : CodeEvent) (s : State),
    mayIssue b .x (.tdKey b ck cg cb next level ev) s = true → (s.strm b .x).status = .run →
    (s.strm b .x).wait = none → (s.strm b .x).free ([ck, cg] ++ cb.toList) = true →
    4 ≤ (s.bay b).tide.streams.length →
    exec (.tdKey b ck cg cb next level ev) s = .next (s.setBay b ((s.bay b).setStrm .x
      { s.strm b .x with
        status := .wait, fpc := (s.strm b .x).pc
        wait := some ⟨.tdOpen, 0, s.od.waitTimeout, .tdKey b ck cg cb next level ev, 0#32⟩ }))) ∧
  (∀ (b : Bay) (s : State),
    mayIssue b .x (.tdDrop b) s = true →
    ∃ t, exec (.tdDrop b) s = .next t ∧ t.mem = s.mem ∧ t.strm b .x = (s.strm b .x).next ∧
      (t.bay b).tide.streams = (s.bay b).tide.streams.filter (fun x => x.bound)) ∧
  (∀ (b : Bay) (cn : Ctr) (s : State),
    mayIssue b .x (.tdStat b cn) s = true → (s.strm b .x).free [cn] = true →
    ∃ t, exec (.tdStat b cn) s = .next t ∧ onlyStrm b .x s t ∧
      t.strm b .x = ((s.strm b .x).setCtr cn (tdStat (s.bay b).tide)).next)

/-- KEY_STREAM_OPEN, KEY_SET_COMBINE, KEY_FILL_START, KEY_FILL_DATA, XOF_SEGMENT_START, XOF_SEGMENT_COMPLETE, KEY_ROW_DELIVER. Where the rules are silent it states the model's choice: log 16, 141, 146. -/
def Obligations.TideEvents : Prop :=
  (∀ (b : Bay) (slot : Fin 4) (x : TStream) (v : W32) (s : State),
    dieRuns s = true → (s.bay b).tide.streams[slot.val]? = some x → x.opened = false → x.start = some v →
    beatDone s.beat.beat v = true → noReqs s = true →
    if s.beat.st = .hold then ∀ ev : CodeEvent, exec (.keyStreamOpen b slot ev) s = .next s
    else ∃ t, exec (.keyStreamOpen b slot .clean) s = .next t ∧ t.mem = s.mem ∧
      ∃ y : TStream, (y ∈ (t.bay b).tide.streams ∨ (y.bound = true ∧ y.total b = some 0)) ∧ y.opened = true ∧
        y.sid = x.sid ∧ y.cap = captureKey s x.ctx x.eidx x.level) ∧
  (∀ (mask : BayMask) (k : Nat) (o : OpenOp) (s : State),
    dieRuns s = true → curOp mask s = some o → o.hopRun = true → mask ≠ 0#12 → setReady mask k o = true →
    if (baysIn mask).all (fun b => o.code b k == some 0#8) = true then
      ∃ t, exec (.keySetCombine mask k) s = .next t ∧ t.mem = s.mem ∧ (curOp mask t).map (fun o => o.verdict) = some o.verdict ∧
        (∀ b : Bay, mask.getLsbD b = true → o.ended.getLsbD b = false →
          ∀ x ∈ (t.bay b).tide.streams, x.bound = true → x.nset = k → x.allowed = true) ∧
        ∀ b : Bay, (mask.getLsbD b = false ∨ o.ended.getLsbD b = true) → t.bay b = s.bay b
    else
      ∃ t, exec (.keySetCombine mask k) s = .next t ∧ ringOnly s t ∧
        (curOp mask t).map (fun o => o.verdict) = some (if o.verdict = .run then .mismatch else o.verdict) ∧
        (∀ b : Bay, mask.getLsbD b = true → o.ended.getLsbD b = false →
          ∀ x ∈ (t.bay b).tide.streams, x.bound = true → k ≤ x.nset → x.zero = true) ∧
        (∀ b : Bay, (mask.getLsbD b = false ∨ o.ended.getLsbD b = true) → (t.bay b).tide = (s.bay b).tide) ∧
        (o.verdict = .run → o.haltOn = true → ∀ e ∈ o.hends, (t.strm e.1 .x).status = .halted)) ∧
  (∀ (b : Bay) (x : TStream) (s : State),
    dieRuns s = true → (s.bay b).tide.streams.find? (fun x => !x.fillsDone b) = some x → (s.bay b).tide.halt = false →
    x.opened = true → ((s.bay b).tide.half (s.bay b).tide.nextHalf).st = .free →
    ∃ t, exec (.keyFillStart b) s = .next t ∧ onlyBay b s t ∧
      (t.bay b).tide.half (s.bay b).tide.nextHalf = ⟨.filling, x.sid, x.fills, 0⟩ ∧
      (t.bay b).tide.nextHalf = !(s.bay b).tide.nextHalf) ∧
  (∀ (b : Bay) (h : Bool) (x : TStream) (c : TideCap) (s : State),
    dieRuns s = true → (s.bay b).tide.fillingHalf = some h →
    (s.bay b).tide.streams.find? (fun x => x.sid == ((s.bay b).tide.half h).sid) = some x → x.cap = some c →
    (s.bay b).tide.halt = false → x.zero = false → noReqs s = true →
    (let g := (s.bay b).tide.half h
     let r := (fillSpan c.polyRows (x.blocks b).length g.fill).1 + g.rows
     let blk := (x.blocks b).getD (r / c.polyRows) (0, 0)
     let a := c.stored b blk + 1024 * (r % c.polyRows)
     (rangeBad s a 1024 = false → Sparse.wf (fun _ => 0#32) (s.bay b).keyBuf = true →
       ∃ t, exec (.keyFillData b .clean) s = .next t ∧ t.mem = s.mem ∧
         t.tideCtr.bytes = min (s.tideCtr.bytes + 1024) (2 ^ 64 - 1) ∧
         ((t.bay b).tide.half h).rows = g.rows + 1 ∧
         ∀ i : Nat, i < 256 → Sparse.get (fun _ => 0#32) (t.bay b).keyBuf (halfWord h g.rows + i) =
           BitVec.ofNat 32 (s.ldNat (a + 4 * i) 4)) ∧
     (rangeBad s a 1024 = true →
       ∃ t, exec (.keyFillData b .clean) s = .next t ∧ ringOnly s t ∧ (t.bay b).tide.halt = true ∧
         (t.bay b).tide.kh0.st = .halted ∧ (t.bay b).tide.kh1.st = .halted ∧ (t.bay b).keyBuf = (s.bay b).keyBuf))) ∧
  (∀ (b : Bay) (x : TStream) (core : Fin 36) (s : State),
    dieRuns s = true → (s.bay b).tide.streams.find? (fun x => !x.segsDone b) = some x → (s.bay b).tide.freeCore = some core →
    (s.bay b).tide.halt = false → x.opened = true → (s.bay b).tide.segs.length < 64 →
    ∃ t, exec (.xofSegmentStart b) s = .next t ∧ onlyBay b s t ∧
      (t.bay b).tide.segs = (s.bay b).tide.segs ++ [⟨x.sid, x.segs, core, none⟩]) ∧
  (∀ (b : Bay) (core : Fin 36) (g : Seg) (w : List W32) (p r : Nat) (s : State),
    dieRuns s = true → (s.bay b).tide.segs.find? (fun g => g.words.isNone && g.core == core) = some g →
    segResult (s.bay b).tide b g = some (w, p, r) →
    ∃ t, exec (.xofSegmentComplete b core) s = .next t ∧ t.mem = s.mem ∧
      { g with words := some w } ∈ (t.bay b).tide.segs ∧ (t.bay b).tide.segs.length = (s.bay b).tide.segs.length ∧
      t.tideCtr.perms = min (s.tideCtr.perms + p) (2 ^ 64 - 1) ∧
      t.tideCtr.rejected = min (s.tideCtr.rejected + r) (2 ^ 64 - 1)) ∧
  (∀ (b : Bay) (x : TStream) (row : KeyRow) (k : Taker) (s : State),
    dieRuns s = true → (s.bay b).tide.source = some x → oldestTaker (takers (s.bay b)) = some k → k ≠ .blocked →
    (s.bay b).parked = false → (s.bay b).parkPend = false → (s.bay b).tide.nextRow (s.bay b).keyBuf x b = some row →
    ((s.bay b).tide.rowWord x b).all (fun w => !(s.bay b).prot.repairs? (w / 512)) = true →
    badInRow (s.bay b).prot ((s.bay b).tide.rowWord x b) = none → (x.total b).all (fun n => decide (x.rows + 1 < n)) = true →
    ∃ t, exec (.keyRowDeliver b .clean) s = .next t ∧ t.mem = s.mem ∧ (∀ c : Bay, c ≠ b → t.bay c = s.bay c) ∧
      (match k with
       | .kmac => (t.bay b).vec.rowsIn = (s.bay b).vec.rowsIn ++ [row]
       | .load lt => ∀ l : LoadRun, (tileOf b lt s).load = some l → (t.bay b).vec.rowsIn = (s.bay b).vec.rowsIn ∧
           (tileOf b lt t).load = some { l with next := l.next + 1, wl := none, fed := some x.sid }
       | .blocked => True) ∧
      (t.bay b).tide.streams.head? = some { x with rows := x.rows + 1 } ∧
      ∀ y : TStream, y.sid ≠ x.sid → (y ∈ (t.bay b).tide.streams ↔ y ∈ (s.bay b).tide.streams))

/-- MM.CFG, MM.LDP, MM.LDS, MM.MUL, MM.DRAIN, MM.CLR, MM.STAT (R68, R69, R74, R75, R79, R83, R215, R263). Where the rules are silent it states the model's choice: log 56. -/
def Obligations.TileIssue : Prop :=
  (∀ (b : Bay) (lt : Lt) (mask : BitVec 8) (buf resume acc ob : Bool) (fd fo : LFlag) (n1 e : Fin 256) (r : TileReg)
      (cn : Ctr) (dx : Dix) (d : Desc) (s : State) (c : Instr) (m : BitVec 8) (op : TileOp) (named : Bool),
    (c, m, op, named) ∈ ([(.mmLds b lt buf resume true n1 dx, BitVec.twoPow 8 lt, .lds buf resume true (n1.val + 1) none 0xFFFF#16, false),
      (.mmLds b lt buf resume false n1 dx, BitVec.twoPow 8 lt, .lds buf resume false (n1.val + 1) (some d) (BitVec.ofNat 16 dx.val), true),
      (.mmMul b mask buf ob acc n1 dx, mask, .mul mask buf ob acc (n1.val + 1) d, true),
      (.mmDrain b lt ob fd fo n1 dx, BitVec.twoPow 8 lt, .drain ob fd fo (n1.val + 1) d, true),
      (.mmClr b lt ob, BitVec.twoPow 8 lt, .clr ob, false),
      (.mmLdp b lt e n1 dx, BitVec.twoPow 8 lt, .ldp e.val (n1.val + 1) d, true),
      (.mmStat b lt r cn, BitVec.twoPow 8 lt, .stat r cn, false)] :
        List (Instr × BitVec 8 × TileOp × Bool)) →
    mayIssue b .x c s = true → (c = .mmStat b lt r cn → (s.strm b .x).free [cn] = true) →
    (named = true → descBad b [dx] s = none ∧ unitDesc b dx s = some d) →
    (∀ i : Lt, m.getLsbD i = true → (tileOf b i s).queue.length < 8) →
    ((∃ m', c = .mmLdp b lt e m' dx) → (tileOf b lt s).quiet = true) →
    ∃ t, exec c s = .next t ∧ onlyBay b s t ∧ (t.strm b .x).pc = (s.strm b .x).next.pc ∧
      (t.strm b .x).ctr = (s.strm b .x).ctr ∧ t.strm b .a = s.strm b .a ∧
      (c = .mmStat b lt r cn → (t.strm b .x).busy.getLsbD cn = true) ∧
      ∀ i : Lt, if m.getLsbD i = true then
          ∃ g : TileEnt, (tileOf b i t).queue = (tileOf b i s).queue ++ [g] ∧ g.op = op ∧ g.pc = (s.strm b .x).pc ∧
            g.quench = quenched b s
        else tileOf b i t = tileOf b i s) ∧
  (∀ (b : Bay) (lt : Lt) (imm : W32) (s : State),
    mayIssue b .x (.mmCfg b lt imm) s = true → (tileOf b lt s).quiet = true →
    ∃ t, exec (.mmCfg b lt imm) s = .next t ∧ onlyBay b s t ∧ t.strm b .x = (s.strm b .x).next ∧
      (tileOf b lt t).cfg = imm ∧ (tileOf b lt t).cpt = (tileOf b lt s).cpt ∧
      (∀ i : Lt, i ≠ lt → tileOf b i t = tileOf b i s) ∧
      (imm.toNat % 8 ≠ (tileOf b lt s).cfg.toNat % 8 → (tileOf b lt t).s0.st = .empty ∧ (tileOf b lt t).s1.st = .empty)) ∧
  (∀ (b : Bay) (lt : Lt) (mask : BitVec 8) (buf resume acc ob : Bool) (fd fo : LFlag) (n1 e : Fin 256) (dx : Dix)
      (s : State) (c : Instr),
    c ∈ [Instr.mmLds b lt buf resume false n1 dx, .mmMul b mask buf ob acc n1 dx, .mmDrain b lt ob fd fo n1 dx,
      .mmLdp b lt e n1 dx] →
    mayIssue b .x c s = true → (∀ i : Lt, (tileOf b i s).queue.length < 8) → (tileOf b lt s).quiet = true →
    (descBad b [dx] s ≠ none ∨ unitDesc b dx s = none) →
    ∃ t, exec c s = .next t ∧ ringOnly s t ∧
      t.strm b .x = { s.strm b .x with
        status := .halted, fault := if descBad b [dx] s = none then 0x43#8 else 0x44#8, fpc := (s.strm b .x).pc
        wait := (s.strm b .x).dueWait, haltAge := some (s.bay b).issued } ∧
      ∀ i : Lt, tileOf b i t = tileOf b i s)

/-- TILE_INSTR_START, STATIONARY_LOAD_COMPLETE, MM_MUL_COMPLETE, MM_DRAIN_COMPLETE. Where the rules are silent it states the model's choice: log 37, 39, 129, 147, 148. -/
def Obligations.TileEvents : Prop :=
  (∀ (b : Bay) (lt : Lt) (ent : TileEnt) (s : State),
    dieRuns s = true → memFree s = true → tileNext b lt s = some ent →
    (match ent.op with
     | .lds buf _ _ _ _ _ => ∃ t, exec (.tileInstrStart b lt .clean) s = .next t ∧ onlyBay b s t ∧
         (tileOf b lt t).queue = (tileOf b lt s).queue.filter (fun g => g.seq != ent.seq) ∧ ((tileOf b lt t).sbuf buf).st = .loading ∧ (tileOf b lt t).load.isSome = true
     | .drain ob fd fo n d => ∃ t, exec (.tileInstrStart b lt .clean) s = .next t ∧ onlyBay b s t ∧
         (tileOf b lt t).queue = (tileOf b lt s).queue.filter (fun g => g.seq != ent.seq) ∧ ((tileOf b lt t).bank ob).st = .draining ∧
         (tileOf b lt t).drain = some ⟨ob, fd, fo, n, d, ent.seq, ent.pc, ent.quench⟩
     | .clr ob => ∃ t, exec (.tileInstrStart b lt .clean) s = .next t ∧ onlyBay b s t ∧
         (tileOf b lt t).queue = (tileOf b lt s).queue.filter (fun g => g.seq != ent.seq) ∧ (tileOf b lt t).bank ob = OBank.reset
     | .stat g cn => ∃ t, exec (.tileInstrStart b lt .clean) s = .next t ∧ onlyBay b s t ∧
         (t.strm b .x).ctr[cn] = (tileOf b lt t).reg g ∧ (t.strm b .x).busy.getLsbD cn = false
     | .mul mask buf ob acc n d =>
       let as := d.addrs 0 (streamLen (tileOf b lt s).mode * elemBytes (tileOf b lt s).mode * n)
       (∀ i : Lt, mask.getLsbD i = true →
         (tileOf b i s).mode = (tileOf b lt s).mode ∧ ((tileOf b i s).bank ob).count acc ≤ 262144) →
       as.any (byteBad s) = false →
       ∃ t, exec (.tileInstrStart b lt .clean) s = .next t ∧ onlyBay b s t ∧
         ∀ i : Lt, mask.getLsbD i = true → ((tileOf b i t).bank ob).st = .filling ∧
           ((tileOf b i t).bank ob).cnt = ((tileOf b i s).bank ob).count acc ∧
           (tileOf b i t).muls = (tileOf b i s).muls ++ [⟨buf, ob, acc,
             if ent.quench then List.replicate n [] else mulRows s d (tileOf b lt s).mode n, ent.seq, ent.pc, ent.quench⟩]
     | .ldp e m d =>
       (d.addrs 0 (16 * m)).any (byteBad s) = false →
       (primeRecs (s.gather (d.addrs 0 (16 * m))) m).all primeOk = true →
       ∃ t, exec (.tileInstrStart b lt .clean) s = .next t ∧ onlyBay b s t ∧ (tileOf b lt t).queue = (tileOf b lt s).queue.filter (fun g => g.seq != ent.seq) ∧
         (tileOf b lt t).cpt = putPrimes (tileOf b lt s).cpt e (primeRecs (s.gather (d.addrs 0 (16 * m))) m))) ∧
  (∀ (b : Bay) (lt : Lt) (l : LoadRun) (d : Desc) (s : State),
    dieRuns s = true → memFree s = true → (tileOf b lt s).load = some l → l.d = some d →
    (l.quench = true ∨ goodRows s d (tileOf b lt s).mode l.next l.n = l.n - l.next) →
    ∃ t, exec (.stationaryLoadComplete b lt .clean) s = .next t ∧ onlyBay b s t ∧ (tileOf b lt t).load = none ∧
      (tileOf b lt t).sbuf l.buf = (((tileOf b lt s).sbuf l.buf).fill s d (tileOf b lt s).mode l.next (l.n - l.next) l.quench).loaded
        (tileOf b lt s).mode l.n ∧
      (tileOf b lt t).sbuf (!l.buf) = (tileOf b lt s).sbuf (!l.buf)) ∧
  (∀ (b : Bay) (lt : Lt) (l : LoadRun) (s : State),
    dieRuns s = true → (tileOf b lt s).load = some l → l.d = none → l.n ≤ l.next → memFree s = true →
    ∃ t, exec (.stationaryLoadComplete b lt .clean) s = .next t ∧ onlyBay b s t ∧ (tileOf b lt t).load = none ∧
      (tileOf b lt t).sbuf l.buf = ((tileOf b lt s).sbuf l.buf).loaded (tileOf b lt s).mode l.n) ∧
  (∀ (b : Bay) (lt : Lt) (m : MulRun) (r : List MulRun) (s : State),
    dieRuns s = true → soundUnits b s = true → (tileOf b lt s).muls = m :: r →
    ∃ t, exec (.mmMulComplete b lt .clean) s = .next t ∧ onlyBay b s t ∧ (tileOf b lt t).muls = r ∧
      ((tileOf b lt t).bank m.ob).ent = ((tileOf b lt s).mulBank m).ent ∧
      ((tileOf b lt t).bank m.ob).ovf = ((tileOf b lt s).mulBank m).ovf ∧
      (tileOf b lt t).bank (!m.ob) = (tileOf b lt s).bank (!m.ob) ∧
      (tileOf b lt t).s0 = (tileOf b lt s).s0 ∧ (tileOf b lt t).s1 = (tileOf b lt s).s1) ∧
  (∀ (b : Bay) (lt : Lt) (r : DrainRun) (s : State),
    dieRuns s = true → memFree s = true → soundUnits b s = true → (tileOf b lt s).drain = some r →
    ∃ t, exec (.mmDrainComplete b lt .clean) s = .next t ∧ (tileOf b lt t).drain = none ∧
      (tileOf b lt t).bank r.ob = OBank.reset ∧ (r.fd ≠ r.fo → flagOf b r.fd t = true) ∧
      flagOf b r.fo t = (((tileOf b lt s).bank r.ob).ovf && !r.quench) ∧
      t.mem = (streamOut r.d ((tileOf b lt s).drainBytes r (256 * r.n)) s).mem)

/-- The M32 cell (R64, R66) and its drain (R82). -/
def Obligations.ModularPass : Prop :=
  ∀ (t : Tile) (buf acc : Bool) (x : List W32) (c a : Nat) (old : BitVec 96),
    t.mode = 3 → x.length = 256 → old.toNat < 2 ^ 88 →
    t.cell buf acc x c old =
      (BitVec.ofNat 96 ((if acc = true then old.toNat else 0) +
        ((List.range 256).map (fun k => (x.getD k 0#32).toNat % 2 ^ 31 *
          ((Sparse.get (fun _ => 0#32) (t.sbuf buf).words (256 * k + c)).toNat % 2 ^ 31))).sum), false) ∧
    (primeOk (primeAt t.cpt (bitsAt t.cfg.toNat 31 24), 0) = true →
      t.drainWord a old = BitVec.ofNat 32 (old.toNat % (primeAt t.cpt (bitsAt t.cfg.toNat 31 24)).q.toNat))

/-- NT.CFG, NT.LDP, NT.FWD, NT.INV, NT.TV, NT.STEP, NT.ACC, NT.OUT (R128, R130, R215). -/
def Obligations.RingIssue : Prop :=
  ∀ (b : Bay) (imm : W32) (fd : LFlag) (ac ident : Bool) (slot : Fin 16) (cn : Ctr) (d1 d2 : Dix) (x1 x2 : Desc)
      (s : State) (c : Instr) (op : NtOp) (rs : List Ctr) (ds : List (Dix × Desc)),
    (c, op, rs, ds) ∈ ([(.ntCfg b imm, .cfg imm, [], []), (.ntLdp b d1, .ldp x1, [], [(d1, x1)]),
      (.ntFwd b fd d2 d1, .fwd fd x2 x1, [], [(d1, x1), (d2, x2)]),
      (.ntInv b fd d2 d1, .inv fd x2 x1, [], [(d1, x1), (d2, x2)]),
      (.ntTv b ac ident slot cn, .tv ac (if ident = true then none else some ((s.bay b).tbl.act, slot)) (s.strm b .x).ctr[cn] (inRefresh b s),
        [cn], []),
      (.ntStep b ac fd cn d1, .step ac fd (s.strm b .x).ctr[cn] x1, [cn], [(d1, x1)]),
      (.ntAcc b ac fd d2, .acc ac fd x2, [], [(d2, x2)]), (.ntOut b ac fd d1, .out ac fd x1, [], [(d1, x1)])] :
        List (Instr × NtOp × List Ctr × List (Dix × Desc))) →
    mayIssue b .x c s = true → (s.strm b .x).free rs = true → descBad b (ds.map (fun p => p.1)) s = none →
    (∀ p ∈ ds, unitDesc b p.1 s = some p.2) →
    (s.bay b).nt.queue.length < 4 →
    ∃ t, exec c s = .next t ∧ onlyBay b s t ∧ t.strm b .x = (s.strm b .x).next ∧
      t.bay b = { s.bay b with x := t.strm b .x, nt := (t.bay b).nt, issued := (s.bay b).issued + 1, moved := true } ∧
      ∃ e : NtEnt, (t.bay b).nt = { (s.bay b).nt with queue := (s.bay b).nt.queue ++ [e] } ∧ e.op = op ∧
        e.pc = (s.strm b .x).pc ∧ e.quench = quenched b s

/-- NT_INSTR_START, NT_INSTR_COMPLETE (R85, R128, R129, R132). Where the rules are silent it states the model's choice: log 17, 147, 167, 168, 169, 185. -/
def Obligations.RingEvents : Prop :=
  (∀ (b : Bay) (e : NtEnt) (r : List NtEnt) (s : State),
    dieRuns s = true → memFree s = true → soundUnits b s = true → (s.bay b).nt.queue = e :: r → ntCan b s = true →
    ((e.quench && e.op.cipher) = true ∨ (e.op.reads (s.bay b).nt).any (byteBad s) = false) →
    (match e.op with | .step .. => (s.bay b).nt.prime.mlen.toNat ≤ (s.bay b).nt.dd * (s.bay b).nt.glog | _ => True) →
    ∃ t, exec (.ntInstrStart b .clean) s = .next t ∧ onlyBay b s t ∧
      (t.bay b).nt = { (s.bay b).nt with queue := r, run := some e }) ∧
  (∀ (b : Bay) (e : NtEnt) (r : List NtEnt) (ac : Bool) (fd : LFlag) (v : W32) (d : Desc) (s : State),
    dieRuns s = true → memFree s = true → (s.bay b).nt.queue = e :: r → ntCan b s = true → e.op = .step ac fd v d →
    (s.bay b).nt.dd * (s.bay b).nt.glog < (s.bay b).nt.prime.mlen.toNat →
    ∃ t, exec (.ntInstrStart b .clean) s = .next t ∧ ringOnly s t ∧ (t.strm b .x).status = .halted ∧
      (t.strm b .x).fault = 0x29#8 ∧ (t.strm b .x).fpc = e.pc) ∧
  (∀ (b : Bay) (e : NtEnt) (s : State),
    dieRuns s = true → memFree s = true → (s.bay b).nt.run = some e → e.quench = false →
    (e.op.reads (s.bay b).nt).any (byteBad s) = false →
    ∃ t, exec (.ntInstrComplete b) s = .next t ∧
      match e.op with
      | .cfg imm => onlyBay b s t ∧ (t.bay b).nt.cfg = imm ∧ (t.bay b).nt.run = none
      | .ldp d => primeOk (PrimeRec.ofNat (leNat (s.gather (d.addrs 0 16)))) = true →
          onlyBay b s t ∧ (t.bay b).nt.prime = (PrimeRec.ofNat (leNat (s.gather (d.addrs 0 16)))).1
      | .fwd fd src dst => ∀ psi : Nat, canonRoot (s.bay b).nt.q (s.bay b).nt.n = some psi →
          flagOf b fd t = true ∧ (t.bay b).nt.run = none ∧
          t.mem = (streamOut dst ((nttFwd (s.bay b).nt.q psi (polyAt s src (s.bay b).nt.q 0 (s.bay b).nt.n)).flatMap
            (fun v => leBytes v 4)) s).mem
      | .inv fd src dst => ∀ psi : Nat, canonRoot (s.bay b).nt.q (s.bay b).nt.n = some psi →
          flagOf b fd t = true ∧ (t.bay b).nt.run = none ∧
          t.mem = (streamOut dst ((nttInv (s.bay b).nt.q psi (polyAt s src (s.bay b).nt.q 0 (s.bay b).nt.n)).flatMap
            (fun v => leBytes v 4)) s).mem
      | .step ac fd v dst => ∀ psi : Nat, canonRoot (s.bay b).nt.q (s.bay b).nt.n = some psi →
          flagOf b fd t = true ∧ (t.bay b).nt.run = none ∧ (t.bay b).nt.acc = (s.bay b).nt.acc ∧
          t.mem = (streamOut dst ((((s.bay b).nt.digits ac v.toNat).flatMap (nttFwd (s.bay b).nt.q psi)).flatMap
            (fun v => leBytes v 4)) s).mem
      | .acc ac fd src => flagOf b fd t = true ∧ t.mem = s.mem ∧
          ∀ psi : Nat, canonRoot (s.bay b).nt.q (s.bay b).nt.n = some psi → (s.bay b).nt.n ≤ 4096 →
            Sparse.wf (fun _ => 0#32) (s.bay b).nt.acc = true →
            ∀ c : Nat, c < 2 →
              (t.bay b).nt.poly ac c = (((s.bay b).nt.poly ac c).zip (nttInv (s.bay b).nt.q psi
                (polyAt s src (s.bay b).nt.q (c * (s.bay b).nt.n) (s.bay b).nt.n))).map
                  (fun p => (p.1 + p.2) % (s.bay b).nt.q) ∧
              (t.bay b).nt.poly (!ac) c = (s.bay b).nt.poly (!ac) c
      | .out ac fd dst => flagOf b fd t = true ∧
          t.mem = (streamOut dst (((s.bay b).nt.poly ac 0 ++ (s.bay b).nt.poly ac 1).flatMap (fun v => leBytes v 4)) s).mem
      | .tv ac slot bt refresh => onlyBay b s t ∧ (t.bay b).nt.run = none ∧
          ((s.bay b).nt.n ≤ 4096 → 0 < (s.bay b).nt.q → Sparse.wf (fun _ => 0#32) (s.bay b).nt.acc = true →
            (let x := (s.bay b).nt
             let tt := 2 ^ x.tlog
             let w := x.n / tt
             let delta := x.q / (2 * tt)
             let T := fun i : Nat => match slot with
               | some k => if refresh = true then i
                   else (Sparse.get tblDefault (s.bay b).tbl.ent ((if k.1 = true then 16384 else 0) + 1024 * k.2.val + i)).toNat
               | none => i
             let tv := fun j : Nat =>
               if (j + w / 2) / w < tt then delta * (T ((j + w / 2) / w) % tt) % x.q
               else (x.q - delta * (T 0 % tt) % x.q) % x.q
             (∀ k : Nat, k < x.n → ((t.bay b).nt.poly ac 0)[k]? = some
               (let j := (k + bt.toNat) % (2 * x.n)
                if j < x.n then tv j else (x.q - tv (j - x.n)) % x.q)) ∧
             (t.bay b).nt.poly ac 1 = List.replicate x.n 0 ∧
             ∀ c : Nat, c < 2 → (t.bay b).nt.poly (!ac) c = x.poly (!ac) c))) ∧
  (∀ (b : Bay) (e : NtEnt) (fd : LFlag) (src dst : Desc) (s : State),
    dieRuns s = true → memFree s = true → (s.bay b).nt.run = some e → e.quench = true → e.op = .fwd fd src dst ∨ e.op = .inv fd src dst →
    ∃ t, exec (.ntInstrComplete b) s = .next t ∧ flagOf b fd t = true ∧
      t.mem = (streamOut dst (List.replicate (4 * (s.bay b).nt.n) 0#8) s).mem)

/-- The order of R85, the inverse of R128, the digits of R129. -/
def Obligations.TransformOrder : Prop :=
  (∀ (q psi : Nat) (l : List Nat) (m : Nat), 1 < q → m < l.length →
    (nttFwd q psi l)[m]? = some (((List.range l.length).map (fun k => l.getD k 0 * psi ^ (k * (2 * m + 1)))).sum % q)) ∧
  (∀ (q psi : Nat) (l : List Nat) (k : Nat), 1 < q → q < 2 ^ 64 → k < l.length → l.length < 2 ^ 32 →
    (nttInv q psi l)[k]? = some (l.length ^ (q - 2) *
      ((List.range l.length).map (fun m => l.getD m 0 * (psi ^ (2 * l.length - 1)) ^ (k * (2 * m + 1)))).sum % q)) ∧
  (∀ (glog dd : Nat) (v : Int), 0 < glog → 0 < dd →
    (gadget glog v dd).length = dd ∧
    ((List.range dd).map (fun i => (gadget glog v dd).getD i 0 * 2 ^ (glog * i))).sum = v ∧
    (∀ i : Nat, i + 1 < dd →
      -(2 ^ (glog - 1) : Int) ≤ (gadget glog v dd).getD i 0 ∧ (gadget glog v dd).getD i 0 < 2 ^ (glog - 1)))

/-- R139. -/
def Obligations.TableActive : Prop :=
  (∀ (b : Bay) (slot : Fin 16) (fd : LFlag) (dx : Dix) (d : Desc) (s : State),
    mayIssue b .x (.tblLd b (s.bay b).tbl.act slot fd dx) s = true → descBad b [dx] s = none → unitDesc b dx s = some d →
    (s.bay b).tbl.loads.length < 4 →
    ∃ t, exec (.tblLd b (s.bay b).tbl.act slot fd dx) s = .next t ∧ t = { s with bays := t.bays, faults := t.faults } ∧
      (∀ c : Bay, c ≠ b → t.bay c = s.bay c) ∧
      t.faults = (countFault 0x28 b.val 1 s).faults ∧ (t.bay b).tbl = { (s.bay b).tbl with ref := true } ∧
      flagOf b fd t = true ∧ (∀ f : LFlag, f ≠ fd → flagOf b f t = flagOf b f s) ∧
      t.strm b .x = (s.strm b .x).next ∧ t.strm b .a = s.strm b .a) ∧
  (∀ (b : Bay) (slot : Fin 16) (fd : LFlag) (dx : Dix) (d : Desc) (s : State),
    mayIssue b .x (.tblLd b (!(s.bay b).tbl.act) slot fd dx) s = true → descBad b [dx] s = none → unitDesc b dx s = some d →
    (s.bay b).tbl.loads.length < 4 →
    ∃ t, exec (.tblLd b (!(s.bay b).tbl.act) slot fd dx) s = .next t ∧ onlyBay b s t ∧
      (t.bay b).tbl = { (s.bay b).tbl with
        ref := false
        loads := (s.bay b).tbl.loads ++ [⟨!(s.bay b).tbl.act, slot, fd, d, (s.bay b).issued, (s.strm b .x).pc⟩] } ∧
      t.strm b .x = (s.strm b .x).next)

/-- TBL_LD_COMPLETE, TBL.SWAP, TBL.STAT, TABLE_BANK_FLIP (R136 to R138, R140). -/
def Obligations.TableBanks : Prop :=
  (∀ (b : Bay) (e : TblLoad) (r : List TblLoad) (s : State),
    dieRuns s = true → memFree s = true → (s.bay b).tbl.loads = e :: r → (e.d.addrs 0 2048).any (byteBad s) = false →
    Sparse.wf tblDefault (s.bay b).tbl.ent = true →
    ∃ t, exec (.tblLdComplete b .clean) s = .next t ∧ onlyBay b s t ∧ flagOf b e.fd t = true ∧ (t.bay b).tbl.loads = r ∧
      (t.bay b).tbl.act = (s.bay b).tbl.act ∧
      ∀ i : Nat, Sparse.get tblDefault (t.bay b).tbl.ent i =
        (let base := (if e.bank = true then 16384 else 0) + 1024 * e.slot.val
         if base ≤ i ∧ i < base + 1024 then BitVec.ofNat 16 (fieldAt (s.gather (e.d.addrs 0 2048)) (2 * (i - base)) 2)
         else Sparse.get tblDefault (s.bay b).tbl.ent i)) ∧
  (∀ (b : Bay) (s : State),
    mayIssue b .x (.tblSwap b) s = true →
    ∃ t, exec (.tblSwap b) s = .next t ∧ onlyBay b s t ∧ t.strm b .x = (s.strm b .x).next ∧
      (t.bay b).tbl = { (s.bay b).tbl with pend := true }) ∧
  (∀ (b : Bay) (cn : Ctr) (s : State),
    mayIssue b .x (.tblStat b cn) s = true → (s.strm b .x).free [cn] = true →
    ∃ t, exec (.tblStat b cn) s = .next t ∧ onlyStrm b .x s t ∧
      t.strm b .x = ((s.strm b .x).setCtr cn (tblStat (s.bay b).tbl)).next) ∧
  (∀ (b : Bay) (s : State),
    dieRuns s = true → (s.bay b).tbl.pend = true → (s.bay b).tbl.loads = [] → lookupOpen b s = false →
    ∃ t, exec (.tableBankFlip b) s = .next t ∧ onlyBay b s t ∧
      (t.bay b).tbl = { (s.bay b).tbl with act := !(s.bay b).tbl.act, pend := false })

/-- The VE. instructions with an operand B (R146, R215). -/
def Obligations.VectorIssue : Prop :=
  ∀ (b : Bay) (vd va vc : VReg) (o : VBOp) (pd ps pg : PReg) (r : Rel) (fr : FRel) (v : Fin 64) (s : State) (c : Instr)
      (op : VecOp),
    (let y := match o with | .reg w => VB.reg w | .ctr k => VB.val ((s.strm b .x).ctr[k])
     (c, op) ∈ ([(.veAdd b vd va o pg, .alu .add vd va y pg), (.veSub b vd va o pg, .alu .sub vd va y pg),
      (.veMull b vd va o pg, .alu .mull vd va y pg), (.veMulh b vd va o pg, .alu .mulh vd va y pg),
      (.veMulhu b vd va o pg, .alu .mulhu vd va y pg), (.veAnd b vd va o pg, .alu .and vd va y pg),
      (.veOr b vd va o pg, .alu .or vd va y pg), (.veXor b vd va o pg, .alu .xor vd va y pg),
      (.veShl b vd va o pg, .alu .shl vd va y pg), (.veShr b vd va o pg, .alu .shr vd va y pg),
      (.veSra b vd va o pg, .alu .sra vd va y pg), (.veMin b vd va o pg, .alu .min vd va y pg),
      (.veMax b vd va o pg, .alu .max vd va y pg), (.veMinu b vd va o pg, .alu .minu vd va y pg),
      (.veMaxu b vd va o pg, .alu .maxu vd va y pg), (.veSel b vd va o ps pg, .sel vd va y ps pg),
      (.veCmp b pd r va o pg, .cmp pd r va y pg), (.veFcmp b pd fr va o pg, .fcmp pd fr va y pg),
      (.veFadd b vd va o pg, .falu .fadd vd va y pg), (.veFsub b vd va o pg, .falu .fsub vd va y pg),
      (.veFmul b vd va o pg, .falu .fmul vd va y pg), (.veFma b vd va o vc pg, .fma vd va y vc pg),
      (.veFmin b vd va o pg, .falu .fmin vd va y pg), (.veFmax b vd va o pg, .falu .fmax vd va y pg),
      (.veMadd b vd va o v pg, .modb .madd vd va y v pg), (.veMsub b vd va o v pg, .modb .msub vd va y v pg),
      (.veMmul b vd va o v pg, .modb .mmul vd va y v pg),
      (.veMmac b vd va o v pg, .modb .mmac vd va y v pg)] : List (Instr × VecOp))) →
    mayIssue b .x c s = true → (s.strm b .x).free (vbRegs o) = true → (s.bay b).vec.queue.length < 16 →
    ∃ t, exec c s = .next t ∧ onlyBay b s t ∧ t.strm b .x = (s.strm b .x).next ∧
      t.bay b = { s.bay b with x := t.strm b .x, vec := (t.bay b).vec, issued := (s.bay b).issued + 1, moved := true } ∧
      ∃ e : VecEnt, (t.bay b).vec = { (s.bay b).vec with queue := (s.bay b).vec.queue ++ [e] } ∧ e.op = op ∧
        e.pc = (s.strm b .x).pc ∧ e.quench = quenched b s

/-- The VE. instructions without an operand B, and those whose result lands in a counter (R146, R149 to R152, R166, R215). -/
def Obligations.VectorIssueOther : Prop :=
  (∀ (b : Bay) (vd va vb : VReg) (pd pa pb pg : PReg) (v w : Fin 64) (cn cm : Ctr) (f : SfFunc) (m : Fin 32) (fmt : VFmt)
      (q : Fin 8) (logn : Nat) (toInt init : Bool) (fd : LFlag) (dx d1 d2 : Dix) (x x1 x2 : Desc) (e m1 : Fin 64) (s : State)
      (c : Instr) (op : VecOp) (rs : List Ctr) (ds : List (Dix × Desc)),
    (let y := (s.strm b .x).ctr[cn]
     (c, op, rs, ds) ∈ ([(.veIota b vd cn pg, .iota vd y pg, [cn], []), (.vePand b pd pa pb pg, .plog .and pd pa pb pg, [], []),
      (.vePor b pd pa pb pg, .plog .or pd pa pb pg, [], []), (.vePxor b pd pa pb pg, .plog .xor pd pa pb pg, [], []),
      (.vePnot b pd pa pg, .pnot pd pa pg, [], []), (.veCvt b vd va toInt pg, .cvt vd va toInt pg, [], []),
      (.veMneg b vd va v pg, .mneg vd va v pg, [], []), (.veMred b vd va v pg, .mred vd va v pg, [], []),
      (.veMlift b vd va v w pg, .mlift vd va v w pg, [], []),
      (.veKmac b cn init dx none, .kmac (y.toNat % 512) init x none, [cn], [(dx, x)]),
      (.veKmac b cn init dx (some ⟨fd, d1, d2⟩), .kmac (y.toNat % 512) init x (some ⟨fd, x1, x2⟩), [cn],
        [(dx, x), (d1, x1), (d2, x2)]),
      (.veLrot b vd va cn pg, .lrot vd va y pg, [cn], []), (.vePerm b vd va vb pg, .perm vd va vb pg, [], []),
      (.veSf b vd va f m cn pg, .sf f vd va (m.val + 1) (if f.usesCc = true then y else 0#32) pg,
        if f.usesCc = true then [cn] else [], []),
      (.veLd b vd fmt dx pg, .ld vd fmt x pg, [], [(dx, x)]), (.veSt b va fmt dx pg, .st va fmt x pg, [], [(dx, x)]),
      (.veLdq b vd q m pg, .ldq vd q (m.val + 1) pg, [], []),
      (.veGsign b pd cn cm logn pg, .gsign pd y ((s.strm b .x).ctr[cm]) logn pg, [cn, cm], []),
      (.veLdp b e m1 dx, .ldp e.val (m1.val + 1) x, [], [(dx, x)])] :
        List (Instr × VecOp × List Ctr × List (Dix × Desc)))) →
    mayIssue b .x c s = true → (s.strm b .x).free rs = true → descBad b (ds.map (fun p => p.1)) s = none →
    (∀ p ∈ ds, unitDesc b p.1 s = some p.2) →
    (s.bay b).vec.queue.length < 16 →
    ∃ t, exec c s = .next t ∧ onlyBay b s t ∧ t.strm b .x = (s.strm b .x).next ∧
      t.bay b = { s.bay b with x := t.strm b .x, vec := (t.bay b).vec, issued := (s.bay b).issued + 1, moved := true } ∧
      ∃ e : VecEnt, (t.bay b).vec = { (s.bay b).vec with queue := (s.bay b).vec.queue ++ [e] } ∧ e.op = op ∧
        e.pc = (s.strm b .x).pc ∧ e.quench = quenched b s) ∧
  (∀ (b : Bay) (cn : Ctr) (kind : SumKind) (fn : LFlag) (pg : PReg) (s : State) (c : Instr) (op : VecOp),
    (c, op) ∈ ([(.veSum b cn kind fn pg, .sum cn kind fn pg), (.veStat b cn, .stat cn)] : List (Instr × VecOp)) →
    mayIssue b .x c s = true → (s.strm b .x).free [cn] = true → (s.bay b).vec.queue.length < 16 →
    ∃ t, exec c s = .next t ∧ onlyBay b s t ∧
      t.strm b .x = { (s.strm b .x).next with busy := setBit (s.strm b .x).busy cn true } ∧
      ∃ e : VecEnt, (t.bay b).vec = { (s.bay b).vec with queue := (s.bay b).vec.queue ++ [e] } ∧ e.op = op)

/-- R147, with the governing predicate of R142. -/
def Obligations.VectorInteger : Prop :=
  ∀ (b : Bay) (e : VecEnt) (r : List VecEnt) (op : VAlu) (vd va : VReg) (y : VB) (pg : PReg) (s : State),
    dieRuns s = true → memFree s = true → soundUnits b s = true → (s.bay b).vec.queue = e :: r → vecCan b s = true →
    e.quench = false →
    e.op = .alu op vd va y pg → op ∈ [VAlu.add, .sub, .mull, .mulh, .mulhu] →
    ∃ t, exec (.veInstrStart b .clean) s = .next t ∧ t = { s with bays := t.bays, free := t.free } ∧
      (∀ c : Bay, c ≠ b → t.bay c = s.bay c) ∧ (t.bay b).vec.queue = r ∧
      (let x := (s.bay b).vec
       let a := fun i : Nat => Sparse.get (fun _ => 0#32) x.vregs[va] i
       let o := fun i : Nat => match y with | .reg v => Sparse.get (fun _ => 0#32) x.vregs[v] i | .val w => w
       let on := fun i : Nat => pg = 0 ∨ (x.preds[pg]).getLsbD i = true
       let exact := fun i : Nat => match op with
         | .add => (a i).toInt + (o i).toInt
         | .sub => (a i).toInt - (o i).toInt
         | .mulhu => ((a i).toNat * (o i).toNat : Nat)
         | _ => (a i).toInt * (o i).toInt
       let high := op = .mulh ∨ op = .mulhu
       (∀ i : Nat, i < 512 → Sparse.get (fun _ => 0#32) ((t.bay b).vec.vregs[vd]) i =
         if on i then (if high then BitVec.ofInt 32 (exact i / 2 ^ 32) else BitVec.ofInt 32 (exact i))
         else Sparse.get (fun _ => 0#32) x.vregs[vd] i) ∧
       (∀ v : VReg, v ≠ vd → (t.bay b).vec.vregs[v] = x.vregs[v]) ∧ (t.bay b).vec.preds = x.preds ∧
       ((t.bay b).vec.ovf = true ↔ x.ovf = true ∨ (¬ high ∧ ∃ i : Nat, i < 512 ∧ on i ∧
         (exact i < -2147483648 ∨ 2147483647 < exact i))))

/-- VE_INSTR_START of the instructions on registers and predicates (R142, R145 to R148, R150, R152, R157, R166, R167). Where the rules are silent it states the model's choice: log 2, 150. -/
def Obligations.VectorEffects : Prop :=
  (∀ (b : Bay) (e : VecEnt) (r : List VecEnt) (vd va vb vc : VReg) (y : VB) (ps pg : PReg) (w : W32) (v v2 : Fin 64)
      (sf : SfFunc) (m : Nat) (s : State) (op : VecOp) (f : Nat → W32) (g : Nat → Bool) (z : Bool),
    (let x := (s.bay b).vec
     let lane := fun (u : VReg) (i : Nat) => Sparse.get (fun _ => 0#32) x.vregs[u] i
     let a := lane va
     let o := fun i : Nat => match y with | .reg u => lane u i | .val k => k
     let k := fun i : Nat => (o i).toNat % 32
     let q := x.q v
     let red := fun z : Nat => if primeOk (primeAt x.vpt v, 0) = true then z % q else (primeAt x.vpt v).reduce z
     let r31 := fun c : W32 => c.toNat % 2 ^ 31
     let no := fun _ : Nat => false
     let bad := fun (c : W32) (l : List W32) => !finite32 c && l.all finite32
     (op, f, g, z) ∈ ([
       (.alu .and vd va y pg, fun i => a i &&& o i, no, true), (.alu .or vd va y pg, fun i => a i ||| o i, no, true),
       (.alu .xor vd va y pg, fun i => a i ^^^ o i, no, true),
       (.alu .shl vd va y pg, fun i => BitVec.ofNat 32 ((a i).toNat * 2 ^ k i), no, true),
       (.alu .shr vd va y pg, fun i => BitVec.ofNat 32 ((a i).toNat / 2 ^ k i), no, true),
       (.alu .sra vd va y pg, fun i => BitVec.ofInt 32 ((a i).toInt / 2 ^ k i), no, true),
       (.alu .min vd va y pg, fun i => if (a i).toInt ≤ (o i).toInt then a i else o i, no, true),
       (.alu .max vd va y pg, fun i => if (a i).toInt ≤ (o i).toInt then o i else a i, no, true),
       (.alu .minu vd va y pg, fun i => if (a i).toNat ≤ (o i).toNat then a i else o i, no, true),
       (.alu .maxu vd va y pg, fun i => if (a i).toNat ≤ (o i).toNat then o i else a i, no, true),
       (.sel vd va y ps pg, fun i => if ps = 0 ∨ (x.preds[ps]).getLsbD i = true then a i else o i, no, true),
       (.iota vd w pg, fun i => BitVec.ofNat 32 (w.toNat + i), no, false),
       (.falu .fadd vd va y pg, fun i => fadd32 (a i) (o i), fun i => bad (fadd32 (a i) (o i)) [a i, o i], true),
       (.falu .fsub vd va y pg, fun i => fsub32 (a i) (o i), fun i => bad (fsub32 (a i) (o i)) [a i, o i], true),
       (.falu .fmul vd va y pg, fun i => fmul32 (a i) (o i), fun i => bad (fmul32 (a i) (o i)) [a i, o i], true),
       (.falu .fmin vd va y pg, fun i => fmin32 (a i) (o i), no, true),
       (.falu .fmax vd va y pg, fun i => fmax32 (a i) (o i), no, true),
       (.fma vd va y vc pg, fun i => fma32 (a i) (o i) (lane vc i),
         fun i => bad (fma32 (a i) (o i) (lane vc i)) [a i, o i, lane vc i], true),
       (.cvt vd va true pg, fun i => (toI32 (a i)).1, fun i => (toI32 (a i)).2, true),
       (.cvt vd va false pg, fun i => ofI32 (a i), no, true),
       (.modb .madd vd va y v pg, fun i => BitVec.ofNat 32 (red (r31 (a i) + r31 (o i))), no, true),
       (.modb .msub vd va y v pg, fun i => BitVec.ofNat 32 (((r31 (a i) : Int) - r31 (o i)) % q).toNat, no, true),
       (.modb .mmul vd va y v pg, fun i => BitVec.ofNat 32 (red (r31 (a i) * r31 (o i))), no, true),
       (.modb .mmac vd va y v pg, fun i => BitVec.ofNat 32 (red (r31 (lane vd i) + r31 (a i) * r31 (o i))), no, true),
       (.mneg vd va v pg, fun i => BitVec.ofNat 32 ((q - r31 (a i) % q) % q), no, true),
       (.mred vd va v pg, fun i => BitVec.ofNat 32 (red (a i).toNat), no, true),
       (.mlift vd va v v2 pg, fun i => BitVec.ofNat 32
         ((if (x.q v2 + 1) / 2 ≤ r31 (a i) % x.q v2 then ((r31 (a i) % x.q v2 : Nat) : Int) - x.q v2
           else ((r31 (a i) % x.q v2 : Nat) : Int)) % q).toNat, no, true),
       (.lrot vd va w pg, fun i => a ((i + w.toNat) % 512), no, true),
       (.perm vd va vb pg, fun i => a ((lane vb i).toNat % 512), no, true),
       (.sf sf vd va m w pg, fun i => sfElem sf (a i), no, true)] :
         List (VecOp × (Nat → W32) × (Nat → Bool) × Bool)) →
     dieRuns s = true → memFree s = true → soundUnits b s = true → x.queue = e :: r → vecCan b s = true → e.op = op →
     (op = .sf sf vd va m w pg → sf.isRow = false) →
     ∃ t, exec (.veInstrStart b .clean) s = .next t ∧ t = { s with bays := t.bays, free := t.free } ∧
       (∀ c : Bay, c ≠ b → t.bay c = s.bay c) ∧ t.strm b .x = s.strm b .x ∧ (t.bay b).vec.queue = r ∧
       (∀ i : Nat, i < 512 → Sparse.get (fun _ => 0#32) ((t.bay b).vec.vregs[vd]) i =
         if pg = 0 ∨ (x.preds[pg]).getLsbD i = true then (if e.quench = true ∧ z = true then 0#32 else f i) else lane vd i) ∧
       (∀ u : VReg, u ≠ vd → (t.bay b).vec.vregs[u] = x.vregs[u]) ∧ (t.bay b).vec.preds = x.preds ∧
       (t.bay b).vec.ka = x.ka ∧
       ((t.bay b).vec.ovf = true ↔ x.ovf = true ∨
         (e.quench = false ∧ ∃ i : Nat, i < 512 ∧ (pg = 0 ∨ (x.preds[pg]).getLsbD i = true) ∧ g i = true)))) ∧
  (∀ (b : Bay) (e : VecEnt) (r : List VecEnt) (pd pa pb pg : PReg) (va : VReg) (y : VB) (rel : Rel) (fr : FRel) (c k0 : W32)
      (logn : Nat) (s : State) (op : VecOp) (f : Nat → Bool) (z : Bool),
    (let x := (s.bay b).vec
     let a := fun i : Nat => Sparse.get (fun _ => 0#32) x.vregs[va] i
     let o := fun i : Nat => match y with | .reg u => Sparse.get (fun _ => 0#32) x.vregs[u] i | .val k => k
     let p := fun (n : PReg) (i : Nat) => n == 0 || (x.preds[n]).getLsbD i
     (op, f, z) ∈ ([
       (.cmp pd rel va y pg, fun i => match rel with
         | .eq => decide (a i = o i) | .ne => decide (a i ≠ o i)
         | .lt => decide ((a i).toInt < (o i).toInt) | .ge => decide ((o i).toInt ≤ (a i).toInt)
         | .ltu => decide ((a i).toNat < (o i).toNat) | .geu => decide ((o i).toNat ≤ (a i).toNat), true),
       (.fcmp pd fr va y pg, fun i => match cmp32 (a i) (o i) with
         | none => fr == .ne || fr == .un
         | some c => (match fr with
           | .eq => c == .eq | .ne => c != .eq | .lt => c == .lt | .ge => c != .lt | .le => c != .gt | .gt => c == .gt
           | .un => false), true),
       (.plog .and pd pa pb pg, fun i => p pa i && p pb i, true), (.plog .or pd pa pb pg, fun i => p pa i || p pb i, true),
       (.plog .xor pd pa pb pg, fun i => p pa i != p pb i, true), (.pnot pd pa pg, fun i => !p pa i, true),
       (.gsign pd c k0 logn pg, fun i => decide (2 ^ logn ≤ c.toNat * (k0.toNat + i) % (2 * 2 ^ logn)), false)] :
         List (VecOp × (Nat → Bool) × Bool)) →
     dieRuns s = true → memFree s = true → soundUnits b s = true → x.queue = e :: r → vecCan b s = true → e.op = op →
     pd ≠ 0 →
     ∃ t, exec (.veInstrStart b .clean) s = .next t ∧ t = { s with bays := t.bays, free := t.free } ∧
       (∀ d : Bay, d ≠ b → t.bay d = s.bay d) ∧ t.strm b .x = s.strm b .x ∧ (t.bay b).vec.queue = r ∧
       (t.bay b).vec.vregs = x.vregs ∧ (t.bay b).vec.ovf = x.ovf ∧
       (∀ n : PReg, n ≠ pd → (t.bay b).vec.preds[n] = x.preds[n]) ∧
       ∀ i : Nat, i < 512 → ((t.bay b).vec.preds[pd]).getLsbD i =
         if pg = 0 ∨ (x.preds[pg]).getLsbD i = true then (if e.quench = true ∧ z = true then false else f i)
         else (x.preds[pd]).getLsbD i)) ∧
  (∀ (b : Bay) (e : VecEnt) (r : List VecEnt) (sf : SfFunc) (vd va : VReg) (m : Nat) (c : W32) (pg : PReg) (s : State),
    dieRuns s = true → memFree s = true → soundUnits b s = true → (s.bay b).vec.queue = e :: r → vecCan b s = true →
    e.op = .sf sf vd va m c pg → sf.isRow = true →
    ∃ t, exec (.veInstrStart b .clean) s = .next t ∧ t = { s with bays := t.bays, free := t.free } ∧
      (∃ w : Nat → W32, ∀ i : Nat, i < 512 → Sparse.get (fun _ => 0#32) ((t.bay b).vec.vregs[vd]) i =
        if i < 8 then (if e.quench = true then 0#32 else (rowLanes sf c ((s.bay b).vec.rowElems pg va m) w).getD i 0#32)
        else Sparse.get (fun _ => 0#32) ((s.bay b).vec.vregs[vd]) i) ∧
      (∀ u : VReg, u ≠ vd → (t.bay b).vec.vregs[u] = (s.bay b).vec.vregs[u]) ∧
      (t.bay b).vec.preds = (s.bay b).vec.preds ∧ (t.bay b).vec.ovf = (s.bay b).vec.ovf)

/-- VE_INSTR_START of VE.LD, VE.ST, VE.LDQ, VE.KMAC, VE.SUM, VE.STAT, VE.LDP; VE_KMAC_WRITEBACK, VE_SUM_RESULT (R142 to R144, R149, R151,
R152, R157 to R159). Where the rules are silent it states the model's choice: log 122, 170. -/
def Obligations.VectorLandings : Prop :=
  (∀ (b : Bay) (e : VecEnt) (r : List VecEnt) (vd va : VReg) (f : VFmt) (d : Desc) (q : Fin 8) (m n : Nat) (pg : PReg)
      (init : Bool) (wb : Option KWb) (kb ka : KeyRow) (rows : List KeyRow) (cn : Ctr) (kind : SumKind) (fn : LFlag)
      (l : List (List Byte)) (s : State),
    dieRuns s = true → memFree s = true → soundUnits b s = true → (s.bay b).vec.queue = e :: r → vecCan b s = true →
    (let x := (s.bay b).vec
     let lane := fun (u : VReg) (i : Nat) => Sparse.get (fun _ => 0#32) x.vregs[u] i
     let p := fun (n : PReg) (i : Nat) => n == 0 || (x.preds[n]).getLsbD i
     let acc := fun (k : Bool) (row i : Nat) => Sparse.get (fun _ => 0#32) x.ka (512 * row + (if k = true then 256 else 0) + i)
     (e.op = .ld vd f d pg → e.quench = true ∨ (x.lanesAddrs pg d f).any (byteBad s) = false →
       ∃ t, exec (.veInstrStart b .clean) s = .next t ∧ onlyBay b s t ∧ (t.bay b).vec.queue = r ∧
         (∀ i : Nat, i < 512 → Sparse.get (fun _ => 0#32) ((t.bay b).vec.vregs[vd]) i =
           if p pg i = true then
             (if e.quench = true then 0#32 else fmtLoad f (leNat (s.gather (d.addrs (fmtSize f * i) (fmtSize f)))))
           else lane vd i) ∧
         (∀ u : VReg, u ≠ vd → (t.bay b).vec.vregs[u] = x.vregs[u]) ∧ (t.bay b).vec.preds = x.preds) ∧
     (e.op = .st va f d pg →
       ∃ t, exec (.veInstrStart b .clean) s = .next t ∧ (t.bay b).vec.queue = r ∧ (t.bay b).vec.vregs = x.vregs ∧
         (t.bay b).vec.preds = x.preds ∧ t.strm b .x = s.strm b .x ∧
         t.mem = (maskOut d ((List.range 512).flatMap (fun i =>
           if p pg i = true then (leBytes (if e.quench = true then 0 else (fmtStore f (lane va i)).1) (fmtSize f)).map some
           else List.replicate (fmtSize f) none)) s).mem ∧
         ((t.bay b).vec.ovf = true ↔ x.ovf = true ∨ (e.quench = false ∧
           ∃ i : Nat, i < 512 ∧ p pg i = true ∧ (fmtStore f (lane va i)).2 = true))) ∧
     (e.op = .ldq vd q m pg → (s.bay b).ready q m = some l → m ≤ 32 →
       ∃ t, exec (.veInstrStart b .clean) s = .next t ∧ t = { s with bays := t.bays, free := t.free } ∧
         (t.bay b).dq[q] = (s.bay b).dq[q].drop m ∧ (∀ k : Fin 8, k ≠ q → (t.bay b).dq[k] = (s.bay b).dq[k]) ∧
         ∀ i : Nat, i < 512 → Sparse.get (fun _ => 0#32) ((t.bay b).vec.vregs[vd]) i =
           if p pg i = true ∧ i < 16 * m then
             (if e.quench = true then 0#32 else BitVec.ofNat 32 (fieldAt (l.getD (i / 16) []) (4 * (i % 16)) 4))
           else lane vd i) ∧
     (e.op = .kmac n init d wb → x.rowsIn = kb :: ka :: rows → kb.words.length = 256 → ka.words.length = 256 →
       (e.quench = true ∨ (d.addrs 0 1024).any (byteBad s) = false) → Sparse.wf (fun _ => 0#32) x.ka = true →
       ∃ t, exec (.veInstrStart b .clean) s = .next t ∧ onlyBay b s t ∧ (t.bay b).vec.queue = r ∧
         (t.bay b).vec.rowsIn = rows ∧ (t.bay b).vec.vregs = x.vregs ∧ (t.bay b).vec.lastJ = BitVec.ofNat 6 kb.j ∧
         (∀ (k : Bool) (i : Nat), i < 256 →
           Sparse.get (fun _ => 0#32) (t.bay b).vec.ka (512 * n + (if k = true then 256 else 0) + i) =
             if e.quench = true then 0#32
             else BitVec.ofNat 32 (((if init = true then 0 else (acc k n i).toNat % 2 ^ 31) +
               ((s.walkWords d 0 256).getD i 0#32).toNat % 2 ^ 31 *
                 (((if k = true then ka else kb).words.getD i 0#32).toNat % 2 ^ 31)) % (x.q kb.j))) ∧
         (∀ j : Nat, (j < 512 * n ∨ 512 * n + 512 ≤ j) →
           Sparse.get (fun _ => 0#32) (t.bay b).vec.ka j = Sparse.get (fun _ => 0#32) x.ka j) ∧
         (∀ k : KWb, wb = some k → ∃ nb na, (t.bay b).vec.kmacs = x.kmacs ++ [⟨k, nb, na⟩] ∧
           nb = (t.bay b).vec.kaRow n false ∧ na = (t.bay b).vec.kaRow n true) ∧
         (wb = none → (t.bay b).vec.kmacs = x.kmacs)) ∧
     (e.op = .sum cn kind fn pg →
       ∃ t, exec (.veInstrStart b .clean) s = .next t ∧ onlyBay b s t ∧ (t.bay b).vec.queue = r ∧
         (t.bay b).vec.ovf = (x.ovf && kind != .ovf) ∧ t.strm b .x = s.strm b .x ∧
         ∃ v : W32, (t.bay b).vec.sums = x.sums ++ [⟨cn, fn, v⟩] ∧
           match kind with
           | .any a => (v = 1#32 ∨ v = 0#32) ∧ (v = 1#32 ↔ ∃ i : Nat, i < 512 ∧ p pg i = true ∧ p a i = true)
           | .all a => (v = 1#32 ∨ v = 0#32) ∧ (v = 1#32 ↔ ∀ i : Nat, i < 512 → p pg i = true → p a i = true)
           | .cnt a => v = BitVec.ofNat 32 ((List.range 512).filter (fun i => p pg i && p a i)).length
           | .maxi u => (∀ i : Nat, i < 512 → p pg i = true → (lane u i).toInt ≤ v.toInt) ∧
               (v = 0x80000000#32 ∨ ∃ i : Nat, i < 512 ∧ p pg i = true ∧ lane u i = v)
           | .maxu u => (∀ i : Nat, i < 512 → p pg i = true → (lane u i).toNat ≤ v.toNat) ∧
               (v = 0#32 ∨ ∃ i : Nat, i < 512 ∧ p pg i = true ∧ lane u i = v)
           | .maxf u => v = rowMax (((List.range 512).filter (fun i => p pg i)).map (lane u))
           | .ovf => v = if x.ovf = true then 1#32 else 0#32) ∧
     (e.op = .stat cn →
       ∃ t, exec (.veInstrStart b .clean) s = .next t ∧ onlyBay b s t ∧ (t.bay b).vec.queue = r ∧
         (t.strm b .x).ctr = (s.strm b .x).ctr.set cn (veStat { x with queue := r }) ∧
         (t.strm b .x).busy.getLsbD cn = false) ∧
     (e.op = .ldp n m d → (d.addrs 0 (16 * m)).any (byteBad s) = false →
       (primeRecs (s.gather (d.addrs 0 (16 * m))) m).all primeOk = true →
       ∃ t, exec (.veInstrStart b .clean) s = .next t ∧ onlyBay b s t ∧ (t.bay b).vec.queue = r ∧
         (t.bay b).vec.vpt = putPrimes x.vpt n (primeRecs (s.gather (d.addrs 0 (16 * m))) m) ∧
         (t.bay b).vec.vregs = x.vregs))) ∧
  (∀ (b : Bay) (k : KmacPend) (r : List KmacPend) (s : State),
    dieRuns s = true → memFree s = true → (s.bay b).vec.kmacs = k :: r →
    ∃ t, exec (.veKmacWriteback b .clean) s = .next t ∧ (t.bay b).vec.kmacs = r ∧ flagOf b k.wb.fd t = true ∧
      (t.strm b .x) = (s.strm b .x) ∧
      t.mem = (streamOut k.wb.da (k.a.flatMap (fun w => leBytes w.toNat 4))
        (streamOut k.wb.db (k.b.flatMap (fun w => leBytes w.toNat 4)) s)).mem) ∧
  (∀ (b : Bay) (k : SumPend) (r : List SumPend) (s : State),
    dieRuns s = true → (s.bay b).vec.sums = k :: r →
    ∃ t, exec (.veSumResult b) s = .next t ∧ onlyBay b s t ∧ (t.bay b).vec.sums = r ∧
      t.strm b .x = { s.strm b .x with ctr := (s.strm b .x).ctr.set k.cn k.val, busy := setBit (s.strm b .x).busy k.cn false } ∧
      flagOf b k.fn t = (k.val != 0#32) ∧ (∀ f : LFlag, f ≠ k.fn → flagOf b f t = flagOf b f s) ∧
      ((∀ z ∈ r, z.fn ≠ k.fn) → (∀ e ∈ (s.bay b).vec.queue, e.op.writesFlag k.fn = false) →
        (t.bay b).flagBusy.getLsbD k.fn = false))

/-- XF.MOV, XF.GATH, XF.SCAT, XF.RING, XF.STAT (R192, R263, R264, R266, R275). Where the rules are silent it states the model's choice: log 41. -/
def Obligations.TransferIssue : Prop :=
  (∀ (b : Bay) (fd : Option LFlag) (acc : Bool) (di d1 d2 : Dix) (s : State) (c : Instr) (ds : List Dix) (op : Option XOp),
    (c, ds, op) ∈ ([(.xfMov b (.desc d1) fd d2, [d2, d1], movOp b d2 d1 s),
      (.xfGath b di fd d2 d1, [di, d2, d1], gathOp b di d2 d1 s),
      (.xfScat b acc di fd d2 d1, [di, d2, d1], scatOp b acc di d2 d1 s),
      (.xfRing b fd d1, [d1], (descOf b d1 [3] s).map (fun d => XOp.ring d1 d))] : List (Instr × List Dix × Option XOp)) →
    mayIssue b .a c s = true → (s.bay b).xf.queue.length < 16 → descBad b ds s = none →
    match op with
    | some o =>
        ∃ t, exec c s = .next t ∧ onlyBay b s t ∧ t.strm b .a = (s.strm b .a).next ∧ t.strm b .x = s.strm b .x ∧
          (t.bay b).flags = (s.bay b).flags ∧ (t.bay b).dq = (s.bay b).dq ∧
          (t.bay b).desc = (s.bay b).desc ∧
          ∃ e : XEntry, (t.bay b).xf = { (s.bay b).xf with queue := (s.bay b).xf.queue ++ [e] } ∧ e.op = o ∧ e.fd = fd ∧
            e.pc = (s.strm b .a).pc ∧ e.run = none
    | none => ∃ t, exec c s = .next t ∧ ringOnly s t ∧ (t.bay b).xf = (s.bay b).xf ∧
          t.strm b .a = { s.strm b .a with status := .halted, fault := 0x43#8, fpc := (s.strm b .a).pc, wait := (s.strm b .a).dueWait, haltAge := some (s.bay b).issued }) ∧
  (∀ (b : Bay) (fd : Option LFlag) (q : Fin 8) (d2 : Dix) (d : Desc) (s : State),
    mayIssue b .a (.xfMov b (.queue q) fd d2) s = true → descBad b [d2] s = none → descOf b d2 [1, 2, 4] s = some d →
    (s.bay b).xf.queue.length < 16 → (s.bay b).dq[q].length + dqEntries d ≤ 32 →
    ∃ t, exec (.xfMov b (.queue q) fd d2) s = .next t ∧ onlyBay b s t ∧ t.strm b .a = (s.strm b .a).next ∧
      t.strm b .x = s.strm b .x ∧ (t.bay b).flags = (s.bay b).flags ∧ (t.bay b).desc = (s.bay b).desc ∧
      (t.bay b).dq[q].length = (s.bay b).dq[q].length + (min 2048 d.bytes + 63) / 64 ∧
      (t.bay b).dq[q].take (s.bay b).dq[q].length = (s.bay b).dq[q] ∧
      (∀ e ∈ (t.bay b).dq[q].drop (s.bay b).dq[q].length, e.data = none) ∧
      (∀ k : Fin 8, k ≠ q → (t.bay b).dq[k] = (s.bay b).dq[k]) ∧
      ∃ e : XEntry, (t.bay b).xf = { (s.bay b).xf with queue := (s.bay b).xf.queue ++ [e] } ∧
        e.op = .movq d q (s.bay b).tickets ((min 2048 d.bytes + 63) / 64) ∧ e.fd = fd ∧ e.pc = (s.strm b .a).pc ∧ e.run = none) ∧
  (∀ (b : Bay) (cn : Ctr) (s : State),
    mayIssue b .a (.xfStat b cn) s = true → (s.strm b .a).free [cn] = true →
    ∃ t, exec (.xfStat b cn) s = .next t ∧ onlyStrm b .a s t ∧
      t.strm b .a = ((s.strm b .a).setCtr cn (xfStat (s.bay b).xf)).next)

/-- XF.DNEW, XF.DARM, TS.DARM, XF.DDEL (R260 to R262). -/
def Obligations.Descriptors : Prop :=
  (∀ (b : Bay) (ca : Ctr) (d1 : Dix) (d : Desc) (s : State),
    mayIssue b .a (.xfDnew b ca d1) s = true → (s.strm b .a).free [ca] = true →
    ((s.strm b .a).ctr[ca]).toNat + 15 ≤ 16383 → dmemBad b ((s.strm b .a).ctr[ca]).toNat s = none →
    Sparse.wf (fun _ => none) (s.bay b).desc = true →
    (RawDesc.ofNat (dmemDesc (s.strm b .a) ((s.strm b .a).ctr[ca]).toNat)).check (regionsOf b s) = some d →
    ∃ t, exec (.xfDnew b ca d1) s = .next t ∧ onlyBay b s t ∧ t.strm b .a = (s.strm b .a).next ∧
      descAt b d1 t = some d ∧ (∀ j : Dix, j ≠ d1 → descAt b j t = descAt b j s)) ∧
  (∀ (b : Bay) (cb : Ctr) (d1 : Dix) (s : State) (c : Instr) (st : Strm),
    (c, st) ∈ ([(.xfDarm b cb d1, .a), (.tsDarm b cb d1, .x)] : List (Instr × Strm)) →
    mayIssue b st c s = true → (s.strm b st).free [cb] = true → descBad b [d1] s = none →
    Sparse.wf (fun _ => none) (s.bay b).desc = true →
    match (descAt b d1 s).bind (fun x => x.rearm (regionsOf b s) ((s.strm b st).ctr[cb])) with
    | some d => ∃ t, exec c s = .next t ∧ onlyBay b s t ∧ t.strm b st = (s.strm b st).next ∧ descAt b d1 t = some d ∧
        (∃ o : Desc, descAt b d1 s = some o ∧ d = { o with base := (o.origin + 64 * ((s.strm b st).ctr[cb]).toNat) % 2 ^ 48, pos := 0 }) ∧
        (∀ j : Dix, j ≠ d1 → descAt b j t = descAt b j s)
    | none => ∃ t, exec c s = .next t ∧ ringOnly s t ∧ (t.bay b).desc = (s.bay b).desc ∧
        t.strm b st = { s.strm b st with status := .halted, fault := 0x43#8, fpc := (s.strm b st).pc, wait := (s.strm b st).dueWait, haltAge := some (s.bay b).issued }) ∧
  (∀ (b : Bay) (d1 : Dix) (s : State),
    mayIssue b .a (.xfDdel b d1) s = true → (descAt b d1 s).isSome = true → Sparse.wf (fun _ => none) (s.bay b).desc = true →
    ∃ t, exec (.xfDdel b d1) s = .next t ∧ onlyBay b s t ∧ t.strm b .a = (s.strm b .a).next ∧
      descAt b d1 t = none ∧ (∀ j : Dix, j ≠ d1 → descAt b j t = descAt b j s) ∧
      ∀ lt : Lt, (s.bay b).tiles[lt].stRow.desc = BitVec.ofNat 16 d1.val → (t.bay b).tiles[lt].stRow.pend = false) ∧
  (∀ (b : Bay) (d1 : Dix) (s : State),
    mayIssue b .a (.xfDdel b d1) s = true → descAt b d1 s = none →
    ∃ t, exec (.xfDdel b d1) s = .next t ∧ ringOnly s t ∧ (t.bay b).desc = (s.bay b).desc ∧
      t.strm b .a = { s.strm b .a with status := .halted, fault := 0x43#8, fpc := (s.strm b .a).pc, wait := (s.strm b .a).dueWait, haltAge := some (s.bay b).issued })

/-- TRANSFER_START, TRANSFER_COMPLETE, RING_BURST_FETCH, RING_RECORD_START (R264 to R266, R271 to R274). Where the rules are silent it states the model's choice: log 40, 42, 70, 149, 175. -/
def Obligations.TransferEvents : Prop :=
  (∀ (b : Bay) (e : XEntry) (r : List XEntry) (s : State),
    (s.bay b).xf.queue = e :: r → xferCan b s = true → (∀ ix d, e.op ≠ .ring ix d) →
    ∃ t, exec (.transferStart b) s = .next t ∧ onlyBay b s t ∧
      (t.bay b).xf = { (s.bay b).xf with queue := r, active := (s.bay b).xf.active ++ [e] }) ∧
  (∀ (b : Bay) (slot : Fin 4) (e : XEntry) (s : State),
    dieRuns s = true → memFree s = true → (s.bay b).xf.active[slot.val]? = some e → e.run = none → (runXfer b s e.op).bad = none →
    ∃ t, exec (.transferComplete b slot b .clean) s = .next t ∧
      (t.bay b).flags = (match e.fd with | some f => setBit (s.bay b).flags f true | none => (s.bay b).flags) ∧
      (t.bay b).xf.active = (s.bay b).xf.active.eraseIdx slot.val ∧ (t.bay b).xf.queue = (s.bay b).xf.queue ∧
      (∀ (c : Bay) (st : Strm), t.strm c st = s.strm c st) ∧
      (∀ c : Bay, c ≠ b → (t.bay c).flags = (s.bay c).flags ∧ (t.bay c).dq = (s.bay c).dq ∧ (t.bay c).xf = (s.bay c).xf) ∧
      match e.op with
      | .mov x y => t.mem = (streamOut y (s.gather (x.addrs 0 y.bytes)) s).mem ∧ (t.bay b).dq = (s.bay b).dq
      | .movq x q tk n =>
          t.mem = s.mem ∧ (∀ k : Fin 8, k ≠ q → (t.bay b).dq[k] = (s.bay b).dq[k]) ∧
          (t.bay b).dq[q] = (s.bay b).dq[q].map (fun g =>
            if tk ≤ g.ticket ∧ g.ticket < tk + n then
              { g with data := some (padTo 64 (((s.gather (x.addrs 0 (min 2048 x.bytes))).drop (64 * (g.ticket - tk))).take 64)) }
            else g)
      | .gath i x y =>
          (t.bay b).dq = (s.bay b).dq ∧
          t.mem = (streamOut y ((List.range i.count).flatMap (fun p =>
            if idxVal s i p < x.rows then s.gather (x.addrs (idxVal s i p * x.rowBytes) x.rowBytes)
            else List.replicate x.rowBytes 0#8)) s).mem
      | .scat acc i x y =>
          (t.bay b).dq = (s.bay b).dq ∧
          t.mem = ((List.range i.count).foldl (fun (u : State) p =>
            if idxVal s i p < y.rows then
              scatRow b acc y (idxVal s i p) (s.gather (x.addrs (p * y.rowBytes) y.rowBytes)) u
            else u) s).mem
      | .ring _ _ => True) ∧
  (∀ (b : Bay) (r : RingRun) (s : State),
    dieRuns s = true → memFree s = true → (s.bay b).xf.ring = some r → (s.bay b).xf.halt = false → burstCan r = true → 0 < r.d.size[1] →
    (let n := min r.d.size[1] (r.d.size[2] - r.fetched)
     (∀ k : Nat, k < n → rangeBad s (r.d.base + 32 * ((r.d.pos + r.fetched + k) % r.d.size[0])) 32 = false) →
     ∃ t, exec (.ringBurstFetch b b .clean) s = .next t ∧ t.mem = s.mem ∧ (∀ (c : Bay) (st : Strm), t.strm c st = s.strm c st) ∧
       (∀ c : Bay, (t.bay c).flags = (s.bay c).flags ∧ (t.bay c).dq = (s.bay c).dq ∧ (c ≠ b → (t.bay c).xf = (s.bay c).xf)) ∧
       (t.bay b).xf.ring = some { r with
         buf := r.buf ++ (List.range n).map (fun k => s.ld (r.d.base + 32 * ((r.d.pos + r.fetched + k) % r.d.size[0])) 32)
         fetched := r.fetched + n })) ∧
  (∀ (b : Bay) (r : RingRun) (l : List Byte) (ls : List (List Byte)) (s : State),
    dieRuns s = true → (s.bay b).xf.ring = some r → r.buf = l :: ls → (s.bay b).xf.halt = false →
    descBad b (ringDescs l) s = none →
    match ringAct b l s with
    | .start op fd => xfFits (s.bay b).xf op = true →
        ∃ t, exec (.ringRecordStart b) s = .next t ∧ onlyBay b s t ∧
          ∃ e : XEntry, (t.bay b).xf.active = (s.bay b).xf.active ++ [e] ∧ e.op = op ∧ e.fd = fd ∧ e.run = some r.no
    | .bad => ∃ t, exec (.ringRecordStart b) s = .next t ∧ ringOnly s t ∧ (t.bay b).xf.halt = true ∧
        (t.bay b).xf.hcode = 0x43#8 ∧ (t.bay b).xf.active = (s.bay b).xf.active ∧ t.strm b .a = s.strm b .a
    | .darm _ _ fd => ∃ t, exec (.ringRecordStart b) s = .next t ∧ onlyBay b s t ∧
        (t.bay b).xf.active = (s.bay b).xf.active ∧ (∀ f : LFlag, fd = some f → flagOf b f t = true))

/-- WAIT_TIMEOUT, DLK, PARK_COMPLETE, PROGRAM_RELEASE (R196, R199 to R201, R207). Where the rules are silent it states the model's choice: log 26, 27, 28, 29. -/
def Obligations.WaitsEnd : Prop :=
  (∀ (b : Bay) (st : Strm) (w : Wait) (s : State),
    dieRuns s = true → (s.strm b st).status = .wait → (s.strm b st).wait = some w → w.cause ≠ .beat → w.cause ≠ .park →
    w.limit ≤ w.timer → expiredUnits b st s = [] → (s.bay b).npc ≠ 4096 → (s.strm b st).timedOut = false →
    ∃ t, exec (.waitTimeout b st) s = .next t ∧ ringOnly s t ∧
      t.strm b st = { s.strm b st with status := .halted, fault := 0x32#8, fpc := (s.strm b st).pc, wait := (s.strm b st).dueWait, haltAge := some (s.bay b).issued, timedOut := true }) ∧
  (∀ (b : Bay) (s : State),
    dieRuns s = true → (s.bay b).npc = 4096 →
    (dlkHits b .a s = true ∨ dlkHits b .x s = true) →
    ∃ t, exec (.dlk b) s = .next t ∧ ringOnly s t ∧ (t.bay b).npc = 0 ∧
      ∀ st : Strm,
        if (s.strm b st).status = .idle ∨ (s.strm b st).status = .halted ∧ (s.strm b st).haltAge = none then
          (t.strm b st).status = (s.strm b st).status ∧ (t.strm b st).fault = (s.strm b st).fault
        else if (s.strm b st).status = .halted then
          (t.strm b st).status = .halted ∧ (t.strm b st).fault =
            (if (s.strm b st).outdone 0x31 (waitAge b st s) = true then 0x31#8 else (s.strm b st).fault)
        else (t.strm b st).status = .halted ∧ (t.strm b st).fault = 0x31#8 ∧ (t.strm b st).pc = (s.strm b st).pc ∧
          (t.strm b st).wait = (s.strm b st).wait) ∧
  (∀ (b : Bay) (s : State),
    dieRuns s = true → (s.bay b).parkPend = true → (s.bay b).a.parkedNow = true → (s.bay b).x.parkedNow = true →
    unitsStill (s.bay b) = true →
    exec (.parkComplete b) s = .next (s.setBay b { s.bay b with parkPend := false, parked := true })) ∧
  (∀ (mask : BayMask) (l : Launch) (b : Bay) (st : Strm) (s : State),
    dieRuns s = true → s.ldr.launches.find? (fun l => l.bays == mask && released l s) = some l →
    mask.getLsbD b = true → (s.strm b st).waitsOn (.programRelease mask) = true →
    ∃ t, exec (.programRelease mask) s = .next t ∧ t.mem = s.mem ∧ t.ldr.launches = s.ldr.launches.erase l ∧
      t.strm b st = { s.strm b st with status := .run, wait := none, fpc := 0#15 })

/-- MEM_REQUEST_ARRIVE, MEM_REQUEST_SERVE, MEM_READ_RETURN (R281, R287 to R291). Where the rules are silent it states the model's choice: log 62, 63, 128. -/
def Obligations.MemoryRequests : Prop :=
  (∀ (ms : Stk) (req : Nat) (src : Bay) (addr len : Nat) (data : Option (List Byte)) (s : State),
    clocked s = true → 1 ≤ req → req ≤ 8 → 1 ≤ len → (∀ d, data = some d → d.length = len) → addr + len ≤ stackEnd →
    bandOk req addr len = true → (∀ q ∈ splitReq req src addr len data, (placeOf s q.addr).1 = ms.val) →
    ∃ t, exec (.memRequestArrive ms req src addr len data) s = .next t ∧ t = { s with stk := t.stk } ∧
      (t.stack ms).reqs.length + (t.stack ms).blocked.length =
        (s.stack ms).reqs.length + (s.stack ms).blocked.length + ((addr + len + 63) / 64 - addr / 64) ∧
      (∀ q ∈ splitReq req src addr len data, q ∈ (t.stack ms).reqs ∨ q ∈ (t.stack ms).blocked) ∧
      ∀ m : Stk, m ≠ ms → t.stack m = s.stack m) ∧
  (∀ (ms : Stk) (req : Nat) (src : Bay) (addr len : Nat) (data : Option (List Byte)) (s : State),
    clocked s = true → 1 ≤ req → req ≤ 8 → 1 ≤ len → (∀ d, data = some d → d.length = len) → addr % 64 + len ≤ 64 →
    addr + len ≤ stackEnd → bandOk req addr len = true → (placeOf s addr).1 = ms.val →
    (∀ p ∈ (s.stack ms).reqs, p.fresh = false) → (s.stack ms).blocked = [] →
    let q : MemReq := ⟨req, src, addr, len, data, false, none, 0⟩
    exec (.memRequestArrive ms req src addr len data) s = .next (updStack ms (fun k =>
      if entryFree (inChan s k (q.chan s)) req = true then { k with reqs := k.reqs ++ [q] } else { k with blocked := [q] }) s)) ∧
  (∀ (ms : Stk) (req : Nat) (src : Bay) (addr len : Nat) (data : Option (List Byte)) (l : List MemReq) (p : MemReq) (s : State),
    clocked s = true → 1 ≤ req → req ≤ 8 → 1 ≤ len → (∀ d, data = some d → d.length = len) → addr % 64 + len ≤ 64 →
    addr + len ≤ stackEnd → bandOk req addr len = true → (placeOf s addr).1 = ms.val →
    (s.stack ms).reqs = l ++ [p] → (∀ e ∈ l, e.fresh = false) → p.age = 0 → p.served = false → (s.stack ms).blocked = [] →
    let q : MemReq := ⟨req, src, addr, len, data, false, none, 0⟩
    q.rank < p.rank → entryFree (inChan s { s.stack ms with reqs := l, blocked := [] } (q.chan s)) req = true →
    entryFree (inChan s { s.stack ms with reqs := l ++ [q], blocked := [] } (p.chan s)) p.req = true →
    exec (.memRequestArrive ms req src addr len data) s =
      .next (updStack ms (fun k => { k with reqs := l ++ [q, p], blocked := [] }) s)) ∧
  (∀ (ms : Stk) (req : Nat) (src : Bay) (addr len : Nat) (data : Option (List Byte)) (s : State),
    stackEnd < addr + len → exec (.memRequestArrive ms req src addr len data) s = .fault (.noMemory addr)) ∧
  (∀ (ms : Stk) (pc : Fin 32) (q : MemReq) (s : State),
    clocked s = true → nextServed s (s.stack ms) pc = some q →
    ∃ t, exec (.memRequestServe ms pc []) s = .next t ∧
      (match q.data with
       | some d => t.mem = (s.store q.addr d).mem
       | none => t.mem = s.mem ∧
          { q with served := true, got := if rangeBad s q.addr q.len = true then none else some (s.ld q.addr q.len) } ∈
            (t.stack ms).reqs) ∧
      (∀ b : Bay, (t.strm b .a) = (s.strm b .a) ∧ (t.strm b .x) = (s.strm b .x))) ∧
  (∀ (ms : Stk) (req : Nat) (src : Bay) (q : MemReq) (s : State),
    clocked s = true → (s.stack ms).reqs.find? (fun q => q.req == req && q.src == src && q.data.isNone) = some q →
    q.served = true → q.got.isSome = true →
    ∃ t, exec (.memReadReturn ms req src) s = .next t ∧ t = { s with stk := t.stk } ∧
      (t.stack ms).reqs.length + (t.stack ms).blocked.length + 1 =
        (s.stack ms).reqs.length + (s.stack ms).blocked.length) ∧
  (∀ (ms : Stk) (req : Nat) (src : Bay) (q : MemReq) (s : State),
    clocked s = true → (s.stack ms).reqs.find? (fun q => q.req == req && q.src == src && q.data.isNone) = some q →
    q.served = true → q.got = none →
    ∃ t, exec (.memReadReturn ms req src) s = .next t ∧
      t.codes.secUe = min (s.codes.secUe + 1) (2 ^ 64 - 1) ∧
      t.codes.lastSecUe = BitVec.ofNat 64 (q.req * 2 ^ 48 + q.addr / 64 * 64))

/-- DRAM_REFRESH, HOT_REFRESH_ENTER, HOT_REFRESH_LEAVE, PATROL_SCRUB, STACK_TEMP_READ, STACK_CAP_LOWER, STACK_CAP_RAISE, ACT_LIMIT_SET, ACT_LIMIT_LIFT, STACK_THERM_FAULT, BAND_ZERO_COMPLETE, STACK_INIT_COMPLETE. Where the rules are silent it states the model's choice: log 64, 72, 112. -/
def Obligations.StackUpkeep : Prop :=
  (∀ (ms : Stk) (s : State),
    clocked s = true → (s.stack ms).refreshedAt ≠ some s.beat.pos →
    ∃ t, exec (.dramRefresh ms) s = .next t ∧ t = { s with stk := t.stk } ∧ (t.stack ms).refreshedAt = some s.beat.pos ∧
      ∀ c b : Nat, c < 32 → b < 32 →
        Sparse.get (fun _ => 0) (t.stack ms).rowCtr (32 * c + b) =
          (if (b + c) % (if (s.stack ms).hot = true then 2 else 4) = s.beat.pos % (if (s.stack ms).hot = true then 2 else 4) then
            (Sparse.get (fun _ => 0) (s.stack ms).rowCtr (32 * c + b) + 8) % 65536
           else Sparse.get (fun _ => 0) (s.stack ms).rowCtr (32 * c + b))) ∧
  (∀ (ms : Stk) (s : State) (c : Instr) (k : Stack) (code : Nat),
    clocked s = true →
    ((c = .hotRefreshEnter ms ∧ atEdge s = true ∧ (s.stack ms).hotDue = true :: k.hotDue ∧ s.beat.pos % 4 = 0 ∧
        k = { s.stack ms with hot := true, hotDue := k.hotDue } ∧ code = 3) ∨
      (c = .hotRefreshLeave ms ∧ atEdge s = true ∧ (s.stack ms).hotDue = false :: k.hotDue ∧ s.beat.pos % 4 = 0 ∧
        k = { s.stack ms with hot := false, hotDue := k.hotDue } ∧ code = 3) ∨
      (c = .actLimitSet ms ∧ 105 * 16 ≤ (s.stack ms).temp ∧ (s.stack ms).actLimit = false ∧
        k = { s.stack ms with actLimit := true } ∧ code = 4) ∨
      (c = .actLimitLift ms ∧ (s.stack ms).temp < 103 * 16 ∧ (s.stack ms).actLimit = true ∧
        k = { s.stack ms with actLimit := false } ∧ code = 4)) →
    ∃ t, exec c s = .next t ∧ ringOnly s t ∧ t.run = { s.run.event code ms.val s.beatNat with replayable := t.run.replayable } ∧
      (t.stack ms).hot = k.hot ∧ (t.stack ms).hotDue = k.hotDue ∧ (t.stack ms).actLimit = k.actLimit ∧ (t.stack ms).temp = k.temp ∧
      (∀ b : Bay, (t.strm b .a) = (s.strm b .a) ∧ (t.strm b .x) = (s.strm b .x))) ∧
  (∀ (ms : Stk) (s : State) (c : Instr) (cap : Nat),
    atEdge s = true →
    ((c = .stackCapLower ms ∧ (s.stack ms).capDue = cap ∧ cap < (s.stack ms).cap) ∨
      (c = .stackCapRaise ms ∧ (s.stack ms).capDue = cap ∧ (s.stack ms).cap < cap)) →
    exec c s = .next (updStack ms (fun k => { k with cap := cap }) s)) ∧
  (∀ (ms : Stk) (smp : Sample) (s : State),
    clocked s = true → (s.stack ms).capDue = (s.stack ms).cap →
    ∃ t, exec (.beatEdge smp) s = .next t ∧ (t.stack ms).cap = (s.stack ms).cap ∧ (t.stack ms).temp = (s.stack ms).temp ∧
      (t.stack ms).capDue =
        (if 95 * 16 ≤ (s.stack ms).temp ∧ 4 ≤ (s.stack ms).capSince then (s.stack ms).cap - 1
         else if (s.stack ms).temp ≤ 90 * 16 ∧ 64 ≤ (s.stack ms).capSince ∧ (s.stack ms).cap < 15 then (s.stack ms).cap + 1
         else (s.stack ms).cap)) ∧
  (∀ (ms : Stk) (s : State),
    clocked s = true → 64 ≤ (s.stack ms).hotBt → s.faults.gong = 0#8 →
    ∃ t, exec (.stackThermFault ms) s = .next t ∧ ringOnly s t ∧ t.faults.gong = 0x61#8 ∧
      ∀ (b : Bay) (st : Strm), (t.strm b st).status = .halted ∧ (t.strm b st).fault = 0x61#8) ∧
  (∀ (ms : Stk) (pc : Fin 32) (s : State),
    clocked s = true → s.codes.patrolOn = true → (s.stack ms).scrubbedAt pc s.beat.pos = false →
    (inChan s (s.stack ms) pc).any (fun q => !q.served) = false →
    (∀ a ∈ patrolRow s ms pc (Sparse.get (fun _ => 0) (s.stack ms).patrol pc), byteBad s a = false) →
    Sparse.wf (fun _ => 0) (s.stack ms).patrol = true → Sparse.wf (fun _ => 0) (s.stack ms).scrubAt = true →
    ∃ t, exec (.patrolScrub ms pc []) s = .next t ∧ t = { s with stk := t.stk } ∧
      (t.stack ms).scrubbedAt pc s.beat.pos = true ∧
      Sparse.get (fun _ => 0) (t.stack ms).patrol pc =
        (Sparse.get (fun _ => 0) (s.stack ms).patrol pc + 1) % 2097152 ∧
      (t.stack ms).wbq = (s.stack ms).wbq.filter (fun e => e.1 != pc.val)) ∧
  (∀ (ms : Stk) (pc : Fin 32) (errs : List SectorErr) (s : State),
    clocked s = true → s.codes.patrolOn = true → (s.stack ms).scrubbedAt pc s.beat.pos = false →
    (inChan s (s.stack ms) pc).any (fun q => !q.served) = true →
    ∃ t, exec (.patrolScrub ms pc errs) s = .next t ∧ t = { s with stk := t.stk } ∧
      (t.stack ms).patrol = (s.stack ms).patrol ∧ (t.stack ms).missed = min ((s.stack ms).missed + 1) (2 ^ 64 - 1)) ∧
  (∀ (ms : Stk) (dies : Vector Int 16) (s : State),
    clocked s = true → (s.stack ms).readAt ≠ some s.beat.pos →
    ∃ t, exec (.stackTempRead ms dies) s = .next t ∧ t = { s with stk := t.stk } ∧
      (∀ i : Fin 16, dies[i] ≤ (t.stack ms).temp) ∧ (∃ i : Fin 16, dies[i] = (t.stack ms).temp) ∧
      ((s.stack ms).hotDue = [] →
        (t.stack ms).hotDue = (if 85 * 16 ≤ (t.stack ms).temp ∧ (s.stack ms).hot = false then [true]
          else if (t.stack ms).temp < 83 * 16 ∧ (s.stack ms).hot = true then [false] else [])) ∧
      ∀ m : Stk, m ≠ ms → t.stack m = s.stack m) ∧
  (∀ s : State, clocked s = true → s.ms.zeroing ≠ [] →
    exec .bandZeroComplete s = .next { s with ms := { s.ms with zeroing := [] } }) ∧
  (∀ s : State, clocked s = true → s.ms.stackInit = true →
    exec .stackInitComplete s = .next { s with ms := { s.ms with stackInit := false } })

/-- PAGE_REPAIR_START, PAGE_REPAIR_COMPLETE, CORRECTED_WRITEBACK, SCRUB_STEP, REENCODE_COMPLETE, SCRATCHPAD_INIT_COMPLETE. Where the rules are silent it states the model's choice: log 15, 67, 138, 139, 140, 191. -/
def Obligations.OnDieCodes : Prop :=
  (∀ (b : Bay) (r : Repair) (l : List Repair) (s : State),
    dieRuns s = true → (s.bay b).prot.repairs = r :: l → (s.bay b).prot.repairing = none →
    ∃ t, exec (.pageRepairStart b) s = .next t ∧ onlyBay b s t ∧
      t.bay b = { s.bay b with prot := { (s.bay b).prot with repairs := l, repairing := some r } }) ∧
  (∀ (b : Bay) (r : Repair) (rd : PageRead) (s : State),
    dieRuns s = true → (s.bay b).prot.repairing = some r → r.page < 14336 → rd.wrong = [] →
    ∃ t, exec (.pageRepairComplete b rd) s = .next t ∧ (t.bay b).prot.repairing = none ∧
      (∀ c : Bay, c ≠ b → t.bay c = s.bay c) ∧
      (∀ a : Nat, (∀ o : Nat, spadAt a = some (b.val, o) → o / 4096 ≠ r.page) → t.rd a = s.rd a) ∧
      (∀ e ∈ (t.bay b).prot.silent, e.1 / 512 ≠ r.page) ∧
      (if pageLoad b r.page (failing (s.bay b).prot r rd) rd s ≤ s.codes.pageP r.page then
         (t.bay b).prot.bad = (s.bay b).prot.bad ∧
          t.codes = (if r.page < 12288 then { s.codes with spadPages := min (s.codes.spadPages + 1) (2 ^ 64 - 1) }
            else { s.codes with keyPages := min (s.codes.keyPages + 1) (2 ^ 64 - 1) })
       else
         (∀ w : Nat, w ∈ (t.bay b).prot.bad ↔ w ∈ (s.bay b).prot.bad ∨ w ∈ failing (s.bay b).prot r rd) ∧
          (r.scrub = false → t.codes = s.codes))) ∧
  (∀ (b : Bay) (id : Byte) (e : Nat × Nat) (s : State),
    clocked s = true → (s.bay b).prot.wbs.find? (fun e => e.1 == id.toNat) = some e →
    exec (.correctedWriteback b id none) s =
      .next (s.setBay b { s.bay b with prot := { (s.bay b).prot with wbs := (s.bay b).prot.wbs.erase e } })) ∧
  (∀ (b : Bay) (id : Byte) (o : Nat) (s : State),
    clocked s = true → 0x10 ≤ id.toNat → id.toNat ≤ 0x12 ∨ 0x20 ≤ id.toNat ∧ id.toNat ≤ 0x24 →
    exec (.correctedWriteback b id (some o)) s =
      .next { s with codes := { s.codes with byteCorr := min (s.codes.byteCorr + 1) (2 ^ 64 - 1) } }) ∧
  (∀ (b : Bay) (s : State),
    dieRuns s = true → s.codes.scrubOn = true → (s.bay b).prot.scrubPos < 14336 →
    (s.bay b).prot.repairs? (s.bay b).prot.scrubPos = false →
    (∀ e ∈ (s.bay b).prot.silent, e.1 / 512 ≠ (s.bay b).prot.scrubPos) →
    exec (.scrubStep b ⟨[], [], [], 0, 0⟩) s = .next (s.setBay b { s.bay b with
      prot := { (s.bay b).prot with scrubPos := (s.bay b).prot.scrubPos + 1 } })) ∧
  (∀ (b : Bay) (rd : PageRead) (s : State),
    dieRuns s = true → s.codes.scrubOn = true → (s.bay b).prot.scrubPos < 14336 →
    (s.bay b).prot.repairs? (s.bay b).prot.scrubPos = false → rd.wrong = [] → rd.fixed = [] →
    failing (s.bay b).prot ⟨(s.bay b).prot.scrubPos, [], true, true⟩ rd ≠ [] →
    (∀ r ∈ (s.bay b).prot.repairs, r.page ≠ (s.bay b).prot.scrubPos) →
    exec (.scrubStep b rd) s = .next (s.setBay b { s.bay b with
      prot := { (s.bay b).prot with
        scrubPos := (s.bay b).prot.scrubPos + 1
        repairs := (s.bay b).prot.repairs ++
          [⟨(s.bay b).prot.scrubPos, failing (s.bay b).prot ⟨(s.bay b).prot.scrubPos, [], true, true⟩ rd, true, true⟩] } })) ∧
  (∀ s : State, dieRuns s = true → s.codes.reenc ≠ none →
    ∃ t, exec .reencodeComplete s = .next t ∧ t = { s with codes := t.codes, bays := t.bays } ∧
      t.codes = { s.codes with reenc := none, spadNow := s.codes.spadP, keyNow := s.codes.keyP } ∧
      ∀ (b : Bay) (g : Nat), g < 14336 →
        (t.bay b).prot = { (s.bay b).prot with par := (t.bay b).prot.par } ∧
        Sparse.get (fun _ => ParLine.zero) (t.bay b).prot.par g =
          parityOf (t.codes.pageP g) ((s.bay b).prot.pageWritten s.mem (s.bay b).keyBuf b g)) ∧
  (∀ s : State, clocked s = true → s.ms.spadInit = true →
    exec .scratchpadInitComplete s = .next { s with ms := { s.ms with spadInit := false } })

/-- DVFS_CLOCK_SWITCH, RAIL_SETTLED, THERMAL_CAP_LOWER, THERMAL_CAP_RAISE, POWER_CAP_RAISE, SENSOR_HISTORY_FULL. Where the rules are silent it states the model's choice: log 72, 113. -/
def Obligations.DvfsSteps : Prop :=
  (∀ (b : Bay) (code : Nat) (s : State),
    atEdge s = true → s.pwr.raise[b] = some (0, code) →
    ∃ t, exec (.dvfsClockSwitch b) s = .next t ∧ ringOnly s t ∧ t.pwr.step[b] = s.pwr.step[b] + 1 ∧ t.pwr.pause[b] = 32 ∧
      (∀ m : Bay, m ≠ b → t.pwr.step[m] = s.pwr.step[m] ∧ t.pwr.pause[m] = s.pwr.pause[m]) ∧
      t.run = { s.run.event code b.val s.beatNat with replayable := t.run.replayable } ∧
      (∀ (m : Bay) (st : Strm), t.strm m st = s.strm m st)) ∧
  (∀ (b : Bay) (s : State),
    atEdge s = true → s.pwr.settle[b] = 1 →
    exec (.railSettled b) s = .next { s with pwr := { s.pwr with settle := s.pwr.settle.set b 0 } }) ∧
  (∀ (b : Bay) (cap : Nat) (s : State) (c : Instr),
    atEdge s = true →
    ((c = .thermalCapLower b ∧ s.pwr.heats b = true ∧ 4 ≤ s.pwr.lowerSince[b] ∧ s.pwr.thermcap[b] = cap + 1) ∨
      (c = .thermalCapRaise b ∧ s.pwr.cools b = true ∧ 64 ≤ s.pwr.raiseSince[b] ∧ s.pwr.thermcap[b] < 15 ∧
        cap = s.pwr.thermcap[b] + 1)) →
    ∃ t, exec c s = .next t ∧ t = { s with pwr := t.pwr } ∧ t.pwr.thermcap[b] = cap ∧
      (∀ m : Bay, m ≠ b → t.pwr.thermcap[m] = s.pwr.thermcap[m]) ∧ t.pwr.step = s.pwr.step) ∧
  (∀ s : State,
    atEdge s = true → s.pwr.quiet = 64 →
    ∃ t, exec .powerCapRaise s = .next t ∧ t = { s with pwr := t.pwr } ∧ t.pwr.quiet = 0 ∧ t.pwr.step = s.pwr.step ∧
      ∀ m : Bay, t.pwr.pwrcap[m] =
        (if (∀ n : Bay, s.pwr.pwrcap[m] ≤ s.pwr.pwrcap[n]) ∧ s.pwr.pwrcap[m] < 15 then s.pwr.pwrcap[m] + 1 else s.pwr.pwrcap[m])) ∧
  (∀ s : State,
    atEdge s = true → 1024 ≤ s.pwr.hist → s.pwr.limitFull = false →
    ∃ t, exec .sensorHistoryFull s = .next t ∧ t = { s with pwr := t.pwr } ∧ t.pwr.limitFull = true ∧
      t.pwr = { s.pwr with limitFull := true, limit := t.pwr.limit } ∧ t.pwr.limit = t.pwr.limitNow)

/-- NEIGHBOUR_THERM_FAULT, BAY_THERM_FAULT, UNCORE_THERM_FAULT, OVERVOLTAGE_FAULT, POWER_CEILING_FAULT, PS_DIE_FAULT (R420, R421, R430). Where the rules are silent it states the model's choice: log 72, 114. -/
def Obligations.ThermalGong : Prop :=
  (∀ (b b1 b2 : Bay) (ps : Fin 6) (s : State) (c : Instr) (code : Byte),
    ((c = .neighbourThermFault b1 b2 ∧ code = 0x61#8 ∧ atEdge s = true ∧
        64 ≤ Sparse.get (fun _ => 0) s.pwr.pairOut (12 * min b1.val b2.val + max b1.val b2.val)) ∨
      (c = .bayThermFault b ∧ code = 0x61#8 ∧ atEdge s = true ∧ 64 ≤ s.pwr.bayHot[b]) ∨
      (c = .uncoreThermFault ∧ code = 0x61#8 ∧ atEdge s = true ∧ 64 ≤ s.pwr.uncoreHot) ∨
      (c = .overvoltageFault ∧ code = 0x62#8 ∧ clocked s = true ∧ 16 ≤ s.pwr.over60) ∨
      (c = .powerCeilingFault ∧ code = 0x62#8 ∧ atEdge s = true ∧ 64 ≤ s.pwr.overCeil) ∨
      (c = .psDieFault ps ∧ code = 0x62#8 ∧ clocked s = true ∧
        (s.pwr.psFault.getLsbD ps = false ∧ s.pwr.faulty = 2 ∨ 3 ≤ s.pwr.faulty))) →
    s.faults.gong = 0#8 →
    ∃ t, exec c s = .next t ∧ ringOnly s t ∧ t.faults.gong = code ∧
      (∀ (m : Bay) (st : Strm), t.strm m st = { s.strm m st with status := .halted, fault := code, fpc := (s.strm m st).pc, wait := none, haltAge := none }) ∧
      (∀ m : Bay, t.pwr.step[m] = 0)) ∧
  (∀ (ps : Fin 6) (s : State),
    clocked s = true → s.pwr.psFault.getLsbD ps = false → s.pwr.faulty < 2 →
    ∃ t, exec (.psDieFault ps) s = .next t ∧ t = { s with pwr := t.pwr, faults := t.faults } ∧
      t.faults = (countFault 0x62 15 3 s).faults ∧ t.pwr.psFault = setBit s.pwr.psFault ps true)

/-- INPUT_RISE, RAMP_STEP, REFCLK_VALID, POWER_ON_RESET_RELEASE, RAMP_ABORT, INPUT_FAIL, HOLDUP_END, FAIL_RESTART, BROWNOUT_ENTER, BROWNOUT_LEAVE (R409, R411, R422, R423, R434). Where the rules are silent it states the model's choice: log 20, 112. -/
def Obligations.SupplyStates : Prop :=
  (∀ (mv : Nat) (s : State), s.pwr.st = .off → 40000 ≤ mv →
    exec (.inputRise mv) s = .next { s with pwr := { s.pwr with st := .ramp, ramp := 0, inputMv := mv } }) ∧
  (∀ s : State, s.pwr.st = .ramp → s.pwr.ramp < 4 → (s.pwr.ramp = 2 → s.pwr.refclk = true) →
    ∃ t, exec .rampStep s = .next t ∧ t = { s with pwr := { s.pwr with ramp := s.pwr.ramp + 1, regsOn := true } }) ∧
  (∀ s : State, exec .refclkValid s = .next { s with pwr := { s.pwr with refclk := true } }) ∧
  (∀ s : State, s.pwr.st = .ramp → s.pwr.ramp = 4 →
    ∃ t, exec .powerOnResetRelease s = .next t ∧ t.pwr.st = .run ∧ t.trust.stage = .fuse ∧
      t = { State.reset with
      pending := s.pending, free := t.free, tmx := { Tmx.reset with seed := t.tmx.seed }, tap := { Tap.reset with trstLow := s.tap.trstLow }
      trust := { Trust.reset with fuses := s.trust.fuses, journal := s.trust.journal, romVer := s.trust.romVer } }) ∧
  (∀ (mv : Nat) (s : State), s.pwr.st = .ramp → mv < 40000 →
    ∃ t, exec (.rampAbort mv) s = .next t ∧ t = { State.reset with
      pending := s.pending, free := t.free, tmx := { Tmx.reset with seed := t.tmx.seed }, tap := { Tap.reset with trstLow := s.tap.trstLow }
      trust := { Trust.reset with fuses := s.trust.fuses, journal := s.trust.journal, romVer := s.trust.romVer }
      pwr := { Power.reset with st := .off, ramp := 0, refclk := false, regsOn := false, inputMv := mv } }) ∧
  (∀ (mv : Nat) (s : State), s.pwr.st = .run → mv < 36000 →
    exec (.inputFail mv) s = .next { s with pwr := { s.pwr with st := .fail, ramp := 0, inputMv := mv } }) ∧
  (∀ s : State, s.pwr.st = .fail → s.pwr.regsOn = true →
    ∃ t, exec .holdupEnd s = .next t ∧
      t = { State.reset with
      pending := s.pending, free := t.free, tmx := { Tmx.reset with seed := t.tmx.seed }, tap := { Tap.reset with trstLow := s.tap.trstLow }
      trust := { Trust.reset with fuses := s.trust.fuses, journal := t.trust.journal, romVer := s.trust.romVer }
      pwr := { Power.reset with st := .fail, ramp := 0, refclk := false, regsOn := false, inputMv := s.pwr.inputMv } } ∧
      (s.trust.wlim = none → t.trust.journal = s.trust.journal) ∧
      (∀ w : Wlim, s.trust.wlim = some w → Sparse.wf (fun _ => 0#320) s.trust.journal = true →
        (∀ j : Nat, j ≠ w.rcd → recordAt t.trust j = recordAt s.trust j) ∧
        (w.intentDone = true → recordAt t.trust w.rcd = recordAt s.trust w.rcd ||| (if w.pulse = true then 2#320 else 0#320)) ∧
        (w.intentDone = false → ∃ v : BitVec 320,
          recordAt t.trust w.rcd = recordAt s.trust w.rcd ||| (recIntent w.entry w.value &&& v) ∧ (w.pulse = false → v = 0#320)))) ∧
  (∀ s : State, s.pwr.st = .fail → s.pwr.regsOn = false →
    exec .failRestart s = .next { s with pwr := { s.pwr with st := .off } }) ∧
  (∀ s : State, atEdge s = true → 36000 ≤ s.pwr.inputMv → s.pwr.inputMv < 40000 → s.pwr.brownout = false →
    ∃ t, exec .brownoutEnter s = .next t ∧ t = { s with pwr := t.pwr, faults := t.faults } ∧
      t.faults = (countFault 0x62 15 3 s).faults ∧ t.pwr.brownout = true ∧ t.pwr.limit ≤ 2000 ∧
      t.pwr = { s.pwr with brownout := true, limit := t.pwr.limit }) ∧
  (∀ s : State, atEdge s = true → 40000 ≤ s.pwr.inputMv → s.pwr.brownout = true →
    ∃ t, exec .brownoutLeave s = .next t ∧ t = { s with pwr := t.pwr } ∧
      t.pwr = { s.pwr with brownout := false, limit := t.pwr.limit } ∧
      t.pwr.limit = ({ s.pwr with brownout := false } : Power).limitNow)

/-- BEAT_BLOCK_RECEIVE, MARKER_ARRIVAL, BEAT_EDGE (R302 to R305, R310, R332, R333). Where the rules are silent it states the model's choice: log 71, 75, 126, 161. -/
def Obligations.MarkersAndEdges : Prop :=
  (∀ (bnum : BitVec 48) (crc : Byte) (s : State),
    s.pwr.st = .run → s.link.lanes = 0xF#4 →
    exec (.beatBlockReceive bnum crc) s = .next
      (if crc8 (leBytes bnum.toNat 6) = crc then { s with beat := { s.beat with inflight := s.beat.inflight ++ [bnum] } }
       else { s with link := { s.link with cBadBeat := satAdd 32 s.link.cBadBeat 1 } })) ∧
  (∀ (off : Int) (gap : Nat) (bnum : BitVec 48) (r : List (BitVec 48)) (s : State),
    clocked s = true → s.beat.inflight = bnum :: r → (s.beat.st = .locking ∨ s.beat.st = .locked) →
    -50 ≤ off → off ≤ 50 → s.beat.seen = false → bnum.toNat = s.beat.beat.toNat + 1 → scriptRejects s = none →
    ∃ t, exec (.markerArrival off gap) s = .next t ∧ t = { s with beat := t.beat, tmx := t.tmx } ∧ t.beat.inflight = r ∧
      t.beat.accepted = some off ∧ t.beat.seen = true ∧ t.beat.beat = s.beat.beat ∧ t.beat.st = s.beat.st ∧
      (if scriptBeatExc s = none then
        t.beat.missing = 0 ∧ t.beat.accNum = bnum ∧ t.beat.lastOff = off ∧
          t.beat.cAccepted = satAdd 64 s.beat.cAccepted 1 ∧
          t.beat.close = (if -8 ≤ off ∧ off ≤ 8 then s.beat.close + 1 else 0)
       else
        t.beat.accNum = s.beat.accNum ∧ t.beat.cAccepted = s.beat.cAccepted ∧ t.beat.close = s.beat.close)) ∧
  (∀ (off : Int) (gap : Nat) (bnum : BitVec 48) (r : List (BitVec 48)) (s : State),
    clocked s = true → s.beat.inflight = bnum :: r → (s.beat.st = .locking ∨ s.beat.st = .locked) →
    (off < -50 ∨ 50 < off ∨ s.beat.seen = true ∨ bnum.toNat ≠ s.beat.beat.toNat + 1 ∨ (scriptRejects s).isSome = true) →
    ∃ t, exec (.markerArrival off gap) s = .next t ∧ ringOnly s t ∧ t.beat.inflight = r ∧ t.beat.accepted = s.beat.accepted ∧
      t.beat.beat = s.beat.beat ∧ t.beat.st = s.beat.st) ∧
  (∀ (smp : Sample) (s : State),
    clocked s = true →
    ∃ t, exec (.beatEdge smp) s = .next t ∧ ringOnly s t ∧ t.beat.pos = s.beat.pos + 1 ∧ t.beat.edgeNow = true ∧
      t.beat.jump = none ∧ t.beat.accepted = none ∧ t.beat.freePend = false ∧ t.hdr = s.hdr ∧ t.pools = s.pools ∧
      t.trust = s.trust ∧ t.bn = s.bn ∧ (∀ (b : Bay) (st : Strm), t.strm b st = (s.strm b st).tick.cyOver) ∧
      (let m := s.beat.missing + 1
       let locked := s.beat.st = .locking ∨ s.beat.st = .locked
       let adv := if s.beat.beat.toNat = 2 ^ 48 - 1 then s.beat.beat else s.beat.beat + 1#48
       let usual := if (locked ∧ (posAccepted s = true ∨ m ≤ 7)) ∨ s.beat.st = .lost ∨ s.beat.st = .free then adv else s.beat.beat
       t.beat.beat =
         (match s.beat.freePend, scriptTurn s, s.beat.jump with
          | true, _, _ => usual
          | false, some e, _ => if e.len = 6 then s.beat.beat else if e.len = 9 then usual else BitVec.ofNat 48 e.arg
          | false, none, some n => n
          | false, none, none => usual)))

/-- HOLD_ENTER, HOLD_EXIT, BEAT_LOST, ACQUISITION_DONE, LOCKING_DONE, LOCKING_FAIL, OD_BEAT_FREE, OD_BEAT_RELOCK. Where the rules are silent it states the model's choice: log 72, 74, 161. -/
def Obligations.BeatStates : Prop :=
  (∀ s : State, clocked s = true → s.beat.edgeNow = true → s.beat.st = .locked → 8 ≤ s.beat.missing →
    ∃ t, exec .holdEnter s = .next t ∧ ringOnly s t ∧ (∀ b : Bay, t.bay b = s.bay b) ∧
      t.beat = { s.beat with st := .hold, qual := 0, cHold := min (2 ^ 32 - 1) (s.beat.cHold + 1) } ∧
      t.run = { s.run.event 6 255 s.beatNat with replayable := t.run.replayable }) ∧
  (∀ s : State, clocked s = true → s.beat.edgeNow = true → s.beat.st = .hold → 1024 ≤ s.beat.missing →
    ∃ t, exec .beatLost s = .next t ∧ ringOnly s t ∧ (∀ b : Bay, t.bay b = s.bay b) ∧ t.beat.st = .lost ∧
      t.beat.beat = s.beat.beat ∧ t.faults = (countFault 0x51 15 3 s).faults ∧
      t.run = { s.run.event 7 255 s.beatNat with replayable := t.run.replayable }) ∧
  (∀ s : State, clocked s = true → s.beat.edgeNow = true → s.beat.st = .locking → 8 ≤ s.beat.missing →
    ∃ t, exec .lockingFail s = .next t ∧ ringOnly s t ∧ t.beat = { s.beat with st := s.beat.from_, missing := 0, qual := 0 }) ∧
  (∀ (n : BitVec 48) (s : State), clocked s = true → s.beat.lastBnum = some n →
    (s.beat.st = .hold → 4 ≤ s.beat.qual →
      ∃ t, exec .holdExit s = .next t ∧ ringOnly s t ∧ t.beat.beat = s.beat.beat ∧ t.beat.qual = 0 ∧
        (if s.beat.beat.toNat < n.toNat ∧ scriptRefuses s = false then t = { s with beat := t.beat } ∧ t.beat.jump = some n
         else t.beat.jump = s.beat.jump ∧ t.beat.cRefused = min (2 ^ 32 - 1) (s.beat.cRefused + 1))) ∧
    (s.beat.acquires = true → 16 ≤ s.beat.qual →
      ∃ t, exec .acquisitionDone s = .next t ∧ ringOnly s t ∧ t.beat.beat = s.beat.beat ∧ t.beat.qual = 0 ∧
        (if (s.beat.st = .acquire ∨ s.beat.beat.toNat < n.toNat) ∧ scriptRefuses s = false then t = { s with beat := t.beat } ∧ t.beat.jump = some n
         else t.beat.jump = s.beat.jump ∧ t.beat.cRefused = min (2 ^ 32 - 1) (s.beat.cRefused + 1)))) ∧
  (∀ s : State, clocked s = true → s.beat.st = .locking → 256 ≤ s.beat.close →
    ∃ t, exec .lockingDone s = .next t ∧ ringOnly s t ∧ t.beat = { s.beat with st := .locked }) ∧
  (∀ (q : OdReq) (s : State), odTaken 0x7010 3 (fun n => n == 1) s = some q →
    ∃ t, exec .odBeatFree s = .next t ∧ t.beat = { s.beat with freePend := true } ∧ t.faults = s.faults ∧ t.od.cur = none ∧
      t.mem = s.mem ∧ t.bays = s.bays) ∧
  (∀ (q : OdReq) (s : State), odTaken 0x7010 3 (fun n => n == 2) s = some q →
    ∃ t, exec .odBeatRelock s = .next t ∧ t.od.cur = none ∧ t.mem = s.mem ∧ t.bays = s.bays ∧
      t.beat = (if s.beat.st = .lost ∨ s.beat.st = .free then { s.beat with acquiring := true, qual := 0 } else s.beat)) ∧
  (∀ (smp : Sample) (s : State), clocked s = true → s.beat.freePend = true →
    ∃ t, exec (.beatEdge smp) s = .next t ∧ t.beat.st = .free ∧ t.faults = { s.faults with gongNow := false })

/-- OD_RUN_ARM, OD_RUN_CLOSE, OD_RECORDING_ENABLE, RECORD_DRAIN, and the entry they and every event write. Where the rules are silent it states the model's choice: log 77, 78, 151. -/
def Obligations.RunsAndRecord : Prop :=
  (∀ (q : OdReq) (s : State), odTaken 0x7020 1 (fun n => n == 1) s = some q →
    ∃ t, exec .odRunArm s = .next t ∧ ringOnly s t ∧ t.od.cur = none ∧ t.run.isOpen = true ∧
      t.run.time = decide (s.beat.st = .locked) ∧ t.run.void = decide (s.beat.st = .lost ∨ s.beat.st = .free) ∧
      t.run.armBeat = s.beat.beat ∧ t.run.throttles = 0 ∧ t.run.digest = 0#64 ∧ t.run.barDigest = 0#64 ∧ t.run.lastBar = 0#64 ∧
      (s.rcd.on = false → t.run.replayable = false) ∧
      (s.rcd.on = true → s.rcd.seq - s.rcd.drain < ringCap s → t.run.replayable = true)) ∧
  (∀ (q : OdReq) (s : State), odTaken 0x7020 1 (fun n => n == 2) s = some q →
    ∃ t, exec .odRunClose s = .next t ∧ t.od.cur = none ∧ t.mem = s.mem ∧
      t.run = (if s.run.isOpen = true then { s.run with isOpen := false, closeBeat := s.beat.beat } else s.run)) ∧
  (∀ (q : OdReq) (s : State), odTaken 0x7030 1 (fun _ => true) s = some q →
    ∃ t, exec .odRecordingEnable s = .next t ∧ t.od.cur = none ∧ t.mem = s.mem ∧
      t.rcd.on = (leNat q.value == 1) ∧ t.rcd.seq = s.rcd.seq ∧ t.rcd.drain = s.rcd.drain ∧ t.rcd.replay = s.rcd.replay ∧
      t.run = (if leNat q.value = 1 ∨ s.run.isOpen = false then s.run else { s.run with replayable := false })) ∧
  (∀ (ty arg len payload : Nat) (s : State),
    MemInv s → s.rcd.on = true → s.tap.cdStopped = false → s.rcd.cyEnt = [] → s.rcd.drain ≤ s.rcd.seq → s.rcd.seq - s.rcd.drain < ringCap s →
    ¬(s.rcd.halfFrom ≤ s.rcd.seq ∧ s.rcd.seq < s.rcd.halfTo) →
    ty < 2 ^ 8 → payload < 2 ^ 256 →
    let t := record ty arg len payload s
    let e := Entry.ofNat (t.ldNat (ringBase + s.rcd.seq % 8388608 * 64) 64)
    ringOnly s t ∧ t.rcd.seq = s.rcd.seq + 1 ∧ t.rcd.drain = s.rcd.drain ∧ e.ty = ty ∧ e.seq = s.rcd.seq % 2 ^ 40 ∧
      e.beat = s.beat.beat.toNat ∧ e.len = len % 2 ^ 32 ∧ e.arg = arg % 2 ^ 48 ∧ e.payload = payload) ∧
  (∀ (ty arg len payload : Nat) (s : State),
    MemInv s → s.rcd.on = true → s.tap.cdStopped = false → s.rcd.seq - s.rcd.drain < ringCap s → s.rcd.drain + s.rcd.cyEnt.length ≤ s.rcd.seq →
    s.rcd.cyEnt.length < 4096 → s.rcd.cyEnt.Pairwise (fun v w => entBefore v w = true) →
    (∀ i < s.rcd.cyEnt.length, s.ld (entryAddr s (s.rcd.seq - s.rcd.cyEnt.length + i)) 64 =
      recBytes (s.rcd.cyEnt.getD i 0) (s.rcd.seq - s.rcd.cyEnt.length + i)) →
    let t := record ty arg len payload s
    ringOnly s t ∧ t.rcd.seq = s.rcd.seq + 1 ∧ t.rcd.drain = s.rcd.drain ∧
      t.rcd.cyEnt.Perm (entryNew s ty arg len payload :: s.rcd.cyEnt) ∧
      t.rcd.cyEnt.Pairwise (fun v w => entBefore v w = true) ∧
      ∀ i < t.rcd.cyEnt.length, t.ld (entryAddr t (s.rcd.seq - s.rcd.cyEnt.length + i)) 64 =
        recBytes (t.rcd.cyEnt.getD i 0) (s.rcd.seq - s.rcd.cyEnt.length + i)) ∧
  (∀ (n : Nat) (k : Slot) (s : State),
    clocked s = true → noReqs s = true → sinkOf s = some k → 1 ≤ n → n ≤ 64 → n ≤ s.rcd.seq - s.rcd.drain →
    ∃ t, exec (.recordDrain n .clean) s = .next t ∧ t.mem = s.mem ∧ t.rcd.drain = s.rcd.drain + n ∧ t.rcd.seq = s.rcd.seq ∧
      t.rcd.damaged = satAdd 64 s.rcd.damaged
        (((List.range n).filter (fun m => rangeBad s (entryAddr s (s.rcd.drain + m)) 64)).length) ∧
      sends t (fun g => g.cls = 6#8 ∧ g.opc = 1#8 ∧ g.sess.toNat = k.val ∧ g.addr = BitVec.ofNat 48 s.rcd.drain ∧
        g.payload = (List.range n).flatMap (fun m =>
          if rangeBad s (entryAddr s (s.rcd.drain + m)) 64 = true then List.replicate 64 0#8
          else s.ld (entryAddr s (s.rcd.drain + m)) 64)))

/-- OD_REPLAY_ARM, OD_REPLAY_STOP, RECORD_SCRIPT, REPLAY_INPUT_RELEASE (R324 to R327). Where the rules are silent it states the model's choice: log 77, 79, 80, 161, 192. -/
def Obligations.Replay : Prop :=
  (∀ (q : OdReq) (s : State), odTaken 0x7030 5 (fun n => n == 1) s = some q →
    ∃ t, exec .odReplayArm s = .next t ∧ t.od.cur = none ∧ t.mem = s.mem ∧ t.rcd.replay = .armed ∧ t.rcd.script = [] ∧
      t.rcd.seq = s.rcd.seq ∧ t.rcd.divKind = 0 ∧ (s.rcd.halfFrom ≤ s.rcd.seq → s.rcd.seq < 2 ^ 64 → entryAddr t t.rcd.seq < ringBase + 2 ^ 28)) ∧
  (∀ (q : OdReq) (s : State), odTaken 0x7030 5 (fun n => n == 2) s = some q →
    ∃ t, exec .odReplayStop s = .next t ∧ t.od.cur = none ∧ t.mem = s.mem ∧ t.rcd.replay = .off ∧ t.rcd.script = [] ∧
      t.rcd.live = [] ∧ entryAddr t t.rcd.seq = ringBase + s.rcd.seq % 8388608 * 64) ∧
  (∀ (q : Nat) (v : List Byte) (s : State), s.rcd.replay = .armed →
    s.rcd.scriptNext.getD 0 ≠ q ∨ (Entry.ofNat (leNat v)).seq ≠ q % 2 ^ 40 → stageEntry q v s = diverge 7 q s) ∧
  (∀ (q : Nat) (v : List Byte) (s : State), MemInv s → s.rcd.replay = .armed → s.rcd.scriptNext.getD 0 = q → v.length = 64 →
    (Entry.ofNat (leNat v)).seq = q % 2 ^ 40 →
    let t := stageEntry q v s
    t.rcd.replay = .active ∧ t.rcd.script = s.rcd.script ++ [q] ∧ t.rcd.scriptNext = some (q + 1) ∧
      t.ld (0x17FD0000000 + q % 4194304 * 64) 64 = v) ∧
  (∀ (f : Frame) (s : State), linkOn s = true → rowTakes f 6#8 2#8 = true → f.lseq.toNat = s.link.rxNext →
    frameFails f (acceptSeq s) = none → canPass f (acceptSeq s).link.held (acceptSeq s) = true → s.link.rxNext + 1 < 2 ^ 48 - 1 →
    s.link.txNext < 2 ^ 48 - 1 →
    ∃ t, exec (.recordScript f) s = .next t ∧ t.link.rxNext = s.link.rxNext + 1 ∧ (∀ b : Bay, t.bay b = s.bay b) ∧
      (∀ a : Nat, a < 0x17FD0000000 ∨ ringBase + 2 ^ 29 ≤ a → t.rd a = s.rd a)) ∧
  (∀ (f : Frame) (r : List Frame) (q : Nat) (e : Entry) (k : Nat) (s : State),
    s.pwr.st = .run → s.rcd.gated = f :: r → mustHold f s = false → s.rcd.replay = .active →
    nextGate { s with rcd := { s.rcd with gated := r } } = some (q, e) →
    gateVerdict f e false s = some k →
    exec (.replayInputRelease .clean) s = .next
      (if k = 0 then replayAdvance (passFrame f .clean (consumeGate q { s with rcd := { s.rcd with gated := r } }))
       else if k = 4 then
        replayAdvance (passFrame f .clean (consumeGate q (diverge 4 q { s with rcd := { s.rcd with gated := r } })))
       else passFrame f .clean (diverge k q { s with rcd := { s.rcd with gated := r } }))) ∧
  (∀ (f : Frame) (r : List Frame) (s : State),
    s.pwr.st = .run → s.rcd.gated = f :: r → mustHold f s = false → s.rcd.replay ≠ .active →
    exec (.replayInputRelease .clean) s = .next (passFrame f .clean { s with rcd := { s.rcd with gated := r } })) ∧
  (∀ (f : Frame) (r : List Frame) (s : State),
    s.rcd.gated = f :: r → s.rcd.replay = .active →
    (nextGate s = none ∨ ∃ q e, nextGate s = some (q, e) ∧ gateVerdict f e false s = none) →
    exec (.replayInputRelease .clean) s = .next s) ∧
  (∀ (f : Frame) (s : State),
    isGated f = true → s.rcd.replay = .active → s.rcd.gated = [] → nextGate s = none →
    goOn f .clean s = { s with rcd := { s.rcd with gated := [f] } }) ∧
  (∀ (kind q : Nat) (s : State), replaying s = true → s.rcd.divKind = 0 →
    (diverge kind q s).rcd.divKind = kind ∧ (diverge kind q s).rcd.divSeq = q ∧
      ((kind = 2 ∨ kind = 3 ∨ kind = 7 ∨ kind = 8 ∨ s.rcd.stopOn = true) → (diverge kind q s).rcd.replay = .diverged))

/-- LINK_ALIGNMENT_CHANGE, LINK_REINIT, RESEND_LIMIT, LINK_ACK, LINK_NAK, RETRANSMIT_TIMEOUT, ACK_DUE, CREDIT_REPEAT, FRAME_CRC_FAIL, BLOCK_ERROR. Where the rules are silent it states the model's choice: log 88, 89, 152. -/
def Obligations.LinkEvents : Prop :=
  (∀ (lanes : BitVec 4) (s : State), s.pwr.st = .run → s.od.closeAfter = [] →
    ∃ t, exec (.linkAlignmentChange lanes) s = .next t ∧ t = { s with link := t.link } ∧ t.link.lanes = lanes ∧
      t.link.rxNext = s.link.rxNext ∧ (lanes = 0xF#4 → s.link.lanes ≠ 0xF#4 → t.link.creditsSent = s.link.credits)) ∧
  (∀ (c : Instr) (s : State), s.pwr.st = .run →
    ((c = .linkReinit ∧ s.link.lanes ≠ 0xF#4 ∧ 64 ≤ s.link.downPos) ∨
      (c = .linkReinit ∧ (2 ^ 48 - 1 ≤ s.link.rxNext ∨ 2 ^ 48 - 1 ≤ s.link.txNext)) ∨ (c = .resendLimit ∧ 64 ≤ s.link.resends)) →
    ∃ t, exec c s = .next t ∧ t.mem = s.mem ∧ t.bays = s.bays ∧ (∀ k : Slot, t.sess[k] = Session.reset) ∧ t.rcd.gated = [] ∧
      t.link = { Link.reset with
        lanes := s.link.lanes, linkOut := t.link.linkOut, fecCorr := s.link.fecCorr, fecUncorr := s.link.fecUncorr
        cResent := s.link.cResent, cDiscard := s.link.cDiscard, cRefused := s.link.cRefused
        lastRefusal := s.link.lastRefusal, cReinit := min (2 ^ 32 - 1) (s.link.cReinit + 1), cBadBeat := s.link.cBadBeat }) ∧
  (∀ (f : Frame) (crc : W32) (s : State), linkOn s = true → s.link.out = [] → s.od.closeAfter = [] →
    s.link.rxNext < 2 ^ 48 - 1 → s.link.txNext < 2 ^ 48 - 1 →
    let u := s.link.unacked.filter (fun g => decide (f.arg.toNat % 2 ^ 48 ≤ g.lseq))
    let l := if u.length = s.link.unacked.length then s.link else { s.link with unacked := u, resends := 0, sinceAck := 0 }
    (linkValid 1#8 f crc = true → exec (.linkAck f crc) s = .next { s with link := l }) ∧
    (linkValid 2#8 f crc = true → exec (.linkNak f crc) s = .next { s with link :=
      if u = [] then l
      else { l with resends := l.resends + 1, sinceAck := 0, cResent := satAdd 64 l.cResent u.length } })) ∧
  (∀ (f : Frame) (crc : W32) (s : State), linkOn s = true → f.cls = 1#8 → (f.opc = 1#8 ∨ f.opc = 2#8) →
    (f.ver ≠ 1#8 ∨ f.rsvd ≠ 0 ∨ crc ≠ frameCrc f) →
    let t := { s with link := { s.link with cDiscard := satAdd 64 s.link.cDiscard 1 } }
    exec (.linkAck f crc) s = .next (if f.opc = 1#8 then t else s) ∧
      exec (.linkNak f crc) s = .next (if f.opc = 2#8 then t else s)) ∧
  (∀ s : State, s.pwr.st = .run → 8 ≤ s.link.sinceAck → s.link.unacked ≠ [] →
    exec .retransmitTimeout s = .next { s with link := { s.link with
      resends := s.link.resends + 1, sinceAck := 0, cResent := satAdd 64 s.link.cResent s.link.unacked.length } }) ∧
  (∀ s : State, linkOn s = true → s.beat.edgeNow = true →
    (0 < s.link.rxUnacked →
      ∃ t, exec .ackDue s = .next t ∧ t = { s with link := t.link } ∧ t.link.rxUnacked = 0 ∧
        ∃ g ∈ t.link.linkOut, g.cls = 1#8 ∧ g.opc = 1#8 ∧ g.arg = BitVec.ofNat 64 s.link.rxNext) ∧
    (s.beat.pos % 64 = 0 →
      ∃ t, exec .creditRepeat s = .next t ∧ t = { s with link := t.link } ∧ t.link.creditsSent = s.link.credits ∧
        ∃ g ∈ t.link.linkOut, g.cls = 1#8 ∧ g.opc = 3#8 ∧ g.payload = s.link.credits.toList.flatMap (fun c => leBytes c 2))) ∧
  (∀ (f : Frame) (s : State) (c : Instr), linkOn s = true →
    ((∃ v : List Byte, c = .frameCrcFail v ∧ wireOk v = false) ∨ (f.lseq.toNat ≠ s.link.rxNext ∧
      ((c = .odWrite f ∧ rowTakes f 3#8 2#8 = true) ∨ ((∃ ev : CodeEvent, c = .bulkWrite f ev) ∧ rowTakes f 4#8 1#8 = true) ∨
        (c = .flagUpdate f ∧ rowTakes f 5#8 1#8 = true) ∨ (c = .sessionHello f ∧ rowTakes f 2#8 1#8 = true)))) →
    ∃ t, exec c s = .next t ∧ t = { s with link := t.link } ∧ t.link.rxNext = s.link.rxNext ∧ t.link.nakSent = true ∧
      t.link.cDiscard = satAdd 64 s.link.cDiscard 1 ∧ (s.link.nakSent = true → t.link.linkOut = s.link.linkOut) ∧
      (s.link.nakSent = false → ∃ g ∈ t.link.linkOut, g.opc = 2#8 ∧ g.arg = BitVec.ofNat 64 s.link.rxNext)) ∧
  (∀ s : State, linkOn s = true →
    exec .blockError s = .next { s with link := { s.link with cDiscard := satAdd 64 s.link.cDiscard 1 } })

/-- SESSION_HELLO, SESSION_ACCEPT, SESSION_FINISH, SESSION_CLOSE, FINISH_TIMEOUT, SESSION_IDLE_TIMEOUT, OD_SESSION_CLOSE, OD_ATTEST_NONCE, ATTEST_REPORT_READY. Where the rules are silent it states the model's choice: log 83, 85, 86, 87. -/
def Obligations.Sessions : Prop :=
  (∀ (f : Frame) (s : State), passes 2#8 1#8 f s = true →
    ∃ t, exec (.sessionHello f) s = .next t ∧ ringOnly s t ∧ t.link.rxNext = s.link.rxNext + 1 ∧
      t.sess = s.sess ∧
      if fieldAt f.payload 2 2 / 2 % 2 = 1 ∧ slotFree s = true then
        t.link.hellos = s.link.hellos ++ [⟨fieldAt f.payload 1 1, f.tid, f.payload⟩]
      else t.link.hellos = s.link.hellos ∧ sends t (fun g => g.cls = 2#8 ∧ g.opc = 5#8 ∧ g.sess = 0xFF#8 ∧
        g.payload = [if fieldAt f.payload 2 2 / 2 % 2 = 1 then 2#8 else 1#8])) ∧
  (∀ (k : Slot) (h : Handshake) (q : Hello) (r : List Hello) (s : State), s.pwr.st = .run → s.trust.idKey = true →
    s.link.hellos = q :: r →
    (s.sess[k].ph = .free →
      ∃ t, exec (.sessionAccept k h) s = .next t ∧ t.mem = s.mem ∧ t.bays = s.bays ∧ t.link.hellos = r ∧
        (∀ j : Slot, j ≠ k → t.sess[j] = s.sess[j]) ∧
        (if keysOk q h s = true ∧ ¬(q.role = 2 ∧ custodianOpen k s = true) then
          let th := transcript q.bytes (acceptHead k q h s)
          let okm := sessionOkm q h th s
          t.sess[k] = { Session.reset with
            ph := .finish, role := q.role, tid := q.tid, th := th, kn := okm.take 32, kd := (okm.drop 32).take 32
            ivn := (okm.drop 64).take 12, ivd := (okm.drop 76).take 12 } ∧
            t.bn.slots[h.z] = BnSlot.reset ∧ (∀ j : Fin 64, j ≠ h.z → t.bn.slots[j] = s.bn.slots[j]) ∧
            sends t (fun g => g.cls = 2#8 ∧ g.opc = 2#8 ∧ g.sess.toNat = k.val ∧
              g.payload = acceptHead k q h s ++ idSign s.trust.fuses (asciiBytes "HORRIC-S" ++ th))
         else t.sess = s.sess ∧ t.bn = s.bn ∧
            sends t (fun g => g.cls = 2#8 ∧ g.opc = 5#8 ∧ g.sess = 0xFF#8 ∧
              g.payload = [if keysOk q h s = true then 4#8 else 3#8]))) ∧
    (slotFree s = false →
      ∃ t, exec (.sessionAccept k h) s = .next t ∧ t.mem = s.mem ∧ t.bays = s.bays ∧ t.bn = s.bn ∧ t.sess = s.sess ∧
        t.link.hellos = r ∧ sends t (fun g => g.cls = 2#8 ∧ g.opc = 5#8 ∧ g.sess = 0xFF#8 ∧ g.payload = [2#8])) ∧
    (s.sess[k].ph ≠ .free → slotFree s = true → exec (.sessionAccept k h) s = .next s)) ∧
  (∀ (f : Frame) (k : Slot) (s : State),
    accepts 2#8 3#8 f s = true → slotOf f.sess = some k → s.link.held = [] →
    let ok := proofHolds f k s
    ∃ t, exec (.sessionFinish f) s = .next t ∧ ringOnly s t ∧ (∀ j : Slot, j ≠ k → t.sess[j] = s.sess[j]) ∧
      (if ok = true ∧ ¬(s.sess[k].role = 2 ∧ custodianOpen k s = true) then
        t.sess[k] = { Session.reset with
          ph := .opened, role := s.sess[k].role, tid := f.tid, kn := s.sess[k].kn, kd := s.sess[k].kd
          ivn := s.sess[k].ivn, ivd := s.sess[k].ivd, th := s.sess[k].th } ∧
          sends t (fun g => g.cls = 2#8 ∧ g.opc = 4#8 ∧ g.sess = f.sess)
       else t.sess[k] = Session.reset ∧
          sends t (fun g => g.cls = 2#8 ∧ g.opc = 5#8 ∧ g.payload = [if ok = true then 4#8 else 5#8]))) ∧
  (∀ (f : Frame) (k : Slot) (s : State), accepts 2#8 6#8 f s = true → slotOf f.sess = some k → s.link.held = [] →
    ∃ t, exec (.sessionClose f) s = .next t ∧ ringOnly s t ∧ t.sess[k] = Session.reset ∧
      (∀ j : Slot, j ≠ k → t.sess[j] = s.sess[j]) ∧ (∀ g ∈ t.link.held ++ t.rcd.gated, g.sess.toNat ≠ k.val)) ∧
  (∀ (k : Slot) (s : State) (c : Instr), s.pwr.st = .run →
    ((c = .finishTimeout k ∧ s.sess[k].ph = .finish ∧ s.sess[k].finCame = false ∧ 1024 ≤ s.sess[k].timer) ∨
      (c = .sessionIdleTimeout k ∧ s.sess[k].ph = .opened ∧ s.od.idleTimeout ≤ s.sess[k].timer)) →
    ∃ t, exec c s = .next t ∧ t.mem = s.mem ∧ t.bays = s.bays ∧ t.sess[k] = Session.reset ∧
      (∀ j : Slot, j ≠ k → t.sess[j] = s.sess[j]) ∧ (∀ g ∈ t.link.held ++ t.rcd.gated, g.sess.toNat ≠ k.val)) ∧
  (∀ (q : OdReq) (s : State), odTaken 0x8020 4 (fun _ => true) s = some q → s.od.closeAfter = [] →
    ∃ t, exec .odSessionClose s = .next t ∧ t.mem = s.mem ∧ t.od.cur = none ∧
      ∀ k : Slot, if (leNat q.value).testBit k.val = true then t.sess[k].ph = .free else t.sess[k] = s.sess[k]) ∧
  (∀ (q : OdReq) (s : State), odTaken 0x8030 1 (fun _ => true) s = some q → s.od.closeAfter = [] → q.mute = false →
    ∃ t, exec .odAttestNonce s = .next t ∧ t.mem = s.mem ∧ t.od.cur = none ∧
      (if s.sess[q.slot].att.status = 1 then t.sess = s.sess
       else t.sess[q.slot] = { s.sess[q.slot] with
        att := { s.sess[q.slot].att with status := 1, snapshot := q.head } })) ∧
  (∀ (k : Slot) (s : State), s.pwr.st = .run → s.sess[k].att.status = 1 →
    let a := s.sess[k].att
    ∃ t, exec (.attestReportReady k) s = .next t ∧ t = { s with sess := t.sess } ∧
      t.sess[k] = { s.sess[k] with
        att := { a with status := 2, report := padTo 4096 (a.snapshot ++ idSign s.trust.fuses (asciiBytes "SHOZAL-A" ++ a.snapshot)) } } ∧
      ∀ j : Slot, j ≠ k → t.sess[j] = s.sess[j])

/-- OD_READ, OD_WRITE, BULK_WRITE, BULK_READ, BULK_READ_DATA, FLAG_UPDATE, HELD_FRAME_RELEASE. Where the rules are silent it states the model's choice: log 90, 91, 93. -/
def Obligations.Frames : Prop :=
  (∀ (f : Frame) (ev : CodeEvent) (n : Nat) (why : Fin 6) (s : State) (c : Instr) (cls opc : Byte),
    (c, cls, opc) ∈ ([(.odRead f ev, 3#8, 1#8), (.odWrite f, 3#8, 2#8), (.bulkWrite f ev, 4#8, 1#8), (.bulkRead f, 4#8, 2#8),
      (.flagUpdate f, 5#8, 1#8), (.recordScript f, 6#8, 2#8), (.sessionHello f, 2#8, 1#8)] : List (Instr × Byte × Byte)) →
    linkOn s = true → f.cls = cls → f.opc = opc → f.lseq.toNat = s.link.rxNext → frameFails f s = some (n, why) → n ≠ 3 →
    s.link.rxNext + 1 < 2 ^ 48 - 1 → s.link.txNext < 2 ^ 48 - 1 →
    ∃ t, exec c s = .next t ∧ t = { s with link := t.link } ∧ t.link.rxNext = s.link.rxNext + 1 ∧
      t.link.cRefused = s.link.cRefused.set why (satAdd 64 s.link.cRefused[why] 1) ∧
      t.link.lastRefusal = BitVec.ofNat 64 (n * 2 ^ 56 + f.cls.toNat * 2 ^ 48 + f.lseq.toNat) ∧ t.link.out = s.link.out) ∧
  (∀ (f : Frame) (k : Slot) (s : State), accepts 3#8 1#8 f s = true → slotOf f.sess = some k → s.link.resps = [] →
    odBad k (frameIx f) (frameSub f) s = none →
    let st := gateAccess s s.sess[k].role (frameIx f) (frameSub f) false
    ∃ t, exec (.odRead f .clean) s = .next t ∧ t = { s with link := t.link, sess := t.sess, free := t.free } ∧
      t.link.rxNext = s.link.rxNext + 1 ∧
      sends t (fun g => g.cls = 3#8 ∧ g.opc = 3#8 ∧ g.sess.toNat = k.val ∧ g.tid = f.tid ∧ g.arg = BitVec.ofNat 64 st ∧
        g.payload = (if st = 0 then odShown (creditBack (some 0) (touch f (acceptSeq s))) k (frameIx f) (frameSub f) else [])) ∧
      (s.tap.cdStopped = false → t.free = s.free ∧
        ∀ u : State, u.tap = s.tap → odShown u k (frameIx f) (frameSub f) = odValue u k (frameIx f) (frameSub f))) ∧
  (∀ (f : Frame) (k : Slot) (o : Nat) (s : State), accepts 3#8 1#8 f s = true → slotOf f.sess = some k → s.link.resps = [] →
    odBad k (frameIx f) (frameSub f) s = some o → gateAccess s s.sess[k].role (frameIx f) (frameSub f) false = 0 →
    ∃ t, exec (.odRead f .clean) s = .next t ∧ t.mem = s.mem ∧ t.bays = s.bays ∧ t.codes = (ueAt 0x22 15 o s).codes ∧
      sends t (fun g => g.cls = 3#8 ∧ g.opc = 3#8 ∧ g.sess.toNat = k.val ∧ g.tid = f.tid ∧ g.arg = 0x10#64 ∧ g.payload = [])) ∧
  (∀ (f : Frame) (k : Slot) (s : State), passes 3#8 2#8 f s = true → slotOf f.sess = some k →
    let st := gateWrite s s.sess[k].role (frameIx f) (frameSub f) f.payload
    ∃ t, exec (.odWrite f) s = .next t ∧ ringOnly s t ∧ (∀ b : Bay, t.bay b = s.bay b) ∧ t.hdr = s.hdr ∧
      (if st = 0 then
        t.od.cur = some ⟨k, false, s.sess[k].role, f.lseq.toNat, f.tid, BitVec.ofNat 16 (frameIx f), BitVec.ofNat 8 (frameSub f),
          f.payload, if frameIx f = 0x8030 ∧ frameSub f = 1 then reportHead s s.sess[k].role f.payload else []⟩
       else t.trust.journal = s.trust.journal ∧ (s.od.closeAfter = [] → t.od.cur = s.od.cur) ∧
        (s.link.resps = [] → s.od.closeAfter = [] →
          sends t (fun g => g.cls = 3#8 ∧ g.opc = 3#8 ∧ g.sess.toNat = k.val ∧ g.tid = f.tid ∧ g.arg = BitVec.ofNat 64 st)))) ∧
  (∀ (f : Frame) (s : State), passes 4#8 1#8 f s = true → MemInv s → rangeBad s f.addr.toNat f.payload.length = false →
    ∃ t, exec (.bulkWrite f .clean) s = .next t ∧ t.ld f.addr.toNat f.payload.length = f.payload ∧
      (∀ a : Nat, (a < f.addr.toNat ∨ f.addr.toNat + f.payload.length ≤ a) → (a < ringBase ∨ ringBase + 2 ^ 29 ≤ a) →
        t.rd a = s.rd a) ∧
      (∀ (b : Bay) (st : Strm), t.strm b st = s.strm b st)) ∧
  (∀ (f : Frame) (s : State), passes 4#8 2#8 f s = true →
    ∃ t, exec (.bulkRead f) s = .next t ∧ ringOnly s t ∧
      t.link.reads = s.link.reads ++ [⟨f.sess, f.tid, f.addr.toNat, f.arg.toNat⟩]) ∧
  (∀ (r : BulkRun) (rest : List BulkRun) (s : State),
    clocked s = true → memFree s = true → s.link.reads = r :: rest →
    ∃ t, exec (.bulkReadData .clean) s = .next t ∧ t = { s with link := t.link, codes := t.codes, stk := t.stk } ∧
      (rangeBad s r.addr (min 4096 r.left) = false → t.codes = s.codes) ∧
      t.link.reads = (if r.left ≤ 4096 then rest else { r with addr := r.addr + 4096, left := r.left - 4096 } :: rest) ∧
      sends t (fun g => g.cls = 4#8 ∧ g.opc = 3#8 ∧ g.sess = r.sess ∧ g.tid = r.tid ∧ g.addr = BitVec.ofNat 48 r.addr ∧
        (if rangeBad s r.addr (min 4096 r.left) = true then
          g.arg = 0x42#64 ∧ g.payload = List.replicate (min 4096 r.left) 0#8
         else g.arg = 0#64 ∧ g.payload = s.ld r.addr (min 4096 r.left)))) ∧
  (∀ (f : Frame) (s : State), passes 5#8 1#8 f s = true → Sparse.wf (fun _ => 0#16) s.hdr.gflags = true →
    let g : Fin 256 := Fin.ofNat 256 f.addr.toNat
    let v := leNat f.payload
    ∃ t, exec (.flagUpdate f) s = .next t ∧ ringOnly s t ∧ (∀ b : Bay, t.bay b = s.bay b) ∧
      gflagOf g t = (if v.testBit 31 = true then gflagOf g s + BitVec.ofNat 16 v else BitVec.ofNat 16 v) ∧
      (∀ h : Fin 256, h ≠ g → gflagOf h t = gflagOf h s)) ∧
  (∀ (ix : Nat) (f : Frame) (s : State), s.link.held[ix]? = some f → s.pwr.st = .run →
    canPass f (s.link.held.take ix) s = true → s.rcd.replay ≠ .active → s.rcd.gated = [] →
    exec (.heldFrameRelease ix .clean) s = .next (passFrame f .clean { s with link := { s.link with held := s.link.held.eraseIdx ix } }))

/-- OD_INSTALL, INSTALL_COMPLETE, OD_EVICT, CONTEXT_RETIRE_EMPTY, WRITE_OTHER. Where the rules are silent it states the model's choice: log 94, 95. -/
def Obligations.ContextsAndEntries : Prop :=
  (∀ (q : OdReq) (s : State), odTaken 0x5010 5 (fun n => n == 1) s = some q → s.hdr.installing = none → noReqs s = true →
    let k := if installEarly s = 0 then installLate s else installEarly s
    ∃ t, exec (.odInstall .clean) s = .next t ∧ t.od.cur = none ∧ (∀ b : Bay, (t.strm b .a) = s.strm b .a ∧ t.strm b .x = s.strm b .x) ∧
      (∀ j : Nat, j ≠ s.hdr.sel → ctxAt t j = ctxAt s j) ∧
      (if k = 0 then
        ctxAt t s.hdr.sel = { stagedCtx s.hdr with
            dcount := s.ldNat (s.hdr.dir + 4) 4
            rkeys := (dirEntries s s.hdr.dir (s.ldNat (s.hdr.dir + 4) 4)).any (fun e => e.kind == 4) } ∧
          (ctxAt t s.hdr.sel).st = .loading ∧ (ctxAt t s.hdr.sel).refs = 0 ∧
          (MemInv s → s.hdr.ppb.length = 336 → rangeBad s (0x1FC0000000 + 512 * s.hdr.sel) 336 = false →
            t.ld (0x1FC0000000 + 512 * s.hdr.sel) 336 = s.hdr.ppb) ∧ t.hdr.installing = some (Fin.ofNat 16384 s.hdr.sel) ∧ t.hdr.status = s.hdr.status ∧
          (∀ a : Nat, (a < 0x1FC0000000 + 512 * s.hdr.sel ∨ 0x1FC0000000 + 512 * s.hdr.sel + s.hdr.ppb.length ≤ a) →
            t.rd a = s.rd a)
       else ctxAt t s.hdr.sel = ctxAt s s.hdr.sel ∧ t.hdr.status = BitVec.ofNat 8 k ∧ t.mem = s.mem)) ∧
  (∀ (k : Fin 16384) (s : State), clocked s = true → s.trust.stewardDown = false → s.hdr.installing = some k →
    ∃ t, exec .installComplete s = .next t ∧ t = { s with hdr := t.hdr } ∧ t.hdr.installing = none ∧ t.hdr.status = 0#8 ∧
      ctxAt t k = { ctxAt s k with st := .ready } ∧ ∀ j : Nat, j ≠ k → ctxAt t j = ctxAt s j) ∧
  (∀ (q : OdReq) (s : State), odTaken 0x5010 5 (fun n => n == 2) s = some q → s.hdr.installing = none →
    ∃ t, exec .odEvict s = .next t ∧ t.od.cur = none ∧ t.mem = s.mem ∧ t.bays = s.bays ∧
      (∀ k : Nat, k ≠ s.hdr.sel → ctxAt t k = ctxAt s k) ∧
      (if (ctxAt s s.hdr.sel).isReady = true then
        ctxAt t s.hdr.sel = { ctxAt s s.hdr.sel with st := .retiring } ∧ t.hdr.status = 0#8
       else ctxAt t s.hdr.sel = ctxAt s s.hdr.sel ∧ t.hdr.status = 7#8)) ∧
  (∀ (k : Fin 16384) (s : State), clocked s = true → (ctxAt s k).usable = true → (ctxAt s k).st = .retiring → (ctxAt s k).refs = 0 →
    Sparse.wf (fun _ => CtxEntry.reset) s.hdr.ctx = true →
    ∃ t, exec (.contextRetireEmpty k) s = .next t ∧ t = { s with hdr := t.hdr } ∧ ctxAt t k = CtxEntry.reset ∧
      ∀ j : Nat, j ≠ k → ctxAt t j = ctxAt s j) ∧
  (∀ (q : OdReq) (u s : State), canApply q s = true → s.od.cur = some q → plainWrite q s = some u → s.od.closeAfter = [] →
    ∃ t, exec .writeOther s = .next t ∧ t = { u with link := t.link, od := { u.od with cur := none }, ms := t.ms } ∧
      t.ms = { u.ms with dieBad := t.ms.dieBad } ∧ odBad q.slot q.ix.toNat q.sub.toNat t = none ∧
      (q.ix = 0x2130#16 → t.od.waitTimeout = leNat q.value) ∧
      (q.ix = 0x2120#16 → t.od.tideHalt = (leNat q.value == 1)) ∧
      (q.ix = 0x5010#16 ∧ q.sub = 1#8 → t.hdr.sel = leNat q.value) ∧
      (q.ix = 0x3010#16 ∧ q.sub = 1#8 → t.pwr.opLimit = leNat q.value) ∧
      (∀ b : Bay, q.ix = 0x3020#16 ∧ q.sub.toNat = 13 + b.val → t.pwr.opcap[b] = leNat q.value) ∧
      (q.mute = true → t.sess = s.sess) ∧
      (q.ix = 0x6010#16 → q.mute = false → t.sess[q.slot].selFault = BitVec.ofNat 8 (leNat q.value)))

/-- OD_TIDE_RESTART, OD_PARK, OD_RESUME, OD_CHANNEL_RESTART. Where the rules are silent it states the model's choice: log 45, 125, 141. -/
def Obligations.ChannelsAndParks : Prop :=
  (∀ (q : OdReq) (s : State), odTaken 0x2120 2 (fun _ => true) s = some q →
    ∃ t, exec .odTideRestart s = .next t ∧ t.od.cur = none ∧ t.mem = s.mem ∧
      ∀ b : Bay,
        if (leNat q.value).testBit b.val = true then
          (t.bay b).tide.streams = [] ∧ (t.bay b).tide.kh0 = Half.reset ∧ (t.bay b).tide.kh1 = Half.reset ∧
            (t.bay b).tide.halt = false ∧ t.strm b .a = s.strm b .a ∧ t.strm b .x = s.strm b .x
        else t.bay b = s.bay b) ∧
  (∀ (q : OdReq) (s : State), odTaken 0x2110 1 (fun _ => true) s = some q →
    ∃ t, exec .odPark s = .next t ∧ t.od.cur = none ∧ t.mem = s.mem ∧
      ∀ b : Bay,
        if (leNat q.value).testBit b.val = true ∧ (s.bay b).parked = false then
          (t.bay b).parkPend = true ∧ t.strm b .a = s.strm b .a ∧ t.strm b .x = s.strm b .x ∧
            (t.bay b).flags = (s.bay b).flags ∧ (t.bay b).dq = (s.bay b).dq ∧ (t.bay b).xf = (s.bay b).xf
        else t.bay b = s.bay b) ∧
  (∀ (q : OdReq) (s : State), odTaken 0x2110 2 (fun _ => true) s = some q →
    ∃ t, exec .odResume s = .next t ∧ t.od.cur = none ∧ t.mem = s.mem ∧
      ∀ b : Bay,
        if (leNat q.value).testBit b.val = true then
          (t.bay b).parkPend = false ∧ (t.bay b).parked = false ∧
            (∀ st : Strm, t.strm b st =
              (if (s.strm b st).status = .parked then { s.strm b st with status := .run, wait := none, fpc := 0#15 }
               else s.strm b st))
        else t.bay b = s.bay b) ∧
  (∀ (q : OdReq) (s : State), odTaken 0x2180 1 (fun _ => true) s = some q →
    ∃ t, exec .odChannelRestart s = .next t ∧ t.od.cur = none ∧ t.mem = s.mem ∧
      ∀ b : Bay,
        if (leNat q.value).testBit b.val = true then
          (t.bay b).xf.queue = [] ∧ (t.bay b).xf.active = [] ∧ (t.bay b).xf.ring = none ∧ (t.bay b).xf.halt = false ∧
            (t.bay b).desc = (s.bay b).desc ∧ t.strm b .a = s.strm b .a ∧ t.strm b .x = s.strm b .x
        else t.bay b = s.bay b)

/-- OD_LOAD, LOAD_COMPLETE, OD_UNLOAD, OD_LAUNCH. Where the rules are silent it states the model's choice: log 29, 98, 99, 100, 101, 102. -/
def Obligations.LoaderAndLaunch : Prop :=
  (∀ (q : OdReq) (s : State), odTaken 0x2160 3 (fun n => n == 1) s = some q → s.ldr.loading = false →
    ∃ t, exec .odLoad s = .next t ∧ t.od.cur = none ∧ t.mem = s.mem ∧ t.bays = s.bays ∧
      t.ldr = (if loadBusy (headBays s) s = true then { s.ldr with status := 1#8, detail := 0#32 }
        else { s.ldr with
          loading := true, busyShown := false, loadMask := headBays s, loadAddr := s.ldr.imgAddr, loadBind := s.ldr.bindAddr })) ∧
  (∀ s : State, dieRuns s = true → memFree s = true → s.trust.stewardDown = false → s.ldr.loading = true →
    BitVec.ofNat 12 (Img.at s s.ldr.loadAddr).bays &&& loadedMask s ≠ 0#12 →
    ∃ t, exec (.loadComplete .clean) s = .next t ∧ t.ldr.loading = false ∧ t.od = s.od ∧ t.sess = s.sess ∧
      t.ldr.status = 1#8 ∧ t.mem = s.mem ∧ t.bays = s.bays ∧ t.ldr.images = s.ldr.images) ∧
  (∀ s : State, dieRuns s = true → memFree s = true → s.trust.stewardDown = false → s.ldr.loading = true →
    BitVec.ofNat 12 (Img.at s s.ldr.loadAddr).bays &&& loadedMask s = 0#12 →
    ∃ t, exec (.loadComplete .clean) s = .next t ∧ t.ldr.loading = false ∧ t.od = s.od ∧ t.sess = s.sess ∧
      match (Img.at s s.ldr.loadAddr).fails s with
      | some f => t.ldr.status = BitVec.ofNat 8 f.status ∧ t.mem = s.mem ∧ t.bays = s.bays ∧ t.ldr.images = s.ldr.images ∧
          t.ldr.detail = BitVec.ofNat 32 (f.sec * 65536 + f.ix)
      | none =>
          t.ldr.status = 0#8 ∧ t.ldr.detail = 0#32 ∧
            (∃ k : Image, t.ldr.images = s.ldr.images ++ [k] ∧ k.bays = BitVec.ofNat 12 (Img.at s s.ldr.loadAddr).bays) ∧
            ∀ (b : Bay) (st : Strm),
              if (Img.at s s.ldr.loadAddr).bays.testBit b.val = true then
                (t.strm b st).status = .idle ∧ (t.strm b st).pc = 0#15 ∧ (t.strm b st).ctr = (s.strm b st).ctr
              else (t.strm b st).status = (s.strm b st).status ∧ (t.strm b st).imem = (s.strm b st).imem) ∧
  (∀ (q : OdReq) (s : State), odTaken 0x2160 3 (fun n => n == 2) s = some q → s.ldr.loading = false →
    let m := s.ldr.unloadMask
    ∃ t, exec .odUnload s = .next t ∧ t.od.cur = none ∧ t.mem = s.mem ∧
      (if baysStill s m.toNat = true ∧ (∃ k ∈ s.ldr.images, k.bays = m) then
        t.ldr.status = 0#8 ∧ t.ldr.images = s.ldr.images.filter (fun k => k.bays != m) ∧
          ∀ b : Bay,
            if m.getLsbD b = true then
              (t.bay b).desc = [] ∧ ∀ st : Strm, (t.strm b st).status = .idle ∧ (t.strm b st).imem = [] ∧ (t.strm b st).dmem = [] ∧
                (t.strm b st).ctr = (s.strm b st).ctr
            else sameBay b s t
       else t.bays = s.bays ∧ t.ldr.images = s.ldr.images ∧ t.ldr.status = (if baysStill s m.toNat = true then 2#8 else 11#8))) ∧
  (∀ (q : OdReq) (s : State), odTaken 0x2170 1 (fun _ => true) s = some q →
    let o := LaunchObj.ofBytes q.value
    ∃ t, exec .odLaunch s = .next t ∧ t.od.cur = none ∧ t.mem = s.mem ∧
      t.ldr.launchCode = BitVec.ofNat 8 (launchCode s q.value) ∧
      (if launchCode s q.value = 0 then
        ⟨BitVec.ofNat 12 o.bays, BitVec.ofNat 48 o.release⟩ ∈ t.ldr.launches ∧
          ∀ b : Bay,
            if o.bays.testBit b.val = true then
              (t.bay b).flags = 0#64 ∧ (t.bay b).desc = (s.bay b).desc ∧
                ∀ st : Strm, (t.strm b st).status = .wait ∧ (t.strm b st).pc = 0#15 ∧
                  (t.strm b st).ctr = Vector.replicate 16 0#32 ∧ (t.strm b st).dmem = (s.strm b st).dmem ∧
                  (t.strm b st).loops = [] ∧ (t.strm b st).calls = [] ∧
                  (t.strm b st).wait = some ⟨.beat, 0, 0, .programRelease (BitVec.ofNat 12 o.bays), BitVec.ofNat 32 o.release⟩
            else t.bay b = s.bay b
       else t.bays = s.bays ∧ t.ldr.launches = s.ldr.launches))

/-- OD_LINK_RESET, LINK_RESET_EFFECT, OD_BAY_RESET, BAY_RESET_EFFECT, OD_STREAM_RESET (R433, R434). Where the rules are silent it states the model's choice: log 103, 141, 157. -/
def Obligations.ResetsKeepAndClear : Prop :=
  (∀ (q : OdReq) (s : State),
    (odTaken 0x2100 1 (fun _ => true) s = some q →
      ∃ t, exec .odLinkReset s = .next t ∧ t.od.cur = none ∧ t.mem = s.mem ∧ t.bays = s.bays ∧ t.rst = { s.rst with link := some q.lseq }) ∧
    (odTaken 0x2100 2 (fun _ => true) s = some q →
      ∃ t, exec .odBayReset s = .next t ∧ t.od.cur = none ∧ t.mem = s.mem ∧ t.bays = s.bays ∧
        t.rst = { s.rst with bays := s.rst.bays ||| BitVec.ofNat 12 (leNat q.value) })) ∧
  (∀ s : State, clocked s = true → s.beat.edgeNow = true → s.rst.linkDue = true → 3 ≤ s.pwr.faulty →
    ∃ t, exec .linkResetEffect s = .next t ∧ t.faults.gong = 0x62#8 ∧ t.rst = Resets.reset ∧
      ∀ (b : Bay) (st : Strm), (t.strm b st).status = .halted ∧ (t.strm b st).fault = 0x62#8) ∧
  (∀ s : State, clocked s = true → s.beat.edgeNow = true → s.rst.linkDue = true → s.pwr.faulty < 3 →
    ∃ t, exec .linkResetEffect s = .next t ∧ (∀ b : Bay, t.bay b = { Bays.reset with prot := { Prot.reset with lapStart := s.beat.pos } }) ∧
      t.mem = [] ∧ t.ms.bands = 0#128 ∧
      t.hdr.ctx = [] ∧ t.hdr.brackets = [] ∧ t.hdr.gflags = [] ∧ t.pools = [] ∧ t.faults.gong = 0#8 ∧ t.rcd.seq = 0 ∧
      t.ldr.images = [] ∧ t.sess = s.sess ∧ t.od = s.od ∧ t.beat.beat = s.beat.beat ∧ t.beat.st = s.beat.st ∧
      t.trust.fuses = s.trust.fuses ∧ t.trust.journal = s.trust.journal ∧ t.trust.stage = s.trust.stage ∧
      t.trust.mapNow = mapNext s.trust ∧ t.pwr = s.pwr ∧ t.rst = Resets.reset) ∧
  (∀ s : State, clocked s = true → s.beat.edgeNow = true → s.rst.baysDue ≠ 0#12 →
    ∃ t, exec .bayResetEffect s = .next t ∧ t.mem = s.mem ∧ t.pwr = s.pwr ∧ t.rst.baysDue = 0#12 ∧
      ∀ b : Bay,
        if s.rst.baysDue.getLsbD b = true then
          (t.bay b).flags = 0#64 ∧ (t.bay b).tiles = Bays.reset.tiles ∧ (t.bay b).vec = Vec.reset ∧ (t.bay b).nt = Nt.reset ∧
            (t.bay b).tbl = Tbl.reset ∧ (t.bay b).dq = Bays.reset.dq ∧ (t.bay b).desc = (s.bay b).desc ∧
            (t.bay b).parked = false ∧ (t.bay b).tide.streams = [] ∧ (t.bay b).keyBuf = (s.bay b).keyBuf ∧
            (t.bay b).prot = (s.bay b).prot ∧
            ∀ st : Strm, (t.strm b st).status = .idle ∧ (t.strm b st).pc = 0#15 ∧
              (t.strm b st).ctr = Vector.replicate 16 0#32 ∧ (t.strm b st).cmp = 0#8 ∧
              (t.strm b st).imem = (s.strm b st).imem ∧ (t.strm b st).dmem = (s.strm b st).dmem
        else sameBay b s t) ∧
  (∀ (q : OdReq) (s : State), odTaken 0x2100 3 (fun _ => true) s = some q →
    ∃ t, exec .odStreamReset s = .next t ∧ t.od.cur = none ∧ t.mem = s.mem ∧
      ∀ (b : Bay) (st : Strm),
        if (leNat q.value).testBit (2 * b.val + strmNo st) = true ∧ s.rst.bays.getLsbD b = false then
          (t.strm b st).status = .idle ∧ (t.strm b st).pc = 0#15 ∧ (t.strm b st).fault = 0#8 ∧ (t.strm b st).loops = [] ∧
            (t.strm b st).ctr = (s.strm b st).ctr ∧ (t.strm b st).cmp = (s.strm b st).cmp ∧
            (t.strm b st).imem = (s.strm b st).imem ∧ (t.strm b st).dmem = (s.strm b st).dmem
        else t.strm b st = { s.strm b st with pools := (t.strm b st).pools })

/-- OD_POWER_CEILING, OD_PAGE_CODE_STRENGTH, OD_BAND_MODES, OD_TMX_SELECT. -/
def Obligations.DeviceModes : Prop :=
  (∀ (q : OdReq) (s : State), odTaken 0x3010 6 (fun _ => true) s = some q →
    ∃ t, exec .odPowerCeiling s = .next t ∧ t.od.cur = none ∧ t.mem = s.mem ∧ t.bays = s.bays ∧
      t.pwr = { s.pwr with ceiling := some (leNat q.value), opLimit := min (leNat q.value) s.pwr.opLimit }) ∧
  (∀ (q : OdReq) (s : State),
    (odTaken 0x4010 1 (fun _ => true) s = some q →
      ∃ t, exec .odPageCodeStrength s = .next t ∧ t.od.cur = none ∧ t.mem = s.mem ∧ t.bays = s.bays ∧
        t.codes = { s.codes with spadP := leNat q.value, reenc := some false }) ∧
    (odTaken 0x4010 2 (fun _ => true) s = some q →
      ∃ t, exec .odPageCodeStrength s = .next t ∧ t.od.cur = none ∧ t.mem = s.mem ∧ t.bays = s.bays ∧
        t.codes = { s.codes with keyP := leNat q.value, reenc := some true })) ∧
  (∀ (q : OdReq) (s : State), odTaken 0x4020 1 (fun _ => true) s = some q →
    (ahead s [] (bandSpans s (leNat q.value)) = true → exec .odBandModes s = .next s) ∧
    (ahead s [] (bandSpans s (leNat q.value)) = false →
    ∃ t, exec .odBandModes s = .next t ∧ t.od.cur = none ∧ t.ms.bands = BitVec.ofNat 128 (leNat q.value) ∧
      (∀ k : Nat, k ∈ t.ms.zeroing ↔ k < 127 ∧ (leNat q.value).testBit k ≠ s.ms.bands.getLsbD k) ∧
      (∀ a : Nat, t.rd a = (if a < stackEnd ∧ bandOf a ∈ t.ms.zeroing then 0#8 else s.rd a)) ∧
      (∀ b : Bay, t.bay b = s.bay b))) ∧
  (∀ (q : OdReq) (s : State), odTaken 0xA010 1 (fun _ => true) s = some q →
    ∃ t, exec .odTmxSelect s = .next t ∧ t.od.cur = none ∧ t.mem = s.mem ∧ t.bays = s.bays ∧ t.od.tmxSel = leNat q.value ∧
      t.od.tmxNow = s.od.tmxNow ∧
      ∀ smp : Sample, clocked t = true → ∃ u, exec (.beatEdge smp) t = .next u ∧ u.od.tmxNow = leNat q.value)

/-- OD_SECURITY_VERSION, OD_OWNER_KEY, OD_TILE_RETIRE, OD_DEBUG_CLOSE, JOURNAL_INTENT_DONE, JOURNAL_COMMIT_DONE. Where the rules are silent it states the model's choice: log 104, 107, 164. -/
def Obligations.LimitedWrites : Prop :=
  (∀ (c : Instr) (ix entry : Nat) (q : OdReq) (s : State),
    (c, ix, entry) ∈ ([(.odSecurityVersion, 0x9010, 1), (.odOwnerKey, 0x9020, 2), (.odTileRetire, 0x9030, 3),
      (.odDebugClose, 0x9040, 4)] : List (Instr × Nat × Nat)) →
    odTaken ix 1 (fun _ => true) s = some q → Sparse.wf (fun _ => 0#320) s.trust.journal = true →
    ∃ t, exec c s = .next t ∧ t.od.cur = none ∧ t.mem = s.mem ∧ t.bays = s.bays ∧ t.trust.fuses = s.trust.fuses ∧
      match freeRecord s.trust with
      | none => t.trust.journal = s.trust.journal
      | some n => t.link = s.link ∧
          t.trust.wlim = some ⟨q, entry, BitVec.ofNat 256 (leNat q.value), n, false, decide (s.pwr.low = 0)⟩ ∧
          recordAt t.trust n = recIntent entry (BitVec.ofNat 256 (leNat q.value)) &&& recordAt t.trust n ∧
          (s.pwr.low ≠ 0 → t.trust.journal = s.trust.journal) ∧
          (∀ j : Nat, j < n → recordAt s.trust j ≠ 0#320) ∧ (∀ j : Nat, j ≠ n → recordAt t.trust j = recordAt s.trust j)) ∧
  (∀ (w : Wlim) (ok : Bool) (s : State), s.trust.wlim = some w →
    (intentEnds w s = false → exec (.journalIntentDone ok) s = .next s) ∧
    ((pulseHeld s = false ∨ w.pulse = false ∨ w.intentDone = false) → exec .journalCommitDone s = .next s) ∧
    ((s.pwr.st = .off ∨ s.pwr.st = .ramp) → pulseHeld s = false) ∧ (w.pulse = false → intentEnds w s = false)) ∧
  (∀ (w : Wlim) (s : State), intentEnds w s = true → s.trust.wlim = some w →
    (∀ ok : Bool, ok = true ∨ journalRuns s = false →
      ∃ t, exec (.journalIntentDone ok) s = .next t ∧
        t = { s with trust := { s.trust with
          journal := t.trust.journal
          wlim := some (if journalRuns s = true then { w with intentDone := true, pulse := decide (s.pwr.low = 0) } else w) } } ∧
        recordAt t.trust w.rcd = recordAt s.trust w.rcd ||| recIntent w.entry w.value ∧
        (∀ j : Nat, j ≠ w.rcd → recordAt t.trust j = recordAt s.trust j)) ∧
    (journalRuns s = true → s.pwr.low ≠ 0 → exec (.journalIntentDone false) s = .next s) ∧
    (journalRuns s = true → s.pwr.low = 0 → recCommitted (recordAt s.trust w.rcd) = false →
      ∃ t, exec (.journalIntentDone false) s = .next t ∧ t.mem = s.mem ∧ t.trust.wlim = none ∧
        recVoid (recordAt t.trust w.rcd) = true ∧
        recordAt t.trust w.rcd &&& recordAt s.trust w.rcd = recordAt s.trust w.rcd ∧
        (∀ j : Nat, j ≠ w.rcd → recordAt t.trust j = recordAt s.trust j) ∧
        svnNow t.trust = svnNow s.trust ∧ ownerHash t.trust = ownerHash s.trust ∧ mapNext t.trust = mapNext s.trust ∧
        policyClosed t.trust = policyClosed s.trust)) ∧
  (∀ (w : Wlim) (s : State), pulseHeld s = true → w.pulse = true → s.pwr.st = .fail → s.trust.wlim = some w → w.intentDone = true →
    ∃ t, exec .journalCommitDone s = .next t ∧
      t = { s with trust := { s.trust with journal := t.trust.journal, wlim := none }, rst := t.rst } ∧
      recordAt t.trust w.rcd = recordAt s.trust w.rcd ||| 2#320 ∧
      (∀ j : Nat, j ≠ w.rcd → recordAt t.trust j = recordAt s.trust j)) ∧
  (∀ (w : Wlim) (s : State), w.pulse = true → s.pwr.st = .run → s.trust.wlim = some w → w.intentDone = true →
    w.rcd < 96 → 1 ≤ w.entry → w.entry ≤ 4 → recordAt s.trust w.rcd = recIntent w.entry w.value →
    (∀ j : Nat, w.rcd < j → j < 96 → recordAt s.trust j = 0#320) →
    ∃ t, exec .journalCommitDone s = .next t ∧ t.mem = s.mem ∧ t.trust.wlim = none ∧ t.trust.fuses = s.trust.fuses ∧
      recordAt t.trust w.rcd = recordAt s.trust w.rcd ||| 2#320 ∧
      (∀ j : Nat, j ≠ w.rcd → recordAt t.trust j = recordAt s.trust j) ∧
      (w.entry = 1 → svnNow t.trust = w.value.toNat) ∧
      (w.entry = 2 → ownerHash t.trust = leBytes w.value.toNat 32 ∧
        ∀ k : Slot, s.sess[k].ph = .opened → s.sess[k].role ≠ 0 → k ≠ w.req.slot → t.sess[k].ph = .free) ∧
      (w.entry = 4 → policyClosed t.trust = true ∧ t.tap.ir = 2#8 ∧ t.tap.maSts = 0#2 ∧ (t.od.tmxNow ≠ s.od.tmxNow → tmxPins t = 0#16)))

/-- BOOT_STAGE_FUSE_DONE, BOOT_STAGE_IDENTITY_DONE, FW_VERIFY_DONE, FIRMWARE_ACCESS. Where the rules are silent it states the model's choice: log 12, 83, 105, 106, 153, 164. -/
def Obligations.BootAndFences : Prop :=
  (∀ (f : Fuses) (msg : List Byte), (idKeyOf f).length = 1793 ∧ falconVerify (idKeyOf f) msg (idSign f msg) = true) ∧
  (∀ s : State, s.pwr.low ≠ 0 → leftIncomplete s.trust = true → exec .bootStageFuseDone s = .next s) ∧
  (∀ s : State, s.pwr.st = .run → s.trust.stage = .fuse → s.pwr.low = 0 ∨ leftIncomplete s.trust = false →
    ∃ t, exec .bootStageFuseDone s = .next t ∧ t = { s with trust := t.trust } ∧ t.trust.stage = .identity ∧
      t.trust.fuses = s.trust.fuses ∧ t.trust.mapNow = mapNext s.trust ∧
      ∀ j : Nat, j < 96 → recordAt t.trust j =
        (if recordAt s.trust j = 0#320 ∨ recCommitted (recordAt s.trust j) = true then recordAt s.trust j
         else recordAt s.trust j ||| 4#320)) ∧
  (∀ s : State, s.pwr.st = .run → s.trust.stage = .identity →
    exec .bootStageIdentityDone s = .next { s with trust := { s.trust with idKey := true, stage := .service } }) ∧
  (∀ s : State, clocked s = true → noReqs s = true → s.trust.stage = .verify →
    ∃ t, exec (.fwVerifyDone .clean) s = .next t ∧ t.trust.fuses = s.trust.fuses ∧ t.trust.journal = s.trust.journal ∧
      (if fwAccepted s = true then
        t.trust.stage = .run ∧ t.trust.fwVer = BitVec.ofNat 32 (s.ldNat 8 4) ∧ t.trust.fwSvn = s.ldNat 5 1 ∧
          svnNow s.trust ≤ t.trust.fwSvn ∧ t.trust.steward = s.ld 4096 (s.ldNat 12 4) ∧ t.faults = s.faults ∧
          falconVerify (s.ld 64 1793) (asciiBytes "SHOZAL-F" ++ s.ld 0 1920 ++ shake256 (s.ld 4096 (s.ldNat 12 4)) 64)
            (s.ld 1920 1280) = true ∧
          ∀ a : Nat, t.rd a = (if a < 4096 + s.ldNat 12 4 then 0#8 else s.rd a)
       else t.trust.stage = .service ∧ t.mem = s.mem ∧ t.faults = (countFault 0x48 15 3 s).faults)) ∧
  (∀ (acc : FwAccess) (s : State), s.pwr.st = .run → stewardRuns s = true →
    ∃ t, exec (.firmwareAccess acc) s = .next t ∧
      t.trust = { s.trust with fwRead := t.trust.fwRead, stewardDown := t.trust.stewardDown } ∧ t.sess = s.sess ∧
      ((∀ (a : Nat) (v : Byte) (w : Nat), acc ≠ .writeSpad a v (.page w)) →
        t.run = { s.run with replayable := t.run.replayable } ∧
        t.rcd = { s.rcd with stopOn := t.rcd.stopOn, on := t.rcd.on } ∧
        (∀ a : Nat, ringBase ≤ a → a < ringBase + 2 ^ 29 → t.rd a = s.rd a)) ∧
      (∀ b : Bay, (t.strm b .a).pc = (s.strm b .a).pc ∧ (t.strm b .x).pc = (s.strm b .x).pc)) ∧
  (∀ (a : Nat) (k : Fin 108) (s : State) (acc : FwAccess), s.pwr.st = .run → stewardRuns s = true →
    acc ∈ [FwAccess.readRing a, .readSecret, .clearMapBit k, .setMapBit k, .startImage, .reopenPolicy, .editGate] →
    exec (.firmwareAccess acc) s = .next (countFault 0x49 15 3 s)) ∧
  (∀ (a w n o : Nat) (v : Byte) (s : State), clocked s = true → stewardRuns s = true → memFree s = true →
    spadAt a = some (n, o) → loadDest s n o = true → touches (spadBay a) (partWrites [a]) w = true →
    (s.bay (spadBay a)).prot.bad.contains w = false →
    exec (.firmwareAccess (.writeSpad a v (.page w))) s = .next (askRepair (spadBay a) w s)) ∧
  (∀ s : State, s.pwr.st = .run →
    ∃ t u, exec (.firmwareAccess .readBnCmd) s = .next t ∧ exec (.firmwareAccess .readBnCtl) s = .next u ∧
      t = { s with trust := { s.trust with fwRead := List.replicate 8 0#8 } } ∧
      u = { s with trust := { s.trust with fwRead := List.replicate 4 0#8 } }) ∧
  (∀ (f : FuseField) (s : State), s.pwr.st = .run → stewardRuns s = true →
    ∃ t, exec (.firmwareAccess (.readFuse f)) s = .next t ∧
      (if f = .seed then t.trust.fwRead = List.replicate 32 0#8 ∧ t.faults = (countFault 0x49 15 3 s).faults
       else t = { s with trust := { s.trust with fwRead := fuseRead s.trust f } })) ∧
  (∀ (off : Nat) (ue : Bool) (s : State), s.pwr.st = .run → stewardRuns s = true → off < 0x400000 →
    ∃ t, exec (.firmwareAccess (.readSteward off ue)) s = .next t ∧
      (if ue = true ∨ (0x24, off) ∈ s.ms.dieBad then
        stewardRuns t = false ∧ t.faults = (countFault 0x44 15 3 s).faults ∧ t.codes = (ueAt 0x24 15 off s).codes
       else t = { s with trust := { s.trust with fwRead := [s.trust.steward.getD off 0#8] } })) ∧
  (∀ (w : Nat) (s : State), clocked s = true → stewardRuns s = true →
    exec (.firmwareAccess (.powerLimit w)) s = .next
      (if w ≤ min (s.pwr.ceiling.getD s.trust.fuses.ceilingW) s.trust.fuses.ceilingW ∧ w ≤ s.pwr.opLimit then
        { s with pwr := { s.pwr with opLimit := w } } else countFault 0x49 15 3 s))

/-- BN_MODMUL to BN_RANDS, BN_ABORT, BN_SLOT_LEN_WRITE, BN_SLOT_DATA_WRITE, BN_UE_ABORT, TRNG_HEALTH_FAIL, BN_ABORT_COMPLETE. Where the rules are silent it states the model's choice: log 109, 110, 111. -/
def Obligations.BignumCommands : Prop :=
  (∀ (c : Instr) (op : Nat) (x : BnArgs) (trng : Nat) (s : State),
    (c, op, trng) ∈ ([(.bnModmul x, 0x01, 0), (.bnModexp x, 0x02, 0), (.bnModinv x, 0x03, 0), (.bnPchk x, 0x08, 0),
      (.bnPmul x, 0x09, 0), (.bnPmulg x, 0x0A, 0), (.bnPadd x, 0x0B, 0), (.bnRands x trng, 0x0C, trng)] : List (Instr × Nat × Nat)) →
    s.pwr.st = .run →
    ∃ t, exec c s = .next t ∧
      (if bnCerr s op x = 0 then
        t = { s with bn := t.bn } ∧ t.bn.cerr = 0 ∧ t.bn.lop = op ∧ t.bn.out = 0 ∧
          (∃ r : BnRun, t.bn.run = some r ∧ r.op = op ∧ r.x = x ∧ r.trng = trng ∧ r.abort = none) ∧
          ∀ k : Fin 64, t.bn.slots[k].words = s.bn.slots[k].words ∧ t.bn.slots[k].len = s.bn.slots[k].len ∧
            t.bn.slots[k].st =
              (if k = x.d ∨ k ∈ bnScratch op x ∨ k ∈ (bnSources op x).map (fun e => e.1) then .busy else s.bn.slots[k].st)
       else t = { s with bn := { s.bn with cerr := bnCerr s op x }, faults := (countFault 0x47 15 3 s).faults })) ∧
  (∀ (k : Fin 64) (len : BitVec 7) (s : State), s.pwr.st = .run →
    ∃ t, exec (.bnSlotLenWrite k len) s = .next t ∧ t = { s with bn := t.bn, ms := { s.ms with dieBad := t.ms.dieBad } } ∧
      (if s.bn.slots[k].st = .busy ∨ 64 < len.toNat ∨ (56 ≤ k.val ∧ len ≠ 0#7) then t.bn = { s.bn with werr := true }
       else t.bn.slots[k].words = [] ∧ t.bn.slots[k].len = len.toNat ∧
        t.bn.slots[k].st = (if len = 0#7 then .free else .loaded) ∧ ∀ j : Fin 64, j ≠ k → t.bn.slots[j] = s.bn.slots[j])) ∧
  (∀ (k w : Fin 64) (v : BitVec 64) (s : State), s.pwr.st = .run → Sparse.wf (fun _ => 0#64) s.bn.slots[k].words = true →
    ∃ t, exec (.bnSlotDataWrite k w v) s = .next t ∧ t = { s with bn := t.bn, ms := { s.ms with dieBad := t.ms.dieBad } } ∧
      (if s.bn.slots[k].ready = true ∧ k.val < 56 ∧ w.val < s.bn.slots[k].len then
        t.bn.slots[k].st = .loaded ∧ t.bn.slots[k].len = s.bn.slots[k].len ∧ (t.bn.slots[k]).word w = v.toNat ∧
          (∀ j : Nat, j ≠ w → (t.bn.slots[k]).word j = (s.bn.slots[k]).word j) ∧
          ∀ j : Fin 64, j ≠ k → t.bn.slots[j] = s.bn.slots[j]
       else t.bn = { s.bn with werr := true })) ∧
  (∀ (r : BnRun) (k : Fin 64) (n : Fin 512) (s : State) (c : Instr), s.pwr.st = .run → s.bn.run = some r → r.abort = none →
    (c = .bnAbort ∨ (c = .bnUeAbort k n ∧ (bnRole r k).isSome = true) ∨ (c = .trngHealthFail ∧ r.op = 0x0C)) →
    ∃ t u, exec c s = .next t ∧ t.mem = s.mem ∧ t.bays = s.bays ∧ t.faults = (countFault 0x47 15 3 s).faults ∧
      t.bn.slots = s.bn.slots ∧ exec .bnAbortComplete t = .next u ∧ u.bn.run = none ∧ u.bn.out = 3 ∧
      (∀ j : Fin 64, j = r.x.d ∨ j ∈ bnScratch r.op r.x →
        u.bn.slots[j] = { st := .aborted, len := s.bn.slots[j].len, words := [] }) ∧
      (∀ j : Fin 64, j ≠ r.x.d → j ∉ bnScratch r.op r.x → u.bn.slots[j].words = s.bn.slots[j].words)) ∧
  (∀ (w : BitVec 64) (v : W32) (i k : Fin 64) (trng : Nat) (s : State), s.pwr.st = .run →
    exec (.firmwareAccess (.bnCmd w trng)) s = .next (bnCommand (w.toNat % 64) (BnArgs.ofWord w) trng s) ∧
    exec (.firmwareAccess (.bnStat v)) s = .next { s with bn := { s.bn with werr := s.bn.werr && !v.getLsbD 1 } } ∧
    exec (.firmwareAccess (.readBnWord i k)) s = .next { s with trust := { s.trust with
      fwRead := leBytes (if s.bn.slots[i].ready = true ∧ i.val < 56 then s.bn.slots[i].word k else 0) 8 } })

/-- BN_OP_COMPLETE (R402 to R405, R408). Where the rules are silent it states the model's choice: log 108, 109. -/
def Obligations.BignumResults : Prop :=
  (∀ (r : BnRun) (v n : Nat) (s : State), s.pwr.st = .run → s.bn.run = some r → r.abort = none →
    bnBadSource s r = none → bnOutcome s r = .inr (v, n) →
    ∃ t, exec .bnOpComplete s = .next t ∧ t = { s with bn := t.bn, ms := { s.ms with dieBad := t.ms.dieBad } } ∧ t.bn.run = none ∧ t.bn.out = 1 ∧
      t.bn.slots[r.x.d] = BnSlot.result v n ∧
      (∀ j ∈ bnScratch r.op r.x, j ≠ r.x.d → t.bn.slots[j] = BnSlot.reset)) ∧
  (∀ (r : BnRun) (code opnd : Nat) (k : Fin 64) (s : State),
    s.pwr.st = .run → s.bn.run = some r → r.abort = none → bnBadSource s r = none →
    bnOutcome s r = .inl (code, some (k, opnd)) →
    ∃ t, exec .bnOpComplete s = .next t ∧
      t = { s with bn := t.bn, faults := t.faults, ms := { s.ms with dieBad := t.ms.dieBad } } ∧
      t.faults = (countFault 0x47 15 3 s).faults ∧ t.bn.run = none ∧ t.bn.out = 2 ∧ t.bn.slots[r.x.d].st = .refused ∧
      t.bn.slots[r.x.d].words = [] ∧
      t.bn.reason = BitVec.ofNat 32 (r.op * 2 ^ 24 + code * 2 ^ 16 + k.val * 2 ^ 8 + opnd)) ∧
  (∀ (r : BnRun) (o : Nat) (e : Fin 64 × Nat) (s : State),
    s.pwr.st = .run → s.bn.run = some r → r.abort = none → bnBadSource s r = some (o, e) →
    ∃ t, exec .bnOpComplete s = .next t ∧ t.bn.slots = s.bn.slots ∧ t.codes = (ueAt 0x23 15 o s).codes ∧
      (∃ q : BnRun, t.bn.run = some q ∧ q.abort.isSome = true) ∧
      t.bn.reason = BitVec.ofNat 32 (r.op * 2 ^ 24 + 0x11 * 2 ^ 16 + e.1.val * 2 ^ 8 + e.2)) ∧
  (∀ (r : BnRun) (s : State), s.pwr.st = .run → s.bn.run = some r → r.abort = none → bnBadSource s r = none → r.op = 0x01 →
    let a := s.bn.slots[r.x.a].val
    let b := s.bn.slots[r.x.b].val
    let m := s.bn.slots[r.x.c].val
    (m % 2 = 1 → 1 < m → 2 ≤ a → a < m → 2 ≤ b → b < m →
      ∃ t, exec .bnOpComplete s = .next t ∧ t.bn.out = 1 ∧ t.bn.slots[r.x.d].val = a * b % m) ∧
    (m % 2 = 0 → 0 < m →
      ∃ t, exec .bnOpComplete s = .next t ∧ t.bn.out = 2 ∧
        t.bn.reason = BitVec.ofNat 32 (0x01040002 + r.x.c.val * 2 ^ 8)))

/-- TRST_ASSERT, TAP_EXTEST, TAP_SAMPLE_PRELOAD, TAP_IDCODE, TAP_BYPASS, TAP_INTSCAN, TAP_MEMACC, MEMACC_READ, MEMACC_WRITE, MEMACC_SERVE. Where the rules are silent it states the model's choice: log 11, 111, 117, 118, 119, 165, 193. -/
def Obligations.TestAccess : Prop :=
  (∀ (code : Byte) (closed : Bool), tapInstr code closed =
    (if code = 0x00#8 then .extest else if code = 0x01#8 then .sample else if code = 0x02#8 then .idcode
     else if code = 0x10#8 ∧ closed = false then .intscan else if code = 0x11#8 ∧ closed = false then .memacc else .bypass)) ∧
  (∀ (low : Bool) (s : State), exec (.trstAssert low) s = .next { s with tap :=
    (if low = true then { s.tap with ir := 2#8, trstLow := true } else { s.tap with trstLow := false }) }) ∧
  (∀ (refclk : Bool) (load : Option (BitVec 21)) (code : Byte) (dr : Option (BitVec 128)) (addr : BitVec 48) (data : BitVec 64)
      (s : State) (c : Instr),
    s.pwr.st ≠ .run ∨ s.tap.trstLow = true →
    c ∈ [Instr.tapExtest refclk load, .tapSamplePreload refclk load, .tapIdcode, .tapBypass code, .tapIntscan, .tapMemacc dr,
      .memaccRead addr, .memaccWrite addr data] → exec c s = .next s) ∧
  (∀ (refclk : Bool) (code : Byte) (s : State) (c : Instr) (k : Byte), s.pwr.st = .run → s.tap.trstLow = false →
    (c, k) ∈ ([(.tapExtest refclk none, 0x00#8), (.tapIdcode, 0x02#8), (.tapBypass code, code), (.tapIntscan, 0x10#8),
      (.tapMemacc none, 0x11#8)] : List (Instr × Byte)) →
    let t := { s with tap := { s.tap with
      ir := k, irOut := 1#8, byp := s.tap.byp && decide (tapInstr k (policyClosed s.trust) ≠ .bypass) } }
    exec c s = .next (if tapInstr k (policyClosed s.trust) = .intscan then
      { t with tap := { t.tap with cdStopped := true }, mem := s.mem.filter (fun e => decide (stackEnd ≤ e.1)) } else t)) ∧
  (∀ (refclk : Bool) (v : BitVec 21) (s : State), s.pwr.st = .run → s.tap.trstLow = false →
    ∃ t, exec (.tapExtest refclk (some v)) s = .next t ∧
      t = { s with tap := { s.tap with ir := 0x00#8, irOut := 1#8, bnd := t.tap.bnd, bndOut := v }, free := t.free } ∧
      statusLevels t = v.toNat / 2 % 8 * 2 ∧
      tmxLevels t = (if v.getLsbD 4 = true then some (v.extractLsb' 5 16) else none)) ∧
  (∀ (refclk : Bool) (load : Option (BitVec 21)) (s : State), s.pwr.st = .run → s.tap.trstLow = false →
    ∃ t, exec (.tapSamplePreload refclk load) s = .next t ∧
      t = { s with
        tap := { s.tap with ir := 0x01#8, irOut := 1#8, bnd := t.tap.bnd, bndOut := load.getD s.tap.bndOut }, free := t.free } ∧
      t.tap.bnd.getLsbD 0 = refclk ∧ t.tap.bnd.getLsbD 1 = true ∧ t.tap.bnd.getLsbD 2 = decide (s.faults.gong = 0#8) ∧
      t.tap.bnd.getLsbD 3 = !s.pwr.thermN ∧ t.tap.bnd.getLsbD 4 = true ∧
      (s.tmx.hold = 0 → s.od.tmxNow ≠ 3 → t.tap.bnd.extractLsb' 5 16 = s.tmx.out)) ∧
  (∀ s : State, tapNow s ≠ .extest → statusLevels s = statusPins s ∧ (s.pwr.st = .run → tmxLevels s = some (tmxPins s))) ∧
  (∀ s : State, s.pwr.st ≠ .run → tmxLevels s = none) ∧
  (∀ (ev : CodeEvent) (s : State), s.tap.maCmd = 1#8 →
    ∃ t, exec (.memaccServe ev) s = .next t ∧ t.rcd = s.rcd ∧ t.run = s.run ∧ t.beat = s.beat ∧ t.tick = s.tick) ∧
  (∀ (addr : BitVec 48) (data : BitVec 64) (v : BitVec 128) (s : State), s.pwr.st = .run → s.tap.trstLow = false →
    exec (.memaccRead addr) s = .next
      (if tapNow s = .memacc then { s with tap := { s.tap with maAddr := addr, maCmd := 1#8, maSts := 1#2 } } else s) ∧
    exec (.memaccWrite addr data) s = .next
      (if tapNow s = .memacc then { s with tap := { s.tap with maAddr := addr, maCmd := 2#8, maSts := 1#2, maData := data } }
       else s) ∧
    (policyClosed s.trust = false → exec (.tapMemacc (some v)) s = .next { s with tap := { s.tap with
      ir := 0x11#8, irOut := 1#8, maAddr := v.extractLsb' 80 48, maCmd := v.extractLsb' 72 8, maData := v.extractLsb' 0 64
      maSts := if v.extractLsb' 72 8 = 1#8 ∨ v.extractLsb' 72 8 = 2#8 then 1#2 else if s.tap.maSts = 1#2 then 0#2
        else s.tap.maSts } })) ∧
  (∀ (ev : CodeEvent) (s : State), memaccYields s.tap.maAddr.toNat s = true → exec (.memaccServe ev) s = .next s) ∧
  (∀ s : State, clocked s = true → memFree s = true → s.tap.maSts = 1#2 →
    let a := s.tap.maAddr.toNat
    (memaccReaches a = false → exec (.memaccServe .clean) s = .next { s with tap := { s.tap with maSts := 2#2 } }) ∧
    (memaccReaches a = true → rangeBad s a 8 = false → s.tap.maCmd = 1#8 →
      ∃ t, exec (.memaccServe .clean) s = .next t ∧
        t = { s with tap := { s.tap with maSts := 0#2, maData := BitVec.ofNat 64 (s.ldNat a 8) }, stk := t.stk }) ∧
    (memaccReaches a = true → rangeBad s a 8 = false → s.tap.maCmd ≠ 1#8 → MemInv s →
      ∃ t, exec (.memaccServe .clean) s = .next t ∧ t.tap = { s.tap with maSts := 0#2 } ∧
        t.ldNat a 8 = s.tap.maData.toNat ∧ (∀ x : Nat, x < a ∨ a + 8 ≤ x → t.rd x = s.rd x) ∧
        ∀ (b : Bay) (st : Strm), t.strm b st = s.strm b st))

/-- What step adds around exec: the queue, and a cy of the core clock when nothing waits (DESIGN CHOICE, log 7). -/
def Obligations.StepRunsCommand : Prop :=
  (∀ (c : Instr) (s : State), step { s with pending := c :: s.pending } = exec c s) ∧
  (∀ (c : Instr) (r : List Instr) (s : State), s.pending = c :: r → step s = exec c { s with pending := r }) ∧
  (∀ s : State, s.pending = [] → step s = .next (tick s)) ∧
  (∀ (nbits w : Nat) (s : State), decodeTableWord nbits w = none ∧ s.withFetchWord nbits w = s)

/-- What `State.reset` holds, and the invariants at it. Where the rules are silent it states the model's choice: log 10, 60, 154. -/
def Obligations.ResetState : Prop :=
  State.reset.pending = [] ∧
  (∀ (b : Bay) (st : Strm), (State.reset.strm b st).status = .idle ∧ (State.reset.strm b st).pc = 0#15 ∧
    (State.reset.bay b).flags = 0#64) ∧
  (∀ a : Nat, State.reset.rd a = 0#8) ∧ (∀ k : Nat, (ctxAt State.reset k).st = .empty) ∧
  State.reset.beat.st = .acquire ∧ State.reset.beat.beat = 0#48 ∧ (∀ k : Slot, State.reset.sess[k].ph = .free) ∧
  State.reset.faults.gong = 0#8 ∧ State.reset.trust.stage = .fuse ∧ State.reset.pwr.st = .run ∧
  MemInv State.reset ∧ ClockInv State.reset ∧ RaiseInv State.reset

/-- The canonical form is an invariant of the model's own representation of memory; every command that writes memory goes through it. Where the rules are silent it states the model's choice: log 60. -/
def Obligations.MemoryKept : Prop :=
  ∀ s t : State, MemInv s → step s = .next t → MemInv t

/-- Bounds of the no-progress count (R200), of the DVFS steps (R412, R414), and the fields burned at manufacture (R375; LimitedWrites is about the Journal's). Where the rules are silent it states the model's choice: log 8, 10. -/
def Obligations.ClocksKept : Prop :=
  ∀ s t : State, ClockInv s → RaiseInv s → step s = .next t → ClockInv t ∧ RaiseInv t ∧ t.trust.fuses = s.trust.fuses
end

