-- ==== Sys2Proof/Laws/Sparse.lean ====
section
/-! SUPPORT. The laws of a sparse table: a read after a write, and every write keeps the canonical form. -/

namespace Sys2Proof.Laws.Sparse

open Sys2Proof

variable {α : Type} [DecidableEq α] {d : Nat → α} {m : Sparse α}

/-! ### Reading after one write -/

theorem get_below {j b : Nat} (h : Sparse.wfFrom d b m = true) (hj : j < b) : Sparse.get d m j = d j := by
  induction m generalizing b with
  | nil => rfl
  | cons e r ih =>
    obtain ⟨i, v⟩ := e
    simp only [Sparse.wfFrom, Bool.and_eq_true, decide_eq_true_eq] at h
    have hne : ¬ i = j := by omega
    simp only [Sparse.get, hne, if_false]
    exact ih h.2 (by omega)

theorem get_set_self_from {b k : Nat} {v : α} (h : Sparse.wfFrom d b m = true) :
    Sparse.get d (Sparse.set d m k v) k = v := by
  induction m generalizing b with
  | nil =>
    by_cases hv : v = d k
    · simp [Sparse.set, Sparse.get, hv]
    · simp [Sparse.set, Sparse.get, hv]
  | cons e r ih =>
    obtain ⟨j, w⟩ := e
    simp only [Sparse.wfFrom, Bool.and_eq_true, decide_eq_true_eq] at h
    rcases Nat.lt_trichotomy j k with hlt | heq | hgt
    · have hne : ¬ j = k := by omega
      simp only [Sparse.set, hlt, if_true, Sparse.get, hne, if_false]
      exact ih h.2
    · subst heq
      by_cases hv : v = d j
      · simpa [Sparse.set, hv] using get_below h.2 (Nat.lt_succ_self j)
      · simp [Sparse.set, Sparse.get, hv]
    · have h1 : ¬ j < k := by omega
      have h2 : ¬ j = k := by omega
      by_cases hv : v = d k
      · simp only [Sparse.set, h1, h2, if_false, hv, if_true, Sparse.get]
        exact get_below h.2 (by omega)
      · simp [Sparse.set, Sparse.get, h1, h2, hv]

/-- A key reads as what was last written there. -/
theorem get_set_self {k : Nat} {v : α} (h : Sparse.wf d m = true) : Sparse.get d (Sparse.set d m k v) k = v :=
  get_set_self_from h

/-- A write leaves every other key alone. -/
theorem get_set_ne {k j : Nat} {v : α} (h : j ≠ k) : Sparse.get d (Sparse.set d m k v) j = Sparse.get d m j := by
  have hk : ¬ k = j := fun e => h e.symm
  induction m with
  | nil =>
    by_cases hv : v = d k
    · simp [Sparse.set, hv]
    · simp [Sparse.set, Sparse.get, hv, hk]
  | cons e r ih =>
    obtain ⟨i, w⟩ := e
    simp only [Sparse.set]
    split
    · simp only [Sparse.get]
      rw [ih]
    · split
      · rename_i heq
        subst heq
        split
        · simp only [Sparse.get, hk, if_false]
        · simp only [Sparse.get, hk, if_false]
      · split
        · rfl
        · simp only [Sparse.get, hk, if_false]

theorem get_set {k j : Nat} {v : α} (h : Sparse.wf d m = true) :
    Sparse.get d (Sparse.set d m k v) j = if j = k then v else Sparse.get d m j := by
  by_cases e : j = k
  · subst e
    simp [get_set_self h]
  · simp [get_set_ne e, e]

/-! ### The canonical form -/

theorem wfFrom_mono {b c : Nat} (hb : b ≤ c) (h : Sparse.wfFrom d c m = true) : Sparse.wfFrom d b m = true := by
  cases m with
  | nil => rfl
  | cons e r =>
    simp only [Sparse.wfFrom, Bool.and_eq_true, decide_eq_true_eq] at h ⊢
    exact ⟨⟨by omega, h.1.2⟩, h.2⟩

theorem wfFrom_set {b k : Nat} {v : α} (h : Sparse.wfFrom d b m = true) (hk : b ≤ k) :
    Sparse.wfFrom d b (Sparse.set d m k v) = true := by
  induction m generalizing b with
  | nil =>
    by_cases hv : v = d k
    · simp [Sparse.set, hv, Sparse.wfFrom]
    · simp [Sparse.set, hv, Sparse.wfFrom, hk]
  | cons e r ih =>
    obtain ⟨j, w⟩ := e
    simp only [Sparse.wfFrom, Bool.and_eq_true, decide_eq_true_eq] at h
    simp only [Sparse.set]
    split
    · simp only [Sparse.wfFrom, Bool.and_eq_true, decide_eq_true_eq]
      exact ⟨h.1, ih h.2 (by omega)⟩
    · split
      · split
        · exact wfFrom_mono (by omega) h.2
        · rename_i heq hv
          subst heq
          simp only [Sparse.wfFrom, Bool.and_eq_true, decide_eq_true_eq, Bool.not_eq_true', decide_eq_false_iff_not]
          exact ⟨⟨h.1.1, hv⟩, h.2⟩
      · split
        · simp only [Sparse.wfFrom, Bool.and_eq_true, decide_eq_true_eq]
          exact h
        · rename_i hlt hne hv
          simp only [Sparse.wfFrom, Bool.and_eq_true, decide_eq_true_eq, Bool.not_eq_true', decide_eq_false_iff_not]
          refine ⟨⟨hk, hv⟩, ⟨⟨by omega, ?_⟩, h.2⟩⟩
          simpa using h.1.2

/-- A write keeps the canonical form. -/
theorem wf_set {k : Nat} {v : α} (h : Sparse.wf d m = true) : Sparse.wf d (Sparse.set d m k v) = true :=
  wfFrom_set h (Nat.zero_le k)

/-- A run of writes keeps the canonical form. -/
theorem wf_setList {k : Nat} {vs : List α} (h : Sparse.wf d m = true) : Sparse.wf d (Sparse.setList d m k vs) = true := by
  induction vs generalizing m k with
  | nil => exact h
  | cons v vs ih => exact ih (wf_set h)

theorem wfFrom_erase {b : Nat} {p : Nat → Bool} (h : Sparse.wfFrom d b m = true) :
    Sparse.wfFrom d b (Sparse.erase m p) = true := by
  induction m generalizing b with
  | nil => rfl
  | cons e r ih =>
    obtain ⟨j, w⟩ := e
    simp only [Sparse.wfFrom, Bool.and_eq_true, decide_eq_true_eq] at h
    have hr : Sparse.wfFrom d (j + 1) (Sparse.erase r p) = true := ih h.2
    rcases hp : p j with _ | _
    · have e1 : Sparse.erase ((j, w) :: r) p = (j, w) :: Sparse.erase r p := by simp [Sparse.erase, hp]
      rw [e1]
      simp only [Sparse.wfFrom, Bool.and_eq_true, decide_eq_true_eq]
      exact ⟨h.1, hr⟩
    · have e1 : Sparse.erase ((j, w) :: r) p = Sparse.erase r p := by simp [Sparse.erase, hp]
      rw [e1]
      exact wfFrom_mono (by omega) hr

/-- Erasing keys keeps the canonical form. -/
theorem wf_erase {p : Nat → Bool} (h : Sparse.wf d m = true) : Sparse.wf d (Sparse.erase m p) = true := wfFrom_erase h

omit [DecidableEq α] in
/-- An erased key reads as an unlisted one; every other key as before. -/
theorem get_erase {p : Nat → Bool} {k : Nat} :
    Sparse.get d (Sparse.erase m p) k = if p k then d k else Sparse.get d m k := by
  induction m with
  | nil => simp [Sparse.erase, Sparse.get]
  | cons e r ih =>
    obtain ⟨j, w⟩ := e
    rcases hp : p j with _ | _
    · have e1 : Sparse.erase ((j, w) :: r) p = (j, w) :: Sparse.erase r p := by simp [Sparse.erase, hp]
      rw [e1]
      by_cases hk : j = k
      · subst hk
        simp [Sparse.get, hp]
      · simp only [Sparse.get, hk, if_false]
        exact ih
    · have e1 : Sparse.erase ((j, w) :: r) p = Sparse.erase r p := by simp [Sparse.erase, hp]
      rw [e1, ih]
      by_cases hk : j = k
      · subst hk
        simp [hp]
      · simp only [Sparse.get, hk, if_false]

theorem wfFrom_tab {f : Nat → α} {k n : Nat} : Sparse.wfFrom d k (Sparse.tab d f k n) = true := by
  induction n generalizing k with
  | zero => rfl
  | succ n ih =>
    simp only [Sparse.tab]
    split
    · exact wfFrom_mono (Nat.le_succ k) ih
    · rename_i hv
      simp [Sparse.wfFrom, hv, ih]

/-- A tabulated table is in canonical form. -/
theorem wf_tab {f : Nat → α} {k n : Nat} : Sparse.wf d (Sparse.tab d f k n) = true :=
  wfFrom_mono (Nat.zero_le k) wfFrom_tab

end Sys2Proof.Laws.Sparse
end

