-- ==== Sys2Proof/Laws/State.lean ====
section
/-! SUPPORT. One rewriting lemma per field and shared update of the state, so that no proof unfolds a record update. -/

namespace Sys2Proof.Laws.State

open Sys2Proof Sys2Proof.Machine

variable {s : State} {b : Bay} {st : Strm}

/-! ### Updates of the whole state that touch one bay -/

@[simp] theorem pending_setBay {x : Bays} : (s.setBay b x).pending = s.pending := rfl
@[simp] theorem mem_setBay {x : Bays} : (s.setBay b x).mem = s.mem := rfl
@[simp] theorem ms_setBay {x : Bays} : (s.setBay b x).ms = s.ms := rfl
@[simp] theorem stk_setBay {x : Bays} : (s.setBay b x).stk = s.stk := rfl
@[simp] theorem hdr_setBay {x : Bays} : (s.setBay b x).hdr = s.hdr := rfl
@[simp] theorem pools_setBay {x : Bays} : (s.setBay b x).pools = s.pools := rfl
@[simp] theorem stats_setBay {x : Bays} : (s.setBay b x).stats = s.stats := rfl
@[simp] theorem codes_setBay {x : Bays} : (s.setBay b x).codes = s.codes := rfl
@[simp] theorem tideCtr_setBay {x : Bays} : (s.setBay b x).tideCtr = s.tideCtr := rfl
@[simp] theorem beat_setBay {x : Bays} : (s.setBay b x).beat = s.beat := rfl
@[simp] theorem run_setBay {x : Bays} : (s.setBay b x).run = s.run := rfl
@[simp] theorem rcd_setBay {x : Bays} : (s.setBay b x).rcd = s.rcd := rfl
@[simp] theorem link_setBay {x : Bays} : (s.setBay b x).link = s.link := rfl
@[simp] theorem sess_setBay {x : Bays} : (s.setBay b x).sess = s.sess := rfl
@[simp] theorem od_setBay {x : Bays} : (s.setBay b x).od = s.od := rfl
@[simp] theorem ldr_setBay {x : Bays} : (s.setBay b x).ldr = s.ldr := rfl
@[simp] theorem faults_setBay {x : Bays} : (s.setBay b x).faults = s.faults := rfl
@[simp] theorem rst_setBay {x : Bays} : (s.setBay b x).rst = s.rst := rfl
@[simp] theorem trust_setBay {x : Bays} : (s.setBay b x).trust = s.trust := rfl
@[simp] theorem bn_setBay {x : Bays} : (s.setBay b x).bn = s.bn := rfl
@[simp] theorem pwr_setBay {x : Bays} : (s.setBay b x).pwr = s.pwr := rfl
@[simp] theorem tap_setBay {x : Bays} : (s.setBay b x).tap = s.tap := rfl
@[simp] theorem tmx_setBay {x : Bays} : (s.setBay b x).tmx = s.tmx := rfl
@[simp] theorem tick_setBay {x : Bays} : (s.setBay b x).tick = s.tick := rfl
@[simp] theorem free_setBay {x : Bays} : (s.setBay b x).free = s.free := rfl

@[simp] theorem pending_updBay {f : Bays → Bays} : (s.updBay b f).pending = s.pending := rfl
@[simp] theorem mem_updBay {f : Bays → Bays} : (s.updBay b f).mem = s.mem := rfl
@[simp] theorem ms_updBay {f : Bays → Bays} : (s.updBay b f).ms = s.ms := rfl
@[simp] theorem stk_updBay {f : Bays → Bays} : (s.updBay b f).stk = s.stk := rfl
@[simp] theorem hdr_updBay {f : Bays → Bays} : (s.updBay b f).hdr = s.hdr := rfl
@[simp] theorem pools_updBay {f : Bays → Bays} : (s.updBay b f).pools = s.pools := rfl
@[simp] theorem stats_updBay {f : Bays → Bays} : (s.updBay b f).stats = s.stats := rfl
@[simp] theorem codes_updBay {f : Bays → Bays} : (s.updBay b f).codes = s.codes := rfl
@[simp] theorem tideCtr_updBay {f : Bays → Bays} : (s.updBay b f).tideCtr = s.tideCtr := rfl
@[simp] theorem beat_updBay {f : Bays → Bays} : (s.updBay b f).beat = s.beat := rfl
@[simp] theorem run_updBay {f : Bays → Bays} : (s.updBay b f).run = s.run := rfl
@[simp] theorem rcd_updBay {f : Bays → Bays} : (s.updBay b f).rcd = s.rcd := rfl
@[simp] theorem link_updBay {f : Bays → Bays} : (s.updBay b f).link = s.link := rfl
@[simp] theorem sess_updBay {f : Bays → Bays} : (s.updBay b f).sess = s.sess := rfl
@[simp] theorem od_updBay {f : Bays → Bays} : (s.updBay b f).od = s.od := rfl
@[simp] theorem ldr_updBay {f : Bays → Bays} : (s.updBay b f).ldr = s.ldr := rfl
@[simp] theorem faults_updBay {f : Bays → Bays} : (s.updBay b f).faults = s.faults := rfl
@[simp] theorem rst_updBay {f : Bays → Bays} : (s.updBay b f).rst = s.rst := rfl
@[simp] theorem trust_updBay {f : Bays → Bays} : (s.updBay b f).trust = s.trust := rfl
@[simp] theorem bn_updBay {f : Bays → Bays} : (s.updBay b f).bn = s.bn := rfl
@[simp] theorem pwr_updBay {f : Bays → Bays} : (s.updBay b f).pwr = s.pwr := rfl
@[simp] theorem tap_updBay {f : Bays → Bays} : (s.updBay b f).tap = s.tap := rfl
@[simp] theorem tmx_updBay {f : Bays → Bays} : (s.updBay b f).tmx = s.tmx := rfl
@[simp] theorem tick_updBay {f : Bays → Bays} : (s.updBay b f).tick = s.tick := rfl
@[simp] theorem free_updBay {f : Bays → Bays} : (s.updBay b f).free = s.free := rfl

@[simp] theorem pending_updStrm {f : Stream → Stream} : (s.updStrm b st f).pending = s.pending := rfl
@[simp] theorem mem_updStrm {f : Stream → Stream} : (s.updStrm b st f).mem = s.mem := rfl
@[simp] theorem ms_updStrm {f : Stream → Stream} : (s.updStrm b st f).ms = s.ms := rfl
@[simp] theorem stk_updStrm {f : Stream → Stream} : (s.updStrm b st f).stk = s.stk := rfl
@[simp] theorem hdr_updStrm {f : Stream → Stream} : (s.updStrm b st f).hdr = s.hdr := rfl
@[simp] theorem pools_updStrm {f : Stream → Stream} : (s.updStrm b st f).pools = s.pools := rfl
@[simp] theorem stats_updStrm {f : Stream → Stream} : (s.updStrm b st f).stats = s.stats := rfl
@[simp] theorem codes_updStrm {f : Stream → Stream} : (s.updStrm b st f).codes = s.codes := rfl
@[simp] theorem tideCtr_updStrm {f : Stream → Stream} : (s.updStrm b st f).tideCtr = s.tideCtr := rfl
@[simp] theorem beat_updStrm {f : Stream → Stream} : (s.updStrm b st f).beat = s.beat := rfl
@[simp] theorem run_updStrm {f : Stream → Stream} : (s.updStrm b st f).run = s.run := rfl
@[simp] theorem rcd_updStrm {f : Stream → Stream} : (s.updStrm b st f).rcd = s.rcd := rfl
@[simp] theorem link_updStrm {f : Stream → Stream} : (s.updStrm b st f).link = s.link := rfl
@[simp] theorem sess_updStrm {f : Stream → Stream} : (s.updStrm b st f).sess = s.sess := rfl
@[simp] theorem od_updStrm {f : Stream → Stream} : (s.updStrm b st f).od = s.od := rfl
@[simp] theorem ldr_updStrm {f : Stream → Stream} : (s.updStrm b st f).ldr = s.ldr := rfl
@[simp] theorem faults_updStrm {f : Stream → Stream} : (s.updStrm b st f).faults = s.faults := rfl
@[simp] theorem rst_updStrm {f : Stream → Stream} : (s.updStrm b st f).rst = s.rst := rfl
@[simp] theorem trust_updStrm {f : Stream → Stream} : (s.updStrm b st f).trust = s.trust := rfl
@[simp] theorem bn_updStrm {f : Stream → Stream} : (s.updStrm b st f).bn = s.bn := rfl
@[simp] theorem pwr_updStrm {f : Stream → Stream} : (s.updStrm b st f).pwr = s.pwr := rfl
@[simp] theorem tap_updStrm {f : Stream → Stream} : (s.updStrm b st f).tap = s.tap := rfl
@[simp] theorem tmx_updStrm {f : Stream → Stream} : (s.updStrm b st f).tmx = s.tmx := rfl
@[simp] theorem tick_updStrm {f : Stream → Stream} : (s.updStrm b st f).tick = s.tick := rfl
@[simp] theorem free_updStrm {f : Stream → Stream} : (s.updStrm b st f).free = s.free := rfl

@[simp] theorem pending_mapBays {f : Bay → Bays → Bays} : (s.mapBays f).pending = s.pending := rfl
@[simp] theorem mem_mapBays {f : Bay → Bays → Bays} : (s.mapBays f).mem = s.mem := rfl
@[simp] theorem ms_mapBays {f : Bay → Bays → Bays} : (s.mapBays f).ms = s.ms := rfl
@[simp] theorem stk_mapBays {f : Bay → Bays → Bays} : (s.mapBays f).stk = s.stk := rfl
@[simp] theorem hdr_mapBays {f : Bay → Bays → Bays} : (s.mapBays f).hdr = s.hdr := rfl
@[simp] theorem pools_mapBays {f : Bay → Bays → Bays} : (s.mapBays f).pools = s.pools := rfl
@[simp] theorem stats_mapBays {f : Bay → Bays → Bays} : (s.mapBays f).stats = s.stats := rfl
@[simp] theorem codes_mapBays {f : Bay → Bays → Bays} : (s.mapBays f).codes = s.codes := rfl
@[simp] theorem tideCtr_mapBays {f : Bay → Bays → Bays} : (s.mapBays f).tideCtr = s.tideCtr := rfl
@[simp] theorem beat_mapBays {f : Bay → Bays → Bays} : (s.mapBays f).beat = s.beat := rfl
@[simp] theorem run_mapBays {f : Bay → Bays → Bays} : (s.mapBays f).run = s.run := rfl
@[simp] theorem rcd_mapBays {f : Bay → Bays → Bays} : (s.mapBays f).rcd = s.rcd := rfl
@[simp] theorem link_mapBays {f : Bay → Bays → Bays} : (s.mapBays f).link = s.link := rfl
@[simp] theorem sess_mapBays {f : Bay → Bays → Bays} : (s.mapBays f).sess = s.sess := rfl
@[simp] theorem od_mapBays {f : Bay → Bays → Bays} : (s.mapBays f).od = s.od := rfl
@[simp] theorem ldr_mapBays {f : Bay → Bays → Bays} : (s.mapBays f).ldr = s.ldr := rfl
@[simp] theorem faults_mapBays {f : Bay → Bays → Bays} : (s.mapBays f).faults = s.faults := rfl
@[simp] theorem rst_mapBays {f : Bay → Bays → Bays} : (s.mapBays f).rst = s.rst := rfl
@[simp] theorem trust_mapBays {f : Bay → Bays → Bays} : (s.mapBays f).trust = s.trust := rfl
@[simp] theorem bn_mapBays {f : Bay → Bays → Bays} : (s.mapBays f).bn = s.bn := rfl
@[simp] theorem pwr_mapBays {f : Bay → Bays → Bays} : (s.mapBays f).pwr = s.pwr := rfl
@[simp] theorem tap_mapBays {f : Bay → Bays → Bays} : (s.mapBays f).tap = s.tap := rfl
@[simp] theorem tmx_mapBays {f : Bay → Bays → Bays} : (s.mapBays f).tmx = s.tmx := rfl
@[simp] theorem tick_mapBays {f : Bay → Bays → Bays} : (s.mapBays f).tick = s.tick := rfl
@[simp] theorem free_mapBays {f : Bay → Bays → Bays} : (s.mapBays f).free = s.free := rfl

@[simp] theorem pending_retire : (retire b st s).pending = s.pending := rfl
@[simp] theorem mem_retire : (retire b st s).mem = s.mem := rfl
@[simp] theorem ms_retire : (retire b st s).ms = s.ms := rfl
@[simp] theorem stk_retire : (retire b st s).stk = s.stk := rfl
@[simp] theorem hdr_retire : (retire b st s).hdr = s.hdr := rfl
@[simp] theorem pools_retire : (retire b st s).pools = s.pools := rfl
@[simp] theorem stats_retire : (retire b st s).stats = s.stats := rfl
@[simp] theorem codes_retire : (retire b st s).codes = s.codes := rfl
@[simp] theorem tideCtr_retire : (retire b st s).tideCtr = s.tideCtr := rfl
@[simp] theorem beat_retire : (retire b st s).beat = s.beat := rfl
@[simp] theorem run_retire : (retire b st s).run = s.run := rfl
@[simp] theorem rcd_retire : (retire b st s).rcd = s.rcd := rfl
@[simp] theorem link_retire : (retire b st s).link = s.link := rfl
@[simp] theorem sess_retire : (retire b st s).sess = s.sess := rfl
@[simp] theorem od_retire : (retire b st s).od = s.od := rfl
@[simp] theorem ldr_retire : (retire b st s).ldr = s.ldr := rfl
@[simp] theorem faults_retire : (retire b st s).faults = s.faults := rfl
@[simp] theorem rst_retire : (retire b st s).rst = s.rst := rfl
@[simp] theorem trust_retire : (retire b st s).trust = s.trust := rfl
@[simp] theorem bn_retire : (retire b st s).bn = s.bn := rfl
@[simp] theorem pwr_retire : (retire b st s).pwr = s.pwr := rfl
@[simp] theorem tap_retire : (retire b st s).tap = s.tap := rfl
@[simp] theorem tmx_retire : (retire b st s).tmx = s.tmx := rfl
@[simp] theorem tick_retire : (retire b st s).tick = s.tick := rfl
@[simp] theorem free_retire : (retire b st s).free = s.free := rfl

@[simp] theorem pending_jump {p : BitVec 15} : (jump b st p s).pending = s.pending := rfl
@[simp] theorem mem_jump {p : BitVec 15} : (jump b st p s).mem = s.mem := rfl
@[simp] theorem ms_jump {p : BitVec 15} : (jump b st p s).ms = s.ms := rfl
@[simp] theorem stk_jump {p : BitVec 15} : (jump b st p s).stk = s.stk := rfl
@[simp] theorem hdr_jump {p : BitVec 15} : (jump b st p s).hdr = s.hdr := rfl
@[simp] theorem pools_jump {p : BitVec 15} : (jump b st p s).pools = s.pools := rfl
@[simp] theorem stats_jump {p : BitVec 15} : (jump b st p s).stats = s.stats := rfl
@[simp] theorem codes_jump {p : BitVec 15} : (jump b st p s).codes = s.codes := rfl
@[simp] theorem tideCtr_jump {p : BitVec 15} : (jump b st p s).tideCtr = s.tideCtr := rfl
@[simp] theorem beat_jump {p : BitVec 15} : (jump b st p s).beat = s.beat := rfl
@[simp] theorem run_jump {p : BitVec 15} : (jump b st p s).run = s.run := rfl
@[simp] theorem rcd_jump {p : BitVec 15} : (jump b st p s).rcd = s.rcd := rfl
@[simp] theorem link_jump {p : BitVec 15} : (jump b st p s).link = s.link := rfl
@[simp] theorem sess_jump {p : BitVec 15} : (jump b st p s).sess = s.sess := rfl
@[simp] theorem od_jump {p : BitVec 15} : (jump b st p s).od = s.od := rfl
@[simp] theorem ldr_jump {p : BitVec 15} : (jump b st p s).ldr = s.ldr := rfl
@[simp] theorem faults_jump {p : BitVec 15} : (jump b st p s).faults = s.faults := rfl
@[simp] theorem rst_jump {p : BitVec 15} : (jump b st p s).rst = s.rst := rfl
@[simp] theorem trust_jump {p : BitVec 15} : (jump b st p s).trust = s.trust := rfl
@[simp] theorem bn_jump {p : BitVec 15} : (jump b st p s).bn = s.bn := rfl
@[simp] theorem pwr_jump {p : BitVec 15} : (jump b st p s).pwr = s.pwr := rfl
@[simp] theorem tap_jump {p : BitVec 15} : (jump b st p s).tap = s.tap := rfl
@[simp] theorem tmx_jump {p : BitVec 15} : (jump b st p s).tmx = s.tmx := rfl
@[simp] theorem tick_jump {p : BitVec 15} : (jump b st p s).tick = s.tick := rfl
@[simp] theorem free_jump {p : BitVec 15} : (jump b st p s).free = s.free := rfl

@[simp] theorem pending_stall {c : Cause} {i : Instr} {w : W32} : (Machine.stall b st c i w s).pending = s.pending := rfl
@[simp] theorem mem_stall {c : Cause} {i : Instr} {w : W32} : (Machine.stall b st c i w s).mem = s.mem := rfl
@[simp] theorem ms_stall {c : Cause} {i : Instr} {w : W32} : (Machine.stall b st c i w s).ms = s.ms := rfl
@[simp] theorem stk_stall {c : Cause} {i : Instr} {w : W32} : (Machine.stall b st c i w s).stk = s.stk := rfl
@[simp] theorem hdr_stall {c : Cause} {i : Instr} {w : W32} : (Machine.stall b st c i w s).hdr = s.hdr := rfl
@[simp] theorem pools_stall {c : Cause} {i : Instr} {w : W32} : (Machine.stall b st c i w s).pools = s.pools := rfl
@[simp] theorem stats_stall {c : Cause} {i : Instr} {w : W32} : (Machine.stall b st c i w s).stats = s.stats := rfl
@[simp] theorem codes_stall {c : Cause} {i : Instr} {w : W32} : (Machine.stall b st c i w s).codes = s.codes := rfl
@[simp] theorem tideCtr_stall {c : Cause} {i : Instr} {w : W32} : (Machine.stall b st c i w s).tideCtr = s.tideCtr := rfl
@[simp] theorem beat_stall {c : Cause} {i : Instr} {w : W32} : (Machine.stall b st c i w s).beat = s.beat := rfl
@[simp] theorem run_stall {c : Cause} {i : Instr} {w : W32} : (Machine.stall b st c i w s).run = s.run := rfl
@[simp] theorem rcd_stall {c : Cause} {i : Instr} {w : W32} : (Machine.stall b st c i w s).rcd = s.rcd := rfl
@[simp] theorem link_stall {c : Cause} {i : Instr} {w : W32} : (Machine.stall b st c i w s).link = s.link := rfl
@[simp] theorem sess_stall {c : Cause} {i : Instr} {w : W32} : (Machine.stall b st c i w s).sess = s.sess := rfl
@[simp] theorem od_stall {c : Cause} {i : Instr} {w : W32} : (Machine.stall b st c i w s).od = s.od := rfl
@[simp] theorem ldr_stall {c : Cause} {i : Instr} {w : W32} : (Machine.stall b st c i w s).ldr = s.ldr := rfl
@[simp] theorem faults_stall {c : Cause} {i : Instr} {w : W32} : (Machine.stall b st c i w s).faults = s.faults := rfl
@[simp] theorem rst_stall {c : Cause} {i : Instr} {w : W32} : (Machine.stall b st c i w s).rst = s.rst := rfl
@[simp] theorem trust_stall {c : Cause} {i : Instr} {w : W32} : (Machine.stall b st c i w s).trust = s.trust := rfl
@[simp] theorem bn_stall {c : Cause} {i : Instr} {w : W32} : (Machine.stall b st c i w s).bn = s.bn := rfl
@[simp] theorem pwr_stall {c : Cause} {i : Instr} {w : W32} : (Machine.stall b st c i w s).pwr = s.pwr := rfl
@[simp] theorem tap_stall {c : Cause} {i : Instr} {w : W32} : (Machine.stall b st c i w s).tap = s.tap := rfl
@[simp] theorem tmx_stall {c : Cause} {i : Instr} {w : W32} : (Machine.stall b st c i w s).tmx = s.tmx := rfl
@[simp] theorem tick_stall {c : Cause} {i : Instr} {w : W32} : (Machine.stall b st c i w s).tick = s.tick := rfl
@[simp] theorem free_stall {c : Cause} {i : Instr} {w : W32} : (Machine.stall b st c i w s).free = s.free := rfl

@[simp] theorem pending_putCtr {c : Ctr} {v : W32} : (putCtr b st c v s).pending = s.pending := rfl
@[simp] theorem mem_putCtr {c : Ctr} {v : W32} : (putCtr b st c v s).mem = s.mem := rfl
@[simp] theorem ms_putCtr {c : Ctr} {v : W32} : (putCtr b st c v s).ms = s.ms := rfl
@[simp] theorem stk_putCtr {c : Ctr} {v : W32} : (putCtr b st c v s).stk = s.stk := rfl
@[simp] theorem hdr_putCtr {c : Ctr} {v : W32} : (putCtr b st c v s).hdr = s.hdr := rfl
@[simp] theorem pools_putCtr {c : Ctr} {v : W32} : (putCtr b st c v s).pools = s.pools := rfl
@[simp] theorem stats_putCtr {c : Ctr} {v : W32} : (putCtr b st c v s).stats = s.stats := rfl
@[simp] theorem codes_putCtr {c : Ctr} {v : W32} : (putCtr b st c v s).codes = s.codes := rfl
@[simp] theorem tideCtr_putCtr {c : Ctr} {v : W32} : (putCtr b st c v s).tideCtr = s.tideCtr := rfl
@[simp] theorem beat_putCtr {c : Ctr} {v : W32} : (putCtr b st c v s).beat = s.beat := rfl
@[simp] theorem run_putCtr {c : Ctr} {v : W32} : (putCtr b st c v s).run = s.run := rfl
@[simp] theorem rcd_putCtr {c : Ctr} {v : W32} : (putCtr b st c v s).rcd = s.rcd := rfl
@[simp] theorem link_putCtr {c : Ctr} {v : W32} : (putCtr b st c v s).link = s.link := rfl
@[simp] theorem sess_putCtr {c : Ctr} {v : W32} : (putCtr b st c v s).sess = s.sess := rfl
@[simp] theorem od_putCtr {c : Ctr} {v : W32} : (putCtr b st c v s).od = s.od := rfl
@[simp] theorem ldr_putCtr {c : Ctr} {v : W32} : (putCtr b st c v s).ldr = s.ldr := rfl
@[simp] theorem faults_putCtr {c : Ctr} {v : W32} : (putCtr b st c v s).faults = s.faults := rfl
@[simp] theorem rst_putCtr {c : Ctr} {v : W32} : (putCtr b st c v s).rst = s.rst := rfl
@[simp] theorem trust_putCtr {c : Ctr} {v : W32} : (putCtr b st c v s).trust = s.trust := rfl
@[simp] theorem bn_putCtr {c : Ctr} {v : W32} : (putCtr b st c v s).bn = s.bn := rfl
@[simp] theorem pwr_putCtr {c : Ctr} {v : W32} : (putCtr b st c v s).pwr = s.pwr := rfl
@[simp] theorem tap_putCtr {c : Ctr} {v : W32} : (putCtr b st c v s).tap = s.tap := rfl
@[simp] theorem tmx_putCtr {c : Ctr} {v : W32} : (putCtr b st c v s).tmx = s.tmx := rfl
@[simp] theorem tick_putCtr {c : Ctr} {v : W32} : (putCtr b st c v s).tick = s.tick := rfl
@[simp] theorem free_putCtr {c : Ctr} {v : W32} : (putCtr b st c v s).free = s.free := rfl

@[simp] theorem pending_landCtr {c : Ctr} {v : W32} : (landCtr b st c v s).pending = s.pending := rfl
@[simp] theorem mem_landCtr {c : Ctr} {v : W32} : (landCtr b st c v s).mem = s.mem := rfl
@[simp] theorem ms_landCtr {c : Ctr} {v : W32} : (landCtr b st c v s).ms = s.ms := rfl
@[simp] theorem stk_landCtr {c : Ctr} {v : W32} : (landCtr b st c v s).stk = s.stk := rfl
@[simp] theorem hdr_landCtr {c : Ctr} {v : W32} : (landCtr b st c v s).hdr = s.hdr := rfl
@[simp] theorem pools_landCtr {c : Ctr} {v : W32} : (landCtr b st c v s).pools = s.pools := rfl
@[simp] theorem stats_landCtr {c : Ctr} {v : W32} : (landCtr b st c v s).stats = s.stats := rfl
@[simp] theorem codes_landCtr {c : Ctr} {v : W32} : (landCtr b st c v s).codes = s.codes := rfl
@[simp] theorem tideCtr_landCtr {c : Ctr} {v : W32} : (landCtr b st c v s).tideCtr = s.tideCtr := rfl
@[simp] theorem beat_landCtr {c : Ctr} {v : W32} : (landCtr b st c v s).beat = s.beat := rfl
@[simp] theorem run_landCtr {c : Ctr} {v : W32} : (landCtr b st c v s).run = s.run := rfl
@[simp] theorem rcd_landCtr {c : Ctr} {v : W32} : (landCtr b st c v s).rcd = s.rcd := rfl
@[simp] theorem link_landCtr {c : Ctr} {v : W32} : (landCtr b st c v s).link = s.link := rfl
@[simp] theorem sess_landCtr {c : Ctr} {v : W32} : (landCtr b st c v s).sess = s.sess := rfl
@[simp] theorem od_landCtr {c : Ctr} {v : W32} : (landCtr b st c v s).od = s.od := rfl
@[simp] theorem ldr_landCtr {c : Ctr} {v : W32} : (landCtr b st c v s).ldr = s.ldr := rfl
@[simp] theorem faults_landCtr {c : Ctr} {v : W32} : (landCtr b st c v s).faults = s.faults := rfl
@[simp] theorem rst_landCtr {c : Ctr} {v : W32} : (landCtr b st c v s).rst = s.rst := rfl
@[simp] theorem trust_landCtr {c : Ctr} {v : W32} : (landCtr b st c v s).trust = s.trust := rfl
@[simp] theorem bn_landCtr {c : Ctr} {v : W32} : (landCtr b st c v s).bn = s.bn := rfl
@[simp] theorem pwr_landCtr {c : Ctr} {v : W32} : (landCtr b st c v s).pwr = s.pwr := rfl
@[simp] theorem tap_landCtr {c : Ctr} {v : W32} : (landCtr b st c v s).tap = s.tap := rfl
@[simp] theorem tmx_landCtr {c : Ctr} {v : W32} : (landCtr b st c v s).tmx = s.tmx := rfl
@[simp] theorem tick_landCtr {c : Ctr} {v : W32} : (landCtr b st c v s).tick = s.tick := rfl
@[simp] theorem free_landCtr {c : Ctr} {v : W32} : (landCtr b st c v s).free = s.free := rfl

@[simp] theorem pending_putFlag {g : LFlag} {v : Bool} : (putFlag b g v s).pending = s.pending := rfl
@[simp] theorem mem_putFlag {g : LFlag} {v : Bool} : (putFlag b g v s).mem = s.mem := rfl
@[simp] theorem ms_putFlag {g : LFlag} {v : Bool} : (putFlag b g v s).ms = s.ms := rfl
@[simp] theorem stk_putFlag {g : LFlag} {v : Bool} : (putFlag b g v s).stk = s.stk := rfl
@[simp] theorem hdr_putFlag {g : LFlag} {v : Bool} : (putFlag b g v s).hdr = s.hdr := rfl
@[simp] theorem pools_putFlag {g : LFlag} {v : Bool} : (putFlag b g v s).pools = s.pools := rfl
@[simp] theorem stats_putFlag {g : LFlag} {v : Bool} : (putFlag b g v s).stats = s.stats := rfl
@[simp] theorem codes_putFlag {g : LFlag} {v : Bool} : (putFlag b g v s).codes = s.codes := rfl
@[simp] theorem tideCtr_putFlag {g : LFlag} {v : Bool} : (putFlag b g v s).tideCtr = s.tideCtr := rfl
@[simp] theorem beat_putFlag {g : LFlag} {v : Bool} : (putFlag b g v s).beat = s.beat := rfl
@[simp] theorem run_putFlag {g : LFlag} {v : Bool} : (putFlag b g v s).run = s.run := rfl
@[simp] theorem rcd_putFlag {g : LFlag} {v : Bool} : (putFlag b g v s).rcd = s.rcd := rfl
@[simp] theorem link_putFlag {g : LFlag} {v : Bool} : (putFlag b g v s).link = s.link := rfl
@[simp] theorem sess_putFlag {g : LFlag} {v : Bool} : (putFlag b g v s).sess = s.sess := rfl
@[simp] theorem od_putFlag {g : LFlag} {v : Bool} : (putFlag b g v s).od = s.od := rfl
@[simp] theorem ldr_putFlag {g : LFlag} {v : Bool} : (putFlag b g v s).ldr = s.ldr := rfl
@[simp] theorem faults_putFlag {g : LFlag} {v : Bool} : (putFlag b g v s).faults = s.faults := rfl
@[simp] theorem rst_putFlag {g : LFlag} {v : Bool} : (putFlag b g v s).rst = s.rst := rfl
@[simp] theorem trust_putFlag {g : LFlag} {v : Bool} : (putFlag b g v s).trust = s.trust := rfl
@[simp] theorem bn_putFlag {g : LFlag} {v : Bool} : (putFlag b g v s).bn = s.bn := rfl
@[simp] theorem pwr_putFlag {g : LFlag} {v : Bool} : (putFlag b g v s).pwr = s.pwr := rfl
@[simp] theorem tap_putFlag {g : LFlag} {v : Bool} : (putFlag b g v s).tap = s.tap := rfl
@[simp] theorem tmx_putFlag {g : LFlag} {v : Bool} : (putFlag b g v s).tmx = s.tmx := rfl
@[simp] theorem tick_putFlag {g : LFlag} {v : Bool} : (putFlag b g v s).tick = s.tick := rfl
@[simp] theorem free_putFlag {g : LFlag} {v : Bool} : (putFlag b g v s).free = s.free := rfl

/-! ### Memory updates -/

@[simp] theorem pending_store {a : Nat} {v : List Byte} : (s.store a v).pending = s.pending := rfl
@[simp] theorem hdr_store {a : Nat} {v : List Byte} : (s.store a v).hdr = s.hdr := rfl
@[simp] theorem pools_store {a : Nat} {v : List Byte} : (s.store a v).pools = s.pools := rfl
@[simp] theorem stats_store {a : Nat} {v : List Byte} : (s.store a v).stats = s.stats := rfl
@[simp] theorem tideCtr_store {a : Nat} {v : List Byte} : (s.store a v).tideCtr = s.tideCtr := rfl
@[simp] theorem beat_store {a : Nat} {v : List Byte} : (s.store a v).beat = s.beat := rfl
@[simp] theorem run_store {a : Nat} {v : List Byte} : (s.store a v).run = s.run := rfl
@[simp] theorem rcd_store {a : Nat} {v : List Byte} : (s.store a v).rcd = s.rcd := rfl
@[simp] theorem link_store {a : Nat} {v : List Byte} : (s.store a v).link = s.link := rfl
@[simp] theorem sess_store {a : Nat} {v : List Byte} : (s.store a v).sess = s.sess := rfl
@[simp] theorem od_store {a : Nat} {v : List Byte} : (s.store a v).od = s.od := rfl
@[simp] theorem ldr_store {a : Nat} {v : List Byte} : (s.store a v).ldr = s.ldr := rfl
@[simp] theorem faults_store {a : Nat} {v : List Byte} : (s.store a v).faults = s.faults := rfl
@[simp] theorem rst_store {a : Nat} {v : List Byte} : (s.store a v).rst = s.rst := rfl
@[simp] theorem trust_store {a : Nat} {v : List Byte} : (s.store a v).trust = s.trust := rfl
@[simp] theorem bn_store {a : Nat} {v : List Byte} : (s.store a v).bn = s.bn := rfl
@[simp] theorem pwr_store {a : Nat} {v : List Byte} : (s.store a v).pwr = s.pwr := rfl
@[simp] theorem tap_store {a : Nat} {v : List Byte} : (s.store a v).tap = s.tap := rfl
@[simp] theorem tmx_store {a : Nat} {v : List Byte} : (s.store a v).tmx = s.tmx := rfl
@[simp] theorem tick_store {a : Nat} {v : List Byte} : (s.store a v).tick = s.tick := rfl
@[simp] theorem free_store {a : Nat} {v : List Byte} : (s.store a v).free = s.free := rfl

@[simp] theorem pending_zeroRange {a n : Nat} : (s.zeroRange a n).pending = s.pending := rfl
@[simp] theorem bays_zeroRange {a n : Nat} : (s.zeroRange a n).bays = s.bays := rfl
@[simp] theorem hdr_zeroRange {a n : Nat} : (s.zeroRange a n).hdr = s.hdr := rfl
@[simp] theorem pools_zeroRange {a n : Nat} : (s.zeroRange a n).pools = s.pools := rfl
@[simp] theorem stats_zeroRange {a n : Nat} : (s.zeroRange a n).stats = s.stats := rfl
@[simp] theorem codes_zeroRange {a n : Nat} : (s.zeroRange a n).codes = s.codes := rfl
@[simp] theorem tideCtr_zeroRange {a n : Nat} : (s.zeroRange a n).tideCtr = s.tideCtr := rfl
@[simp] theorem beat_zeroRange {a n : Nat} : (s.zeroRange a n).beat = s.beat := rfl
@[simp] theorem run_zeroRange {a n : Nat} : (s.zeroRange a n).run = s.run := rfl
@[simp] theorem rcd_zeroRange {a n : Nat} : (s.zeroRange a n).rcd = s.rcd := rfl
@[simp] theorem link_zeroRange {a n : Nat} : (s.zeroRange a n).link = s.link := rfl
@[simp] theorem sess_zeroRange {a n : Nat} : (s.zeroRange a n).sess = s.sess := rfl
@[simp] theorem od_zeroRange {a n : Nat} : (s.zeroRange a n).od = s.od := rfl
@[simp] theorem ldr_zeroRange {a n : Nat} : (s.zeroRange a n).ldr = s.ldr := rfl
@[simp] theorem faults_zeroRange {a n : Nat} : (s.zeroRange a n).faults = s.faults := rfl
@[simp] theorem rst_zeroRange {a n : Nat} : (s.zeroRange a n).rst = s.rst := rfl
@[simp] theorem trust_zeroRange {a n : Nat} : (s.zeroRange a n).trust = s.trust := rfl
@[simp] theorem bn_zeroRange {a n : Nat} : (s.zeroRange a n).bn = s.bn := rfl
@[simp] theorem pwr_zeroRange {a n : Nat} : (s.zeroRange a n).pwr = s.pwr := rfl
@[simp] theorem tap_zeroRange {a n : Nat} : (s.zeroRange a n).tap = s.tap := rfl
@[simp] theorem tmx_zeroRange {a n : Nat} : (s.zeroRange a n).tmx = s.tmx := rfl
@[simp] theorem tick_zeroRange {a n : Nat} : (s.zeroRange a n).tick = s.tick := rfl
@[simp] theorem free_zeroRange {a n : Nat} : (s.zeroRange a n).free = s.free := rfl

/-! ### A stream of a bay replaced -/

@[simp] theorem flags_setStrm {x : Bays} {v : Stream} : (x.setStrm st v).flags = x.flags := by cases st <;> rfl
@[simp] theorem flagBusy_setStrm {x : Bays} {v : Stream} : (x.setStrm st v).flagBusy = x.flagBusy := by cases st <;> rfl
@[simp] theorem dq_setStrm {x : Bays} {v : Stream} : (x.setStrm st v).dq = x.dq := by cases st <;> rfl
@[simp] theorem tickets_setStrm {x : Bays} {v : Stream} : (x.setStrm st v).tickets = x.tickets := by cases st <;> rfl
@[simp] theorem issued_setStrm {x : Bays} {v : Stream} : (x.setStrm st v).issued = x.issued := by cases st <;> rfl
@[simp] theorem desc_setStrm {x : Bays} {v : Stream} : (x.setStrm st v).desc = x.desc := by cases st <;> rfl
@[simp] theorem routines_setStrm {x : Bays} {v : Stream} : (x.setStrm st v).routines = x.routines := by cases st <;> rfl
@[simp] theorem tiles_setStrm {x : Bays} {v : Stream} : (x.setStrm st v).tiles = x.tiles := by cases st <;> rfl
@[simp] theorem vec_setStrm {x : Bays} {v : Stream} : (x.setStrm st v).vec = x.vec := by cases st <;> rfl
@[simp] theorem nt_setStrm {x : Bays} {v : Stream} : (x.setStrm st v).nt = x.nt := by cases st <;> rfl
@[simp] theorem tbl_setStrm {x : Bays} {v : Stream} : (x.setStrm st v).tbl = x.tbl := by cases st <;> rfl
@[simp] theorem tide_setStrm {x : Bays} {v : Stream} : (x.setStrm st v).tide = x.tide := by cases st <;> rfl
@[simp] theorem xf_setStrm {x : Bays} {v : Stream} : (x.setStrm st v).xf = x.xf := by cases st <;> rfl
@[simp] theorem prot_setStrm {x : Bays} {v : Stream} : (x.setStrm st v).prot = x.prot := by cases st <;> rfl
@[simp] theorem parkPend_setStrm {x : Bays} {v : Stream} : (x.setStrm st v).parkPend = x.parkPend := by cases st <;> rfl
@[simp] theorem parked_setStrm {x : Bays} {v : Stream} : (x.setStrm st v).parked = x.parked := by cases st <;> rfl
@[simp] theorem npc_setStrm {x : Bays} {v : Stream} : (x.setStrm st v).npc = x.npc := by cases st <;> rfl
@[simp] theorem moved_setStrm {x : Bays} {v : Stream} : (x.setStrm st v).moved = x.moved := by cases st <;> rfl
@[simp] theorem phase_setStrm {x : Bays} {v : Stream} : (x.setStrm st v).phase = x.phase := by cases st <;> rfl
@[simp] theorem keyBuf_setStrm {x : Bays} {v : Stream} : (x.setStrm st v).keyBuf = x.keyBuf := by cases st <;> rfl
@[simp] theorem grant_setStrm {x : Bays} {v : Stream} : (x.setStrm st v).grant = x.grant := by cases st <;> rfl
@[simp] theorem strm_setStrm {x : Bays} {v : Stream} : (x.setStrm st v).strm st = v := by cases st <;> rfl

theorem strm_setStrm_ne {x : Bays} {v : Stream} {r : Strm} (h : r ≠ st) : (x.setStrm st v).strm r = x.strm r := by
  cases st <;> cases r <;> first | rfl | exact absurd rfl h

@[simp] theorem strm_flags {x : Bays} {v : BitVec 64} : ({ x with flags := v } : Bays).strm st = x.strm st := by
  cases st <;> rfl

@[simp] theorem strm_moved {x : Bays} {v : Bool} : ({ x with moved := v } : Bays).strm st = x.strm st := by
  cases st <;> rfl

/-! ### Reading a bay or a stream back -/

@[simp] theorem bay_setBay {x : Bays} : (s.setBay b x).bay b = x := by
  simp [State.setBay, State.bay]

theorem bay_setBay_ne {x : Bays} {d : Bay} (h : d ≠ b) : (s.setBay b x).bay d = s.bay d := by
  have h' : ¬ b.val = d.val := fun e => h (Fin.ext e.symm)
  simp [State.setBay, State.bay, h']

@[simp] theorem bay_updBay {f : Bays → Bays} : (s.updBay b f).bay b = { f (s.bay b) with moved := true } := bay_setBay

theorem bay_updBay_ne {f : Bays → Bays} {d : Bay} (h : d ≠ b) : (s.updBay b f).bay d = s.bay d := bay_setBay_ne h

theorem strm_updBay {f : Bays → Bays} : (s.updBay b f).strm b st = (f (s.bay b)).strm st :=
  (congrArg (fun y => Bays.strm y st) bay_updBay).trans strm_moved

@[simp] theorem strm_updStrm {f : Stream → Stream} : (s.updStrm b st f).strm b st = f (s.strm b st) :=
  strm_updBay.trans strm_setStrm

theorem strm_updStrm_ne {f : Stream → Stream} {d : Bay} {r : Strm} (h : d ≠ b ∨ r ≠ st) :
    (s.updStrm b st f).strm d r = s.strm d r := by
  by_cases hd : d = b
  · subst hd
    exact strm_updBay.trans (strm_setStrm_ne (h.resolve_left (fun c => c rfl)))
  · exact congrArg (fun y => Bays.strm y r) (bay_updBay_ne hd)

@[simp] theorem bay_mapBays {f : Bay → Bays → Bays} : (s.mapBays f).bay b = f b (s.bay b) := by
  simp [State.mapBays, State.bay]

/-! ### Updates of a stream -/

@[simp] theorem imem_goto {x : Stream} {p : BitVec 15} {l : List LoopLvl} : (x.goto p l).imem = x.imem := rfl
@[simp] theorem dmem_goto {x : Stream} {p : BitVec 15} {l : List LoopLvl} : (x.goto p l).dmem = x.dmem := rfl
@[simp] theorem pc_goto {x : Stream} {p : BitVec 15} {l : List LoopLvl} : (x.goto p l).pc = p := rfl
@[simp] theorem ctr_goto {x : Stream} {p : BitVec 15} {l : List LoopLvl} : (x.goto p l).ctr = x.ctr := rfl
@[simp] theorem cmp_goto {x : Stream} {p : BitVec 15} {l : List LoopLvl} : (x.goto p l).cmp = x.cmp := rfl
@[simp] theorem loops_goto {x : Stream} {p : BitVec 15} {l : List LoopLvl} : (x.goto p l).loops = l := rfl
@[simp] theorem calls_goto {x : Stream} {p : BitVec 15} {l : List LoopLvl} : (x.goto p l).calls = x.calls := rfl
@[simp] theorem status_goto {x : Stream} {p : BitVec 15} {l : List LoopLvl} : (x.goto p l).status = .run := rfl
@[simp] theorem fault_goto {x : Stream} {p : BitVec 15} {l : List LoopLvl} : (x.goto p l).fault = x.fault := rfl
@[simp] theorem fpc_goto {x : Stream} {p : BitVec 15} {l : List LoopLvl} : (x.goto p l).fpc = 0#15 := rfl
@[simp] theorem haltAge_goto {x : Stream} {p : BitVec 15} {l : List LoopLvl} : (x.goto p l).haltAge = x.haltAge := rfl
@[simp] theorem wait_goto {x : Stream} {p : BitVec 15} {l : List LoopLvl} : (x.goto p l).wait = none := rfl
@[simp] theorem stall_goto {x : Stream} {p : BitVec 15} {l : List LoopLvl} : (x.goto p l).stall = x.stall := rfl
@[simp] theorem frame_goto {x : Stream} {p : BitVec 15} {l : List LoopLvl} : (x.goto p l).frame = x.frame := rfl
@[simp] theorem busy_goto {x : Stream} {p : BitVec 15} {l : List LoopLvl} : (x.goto p l).busy = x.busy := rfl
@[simp] theorem pools_goto {x : Stream} {p : BitVec 15} {l : List LoopLvl} : (x.goto p l).pools = x.pools := rfl
@[simp] theorem takes_goto {x : Stream} {p : BitVec 15} {l : List LoopLvl} : (x.goto p l).takes = x.takes := rfl
@[simp] theorem strobe_goto {x : Stream} {p : BitVec 15} {l : List LoopLvl} : (x.goto p l).strobe = true := rfl

@[simp] theorem imem_next {x : Stream} : x.next.imem = x.imem := rfl
@[simp] theorem dmem_next {x : Stream} : x.next.dmem = x.dmem := rfl
@[simp] theorem pc_next {x : Stream} : x.next.pc = (loopNext x.pc x.loops).1 := rfl
@[simp] theorem ctr_next {x : Stream} : x.next.ctr = x.ctr := rfl
@[simp] theorem cmp_next {x : Stream} : x.next.cmp = x.cmp := rfl
@[simp] theorem loops_next {x : Stream} : x.next.loops = (loopNext x.pc x.loops).2 := rfl
@[simp] theorem calls_next {x : Stream} : x.next.calls = x.calls := rfl
@[simp] theorem status_next {x : Stream} : x.next.status = .run := rfl
@[simp] theorem fault_next {x : Stream} : x.next.fault = x.fault := rfl
@[simp] theorem fpc_next {x : Stream} : x.next.fpc = 0#15 := rfl
@[simp] theorem haltAge_next {x : Stream} : x.next.haltAge = x.haltAge := rfl
@[simp] theorem wait_next {x : Stream} : x.next.wait = none := rfl
@[simp] theorem stall_next {x : Stream} : x.next.stall = x.stall := rfl
@[simp] theorem frame_next {x : Stream} : x.next.frame = x.frame := rfl
@[simp] theorem busy_next {x : Stream} : x.next.busy = x.busy := rfl
@[simp] theorem pools_next {x : Stream} : x.next.pools = x.pools := rfl
@[simp] theorem takes_next {x : Stream} : x.next.takes = x.takes := rfl
@[simp] theorem strobe_next {x : Stream} : x.next.strobe = true := rfl

@[simp] theorem imem_setCtr {x : Stream} {c : Ctr} {v : W32} : (x.setCtr c v).imem = x.imem := rfl
@[simp] theorem dmem_setCtr {x : Stream} {c : Ctr} {v : W32} : (x.setCtr c v).dmem = x.dmem := rfl
@[simp] theorem pc_setCtr {x : Stream} {c : Ctr} {v : W32} : (x.setCtr c v).pc = x.pc := rfl
@[simp] theorem ctr_setCtr {x : Stream} {c : Ctr} {v : W32} : (x.setCtr c v).ctr = x.ctr.set c v := rfl
@[simp] theorem cmp_setCtr {x : Stream} {c : Ctr} {v : W32} : (x.setCtr c v).cmp = x.cmp := rfl
@[simp] theorem loops_setCtr {x : Stream} {c : Ctr} {v : W32} : (x.setCtr c v).loops = x.loops := rfl
@[simp] theorem calls_setCtr {x : Stream} {c : Ctr} {v : W32} : (x.setCtr c v).calls = x.calls := rfl
@[simp] theorem status_setCtr {x : Stream} {c : Ctr} {v : W32} : (x.setCtr c v).status = x.status := rfl
@[simp] theorem fault_setCtr {x : Stream} {c : Ctr} {v : W32} : (x.setCtr c v).fault = x.fault := rfl
@[simp] theorem fpc_setCtr {x : Stream} {c : Ctr} {v : W32} : (x.setCtr c v).fpc = x.fpc := rfl
@[simp] theorem haltAge_setCtr {x : Stream} {c : Ctr} {v : W32} : (x.setCtr c v).haltAge = x.haltAge := rfl
@[simp] theorem wait_setCtr {x : Stream} {c : Ctr} {v : W32} : (x.setCtr c v).wait = x.wait := rfl
@[simp] theorem stall_setCtr {x : Stream} {c : Ctr} {v : W32} : (x.setCtr c v).stall = x.stall := rfl
@[simp] theorem frame_setCtr {x : Stream} {c : Ctr} {v : W32} : (x.setCtr c v).frame = x.frame := rfl
@[simp] theorem busy_setCtr {x : Stream} {c : Ctr} {v : W32} : (x.setCtr c v).busy = x.busy := rfl
@[simp] theorem pools_setCtr {x : Stream} {c : Ctr} {v : W32} : (x.setCtr c v).pools = x.pools := rfl
@[simp] theorem takes_setCtr {x : Stream} {c : Ctr} {v : W32} : (x.setCtr c v).takes = x.takes := rfl
@[simp] theorem strobe_setCtr {x : Stream} {c : Ctr} {v : W32} : (x.setCtr c v).strobe = x.strobe := rfl

@[simp] theorem imem_setCmp {x : Stream} {k : Fin 8} {v : Bool} : (x.setCmp k v).imem = x.imem := rfl
@[simp] theorem dmem_setCmp {x : Stream} {k : Fin 8} {v : Bool} : (x.setCmp k v).dmem = x.dmem := rfl
@[simp] theorem pc_setCmp {x : Stream} {k : Fin 8} {v : Bool} : (x.setCmp k v).pc = x.pc := rfl
@[simp] theorem ctr_setCmp {x : Stream} {k : Fin 8} {v : Bool} : (x.setCmp k v).ctr = x.ctr := rfl
@[simp] theorem cmp_setCmp {x : Stream} {k : Fin 8} {v : Bool} : (x.setCmp k v).cmp = setBit x.cmp k v := rfl
@[simp] theorem loops_setCmp {x : Stream} {k : Fin 8} {v : Bool} : (x.setCmp k v).loops = x.loops := rfl
@[simp] theorem calls_setCmp {x : Stream} {k : Fin 8} {v : Bool} : (x.setCmp k v).calls = x.calls := rfl
@[simp] theorem status_setCmp {x : Stream} {k : Fin 8} {v : Bool} : (x.setCmp k v).status = x.status := rfl
@[simp] theorem fault_setCmp {x : Stream} {k : Fin 8} {v : Bool} : (x.setCmp k v).fault = x.fault := rfl
@[simp] theorem fpc_setCmp {x : Stream} {k : Fin 8} {v : Bool} : (x.setCmp k v).fpc = x.fpc := rfl
@[simp] theorem haltAge_setCmp {x : Stream} {k : Fin 8} {v : Bool} : (x.setCmp k v).haltAge = x.haltAge := rfl
@[simp] theorem wait_setCmp {x : Stream} {k : Fin 8} {v : Bool} : (x.setCmp k v).wait = x.wait := rfl
@[simp] theorem stall_setCmp {x : Stream} {k : Fin 8} {v : Bool} : (x.setCmp k v).stall = x.stall := rfl
@[simp] theorem frame_setCmp {x : Stream} {k : Fin 8} {v : Bool} : (x.setCmp k v).frame = x.frame := rfl
@[simp] theorem busy_setCmp {x : Stream} {k : Fin 8} {v : Bool} : (x.setCmp k v).busy = x.busy := rfl
@[simp] theorem pools_setCmp {x : Stream} {k : Fin 8} {v : Bool} : (x.setCmp k v).pools = x.pools := rfl
@[simp] theorem takes_setCmp {x : Stream} {k : Fin 8} {v : Bool} : (x.setCmp k v).takes = x.takes := rfl
@[simp] theorem strobe_setCmp {x : Stream} {k : Fin 8} {v : Bool} : (x.setCmp k v).strobe = x.strobe := rfl

@[simp] theorem imem_mark {x : Stream} {c : Ctr} {v : Bool} : (x.mark c v).imem = x.imem := rfl
@[simp] theorem dmem_mark {x : Stream} {c : Ctr} {v : Bool} : (x.mark c v).dmem = x.dmem := rfl
@[simp] theorem pc_mark {x : Stream} {c : Ctr} {v : Bool} : (x.mark c v).pc = x.pc := rfl
@[simp] theorem ctr_mark {x : Stream} {c : Ctr} {v : Bool} : (x.mark c v).ctr = x.ctr := rfl
@[simp] theorem cmp_mark {x : Stream} {c : Ctr} {v : Bool} : (x.mark c v).cmp = x.cmp := rfl
@[simp] theorem loops_mark {x : Stream} {c : Ctr} {v : Bool} : (x.mark c v).loops = x.loops := rfl
@[simp] theorem calls_mark {x : Stream} {c : Ctr} {v : Bool} : (x.mark c v).calls = x.calls := rfl
@[simp] theorem status_mark {x : Stream} {c : Ctr} {v : Bool} : (x.mark c v).status = x.status := rfl
@[simp] theorem fault_mark {x : Stream} {c : Ctr} {v : Bool} : (x.mark c v).fault = x.fault := rfl
@[simp] theorem fpc_mark {x : Stream} {c : Ctr} {v : Bool} : (x.mark c v).fpc = x.fpc := rfl
@[simp] theorem haltAge_mark {x : Stream} {c : Ctr} {v : Bool} : (x.mark c v).haltAge = x.haltAge := rfl
@[simp] theorem wait_mark {x : Stream} {c : Ctr} {v : Bool} : (x.mark c v).wait = x.wait := rfl
@[simp] theorem stall_mark {x : Stream} {c : Ctr} {v : Bool} : (x.mark c v).stall = x.stall := rfl
@[simp] theorem frame_mark {x : Stream} {c : Ctr} {v : Bool} : (x.mark c v).frame = x.frame := rfl
@[simp] theorem busy_mark {x : Stream} {c : Ctr} {v : Bool} : (x.mark c v).busy = setBit x.busy c v := rfl
@[simp] theorem pools_mark {x : Stream} {c : Ctr} {v : Bool} : (x.mark c v).pools = x.pools := rfl
@[simp] theorem takes_mark {x : Stream} {c : Ctr} {v : Bool} : (x.mark c v).takes = x.takes := rfl
@[simp] theorem strobe_mark {x : Stream} {c : Ctr} {v : Bool} : (x.mark c v).strobe = x.strobe := rfl

@[simp] theorem imem_halted {x : Stream} {c : Nat} {p : BitVec 15} {k : Bool} : (x.halted c p k).imem = x.imem := rfl
@[simp] theorem dmem_halted {x : Stream} {c : Nat} {p : BitVec 15} {k : Bool} : (x.halted c p k).dmem = x.dmem := rfl
@[simp] theorem pc_halted {x : Stream} {c : Nat} {p : BitVec 15} {k : Bool} : (x.halted c p k).pc = x.pc := rfl
@[simp] theorem ctr_halted {x : Stream} {c : Nat} {p : BitVec 15} {k : Bool} : (x.halted c p k).ctr = x.ctr := rfl
@[simp] theorem cmp_halted {x : Stream} {c : Nat} {p : BitVec 15} {k : Bool} : (x.halted c p k).cmp = x.cmp := rfl
@[simp] theorem loops_halted {x : Stream} {c : Nat} {p : BitVec 15} {k : Bool} : (x.halted c p k).loops = x.loops := rfl
@[simp] theorem calls_halted {x : Stream} {c : Nat} {p : BitVec 15} {k : Bool} : (x.halted c p k).calls = x.calls := rfl
@[simp] theorem status_halted {x : Stream} {c : Nat} {p : BitVec 15} {k : Bool} : (x.halted c p k).status = .halted := rfl
@[simp] theorem fault_halted {x : Stream} {c : Nat} {p : BitVec 15} {k : Bool} : (x.halted c p k).fault = BitVec.ofNat 8 c := rfl
@[simp] theorem fpc_halted {x : Stream} {c : Nat} {p : BitVec 15} {k : Bool} : (x.halted c p k).fpc = p := rfl
@[simp] theorem haltAge_halted {x : Stream} {c : Nat} {p : BitVec 15} {k : Bool} : (x.halted c p k).haltAge = none := rfl
@[simp] theorem wait_halted {x : Stream} {c : Nat} {p : BitVec 15} {k : Bool} : (x.halted c p k).wait = if k then x.wait else x.dueWait := rfl
@[simp] theorem stall_halted {x : Stream} {c : Nat} {p : BitVec 15} {k : Bool} : (x.halted c p k).stall = x.stall := rfl
@[simp] theorem frame_halted {x : Stream} {c : Nat} {p : BitVec 15} {k : Bool} : (x.halted c p k).frame = x.frame := rfl
@[simp] theorem busy_halted {x : Stream} {c : Nat} {p : BitVec 15} {k : Bool} : (x.halted c p k).busy = x.busy := rfl
@[simp] theorem pools_halted {x : Stream} {c : Nat} {p : BitVec 15} {k : Bool} : (x.halted c p k).pools = x.pools := rfl
@[simp] theorem takes_halted {x : Stream} {c : Nat} {p : BitVec 15} {k : Bool} : (x.halted c p k).takes = x.takes := rfl
@[simp] theorem strobe_halted {x : Stream} {c : Nat} {p : BitVec 15} {k : Bool} : (x.halted c p k).strobe = x.strobe := rfl

@[simp] theorem imem_gonged {x : Stream} {c : Nat} : (x.gonged c).imem = x.imem := rfl
@[simp] theorem dmem_gonged {x : Stream} {c : Nat} : (x.gonged c).dmem = x.dmem := rfl
@[simp] theorem pc_gonged {x : Stream} {c : Nat} : (x.gonged c).pc = x.pc := rfl
@[simp] theorem ctr_gonged {x : Stream} {c : Nat} : (x.gonged c).ctr = x.ctr := rfl
@[simp] theorem cmp_gonged {x : Stream} {c : Nat} : (x.gonged c).cmp = x.cmp := rfl
@[simp] theorem loops_gonged {x : Stream} {c : Nat} : (x.gonged c).loops = x.loops := rfl
@[simp] theorem calls_gonged {x : Stream} {c : Nat} : (x.gonged c).calls = x.calls := rfl
@[simp] theorem status_gonged {x : Stream} {c : Nat} : (x.gonged c).status = .halted := rfl
@[simp] theorem fault_gonged {x : Stream} {c : Nat} : (x.gonged c).fault = BitVec.ofNat 8 c := rfl
@[simp] theorem fpc_gonged {x : Stream} {c : Nat} : (x.gonged c).fpc = x.pc := rfl
@[simp] theorem haltAge_gonged {x : Stream} {c : Nat} : (x.gonged c).haltAge = none := rfl
@[simp] theorem wait_gonged {x : Stream} {c : Nat} : (x.gonged c).wait = none := rfl
@[simp] theorem stall_gonged {x : Stream} {c : Nat} : (x.gonged c).stall = x.stall := rfl
@[simp] theorem frame_gonged {x : Stream} {c : Nat} : (x.gonged c).frame = x.frame := rfl
@[simp] theorem busy_gonged {x : Stream} {c : Nat} : (x.gonged c).busy = x.busy := rfl
@[simp] theorem pools_gonged {x : Stream} {c : Nat} : (x.gonged c).pools = x.pools := rfl
@[simp] theorem takes_gonged {x : Stream} {c : Nat} : (x.gonged c).takes = x.takes := rfl
@[simp] theorem strobe_gonged {x : Stream} {c : Nat} : (x.gonged c).strobe = x.strobe := rfl

end Sys2Proof.Laws.State
end

