-- ==== Sys2Proof/Laws/Memory.lean ====
section
/-! SUPPORT. The laws of the memory: every operation keeps the canonical form, a byte reads as what was stored there, and a store leaves every other byte alone. -/

namespace Sys2Proof.Laws.Memory

open Sys2Proof Sys2Proof.Machine Sys2Proof.Laws.Sparse

variable {m : List Host.Cell} {s : State}

/-! ### Single bytes and runs -/

theorem wf_wr {a : Nat} {v : Byte} (h : Memory.wf m = true) : Memory.wf (Memory.wr m a v) = true := wf_set h

theorem rd_wr_self {a : Nat} {v : Byte} (h : Memory.wf m = true) : Memory.rd (Memory.wr m a v) a = v := get_set_self h

theorem rd_wr_ne {a x : Nat} {v : Byte} (h : x ≠ a) : Memory.rd (Memory.wr m a v) x = Memory.rd m x := get_set_ne h

theorem wf_zero {lo hi : Nat} (h : Memory.wf m = true) : Memory.wf (Memory.zero m lo hi) = true := wf_erase h

theorem rd_zero {lo hi x : Nat} :
    Memory.rd (Memory.zero m lo hi) x = if lo ≤ x ∧ x < hi then 0#8 else Memory.rd m x := by
  have h := get_erase (d := memDefault) (m := m) (p := fun a => decide (lo ≤ a) && decide (a < hi)) (k := x)
  simpa [Memory.rd, Memory.zero, memDefault, Bool.and_eq_true] using h

theorem wf_wrRun {keep : Nat → Bool} {a : Nat} {vs : List Byte} (h : Memory.wf m = true) :
    Memory.wf (Memory.wrRun keep m a vs) = true := by
  induction vs generalizing m a with
  | nil => exact h
  | cons v vs ih =>
    simp only [Memory.wrRun]
    split
    · exact ih (wf_wr h)
    · exact ih h

/-- A run of writes leaves the bytes outside it alone. -/
theorem rd_wrRun_outside {keep : Nat → Bool} {a x : Nat} {vs : List Byte} (h : x < a ∨ a + vs.length ≤ x) :
    Memory.rd (Memory.wrRun keep m a vs) x = Memory.rd m x := by
  induction vs generalizing m a with
  | nil => rfl
  | cons v vs ih =>
    simp only [List.length_cons] at h
    simp only [Memory.wrRun]
    rw [ih (by omega)]
    split
    · exact rd_wr_ne (by omega)
    · rfl

/-- Inside a run of writes a kept byte reads as what was written there, any other as before. -/
theorem rd_wrRun_inside {keep : Nat → Bool} {a i : Nat} {vs : List Byte} (hm : Memory.wf m = true) (hi : i < vs.length) :
    Memory.rd (Memory.wrRun keep m a vs) (a + i) = if keep (a + i) then vs[i] else Memory.rd m (a + i) := by
  induction vs generalizing m a i with
  | nil => exact absurd hi (Nat.not_lt_zero i)
  | cons v vs ih =>
    simp only [Memory.wrRun]
    cases i with
    | zero =>
      rw [rd_wrRun_outside (Or.inl (by omega))]
      rcases hk : keep a with _ | _
      · simp
      · simp [rd_wr_self hm]
    | succ j =>
      have hj : j < vs.length := by simpa using hi
      have ea : a + (j + 1) = a + 1 + j := by omega
      have hne : Memory.rd (if keep a then Memory.wr m a v else m) (a + 1 + j) = Memory.rd m (a + 1 + j) := by
        split
        · exact rd_wr_ne (by omega)
        · rfl
      have hw : Memory.wf (if keep a then Memory.wr m a v else m) = true := by
        split
        · exact wf_wr hm
        · exact hm
      rw [ea, ih hw hj, hne]
      simp

/-! ### Stores of the block -/

/-- A store keeps the canonical form. -/
theorem memInv_store {a req : Nat} {v : List Byte} (h : MemInv s) : MemInv (s.store a v req) := wf_wrRun h

theorem memInv_zeroRange {lo len : Nat} (h : MemInv s) : MemInv (s.zeroRange lo len) := wf_zero h

/-- A store leaves every byte outside it as it was. -/
theorem rd_store_outside {a x req : Nat} {v : List Byte} (h : x < a ∨ a + v.length ≤ x) : (s.store a v req).rd x = s.rd x :=
  rd_wrRun_outside h

/-- A store puts its bytes where no uncorrectable word or sector is covered only in part (R247, R287). -/
theorem rd_store_inside {a i req : Nat} {v : List Byte} (hm : MemInv s) (hi : i < v.length) :
    (s.store a v req).rd (a + i) = if storeKeeps s a v.length (a + i) then v[i] else s.rd (a + i) :=
  rd_wrRun_inside hm hi

theorem rd_zeroRange {lo len x : Nat} : (s.zeroRange lo len).rd x = if lo ≤ x ∧ x < lo + len then 0#8 else s.rd x := rd_zero

/-- A sector stored back with its errors (R287). -/
theorem memInv_sectorPut {a : Nat} {v : List Byte} (h : MemInv s) : MemInv (sectorPut a v s) := wf_wrRun h

/-- The compute die stopped: the stacks keep nothing, every other address is as it was (R448). -/
theorem memInv_stopDie (h : MemInv s) : MemInv (stopDie s) := wf_erase h

theorem rd_stopDie {x : Nat} : (stopDie s).rd x = if inStack x = true then 0#8 else s.rd x := get_erase

theorem memInv_reset : MemInv State.reset := rfl

/-- States with one memory read alike. -/
theorem rd_congr {t : State} (h : t.mem = s.mem) (x : Nat) : t.rd x = s.rd x := congrArg (fun k => Memory.rd k x) h

theorem memInv_congr {t : State} (h : t.mem = s.mem) (hi : MemInv s) : MemInv t :=
  (congrArg (fun k => Memory.wf k) h).trans hi

end Sys2Proof.Laws.Memory
end

