-- ==== Sys2Proof/Laws/Ops.lean ====
section
/-! SUPPORT. What each shared operation can do, said once: issuing, retiring, the record ring, counting a fault, halting a stream, throttle events, Gong, and the step itself. -/

namespace Sys2Proof.Laws.Ops

open Sys2Proof Sys2Proof.Machine Sys2Proof.Laws.State Sys2Proof.Laws.Memory

variable {s : State} {b : Bay} {st : Strm}

/-! ### The step -/

theorem step_empty (h : s.pending = []) : step s = .next (tick s) := by
  simp [step, h]

theorem step_front {c : Instr} {r : List Instr} (h : s.pending = c :: r) : step s = exec c { s with pending := r } := by
  simp [step, h]

/-! ### Issue and retirement -/

theorem mayIssue_iff {c : Instr} : mayIssue b st c s = true ↔ canIssue b st c s = true ∧ fetchBad b st s = none := by
  simp only [canIssue, mayIssue, alive, dieRuns, strmReady, Option.isNone_iff_eq_none, Bool.and_eq_true]
  cases s.tap.cdStopped <;> simp

/-- All an issue can do: nothing, fault 0x41 of an uncorrectable fetch, an OTHER wait for a busy counter, or the
instruction's own effect. -/
theorem issue_cases {c : Instr} {rs : List Ctr} {k : State → State} :
    (canIssue b st c s = false ∧ issue b st c rs k s = s) ∨
    (∃ o, canIssue b st c s = true ∧ fetchBad b st s = some o ∧ issue b st c rs k s = trap b st 0x41 (ueAt 0x10 b o s)) ∨
    (mayIssue b st c s = true ∧ (s.strm b st).free rs = false ∧ issue b st c rs k s = Machine.stall b st .other c 0#32 s) ∨
    (mayIssue b st c s = true ∧ (s.strm b st).free rs = true ∧ issue b st c rs k s = k s) := by
  rcases hc : canIssue b st c s with _ | _
  · exact .inl ⟨rfl, by simp [issue, hc]⟩
  · rcases hb : fetchBad b st s with _ | o
    · have hm := mayIssue_iff.2 ⟨hc, hb⟩
      rcases hf : (s.strm b st).free rs with _ | _
      · exact .inr (.inr (.inl ⟨hm, rfl, by simp [issue, hc, hb, hf]⟩))
      · exact .inr (.inr (.inr ⟨hm, rfl, by simp [issue, hc, hb, hf]⟩))
    · exact .inr (.inl ⟨o, rfl, rfl, by simp [issue, hc, hb]⟩)

/-- An instruction that may issue and waits for no counter has its own effect. -/
theorem issue_ready {c : Instr} {rs : List Ctr} {k : State → State} (h : mayIssue b st c s = true)
    (hf : (s.strm b st).free rs = true) : issue b st c rs k s = k s := by
  simp [issue, mayIssue_iff.1 h, hf]

theorem free_nil {x : Stream} : x.free [] = true := rfl

theorem onlyBay_updBay {f : Bays → Bays} : onlyBay b s (s.updBay b f) := ⟨rfl, fun _ h => bay_updBay_ne h⟩

/-- Changing a stream changes nothing else, and its bay has moved. -/
theorem onlyStrm_updStrm {f : Stream → Stream} : onlyStrm b st s (s.updStrm b st f) := by
  refine ⟨onlyBay_updBay, ?_⟩
  rw [strm_updStrm]
  exact bay_updBay

theorem onlyStrm_retire : onlyStrm b st s (retire b st s) := onlyStrm_updStrm

theorem strm_retire : (retire b st s).strm b st = (s.strm b st).next := strm_updStrm

theorem onlyStrm_putCtr {c : Ctr} {v : W32} : onlyStrm b st s (putCtr b st c v s) := onlyStrm_updStrm

theorem strm_putCtr {c : Ctr} {v : W32} : (putCtr b st c v s).strm b st = ((s.strm b st).setCtr c v).next := strm_updStrm

theorem onlyStrm_jump {p : BitVec 15} : onlyStrm b st s (jump b st p s) := onlyStrm_updStrm

theorem strm_jump {p : BitVec 15} : (jump b st p s).strm b st = (s.strm b st).goto p (s.strm b st).loops := strm_updStrm

/-- A wait leaves every other stream and the rest of the block alone. -/
theorem strm_stall_ne {c : Cause} {i : Instr} {w : W32} {d : Bay} {r : Strm} (h : d ≠ b ∨ r ≠ st) :
    (Machine.stall b st c i w s).strm d r = s.strm d r := by
  by_cases hd : d = b
  · subst hd
    exact (congrArg (fun y => Bays.strm y r) bay_setBay).trans (strm_setStrm_ne (h.resolve_left (fun c => c rfl)))
  · exact congrArg (fun y => Bays.strm y r) (bay_setBay_ne hd)

/-- A wait puts the stream in WAIT for that command (R198). -/
theorem status_stall {c : Cause} {i : Instr} {w : W32} : ((Machine.stall b st c i w s).strm b st).status = .wait := by
  have h : (Machine.stall b st c i w s).strm b st = (s.strm b st).waiting c s.od.waitTimeout i w :=
    (congrArg (fun y => Bays.strm y st) bay_setBay).trans strm_setStrm
  rw [h]
  simp only [Stream.waiting]
  split
  · split
    · rename_i h
      exact h.1
    · rfl
  · rfl

/-! ### Stores seen from the bays -/

theorem bay_store {a req : Nat} {v : List Byte} : ∃ p, (s.store a v req).bay b = { s.bay b with prot := p } :=
  ⟨_, by simp [State.store, State.bay]; rfl⟩

@[simp] theorem strm_store {a req : Nat} {v : List Byte} : (s.store a v req).strm b st = s.strm b st := by
  obtain ⟨p, h⟩ := bay_store (s := s) (b := b) (a := a) (v := v) (req := req)
  unfold State.strm
  rw [h]
  cases st <;> rfl

/-! ### Earlier requests to a sector (R290) -/

/-- What every request that lands keeps, landing a sector keeps. -/
theorem landSector_induct {a : Nat} (P : State → Prop) (h : ∀ (n : Stk) (q : MemReq) (t : State), q.addr / 64 = a / 64 → P t →
    P (landReq n q (q.data.map (fun d => d.take (64 - q.addr % 64))) t)) (h0 : P s) : P (landSector a s) := by
  have inner : ∀ (n : Stk) (l : List MemReq) (t : State), (∀ q ∈ l, q.addr / 64 = a / 64) → P t →
      P (l.foldl (fun (s : State) q => landReq n q (q.data.map (fun d => d.take (64 - q.addr % 64))) s) t) := by
    intro n l
    induction l with
    | nil => exact fun _ _ h => h
    | cons q r ih => exact fun t hl ht => ih _ (fun p hp => hl p (by simp [hp])) (h n q t (hl q (by simp)) ht)
  have outer : ∀ (l : List Stk) (t : State), P t → P (l.foldl (fun (s : State) n =>
      (s.stk[n].waitsAt a).foldl (fun (s : State) q => landReq n q (q.data.map (fun d => d.take (64 - q.addr % 64))) s) s) t) := by
    intro l
    induction l with
    | nil => exact fun _ h => h
    | cons n r ih =>
      refine fun t ht => ih _ (inner n _ t (fun q hq => ?_) ht)
      have hm := (List.mem_filter.1 hq).2
      simp only [Bool.and_eq_true, beq_iff_eq] at hm
      exact hm.2
  exact outer _ s h0

/-- A request that lands touches the memory, what protects it, its stack, and nothing else. -/
theorem landReq_frame {n : Stk} {q : MemReq} {d : Option (List Byte)} : ∃ r : State,
    landReq n q d s = { s with mem := r.mem, ms := r.ms, bays := r.bays, codes := r.codes, stk := r.stk } := by
  cases d with
  | none => exact ⟨landReq n q none s, rfl⟩
  | some v => exact ⟨landReq n q (some v) s, rfl⟩

theorem landSector_frame {a : Nat} : ∃ r : State,
    landSector a s = { s with mem := r.mem, ms := r.ms, bays := r.bays, codes := r.codes, stk := r.stk } := by
  refine landSector_induct (P := fun t => ∃ r : State,
    t = { s with mem := r.mem, ms := r.ms, bays := r.bays, codes := r.codes, stk := r.stk }) ?_ ⟨s, rfl⟩
  rintro n q t - ⟨r, rfl⟩
  obtain ⟨u, h⟩ := landReq_frame (n := n) (q := q) (d := q.data.map (fun d => d.take (64 - q.addr % 64)))
    (s := { s with mem := r.mem, ms := r.ms, bays := r.bays, codes := r.codes, stk := r.stk })
  exact ⟨u, h⟩

theorem bay_landReq {n : Stk} {q : MemReq} {d : Option (List Byte)} : ∃ p, (landReq n q d s).bay b = { s.bay b with prot := p } := by
  cases d with
  | none => exact ⟨_, rfl⟩
  | some v => exact bay_store (s := updStack n _ s)

theorem bay_landSector {a : Nat} : ∃ p, (landSector a s).bay b = { s.bay b with prot := p } := by
  refine landSector_induct (P := fun t => ∃ p, t.bay b = { s.bay b with prot := p }) ?_ ⟨_, rfl⟩
  rintro n q t - ⟨p, h⟩
  obtain ⟨o, g⟩ := bay_landReq (s := t) (b := b) (n := n) (q := q) (d := q.data.map (fun d => d.take (64 - q.addr % 64)))
  exact ⟨o, g.trans (by rw [h])⟩

/-- Landing a sector writes nothing outside it. -/
theorem rd_landSector {a x : Nat} (h : x / 64 ≠ a / 64) : (landSector a s).rd x = s.rd x := by
  refine landSector_induct (P := fun t => t.rd x = s.rd x) ?_ rfl
  intro n q t hq ht
  rw [← ht]
  cases hd : q.data with
  | none => exact rd_congr rfl x
  | some v =>
    refine (rd_store_outside ?_).trans (rd_congr rfl x)
    rw [List.length_take]
    omega

theorem memInv_landSector {a : Nat} (h : MemInv s) : MemInv (landSector a s) := by
  refine landSector_induct (P := MemInv) ?_ h
  intro n q t _ ht
  cases hd : q.data with
  | none => exact memInv_congr rfl ht
  | some v => exact memInv_store (memInv_congr rfl ht)

/-! ### The record ring (R318 to R323) -/

theorem traffic_frame {rd wr : List (Nat × Nat)} : ∃ k : Vector Stack 12, traffic rd wr s = { s with stk := k } := ⟨_, rfl⟩

@[simp] theorem bay_traffic {rd wr : List (Nat × Nat)} : (traffic rd wr s).bay b = s.bay b := rfl

@[simp] theorem mem_traffic {rd wr : List (Nat × Nat)} : (traffic rd wr s).mem = s.mem := rfl

theorem store_frame {a req : Nat} {v : List Byte} : ∃ r : State,
    s.store a v req = { s with mem := r.mem, ms := r.ms, bays := r.bays, codes := r.codes, stk := r.stk } := ⟨s.store a v req, rfl⟩

/-- Writing an entry touches the memory, what protects it, its stack, and nothing else. -/
theorem putEntry_frame {a : Nat} {v : List Byte} : ∃ r : State,
    putEntry a v s = { s with mem := r.mem, ms := r.ms, bays := r.bays, codes := r.codes, stk := r.stk } := by
  obtain ⟨r, h⟩ := landSector_frame (s := s) (a := a)
  obtain ⟨u, g⟩ := store_frame (s := landSector a s) (a := a) (v := v) (req := 2)
  obtain ⟨k, e⟩ := traffic_frame (s := (landSector a s).store a v 2) (rd := []) (wr := [(a, 64)])
  rw [putEntry, e, g, h]
  exact ⟨{ u with stk := k }, rfl⟩

theorem bay_putEntry {a : Nat} {v : List Byte} : ∃ p, (putEntry a v s).bay b = { s.bay b with prot := p } := by
  obtain ⟨p, h⟩ := bay_landSector (s := s) (b := b) (a := a)
  obtain ⟨o, g⟩ := bay_store (s := landSector a s) (b := b) (a := a) (v := v) (req := 2)
  exact ⟨o, by rw [putEntry, bay_traffic, g, h]⟩

theorem rd_putEntry {a x : Nat} {v : List Byte} (hv : v.length ≤ 64) (ha : a % 64 = 0) (h : x < a ∨ a + 64 ≤ x) :
    (putEntry a v s).rd x = s.rd x := by
  rw [putEntry, rd_congr mem_traffic x, rd_store_outside (by omega), rd_landSector (by omega)]

theorem memInv_putEntry {a : Nat} {v : List Byte} (h : MemInv s) : MemInv (putEntry a v s) :=
  memInv_congr mem_traffic (memInv_store (memInv_landSector h))

/-- Every entry lies in the ring. -/
theorem entryAddr_range {q : Nat} : ringBase ≤ entryAddr s q ∧ entryAddr s q + 64 ≤ ringBase + 2 ^ 29 := by
  unfold entryAddr
  split
  · have := Nat.mod_lt q (show 0 < 4194304 by decide)
    omega
  · have := Nat.mod_lt q (show 0 < 8388608 by decide)
    omega

theorem entryAddr_aligned {q : Nat} : entryAddr s q % 64 = 0 := by
  unfold entryAddr ringBase
  omega

theorem recBytes_length {v q : Nat} : (recBytes v q).length = 64 := by
  simp [recBytes, leBytes]

/-- Writing entries writes nothing outside the ring. -/
theorem ringOnly_writeEnts {q : Nat} {l : List Nat} : ringOnly s (writeEnts q l s) := by
  induction l generalizing q s with
  | nil => exact fun _ _ => rfl
  | cons v r ih =>
    intro a ha
    have hr := entryAddr_range (s := s) (q := q)
    exact (ih a ha).trans (rd_putEntry (Nat.le_of_eq recBytes_length) entryAddr_aligned (by omega))

theorem memInv_writeEnts {q : Nat} {l : List Nat} (h : MemInv s) : MemInv (writeEnts q l s) := by
  induction l generalizing q s with
  | nil => exact h
  | cons v r ih => exact ih (memInv_putEntry h)

theorem bay_writeEnts {q : Nat} {l : List Nat} : ∃ p, (writeEnts q l s).bay b = { s.bay b with prot := p } := by
  induction l generalizing q s with
  | nil => exact ⟨_, rfl⟩
  | cons v r ih =>
    obtain ⟨p, h⟩ := ih (q := q + 1) (s := putEntry (entryAddr s q) (recBytes v q) s)
    obtain ⟨o, g⟩ := bay_putEntry (s := s) (b := b) (a := entryAddr s q) (v := recBytes v q)
    exact ⟨p, h.trans (by rw [g])⟩

@[simp] theorem strm_writeEnts {q : Nat} {l : List Nat} : (writeEnts q l s).strm b st = s.strm b st := by
  obtain ⟨p, h⟩ := bay_writeEnts (s := s) (b := b) (q := q) (l := l)
  unfold State.strm
  rw [h]
  cases st <;> rfl

/-- Writing entries touches the memory, what protects it, and nothing else. -/
theorem writeEnts_frame {q : Nat} {l : List Nat} : ∃ r : State,
    writeEnts q l s = { s with mem := r.mem, ms := r.ms, bays := r.bays, codes := r.codes, stk := r.stk } := by
  induction l generalizing q s with
  | nil => exact ⟨s, rfl⟩
  | cons v r ih =>
    obtain ⟨u, g⟩ := putEntry_frame (s := s) (a := entryAddr s q) (v := recBytes v q)
    obtain ⟨t, h⟩ := ih (q := q + 1) (s := putEntry (entryAddr s q) (recBytes v q) s)
    rw [writeEnts, h, g]
    exact ⟨t, rfl⟩

theorem recRoom_mem : (recRoom s).mem = s.mem := by
  unfold recRoom
  split <;> rfl

theorem recRoom_bays : (recRoom s).bays = s.bays := by
  unfold recRoom
  split <;> rfl

theorem strm_recRoom : (recRoom s).strm b st = s.strm b st := by
  simp [State.strm, State.bay, recRoom_bays]

/-- Recording writes nothing outside the ring. -/
theorem ringOnly_record {ty arg len payload : Nat} : ringOnly s (record ty arg len payload s) := by
  intro a ha
  unfold record
  split
  · exact (ringOnly_writeEnts a ha).trans (rd_congr recRoom_mem a)
  · rfl

theorem memInv_record {ty arg len payload : Nat} (h : MemInv s) : MemInv (record ty arg len payload s) := by
  unfold record
  split
  · exact memInv_writeEnts (memInv_congr recRoom_mem h)
  · exact h

theorem strm_record {ty arg len payload : Nat} : (record ty arg len payload s).strm b st = s.strm b st := by
  unfold record
  split
  · exact strm_writeEnts.trans strm_recRoom
  · rfl

/-- Recording changes nothing of a bay but what protects its memories. -/
theorem bay_record {ty arg len payload : Nat} : ∃ p, (record ty arg len payload s).bay b = { s.bay b with prot := p } := by
  unfold record
  split
  · obtain ⟨p, h⟩ := bay_writeEnts (s := recRoom s) (b := b)
      (q := (recRoom s).rcd.seq - (recRoom s).rcd.cyEnt.length + entPlace (recRoom s).rcd (entryNew s ty arg len payload))
      (l := entryNew s ty arg len payload ::
        (recRoom s).rcd.cyEnt.drop (entPlace (recRoom s).rcd (entryNew s ty arg len payload)))
    refine ⟨p, h.trans ?_⟩
    simp [State.bay, recRoom_bays]
  · exact ⟨_, rfl⟩

/-- Recording touches the ring, its counters, the protection of what it overwrites and the run, and nothing else. -/
theorem record_frame {ty arg len payload : Nat} : ∃ r : State,
    record ty arg len payload s =
      { s with mem := r.mem, ms := r.ms, bays := r.bays, codes := r.codes, stk := r.stk, rcd := r.rcd, run := r.run } := by
  refine ⟨record ty arg len payload s, ?_⟩
  have g : recRoom s = { s with rcd := (recRoom s).rcd, run := (recRoom s).run } := by
    unfold recRoom
    split <;> rfl
  obtain ⟨t, e⟩ := writeEnts_frame (s := recRoom s)
    (q := (recRoom s).rcd.seq - (recRoom s).rcd.cyEnt.length + entPlace (recRoom s).rcd (entryNew s ty arg len payload))
    (l := entryNew s ty arg len payload ::
      (recRoom s).rcd.cyEnt.drop (entPlace (recRoom s).rcd (entryNew s ty arg len payload)))
  unfold record
  split
  · dsimp only
    generalize recRoom s = u at e g ⊢
    rw [e, g]
  · rfl

/-! ### Faults and halts (R202, R426 to R430) -/

theorem countFault_frame {code bay unit : Nat} : ∃ f : Faults, countFault code bay unit s = { s with faults := f } := ⟨_, rfl⟩

theorem gong_countFault {code bay unit : Nat} : (countFault code bay unit s).faults.gong = s.faults.gong := rfl

@[simp] theorem strm_countFault {code bay unit : Nat} : (countFault code bay unit s).strm b st = s.strm b st := rfl

@[simp] theorem strm_withdrawHop {d : Bay} : (withdrawHop d s).strm b st = s.strm b st := rfl

/-- Recording a halt leaves the stream HALTED with the code and the PC, where no older instruction of the cy has halted it (R428). -/
theorem strm_haltRec {arg code age : Nat} {p : BitVec 15} {keep : Bool} (ho : (s.strm b st).outdone code age = true) :
    (haltRec b st arg code p age keep s).strm b st = { (s.strm b st).halted code p keep with haltAge := some age } := by
  simp [haltRec, recFault, strm_record, ho]

theorem strm_haltRec_ne {arg code age : Nat} {p : BitVec 15} {keep : Bool} {d : Bay} {r : Strm} (h : d ≠ b ∨ r ≠ st) :
    (haltRec b st arg code p age keep s).strm d r = s.strm d r := by
  by_cases ho : (s.strm b st).outdone code age = true <;> simp [haltRec, recFault, strm_record, ho, strm_updStrm_ne h]

theorem mem_haltRec {arg code age : Nat} {p : BitVec 15} {keep : Bool} :
    (haltRec b st arg code p age keep s).mem = (recFault arg code p s).mem := by
  by_cases ho : (s.strm b st).outdone code age = true <;> simp [haltRec, recFault, strm_record, ho]

theorem strm_recFault {arg code : Nat} {p : BitVec 15} : (recFault arg code p s).strm b st = s.strm b st := strm_record

/-- A stream HALTED before this cy takes no fault (R428). -/
theorem haltStream_deaf {code age : Nat} {p : BitVec 15} (h : (s.strm b st).deaf = true) :
    haltStream b st code p age s = s := by
  simp [haltStream, haltBy, h]

/-- A halt leaves the stream HALTED with the code and the PC (R202), where no older instruction of the cy has halted it
(R428). -/
theorem strm_haltStream {code age : Nat} {p : BitVec 15} (h : (s.strm b st).deaf = false)
    (ho : (s.strm b st).outdone code age = true) :
    (haltStream b st code p age s).strm b st = { (s.strm b st).halted code p false with haltAge := some age } := by
  cases st <;> simp [haltStream, haltBy, h, strm_haltRec, ho]

/-- A halt of a stream leaves every other stream as it was. -/
theorem strm_haltStream_ne {code age : Nat} {p : BitVec 15} {d : Bay} {r : Strm} (h : d ≠ b ∨ r ≠ st) :
    (haltStream b st code p age s).strm d r = s.strm d r := by
  by_cases hs : (s.strm b st).deaf = true
  · rw [haltStream_deaf hs]
  · cases st <;> simp [haltStream, haltBy, hs, strm_haltRec_ne h]

theorem mem_haltStream {code age : Nat} {p : BitVec 15} : (haltStream b st code p age s).mem = s.mem ∨
    (haltStream b st code p age s).mem = (recFault (b + 16 * strmNo st) code p (countFault code b (strmNo st) s)).mem := by
  by_cases hs : (s.strm b st).deaf = true
  · exact .inl (congrArg State.mem (haltStream_deaf hs))
  · exact .inr (by cases st <;> simp [haltStream, haltBy, hs, withdrawHop, mem_haltRec])

/-- A halt writes no memory but the record ring. -/
theorem ringOnly_haltStream {code age : Nat} {p : BitVec 15} : ringOnly s (haltStream b st code p age s) := by
  intro a ha
  rcases mem_haltStream (s := s) (b := b) (st := st) (code := code) (age := age) (p := p) with h | h
  · exact rd_congr h a
  · exact (rd_congr h a).trans (ringOnly_record (s := countFault code b (strmNo st) s) a ha)

theorem memInv_haltStream {code age : Nat} {p : BitVec 15} (hi : MemInv s) : MemInv (haltStream b st code p age s) := by
  rcases mem_haltStream (s := s) (b := b) (st := st) (code := code) (age := age) (p := p) with h | h
  · exact memInv_congr h hi
  · exact memInv_congr h (memInv_record (s := countFault code b (strmNo st) s) hi)

/-- A throttle event writes no memory but the record ring, and no stream. -/
theorem ringOnly_throttle {code unit level : Nat} : ringOnly s (throttle code unit level s) := fun a ha =>
  ringOnly_record a ha

theorem memInv_throttle {code unit level : Nat} (h : MemInv s) : MemInv (throttle code unit level s) := memInv_record (s := s) h

theorem strm_throttle {code unit level : Nat} : (throttle code unit level s).strm b st = s.strm b st := strm_record

theorem mem_gong {code bay : Nat} : (gong code bay s).mem = (recFault 15 code 0#15 (countFault code bay 3 s)).mem := by
  unfold gong
  dsimp only
  split
  · rfl
  · split <;> rfl

theorem ringOnly_gong {code bay : Nat} : ringOnly s (gong code bay s) := fun a ha =>
  (rd_congr mem_gong a).trans (ringOnly_record (s := countFault code bay 3 s) a ha)

theorem memInv_gong {code bay : Nat} (h : MemInv s) : MemInv (gong code bay s) :=
  memInv_congr mem_gong (memInv_record (s := countFault code bay 3 s) h)

end Sys2Proof.Laws.Ops
end

