-- ==== Sys2Proof/Laws/PerInstr.lean ====
section
/-! SUPPORT. The family of statements made per command: the executable check of WellFormed.lean accepts a command exactly when its fields are legal, said over field values and bit positions in place of masks. -/

namespace Sys2Proof.Laws.Wf

/-- The value of `n` bits of a word from bit `lo` up. -/
def fieldAt (w : W32) (lo n : Nat) : Nat := w.toNat / 2 ^ lo % 2 ^ n

/-- Every listed bit of a word reads 0. -/
def ReservedZero (bits : List Nat) (w : W32) : Prop := ∀ i ∈ bits, w.getLsbD i = false

/-- The RSVD bits of TCFG (R67). -/
def tcfgBits : List Nat := [3, 4, 5, 6, 7, 12, 13, 14, 15, 16, 17, 18, 19, 20, 21, 22, 23]

/-- The RSVD bits of NT_CFG (R127). -/
def ntCfgBits : List Nat := [4, 5, 6, 7, 8, 9, 10, 11, 24, 25, 26, 27, 28, 29, 30, 31]

/-- The field values R190, R191 and R217 to R222 allow in a command. -/
def Legal : Instr → Prop
  | .tsBreak _ _ k => 1 ≤ k ∧ k ≤ 4
  | .tsGadd _ _ g _ => g.val < 224
  | .tsGset _ _ g _ => g.val < 224
  | .tsQput _ st q cn m1 => (st = .a ↔ q.val < 6) ∧ cn.val + m1.val + 1 ≤ 16
  | .tsQpop _ st q cd m1 _ => (st = .x ↔ q.val < 6) ∧ cd.val + m1.val + 1 ≤ 16
  | .tsHop b _ s2 _ x kind mask => (kind ≠ 0 → kind ≠ 3 → s2 = 0) ∧ (kind ≠ 2 → kind ≠ 8 → x = 0) ∧ mask.getLsbD b = true
  | .tdKey _ _ _ _ _ level _ => 0 < level.val
  | .mmCfg _ _ imm => ReservedZero tcfgBits imm ∧ fieldAt imm 0 3 ≤ 4
  | .mmLdp _ _ e m1 _ => e.val + m1.val < 256
  | .mmLds _ _ _ _ tide _ d => tide = true → d = 0
  | .mmMul _ mask _ _ _ _ _ => ∃ i, i < 8 ∧ mask.getLsbD i = true
  | .ntCfg _ imm => ReservedZero ntCfgBits imm ∧ 1 ≤ fieldAt imm 16 4 ∧ (1 ≤ fieldAt imm 12 4 ∧ fieldAt imm 12 4 ≤ 10) ∧
      (10 ≤ fieldAt imm 0 4 ∧ fieldAt imm 0 4 ≤ 12)
  | .ntTv _ _ ident slot _ => ident = true → slot = 0
  | .veCmp _ pd _ _ _ _ => 0 < pd.val
  | .veFcmp _ pd _ _ _ _ => 0 < pd.val
  | .vePand _ pd _ _ _ => 0 < pd.val
  | .vePor _ pd _ _ _ => 0 < pd.val
  | .vePxor _ pd _ _ _ => 0 < pd.val
  | .vePnot _ pd _ _ => 0 < pd.val
  | .veSf _ _ va func m1 cc _ => (func.isRow = false → m1 = 0) ∧ (func.usesCc = false → cc = 0) ∧ va.val + m1.val + 1 ≤ 32
  | .veLdq _ _ q _ _ => q.val < 6
  | .veGsign _ pd _ _ logn _ => 0 < pd.val ∧ 10 ≤ logn ∧ logn ≤ 17
  | .veLdp _ e m1 _ => e.val + m1.val < 64
  | .xfMov _ (.queue q) _ _ => q.val < 6
  | _ => True

/-- A command is well-formed exactly when its fields are legal. -/
def Statement (i : Instr) : Prop := i.wf = true ↔ Legal i

theorem plain {i : Instr} (h : i.wf = true) (l : Legal i) : Statement i := ⟨fun _ => l, fun _ => h⟩

theorem and_eq_zero_iff (w m : W32) (bits : List Nat) (hm : ∀ i, i < 32 → (m.getLsbD i = true ↔ i ∈ bits)) :
    w &&& m = 0#32 ↔ ∀ i ∈ bits, i < 32 → w.getLsbD i = false := by
  constructor
  · intro h i hi hlt
    have := congrArg (fun x => BitVec.getLsbD x i) h
    simpa [(hm i hlt).2 hi] using this
  · intro h
    apply BitVec.eq_of_getLsbD_eq
    intro i hlt
    rw [BitVec.getLsbD_and, BitVec.getLsbD_zero]
    by_cases hi : m.getLsbD i = true
    · rw [h i ((hm i hlt).1 hi) hlt, Bool.false_and]
    · rw [Bool.not_eq_true] at hi
      rw [hi, Bool.and_false]

theorem reserved_iff (w m : W32) (bits : List Nat) (hb : ∀ i ∈ bits, i < 32)
    (hm : ∀ i, i < 32 → (m.getLsbD i = true ↔ i ∈ bits)) : w &&& m = 0#32 ↔ ReservedZero bits w :=
  (and_eq_zero_iff w m bits hm).trans ⟨fun h i hi => h i hi (hb i hi), fun h i hi _ => h i hi⟩

theorem low_field (w : W32) (n : Nat) (m : W32) (h : m.toNat = 2 ^ n - 1) :
    (w &&& m).toNat = fieldAt w 0 n := by
  simp [fieldAt, BitVec.toNat_and, h, Nat.and_two_pow_sub_one_eq_mod]

theorem high_field (w : W32) (lo n : Nat) (m : W32) (h : m.toNat = 2 ^ n - 1) :
    (w >>> lo &&& m).toNat = fieldAt w lo n := by
  simp [fieldAt, BitVec.toNat_and, h, Nat.and_two_pow_sub_one_eq_mod, Nat.shiftRight_eq_div_pow]

theorem tcfgOk_iff (w : W32) : tcfgOk w = true ↔ ReservedZero tcfgBits w ∧ fieldAt w 0 3 ≤ 4 := by
  simp only [tcfgOk, Bool.and_eq_true, beq_iff_eq, decide_eq_true_eq]
  rw [reserved_iff w 0x00FFF0F8#32 tcfgBits (by decide) (by decide), low_field w 3 7#32 (by decide)]

theorem ntCfgOk_iff (w : W32) : ntCfgOk w = true ↔ ReservedZero ntCfgBits w ∧ 1 ≤ fieldAt w 16 4 ∧
    (1 ≤ fieldAt w 12 4 ∧ fieldAt w 12 4 ≤ 10) ∧ (10 ≤ fieldAt w 0 4 ∧ fieldAt w 0 4 ≤ 12) := by
  simp only [ntCfgOk, Bool.and_eq_true, beq_iff_eq, decide_eq_true_eq]
  rw [reserved_iff w 0xFF000FF0#32 ntCfgBits (by decide) (by decide), low_field w 4 15#32 (by decide),
    high_field w 16 4 15#32 (by decide), high_field w 12 4 15#32 (by decide)]
  tauto

theorem mask_ne_zero (m : BitVec 8) : m ≠ 0#8 ↔ ∃ i, i < 8 ∧ m.getLsbD i = true := by
  constructor
  · intro h
    by_contra hc
    push Not at hc
    exact h (BitVec.eq_of_getLsbD_eq (fun i hi => by simpa using hc i hi))
  · rintro ⟨i, -, h⟩ rfl
    simp at h

theorem tsCset (b : Bay) (st : Strm) (cd : Ctr) (imm : W32) : Statement (.tsCset b st cd imm) := plain rfl trivial

theorem tsCadd (b : Bay) (st : Strm) (cd ca : Ctr) (o : BOp) : Statement (.tsCadd b st cd ca o) := plain rfl trivial

theorem tsCsub (b : Bay) (st : Strm) (cd ca : Ctr) (o : BOp) : Statement (.tsCsub b st cd ca o) := plain rfl trivial

theorem tsCmul (b : Bay) (st : Strm) (cd ca : Ctr) (o : BOp) : Statement (.tsCmul b st cd ca o) := plain rfl trivial

theorem tsCshl (b : Bay) (st : Strm) (cd ca : Ctr) (o : BOp) : Statement (.tsCshl b st cd ca o) := plain rfl trivial

theorem tsCshr (b : Bay) (st : Strm) (cd ca : Ctr) (o : BOp) : Statement (.tsCshr b st cd ca o) := plain rfl trivial

theorem tsCand (b : Bay) (st : Strm) (cd ca : Ctr) (o : BOp) : Statement (.tsCand b st cd ca o) := plain rfl trivial

theorem tsCor (b : Bay) (st : Strm) (cd ca : Ctr) (o : BOp) : Statement (.tsCor b st cd ca o) := plain rfl trivial

theorem tsCxor (b : Bay) (st : Strm) (cd ca : Ctr) (o : BOp) : Statement (.tsCxor b st cd ca o) := plain rfl trivial

theorem tsCmp (b : Bay) (st : Strm) (kd : Fin 8) (ca : Ctr) (r : Rel) (o : BOp) : Statement (.tsCmp b st kd ca r o) := plain rfl trivial

theorem tsKlog (b : Bay) (st : Strm) (kd ka : Fin 8) (op : KOp) (kb : Fin 8) : Statement (.tsKlog b st kd ka op kb) := plain rfl trivial

theorem tsLdw (b : Bay) (st : Strm) (cd ca : Ctr) (imm : BitVec 16) (ev : CodeEvent) : Statement (.tsLdw b st cd ca imm ev) := plain rfl trivial

theorem tsStw (b : Bay) (st : Strm) (cs ca : Ctr) (imm : BitVec 16) : Statement (.tsStw b st cs ca imm) := plain rfl trivial

theorem tsBeat (b : Bay) (st : Strm) (cd : Ctr) : Statement (.tsBeat b st cd) := plain rfl trivial

theorem tsLidx (b : Bay) (st : Strm) (cd : Ctr) (l : Fin 4) : Statement (.tsLidx b st cd l) := plain rfl trivial

theorem tsBr (b : Bay) (st : Strm) (src : BrSrc) (pol : Bool) (target : BitVec 15) : Statement (.tsBr b st src pol target) := plain rfl trivial

theorem tsJmp (b : Bay) (st : Strm) (target : BitVec 15) : Statement (.tsJmp b st target) := plain rfl trivial

theorem tsCall (b : Bay) (st : Strm) (target : BitVec 15) : Statement (.tsCall b st target) := plain rfl trivial

theorem tsRet (b : Bay) (st : Strm) : Statement (.tsRet b st) := plain rfl trivial

theorem tsEnd (b : Bay) (st : Strm) : Statement (.tsEnd b st) := plain rfl trivial

theorem tsLoop (b : Bay) (st : Strm) (cn : Ctr) (last : BitVec 15) : Statement (.tsLoop b st cn last) := plain rfl trivial

theorem tsBreak (b : Bay) (st : Strm) (k : Nat) :
    Statement (.tsBreak b st k) := by
  simp [Statement, Instr.wf, Legal]

theorem tsFset (b : Bay) (st : Strm) (f : LFlag) : Statement (.tsFset b st f) := plain rfl trivial

theorem tsFclr (b : Bay) (st : Strm) (f : LFlag) : Statement (.tsFclr b st f) := plain rfl trivial

theorem tsWait (b : Bay) (st : Strm) (f : LFlag) (pol clr : Bool) : Statement (.tsWait b st f pol clr) := plain rfl trivial

theorem flagWaitEnd (b : Bay) (st : Strm) : Statement (.flagWaitEnd b st) := plain rfl trivial

theorem tsGadd (b : Bay) (st : Strm) (g : Fin 256) (imm : Byte) :
    Statement (.tsGadd b st g imm) := by
  simp [Statement, Instr.wf, Legal]

theorem tsGset (b : Bay) (st : Strm) (g : Fin 256) (cs : Ctr) :
    Statement (.tsGset b st g cs) := by
  simp [Statement, Instr.wf, Legal]

theorem tsGwait (b : Bay) (st : Strm) (g : Fin 256) (cn : Ctr) : Statement (.tsGwait b st g cn) := plain rfl trivial

theorem globalWaitEnd (b : Bay) (st : Strm) : Statement (.globalWaitEnd b st) := plain rfl trivial

theorem tsQput (b : Bay) (st : Strm) (q : Fin 8) (cn : Ctr) (m1 : Fin 16) :
    Statement (.tsQput b st q cn m1) := by
  cases st <;> simp [Statement, Instr.wf, Legal, qputOk] <;> omega

theorem tsQpop (b : Bay) (st : Strm) (q : Fin 8) (cd : Ctr) (m1 : Fin 16) (ev : CodeEvent) :
    Statement (.tsQpop b st q cd m1 ev) := by
  cases st <;> simp [Statement, Instr.wf, Legal, qputOk] <;> omega

theorem tsRel (b : Bay) (st : Strm) (cb : Ctr) : Statement (.tsRel b st cb) := plain rfl trivial

theorem releaseWaitEnd (b : Bay) (st : Strm) : Statement (.releaseWaitEnd b st) := plain rfl trivial

theorem tsYield (b : Bay) (st : Strm) : Statement (.tsYield b st) := plain rfl trivial

theorem tsPinit (b : Bay) (st : Strm) (cn cm : Ctr) (p : Fin 64) : Statement (.tsPinit b st cn cm p) := plain rfl trivial

theorem poolArmed (p : Fin 64) : Statement (.poolArmed p) := plain rfl trivial

theorem tsTake (b : Bay) (st : Strm) (cd : Ctr) (p : Fin 64) : Statement (.tsTake b st cd p) := plain rfl trivial

theorem takeIndexWrite (b : Bay) (st : Strm) : Statement (.takeIndexWrite b st) := plain rfl trivial

theorem tsHop (b : Bay) (s1 s2 dst x : Ctr) (kind : Fin 16) (mask : BayMask) :
    Statement (.tsHop b s1 s2 dst x kind mask) := by
  simp [Statement, Instr.wf, Legal, hopUsesS2, hopUsesX]
  tauto

theorem bracketOpen (mask : BayMask) (ev : CodeEvent) : Statement (.bracketOpen mask ev) := plain rfl trivial

theorem tsHend (b : Bay) (nf : NForm) : Statement (.tsHend b nf) := plain rfl trivial

theorem bracketClose (mask : BayMask) : Statement (.bracketClose mask) := plain rfl trivial

theorem tsHout (b : Bay) (level scale : Byte) : Statement (.tsHout b level scale) := plain rfl trivial

theorem tsDarm (b : Bay) (cb : Ctr) (d : Dix) : Statement (.tsDarm b cb d) := plain rfl trivial

theorem tsScfg (b : Bay) (cs cc : Ctr) : Statement (.tsScfg b cs cc) := plain rfl trivial

theorem tsAmax (b : Bay) (cs cv : Ctr) (cmt ovf : Bool) : Statement (.tsAmax b cs cv cmt ovf) := plain rfl trivial

theorem tsScale (b : Bay) (cs cd : Ctr) : Statement (.tsScale b cs cd) := plain rfl trivial

theorem tsUwr (b : Bay) (cs cu cw : Ctr) (cmt : Bool) : Statement (.tsUwr b cs cu cw cmt) := plain rfl trivial

theorem tsUstat (b : Bay) (cs cd : Ctr) : Statement (.tsUstat b cs cd) := plain rfl trivial

theorem statsApply (b : Bay) (ev : CodeEvent) : Statement (.statsApply b ev) := plain rfl trivial

theorem statsResultWrite (b : Bay) : Statement (.statsResultWrite b) := plain rfl trivial

theorem tdKey (b : Bay) (ck cg : Ctr) (cb : Option Ctr) (next : Bool) (level : Fin 64) (ev : CodeEvent) :
    Statement (.tdKey b ck cg cb next level ev) := by
  simp only [Statement, Instr.wf, Legal, bne_iff_ne, ne_eq, Fin.ext_iff, Fin.val_zero]
  omega

theorem tdDrop (b : Bay) : Statement (.tdDrop b) := plain rfl trivial

theorem tdStat (b : Bay) (cn : Ctr) : Statement (.tdStat b cn) := plain rfl trivial

theorem keyStreamOpen (b : Bay) (slot : Fin 4) (ev : CodeEvent) : Statement (.keyStreamOpen b slot ev) := plain rfl trivial

theorem keySetCombine (mask : BayMask) (k : Nat) : Statement (.keySetCombine mask k) := plain rfl trivial

theorem keyFillStart (b : Bay) : Statement (.keyFillStart b) := plain rfl trivial

theorem keyFillData (b : Bay) (ev : CodeEvent) : Statement (.keyFillData b ev) := plain rfl trivial

theorem xofSegmentStart (b : Bay) : Statement (.xofSegmentStart b) := plain rfl trivial

theorem xofSegmentComplete (b : Bay) (core : Fin 36) : Statement (.xofSegmentComplete b core) := plain rfl trivial

theorem keyRowDeliver (b : Bay) (ev : CodeEvent) : Statement (.keyRowDeliver b ev) := plain rfl trivial

theorem mmCfg (b : Bay) (lt : Lt) (imm : W32) :
    Statement (.mmCfg b lt imm) := tcfgOk_iff imm

theorem mmLdp (b : Bay) (lt : Lt) (e m1 : Fin 256) (d : Dix) :
    Statement (.mmLdp b lt e m1 d) := by
  simp only [Statement, Instr.wf, Legal, decide_eq_true_eq]
  omega

theorem mmLds (b : Bay) (lt : Lt) (buf resume tide : Bool) (n1 : Fin 256) (d : Dix) :
    Statement (.mmLds b lt buf resume tide n1 d) := by
  cases tide <;> simp [Statement, Instr.wf, Legal]

theorem mmMul (b : Bay) (mask : BitVec 8) (buf ob acc : Bool) (n1 : Fin 256) (d : Dix) :
    Statement (.mmMul b mask buf ob acc n1 d) := by
  simp only [Statement, Instr.wf, Legal, bne_iff_ne]
  exact mask_ne_zero mask

theorem mmDrain (b : Bay) (lt : Lt) (ob : Bool) (fd fo : LFlag) (n1 : Fin 256) (d : Dix) : Statement (.mmDrain b lt ob fd fo n1 d) := plain rfl trivial

theorem mmClr (b : Bay) (lt : Lt) (ob : Bool) : Statement (.mmClr b lt ob) := plain rfl trivial

theorem mmStat (b : Bay) (lt : Lt) (r : TileReg) (cn : Ctr) : Statement (.mmStat b lt r cn) := plain rfl trivial

theorem tileInstrStart (b : Bay) (lt : Lt) (ev : CodeEvent) : Statement (.tileInstrStart b lt ev) := plain rfl trivial

theorem stationaryLoadComplete (b : Bay) (lt : Lt) (ev : CodeEvent) : Statement (.stationaryLoadComplete b lt ev) := plain rfl trivial

theorem mmMulComplete (b : Bay) (lt : Lt) (ev : CodeEvent) : Statement (.mmMulComplete b lt ev) := plain rfl trivial

theorem mmDrainComplete (b : Bay) (lt : Lt) (ev : CodeEvent) : Statement (.mmDrainComplete b lt ev) := plain rfl trivial

theorem ntCfg (b : Bay) (imm : W32) :
    Statement (.ntCfg b imm) := ntCfgOk_iff imm

theorem ntLdp (b : Bay) (d : Dix) : Statement (.ntLdp b d) := plain rfl trivial

theorem ntFwd (b : Bay) (fd : LFlag) (d2 d1 : Dix) : Statement (.ntFwd b fd d2 d1) := plain rfl trivial

theorem ntInv (b : Bay) (fd : LFlag) (d2 d1 : Dix) : Statement (.ntInv b fd d2 d1) := plain rfl trivial

theorem ntTv (b : Bay) (ac ident : Bool) (slot : Fin 16) (cb : Ctr) :
    Statement (.ntTv b ac ident slot cb) := by
  cases ident <;> simp [Statement, Instr.wf, Legal]

theorem ntStep (b : Bay) (ac : Bool) (fd : LFlag) (ce : Ctr) (d1 : Dix) : Statement (.ntStep b ac fd ce d1) := plain rfl trivial

theorem ntAcc (b : Bay) (ac : Bool) (fd : LFlag) (d2 : Dix) : Statement (.ntAcc b ac fd d2) := plain rfl trivial

theorem ntOut (b : Bay) (ac : Bool) (fd : LFlag) (d1 : Dix) : Statement (.ntOut b ac fd d1) := plain rfl trivial

theorem ntInstrStart (b : Bay) (ev : CodeEvent) : Statement (.ntInstrStart b ev) := plain rfl trivial

theorem ntInstrComplete (b : Bay) : Statement (.ntInstrComplete b) := plain rfl trivial

theorem tblLd (b : Bay) (bank : Bool) (slot : Fin 16) (fd : LFlag) (d : Dix) : Statement (.tblLd b bank slot fd d) := plain rfl trivial

theorem tblLdComplete (b : Bay) (ev : CodeEvent) : Statement (.tblLdComplete b ev) := plain rfl trivial

theorem tblSwap (b : Bay) : Statement (.tblSwap b) := plain rfl trivial

theorem tblStat (b : Bay) (cn : Ctr) : Statement (.tblStat b cn) := plain rfl trivial

theorem tableBankFlip (b : Bay) : Statement (.tableBankFlip b) := plain rfl trivial

theorem veAdd (b : Bay) (vd va : VReg) (o : VBOp) (pg : PReg) : Statement (.veAdd b vd va o pg) := plain rfl trivial

theorem veSub (b : Bay) (vd va : VReg) (o : VBOp) (pg : PReg) : Statement (.veSub b vd va o pg) := plain rfl trivial

theorem veMull (b : Bay) (vd va : VReg) (o : VBOp) (pg : PReg) : Statement (.veMull b vd va o pg) := plain rfl trivial

theorem veMulh (b : Bay) (vd va : VReg) (o : VBOp) (pg : PReg) : Statement (.veMulh b vd va o pg) := plain rfl trivial

theorem veMulhu (b : Bay) (vd va : VReg) (o : VBOp) (pg : PReg) : Statement (.veMulhu b vd va o pg) := plain rfl trivial

theorem veAnd (b : Bay) (vd va : VReg) (o : VBOp) (pg : PReg) : Statement (.veAnd b vd va o pg) := plain rfl trivial

theorem veOr (b : Bay) (vd va : VReg) (o : VBOp) (pg : PReg) : Statement (.veOr b vd va o pg) := plain rfl trivial

theorem veXor (b : Bay) (vd va : VReg) (o : VBOp) (pg : PReg) : Statement (.veXor b vd va o pg) := plain rfl trivial

theorem veShl (b : Bay) (vd va : VReg) (o : VBOp) (pg : PReg) : Statement (.veShl b vd va o pg) := plain rfl trivial

theorem veShr (b : Bay) (vd va : VReg) (o : VBOp) (pg : PReg) : Statement (.veShr b vd va o pg) := plain rfl trivial

theorem veSra (b : Bay) (vd va : VReg) (o : VBOp) (pg : PReg) : Statement (.veSra b vd va o pg) := plain rfl trivial

theorem veMin (b : Bay) (vd va : VReg) (o : VBOp) (pg : PReg) : Statement (.veMin b vd va o pg) := plain rfl trivial

theorem veMax (b : Bay) (vd va : VReg) (o : VBOp) (pg : PReg) : Statement (.veMax b vd va o pg) := plain rfl trivial

theorem veMinu (b : Bay) (vd va : VReg) (o : VBOp) (pg : PReg) : Statement (.veMinu b vd va o pg) := plain rfl trivial

theorem veMaxu (b : Bay) (vd va : VReg) (o : VBOp) (pg : PReg) : Statement (.veMaxu b vd va o pg) := plain rfl trivial

theorem veSel (b : Bay) (vd va : VReg) (o : VBOp) (ps pg : PReg) : Statement (.veSel b vd va o ps pg) := plain rfl trivial

theorem veIota (b : Bay) (vd : VReg) (cb : Ctr) (pg : PReg) : Statement (.veIota b vd cb pg) := plain rfl trivial

theorem veCmp (b : Bay) (pd : PReg) (r : Rel) (va : VReg) (o : VBOp) (pg : PReg) :
    Statement (.veCmp b pd r va o pg) := by
  simp only [Statement, Instr.wf, Legal, bne_iff_ne, ne_eq, Fin.ext_iff, Fin.val_zero]
  omega

theorem veFcmp (b : Bay) (pd : PReg) (r : FRel) (va : VReg) (o : VBOp) (pg : PReg) :
    Statement (.veFcmp b pd r va o pg) := by
  simp only [Statement, Instr.wf, Legal, bne_iff_ne, ne_eq, Fin.ext_iff, Fin.val_zero]
  omega

theorem vePand (b : Bay) (pd pa pb pg : PReg) :
    Statement (.vePand b pd pa pb pg) := by
  simp only [Statement, Instr.wf, Legal, bne_iff_ne, ne_eq, Fin.ext_iff, Fin.val_zero]
  omega

theorem vePor (b : Bay) (pd pa pb pg : PReg) :
    Statement (.vePor b pd pa pb pg) := by
  simp only [Statement, Instr.wf, Legal, bne_iff_ne, ne_eq, Fin.ext_iff, Fin.val_zero]
  omega

theorem vePxor (b : Bay) (pd pa pb pg : PReg) :
    Statement (.vePxor b pd pa pb pg) := by
  simp only [Statement, Instr.wf, Legal, bne_iff_ne, ne_eq, Fin.ext_iff, Fin.val_zero]
  omega

theorem vePnot (b : Bay) (pd pa pg : PReg) :
    Statement (.vePnot b pd pa pg) := by
  simp only [Statement, Instr.wf, Legal, bne_iff_ne, ne_eq, Fin.ext_iff, Fin.val_zero]
  omega

theorem veFadd (b : Bay) (vd va : VReg) (o : VBOp) (pg : PReg) : Statement (.veFadd b vd va o pg) := plain rfl trivial

theorem veFsub (b : Bay) (vd va : VReg) (o : VBOp) (pg : PReg) : Statement (.veFsub b vd va o pg) := plain rfl trivial

theorem veFmul (b : Bay) (vd va : VReg) (o : VBOp) (pg : PReg) : Statement (.veFmul b vd va o pg) := plain rfl trivial

theorem veFma (b : Bay) (vd va : VReg) (o : VBOp) (vc : VReg) (pg : PReg) : Statement (.veFma b vd va o vc pg) := plain rfl trivial

theorem veFmin (b : Bay) (vd va : VReg) (o : VBOp) (pg : PReg) : Statement (.veFmin b vd va o pg) := plain rfl trivial

theorem veFmax (b : Bay) (vd va : VReg) (o : VBOp) (pg : PReg) : Statement (.veFmax b vd va o pg) := plain rfl trivial

theorem veCvt (b : Bay) (vd va : VReg) (toInt : Bool) (pg : PReg) : Statement (.veCvt b vd va toInt pg) := plain rfl trivial

theorem veMadd (b : Bay) (vd va : VReg) (o : VBOp) (v : Fin 64) (pg : PReg) : Statement (.veMadd b vd va o v pg) := plain rfl trivial

theorem veMsub (b : Bay) (vd va : VReg) (o : VBOp) (v : Fin 64) (pg : PReg) : Statement (.veMsub b vd va o v pg) := plain rfl trivial

theorem veMmul (b : Bay) (vd va : VReg) (o : VBOp) (v : Fin 64) (pg : PReg) : Statement (.veMmul b vd va o v pg) := plain rfl trivial

theorem veMmac (b : Bay) (vd va : VReg) (o : VBOp) (v : Fin 64) (pg : PReg) : Statement (.veMmac b vd va o v pg) := plain rfl trivial

theorem veMneg (b : Bay) (vd va : VReg) (v : Fin 64) (pg : PReg) : Statement (.veMneg b vd va v pg) := plain rfl trivial

theorem veMred (b : Bay) (vd va : VReg) (v : Fin 64) (pg : PReg) : Statement (.veMred b vd va v pg) := plain rfl trivial

theorem veMlift (b : Bay) (vd va : VReg) (v w : Fin 64) (pg : PReg) : Statement (.veMlift b vd va v w pg) := plain rfl trivial

theorem veKmac (b : Bay) (cr : Ctr) (init : Bool) (dx : Dix) (wb : Option KmacWb) : Statement (.veKmac b cr init dx wb) := plain rfl trivial

theorem veKmacWriteback (b : Bay) (ev : CodeEvent) : Statement (.veKmacWriteback b ev) := plain rfl trivial

theorem veLrot (b : Bay) (vd va : VReg) (cb : Ctr) (pg : PReg) : Statement (.veLrot b vd va cb pg) := plain rfl trivial

theorem vePerm (b : Bay) (vd va vb : VReg) (pg : PReg) : Statement (.vePerm b vd va vb pg) := plain rfl trivial

theorem veSf (b : Bay) (vd va : VReg) (func : SfFunc) (m1 : Fin 32) (cc : Ctr) (pg : PReg) :
    Statement (.veSf b vd va func m1 cc pg) := by
  have h : va.val + m1.val ≤ 31 ↔ va.val + m1.val + 1 ≤ 32 := by omega
  simp only [Statement, Instr.wf, Legal, Bool.and_eq_true, decide_eq_true_eq, Bool.or_eq_true, beq_iff_eq, h]
  cases SfFunc.isRow func <;> cases SfFunc.usesCc func <;> simp [and_assoc]

theorem veLd (b : Bay) (vd : VReg) (fmt : VFmt) (d : Dix) (pg : PReg) : Statement (.veLd b vd fmt d pg) := plain rfl trivial

theorem veSt (b : Bay) (va : VReg) (fmt : VFmt) (d : Dix) (pg : PReg) : Statement (.veSt b va fmt d pg) := plain rfl trivial

theorem veLdq (b : Bay) (vd : VReg) (q : Fin 8) (m1 : Fin 32) (pg : PReg) :
    Statement (.veLdq b vd q m1 pg) := by
  simp [Statement, Instr.wf, Legal]

theorem veGsign (b : Bay) (pd : PReg) (cg cb : Ctr) (logn : Nat) (pg : PReg) :
    Statement (.veGsign b pd cg cb logn pg) := by
  simp only [Statement, Instr.wf, Legal, bne_iff_ne, ne_eq, Fin.ext_iff, Bool.and_eq_true, decide_eq_true_eq, Fin.val_zero]
  omega

theorem veSum (b : Bay) (cn : Ctr) (kind : SumKind) (fn : LFlag) (pg : PReg) : Statement (.veSum b cn kind fn pg) := plain rfl trivial

theorem veSumResult (b : Bay) : Statement (.veSumResult b) := plain rfl trivial

theorem veLdp (b : Bay) (e m1 : Fin 64) (d : Dix) :
    Statement (.veLdp b e m1 d) := by
  simp only [Statement, Instr.wf, Legal, decide_eq_true_eq]
  omega

theorem veStat (b : Bay) (cn : Ctr) : Statement (.veStat b cn) := plain rfl trivial

theorem veInstrStart (b : Bay) (ev : CodeEvent) : Statement (.veInstrStart b ev) := plain rfl trivial

theorem xfMov (b : Bay) (dst : XDest) (fd : Option LFlag) (d2 : Dix) :
    Statement (.xfMov b dst fd d2) := by
  cases dst <;> simp [Statement, Instr.wf, Legal]

theorem xfGath (b : Bay) (di : Dix) (fd : Option LFlag) (d2 d1 : Dix) : Statement (.xfGath b di fd d2 d1) := plain rfl trivial

theorem xfScat (b : Bay) (acc : Bool) (di : Dix) (fd : Option LFlag) (d2 d1 : Dix) : Statement (.xfScat b acc di fd d2 d1) := plain rfl trivial

theorem xfRing (b : Bay) (fd : Option LFlag) (d1 : Dix) : Statement (.xfRing b fd d1) := plain rfl trivial

theorem xfDnew (b : Bay) (ca : Ctr) (d1 : Dix) : Statement (.xfDnew b ca d1) := plain rfl trivial

theorem xfDarm (b : Bay) (cb : Ctr) (d1 : Dix) : Statement (.xfDarm b cb d1) := plain rfl trivial

theorem xfDdel (b : Bay) (d1 : Dix) : Statement (.xfDdel b d1) := plain rfl trivial

theorem xfStat (b : Bay) (cn : Ctr) : Statement (.xfStat b cn) := plain rfl trivial

theorem transferStart (b : Bay) : Statement (.transferStart b) := plain rfl trivial

theorem transferComplete (b : Bay) (slot : Fin 4) (rb : Bay) (ev : CodeEvent) : Statement (.transferComplete b slot rb ev) := plain rfl trivial

theorem ringBurstFetch (b : Bay) (rb : Bay) (ev : CodeEvent) : Statement (.ringBurstFetch b rb ev) := plain rfl trivial

theorem ringRecordStart (b : Bay) : Statement (.ringRecordStart b) := plain rfl trivial

theorem waitTimeout (b : Bay) (st : Strm) : Statement (.waitTimeout b st) := plain rfl trivial

theorem dlk (b : Bay) : Statement (.dlk b) := plain rfl trivial

theorem parkComplete (b : Bay) : Statement (.parkComplete b) := plain rfl trivial

theorem programRelease (mask : BayMask) : Statement (.programRelease mask) := plain rfl trivial

theorem memRequestArrive (ms : Stk) (req : Nat) (src : Bay) (addr len : Nat) (data : Option (List Byte)) : Statement (.memRequestArrive ms req src addr len data) := plain rfl trivial

theorem memRequestServe (ms : Stk) (pc : Fin 32) (errs : List SectorErr) : Statement (.memRequestServe ms pc errs) := plain rfl trivial

theorem memReadReturn (ms : Stk) (req : Nat) (src : Bay) : Statement (.memReadReturn ms req src) := plain rfl trivial

theorem dramRefresh (ms : Stk) : Statement (.dramRefresh ms) := plain rfl trivial

theorem hotRefreshEnter (ms : Stk) : Statement (.hotRefreshEnter ms) := plain rfl trivial

theorem hotRefreshLeave (ms : Stk) : Statement (.hotRefreshLeave ms) := plain rfl trivial

theorem patrolScrub (ms : Stk) (pc : Fin 32) (errs : List SectorErr) : Statement (.patrolScrub ms pc errs) := plain rfl trivial

theorem stackTempRead (ms : Stk) (dies : Vector Int 16) : Statement (.stackTempRead ms dies) := plain rfl trivial

theorem stackCapLower (ms : Stk) : Statement (.stackCapLower ms) := plain rfl trivial

theorem stackCapRaise (ms : Stk) : Statement (.stackCapRaise ms) := plain rfl trivial

theorem actLimitSet (ms : Stk) : Statement (.actLimitSet ms) := plain rfl trivial

theorem actLimitLift (ms : Stk) : Statement (.actLimitLift ms) := plain rfl trivial

theorem stackThermFault (ms : Stk) : Statement (.stackThermFault ms) := plain rfl trivial

theorem bandZeroComplete : Statement (.bandZeroComplete) := plain rfl trivial

theorem stackInitComplete : Statement (.stackInitComplete) := plain rfl trivial

theorem pageRepairStart (b : Bay) : Statement (.pageRepairStart b) := plain rfl trivial

theorem pageRepairComplete (b : Bay) (rd : PageRead) : Statement (.pageRepairComplete b rd) := plain rfl trivial

theorem correctedWriteback (b : Bay) (id : Byte) (met : Option Nat) : Statement (.correctedWriteback b id met) := plain rfl trivial

theorem scrubStep (b : Bay) (rd : PageRead) : Statement (.scrubStep b rd) := plain rfl trivial

theorem reencodeComplete : Statement (.reencodeComplete) := plain rfl trivial

theorem scratchpadInitComplete : Statement (.scratchpadInitComplete) := plain rfl trivial

theorem beatBlockReceive (bnum : BitVec 48) (crc : Byte) : Statement (.beatBlockReceive bnum crc) := plain rfl trivial

theorem markerArrival (off : Int) (gap : Nat) : Statement (.markerArrival off gap) := plain rfl trivial

theorem beatEdge (smp : Sample) : Statement (.beatEdge smp) := plain rfl trivial

theorem holdEnter : Statement (.holdEnter) := plain rfl trivial

theorem holdExit : Statement (.holdExit) := plain rfl trivial

theorem beatLost : Statement (.beatLost) := plain rfl trivial

theorem acquisitionDone : Statement (.acquisitionDone) := plain rfl trivial

theorem lockingDone : Statement (.lockingDone) := plain rfl trivial

theorem lockingFail : Statement (.lockingFail) := plain rfl trivial

theorem recordDrain (n : Nat) (ev : CodeEvent) : Statement (.recordDrain n ev) := plain rfl trivial

theorem replayInputRelease (ev : CodeEvent) : Statement (.replayInputRelease ev) := plain rfl trivial

theorem linkAlignmentChange (lanes : BitVec 4) : Statement (.linkAlignmentChange lanes) := plain rfl trivial

theorem linkReinit : Statement (.linkReinit) := plain rfl trivial

theorem linkAck (f : Frame) (crc : W32) : Statement (.linkAck f crc) := plain rfl trivial

theorem linkNak (f : Frame) (crc : W32) : Statement (.linkNak f crc) := plain rfl trivial

theorem retransmitTimeout : Statement (.retransmitTimeout) := plain rfl trivial

theorem resendLimit : Statement (.resendLimit) := plain rfl trivial

theorem ackDue : Statement (.ackDue) := plain rfl trivial

theorem creditRepeat : Statement (.creditRepeat) := plain rfl trivial

theorem sessionHello (f : Frame) : Statement (.sessionHello f) := plain rfl trivial

theorem sessionAccept (slot : Slot) (h : Handshake) : Statement (.sessionAccept slot h) := plain rfl trivial

theorem sessionFinish (f : Frame) : Statement (.sessionFinish f) := plain rfl trivial

theorem sessionClose (f : Frame) : Statement (.sessionClose f) := plain rfl trivial

theorem finishTimeout (slot : Slot) : Statement (.finishTimeout slot) := plain rfl trivial

theorem sessionIdleTimeout (slot : Slot) : Statement (.sessionIdleTimeout slot) := plain rfl trivial

theorem odRead (f : Frame) (ev : CodeEvent) : Statement (.odRead f ev) := plain rfl trivial

theorem odWrite (f : Frame) : Statement (.odWrite f) := plain rfl trivial

theorem bulkWrite (f : Frame) (ev : CodeEvent) : Statement (.bulkWrite f ev) := plain rfl trivial

theorem bulkRead (f : Frame) : Statement (.bulkRead f) := plain rfl trivial

theorem bulkReadData (ev : CodeEvent) : Statement (.bulkReadData ev) := plain rfl trivial

theorem flagUpdate (f : Frame) : Statement (.flagUpdate f) := plain rfl trivial

theorem recordScript (f : Frame) : Statement (.recordScript f) := plain rfl trivial

theorem heldFrameRelease (ix : Nat) (ev : CodeEvent) : Statement (.heldFrameRelease ix ev) := plain rfl trivial

theorem writeOther : Statement (.writeOther) := plain rfl trivial

theorem odInstall (ev : CodeEvent) : Statement (.odInstall ev) := plain rfl trivial

theorem installComplete : Statement (.installComplete) := plain rfl trivial

theorem odEvict : Statement (.odEvict) := plain rfl trivial

theorem contextRetireEmpty (ctx : Fin 16384) : Statement (.contextRetireEmpty ctx) := plain rfl trivial

theorem odTideRestart : Statement (.odTideRestart) := plain rfl trivial

theorem odPark : Statement (.odPark) := plain rfl trivial

theorem odResume : Statement (.odResume) := plain rfl trivial

theorem odLoad : Statement (.odLoad) := plain rfl trivial

theorem loadComplete (ev : CodeEvent) : Statement (.loadComplete ev) := plain rfl trivial

theorem odUnload : Statement (.odUnload) := plain rfl trivial

theorem odLaunch : Statement (.odLaunch) := plain rfl trivial

theorem odChannelRestart : Statement (.odChannelRestart) := plain rfl trivial

theorem odLinkReset : Statement (.odLinkReset) := plain rfl trivial

theorem linkResetEffect : Statement (.linkResetEffect) := plain rfl trivial

theorem odBayReset : Statement (.odBayReset) := plain rfl trivial

theorem bayResetEffect : Statement (.bayResetEffect) := plain rfl trivial

theorem odStreamReset : Statement (.odStreamReset) := plain rfl trivial

theorem odPowerCeiling : Statement (.odPowerCeiling) := plain rfl trivial

theorem odPageCodeStrength : Statement (.odPageCodeStrength) := plain rfl trivial

theorem odBandModes : Statement (.odBandModes) := plain rfl trivial

theorem odBeatFree : Statement (.odBeatFree) := plain rfl trivial

theorem odBeatRelock : Statement (.odBeatRelock) := plain rfl trivial

theorem odRunArm : Statement (.odRunArm) := plain rfl trivial

theorem odRunClose : Statement (.odRunClose) := plain rfl trivial

theorem odRecordingEnable : Statement (.odRecordingEnable) := plain rfl trivial

theorem odReplayArm : Statement (.odReplayArm) := plain rfl trivial

theorem odReplayStop : Statement (.odReplayStop) := plain rfl trivial

theorem odSessionClose : Statement (.odSessionClose) := plain rfl trivial

theorem odAttestNonce : Statement (.odAttestNonce) := plain rfl trivial

theorem attestReportReady (slot : Slot) : Statement (.attestReportReady slot) := plain rfl trivial

theorem odTmxSelect : Statement (.odTmxSelect) := plain rfl trivial

theorem odSecurityVersion : Statement (.odSecurityVersion) := plain rfl trivial

theorem odOwnerKey : Statement (.odOwnerKey) := plain rfl trivial

theorem odTileRetire : Statement (.odTileRetire) := plain rfl trivial

theorem odDebugClose : Statement (.odDebugClose) := plain rfl trivial

theorem journalIntentDone (readBackOk : Bool) : Statement (.journalIntentDone readBackOk) := plain rfl trivial

theorem journalCommitDone : Statement (.journalCommitDone) := plain rfl trivial

theorem bootStageFuseDone : Statement (.bootStageFuseDone) := plain rfl trivial

theorem bootStageIdentityDone : Statement (.bootStageIdentityDone) := plain rfl trivial

theorem fwVerifyDone (ev : CodeEvent) : Statement (.fwVerifyDone ev) := plain rfl trivial

theorem firmwareAccess (acc : FwAccess) : Statement (.firmwareAccess acc) := plain rfl trivial

theorem bnModmul (x : BnArgs) : Statement (.bnModmul x) := plain rfl trivial

theorem bnModexp (x : BnArgs) : Statement (.bnModexp x) := plain rfl trivial

theorem bnModinv (x : BnArgs) : Statement (.bnModinv x) := plain rfl trivial

theorem bnPchk (x : BnArgs) : Statement (.bnPchk x) := plain rfl trivial

theorem bnPmul (x : BnArgs) : Statement (.bnPmul x) := plain rfl trivial

theorem bnPmulg (x : BnArgs) : Statement (.bnPmulg x) := plain rfl trivial

theorem bnPadd (x : BnArgs) : Statement (.bnPadd x) := plain rfl trivial

theorem bnRands (x : BnArgs) (trng : Nat) : Statement (.bnRands x trng) := plain rfl trivial

theorem bnAbort : Statement (.bnAbort) := plain rfl trivial

theorem bnSlotLenWrite (slot : Fin 64) (len : BitVec 7) : Statement (.bnSlotLenWrite slot len) := plain rfl trivial

theorem bnSlotDataWrite (slot word : Fin 64) (v : BitVec 64) : Statement (.bnSlotDataWrite slot word v) := plain rfl trivial

theorem bnOpComplete : Statement (.bnOpComplete) := plain rfl trivial

theorem bnUeAbort (slot : Fin 64) (byte : Fin 512) : Statement (.bnUeAbort slot byte) := plain rfl trivial

theorem trngHealthFail : Statement (.trngHealthFail) := plain rfl trivial

theorem bnAbortComplete : Statement (.bnAbortComplete) := plain rfl trivial

theorem inputRise (mv : Nat) : Statement (.inputRise mv) := plain rfl trivial

theorem rampStep : Statement (.rampStep) := plain rfl trivial

theorem refclkValid : Statement (.refclkValid) := plain rfl trivial

theorem powerOnResetRelease : Statement (.powerOnResetRelease) := plain rfl trivial

theorem rampAbort (mv : Nat) : Statement (.rampAbort mv) := plain rfl trivial

theorem inputFail (mv : Nat) : Statement (.inputFail mv) := plain rfl trivial

theorem holdupEnd : Statement (.holdupEnd) := plain rfl trivial

theorem failRestart : Statement (.failRestart) := plain rfl trivial

theorem brownoutEnter : Statement (.brownoutEnter) := plain rfl trivial

theorem brownoutLeave : Statement (.brownoutLeave) := plain rfl trivial

theorem overvoltageFault : Statement (.overvoltageFault) := plain rfl trivial

theorem psDieFault (ps : Fin 6) : Statement (.psDieFault ps) := plain rfl trivial

theorem sensorHistoryFull : Statement (.sensorHistoryFull) := plain rfl trivial

theorem powerCapRaise : Statement (.powerCapRaise) := plain rfl trivial

theorem powerCeilingFault : Statement (.powerCeilingFault) := plain rfl trivial

theorem dvfsClockSwitch (b : Bay) : Statement (.dvfsClockSwitch b) := plain rfl trivial

theorem railSettled (b : Bay) : Statement (.railSettled b) := plain rfl trivial

theorem thermalCapLower (b : Bay) : Statement (.thermalCapLower b) := plain rfl trivial

theorem thermalCapRaise (b : Bay) : Statement (.thermalCapRaise b) := plain rfl trivial

theorem neighbourThermFault (b1 b2 : Bay) : Statement (.neighbourThermFault b1 b2) := plain rfl trivial

theorem bayThermFault (b : Bay) : Statement (.bayThermFault b) := plain rfl trivial

theorem uncoreThermFault : Statement (.uncoreThermFault) := plain rfl trivial

theorem trstAssert (low : Bool) : Statement (.trstAssert low) := plain rfl trivial

theorem tapExtest (refclk : Bool) (load : Option (BitVec 21)) : Statement (.tapExtest refclk load) := plain rfl trivial

theorem tapSamplePreload (refclk : Bool) (load : Option (BitVec 21)) : Statement (.tapSamplePreload refclk load) := plain rfl trivial

theorem tapIdcode : Statement (.tapIdcode) := plain rfl trivial

theorem tapIntscan : Statement (.tapIntscan) := plain rfl trivial

theorem tapMemacc (dr : Option (BitVec 128)) : Statement (.tapMemacc dr) := plain rfl trivial

theorem tapBypass (code : Byte) : Statement (.tapBypass code) := plain rfl trivial

theorem memaccRead (addr : BitVec 48) : Statement (.memaccRead addr) := plain rfl trivial

theorem memaccWrite (addr : BitVec 48) (data : BitVec 64) : Statement (.memaccWrite addr data) := plain rfl trivial

theorem memaccServe (ev : CodeEvent) : Statement (.memaccServe ev) := plain rfl trivial

theorem frameCrcFail (v : List Byte) : Statement (.frameCrcFail v) := plain rfl trivial

theorem blockError : Statement (.blockError) := plain rfl trivial

end Sys2Proof.Laws.Wf
end

