-- ==== Sys2Proof/Machine/Iword.lean ====
section
/-! DEFINITION. The command an instruction word of IMEM stands for (R213 to R222). A command that only issues carries no
outcome of a check code: `clean`, `false`. -/

namespace Sys2Proof.Machine

/-- Operand B of the counter group (R217). -/
def bOpOf (w : Nat) : BOp :=
  if fld w 47 47 = 1 then .imm (BitVec.ofNat 16 (fld w 15 0)) else .reg (Fin.ofNat 16 (fld w 43 40))

/-- Operand B of the VR layout (R221). -/
def vbOpOf (w : Nat) : VBOp :=
  if fld w 40 40 = 1 then .ctr (Fin.ofNat 16 (fld w 35 32)) else .reg (Fin.ofNat 32 (fld w 45 41))

/-- REL of TS.CMP and VE.CMP (R217). -/
def relOf (n : Nat) : Option Rel := [Rel.eq, .ne, .lt, .ge, .ltu, .geu][n]?

/-- REL of VE.FCMP (R221). -/
def fRelOf (n : Nat) : Option FRel := [FRel.eq, .ne, .lt, .ge, .le, .gt, .un][n]?

/-- OP2 of TS.KLOG (R217). -/
def kOpOf (n : Nat) : Option KOp := [KOp.and, .or, .xor, .andn][n]?

/-- NF of TS.HEND (R217). -/
def nFormOf (n : Nat) : Option NForm := [NForm.keep, .coef, .ntt][n]?

/-- REG of MM.STAT (R219). -/
def tileRegOf (n : Nat) : Option TileReg := [TileReg.tcfg, .tstat, .stRow][n]?

/-- FMT of VE.LD and VE.ST (R144). -/
def vFmtOf (n : Nat) : Option VFmt := [VFmt.w32, .bf16, .e4m3, .e5m2, .int8, .uint8, .int16][n]?

/-- FUNC of VE.SF (R166, R168). -/
def sfFuncOf (n : Nat) : Option SfFunc :=
  if n < 0x10 then
    [SfFunc.exp, .exp2, .ln, .log2, .rcp, .sqrt, .rsqrt, .tanh, .sigmoid, .gelu, .silu, .erf][n]?
  else [SfFunc.rowmax, .rowsumexp, .rowstat, .rowmsq, .rowsum][n - 0x10]?

/-- KIND and SRC of VE.SUM (R221). -/
def sumKindOf (w : Nat) : Option SumKind :=
  let p : PReg := Fin.ofNat 8 (fld w 50 48)
  let v : VReg := Fin.ofNat 32 (fld w 50 46)
  [SumKind.any p, .all p, .cnt p, .maxi v, .maxu v, .maxf v, .ovf][fld w 31 29]?

/-- Fd under FE (R218). -/
def feOf (w : Nat) : Option LFlag := if fld w 39 39 = 1 then some (Fin.ofNat 64 (fld w 37 32)) else none

/-- D1 and D2 (R214). -/
def dOne (w : Nat) : Dix := Fin.ofNat 2048 (fld w 10 0)
def dTwo (w : Nat) : Dix := Fin.ofNat 2048 (fld w 26 16)

/-- A one-bit field. -/
def bitOf (w i : Nat) : Bool := fld w i i == 1

/-- A counter field from its top bit. -/
def ctrAt (w hi : Nat) : Ctr := Fin.ofNat 16 (fld w hi (hi - 3))

/-- A local-flag field from its top bit. -/
def flagAt (w hi : Nat) : LFlag := Fin.ofNat 64 (fld w hi (hi - 5))

/-- A predicate field from its top bit. -/
def predAt (w hi : Nat) : PReg := Fin.ofNat 8 (fld w hi (hi - 2))

/-- Pg of a VE. instruction, and its registers Vd and Va (R221). -/
def pgOf (w : Nat) : PReg := predAt w 38
def vdOf (w : Nat) : VReg := Fin.ofNat 32 (fld w 55 51)
def vaOf (w : Nat) : VReg := Fin.ofNat 32 (fld w 50 46)

/-- The logical tile of an MM. instruction, and a count less one (R219). -/
def ltOf (w : Nat) : Lt := Fin.ofNat 8 (fld w 55 53)
def rowsOf (w : Nat) : Fin 256 := Fin.ofNat 256 (fld w 39 32)

/-- The TS. instructions (R217). -/
def tsInstr (b : Bay) (st : Strm) (w : Nat) : Option Instr :=
  let t := BitVec.ofNat 15 (fld w 14 0)
  match opOf w with
  | 0x01 => some (.tsCset b st (ctrAt w 55) (BitVec.ofNat 32 (fld w 31 0)))
  | 0x02 => some (.tsCadd b st (ctrAt w 55) (ctrAt w 51) (bOpOf w))
  | 0x03 => some (.tsCsub b st (ctrAt w 55) (ctrAt w 51) (bOpOf w))
  | 0x04 => some (.tsCmul b st (ctrAt w 55) (ctrAt w 51) (bOpOf w))
  | 0x05 => some (.tsCshl b st (ctrAt w 55) (ctrAt w 51) (bOpOf w))
  | 0x06 => some (.tsCshr b st (ctrAt w 55) (ctrAt w 51) (bOpOf w))
  | 0x07 => some (.tsCand b st (ctrAt w 55) (ctrAt w 51) (bOpOf w))
  | 0x08 => some (.tsCor b st (ctrAt w 55) (ctrAt w 51) (bOpOf w))
  | 0x09 => some (.tsCxor b st (ctrAt w 55) (ctrAt w 51) (bOpOf w))
  | 0x0A => (relOf (fld w 46 44)).map (fun r => .tsCmp b st (predAt w 54) (ctrAt w 51) r (bOpOf w))
  | 0x0B => (kOpOf (fld w 45 44)).map (fun o => .tsKlog b st (predAt w 54) (predAt w 50) o (predAt w 42))
  | 0x0C => some (.tsLdw b st (ctrAt w 55) (ctrAt w 51) (BitVec.ofNat 16 (fld w 15 0)) .clean)
  | 0x0D => some (.tsStw b st (ctrAt w 55) (ctrAt w 51) (BitVec.ofNat 16 (fld w 15 0)))
  | 0x0E => some (.tsBeat b st (ctrAt w 55))
  | 0x0F => some (.tsLidx b st (ctrAt w 55) (Fin.ofNat 4 (fld w 33 32)))
  | 0x10 => some (.tsBr b st (if fld w 55 55 = 1 then .flag (flagAt w 53) else .cmp (predAt w 50)) (bitOf w 54) t)
  | 0x11 => some (.tsJmp b st t)
  | 0x12 => some (.tsCall b st t)
  | 0x13 => some (.tsRet b st)
  | 0x14 => some (.tsEnd b st)
  | 0x15 => some (.tsLoop b st (ctrAt w 55) t)
  | 0x16 => some (.tsBreak b st (fld w 34 32))
  | 0x18 => some (.tsFset b st (flagAt w 53))
  | 0x19 => some (.tsFclr b st (flagAt w 53))
  | 0x1A => some (.tsWait b st (flagAt w 53) (bitOf w 47) (bitOf w 46))
  | 0x1B => some (.tsGadd b st (Fin.ofNat 256 (fld w 47 40)) (BitVec.ofNat 8 (fld w 7 0)))
  | 0x1C => some (.tsGset b st (Fin.ofNat 256 (fld w 47 40)) (ctrAt w 55))
  | 0x1D => some (.tsGwait b st (Fin.ofNat 256 (fld w 47 40)) (ctrAt w 55))
  | 0x20 => some (.tsQput b st (predAt w 50) (ctrAt w 55) (ctrAt w 35))
  | 0x21 => some (.tsQpop b st (predAt w 50) (ctrAt w 55) (ctrAt w 35) .clean)
  | 0x22 => some (.tsRel b st (ctrAt w 55))
  | 0x23 => some (.tsYield b st)
  | 0x24 => some (.tsPinit b st (ctrAt w 55) (ctrAt w 51) (flagAt w 45))
  | 0x25 => some (.tsTake b st (ctrAt w 55) (flagAt w 45))
  | 0x28 => some (.tsHop b (ctrAt w 55) (ctrAt w 51) (ctrAt w 47) (ctrAt w 43) (ctrAt w 35) (BitVec.ofNat 12 (fld w 11 0)))
  | 0x29 => (nFormOf (fld w 33 32)).map (fun f => .tsHend b f)
  | 0x2A => some (.tsHout b (BitVec.ofNat 8 (fld w 15 8)) (BitVec.ofNat 8 (fld w 7 0)))
  | 0x2C => some (.tsDarm b (ctrAt w 55) (dOne w))
  | 0x30 => some (.tsScfg b (ctrAt w 55) (ctrAt w 51))
  | 0x31 => some (.tsAmax b (ctrAt w 55) (ctrAt w 51) (bitOf w 47) (bitOf w 46))
  | 0x32 => some (.tsScale b (ctrAt w 55) (ctrAt w 51))
  | 0x33 => some (.tsUwr b (ctrAt w 55) (ctrAt w 51) (ctrAt w 47) (bitOf w 43))
  | 0x34 => some (.tsUstat b (ctrAt w 55) (ctrAt w 51))
  | _ => none

/-- The XF. instructions (R218). -/
def xfInstr (b : Bay) (w : Nat) : Option Instr :=
  let di : Dix := Fin.ofNat 2048 (fld w 50 40)
  match opOf w with
  | 0x40 => some (.xfMov b (if fld w 47 47 = 1 then .queue (predAt w 42) else .desc (dOne w)) (feOf w) (dTwo w))
  | 0x41 => some (.xfGath b di (feOf w) (dTwo w) (dOne w))
  | 0x42 => some (.xfScat b (bitOf w 51) di (feOf w) (dTwo w) (dOne w))
  | 0x43 => some (.xfRing b (feOf w) (dOne w))
  | 0x44 => some (.xfDnew b (ctrAt w 55) (dOne w))
  | 0x45 => some (.xfDarm b (ctrAt w 55) (dOne w))
  | 0x46 => some (.xfDdel b (dOne w))
  | 0x47 => some (.xfStat b (ctrAt w 55))
  | _ => none

/-- The MM., TD., TBL. and NT. instructions (R219). -/
def mmInstr (b : Bay) (w : Nat) : Option Instr :=
  match opOf w with
  | 0x60 => some (.mmCfg b (ltOf w) (BitVec.ofNat 32 (fld w 31 0)))
  | 0x61 => some (.mmLdp b (ltOf w) (Fin.ofNat 256 (fld w 47 40)) (rowsOf w) (dOne w))
  | 0x62 => some (.mmLds b (ltOf w) (bitOf w 52) (bitOf w 51) (bitOf w 50) (rowsOf w) (dOne w))
  | 0x63 => some (.mmMul b (BitVec.ofNat 8 (fld w 55 48)) (bitOf w 47) (bitOf w 46) (bitOf w 45) (rowsOf w) (dOne w))
  | 0x64 => some (.mmDrain b (ltOf w) (bitOf w 52) (flagAt w 45) (flagAt w 21) (rowsOf w) (dOne w))
  | 0x65 => some (.mmClr b (ltOf w) (bitOf w 52))
  | 0x66 => (tileRegOf (fld w 41 40)).map (fun r => .mmStat b (ltOf w) r (ctrAt w 35))
  | 0x68 => some (.tdKey b (ctrAt w 55) (ctrAt w 51) (if bitOf w 43 then some (ctrAt w 47) else none) (bitOf w 42)
      (Fin.ofNat 64 (fld w 37 32)) .clean)
  | 0x69 => some (.tdDrop b)
  | 0x6A => some (.tdStat b (ctrAt w 55))
  | 0x6C => some (.tblLd b (bitOf w 52) (ctrAt w 51) (flagAt w 45) (dOne w))
  | 0x6D => some (.tblSwap b)
  | 0x6E => some (.tblStat b (ctrAt w 55))
  | 0x70 => some (.ntCfg b (BitVec.ofNat 32 (fld w 31 0)))
  | 0x71 => some (.ntLdp b (dOne w))
  | 0x72 => some (.ntFwd b (flagAt w 45) (dTwo w) (dOne w))
  | 0x73 => some (.ntInv b (flagAt w 45) (dTwo w) (dOne w))
  | 0x74 => some (.ntTv b (bitOf w 52) (bitOf w 47) (ctrAt w 43) (ctrAt w 35))
  | 0x75 => some (.ntStep b (bitOf w 52) (flagAt w 45) (ctrAt w 35) (dOne w))
  | 0x76 => some (.ntAcc b (bitOf w 52) (flagAt w 45) (dTwo w))
  | 0x77 => some (.ntOut b (bitOf w 52) (flagAt w 45) (dOne w))
  | _ => none

/-- The VE. instructions (R221). -/
def veInstr (b : Bay) (w : Nat) : Option Instr :=
  let vd := vdOf w
  let va := vaOf w
  let o := vbOpOf w
  let pg := pgOf w
  let v : Fin 64 := Fin.ofNat 64 (fld w 29 24)
  match opOf w with
  | 0x80 => some (.veAdd b vd va o pg)
  | 0x81 => some (.veSub b vd va o pg)
  | 0x82 => some (.veMull b vd va o pg)
  | 0x83 => some (.veMulh b vd va o pg)
  | 0x84 => some (.veMulhu b vd va o pg)
  | 0x85 => some (.veAnd b vd va o pg)
  | 0x86 => some (.veOr b vd va o pg)
  | 0x87 => some (.veXor b vd va o pg)
  | 0x88 => some (.veShl b vd va o pg)
  | 0x89 => some (.veShr b vd va o pg)
  | 0x8A => some (.veSra b vd va o pg)
  | 0x8B => some (.veMin b vd va o pg)
  | 0x8C => some (.veMax b vd va o pg)
  | 0x8D => some (.veMinu b vd va o pg)
  | 0x8E => some (.veMaxu b vd va o pg)
  | 0x8F => some (.veSel b vd va o (predAt w 30) pg)
  | 0x90 => some (.veIota b vd (ctrAt w 35) pg)
  | 0x91 => (relOf (fld w 31 29)).map (fun r => .veCmp b (predAt w 55) r va o pg)
  | 0x92 => (fRelOf (fld w 31 29)).map (fun r => .veFcmp b (predAt w 55) r va o pg)
  | 0x93 => some (.vePand b (predAt w 55) (predAt w 50) (predAt w 47) pg)
  | 0x94 => some (.vePor b (predAt w 55) (predAt w 50) (predAt w 47) pg)
  | 0x95 => some (.vePxor b (predAt w 55) (predAt w 50) (predAt w 47) pg)
  | 0x96 => some (.vePnot b (predAt w 55) (predAt w 50) pg)
  | 0x98 => some (.veFadd b vd va o pg)
  | 0x99 => some (.veFsub b vd va o pg)
  | 0x9A => some (.veFmul b vd va o pg)
  | 0x9B => some (.veFma b vd va o (Fin.ofNat 32 (fld w 30 26)) pg)
  | 0x9C => some (.veFmin b vd va o pg)
  | 0x9D => some (.veFmax b vd va o pg)
  | 0x9E => some (.veCvt b vd va (bitOf w 30) pg)
  | 0xA0 => some (.veMadd b vd va o v pg)
  | 0xA1 => some (.veMsub b vd va o v pg)
  | 0xA2 => some (.veMmul b vd va o v pg)
  | 0xA3 => some (.veMmac b vd va o v pg)
  | 0xA4 => some (.veMneg b vd va v pg)
  | 0xA5 => some (.veMred b vd va v pg)
  | 0xA6 => some (.veMlift b vd va v (flagAt w 21) pg)
  | 0xA8 => some (.veKmac b (ctrAt w 55) (bitOf w 51) (Fin.ofNat 2048 (fld w 50 40))
      (if bitOf w 39 then some ⟨flagAt w 37, dTwo w, dOne w⟩ else none))
  | 0xA9 => some (.veLrot b vd va (ctrAt w 35) pg)
  | 0xAA => some (.vePerm b vd va (Fin.ofNat 32 (fld w 45 41)) pg)
  | 0xAB => (sfFuncOf (fld w 31 27)).map (fun f => .veSf b vd va f (Fin.ofNat 32 (fld w 20 16)) (ctrAt w 15) pg)
  | 0xAC => (vFmtOf (fld w 31 28)).map (fun f => .veLd b vd f (dOne w) pg)
  | 0xAD => (vFmtOf (fld w 31 28)).map (fun f => .veSt b va f (dOne w) pg)
  | 0xAE => some (.veLdq b vd (predAt w 42) (Fin.ofNat 32 (fld w 20 16)) pg)
  | 0xAF => some (.veGsign b (predAt w 55) (ctrAt w 51) (ctrAt w 35) (fld w 31 27) pg)
  | 0xB0 => (sumKindOf w).map (fun k => .veSum b (ctrAt w 55) k (flagAt w 45) pg)
  | 0xB1 => some (.veLdp b (flagAt w 45) (flagAt w 37) (dOne w))
  | 0xB2 => some (.veStat b (ctrAt w 55))
  | _ => none

/-- The command an instruction word stands for in a stream; none for a word the loader refuses there (R213 to R222).
(DEDUCED, log 155) -/
def instrOf (b : Bay) (st : Strm) (w : Nat) : Option Instr :=
  if wordOk w && streamOk st b.val (2 ^ 12 - 1) w then
    if opOf w < 0x40 then tsInstr b st w else if opOf w < 0x60 then xfInstr b w else if opOf w < 0x80 then mmInstr b w
    else veInstr b w
  else none

/-- The command that the word at a stream's PC stands for (R178, R213). -/
def fetched (b : Bay) (st : Strm) (s : State) : Option Instr :=
  instrOf b st (Sparse.get (fun _ => 0#64) (s.strm b st).imem (s.strm b st).pc.toNat).toNat

end Sys2Proof.Machine
end

