-- ==== Sys2Proof/Tests/Slice0.lean ====
section
/-! SUPPORT. The model's own tests: ill-formed commands refused, values the specification works out, and one witness for the hypotheses of every statement. -/

section

set_option maxRecDepth 20000
set_option Elab.async false
set_option linter.unusedVariables false

open Sys2Proof Sys2Proof.Machine

namespace Sys2Proof.Tests

/-! ### States the witnesses are built from -/

/-- A stream in RUN. -/
def runS : Stream := { Stream.reset with status := .run }

/-- A bay with both streams in RUN. -/
def bay0 : Bays := { Bays.reset with a := runS, x := runS }

/-- The block after reset with bay 0 as given. -/
def bayS (x : Bays) : State := State.reset.setBay 0 x

/-- Both streams of bay 0 run. -/
def t0 : State := bayS bay0

/-- Bay 0 with its X-stream, or its A-stream, or both, as given. -/
def xS (x : Stream) : State := bayS { bay0 with x := x }
def aS (x : Stream) : State := bayS { bay0 with a := x }
def axS (x : Stream) : State := bayS { bay0 with a := x, x := x }

/-- Streams with one counter set, and streams in a wait. -/
def ctrS (k : Ctr) (v : W32) : State := axS { runS with ctr := runS.ctr.set k v }
def waitS (w : Wait) : State := axS { runS with status := .wait, wait := some w }

/-- A descriptor of 64 bytes of bay 0's scratchpad. -/
def d0 : Desc :=
  { kind := 1, etype := 0, red := false, form := false, sbay := 0, alloc := 0xFFFF, base := 0x200000000000, q := 0, gal := 0,
    size := #v[64, 1, 1, 1], stride := #v[1, 64, 64, 64], origin := 0x200000000000, pos := 0 }

/-- Bay 0 with that descriptor at index 5. -/
def bayD : Bays := { bay0 with desc := [(5, some d0)] }
def descS : State := bayS bayD

/-- A ring descriptor of 64 records of scratchpad, bursts of 2, runs of 2. -/
def r0 : Desc := { d0 with kind := 3, size := #v[64, 2, 2, 1] }

/-- One unit of bay 0 as given. -/
def tileS (t : Tile) : State := bayS { bay0 with tiles := bay0.tiles.set 0 t }
def vecS (v : Vec) : State := bayS { bay0 with vec := v }
def ntS (n : Nt) : State := bayS { bay0 with nt := n }
def tblS (t : Tbl) : State := bayS { bay0 with tbl := t }
def tideS (t : Tide) : State := bayS { bay0 with tide := t }
def xfS (x : Xfer) : State := bayS { bay0 with xf := x }
def protS (p : Prot) : State := bayS { bay0 with prot := p }

/-- Queue entries and runs with a given operation. -/
def tEnt (op : TileOp) : TileEnt := ⟨op, 0, 0#15, false, false, none⟩
def vEnt (op : VecOp) : VecEnt := ⟨op, 0, 0#15, false, false, none⟩
def nEnt (op : NtOp) : NtEnt := ⟨op, 0, 7#15, false, none⟩
def xEnt (op : XOp) : XEntry := ⟨op, some 3, none, 0#15, none⟩

/-- Stack 3 as given. -/
def stackS (k : Stack) : State := { t0 with stk := t0.stk.set 3 k }

/-- Header unit with these brackets. -/
def brS (l : List Bracket) : State := { t0 with hdr := { t0.hdr with brackets := l } }

/-- An operation of bay 0 in force, and its bracket. -/
def op0 : OpenOp :=
  { kind := 1, s1 := 0x1000, s2 := none, dst := 0x1040, x := 0#32, verdict := .run, out := Hdr.blank, clamped := Hdr.blank, src := Hdr.blank,
    src2 := none, refs := [], dstBad := false, mark := none, r39 := false, ended := 0#12, nf := [], hout := [],
    haltOn := false, hopRun := true, thresh := 0x40, checks := [], setsDone := [], hends := [] }
def br0 (o : OpenOp) : Bracket := ⟨1#12, [], some o, none, none, [], [0x1000, 0x1040]⟩

/-- An image of bay 0 with 8 headers. -/
def img0 : Image := ⟨1#12, [], [], 0x1000, 8⟩

/-- A key stream of one block of ring degree 1,024 in bay 0, bound and open. -/
def cap0 : TideCap :=
  { fprint := 0#64, seed := List.replicate 32 0#8, primes := [12289, 12289], cls := 1#2, logn := 10, l := 1, k := 1, d := 1,
    kind := 1, dx := 0, gal := 0, kpg := 0, kidx := 0#32 }
def str0 : TStream :=
  { sid := 0, ctx := 0, eidx := 0, cg := 0#32, level := 1, start := none, next := false, opened := true, cap := some cap0,
    bound := true, nset := 0, chk := some 0#8, zero := false, allowed := false, refs := false, rows := 0, segs := 0,
    fills := 0 }

/-- One object-dictionary write has passed the gate. -/
def req (ix : BitVec 16) (sub : Byte) (v : List Byte) : OdReq := ⟨0, false, 2, 0, 0#16, ix, sub, v, []⟩
def odS (ix : BitVec 16) (sub : Byte) (v : List Byte) : State := 
  { t0 with od := { t0.od with cur := some (req ix sub v) }, trust := { t0.trust with stage := .run } }

/-- The link is aligned, memory is initialised, and slot 0 holds an open CUSTODIAN session. -/
def linkS : State :=
  { t0 with
    link := { t0.link with lanes := 0xF#4 }
    ms := { t0.ms with stackInit := false, spadInit := false }
    trust := { t0.trust with idKey := true, stage := .run }
    sess := t0.sess.set 0 { Session.reset with
      ph := .opened, role := 2, kn := List.replicate 32 7#8, ivn := List.replicate 12 9#8 } }

/-- A frame of session 0 without its tag, and a frame with the tag the session's keys give it. -/
def frame (cls opc : Byte) (addr : BitVec 48) (arg : BitVec 64) (v : List Byte) : Frame :=
  ⟨1#8, 0, cls, opc, 0#8, 0#48, 0#16, addr, arg, v, []⟩
def tagged (s : State) (f : Frame) : Frame := { f with tag := frameTag f s }

/-- A frame sent and not acknowledged. -/
def sent (n : Nat) : OutFrame := ⟨3#8, 3#8, 0#8, n, 0#16, 0#48, 0#64, [], [], [], [], none⟩

/-- Beat, power, trust and big-number state as given. -/
def beatS (b : Beat) : State := { t0 with beat := b }
def pwrS (p : Power) : State := { t0 with pwr := p }
def trustS (x : Trust) : State := { t0 with trust := x }
def bnS (b : Bn) : State := { t0 with bn := b }
def sessS (k : Slot) (x : Session) : State := { t0 with sess := t0.sess.set k x }

/-- One segment under way. -/
def segS : State := tideS { Tide.reset with streams := [str0], segs := [⟨0, 0, 0, none⟩] }

theorem seg_words : ∃ (w : List W32) (p r : Nat), segResult (segS.bay 0).tide 0 ⟨0, 0, 0, none⟩ = some (w, p, r) := by
  rcases h : expandSeg cap0 (0, 0) 0 with ⟨w, p, r⟩
  exact ⟨w, p, r, (show segResult (segS.bay 0).tide 0 ⟨0, 0, 0, none⟩ = some (expandSeg cap0 (0, 0) 0) from rfl).trans
    (congrArg some h)⟩

/-- The state a command leads to. -/
def outOf (o : Host.Outcome State Fault Refusal) : State :=
  match o with
  | .next t => t
  | .fault _ => State.reset
  | .refused _ => State.reset

/-- A handshake: the node's point is the base point of P-384, its encapsulation key zero, and the engine holds a shared point. -/
def hello (role : Byte) : List Byte :=
  padTo 1701 ([1#8, role, 2#8, 0#8] ++ List.replicate 32 0#8 ++ [4#8] ++ beBytesOf p384.gx 48 ++ beBytesOf p384.gy 48)
def helloQ (role : Nat) : Hello := ⟨role, 0#16, hello (BitVec.ofNat 8 role)⟩
def shake : Handshake := ⟨[], [], 0, 63⟩
def shakeS (role : Nat) (s : State) : State :=
  { s with
    link := { s.link with hellos := [helloQ role] }
    bn := { s.bn with slots := (s.bn.slots.set 0 ⟨.loaded, 12, []⟩).set 63 ⟨.result, 12, []⟩ } }

/-- The linked block with one session as given, with every session open, and with a report in progress. -/
def linkX (k : Slot) (x : Session) : State := { linkS with sess := linkS.sess.set k x }
def fullS : State := { linkS with sess := Vector.replicate 4 { Session.reset with ph := .opened, role := 2 } }
def busyS : State :=
  { odS 0x8030#16 1#8 (List.replicate 32 1#8) with sess := t0.sess.set 0 { Session.reset with att := ⟨1, [], []⟩ } }

/-- An image of bay 0 whose two streams are one TS.END each, staged at address 0, and the block loading it. -/
def imgBytes : List Byte :=
  leBytes 0x00495A53 4 ++ [1#8, 0#8] ++ leBytes 2 2 ++ leBytes 1 2 ++ List.replicate 6 0#8 ++ leBytes 200 8 ++ List.replicate 40 0#8 ++
    ([0, 1].flatMap (fun k : Nat => [1#8, 1#8, 0#8, BitVec.ofNat 8 k] ++ leBytes 0 4 ++ leBytes (128 + 64 * k) 8 ++ leBytes 8 8 ++
      leBytes 0 8)) ++
    leBytes 0x1400000000000000 8 ++ List.replicate 56 0#8 ++ leBytes 0x1400000000000000 8
def loadS (v : List Byte) (l : List Image) : State :=
  { t0 with mem := (t0.store 0 v).mem, ldr := { Loader.reset with loading := true, images := l } }

/-- A source header of the approximate class; a context of the exact class whose policy is REFRESH, in a block whose bay 0 holds a
routine, with low headers at 0x1000, 0x1040 and 0x1080. -/
def apx : Hdr := { Hdr.blank with cls := 1#2 }
def ctxR : CtxEntry :=
  { CtxEntry.reset with
    st := .ready, cls := 2#2, pol := 2#2, rkeys := true, logn := 10, l := 1, k := 1, d := 1
    cost := (Vector.replicate 16 0).set 11 0x200 }
def lowH : Hdr :=
  { Hdr.blank with magic := 0x5A9C#16, ver := 1#8, cls := 2#2, level := 1#8, slots := 1#24, comp := 2#2, budget := 0x10#16 }
def closeS (l : List Bracket) : State :=
  { brS l with hdr := { t0.hdr with brackets := l, ctx := [(0, { CtxEntry.reset with st := .ready, cls := 1#2, l := 2, logn := 10 })] } }
def insS (l : List Bracket) : State :=
  { bayS { bay0 with
      x := { runS with status := .wait, wait := some ⟨.hop, 0, 0, .tsHop 0 0 1 2 0 3 1#12, 0#32⟩ }, routines := [(2, 5#15)] } with
    hdr := { t0.hdr with brackets := l, ctx := [(0, ctxR)] }
    ldr := { Loader.reset with images := [img0] }
    mem := (([0x1000, 0x1040, 0x1080].foldl (fun (s : State) (a : Nat) => s.store a (leBytes lowH.toNat 64)) t0).mem) }

/-! ### WellFormed: every check refuses an ill-formed term -/

theorem test_wf_flags :
    (Instr.tsGadd 0 .a 224 1#8).wf = false ∧ (Instr.tsGset 0 .a 255 0).wf = false ∧ (Instr.tsGadd 0 .a 223 1#8).wf = true := by
  decide

theorem test_wf_break : (Instr.tsBreak 0 .x 0).wf = false ∧ (Instr.tsBreak 0 .x 5).wf = false ∧ (Instr.tsBreak 0 .x 4).wf = true := by
  decide

theorem test_wf_queues :
    (Instr.tsQput 0 .a 6 0 0).wf = false ∧ (Instr.tsQput 0 .x 5 0 0).wf = false ∧ (Instr.tsQput 0 .a 0 1 15).wf = false ∧
      (Instr.tsQpop 0 .a 0 0 0 .clean).wf = false ∧ (Instr.tsQpop 0 .x 0 15 1 .clean).wf = false ∧
      (Instr.tsQpop 0 .x 5 0 15 .clean).wf = true := by decide

theorem test_wf_hop :
    (Instr.tsHop 0 0 1 2 0 1 1#12).wf = false ∧ (Instr.tsHop 0 0 0 2 1 1 1#12).wf = false ∧
      (Instr.tsHop 0 0 0 2 0 1 2#12).wf = false ∧ (Instr.tsHop 0 0 1 2 0 3 1#12).wf = true := by decide

theorem test_wf_tiles :
    (Instr.mmCfg 0 0 5#32).wf = false ∧ (Instr.mmCfg 0 0 8#32).wf = false ∧ (Instr.mmLdp 0 0 1 255 0).wf = false ∧
      (Instr.mmLds 0 0 false false true 0 1).wf = false ∧ (Instr.mmMul 0 0#8 false false false 0 0).wf = false ∧
      (Instr.mmCfg 0 0 4#32).wf = true := by decide

theorem test_wf_keys_and_ring :
    (Instr.tdKey 0 0 0 none false 0 .clean).wf = false ∧ (Instr.ntCfg 0 0x0000100A#32).wf = false ∧
      (Instr.ntCfg 0 0x0001B00A#32).wf = false ∧ (Instr.ntCfg 0 0x0001100D#32).wf = false ∧
      (Instr.ntTv 0 false true 1 0).wf = false ∧ (Instr.ntCfg 0 0x0001100A#32).wf = true := by decide

theorem test_wf_predicates :
    (Instr.veCmp 0 0 .eq 0 (.reg 0) 0).wf = false ∧ (Instr.veFcmp 0 0 .eq 0 (.reg 0) 0).wf = false ∧
      (Instr.vePand 0 0 1 1 0).wf = false ∧ (Instr.vePor 0 0 1 1 0).wf = false ∧ (Instr.vePxor 0 0 1 1 0).wf = false ∧
      (Instr.vePnot 0 0 1 0).wf = false ∧ (Instr.vePnot 0 7 1 0).wf = true := by decide

theorem test_wf_vector :
    (Instr.veGsign 0 0 0 0 10 0).wf = false ∧ (Instr.veGsign 0 1 0 0 9 0).wf = false ∧ (Instr.veGsign 0 1 0 0 18 0).wf = false ∧
      (Instr.veSf 0 0 0 .exp 1 0 0).wf = false ∧ (Instr.veSf 0 0 0 .exp 0 1 0).wf = false ∧
      (Instr.veSf 0 0 31 .rowsum 1 0 0).wf = false ∧ (Instr.veLdq 0 0 6 0 0).wf = false ∧
      (Instr.veLdp 0 1 63 0).wf = false ∧ (Instr.veSf 0 0 0 .rowsum 31 0 0).wf = true := by decide

theorem test_wf_transfer : (Instr.xfMov 0 (.queue 6) none 0).wf = false ∧ (Instr.xfMov 0 (.queue 5) none 0).wf = true := by decide

/-- An ill-formed command leaves the block as it is. -/
theorem test_ill_formed_does_nothing : outOf (exec (.tsBreak 0 .x 5) t0) = t0 := by decide +kernel

/-! ### Values the specification works out

Each expected value below is the specification's own example (named in the comment), or a published check value. -/

/-- 00_scope.md, little-endian storage: bits [15:8] of the value sit at address a + 1. -/
theorem test_little_endian :
    ((t0.store 0x200014000000 (leBytes 0x0123456789ABCDEF 8)).rd 0x200014000001) = 0xCD#8 := by decide +kernel

/-- 12_stacked_memory.md, the SPREAD example: band 3, address 0x0040_C012_3456. -/
theorem test_spread_place :
    placeOf { t0 with ms := { t0.ms with bands := 8#128 } } 0x0040C0123456 = (11, 0xCAAC2456) := by decide +kernel

/-- 12_stacked_memory.md, the LOCAL example: stack offset 0x2020_5000 is pseudo-channel 0, bank 1, row 257, column 10. -/
theorem test_local_coordinates : coordOf 0x20205000 = (0, 1, 257, 10) := by decide +kernel

/-- 03_modular_matrix_tiles.md, the record of q = 2^30 + 3. -/
theorem test_prime_record : primeOk (PrimeRec.ofNat 0x07FFFFFFA00000040000001F40000003) = true := by decide +kernel

/-- The same record with MU one larger fails the check of R83. -/
theorem test_prime_record_refused : primeOk (PrimeRec.ofNat 0x07FFFFFFA00000050000001F40000003) = false := by decide +kernel

/-- 03_modular_matrix_tiles.md, the worked modular example: column 5 after one row. -/
theorem test_m32_entry :
    ({ Tile.reset with cfg := 3#32, s0 := ⟨.loaded, [(5, 0x00010002#32), (261, 0x20000000#32)]⟩ } : Tile).cell false false
      ([0x01020304#32, 0x30000000#32] ++ List.replicate 254 0#32) 5 0 = (0x0600010205080608#96, false) := by decide +kernel

/-- 04_tide_and_key_switching.md, R114: NTT word 3 of a rotation by 1 at N = 2^13 is word 17, and coefficient 3,000 lands at
6,808. -/
theorem test_auto_positions : autoPi false 5 8192 3 = 17 ∧ autoPi true 5 8192 3000 = 6808 := by decide +kernel

/-- 04_tide_and_key_switching.md, the stored words of b_2 at residue 29 in bay B5. -/
def capT : TideCap := { cap0 with logn := 16, l := 44, k := 16, d := 3, kpg := 0x20000, kidx := 0x102#32 }

theorem test_key_address : capT.stored 5 (29, 2) = 0x00A020200000 := by decide +kernel

/-- The same example's expansion input behind the SEED bytes. -/
theorem test_expansion_input :
    (capT.xofInput (29, 2) 5).drop 32 = [0x02#8, 0x01#8, 0x00#8, 0x00#8, 0x02#8, 0x1D#8, 0x05#8, 0x00#8, 0x01#8] := by
  decide +kernel

/-- 07_clear_numerics.md, the BF16 column: 1.5 × 2^10 − 1.0 × 2^10 + 1.0 × 2^−60 gives 512.0. -/
theorem test_column_sum :
    bankRound (colSum [.fin ⟨false, 3, 9⟩, .fin ⟨true, 1, 10⟩, .fin ⟨false, 1, -60⟩]) = 0x44000000#32 := by decide +kernel

/-- 07_clear_numerics.md, the scale-slot example at steps 0, 16 and 17: a slot with 16 maxima of 3.9. -/
def slotH : ScaleSlot := { ScaleSlot.reset with hist := List.replicate 16 0x4079999A#32 }

theorem test_scale_jit : (((ScaleSlot.reset.scfg 2#32).amax 0x404CCCCD#32).k 0) = 6#8 := by decide +kernel

theorem test_scale_history :
    (slotH.amax 0x41180000#32).k 0 = 6#8 ∧ (((slotH.amax 0x41180000#32).commit false).amax 0x41A00000#32).k 0 = 4#8 := by
  decide +kernel

/-- The same example at steps 18 and 19: an overflow backs off by one. -/
theorem test_scale_backoff :
    let x := ((slotH.commit false).amax 0x41A00000#32).commit false
    (x.k 0) = 3#8 ∧ (x.commit true).backoff = 1 ∧ (((x.commit true).amax 0x41900000#32).k 0) = 2#8 := by decide +kernel

/-- 06_vector_engine.md, VE.GSIGN with g = 5 and k0 = 1,536 at N = 2^13: lanes 103 to 511 are set. -/
def gsignS : State := outOf (exec (.veInstrStart 0 .clean) (vecS { Vec.reset with queue := [vEnt (.gsign 2 5#32 1536#32 13 0)] }))

theorem test_gsign_lanes :
    ((gsignS.bay 0).vec.preds[2]) = (BitVec.ofNat 512 (2 ^ 512 - 2 ^ 103)) := by decide +kernel

/-- 08_bay_streams.md, the work pool of 40 groups over four bays: B2's tenth index is 38, its eleventh take finds none. -/
def poolS (n : Nat) : State :=
  { State.reset.setBay 2 bay0 with
    pools := [(9, { Pool.reset with armed := true, count := 40, mask := 0xF#12, taken := Pool.reset.taken.set 2 n })] }

theorem test_pool_indices :
    ((outOf (exec (.tsTake 2 .x 1 9) (poolS 9))).strm 2 .x).takes = [(1, 38#32, 9, 0)] ∧
      ((outOf (exec (.tsTake 2 .x 1 9) (poolS 10))).strm 2 .x).takes = [(1, 0xFFFFFFFF#32, 9, 0)] := by decide +kernel

/-- 13_beat_and_determinism.md, positions 8 and 9 of the example: the seventh missing marker is bridged, the eighth is not. -/
def beatsS (m : Nat) : State :=
  outOf (exec (.beatEdge ⟨Vector.replicate 12 (Vector.replicate 4 0), Vector.replicate 2 0, Vector.replicate 12 0, 0, 48000, 0, 0#6, 0, 0⟩)
    (beatS { Beat.reset with st := .locked, beat := 4103#48, missing := m }))

theorem test_bridged : (beatsS 6).beat.beat = 4104#48 ∧ (beatsS 6).beat.missing = 7 := by decide +kernel

theorem test_missing : (beatsS 7).beat.beat = 4103#48 ∧ (beatsS 7).beat.missing = 8 := by decide +kernel

/-- 18_power_and_thermal.md, caps of 3 in B5 and 15 elsewhere: 3, 9 for its neighbours, 15 beyond. -/
def capS : State := pwrS { Power.reset with
  opcap := (Vector.replicate 12 15).set 5 3, thermcap := Vector.replicate 12 15, pwrcap := Vector.replicate 12 15 }

theorem test_dvfs_targets :
    (List.finRange 12).map (targetOf capS) = [15, 9, 15, 15, 9, 3, 9, 15, 15, 9, 15, 15] := by decide +kernel

/-- 19_faults_and_reset.md: with the X-stream of B3 halted OD 0x2190:02 reads 0x80. -/
theorem test_halted_mask :
    odValue (State.reset.setBay 3 { Bays.reset with x := { runS with status := .halted } }) 0 0x2190 2 =
      [0x80#8, 0#8, 0#8, 0#8] := by decide +kernel

/-- 20_package_and_test.md: the IDCODE of an SZ9612 of stepping 2. -/
theorem test_idcode : idcode { Trust.reset with fuses := { Fuses.reset with stepping := 2#8 } } = 0x296125CF#32 := by decide +kernel

/-- The part of the worked example: record 8 has committed security version 5. -/
def d1T : Trust := { Trust.reset with journal := [(8, recIntent 1 5#256 ||| 2#320)] }

/-- 15_object_dictionary.md: security version 5 has 59 units left, and 7 costs 2 of them. -/
theorem test_svn_units :
    unitsLeft d1T 1 = 59 ∧ unitsFor d1T 1 7 = 2 := by decide +kernel

/-- 15_object_dictionary.md: an intent left in record 9 is voided at power-up and the version still reads 5. -/
def cutT : Trust := { d1T with journal := [(8, recIntent 1 5#256 ||| 2#320), (9, recIntent 1 7#256)] }

theorem test_intent_voided :
    let t := (outOf (exec .bootStageFuseDone (trustS cutT))).trust
    recVoid (recordAt t 9) = true ∧ svnNow t = 5 ∧ unitsLeft t 1 = 59 := by decide +kernel

/-- 01_organization.md: with PT3 of B7 disabled a request to retire its PT5 is refused, one for B6 is not. -/
theorem test_retire_refused :
    limitedOk { Trust.reset with fuses := { Fuses.reset with map := BitVec.twoPow 108 66 } } 3 0x75 = false ∧
      limitedOk { Trust.reset with fuses := { Fuses.reset with map := BitVec.twoPow 108 66 } } 3 0x65 = true := by decide +kernel

/-! 02_ciphertexts_and_contexts.md, the Cliff example: costs in its order, headers of level 7 unless said otherwise. -/

def costV : Vector Nat 16 := #v[0x10, 0, 0, 0xB8, 8, 0x24, 0x30, 0x1E0, 0, 0, 0, 0x200, 0, 0, 0, 0]
def ctxC : CtxEntry := { CtxEntry.reset with st := .ready, cls := 1#2, logn := 10, l := 8, k := 1, d := 1, cost := costV }
def hdrC (budget : BitVec 16) : Hdr :=
  { Hdr.blank with cls := 1#2, budget := budget, level := 7#8, scale := 40#8, slots := 1#24, comp := 2#2 }
def cliffS (a b : Hdr) : State :=
  let s := { t0 with hdr := { t0.hdr with ctx := [(0, ctxC)] } }
  ((s.store 0x1000 (leBytes a.toNat 64)).store 0x1040 (leBytes b.toNat 64)).store 0x1080 (leBytes Hdr.blank.toNat 64)
def cliffOp (kind : Nat) (a b : Hdr) : OpenOp :=
  openOp (cliffS a b) ⟨0, kind, 0x1000, if kind = 0 ∨ kind = 3 then some 0x1040 else none, 0x1080, 0#32⟩ true false 0x40

theorem test_cliff_mul :
    (cliffOp 3 (hdrC 0x160#16) (hdrC 0x158#16)).verdict = .run ∧
      (cliffOp 3 (hdrC 0x160#16) (hdrC 0x158#16)).out.budget = 0xA0#16 ∧
      (cliffOp 3 (hdrC 0x160#16) (hdrC 0x158#16)).out.comp = 3#2 := by decide +kernel

theorem test_cliff_keyswitch :
    (cliffOp 5 { hdrC 0xA0#16 with comp := 3#2 } (hdrC 0#16)).out.budget = 0x7C#16 ∧
      (cliffOp 5 { hdrC 0xA0#16 with comp := 3#2 } (hdrC 0#16)).out.comp = 2#2 := by decide +kernel

theorem test_cliff_rescale :
    (cliffOp 4 (hdrC 0x7C#16) (hdrC 0#16)).out.budget = 0x74#16 ∧
      (cliffOp 4 (hdrC 0x7C#16) (hdrC 0#16)).out.level = 6#8 := by decide +kernel

theorem test_cliff_spent :
    (cliffOp 3 (hdrC 0x74#16) (hdrC 0x74#16)).verdict = .spent ∧
      (cliffOp 3 (hdrC 0x74#16) (hdrC 0x74#16)).out.cause = 0x22#8 ∧
      (cliffOp 3 (hdrC 0x74#16) (hdrC 0x74#16)).out.budget = 0#16 := by decide +kernel

theorem test_poison_over_malformed :
    let o := cliffOp 0 { hdrC 0#16 with level := 6#8, comp := 3#2, spent := true, cause := 0x22#8 } (hdrC 0x160#16)
    o.verdict = .poison ∧ o.out.level = 6#8 ∧ o.out.comp = 3#2 ∧ o.out.spent = true ∧ o.out.cause = 0x22#8 := by
  decide +kernel

theorem test_cliff_refresh :
    (cliffOp 6 (hdrC 0x70#16) (hdrC 0#16)).verdict = .run ∧ (cliffOp 6 (hdrC 0x70#16) (hdrC 0#16)).out.budget = 0x1E0#16 ∧
      (cliffOp 6 (hdrC 0x6C#16) (hdrC 0#16)).verdict = .spent := by decide +kernel

/-- 02_ciphertexts_and_contexts.md: a fingerprint that differs in one bit is a MISMATCH with CAUSE 0x21. -/
theorem test_fingerprint_mismatch :
    (cliffOp 5 { hdrC 0xA0#16 with fprint := 1#64 } (hdrC 0#16)).verdict = .mismatch ∧
      (cliffOp 5 { hdrC 0xA0#16 with fprint := 1#64 } (hdrC 0#16)).out.cause = 0x21#8 := by decide +kernel

/-- 17_bignum_engine.md: PMUL on P-384 with a point off its curve is refused with OFF_CURVE. -/
def offRun : BnRun := ⟨0x09, ⟨40, 0, 56, 11, 57, 2#2, 0⟩, 0, [], none⟩
def offS : State := bnS { Bn.reset with
  slots := (Bn.reset.slots.set 11 ⟨.loaded, 12, [(0, 1#64), (6, 1#64)]⟩).set 56 ⟨.result, 6, [(0, 5#64)]⟩, run := some offRun }

theorem test_off_curve : (outOf (exec .bnOpComplete offS)).bn.reason = 0x09050B00#32 := by decide +kernel

/-- The same chapter: an uncorrectable byte of scratch slot S42 during PMUL. -/
theorem test_ue_abort : (outOf (exec (.bnUeAbort 42 0) offS)).bn.reason = 0x09112A03#32 := by decide +kernel

/-- 5 × 6 modulo 7. -/
theorem test_modmul :
    ((outOf (exec .bnOpComplete (bnS { Bn.reset with
      slots := ((Bn.reset.slots.set 0 ⟨.loaded, 1, [(0, 5#64)]⟩).set 1 ⟨.loaded, 1, [(0, 6#64)]⟩).set 2 ⟨.loaded, 1, [(0, 7#64)]⟩
      run := some ⟨0x01, ⟨10, 2, 1, 0, 3, 0#2, 0⟩, 0, [], none⟩ }))).bn.slots[3]).val = 2 := by decide +kernel

/-- The published check value of CRC-8 with polynomial 0x07 over the ASCII digits 1 to 9. -/
theorem test_crc8 : crc8 ((List.range 9).map (fun i => BitVec.ofNat 8 (0x31 + i))) = 0xF4#8 := by decide +kernel

/-- FIPS 202: SHAKE256 of the empty message. -/
theorem test_shake256 : shake256 [] 4 = [0x46#8, 0xB9#8, 0xDD#8, 0x2B#8] := by decide +kernel

/-- FIPS 202: SHAKE128 of the empty message. -/
theorem test_shake128 : (release 168 (shake128 [])).take 4 = [0x7F#8, 0x9C#8, 0x2B#8, 0xA4#8] := by decide +kernel

/-- 09_encodings_and_images.md, the two worked words: an MM.MUL over all tiles with descriptor 37, and the patched TS.CSET C3. -/
theorem test_instruction_words :
    instrOf 0 .x 0x63FFA0FF00000025 = some (.mmMul 0 0xFF#8 true false true 255 37) ∧
      instrOf 3 .a 0x0130000001412340 = some (.tsCset 3 .a 3 0x01412340#32) := by decide +kernel

/-- 14_optical_link.md: the nonce of the frame with LSEQ 0x1234. -/
theorem test_nonce :
    frameNonce [0x3A#8, 0x91#8, 0x07#8, 0xC4#8, 0x5E#8, 0x22#8, 0xD0#8, 0x18#8, 0x6B#8, 0xF3#8, 0x0C#8, 0x47#8] 0x1234 =
      [0x3A#8, 0x91#8, 0x07#8, 0xC4#8, 0x6A#8, 0x30#8, 0xD0#8, 0x18#8, 0x6B#8, 0xF3#8, 0x0C#8, 0x47#8] := by decide +kernel

/-- The published check value of the CRC-32 of IEEE 802.3 over the ASCII digits 1 to 9. -/
theorem test_crc32 : crc32 ((List.range 9).map (fun i => BitVec.ofNat 8 (0x31 + i))) = 0xCBF43926#32 := by decide +kernel

/-- The GCM specification's test case 14: AES-256 with a zero key, a zero nonce and a zero block. -/
theorem test_gcm :
    gcmSeal (List.replicate 32 0#8) (List.replicate 12 0#8) [] (List.replicate 16 0#8) =
      ((beBytes 0xcea7403d4d606b6e074ec5d3baf39d18 16).map (BitVec.ofNat 8),
       (beBytes 0xd0d1c8a799996bf0265b98b5d48ab919 16).map (BitVec.ofNat 8)) := by decide +kernel

/-- FIPS 197: the substitution of some bytes by its definition. -/
theorem test_sbox : [0, 1, 0x53, 0xFF].all (fun x => sbox x == sboxDef x) = true ∧ sbox 0x53 = 0xED := by decide +kernel

/-- R244: words with their parity line have a zero value at the root α, here one word and P = 8. -/
theorem test_parity_root :
    let l := ((parityOf 8 [0x0123456789ABCDEF#64]).toList.map (fun x => x.toNat)).take 8
    (wordSyms 0x0123456789ABCDEF#64 ++ l.reverse).foldl (fun v c => gfTwice 16 pagePoly v ^^^ c) 0 = 0 := by decide +kernel

/-- R285: two symbol errors are corrected, three are reported. -/
theorem test_sector_decoder :
    secDecode [(0, 5), (71, 9)] = .correct [(0, 5), (71, 9)] ∧ secDecode [(0, 5), (1, 7), (71, 9)] = .report := by decide +kernel

/-! ### Witnesses

Each theorem below shows, for one statement, states and operands that meet the hypotheses of each of its clauses. -/

/-- The hypotheses of `Obligations.CounterArithmetic` can be met, clause by clause. -/
theorem witness_CounterArithmetic :
    (∃ (b : Bay) (st : Strm) (cd ca : Ctr) (o : BOp) (s : State) (c : Instr) (f : Nat → Nat → Nat), (c, f) ∈ ([(.tsCadd b st cd ca o, fun x y => x + y), (.tsCsub b st cd ca o, fun x y => x + 2 ^ 32 - y), (.tsCmul b st cd ca o, fun x y => x * y), (.tsCshl b st cd ca o, fun x y => x * 2 ^ (y % 32)), (.tsCshr b st cd ca o, fun x y => x / 2 ^ (y % 32)), (.tsCand b st cd ca o, fun x y => x &&& y), (.tsCor b st cd ca o, fun x y => x ||| y), (.tsCxor b st cd ca o, fun x y => x ^^^ y)] : List (Instr × (Nat → Nat → Nat))) ∧ mayIssue b st c s = true ∧ (s.strm b st).free (cd :: ca :: BOp.regs o) = true) ∧
    (∃ (b : Bay) (st : Strm) (cd : Ctr) (imm : W32) (s : State), mayIssue b st (.tsCset b st cd imm) s = true ∧ (s.strm b st).free [cd] = true) :=
  ⟨⟨0, .x, 15, 14, .imm 5, t0, .tsCadd 0 .x 15 14 (.imm 5), fun x y => x + y, (by simp), (by decide +kernel), by decide +kernel⟩,
   ⟨0, .a, 15, 0xFFFFFFFF#32, t0, by decide +kernel⟩⟩

/-- The hypotheses of `Obligations.Comparators` can be met, clause by clause. -/
theorem witness_Comparators :
    (∃ (b : Bay) (st : Strm) (kd : Fin 8) (ca : Ctr) (r : Rel) (o : BOp) (s : State), mayIssue b st (.tsCmp b st kd ca r o) s = true ∧ (s.strm b st).free (ca :: BOp.regs o) = true) ∧
    (∃ (b : Bay) (st : Strm) (kd ka kb : Fin 8) (op : KOp) (s : State), mayIssue b st (.tsKlog b st kd ka op kb) s = true) :=
  ⟨⟨11, .x, 7, 15, .geu, .reg 15, State.reset.setBay 11 bay0, by decide +kernel⟩,
   ⟨0, .x, 7, 7, 7, .andn, t0, by decide +kernel⟩⟩

/-- The hypotheses of `Obligations.DmemAccess` can be met, clause by clause. -/
theorem witness_DmemAccess :
    (∃ (b : Bay) (st : Strm) (cd ca : Ctr) (imm : BitVec 16) (s : State), mayIssue b st (.tsLdw b st cd ca imm .clean) s = true ∧ (s.strm b st).free [cd, ca] = true ∧ ((s.strm b st).ctr[ca] + imm.signExtend 32).toNat < 16384 ∧ (s.bay b).prot.unitBad (0x11, 0x10000 * strmNo st + 4 * ((s.strm b st).ctr[ca] + imm.signExtend 32).toNat) = false) ∧
    (∃ (b : Bay) (st : Strm) (cs ca : Ctr) (imm : BitVec 16) (s : State), mayIssue b st (.tsStw b st cs ca imm) s = true ∧ (s.strm b st).free [cs, ca] = true ∧ ((s.strm b st).ctr[ca] + imm.signExtend 32).toNat < 16384 ∧ Sparse.wf (fun _ => 0#32) (s.strm b st).dmem = true) ∧
    (∃ (b : Bay) (st : Strm) (cd ca : Ctr) (imm : BitVec 16) (ev : CodeEvent) (s : State), mayIssue b st (.tsLdw b st cd ca imm ev) s = true ∧ (s.strm b st).free [cd, ca] = true ∧ ((s.strm b st).ctr[ca] + imm.signExtend 32).toNat < 16384 ∧ ((∃ i, ev = .small 0x11#8 i) ∨ (s.bay b).prot.unitBad (0x11, 0x10000 * strmNo st + 4 * ((s.strm b st).ctr[ca] + imm.signExtend 32).toNat) = true)) ∧
    (∃ (b : Bay) (st : Strm) (cd ca : Ctr) (imm : BitVec 16) (ev : CodeEvent) (s : State), mayIssue b st (.tsLdw b st cd ca imm ev) s = true ∧ (s.strm b st).free [cd, ca] = true ∧ ((s.strm b st).ctr[ca] + imm.signExtend 32).toNat < 16384 ∧ ((∃ i, ev = .small 0x11#8 i) ∨ (s.bay b).prot.unitBad (0x11, 0x10000 * strmNo st + 4 * ((s.strm b st).ctr[ca] + imm.signExtend 32).toNat) = true)) ∧
    (∃ (b : Bay) (st : Strm) (cd : Ctr) (s : State), mayIssue b st (.tsBeat b st cd) s = true ∧ (s.strm b st).free [cd] = true) ∧
    (∃ (b : Bay) (st : Strm) (cd : Ctr) (l : Fin 4) (s : State), mayIssue b st (.tsLidx b st cd l) s = true ∧ (s.strm b st).free [cd] = true) :=
  ⟨⟨0, .x, 0, 1, 0#16, ctrS 1 16383#32, by decide +kernel⟩,
   ⟨0, .a, 0, 1, 0xFFFF#16, ctrS 1 16384#32, by decide +kernel⟩,
   ⟨0, .x, 0, 1, 0xFFFF#16, .small 0x11#8 0, ctrS 1 16384#32, (by decide +kernel), (by decide +kernel), (by decide +kernel), .inl ⟨_, rfl⟩⟩,
   ⟨0, .a, 0, 1, 0#16, .clean, bayS { bay0 with prot := { Prot.reset with smallBad := [(0x11, 0)] } }, (by decide +kernel), (by decide +kernel), (by decide +kernel), .inr (by decide +kernel)⟩,
   ⟨0, .x, 15, t0, by decide +kernel⟩,
   ⟨0, .x, 15, 3, t0, by decide +kernel⟩⟩

/-- The hypotheses of `Obligations.DmemRange` can be met, clause by clause. -/
theorem witness_DmemRange :
    (∃ (b : Bay) (st : Strm) (cd ca : Ctr) (imm : BitVec 16) (ev : CodeEvent) (s : State) (c : Instr), (c = .tsLdw b st cd ca imm ev ∨ c = .tsStw b st cd ca imm) ∧ mayIssue b st c s = true ∧ (s.strm b st).free [cd, ca] = true ∧ 16384 ≤ ((s.strm b st).ctr[ca] + imm.signExtend 32).toNat) ∧
    (∃ (b : Bay) (st : Strm) (cd ca : Ctr) (imm : BitVec 16) (ev : CodeEvent) (s : State) (c : Instr), (c = .tsLdw b st cd ca imm ev ∨ c = .tsStw b st cd ca imm) ∧ mayIssue b st c s = true ∧ (s.strm b st).free [cd, ca] = true ∧ 16384 ≤ ((s.strm b st).ctr[ca] + imm.signExtend 32).toNat) ∧
    (∃ (b : Bay) (st : Strm) (cd : Ctr) (l : Fin 4) (s : State), mayIssue b st (.tsLidx b st cd l) s = true ∧ (s.strm b st).free [cd] = true ∧ (s.strm b st).loops.length ≤ l.val) :=
  ⟨⟨0, .x, 0, 1, 0xFFFF#16, .clean, t0, .tsLdw 0 .x 0 1 0xFFFF#16 .clean, by decide +kernel⟩,
   ⟨0, .a, 0, 1, 0#16, .clean, ctrS 1 16384#32, .tsStw 0 .a 0 1 0#16, by decide +kernel⟩,
   ⟨0, .x, 0, 0, t0, by decide +kernel⟩⟩

/-- The hypotheses of `Obligations.ControlFlow` can be met, clause by clause. -/
theorem witness_ControlFlow :
    (∃ (b : Bay) (st : Strm) (src : BrSrc) (pol : Bool) (target : BitVec 15) (s : State), mayIssue b st (.tsBr b st src pol target) s = true ∧ BrSrc.busy src b st s = false) ∧
    (∃ (b : Bay) (st : Strm) (target : BitVec 15) (s : State), mayIssue b st (.tsJmp b st target) s = true) ∧
    (∃ (b : Bay) (st : Strm) (target : BitVec 15) (s : State), mayIssue b st (.tsCall b st target) s = true ∧ (s.strm b st).calls.length < 8) ∧
    (∃ (b : Bay) (st : Strm) (p : BitVec 15) (r : List (BitVec 15)) (s : State), mayIssue b st (.tsRet b st) s = true ∧ (s.strm b st).frame.all (fun f => f.depth != r.length + 1) = true ∧ (s.strm b st).calls = p :: r) ∧
    (∃ (b : Bay) (st : Strm) (p : BitVec 15) (r : List (BitVec 15)) (s : State), mayIssue b st (.tsRet b st) s = true ∧ (s.strm b st).frame.all (fun f => f.depth != r.length + 1) = true ∧ (s.strm b st).calls = p :: r) ∧
    (∃ (b : Bay) (st : Strm) (f : HiddenFrame) (s : State), mayIssue b st (.tsRet b st) s = true ∧ (s.strm b st).frame = some f ∧ (s.strm b st).calls.length = f.depth ∧ refreshOpen b s = false) ∧
    (∃ (b : Bay) (st : Strm) (cn : Ctr) (last : BitVec 15) (s : State), mayIssue b st (.tsLoop b st cn last) s = true ∧ (s.strm b st).free [cn] = true ∧ (s.strm b st).ctr[cn] = 0#32) ∧
    (∃ (b : Bay) (st : Strm) (cn : Ctr) (last : BitVec 15) (s : State), mayIssue b st (.tsLoop b st cn last) s = true ∧ (s.strm b st).free [cn] = true ∧ (s.strm b st).ctr[cn] ≠ 0#32 ∧ (s.strm b st).loops.length < 4) ∧
    (∃ (b : Bay) (st : Strm) (k : Nat) (s : State), ∃ _ : k < (s.strm b st).loops.length, mayIssue b st (.tsBreak b st (k + 1)) s = true) ∧
    (∃ (b : Bay) (st : Strm) (s : State), mayIssue b st (.tsEnd b st) s = true ∧ workDone b st s = true) ∧
    (∃ (b : Bay) (st : Strm) (cn : Ctr) (last target : BitVec 15) (s : State) (c : Instr) (code : Byte), ((c = .tsLoop b st cn last ∧ code = 0x33#8 ∧ (s.strm b st).free [cn] = true ∧ (s.strm b st).ctr[cn] ≠ 0#32 ∧ 4 ≤ (s.strm b st).loops.length) ∨ (c = .tsCall b st target ∧ code = 0x34#8 ∧ 8 ≤ (s.strm b st).calls.length) ∨ (c = .tsRet b st ∧ code = 0x34#8 ∧ (s.strm b st).calls = [] ∧ (s.strm b st).frame.all (fun f => f.depth != 0) = true) ∨ (c = .tsRet b st ∧ code = 0x38#8 ∧ refreshOpen b s = true ∧ (s.strm b st).frame.any (fun f => f.depth == (s.strm b st).calls.length) = true)) ∧ mayIssue b st c s = true) ∧
    (∃ (b : Bay) (st : Strm) (cn : Ctr) (last target : BitVec 15) (s : State) (c : Instr) (code : Byte), ((c = .tsLoop b st cn last ∧ code = 0x33#8 ∧ (s.strm b st).free [cn] = true ∧ (s.strm b st).ctr[cn] ≠ 0#32 ∧ 4 ≤ (s.strm b st).loops.length) ∨ (c = .tsCall b st target ∧ code = 0x34#8 ∧ 8 ≤ (s.strm b st).calls.length) ∨ (c = .tsRet b st ∧ code = 0x34#8 ∧ (s.strm b st).calls = [] ∧ (s.strm b st).frame.all (fun f => f.depth != 0) = true) ∨ (c = .tsRet b st ∧ code = 0x38#8 ∧ refreshOpen b s = true ∧ (s.strm b st).frame.any (fun f => f.depth == (s.strm b st).calls.length) = true)) ∧ mayIssue b st c s = true) ∧
    (∃ (b : Bay) (st : Strm) (cn : Ctr) (last target : BitVec 15) (s : State) (c : Instr) (code : Byte), ((c = .tsLoop b st cn last ∧ code = 0x33#8 ∧ (s.strm b st).free [cn] = true ∧ (s.strm b st).ctr[cn] ≠ 0#32 ∧ 4 ≤ (s.strm b st).loops.length) ∨ (c = .tsCall b st target ∧ code = 0x34#8 ∧ 8 ≤ (s.strm b st).calls.length) ∨ (c = .tsRet b st ∧ code = 0x34#8 ∧ (s.strm b st).calls = [] ∧ (s.strm b st).frame.all (fun f => f.depth != 0) = true) ∨ (c = .tsRet b st ∧ code = 0x38#8 ∧ refreshOpen b s = true ∧ (s.strm b st).frame.any (fun f => f.depth == (s.strm b st).calls.length) = true)) ∧ mayIssue b st c s = true) ∧
    (∃ (b : Bay) (st : Strm) (cn : Ctr) (last target : BitVec 15) (s : State) (c : Instr) (code : Byte), ((c = .tsLoop b st cn last ∧ code = 0x33#8 ∧ (s.strm b st).free [cn] = true ∧ (s.strm b st).ctr[cn] ≠ 0#32 ∧ 4 ≤ (s.strm b st).loops.length) ∨ (c = .tsCall b st target ∧ code = 0x34#8 ∧ 8 ≤ (s.strm b st).calls.length) ∨ (c = .tsRet b st ∧ code = 0x34#8 ∧ (s.strm b st).calls = [] ∧ (s.strm b st).frame.all (fun f => f.depth != 0) = true) ∨ (c = .tsRet b st ∧ code = 0x38#8 ∧ refreshOpen b s = true ∧ (s.strm b st).frame.any (fun f => f.depth == (s.strm b st).calls.length) = true)) ∧ mayIssue b st c s = true) ∧
    (∃ (b : Bay) (st : Strm) (cn : Ctr) (last target : BitVec 15) (s : State) (c : Instr) (code : Byte), ((c = .tsLoop b st cn last ∧ code = 0x33#8 ∧ (s.strm b st).free [cn] = true ∧ (s.strm b st).ctr[cn] ≠ 0#32 ∧ 4 ≤ (s.strm b st).loops.length) ∨ (c = .tsCall b st target ∧ code = 0x34#8 ∧ 8 ≤ (s.strm b st).calls.length) ∨ (c = .tsRet b st ∧ code = 0x34#8 ∧ (s.strm b st).calls = [] ∧ (s.strm b st).frame.all (fun f => f.depth != 0) = true) ∨ (c = .tsRet b st ∧ code = 0x38#8 ∧ refreshOpen b s = true ∧ (s.strm b st).frame.any (fun f => f.depth == (s.strm b st).calls.length) = true)) ∧ mayIssue b st c s = true) :=
  ⟨⟨0, .x, .flag 63, false, 0x7FFF#15, t0, by decide +kernel⟩,
   ⟨0, .a, 0x7FFF#15, t0, by decide +kernel⟩,
   ⟨0, .x, 1#15, axS { runS with calls := List.replicate 7 0#15 }, by decide +kernel⟩,
   ⟨0, .x, 5#15, [], axS { runS with calls := [5#15] }, by decide +kernel⟩,
   ⟨0, .x, 5#15, [6#15], axS { runS with calls := [5#15, 6#15], frame := some ⟨[⟨0#15, 9#15, 2, 0⟩], Vector.replicate 16 7#32, 1#8, 1, 5#15, .tsHop 0 0 1 2 0 1 1#12⟩ }, by decide +kernel⟩,
   ⟨0, .x, ⟨[⟨0#15, 9#15, 2, 0⟩], Vector.replicate 16 7#32, 1#8, 1, 5#15, .tsHop 0 0 1 2 0 1 1#12⟩, axS { runS with calls := [5#15], frame := some ⟨[⟨0#15, 9#15, 2, 0⟩], Vector.replicate 16 7#32, 1#8, 1, 5#15, .tsHop 0 0 1 2 0 1 1#12⟩ }, by decide +kernel⟩,
   ⟨0, .a, 3, 9#15, t0, by decide +kernel⟩,
   ⟨0, .a, 3, 9#15, axS { runS with ctr := runS.ctr.set 3 1#32, loops := List.replicate 3 ⟨0#15, 9#15, 1, 0⟩ }, by decide +kernel⟩,
   ⟨0, .x, 3, axS { runS with loops := List.replicate 4 ⟨0#15, 9#15, 1, 0⟩ }, by decide +kernel, by decide +kernel⟩,
   ⟨0, .x, t0, by decide +kernel⟩,
   ⟨0, .x, 3, 9#15, 0#15, axS { runS with ctr := runS.ctr.set 3 1#32, loops := List.replicate 4 ⟨0#15, 9#15, 1, 0⟩ }, .tsLoop 0 .x 3 9#15, 0x33#8, by decide +kernel⟩,
   ⟨0, .a, 3, 9#15, 0#15, axS { runS with calls := List.replicate 8 0#15 }, .tsCall 0 .a 0#15, 0x34#8, by decide +kernel⟩,
   ⟨0, .a, 3, 9#15, 0#15, t0, .tsRet 0 .a, 0x34#8, by decide +kernel⟩,
   ⟨0, .x, 3, 9#15, 0#15, axS { runS with frame := some ⟨[⟨0#15, 9#15, 2, 0⟩], Vector.replicate 16 7#32, 1#8, 1, 5#15, .tsHop 0 0 1 2 0 1 1#12⟩ }, .tsRet 0 .x, 0x34#8, by decide +kernel⟩,
   ⟨0, .x, 3, 9#15, 0#15, { axS { runS with calls := [5#15], frame := some ⟨[⟨0#15, 9#15, 2, 0⟩], Vector.replicate 16 7#32, 1#8, 1, 5#15, .tsHop 0 0 1 2 0 1 1#12⟩ } with hdr := { t0.hdr with brackets := [{ br0 op0 with ins := some ⟨[], 0x1000, 0#12⟩, insOp := some { op0 with kind := 6, dst := 0x1000 } }] } }, .tsRet 0 .x, 0x38#8, by decide +kernel⟩⟩

/-- The hypotheses of `Obligations.LocalFlags` can be met, clause by clause. -/
theorem witness_LocalFlags :
    (∃ (b : Bay) (st : Strm) (f : LFlag) (v : Bool) (s : State) (c : Instr), (c, v) ∈ [(Instr.tsFset b st f, true), (Instr.tsFclr b st f, false)] ∧ mayIssue b st c s = true) ∧
    (∃ (b : Bay) (st : Strm) (f : LFlag) (v : Bool) (s : State) (c : Instr), (c, v) ∈ [(Instr.tsFset b st f, true), (Instr.tsFclr b st f, false)] ∧ mayIssue b st c s = true) ∧
    (∃ (b : Bay) (st : Strm) (f : LFlag) (pol clr : Bool) (s : State), mayIssue b st (.tsWait b st f pol clr) s = true ∧ (s.strm b st).status = .run ∧ (st = .x → (s.bay b).flagBusy.getLsbD f = false) ∧ (s.bay b).flags.getLsbD f = pol ∧ (st = .a → clr = true → pol = true → xConsumes b f s = false)) ∧
    (∃ (b : Bay) (st : Strm) (f : LFlag) (pol clr : Bool) (s : State), mayIssue b st (.tsWait b st f pol clr) s = true ∧ (s.strm b st).status = .run ∧ (s.strm b st).wait = none ∧ ((s.bay b).flags.getLsbD f ≠ pol ∨ (st = .a ∧ clr = true ∧ pol = true ∧ xConsumes b f s = true))) ∧
    (∃ (b : Bay) (st : Strm) (f : LFlag) (pol clr : Bool) (s : State), mayIssue b st (.tsWait b st f pol clr) s = true ∧ (s.strm b st).status = .run ∧ (s.strm b st).wait = none ∧ ((s.bay b).flags.getLsbD f ≠ pol ∨ (st = .a ∧ clr = true ∧ pol = true ∧ xConsumes b f s = true))) ∧
    (∃ (b : Bay) (st : Strm) (f : LFlag) (pol clr : Bool) (w : Wait) (s : State), dieRuns s = true ∧ (s.strm b st).status = .wait ∧ (s.strm b st).wait = some w ∧ w.cmd = .tsWait b st f pol clr ∧ (st = .x → (s.bay b).flagBusy.getLsbD f = false) ∧ (s.bay b).flags.getLsbD f = pol ∧ (st = .a → clr = true → pol = true → xConsumes b f s = false)) :=
  ⟨⟨0, .x, 63, true, t0, .tsFset 0 .x 63, by decide +kernel⟩,
   ⟨0, .a, 0, false, t0, .tsFclr 0 .a 0, by decide +kernel⟩,
   ⟨0, .x, 63, true, true, bayS { bay0 with flags := BitVec.twoPow 64 63 }, by decide +kernel⟩,
   ⟨0, .x, 63, true, true, t0, by decide +kernel⟩,
   ⟨0, .a, 63, true, true, bayS { bay0 with flags := BitVec.twoPow 64 63, x := { runS with status := .wait, wait := some ⟨.flagL, 0, 16384, .tsWait 0 .x 63 true true, 0#32⟩ } }, by decide +kernel⟩,
   ⟨0, .a, 63, false, false, ⟨.flagL, 0, 16384, .tsWait 0 .a 63 false false, 0#32⟩, waitS ⟨.flagL, 0, 16384, .tsWait 0 .a 63 false false, 0#32⟩, by decide +kernel⟩⟩

/-- The hypotheses of `Obligations.GlobalFlags` can be met, clause by clause. -/
theorem witness_GlobalFlags :
    (∃ (b : Bay) (st : Strm) (g : Fin 256) (imm : Byte) (cs : Ctr) (s : State) (c : Instr) (v : Nat), (c, v) ∈ [(Instr.tsGadd b st g imm, (gflagOf g s).toNat + imm.toNat), (Instr.tsGset b st g cs, (s.strm b st).ctr[cs].toNat)] ∧ mayIssue b st c s = true ∧ (s.strm b st).free [cs] = true ∧ Sparse.wf (fun _ => 0#16) s.hdr.gflags = true ∧ (st = .x → s.stats.queue.all (fun e => e.1 != b) = true)) ∧
    (∃ (b : Bay) (st : Strm) (g : Fin 256) (imm : Byte) (cs : Ctr) (s : State) (c : Instr) (v : Nat), (c, v) ∈ [(Instr.tsGadd b st g imm, (gflagOf g s).toNat + imm.toNat), (Instr.tsGset b st g cs, (s.strm b st).ctr[cs].toNat)] ∧ mayIssue b st c s = true ∧ (s.strm b st).free [cs] = true ∧ Sparse.wf (fun _ => 0#16) s.hdr.gflags = true ∧ (st = .x → s.stats.queue.all (fun e => e.1 != b) = true)) ∧
    (∃ (b : Bay) (st : Strm) (g : Fin 256) (cn : Ctr) (s : State), mayIssue b st (.tsGwait b st g cn) s = true ∧ (s.strm b st).status = .run ∧ (s.strm b st).free [cn] = true ∧ ((gflagOf g s).toNat + 2 ^ 16 - (s.strm b st).ctr[cn].toNat % 2 ^ 16) % 2 ^ 16 < 2 ^ 15) ∧
    (∃ (b : Bay) (st : Strm) (g : Fin 256) (cn : Ctr) (n m : Nat) (v : W32) (s : State), dieRuns s = true ∧ (s.strm b st).status = .wait ∧ (s.strm b st).wait = some ⟨if g.val < 224 then .flagG else .flagLink, n, m, .tsGwait b st g cn, v⟩ ∧ ((gflagOf g s).toNat + 2 ^ 16 - v.toNat % 2 ^ 16) % 2 ^ 16 < 2 ^ 15) ∧
    (∃ (b : Bay) (st : Strm) (g : Fin 256) (cn : Ctr) (n m : Nat) (v : W32) (s : State), dieRuns s = true ∧ (s.strm b st).status = .wait ∧ (s.strm b st).wait = some ⟨if g.val < 224 then .flagG else .flagLink, n, m, .tsGwait b st g cn, v⟩ ∧ ((gflagOf g s).toNat + 2 ^ 16 - v.toNat % 2 ^ 16) % 2 ^ 16 < 2 ^ 15) :=
  ⟨⟨0, .a, 223, 255#8, 0, t0, .tsGadd 0 .a 223 255#8, 255, by decide +kernel⟩,
   ⟨0, .x, 0, 0#8, 0, t0, .tsGset 0 .x 0 0, 0, by decide +kernel⟩,
   ⟨0, .x, 255, 0, ctrS 0 0x8001#32, by decide +kernel⟩,
   ⟨0, .a, 255, 0, 0, 16384, 0#32, waitS ⟨.flagLink, 0, 16384, .tsGwait 0 .a 255 0, 0#32⟩, by decide +kernel⟩,
   ⟨0, .x, 223, 0, 0, 16384, 0x8001#32, waitS ⟨.flagG, 0, 16384, .tsGwait 0 .x 223 0, 0x8001#32⟩, by decide +kernel⟩⟩

/-- The hypotheses of `Obligations.QueuesAndRelease` can be met, clause by clause. -/
theorem witness_QueuesAndRelease :
    (∃ (b : Bay) (st : Strm) (q : Fin 8) (cn : Ctr) (m1 : Fin 16) (s : State), mayIssue b st (.tsQput b st q cn m1) s = true ∧ (s.strm b st).free (ctrRun cn m1) = true ∧ (s.bay b).dq[q].length < 32) ∧
    (∃ (b : Bay) (st : Strm) (q : Fin 8) (cd : Ctr) (m1 : Fin 16) (k : Nat) (v : List Byte) (r : List DqEntry) (s : State), mayIssue b st (.tsQpop b st q cd m1 .clean) s = true ∧ (s.strm b st).free (ctrRun cd m1) = true ∧ soundUnits b s = true ∧ (s.bay b).dq[q] = ⟨k, some v⟩ :: r) ∧
    (∃ (b : Bay) (st : Strm) (cb : Ctr) (s : State), mayIssue b st (.tsRel b st cb) s = true ∧ (s.strm b st).status = .run ∧ (s.strm b st).free [cb] = true ∧ beatDone s.beat.beat (s.strm b st).ctr[cb] = true) ∧
    (∃ (b : Bay) (st : Strm) (cb : Ctr) (n m : Nat) (v : W32) (s : State), dieRuns s = true ∧ (s.strm b st).status = .wait ∧ (s.strm b st).wait = some ⟨.beat, n, m, .tsRel b st cb, v⟩ ∧ beatDone s.beat.beat v = true ∧ s.beat.st ≠ .hold) ∧
    (∃ (b : Bay) (st : Strm) (cb : Ctr) (n m : Nat) (v : W32) (s : State), dieRuns s = true ∧ (s.strm b st).status = .wait ∧ (s.strm b st).wait = some ⟨.beat, n, m, .tsRel b st cb, v⟩ ∧ beatDone s.beat.beat v = true ∧ s.beat.st = .hold) ∧
    (∃ (b : Bay) (st : Strm) (s : State), mayIssue b st (.tsYield b st) s = true ∧ (s.bay b).parkPend = false) ∧
    (∃ (b : Bay) (st : Strm) (s : State), mayIssue b st (.tsYield b st) s = true ∧ (s.bay b).parkPend = true ∧ inBracket b s = false) :=
  ⟨⟨0, .a, 0, 0, 15, bayS { bay0 with dq := bay0.dq.set 0 (List.replicate 31 ⟨0, none⟩) }, by decide +kernel⟩,
   ⟨0, .x, 5, 15, 0, 3, [1#8, 2#8], [], bayS { bay0 with dq := bay0.dq.set 5 [⟨3, some [1#8, 2#8]⟩] }, by decide +kernel⟩,
   ⟨0, .x, 0, t0, by decide +kernel⟩,
   ⟨0, .x, 0, 0, 0, 0#32, waitS ⟨.beat, 0, 0, .tsRel 0 .x 0, 0#32⟩, by decide +kernel⟩,
   ⟨0, .x, 0, 0, 0, 0#32, { waitS ⟨.beat, 0, 0, .tsRel 0 .x 0, 0#32⟩ with beat := { Beat.reset with st := .hold } }, by decide +kernel⟩,
   ⟨0, .x, t0, by decide +kernel⟩,
   ⟨0, .x, bayS { bay0 with parkPend := true }, by decide +kernel⟩⟩

/-- The hypotheses of `Obligations.WorkPools` can be met, clause by clause. -/
theorem witness_WorkPools :
    (∃ (b : Bay) (st : Strm) (cn cm : Ctr) (p : Fin 64) (s : State), mayIssue b st (.tsPinit b st cn cm p) s = true ∧ (s.strm b st).free [cn, cm] = true ∧ (poolOf p s).armed = false ∧ (poolOf p s).decls.all (fun d => !(d.1 == b && d.2.1 == st)) = true ∧ Sparse.wf (fun _ => Pool.reset) s.pools = true) ∧
    (∃ (p : Fin 64) (b : Bay) (st : Strm) (n : Nat) (mask : BayMask) (r : List (Bay × Strm × Nat × BayMask)) (s : State), dieRuns s = true ∧ (poolOf p s).armed = false ∧ (poolOf p s).decls = (b, st, n, mask) :: r ∧ declsFull (poolOf p s).decls = true ∧ declsAgree (poolOf p s).decls = true ∧ Sparse.wf (fun _ => Pool.reset) s.pools = true) ∧
    (∃ (p : Fin 64) (s : State), dieRuns s = true ∧ (poolOf p s).armed = false ∧ declsFull (poolOf p s).decls = true ∧ declsAgree (poolOf p s).decls = false ∧ Sparse.wf (fun _ => Pool.reset) s.pools = true) ∧
    (∃ (b : Bay) (st : Strm) (cd : Ctr) (p : Fin 64) (s : State), mayIssue b st (.tsTake b st cd p) s = true ∧ (s.strm b st).free [cd] = true ∧ (poolOf p s).armed = true ∧ (poolOf p s).mask.getLsbD b = true ∧ Sparse.wf (fun _ => Pool.reset) s.pools = true ∧ (poolOf p s).bal = false) ∧
    (∃ (b : Bay) (st : Strm) (cd : Ctr) (p : Fin 64) (s : State), mayIssue b st (.tsTake b st cd p) s = true ∧ (s.strm b st).free [cd] = true ∧ (poolOf p s).armed = true ∧ (poolOf p s).mask.getLsbD b = true ∧ Sparse.wf (fun _ => Pool.reset) s.pools = true ∧ (poolOf p s).bal = true) ∧
    (∃ (b : Bay) (st : Strm) (cd : Ctr) (p : Fin 64) (s : State), mayIssue b st (.tsTake b st cd p) s = true ∧ (s.strm b st).free [cd] = true ∧ (poolOf p s).armed = true ∧ (poolOf p s).mask.getLsbD b = false) ∧
    (∃ (b : Bay) (st : Strm) (cd : Ctr) (v : W32) (p : Fin 64) (g : Nat) (r : List (Ctr × W32 × Fin 64 × Nat)) (s : State), dieRuns s = true ∧ (s.strm b st).takes = (cd, v, p, g) :: r) :=
  ⟨⟨0, .x, 0, 1, 63, t0, by decide +kernel⟩,
   ⟨5, 0, .x, 0, 1#12, [], { t0 with pools := [(5, { Pool.reset with decls := [(0, .x, 0, 1#12)] })] }, by decide +kernel⟩,
   ⟨5, { t0 with pools := [(5, { Pool.reset with decls := [(0, .x, 0, 3#12), (1, .a, 1, 3#12)] })] }, by decide +kernel⟩,
   ⟨0, .x, 15, 5, { t0 with pools := [(5, { Pool.reset with armed := true, mask := 1#12 })] }, by decide +kernel⟩,
   ⟨0, .x, 15, 5, { t0 with pools := [(5, { Pool.reset with armed := true, mask := 1#12, bal := true, count := 4 })] }, by decide +kernel⟩,
   ⟨0, .x, 15, 5, { t0 with pools := [(5, { Pool.reset with armed := true, mask := 2#12 })] }, by decide +kernel⟩,
   ⟨0, .x, 15, 0#32, 5, 0, [], axS { runS with takes := [(15, 0#32, 5, 0)] }, by decide +kernel⟩⟩

/-- The hypotheses of `Obligations.BracketIssue` can be met, clause by clause. -/
theorem witness_BracketIssue :
    (∃ (b : Bay) (s1 s2 dst x : Ctr) (kind : Fin 16) (mask : BayMask) (i : Image) (s : State), mayIssue b .x (.tsHop b s1 s2 dst x kind mask) s = true ∧ (s.strm b .x).free (hopCtrs s1 s2 dst x kind) = true ∧ inBracket b s = false ∧ hopIssued b mask s = false ∧ imageOf b s = some i ∧ ((s.strm b .x).ctr[s1]).toNat < i.hwCount ∧ ((s.strm b .x).ctr[dst]).toNat < i.hwCount ∧ (hopUsesS2 kind = true → ((s.strm b .x).ctr[s2]).toNat < i.hwCount)) ∧
    (∃ (b : Bay) (nf : NForm) (k : Bracket) (o : OpenOp) (s : State), mayIssue b .x (.tsHend b nf) s = true ∧ bracketOf b s = some k ∧ k.insOp = none ∧ k.ins = none ∧ k.op = some o ∧ keyConsumers b s = false ∧ (¬ (o.verdict = .mismatch ∧ o.haltOn = true))) ∧
    (∃ (b : Bay) (level scale : Byte) (k : Bracket) (o : OpenOp) (s : State), mayIssue b .x (.tsHout b level scale) s = true ∧ bracketOf b s = some k ∧ k.insOp = none ∧ k.ins = none ∧ k.op = some o ∧ declares o.kind o.src = true) ∧
    (∃ (b : Bay) (level scale : Byte) (s : State), mayIssue b .x (.tsHout b level scale) s = true ∧ bracketOf b s = none) ∧
    (∃ (b : Bay) (s1 s2 dst x : Ctr) (kind : Fin 16) (mask : BayMask) (i : Image) (s : State), mayIssue b .x (.tsHop b s1 s2 dst x kind mask) s = true ∧ (s.strm b .x).free (hopCtrs s1 s2 dst x kind) = true ∧ imageOf b s = some i ∧ (i.hwCount ≤ ((s.strm b .x).ctr[s1]).toNat ∨ i.hwCount ≤ ((s.strm b .x).ctr[dst]).toNat ∨ hopUsesS2 kind = true ∧ i.hwCount ≤ ((s.strm b .x).ctr[s2]).toNat) ∧ (inBracket b s = true ∨ hopIssued b mask s = false)) ∧
    (∃ (b : Bay) (s1 s2 dst x : Ctr) (kind : Fin 16) (mask : BayMask) (i : Image) (s : State), mayIssue b .x (.tsHop b s1 s2 dst x kind mask) s = true ∧ (s.strm b .x).free (hopCtrs s1 s2 dst x kind) = true ∧ imageOf b s = some i ∧ (i.hwCount ≤ ((s.strm b .x).ctr[s1]).toNat ∨ i.hwCount ≤ ((s.strm b .x).ctr[dst]).toNat ∨ hopUsesS2 kind = true ∧ i.hwCount ≤ ((s.strm b .x).ctr[s2]).toNat) ∧ (inBracket b s = true ∨ hopIssued b mask s = false)) :=
  ⟨⟨0, 0, 1, 2, 0, 0, 1#12, img0, { ctrS 2 7#32 with ldr := { Loader.reset with images := [img0] } }, by decide +kernel⟩,
   ⟨0, .ntt, br0 op0, op0, brS [br0 op0], by decide +kernel⟩,
   ⟨0, 3#8, 7#8, br0 { op0 with kind := 6, src := { Hdr.blank with cls := 1#2 } }, { op0 with kind := 6, src := { Hdr.blank with cls := 1#2 } }, brS [br0 { op0 with kind := 6, src := { Hdr.blank with cls := 1#2 } }], by decide +kernel⟩,
   ⟨0, 0#8, 0#8, t0, by decide +kernel⟩,
   ⟨0, 0, 1, 2, 0, 0, 1#12, img0, { ctrS 1 8#32 with ldr := { Loader.reset with images := [img0] } }, (by decide +kernel), (by decide +kernel), (by decide +kernel), (by decide +kernel), .inr (by decide +kernel)⟩,
   ⟨0, 0, 1, 2, 0, 0, 1#12, img0, { ctrS 1 0xFFFFFFFF#32 with hdr := { t0.hdr with brackets := [br0 op0] }, ldr := { Loader.reset with images := [img0] } }, (by decide +kernel), (by decide +kernel), (by decide +kernel), (by decide +kernel), .inl (by decide +kernel)⟩⟩

/-- The hypotheses of `Obligations.HopNest` can be met, clause by clause. -/
theorem witness_HopNest :
    (∃ (b : Bay) (s1 s2 dst x : Ctr) (kind : Fin 16) (mask : BayMask) (i : Image) (s : State), mayIssue b .x (.tsHop b s1 s2 dst x kind mask) s = true ∧ (s.strm b .x).free (hopCtrs s1 s2 dst x kind) = true ∧ inBracket b s = true ∧ imageOf b s = some i ∧ ((s.strm b .x).ctr[s1]).toNat < i.hwCount ∧ ((s.strm b .x).ctr[dst]).toNat < i.hwCount ∧ (hopUsesS2 kind = true → ((s.strm b .x).ctr[s2]).toNat < i.hwCount)) ∧
    (∃ (b : Bay) (s1 s2 dst x : Ctr) (kind : Fin 16) (mask : BayMask) (s : State), mayIssue b .x (.tsHop b s1 s2 dst x kind mask) s = true ∧ (s.strm b .x).free (hopCtrs s1 s2 dst x kind) = true ∧ inBracket b s = true) ∧
    (∃ (b : Bay) (nf : NForm) (s : State), mayIssue b .x (.tsHend b nf) s = true ∧ inBracket b s = false) :=
  ⟨⟨0, 0, 1, 2, 0, 0, 1#12, img0, { brS [br0 op0] with ldr := { Loader.reset with images := [img0] } }, by decide +kernel⟩,
   ⟨0, 0, 1, 2, 0, 0, 1#12, brS [br0 op0], by decide +kernel⟩,
   ⟨0, .keep, t0, by decide +kernel⟩⟩

/-- The hypotheses of `Obligations.BracketOpens` can be met, clause by clause. -/
theorem witness_BracketOpens :
    (∃ (mask : BayMask) (k : Bracket) (i : HopIssue) (ev : CodeEvent) (s r : State) (h1 hd m : Hdr) (h2 : Option Hdr) (c dc : CtxEntry) (d : Derived) (ue marked decl : Bool), r = readHeaders (issueLocks i) ev s ∧ h1 = hdrAt r i.s1 ∧ h2 = i.s2.map (hdrAt r) ∧ hd = hdrAt r i.dst ∧ c = ctxAt r h1.ctx.toNat ∧ ue = (evCtx ev).isSome ∧ d = derive r i.kind i.x h1 h2 ∧ dc = ctxAt r d.ctx.toNat ∧ decl = declares i.kind h1 ∧ marked = (h1.marked || h2.any Hdr.marked) ∧ m = (if h1.marked then h1 else h2.getD h1) ∧ dieRuns s = true ∧ s.hdr.brackets.find? (fun q => q.mask == mask && q.ins.isSome) = none ∧ s.hdr.brackets.find? (forming mask) = some k ∧ firstIssue k.issues = some i ∧ issuesFull k = true ∧ locksFree (issueLocks i) s = true ∧ ((i.kind = 6 ∨ i.kind = 7) → swapPending mask s = false) ∧ ahead s ((issueLocks i).map (fun a => (a, 64))) [] = false ∧ inserts r mask (openOp r i (issuesAgree k.issues) ue s.od.thresh) = false) ∧
    (∃ (mask : BayMask) (k : Bracket) (i : HopIssue) (ev : CodeEvent) (s r : State) (o : OpenOp) (a : Nat) (l : List Nat) (h : Hdr) (c : CtxEntry) (ue : Bool), r = readHeaders (issueLocks i) ev s ∧ o = openOp r i (issuesAgree k.issues) (evCtx ev).isSome s.od.thresh ∧ h = hdrAt r a ∧ c = ctxAt r h.ctx.toNat ∧ ue = false ∧ dieRuns s = true ∧ s.hdr.brackets.find? (fun q => q.mask == mask && q.ins.isSome) = none ∧ s.hdr.brackets.find? (forming mask) = some k ∧ firstIssue k.issues = some i ∧ issuesFull k = true ∧ locksFree (issueLocks i) s = true ∧ ahead s ((issueLocks i).map (fun a => (a, 64))) [] = false ∧ inserts r mask o = true ∧ insertionTodo r o = a :: l) ∧
    (∃ (mask : BayMask) (k : Bracket) (n : Insertion) (ev : CodeEvent) (s r : State) (o : OpenOp) (a : Nat) (l : List Nat) (h : Hdr) (c : CtxEntry) (ue : Bool), r = readHeaders [a] ev s ∧ h = hdrAt r a ∧ c = ctxAt r h.ctx.toNat ∧ ue = (evCtx ev).isSome ∧ dieRuns s = true ∧ s.hdr.brackets.find? (fun q => q.mask == mask && q.ins.isSome) = some k ∧ k.ins = some n ∧ k.op = some o ∧ insertionDone k = true ∧ n.todo = a :: l ∧ ahead s [(a, 64)] [] = false) ∧
    (∃ (mask : BayMask) (k : Bracket) (n : Insertion) (ev : CodeEvent) (s : State) (o : OpenOp) (h1 : Hdr) (h2 : Option Hdr) (c : CtxEntry), h1 = (match k.wrote.find? (fun e => e.1 == o.s1) with | some e => e.2 | none => o.src) ∧ h2 = (match o.s2, o.src2 with | some a, some h => some (match k.wrote.find? (fun e => e.1 == a) with | some e => e.2 | none => h) | _, _ => none) ∧ c = ctxAt s o.src.ctx.toNat ∧ dieRuns s = true ∧ s.hdr.brackets.find? (fun q => q.mask == mask && q.ins.isSome) = some k ∧ k.ins = some n ∧ k.op = some o ∧ insertionDone k = true ∧ n.todo = [] ∧ cliff c o.kind h1 h2 < o.thresh) ∧
    (∃ (mask : BayMask) (k : Bracket) (n : Insertion) (ev : CodeEvent) (s : State) (o : OpenOp) (h1 : Hdr) (h2 : Option Hdr) (c : CtxEntry), h1 = (match k.wrote.find? (fun e => e.1 == o.s1) with | some e => e.2 | none => o.src) ∧ h2 = (match o.s2, o.src2 with | some a, some h => some (match k.wrote.find? (fun e => e.1 == a) with | some e => e.2 | none => h) | _, _ => none) ∧ c = ctxAt s o.src.ctx.toNat ∧ dieRuns s = true ∧ s.hdr.brackets.find? (fun q => q.mask == mask && q.ins.isSome) = some k ∧ k.ins = some n ∧ k.op = some o ∧ insertionDone k = true ∧ n.todo = [] ∧ ¬ cliff c o.kind h1 h2 < o.thresh) ∧
    (∃ (mask : BayMask) (k : Bracket) (n : Insertion) (ev : CodeEvent) (s : State) (o : OpenOp) (h1 : Hdr) (h2 : Option Hdr) (c : CtxEntry), h1 = (match k.wrote.find? (fun e => e.1 == o.s1) with | some e => e.2 | none => o.src) ∧ h2 = (match o.s2, o.src2 with | some a, some h => some (match k.wrote.find? (fun e => e.1 == a) with | some e => e.2 | none => h) | _, _ => none) ∧ c = ctxAt s o.src.ctx.toNat ∧ dieRuns s = true ∧ s.hdr.brackets.find? (fun q => q.mask == mask && q.ins.isSome) = some k ∧ k.ins = some n ∧ k.op = some o ∧ insertionDone k = true ∧ n.todo = [] ∧ h1.marked = true) :=
  ⟨⟨1#12, ⟨1#12, [⟨0, 1, 0x1000, none, 0x1040, 0#32⟩], none, none, none, [], []⟩, ⟨0, 1, 0x1000, none, 0x1040, 0#32⟩, .clean, brS [⟨1#12, [⟨0, 1, 0x1000, none, 0x1040, 0#32⟩], none, none, none, [], []⟩], _, _, _, _, _, _, _, _, _, _, _, rfl, rfl, rfl, rfl, rfl, rfl, rfl, rfl, rfl, rfl, rfl, (by decide +kernel), (by decide +kernel), (by decide +kernel), (by decide +kernel), (by decide +kernel), (by decide +kernel), (by decide +kernel), (by decide +kernel), by decide +kernel⟩,
   ⟨1#12, ⟨1#12, [⟨0, 3, 0x1000, some 0x1040, 0x1080, 0#32⟩], none, none, none, [], []⟩, ⟨0, 3, 0x1000, some 0x1040, 0x1080, 0#32⟩, .clean, insS [⟨1#12, [⟨0, 3, 0x1000, some 0x1040, 0x1080, 0#32⟩], none, none, none, [], []⟩], _, _, 0x1000, [0x1040], _, _, _, rfl, rfl, rfl, rfl, rfl, (by decide +kernel), (by decide +kernel), (by decide +kernel), (by decide +kernel), (by decide +kernel), (by decide +kernel), (by decide +kernel), (by decide +kernel), by decide +kernel⟩,
   ⟨1#12, ⟨1#12, [], some ({ op0 with kind := 3, s2 := some 0x1040, dst := 0x1080, verdict := .spent, src := lowH, src2 := some lowH }), some ⟨[0x1040], 0x1000, 1#12⟩, none, [(0x1000, lowH)], [0x1000, 0x1040, 0x1080]⟩, ⟨[0x1040], 0x1000, 1#12⟩, .clean, insS [⟨1#12, [], some ({ op0 with kind := 3, s2 := some 0x1040, dst := 0x1080, verdict := .spent, src := lowH, src2 := some lowH }), some ⟨[0x1040], 0x1000, 1#12⟩, none, [(0x1000, lowH)], [0x1000, 0x1040, 0x1080]⟩], _, { op0 with kind := 3, s2 := some 0x1040, dst := 0x1080, verdict := .spent, src := lowH, src2 := some lowH }, 0x1040, [], _, _, _, rfl, rfl, rfl, rfl, (by decide +kernel), (by decide +kernel), (by decide +kernel), (by decide +kernel), (by decide +kernel), (by decide +kernel), by decide +kernel⟩,
   ⟨1#12, ⟨1#12, [], some ({ op0 with kind := 3, s2 := some 0x1040, dst := 0x1080, verdict := .spent, src := lowH, src2 := some lowH }), some ⟨[], 0x1040, 1#12⟩, none, [(0x1000, lowH), (0x1040, lowH)], [0x1000, 0x1040, 0x1080]⟩, ⟨[], 0x1040, 1#12⟩, .clean, insS [⟨1#12, [], some ({ op0 with kind := 3, s2 := some 0x1040, dst := 0x1080, verdict := .spent, src := lowH, src2 := some lowH }), some ⟨[], 0x1040, 1#12⟩, none, [(0x1000, lowH), (0x1040, lowH)], [0x1000, 0x1040, 0x1080]⟩], { op0 with kind := 3, s2 := some 0x1040, dst := 0x1080, verdict := .spent, src := lowH, src2 := some lowH }, _, _, _, rfl, rfl, rfl, (by decide +kernel), (by decide +kernel), (by decide +kernel), (by decide +kernel), (by decide +kernel), (by decide +kernel), by decide +kernel⟩,
   ⟨1#12, ⟨1#12, [], some ({ op0 with kind := 3, s2 := some 0x1040, dst := 0x1080, verdict := .spent, src := lowH, src2 := some lowH }), some ⟨[], 0x1040, 1#12⟩, none, [(0x1000, { lowH with budget := 0x100#16 }), (0x1040, { lowH with budget := 0x100#16 })], [0x1000, 0x1040, 0x1080]⟩, ⟨[], 0x1040, 1#12⟩, .clean, insS [⟨1#12, [], some ({ op0 with kind := 3, s2 := some 0x1040, dst := 0x1080, verdict := .spent, src := lowH, src2 := some lowH }), some ⟨[], 0x1040, 1#12⟩, none, [(0x1000, { lowH with budget := 0x100#16 }), (0x1040, { lowH with budget := 0x100#16 })], [0x1000, 0x1040, 0x1080]⟩], { op0 with kind := 3, s2 := some 0x1040, dst := 0x1080, verdict := .spent, src := lowH, src2 := some lowH }, _, _, _, rfl, rfl, rfl, (by decide +kernel), (by decide +kernel), (by decide +kernel), (by decide +kernel), (by decide +kernel), (by decide +kernel), by decide +kernel⟩,
   ⟨1#12, ⟨1#12, [], some ({ op0 with kind := 3, s2 := some 0x1040, dst := 0x1080, verdict := .spent, src := lowH, src2 := some lowH }), some ⟨[], 0x1040, 1#12⟩, none, [(0x1000, { lowH with spent := true }), (0x1040, { lowH with spent := true })], [0x1000, 0x1040, 0x1080]⟩, ⟨[], 0x1040, 1#12⟩, .clean, insS [⟨1#12, [], some ({ op0 with kind := 3, s2 := some 0x1040, dst := 0x1080, verdict := .spent, src := lowH, src2 := some lowH }), some ⟨[], 0x1040, 1#12⟩, none, [(0x1000, { lowH with spent := true }), (0x1040, { lowH with spent := true })], [0x1000, 0x1040, 0x1080]⟩], { op0 with kind := 3, s2 := some 0x1040, dst := 0x1080, verdict := .spent, src := lowH, src2 := some lowH }, _, _, _, rfl, rfl, rfl, (by decide +kernel), (by decide +kernel), (by decide +kernel), (by decide +kernel), (by decide +kernel), (by decide +kernel), by decide +kernel⟩⟩

/-- The hypotheses of `Obligations.BracketCloses` can be met: a running operation, each marked verdict's, a mark put on it later,
declarations that meet R121 and that fail it, bays that declare different forms, and an inserted refresh. -/
theorem witness_BracketCloses :
    ∀ e ∈ ([(br0 ({ op0 with ended := 1#12, nf := [.ntt] }), { op0 with ended := 1#12, nf := [.ntt] }, brS [br0 ({ op0 with ended := 1#12, nf := [.ntt] })]),
      (br0 ({ op0 with ended := 1#12, nf := [.ntt], verdict := .malformed }), { op0 with ended := 1#12, nf := [.ntt], verdict := .malformed }, brS [br0 ({ op0 with ended := 1#12, nf := [.ntt], verdict := .malformed })]),
      (br0 ({ op0 with ended := 1#12, nf := [.ntt], verdict := .spent }), { op0 with ended := 1#12, nf := [.ntt], verdict := .spent }, brS [br0 ({ op0 with ended := 1#12, nf := [.ntt], verdict := .spent })]),
      (br0 ({ op0 with ended := 1#12, nf := [.ntt], mark := some 0x42#8 }), { op0 with ended := 1#12, nf := [.ntt], mark := some 0x42#8 }, brS [br0 ({ op0 with ended := 1#12, nf := [.ntt], mark := some 0x42#8 })]),
      (br0 ({ op0 with ended := 1#12, nf := [.ntt], kind := 6, src := apx, hout := [(0, 1#8, 120#8)] }), { op0 with ended := 1#12, nf := [.ntt], kind := 6, src := apx, hout := [(0, 1#8, 120#8)] }, closeS [br0 ({ op0 with ended := 1#12, nf := [.ntt], kind := 6, src := apx, hout := [(0, 1#8, 120#8)] })]),
      (br0 ({ op0 with ended := 1#12, nf := [.ntt], kind := 6, src := apx, hout := [(0, 1#8, 121#8)] }), { op0 with ended := 1#12, nf := [.ntt], kind := 6, src := apx, hout := [(0, 1#8, 121#8)] }, closeS [br0 ({ op0 with ended := 1#12, nf := [.ntt], kind := 6, src := apx, hout := [(0, 1#8, 121#8)] })]),
      (br0 ({ op0 with ended := 1#12, nf := [.ntt], kind := 6, src := apx, verdict := .spent }), { op0 with ended := 1#12, nf := [.ntt], kind := 6, src := apx, verdict := .spent }, closeS [br0 ({ op0 with ended := 1#12, nf := [.ntt], kind := 6, src := apx, verdict := .spent })]),
      (br0 ({ op0 with ended := 1#12, nf := [.ntt, .coef] }), { op0 with ended := 1#12, nf := [.ntt, .coef] }, closeS [br0 ({ op0 with ended := 1#12, nf := [.ntt, .coef] })]),
      ({ br0 op0 with ins := some ⟨[], 0x1000, 0#12⟩, insOp := some { op0 with ended := 1#12, kind := 6, dst := 0x1000, nf := [.keep] } }, { op0 with ended := 1#12, kind := 6, dst := 0x1000, nf := [.keep] }, closeS [{ br0 op0 with ins := some ⟨[], 0x1000, 0#12⟩, insOp := some { op0 with ended := 1#12, kind := 6, dst := 0x1000, nf := [.keep] } }])] : List (Bracket × OpenOp × State)),
      ∃ (mask : BayMask) (k : Bracket) (o : OpenOp) (s : State) (dv : Option (Byte × Byte)) (decl : Byte × Byte) (w h : Hdr)
        (zeroes bad : Bool), (k, o, s) = e ∧
        (dv = (match o.hout with | [] => none | (_, l, e) :: _ => if (∀ b : Bay, mask.getLsbD b = true → (o.hout.filter (fun d => d.1 == b)).length = 1) ∧ (∀ d ∈ o.hout, d.2 = (l, e)) ∧ (ctxAt s o.src.ctx.toNat).levelOk l.toNat = true ∧ 1 ≤ e.toNat ∧ e.toNat ≤ 120 then some (l, e) else none)) ∧
        (decl = dv.getD (0#8, 0#8)) ∧
        (bad = (o.verdict == .run && o.mark.isNone && (o.nf.isEmpty || o.nf.any (fun f => o.nf.head? != some f) || (declares o.kind o.src && dv.isNone)))) ∧
        (zeroes = (o.verdict == .poison || o.verdict == .mismatch || o.verdict == .spent || (o.verdict == .run && o.mark.isSome))) ∧
        (w = (match o.verdict, o.mark, o.nf with | .run, some c, _ => { o.clamped with budget := 0#16, nttf := o.src.nttf, invalid := true, spent := false, cause := c } | .run, none, .keep :: _ => { o.out with nttf := o.src.nttf } | .run, none, .coef :: _ => { o.out with nttf := false } | .run, none, .ntt :: _ => { o.out with nttf := true } | _, _, _ => o.out)) ∧
        (h = (if o.verdict = .malformed then o.out else if bad = true then { o.out with level := 0#8, slots := 0#24, comp := 0#2, budget := 0#16, nttf := o.src.nttf, invalid := true, spent := false, cause := 0x24#8, scale := if declares o.kind o.src then decl.2 else o.out.scale } else if declares o.kind o.src then { w with level := decl.1, scale := decl.2 } else w)) ∧
        (dieRuns s = true) ∧
        (MemInv s) ∧
        (s.hdr.brackets.find? (fun q => q.mask == mask && q.op.isSome && (match q.cur with | some o => o.allEnded mask && (q.insOp.isSome || q.ins.isNone) | none => false)) = some k) ∧
        (k.insOp = some o ∧ k.op.isSome = true ∨ k.insOp = none ∧ k.op = some o) ∧
        (o.dstBad = false) ∧
        (∀ j : Nat, j < 64 → byteBad s (o.dst + j) = false) ∧
        (ahead s [] (closeSpans s mask o) = false) := by
  intro e he
  refine ⟨1#12, e.1, e.2.1, e.2.2, _, _, _, _, _, _, rfl, rfl, rfl, rfl, rfl, rfl, rfl, ?_⟩
  fin_cases he <;>
    exact ⟨by decide +kernel, rfl, by decide +kernel, by decide +kernel, by decide +kernel, by decide +kernel, by decide +kernel⟩

/-- The hypotheses of `Obligations.Statistics` can be met, clause by clause. -/
theorem witness_Statistics :
    (∃ (b : Bay) (cs c1 c2 cd : Ctr) (cmt ovf : Bool) (s : State) (c : Instr) (o : StatOp) (mark : Option Ctr), (c, o, mark) ∈ ([(.tsScfg b cs c1, .scfg ((s.strm b .x).ctr[cs]).toNat (s.strm b .x).ctr[c1], none), (.tsAmax b cs c1 cmt ovf, .amax ((s.strm b .x).ctr[cs]).toNat (s.strm b .x).ctr[c1] cmt ovf, none), (.tsScale b cs cd, .scale ((s.strm b .x).ctr[cs]).toNat cd, some cd), (.tsUwr b cs c1 c2 cmt, .uwr ((s.strm b .x).ctr[cs]).toNat (s.strm b .x).ctr[c1] (s.strm b .x).ctr[c2] cmt, none), (.tsUstat b cs cd, .ustat ((s.strm b .x).ctr[cs]).toNat cd, some cd)] : List (Instr × StatOp × Option Ctr)) ∧ mayIssue b .x c s = true ∧ (s.strm b .x).free [cs, c1, c2, cd] = true ∧ ((s.strm b .x).ctr[cs]).toNat ≤ 1023) ∧
    (∃ (b : Bay) (cs c1 c2 cd : Ctr) (cmt ovf : Bool) (s : State) (c : Instr) (o : StatOp) (mark : Option Ctr), (c, o, mark) ∈ ([(.tsScfg b cs c1, .scfg ((s.strm b .x).ctr[cs]).toNat (s.strm b .x).ctr[c1], none), (.tsAmax b cs c1 cmt ovf, .amax ((s.strm b .x).ctr[cs]).toNat (s.strm b .x).ctr[c1] cmt ovf, none), (.tsScale b cs cd, .scale ((s.strm b .x).ctr[cs]).toNat cd, some cd), (.tsUwr b cs c1 c2 cmt, .uwr ((s.strm b .x).ctr[cs]).toNat (s.strm b .x).ctr[c1] (s.strm b .x).ctr[c2] cmt, none), (.tsUstat b cs cd, .ustat ((s.strm b .x).ctr[cs]).toNat cd, some cd)] : List (Instr × StatOp × Option Ctr)) ∧ mayIssue b .x c s = true ∧ (s.strm b .x).free [cs, c1, c2, cd] = true ∧ ((s.strm b .x).ctr[cs]).toNat ≤ 1023) ∧
    (∃ (b : Bay) (cs c1 c2 cd : Ctr) (cmt ovf : Bool) (s : State) (c : Instr) (o : StatOp) (mark : Option Ctr), (c, o, mark) ∈ ([(.tsScfg b cs c1, .scfg ((s.strm b .x).ctr[cs]).toNat (s.strm b .x).ctr[c1], none), (.tsAmax b cs c1 cmt ovf, .amax ((s.strm b .x).ctr[cs]).toNat (s.strm b .x).ctr[c1] cmt ovf, none), (.tsScale b cs cd, .scale ((s.strm b .x).ctr[cs]).toNat cd, some cd), (.tsUwr b cs c1 c2 cmt, .uwr ((s.strm b .x).ctr[cs]).toNat (s.strm b .x).ctr[c1] (s.strm b .x).ctr[c2] cmt, none), (.tsUstat b cs cd, .ustat ((s.strm b .x).ctr[cs]).toNat cd, some cd)] : List (Instr × StatOp × Option Ctr)) ∧ mayIssue b .x c s = true ∧ (s.strm b .x).free [cs, c1, c2, cd] = true ∧ ((s.strm b .x).ctr[cs]).toNat ≤ 1023) ∧
    (∃ (b : Bay) (cs c1 c2 cd : Ctr) (cmt ovf : Bool) (s : State) (c : Instr) (o : StatOp) (mark : Option Ctr), (c, o, mark) ∈ ([(.tsScfg b cs c1, .scfg ((s.strm b .x).ctr[cs]).toNat (s.strm b .x).ctr[c1], none), (.tsAmax b cs c1 cmt ovf, .amax ((s.strm b .x).ctr[cs]).toNat (s.strm b .x).ctr[c1] cmt ovf, none), (.tsScale b cs cd, .scale ((s.strm b .x).ctr[cs]).toNat cd, some cd), (.tsUwr b cs c1 c2 cmt, .uwr ((s.strm b .x).ctr[cs]).toNat (s.strm b .x).ctr[c1] (s.strm b .x).ctr[c2] cmt, none), (.tsUstat b cs cd, .ustat ((s.strm b .x).ctr[cs]).toNat cd, some cd)] : List (Instr × StatOp × Option Ctr)) ∧ mayIssue b .x c s = true ∧ (s.strm b .x).free [cs, c1, c2, cd] = true ∧ ((s.strm b .x).ctr[cs]).toNat ≤ 1023) ∧
    (∃ (b : Bay) (cs c1 c2 cd : Ctr) (cmt ovf : Bool) (s : State) (c : Instr) (o : StatOp) (mark : Option Ctr), (c, o, mark) ∈ ([(.tsScfg b cs c1, .scfg ((s.strm b .x).ctr[cs]).toNat (s.strm b .x).ctr[c1], none), (.tsAmax b cs c1 cmt ovf, .amax ((s.strm b .x).ctr[cs]).toNat (s.strm b .x).ctr[c1] cmt ovf, none), (.tsScale b cs cd, .scale ((s.strm b .x).ctr[cs]).toNat cd, some cd), (.tsUwr b cs c1 c2 cmt, .uwr ((s.strm b .x).ctr[cs]).toNat (s.strm b .x).ctr[c1] (s.strm b .x).ctr[c2] cmt, none), (.tsUstat b cs cd, .ustat ((s.strm b .x).ctr[cs]).toNat cd, some cd)] : List (Instr × StatOp × Option Ctr)) ∧ mayIssue b .x c s = true ∧ (s.strm b .x).free [cs, c1, c2, cd] = true ∧ ((s.strm b .x).ctr[cs]).toNat ≤ 1023) ∧
    (∃ (b : Bay) (cs c1 c2 cd : Ctr) (cmt ovf : Bool) (s : State) (c : Instr) (o : StatOp) (mark : Option Ctr), (c, o, mark) ∈ ([(.tsScfg b cs c1, .scfg ((s.strm b .x).ctr[cs]).toNat (s.strm b .x).ctr[c1], none), (.tsAmax b cs c1 cmt ovf, .amax ((s.strm b .x).ctr[cs]).toNat (s.strm b .x).ctr[c1] cmt ovf, none), (.tsScale b cs cd, .scale ((s.strm b .x).ctr[cs]).toNat cd, some cd), (.tsUwr b cs c1 c2 cmt, .uwr ((s.strm b .x).ctr[cs]).toNat (s.strm b .x).ctr[c1] (s.strm b .x).ctr[c2] cmt, none), (.tsUstat b cs cd, .ustat ((s.strm b .x).ctr[cs]).toNat cd, some cd)] : List (Instr × StatOp × Option Ctr)) ∧ mayIssue b .x c s = true ∧ (s.strm b .x).free [cs, c1, c2, cd] = true ∧ 1023 < ((s.strm b .x).ctr[cs]).toNat) ∧
    (∃ (b : Bay) (o : StatOp) (r : List (Bay × StatOp)) (s : State), dieRuns s = true ∧ takeStat b s.stats.queue = some (o, r) ∧ Sparse.wf (fun _ => ScaleSlot.reset) s.stats.scale = true ∧ Sparse.wf (fun _ => RatioSlot.reset) s.stats.ratio = true) ∧
    (∃ (b : Bay) (o : StatOp) (r : List (Bay × StatOp)) (s : State), dieRuns s = true ∧ takeStat b s.stats.queue = some (o, r) ∧ Sparse.wf (fun _ => ScaleSlot.reset) s.stats.scale = true ∧ Sparse.wf (fun _ => RatioSlot.reset) s.stats.ratio = true) ∧
    (∃ (b : Bay) (o : StatOp) (r : List (Bay × StatOp)) (s : State), dieRuns s = true ∧ takeStat b s.stats.queue = some (o, r) ∧ Sparse.wf (fun _ => ScaleSlot.reset) s.stats.scale = true ∧ Sparse.wf (fun _ => RatioSlot.reset) s.stats.ratio = true) ∧
    (∃ (b : Bay) (o : StatOp) (r : List (Bay × StatOp)) (s : State), dieRuns s = true ∧ takeStat b s.stats.queue = some (o, r) ∧ Sparse.wf (fun _ => ScaleSlot.reset) s.stats.scale = true ∧ Sparse.wf (fun _ => RatioSlot.reset) s.stats.ratio = true) ∧
    (∃ (b : Bay) (o : StatOp) (r : List (Bay × StatOp)) (s : State), dieRuns s = true ∧ takeStat b s.stats.queue = some (o, r) ∧ Sparse.wf (fun _ => ScaleSlot.reset) s.stats.scale = true ∧ Sparse.wf (fun _ => RatioSlot.reset) s.stats.ratio = true) ∧
    (∃ (b : Bay) (o : StatOp) (r : List (Bay × StatOp)) (s : State), dieRuns s = true ∧ takeStat b s.stats.queue = some (o, r) ∧ Sparse.wf (fun _ => ScaleSlot.reset) s.stats.scale = true ∧ Sparse.wf (fun _ => RatioSlot.reset) s.stats.ratio = true) ∧
    (∃ (b : Bay) (o : StatOp) (r : List (Bay × StatOp)) (s : State), dieRuns s = true ∧ takeStat b s.stats.queue = some (o, r) ∧ Sparse.wf (fun _ => ScaleSlot.reset) s.stats.scale = true ∧ Sparse.wf (fun _ => RatioSlot.reset) s.stats.ratio = true) ∧
    (∃ (b : Bay) (cd : Ctr) (v : W32) (r : List (Bay × Ctr × W32)) (s : State), dieRuns s = true ∧ takeResult b s.stats.results = some ((cd, v), r)) :=
  ⟨⟨0, 0, 1, 2, 3, true, false, t0, .tsScfg 0 0 1, .scfg 0 0#32, none, by decide +kernel⟩,
   ⟨0, 0, 1, 2, 3, true, false, t0, .tsAmax 0 0 1 true false, .amax 0 0#32 true false, none, by decide +kernel⟩,
   ⟨0, 0, 1, 2, 3, true, false, t0, .tsScale 0 0 3, .scale 0 3, some 3, by decide +kernel⟩,
   ⟨0, 0, 1, 2, 3, true, false, t0, .tsUwr 0 0 1 2 true, .uwr 0 0#32 0#32 true, none, by decide +kernel⟩,
   ⟨0, 0, 1, 2, 3, true, false, t0, .tsUstat 0 0 3, .ustat 0 3, some 3, by decide +kernel⟩,
   ⟨0, 0, 1, 2, 3, true, false, ctrS 0 1024#32, .tsScfg 0 0 1, .scfg 1024 0#32, none, by decide +kernel⟩,
   ⟨0, .scfg 1023 0#32, [], { t0 with stats := { Stats.reset with queue := [(0, .scfg 1023 0#32)] } }, by decide +kernel⟩,
   ⟨0, .amax 0 1#32 false true, [], { t0 with stats := { Stats.reset with queue := [(0, .amax 0 1#32 false true)] } }, by decide +kernel⟩,
   ⟨0, .amax 0 1#32 true false, [], { t0 with stats := { Stats.reset with queue := [(0, .amax 0 1#32 true false)] } }, by decide +kernel⟩,
   ⟨0, .scale 0 1, [], { t0 with stats := { Stats.reset with queue := [(0, .scale 0 1)] } }, by decide +kernel⟩,
   ⟨0, .uwr 0 1#32 2#32 false, [], { t0 with stats := { Stats.reset with queue := [(0, .uwr 0 1#32 2#32 false)] } }, by decide +kernel⟩,
   ⟨0, .uwr 0 1#32 2#32 true, [], { t0 with stats := { Stats.reset with queue := [(0, .uwr 0 1#32 2#32 true)] } }, by decide +kernel⟩,
   ⟨0, .ustat 0 1, [], { t0 with stats := { Stats.reset with queue := [(0, .ustat 0 1)] } }, by decide +kernel⟩,
   ⟨0, 3, 9#32, [], { t0 with stats := { Stats.reset with results := [(0, 3, 9#32)] } }, by decide +kernel⟩⟩

/-- The hypotheses of `Obligations.TideIssue` can be met, clause by clause. -/
theorem witness_TideIssue :
    (∃ (b : Bay) (ck cg : Ctr) (cb : Option Ctr) (next : Bool) (level : Fin 64) (s : State), mayIssue b .x (.tdKey b ck cg cb next level .clean) s = true ∧ (s.strm b .x).free ([ck, cg] ++ cb.toList) = true ∧ (s.bay b).tide.streams.length < 4 ∧ (cb = none → noReqs s = true)) ∧
    (∃ (b : Bay) (ck cg : Ctr) (cb : Option Ctr) (next : Bool) (level : Fin 64) (s : State), mayIssue b .x (.tdKey b ck cg cb next level .clean) s = true ∧ (s.strm b .x).free ([ck, cg] ++ cb.toList) = true ∧ (s.bay b).tide.streams.length < 4 ∧ (cb = none → noReqs s = true) ∧ (hendOp b s).isSome = true) ∧
    (∃ (b : Bay) (ck cg : Ctr) (cb : Option Ctr) (next : Bool) (level : Fin 64) (ev : CodeEvent) (s : State), mayIssue b .x (.tdKey b ck cg cb next level ev) s = true ∧ (s.strm b .x).status = .run ∧ (s.strm b .x).wait = none ∧ (s.strm b .x).free ([ck, cg] ++ cb.toList) = true ∧ 4 ≤ (s.bay b).tide.streams.length) ∧
    (∃ (b : Bay) (s : State), mayIssue b .x (.tdDrop b) s = true) ∧
    (∃ (b : Bay) (cn : Ctr) (s : State), mayIssue b .x (.tdStat b cn) s = true ∧ (s.strm b .x).free [cn] = true) :=
  ⟨⟨0, 0, 1, none, true, 1, tideS { Tide.reset with streams := List.replicate 3 str0 }, by decide +kernel⟩,
   ⟨0, 0, 1, some 2, false, 63, brS [br0 op0], by decide +kernel⟩,
   ⟨0, 0, 1, none, true, 1, .clean, tideS { Tide.reset with streams := List.replicate 4 str0 }, by decide +kernel⟩,
   ⟨0, t0, by decide +kernel⟩,
   ⟨0, 15, t0, by decide +kernel⟩⟩

/-- The hypotheses of `Obligations.TideEvents` can be met, clause by clause. -/
theorem witness_TideEvents :
    (∃ (b : Bay) (slot : Fin 4) (x : TStream) (v : W32) (s : State), dieRuns s = true ∧ (s.bay b).tide.streams[slot.val]? = some x ∧ x.opened = false ∧ x.start = some v ∧ beatDone s.beat.beat v = true ∧ noReqs s = true ∧ s.beat.st ≠ .hold) ∧
    (∃ (b : Bay) (slot : Fin 4) (x : TStream) (v : W32) (s : State), dieRuns s = true ∧ (s.bay b).tide.streams[slot.val]? = some x ∧ x.opened = false ∧ x.start = some v ∧ beatDone s.beat.beat v = true ∧ noReqs s = true ∧ s.beat.st = .hold) ∧
    (∃ (mask : BayMask) (k : Nat) (o : OpenOp) (s : State), dieRuns s = true ∧ curOp mask s = some o ∧ o.hopRun = true ∧ mask ≠ 0#12 ∧ setReady mask k o = true ∧ (baysIn mask).all (fun b => o.code b k == some 0#8) = true) ∧
    (∃ (mask : BayMask) (k : Nat) (o : OpenOp) (s : State), dieRuns s = true ∧ curOp mask s = some o ∧ o.hopRun = true ∧ mask ≠ 0#12 ∧ setReady mask k o = true ∧ (baysIn mask).all (fun b => o.code b k == some 0#8) = false) ∧
    (∃ (b : Bay) (x : TStream) (s : State), dieRuns s = true ∧ (s.bay b).tide.streams.find? (fun x => !x.fillsDone b) = some x ∧ (s.bay b).tide.halt = false ∧ x.opened = true ∧ ((s.bay b).tide.half (s.bay b).tide.nextHalf).st = .free) ∧
    (∃ (b : Bay) (h : Bool) (x : TStream) (c : TideCap) (s : State), dieRuns s = true ∧ (s.bay b).tide.fillingHalf = some h ∧ (s.bay b).tide.streams.find? (fun x => x.sid == ((s.bay b).tide.half h).sid) = some x ∧ x.cap = some c ∧ (s.bay b).tide.halt = false ∧ x.zero = false ∧ noReqs s = true ∧ rangeBad s 0 1024 = false ∧ cap0.stored b ((str0.blocks b).getD 0 (0, 0)) = 0) ∧
    (∃ (b : Bay) (x : TStream) (core : Fin 36) (s : State), dieRuns s = true ∧ (s.bay b).tide.streams.find? (fun x => !x.segsDone b) = some x ∧ (s.bay b).tide.freeCore = some core ∧ (s.bay b).tide.halt = false ∧ x.opened = true ∧ (s.bay b).tide.segs.length < 64) ∧
    (∃ (b : Bay) (core : Fin 36) (g : Seg) (w : List W32) (p r : Nat) (s : State), dieRuns s = true ∧ (s.bay b).tide.segs.find? (fun g => g.words.isNone && g.core == core) = some g ∧ segResult (s.bay b).tide b g = some (w, p, r)) ∧
    (∃ (b : Bay) (x : TStream) (row : KeyRow) (k : Taker) (s : State), dieRuns s = true ∧ (s.bay b).tide.source = some x ∧ oldestTaker (takers (s.bay b)) = some k ∧ k ≠ .blocked ∧ (s.bay b).parked = false ∧ (s.bay b).parkPend = false ∧ (s.bay b).tide.nextRow (s.bay b).keyBuf x b = some row ∧ ((s.bay b).tide.rowWord x b).all (fun w => !(s.bay b).prot.repairs? (w / 512)) = true ∧ badInRow (s.bay b).prot ((s.bay b).tide.rowWord x b) = none ∧ (x.total b).all (fun n => decide (x.rows + 1 < n)) = true) :=
  ⟨⟨0, 3, { str0 with opened := false, start := some 0#32, cap := none }, 0#32, tideS { Tide.reset with streams := [str0, str0, str0, { str0 with opened := false, start := some 0#32, cap := none }] }, by decide +kernel⟩,
   ⟨0, 0, { str0 with opened := false, start := some 0#32, cap := none }, 0#32, { tideS { Tide.reset with streams := [{ str0 with opened := false, start := some 0#32, cap := none }] } with beat := { Beat.reset with st := .hold } }, by decide +kernel⟩,
   ⟨1#12, 0, { op0 with checks := [(0, 0, 0#8)] }, brS [br0 { op0 with checks := [(0, 0, 0#8)] }], by decide +kernel⟩,
   ⟨1#12, 0, { op0 with checks := [(0, 0, 3#8)] }, brS [br0 { op0 with checks := [(0, 0, 3#8)] }], by decide +kernel⟩,
   ⟨0, str0, tideS { Tide.reset with streams := [str0] }, by decide +kernel⟩,
   ⟨0, false, { str0 with fills := 1 }, cap0, tideS { Tide.reset with streams := [{ str0 with fills := 1 }], kh0 := ⟨.filling, 0, 0, 0⟩, nextHalf := true }, by decide +kernel⟩,
   ⟨0, str0, 0, tideS { Tide.reset with streams := [str0] }, by decide +kernel⟩,
   (let ⟨w, p, r, h⟩ := seg_words; ⟨0, 0, ⟨0, 0, 0, none⟩, w, p, r, segS, by decide +kernel, by decide +kernel, h⟩),
   ⟨0, { str0 with allowed := true }, ⟨0, List.replicate 256 0#32⟩, .kmac, bayS { bay0 with tide := { Tide.reset with streams := [{ str0 with allowed := true }], kh0 := ⟨.filling, 0, 0, 4⟩ }, vec := { Vec.reset with queue := [vEnt (.kmac 0 true d0 none)] } }, by decide +kernel⟩⟩

/-- The hypotheses of `Obligations.TileIssue` can be met, clause by clause. -/
theorem witness_TileIssue :
    (∃ (b : Bay) (lt : Lt) (mask : BitVec 8) (buf resume acc ob : Bool) (fd fo : LFlag) (n1 e : Fin 256) (r : TileReg) (cn : Ctr) (dx : Dix) (d : Desc) (s : State) (c : Instr) (m : BitVec 8) (op : TileOp) (named : Bool), (c, m, op, named) ∈ ([(.mmLds b lt buf resume true n1 dx, BitVec.twoPow 8 lt, .lds buf resume true (n1.val + 1) none 0xFFFF#16, false), (.mmLds b lt buf resume false n1 dx, BitVec.twoPow 8 lt, .lds buf resume false (n1.val + 1) (some d) (BitVec.ofNat 16 dx.val), true), (.mmMul b mask buf ob acc n1 dx, mask, .mul mask buf ob acc (n1.val + 1) d, true), (.mmDrain b lt ob fd fo n1 dx, BitVec.twoPow 8 lt, .drain ob fd fo (n1.val + 1) d, true), (.mmClr b lt ob, BitVec.twoPow 8 lt, .clr ob, false), (.mmLdp b lt e n1 dx, BitVec.twoPow 8 lt, .ldp e.val (n1.val + 1) d, true), (.mmStat b lt r cn, BitVec.twoPow 8 lt, .stat r cn, false)] : List (Instr × BitVec 8 × TileOp × Bool)) ∧ mayIssue b .x c s = true ∧ (c = .mmStat b lt r cn → (s.strm b .x).free [cn] = true) ∧ (named = true → descBad b [dx] s = none ∧ unitDesc b dx s = some d) ∧ (∀ i : Lt, m.getLsbD i = true → (tileOf b i s).queue.length < 8) ∧ ((∃ m', c = .mmLdp b lt e m' dx) → (tileOf b lt s).quiet = true)) ∧
    (∃ (b : Bay) (lt : Lt) (mask : BitVec 8) (buf resume acc ob : Bool) (fd fo : LFlag) (n1 e : Fin 256) (r : TileReg) (cn : Ctr) (dx : Dix) (d : Desc) (s : State) (c : Instr) (m : BitVec 8) (op : TileOp) (named : Bool), (c, m, op, named) ∈ ([(.mmLds b lt buf resume true n1 dx, BitVec.twoPow 8 lt, .lds buf resume true (n1.val + 1) none 0xFFFF#16, false), (.mmLds b lt buf resume false n1 dx, BitVec.twoPow 8 lt, .lds buf resume false (n1.val + 1) (some d) (BitVec.ofNat 16 dx.val), true), (.mmMul b mask buf ob acc n1 dx, mask, .mul mask buf ob acc (n1.val + 1) d, true), (.mmDrain b lt ob fd fo n1 dx, BitVec.twoPow 8 lt, .drain ob fd fo (n1.val + 1) d, true), (.mmClr b lt ob, BitVec.twoPow 8 lt, .clr ob, false), (.mmLdp b lt e n1 dx, BitVec.twoPow 8 lt, .ldp e.val (n1.val + 1) d, true), (.mmStat b lt r cn, BitVec.twoPow 8 lt, .stat r cn, false)] : List (Instr × BitVec 8 × TileOp × Bool)) ∧ mayIssue b .x c s = true ∧ (c = .mmStat b lt r cn → (s.strm b .x).free [cn] = true) ∧ (named = true → descBad b [dx] s = none ∧ unitDesc b dx s = some d) ∧ (∀ i : Lt, m.getLsbD i = true → (tileOf b i s).queue.length < 8) ∧ ((∃ m', c = .mmLdp b lt e m' dx) → (tileOf b lt s).quiet = true)) ∧
    (∃ (b : Bay) (lt : Lt) (mask : BitVec 8) (buf resume acc ob : Bool) (fd fo : LFlag) (n1 e : Fin 256) (r : TileReg) (cn : Ctr) (dx : Dix) (d : Desc) (s : State) (c : Instr) (m : BitVec 8) (op : TileOp) (named : Bool), (c, m, op, named) ∈ ([(.mmLds b lt buf resume true n1 dx, BitVec.twoPow 8 lt, .lds buf resume true (n1.val + 1) none 0xFFFF#16, false), (.mmLds b lt buf resume false n1 dx, BitVec.twoPow 8 lt, .lds buf resume false (n1.val + 1) (some d) (BitVec.ofNat 16 dx.val), true), (.mmMul b mask buf ob acc n1 dx, mask, .mul mask buf ob acc (n1.val + 1) d, true), (.mmDrain b lt ob fd fo n1 dx, BitVec.twoPow 8 lt, .drain ob fd fo (n1.val + 1) d, true), (.mmClr b lt ob, BitVec.twoPow 8 lt, .clr ob, false), (.mmLdp b lt e n1 dx, BitVec.twoPow 8 lt, .ldp e.val (n1.val + 1) d, true), (.mmStat b lt r cn, BitVec.twoPow 8 lt, .stat r cn, false)] : List (Instr × BitVec 8 × TileOp × Bool)) ∧ mayIssue b .x c s = true ∧ (c = .mmStat b lt r cn → (s.strm b .x).free [cn] = true) ∧ (named = true → descBad b [dx] s = none ∧ unitDesc b dx s = some d) ∧ (∀ i : Lt, m.getLsbD i = true → (tileOf b i s).queue.length < 8) ∧ ((∃ m', c = .mmLdp b lt e m' dx) → (tileOf b lt s).quiet = true)) ∧
    (∃ (b : Bay) (lt : Lt) (mask : BitVec 8) (buf resume acc ob : Bool) (fd fo : LFlag) (n1 e : Fin 256) (r : TileReg) (cn : Ctr) (dx : Dix) (d : Desc) (s : State) (c : Instr) (m : BitVec 8) (op : TileOp) (named : Bool), (c, m, op, named) ∈ ([(.mmLds b lt buf resume true n1 dx, BitVec.twoPow 8 lt, .lds buf resume true (n1.val + 1) none 0xFFFF#16, false), (.mmLds b lt buf resume false n1 dx, BitVec.twoPow 8 lt, .lds buf resume false (n1.val + 1) (some d) (BitVec.ofNat 16 dx.val), true), (.mmMul b mask buf ob acc n1 dx, mask, .mul mask buf ob acc (n1.val + 1) d, true), (.mmDrain b lt ob fd fo n1 dx, BitVec.twoPow 8 lt, .drain ob fd fo (n1.val + 1) d, true), (.mmClr b lt ob, BitVec.twoPow 8 lt, .clr ob, false), (.mmLdp b lt e n1 dx, BitVec.twoPow 8 lt, .ldp e.val (n1.val + 1) d, true), (.mmStat b lt r cn, BitVec.twoPow 8 lt, .stat r cn, false)] : List (Instr × BitVec 8 × TileOp × Bool)) ∧ mayIssue b .x c s = true ∧ (c = .mmStat b lt r cn → (s.strm b .x).free [cn] = true) ∧ (named = true → descBad b [dx] s = none ∧ unitDesc b dx s = some d) ∧ (∀ i : Lt, m.getLsbD i = true → (tileOf b i s).queue.length < 8) ∧ ((∃ m', c = .mmLdp b lt e m' dx) → (tileOf b lt s).quiet = true)) ∧
    (∃ (b : Bay) (lt : Lt) (mask : BitVec 8) (buf resume acc ob : Bool) (fd fo : LFlag) (n1 e : Fin 256) (r : TileReg) (cn : Ctr) (dx : Dix) (d : Desc) (s : State) (c : Instr) (m : BitVec 8) (op : TileOp) (named : Bool), (c, m, op, named) ∈ ([(.mmLds b lt buf resume true n1 dx, BitVec.twoPow 8 lt, .lds buf resume true (n1.val + 1) none 0xFFFF#16, false), (.mmLds b lt buf resume false n1 dx, BitVec.twoPow 8 lt, .lds buf resume false (n1.val + 1) (some d) (BitVec.ofNat 16 dx.val), true), (.mmMul b mask buf ob acc n1 dx, mask, .mul mask buf ob acc (n1.val + 1) d, true), (.mmDrain b lt ob fd fo n1 dx, BitVec.twoPow 8 lt, .drain ob fd fo (n1.val + 1) d, true), (.mmClr b lt ob, BitVec.twoPow 8 lt, .clr ob, false), (.mmLdp b lt e n1 dx, BitVec.twoPow 8 lt, .ldp e.val (n1.val + 1) d, true), (.mmStat b lt r cn, BitVec.twoPow 8 lt, .stat r cn, false)] : List (Instr × BitVec 8 × TileOp × Bool)) ∧ mayIssue b .x c s = true ∧ (c = .mmStat b lt r cn → (s.strm b .x).free [cn] = true) ∧ (named = true → descBad b [dx] s = none ∧ unitDesc b dx s = some d) ∧ (∀ i : Lt, m.getLsbD i = true → (tileOf b i s).queue.length < 8) ∧ ((∃ m', c = .mmLdp b lt e m' dx) → (tileOf b lt s).quiet = true)) ∧
    (∃ (b : Bay) (lt : Lt) (mask : BitVec 8) (buf resume acc ob : Bool) (fd fo : LFlag) (n1 e : Fin 256) (r : TileReg) (cn : Ctr) (dx : Dix) (d : Desc) (s : State) (c : Instr) (m : BitVec 8) (op : TileOp) (named : Bool), (c, m, op, named) ∈ ([(.mmLds b lt buf resume true n1 dx, BitVec.twoPow 8 lt, .lds buf resume true (n1.val + 1) none 0xFFFF#16, false), (.mmLds b lt buf resume false n1 dx, BitVec.twoPow 8 lt, .lds buf resume false (n1.val + 1) (some d) (BitVec.ofNat 16 dx.val), true), (.mmMul b mask buf ob acc n1 dx, mask, .mul mask buf ob acc (n1.val + 1) d, true), (.mmDrain b lt ob fd fo n1 dx, BitVec.twoPow 8 lt, .drain ob fd fo (n1.val + 1) d, true), (.mmClr b lt ob, BitVec.twoPow 8 lt, .clr ob, false), (.mmLdp b lt e n1 dx, BitVec.twoPow 8 lt, .ldp e.val (n1.val + 1) d, true), (.mmStat b lt r cn, BitVec.twoPow 8 lt, .stat r cn, false)] : List (Instr × BitVec 8 × TileOp × Bool)) ∧ mayIssue b .x c s = true ∧ (c = .mmStat b lt r cn → (s.strm b .x).free [cn] = true) ∧ (named = true → descBad b [dx] s = none ∧ unitDesc b dx s = some d) ∧ (∀ i : Lt, m.getLsbD i = true → (tileOf b i s).queue.length < 8) ∧ ((∃ m', c = .mmLdp b lt e m' dx) → (tileOf b lt s).quiet = true)) ∧
    (∃ (b : Bay) (lt : Lt) (mask : BitVec 8) (buf resume acc ob : Bool) (fd fo : LFlag) (n1 e : Fin 256) (r : TileReg) (cn : Ctr) (dx : Dix) (d : Desc) (s : State) (c : Instr) (m : BitVec 8) (op : TileOp) (named : Bool), (c, m, op, named) ∈ ([(.mmLds b lt buf resume true n1 dx, BitVec.twoPow 8 lt, .lds buf resume true (n1.val + 1) none 0xFFFF#16, false), (.mmLds b lt buf resume false n1 dx, BitVec.twoPow 8 lt, .lds buf resume false (n1.val + 1) (some d) (BitVec.ofNat 16 dx.val), true), (.mmMul b mask buf ob acc n1 dx, mask, .mul mask buf ob acc (n1.val + 1) d, true), (.mmDrain b lt ob fd fo n1 dx, BitVec.twoPow 8 lt, .drain ob fd fo (n1.val + 1) d, true), (.mmClr b lt ob, BitVec.twoPow 8 lt, .clr ob, false), (.mmLdp b lt e n1 dx, BitVec.twoPow 8 lt, .ldp e.val (n1.val + 1) d, true), (.mmStat b lt r cn, BitVec.twoPow 8 lt, .stat r cn, false)] : List (Instr × BitVec 8 × TileOp × Bool)) ∧ mayIssue b .x c s = true ∧ (c = .mmStat b lt r cn → (s.strm b .x).free [cn] = true) ∧ (named = true → descBad b [dx] s = none ∧ unitDesc b dx s = some d) ∧ (∀ i : Lt, m.getLsbD i = true → (tileOf b i s).queue.length < 8) ∧ ((∃ m', c = .mmLdp b lt e m' dx) → (tileOf b lt s).quiet = true)) ∧
    (∃ (b : Bay) (lt : Lt) (imm : W32) (s : State), mayIssue b .x (.mmCfg b lt imm) s = true ∧ (tileOf b lt s).quiet = true) ∧
    (∃ (b : Bay) (lt : Lt) (mask : BitVec 8) (buf resume acc ob : Bool) (fd fo : LFlag) (n1 e : Fin 256) (dx : Dix) (s : State) (c : Instr), c ∈ [Instr.mmLds b lt buf resume false n1 dx, .mmMul b mask buf ob acc n1 dx, .mmDrain b lt ob fd fo n1 dx, .mmLdp b lt e n1 dx] ∧ mayIssue b .x c s = true ∧ (∀ i : Lt, (tileOf b i s).queue.length < 8) ∧ (tileOf b lt s).quiet = true ∧ (descBad b [dx] s ≠ none ∨ unitDesc b dx s = none)) :=
  ⟨⟨0, 7, 0xFF#8, true, false, false, true, 1, 2, 255, 0, .stRow, 15, 0, d0, descS, .mmLds 0 7 true false true 255 0, BitVec.twoPow 8 7, .lds true false true 256 none 0xFFFF#16, false, (by decide +kernel), (by decide +kernel), (by decide +kernel), (by decide +kernel), (by decide +kernel), fun _ => by decide +kernel⟩,
   ⟨0, 7, 0xFF#8, true, false, false, true, 1, 2, 255, 0, .stRow, 15, 5, d0, descS, .mmLds 0 7 true false false 255 5, BitVec.twoPow 8 7, .lds true false false 256 (some d0) 5#16, true, (by decide +kernel), (by decide +kernel), (by decide +kernel), (by decide +kernel), (by decide +kernel), fun _ => by decide +kernel⟩,
   ⟨0, 7, 0xFF#8, true, false, false, true, 1, 2, 255, 0, .stRow, 15, 5, d0, descS, .mmMul 0 0xFF#8 true true false 255 5, 0xFF#8, .mul 0xFF#8 true true false 256 d0, true, (by decide +kernel), (by decide +kernel), (by decide +kernel), (by decide +kernel), (by decide +kernel), fun _ => by decide +kernel⟩,
   ⟨0, 7, 0xFF#8, true, false, false, true, 1, 2, 255, 0, .stRow, 15, 5, d0, descS, .mmDrain 0 7 true 1 2 255 5, BitVec.twoPow 8 7, .drain true 1 2 256 d0, true, (by decide +kernel), (by decide +kernel), (by decide +kernel), (by decide +kernel), (by decide +kernel), fun _ => by decide +kernel⟩,
   ⟨0, 7, 0xFF#8, true, false, false, true, 1, 2, 255, 0, .stRow, 15, 5, d0, descS, .mmClr 0 7 true, BitVec.twoPow 8 7, .clr true, false, (by decide +kernel), (by decide +kernel), (by decide +kernel), (by decide +kernel), (by decide +kernel), fun _ => by decide +kernel⟩,
   ⟨0, 7, 0xFF#8, true, false, false, true, 1, 2, 255, 0, .stRow, 15, 5, d0, descS, .mmLdp 0 7 0 255 5, BitVec.twoPow 8 7, .ldp 0 256 d0, true, (by decide +kernel), (by decide +kernel), (by decide +kernel), (by decide +kernel), (by decide +kernel), fun _ => by decide +kernel⟩,
   ⟨0, 7, 0xFF#8, true, false, false, true, 1, 2, 255, 0, .stRow, 15, 5, d0, descS, .mmStat 0 7 .stRow 15, BitVec.twoPow 8 7, .stat .stRow 15, false, (by decide +kernel), (by decide +kernel), (by decide +kernel), (by decide +kernel), (by decide +kernel), fun _ => by decide +kernel⟩,
   ⟨0, 7, 0xFF000004#32, t0, by decide +kernel⟩,
   ⟨0, 7, 0xFF#8, true, false, false, true, 1, 2, 255, 0, 2047, t0, .mmMul 0 0xFF#8 true true false 255 2047, by decide +kernel⟩⟩

/-- The hypotheses of `Obligations.TileEvents` can be met, clause by clause. -/
theorem witness_TileEvents :
    (∃ (b : Bay) (lt : Lt) (ent : TileEnt) (s : State), dieRuns s = true ∧ memFree s = true ∧ tileNext b lt s = some ent) ∧
    (∃ (b : Bay) (lt : Lt) (ent : TileEnt) (s : State), dieRuns s = true ∧ memFree s = true ∧ tileNext b lt s = some ent) ∧
    (∃ (b : Bay) (lt : Lt) (ent : TileEnt) (s : State), dieRuns s = true ∧ memFree s = true ∧ tileNext b lt s = some ent) ∧
    (∃ (b : Bay) (lt : Lt) (ent : TileEnt) (s : State), dieRuns s = true ∧ memFree s = true ∧ tileNext b lt s = some ent) ∧
    (∃ (b : Bay) (lt : Lt) (ent : TileEnt) (s : State), dieRuns s = true ∧ memFree s = true ∧ tileNext b lt s = some ent ∧ (∀ i : Lt, (1#8).getLsbD i = true → (tileOf b i s).mode = (tileOf b lt s).mode ∧ ((tileOf b i s).bank false).count false ≤ 262144) ∧ (d0.addrs 0 256).any (byteBad s) = false) ∧
    (∃ (b : Bay) (lt : Lt) (ent : TileEnt) (s : State), dieRuns s = true ∧ memFree s = true ∧ tileNext b lt s = some ent ∧ (d0.addrs 0 16).any (byteBad s) = false ∧ (primeRecs (s.gather (d0.addrs 0 16)) 1).all primeOk = true) ∧
    (∃ (b : Bay) (lt : Lt) (l : LoadRun) (d : Desc) (s : State), dieRuns s = true ∧ memFree s = true ∧ (tileOf b lt s).load = some l ∧ l.d = some d ∧ (l.quench = true ∨ goodRows s d (tileOf b lt s).mode l.next l.n = l.n - l.next)) ∧
    (∃ (b : Bay) (lt : Lt) (l : LoadRun) (s : State), dieRuns s = true ∧ (tileOf b lt s).load = some l ∧ l.d = none ∧ l.n ≤ l.next ∧ memFree s = true) ∧
    (∃ (b : Bay) (lt : Lt) (m : MulRun) (r : List MulRun) (s : State), dieRuns s = true ∧ soundUnits b s = true ∧ (tileOf b lt s).muls = m :: r) ∧
    (∃ (b : Bay) (lt : Lt) (r : DrainRun) (s : State), dieRuns s = true ∧ memFree s = true ∧ soundUnits b s = true ∧ (tileOf b lt s).drain = some r) :=
  ⟨⟨0, 0, tEnt (.lds false false false 1 (some d0) 5#16), bayS { bay0 with tiles := bay0.tiles.set 0 { Tile.reset with queue := [tEnt (.lds false false false 1 (some d0) 5#16)] } }, by decide +kernel⟩,
   ⟨0, 0, tEnt (.drain false 1 2 1 d0), bayS { bay0 with tiles := bay0.tiles.set 0 { { Tile.reset with ob0 := { OBank.reset with st := .held } } with queue := [tEnt (.drain false 1 2 1 d0)] } }, by decide +kernel⟩,
   ⟨0, 0, tEnt (.clr true), bayS { bay0 with tiles := bay0.tiles.set 0 { Tile.reset with queue := [tEnt (.clr true)] } }, by decide +kernel⟩,
   ⟨0, 0, tEnt (.stat .tstat 3), bayS { bay0 with tiles := bay0.tiles.set 0 { Tile.reset with queue := [tEnt (.stat .tstat 3)] } }, by decide +kernel⟩,
   ⟨0, 0, tEnt (.mul 1#8 false false false 1 d0), bayS { bay0 with tiles := bay0.tiles.set 0 { { Tile.reset with s0 := ⟨.loaded, []⟩ } with queue := [tEnt (.mul 1#8 false false false 1 d0)] } }, by decide +kernel⟩,
   ⟨0, 0, tEnt (.ldp 0 1 d0), { tileS { Tile.reset with queue := [tEnt (.ldp 0 1 d0)] } with mem := [(0x200000000000, 0xFF#8), (0x200000000001, 0xFF#8), (0x200000000002, 0xFF#8), (0x200000000003, 0x7F#8), (0x200000000004, 0x1F#8), (0x20000000000B, 0x08#8), (0x20000000000F, 0x04#8)] }, by decide +kernel⟩,
   ⟨0, 0, ⟨false, false, 0, 1, some d0, 5#16, 0, 0#15, false, false, none, none⟩, d0, tileS { Tile.reset with load := some ⟨false, false, 0, 1, some d0, 5#16, 0, 0#15, false, false, none, none⟩ }, by decide +kernel⟩,
   ⟨0, 0, ⟨false, true, 1, 1, none, 0xFFFF#16, 0, 0#15, false, false, none, some 0⟩, tileS { Tile.reset with load := some ⟨false, true, 1, 1, none, 0xFFFF#16, 0, 0#15, false, false, none, some 0⟩ }, by decide +kernel⟩,
   ⟨0, 0, ⟨false, false, true, [List.replicate 256 1#32], 0, 0#15, false⟩, [], tileS { Tile.reset with muls := [⟨false, false, true, [List.replicate 256 1#32], 0, 0#15, false⟩] }, by decide +kernel⟩,
   ⟨0, 0, ⟨false, 1, 2, 1, d0, 0, 0#15, false⟩, tileS { Tile.reset with drain := some ⟨false, 1, 2, 1, d0, 0, 0#15, false⟩ }, by decide +kernel⟩⟩

/-- The hypotheses of `Obligations.ModularPass` can be met, clause by clause. -/
theorem witness_ModularPass :
    ∃ (t : Tile) (buf acc : Bool) (x : List W32) (c a : Nat) (old : BitVec 96), t.mode = 3 ∧ x.length = 256 ∧ old.toNat < 2 ^ 88 ∧ primeOk (primeAt t.cpt (bitsAt t.cfg.toNat 31 24), 0) = true :=
  ⟨{ Tile.reset with cfg := 3#32 }, false, true, List.replicate 256 0xFFFFFFFF#32, 255, 0, BitVec.ofNat 96 (2 ^ 88 - 1), by decide +kernel⟩

/-- The hypotheses of `Obligations.RingIssue` can be met, clause by clause. -/
theorem witness_RingIssue :
    (∃ (b : Bay) (imm : W32) (fd : LFlag) (ac ident : Bool) (slot : Fin 16) (cn : Ctr) (d1 d2 : Dix) (x1 x2 : Desc) (s : State) (c : Instr) (op : NtOp) (rs : List Ctr) (ds : List (Dix × Desc)), (c, op, rs, ds) ∈ ([(.ntCfg b imm, .cfg imm, [], []), (.ntLdp b d1, .ldp x1, [], [(d1, x1)]), (.ntFwd b fd d2 d1, .fwd fd x2 x1, [], [(d1, x1), (d2, x2)]), (.ntInv b fd d2 d1, .inv fd x2 x1, [], [(d1, x1), (d2, x2)]), (.ntTv b ac ident slot cn, .tv ac (if ident = true then none else some ((s.bay b).tbl.act, slot)) (s.strm b .x).ctr[cn] (inRefresh b s), [cn], []), (.ntStep b ac fd cn d1, .step ac fd (s.strm b .x).ctr[cn] x1, [cn], [(d1, x1)]), (.ntAcc b ac fd d2, .acc ac fd x2, [], [(d2, x2)]), (.ntOut b ac fd d1, .out ac fd x1, [], [(d1, x1)])] : List (Instr × NtOp × List Ctr × List (Dix × Desc))) ∧ mayIssue b .x c s = true ∧ (s.strm b .x).free rs = true ∧ descBad b (ds.map (fun p => p.1)) s = none ∧ (∀ p ∈ ds, unitDesc b p.1 s = some p.2) ∧ (s.bay b).nt.queue.length < 4) ∧
    (∃ (b : Bay) (imm : W32) (fd : LFlag) (ac ident : Bool) (slot : Fin 16) (cn : Ctr) (d1 d2 : Dix) (x1 x2 : Desc) (s : State) (c : Instr) (op : NtOp) (rs : List Ctr) (ds : List (Dix × Desc)), (c, op, rs, ds) ∈ ([(.ntCfg b imm, .cfg imm, [], []), (.ntLdp b d1, .ldp x1, [], [(d1, x1)]), (.ntFwd b fd d2 d1, .fwd fd x2 x1, [], [(d1, x1), (d2, x2)]), (.ntInv b fd d2 d1, .inv fd x2 x1, [], [(d1, x1), (d2, x2)]), (.ntTv b ac ident slot cn, .tv ac (if ident = true then none else some ((s.bay b).tbl.act, slot)) (s.strm b .x).ctr[cn] (inRefresh b s), [cn], []), (.ntStep b ac fd cn d1, .step ac fd (s.strm b .x).ctr[cn] x1, [cn], [(d1, x1)]), (.ntAcc b ac fd d2, .acc ac fd x2, [], [(d2, x2)]), (.ntOut b ac fd d1, .out ac fd x1, [], [(d1, x1)])] : List (Instr × NtOp × List Ctr × List (Dix × Desc))) ∧ mayIssue b .x c s = true ∧ (s.strm b .x).free rs = true ∧ descBad b (ds.map (fun p => p.1)) s = none ∧ (∀ p ∈ ds, unitDesc b p.1 s = some p.2) ∧ (s.bay b).nt.queue.length < 4) ∧
    (∃ (b : Bay) (imm : W32) (fd : LFlag) (ac ident : Bool) (slot : Fin 16) (cn : Ctr) (d1 d2 : Dix) (x1 x2 : Desc) (s : State) (c : Instr) (op : NtOp) (rs : List Ctr) (ds : List (Dix × Desc)), (c, op, rs, ds) ∈ ([(.ntCfg b imm, .cfg imm, [], []), (.ntLdp b d1, .ldp x1, [], [(d1, x1)]), (.ntFwd b fd d2 d1, .fwd fd x2 x1, [], [(d1, x1), (d2, x2)]), (.ntInv b fd d2 d1, .inv fd x2 x1, [], [(d1, x1), (d2, x2)]), (.ntTv b ac ident slot cn, .tv ac (if ident = true then none else some ((s.bay b).tbl.act, slot)) (s.strm b .x).ctr[cn] (inRefresh b s), [cn], []), (.ntStep b ac fd cn d1, .step ac fd (s.strm b .x).ctr[cn] x1, [cn], [(d1, x1)]), (.ntAcc b ac fd d2, .acc ac fd x2, [], [(d2, x2)]), (.ntOut b ac fd d1, .out ac fd x1, [], [(d1, x1)])] : List (Instr × NtOp × List Ctr × List (Dix × Desc))) ∧ mayIssue b .x c s = true ∧ (s.strm b .x).free rs = true ∧ descBad b (ds.map (fun p => p.1)) s = none ∧ (∀ p ∈ ds, unitDesc b p.1 s = some p.2) ∧ (s.bay b).nt.queue.length < 4) ∧
    (∃ (b : Bay) (imm : W32) (fd : LFlag) (ac ident : Bool) (slot : Fin 16) (cn : Ctr) (d1 d2 : Dix) (x1 x2 : Desc) (s : State) (c : Instr) (op : NtOp) (rs : List Ctr) (ds : List (Dix × Desc)), (c, op, rs, ds) ∈ ([(.ntCfg b imm, .cfg imm, [], []), (.ntLdp b d1, .ldp x1, [], [(d1, x1)]), (.ntFwd b fd d2 d1, .fwd fd x2 x1, [], [(d1, x1), (d2, x2)]), (.ntInv b fd d2 d1, .inv fd x2 x1, [], [(d1, x1), (d2, x2)]), (.ntTv b ac ident slot cn, .tv ac (if ident = true then none else some ((s.bay b).tbl.act, slot)) (s.strm b .x).ctr[cn] (inRefresh b s), [cn], []), (.ntStep b ac fd cn d1, .step ac fd (s.strm b .x).ctr[cn] x1, [cn], [(d1, x1)]), (.ntAcc b ac fd d2, .acc ac fd x2, [], [(d2, x2)]), (.ntOut b ac fd d1, .out ac fd x1, [], [(d1, x1)])] : List (Instr × NtOp × List Ctr × List (Dix × Desc))) ∧ mayIssue b .x c s = true ∧ (s.strm b .x).free rs = true ∧ descBad b (ds.map (fun p => p.1)) s = none ∧ (∀ p ∈ ds, unitDesc b p.1 s = some p.2) ∧ (s.bay b).nt.queue.length < 4) ∧
    (∃ (b : Bay) (imm : W32) (fd : LFlag) (ac ident : Bool) (slot : Fin 16) (cn : Ctr) (d1 d2 : Dix) (x1 x2 : Desc) (s : State) (c : Instr) (op : NtOp) (rs : List Ctr) (ds : List (Dix × Desc)), (c, op, rs, ds) ∈ ([(.ntCfg b imm, .cfg imm, [], []), (.ntLdp b d1, .ldp x1, [], [(d1, x1)]), (.ntFwd b fd d2 d1, .fwd fd x2 x1, [], [(d1, x1), (d2, x2)]), (.ntInv b fd d2 d1, .inv fd x2 x1, [], [(d1, x1), (d2, x2)]), (.ntTv b ac ident slot cn, .tv ac (if ident = true then none else some ((s.bay b).tbl.act, slot)) (s.strm b .x).ctr[cn] (inRefresh b s), [cn], []), (.ntStep b ac fd cn d1, .step ac fd (s.strm b .x).ctr[cn] x1, [cn], [(d1, x1)]), (.ntAcc b ac fd d2, .acc ac fd x2, [], [(d2, x2)]), (.ntOut b ac fd d1, .out ac fd x1, [], [(d1, x1)])] : List (Instr × NtOp × List Ctr × List (Dix × Desc))) ∧ mayIssue b .x c s = true ∧ (s.strm b .x).free rs = true ∧ descBad b (ds.map (fun p => p.1)) s = none ∧ (∀ p ∈ ds, unitDesc b p.1 s = some p.2) ∧ (s.bay b).nt.queue.length < 4) ∧
    (∃ (b : Bay) (imm : W32) (fd : LFlag) (ac ident : Bool) (slot : Fin 16) (cn : Ctr) (d1 d2 : Dix) (x1 x2 : Desc) (s : State) (c : Instr) (op : NtOp) (rs : List Ctr) (ds : List (Dix × Desc)), (c, op, rs, ds) ∈ ([(.ntCfg b imm, .cfg imm, [], []), (.ntLdp b d1, .ldp x1, [], [(d1, x1)]), (.ntFwd b fd d2 d1, .fwd fd x2 x1, [], [(d1, x1), (d2, x2)]), (.ntInv b fd d2 d1, .inv fd x2 x1, [], [(d1, x1), (d2, x2)]), (.ntTv b ac ident slot cn, .tv ac (if ident = true then none else some ((s.bay b).tbl.act, slot)) (s.strm b .x).ctr[cn] (inRefresh b s), [cn], []), (.ntStep b ac fd cn d1, .step ac fd (s.strm b .x).ctr[cn] x1, [cn], [(d1, x1)]), (.ntAcc b ac fd d2, .acc ac fd x2, [], [(d2, x2)]), (.ntOut b ac fd d1, .out ac fd x1, [], [(d1, x1)])] : List (Instr × NtOp × List Ctr × List (Dix × Desc))) ∧ mayIssue b .x c s = true ∧ (s.strm b .x).free rs = true ∧ descBad b (ds.map (fun p => p.1)) s = none ∧ (∀ p ∈ ds, unitDesc b p.1 s = some p.2) ∧ (s.bay b).nt.queue.length < 4) ∧
    (∃ (b : Bay) (imm : W32) (fd : LFlag) (ac ident : Bool) (slot : Fin 16) (cn : Ctr) (d1 d2 : Dix) (x1 x2 : Desc) (s : State) (c : Instr) (op : NtOp) (rs : List Ctr) (ds : List (Dix × Desc)), (c, op, rs, ds) ∈ ([(.ntCfg b imm, .cfg imm, [], []), (.ntLdp b d1, .ldp x1, [], [(d1, x1)]), (.ntFwd b fd d2 d1, .fwd fd x2 x1, [], [(d1, x1), (d2, x2)]), (.ntInv b fd d2 d1, .inv fd x2 x1, [], [(d1, x1), (d2, x2)]), (.ntTv b ac ident slot cn, .tv ac (if ident = true then none else some ((s.bay b).tbl.act, slot)) (s.strm b .x).ctr[cn] (inRefresh b s), [cn], []), (.ntStep b ac fd cn d1, .step ac fd (s.strm b .x).ctr[cn] x1, [cn], [(d1, x1)]), (.ntAcc b ac fd d2, .acc ac fd x2, [], [(d2, x2)]), (.ntOut b ac fd d1, .out ac fd x1, [], [(d1, x1)])] : List (Instr × NtOp × List Ctr × List (Dix × Desc))) ∧ mayIssue b .x c s = true ∧ (s.strm b .x).free rs = true ∧ descBad b (ds.map (fun p => p.1)) s = none ∧ (∀ p ∈ ds, unitDesc b p.1 s = some p.2) ∧ (s.bay b).nt.queue.length < 4) ∧
    (∃ (b : Bay) (imm : W32) (fd : LFlag) (ac ident : Bool) (slot : Fin 16) (cn : Ctr) (d1 d2 : Dix) (x1 x2 : Desc) (s : State) (c : Instr) (op : NtOp) (rs : List Ctr) (ds : List (Dix × Desc)), (c, op, rs, ds) ∈ ([(.ntCfg b imm, .cfg imm, [], []), (.ntLdp b d1, .ldp x1, [], [(d1, x1)]), (.ntFwd b fd d2 d1, .fwd fd x2 x1, [], [(d1, x1), (d2, x2)]), (.ntInv b fd d2 d1, .inv fd x2 x1, [], [(d1, x1), (d2, x2)]), (.ntTv b ac ident slot cn, .tv ac (if ident = true then none else some ((s.bay b).tbl.act, slot)) (s.strm b .x).ctr[cn] (inRefresh b s), [cn], []), (.ntStep b ac fd cn d1, .step ac fd (s.strm b .x).ctr[cn] x1, [cn], [(d1, x1)]), (.ntAcc b ac fd d2, .acc ac fd x2, [], [(d2, x2)]), (.ntOut b ac fd d1, .out ac fd x1, [], [(d1, x1)])] : List (Instr × NtOp × List Ctr × List (Dix × Desc))) ∧ mayIssue b .x c s = true ∧ (s.strm b .x).free rs = true ∧ descBad b (ds.map (fun p => p.1)) s = none ∧ (∀ p ∈ ds, unitDesc b p.1 s = some p.2) ∧ (s.bay b).nt.queue.length < 4) :=
  ⟨⟨0, 0x0001100A#32, 1, true, false, 15, 2, 5, 5, d0, d0, descS, .ntCfg 0 0x0001100A#32, .cfg 0x0001100A#32, [], [], by decide +kernel⟩,
   ⟨0, 0x0001100A#32, 1, true, false, 15, 2, 5, 5, d0, d0, descS, .ntLdp 0 5, .ldp d0, [], [(5, d0)], by decide +kernel⟩,
   ⟨0, 0x0001100A#32, 1, true, false, 15, 2, 5, 5, d0, d0, descS, .ntFwd 0 1 5 5, .fwd 1 d0 d0, [], [(5, d0), (5, d0)], by decide +kernel⟩,
   ⟨0, 0x0001100A#32, 1, true, false, 15, 2, 5, 5, d0, d0, descS, .ntInv 0 1 5 5, .inv 1 d0 d0, [], [(5, d0), (5, d0)], by decide +kernel⟩,
   ⟨0, 0x0001100A#32, 1, true, false, 15, 2, 5, 5, d0, d0, descS, .ntTv 0 true false 15 2, .tv true (some (false, 15)) 0#32 false, [2], [], by decide +kernel⟩,
   ⟨0, 0x0001100A#32, 1, true, false, 15, 2, 5, 5, d0, d0, descS, .ntStep 0 true 1 2 5, .step true 1 0#32 d0, [2], [(5, d0)], by decide +kernel⟩,
   ⟨0, 0x0001100A#32, 1, true, false, 15, 2, 5, 5, d0, d0, descS, .ntAcc 0 true 1 5, .acc true 1 d0, [], [(5, d0)], by decide +kernel⟩,
   ⟨0, 0x0001100A#32, 1, true, false, 15, 2, 5, 5, d0, d0, descS, .ntOut 0 true 1 5, .out true 1 d0, [], [(5, d0)], by decide +kernel⟩⟩

/-- The hypotheses of `Obligations.RingEvents` can be met, clause by clause. -/
theorem witness_RingEvents :
    (∃ (b : Bay) (e : NtEnt) (r : List NtEnt) (s : State), dieRuns s = true ∧ memFree s = true ∧ soundUnits b s = true ∧ (s.bay b).nt.queue = e :: r ∧ ntCan b s = true ∧ ((e.quench && e.op.cipher) = true ∨ (e.op.reads (s.bay b).nt).any (byteBad s) = false) ∧ (match e.op with | .step .. => (s.bay b).nt.prime.mlen.toNat ≤ (s.bay b).nt.dd * (s.bay b).nt.glog | _ => True)) ∧
    (∃ (b : Bay) (e : NtEnt) (r : List NtEnt) (s : State), dieRuns s = true ∧ memFree s = true ∧ soundUnits b s = true ∧ (s.bay b).nt.queue = e :: r ∧ ntCan b s = true ∧ ((e.quench && e.op.cipher) = true ∨ (e.op.reads (s.bay b).nt).any (byteBad s) = false) ∧ (match e.op with | .step .. => (s.bay b).nt.prime.mlen.toNat ≤ (s.bay b).nt.dd * (s.bay b).nt.glog | _ => True)) ∧
    (∃ (b : Bay) (e : NtEnt) (r : List NtEnt) (ac : Bool) (fd : LFlag) (v : W32) (d : Desc) (s : State), dieRuns s = true ∧ memFree s = true ∧ (s.bay b).nt.queue = e :: r ∧ ntCan b s = true ∧ e.op = .step ac fd v d ∧ (s.bay b).nt.dd * (s.bay b).nt.glog < (s.bay b).nt.prime.mlen.toNat) ∧
    (∃ (b : Bay) (e : NtEnt) (s : State), dieRuns s = true ∧ memFree s = true ∧ (s.bay b).nt.run = some e ∧ e.quench = false ∧ (e.op.reads (s.bay b).nt).any (byteBad s) = false) ∧
    (∃ (b : Bay) (e : NtEnt) (s : State), dieRuns s = true ∧ memFree s = true ∧ (s.bay b).nt.run = some e ∧ e.quench = false ∧ (e.op.reads (s.bay b).nt).any (byteBad s) = false) ∧
    (∃ (b : Bay) (e : NtEnt) (s : State), dieRuns s = true ∧ memFree s = true ∧ (s.bay b).nt.run = some e ∧ e.quench = false ∧ (e.op.reads (s.bay b).nt).any (byteBad s) = false) ∧
    (∃ (b : Bay) (e : NtEnt) (s : State), dieRuns s = true ∧ memFree s = true ∧ (s.bay b).nt.run = some e ∧ e.quench = false ∧ (e.op.reads (s.bay b).nt).any (byteBad s) = false) ∧
    (∃ (b : Bay) (e : NtEnt) (s : State), dieRuns s = true ∧ memFree s = true ∧ (s.bay b).nt.run = some e ∧ e.quench = false ∧ (e.op.reads (s.bay b).nt).any (byteBad s) = false) ∧
    (∃ (b : Bay) (e : NtEnt) (s : State), dieRuns s = true ∧ memFree s = true ∧ (s.bay b).nt.run = some e ∧ e.quench = false ∧ (e.op.reads (s.bay b).nt).any (byteBad s) = false) ∧
    (∃ (b : Bay) (e : NtEnt) (s : State), dieRuns s = true ∧ memFree s = true ∧ (s.bay b).nt.run = some e ∧ e.quench = false ∧ (e.op.reads (s.bay b).nt).any (byteBad s) = false) ∧
    (∃ (b : Bay) (e : NtEnt) (s : State), dieRuns s = true ∧ memFree s = true ∧ (s.bay b).nt.run = some e ∧ e.quench = false ∧ (e.op.reads (s.bay b).nt).any (byteBad s) = false) ∧
    (∃ (b : Bay) (e : NtEnt) (fd : LFlag) (src dst : Desc) (s : State), dieRuns s = true ∧ memFree s = true ∧ (s.bay b).nt.run = some e ∧ e.quench = true ∧ (e.op = .fwd fd src dst ∨ e.op = .inv fd src dst)) :=
  ⟨⟨0, { nEnt (.fwd 1 d0 d0) with quench := false }, [], ntS { Nt.reset with queue := [{ nEnt (.fwd 1 d0 d0) with quench := false }] }, (by decide +kernel), (by decide +kernel), (by decide +kernel), (by decide +kernel), (by decide +kernel), (by decide +kernel), trivial⟩,
   ⟨0, { nEnt (.step true 1 0#32 d0) with quench := false }, [], ntS { Nt.reset with queue := [{ nEnt (.step true 1 0#32 d0) with quench := false }], cfg := 0x0041F00A#32, prime := { PrimeRec.reset with mlen := 1#5 } }, (by decide +kernel), (by decide +kernel), (by decide +kernel), (by decide +kernel), (by decide +kernel), (by decide +kernel), (show _ ≤ _ by decide +kernel)⟩,
   ⟨0, { nEnt (.step true 1 0#32 d0) with quench := false }, [], true, 1, 0#32, d0, ntS { Nt.reset with queue := [{ nEnt (.step true 1 0#32 d0) with quench := false }] }, by decide +kernel⟩,
   ⟨0, { nEnt (.cfg 0x0001100A#32) with quench := false }, ntS { Nt.reset with run := some ({ nEnt (.cfg 0x0001100A#32) with quench := false }) }, by decide +kernel⟩,
   ⟨0, { nEnt (.ldp d0) with quench := false }, ntS { Nt.reset with run := some ({ nEnt (.ldp d0) with quench := false }) }, by decide +kernel⟩,
   ⟨0, { nEnt (.fwd 1 d0 d0) with quench := false }, ntS { Nt.reset with run := some ({ nEnt (.fwd 1 d0 d0) with quench := false }) }, by decide +kernel⟩,
   ⟨0, { nEnt (.inv 1 d0 d0) with quench := false }, ntS { Nt.reset with run := some ({ nEnt (.inv 1 d0 d0) with quench := false }) }, by decide +kernel⟩,
   ⟨0, { nEnt (.step true 1 0#32 d0) with quench := false }, ntS { Nt.reset with run := some ({ nEnt (.step true 1 0#32 d0) with quench := false }) }, by decide +kernel⟩,
   ⟨0, { nEnt (.acc true 1 d0) with quench := false }, ntS { Nt.reset with run := some ({ nEnt (.acc true 1 d0) with quench := false }) }, by decide +kernel⟩,
   ⟨0, { nEnt (.out true 1 d0) with quench := false }, ntS { Nt.reset with run := some ({ nEnt (.out true 1 d0) with quench := false }) }, by decide +kernel⟩,
   ⟨0, { nEnt (.tv true none 0#32 false) with quench := false }, ntS { Nt.reset with run := some ({ nEnt (.tv true none 0#32 false) with quench := false }) }, by decide +kernel⟩,
   ⟨0, { nEnt (.inv 1 d0 d0) with quench := true }, 1, d0, d0, ntS { Nt.reset with run := some ({ nEnt (.inv 1 d0 d0) with quench := true }) }, by decide +kernel⟩⟩

/-- The hypotheses of `Obligations.TransformOrder` can be met, clause by clause. -/
theorem witness_TransformOrder :
    (∃ (q psi : Nat) (l : List Nat) (m : Nat), 1 < q ∧ m < l.length) ∧
    (∃ (q psi : Nat) (l : List Nat) (k : Nat), 1 < q ∧ q < 2 ^ 64 ∧ k < l.length ∧ l.length < 2 ^ 32) ∧
    (∃ (glog dd : Nat) (v : Int), 0 < glog ∧ 0 < dd) :=
  ⟨⟨17, 3, [1, 2], 1, by decide +kernel⟩,
   ⟨17, 3, [1, 2], 1, by decide +kernel⟩,
   ⟨4, 2, -8, by decide +kernel⟩⟩

/-- The hypotheses of `Obligations.TableActive` can be met, clause by clause. -/
theorem witness_TableActive :
    (∃ (b : Bay) (slot : Fin 16) (fd : LFlag) (dx : Dix) (d : Desc) (s : State), mayIssue b .x (.tblLd b (s.bay b).tbl.act slot fd dx) s = true ∧ descBad b [dx] s = none ∧ unitDesc b dx s = some d ∧ (s.bay b).tbl.loads.length < 4) ∧
    (∃ (b : Bay) (slot : Fin 16) (fd : LFlag) (dx : Dix) (d : Desc) (s : State), mayIssue b .x (.tblLd b (!(s.bay b).tbl.act) slot fd dx) s = true ∧ descBad b [dx] s = none ∧ unitDesc b dx s = some d ∧ (s.bay b).tbl.loads.length < 4) :=
  ⟨⟨0, 15, 63, 5, d0, bayS { bayD with tbl := { Tbl.reset with act := true, pend := true } }, by decide +kernel⟩,
   ⟨0, 15, 63, 5, d0, bayS { bayD with tbl := { Tbl.reset with act := true, pend := true } }, by decide +kernel⟩⟩

/-- The hypotheses of `Obligations.TableBanks` can be met, clause by clause. -/
theorem witness_TableBanks :
    (∃ (b : Bay) (e : TblLoad) (r : List TblLoad) (s : State), dieRuns s = true ∧ memFree s = true ∧ (s.bay b).tbl.loads = e :: r ∧ (e.d.addrs 0 2048).any (byteBad s) = false ∧ Sparse.wf tblDefault (s.bay b).tbl.ent = true) ∧
    (∃ (b : Bay) (s : State), mayIssue b .x (.tblSwap b) s = true) ∧
    (∃ (b : Bay) (cn : Ctr) (s : State), mayIssue b .x (.tblStat b cn) s = true ∧ (s.strm b .x).free [cn] = true) ∧
    (∃ (b : Bay) (s : State), dieRuns s = true ∧ (s.bay b).tbl.pend = true ∧ (s.bay b).tbl.loads = [] ∧ lookupOpen b s = false) :=
  ⟨⟨0, ⟨true, 15, 63, d0, 0, 0#15⟩, [], tblS { Tbl.reset with loads := [⟨true, 15, 63, d0, 0, 0#15⟩] }, by decide +kernel⟩,
   ⟨0, t0, by decide +kernel⟩,
   ⟨0, 15, t0, by decide +kernel⟩,
   ⟨0, tblS { Tbl.reset with pend := true }, by decide +kernel⟩⟩

/-- The hypotheses of `Obligations.VectorIssue` can be met, clause by clause. -/
theorem witness_VectorIssue :
    ∃ (b : Bay) (vd va vc : VReg) (o : VBOp) (pd ps pg : PReg) (r : Rel) (fr : FRel) (v : Fin 64) (s : State) (c : Instr) (op : VecOp), (let y := match o with | .reg w => VB.reg w | .ctr k => VB.val ((s.strm b .x).ctr[k]); (c, op) ∈ ([(.veAdd b vd va o pg, .alu .add vd va y pg), (.veSub b vd va o pg, .alu .sub vd va y pg), (.veMull b vd va o pg, .alu .mull vd va y pg), (.veMulh b vd va o pg, .alu .mulh vd va y pg), (.veMulhu b vd va o pg, .alu .mulhu vd va y pg), (.veAnd b vd va o pg, .alu .and vd va y pg), (.veOr b vd va o pg, .alu .or vd va y pg), (.veXor b vd va o pg, .alu .xor vd va y pg), (.veShl b vd va o pg, .alu .shl vd va y pg), (.veShr b vd va o pg, .alu .shr vd va y pg), (.veSra b vd va o pg, .alu .sra vd va y pg), (.veMin b vd va o pg, .alu .min vd va y pg), (.veMax b vd va o pg, .alu .max vd va y pg), (.veMinu b vd va o pg, .alu .minu vd va y pg), (.veMaxu b vd va o pg, .alu .maxu vd va y pg), (.veSel b vd va o ps pg, .sel vd va y ps pg), (.veCmp b pd r va o pg, .cmp pd r va y pg), (.veFcmp b pd fr va o pg, .fcmp pd fr va y pg), (.veFadd b vd va o pg, .falu .fadd vd va y pg), (.veFsub b vd va o pg, .falu .fsub vd va y pg), (.veFmul b vd va o pg, .falu .fmul vd va y pg), (.veFma b vd va o vc pg, .fma vd va y vc pg), (.veFmin b vd va o pg, .falu .fmin vd va y pg), (.veFmax b vd va o pg, .falu .fmax vd va y pg), (.veMadd b vd va o v pg, .modb .madd vd va y v pg), (.veMsub b vd va o v pg, .modb .msub vd va y v pg), (.veMmul b vd va o v pg, .modb .mmul vd va y v pg), (.veMmac b vd va o v pg, .modb .mmac vd va y v pg)] : List (Instr × VecOp))) ∧ mayIssue b .x c s = true ∧ (s.strm b .x).free (vbRegs o) = true ∧ (s.bay b).vec.queue.length < 16 :=
  ⟨0, 31, 1, 2, .ctr 15, 7, 6, 5, .geu, .un, 63, t0, .veAdd 0 31 1 (.ctr 15) 5, .alu .add 31 1 (.val 0#32) 5, by decide +kernel⟩

/-- The hypotheses of `Obligations.VectorIssueOther` can be met, clause by clause. -/
theorem witness_VectorIssueOther :
    (∃ (b : Bay) (vd va vb : VReg) (pd pa pb pg : PReg) (v w : Fin 64) (cn cm : Ctr) (f : SfFunc) (m : Fin 32) (fmt : VFmt) (q : Fin 8) (logn : Nat) (toInt init : Bool) (fd : LFlag) (dx d1 d2 : Dix) (x x1 x2 : Desc) (e m1 : Fin 64) (s : State) (c : Instr) (op : VecOp) (rs : List Ctr) (ds : List (Dix × Desc)), (let y := (s.strm b .x).ctr[cn]; (c, op, rs, ds) ∈ ([(.veIota b vd cn pg, .iota vd y pg, [cn], []), (.vePand b pd pa pb pg, .plog .and pd pa pb pg, [], []), (.vePor b pd pa pb pg, .plog .or pd pa pb pg, [], []), (.vePxor b pd pa pb pg, .plog .xor pd pa pb pg, [], []), (.vePnot b pd pa pg, .pnot pd pa pg, [], []), (.veCvt b vd va toInt pg, .cvt vd va toInt pg, [], []), (.veMneg b vd va v pg, .mneg vd va v pg, [], []), (.veMred b vd va v pg, .mred vd va v pg, [], []), (.veMlift b vd va v w pg, .mlift vd va v w pg, [], []), (.veKmac b cn init dx none, .kmac (y.toNat % 512) init x none, [cn], [(dx, x)]), (.veKmac b cn init dx (some ⟨fd, d1, d2⟩), .kmac (y.toNat % 512) init x (some ⟨fd, x1, x2⟩), [cn], [(dx, x), (d1, x1), (d2, x2)]), (.veLrot b vd va cn pg, .lrot vd va y pg, [cn], []), (.vePerm b vd va vb pg, .perm vd va vb pg, [], []), (.veSf b vd va f m cn pg, .sf f vd va (m.val + 1) (if f.usesCc = true then y else 0#32) pg, if f.usesCc = true then [cn] else [], []), (.veLd b vd fmt dx pg, .ld vd fmt x pg, [], [(dx, x)]), (.veSt b va fmt dx pg, .st va fmt x pg, [], [(dx, x)]), (.veLdq b vd q m pg, .ldq vd q (m.val + 1) pg, [], []), (.veGsign b pd cn cm logn pg, .gsign pd y ((s.strm b .x).ctr[cm]) logn pg, [cn, cm], []), (.veLdp b e m1 dx, .ldp e.val (m1.val + 1) x, [], [(dx, x)])] : List (Instr × VecOp × List Ctr × List (Dix × Desc)))) ∧ mayIssue b .x c s = true ∧ (s.strm b .x).free rs = true ∧ descBad b (ds.map (fun p => p.1)) s = none ∧ (∀ p ∈ ds, unitDesc b p.1 s = some p.2) ∧ (s.bay b).vec.queue.length < 16) ∧
    (∃ (b : Bay) (cn : Ctr) (kind : SumKind) (fn : LFlag) (pg : PReg) (s : State) (c : Instr) (op : VecOp), (c, op) ∈ ([(.veSum b cn kind fn pg, .sum cn kind fn pg), (.veStat b cn, .stat cn)] : List (Instr × VecOp)) ∧ mayIssue b .x c s = true ∧ (s.strm b .x).free [cn] = true ∧ (s.bay b).vec.queue.length < 16) ∧
    (∃ (b : Bay) (cn : Ctr) (kind : SumKind) (fn : LFlag) (pg : PReg) (s : State) (c : Instr) (op : VecOp), (c, op) ∈ ([(.veSum b cn kind fn pg, .sum cn kind fn pg), (.veStat b cn, .stat cn)] : List (Instr × VecOp)) ∧ mayIssue b .x c s = true ∧ (s.strm b .x).free [cn] = true ∧ (s.bay b).vec.queue.length < 16) :=
  ⟨⟨0, 31, 1, 2, 7, 6, 5, 4, 63, 62, 15, 14, .rowmax, 7, .bf16, 5, 17, true, true, 1, 5, 5, 5, d0, d0, d0, 0, 63, descS, .veKmac 0 15 true 5 (some ⟨1, 5, 5⟩), .kmac 0 true d0 (some ⟨1, d0, d0⟩), [15], [(5, d0), (5, d0), (5, d0)], by decide +kernel⟩,
   ⟨0, 15, .ovf, 63, 7, t0, .veSum 0 15 .ovf 63 7, .sum 15 .ovf 63 7, by decide +kernel⟩,
   ⟨0, 15, .ovf, 63, 7, t0, .veStat 0 15, .stat 15, by decide +kernel⟩⟩

/-- The hypotheses of `Obligations.VectorInteger` can be met, clause by clause. -/
theorem witness_VectorInteger :
    (∃ (b : Bay) (e : VecEnt) (r : List VecEnt) (op : VAlu) (vd va : VReg) (y : VB) (pg : PReg) (s : State), dieRuns s = true ∧ memFree s = true ∧ soundUnits b s = true ∧ (s.bay b).vec.queue = e :: r ∧ vecCan b s = true ∧ e.quench = false ∧ e.op = .alu op vd va y pg ∧ op ∈ [VAlu.add, .sub, .mull, .mulh, .mulhu]) ∧
    (∃ (b : Bay) (e : VecEnt) (r : List VecEnt) (op : VAlu) (vd va : VReg) (y : VB) (pg : PReg) (s : State), dieRuns s = true ∧ memFree s = true ∧ soundUnits b s = true ∧ (s.bay b).vec.queue = e :: r ∧ vecCan b s = true ∧ e.quench = false ∧ e.op = .alu op vd va y pg ∧ op ∈ [VAlu.add, .sub, .mull, .mulh, .mulhu]) :=
  ⟨⟨0, vEnt (.alu .mulhu 31 1 (.val 0xFFFFFFFF#32) 0), [], .mulhu, 31, 1, .val 0xFFFFFFFF#32, 0, vecS { Vec.reset with queue := [vEnt (.alu .mulhu 31 1 (.val 0xFFFFFFFF#32) 0)] }, by decide +kernel⟩,
   ⟨0, vEnt (.alu .add 1 1 (.reg 1) 7), [], .add, 1, 1, .reg 1, 7, vecS { Vec.reset with queue := [vEnt (.alu .add 1 1 (.reg 1) 7)] }, by decide +kernel⟩⟩

/-- The hypotheses of `Obligations.VectorEffects` can be met, clause by clause. -/
theorem witness_VectorEffects :
    ∃ (b : Bay) (e : VecEnt) (r : List VecEnt) (sf : SfFunc) (vd va : VReg) (m : Nat) (c : W32) (pg : PReg) (s : State), dieRuns s = true ∧ memFree s = true ∧ soundUnits b s = true ∧ (s.bay b).vec.queue = e :: r ∧ vecCan b s = true ∧ e.op = .sf sf vd va m c pg ∧ sf.isRow = true :=
  ⟨0, vEnt (.sf .rowmax 31 0 1 0#32 0), [], .rowmax, 31, 0, 1, 0#32, 0, vecS { Vec.reset with queue := [vEnt (.sf .rowmax 31 0 1 0#32 0)] }, by decide +kernel⟩

/-- The same for the first two clauses of `Obligations.VectorEffects`: a lane operation, one with a prime, a permutation and an
element function; a comparison, a predicate operation and a sign predicate. -/
theorem witness_VectorEffects_lanes :
    ∀ op ∈ [VecOp.alu .sra 31 1 (.reg 31) 7, .sel 31 1 (.val 5#32) 7 0, .iota 31 0xFFFFFFFF#32 0, .falu .fmul 31 1 (.reg 1) 7,
      .fma 31 1 (.val 0#32) 31 7, .cvt 31 1 true 7, .modb .mmac 31 31 (.reg 31) 63 7, .mlift 31 1 63 0 7, .perm 31 1 1 7,
      .sf .exp 31 1 0 0#32 0, .cmp 7 .geu 1 (.reg 31) 0, .fcmp 7 .un 1 (.val 0#32) 6, .plog .xor 7 7 1 7, .pnot 7 1 0,
      .gsign 7 5#32 0#32 10 0, .gsign 7 5#32 0#32 17 7],
      ∃ s : State, dieRuns s = true ∧ memFree s = true ∧ soundUnits 0 s = true ∧ (s.bay 0).vec.queue = [vEnt op] ∧
        vecCan 0 s = true := by
  intro op h
  refine ⟨vecS { Vec.reset with queue := [vEnt op] }, ?_⟩
  fin_cases h <;> decide +kernel

/-- The hypotheses of `Obligations.VectorLandings` can be met, clause by clause. -/
theorem witness_VectorLandings :
    (∃ (b : Bay) (e : VecEnt) (r : List VecEnt) (vd va : VReg) (f : VFmt) (d : Desc) (q : Fin 8) (m n : Nat) (pg : PReg) (init : Bool) (wb : Option KWb) (kb ka : KeyRow) (rows : List KeyRow) (cn : Ctr) (kind : SumKind) (fn : LFlag) (l : List (List Byte)) (s : State), dieRuns s = true ∧ memFree s = true ∧ soundUnits b s = true ∧ (s.bay b).vec.queue = e :: r ∧ vecCan b s = true) ∧
    (∃ (b : Bay) (e : VecEnt) (r : List VecEnt) (vd va : VReg) (f : VFmt) (d : Desc) (q : Fin 8) (m n : Nat) (pg : PReg) (init : Bool) (wb : Option KWb) (kb ka : KeyRow) (rows : List KeyRow) (cn : Ctr) (kind : SumKind) (fn : LFlag) (l : List (List Byte)) (s : State), dieRuns s = true ∧ memFree s = true ∧ soundUnits b s = true ∧ (s.bay b).vec.queue = e :: r ∧ vecCan b s = true) ∧
    (∃ (b : Bay) (e : VecEnt) (r : List VecEnt) (vd va : VReg) (f : VFmt) (d : Desc) (q : Fin 8) (m n : Nat) (pg : PReg) (init : Bool) (wb : Option KWb) (kb ka : KeyRow) (rows : List KeyRow) (cn : Ctr) (kind : SumKind) (fn : LFlag) (l : List (List Byte)) (s : State), dieRuns s = true ∧ memFree s = true ∧ soundUnits b s = true ∧ (s.bay b).vec.queue = e :: r ∧ vecCan b s = true) ∧
    (∃ (b : Bay) (e : VecEnt) (r : List VecEnt) (vd va : VReg) (f : VFmt) (d : Desc) (q : Fin 8) (m n : Nat) (pg : PReg) (init : Bool) (wb : Option KWb) (kb ka : KeyRow) (rows : List KeyRow) (cn : Ctr) (kind : SumKind) (fn : LFlag) (l : List (List Byte)) (s : State), dieRuns s = true ∧ memFree s = true ∧ soundUnits b s = true ∧ (s.bay b).vec.queue = e :: r ∧ vecCan b s = true) ∧
    (∃ (b : Bay) (e : VecEnt) (r : List VecEnt) (vd va : VReg) (f : VFmt) (d : Desc) (q : Fin 8) (m n : Nat) (pg : PReg) (init : Bool) (wb : Option KWb) (kb ka : KeyRow) (rows : List KeyRow) (cn : Ctr) (kind : SumKind) (fn : LFlag) (l : List (List Byte)) (s : State), dieRuns s = true ∧ memFree s = true ∧ soundUnits b s = true ∧ (s.bay b).vec.queue = e :: r ∧ vecCan b s = true) ∧
    (∃ (b : Bay) (e : VecEnt) (r : List VecEnt) (vd va : VReg) (f : VFmt) (d : Desc) (q : Fin 8) (m n : Nat) (pg : PReg) (init : Bool) (wb : Option KWb) (kb ka : KeyRow) (rows : List KeyRow) (cn : Ctr) (kind : SumKind) (fn : LFlag) (l : List (List Byte)) (s : State), dieRuns s = true ∧ memFree s = true ∧ soundUnits b s = true ∧ (s.bay b).vec.queue = e :: r ∧ vecCan b s = true) ∧
    (∃ (b : Bay) (e : VecEnt) (r : List VecEnt) (vd va : VReg) (f : VFmt) (d : Desc) (q : Fin 8) (m n : Nat) (pg : PReg) (init : Bool) (wb : Option KWb) (kb ka : KeyRow) (rows : List KeyRow) (cn : Ctr) (kind : SumKind) (fn : LFlag) (l : List (List Byte)) (s : State), dieRuns s = true ∧ memFree s = true ∧ soundUnits b s = true ∧ (s.bay b).vec.queue = e :: r ∧ vecCan b s = true) ∧
    (∃ (b : Bay) (k : KmacPend) (r : List KmacPend) (s : State), dieRuns s = true ∧ memFree s = true ∧ (s.bay b).vec.kmacs = k :: r) ∧
    (∃ (b : Bay) (k : SumPend) (r : List SumPend) (s : State), dieRuns s = true ∧ (s.bay b).vec.sums = k :: r) :=
  ⟨⟨0, vEnt (.ld 31 .bf16 d0 7), [], 31, 31, .bf16, d0, 5, 1, 0, 7, true, none, ⟨0, []⟩, ⟨0, []⟩, [], 0, .ovf, 63, [], vecS { Vec.reset with queue := [vEnt (.ld 31 .bf16 d0 7)] }, by decide +kernel⟩,
   ⟨0, vEnt (.st 31 .int16 d0 0), [], 31, 31, .bf16, d0, 5, 1, 0, 7, true, none, ⟨0, []⟩, ⟨0, []⟩, [], 0, .ovf, 63, [], vecS { Vec.reset with queue := [vEnt (.st 31 .int16 d0 0)] }, by decide +kernel⟩,
   ⟨0, vEnt (.ldq 31 5 1 0), [], 31, 31, .bf16, d0, 5, 1, 0, 7, true, none, ⟨0, []⟩, ⟨0, []⟩, [], 0, .ovf, 63, [], bayS { bay0 with dq := bay0.dq.set 5 [⟨3, some (List.replicate 64 1#8)⟩], vec := { Vec.reset with queue := [vEnt (.ldq 31 5 1 0)] } }, by decide +kernel⟩,
   ⟨0, vEnt (.kmac 0 true d0 none), [], 31, 31, .bf16, d0, 5, 1, 0, 7, true, none, ⟨0, []⟩, ⟨0, []⟩, [], 0, .ovf, 63, [], vecS { Vec.reset with queue := [vEnt (.kmac 0 true d0 none)], rowsIn := [⟨0, List.replicate 256 1#32⟩, ⟨0, List.replicate 256 2#32⟩] }, by decide +kernel⟩,
   ⟨0, vEnt (.sum 0 .ovf 63 7), [], 31, 31, .bf16, d0, 5, 1, 0, 7, true, none, ⟨0, []⟩, ⟨0, []⟩, [], 0, .ovf, 63, [], vecS { Vec.reset with queue := [vEnt (.sum 0 .ovf 63 7)] }, by decide +kernel⟩,
   ⟨0, vEnt (.stat 0), [], 31, 31, .bf16, d0, 5, 1, 0, 7, true, none, ⟨0, []⟩, ⟨0, []⟩, [], 0, .ovf, 63, [], vecS { Vec.reset with queue := [vEnt (.stat 0)] }, by decide +kernel⟩,
   ⟨0, vEnt (.ldp 0 1 d0), [], 31, 31, .bf16, d0, 5, 1, 0, 7, true, none, ⟨0, []⟩, ⟨0, []⟩, [], 0, .ovf, 63, [], { vecS { Vec.reset with queue := [vEnt (.ldp 0 1 d0)] } with mem := [(0x200000000000, 0xFF#8), (0x200000000001, 0xFF#8), (0x200000000002, 0xFF#8), (0x200000000003, 0x7F#8), (0x200000000004, 0x1F#8), (0x20000000000B, 0x08#8), (0x20000000000F, 0x04#8)] }, by decide +kernel⟩,
   ⟨0, ⟨⟨1, d0, d0⟩, List.replicate 512 1#32, List.replicate 512 2#32⟩, [], vecS { Vec.reset with kmacs := [⟨⟨1, d0, d0⟩, List.replicate 512 1#32, List.replicate 512 2#32⟩] }, by decide +kernel⟩,
   ⟨0, ⟨15, 63, 0#32⟩, [], vecS { Vec.reset with sums := [⟨15, 63, 0#32⟩] }, by decide +kernel⟩⟩

/-- The hypotheses of `Obligations.TransferIssue` can be met, clause by clause. -/
theorem witness_TransferIssue :
    (∃ (b : Bay) (fd : Option LFlag) (acc : Bool) (di d1 d2 : Dix) (s : State) (c : Instr) (ds : List Dix) (op : Option XOp), (c, ds, op) ∈ ([(.xfMov b (.desc d1) fd d2, [d2, d1], movOp b d2 d1 s), (.xfGath b di fd d2 d1, [di, d2, d1], gathOp b di d2 d1 s), (.xfScat b acc di fd d2 d1, [di, d2, d1], scatOp b acc di d2 d1 s), (.xfRing b fd d1, [d1], (descOf b d1 [3] s).map (fun d => XOp.ring d1 d))] : List (Instr × List Dix × Option XOp)) ∧ mayIssue b .a c s = true ∧ (s.bay b).xf.queue.length < 16 ∧ descBad b ds s = none ∧ op.isSome = true ∧ (s.bay b).xf.queue.length < 16) ∧
    (∃ (b : Bay) (fd : Option LFlag) (acc : Bool) (di d1 d2 : Dix) (s : State) (c : Instr) (ds : List Dix) (op : Option XOp), (c, ds, op) ∈ ([(.xfMov b (.desc d1) fd d2, [d2, d1], movOp b d2 d1 s), (.xfGath b di fd d2 d1, [di, d2, d1], gathOp b di d2 d1 s), (.xfScat b acc di fd d2 d1, [di, d2, d1], scatOp b acc di d2 d1 s), (.xfRing b fd d1, [d1], (descOf b d1 [3] s).map (fun d => XOp.ring d1 d))] : List (Instr × List Dix × Option XOp)) ∧ mayIssue b .a c s = true ∧ (s.bay b).xf.queue.length < 16 ∧ descBad b ds s = none ∧ op = none) ∧
    (∃ (b : Bay) (fd : Option LFlag) (q : Fin 8) (d2 : Dix) (d : Desc) (s : State), mayIssue b .a (.xfMov b (.queue q) fd d2) s = true ∧ descBad b [d2] s = none ∧ descOf b d2 [1, 2, 4] s = some d ∧ (s.bay b).xf.queue.length < 16 ∧ (s.bay b).dq[q].length + dqEntries d ≤ 32) ∧
    (∃ (b : Bay) (cn : Ctr) (s : State), mayIssue b .a (.xfStat b cn) s = true ∧ (s.strm b .a).free [cn] = true) :=
  ⟨⟨0, some 63, true, 5, 5, 5, descS, .xfMov 0 (.desc 5) (some 63) 5, [5, 5], movOp 0 5 5 descS, List.mem_cons_self, (by decide +kernel), (by decide +kernel), (by decide +kernel), (by decide +kernel), by decide +kernel⟩,
   ⟨0, none, true, 5, 5, 5, descS, .xfScat 0 true 5 none 5 5, [5, 5, 5], scatOp 0 true 5 5 5 descS, (by simp), (by decide +kernel), (by decide +kernel), (by decide +kernel), by decide +kernel⟩,
   ⟨0, none, 5, 5, d0, bayS { bayD with dq := bay0.dq.set 5 (List.replicate 31 ⟨0, none⟩) }, by decide +kernel⟩,
   ⟨0, 15, t0, by decide +kernel⟩⟩

/-- The hypotheses of `Obligations.Descriptors` can be met, clause by clause. -/
theorem witness_Descriptors :
    (∃ (b : Bay) (ca : Ctr) (d1 : Dix) (d : Desc) (s : State), mayIssue b .a (.xfDnew b ca d1) s = true ∧ (s.strm b .a).free [ca] = true ∧ ((s.strm b .a).ctr[ca]).toNat + 15 ≤ 16383 ∧ dmemBad b ((s.strm b .a).ctr[ca]).toNat s = none ∧ Sparse.wf (fun _ => none) (s.bay b).desc = true ∧ (RawDesc.ofNat (dmemDesc (s.strm b .a) ((s.strm b .a).ctr[ca]).toNat)).check (regionsOf b s) = some d) ∧
    (∃ (b : Bay) (cb : Ctr) (d1 : Dix) (s : State) (c : Instr) (st : Strm), (c, st) ∈ ([(.xfDarm b cb d1, .a), (.tsDarm b cb d1, .x)] : List (Instr × Strm)) ∧ mayIssue b st c s = true ∧ (s.strm b st).free [cb] = true ∧ descBad b [d1] s = none ∧ Sparse.wf (fun _ => none) (s.bay b).desc = true ∧ ((descAt b d1 s).bind (fun x => x.rearm (regionsOf b s) ((s.strm b st).ctr[cb]))).isSome = true) ∧
    (∃ (b : Bay) (cb : Ctr) (d1 : Dix) (s : State) (c : Instr) (st : Strm), (c, st) ∈ ([(.xfDarm b cb d1, .a), (.tsDarm b cb d1, .x)] : List (Instr × Strm)) ∧ mayIssue b st c s = true ∧ (s.strm b st).free [cb] = true ∧ descBad b [d1] s = none ∧ Sparse.wf (fun _ => none) (s.bay b).desc = true ∧ ((descAt b d1 s).bind (fun x => x.rearm (regionsOf b s) ((s.strm b st).ctr[cb]))) = none) ∧
    (∃ (b : Bay) (d1 : Dix) (s : State), mayIssue b .a (.xfDdel b d1) s = true ∧ (descAt b d1 s).isSome = true ∧ Sparse.wf (fun _ => none) (s.bay b).desc = true) ∧
    (∃ (b : Bay) (d1 : Dix) (s : State), mayIssue b .a (.xfDdel b d1) s = true ∧ descAt b d1 s = none) :=
  ⟨⟨0, 0, 2047, d0, aS { runS with dmem := [(0, 0xFF000101#32), (1, 0xFF#32), (3, 0x2000#32), (6, 64#32), (7, 1#32), (8, 1#32), (9, 1#32), (10, 1#32), (11, 0x400000#32), (13, 64#32), (14, 0x400000#32)] }, by decide +kernel⟩,
   ⟨0, 0, 5, descS, .xfDarm 0 0 5, .a, by decide +kernel⟩,
   ⟨0, 0, 2047, descS, .tsDarm 0 0 2047, .x, by decide +kernel⟩,
   ⟨0, 5, descS, by decide +kernel⟩,
   ⟨0, 5, t0, by decide +kernel⟩⟩

/-- The hypotheses of `Obligations.TransferEvents` can be met, clause by clause. -/
theorem witness_TransferEvents :
    (∃ (b : Bay) (e : XEntry) (r : List XEntry) (s : State), (s.bay b).xf.queue = e :: r ∧ xferCan b s = true ∧ (∀ ix d, e.op ≠ .ring ix d)) ∧
    (∃ (b : Bay) (slot : Fin 4) (e : XEntry) (s : State), dieRuns s = true ∧ memFree s = true ∧ (s.bay b).xf.active[slot.val]? = some e ∧ e.run = none ∧ (runXfer b s e.op).bad = none) ∧
    (∃ (b : Bay) (r : RingRun) (s : State), dieRuns s = true ∧ memFree s = true ∧ (s.bay b).xf.ring = some r ∧ (s.bay b).xf.halt = false ∧ burstCan r = true ∧ 0 < r.d.size[1] ∧ (∀ k : Nat, k < 2 → rangeBad s (r.d.base + 32 * ((r.d.pos + r.fetched + k) % r.d.size[0])) 32 = false)) ∧
    (∃ (b : Bay) (r : RingRun) (l : List Byte) (ls : List (List Byte)) (s : State), dieRuns s = true ∧ (s.bay b).xf.ring = some r ∧ r.buf = l :: ls ∧ (s.bay b).xf.halt = false ∧ descBad b (ringDescs l) s = none ∧ (∃ op fd, ringAct b l s = .start op fd ∧ xfFits (s.bay b).xf op = true)) ∧
    (∃ (b : Bay) (r : RingRun) (l : List Byte) (ls : List (List Byte)) (s : State), dieRuns s = true ∧ (s.bay b).xf.ring = some r ∧ r.buf = l :: ls ∧ (s.bay b).xf.halt = false ∧ descBad b (ringDescs l) s = none ∧ ringAct b l s = .bad) :=
  ⟨⟨0, xEnt (.mov d0 d0), [], xfS { Xfer.reset with queue := [xEnt (.mov d0 d0)] }, (by decide +kernel), (by decide +kernel), by intro ix d h; cases h⟩,
   ⟨0, 0, xEnt (.mov d0 d0), xfS { Xfer.reset with active := [xEnt (.mov d0 d0)] }, by decide +kernel⟩,
   ⟨0, ⟨1, 9, r0, [], 0, 0⟩, xfS { Xfer.reset with ring := some ⟨1, 9, r0, [], 0, 0⟩ }, by decide +kernel⟩,
   ⟨0, ⟨1, 9, r0, [padTo 32 [1#8, 1#8, 0#8, 0#8, 0#8, 0#8, 5#8, 0#8, 5#8]], 1, 0⟩, padTo 32 [1#8, 1#8, 0#8, 0#8, 0#8, 0#8, 5#8, 0#8, 5#8], [], bayS { bayD with xf := { Xfer.reset with ring := some ⟨1, 9, r0, [padTo 32 [1#8, 1#8, 0#8, 0#8, 0#8, 0#8, 5#8, 0#8, 5#8]], 1, 0⟩ } }, (by decide +kernel), (by decide +kernel), (by decide +kernel), (by decide +kernel), (by decide +kernel), ⟨_, _, rfl, by decide +kernel⟩⟩,
   ⟨0, ⟨1, 9, r0, [padTo 32 [0xFF#8]], 1, 0⟩, padTo 32 [0xFF#8], [], bayS { bayD with xf := { Xfer.reset with ring := some ⟨1, 9, r0, [padTo 32 [0xFF#8]], 1, 0⟩ } }, (by decide +kernel), (by decide +kernel), (by decide +kernel), (by decide +kernel), (by decide +kernel), rfl⟩⟩

/-- The hypotheses of `Obligations.WaitsEnd` can be met, clause by clause. -/
theorem witness_WaitsEnd :
    (∃ (b : Bay) (st : Strm) (w : Wait) (s : State), dieRuns s = true ∧ (s.strm b st).status = .wait ∧ (s.strm b st).wait = some w ∧ w.cause ≠ .beat ∧ w.cause ≠ .park ∧ w.limit ≤ w.timer ∧ expiredUnits b st s = [] ∧ (s.bay b).npc ≠ 4096 ∧ (s.strm b st).timedOut = false) ∧
    (∃ (b : Bay) (s : State), dieRuns s = true ∧ (s.bay b).npc = 4096 ∧ (dlkHits b .a s = true ∨ dlkHits b .x s = true)) ∧
    (∃ (b : Bay) (s : State), dieRuns s = true ∧ (s.bay b).parkPend = true ∧ (s.bay b).a.parkedNow = true ∧ (s.bay b).x.parkedNow = true ∧ unitsStill (s.bay b) = true) ∧
    (∃ (mask : BayMask) (l : Launch) (b : Bay) (st : Strm) (s : State), dieRuns s = true ∧ s.ldr.launches.find? (fun l => l.bays == mask && released l s) = some l ∧ mask.getLsbD b = true ∧ (s.strm b st).waitsOn (.programRelease mask) = true) :=
  ⟨⟨0, .x, ⟨.flagL, 16384, 16384, .tsWait 0 .x 0 true false, 0#32⟩, waitS ⟨.flagL, 16384, 16384, .tsWait 0 .x 0 true false, 0#32⟩, by decide +kernel⟩,
   ⟨0, bayS { bay0 with npc := 4096, a := Stream.reset }, by decide +kernel⟩,
   ⟨0, bayS { bay0 with parkPend := true, a := Stream.reset, x := { runS with status := .parked } }, by decide +kernel⟩,
   ⟨1#12, ⟨1#12, 0#48⟩, 0, .x, { waitS ⟨.beat, 0, 0, .programRelease 1#12, 0#32⟩ with ldr := { Loader.reset with launches := [⟨1#12, 0#48⟩] } }, by decide +kernel⟩⟩

/-- The hypotheses of `Obligations.MemoryRequests` can be met, clause by clause. -/
theorem witness_MemoryRequests :
    (∃ (ms : Stk) (req : Nat) (src : Bay) (addr len : Nat) (data : Option (List Byte)) (s : State), clocked s = true ∧ 1 ≤ req ∧ req ≤ 8 ∧ 1 ≤ len ∧ (∀ d, data = some d → d.length = len) ∧ addr + len ≤ stackEnd ∧ bandOk req addr len = true ∧ (∀ q ∈ splitReq req src addr len data, (placeOf s q.addr).1 = ms.val)) ∧
    (∃ (ms : Stk) (req : Nat) (src : Bay) (addr len : Nat) (data : Option (List Byte)) (s : State), clocked s = true ∧ 1 ≤ req ∧ req ≤ 8 ∧ 1 ≤ len ∧ (∀ d, data = some d → d.length = len) ∧ addr + len ≤ stackEnd ∧ bandOk req addr len = true ∧ (∀ q ∈ splitReq req src addr len data, (placeOf s q.addr).1 = ms.val)) ∧
    (∃ (ms : Stk) (req : Nat) (src : Bay) (addr len : Nat) (data : Option (List Byte)) (s : State), clocked s = true ∧ 1 ≤ req ∧ req ≤ 8 ∧ 1 ≤ len ∧ (∀ d, data = some d → d.length = len) ∧ addr % 64 + len ≤ 64 ∧ addr + len ≤ stackEnd ∧ bandOk req addr len = true ∧ (placeOf s addr).1 = ms.val ∧ (∀ p ∈ (s.stack ms).reqs, p.fresh = false) ∧ (s.stack ms).blocked = []) ∧
    (∃ (ms : Stk) (req : Nat) (src : Bay) (addr len : Nat) (data : Option (List Byte)) (l : List MemReq) (p : MemReq) (s : State), clocked s = true ∧ 1 ≤ req ∧ req ≤ 8 ∧ 1 ≤ len ∧ (∀ d, data = some d → d.length = len) ∧ addr % 64 + len ≤ 64 ∧ addr + len ≤ stackEnd ∧ bandOk req addr len = true ∧ (placeOf s addr).1 = ms.val ∧ (s.stack ms).reqs = l ++ [p] ∧ (∀ e ∈ l, e.fresh = false) ∧ p.age = 0 ∧ p.served = false ∧ (s.stack ms).blocked = []) ∧
    (∃ (ms : Stk) (req : Nat) (src : Bay) (addr len : Nat) (data : Option (List Byte)) (s : State), stackEnd < addr + len) ∧
    (∃ (ms : Stk) (pc : Fin 32) (q : MemReq) (s : State), clocked s = true ∧ nextServed s (s.stack ms) pc = some q) ∧
    (∃ (ms : Stk) (pc : Fin 32) (q : MemReq) (s : State), clocked s = true ∧ nextServed s (s.stack ms) pc = some q) ∧
    (∃ (ms : Stk) (req : Nat) (src : Bay) (q : MemReq) (s : State), clocked s = true ∧ (s.stack ms).reqs.find? (fun q => q.req == req && q.src == src && q.data.isNone) = some q ∧ q.served = true ∧ q.got.isSome = true) ∧
    (∃ (ms : Stk) (req : Nat) (src : Bay) (q : MemReq) (s : State), clocked s = true ∧ (s.stack ms).reqs.find? (fun q => q.req == req && q.src == src && q.data.isNone) = some q ∧ q.served = true ∧ q.got = none) :=
  ⟨⟨0, 1, 0, 0, 1, none, t0, (by decide +kernel), (by decide +kernel), (by decide +kernel), (by decide +kernel), (by intro d h; cases h), (by decide +kernel), (by decide +kernel), by decide +kernel⟩,
   ⟨0, 8, 0, 0, 128, some (List.replicate 128 1#8), t0, (by decide +kernel), (by decide +kernel), (by decide +kernel), (by decide +kernel), (by intro d h; cases h; rfl), (by decide +kernel), (by decide +kernel), by decide +kernel⟩,
   ⟨0, 1, 0, 0, 64, none, t0, (by decide +kernel), (by decide +kernel), (by decide +kernel), (by decide +kernel), (by intro d h; cases h), (by decide +kernel), (by decide +kernel), (by decide +kernel), (by decide +kernel), (by decide +kernel), by decide +kernel⟩,
   ⟨0, 1, 0, 0, 64, none, [], ⟨1, 1, 0, 32, none, false, none, 0⟩, { t0 with stk := t0.stk.set 0 { Stack.reset with reqs := [⟨1, 1, 0, 32, none, false, none, 0⟩] } }, (by decide +kernel), (by decide +kernel), (by decide +kernel), (by decide +kernel), (by intro d h; cases h), (by decide +kernel), (by decide +kernel), (by decide +kernel), (by decide +kernel), (by decide +kernel), (by intro e h; cases h), (by decide +kernel), (by decide +kernel), by decide +kernel⟩,
   ⟨0, 1, 0, stackEnd, 1, none, t0, by decide +kernel⟩,
   ⟨3, 0, ⟨1, 0, 0, 32, none, false, none, 0⟩, stackS { Stack.reset with reqs := [⟨1, 0, 0, 32, none, false, none, 0⟩] }, by decide +kernel⟩,
   ⟨3, 0, ⟨1, 0, 0, 32, some (List.replicate 32 5#8), false, none, 0⟩, stackS { Stack.reset with reqs := [⟨1, 0, 0, 32, some (List.replicate 32 5#8), false, none, 0⟩] }, by decide +kernel⟩,
   ⟨3, 1, 0, ⟨1, 0, 0, 32, none, true, some (List.replicate 32 0#8), 0⟩, stackS { Stack.reset with reqs := [⟨1, 0, 0, 32, none, true, some (List.replicate 32 0#8), 0⟩] }, by decide +kernel⟩,
   ⟨3, 1, 0, ⟨1, 0, 0, 32, none, true, none, 0⟩, stackS { Stack.reset with reqs := [⟨1, 0, 0, 32, none, true, none, 0⟩] }, by decide +kernel⟩⟩

/-- The hypotheses of `Obligations.StackUpkeep` can be met, clause by clause. -/
theorem witness_StackUpkeep :
    (∃ (ms : Stk) (s : State), clocked s = true ∧ (s.stack ms).refreshedAt ≠ some s.beat.pos) ∧
    (∃ (ms : Stk) (s : State) (c : Instr) (k : Stack) (code : Nat), clocked s = true ∧ ((c = .hotRefreshEnter ms ∧ atEdge s = true ∧ (s.stack ms).hotDue = true :: k.hotDue ∧ s.beat.pos % 4 = 0 ∧ k = { s.stack ms with hot := true, hotDue := k.hotDue } ∧ code = 3) ∨ (c = .hotRefreshLeave ms ∧ atEdge s = true ∧ (s.stack ms).hotDue = false :: k.hotDue ∧ s.beat.pos % 4 = 0 ∧ k = { s.stack ms with hot := false, hotDue := k.hotDue } ∧ code = 3) ∨ (c = .actLimitSet ms ∧ 105 * 16 ≤ (s.stack ms).temp ∧ (s.stack ms).actLimit = false ∧ k = { s.stack ms with actLimit := true } ∧ code = 4) ∨ (c = .actLimitLift ms ∧ (s.stack ms).temp < 103 * 16 ∧ (s.stack ms).actLimit = true ∧ k = { s.stack ms with actLimit := false } ∧ code = 4))) ∧
    (∃ (ms : Stk) (s : State) (c : Instr) (k : Stack) (code : Nat), clocked s = true ∧ ((c = .hotRefreshEnter ms ∧ atEdge s = true ∧ (s.stack ms).hotDue = true :: k.hotDue ∧ s.beat.pos % 4 = 0 ∧ k = { s.stack ms with hot := true, hotDue := k.hotDue } ∧ code = 3) ∨ (c = .hotRefreshLeave ms ∧ atEdge s = true ∧ (s.stack ms).hotDue = false :: k.hotDue ∧ s.beat.pos % 4 = 0 ∧ k = { s.stack ms with hot := false, hotDue := k.hotDue } ∧ code = 3) ∨ (c = .actLimitSet ms ∧ 105 * 16 ≤ (s.stack ms).temp ∧ (s.stack ms).actLimit = false ∧ k = { s.stack ms with actLimit := true } ∧ code = 4) ∨ (c = .actLimitLift ms ∧ (s.stack ms).temp < 103 * 16 ∧ (s.stack ms).actLimit = true ∧ k = { s.stack ms with actLimit := false } ∧ code = 4))) ∧
    (∃ (ms : Stk) (s : State) (c : Instr) (k : Stack) (code : Nat), clocked s = true ∧ ((c = .hotRefreshEnter ms ∧ atEdge s = true ∧ (s.stack ms).hotDue = true :: k.hotDue ∧ s.beat.pos % 4 = 0 ∧ k = { s.stack ms with hot := true, hotDue := k.hotDue } ∧ code = 3) ∨ (c = .hotRefreshLeave ms ∧ atEdge s = true ∧ (s.stack ms).hotDue = false :: k.hotDue ∧ s.beat.pos % 4 = 0 ∧ k = { s.stack ms with hot := false, hotDue := k.hotDue } ∧ code = 3) ∨ (c = .actLimitSet ms ∧ 105 * 16 ≤ (s.stack ms).temp ∧ (s.stack ms).actLimit = false ∧ k = { s.stack ms with actLimit := true } ∧ code = 4) ∨ (c = .actLimitLift ms ∧ (s.stack ms).temp < 103 * 16 ∧ (s.stack ms).actLimit = true ∧ k = { s.stack ms with actLimit := false } ∧ code = 4))) ∧
    (∃ (ms : Stk) (s : State) (c : Instr) (k : Stack) (code : Nat), clocked s = true ∧ ((c = .hotRefreshEnter ms ∧ atEdge s = true ∧ (s.stack ms).hotDue = true :: k.hotDue ∧ s.beat.pos % 4 = 0 ∧ k = { s.stack ms with hot := true, hotDue := k.hotDue } ∧ code = 3) ∨ (c = .hotRefreshLeave ms ∧ atEdge s = true ∧ (s.stack ms).hotDue = false :: k.hotDue ∧ s.beat.pos % 4 = 0 ∧ k = { s.stack ms with hot := false, hotDue := k.hotDue } ∧ code = 3) ∨ (c = .actLimitSet ms ∧ 105 * 16 ≤ (s.stack ms).temp ∧ (s.stack ms).actLimit = false ∧ k = { s.stack ms with actLimit := true } ∧ code = 4) ∨ (c = .actLimitLift ms ∧ (s.stack ms).temp < 103 * 16 ∧ (s.stack ms).actLimit = true ∧ k = { s.stack ms with actLimit := false } ∧ code = 4))) ∧
    (∃ (ms : Stk) (s : State) (c : Instr) (cap : Nat), atEdge s = true ∧ ((c = .stackCapLower ms ∧ (s.stack ms).capDue = cap ∧ cap < (s.stack ms).cap) ∨ (c = .stackCapRaise ms ∧ (s.stack ms).capDue = cap ∧ (s.stack ms).cap < cap))) ∧
    (∃ (ms : Stk) (s : State) (c : Instr) (cap : Nat), atEdge s = true ∧ ((c = .stackCapLower ms ∧ (s.stack ms).capDue = cap ∧ cap < (s.stack ms).cap) ∨ (c = .stackCapRaise ms ∧ (s.stack ms).capDue = cap ∧ (s.stack ms).cap < cap))) ∧
    (∃ (ms : Stk) (smp : Sample) (s : State), clocked s = true ∧ (s.stack ms).capDue = (s.stack ms).cap) ∧
    (∃ (ms : Stk) (s : State), clocked s = true ∧ 64 ≤ (s.stack ms).hotBt ∧ s.faults.gong = 0#8) ∧
    (∃ (ms : Stk) (pc : Fin 32) (s : State), clocked s = true ∧ s.codes.patrolOn = true ∧ (s.stack ms).scrubbedAt pc s.beat.pos = false ∧ (inChan s (s.stack ms) pc).any (fun q => !q.served) = false ∧ (∀ a ∈ patrolRow s ms pc (Sparse.get (fun _ => 0) (s.stack ms).patrol pc), byteBad s a = false) ∧ Sparse.wf (fun _ => 0) (s.stack ms).patrol = true ∧ Sparse.wf (fun _ => 0) (s.stack ms).scrubAt = true) ∧
    (∃ (ms : Stk) (pc : Fin 32) (errs : List SectorErr) (s : State), clocked s = true ∧ s.codes.patrolOn = true ∧ (s.stack ms).scrubbedAt pc s.beat.pos = false ∧ (inChan s (s.stack ms) pc).any (fun q => !q.served) = true) ∧
    (∃ (ms : Stk) (pc : Fin 32) (errs : List SectorErr) (s : State), clocked s = true ∧ s.codes.patrolOn = true ∧ (s.stack ms).scrubbedAt pc s.beat.pos = false ∧ (inChan s (s.stack ms) pc).any (fun q => !q.served) = true) ∧
    (∃ (ms : Stk) (dies : Vector Int 16) (s : State), clocked s = true ∧ (s.stack ms).readAt ≠ some s.beat.pos) ∧
    (∃ s : State, clocked s = true ∧ s.ms.zeroing ≠ []) ∧
    (∃ s : State, clocked s = true ∧ s.ms.stackInit = true) :=
  ⟨⟨3, t0, by decide +kernel⟩,
   ⟨3, { stackS { Stack.reset with hotDue := [true] } with beat := { Beat.reset with edgeNow := true, pos := 4 } }, .hotRefreshEnter 3, { Stack.reset with hot := true }, 3, (by decide +kernel), .inl (by decide +kernel)⟩,
   ⟨3, { stackS { Stack.reset with hot := true, hotDue := [false, true] } with beat := { Beat.reset with edgeNow := true, pos := 4 } }, .hotRefreshLeave 3, { Stack.reset with hotDue := [true] }, 3, (by decide +kernel), .inr (.inl (by decide +kernel))⟩,
   ⟨3, stackS { Stack.reset with temp := 1680 }, .actLimitSet 3, { Stack.reset with temp := 1680, actLimit := true }, 4, by decide +kernel⟩,
   ⟨3, stackS { Stack.reset with temp := 1647, actLimit := true }, .actLimitLift 3, { Stack.reset with temp := 1647 }, 4, by decide +kernel⟩,
   ⟨3, { stackS { Stack.reset with cap := 1, capDue := 0 } with beat := { Beat.reset with edgeNow := true } }, .stackCapLower 3, 0, by decide +kernel⟩,
   ⟨3, { stackS { Stack.reset with cap := 14, capDue := 15 } with beat := { Beat.reset with edgeNow := true } }, .stackCapRaise 3, 15, by decide +kernel⟩,
   ⟨3, ⟨Vector.replicate 12 (Vector.replicate 4 0), Vector.replicate 2 0, Vector.replicate 12 0, 0, 0, 0, 0#6, 0, 0⟩, t0, by decide +kernel⟩,
   ⟨3, stackS { Stack.reset with hotBt := 64 }, by decide +kernel⟩,
   ⟨3, 31, t0, by decide +kernel⟩,
   ⟨3, 0, [], stackS { Stack.reset with reqs := [⟨1, 0, 0, 32, none, false, none, 0⟩] }, by decide +kernel⟩,
   ⟨3, 0, [], stackS { Stack.reset with reqs := [⟨1, 0, 0, 32, none, false, none, 0⟩] }, by decide +kernel⟩,
   ⟨3, Vector.replicate 16 5, t0, by decide +kernel⟩,
   ⟨{ t0 with ms := { t0.ms with zeroing := [126] } }, by decide +kernel⟩,
   ⟨t0, by decide +kernel⟩⟩

/-- The hypotheses of `Obligations.OnDieCodes` can be met, clause by clause. -/
theorem witness_OnDieCodes :
    (∃ (b : Bay) (r : Repair) (l : List Repair) (s : State), dieRuns s = true ∧ (s.bay b).prot.repairs = r :: l ∧ (s.bay b).prot.repairing = none) ∧
    (∃ (b : Bay) (r : Repair) (rd : PageRead) (s : State), dieRuns s = true ∧ (s.bay b).prot.repairing = some r ∧ r.page < 14336 ∧ rd.wrong = [] ∧ pageLoad b r.page (failing (s.bay b).prot r rd) rd s ≤ s.codes.pageP r.page) ∧
    (∃ (b : Bay) (r : Repair) (rd : PageRead) (s : State), dieRuns s = true ∧ (s.bay b).prot.repairing = some r ∧ r.page < 14336 ∧ rd.wrong = [] ∧ ¬ pageLoad b r.page (failing (s.bay b).prot r rd) rd s ≤ s.codes.pageP r.page) ∧
    (∃ (b : Bay) (id : Byte) (e : Nat × Nat) (s : State), clocked s = true ∧ (s.bay b).prot.wbs.find? (fun e => e.1 == id.toNat) = some e) ∧
    (∃ (b : Bay) (id : Byte) (o : Nat) (s : State), clocked s = true ∧ 0x10 ≤ id.toNat ∧ (id.toNat ≤ 0x12 ∨ 0x20 ≤ id.toNat ∧ id.toNat ≤ 0x24)) ∧
    (∃ (b : Bay) (id : Byte) (o : Nat) (s : State), clocked s = true ∧ 0x10 ≤ id.toNat ∧ (id.toNat ≤ 0x12 ∨ 0x20 ≤ id.toNat ∧ id.toNat ≤ 0x24)) ∧
    (∃ (b : Bay) (s : State), dieRuns s = true ∧ s.codes.scrubOn = true ∧ (s.bay b).prot.scrubPos < 14336 ∧ (s.bay b).prot.repairs? (s.bay b).prot.scrubPos = false ∧ (∀ e ∈ (s.bay b).prot.silent, e.1 / 512 ≠ (s.bay b).prot.scrubPos)) ∧
    (∃ (b : Bay) (rd : PageRead) (s : State), dieRuns s = true ∧ s.codes.scrubOn = true ∧ (s.bay b).prot.scrubPos < 14336 ∧ (s.bay b).prot.repairs? (s.bay b).prot.scrubPos = false ∧ rd.wrong = [] ∧ rd.fixed = [] ∧ failing (s.bay b).prot ⟨(s.bay b).prot.scrubPos, [], true, true⟩ rd ≠ [] ∧ (∀ r ∈ (s.bay b).prot.repairs, r.page ≠ (s.bay b).prot.scrubPos)) ∧
    (∃ s : State, dieRuns s = true ∧ s.codes.reenc ≠ none) ∧
    (∃ s : State, clocked s = true ∧ s.ms.spadInit = true) :=
  ⟨⟨0, ⟨0, [1], false, false⟩, [], protS { Prot.reset with repairs := [⟨0, [1], false, false⟩] }, by decide +kernel⟩,
   ⟨0, ⟨14335, [1], true, false⟩, ⟨[], [], [], 0, 0⟩, protS { Prot.reset with repairing := some ⟨14335, [1], true, false⟩ }, by decide +kernel⟩,
   ⟨0, ⟨0, [1], false, false⟩, ⟨[], [3, 4, 5, 6, 7, 8, 9, 10, 11, 12, 13, 14, 15, 16, 17, 18, 19, 20, 21, 22, 23, 24, 25, 26, 27, 28, 29, 30, 31, 32, 33, 34, 35], [], 0, 0⟩, protS { Prot.reset with repairing := some ⟨0, [1], false, false⟩ }, by decide +kernel⟩,
   ⟨0, 1#8, (1, 8), protS { Prot.reset with wbs := [(1, 8)] }, by decide +kernel⟩,
   ⟨0, 0x12#8, 0, t0, by decide +kernel⟩,
   ⟨0, 0x24#8, 0x3FFFFF, t0, by decide +kernel⟩,
   ⟨0, protS { Prot.reset with scrubPos := 14335 }, by decide +kernel⟩,
   ⟨0, ⟨[], [3, 4, 5, 6, 7, 8, 9, 10, 11, 12, 13, 14, 15, 16, 17, 18, 19, 20, 21, 22, 23, 24, 25, 26, 27, 28, 29, 30, 31, 32, 33, 34, 35], [], 0, 0⟩, protS { Prot.reset with scrubPos := 14335 }, by decide +kernel⟩,
   ⟨{ t0 with codes := { Codes.reset with reenc := some true } }, by decide +kernel⟩,
   ⟨t0, by decide +kernel⟩⟩

/-- The hypotheses of `Obligations.DvfsSteps` can be met, clause by clause. -/
theorem witness_DvfsSteps :
    (∃ (b : Bay) (code : Nat) (s : State), atEdge s = true ∧ s.pwr.raise[b] = some (0, code)) ∧
    (∃ (b : Bay) (s : State), atEdge s = true ∧ s.pwr.settle[b] = 1) ∧
    (∃ (b : Bay) (cap : Nat) (s : State) (c : Instr), atEdge s = true ∧ ((c = .thermalCapLower b ∧ s.pwr.heats b = true ∧ 4 ≤ s.pwr.lowerSince[b] ∧ s.pwr.thermcap[b] = cap + 1) ∨ (c = .thermalCapRaise b ∧ s.pwr.cools b = true ∧ 64 ≤ s.pwr.raiseSince[b] ∧ s.pwr.thermcap[b] < 15 ∧ cap = s.pwr.thermcap[b] + 1))) ∧
    (∃ (b : Bay) (cap : Nat) (s : State) (c : Instr), atEdge s = true ∧ ((c = .thermalCapLower b ∧ s.pwr.heats b = true ∧ 4 ≤ s.pwr.lowerSince[b] ∧ s.pwr.thermcap[b] = cap + 1) ∨ (c = .thermalCapRaise b ∧ s.pwr.cools b = true ∧ 64 ≤ s.pwr.raiseSince[b] ∧ s.pwr.thermcap[b] < 15 ∧ cap = s.pwr.thermcap[b] + 1))) ∧
    (∃ s : State, atEdge s = true ∧ s.pwr.quiet = 64) ∧
    (∃ s : State, atEdge s = true ∧ 1024 ≤ s.pwr.hist ∧ s.pwr.limitFull = false) :=
  ⟨⟨11, 5, { t0 with beat := { Beat.reset with edgeNow := true }, pwr := { Power.reset with raise := Power.reset.raise.set 11 (some (0, 5)), step := Vector.replicate 12 0, opcap := Vector.replicate 12 15, thermcap := Vector.replicate 12 15, pwrcap := Vector.replicate 12 15 } }, by decide +kernel⟩,
   ⟨11, { t0 with beat := { Beat.reset with edgeNow := true }, pwr := { Power.reset with settle := Power.reset.settle.set 11 1, step := Vector.replicate 12 0 } }, by decide +kernel⟩,
   ⟨11, 14, { t0 with beat := { Beat.reset with edgeNow := true }, pwr := { Power.reset with thermcap := Vector.replicate 12 15, lowerSince := Vector.replicate 12 4, bayTemp := Vector.replicate 12 2000 } }, .thermalCapLower 11, by decide +kernel⟩,
   ⟨11, 15, { t0 with beat := { Beat.reset with edgeNow := true }, pwr := { Power.reset with thermcap := Vector.replicate 12 14, raiseSince := Vector.replicate 12 64, bayTemp := Vector.replicate 12 0 } }, .thermalCapRaise 11, by decide +kernel⟩,
   ⟨{ t0 with beat := { Beat.reset with edgeNow := true }, pwr := { Power.reset with quiet := 64 } }, by decide +kernel⟩,
   ⟨{ t0 with beat := { Beat.reset with edgeNow := true }, pwr := { Power.reset with hist := 1024 } }, by decide +kernel⟩⟩

/-- The hypotheses of `Obligations.ThermalGong` can be met, clause by clause. -/
theorem witness_ThermalGong :
    (∃ (b b1 b2 : Bay) (ps : Fin 6) (s : State) (c : Instr) (code : Byte), ((c = .neighbourThermFault b1 b2 ∧ code = 0x61#8 ∧ atEdge s = true ∧ 64 ≤ Sparse.get (fun _ => 0) s.pwr.pairOut (12 * min b1.val b2.val + max b1.val b2.val)) ∨ (c = .bayThermFault b ∧ code = 0x61#8 ∧ atEdge s = true ∧ 64 ≤ s.pwr.bayHot[b]) ∨ (c = .uncoreThermFault ∧ code = 0x61#8 ∧ atEdge s = true ∧ 64 ≤ s.pwr.uncoreHot) ∨ (c = .overvoltageFault ∧ code = 0x62#8 ∧ clocked s = true ∧ 16 ≤ s.pwr.over60) ∨ (c = .powerCeilingFault ∧ code = 0x62#8 ∧ atEdge s = true ∧ 64 ≤ s.pwr.overCeil) ∨ (c = .psDieFault ps ∧ code = 0x62#8 ∧ clocked s = true ∧ (s.pwr.psFault.getLsbD ps = false ∧ s.pwr.faulty = 2 ∨ 3 ≤ s.pwr.faulty))) ∧ s.faults.gong = 0#8) ∧
    (∃ (b b1 b2 : Bay) (ps : Fin 6) (s : State) (c : Instr) (code : Byte), ((c = .neighbourThermFault b1 b2 ∧ code = 0x61#8 ∧ atEdge s = true ∧ 64 ≤ Sparse.get (fun _ => 0) s.pwr.pairOut (12 * min b1.val b2.val + max b1.val b2.val)) ∨ (c = .bayThermFault b ∧ code = 0x61#8 ∧ atEdge s = true ∧ 64 ≤ s.pwr.bayHot[b]) ∨ (c = .uncoreThermFault ∧ code = 0x61#8 ∧ atEdge s = true ∧ 64 ≤ s.pwr.uncoreHot) ∨ (c = .overvoltageFault ∧ code = 0x62#8 ∧ clocked s = true ∧ 16 ≤ s.pwr.over60) ∨ (c = .powerCeilingFault ∧ code = 0x62#8 ∧ atEdge s = true ∧ 64 ≤ s.pwr.overCeil) ∨ (c = .psDieFault ps ∧ code = 0x62#8 ∧ clocked s = true ∧ (s.pwr.psFault.getLsbD ps = false ∧ s.pwr.faulty = 2 ∨ 3 ≤ s.pwr.faulty))) ∧ s.faults.gong = 0#8) ∧
    (∃ (b b1 b2 : Bay) (ps : Fin 6) (s : State) (c : Instr) (code : Byte), ((c = .neighbourThermFault b1 b2 ∧ code = 0x61#8 ∧ atEdge s = true ∧ 64 ≤ Sparse.get (fun _ => 0) s.pwr.pairOut (12 * min b1.val b2.val + max b1.val b2.val)) ∨ (c = .bayThermFault b ∧ code = 0x61#8 ∧ atEdge s = true ∧ 64 ≤ s.pwr.bayHot[b]) ∨ (c = .uncoreThermFault ∧ code = 0x61#8 ∧ atEdge s = true ∧ 64 ≤ s.pwr.uncoreHot) ∨ (c = .overvoltageFault ∧ code = 0x62#8 ∧ clocked s = true ∧ 16 ≤ s.pwr.over60) ∨ (c = .powerCeilingFault ∧ code = 0x62#8 ∧ atEdge s = true ∧ 64 ≤ s.pwr.overCeil) ∨ (c = .psDieFault ps ∧ code = 0x62#8 ∧ clocked s = true ∧ (s.pwr.psFault.getLsbD ps = false ∧ s.pwr.faulty = 2 ∨ 3 ≤ s.pwr.faulty))) ∧ s.faults.gong = 0#8) ∧
    (∃ (b b1 b2 : Bay) (ps : Fin 6) (s : State) (c : Instr) (code : Byte), ((c = .neighbourThermFault b1 b2 ∧ code = 0x61#8 ∧ atEdge s = true ∧ 64 ≤ Sparse.get (fun _ => 0) s.pwr.pairOut (12 * min b1.val b2.val + max b1.val b2.val)) ∨ (c = .bayThermFault b ∧ code = 0x61#8 ∧ atEdge s = true ∧ 64 ≤ s.pwr.bayHot[b]) ∨ (c = .uncoreThermFault ∧ code = 0x61#8 ∧ atEdge s = true ∧ 64 ≤ s.pwr.uncoreHot) ∨ (c = .overvoltageFault ∧ code = 0x62#8 ∧ clocked s = true ∧ 16 ≤ s.pwr.over60) ∨ (c = .powerCeilingFault ∧ code = 0x62#8 ∧ atEdge s = true ∧ 64 ≤ s.pwr.overCeil) ∨ (c = .psDieFault ps ∧ code = 0x62#8 ∧ clocked s = true ∧ (s.pwr.psFault.getLsbD ps = false ∧ s.pwr.faulty = 2 ∨ 3 ≤ s.pwr.faulty))) ∧ s.faults.gong = 0#8) ∧
    (∃ (b b1 b2 : Bay) (ps : Fin 6) (s : State) (c : Instr) (code : Byte), ((c = .neighbourThermFault b1 b2 ∧ code = 0x61#8 ∧ atEdge s = true ∧ 64 ≤ Sparse.get (fun _ => 0) s.pwr.pairOut (12 * min b1.val b2.val + max b1.val b2.val)) ∨ (c = .bayThermFault b ∧ code = 0x61#8 ∧ atEdge s = true ∧ 64 ≤ s.pwr.bayHot[b]) ∨ (c = .uncoreThermFault ∧ code = 0x61#8 ∧ atEdge s = true ∧ 64 ≤ s.pwr.uncoreHot) ∨ (c = .overvoltageFault ∧ code = 0x62#8 ∧ clocked s = true ∧ 16 ≤ s.pwr.over60) ∨ (c = .powerCeilingFault ∧ code = 0x62#8 ∧ atEdge s = true ∧ 64 ≤ s.pwr.overCeil) ∨ (c = .psDieFault ps ∧ code = 0x62#8 ∧ clocked s = true ∧ (s.pwr.psFault.getLsbD ps = false ∧ s.pwr.faulty = 2 ∨ 3 ≤ s.pwr.faulty))) ∧ s.faults.gong = 0#8) ∧
    (∃ (b b1 b2 : Bay) (ps : Fin 6) (s : State) (c : Instr) (code : Byte), ((c = .neighbourThermFault b1 b2 ∧ code = 0x61#8 ∧ atEdge s = true ∧ 64 ≤ Sparse.get (fun _ => 0) s.pwr.pairOut (12 * min b1.val b2.val + max b1.val b2.val)) ∨ (c = .bayThermFault b ∧ code = 0x61#8 ∧ atEdge s = true ∧ 64 ≤ s.pwr.bayHot[b]) ∨ (c = .uncoreThermFault ∧ code = 0x61#8 ∧ atEdge s = true ∧ 64 ≤ s.pwr.uncoreHot) ∨ (c = .overvoltageFault ∧ code = 0x62#8 ∧ clocked s = true ∧ 16 ≤ s.pwr.over60) ∨ (c = .powerCeilingFault ∧ code = 0x62#8 ∧ atEdge s = true ∧ 64 ≤ s.pwr.overCeil) ∨ (c = .psDieFault ps ∧ code = 0x62#8 ∧ clocked s = true ∧ (s.pwr.psFault.getLsbD ps = false ∧ s.pwr.faulty = 2 ∨ 3 ≤ s.pwr.faulty))) ∧ s.faults.gong = 0#8) ∧
    (∃ (ps : Fin 6) (s : State), clocked s = true ∧ s.pwr.psFault.getLsbD ps = false ∧ s.pwr.faulty < 2) :=
  ⟨⟨11, 1, 0, 5, { t0 with beat := { Beat.reset with edgeNow := true }, pwr := { Power.reset with pairOut := [(1, 64)] } }, .neighbourThermFault 1 0, 0x61#8, by decide +kernel⟩,
   ⟨11, 1, 0, 5, { t0 with beat := { Beat.reset with edgeNow := true }, pwr := { Power.reset with bayHot := Vector.replicate 12 64 } }, .bayThermFault 11, 0x61#8, by decide +kernel⟩,
   ⟨11, 1, 0, 5, { t0 with beat := { Beat.reset with edgeNow := true }, pwr := { Power.reset with uncoreHot := 64 } }, .uncoreThermFault, 0x61#8, by decide +kernel⟩,
   ⟨11, 1, 0, 5, { t0 with beat := { Beat.reset with edgeNow := true }, pwr := { Power.reset with over60 := 16 } }, .overvoltageFault, 0x62#8, by decide +kernel⟩,
   ⟨11, 1, 0, 5, { t0 with beat := { Beat.reset with edgeNow := true }, pwr := { Power.reset with overCeil := 64 } }, .powerCeilingFault, 0x62#8, by decide +kernel⟩,
   ⟨11, 1, 0, 5, { t0 with beat := { Beat.reset with edgeNow := true }, pwr := { Power.reset with psFault := 3#6 } }, .psDieFault 5, 0x62#8, by decide +kernel⟩,
   ⟨5, { t0 with beat := { Beat.reset with edgeNow := true }, pwr := { Power.reset with psFault := 1#6 } }, by decide +kernel⟩⟩

/-- The hypotheses of `Obligations.SupplyStates` can be met, clause by clause. -/
theorem witness_SupplyStates :
    (∃ (mv : Nat) (s : State), s.pwr.st = .off ∧ 40000 ≤ mv) ∧
    (∃ s : State, s.pwr.st = .ramp ∧ s.pwr.ramp < 4 ∧ (s.pwr.ramp = 2 → s.pwr.refclk = true)) ∧
    (∃ s : State, s.pwr.st = .ramp ∧ s.pwr.ramp < 4 ∧ (s.pwr.ramp = 2 → s.pwr.refclk = true)) ∧
    (∃ s : State, s.pwr.st = .ramp ∧ s.pwr.ramp = 4) ∧
    (∃ (mv : Nat) (s : State), s.pwr.st = .ramp ∧ mv < 40000) ∧
    (∃ (mv : Nat) (s : State), s.pwr.st = .run ∧ mv < 36000) ∧
    (∃ s : State, s.pwr.st = .fail ∧ s.pwr.regsOn = true) ∧
    (∃ s : State, s.pwr.st = .fail ∧ s.pwr.regsOn = false) ∧
    (∃ s : State, atEdge s = true ∧ 36000 ≤ s.pwr.inputMv ∧ s.pwr.inputMv < 40000 ∧ s.pwr.brownout = false) ∧
    (∃ s : State, atEdge s = true ∧ 36000 ≤ s.pwr.inputMv ∧ s.pwr.inputMv < 40000 ∧ s.pwr.brownout = false) ∧
    (∃ s : State, atEdge s = true ∧ 40000 ≤ s.pwr.inputMv ∧ s.pwr.brownout = true) :=
  ⟨⟨40000, pwrS { Power.reset with st := .off }, by decide +kernel⟩,
   ⟨pwrS { Power.reset with st := .ramp, ramp := 2, refclk := true }, by decide +kernel⟩,
   ⟨pwrS { Power.reset with st := .ramp, ramp := 3, refclk := false }, by decide +kernel⟩,
   ⟨pwrS { Power.reset with st := .ramp, ramp := 4 }, by decide +kernel⟩,
   ⟨39999, pwrS { Power.reset with st := .ramp }, by decide +kernel⟩,
   ⟨35999, t0, by decide +kernel⟩,
   ⟨pwrS { Power.reset with st := .fail, regsOn := true }, by decide +kernel⟩,
   ⟨pwrS { Power.reset with st := .fail, regsOn := false }, by decide +kernel⟩,
   ⟨{ t0 with beat := { Beat.reset with edgeNow := true }, pwr := { Power.reset with inputMv := 36000 } }, by decide +kernel⟩,
   ⟨{ t0 with beat := { Beat.reset with edgeNow := true }, pwr := { Power.reset with inputMv := 39999 } }, by decide +kernel⟩,
   ⟨{ t0 with beat := { Beat.reset with edgeNow := true }, pwr := { Power.reset with inputMv := 40000, brownout := true } }, by decide +kernel⟩⟩

/-- The hypotheses of `Obligations.MarkersAndEdges` can be met, clause by clause. -/
theorem witness_MarkersAndEdges :
    (∃ (bnum : BitVec 48) (crc : Byte) (s : State), s.pwr.st = .run ∧ s.link.lanes = 0xF#4 ∧ crc8 (leBytes bnum.toNat 6) ≠ crc) ∧
    (∃ (bnum : BitVec 48) (crc : Byte) (s : State), s.pwr.st = .run ∧ s.link.lanes = 0xF#4 ∧ crc8 (leBytes bnum.toNat 6) = crc) ∧
    (∃ (off : Int) (gap : Nat) (bnum : BitVec 48) (r : List (BitVec 48)) (s : State), clocked s = true ∧ s.beat.inflight = bnum :: r ∧ (s.beat.st = .locking ∨ s.beat.st = .locked) ∧ -50 ≤ off ∧ off ≤ 50 ∧ s.beat.seen = false ∧ bnum.toNat = s.beat.beat.toNat + 1 ∧ scriptRejects s = none) ∧
    (∃ (off : Int) (gap : Nat) (bnum : BitVec 48) (r : List (BitVec 48)) (s : State), clocked s = true ∧ s.beat.inflight = bnum :: r ∧ (s.beat.st = .locking ∨ s.beat.st = .locked) ∧ -50 ≤ off ∧ off ≤ 50 ∧ s.beat.seen = false ∧ bnum.toNat = s.beat.beat.toNat + 1 ∧ scriptRejects s = none) ∧
    (∃ (off : Int) (gap : Nat) (bnum : BitVec 48) (r : List (BitVec 48)) (s : State), clocked s = true ∧ s.beat.inflight = bnum :: r ∧ (s.beat.st = .locking ∨ s.beat.st = .locked) ∧ (off < -50 ∨ 50 < off ∨ s.beat.seen = true ∨ bnum.toNat ≠ s.beat.beat.toNat + 1 ∨ (scriptRejects s).isSome = true)) ∧
    (∃ (off : Int) (gap : Nat) (bnum : BitVec 48) (r : List (BitVec 48)) (s : State), clocked s = true ∧ s.beat.inflight = bnum :: r ∧ (s.beat.st = .locking ∨ s.beat.st = .locked) ∧ (off < -50 ∨ 50 < off ∨ s.beat.seen = true ∨ bnum.toNat ≠ s.beat.beat.toNat + 1 ∨ (scriptRejects s).isSome = true)) ∧
    (∃ (smp : Sample) (s : State), clocked s = true) :=
  ⟨⟨1#48, 0#8, linkS, by decide +kernel⟩,
   ⟨1#48, crc8 (leBytes 1 6), linkS, by decide +kernel⟩,
   ⟨-50, 0, 1#48, [], beatS { Beat.reset with st := .locking, inflight := [1#48] }, by decide +kernel⟩,
   ⟨50, 0, 1#48, [], beatS { Beat.reset with st := .locked, inflight := [1#48] }, by decide +kernel⟩,
   ⟨-51, 0, 1#48, [], beatS { Beat.reset with st := .locked, inflight := [1#48] }, by decide +kernel⟩,
   ⟨0, 0, 2#48, [], beatS { Beat.reset with st := .locking, inflight := [2#48] }, by decide +kernel⟩,
   ⟨⟨Vector.replicate 12 (Vector.replicate 4 0), Vector.replicate 2 0, Vector.replicate 12 0, 0, 0, 0, 0#6, 0, 0⟩, t0, by decide +kernel⟩⟩

/-- The hypotheses of `Obligations.BeatStates` can be met, clause by clause. -/
theorem witness_BeatStates :
    (∃ s : State, clocked s = true ∧ s.beat.edgeNow = true ∧ s.beat.st = .locked ∧ 8 ≤ s.beat.missing) ∧
    (∃ s : State, clocked s = true ∧ s.beat.edgeNow = true ∧ s.beat.st = .hold ∧ 1024 ≤ s.beat.missing) ∧
    (∃ s : State, clocked s = true ∧ s.beat.edgeNow = true ∧ s.beat.st = .locking ∧ 8 ≤ s.beat.missing) ∧
    (∃ (n : BitVec 48) (s : State), clocked s = true ∧ s.beat.lastBnum = some n ∧ s.beat.st = .hold ∧ 4 ≤ s.beat.qual ∧ s.beat.beat.toNat < n.toNat) ∧
    (∃ (n : BitVec 48) (s : State), clocked s = true ∧ s.beat.lastBnum = some n ∧ s.beat.st = .hold ∧ 4 ≤ s.beat.qual ∧ n.toNat ≤ s.beat.beat.toNat) ∧
    (∃ (n : BitVec 48) (s : State), clocked s = true ∧ s.beat.lastBnum = some n ∧ s.beat.acquires = true ∧ 16 ≤ s.beat.qual ∧ s.beat.st = .acquire) ∧
    (∃ (n : BitVec 48) (s : State), clocked s = true ∧ s.beat.lastBnum = some n ∧ s.beat.acquires = true ∧ 16 ≤ s.beat.qual ∧ (¬(s.beat.st = .acquire ∨ s.beat.beat.toNat < n.toNat))) ∧
    (∃ s : State, clocked s = true ∧ s.beat.st = .locking ∧ 256 ≤ s.beat.close) ∧
    (∃ (q : OdReq) (s : State), odTaken 0x7010 3 (fun n => n == 1) s = some q) ∧
    (∃ (q : OdReq) (s : State), odTaken 0x7010 3 (fun n => n == 2) s = some q ∧ s.beat.st = .lost) ∧
    (∃ (q : OdReq) (s : State), odTaken 0x7010 3 (fun n => n == 2) s = some q) ∧
    (∃ (smp : Sample) (s : State), clocked s = true ∧ s.beat.freePend = true) :=
  ⟨⟨beatS { Beat.reset with st := .locked, edgeNow := true, missing := 8 }, by decide +kernel⟩,
   ⟨beatS { Beat.reset with st := .hold, edgeNow := true, missing := 1024 }, by decide +kernel⟩,
   ⟨beatS { Beat.reset with st := .locking, edgeNow := true, missing := 8 }, by decide +kernel⟩,
   ⟨1#48, beatS { Beat.reset with st := .hold, qual := 4, lastBnum := some 1#48 }, by decide +kernel⟩,
   ⟨0#48, beatS { Beat.reset with st := .hold, qual := 4, lastBnum := some 0#48 }, by decide +kernel⟩,
   ⟨0#48, beatS { Beat.reset with st := .acquire, qual := 16, lastBnum := some 0#48 }, by decide +kernel⟩,
   ⟨0#48, beatS { Beat.reset with st := .lost, acquiring := true, qual := 16, lastBnum := some 0#48 }, by decide +kernel⟩,
   ⟨beatS { Beat.reset with st := .locking, close := 256 }, by decide +kernel⟩,
   ⟨req 0x7010#16 3#8 [1#8], odS 0x7010#16 3#8 [1#8], by decide +kernel⟩,
   ⟨req 0x7010#16 3#8 [2#8], { odS 0x7010#16 3#8 [2#8] with beat := { Beat.reset with st := .lost } }, by decide +kernel⟩,
   ⟨req 0x7010#16 3#8 [2#8], odS 0x7010#16 3#8 [2#8], by decide +kernel⟩,
   ⟨⟨Vector.replicate 12 (Vector.replicate 4 0), Vector.replicate 2 0, Vector.replicate 12 0, 0, 0, 0, 0#6, 0, 0⟩, beatS { Beat.reset with freePend := true, st := .locked }, by decide +kernel⟩⟩

/-- The hypotheses of `Obligations.RunsAndRecord` can be met, clause by clause. -/
theorem witness_RunsAndRecord :
    (∃ (q : OdReq) (s : State), odTaken 0x7020 1 (fun n => n == 1) s = some q ∧ s.rcd.on = true ∧ s.rcd.seq - s.rcd.drain < ringCap s) ∧
    (∃ (q : OdReq) (s : State), odTaken 0x7020 1 (fun n => n == 2) s = some q ∧ s.run.isOpen = true) ∧
    (∃ (q : OdReq) (s : State), odTaken 0x7030 1 (fun _ => true) s = some q) ∧
    (∃ (ty arg len payload : Nat) (s : State), MemInv s ∧ s.rcd.on = true ∧ s.tap.cdStopped = false ∧ s.rcd.cyEnt = [] ∧ s.rcd.drain ≤ s.rcd.seq ∧ s.rcd.seq - s.rcd.drain < ringCap s ∧ (¬(s.rcd.halfFrom ≤ s.rcd.seq ∧ s.rcd.seq < s.rcd.halfTo)) ∧ ty < 2 ^ 8 ∧ payload < 2 ^ 256) ∧
    (∃ (ty arg len payload : Nat) (s : State), MemInv s ∧ s.rcd.on = true ∧ s.tap.cdStopped = false ∧ s.rcd.seq - s.rcd.drain < ringCap s ∧ s.rcd.drain + s.rcd.cyEnt.length ≤ s.rcd.seq ∧ s.rcd.cyEnt.length < 4096 ∧ s.rcd.cyEnt.Pairwise (fun v w => entBefore v w = true) ∧ (∀ i < s.rcd.cyEnt.length, s.ld (entryAddr s (s.rcd.seq - s.rcd.cyEnt.length + i)) 64 = recBytes (s.rcd.cyEnt.getD i 0) (s.rcd.seq - s.rcd.cyEnt.length + i))) ∧
    (∃ (ty arg len payload : Nat) (s : State), MemInv s ∧ s.rcd.on = true ∧ s.tap.cdStopped = false ∧ s.rcd.seq - s.rcd.drain < ringCap s ∧ s.rcd.drain + s.rcd.cyEnt.length ≤ s.rcd.seq ∧ s.rcd.cyEnt.length < 4096 ∧ s.rcd.cyEnt.Pairwise (fun v w => entBefore v w = true) ∧ (∀ i < s.rcd.cyEnt.length, s.ld (entryAddr s (s.rcd.seq - s.rcd.cyEnt.length + i)) 64 = recBytes (s.rcd.cyEnt.getD i 0) (s.rcd.seq - s.rcd.cyEnt.length + i))) ∧
    (∃ (n : Nat) (k : Slot) (s : State), clocked s = true ∧ noReqs s = true ∧ sinkOf s = some k ∧ 1 ≤ n ∧ n ≤ 64 ∧ n ≤ s.rcd.seq - s.rcd.drain) :=
  ⟨⟨req 0x7020#16 1#8 [1#8], odS 0x7020#16 1#8 [1#8], by decide +kernel⟩,
   ⟨req 0x7020#16 1#8 [2#8], { odS 0x7020#16 1#8 [2#8] with run := { Run.reset with isOpen := true } }, by decide +kernel⟩,
   ⟨req 0x7030#16 1#8 [0#8], odS 0x7030#16 1#8 [0#8], by decide +kernel⟩,
   ⟨0x10, 255, 8, 2 ^ 256 - 1, t0, rfl, (by decide +kernel), (by decide +kernel), (by decide +kernel), (by decide +kernel), (by decide +kernel), (by decide +kernel), (by decide +kernel), by decide +kernel⟩,
   ⟨0x12, 255, 8, 7, t0, rfl, (by decide +kernel), (by decide +kernel), (by decide +kernel), (by decide +kernel), (by decide +kernel), (by decide +kernel), by intro i h; cases h⟩,
   ⟨0x12, 255, 8, 7, { t0 with mem := (t0.store ringBase (leBytes (1 + 0x10 * 2 ^ 8 + 255 * 2 ^ 176) 64)).mem, rcd := { Rec.reset with seq := 1, cyEnt := [1 + 0x10 * 2 ^ 8 + 255 * 2 ^ 176] } }, rfl, (by decide +kernel), (by decide +kernel), (by decide +kernel), (by decide +kernel), (by decide +kernel), (by decide +kernel), by intro i h; cases i with | zero => decide +kernel | succ n => cases h with | step h => cases h⟩,
   ⟨64, 3, { sessS 3 { Session.reset with ph := .opened, role := 2 } with od := { Od.reset with recordSink := 3#8 }, rcd := { Rec.reset with seq := 64 } }, by decide +kernel⟩⟩

/-- The hypotheses of `Obligations.Replay` can be met, clause by clause. -/
theorem witness_Replay :
    (∃ (q : OdReq) (s : State), odTaken 0x7030 5 (fun n => n == 1) s = some q) ∧
    (∃ (q : OdReq) (s : State), odTaken 0x7030 5 (fun n => n == 2) s = some q) ∧
    (∃ (q : Nat) (v : List Byte) (s : State), s.rcd.replay = .armed ∧ (s.rcd.scriptNext.getD 0 ≠ q ∨ (Entry.ofNat (leNat v)).seq ≠ q % 2 ^ 40)) ∧
    (∃ (q : Nat) (v : List Byte) (s : State), s.rcd.replay = .armed ∧ (s.rcd.scriptNext.getD 0 ≠ q ∨ (Entry.ofNat (leNat v)).seq ≠ q % 2 ^ 40)) ∧
    (∃ (q : Nat) (v : List Byte) (s : State), MemInv s ∧ s.rcd.replay = .armed ∧ s.rcd.scriptNext.getD 0 = q ∧ v.length = 64 ∧ (Entry.ofNat (leNat v)).seq = q % 2 ^ 40) ∧
    (∃ (f : Frame) (s : State), linkOn s = true ∧ rowTakes f 6#8 2#8 = true ∧ f.lseq.toNat = s.link.rxNext ∧ frameFails f (acceptSeq s) = none ∧ canPass f (acceptSeq s).link.held (acceptSeq s) = true ∧ s.link.rxNext + 1 < 2 ^ 48 - 1 ∧ s.link.txNext < 2 ^ 48 - 1) ∧
    (∃ (f : Frame) (r : List Frame) (q : Nat) (e : Entry) (k : Nat) (s : State), s.pwr.st = .run ∧ s.rcd.gated = f :: r ∧ mustHold f s = false ∧ s.rcd.replay = .active ∧ nextGate { s with rcd := { s.rcd with gated := r } } = some (q, e) ∧ gateVerdict f e false s = some k) ∧
    (∃ (f : Frame) (r : List Frame) (q : Nat) (e : Entry) (k : Nat) (s : State), s.pwr.st = .run ∧ s.rcd.gated = f :: r ∧ mustHold f s = false ∧ s.rcd.replay = .active ∧ nextGate { s with rcd := { s.rcd with gated := r } } = some (q, e) ∧ gateVerdict f e false s = some k) ∧
    (∃ (f : Frame) (r : List Frame) (s : State), s.pwr.st = .run ∧ s.rcd.gated = f :: r ∧ mustHold f s = false ∧ s.rcd.replay ≠ .active) ∧
    (∃ (f : Frame) (r : List Frame) (s : State), s.rcd.gated = f :: r ∧ s.rcd.replay = .active ∧ (nextGate s = none ∨ ∃ q e, nextGate s = some (q, e) ∧ gateVerdict f e false s = none)) ∧
    (∃ (f : Frame) (s : State), isGated f = true ∧ s.rcd.replay = .active ∧ s.rcd.gated = [] ∧ nextGate s = none) ∧
    (∃ (kind q : Nat) (s : State), replaying s = true ∧ s.rcd.divKind = 0) :=
  ⟨⟨req 0x7030#16 5#8 [1#8], odS 0x7030#16 5#8 [1#8], by decide +kernel⟩,
   ⟨req 0x7030#16 5#8 [2#8], odS 0x7030#16 5#8 [2#8], by decide +kernel⟩,
   ⟨7, leBytes (7 * 2 ^ 56) 64, { t0 with rcd := { Rec.reset with replay := .armed } }, (by decide +kernel), .inl (by decide +kernel)⟩,
   ⟨0, leBytes (2 ^ 56) 64, { t0 with rcd := { Rec.reset with replay := .armed } }, (by decide +kernel), .inr (by decide +kernel)⟩,
   ⟨0, List.replicate 64 0#8, { t0 with rcd := { Rec.reset with replay := .armed } }, rfl, (by decide +kernel), (by decide +kernel), (by decide +kernel), by decide +kernel⟩,
   ⟨tagged ({ linkS with rcd := { Rec.reset with replay := .armed } }) (frame 6#8 2#8 0#48 0#64 (leBytes 1 64)), { linkS with rcd := { Rec.reset with replay := .armed } }, by decide +kernel⟩,
   ⟨frame 5#8 1#8 224#48 0#64 [1#8, 0#8, 0#8, 0#8], [], 7, entryAt ({ linkS with mem := (linkS.store (stageAddr 7) (leBytes (1 + 0x0400 + 7 * 2 ^ 56) 64)).mem, rcd := { Rec.reset with replay := .active, script := [7], gated := [frame 5#8 1#8 224#48 0#64 [1#8, 0#8, 0#8, 0#8]] } }) 7, 2, { linkS with mem := (linkS.store (stageAddr 7) (leBytes (1 + 0x0400 + 7 * 2 ^ 56) 64)).mem, rcd := { Rec.reset with replay := .active, script := [7], gated := [frame 5#8 1#8 224#48 0#64 [1#8, 0#8, 0#8, 0#8]] } }, by decide +kernel⟩,
   ⟨frame 5#8 1#8 224#48 0#64 [1#8, 0#8, 0#8, 0#8], [], 7, entryAt ({ linkS with mem := (linkS.store (stageAddr 7) (leBytes (1 + 4 * 2 ^ 8 + 7 * 2 ^ 56 + 4 * 2 ^ 176 + 224 * 2 ^ 208 + 1 * 2 ^ 256) 64)).mem, rcd := { Rec.reset with replay := .active, script := [7], gated := [frame 5#8 1#8 224#48 0#64 [1#8, 0#8, 0#8, 0#8]] } }) 7, 0, { linkS with mem := (linkS.store (stageAddr 7) (leBytes (1 + 4 * 2 ^ 8 + 7 * 2 ^ 56 + 4 * 2 ^ 176 + 224 * 2 ^ 208 + 1 * 2 ^ 256) 64)).mem, rcd := { Rec.reset with replay := .active, script := [7], gated := [frame 5#8 1#8 224#48 0#64 [1#8, 0#8, 0#8, 0#8]] } }, by decide +kernel⟩,
   ⟨frame 5#8 1#8 224#48 0#64 [1#8, 0#8, 0#8, 0#8], [], { linkS with rcd := { Rec.reset with gated := [frame 5#8 1#8 224#48 0#64 [1#8, 0#8, 0#8, 0#8]] } }, by decide +kernel⟩,
   ⟨frame 5#8 1#8 224#48 0#64 [1#8, 0#8, 0#8, 0#8], [], { linkS with rcd := { Rec.reset with replay := .active, gated := [frame 5#8 1#8 224#48 0#64 [1#8, 0#8, 0#8, 0#8]] } }, (by decide +kernel), (by decide +kernel), .inl (by decide +kernel)⟩,
   ⟨frame 5#8 1#8 224#48 0#64 [1#8, 0#8, 0#8, 0#8], { linkS with rcd := { Rec.reset with replay := .active, gated := [] } }, by decide +kernel⟩,
   ⟨4, 9, { t0 with rcd := { Rec.reset with replay := .active } }, by decide +kernel⟩⟩

/-- The hypotheses of `Obligations.LinkEvents` can be met, clause by clause. -/
theorem witness_LinkEvents :
    (∃ (lanes : BitVec 4) (s : State), s.pwr.st = .run ∧ s.od.closeAfter = [] ∧ lanes = 0xF#4 ∧ s.link.lanes ≠ 0xF#4) ∧
    (∃ (c : Instr) (s : State), s.pwr.st = .run ∧ ((c = .linkReinit ∧ s.link.lanes ≠ 0xF#4 ∧ 64 ≤ s.link.downPos) ∨ (c = .linkReinit ∧ (2 ^ 48 - 1 ≤ s.link.rxNext ∨ 2 ^ 48 - 1 ≤ s.link.txNext)) ∨ (c = .resendLimit ∧ 64 ≤ s.link.resends))) ∧
    (∃ (c : Instr) (s : State), s.pwr.st = .run ∧ ((c = .linkReinit ∧ s.link.lanes ≠ 0xF#4 ∧ 64 ≤ s.link.downPos) ∨ (c = .linkReinit ∧ (2 ^ 48 - 1 ≤ s.link.rxNext ∨ 2 ^ 48 - 1 ≤ s.link.txNext)) ∨ (c = .resendLimit ∧ 64 ≤ s.link.resends))) ∧
    (∃ (c : Instr) (s : State), s.pwr.st = .run ∧ ((c = .linkReinit ∧ s.link.lanes ≠ 0xF#4 ∧ 64 ≤ s.link.downPos) ∨ (c = .linkReinit ∧ (2 ^ 48 - 1 ≤ s.link.rxNext ∨ 2 ^ 48 - 1 ≤ s.link.txNext)) ∨ (c = .resendLimit ∧ 64 ≤ s.link.resends))) ∧
    (∃ (f : Frame) (crc : W32) (s : State), linkOn s = true ∧ s.link.out = [] ∧ s.od.closeAfter = [] ∧ s.link.rxNext < 2 ^ 48 - 1 ∧ s.link.txNext < 2 ^ 48 - 1 ∧ linkValid 1#8 f crc = true) ∧
    (∃ (f : Frame) (crc : W32) (s : State), linkOn s = true ∧ s.link.out = [] ∧ s.od.closeAfter = [] ∧ s.link.rxNext < 2 ^ 48 - 1 ∧ s.link.txNext < 2 ^ 48 - 1 ∧ linkValid 2#8 f crc = true) ∧
    (∃ (f : Frame) (crc : W32) (s : State), linkOn s = true ∧ f.cls = 1#8 ∧ (f.opc = 1#8 ∨ f.opc = 2#8) ∧ (f.ver ≠ 1#8 ∨ f.rsvd ≠ 0 ∨ crc ≠ frameCrc f) ∧ crc ≠ frameCrc f) ∧
    (∃ (f : Frame) (crc : W32) (s : State), linkOn s = true ∧ f.cls = 1#8 ∧ (f.opc = 1#8 ∨ f.opc = 2#8) ∧ (f.ver ≠ 1#8 ∨ f.rsvd ≠ 0 ∨ crc ≠ frameCrc f) ∧ f.ver ≠ 1#8) ∧
    (∃ (f : Frame) (crc : W32) (s : State), linkOn s = true ∧ f.cls = 1#8 ∧ (f.opc = 1#8 ∨ f.opc = 2#8) ∧ (f.ver ≠ 1#8 ∨ f.rsvd ≠ 0 ∨ crc ≠ frameCrc f) ∧ f.rsvd ≠ 0) ∧
    (∃ s : State, s.pwr.st = .run ∧ 8 ≤ s.link.sinceAck ∧ s.link.unacked ≠ []) ∧
    (∃ s : State, linkOn s = true ∧ s.beat.edgeNow = true ∧ 0 < s.link.rxUnacked ∧ s.beat.pos % 64 = 0) ∧
    (∃ (f : Frame) (s : State) (c : Instr), linkOn s = true ∧ ((∃ v : List Byte, c = .frameCrcFail v ∧ wireOk v = false) ∨ (f.lseq.toNat ≠ s.link.rxNext ∧ ((c = .odWrite f ∧ rowTakes f 3#8 2#8 = true) ∨ ((∃ ev : CodeEvent, c = .bulkWrite f ev) ∧ rowTakes f 4#8 1#8 = true) ∨ (c = .flagUpdate f ∧ rowTakes f 5#8 1#8 = true) ∨ (c = .sessionHello f ∧ rowTakes f 2#8 1#8 = true)))) ∧ s.link.nakSent = false) ∧
    (∃ (f : Frame) (s : State) (c : Instr), linkOn s = true ∧ ((∃ v : List Byte, c = .frameCrcFail v ∧ wireOk v = false) ∨ (f.lseq.toNat ≠ s.link.rxNext ∧ ((c = .odWrite f ∧ rowTakes f 3#8 2#8 = true) ∨ ((∃ ev : CodeEvent, c = .bulkWrite f ev) ∧ rowTakes f 4#8 1#8 = true) ∨ (c = .flagUpdate f ∧ rowTakes f 5#8 1#8 = true) ∨ (c = .sessionHello f ∧ rowTakes f 2#8 1#8 = true)))) ∧ s.link.nakSent = true) ∧
    (∃ s : State, linkOn s = true) :=
  ⟨⟨0xF#4, t0, by decide +kernel⟩,
   ⟨.linkReinit, { linkS with link := { linkS.link with lanes := 7#4, downPos := 64 } }, by decide +kernel⟩,
   ⟨.linkReinit, { linkS with link := { linkS.link with rxNext := 2 ^ 48 - 1 } }, by decide +kernel⟩,
   ⟨.resendLimit, { linkS with link := { linkS.link with resends := 64 } }, by decide +kernel⟩,
   ⟨{ frame 1#8 1#8 0#48 1#64 [] with sess := 0xFF#8 }, frameCrc ({ frame 1#8 1#8 0#48 1#64 [] with sess := 0xFF#8 }), { linkS with link := { linkS.link with unacked := [sent 0, sent 1] } }, by decide +kernel⟩,
   ⟨{ frame 1#8 2#8 0#48 1#64 [] with sess := 0xFF#8 }, frameCrc ({ frame 1#8 2#8 0#48 1#64 [] with sess := 0xFF#8 }), { linkS with link := { linkS.link with unacked := [sent 0, sent 1] } }, by decide +kernel⟩,
   ⟨{ frame 1#8 1#8 0#48 1#64 [] with sess := 0xFF#8 }, frameCrc ({ frame 1#8 1#8 0#48 1#64 [] with sess := 0xFF#8 }) + 1#32, linkS, by decide +kernel⟩,
   ⟨{ { frame 1#8 2#8 0#48 1#64 [] with sess := 0xFF#8 } with ver := 2#8 }, 0#32, linkS, by decide +kernel⟩,
   ⟨{ { frame 1#8 2#8 0#48 1#64 [] with sess := 0xFF#8 } with rsvd := 1 }, 0#32, linkS, by decide +kernel⟩,
   ⟨{ linkS with link := { linkS.link with unacked := [sent 0], sinceAck := 8 } }, by decide +kernel⟩,
   ⟨{ { linkS with link := { linkS.link with rxUnacked := 1 } } with beat := { Beat.reset with edgeNow := true } }, by decide +kernel⟩,
   ⟨frame 5#8 1#8 224#48 0#64 [1#8, 0#8, 0#8, 0#8], linkS, .frameCrcFail (List.replicate 48 1#8), (by decide +kernel), .inl ⟨_, rfl, by decide +kernel⟩, by decide +kernel⟩,
   ⟨{ frame 3#8 2#8 0x213001#48 0#64 [16#8, 0#8, 0#8, 0#8] with lseq := 5#48 }, { linkS with link := { linkS.link with nakSent := true } }, .odWrite { frame 3#8 2#8 0x213001#48 0#64 [16#8, 0#8, 0#8, 0#8] with lseq := 5#48 }, (by decide +kernel), .inr ⟨by decide +kernel, .inl ⟨rfl, by decide +kernel⟩⟩, by decide +kernel⟩,
   ⟨linkS, by decide +kernel⟩⟩

/-- The hypotheses of `Obligations.Sessions` can be met, clause by clause. -/
theorem witness_Sessions :
    (∃ (f : Frame) (s : State), passes 2#8 1#8 f s = true ∧ slotFree s = true) ∧
    (∃ (f : Frame) (s : State), passes 2#8 1#8 f s = true ∧ decide (fieldAt f.payload 2 2 / 2 % 2 = 1) = false) ∧
    (∃ (f : Frame) (s : State), passes 2#8 1#8 f s = true ∧ slotFree s = false) ∧
    (∃ (k : Slot) (h : Handshake) (q : Hello) (r : List Hello) (s : State), s.pwr.st = .run ∧ s.trust.idKey = true ∧ s.link.hellos = q :: r ∧ s.sess[k].ph = .free ∧ keysOk q h s = true ∧ (¬(q.role = 2 ∧ custodianOpen k s = true))) ∧
    (∃ (k : Slot) (h : Handshake) (q : Hello) (r : List Hello) (s : State), s.pwr.st = .run ∧ s.trust.idKey = true ∧ s.link.hellos = q :: r ∧ s.sess[k].ph = .free ∧ keysOk q h s = true ∧ q.role = 2 ∧ custodianOpen k s = true) ∧
    (∃ (k : Slot) (h : Handshake) (q : Hello) (r : List Hello) (s : State), s.pwr.st = .run ∧ s.trust.idKey = true ∧ s.link.hellos = q :: r ∧ s.sess[k].ph = .free ∧ keysOk q h s = false) ∧
    (∃ (k : Slot) (h : Handshake) (q : Hello) (r : List Hello) (s : State), s.pwr.st = .run ∧ s.trust.idKey = true ∧ s.link.hellos = q :: r ∧ slotFree s = false) ∧
    (∃ (f : Frame) (k : Slot) (s : State), accepts 2#8 3#8 f s = true ∧ slotOf f.sess = some k ∧ s.link.held = [] ∧ proofHolds f k s = true) ∧
    (∃ (f : Frame) (k : Slot) (s : State), accepts 2#8 3#8 f s = true ∧ slotOf f.sess = some k ∧ s.link.held = [] ∧ proofHolds f k s = false) ∧
    (∃ (f : Frame) (k : Slot) (s : State), accepts 2#8 6#8 f s = true ∧ slotOf f.sess = some k ∧ s.link.held = []) ∧
    (∃ (k : Slot) (s : State) (c : Instr), s.pwr.st = .run ∧ ((c = .finishTimeout k ∧ s.sess[k].ph = .finish ∧ s.sess[k].finCame = false ∧ 1024 ≤ s.sess[k].timer) ∨ (c = .sessionIdleTimeout k ∧ s.sess[k].ph = .opened ∧ s.od.idleTimeout ≤ s.sess[k].timer))) ∧
    (∃ (k : Slot) (s : State) (c : Instr), s.pwr.st = .run ∧ ((c = .finishTimeout k ∧ s.sess[k].ph = .finish ∧ s.sess[k].finCame = false ∧ 1024 ≤ s.sess[k].timer) ∨ (c = .sessionIdleTimeout k ∧ s.sess[k].ph = .opened ∧ s.od.idleTimeout ≤ s.sess[k].timer))) ∧
    (∃ (q : OdReq) (s : State), odTaken 0x8020 4 (fun _ => true) s = some q ∧ s.od.closeAfter = []) ∧
    (∃ (q : OdReq) (s : State), odTaken 0x8030 1 (fun _ => true) s = some q ∧ s.od.closeAfter = [] ∧ q.mute = false) ∧
    (∃ (q : OdReq) (s : State), odTaken 0x8030 1 (fun _ => true) s = some q ∧ s.od.closeAfter = [] ∧ q.mute = false ∧ s.sess[q.slot].att.status = 1) ∧
    (∃ (k : Slot) (s : State), s.pwr.st = .run ∧ s.sess[k].att.status = 1) :=
  ⟨⟨{ frame 2#8 1#8 0#48 0#64 (padTo 1701 [1#8, 2#8, 2#8]) with sess := 0xFF#8 }, linkS, by decide +kernel⟩,
   ⟨{ frame 2#8 1#8 0#48 0#64 (padTo 1701 [1#8, 2#8, 0#8]) with sess := 0xFF#8 }, linkS, by decide +kernel⟩,
   ⟨{ frame 2#8 1#8 0#48 0#64 (padTo 1701 [1#8, 2#8, 2#8]) with sess := 0xFF#8 }, fullS, by decide +kernel⟩,
   ⟨3, shake, helloQ 1, [], shakeS 1 linkS, by decide +kernel⟩,
   ⟨3, shake, helloQ 2, [], shakeS 2 linkS, by decide +kernel⟩,
   ⟨3, shake, helloQ 1, [], { linkS with link := { linkS.link with hellos := [helloQ 1] } }, by decide +kernel⟩,
   ⟨3, shake, helloQ 1, [], { fullS with link := { linkS.link with hellos := [helloQ 1] } }, by decide +kernel⟩,
   ⟨tagged (linkX 0 { Session.reset with ph := .finish }) (frame 2#8 3#8 0#48 0#64 []), 0, linkX 0 { Session.reset with ph := .finish }, by decide +kernel⟩,
   ⟨tagged (linkX 0 { Session.reset with ph := .finish, role := 1 }) (frame 2#8 3#8 0#48 0#64 []), 0, linkX 0 { Session.reset with ph := .finish, role := 1 }, by decide +kernel⟩,
   ⟨tagged linkS (frame 2#8 6#8 0#48 0#64 []), 0, linkS, by decide +kernel⟩,
   ⟨0, linkX 0 { Session.reset with ph := .finish, timer := 1024 }, .finishTimeout 0, by decide +kernel⟩,
   ⟨0, linkX 0 { Session.reset with ph := .opened, timer := 60000000 }, .sessionIdleTimeout 0, by decide +kernel⟩,
   ⟨req 0x8020#16 4#8 [0xF#8], odS 0x8020#16 4#8 [0xF#8], by decide +kernel⟩,
   ⟨req 0x8030#16 1#8 (List.replicate 32 1#8), odS 0x8030#16 1#8 (List.replicate 32 1#8), by decide +kernel⟩,
   ⟨req 0x8030#16 1#8 (List.replicate 32 1#8), busyS, by decide +kernel⟩,
   ⟨3, sessS 3 { Session.reset with att := ⟨1, [1#8], []⟩ }, by decide +kernel⟩⟩

/-- The hypotheses of `Obligations.Frames` can be met, clause by clause. -/
theorem witness_Frames :
    (∃ (f : Frame) (ev : CodeEvent) (n : Nat) (why : Fin 6) (s : State) (c : Instr) (cls opc : Byte), (c, cls, opc) ∈ ([(.odRead f ev, 3#8, 1#8), (.odWrite f, 3#8, 2#8), (.bulkWrite f ev, 4#8, 1#8), (.bulkRead f, 4#8, 2#8), (.flagUpdate f, 5#8, 1#8), (.recordScript f, 6#8, 2#8), (.sessionHello f, 2#8, 1#8)] : List (Instr × Byte × Byte)) ∧ linkOn s = true ∧ f.cls = cls ∧ f.opc = opc ∧ f.lseq.toNat = s.link.rxNext ∧ frameFails f s = some (n, why) ∧ n ≠ 3 ∧ s.link.rxNext + 1 < 2 ^ 48 - 1 ∧ s.link.txNext < 2 ^ 48 - 1) ∧
    (∃ (f : Frame) (ev : CodeEvent) (n : Nat) (why : Fin 6) (s : State) (c : Instr) (cls opc : Byte), (c, cls, opc) ∈ ([(.odRead f ev, 3#8, 1#8), (.odWrite f, 3#8, 2#8), (.bulkWrite f ev, 4#8, 1#8), (.bulkRead f, 4#8, 2#8), (.flagUpdate f, 5#8, 1#8), (.recordScript f, 6#8, 2#8), (.sessionHello f, 2#8, 1#8)] : List (Instr × Byte × Byte)) ∧ linkOn s = true ∧ f.cls = cls ∧ f.opc = opc ∧ f.lseq.toNat = s.link.rxNext ∧ frameFails f s = some (n, why) ∧ n ≠ 3 ∧ s.link.rxNext + 1 < 2 ^ 48 - 1 ∧ s.link.txNext < 2 ^ 48 - 1) ∧
    (∃ (f : Frame) (k : Slot) (s : State), accepts 3#8 1#8 f s = true ∧ slotOf f.sess = some k ∧ s.link.resps = [] ∧ odBad k (frameIx f) (frameSub f) s = none ∧ gateAccess s s.sess[k].role (frameIx f) (frameSub f) false = 0) ∧
    (∃ (f : Frame) (k : Slot) (s : State), accepts 3#8 1#8 f s = true ∧ slotOf f.sess = some k ∧ s.link.resps = [] ∧ odBad k (frameIx f) (frameSub f) s = none ∧ gateAccess s s.sess[k].role (frameIx f) (frameSub f) false ≠ 0) ∧
    (∃ (f : Frame) (k : Slot) (o : Nat) (s : State), accepts 3#8 1#8 f s = true ∧ slotOf f.sess = some k ∧ s.link.resps = [] ∧ odBad k (frameIx f) (frameSub f) s = some o ∧ gateAccess s s.sess[k].role (frameIx f) (frameSub f) false = 0) ∧
    (∃ (f : Frame) (k : Slot) (s : State), passes 3#8 2#8 f s = true ∧ slotOf f.sess = some k ∧ gateWrite s s.sess[k].role (frameIx f) (frameSub f) f.payload = 0) ∧
    (∃ (f : Frame) (k : Slot) (s : State), passes 3#8 2#8 f s = true ∧ slotOf f.sess = some k ∧ gateWrite s s.sess[k].role (frameIx f) (frameSub f) f.payload ≠ 0) ∧
    (∃ (f : Frame) (s : State), passes 4#8 1#8 f s = true ∧ MemInv s ∧ rangeBad s f.addr.toNat f.payload.length = false) ∧
    (∃ (f : Frame) (s : State), passes 4#8 2#8 f s = true) ∧
    (∃ (r : BulkRun) (rest : List BulkRun) (s : State), clocked s = true ∧ memFree s = true ∧ s.link.reads = r :: rest ∧ r.left ≤ 4096) ∧
    (∃ (r : BulkRun) (rest : List BulkRun) (s : State), clocked s = true ∧ memFree s = true ∧ s.link.reads = r :: rest ∧ ¬ r.left ≤ 4096) ∧
    (∃ (f : Frame) (s : State), passes 5#8 1#8 f s = true ∧ Sparse.wf (fun _ => 0#16) s.hdr.gflags = true) ∧
    (∃ (ix : Nat) (f : Frame) (s : State), s.link.held[ix]? = some f ∧ s.pwr.st = .run ∧ canPass f (s.link.held.take ix) s = true ∧ s.rcd.replay ≠ .active ∧ s.rcd.gated = []) :=
  ⟨⟨tagged linkS ({ frame 3#8 2#8 0x213001#48 0#64 [16#8, 0#8, 0#8, 0#8] with rsvd := 1 }), .clean, 1, 0, linkS, .odWrite (tagged linkS ({ frame 3#8 2#8 0x213001#48 0#64 [16#8, 0#8, 0#8, 0#8] with rsvd := 1 })), 3#8, 2#8, by decide +kernel⟩,
   ⟨tagged linkS (frame 5#8 1#8 0#48 0#64 [1#8, 0#8, 0#8, 0#8]), .clean, 5, 4, linkS, .flagUpdate (tagged linkS (frame 5#8 1#8 0#48 0#64 [1#8, 0#8, 0#8, 0#8])), 5#8, 1#8, by decide +kernel⟩,
   ⟨tagged linkS (frame 3#8 1#8 0x213001#48 0#64 []), 0, linkS, by decide +kernel⟩,
   ⟨tagged linkS (frame 3#8 1#8 0xFFFF01#48 0#64 []), 0, linkS, by decide +kernel⟩,
   ⟨tagged linkS (frame 3#8 1#8 0x213001#48 0#64 []), 0, 0x2130010000, { linkS with ms := { linkS.ms with dieBad := [(0x22, 0x2130010000)] } }, by decide +kernel⟩,
   ⟨tagged linkS (frame 3#8 2#8 0x213001#48 0#64 [16#8, 0#8, 0#8, 0#8]), 0, linkS, by decide +kernel⟩,
   ⟨tagged linkS (frame 3#8 2#8 0xFFFF01#48 0#64 [0#8]), 0, linkS, by decide +kernel⟩,
   ⟨tagged linkS (frame 4#8 1#8 0#48 0#64 (List.replicate 40 7#8)), linkS, (by decide +kernel), rfl, by decide +kernel⟩,
   ⟨tagged linkS (frame 4#8 2#8 0#48 5000#64 []), linkS, by decide +kernel⟩,
   ⟨⟨0#8, 0#16, 0, 4096⟩, [], { linkS with link := { linkS.link with reads := [⟨0#8, 0#16, 0, 4096⟩] } }, by decide +kernel⟩,
   ⟨⟨0#8, 0#16, 0, 4097⟩, [], { linkS with link := { linkS.link with reads := [⟨0#8, 0#16, 0, 4097⟩] } }, by decide +kernel⟩,
   ⟨tagged linkS (frame 5#8 1#8 224#48 0#64 [1#8, 0#8, 0#8, 0#8]), linkS, by decide +kernel⟩,
   ⟨0, frame 5#8 1#8 224#48 0#64 [1#8, 0#8, 0#8, 0#8], { linkS with link := { linkS.link with held := [frame 5#8 1#8 224#48 0#64 [1#8, 0#8, 0#8, 0#8]] } }, by decide +kernel⟩⟩

/-- The hypotheses of `Obligations.ContextsAndEntries` can be met, clause by clause. -/
theorem witness_ContextsAndEntries :
    (∃ (q : OdReq) (s : State), odTaken 0x5010 5 (fun n => n == 1) s = some q ∧ s.hdr.installing = none ∧ noReqs s = true ∧ installEarly s ≠ 0) ∧
    (∃ (k : Fin 16384) (s : State), clocked s = true ∧ s.trust.stewardDown = false ∧ s.hdr.installing = some k) ∧
    (∃ (q : OdReq) (s : State), odTaken 0x5010 5 (fun n => n == 2) s = some q ∧ s.hdr.installing = none ∧ (ctxAt s s.hdr.sel).st ≠ .ready) ∧
    (∃ (q : OdReq) (s : State), odTaken 0x5010 5 (fun n => n == 2) s = some q ∧ s.hdr.installing = none ∧ (ctxAt s s.hdr.sel).st = .ready) ∧
    (∃ (k : Fin 16384) (s : State), clocked s = true ∧ (ctxAt s k).usable = true ∧ (ctxAt s k).st = .retiring ∧ (ctxAt s k).refs = 0 ∧ Sparse.wf (fun _ => CtxEntry.reset) s.hdr.ctx = true) ∧
    (∃ (q : OdReq) (u s : State), canApply q s = true ∧ s.od.cur = some q ∧ plainWrite q s = some u ∧ s.od.closeAfter = []) ∧
    (∃ (q : OdReq) (u s : State), canApply q s = true ∧ s.od.cur = some q ∧ plainWrite q s = some u ∧ s.od.closeAfter = []) ∧
    (∃ (q : OdReq) (u s : State), canApply q s = true ∧ s.od.cur = some q ∧ plainWrite q s = some u ∧ s.od.closeAfter = []) ∧
    (∃ (q : OdReq) (u s : State), canApply q s = true ∧ s.od.cur = some q ∧ plainWrite q s = some u ∧ s.od.closeAfter = []) ∧
    (∃ (q : OdReq) (u s : State), canApply q s = true ∧ s.od.cur = some q ∧ plainWrite q s = some u ∧ s.od.closeAfter = []) ∧
    (∃ (q : OdReq) (u s : State), canApply q s = true ∧ s.od.cur = some q ∧ plainWrite q s = some u ∧ s.od.closeAfter = []) :=
  ⟨⟨req 0x5010#16 5#8 [1#8], odS 0x5010#16 5#8 [1#8], by decide +kernel⟩,
   ⟨16383, { t0 with hdr := { Header.reset with installing := some 16383 } }, by decide +kernel⟩,
   ⟨req 0x5010#16 5#8 [2#8], odS 0x5010#16 5#8 [2#8], by decide +kernel⟩,
   ⟨req 0x5010#16 5#8 [2#8], { odS 0x5010#16 5#8 [2#8] with hdr := { Header.reset with ctx := [(0, { CtxEntry.reset with st := .ready })] } }, by decide +kernel⟩,
   ⟨16383, { t0 with hdr := { Header.reset with ctx := [(16383, { CtxEntry.reset with st := .retiring })] } }, by decide +kernel⟩,
   ⟨req 0x2130#16 1#8 [0#8, 0x80#8, 0#8, 0#8], (plainWrite (req 0x2130#16 1#8 [0#8, 0x80#8, 0#8, 0#8]) (odS 0x2130#16 1#8 [0#8, 0x80#8, 0#8, 0#8])).getD t0, odS 0x2130#16 1#8 [0#8, 0x80#8, 0#8, 0#8], (by decide +kernel), (by decide +kernel), rfl, by decide +kernel⟩,
   ⟨req 0x2120#16 1#8 [1#8], (plainWrite (req 0x2120#16 1#8 [1#8]) (odS 0x2120#16 1#8 [1#8])).getD t0, odS 0x2120#16 1#8 [1#8], (by decide +kernel), (by decide +kernel), rfl, by decide +kernel⟩,
   ⟨req 0x5010#16 1#8 [0xFF#8, 0x3F#8], (plainWrite (req 0x5010#16 1#8 [0xFF#8, 0x3F#8]) (odS 0x5010#16 1#8 [0xFF#8, 0x3F#8])).getD t0, odS 0x5010#16 1#8 [0xFF#8, 0x3F#8], (by decide +kernel), (by decide +kernel), rfl, by decide +kernel⟩,
   ⟨req 0x3010#16 1#8 [0#8, 1#8], (plainWrite (req 0x3010#16 1#8 [0#8, 1#8]) (odS 0x3010#16 1#8 [0#8, 1#8])).getD t0, odS 0x3010#16 1#8 [0#8, 1#8], (by decide +kernel), (by decide +kernel), rfl, by decide +kernel⟩,
   ⟨req 0x3020#16 24#8 [15#8], (plainWrite (req 0x3020#16 24#8 [15#8]) (odS 0x3020#16 24#8 [15#8])).getD t0, odS 0x3020#16 24#8 [15#8], (by decide +kernel), (by decide +kernel), rfl, by decide +kernel⟩,
   ⟨req 0x6010#16 1#8 [0x21#8], (plainWrite (req 0x6010#16 1#8 [0x21#8]) (odS 0x6010#16 1#8 [0x21#8])).getD t0, odS 0x6010#16 1#8 [0x21#8], (by decide +kernel), (by decide +kernel), rfl, by decide +kernel⟩⟩

/-- The hypotheses of `Obligations.ChannelsAndParks` can be met, clause by clause. -/
theorem witness_ChannelsAndParks :
    (∃ (q : OdReq) (s : State), odTaken 0x2120 2 (fun _ => true) s = some q) ∧
    (∃ (q : OdReq) (s : State), odTaken 0x2110 1 (fun _ => true) s = some q) ∧
    (∃ (q : OdReq) (s : State), odTaken 0x2110 2 (fun _ => true) s = some q) ∧
    (∃ (q : OdReq) (s : State), odTaken 0x2180 1 (fun _ => true) s = some q) :=
  ⟨⟨req 0x2120#16 2#8 [0xFF#8, 0x0F#8], odS 0x2120#16 2#8 [0xFF#8, 0x0F#8], by decide +kernel⟩,
   ⟨req 0x2110#16 1#8 [0xFF#8, 0x0F#8], odS 0x2110#16 1#8 [0xFF#8, 0x0F#8], by decide +kernel⟩,
   ⟨req 0x2110#16 2#8 [0xFF#8, 0x0F#8], odS 0x2110#16 2#8 [0xFF#8, 0x0F#8], by decide +kernel⟩,
   ⟨req 0x2180#16 1#8 [0xFF#8, 0x0F#8], odS 0x2180#16 1#8 [0xFF#8, 0x0F#8], by decide +kernel⟩⟩

/-- The hypotheses of `Obligations.LoaderAndLaunch` can be met, clause by clause. -/
theorem witness_LoaderAndLaunch :
    (∃ (q : OdReq) (s : State), odTaken 0x2160 3 (fun n => n == 1) s = some q ∧ s.ldr.loading = false ∧ loadBusy (headBays s) s = false) ∧
    (∃ (q : OdReq) (s : State), odTaken 0x2160 3 (fun n => n == 1) s = some q ∧ s.ldr.loading = false ∧ loadBusy (headBays s) s = true) ∧
    (∃ s : State, dieRuns s = true ∧ memFree s = true ∧ s.trust.stewardDown = false ∧ s.ldr.loading = true ∧ BitVec.ofNat 12 (Img.at s s.ldr.loadAddr).bays &&& loadedMask s ≠ 0#12) ∧
    (∃ s : State, dieRuns s = true ∧ memFree s = true ∧ s.trust.stewardDown = false ∧ s.ldr.loading = true ∧ BitVec.ofNat 12 (Img.at s s.ldr.loadAddr).bays &&& loadedMask s = 0#12 ∧ ((Img.at s s.ldr.loadAddr).fails s).isSome = true) ∧
    (∃ s : State, dieRuns s = true ∧ memFree s = true ∧ s.trust.stewardDown = false ∧ s.ldr.loading = true ∧ BitVec.ofNat 12 (Img.at s s.ldr.loadAddr).bays &&& loadedMask s = 0#12 ∧ ((Img.at s s.ldr.loadAddr).fails s).isSome = false) ∧
    (∃ (q : OdReq) (s : State), odTaken 0x2160 3 (fun n => n == 2) s = some q ∧ s.ldr.loading = false ∧ baysStill s s.ldr.unloadMask.toNat = true ∧ (∃ k ∈ s.ldr.images, k.bays = s.ldr.unloadMask)) ∧
    (∃ (q : OdReq) (s : State), odTaken 0x2160 3 (fun n => n == 2) s = some q ∧ s.ldr.loading = false ∧ baysStill s s.ldr.unloadMask.toNat = false) ∧
    (∃ (q : OdReq) (s : State), odTaken 0x2170 1 (fun _ => true) s = some q ∧ launchCode s q.value ≠ 0) ∧
    (∃ (q : OdReq) (s : State), odTaken 0x2170 1 (fun _ => true) s = some q ∧ launchCode s q.value = 0) :=
  ⟨⟨req 0x2160#16 3#8 [1#8], odS 0x2160#16 3#8 [1#8], by decide +kernel⟩,
   ⟨req 0x2160#16 3#8 [1#8], { odS 0x2160#16 3#8 [1#8] with mem := (t0.store 0 imgBytes).mem, ldr := { Loader.reset with images := [img0] } }, by decide +kernel⟩,
   ⟨loadS imgBytes [img0], by decide +kernel⟩,
   ⟨loadS [] [], by decide +kernel⟩,
   ⟨loadS imgBytes [], by decide +kernel⟩,
   ⟨req 0x2160#16 3#8 [2#8], { odS 0x2160#16 3#8 [2#8] with bays := State.reset.bays, ldr := { Loader.reset with unloadMask := 1#12, images := [img0] } }, by decide +kernel⟩,
   ⟨req 0x2160#16 3#8 [2#8], { odS 0x2160#16 3#8 [2#8] with ldr := { Loader.reset with unloadMask := 1#12, images := [img0] } }, by decide +kernel⟩,
   ⟨req 0x2170#16 1#8 (List.replicate 16 0#8), odS 0x2170#16 1#8 (List.replicate 16 0#8), by decide +kernel⟩,
   ⟨req 0x2170#16 1#8 (leBytes (1 + 2 ^ 16 + 1000 * 2 ^ 64 + 8 * 2 ^ 192) 32), { odS 0x2170#16 1#8 (leBytes (1 + 2 ^ 16 + 1000 * 2 ^ 64 + 8 * 2 ^ 192) 32) with bays := State.reset.bays, ldr := { Loader.reset with images := [img0] } }, by decide +kernel⟩⟩

/-- The hypotheses of `Obligations.ResetsKeepAndClear` can be met, clause by clause. -/
theorem witness_ResetsKeepAndClear :
    (∃ (q : OdReq) (s : State), odTaken 0x2100 1 (fun _ => true) s = some q) ∧
    (∃ (q : OdReq) (s : State), odTaken 0x2100 2 (fun _ => true) s = some q) ∧
    (∃ s : State, clocked s = true ∧ s.beat.edgeNow = true ∧ s.rst.linkDue = true ∧ 3 ≤ s.pwr.faulty) ∧
    (∃ s : State, clocked s = true ∧ s.beat.edgeNow = true ∧ s.rst.linkDue = true ∧ s.pwr.faulty < 3) ∧
    (∃ s : State, clocked s = true ∧ s.beat.edgeNow = true ∧ s.rst.baysDue ≠ 0#12) ∧
    (∃ (q : OdReq) (s : State), odTaken 0x2100 3 (fun _ => true) s = some q) :=
  ⟨⟨req 0x2100#16 1#8 [1#8], odS 0x2100#16 1#8 [1#8], by decide +kernel⟩,
   ⟨req 0x2100#16 2#8 [0xFF#8, 0x0F#8], odS 0x2100#16 2#8 [0xFF#8, 0x0F#8], by decide +kernel⟩,
   ⟨{ t0 with beat := { Beat.reset with edgeNow := true }, rst := { Resets.reset with linkDue := true }, pwr := { Power.reset with psFault := 7#6 } }, by decide +kernel⟩,
   ⟨{ t0 with beat := { Beat.reset with edgeNow := true }, rst := { Resets.reset with linkDue := true }, pwr := { Power.reset with psFault := 3#6 } }, by decide +kernel⟩,
   ⟨{ t0 with beat := { Beat.reset with edgeNow := true }, rst := { Resets.reset with baysDue := 0x801#12 }, pwr := { Power.reset with psFault := 0#6 } }, by decide +kernel⟩,
   ⟨req 0x2100#16 3#8 [0xFF#8, 0xFF#8, 0xFF#8], odS 0x2100#16 3#8 [0xFF#8, 0xFF#8, 0xFF#8], by decide +kernel⟩⟩

/-- The hypotheses of `Obligations.DeviceModes` can be met, clause by clause. -/
theorem witness_DeviceModes :
    (∃ (q : OdReq) (s : State), odTaken 0x3010 6 (fun _ => true) s = some q) ∧
    (∃ (q : OdReq) (s : State), odTaken 0x4010 1 (fun _ => true) s = some q) ∧
    (∃ (q : OdReq) (s : State), odTaken 0x4010 2 (fun _ => true) s = some q) ∧
    (∃ (q : OdReq) (s : State), odTaken 0x4020 1 (fun _ => true) s = some q) ∧
    (∃ (q : OdReq) (s : State), odTaken 0xA010 1 (fun _ => true) s = some q) :=
  ⟨⟨req 0x3010#16 6#8 [0x88#8, 0x13#8], odS 0x3010#16 6#8 [0x88#8, 0x13#8], by decide +kernel⟩,
   ⟨req 0x4010#16 1#8 [2#8], odS 0x4010#16 1#8 [2#8], by decide +kernel⟩,
   ⟨req 0x4010#16 2#8 [2#8], odS 0x4010#16 2#8 [2#8], by decide +kernel⟩,
   ⟨req 0x4020#16 1#8 (padTo 16 [1#8]), odS 0x4020#16 1#8 (padTo 16 [1#8]), by decide +kernel⟩,
   ⟨req 0xA010#16 1#8 [1#8], odS 0xA010#16 1#8 [1#8], by decide +kernel⟩⟩

/-- The hypotheses of `Obligations.LimitedWrites` can be met, clause by clause. -/
theorem witness_LimitedWrites :
    (∃ (c : Instr) (ix entry : Nat) (q : OdReq) (s : State), (c, ix, entry) ∈ ([(.odSecurityVersion, 0x9010, 1), (.odOwnerKey, 0x9020, 2), (.odTileRetire, 0x9030, 3), (.odDebugClose, 0x9040, 4)] : List (Instr × Nat × Nat)) ∧ odTaken ix 1 (fun _ => true) s = some q ∧ Sparse.wf (fun _ => 0#320) s.trust.journal = true ∧ freeRecord s.trust = some 0) ∧
    (∃ (c : Instr) (ix entry : Nat) (q : OdReq) (s : State), (c, ix, entry) ∈ ([(.odSecurityVersion, 0x9010, 1), (.odOwnerKey, 0x9020, 2), (.odTileRetire, 0x9030, 3), (.odDebugClose, 0x9040, 4)] : List (Instr × Nat × Nat)) ∧ odTaken ix 1 (fun _ => true) s = some q ∧ Sparse.wf (fun _ => 0#320) s.trust.journal = true ∧ freeRecord s.trust = some 0) ∧
    (∃ (c : Instr) (ix entry : Nat) (q : OdReq) (s : State), (c, ix, entry) ∈ ([(.odSecurityVersion, 0x9010, 1), (.odOwnerKey, 0x9020, 2), (.odTileRetire, 0x9030, 3), (.odDebugClose, 0x9040, 4)] : List (Instr × Nat × Nat)) ∧ odTaken ix 1 (fun _ => true) s = some q ∧ Sparse.wf (fun _ => 0#320) s.trust.journal = true ∧ freeRecord s.trust = some 0) ∧
    (∃ (c : Instr) (ix entry : Nat) (q : OdReq) (s : State), (c, ix, entry) ∈ ([(.odSecurityVersion, 0x9010, 1), (.odOwnerKey, 0x9020, 2), (.odTileRetire, 0x9030, 3), (.odDebugClose, 0x9040, 4)] : List (Instr × Nat × Nat)) ∧ odTaken ix 1 (fun _ => true) s = some q ∧ Sparse.wf (fun _ => 0#320) s.trust.journal = true ∧ freeRecord s.trust = some 0) ∧
    (∃ (w : Wlim) (ok : Bool) (s : State), s.trust.wlim = some w ∧ intentEnds w s = false ∧ w.pulse = false) ∧
    (∃ (w : Wlim) (s : State), intentEnds w s = true ∧ s.trust.wlim = some w ∧ journalRuns s = true) ∧
    (∃ (w : Wlim) (s : State), intentEnds w s = true ∧ s.trust.wlim = some w ∧ journalRuns s = false) ∧
    (∃ (w : Wlim) (s : State), pulseHeld s = true ∧ w.pulse = true ∧ s.pwr.st = .fail ∧ s.trust.wlim = some w ∧ w.intentDone = true) ∧
    (∃ (w : Wlim) (s : State), w.pulse = true ∧ s.pwr.st = .run ∧ s.trust.wlim = some w ∧ w.intentDone = true ∧ w.rcd < 96 ∧ 1 ≤ w.entry ∧ w.entry ≤ 4 ∧ recordAt s.trust w.rcd = recIntent w.entry w.value ∧ (∀ j : Nat, w.rcd < j → j < 96 → recordAt s.trust j = 0#320)) ∧
    (∃ (w : Wlim) (s : State), w.pulse = true ∧ s.pwr.st = .run ∧ s.trust.wlim = some w ∧ w.intentDone = true ∧ w.rcd < 96 ∧ 1 ≤ w.entry ∧ w.entry ≤ 4 ∧ recordAt s.trust w.rcd = recIntent w.entry w.value ∧ (∀ j : Nat, w.rcd < j → j < 96 → recordAt s.trust j = 0#320)) ∧
    (∃ (w : Wlim) (s : State), w.pulse = true ∧ s.pwr.st = .run ∧ s.trust.wlim = some w ∧ w.intentDone = true ∧ w.rcd < 96 ∧ 1 ≤ w.entry ∧ w.entry ≤ 4 ∧ recordAt s.trust w.rcd = recIntent w.entry w.value ∧ (∀ j : Nat, w.rcd < j → j < 96 → recordAt s.trust j = 0#320)) ∧
    (∃ (w : Wlim) (s : State), w.pulse = true ∧ s.pwr.st = .run ∧ s.trust.wlim = some w ∧ w.intentDone = true ∧ w.rcd < 96 ∧ 1 ≤ w.entry ∧ w.entry ≤ 4 ∧ recordAt s.trust w.rcd = recIntent w.entry w.value ∧ (∀ j : Nat, w.rcd < j → j < 96 → recordAt s.trust j = 0#320)) :=
  ⟨⟨.odSecurityVersion, 0x9010, 1, req 0x9010#16 1#8 [1#8], odS 0x9010#16 1#8 [1#8], by decide +kernel⟩,
   ⟨.odOwnerKey, 0x9020, 2, req 0x9020#16 1#8 (List.replicate 32 1#8), odS 0x9020#16 1#8 (List.replicate 32 1#8), by decide +kernel⟩,
   ⟨.odTileRetire, 0x9030, 3, req 0x9030#16 1#8 [1#8], odS 0x9030#16 1#8 [1#8], by decide +kernel⟩,
   ⟨.odDebugClose, 0x9040, 4, req 0x9040#16 1#8 [1#8], odS 0x9040#16 1#8 [1#8], by decide +kernel⟩,
   ⟨⟨req 0x9010#16 1#8 [1#8], 1, 1#256, 95, false, false⟩, true, trustS { Trust.reset with stage := .run, wlim := some ⟨req 0x9010#16 1#8 [1#8], 1, 1#256, 95, false, false⟩ }, by decide +kernel⟩,
   ⟨⟨req 0x9010#16 1#8 [1#8], 1, 1#256, 95, false, true⟩, trustS { Trust.reset with stage := .run, wlim := some ⟨req 0x9010#16 1#8 [1#8], 1, 1#256, 95, false, true⟩ }, by decide +kernel⟩,
   ⟨⟨req 0x9010#16 1#8 [1#8], 1, 1#256, 95, false, true⟩, { trustS { Trust.reset with stage := .run, wlim := some ⟨req 0x9010#16 1#8 [1#8], 1, 1#256, 95, false, true⟩ } with pwr := { Power.reset with st := .fail, regsOn := true, low := 20 } }, by decide +kernel⟩,
   ⟨⟨req 0x9010#16 1#8 [1#8], 1, 1#256, 95, true, true⟩, { trustS { Trust.reset with stage := .run, wlim := some ⟨req 0x9010#16 1#8 [1#8], 1, 1#256, 95, true, true⟩ } with pwr := { Power.reset with st := .fail, regsOn := true, low := 20 } }, by decide +kernel⟩,
   ⟨⟨req 0x9010#16 1#8 [1#8], 1, 1#256, 95, true, true⟩, trustS { Trust.reset with stage := .run, wlim := some ⟨req 0x9010#16 1#8 [1#8], 1, 1#256, 95, true, true⟩, journal := [(95, recIntent 1 1#256)] }, (by decide +kernel), (by decide +kernel), (by decide +kernel), (by decide +kernel), (by decide +kernel), (by decide +kernel), (by decide +kernel), (by decide +kernel), by intro j h1 h2; change 95 < j at h1; omega⟩,
   ⟨⟨req 0x9010#16 1#8 [1#8], 2, 1#256, 95, true, true⟩, trustS { Trust.reset with stage := .run, wlim := some ⟨req 0x9010#16 1#8 [1#8], 2, 1#256, 95, true, true⟩, journal := [(95, recIntent 2 1#256)] }, (by decide +kernel), (by decide +kernel), (by decide +kernel), (by decide +kernel), (by decide +kernel), (by decide +kernel), (by decide +kernel), (by decide +kernel), by intro j h1 h2; change 95 < j at h1; omega⟩,
   ⟨⟨req 0x9010#16 1#8 [1#8], 3, 1#256, 95, true, true⟩, trustS { Trust.reset with stage := .run, wlim := some ⟨req 0x9010#16 1#8 [1#8], 3, 1#256, 95, true, true⟩, journal := [(95, recIntent 3 1#256)] }, (by decide +kernel), (by decide +kernel), (by decide +kernel), (by decide +kernel), (by decide +kernel), (by decide +kernel), (by decide +kernel), (by decide +kernel), by intro j h1 h2; change 95 < j at h1; omega⟩,
   ⟨⟨req 0x9010#16 1#8 [1#8], 4, 1#256, 95, true, true⟩, trustS { Trust.reset with stage := .run, wlim := some ⟨req 0x9010#16 1#8 [1#8], 4, 1#256, 95, true, true⟩, journal := [(95, recIntent 4 1#256)] }, (by decide +kernel), (by decide +kernel), (by decide +kernel), (by decide +kernel), (by decide +kernel), (by decide +kernel), (by decide +kernel), (by decide +kernel), by intro j h1 h2; change 95 < j at h1; omega⟩⟩

/-- The hypotheses of `Obligations.BootAndFences` can be met, clause by clause. -/
theorem witness_BootAndFences :
    (∃ s : State, s.pwr.low ≠ 0 ∧ leftIncomplete s.trust = true) ∧
    (∃ s : State, s.pwr.st = .run ∧ s.trust.stage = .fuse ∧ (s.pwr.low = 0 ∨ leftIncomplete s.trust = false)) ∧
    (∃ s : State, s.pwr.st = .run ∧ s.trust.stage = .identity) ∧
    (∃ s : State, clocked s = true ∧ noReqs s = true ∧ s.trust.stage = .verify) ∧
    (∃ (acc : FwAccess) (s : State), s.pwr.st = .run ∧ stewardRuns s = true) ∧
    (∃ (a : Nat) (k : Fin 108) (s : State) (acc : FwAccess), s.pwr.st = .run ∧ stewardRuns s = true ∧ acc ∈ [FwAccess.readRing a, .readSecret, .clearMapBit k, .setMapBit k, .startImage, .reopenPolicy, .editGate]) ∧
    (∃ (a w n o : Nat) (v : Byte) (s : State), clocked s = true ∧ stewardRuns s = true ∧ memFree s = true ∧ spadAt a = some (n, o) ∧ loadDest s n o = true ∧ touches (spadBay a) (partWrites [a]) w = true ∧ (s.bay (spadBay a)).prot.bad.contains w = false) ∧
    (∃ s : State, s.pwr.st = .run) ∧
    (∃ (f : FuseField) (s : State), s.pwr.st = .run ∧ stewardRuns s = true) ∧
    (∃ (f : FuseField) (s : State), s.pwr.st = .run ∧ stewardRuns s = true) ∧
    (∃ (off : Nat) (ue : Bool) (s : State), s.pwr.st = .run ∧ stewardRuns s = true ∧ off < 0x400000) ∧
    (∃ (off : Nat) (ue : Bool) (s : State), s.pwr.st = .run ∧ stewardRuns s = true ∧ off < 0x400000) ∧
    (∃ (w : Nat) (s : State), clocked s = true ∧ stewardRuns s = true ∧ w ≤ min (s.pwr.ceiling.getD s.trust.fuses.ceilingW) s.trust.fuses.ceilingW) ∧
    (∃ (w : Nat) (s : State), clocked s = true ∧ stewardRuns s = true ∧ ¬ w ≤ min (s.pwr.ceiling.getD s.trust.fuses.ceilingW) s.trust.fuses.ceilingW) :=
  ⟨⟨{ trustS { Trust.reset with journal := [(0, recIntent 1 1#256)] } with pwr := { Power.reset with low := 1 } }, by decide +kernel⟩,
   ⟨t0, by decide +kernel⟩,
   ⟨trustS { Trust.reset with stage := .identity }, by decide +kernel⟩,
   ⟨trustS { Trust.reset with stage := .verify }, by decide +kernel⟩,
   ⟨.lowerVersion 0, trustS { Trust.reset with stage := .run }, by decide +kernel⟩,
   ⟨0, 107, trustS { Trust.reset with stage := .run }, .editGate, by decide +kernel⟩,
   ⟨0x200000000000, 0, 0, 0, 0xFF#8, { trustS { Trust.reset with stage := .run } with mem := (t0.store 0 (padTo 64 (List.replicate 6 0#8 ++ [1#8]) ++ [4#8, 1#8, 0#8, 0#8] ++ leBytes 0 12 ++ leBytes 64 8 ++ leBytes 0 8)).mem, ldr := { Loader.reset with loading := true, loadMask := 1#12 } }, by decide +kernel⟩,
   ⟨t0, by decide +kernel⟩,
   ⟨.seed, trustS { Trust.reset with stage := .run }, by decide +kernel⟩,
   ⟨.svn, trustS { Trust.reset with stage := .run }, by decide +kernel⟩,
   ⟨0x3FFFFF, true, trustS { Trust.reset with stage := .run }, by decide +kernel⟩,
   ⟨0, false, trustS { Trust.reset with stage := .run }, by decide +kernel⟩,
   ⟨0, trustS { Trust.reset with stage := .run }, by decide +kernel⟩,
   ⟨3201, trustS { Trust.reset with stage := .run }, by decide +kernel⟩⟩

/-- The hypotheses of `Obligations.BignumCommands` can be met, clause by clause. -/
theorem witness_BignumCommands :
    (∃ (c : Instr) (op : Nat) (x : BnArgs) (trng : Nat) (s : State), (c, op, trng) ∈ ([(.bnModmul x, 0x01, 0), (.bnModexp x, 0x02, 0), (.bnModinv x, 0x03, 0), (.bnPchk x, 0x08, 0), (.bnPmul x, 0x09, 0), (.bnPmulg x, 0x0A, 0), (.bnPadd x, 0x0B, 0), (.bnRands x trng, 0x0C, trng)] : List (Instr × Nat × Nat)) ∧ s.pwr.st = .run ∧ bnCerr s op x = 0) ∧
    (∃ (c : Instr) (op : Nat) (x : BnArgs) (trng : Nat) (s : State), (c, op, trng) ∈ ([(.bnModmul x, 0x01, 0), (.bnModexp x, 0x02, 0), (.bnModinv x, 0x03, 0), (.bnPchk x, 0x08, 0), (.bnPmul x, 0x09, 0), (.bnPmulg x, 0x0A, 0), (.bnPadd x, 0x0B, 0), (.bnRands x trng, 0x0C, trng)] : List (Instr × Nat × Nat)) ∧ s.pwr.st = .run ∧ bnCerr s op x ≠ 0) ∧
    (∃ (k : Fin 64) (len : BitVec 7) (s : State), s.pwr.st = .run ∧ (¬(s.bn.slots[k].st = .busy ∨ 64 < len.toNat ∨ (56 ≤ k.val ∧ len ≠ 0#7)))) ∧
    (∃ (k : Fin 64) (len : BitVec 7) (s : State), s.pwr.st = .run ∧ (56 ≤ k.val ∧ len ≠ 0#7)) ∧
    (∃ (k w : Fin 64) (v : BitVec 64) (s : State), s.pwr.st = .run ∧ Sparse.wf (fun _ => 0#64) s.bn.slots[k].words = true ∧ (s.bn.slots[k].ready = true ∧ k.val < 56 ∧ w.val < s.bn.slots[k].len)) ∧
    (∃ (k w : Fin 64) (v : BitVec 64) (s : State), s.pwr.st = .run ∧ Sparse.wf (fun _ => 0#64) s.bn.slots[k].words = true ∧ (¬(s.bn.slots[k].ready = true ∧ k.val < 56 ∧ w.val < s.bn.slots[k].len))) ∧
    (∃ (r : BnRun) (k : Fin 64) (n : Fin 512) (s : State) (c : Instr), s.pwr.st = .run ∧ s.bn.run = some r ∧ r.abort = none ∧ (c = .bnAbort ∨ (c = .bnUeAbort k n ∧ (bnRole r k).isSome = true) ∨ (c = .trngHealthFail ∧ r.op = 0x0C))) ∧
    (∃ (r : BnRun) (k : Fin 64) (n : Fin 512) (s : State) (c : Instr), s.pwr.st = .run ∧ s.bn.run = some r ∧ r.abort = none ∧ (c = .bnAbort ∨ (c = .bnUeAbort k n ∧ (bnRole r k).isSome = true) ∨ (c = .trngHealthFail ∧ r.op = 0x0C))) ∧
    (∃ (r : BnRun) (k : Fin 64) (n : Fin 512) (s : State) (c : Instr), s.pwr.st = .run ∧ s.bn.run = some r ∧ r.abort = none ∧ (c = .bnAbort ∨ (c = .bnUeAbort k n ∧ (bnRole r k).isSome = true) ∨ (c = .trngHealthFail ∧ r.op = 0x0C))) ∧
    (∃ (w : BitVec 64) (v : W32) (i k : Fin 64) (trng : Nat) (s : State), s.pwr.st = .run) :=
  ⟨⟨.bnModmul ⟨10, 2, 1, 0, 3, 0#2, 0⟩, 0x01, ⟨10, 2, 1, 0, 3, 0#2, 0⟩, 0, bnS ({ Bn.reset with slots := Vector.ofFn (fun i => [(⟨.loaded, 1, [(0, 5#64)]⟩ : BnSlot), (⟨.loaded, 1, [(0, 6#64)]⟩ : BnSlot), (⟨.loaded, 1, [(0, 7#64)]⟩ : BnSlot)].getD i.val BnSlot.reset) }), by decide +kernel⟩,
   ⟨.bnModmul ⟨10, 2, 1, 0, 3, 0#2, 0⟩, 0x01, ⟨10, 2, 1, 0, 3, 0#2, 0⟩, 0, t0, by decide +kernel⟩,
   ⟨55, 64#7, t0, by decide +kernel⟩,
   ⟨56, 1#7, t0, by decide +kernel⟩,
   ⟨0, 0, 9#64, bnS ({ Bn.reset with slots := Vector.ofFn (fun i => [(⟨.loaded, 1, [(0, 5#64)]⟩ : BnSlot)].getD i.val BnSlot.reset) }), by decide +kernel⟩,
   ⟨0, 1, 9#64, bnS ({ Bn.reset with slots := Vector.ofFn (fun i => [(⟨.loaded, 1, [(0, 5#64)]⟩ : BnSlot)].getD i.val BnSlot.reset) }), by decide +kernel⟩,
   ⟨⟨0x01, ⟨10, 2, 1, 0, 3, 0#2, 0⟩, 0, [], none⟩, 0, 0, bnS { { Bn.reset with slots := Vector.ofFn (fun i => [(⟨.loaded, 1, [(0, 5#64)]⟩ : BnSlot), (⟨.loaded, 1, [(0, 6#64)]⟩ : BnSlot), (⟨.loaded, 1, [(0, 7#64)]⟩ : BnSlot)].getD i.val BnSlot.reset) } with run := some ⟨0x01, ⟨10, 2, 1, 0, 3, 0#2, 0⟩, 0, [], none⟩ }, .bnAbort, by decide +kernel⟩,
   ⟨⟨0x01, ⟨10, 2, 1, 0, 3, 0#2, 0⟩, 0, [], none⟩, 0, 511, bnS { { Bn.reset with slots := Vector.ofFn (fun i => [(⟨.loaded, 1, [(0, 5#64)]⟩ : BnSlot), (⟨.loaded, 1, [(0, 6#64)]⟩ : BnSlot), (⟨.loaded, 1, [(0, 7#64)]⟩ : BnSlot)].getD i.val BnSlot.reset) } with run := some ⟨0x01, ⟨10, 2, 1, 0, 3, 0#2, 0⟩, 0, [], none⟩ }, .bnUeAbort 0 511, by decide +kernel⟩,
   ⟨⟨0x0C, ⟨10, 2, 1, 0, 3, 0#2, 0⟩, 0, [], none⟩, 0, 0, bnS { { Bn.reset with slots := Vector.ofFn (fun i => [(⟨.loaded, 1, [(0, 5#64)]⟩ : BnSlot), (⟨.loaded, 1, [(0, 6#64)]⟩ : BnSlot), (⟨.loaded, 1, [(0, 7#64)]⟩ : BnSlot)].getD i.val BnSlot.reset) } with run := some ⟨0x0C, ⟨10, 2, 1, 0, 3, 0#2, 0⟩, 0, [], none⟩ }, .trngHealthFail, by decide +kernel⟩,
   ⟨0#64, 0#32, 63, 0, 0, trustS { Trust.reset with stage := .run }, by decide +kernel⟩⟩

/-- The hypotheses of `Obligations.BignumResults` can be met, clause by clause. -/
theorem witness_BignumResults :
    (∃ (r : BnRun) (v n : Nat) (s : State), s.pwr.st = .run ∧ s.bn.run = some r ∧ r.abort = none ∧ bnBadSource s r = none ∧ bnOutcome s r = .inr (v, n)) ∧
    (∃ (r : BnRun) (code opnd : Nat) (k : Fin 64) (s : State), s.pwr.st = .run ∧ s.bn.run = some r ∧ r.abort = none ∧ bnBadSource s r = none ∧ bnOutcome s r = .inl (code, some (k, opnd))) ∧
    (∃ (r : BnRun) (o : Nat) (e : Fin 64 × Nat) (s : State), s.pwr.st = .run ∧ s.bn.run = some r ∧ r.abort = none ∧ bnBadSource s r = some (o, e)) ∧
    (∃ (r : BnRun) (s : State), s.pwr.st = .run ∧ s.bn.run = some r ∧ r.abort = none ∧ bnBadSource s r = none ∧ r.op = 0x01 ∧ (s.bn.slots[r.x.c].val % 2 = 1 ∧ 1 < s.bn.slots[r.x.c].val) ∧ (2 ≤ s.bn.slots[r.x.a].val ∧ s.bn.slots[r.x.a].val < s.bn.slots[r.x.c].val) ∧ (2 ≤ s.bn.slots[r.x.b].val ∧ s.bn.slots[r.x.b].val < s.bn.slots[r.x.c].val)) ∧
    (∃ (r : BnRun) (s : State), s.pwr.st = .run ∧ s.bn.run = some r ∧ r.abort = none ∧ bnBadSource s r = none ∧ r.op = 0x01 ∧ (s.bn.slots[r.x.c].val % 2 = 0 ∧ 0 < s.bn.slots[r.x.c].val)) :=
  ⟨⟨⟨0x01, ⟨10, 2, 1, 0, 3, 0#2, 0⟩, 0, [], none⟩, 2, 1, bnS { { Bn.reset with slots := Vector.ofFn (fun i => [(⟨.loaded, 1, [(0, 5#64)]⟩ : BnSlot), (⟨.loaded, 1, [(0, 6#64)]⟩ : BnSlot), (⟨.loaded, 1, [(0, 7#64)]⟩ : BnSlot)].getD i.val BnSlot.reset) } with run := some ⟨0x01, ⟨10, 2, 1, 0, 3, 0#2, 0⟩, 0, [], none⟩ }, by decide +kernel⟩,
   ⟨⟨0x01, ⟨10, 2, 1, 0, 3, 0#2, 0⟩, 0, [], none⟩, 4, 2, 2, bnS { { Bn.reset with slots := Vector.ofFn (fun i => [(⟨.loaded, 1, [(0, 5#64)]⟩ : BnSlot), (⟨.loaded, 1, [(0, 6#64)]⟩ : BnSlot), (⟨.loaded, 1, [(0, 8#64)]⟩ : BnSlot)].getD i.val BnSlot.reset) } with run := some ⟨0x01, ⟨10, 2, 1, 0, 3, 0#2, 0⟩, 0, [], none⟩ }, by decide +kernel⟩,
   ⟨⟨0x01, ⟨10, 2, 1, 0, 3, 0#2, 0⟩, 0, [], none⟩, 0, (0, 0), { bnS { { Bn.reset with slots := Vector.ofFn (fun i => [(⟨.loaded, 1, [(0, 5#64)]⟩ : BnSlot), (⟨.loaded, 1, [(0, 6#64)]⟩ : BnSlot), (⟨.loaded, 1, [(0, 7#64)]⟩ : BnSlot)].getD i.val BnSlot.reset) } with run := some ⟨0x01, ⟨10, 2, 1, 0, 3, 0#2, 0⟩, 0, [], none⟩ } with ms := { t0.ms with dieBad := [(0x23, 0)] } }, by decide +kernel⟩,
   ⟨⟨0x01, ⟨10, 2, 1, 0, 3, 0#2, 0⟩, 0, [], none⟩, bnS { { Bn.reset with slots := Vector.ofFn (fun i => [(⟨.loaded, 1, [(0, 5#64)]⟩ : BnSlot), (⟨.loaded, 1, [(0, 6#64)]⟩ : BnSlot), (⟨.loaded, 1, [(0, 7#64)]⟩ : BnSlot)].getD i.val BnSlot.reset) } with run := some ⟨0x01, ⟨10, 2, 1, 0, 3, 0#2, 0⟩, 0, [], none⟩ }, by decide +kernel⟩,
   ⟨⟨0x01, ⟨10, 2, 1, 0, 3, 0#2, 0⟩, 0, [], none⟩, bnS { { Bn.reset with slots := Vector.ofFn (fun i => [(⟨.loaded, 1, [(0, 5#64)]⟩ : BnSlot), (⟨.loaded, 1, [(0, 6#64)]⟩ : BnSlot), (⟨.loaded, 1, [(0, 8#64)]⟩ : BnSlot)].getD i.val BnSlot.reset) } with run := some ⟨0x01, ⟨10, 2, 1, 0, 3, 0#2, 0⟩, 0, [], none⟩ }, by decide +kernel⟩⟩

/-- The hypotheses of `Obligations.TestAccess` can be met, clause by clause. -/
theorem witness_TestAccess :
    (∃ (refclk : Bool) (load : Option (BitVec 21)) (code : Byte) (dr : Option (BitVec 128)) (addr : BitVec 48) (data : BitVec 64) (s : State) (c : Instr), (s.pwr.st ≠ .run ∨ s.tap.trstLow = true) ∧ c ∈ [Instr.tapExtest refclk load, .tapSamplePreload refclk load, .tapIdcode, .tapBypass code, .tapIntscan, .tapMemacc dr, .memaccRead addr, .memaccWrite addr data]) ∧
    (∃ (refclk : Bool) (load : Option (BitVec 21)) (code : Byte) (dr : Option (BitVec 128)) (addr : BitVec 48) (data : BitVec 64) (s : State) (c : Instr), (s.pwr.st ≠ .run ∨ s.tap.trstLow = true) ∧ c ∈ [Instr.tapExtest refclk load, .tapSamplePreload refclk load, .tapIdcode, .tapBypass code, .tapIntscan, .tapMemacc dr, .memaccRead addr, .memaccWrite addr data]) ∧
    (∃ (refclk : Bool) (code : Byte) (s : State) (c : Instr) (k : Byte), s.pwr.st = .run ∧ s.tap.trstLow = false ∧ (c, k) ∈ ([(.tapExtest refclk none, 0x00#8), (.tapIdcode, 0x02#8), (.tapBypass code, code), (.tapIntscan, 0x10#8), (.tapMemacc none, 0x11#8)] : List (Instr × Byte))) ∧
    (∃ (refclk : Bool) (v : BitVec 21) (s : State), s.pwr.st = .run ∧ s.tap.trstLow = false) ∧
    (∃ (refclk : Bool) (load : Option (BitVec 21)) (s : State), s.pwr.st = .run ∧ s.tap.trstLow = false) ∧
    (∃ s : State, tapNow s ≠ .extest) ∧
    (∃ s : State, s.pwr.st ≠ .run) ∧
    (∃ (ev : CodeEvent) (s : State), s.tap.maCmd = 1#8) ∧
    (∃ (addr : BitVec 48) (data : BitVec 64) (v : BitVec 128) (s : State), s.pwr.st = .run ∧ s.tap.trstLow = false ∧ tapNow s = .memacc) ∧
    (∃ (ev : CodeEvent) (s : State), memaccYields s.tap.maAddr.toNat s = true) ∧
    (∃ s : State, clocked s = true ∧ memFree s = true ∧ s.tap.maSts = 1#2 ∧ memaccReaches s.tap.maAddr.toNat = false) ∧
    (∃ s : State, clocked s = true ∧ memFree s = true ∧ s.tap.maSts = 1#2 ∧ memaccReaches s.tap.maAddr.toNat = true ∧ s.tap.maCmd = 1#8) ∧
    (∃ s : State, clocked s = true ∧ memFree s = true ∧ s.tap.maSts = 1#2 ∧ memaccReaches s.tap.maAddr.toNat = true ∧ s.tap.maCmd ≠ 1#8) :=
  ⟨⟨true, none, 0xAA#8, none, 0#48, 0#64, { t0 with tap := { t0.tap with trstLow := true } }, .memaccRead 0#48, .inr (by decide +kernel), by decide +kernel⟩,
   ⟨true, none, 0xAA#8, none, 0#48, 0#64, pwrS { Power.reset with st := .off }, .tapIntscan, .inl (by decide +kernel), by decide +kernel⟩,
   ⟨true, 0xAA#8, t0, .tapBypass 0xAA#8, 0xAA#8, by decide +kernel⟩,
   ⟨true, 0x1FFFFF#21, t0, by decide +kernel⟩,
   ⟨true, some 0#21, t0, by decide +kernel⟩,
   ⟨t0, by decide +kernel⟩,
   ⟨pwrS { Power.reset with st := .off }, by decide +kernel⟩,
   ⟨.clean, { t0 with tap := { t0.tap with maSts := 1#2, maCmd := 1#8 } }, by decide +kernel⟩,
   ⟨0xFFFFFFFFFFFF#48, 0#64, 0#128, { t0 with tap := { t0.tap with ir := 0x11#8 }, trust := { t0.trust with fuses := { t0.trust.fuses with closed := false } } }, by decide +kernel⟩,
   ⟨.clean, { t0 with tap := { t0.tap with maSts := 1#2 }, stk := t0.stk.set 0 { Stack.reset with reqs := [⟨1, 0, 0, 32, none, false, none, 0⟩] } }, by decide +kernel⟩,
   ⟨{ t0 with tap := { t0.tap with maSts := 1#2, maAddr := 0xFFFFFFFFFFF8#48, maCmd := 1#8 } }, by decide +kernel⟩,
   ⟨{ t0 with tap := { t0.tap with maSts := 1#2, maAddr := 0#48, maCmd := 1#8 } }, by decide +kernel⟩,
   ⟨{ t0 with tap := { t0.tap with maSts := 1#2, maAddr := 0#48, maCmd := 2#8 } }, by decide +kernel⟩⟩

/-- The hypotheses of `Obligations.StepRunsCommand` can be met, clause by clause. -/
theorem witness_StepRunsCommand :
    (∃ (c : Instr) (r : List Instr) (s : State), s.pending = c :: r) ∧
    (∃ s : State, s.pending = []) :=
  ⟨⟨.odBeatFree, [], { t0 with pending := [.odBeatFree] }, by decide +kernel⟩,
   ⟨t0, by decide +kernel⟩⟩

/-- The hypotheses of `Obligations.MemoryKept` can be met, clause by clause. -/
theorem witness_MemoryKept :
    ∃ s t : State, MemInv s ∧ step s = .next t :=
  ⟨State.reset, tick State.reset, rfl, rfl⟩

/-- The hypotheses of `Obligations.ClocksKept` can be met, clause by clause. -/
theorem witness_ClocksKept :
    ∃ s t : State, ClockInv s ∧ RaiseInv s ∧ step s = .next t :=
  ⟨State.reset, tick State.reset, (by unfold ClockInv; decide +kernel), (by unfold RaiseInv; decide +kernel), rfl⟩

end Sys2Proof.Tests

end
end

section
/-! PROOFS. The load of a table and its refusal (R137, R139). -/

namespace Sys2Proof.Proofs.Tables

open Sys2Proof Sys2Proof.Machine Sys2Proof.Laws.State Sys2Proof.Laws.Ops

variable {s t u : State} {b : Bay} {st : Strm}

/-! ### Single bits and local flags (R187) -/

theorem getLsbD_setBit {n i j : Nat} {m : BitVec n} {v : Bool} (hj : j < n) :
    (setBit m i v).getLsbD j = if j = i then v else m.getLsbD j := by
  by_cases hji : j = i
  · subst hji
    cases v <;> simp [setBit, hj]
  · cases v <;> simp [setBit, hj, hji]

theorem getLsbD_setFlag {x : Bays} {f g : LFlag} {v : Bool} :
    (x.setFlag g v).flags.getLsbD f = if f = g then v else x.flags.getLsbD f := by
  rw [Bays.setFlag, getLsbD_setBit f.isLt]
  simp only [Fin.ext_iff]

theorem flagOf_putFlag {f g : LFlag} {v : Bool} : flagOf b f (putFlag b g v s) = if f = g then v else flagOf b f s := by
  rw [flagOf, putFlag, bay_updBay]
  exact getLsbD_setFlag

/-! ### Frames of updates of one bay -/

theorem onlyBay_trans (h : onlyBay b s t) (g : onlyBay b t u) : onlyBay b s u := by
  obtain ⟨hst, hbay⟩ := h
  obtain ⟨htu, gbay⟩ := g
  refine ⟨?_, fun c hc => (gbay c hc).trans (hbay c hc)⟩
  rw [htu, hst]

theorem onlyBay_putFlag {f : LFlag} {v : Bool} : onlyBay b s (putFlag b f v s) := onlyBay_updBay

theorem onlyBay_updTbl {f : Tbl → Tbl} : onlyBay b s (updTbl b f s) := onlyBay_updBay

theorem onlyBay_countIssue : onlyBay b s (countIssue b s) := onlyBay_updBay

theorem onlyBay_retire : onlyBay b s (retire b st s) := onlyStrm_retire.1

/-! ### What each update leaves of the tables, the flags and the streams -/

@[simp] theorem tbl_retire : ((retire b st s).bay b).tbl = (s.bay b).tbl := by simp [retire, State.updStrm]

@[simp] theorem tbl_putFlag {f : LFlag} {v : Bool} : ((putFlag b f v s).bay b).tbl = (s.bay b).tbl := by
  simp [putFlag, Bays.setFlag]

@[simp] theorem tbl_updTbl {f : Tbl → Tbl} : ((updTbl b f s).bay b).tbl = f (s.bay b).tbl := by simp [updTbl]

@[simp] theorem tbl_countIssue : ((countIssue b s).bay b).tbl = (s.bay b).tbl := by simp [countIssue]

@[simp] theorem flagOf_retire {f : LFlag} : flagOf b f (retire b st s) = flagOf b f s := by
  simp [flagOf, retire, State.updStrm]

@[simp] theorem flagOf_updTbl {f : LFlag} {g : Tbl → Tbl} : flagOf b f (updTbl b g s) = flagOf b f s := by
  simp [flagOf, updTbl]

@[simp] theorem strm_putFlag {f : LFlag} {v : Bool} : (putFlag b f v s).strm b st = s.strm b st :=
  strm_updBay.trans strm_flags

@[simp] theorem strm_updTbl {f : Tbl → Tbl} : (updTbl b f s).strm b st = s.strm b st := by
  cases st <;> exact strm_updBay

@[simp] theorem strm_countIssue : (countIssue b s).strm b st = s.strm b st := by
  cases st <;> exact strm_updBay

theorem strm_retire_ne {r : Strm} (h : r ≠ st) : (retire b st s).strm b r = s.strm b r := strm_updStrm_ne (.inr h)

@[simp] theorem bay_countFault {code bay unit : Nat} : (countFault code bay unit s).bay b = s.bay b := rfl

@[simp] theorem flagOf_countFault {f : LFlag} {code bay unit : Nat} :
    flagOf b f (countFault code bay unit s) = flagOf b f s := rfl

/-! ### TBL.LD -/

theorem unitRead_of_unitDesc {dx : Dix} {d : Desc} {k : Desc → State → State} (hbad : descBad b [dx] s = none)
    (hd : unitDesc b dx s = some d) : unitRead b dx k s = k d s := by
  simp [unitRead, descRead, hbad, hd]

/-- A TBL.LD that may issue, names a usable descriptor and finds room comes to `startTbl` (R137). -/
theorem exec_tblLd_ready {bank : Bool} {slot : Fin 16} {fd : LFlag} {dx : Dix} {d : Desc}
    (hm : mayIssue b .x (.tblLd b bank slot fd dx) s = true) (hbad : descBad b [dx] s = none)
    (hd : unitDesc b dx s = some d) (hroom : (s.bay b).tbl.loads.length < 4) :
    exec (.tblLd b bank slot fd dx) s = .next (startTbl b bank slot fd d s) := by
  change execTblLd b bank slot fd dx s = _
  rw [execTblLd, issue_ready hm free_nil, if_neg (by omega), unitRead_of_unitDesc hbad hd]

/-- The state a refused TBL.LD leaves: the fault counted, REF and the flag set, the X-stream past it (R139). -/
def tblRefused (b : Bay) (fd : LFlag) (s : State) : State :=
  retire b .x (putFlag b fd true (updTbl b (fun t => { t with ref := true }) (countFault 0x28 b (strmNo .x) s)))

/-- The state an accepted TBL.LD leaves: REF clear, the load `e` behind those in flight, the X-stream past it (R139). -/
def tblStarted (b : Bay) (e : TblLoad) (s : State) : State :=
  retire b .x (countIssue b (updTbl b (fun t => { t with ref := false, loads := t.loads ++ [e] }) s))

theorem startTbl_active {slot : Fin 16} {fd : LFlag} {d : Desc} :
    startTbl b (s.bay b).tbl.act slot fd d s = tblRefused b fd s := if_pos rfl

theorem startTbl_inactive {slot : Fin 16} {fd : LFlag} {d : Desc} :
    startTbl b (!(s.bay b).tbl.act) slot fd d s =
      tblStarted b ⟨!(s.bay b).tbl.act, slot, fd, d, (s.bay b).issued, (s.strm b .x).pc⟩ s :=
  if_neg (Bool.self_ne_not _)

theorem tblRefused_frame {fd : LFlag} :
    tblRefused b fd s = { s with bays := (tblRefused b fd s).bays, faults := (tblRefused b fd s).faults } := rfl

theorem faults_tblRefused {fd : LFlag} : (tblRefused b fd s).faults = (countFault 0x28 b.val 1 s).faults := rfl

theorem bay_tblRefused_ne {fd : LFlag} {c : Bay} (h : c ≠ b) : (tblRefused b fd s).bay c = s.bay c := by
  have hframe : onlyBay b (countFault 0x28 b (strmNo .x) s) (tblRefused b fd s) :=
    onlyBay_trans onlyBay_updTbl (onlyBay_trans onlyBay_putFlag onlyBay_retire)
  exact hframe.2 c h

theorem onlyBay_tblStarted {e : TblLoad} : onlyBay b s (tblStarted b e s) :=
  onlyBay_trans onlyBay_updTbl (onlyBay_trans onlyBay_countIssue onlyBay_retire)

theorem tbl_tblRefused {fd : LFlag} : ((tblRefused b fd s).bay b).tbl = { (s.bay b).tbl with ref := true } := by
  simp [tblRefused]

theorem flagOf_tblRefused {f fd : LFlag} : flagOf b f (tblRefused b fd s) = if f = fd then true else flagOf b f s := by
  simp [tblRefused, flagOf_putFlag]

theorem strm_x_tblRefused {fd : LFlag} : (tblRefused b fd s).strm b .x = (s.strm b .x).next := by
  simp [tblRefused, strm_retire]

theorem strm_a_tblRefused {fd : LFlag} : (tblRefused b fd s).strm b .a = s.strm b .a := by
  simp [tblRefused, strm_retire_ne (show Strm.a ≠ .x by decide)]

theorem tbl_tblStarted {e : TblLoad} : ((tblStarted b e s).bay b).tbl =
    { (s.bay b).tbl with ref := false, loads := (s.bay b).tbl.loads ++ [e] } := by
  simp [tblStarted]

theorem strm_x_tblStarted {e : TblLoad} : (tblStarted b e s).strm b .x = (s.strm b .x).next := by
  simp [tblStarted, strm_retire]

/-- Settles O23: with the guards met a TBL.LD leaves `tblRefused` for the active bank and `tblStarted` for the other. -/
theorem tableActive : Obligations.TableActive := by
  unfold Obligations.TableActive
  constructor
  · intro b slot fd dx d s hm hbad hd hroom
    exact ⟨_, (exec_tblLd_ready hm hbad hd hroom).trans (congrArg _ startTbl_active), tblRefused_frame,
      fun _ hc => bay_tblRefused_ne hc, faults_tblRefused, tbl_tblRefused, flagOf_tblRefused.trans (if_pos rfl),
      fun _ hf => flagOf_tblRefused.trans (if_neg hf), strm_x_tblRefused, strm_a_tblRefused⟩
  · intro b slot fd dx d s hm hbad hd hroom
    exact ⟨_, (exec_tblLd_ready hm hbad hd hroom).trans (congrArg _ startTbl_inactive), onlyBay_tblStarted,
      tbl_tblStarted, strm_x_tblStarted⟩

end Sys2Proof.Proofs.Tables
end

section
/-! PROOFS. The registers of the vector engine, the start of a register instruction, and the integer lanes (R141, R142, R147, R152, R154). -/

namespace Sys2Proof.Proofs.VectorEngine

open Sys2Proof Sys2Proof.Machine Sys2Proof.Laws.State Sys2Proof.Laws.Ops Sys2Proof.Proofs.Tables

variable {s : State} {b : Bay} {x : Vec} {v vd va : VReg} {pg : PReg} {i : Nat}

/-! ### Registers as lists of lanes (R141) -/

theorem getList_eq_map {α : Type} {d : Nat → α} {m : Sparse α} {k n : Nat} :
    Sparse.getList d m k n = (List.range' k n).map (Sparse.get d m) := by
  induction n generalizing k with
  | zero => rfl
  | succ n ih => rw [Sparse.getList, ih, List.range'_succ, List.map_cons]

@[simp] theorem length_lanes : (x.lanes v).length = 512 := by
  rw [Vec.lanes, getList_eq_map, List.length_map, List.length_range']

@[simp] theorem getElem_lanes (h : i < (x.lanes v).length) :
    (x.lanes v)[i] = Sparse.get (fun _ => 0#32) x.vregs[v] i := by
  simp only [Vec.lanes, getList_eq_map, List.getElem_map, List.getElem_range', Nat.zero_add, Nat.one_mul]

/-- Storing only the nonzero lanes of a list, numbered from `k`, loses none of them. -/
theorem get_nonzero_lanes {l : List W32} {k : Nat} :
    Sparse.get (fun _ => 0#32) (((l.zipIdx k).filter (fun p => p.1 != 0#32)).map (fun p => (p.2, p.1))) i =
      if i < k then 0#32 else l.getD (i - k) 0#32 := by
  induction l generalizing k with
  | nil => simp [Sparse.get]
  | cons w l ih =>
    have hlater : Sparse.get (fun _ => 0#32)
        (((l.zipIdx (k + 1)).filter (fun p => p.1 != 0#32)).map (fun p => (p.2, p.1))) i =
          if i ≤ k then 0#32 else (w :: l).getD (i - k) 0#32 := by
      rw [ih]
      by_cases h : i ≤ k
      · simp [h, show i < k + 1 by omega]
      · obtain ⟨n, rfl⟩ : ∃ n, i = k + 1 + n := ⟨i - (k + 1), by omega⟩
        simp [h, show k + 1 + n - k = n + 1 by omega]
    by_cases hw : w = 0#32
    · subst hw
      rw [List.zipIdx_cons, List.filter_cons_of_neg (by simp), hlater]
      rcases Nat.lt_trichotomy i k with h | rfl | h
      · simp [h, Nat.le_of_lt h]
      · simp
      · simp [Nat.not_le.2 h, Nat.not_lt.2 (Nat.le_of_lt h)]
    · rw [List.zipIdx_cons, List.filter_cons_of_pos (by simpa using hw), List.map_cons, Sparse.get, hlater]
      rcases Nat.lt_trichotomy i k with h | rfl | h
      · simp [h, Nat.le_of_lt h, Nat.ne_of_gt h]
      · simp
      · simp [Nat.not_le.2 h, Nat.not_lt.2 (Nat.le_of_lt h), Nat.ne_of_lt h]

theorem get_ofLanes {l : List W32} : Sparse.get (fun _ => 0#32) (ofLanes l) i = l.getD i 0#32 :=
  get_nonzero_lanes

/-- Operand B of one lane: the register's lane, or the counter's value in every lane (R146). -/
def operandB (x : Vec) (y : VB) (i : Nat) : W32 :=
  match y with
  | .reg v => Sparse.get (fun _ => 0#32) x.vregs[v] i
  | .val w => w

@[simp] theorem length_opB {y : VB} : (x.opB y).length = 512 := by
  cases y with
  | reg v => exact length_lanes
  | val w => exact List.length_replicate

@[simp] theorem getElem_opB {y : VB} (h : i < (x.opB y).length) : (x.opB y)[i] = operandB x y i := by
  cases y with
  | reg v => exact getElem_lanes h
  | val w => exact List.getElem_replicate h

/-! ### Writes under a predicate, and the overflow bit (R142, R152) -/

/-- P0 makes every lane active (R141). -/
theorem getLsbD_pred (h : i < 512) : (x.pred pg).getLsbD i = true ↔ pg = 0 ∨ (x.preds[pg]).getLsbD i = true := by
  by_cases hp : pg = 0
  · simp only [Vec.pred, hp, if_true, BitVec.getLsbD_allOnes, h, decide_true, true_or]
  · simp only [Vec.pred, hp, if_false, false_or]

theorem get_write {l : List W32} (hl : l.length = 512) (h : i < 512) :
    Sparse.get (fun _ => 0#32) (x.write pg vd l).vregs[vd] i =
      if (x.pred pg).getLsbD i = true then l[i] else Sparse.get (fun _ => 0#32) x.vregs[vd] i := by
  simp [Vec.write, Vec.setReg, get_ofLanes, hl, h]

theorem vregs_write_ne {l : List W32} (h : v ≠ vd) : (x.write pg vd l).vregs[v] = x.vregs[v] := by
  have hne : vd.val ≠ v.val := fun e => h (Fin.ext e.symm)
  simp [Vec.write, Vec.setReg, hne]

theorem ovf_over {l : List Bool} : (x.over pg l).ovf = true ↔
    x.ovf = true ∨ ∃ i, ∃ h : i < l.length, l[i] = true ∧ (x.pred pg).getLsbD i = true := by
  simp only [Vec.over, Bool.or_eq_true, List.any_eq_true, Bool.and_eq_true, List.exists_mem_zipIdx, Nat.zero_add]

/-! ### One integer lane (R147) -/

/-- The exact sum, difference or product of two lanes; VE.MULHU alone reads them unsigned (R147). -/
def exactLane (op : VAlu) (a c : W32) : Int :=
  match op with
  | .add => a.toInt + c.toInt
  | .sub => a.toInt - c.toInt
  | .mulhu => (a.toNat * c.toNat : Nat)
  | _ => a.toInt * c.toInt

/-- VE.MULH and VE.MULHU: bits [63:32] of the product are the result (R147). -/
abbrev TakesHigh (op : VAlu) : Prop := op = .mulh ∨ op = .mulhu

theorem ofInt_toInt_sub {n : Nat} {a c : BitVec n} : BitVec.ofInt n (a.toInt - c.toInt) = a - c :=
  BitVec.eq_of_toInt_eq (by rw [BitVec.toInt_ofInt, BitVec.toInt_sub])

theorem outside32_iff {n : Int} : outside32 n = true ↔ n < -2147483648 ∨ 2147483647 < n := by simp [outside32]

section IntegerOps

variable {op : VAlu} {a c : W32}

/-- The high half of the exact product; no overflow. -/
theorem aluLane_high (h : TakesHigh op) : aluLane op a c = (BitVec.ofInt 32 (exactLane op a c / 2 ^ 32), false) := by
  rcases h with rfl | rfl
  · rfl
  · have hnat : exactLane .mulhu a c / 2 ^ 32 = (a.toNat * c.toNat / 2 ^ 32 : Nat) := rfl
    rw [hnat, BitVec.ofInt_natCast]
    rfl

/-- The exact result modulo 2^32, and an overflow when I32 does not hold it. -/
theorem aluLane_low (h : op ∈ [VAlu.add, .sub, .mull]) :
    aluLane op a c = (BitVec.ofInt 32 (exactLane op a c), outside32 (exactLane op a c)) := by
  simp only [List.mem_cons, List.not_mem_nil, or_false] at h
  rcases h with rfl | rfl | rfl
  · simp only [aluLane, exactLane, BitVec.ofInt_add, BitVec.ofInt_toInt]
  · simp only [aluLane, exactLane, ofInt_toInt_sub]
  · simp only [aluLane, exactLane, BitVec.ofInt_mul, BitVec.ofInt_toInt]

variable (hop : op ∈ [VAlu.add, .sub, .mull, .mulh, .mulhu])
include hop

theorem takesHigh_or_low : TakesHigh op ∨ ¬ TakesHigh op ∧ op ∈ [VAlu.add, .sub, .mull] := by
  revert op
  decide

theorem aluLane_fst : (aluLane op a c).1 =
    if TakesHigh op then BitVec.ofInt 32 (exactLane op a c / 2 ^ 32) else BitVec.ofInt 32 (exactLane op a c) := by
  rcases takesHigh_or_low hop with hhigh | ⟨hnot, hlow⟩
  · rw [aluLane_high hhigh, if_pos hhigh]
  · rw [aluLane_low hlow, if_neg hnot]

theorem aluLane_snd : (aluLane op a c).2 = true ↔
    ¬ TakesHigh op ∧ (exactLane op a c < -2147483648 ∨ 2147483647 < exactLane op a c) := by
  rcases takesHigh_or_low hop with hhigh | ⟨hnot, hlow⟩
  · simp only [aluLane_high hhigh, hhigh, Bool.false_eq_true, not_true_eq_false, false_and]
  · simp only [aluLane_low hlow, outside32_iff, hnot, not_false_eq_true, true_and]

end IntegerOps

/-! ### The registers and the overflow bit after a VAlu instruction (R142, R147, R152) -/

/-- Result and overflow of lane `i`, before the predicate is applied. -/
def laneResult (x : Vec) (op : VAlu) (va : VReg) (y : VB) (i : Nat) : W32 × Bool :=
  aluLane op (Sparse.get (fun _ => 0#32) x.vregs[va] i) (operandB x y i)

/-- The exact result of lane `i`. -/
def exactAt (x : Vec) (op : VAlu) (va : VReg) (y : VB) (i : Nat) : Int :=
  exactLane op (Sparse.get (fun _ => 0#32) x.vregs[va] i) (operandB x y i)

section Apply

variable {op : VAlu} {y : VB} {f : Nat → W32}

theorem apply_alu : x.apply (.alu op vd va y pg) f =
    x.result pg vd (lanes2 (aluLane op) (x.lanes va) (x.opB y)) := rfl

theorem length_lanes2_fst : (lanes2 (aluLane op) (x.lanes va) (x.opB y)).1.length = 512 := by
  simp [lanes2]

theorem length_lanes2_snd : (lanes2 (aluLane op) (x.lanes va) (x.opB y)).2.length = 512 := by
  simp [lanes2]

theorem getElem_lanes2_fst (h : i < (lanes2 (aluLane op) (x.lanes va) (x.opB y)).1.length) :
    (lanes2 (aluLane op) (x.lanes va) (x.opB y)).1[i] = (laneResult x op va y i).1 := by
  simp [lanes2, laneResult]

theorem getElem_lanes2_snd (h : i < (lanes2 (aluLane op) (x.lanes va) (x.opB y)).2.length) :
    (lanes2 (aluLane op) (x.lanes va) (x.opB y)).2[i] = (laneResult x op va y i).2 := by
  simp [lanes2, laneResult]

theorem get_apply_alu (h : i < 512) :
    Sparse.get (fun _ => 0#32) (x.apply (.alu op vd va y pg) f).vregs[vd] i =
      if (x.pred pg).getLsbD i = true then (laneResult x op va y i).1 else Sparse.get (fun _ => 0#32) x.vregs[vd] i := by
  rw [apply_alu, Vec.result, get_write length_lanes2_fst h, getElem_lanes2_fst]
  rfl

theorem vregs_apply_alu_ne (h : v ≠ vd) : (x.apply (.alu op vd va y pg) f).vregs[v] = x.vregs[v] := vregs_write_ne h

theorem preds_apply_alu : (x.apply (.alu op vd va y pg) f).preds = x.preds := rfl

theorem queue_apply_alu : (x.apply (.alu op vd va y pg) f).queue = x.queue := rfl

theorem ovf_apply_alu : (x.apply (.alu op vd va y pg) f).ovf = true ↔
    x.ovf = true ∨ ∃ i < 512, (laneResult x op va y i).2 = true ∧ (x.pred pg).getLsbD i = true := by
  refine Iff.trans ovf_over (or_congr_right (exists_congr fun i => ?_))
  simp only [length_lanes2_snd, getElem_lanes2_snd, exists_prop]

variable (hop : op ∈ [VAlu.add, .sub, .mull, .mulh, .mulhu])
include hop

/-- Every active lane takes the exact result's low or high half; the inactive ones keep theirs. -/
theorem get_apply_integer (h : i < 512) :
    Sparse.get (fun _ => 0#32) (x.apply (.alu op vd va y pg) f).vregs[vd] i =
      if pg = 0 ∨ (x.preds[pg]).getLsbD i = true then
        (if TakesHigh op then BitVec.ofInt 32 (exactAt x op va y i / 2 ^ 32) else BitVec.ofInt 32 (exactAt x op va y i))
      else Sparse.get (fun _ => 0#32) x.vregs[vd] i := by
  rw [get_apply_alu h]
  exact ite_congr (propext (getLsbD_pred h)) (fun _ => aluLane_fst hop) (fun _ => rfl)

/-- An active lane outside I32 sets the overflow bit, unless the high half is taken; nothing else sets or clears it. -/
theorem ovf_apply_integer : (x.apply (.alu op vd va y pg) f).ovf = true ↔
    x.ovf = true ∨ (¬ TakesHigh op ∧ ∃ i < 512, (pg = 0 ∨ (x.preds[pg]).getLsbD i = true) ∧
      (exactAt x op va y i < -2147483648 ∨ 2147483647 < exactAt x op va y i)) := by
  have hlane : ∀ i, (i < 512 ∧ (laneResult x op va y i).2 = true ∧ (x.pred pg).getLsbD i = true) ↔
      ¬ TakesHigh op ∧ i < 512 ∧ (pg = 0 ∨ (x.preds[pg]).getLsbD i = true) ∧
        (exactAt x op va y i < -2147483648 ∨ 2147483647 < exactAt x op va y i) := by
    intro i
    have hsnd : (laneResult x op va y i).2 = true ↔
        ¬ TakesHigh op ∧ (exactAt x op va y i < -2147483648 ∨ 2147483647 < exactAt x op va y i) := aluLane_snd hop
    constructor
    · rintro ⟨hi, hover, hon⟩
      obtain ⟨hlow, hout⟩ := hsnd.1 hover
      exact ⟨hlow, hi, (getLsbD_pred hi).1 hon, hout⟩
    · rintro ⟨hlow, hi, hon, hout⟩
      exact ⟨hi, hsnd.2 ⟨hlow, hout⟩, (getLsbD_pred hi).2 hon⟩
  rw [ovf_apply_alu, ← exists_and_left]
  exact or_congr_right (exists_congr hlane)

end Apply

/-! ### A step of a unit that meets no error (R242, R248, R251, R290) -/

theorem underRepair_of_noRepair {l : List Nat} (h : noRepair s = true) : underRepair s l = false := by
  have hnone : s.bays.toList.any (fun x => x.prot.repairing.isSome) = false := by
    simp only [noRepair, List.all_eq_true, Option.isNone_iff_eq_none] at h
    simp only [List.any_eq_false, Option.isSome_iff_ne_none, ne_eq, not_not]
    exact h
  rw [underRepair, hnone, Bool.false_and]

theorem ahead_of_noReqs {rd wr : List (Nat × Nat)} (h : noReqs s = true) : ahead s rd wr = false := by
  have hserved : ∀ k ∈ s.stk.toList, ∀ q ∈ k.reqs, q.served = true := by
    simpa only [noReqs, List.all_eq_true] using h
  rw [ahead, ← Vector.any_toList, List.any_eq_false]
  intro k hk
  rw [List.any_eq_true]
  rintro ⟨q, hq, hwaits⟩
  simp [hserved k hk q hq] at hwaits

theorem guarded_clean {rd wr : List Nat} {k : State → State} (h : memFree s = true) : guarded b .clean rd wr k s = k s := by
  obtain ⟨hrep, hreq⟩ : noRepair s = true ∧ noReqs s = true := by simpa [memFree] using h
  simp [guarded, guardedBy, underRepair_of_noRepair hrep, ahead_of_noReqs hreq]

theorem withUnits_clean {p : BitVec 15} {age : Nat} {l : List (Nat × Nat)} {k : State → State} (h : soundUnits b s = true) :
    withUnits b p age .clean l k s = k s := by
  have hmet : metUnit b .clean l s = none := if_pos h
  rw [withUnits, hmet]
  rfl

/-! ### VE_INSTR_START of a VAlu instruction (R154) -/

@[simp] theorem vec_updVec {f : Vec → Vec} : ((updVec b f s).bay b).vec = f (s.bay b).vec := by simp [updVec]

theorem onlyBay_updVec {f : Vec → Vec} : onlyBay b s (updVec b f s) := onlyBay_updBay

theorem soundUnits_updVec {f : Vec → Vec} : soundUnits b (updVec b f s) = soundUnits b s := by simp [soundUnits, updVec]

theorem onlyBay_updProt {f : Prot → Prot} : onlyBay b s (updProt b f s) := ⟨rfl, fun _ h => bay_setBay_ne h⟩

theorem onlyBay_refl : onlyBay b s s := ⟨rfl, fun _ _ => rfl⟩

theorem onlyBay_wroteRegs {op : VecOp} : onlyBay b s (wroteRegs b op x s) := by
  unfold wroteRegs
  split
  · exact onlyBay_refl
  · exact onlyBay_updProt

@[simp] theorem vec_wroteRegs {op : VecOp} : ((wroteRegs b op x s).bay b).vec = (s.bay b).vec := by
  unfold wroteRegs
  split
  · rfl
  · simp [updProt]

/-- The engine once the head of its queue has left. -/
def unqueued (x : Vec) : Vec := { x with queue := x.queue.drop 1 }

theorem queue_unqueued {e : VecEnt} {r : List VecEnt} (h : x.queue = e :: r) : (unqueued x).queue = r :=
  congrArg (List.drop 1) h

/-- The state once the head of the vector queue, an instruction on registers, has started: its operation applied to the engine
without it, and two free values used. -/
def regsStarted (b : Bay) (op : VecOp) (s : State) : State :=
  wroteRegs b op (unqueued (s.bay b).vec)
    (updVec b (fun x => x.apply op (fun i => BitVec.ofNat 32 (Config.freeNat (s.free + i)))) (updVec b unqueued (drew 2 s)))

theorem startVec_alu {e : VecEnt} {op : VAlu} {y : VB} (hu : soundUnits b s = true) (hq : e.quench = false)
    (ho : e.op = .alu op vd va y pg) : startVec b e .clean s = regsStarted b e.op s := by
  rw [startVec, withUnits_clean (soundUnits_updVec.trans hu)]
  simp only [ho, hq, vec_updVec]
  rfl

theorem exec_veInstrStart_clean {e : VecEnt} {r : List VecEnt} (hm : memFree s = true)
    (hqueue : (s.bay b).vec.queue = e :: r) (hcan : vecCan b s = true) :
    exec (.veInstrStart b .clean) s = .next (startVec b e .clean s) := by
  change execVeInstrStart b .clean s = _
  simp [execVeInstrStart, hqueue, hcan, guarded_clean hm]

theorem onlyBay_regsStarted {op : VecOp} : onlyBay b (drew 2 s) (regsStarted b op s) :=
  onlyBay_trans (onlyBay_trans onlyBay_updVec onlyBay_updVec) onlyBay_wroteRegs

theorem regsStarted_frame {op : VecOp} :
    regsStarted b op s = { s with bays := (regsStarted b op s).bays, free := (regsStarted b op s).free } := by
  obtain ⟨hframe, -⟩ := onlyBay_regsStarted (b := b) (s := s) (op := op)
  rw [hframe]
  rfl

theorem bay_regsStarted_ne {op : VecOp} {c : Bay} (h : c ≠ b) : (regsStarted b op s).bay c = s.bay c :=
  onlyBay_regsStarted.2 c h

@[simp] theorem bay_drew {n : Nat} : (drew n s).bay b = s.bay b := rfl

theorem vec_regsStarted {op : VecOp} : ((regsStarted b op s).bay b).vec =
    (unqueued (s.bay b).vec).apply op (fun i => BitVec.ofNat 32 (Config.freeNat (s.free + i))) := by
  simp [regsStarted]

/-- Settles O27: the instruction starts with `regsStarted`, whose engine holds `Vec.apply`'s lanes and overflow bit. -/
theorem vectorInteger : Obligations.VectorInteger := by
  unfold Obligations.VectorInteger
  intro b e r op vd va y pg s _ hm hu hqueue hcan hquench ho hop
  have hexec : exec (.veInstrStart b .clean) s = .next (regsStarted b (.alu op vd va y pg) s) := by
    rw [exec_veInstrStart_clean hm hqueue hcan, startVec_alu hu hquench ho, ho]
  refine ⟨_, hexec, regsStarted_frame, fun c hc => bay_regsStarted_ne hc, ?_⟩
  rw [vec_regsStarted, queue_apply_alu, queue_unqueued hqueue]
  exact ⟨rfl, fun i hi => get_apply_integer hop hi, fun v hv => vregs_apply_alu_ne hv, preds_apply_alu,
    ovf_apply_integer hop⟩

end Sys2Proof.Proofs.VectorEngine
end

section
/-! PROOFS. The range fault of data memory, and what resets do to counters and comparators (R181, R182, R202, R426, R433 to R436). -/

namespace Sys2Proof.Proofs.DataMemory

open Sys2Proof Sys2Proof.Machine Sys2Proof.Laws.State Sys2Proof.Laws.Ops Sys2Proof.Proofs.Tables

variable {s : State} {b d : Bay} {st : Strm}

/-! ### A store below the scratchpads leaves every bay as it was (R236, R245, R247) -/

section BelowScratchpads

variable {n a len w : Nat} {v : List Byte}

theorem spadBase_zero_le : spadBase 0 ≤ spadBase n := by
  unfold spadBase
  omega

theorem wordTouched_below (h : a + len ≤ spadBase 0) : wordTouched n a len w = false := by
  have hbase : spadBase 0 ≤ spadBase n := spadBase_zero_le
  simp only [wordTouched, Bool.and_eq_false_iff, decide_eq_false_iff_not]
  omega

theorem wordCovered_below (h : a + len ≤ spadBase 0) : wordCovered n a len w = false := by
  have hbase : spadBase 0 ≤ spadBase n := spadBase_zero_le
  simp only [wordCovered, Bool.and_eq_false_iff, decide_eq_false_iff_not]
  omega

theorem pagesIn_below (h : a + len ≤ spadBase 0) : pagesIn n a len = [] := by
  have hbase : spadBase 0 ≤ spadBase n := spadBase_zero_le
  exact if_neg (by omega)

theorem prot_stored_below {p : Prot} {m : List Host.Cell} (h : a + v.length ≤ spadBase 0) : p.stored n a v m = p := by
  simp [Prot.stored, wordTouched_below h, wordCovered_below h]

theorem prot_afterWrite_below {p : Prot} {c : Codes} {kb : Sparse W32} {m m' : List Host.Cell}
    (h : a + v.length ≤ spadBase 0) : p.afterWrite c kb n a v m m' = p := by
  rw [Prot.afterWrite, pagesIn_below h]
  exact prot_stored_below h

theorem bays_store_below {req : Nat} (h : a + v.length ≤ spadBase 0) : (s.store a v req).bays = s.bays := by
  ext1 i hi
  simp [State.store, prot_afterWrite_below h]

theorem bays_landReq_below {k : Stk} {q : MemReq} {o : Option (List Byte)}
    (h : ∀ v, o = some v → q.addr + v.length ≤ spadBase 0) : (landReq k q o s).bays = s.bays := by
  cases o with
  | none => rfl
  | some v => exact bays_store_below (h v rfl)

/-- A waiting request writes within its own sector (R290), so it stays below the scratchpads with it. -/
theorem bays_landSector_below (h : a / 64 * 64 + 64 ≤ spadBase 0) : (landSector a s).bays = s.bays := by
  refine landSector_induct (P := fun t => t.bays = s.bays) ?_ rfl
  intro k q t hq ht
  refine (bays_landReq_below fun v hv => ?_).trans ht
  obtain ⟨u, -, rfl⟩ := Option.map_eq_some_iff.1 hv
  rw [List.length_take]
  omega

end BelowScratchpads

/-! ### Recording leaves every bay as it was (R318) -/

theorem ring_below_spads : ringBase + 2 ^ 29 ≤ spadBase 0 := by decide

theorem bays_putEntry_ring {q p : Nat} : (putEntry (entryAddr s q) (recBytes p q) s).bays = s.bays := by
  obtain ⟨-, hend⟩ := entryAddr_range (s := s) (q := q)
  have hal : entryAddr s q % 64 = 0 := entryAddr_aligned
  have hlen : (recBytes p q).length = 64 := recBytes_length
  have hspad := ring_below_spads
  calc ((landSector (entryAddr s q) s).store (entryAddr s q) (recBytes p q) 2).bays
    _ = (landSector (entryAddr s q) s).bays := bays_store_below (by omega)
    _ = s.bays := bays_landSector_below (by omega)

theorem bays_writeEnts {q : Nat} {l : List Nat} : (writeEnts q l s).bays = s.bays := by
  induction l generalizing q s with
  | nil => rfl
  | cons p r ih => exact ih.trans bays_putEntry_ring

theorem bays_record {ty arg len payload : Nat} : (record ty arg len payload s).bays = s.bays := by
  unfold record
  split
  · exact bays_writeEnts.trans recRoom_bays
  · rfl

/-! ### A stream-class fault at a stream that runs or waits (R202, R426, R428) -/

theorem status_ne_halted_of_mayIssue {c : Instr} (h : mayIssue b st c s = true) : (s.strm b st).status ≠ .halted := by
  intro hh
  simp [mayIssue, strmReady, Stream.waitsOn, hh] at h

/-- The fault counted and recorded and the stream HALTED, before what its halt withdraws. -/
def faultHalted (b : Bay) (st : Strm) (code : Nat) (s : State) : State :=
  (recFault (b + 16 * strmNo st) code (s.strm b st).pc (countFault code b (strmNo st) s)).updStrm b st
    (fun x => { x.halted code (s.strm b st).pc false with haltAge := some (s.bay b).issued })

theorem trap_of_not_halted {code : Nat} (h : (s.strm b st).status ≠ .halted) :
    trap b st code s = if st = .x then withdrawHop b (faultHalted b st code s) else faultHalted b st code s := by
  simp [trap, haltStream, haltBy, haltRec, faultHalted, Stream.deaf, Stream.outdone, h, strm_recFault]

theorem faultHalted_frame {code : Nat} : ∃ r : State, faultHalted b st code s =
    { s with
      bays := (faultHalted b st code s).bays, mem := r.mem, ms := r.ms, stk := r.stk, codes := r.codes
      faults := (countFault code b (strmNo st) s).faults, rcd := r.rcd, run := r.run } := by
  obtain ⟨r, hr⟩ := record_frame (s := countFault code b (strmNo st) s) (ty := 0x11) (arg := b + 16 * strmNo st)
    (len := code) (payload := (s.strm b st).pc.toNat)
  refine ⟨r, ?_⟩
  rw [faultHalted, recFault, hr]
  rfl

theorem bay_faultHalted {code : Nat} : (faultHalted b st code s).bay b =
    { (s.bay b).setStrm st { (s.strm b st).halted code (s.strm b st).pc false with haltAge := some (s.bay b).issued } with
      moved := true } := by
  have hbay : (recFault (b + 16 * strmNo st) code (s.strm b st).pc (countFault code b (strmNo st) s)).bay b = s.bay b :=
    congrArg (fun l => l[b]) bays_record
  rw [faultHalted, State.updStrm, bay_updBay, hbay]
  rfl

theorem bay_faultHalted_ne {code : Nat} (h : d ≠ b) : (faultHalted b st code s).bay d = s.bay d :=
  (bay_updBay_ne h).trans (congrArg (fun l => l[d]) bays_record)

section Trap

variable {code : Nat} (h : (s.strm b st).status ≠ .halted)
include h

theorem bays_trap : (trap b st code s).bays = (faultHalted b st code s).bays := by
  rw [trap_of_not_halted h]
  split <;> rfl

theorem bay_trap : (trap b st code s).bay b =
    { (s.bay b).setStrm st { (s.strm b st).halted code (s.strm b st).pc false with haltAge := some (s.bay b).issued } with
      moved := true } :=
  (congrArg (fun l => l[b]) (bays_trap h)).trans bay_faultHalted

theorem bay_trap_ne (hd : d ≠ b) : (trap b st code s).bay d = s.bay d :=
  (congrArg (fun l => l[d]) (bays_trap h)).trans (bay_faultHalted_ne hd)

theorem faults_trap : (trap b st code s).faults = (countFault code b (strmNo st) s).faults := by
  obtain ⟨r, hr⟩ := faultHalted_frame (b := b) (st := st) (code := code) (s := s)
  rw [trap_of_not_halted h, hr]
  split <;> rfl

/-- Outside the bays a fault touches the ring and its counters, the fault counts and, for the X-stream, a bracket that forms. -/
theorem trap_frame : trap b st code s =
    { s with
      bays := (trap b st code s).bays, mem := (trap b st code s).mem, ms := (trap b st code s).ms
      stk := (trap b st code s).stk, codes := (trap b st code s).codes, faults := (trap b st code s).faults
      rcd := (trap b st code s).rcd, run := (trap b st code s).run
      hdr := if st = .x then (withdrawHop b s).hdr else s.hdr } := by
  obtain ⟨r, hr⟩ := faultHalted_frame (b := b) (st := st) (code := code) (s := s)
  rw [trap_of_not_halted h, hr]
  split <;> rfl

end Trap

/-! ### TS.LDW and TS.STW at or above 16,384, and TS.LIDX of a level not open (R182) -/

section Issue

variable {cd ca cs : Ctr} {imm : BitVec 16} {ev : CodeEvent}

theorem exec_tsLdw_range (hm : mayIssue b st (.tsLdw b st cd ca imm ev) s = true)
    (hf : (s.strm b st).free [cd, ca] = true) (hi : 16384 ≤ dmemIndex (s.strm b st) ca imm) :
    exec (.tsLdw b st cd ca imm ev) s = .next (trap b st 0x35 s) := by
  change execTsLdw b st cd ca imm ev s = _
  rw [execTsLdw, issue_ready hm hf, if_pos hi]

theorem exec_tsStw_range (hm : mayIssue b st (.tsStw b st cs ca imm) s = true)
    (hf : (s.strm b st).free [cs, ca] = true) (hi : 16384 ≤ dmemIndex (s.strm b st) ca imm) :
    exec (.tsStw b st cs ca imm) s = .next (trap b st 0x35 s) := by
  change execTsStw b st cs ca imm s = _
  rw [execTsStw, issue_ready hm hf, if_pos hi]

theorem exec_tsLidx_closed {l : Fin 4} (hm : mayIssue b st (.tsLidx b st cd l) s = true)
    (hf : (s.strm b st).free [cd] = true) (hl : (s.strm b st).loops.length ≤ l.val) :
    exec (.tsLidx b st cd l) s = .next (putCtr b st cd 0#32 s) := by
  change execTsLidx b st cd l s = _
  rw [execTsLidx, issue_ready hm hf, List.getElem?_eq_none hl]

theorem ctr_putCtr {v : W32} : ((putCtr b st cd v s).strm b st).ctr[cd] = v := by
  simp [strm_putCtr]

end Issue

/-! ### Resets that zero counters and comparators (R433, R434) -/

theorem strm_powerOn : (powerOn s).strm b st = Stream.reset := by
  have hbay : (powerOn s).bay b = Bays.reset := Vector.getElem_replicate b.isLt
  rw [State.strm, hbay]
  cases st <;> rfl

theorem strm_linkReset : (linkReset s).strm b st = Stream.reset := by
  have hbay : (linkReset s).bay b = Bays.relinked (dropGongHeld s).beat.pos := Vector.getElem_replicate b.isLt
  rw [State.strm, hbay]
  cases st <;> rfl

theorem strm_cleared {x : Bays} : (x.cleared b).strm st = (x.strm st).cleared := by
  cases st <;> rfl

theorem strm_resetBay : ∃ x : Stream, (resetBay b s).strm b st = x.cleared := 
  ⟨_, (strm_updBay (f := fun x => x.cleared b)).trans strm_cleared⟩

theorem ctr_reset {r : Ctr} : Stream.reset.ctr[r] = 0#32 := Vector.getElem_replicate r.isLt

theorem ctr_cleared {x : Stream} {r : Ctr} : x.cleared.ctr[r] = 0#32 := Vector.getElem_replicate r.isLt

/-! ### A stream reset keeps counters and comparators (R434, R436) -/

/-- Counters and comparators of a stream. -/
def regsOf (b : Bay) (st : Strm) (s : State) : Vector W32 16 × BitVec 8 := ((s.strm b st).ctr, (s.strm b st).cmp)

theorem regsOf_congr {t : State} (h : t.bays = s.bays) : regsOf b st t = regsOf b st s := by
  simp only [regsOf, State.strm, State.bay, h]

theorem regsOf_updBay {f : Bays → Bays} (hctr : ∀ x, ((f x).strm st).ctr = (x.strm st).ctr)
    (hcmp : ∀ x, ((f x).strm st).cmp = (x.strm st).cmp) : regsOf b st (s.updBay b f) = regsOf b st s := by
  rw [regsOf, strm_updBay, hctr, hcmp]
  rfl

theorem regsOf_idlePool {p : Fin 64} {gone : Bay → Strm → Bool} : regsOf b st (idlePool p gone s) = regsOf b st s := by
  simp only [regsOf, idlePool, forgetPool, State.strm, bay_mapBays]
  cases st <;> (simp only [Bays.strm]; split <;> rfl)

theorem regsOf_idleUsed : regsOf b st (idleUsed b st s) = regsOf b st s :=
  List.foldlRecOn (motive := fun t => regsOf b st t = regsOf b st s) _ _ rfl
    (fun _ ht _ _ => regsOf_idlePool.trans ht)

theorem bays_statRun {o : StatOp} : (statRun b o s).bays = s.bays := by
  cases o with
  | scfg t c => rfl
  | amax t v cmt ovf =>
    unfold statRun
    dsimp only
    split
    · split <;> rfl
    · rfl
  | scale t cd => rfl
  | uwr t u w cmt =>
    unfold statRun
    dsimp only
    split <;> rfl
  | ustat t cd => rfl

theorem bays_statNext_clean : (statNext b .clean s).bays = s.bays := by
  unfold statNext
  split
  · exact bays_statRun
  · rfl

theorem bays_dropStats : (dropStats b s).bays = s.bays :=
  List.foldlRecOn (motive := fun t : State => t.bays = s.bays) _ _ rfl (fun _ ht _ _ => bays_statNext_clean.trans ht)

theorem bays_repeat_countFault {code bay unit n : Nat} : (Nat.repeat (countFault code bay unit) n s).bays = s.bays := by
  induction n with
  | zero => rfl
  | succ n ih => exact ih

theorem bays_cutBracket : (cutBracket b s).bays = s.bays := by
  unfold cutBracket
  split
  · rfl
  · exact bays_repeat_countFault

theorem bays_refDown {i : Nat} : (refDown i s).bays = s.bays := by
  unfold refDown
  dsimp only
  split <;> rfl

theorem bays_refsDown {l : List TStream} :
    (l.foldl (fun s t => if t.refs then refDown t.ctx s else s) s).bays = s.bays := by
  refine List.foldlRecOn (motive := fun t : State => t.bays = s.bays) _ _ rfl (fun t ht e _ => ?_)
  split
  · exact bays_refDown.trans ht
  · exact ht

theorem regsOf_endStreams {p : TStream → Bool} {count : Bool} :
    regsOf b st (endStreams b p count s) = regsOf b st s := by
  unfold endStreams
  dsimp only
  split
  · rfl
  · have htide : ∀ f : Bays → Tide, regsOf b st (s.updBay b (fun x => { x with tide := f x })) = regsOf b st s :=
      fun f => regsOf_updBay (fun _ => by cases st <;> rfl) (fun _ => by cases st <;> rfl)
    split <;> exact (regsOf_congr bays_refsDown).trans (htide _)

theorem regsOf_resetStream : regsOf b st (resetStream b st s) = regsOf b st s := by
  cases st with
  | a => exact (regsOf_updBay (f := Bays.dropA) (fun _ => rfl) (fun _ => rfl)).trans regsOf_idleUsed
  | x =>
    let u := dropStats b (idleUsed b .x s)
    let v := cutBracket b (withdrawHop b u)
    calc regsOf b .x ((endStreams b (fun _ => true) true v).updBay b Bays.dropX)
      _ = regsOf b .x (endStreams b (fun _ => true) true v) := regsOf_updBay (fun _ => rfl) (fun _ => rfl)
      _ = regsOf b .x v := regsOf_endStreams
      _ = regsOf b .x u := regsOf_congr bays_cutBracket
      _ = regsOf b .x (idleUsed b .x s) := regsOf_congr bays_dropStats
      _ = regsOf b .x s := regsOf_idleUsed

/-- Settles O4: above the range both accesses come to `trap` with 0x35, whose record stays below the scratchpads and so leaves
the bays alone; the resets are read off the stream each of them leaves. -/
theorem dmemRange : Obligations.DmemRange := by
  unfold Obligations.DmemRange
  refine ⟨?_, ?_, ?_, ?_, ?_, ?_⟩
  · intro b st cd ca imm ev s c hc hm hf hi
    have hexec : exec c s = .next (trap b st 0x35 s) := by
      rcases hc with rfl | rfl
      · exact exec_tsLdw_range hm hf hi
      · exact exec_tsStw_range hm hf hi
    have hlive := status_ne_halted_of_mayIssue hm
    exact ⟨_, hexec, trap_frame hlive, bay_trap hlive, fun _ hd => bay_trap_ne hlive hd, ringOnly_haltStream,
      faults_trap hlive⟩
  · intro b st cd l s hm hf hl
    exact ⟨_, exec_tsLidx_closed hm hf hl, ctr_putCtr⟩
  · intro s b st r
    rw [strm_powerOn]
    exact ⟨ctr_reset, rfl⟩
  · intro s b st r
    rw [strm_linkReset]
    exact ⟨ctr_reset, rfl⟩
  · intro s b st r
    obtain ⟨x, hx⟩ := strm_resetBay (s := s) (b := b) (st := st)
    rw [hx]
    exact ⟨ctr_cleared, rfl⟩
  · intro s b st
    exact Prod.mk.inj regsOf_resetStream

end Sys2Proof.Proofs.DataMemory
end

section
/-! PROOFS. The fault HOP_NEST: TS.HOP inside a bracket and TS.HEND outside one (R224). -/

namespace Sys2Proof.Proofs.HopNesting

open Sys2Proof Sys2Proof.Machine Sys2Proof.Laws.State Sys2Proof.Laws.Memory Sys2Proof.Laws.Ops Sys2Proof.Proofs.DataMemory

variable {s t : State} {b d : Bay} {st : Strm} {code : Nat}

/-! ### Withdrawing a TS.HOP leaves every open bracket (R51) -/

/-- What withdrawing a bay's TS.HOP makes of one bracket. -/
def withdrawn (b : Bay) (k : Bracket) : Bracket :=
  if k.op.isNone ∧ k.ins.isNone then { k with issues := k.issues.filter (fun i => i.bay != b) } else k

/-- The bracket stays once a TS.HOP has been withdrawn: it has opened, or another bay has issued. -/
def remains (k : Bracket) : Bool := k.op.isSome || k.ins.isSome || !k.issues.isEmpty

theorem brackets_withdrawHop :
    (withdrawHop b s).hdr.brackets = (s.hdr.brackets.map (withdrawn b)).filter remains := rfl

theorem op_withdrawn {k : Bracket} : (withdrawn b k).op = k.op := by
  unfold withdrawn
  split <;> rfl

theorem withdrawn_of_opened {k : Bracket} (h : (k.op.isSome || k.ins.isSome) = true) : withdrawn b k = k :=
  if_neg fun ⟨hop, hins⟩ => by simp [Option.isNone_iff_eq_none.1 hop, Option.isNone_iff_eq_none.1 hins] at h

/-- Holding a bay needs the locks, and a bracket that has them is left whole. -/
theorem holds_withdrawn {k : Bracket} : (remains (withdrawn d k) && (withdrawn d k).holds b) = k.holds b := by
  cases hopened : k.op.isSome || k.ins.isSome with
  | false =>
    obtain ⟨hop, hins⟩ : k.op = none ∧ k.ins = none := by simpa using hopened
    simp [withdrawn, Bracket.holds, hop, hins]
  | true =>
    rw [withdrawn_of_opened hopened, remains, hopened]
    rfl

theorem mem_brackets_of_withdrawHop {k : Bracket} (hk : k ∈ (withdrawHop b s).hdr.brackets) (ho : k.op.isSome = true) :
    k ∈ s.hdr.brackets := by
  rw [brackets_withdrawHop] at hk
  obtain ⟨k₀, hk₀, rfl⟩ := List.mem_map.1 (List.mem_filter.1 hk).1
  rw [op_withdrawn] at ho
  rwa [withdrawn_of_opened (by simp [ho])]

theorem inBracket_eq_any : inBracket b s = s.hdr.brackets.any (fun k => k.holds b) := List.isSome_find?

theorem inBracket_withdrawHop : inBracket b (withdrawHop d s) = inBracket b s := by
  rw [inBracket_eq_any, inBracket_eq_any, brackets_withdrawHop, List.any_filter, List.any_map]
  exact congrArg s.hdr.brackets.any (funext fun _ => holds_withdrawn)

/-! ### A second fault of the same instruction (R428) -/

theorem haltRec_frame {arg age : Nat} {p : BitVec 15} {keep : Bool} : ∃ r : State, haltRec b st arg code p age keep s =
    { s with mem := r.mem, ms := r.ms, bays := r.bays, codes := r.codes, stk := r.stk, rcd := r.rcd, run := r.run } := by
  obtain ⟨r, hr⟩ := record_frame (s := s) (ty := 0x11) (arg := arg) (len := code) (payload := p.toNat)
  refine ⟨haltRec b st arg code p age keep s, ?_⟩
  unfold haltRec
  dsimp only
  rw [recFault, hr]
  split <;> rfl

theorem strm_haltRec_kept {arg age : Nat} {p : BitVec 15} {keep : Bool} (ho : (s.strm b st).outdone code age = false) :
    (haltRec b st arg code p age keep s).strm b st = s.strm b st := by
  simp [haltRec, strm_recFault, ho]

theorem deaf_of_not_halted (h : (s.strm b st).status ≠ .halted) : (s.strm b st).deaf = false := by
  simp [Stream.deaf, h]

section Awake

variable (h : (s.strm b .x).deaf = false)
include h

theorem trap_of_awake : trap b .x code s =
    withdrawHop b (haltRec b .x (b + 16) code (s.strm b .x).pc (s.bay b).issued false (countFault code b 1 s)) := by
  simp [trap, haltStream, haltBy, h, strmNo]

/-- A fault that the stream still takes is counted and withdraws a TS.HOP, whether or not STREAM_STAT shows it. -/
theorem trap_frame_of_awake : ∃ r : State, trap b .x code s =
    { s with
      mem := r.mem, ms := r.ms, bays := r.bays, codes := r.codes, stk := r.stk, rcd := r.rcd, run := r.run
      faults := (countFault code b 1 s).faults, hdr := (withdrawHop b s).hdr } := by
  rw [trap_of_awake h]
  obtain ⟨r, hr⟩ := haltRec_frame (s := countFault code b 1 s) (b := b) (st := .x) (code := code)
  exact ⟨r, congrArg (withdrawHop b) hr⟩

theorem faults_trap_of_awake : (trap b .x code s).faults = (countFault code b 1 s).faults := by
  obtain ⟨r, hr⟩ := trap_frame_of_awake (code := code) h
  rw [hr]

theorem hdr_trap_of_awake : (trap b .x code s).hdr = (withdrawHop b s).hdr := by
  obtain ⟨r, hr⟩ := trap_frame_of_awake (code := code) h
  rw [hr]

theorem mem_brackets_of_trap {k : Bracket} (hk : k ∈ (trap b .x code s).hdr.brackets) (ho : k.op.isSome = true) :
    k ∈ s.hdr.brackets := by
  rw [hdr_trap_of_awake h] at hk
  exact mem_brackets_of_withdrawHop hk ho

theorem strm_trap_kept (ho : (s.strm b .x).outdone code (s.bay b).issued = false) :
    (trap b .x code s).strm b .x = s.strm b .x := by
  rw [trap_of_awake h, strm_withdrawHop]
  exact strm_haltRec_kept ho

end Awake

section Live

variable (h : (s.strm b .x).status ≠ .halted)
include h

theorem strm_trap : (trap b .x code s).strm b .x =
    { (s.strm b .x).halted code (s.strm b .x).pc false with haltAge := some (s.bay b).issued } :=
  (congrArg (fun y => Bays.strm y .x) (bay_trap h)).trans (strm_moved.trans strm_setStrm)

theorem issued_trap : ((trap b .x code s).bay b).issued = (s.bay b).issued := by
  rw [bay_trap h]
  exact issued_setStrm

theorem inBracket_trap : inBracket b (trap b .x code s) = inBracket b s := by
  rw [inBracket_eq_any, hdr_trap_of_awake (deaf_of_not_halted h), ← inBracket_eq_any]
  exact inBracket_withdrawHop

theorem awake_trap : ((trap b .x code s).strm b .x).deaf = false := by
  simp [strm_trap h, Stream.deaf]

/-- A fault of the same age and a code that is no lower leaves STREAM_STAT as it is (R428). -/
theorem outdone_trap {c : Nat} (hc : code % 256 ≤ c) :
    ((trap b .x code s).strm b .x).outdone c ((trap b .x code s).bay b).issued = false := by
  simp [strm_trap h, issued_trap h, Stream.outdone, hc]

theorem faults_trap_trap {c : Nat} :
    (trap b .x c (trap b .x code s)).faults = (countFault c b 1 (countFault code b 1 s)).faults := by
  rw [faults_trap_of_awake (awake_trap h), trap_frame h, faults_trap h]
  rfl

end Live

theorem strm_a_trap : (trap b .x code s).strm b .a = s.strm b .a := strm_haltStream_ne (.inr nofun)

theorem ringOnly_trap : ringOnly s (trap b .x code s) := ringOnly_haltStream

theorem ringOnly_trans {u : State} (h : ringOnly s t) (g : ringOnly t u) : ringOnly s u := fun a ha => (g a ha).trans (h a ha)

/-! ### TS.HOP inside a bracket, and TS.HEND outside one (R224) -/

section Hop

variable {s1 s2 dst x : Ctr} {kind : Fin 16} {mask : BayMask}

/-- The image whose header window holds every header index a TS.HOP uses (R222). -/
def hopImage (b : Bay) (s1 s2 dst : Ctr) (kind : Fin 16) (s : State) : Option Image :=
  (imageOf b s).filter (fun i =>
    ([ctrOf b .x s1 s, ctrOf b .x dst s] ++ (if hopUsesS2 kind then [ctrOf b .x s2 s] else [])).all
      (fun h => decide (h.toNat < i.hwCount)))

theorem hopImage_of_lt {i : Image} (hi : imageOf b s = some i) (h1 : ((s.strm b .x).ctr[s1]).toNat < i.hwCount)
    (hd : ((s.strm b .x).ctr[dst]).toNat < i.hwCount)
    (h2 : hopUsesS2 kind = true → ((s.strm b .x).ctr[s2]).toNat < i.hwCount) : hopImage b s1 s2 dst kind s = some i := by
  rw [hopImage, hi, Option.filter_some, if_pos]
  cases hu : hopUsesS2 kind with
  | false => simpa [ctrOf] using ⟨h1, hd⟩
  | true => simpa [ctrOf] using ⟨h1, hd, h2 hu⟩

variable (hm : mayIssue b .x (.tsHop b s1 s2 dst x kind mask) s = true)
  (hf : (s.strm b .x).free (hopCtrs s1 s2 dst x kind) = true) (hb : inBracket b s = true)
include hm hf hb

theorem exec_tsHop_nested {i : Image} (hi : hopImage b s1 s2 dst kind s = some i) :
    exec (.tsHop b s1 s2 dst x kind mask) s = .next (trap b .x 0x38 s) := by
  change execTsHop b s1 s2 dst x kind mask s = _
  rw [hopImage] at hi
  rw [execTsHop, issue_ready hm hf]
  simp only [hb, Bool.not_true, Bool.and_false, Bool.false_eq_true, if_false, if_true, hi]

/-- A header index out of range is counted first, and the bracket that is open is still open then. -/
theorem exec_tsHop_nested_range (hi : hopImage b s1 s2 dst kind s = none) :
    exec (.tsHop b s1 s2 dst x kind mask) s = .next (trap b .x 0x38 (trap b .x 0x36 s)) := by
  have hstill : inBracket b (trap b .x 0x36 s) = true := (inBracket_trap (status_ne_halted_of_mayIssue hm)).trans hb
  change execTsHop b s1 s2 dst x kind mask s = _
  rw [hopImage] at hi
  rw [execTsHop, issue_ready hm hf]
  simp only [hb, Bool.not_true, Bool.and_false, Bool.false_eq_true, if_false, if_true, hi, hstill]

end Hop

theorem curOf_of_not_inBracket (h : inBracket b s = false) : curOf b s = none := by
  have hnone : bracketOf b s = none := by simpa [inBracket] using h
  rw [curOf, hnone]
  rfl

theorem exec_tsHend_closed {nf : NForm} (hm : mayIssue b .x (.tsHend b nf) s = true) (hb : inBracket b s = false) :
    exec (.tsHend b nf) s = .next (trap b .x 0x38 s) := by
  change execTsHend b nf s = _
  rw [execTsHend, issue_ready hm free_nil, hendOp, curOf_of_not_inBracket hb]

/-- Settles O11: every clause comes to `trap` with 0x38, taken alone or, where a header index is out of range, after the fault
0x36 of the same TS.HOP, which leaves the bracket open and STREAM_STAT's record standing. -/
theorem hopNest : Obligations.HopNest := by
  unfold Obligations.HopNest
  refine ⟨?_, ?_, ?_⟩
  · intro b s1 s2 dst x kind mask i s hm hf hb hi h1 hd h2
    have hlive := status_ne_halted_of_mayIssue hm
    exact ⟨_, exec_tsHop_nested hm hf hb (hopImage_of_lt hi h1 hd h2), ringOnly_trap, strm_trap hlive, strm_a_trap,
      fun _ => mem_brackets_of_trap (deaf_of_not_halted hlive), faults_trap hlive⟩
  · intro b s1 s2 dst x kind mask s hm hf hb
    have hlive := status_ne_halted_of_mayIssue hm
    have hawake := deaf_of_not_halted hlive
    cases hi : hopImage b s1 s2 dst kind s with
    | some i =>
      refine ⟨_, exec_tsHop_nested hm hf hb hi, ringOnly_trap, ?_, ?_, ?_, strm_a_trap,
        fun _ => mem_brackets_of_trap hawake, s, .inl rfl, faults_trap hlive⟩ <;> rw [strm_trap hlive] <;> rfl
    | none =>
      have hstrm : (trap b .x 0x38 (trap b .x 0x36 s)).strm b .x =
          { (s.strm b .x).halted 0x36 (s.strm b .x).pc false with haltAge := some (s.bay b).issued } :=
        (strm_trap_kept (awake_trap hlive) (outdone_trap hlive (by decide))).trans (strm_trap hlive)
      refine ⟨_, exec_tsHop_nested_range hm hf hb hi, ringOnly_trans ringOnly_trap ringOnly_trap, ?_, ?_, ?_,
        strm_a_trap.trans strm_a_trap,
        fun _ hk ho => mem_brackets_of_trap hawake (mem_brackets_of_trap (awake_trap hlive) hk ho) ho,
        countFault 0x36 b.val 1 s, .inr rfl, faults_trap_trap hlive⟩ <;> rw [hstrm] <;> rfl
  · intro b nf s hm hb
    have hlive := status_ne_halted_of_mayIssue hm
    exact ⟨_, exec_tsHend_closed hm hb, ringOnly_trap, strm_trap hlive, strm_a_trap, faults_trap hlive⟩

end Sys2Proof.Proofs.HopNesting
end

section
/-! PROOFS. A step and its queue, the counter group, the comparators and data memory (R181, R182). -/

namespace Sys2Proof.Proofs.Counters

open Sys2Proof Sys2Proof.Machine Sys2Proof.Laws.State Sys2Proof.Laws.Ops Sys2Proof.Proofs.Tables Sys2Proof.Proofs.VectorEngine
  Sys2Proof.Proofs.DataMemory

variable {s t : State} {b : Bay} {st : Strm} {c : Instr}

/-! ### A bay and a stream after an update -/

theorem bay_updStrm {f : Stream → Stream} : (s.updStrm b st f).bay b =
    { (s.bay b).setStrm st (f (s.strm b st)) with moved := true } := bay_updBay

@[simp] theorem bay_updProt {f : Prot → Prot} : (updProt b f s).bay b = { s.bay b with prot := f (s.bay b).prot } := bay_setBay

@[simp] theorem strm_updProt {f : Prot → Prot} : (updProt b f s).strm b st = s.strm b st := by
  rw [State.strm, bay_updProt]
  cases st <;> rfl

/-! ### Steps (R13) -/

/-- Settles O57: `step` looks at the queue alone, and no table word decodes. -/
theorem stepRunsCommand : Obligations.StepRunsCommand := by
  unfold Obligations.StepRunsCommand
  exact ⟨fun _ _ => step_front rfl, fun _ _ _ h => step_front h, fun _ h => step_empty h, fun _ _ _ => ⟨rfl, rfl⟩⟩

theorem bay_State_reset : State.reset.bay b = Bays.reset := Vector.getElem_replicate b.isLt

/-- Settles O58: each field of `State.reset` is read off its definition. -/
theorem resetState : Obligations.ResetState := by
  unfold Obligations.ResetState
  refine ⟨rfl, fun b st => ?_, fun _ => rfl, fun _ => rfl, rfl, rfl, fun k => ?_, rfl, rfl, rfl, rfl, fun b => ?_, fun b => ?_⟩
  · rw [State.strm, bay_State_reset]
    cases st <;> exact ⟨rfl, rfl, rfl⟩
  · exact congrArg Session.ph (Vector.getElem_replicate k.isLt)
  · rw [bay_State_reset]
    exact ⟨Nat.zero_le _, by simp [State.reset, Power.reset]⟩
  · simp [State.reset, Power.reset]

/-! ### The counter group (R181) -/

/-- A counter operation that is ready writes its result and goes on. -/
theorem ctrAlu_ready {f : W32 → W32 → W32} {cd ca : Ctr} {o : BOp} (hm : mayIssue b st c s = true)
    (hf : (s.strm b st).free (cd :: ca :: BOp.regs o) = true) :
    ctrAlu f b st c cd ca o s = putCtr b st cd (f (s.strm b st).ctr[ca] (BOp.val o (s.strm b st))) s := by
  rw [ctrAlu, issue_ready hm hf]
  rfl

theorem ofNat_sub_wrap {x y : W32} : x - y = BitVec.ofNat 32 (x.toNat + 2 ^ 32 - y.toNat) := by
  apply BitVec.eq_of_toNat_eq
  rw [BitVec.toNat_sub, BitVec.toNat_ofNat]
  have := y.isLt
  omega

theorem shiftLeft_eq_ofNat {x : W32} {n : Nat} : x <<< n = BitVec.ofNat 32 (x.toNat * 2 ^ n) :=
  BitVec.eq_of_toNat_eq (by rw [BitVec.toNat_shiftLeft, BitVec.toNat_ofNat, Nat.shiftLeft_eq])

theorem ushiftRight_eq_ofNat {x : W32} {n : Nat} : x >>> n = BitVec.ofNat 32 (x.toNat / 2 ^ n) := by
  apply BitVec.eq_of_toNat_eq
  rw [BitVec.toNat_ushiftRight, BitVec.toNat_ofNat, Nat.shiftRight_eq_div_pow,
    Nat.mod_eq_of_lt (Nat.lt_of_le_of_lt (Nat.div_le_self _ _) x.isLt)]

theorem ofNat_and {x y : W32} : x &&& y = BitVec.ofNat 32 (x.toNat &&& y.toNat) := by
  rw [← BitVec.toNat_and, BitVec.ofNat_toNat, BitVec.setWidth_eq]

theorem ofNat_or {x y : W32} : x ||| y = BitVec.ofNat 32 (x.toNat ||| y.toNat) := by
  rw [← BitVec.toNat_or, BitVec.ofNat_toNat, BitVec.setWidth_eq]

theorem ofNat_xor {x y : W32} : x ^^^ y = BitVec.ofNat 32 (x.toNat ^^^ y.toNat) := by
  rw [← BitVec.toNat_xor, BitVec.ofNat_toNat, BitVec.setWidth_eq]

/-- The next state of a counter operation, with the value it writes under any name. -/
theorem counterDone {cd : Ctr} {v w : W32} {o : Host.Outcome State Fault Refusal} (h : o = .next (putCtr b st cd v s)) (hv : v = w) :
    ∃ t, o = .next t ∧ onlyStrm b st s t ∧ t.strm b st = ((s.strm b st).setCtr cd w).next :=
  ⟨_, h, onlyStrm_putCtr, strm_putCtr.trans (by rw [hv])⟩

/-- Settles O1: each operation is `ctrAlu` of a bit-vector function, whose value is the named arithmetic modulo 2^32. -/
theorem counterArithmetic : Obligations.CounterArithmetic := by
  unfold Obligations.CounterArithmetic
  constructor
  · intro b st cd ca o s c f hc hm hf
    simp only [List.mem_cons, Prod.mk.injEq, List.not_mem_nil, or_false] at hc
    rcases hc with ⟨rfl, rfl⟩ | ⟨rfl, rfl⟩ | ⟨rfl, rfl⟩ | ⟨rfl, rfl⟩ | ⟨rfl, rfl⟩ | ⟨rfl, rfl⟩ | ⟨rfl, rfl⟩ | ⟨rfl, rfl⟩
    · exact counterDone (congrArg Host.Outcome.next (ctrAlu_ready hm hf)) (BitVec.add_def ..)
    · exact counterDone (congrArg Host.Outcome.next (ctrAlu_ready hm hf)) ofNat_sub_wrap
    · exact counterDone (congrArg Host.Outcome.next (ctrAlu_ready hm hf)) (BitVec.mul_def ..)
    · exact counterDone (congrArg Host.Outcome.next (ctrAlu_ready hm hf)) shiftLeft_eq_ofNat
    · exact counterDone (congrArg Host.Outcome.next (ctrAlu_ready hm hf)) ushiftRight_eq_ofNat
    · exact counterDone (congrArg Host.Outcome.next (ctrAlu_ready hm hf)) ofNat_and
    · exact counterDone (congrArg Host.Outcome.next (ctrAlu_ready hm hf)) ofNat_or
    · exact counterDone (congrArg Host.Outcome.next (ctrAlu_ready hm hf)) ofNat_xor
  · intro b st cd imm s hm hf
    exact counterDone (congrArg Host.Outcome.next (issue_ready hm hf)) rfl

/-! ### Comparators (R181) -/

section Relations

variable {x y : W32}

theorem holds_eq : Rel.holds .eq x y = decide (x.toNat = y.toNat) := by simp [Rel.holds, beq_eq_decide, BitVec.toNat_inj]

theorem holds_ne : Rel.holds .ne x y = decide (x.toNat ≠ y.toNat) := by simp [Rel.holds, bne, beq_eq_decide, BitVec.toNat_inj]

theorem holds_ge : Rel.holds .ge x y = decide (y.toInt ≤ x.toInt) := by
  rw [Rel.holds, BitVec.slt_eq_decide, ← decide_not, decide_eq_decide, Int.not_lt]

theorem holds_geu : Rel.holds .geu x y = decide (y.toNat ≤ x.toNat) := by
  rw [Rel.holds, BitVec.ult_eq_decide, ← decide_not, decide_eq_decide, Nat.not_lt]

end Relations

/-- Settles O2: both instructions write the one comparator bit of the relation, read on numbers, or of the logic. -/
theorem comparators : Obligations.Comparators := by
  unfold Obligations.Comparators
  constructor
  · intro b st kd ca r o s hm hf
    refine ⟨_, congrArg Host.Outcome.next (issue_ready hm hf), onlyStrm_updStrm,
      strm_updStrm.trans (congrArg (fun v => ((s.strm b st).setCmp kd v).next) ?_)⟩
    cases r with
    | eq => exact holds_eq
    | ne => exact holds_ne
    | lt => rfl
    | ge => exact holds_ge
    | ltu => rfl
    | geu => exact holds_geu
  · intro b st kd ka kb op s hm
    refine ⟨_, congrArg Host.Outcome.next (issue_ready hm free_nil), onlyStrm_updStrm,
      strm_updStrm.trans (congrArg (fun v => ((s.strm b st).setCmp kd v).next) ?_)⟩
    cases op with
    | and => rfl
    | or => rfl
    | xor => exact congrFun (congrFun Bool.bne_eq_xor.symm _) _
    | andn => rfl

/-! ### A fault of a stream that has not halted (R202, R426) -/

theorem strm_trap_live {code : Nat} (h : (s.strm b st).status ≠ .halted) : (trap b st code s).strm b st =
    { (s.strm b st).halted code (s.strm b st).pc false with haltAge := some (s.bay b).issued } :=
  (congrArg (fun y => Bays.strm y st) (bay_trap h)).trans (strm_moved.trans strm_setStrm)

/-- A fault writes no memory but the record ring, and the count of an uncorrectable unit before it none. -/
theorem ringOnly_trap_ueAt {code id bay off : Nat} : ringOnly s (trap b st code (ueAt id bay off s)) :=
  fun a ha => ringOnly_haltStream (s := ueAt id bay off s) a ha

/-! ### Data memory (R181, R182) -/

section Dmem

variable {cd ca cs : Ctr} {imm : BitVec 16} {ev : CodeEvent} {i : Nat}

@[simp] theorem strm_noteFixed_clean {l : List (Nat × Nat)} : noteFixed b .clean l s = s := rfl

theorem smallBad_any_of_unitBad {p : Prot} {x : Nat × Nat} (h : p.unitBad x = true) : p.smallBad.isEmpty = false := by
  cases hp : p.smallBad with
  | nil => simp [Prot.unitBad, hp] at h
  | cons e r => rfl

/-- A single unit that is read is met exactly when the event names its memory or it is known to be uncorrectable. -/
theorem metUnit_single_good {id o : Nat} (h : (s.bay b).prot.unitBad (id, o) = false) :
    metUnit b .clean [(id, o)] s = none := by
  simp [metUnit, evUnit, h]

theorem metUnit_named {k : Byte} {id o : Nat} (hid : k.toNat = id) (hk : 16 ≤ id) :
    metUnit b (.small k i) [(id, o)] s = some (id, o) := by
  simp [metUnit, evUnit, hid, hk, pickUnit, Nat.mod_one]

theorem metUnit_known {id o : Nat} (h : (s.bay b).prot.unitBad (id, o) = true) : (metUnit b ev [(id, o)] s).isSome = true := by
  unfold metUnit
  split
  · rfl
  · simp [smallBad_any_of_unitBad h, h]

theorem exec_tsLdw_met (hm : mayIssue b st (.tsLdw b st cd ca imm ev) s = true) (hf : (s.strm b st).free [cd, ca] = true)
    (hi : dmemIndex (s.strm b st) ca imm < 16384)
    (hu : (metUnit b ev [(0x11, dmemOff st (dmemIndex (s.strm b st) ca imm))] s).isSome = true) :
    exec (.tsLdw b st cd ca imm ev) s =
      .next (trap b st 0x44 (ueAt 0x11 b (dmemOff st (dmemIndex (s.strm b st) ca imm)) s)) := by
  change execTsLdw b st cd ca imm ev s = _
  rw [execTsLdw, issue_ready hm hf, if_neg (by omega), if_pos hu]

theorem exec_tsLdw_good (hm : mayIssue b st (.tsLdw b st cd ca imm .clean) s = true) (hf : (s.strm b st).free [cd, ca] = true)
    (hi : dmemIndex (s.strm b st) ca imm < 16384)
    (hu : (s.bay b).prot.unitBad (0x11, dmemOff st (dmemIndex (s.strm b st) ca imm)) = false) :
    exec (.tsLdw b st cd ca imm .clean) s =
      .next (putCtr b st cd (Sparse.get (fun _ => 0#32) (s.strm b st).dmem (dmemIndex (s.strm b st) ca imm)) s) := by
  change execTsLdw b st cd ca imm .clean s = _
  rw [execTsLdw, issue_ready hm hf, if_neg (by omega), metUnit_single_good hu]
  rfl

/-- The state a TS.STW inside the range leaves. -/
def tsStwDone (b : Bay) (st : Strm) (i : Nat) (v : W32) (s : State) : State :=
  cure b 0x11 (dmemOff st i) (s.updStrm b st (fun x => { x with dmem := Sparse.set (fun _ => 0#32) x.dmem i v }.next))

theorem strm_tsStwDone {v : W32} : (tsStwDone b st i v s).strm b st =
    { s.strm b st with dmem := Sparse.set (fun _ => 0#32) (s.strm b st).dmem i v }.next :=
  strm_updProt.trans strm_updStrm

theorem bay_tsStwDone {v : W32} : (tsStwDone b st i v s).bay b =
    { (s.bay b).setStrm st ((tsStwDone b st i v s).strm b st) with
      moved := true, prot := (s.bay b).prot.cured 0x11 (dmemOff st i) } := by
  rw [strm_tsStwDone, tsStwDone, cure, bay_updProt, bay_updStrm]
  simp

theorem onlyBay_tsStwDone {v : W32} : onlyBay b s (tsStwDone b st i v s) := by
  unfold tsStwDone cure
  exact onlyBay_trans (onlyStrm_updStrm (st := st)).1 onlyBay_updProt

theorem exec_tsStw_good (hm : mayIssue b st (.tsStw b st cs ca imm) s = true) (hf : (s.strm b st).free [cs, ca] = true)
    (hi : dmemIndex (s.strm b st) ca imm < 16384) :
    exec (.tsStw b st cs ca imm) s =
      .next (tsStwDone b st (dmemIndex (s.strm b st) ca imm) (s.strm b st).ctr[cs] s) := by
  change execTsStw b st cs ca imm s = _
  rw [execTsStw, issue_ready hm hf, if_neg (by omega)]
  rfl

end Dmem

/-- Settles O3: inside the range each access comes to one counter or one word, and an uncorrectable word to `trap` with 0x44. -/
theorem dmemAccess : Obligations.DmemAccess := by
  unfold Obligations.DmemAccess
  refine ⟨?_, ?_, ?_, ?_, ?_⟩
  · intro b st cd ca imm s hm hf hi hu
    exact ⟨_, exec_tsLdw_good hm hf hi hu, onlyStrm_putCtr, strm_putCtr⟩
  · intro b st cs ca imm s hm hf hi hw
    refine ⟨_, exec_tsStw_good hm hf hi, onlyBay_tsStwDone, bay_tsStwDone, ?_, fun i => ?_⟩ <;> rw [strm_tsStwDone]
    · rfl
    · exact Laws.Sparse.get_set hw
  · intro b st cd ca imm ev s hm hf hi hu
    have hmet : (metUnit b ev [(0x11, dmemOff st (dmemIndex (s.strm b st) ca imm))] s).isSome = true := by
      rcases hu with ⟨i, rfl⟩ | hu
      · rw [metUnit_named (id := 0x11) rfl (by decide)]
        rfl
      · exact metUnit_known hu
    have hlive : ((ueAt 0x11 b (dmemOff st (dmemIndex (s.strm b st) ca imm)) s).strm b st).status ≠ .halted :=
      status_ne_halted_of_mayIssue hm
    refine ⟨_, exec_tsLdw_met hm hf hi hmet, ringOnly_trap_ueAt, ?_, ?_, ?_, ?_⟩ <;> rw [strm_trap_live hlive] <;> rfl
  · intro b st cd s hm hf
    refine ⟨_, congrArg Host.Outcome.next (issue_ready hm hf), onlyStrm_putCtr, strm_putCtr.trans ?_⟩
    rfl
  · intro b st cd l s hm hf
    refine ⟨_, congrArg Host.Outcome.next (issue_ready hm hf), onlyStrm_putCtr, strm_putCtr.trans ?_⟩
    by_cases h : l.val < (s.strm b st).loops.length <;> simp [h]

end Sys2Proof.Proofs.Counters
end

section
/-! PROOFS. Control flow and its ends (R183 to R186, R225). -/

namespace Sys2Proof.Proofs.ControlCore

open Sys2Proof Sys2Proof.Machine Sys2Proof.Laws.State Sys2Proof.Laws.Ops Sys2Proof.Proofs.Tables Sys2Proof.Proofs.VectorEngine
  Sys2Proof.Proofs.DataMemory Sys2Proof.Proofs.Counters

variable {s t : State} {b : Bay} {st : Strm} {c : Instr}

section Issue

variable {src : BrSrc} {pol : Bool} {target last : BitVec 15} {cn : Ctr} {k : Nat} {f : HiddenFrame} {p : BitVec 15}
  {r : List (BitVec 15)}

theorem exec_tsBr_ready (hm : mayIssue b st (.tsBr b st src pol target) s = true) (hb : BrSrc.busy src b st s = false) :
    exec (.tsBr b st src pol target) s =
      .next (if BrSrc.val src b st s = pol then jump b st target s else retire b st s) := by
  change execTsBr b st src pol target s = _
  rw [execTsBr, issue_ready hm free_nil, hb]
  rfl

theorem exec_tsCall_ready (hm : mayIssue b st (.tsCall b st target) s = true) (hd : (s.strm b st).calls.length < 8) :
    exec (.tsCall b st target) s = .next (s.updStrm b st (fun x =>
      { x with calls := (loopNext x.pc x.loops).1 :: x.calls }.goto target (loopNext x.pc x.loops).2)) := by
  change execTsCall b st target s = _
  rw [execTsCall, issue_ready hm free_nil, if_neg (by omega)]

theorem exec_tsCall_deep (hm : mayIssue b st (.tsCall b st target) s = true) (hd : 8 ≤ (s.strm b st).calls.length) :
    exec (.tsCall b st target) s = .next (trap b st 0x34 s) := by
  change execTsCall b st target s = _
  rw [execTsCall, issue_ready hm free_nil, if_pos hd]

/-- A TS.RET that is not the refresh routine's own pops the call stack. -/
theorem exec_tsRet_pop (hm : mayIssue b st (.tsRet b st) s = true)
    (hf : (s.strm b st).frame.all (fun f => f.depth != r.length + 1) = true) (hc : (s.strm b st).calls = p :: r) :
    exec (.tsRet b st) s = .next (s.updStrm b st (fun x => { x with calls := r }.goto p x.loops)) := by
  change execTsRet b st s = _
  rw [execTsRet, issue_ready hm free_nil]
  cases hfr : (s.strm b st).frame with
  | none => simp only [hfr, hc]
  | some f =>
    have hne : f.depth ≠ r.length + 1 := by simpa [hfr] using hf
    simp only [hfr, hc, List.length_cons, if_neg (Ne.symm hne)]

theorem exec_tsRet_empty (hm : mayIssue b st (.tsRet b st) s = true)
    (hf : (s.strm b st).frame.all (fun f => f.depth != 0) = true) (hc : (s.strm b st).calls = []) :
    exec (.tsRet b st) s = .next (trap b st 0x34 s) := by
  change execTsRet b st s = _
  rw [execTsRet, issue_ready hm free_nil]
  cases hfr : (s.strm b st).frame with
  | none => simp only [hfr, hc]
  | some f =>
    have hne : f.depth ≠ 0 := by simpa [hfr] using hf
    simp only [hfr, hc, List.length_nil, if_neg (Ne.symm hne)]

/-- The refresh routine's TS.RET restores the hidden frame once the inserted bracket has ended, and faults before. -/
theorem exec_tsRet_frame (hm : mayIssue b st (.tsRet b st) s = true) (hf : (s.strm b st).frame = some f)
    (hd : (s.strm b st).calls.length = f.depth) :
    exec (.tsRet b st) s = .next (if refreshOpen b s then trap b st 0x38 s
      else refreshBack b (s.updStrm b st (fun x => x.leaveFrame f s.od.waitTimeout))) := by
  change execTsRet b st s = _
  rw [execTsRet, issue_ready hm free_nil]
  simp only [hf, hd, if_true]

theorem exec_tsLoop_ready (hm : mayIssue b st (.tsLoop b st cn last) s = true) (hf : (s.strm b st).free [cn] = true) :
    exec (.tsLoop b st cn last) s = .next (if (s.strm b st).ctr[cn].toNat = 0 then jump b st (last + 1) s
      else if 4 ≤ (s.strm b st).loops.length then trap b st 0x33 s
      else s.updStrm b st (fun x => x.goto (x.pc + 1) (⟨x.pc + 1, last, (s.strm b st).ctr[cn].toNat, 0⟩ :: x.loops))) := by
  change execTsLoop b st cn last s = _
  rw [execTsLoop, issue_ready hm hf]
  rfl

theorem exec_tsBreak_ready (hm : mayIssue b st (.tsBreak b st (k + 1)) s = true) (h : k < (s.strm b st).loops.length) :
    exec (.tsBreak b st (k + 1)) s = .next (s.updStrm b st (fun x =>
      x.goto (((s.strm b st).loops[k]'h).last + 1) ((s.strm b st).loops.drop (k + 1)))) := by
  change execTsBreak b st (k + 1) s = _
  rw [execTsBreak, issue_ready hm free_nil, Nat.add_sub_cancel, List.drop_eq_getElem_cons h]

theorem exec_tsEnd_ready (hm : mayIssue b st (.tsEnd b st) s = true) (hw : workDone b st s = true) :
    exec (.tsEnd b st) s =
      .next (s.updStrm b st (fun x => { x.goto (x.pc + 1) x.loops with status := .idle })) := by
  change execTsEnd b st s = _
  rw [execTsEnd, issue_ready hm free_nil, if_pos hw]

end Issue

theorem ctr_ne_zero_iff {v : W32} : v ≠ 0#32 ↔ ¬ v.toNat = 0 := by
  rw [ne_eq, ← BitVec.toNat_inj]
  rfl

/-- The state a refresh routine's return leaves. -/
def refreshLeft (b : Bay) (st : Strm) (f : HiddenFrame) (s : State) : State :=
  refreshBack b (s.updStrm b st (fun x => x.leaveFrame f s.od.waitTimeout))

theorem bay_refreshBack {d : Bay} : (refreshBack b s).bay d = s.bay d := rfl

theorem strm_refreshBack : (refreshBack b s).strm b st = s.strm b st := rfl

theorem strm_refreshLeft {f : HiddenFrame} :
    (refreshLeft b st f s).strm b st = (s.strm b st).leaveFrame f s.od.waitTimeout :=
  strm_refreshBack.trans strm_updStrm

theorem bay_refreshLeft {f : HiddenFrame} : (refreshLeft b st f s).bay b =
    { (s.bay b).setStrm st ((refreshLeft b st f s).strm b st) with moved := true } := by
  rw [strm_refreshLeft]
  exact bay_refreshBack.trans bay_updStrm

theorem bay_refreshLeft_ne {f : HiddenFrame} {d : Bay} (h : d ≠ b) : (refreshLeft b st f s).bay d = s.bay d :=
  bay_refreshBack.trans (bay_updBay_ne h)

/-- A fault at an instruction that may issue halts its stream there. -/
theorem trapped {code : Nat} {v : Byte} (hm : mayIssue b st c s = true) (h : exec c s = .next (trap b st code s))
    (hv : BitVec.ofNat 8 code = v) : ∃ t, exec c s = .next t ∧ ringOnly s t ∧
      t.strm b st = { s.strm b st with status := .halted, fault := v, fpc := (s.strm b st).pc, wait := (s.strm b st).dueWait, haltAge := some (s.bay b).issued } := by
  subst hv
  exact ⟨_, h, ringOnly_haltStream, strm_trap_live (status_ne_halted_of_mayIssue hm)⟩

/-- Settles O5: each instruction comes to one update of its stream, or to `trap`. -/
theorem controlFlow : Obligations.ControlFlow := by
  unfold Obligations.ControlFlow
  refine ⟨?_, ?_, ?_, ?_, ?_, ?_, ?_, ?_, ?_, ?_⟩
  · intro b st src pol target s hm hb
    refine ⟨_, exec_tsBr_ready hm hb, ?_, ?_⟩
    · split
      · exact onlyStrm_jump
      · exact onlyStrm_retire
    · cases src <;> exact (apply_ite (State.strm · b st) _ _ _).trans (if_congr Iff.rfl strm_jump strm_retire)
  · intro b st target s hm
    exact ⟨_, congrArg Host.Outcome.next (issue_ready hm free_nil), onlyStrm_jump, strm_jump⟩
  · intro b st target s hm hd
    exact ⟨_, exec_tsCall_ready hm hd, onlyStrm_updStrm, strm_updStrm⟩
  · intro b st p r s hm hf hc
    exact ⟨_, exec_tsRet_pop hm hf hc, onlyStrm_updStrm, strm_updStrm⟩
  · intro b st f s hm hf hd ho
    exact ⟨_, (exec_tsRet_frame hm hf hd).trans (by rw [ho]; rfl), rfl, fun d hd => bay_refreshLeft_ne hd, bay_refreshLeft,
      strm_refreshLeft, rfl⟩
  · intro b st cn last s hm hf hz
    exact ⟨_, (exec_tsLoop_ready hm hf).trans (congrArg _ (if_pos (by rw [hz]; rfl))), onlyStrm_jump, strm_jump⟩
  · intro b st cn last s hm hf hz hl
    exact ⟨_, (exec_tsLoop_ready hm hf).trans (congrArg _ ((if_neg (ctr_ne_zero_iff.1 hz)).trans (if_neg (by omega)))),
      onlyStrm_updStrm, strm_updStrm⟩
  · intro b st k s h hm
    exact ⟨_, exec_tsBreak_ready hm h, onlyStrm_updStrm, strm_updStrm⟩
  · intro b st s hm hw
    exact ⟨_, exec_tsEnd_ready hm hw, onlyStrm_updStrm, strm_updStrm⟩
  · intro b st cn last target s c code hc hm
    rcases hc with ⟨rfl, rfl, hf, hz, hl⟩ | ⟨rfl, rfl, hl⟩ | ⟨rfl, rfl, hc, hf⟩ | ⟨rfl, rfl, ho, hf⟩
    · exact trapped hm ((exec_tsLoop_ready hm hf).trans
        (congrArg _ ((if_neg (ctr_ne_zero_iff.1 hz)).trans (if_pos hl)))) rfl
    · exact trapped hm (exec_tsCall_deep hm hl) rfl
    · exact trapped hm (exec_tsRet_empty hm hf hc) rfl
    · obtain ⟨f, hf, hd⟩ := (Option.any_eq_true _ _).1 hf
      exact trapped hm ((exec_tsRet_frame hm hf (beq_iff_eq.1 hd).symm).trans (congrArg _ (if_pos ho))) rfl

end Sys2Proof.Proofs.ControlCore
end

section
/-! PROOFS. Local and global flags and the ends of their waits (R187 to R190). -/

namespace Sys2Proof.Proofs.FlagWaits

open Sys2Proof Sys2Proof.Machine Sys2Proof.Laws.State Sys2Proof.Laws.Ops Sys2Proof.Proofs.Tables Sys2Proof.Proofs.VectorEngine
  Sys2Proof.Proofs.DataMemory Sys2Proof.Proofs.Counters

variable {s t u : State} {b : Bay} {st : Strm} {c : Instr} {f g : LFlag} {pol clr v : Bool}

theorem alive_of_dieRuns (h : dieRuns s = true) : alive s = true := by
  simpa [dieRuns, alive, and_comm, and_assoc] using h

/-! ### Flags (R187) -/

@[simp] theorem strm_putFlag_any {d : Bay} : (putFlag b f v s).strm d st = s.strm d st := by
  by_cases h : d = b
  · subst h
    exact strm_putFlag
  · exact congrArg (fun y => Bays.strm y st) (bay_updBay_ne h)

/-- Writing a flag and going on leaves everything but the flags and the stream. -/
theorem onlyStrmFlags_retire_putFlag : onlyStrmFlags b st s (retire b st (putFlag b f v s)) := by
  refine ⟨onlyBay_trans onlyBay_putFlag onlyBay_retire, ?_⟩
  rw [strm_retire, strm_putFlag, retire, bay_updStrm, strm_putFlag, putFlag, bay_updBay]
  cases st <;> rfl

theorem onlyStrmFlags_of_onlyStrm (h : onlyStrm b st s t) : onlyStrmFlags b st s t := by
  obtain ⟨hbay, hb⟩ := h
  refine ⟨hbay, hb.trans ?_⟩
  rw [hb]

theorem strm_retire_putFlag : (retire b st (putFlag b f v s)).strm b st = (s.strm b st).next := by
  rw [strm_retire, strm_putFlag]

theorem flags_retire : ((retire b st s).bay b).flags = (s.bay b).flags := by
  rw [retire, bay_updStrm]
  exact flags_setStrm

theorem flag_retire_putFlag :
    ((retire b st (putFlag b f v s)).bay b).flags.getLsbD g = if g = f then v else (s.bay b).flags.getLsbD g := by
  rw [flags_retire]
  exact flagOf_putFlag

/-! ### The end of a wait on a local flag (R187, R188) -/

theorem onlyStrmFlags_endFlagWait : onlyStrmFlags b st s (endFlagWait b st f pol clr s) := by
  unfold endFlagWait
  split
  · exact onlyStrmFlags_retire_putFlag
  · exact onlyStrmFlags_of_onlyStrm onlyStrm_retire

theorem strm_endFlagWait : (endFlagWait b st f pol clr s).strm b st = (s.strm b st).next := by
  unfold endFlagWait
  split
  · exact strm_retire_putFlag
  · exact strm_retire

theorem flag_endFlagWait : ((endFlagWait b st f pol clr s).bay b).flags.getLsbD g =
    if g = f ∧ pol = true ∧ clr = true then false else (s.bay b).flags.getLsbD g := by
  unfold endFlagWait
  by_cases h : clr = true ∧ pol = true
  · obtain ⟨rfl, rfl⟩ := h
    rw [Bool.and_self, if_pos rfl, flag_retire_putFlag]
    simp
  · rw [if_neg (by simpa using h), flags_retire, if_neg (fun hc => h ⟨hc.2.2, hc.2.1⟩)]

/-- The wait may end: the flag stands at the polarity, and neither a summary nor the X-stream has a claim on it. -/
theorem wait_may_end (hbusy : st = .x → (s.bay b).flagBusy.getLsbD f = false) (hf : (s.bay b).flags.getLsbD f = pol)
    (hx : st = .a → clr = true → pol = true → xConsumes b f s = false) :
    (flagReady b st f pol s && !(st == .a && clr && pol && xConsumes b f s)) = true := by
  have hval : flagOf b f s = pol := hf
  cases st with
  | a =>
    have hclaim : (clr && pol && xConsumes b f s) = false := by
      cases clr <;> cases pol <;> simp_all
    have hst : (Strm.a == Strm.x) = false := rfl
    have hsa : (Strm.a == Strm.a) = true := rfl
    simp only [flagReady, hst, hsa, hval, Bool.false_and, Bool.not_false, Bool.true_and, hclaim, beq_self_eq_true]
  | x =>
    have hsx : (Strm.x == Strm.a) = false := rfl
    simp only [flagReady, hval, hbusy rfl, hsx, Bool.and_false, Bool.false_and, Bool.not_false, Bool.true_and, beq_self_eq_true]

theorem wait_may_not_end (h : (s.bay b).flags.getLsbD f ≠ pol ∨ (st = .a ∧ clr = true ∧ pol = true ∧ xConsumes b f s = true)) :
    (flagReady b st f pol s && !(st == .a && clr && pol && xConsumes b f s)) = false := by
  rcases h with hf | ⟨rfl, rfl, rfl, hx⟩
  · have hval : (flagOf b f s == pol) = false := beq_eq_false_iff_ne.2 hf
    rw [flagReady, hval, Bool.and_false, Bool.false_and]
  · simp [hx]

theorem exec_tsWait_run (hm : mayIssue b st (.tsWait b st f pol clr) s = true) (hr : (s.strm b st).status = .run) :
    exec (.tsWait b st f pol clr) s = .next
      (if flagReady b st f pol s && !(st == .a && clr && pol && xConsumes b f s) then endFlagWait b st f pol clr s
       else Machine.stall b st .flagL (.tsWait b st f pol clr) 0#32 s) := by
  change execTsWait b st f pol clr s = _
  rw [execTsWait, issue_ready hm free_nil, if_neg (by simp [hr])]

theorem exec_flagWaitEnd {w : Wait} (ha : dieRuns s = true) (hs : (s.strm b st).status = .wait) (hw : (s.strm b st).wait = some w)
    (hc : w.cmd = .tsWait b st f pol clr)
    (he : (flagReady b st f pol s && !(st == .a && clr && pol && xConsumes b f s)) = true) :
    exec (.flagWaitEnd b st) s = .next (endFlagWait b st f pol clr s) := by
  change execFlagWaitEnd b st s = _
  obtain ⟨cause, n, m, cmd, v⟩ := w
  subst hc
  rw [Bool.and_eq_true] at he
  simp [execFlagWaitEnd, hw, hs, alive_of_dieRuns ha, he]

/-- A new wait of a stream that waits on nothing. -/
theorem waiting_of_none {x : Stream} {cause : Cause} {n : Nat} {w : W32} (h : x.wait = none) :
    x.waiting cause n c w = { x with status := .wait, fpc := x.pc, wait := some ⟨cause, 0, n, c, w⟩ } := by
  simp [Stream.waiting, h]

/-- Settles O6: every instruction comes to a flag written and the stream going on, to `endFlagWait`, or to a new wait. -/
theorem localFlags : Obligations.LocalFlags := by
  unfold Obligations.LocalFlags
  refine ⟨?_, ?_, ?_, ?_⟩
  · intro b st f v s c hc hm
    simp only [List.mem_cons, Prod.mk.injEq, List.not_mem_nil, or_false] at hc
    have hexec : exec c s = .next (retire b st (putFlag b f v s)) := by
      rcases hc with ⟨rfl, rfl⟩ | ⟨rfl, rfl⟩
      · exact congrArg Host.Outcome.next (issue_ready hm free_nil)
      · exact congrArg Host.Outcome.next (issue_ready hm free_nil)
    exact ⟨_, hexec, onlyStrmFlags_retire_putFlag, strm_retire_putFlag, fun g => flag_retire_putFlag⟩
  · intro b st f pol clr s hm hr hbusy hf hx
    exact ⟨_, (exec_tsWait_run hm hr).trans (congrArg _ (if_pos (wait_may_end hbusy hf hx))), onlyStrmFlags_endFlagWait,
      strm_endFlagWait, fun g => flag_endFlagWait⟩
  · intro b st f pol clr s hm hr hw hn
    rw [exec_tsWait_run hm hr, wait_may_not_end hn, if_neg Bool.false_ne_true, Machine.stall, waiting_of_none hw]
  · intro b st f pol clr w s ha hs hw hc hbusy hf hx
    exact ⟨_, exec_flagWaitEnd ha hs hw hc (wait_may_end hbusy hf hx), onlyStrmFlags_endFlagWait, strm_endFlagWait,
      fun g => flag_endFlagWait⟩

/-! ### Global flags (R189, R190) -/

section Global

variable {k g : Fin 256} {cn cs : Ctr}

theorem gflagOf_putGflag {v : BitVec 16} (hw : Sparse.wf (fun _ => 0#16) s.hdr.gflags = true) :
    gflagOf k (putGflag g v s) = if k = g then v else gflagOf k s := by
  rw [gflagOf, putGflag, Laws.Sparse.get_set hw]
  simp only [Fin.ext_iff]
  rfl

/-- The comparison of R189 on numbers. -/
theorem gflagDone_eq {x : BitVec 16} {v : W32} (h : (x.toNat + 2 ^ 16 - v.toNat % 2 ^ 16) % 2 ^ 16 < 2 ^ 15) :
    gflagDone x v = true := by
  have hsub : (x - v.truncate 16).toNat = (x.toNat + 2 ^ 16 - v.toNat % 2 ^ 16) % 2 ^ 16 := by
    have hv : v.toNat % 2 ^ 16 < 2 ^ 16 := Nat.mod_lt _ (by decide)
    rw [BitVec.toNat_sub, BitVec.truncate, BitVec.toNat_setWidth]
    omega
  rw [gflagDone, hsub]
  exact decide_eq_true h

theorem filter_of_all_ne {l : List (Bay × StatOp)} (h : l.all (fun e => e.1 != b) = true) : l.filter (fun e => e.1 == b) = [] := by
  rw [List.filter_eq_nil_iff]
  intro e he
  have := List.all_eq_true.1 h e he
  simpa using this

/-- With none of the bay's statistics operations waiting, nothing is applied before its flag is seen. -/
theorem beforeFlag_idle (h : st = .x → s.stats.queue.all (fun e => e.1 != b) = true) : beforeFlag b st s = s := by
  cases st with
  | a => rfl
  | x =>
    rw [beforeFlag, statFlush, filter_of_all_ne (h rfl)]
    rfl

theorem ofNat_add_byte {x : BitVec 16} {i : Byte} : x + i.zeroExtend 16 = BitVec.ofNat 16 (x.toNat + i.toNat) := by
  apply BitVec.eq_of_toNat_eq
  simp [BitVec.toNat_add]

theorem truncate_eq_ofNat {v : W32} : v.truncate 16 = BitVec.ofNat 16 v.toNat := by
  apply BitVec.eq_of_toNat_eq
  simp

theorem exec_tsGwait_run (hm : mayIssue b st (.tsGwait b st g cn) s = true) (hr : (s.strm b st).status = .run)
    (hf : (s.strm b st).free [cn] = true) (hd : gflagDone (gflagOf g s) (s.strm b st).ctr[cn] = true) :
    exec (.tsGwait b st g cn) s = .next (retire b st s) := by
  change execTsGwait b st g cn s = _
  rw [execTsGwait, issue_ready hm hf, if_neg (by simp [hr])]
  exact congrArg _ (if_pos hd)

theorem exec_globalWaitEnd {n m : Nat} {v : W32} (ha : dieRuns s = true) (hs : (s.strm b st).status = .wait)
    (hw : (s.strm b st).wait = some ⟨gwaitCause g, n, m, .tsGwait b st g cn, v⟩) (hd : gflagDone (gflagOf g s) v = true) :
    exec (.globalWaitEnd b st) s = .next (retire b st s) := by
  change execGlobalWaitEnd b st s = _
  simp [execGlobalWaitEnd, hw, hs, alive_of_dieRuns ha, hd]

end Global

/-- Settles O7: a flag write is `putGflag` and the stream going on, a wait ends on `gflagDone`, read on numbers. -/
theorem globalFlags : Obligations.GlobalFlags := by
  unfold Obligations.GlobalFlags
  refine ⟨?_, ?_, ?_⟩
  · intro b st g imm cs s c v hc hm hf hw hq
    have hbefore := beforeFlag_idle hq
    have hexec : exec c s = .next (retire b st (putGflag g (BitVec.ofNat 16 v) s)) := by
      simp only [List.mem_cons, Prod.mk.injEq, List.not_mem_nil, or_false] at hc
      rcases hc with ⟨rfl, rfl⟩ | ⟨rfl, rfl⟩
      · refine (congrArg Host.Outcome.next (issue_ready hm free_nil)).trans ?_
        rw [hbefore, ofNat_add_byte]
      · refine (congrArg Host.Outcome.next (issue_ready hm hf)).trans ?_
        rw [hbefore, truncate_eq_ofNat, ctrOf]
    exact ⟨_, hexec, rfl, bay_updStrm, fun d hd => bay_updBay_ne hd, fun k => gflagOf_putGflag hw⟩
  · intro b st g cn s hm hr hf hd
    exact ⟨_, exec_tsGwait_run hm hr hf (gflagDone_eq hd), onlyStrm_retire, strm_retire⟩
  · intro b st g cn n m v s ha hs hw hd
    exact ⟨_, exec_globalWaitEnd ha hs hw (gflagDone_eq hd), onlyStrm_retire, strm_retire⟩

end Sys2Proof.Proofs.FlagWaits
end

section
/-! PROOFS. Data queues, beat-scheduled release and preemption points (R191, R192, R196, R197, R207). -/

namespace Sys2Proof.Proofs.DataQueues

open Sys2Proof Sys2Proof.Machine Sys2Proof.Laws.State Sys2Proof.Laws.Ops Sys2Proof.Proofs.Tables Sys2Proof.Proofs.VectorEngine
  Sys2Proof.Proofs.DataMemory Sys2Proof.Proofs.Counters Sys2Proof.Proofs.FlagWaits

variable {s t u : State} {b : Bay} {st : Strm} {q r : Fin 8}

/-! ### Queues of a bay (R191, R192) -/

@[simp] theorem strm_reserve {x : Bays} {n : Nat} {d : Option (List Byte)} : (x.reserve q n d).strm st = x.strm st := by
  cases st <;> rfl

@[simp] theorem strm_dqWritten {x : Bays} {l : List Nat} : (x.dqWritten b q l).strm st = x.strm st := by cases st <;> rfl

@[simp] theorem strm_pop {x : Bays} {m : Nat} : (x.pop q m).strm st = x.strm st := by cases st <;> rfl

@[simp] theorem dq_dqWritten {x : Bays} {l : List Nat} : (x.dqWritten b q l).dq = x.dq := rfl

theorem dq_reserve_one {x : Bays} {d : Option (List Byte)} : (x.reserve q 1 d).dq[q] = x.dq[q] ++ [⟨x.tickets, d⟩] := by
  simp [Bays.reserve, Bays.setDq]

theorem dq_reserve_ne {x : Bays} {n : Nat} {d : Option (List Byte)} (h : r ≠ q) : (x.reserve q n d).dq[r] = x.dq[r] := by
  have hne : q.val ≠ r.val := fun e => h (Fin.ext e.symm)
  simp [Bays.reserve, Bays.setDq, hne]

theorem dq_pop {x : Bays} {m : Nat} : (x.pop q m).dq[q] = x.dq[q].drop m := by
  simp [Bays.pop, Bays.setDq]

theorem ready_one {x : Bays} {k : Nat} {v : List Byte} {l : List DqEntry} (h : x.dq[q] = ⟨k, some v⟩ :: l) :
    x.ready q 1 = some [v] := by
  simp [Bays.ready, h]

@[simp] theorem dq_retire : ((retire b st s).bay b).dq = (s.bay b).dq := by
  rw [retire, bay_updStrm]
  exact dq_setStrm

@[simp] theorem soundUnits_pop {m : Nat} : soundUnits b (s.updBay b (fun x => x.pop q m)) = soundUnits b s := by
  rw [soundUnits, bay_updBay]
  rfl

theorem metUnit_sound {l : List (Nat × Nat)} (h : soundUnits b s = true) : metUnit b .clean l s = none := if_pos h

/-- A bay with the entry a TS.QPUT makes at the tail of a queue. -/
def queued (b : Bay) (q : Fin 8) (v : List Byte) (x : Bays) : Bays := (x.reserve q 1 (some v)).dqWritten b q [x.tickets]

theorem exec_tsQput_room {cn : Ctr} {m1 : Fin 16} (hm : mayIssue b st (.tsQput b st q cn m1) s = true)
    (hf : (s.strm b st).free (ctrRun cn m1) = true) (hq : (s.bay b).dq[q].length < 32) :
    exec (.tsQput b st q cn m1) s =
      .next (retire b st (s.updBay b (queued b q (qputBytes (s.strm b st) (ctrRun cn m1))))) := by
  change execTsQput b st q cn m1 s = _
  rw [execTsQput, issue_ready hm hf, if_neg (by omega)]
  rfl

theorem exec_tsQpop_ready {cd : Ctr} {m1 : Fin 16} {k : Nat} {v : List Byte} {l : List DqEntry}
    (hm : mayIssue b st (.tsQpop b st q cd m1 .clean) s = true) (hf : (s.strm b st).free (ctrRun cd m1) = true)
    (hu : soundUnits b s = true) (hq : (s.bay b).dq[q] = ⟨k, some v⟩ :: l) :
    exec (.tsQpop b st q cd m1 .clean) s =
      .next ((s.updBay b (fun x => x.pop q 1)).updStrm b st (fun x => (x.fillCtrs (ctrRun cd m1) v).next)) := by
  change execTsQpop b st q cd m1 .clean s = _
  rw [execTsQpop, issue_ready hm hf]
  simp only [ready_one hq, metUnit_sound (soundUnits_pop.trans hu)]
  rfl

/-! ### Release and preemption (R196, R197, R207) -/

theorem exec_tsRel_due {cb : Ctr} (hm : mayIssue b st (.tsRel b st cb) s = true) (hr : (s.strm b st).status = .run)
    (hf : (s.strm b st).free [cb] = true) (hd : beatDone s.beat.beat (s.strm b st).ctr[cb] = true) :
    exec (.tsRel b st cb) s = .next (retire b st s) := by
  change execTsRel b st cb s = _
  rw [execTsRel, issue_ready hm hf, if_neg (by simp [hr])]
  exact congrArg _ (if_pos hd)

theorem exec_releaseWaitEnd {cb : Ctr} {n m : Nat} {v : W32} (ha : dieRuns s = true) (hs : (s.strm b st).status = .wait)
    (hw : (s.strm b st).wait = some ⟨.beat, n, m, .tsRel b st cb, v⟩) (hd : beatDone s.beat.beat v = true) :
    exec (.releaseWaitEnd b st) s = .next (if s.beat.st = .hold then s else retire b st s) := by
  change execReleaseWaitEnd b st s = _
  by_cases h : s.beat.st = .hold <;> simp [execReleaseWaitEnd, hw, hs, alive_of_dieRuns ha, hd, h]

/-- The stream parks at a TS.YIELD. -/
def yields (b : Bay) (st : Strm) (s : State) : Bool :=
  ((s.bay b).parkPend || (s.bay b).parked) && !(st == .x && inBracket b s)

theorem yields_iff : yields b st s = true ↔
    ((s.bay b).parkPend = true ∨ (s.bay b).parked = true) ∧ ¬ (st = .x ∧ inBracket b s = true) := by
  simp [yields, imp_iff_not_or]

theorem exec_tsYield_ready (hm : mayIssue b st (.tsYield b st) s = true) :
    exec (.tsYield b st) s = .next (if yields b st s then s.updStrm b st (fun x =>
      { x.next with status := .parked, wait := some ⟨.park, 0, 0, .tsYield b st, 0#32⟩, fpc := x.pc }) else retire b st s) := by
  change execTsYield b st s = _
  rw [execTsYield, issue_ready hm free_nil]
  rfl

/-- Settles O8: queue instructions come to one queue and the stream, release and yield to the stream alone. -/
theorem queuesAndRelease : Obligations.QueuesAndRelease := by
  unfold Obligations.QueuesAndRelease
  refine ⟨?_, ?_, ?_, ?_, ?_⟩
  · intro b st q cn m1 s hm hf hq
    refine ⟨_, exec_tsQput_room hm hf hq, onlyBay_trans onlyBay_updBay onlyBay_retire, ?_, ⟨(s.bay b).tickets, ?_⟩,
      fun r hr => ?_⟩
    · rw [strm_retire, strm_updBay, queued, strm_dqWritten, strm_reserve]
      rfl
    · rw [dq_retire, bay_updBay]
      exact dq_reserve_one
    · rw [dq_retire, bay_updBay]
      exact dq_reserve_ne hr
  · intro b st q cd m1 k v l s hm hf hu hq
    refine ⟨_, exec_tsQpop_ready hm hf hu hq, onlyBay_trans onlyBay_updBay (onlyStrm_updStrm (st := st)).1, ?_, ?_⟩
    · rw [bay_updStrm, bay_updBay]
      refine (congrArg (fun d => d[q]) dq_setStrm).trans (dq_pop.trans ?_)
      rw [hq]
      rfl
    · rw [strm_updStrm, strm_updBay, strm_pop]
      rfl
  · intro b st cb s hm hr hf hd
    exact ⟨_, exec_tsRel_due hm hr hf hd, onlyStrm_retire, strm_retire⟩
  · intro b st cb n m v s ha hs hw hd
    have hexec := exec_releaseWaitEnd ha hs hw hd
    split at hexec
    · rename_i hh
      rw [if_pos hh]
      exact hexec
    · rename_i hh
      rw [if_neg hh]
      exact ⟨_, hexec, onlyStrm_retire, strm_retire⟩
  · intro b st s hm
    have hexec := exec_tsYield_ready hm
    rw [← yields_iff]
    split at hexec
    · rename_i hy
      refine ⟨_, hexec, onlyStrm_updStrm, ?_, ?_⟩ <;> rw [strm_updStrm]
      exact iff_of_true rfl hy
    · rename_i hy
      refine ⟨_, hexec, onlyStrm_retire, ?_, ?_⟩ <;> rw [strm_retire]
      exact iff_of_false (by simp) hy

end Sys2Proof.Proofs.DataQueues
end

section
/-! PROOFS. What every step keeps (MemoryKept, ClocksKept): the canonical memory, the bounds of the no-progress counts and
of the DVFS steps, and the fuse fields burned at manufacture. One lemma per function of the model says that it keeps all four,
so that a caller's lemma cites its callees' and no proof opens a callee. -/

namespace Sys2Proof.Proofs.Invariants

open Sys2Proof Sys2Proof.Machine Sys2Proof.Laws.State Sys2Proof.Laws.Memory

/-! ### The invariants, and the relation between a state and a later one -/

/-- No bay's no-progress count passes 4,096 (R200). -/
def NpcInv (s : State) : Prop := ∀ b : Bay, (s.bay b).npc ≤ 4096

/-- No DVFS step and no target passes 15, and no raise is under way at step 15 (R412, R414). -/
def PwrInv (p : Power) : Prop := ∀ b : Bay, p.step[b] ≤ 15 ∧ ((p.raise[b]).isSome = true → p.step[b] ≤ 14) ∧ p.target[b] ≤ 15

/-- The later state `t` meets each invariant that `s` meets, and has its manufactured fuse fields. -/
def Kept (s t : State) : Prop :=
  (MemInv s → MemInv t) ∧ (NpcInv s → NpcInv t) ∧ (PwrInv s.pwr → PwrInv t.pwr) ∧ t.trust.fuses = s.trust.fuses

/-- An outcome with a next state leads to a later state that keeps what `s` meets. -/
def Keeps (s : State) (o : Host.Outcome State Fault Refusal) : Prop := ∀ t, o = .next t → Kept s t

/-- The later state, where there is one, keeps what `s` meets. -/
def KeptOpt (s : State) (o : Option State) : Prop := ∀ t, o = some t → Kept s t

variable {s₀ s t : State} {b : Bay} {st : Strm}

theorem clockInv_and_raiseInv_iff : ClockInv s ∧ RaiseInv s ↔ NpcInv s ∧ PwrInv s.pwr := by
  constructor
  · rintro ⟨hc, hr⟩
    exact ⟨fun b => (hc b).1, fun b => ⟨(hc b).2, (hr b).1, (hr b).2⟩⟩
  · rintro ⟨hn, hp⟩
    exact ⟨fun b => ⟨hn b, (hp b).1⟩, fun b => ⟨(hp b).2.1, (hp b).2.2⟩⟩

theorem Kept.refl : Kept s s := ⟨id, id, id, rfl⟩

theorem Kept.trans {u : State} (h : Kept s t) (h' : Kept t u) : Kept s u := by
  obtain ⟨hm, hn, hp, hf⟩ := h
  obtain ⟨hm', hn', hp', hf'⟩ := h'
  exact ⟨hm' ∘ hm, hn' ∘ hn, hp' ∘ hp, hf'.trans hf⟩

theorem keeps_next (h : Kept s t) : Keeps s (.next t) := fun _ hu => Host.Outcome.next.inj hu ▸ h

theorem keptOpt_some (h : Kept s t) : KeptOpt s (some t) := fun _ hu => Option.some.inj hu ▸ h

theorem keptOpt_none : KeptOpt s none := fun _ hu => nomatch hu

theorem keeps_fault {f : Fault} : Keeps s (.fault f) := fun _ hu => nomatch hu

theorem keeps_refused {r : Refusal} : Keeps s (.refused r) := fun _ hu => nomatch hu

/-! ### Record updates, by the fields they touch -/

/-- A state with the memory, the bays, the fuses and the steps of a kept one is kept. -/
theorem Kept.congr (h : Kept s₀ s) (hm : t.mem = s.mem) (hb : t.bays = s.bays) (hp : t.pwr.step = s.pwr.step)
    (hr : t.pwr.raise = s.pwr.raise) (hg : t.pwr.target = s.pwr.target) (hf : t.trust.fuses = s.trust.fuses) : Kept s₀ t := by
  refine h.trans ⟨memInv_congr hm, ?_, ?_, hf⟩
  · simp only [NpcInv, State.bay, hb, imp_self]
  · simp only [PwrInv, hp, hr, hg, imp_self]

section

variable {pending : List Instr} {ms : MemSt} {stk : Vector Stack 12} {hdr : Header} {pools : Sparse Pool} {stats :
  Stats} {codes : Codes} {tideCtr : TideCtr} {beat : Beat} {run : Run} {rcd : Rec} {link : Link} {sess : Vector Session
  4} {od : Od} {ldr : Loader} {faults : Faults} {rst : Resets} {bn : Bn} {tap : Tap} {tmx : Tmx} {tick : Nat} {free :
  Nat}
  {trust : Trust} {pwr : Power}

theorem kept_withBoth (hf : trust.fuses = s.trust.fuses) (hp : pwr.step = s.pwr.step) (hr : pwr.raise = s.pwr.raise)
    (hg : pwr.target = s.pwr.target) (h : Kept s₀ s) :
    Kept s₀ { s with
      pending := pending, ms := ms, stk := stk, hdr := hdr, pools := pools, stats := stats, codes := codes, tideCtr :=
      tideCtr, beat := beat, run := run, rcd := rcd, link := link, sess := sess, od := od, ldr := ldr, faults := faults,
      rst := rst, bn := bn, tap := tap, tmx := tmx, tick := tick, free := free, trust := trust, pwr := pwr } :=
  h.congr rfl rfl hp hr hg hf

theorem kept_withTrust (hf : trust.fuses = s.trust.fuses) (h : Kept s₀ s) :
    Kept s₀ { s with
      pending := pending, ms := ms, stk := stk, hdr := hdr, pools := pools, stats := stats, codes := codes, tideCtr :=
      tideCtr, beat := beat, run := run, rcd := rcd, link := link, sess := sess, od := od, ldr := ldr, faults := faults,
      rst := rst, bn := bn, tap := tap, tmx := tmx, tick := tick, free := free, trust := trust } :=
  kept_withBoth hf rfl rfl rfl h

theorem kept_withPwr (hp : pwr.step = s.pwr.step) (hr : pwr.raise = s.pwr.raise) (hg : pwr.target = s.pwr.target)
    (h : Kept s₀ s) :
    Kept s₀ { s with
      pending := pending, ms := ms, stk := stk, hdr := hdr, pools := pools, stats := stats, codes := codes, tideCtr :=
      tideCtr, beat := beat, run := run, rcd := rcd, link := link, sess := sess, od := od, ldr := ldr, faults := faults,
      rst := rst, bn := bn, tap := tap, tmx := tmx, tick := tick, free := free, pwr := pwr } :=
  kept_withBoth rfl hp hr hg h

theorem kept_with (h : Kept s₀ s) :
    Kept s₀ { s with
      pending := pending, ms := ms, stk := stk, hdr := hdr, pools := pools, stats := stats, codes := codes, tideCtr :=
      tideCtr, beat := beat, run := run, rcd := rcd, link := link, sess := sess, od := od, ldr := ldr, faults := faults,
      rst := rst, bn := bn, tap := tap, tmx := tmx, tick := tick, free := free } :=
  kept_withBoth rfl rfl rfl rfl h

end

/-! ### Control, and the operations on bays, streams and the memory -/

theorem kept_ite {p : Prop} [Decidable p] (h : Kept s₀ s) (h' : Kept s₀ t) : Kept s₀ (if p then s else t) := by
  split
  · exact h
  · exact h'

theorem keptOpt_ite {p : Prop} [Decidable p] {o o' : Option State} (h : KeptOpt s₀ o) (h' : KeptOpt s₀ o') :
    KeptOpt s₀ (if p then o else o') := by
  split
  · exact h
  · exact h'

theorem kept_foldl {α : Type} {l : List α} {f : State → α → State} (hf : ∀ u, Kept s₀ u → ∀ x, Kept s₀ (f u x))
    (h : Kept s₀ s) : Kept s₀ (l.foldl f s) := by
  induction l generalizing s with
  | nil => exact h
  | cons x l ih => exact ih (hf s h x)

theorem kept_repeat {f : State → State} {n : Nat} (hf : ∀ u, Kept s₀ u → Kept s₀ (f u)) (h : Kept s₀ s) :
    Kept s₀ (Nat.repeat f n s) := by
  induction n with
  | zero => exact h
  | succ n ih => exact hf _ ih

theorem kept_setBay_le {x : Bays} (hx : (s.bay b).npc ≤ 4096 → x.npc ≤ 4096) (h : Kept s₀ s) : Kept s₀ (s.setBay b x) := by
  refine h.trans ⟨id, fun hn c => ?_, id, rfl⟩
  by_cases hc : c = b
  · subst hc
    simpa using hx (hn c)
  · exact (congrArg Bays.npc (bay_setBay_ne hc)).trans_le (hn c)

/-! ### The memory -/

theorem kept_zeroRange {lo len : Nat} (h : Kept s₀ s) : Kept s₀ (s.zeroRange lo len) :=
  h.trans ⟨memInv_zeroRange, id, id, rfl⟩

theorem kept_store {a req : Nat} {v : List Byte} {via : Option Bay} (h : Kept s₀ s) : Kept s₀ (s.store a v req via) := by
  refine h.trans ⟨wf_wrRun, fun hn b => ?_, id, rfl⟩
  simpa [State.bay, State.store] using hn b

/-! ### The trackers -/

theorem kept_updStk {n : Nat} {f : Stack → Stack} (h : Kept s₀ s) : Kept s₀ (State.updStk s n f) := by
  unfold State.updStk
  split
  · exact kept_with h
  · exact h

theorem kept_traffic {rd wr : List (Nat × Nat)} (h : Kept s₀ s) : Kept s₀ (traffic rd wr s) := kept_with h

theorem kept_updStack {n : Stk} {f : Stack → Stack} (h : Kept s₀ s) : Kept s₀ (updStack n f s) := kept_with h

theorem kept_landReq {n : Stk} {q : MemReq} {d : Option (List Byte)} (h : Kept s₀ s) : Kept s₀ (landReq n q d s) := by
  unfold landReq
  dsimp only
  split
  · exact kept_store (kept_updStack h)
  · exact kept_updStack h

theorem kept_landSector {a : Nat} (h : Kept s₀ s) : Kept s₀ (landSector a s) :=
  kept_foldl (fun _ hu _ => (kept_foldl (fun _ hu _ => (kept_landReq hu)) hu)) h

/-! ### Operations on the state -/

theorem kept_setBay {x : Bays} (hx : x.npc = (s.bay b).npc) (h : Kept s₀ s) : Kept s₀ (s.setBay b x) :=
  kept_setBay_le (fun hn => hx ▸ hn) h

theorem kept_updBay {f : Bays → Bays} (hf : ∀ x, (f x).npc = x.npc) (h : Kept s₀ s) : Kept s₀ (s.updBay b f) :=
  kept_setBay (hf _) h

theorem kept_mapBays_le {f : Bay → Bays → Bays} (hf : ∀ b, (s.bay b).npc ≤ 4096 → (f b (s.bay b)).npc ≤ 4096)
    (h : Kept s₀ s) : Kept s₀ (s.mapBays f) := by
  refine h.trans ⟨id, fun hn b => ?_, id, rfl⟩
  simpa using hf b (hn b)

theorem kept_mapBays {f : Bay → Bays → Bays} (hf : ∀ b x, (f b x).npc = x.npc) (h : Kept s₀ s) : Kept s₀ (s.mapBays f) :=
  kept_mapBays_le (fun b hn => (hf b _).trans_le hn) h

theorem npc_setStrm {x : Bays} {v : Stream} : (x.setStrm st v).npc = x.npc := by
  cases st <;> rfl

theorem kept_setStrm {x : Stream} (h : Kept s₀ s) : Kept s₀ (s.setBay b ((s.bay b).setStrm st x)) :=
  kept_setBay npc_setStrm h

theorem kept_updStrm {f : Stream → Stream} (h : Kept s₀ s) : Kept s₀ (s.updStrm b st f) :=
  kept_updBay (fun _ => npc_setStrm) h

theorem kept_recRoom (h : Kept s₀ s) : Kept s₀ (recRoom s) := kept_ite h (kept_with h)

theorem kept_putEntry {a : Nat} {v : List Byte} (h : Kept s₀ s) : Kept s₀ (putEntry a v s) :=
  kept_traffic (kept_store (kept_landSector h))

theorem kept_writeEnts {q : Nat} {l : List Nat} (h : Kept s₀ s) : Kept s₀ (writeEnts q l s) := by
  induction l generalizing q s with
  | nil => exact h
  | cons v l ih => exact ih (kept_putEntry h)

theorem kept_record {ty arg len payload : Nat} (h : Kept s₀ s) : Kept s₀ (record ty arg len payload s) :=
  kept_ite (kept_with (kept_writeEnts (kept_recRoom h))) h

theorem kept_countFault {code bay unit : Nat} (h : Kept s₀ s) : Kept s₀ (countFault code bay unit s) := kept_with h

theorem kept_ueAt {id bay off : Nat} (h : Kept s₀ s) : Kept s₀ (ueAt id bay off s) := kept_with h

theorem kept_withdrawHop (h : Kept s₀ s) : Kept s₀ (withdrawHop b s) := kept_with h

theorem kept_recFault {arg code : Nat} {fpc : BitVec 15} (h : Kept s₀ s) : Kept s₀ (recFault arg code fpc s) := by
  unfold recFault
  exact kept_record h

theorem kept_haltRec {arg code : Nat} {fpc : BitVec 15} {age : Nat} {keep : Bool} (h : Kept s₀ s) : Kept s₀ (haltRec b
    st arg code fpc age keep s) :=
  kept_ite (kept_updStrm (kept_recFault h)) (kept_recFault h)

theorem kept_haltBy {arg code : Nat} {fpc : BitVec 15} {age : Nat} (h : Kept s₀ s) : Kept s₀ (haltBy b st arg code fpc
    age s) :=
  kept_ite h (kept_ite (kept_withdrawHop (kept_haltRec (kept_countFault h))) (kept_haltRec (kept_countFault h)))

theorem kept_haltStream {code : Nat} {fpc : BitVec 15} {age : Nat} (h : Kept s₀ s) : Kept s₀ (haltStream b st code fpc
    age s) :=
  kept_haltBy h

theorem kept_haltReadPath {fpc : BitVec 15} {age : Nat} (h : Kept s₀ s) : Kept s₀ (haltReadPath b fpc age s) :=
  kept_haltBy h

theorem kept_channelFault {code : Nat} (h : Kept s₀ s) : Kept s₀ (channelFault b code s) :=
  kept_recFault (kept_countFault h)

theorem kept_operationFault {code : Nat} {mask : BayMask} (h : Kept s₀ s) : Kept s₀ (operationFault code mask s) :=
  kept_countFault h

theorem kept_strobe {i : Fin 5} (h : Kept s₀ s) : Kept s₀ (strobe i s) := kept_with h

theorem kept_throttle {code unit level : Nat} (h : Kept s₀ s) : Kept s₀ (throttle code unit level s) :=
  kept_with (kept_strobe (kept_record h))

theorem kept_gongCode {code : Nat} (h : Kept s₀ s) : Kept s₀ (gongCode code s) :=
  kept_with (kept_mapBays (fun _ _ => rfl) h)

theorem pwrInv_stopped {p : Power} (h : PwrInv p) :
    PwrInv { p with step := Vector.replicate 12 0, raise := Vector.replicate 12 none } :=
  fun b => ⟨by simp, by simp, (h b).2.2⟩

theorem kept_stopSteps {f : Faults} {g : Header} (h : Kept s₀ s) :
    Kept s₀ { s with
      faults := f, hdr := g, pwr := { s.pwr with step := Vector.replicate 12 0, raise := Vector.replicate 12 none } } :=
  h.trans ⟨id, id, pwrInv_stopped, rfl⟩

theorem kept_gong {code bay : Nat} (h : Kept s₀ s) : Kept s₀ (gong code bay s) := by
  have hr : Kept s₀ (recFault 15 code 0#15 (countFault code bay 3 s)) := kept_recFault (kept_countFault h)
  unfold gong
  dsimp only
  split
  · exact kept_gongCode hr
  · split
    · exact kept_stopSteps (kept_mapBays (fun _ _ => rfl) hr)
    · exact hr

theorem kept_stall {cause : Cause} {c : Instr} {target : W32} (h : Kept s₀ s) : Kept s₀ (stall b st cause c target s) :=
  kept_setStrm h

theorem kept_retire (h : Kept s₀ s) : Kept s₀ (retire b st s) := kept_updStrm h

theorem kept_jump {pc : BitVec 15} (h : Kept s₀ s) : Kept s₀ (jump b st pc s) := kept_updStrm h

theorem kept_trap {code : Nat} (h : Kept s₀ s) : Kept s₀ (trap b st code s) := kept_haltStream h

theorem kept_issue {c : Instr} {rs : List Ctr} {k : State → State} (hk0 : ∀ u, Kept s₀ u → Kept s₀ (k u)) (h : Kept s₀
    s) : Kept s₀ (issue b st c rs k s) := by
  unfold issue
  refine kept_ite ?_ h
  split
  · exact kept_trap (kept_ueAt h)
  · exact kept_ite (hk0 _ h) (kept_stall h)

theorem kept_putCtr {c : Ctr} {v : W32} (h : Kept s₀ s) : Kept s₀ (putCtr b st c v s) := kept_updStrm h

theorem kept_landCtr {c : Ctr} {v : W32} (h : Kept s₀ s) : Kept s₀ (landCtr b st c v s) := kept_updStrm h

theorem kept_putFlag {f : LFlag} {v : Bool} (h : Kept s₀ s) : Kept s₀ (putFlag b f v s) := kept_updBay (fun _ => rfl) h

theorem kept_putFlagOpt {f : Option LFlag} (h : Kept s₀ s) : Kept s₀ (putFlagOpt b f s) := by
  unfold putFlagOpt
  split
  · exact kept_putFlag h
  · exact h

/-! ### Protection of the memories -/

theorem kept_drew {n : Nat} (h : Kept s₀ s) : Kept s₀ (drew n s) := kept_with h

theorem kept_uePage {w : Nat} (h : Kept s₀ s) : Kept s₀ (uePage b w s) := kept_ite (kept_ueAt h) (kept_ueAt h)

theorem kept_updProt {f : Prot → Prot} (h : Kept s₀ s) : Kept s₀ (updProt b f s) := kept_setBay rfl h

theorem kept_correctedAt {id off : Nat} (h : Kept s₀ s) : Kept s₀ (correctedAt b id off s) := kept_updProt (kept_with h)

theorem kept_wrRun {keep : Nat → Bool} {a : Nat} {v : List Byte} (h : Kept s₀ s) :
    Kept s₀ { s with mem := Memory.wrRun keep s.mem a v } :=
  h.trans ⟨wf_wrRun, id, id, rfl⟩

theorem npc_putWord {x : Bays} {w : Nat} {v : BitVec 64} : (x.putWord w v).npc = x.npc := by
  unfold Bays.putWord
  split <;> rfl

theorem kept_putWord {w : Nat} {v : BitVec 64} (h : Kept s₀ s) : Kept s₀ (putWord b w v s) := by
  unfold putWord
  dsimp only
  split
  · exact kept_wrRun (kept_setBay npc_putWord h)
  · exact kept_setBay npc_putWord h

theorem kept_misread {w : Nat} {v : BitVec 64} (h : Kept s₀ s) : Kept s₀ (misread b w v s) :=
  kept_ite h (kept_putWord (kept_updProt h))

theorem kept_askRepair {w : Nat} (h : Kept s₀ s) : Kept s₀ (askRepair b w s) :=
  kept_ite (kept_throttle (kept_updBay (fun _ => rfl) h)) (kept_updBay (fun _ => rfl) h)

theorem kept_askQuiet {w : Nat} (h : Kept s₀ s) : Kept s₀ (askQuiet b w s) := kept_updBay (fun _ => rfl) h

theorem kept_rewrote {id lo n : Nat} (h : Kept s₀ s) : Kept s₀ (rewrote b id lo n s) := kept_updProt h

theorem kept_cure {id off : Nat} (h : Kept s₀ s) : Kept s₀ (cure b id off s) := kept_updProt h

theorem npc_updPhys {x : Bays} {map : BitVec 108} {p : Nat} {f : Tile → Tile} : (x.updPhys map b p f).npc = x.npc := rfl

theorem npc_putQueueUnit {x : Bays} {off v : Nat} : (x.putQueueUnit b off v).npc = x.npc := by
  unfold Bays.putQueueUnit
  split <;> rfl

theorem npc_putPrimeUnit {x : Bays} {off v : Nat} : (x.putPrimeUnit off v).npc = x.npc := by
  unfold Bays.putPrimeUnit
  split
  · rfl
  · split <;> rfl

theorem npc_putUnit {x : Bays} {map : BitVec 108} {id off v : Nat} : (x.putUnit map b id off v).npc = x.npc := by
  unfold Bays.putUnit
  split
  · rfl
  · split
    · split
      · exact npc_updPhys
      · exact npc_putQueueUnit
    · split
      · exact npc_setStrm
      · split
        · split
          · exact npc_updPhys
          · exact npc_putPrimeUnit
        · split
          · rfl
          · split
            · exact npc_updPhys
            · rfl

theorem kept_noteFixed {ev : CodeEvent} {l : List (Nat × Nat)} (h : Kept s₀ s) : Kept s₀ (noteFixed b ev l s) := by
  unfold noteFixed
  split
  · split
    · exact kept_correctedAt h
    · exact h
  · split
    · exact kept_ite h (kept_setBay npc_putUnit h)
    · exact h
  · exact h

theorem kept_withUnits {fpc : BitVec 15} {age : Nat} {ev : CodeEvent} {l : List (Nat × Nat)} {k : State → State} (hk0 :
    ∀ u, Kept s₀ u → Kept s₀ (k u)) (h : Kept s₀ s) : Kept s₀ (withUnits b fpc age ev l k s) := by
  unfold withUnits
  split
  · exact kept_haltStream (kept_ueAt h)
  · exact hk0 _ (kept_noteFixed h)

theorem kept_dieSpoil {id off : Nat} (h : Kept s₀ s) : Kept s₀ (dieSpoil id off s) := kept_with h

theorem kept_ueRead {l : List Nat} (h : Kept s₀ s) : Kept s₀ (ueRead l s) := by
  unfold ueRead
  split
  · exact kept_ueAt h
  · exact h

theorem kept_sectorCorrected {a : Nat} (h : Kept s₀ s) : Kept s₀ (sectorCorrected a s) :=
  kept_ite (kept_with h) (kept_updStk (kept_with h))

theorem kept_sectorUe {a requester : Nat} (h : Kept s₀ s) : Kept s₀ (sectorUe a requester s) := kept_with h

theorem kept_sectorSpoil {a : Nat} (h : Kept s₀ s) : Kept s₀ (sectorSpoil a s) := kept_with h

theorem kept_sectorPut {a : Nat} {v : List Byte} (h : Kept s₀ s) : Kept s₀ (sectorPut a v s) := kept_wrRun h

theorem kept_sectorRead {e : SectorErr} (h : Kept s₀ s) : Kept s₀ (sectorRead e s) := by
  unfold sectorRead
  refine kept_ite h ?_
  split
  · exact kept_sectorSpoil h
  · exact kept_ite h (kept_sectorPut h)
  · exact kept_sectorCorrected (kept_sectorPut h)

theorem kept_readSectors {errs : List SectorErr} {l : List Nat} (h : Kept s₀ s) : Kept s₀ (readSectors errs l s) :=
  kept_foldl (fun _ hu _ => (kept_ite (kept_sectorRead hu) hu)) h

theorem kept_guardedBy {ask : Bay → Nat → State → State} {ev : CodeEvent} {rd wr : List Nat} {k : State → State} (hk0 :
    ∀ i0 i1 u, Kept s₀ u → Kept s₀ (ask i0 i1 u)) (hk1 : ∀ u, Kept s₀ u → Kept s₀ (k u)) (h : Kept s₀ s) : Kept s₀
    (guardedBy ask b ev rd wr k s) := by
  unfold guardedBy
  refine kept_ite h ?_
  dsimp only
  split
  · exact kept_ite (hk0 _ _ _ h) (hk1 _ h)
  · exact hk1 _ (kept_ite (kept_misread h) h)
  · exact hk1 _ (kept_ite (kept_correctedAt h) h)
  · exact hk1 _ (kept_readSectors h)
  · exact hk1 _ h
  · exact hk1 _ h
  · exact hk1 _ h
  · exact hk1 _ h
  · exact hk1 _ h

theorem kept_guarded {ev : CodeEvent} {rd wr : List Nat} {k : State → State} (hk0 : ∀ u, Kept s₀ u → Kept s₀ (k u)) (h :
    Kept s₀ s) : Kept s₀ (guarded b ev rd wr k s) :=
  kept_guardedBy (fun _ _ _ h0 => (kept_askRepair h0)) hk0 h

theorem kept_readIn {ev : CodeEvent} {l : List Nat} (h : Kept s₀ s) : Kept s₀ (readIn ev l s) := by
  unfold readIn
  split
  · exact kept_readSectors h
  · exact h

theorem kept_countBad {l : List Nat} {requester : Nat} (h : Kept s₀ s) : Kept s₀ (countBad l requester s) :=
  kept_foldl (fun _ hu _ => (kept_sectorUe hu)) h

theorem kept_ueBytes {l : List Nat} {requester : Nat} (h : Kept s₀ s) : Kept s₀ (ueBytes l requester s) := by
  unfold ueBytes
  split
  · exact kept_ite (kept_sectorUe h) (kept_ueRead h)
  · exact h

theorem kept_passPorts {rd wr : List Nat} (h : Kept s₀ s) : Kept s₀ (passPorts b rd wr s) := by
  refine kept_mapBays (fun i x => ?_) h
  split
  · rfl
  · split <;> rfl

/-! ### The power manager -/

theorem kept_updPwr_inv {f : Power → Power} (hf : PwrInv s.pwr → PwrInv (f s.pwr)) (h : Kept s₀ s) : Kept s₀ (updPwr f s) :=
  h.trans ⟨id, id, hf, rfl⟩

theorem kept_updPwr {f : Power → Power}
    (hf : ∀ p, (f p).step = p.step ∧ (f p).raise = p.raise ∧ (f p).target = p.target) (h : Kept s₀ s) :
    Kept s₀ (updPwr f s) := by
  obtain ⟨hp, hr, hg⟩ := hf s.pwr
  exact kept_withPwr hp hr hg h

theorem pwrInv_switched {p : Power} {k : Nat} {c : Vector Nat 12} (hk : k ≤ 15) (h : PwrInv p) :
    PwrInv { p with step := p.step.set b k, raise := p.raise.set b none, pause := c } := by
  intro d
  by_cases hd : b = d
  · subst hd
    simpa using ⟨hk, (h b).2.2⟩
  · have hv : b.val ≠ d.val := fun e => hd (Fin.ext e)
    simpa [Vector.getElem_set, hv] using h d

theorem kept_switchClock {code k : Nat} (hk : PwrInv s.pwr → k ≤ 15) (h : Kept s₀ s) : Kept s₀ (switchClock code b k s) :=
  kept_throttle (kept_updPwr_inv (fun hp => pwrInv_switched (hk hp) hp) h)

theorem kept_lowerBay (h : Kept s₀ s) : Kept s₀ (lowerBay s b) := by
  unfold lowerBay
  dsimp only
  split
  · exact kept_switchClock (fun hp => (hp b).2.2) (kept_updPwr (fun _ => ⟨rfl, rfl, rfl⟩) h)
  · exact h

theorem pwrInv_raise_none {p : Power} {n : Vector Nat 12} (h : PwrInv p) :
    PwrInv { p with raise := p.raise.set b none, settle := n } := by
  intro d
  obtain ⟨hs, hr, ht⟩ := h d
  refine ⟨hs, ?_, ht⟩
  by_cases hd : b = d
  · subst hd
    simp
  · have hv : b.val ≠ d.val := fun e => hd (Fin.ext e)
    simpa [Vector.getElem_set, hv] using hr

theorem kept_dropRaise (h : Kept s₀ s) : Kept s₀ (dropRaise s b) :=
  kept_ite (kept_updPwr_inv pwrInv_raise_none h) h

theorem pwrInv_raise_some {p : Power} {r : Nat × Nat} (hb : p.step[b] < p.target[b]) (h : PwrInv p) :
    PwrInv { p with raise := p.raise.set b (some r) } := by
  intro d
  obtain ⟨hs, hr, ht⟩ := h d
  refine ⟨hs, ?_, ht⟩
  by_cases hd : b = d
  · subst hd
    intro _
    dsimp only
    omega
  · have hv : b.val ≠ d.val := fun e => hd (Fin.ext e)
    simpa [Vector.getElem_set, hv] using hr

theorem kept_startRaise (h : Kept s₀ s) : Kept s₀ (startRaise s b) := by
  unfold startRaise
  split
  case isTrue hm =>
    simp only [mayRaise, Bool.and_eq_true, decide_eq_true_eq] at hm
    obtain ⟨⟨⟨hlt, _⟩, _⟩, _⟩ := hm
    exact kept_updPwr_inv (pwrInv_raise_some hlt) h
  case isFalse => exact h

theorem kept_startRaises (h : Kept s₀ s) : Kept s₀ (startRaises s) :=
  kept_ite h (kept_foldl (fun _ hu _ => (kept_startRaise hu)) h)

theorem kept_applyTargets (h : Kept s₀ s) : Kept s₀ (applyTargets s) :=
  kept_ite h (kept_startRaises (kept_foldl (fun _ hu _ => (kept_dropRaise hu)) (kept_foldl (fun _ hu _ => (kept_lowerBay
      hu)) h)))

theorem foldl_min_le {α : Type} {l : List α} {f : α → Nat} {n : Nat} : l.foldl (fun t m => min t (f m)) n ≤ n := by
  induction l generalizing n with
  | nil => exact Nat.le_refl n
  | cons x l ih => exact Nat.le_trans ih (Nat.min_le_left _ _)

theorem targetOf_le : targetOf s b ≤ 15 := foldl_min_le

theorem pwrInv_targets {p : Power} {m : BitVec 12} {f : Bay → Nat} (hf : ∀ b, f b ≤ 15) (h : PwrInv p) :
    PwrInv { p with capMoved := m, target := Vector.ofFn f } :=
  fun b => ⟨(h b).1, (h b).2.1, by simpa using hf b⟩

theorem kept_setTargets (h : Kept s₀ s) : Kept s₀ (setTargets s) :=
  kept_applyTargets (kept_updPwr_inv (pwrInv_targets (fun _ => targetOf_le)) (kept_with h))

theorem keeps_execDvfsClockSwitch : Keeps s (execDvfsClockSwitch b s) := by
  refine keeps_next ?_
  have h : Kept s s := Kept.refl
  split
  case h_1 code hr =>
    refine kept_ite (kept_startRaises (kept_switchClock (fun hp => ?_) h)) h
    have := (hp b).2.1 (by rw [hr]; rfl)
    omega
  case h_2 => exact h

theorem keeps_execRailSettled : Keeps s (execRailSettled b s) :=
  keeps_next (kept_ite (kept_updPwr (fun _ => ⟨rfl, rfl, rfl⟩) Kept.refl) Kept.refl)

theorem keeps_execPowerCapRaise : Keeps s (execPowerCapRaise s) :=
  keeps_next (kept_ite (kept_updPwr (fun _ => ⟨rfl, rfl, rfl⟩) Kept.refl) Kept.refl)

theorem keeps_execSensorHistoryFull : Keeps s (execSensorHistoryFull s) :=
  keeps_next (kept_ite (kept_updPwr (fun _ => ⟨rfl, rfl, rfl⟩) Kept.refl) Kept.refl)

theorem keeps_execThermalCapLower : Keeps s (execThermalCapLower b s) :=
  keeps_next (kept_ite (kept_updPwr (fun _ => ⟨rfl, rfl, rfl⟩) Kept.refl) Kept.refl)

theorem keeps_execThermalCapRaise : Keeps s (execThermalCapRaise b s) :=
  keeps_next (kept_ite (kept_updPwr (fun _ => ⟨rfl, rfl, rfl⟩) Kept.refl) Kept.refl)

theorem keeps_execNeighbourThermFault {b1 b2 : Bay} : Keeps s (execNeighbourThermFault b1 b2 s) :=
  keeps_next (kept_ite (kept_gong (kept_updPwr (fun _ => ⟨rfl, rfl, rfl⟩) Kept.refl)) Kept.refl)

theorem keeps_execBayThermFault : Keeps s (execBayThermFault b s) :=
  keeps_next (kept_ite (kept_gong (kept_updPwr (fun _ => ⟨rfl, rfl, rfl⟩) Kept.refl)) Kept.refl)

theorem keeps_execUncoreThermFault : Keeps s (execUncoreThermFault s) :=
  keeps_next (kept_ite (kept_gong (kept_updPwr (fun _ => ⟨rfl, rfl, rfl⟩) Kept.refl)) Kept.refl)

theorem keeps_execBrownoutEnter : Keeps s (execBrownoutEnter s) :=
  keeps_next (kept_ite (kept_countFault (kept_updPwr (fun _ => ⟨rfl, rfl, rfl⟩) Kept.refl)) Kept.refl)

theorem keeps_execBrownoutLeave : Keeps s (execBrownoutLeave s) :=
  keeps_next (kept_ite (kept_updPwr (fun _ => ⟨rfl, rfl, rfl⟩) Kept.refl) Kept.refl)

theorem keeps_execOvervoltageFault : Keeps s (execOvervoltageFault s) :=
  keeps_next (kept_ite (kept_gong (kept_updPwr (fun _ => ⟨rfl, rfl, rfl⟩) Kept.refl)) Kept.refl)

theorem keeps_execPowerCeilingFault : Keeps s (execPowerCeilingFault s) :=
  keeps_next (kept_ite (kept_gong (kept_updPwr (fun _ => ⟨rfl, rfl, rfl⟩) Kept.refl)) Kept.refl)

theorem keeps_execPsDieFault {ps : Fin 6} : Keeps s (execPsDieFault ps s) :=
  keeps_next (kept_ite (kept_ite (kept_ite (kept_countFault (kept_updPwr (fun _ => ⟨rfl, rfl, rfl⟩) Kept.refl))
      (kept_updPwr (fun _ => ⟨rfl, rfl, rfl⟩) Kept.refl)) (kept_ite (kept_gong (kept_updPwr (fun _ => ⟨rfl, rfl, rfl⟩)
      Kept.refl)) (kept_updPwr (fun _ => ⟨rfl, rfl, rfl⟩) Kept.refl))) Kept.refl)

theorem kept_burnSome (h : Kept s₀ s) : Kept s₀ (burnSome s) := by
  unfold burnSome
  split
  · exact kept_ite (kept_drew (kept_withTrust rfl h)) h
  · exact h

theorem kept_resumePulses (h : Kept s₀ s) : Kept s₀ (resumePulses s) := by
  unfold resumePulses
  split
  · exact kept_ite (kept_burnSome (kept_withTrust rfl h)) h
  · exact h

theorem keeps_execInputRise {mv : Nat} : Keeps s (execInputRise mv s) :=
  keeps_next (kept_ite (kept_updPwr (fun _ => ⟨rfl, rfl, rfl⟩) Kept.refl) Kept.refl)

theorem keeps_execRampStep : Keeps s (execRampStep s) :=
  keeps_next (kept_ite (kept_updPwr (fun _ => ⟨rfl, rfl, rfl⟩) Kept.refl) Kept.refl)

theorem keeps_execRefclkValid : Keeps s (execRefclkValid s) :=
  keeps_next (kept_updPwr (fun _ => ⟨rfl, rfl, rfl⟩) Kept.refl)

theorem npcInv_reset : NpcInv State.reset := fun b => by simp [State.bay, State.reset, Bays.reset]

theorem pwrInv_reset : PwrInv Power.reset := fun b => by simp [Power.reset]

theorem kept_powerOn (h : Kept s₀ s) : Kept s₀ (powerOn s) :=
  h.trans ⟨fun _ => memInv_reset, fun _ => npcInv_reset, fun _ => pwrInv_reset, rfl⟩

theorem keeps_execPowerOnResetRelease : Keeps s (execPowerOnResetRelease s) :=
  keeps_next (kept_ite (kept_powerOn Kept.refl) Kept.refl)

theorem kept_powerOff {st : PwrSt} (h : Kept s₀ s) : Kept s₀ (powerOff st s) :=
  kept_withPwr rfl rfl rfl (kept_powerOn h)

theorem keeps_execRampAbort {mv : Nat} : Keeps s (execRampAbort mv s) :=
  keeps_next (kept_ite (kept_powerOff (kept_updPwr (fun _ => ⟨rfl, rfl, rfl⟩) Kept.refl)) Kept.refl)

theorem keeps_execInputFail {mv : Nat} : Keeps s (execInputFail mv s) :=
  keeps_next (kept_ite (kept_updPwr (fun _ => ⟨rfl, rfl, rfl⟩) Kept.refl) Kept.refl)

theorem kept_cutLimited (h : Kept s₀ s) : Kept s₀ (cutLimited s) := by
  unfold cutLimited
  split
  · exact kept_ite (kept_withTrust rfl h) (kept_burnSome h)
  · exact h

theorem keeps_execHoldupEnd : Keeps s (execHoldupEnd s) :=
  keeps_next (kept_ite (kept_powerOff (kept_cutLimited Kept.refl)) Kept.refl)

theorem keeps_execFailRestart : Keeps s (execFailRestart s) :=
  keeps_next (kept_ite (kept_updPwr (fun _ => ⟨rfl, rfl, rfl⟩) Kept.refl) Kept.refl)

/-! ### Replay -/

theorem kept_staged {q : Nat} (h : Kept s₀ s) : Kept s₀ (staged s q) := kept_landSector h

theorem kept_readEntry {q : Nat} (h : Kept s₀ s) : Kept s₀ (readEntry q s) := kept_traffic (kept_staged h)

theorem kept_diverge {kind q : Nat} (h : Kept s₀ s) : Kept s₀ (diverge kind q s) := kept_ite (kept_with h) h

theorem kept_endStaging {st : ReplaySt} (h : Kept s₀ s) : Kept s₀ (endStaging st s) := kept_with h

theorem kept_consume (h : Kept s₀ s) : Kept s₀ (consume s) := by
  unfold consume
  split
  · exact kept_ite (kept_endStaging (kept_readEntry h)) (kept_with (kept_readEntry h))
  · exact kept_with (kept_readEntry h)
  · exact h

theorem kept_dropLive (h : Kept s₀ s) : Kept s₀ (dropLive s) := kept_with h

theorem kept_scriptStep (h : Kept s₀ s) : KeptOpt s₀ (scriptStep s) := by
  unfold scriptStep
  dsimp only
  split
  · exact keptOpt_none
  · refine keptOpt_ite ?_ ?_
    · exact keptOpt_some (kept_consume (kept_diverge (kept_sectorUe h)))
    · refine keptOpt_ite ?_ ?_
      · exact keptOpt_some (kept_consume h)
      · refine keptOpt_ite ?_ ?_
        · refine keptOpt_ite ?_ ?_
          · exact keptOpt_some (kept_consume h)
          · split
            · refine keptOpt_ite ?_ ?_
              · exact keptOpt_some (kept_diverge (kept_dropLive h))
              · exact keptOpt_none
            · exact keptOpt_none
        · refine keptOpt_ite ?_ ?_
          · refine keptOpt_ite ?_ ?_
            · exact keptOpt_some (kept_consume h)
            · split
              · refine keptOpt_ite ?_ ?_
                · exact keptOpt_some (kept_diverge (kept_dropLive h))
                · exact keptOpt_none
              · exact keptOpt_none
          · refine keptOpt_ite ?_ ?_
            · exact keptOpt_some (kept_consume h)
            · split
              · refine keptOpt_ite ?_ ?_
                · exact keptOpt_some (kept_consume (kept_dropLive h))
                · refine keptOpt_ite ?_ ?_
                  · exact keptOpt_some (kept_diverge (kept_dropLive h))
                  · exact keptOpt_some (kept_consume (kept_diverge (kept_dropLive h)))
              · refine keptOpt_ite ?_ ?_
                · exact keptOpt_some (kept_consume (kept_diverge h))
                · exact keptOpt_none

theorem kept_replayRun {n : Nat} (h : Kept s₀ s) : Kept s₀ (replayRun n s) := by
  induction n generalizing s with
  | zero => exact h
  | succ n ih =>
    unfold replayRun
    split
    · split
      case h_1 t ht => exact ih (kept_scriptStep h t ht)
      case h_2 => exact h
    · exact h

theorem kept_replayAdvance (h : Kept s₀ s) : Kept s₀ (replayAdvance s) := kept_replayRun h

theorem kept_checkGap {bar : Nat} (h : Kept s₀ s) : Kept s₀ (checkGap bar s) := kept_ite (kept_diverge h) h

/-! ### Operands -/

theorem kept_walkPutByte {d : Desc} {k : Nat} {v : Byte} (h : Kept s₀ s) : Kept s₀ (State.putByte s d k v) :=
  kept_ite (kept_store h) (kept_store h)

theorem kept_walkPutWord {d : Desc} {w : Nat} {v : W32} (h : Kept s₀ s) : Kept s₀ (State.putWord s d w v) :=
  kept_ite (kept_store h) (kept_foldl (fun _ hu _ => (kept_walkPutByte hu)) h)

theorem kept_walkPutBytes {d : Desc} {k : Nat} {v : List Byte} (h : Kept s₀ s) : Kept s₀ (s.putBytes d k v) := by
  induction v generalizing s k with
  | nil => exact h
  | cons x v ih => exact ih (kept_walkPutByte h)

theorem kept_walkPutWords {d : Desc} {w : Nat} {v : List W32} (h : Kept s₀ s) : Kept s₀ (s.putWords d w v) := by
  induction v generalizing s w with
  | nil => exact h
  | cons x v ih => exact ih (kept_walkPutWord h)

/-! ### Flags -/

theorem kept_putGflag {g : Fin 256} {v : BitVec 16} (h : Kept s₀ s) : Kept s₀ (putGflag g v s) := kept_with h

/-! ### Headers -/

theorem kept_putCtx {i : Nat} {c : CtxEntry} (h : Kept s₀ s) : Kept s₀ (putCtx i c s) := kept_with h

theorem kept_refUp {i : Nat} (h : Kept s₀ s) : Kept s₀ (refUp i s) := kept_ite h (kept_putCtx h)

theorem kept_refDown {i : Nat} (h : Kept s₀ s) : Kept s₀ (refDown i s) := kept_ite h (kept_putCtx h)

theorem kept_putCtxByte {ctx : Fin 16384} {off : Fin 256} {v : Byte} (h : Kept s₀ s) : Kept s₀ (putCtxByte ctx off v s)
    :=
  kept_putCtx h

/-! ### Tide -/

theorem kept_endStreams {p : TStream → Bool} {count : Bool} (h : Kept s₀ s) : Kept s₀ (endStreams b p count s) :=
  kept_ite h (kept_ite (kept_with (kept_foldl (fun _ hu _ => (kept_ite (kept_refDown hu) hu)) (kept_updBay (fun _ =>
      rfl) h))) (kept_foldl (fun _ hu _ => (kept_ite (kept_refDown hu) hu)) (kept_updBay (fun _ => rfl) h)))

/-! ### Brackets -/

theorem kept_addIssue {mask : BayMask} {i : HopIssue} (h : Kept s₀ s) : Kept s₀ (addIssue mask i s) := kept_with h

theorem keeps_execTsHop {s1 s2 dst x : Ctr} {kind : Fin 16} {mask : BayMask} :
    Keeps s (execTsHop b s1 s2 dst x kind mask s) := by
  refine keeps_next (kept_issue (fun u hu => kept_ite (kept_stall hu) ?_) Kept.refl)
  extract_lets c hs nest
  have hn : ∀ v, Kept s v → Kept s (nest v) := fun v hv => kept_ite (kept_trap hv) hv
  split
  · exact hn _ (kept_trap hu)
  · exact kept_ite (hn _ hu) (kept_stall (kept_addIssue hu))

theorem kept_raiseRefs {l : List (Fin 16384)} (h : Kept s₀ s) : Kept s₀ (raiseRefs l s) :=
  kept_foldl (fun _ hu _ => (kept_refUp hu)) h

theorem kept_lowerRefs {l : List (Fin 16384)} (h : Kept s₀ s) : Kept s₀ (lowerRefs l s) :=
  kept_foldl (fun _ hu _ => (kept_refDown hu)) h

theorem kept_postVerdict {v : Verdict} {mask : BayMask} (h : Kept s₀ s) : Kept s₀ (postVerdict v mask s) := by
  unfold postVerdict
  dsimp only
  split
  · exact h
  · exact kept_operationFault (kept_with h)
  · exact kept_operationFault (kept_with h)
  · exact kept_operationFault (kept_with h)
  · exact kept_operationFault (kept_with h)

theorem kept_mapBracket {mask : BayMask} {f : Bracket → Bracket} (h : Kept s₀ s) : Kept s₀ (mapBracket mask f s) :=
  kept_with h

theorem kept_updCur {f : OpenOp → OpenOp} (h : Kept s₀ s) : Kept s₀ (updCur b f s) := kept_with h

theorem kept_judgeIn {o : OpenOp} (h : Kept s₀ s) : Kept s₀ (judgeIn o b s) :=
  kept_endStreams (kept_updCur (kept_updBay (fun _ => rfl) h))

theorem kept_retireHop {o : OpenOp} (h : Kept s₀ s) : Kept s₀ (retireHop o b s) :=
  kept_ite (kept_retire (kept_judgeIn (kept_updBay (fun _ => rfl) h))) h

theorem kept_forBays {mask : BayMask} {f : Bay → State → State} (hk0 : ∀ i0 u, Kept s₀ u → Kept s₀ (f i0 u)) (h : Kept
    s₀ s) : Kept s₀ (forBays mask f s) :=
  kept_foldl (fun _ hu _ => (kept_ite (hk0 _ _ hu) hu)) h

theorem kept_enterRoutine {cls addr : Nat} (h : Kept s₀ s) : Kept s₀ (enterRoutine cls addr b s) := by
  unfold enterRoutine
  split
  · exact kept_updBay (fun _ => rfl) h
  · exact h

theorem kept_insertRefresh {mask : BayMask} {p : OpenOp} {addr : Nat} {rest : List Nat} {ue : Bool} (h : Kept s₀ s) :
    Kept s₀ (insertRefresh mask p addr rest ue s) :=
  kept_forBays (fun _ _ h0 => (kept_enterRoutine h0)) (kept_mapBracket (kept_with (kept_raiseRefs (kept_postVerdict
      h))))

theorem kept_goAhead {mask : BayMask} {o : OpenOp} (h : Kept s₀ s) : Kept s₀ (goAhead mask o s) :=
  kept_forBays (fun _ _ h0 => (kept_retireHop h0)) (kept_mapBracket (kept_postVerdict h))

theorem kept_readHeaders {l : List Nat} {ev : CodeEvent} (h : Kept s₀ s) : Kept s₀ (readHeaders l ev s) :=
  kept_traffic (kept_countBad (kept_readIn h))

theorem kept_readCtx {ctx : Nat} {ev : CodeEvent} (h : Kept s₀ s) : Kept s₀ (readCtx ctx ev s) := by
  unfold readCtx
  split
  · exact kept_ueAt (kept_countFault h)
  · exact kept_ite (kept_correctedAt h) h

theorem kept_nextStage {k : Bracket} {i : Insertion} {o : OpenOp} {ev : CodeEvent} (h : Kept s₀ s) : Kept s₀ (nextStage
    k i o ev s) := by
  unfold nextStage
  split
  · exact kept_insertRefresh (kept_readCtx (kept_readHeaders h))
  · exact kept_goAhead h

theorem kept_openBracket {k : Bracket} {i : HopIssue} {ev : CodeEvent} (h : Kept s₀ s) : Kept s₀ (openBracket k i ev s)
    := by
  unfold openBracket
  refine kept_ite ?_ (kept_goAhead (kept_with (kept_raiseRefs (kept_readCtx (kept_readHeaders h)))))
  split
  · exact kept_insertRefresh (kept_with (kept_raiseRefs (kept_readCtx (kept_readHeaders h))))
  · exact kept_goAhead (kept_with (kept_raiseRefs (kept_readCtx (kept_readHeaders h))))

theorem keeps_execBracketOpen {mask : BayMask} {ev : CodeEvent} : Keeps s (execBracketOpen mask ev s) := by
  refine keeps_next ?_
  have h : Kept s s := Kept.refl
  refine kept_ite ?_ h
  split
  · split
    · exact kept_ite (kept_nextStage h) h
    · exact h
  · split
    · split
      · exact kept_ite (kept_openBracket h) h
      · exact h
    · exact h

theorem kept_haltMismatch {pc : BitVec 15} {age : Nat} (h : Kept s₀ s) : Kept s₀ (haltMismatch b pc age s) :=
  kept_ite h (kept_withdrawHop (kept_haltRec h))

theorem keeps_execTsHend {nf : NForm} : Keeps s (execTsHend b nf s) :=
  keeps_next (kept_issue (fun _ h0 => (by split <;> [exact (kept_trap h0); exact (kept_ite (kept_stall h0) (kept_ite
      (kept_haltMismatch (kept_retire (kept_updBay (fun _ => rfl) (kept_endStreams (kept_updCur h0))))) (kept_retire
      (kept_updBay (fun _ => rfl) (kept_endStreams (kept_updCur h0))))))])) Kept.refl)

theorem keeps_execTsHout {level scale : Byte} : Keeps s (execTsHout b level scale s) :=
  keeps_next (kept_issue (fun _ h0 => (by split <;> [exact (kept_ite (kept_retire (kept_updCur h0)) (kept_retire h0));
      exact (kept_retire h0)])) Kept.refl)

theorem kept_zeroLimbs {y : Hdr} (h : Kept s₀ s) : Kept s₀ (zeroLimbs y s) :=
  kept_foldl (fun _ hu _ => (kept_traffic (kept_zeroRange hu))) h

theorem kept_writeHdr {a : Nat} {y : Hdr} (h : Kept s₀ s) : Kept s₀ (writeHdr a y s) :=
  kept_with (kept_traffic (kept_store h))

theorem kept_closeOp {mask : BayMask} {o : OpenOp} (h : Kept s₀ s) : Kept s₀ (closeOp mask o s) := by
  unfold closeOp
  extract_lets r u v w
  have hu : Kept s₀ u := kept_ite (kept_zeroLimbs h) h
  have hv : Kept s₀ v := kept_ite hu (kept_writeHdr hu)
  exact kept_lowerRefs (kept_ite (kept_operationFault hv) hv)

theorem keeps_execBracketClose {mask : BayMask} : Keeps s (execBracketClose mask s) := by
  refine keeps_next ?_
  have h : Kept s s := Kept.refl
  refine kept_ite ?_ h
  split
  · refine kept_ite h ?_
    split
    · exact kept_with (kept_closeOp h)
    · exact kept_with (kept_closeOp h)
    · exact h
  · exact h

/-! ### Control flow -/

theorem keeps_execTsBr {src : BrSrc} {pol : Bool} {target : BitVec 15} : Keeps s (execTsBr b st src pol target s) :=
  keeps_next (kept_issue (fun _ h0 => (kept_ite (kept_stall h0) (kept_ite (kept_jump h0) (kept_retire h0)))) Kept.refl)

theorem keeps_execTsJmp {target : BitVec 15} : Keeps s (execTsJmp b st target s) :=
  keeps_next (kept_issue (fun _ h0 => (kept_jump h0)) Kept.refl)

theorem keeps_execTsCall {target : BitVec 15} : Keeps s (execTsCall b st target s) :=
  keeps_next (kept_issue (fun _ h0 => (kept_ite (kept_trap h0) (kept_updStrm h0))) Kept.refl)

theorem kept_refreshBack (h : Kept s₀ s) : Kept s₀ (refreshBack b s) := kept_with h

theorem keeps_execTsRet : Keeps s (execTsRet b st s) :=
  keeps_next (kept_issue (fun _ h0 => (by dsimp only; split <;> [exact (kept_ite (kept_ite (kept_trap h0)
      (kept_refreshBack (kept_updStrm h0))) (by split <;> [exact (kept_updStrm h0); exact (kept_trap h0)])); exact (by
      split <;> [exact (kept_updStrm h0); exact (kept_trap h0)])])) Kept.refl)

theorem keeps_execTsEnd : Keeps s (execTsEnd b st s) :=
  keeps_next (kept_issue (fun _ h0 => (kept_ite (kept_updStrm h0) (kept_stall h0))) Kept.refl)

theorem keeps_execTsLoop {cn : Ctr} {last : BitVec 15} : Keeps s (execTsLoop b st cn last s) :=
  keeps_next (kept_issue (fun _ h0 => (kept_ite (kept_jump h0) (kept_ite (kept_trap h0) (kept_updStrm h0)))) Kept.refl)

theorem keeps_execTsBreak {k : Nat} : Keeps s (execTsBreak b st k s) :=
  keeps_next (kept_issue (fun _ h0 => (by split <;> [exact (kept_updStrm h0); exact h0])) Kept.refl)

/-! ### Descriptors -/

theorem kept_putDesc {d : Dix} {v : Option Desc} (h : Kept s₀ s) : Kept s₀ (putDesc b d v s) :=
  kept_updBay (fun _ => rfl) h

theorem kept_unpendAll {d : Dix} (h : Kept s₀ s) : Kept s₀ (unpendAll b d s) := kept_updBay (fun _ => rfl) h

theorem kept_descRead {ds : List Dix} {k : State → State} (hk0 : ∀ u, Kept s₀ u → Kept s₀ (k u)) (h : Kept s₀ s) : Kept
    s₀ (descRead b st ds k s) := by
  unfold descRead
  split
  · exact kept_trap (kept_ueAt h)
  · exact hk0 _ h

theorem kept_unitRead {d : Dix} {k : Desc → State → State} (hk0 : ∀ i0 u, Kept s₀ u → Kept s₀ (k i0 u)) (h : Kept s₀ s)
    : Kept s₀ (unitRead b d k s) :=
  kept_descRead (fun _ h0 => (by split <;> [exact (hk0 _ _ h0); exact (kept_trap h0)])) h

theorem kept_darm {cb : Ctr} {d : Dix} (h : Kept s₀ s) : Kept s₀ (darm b st cb d s) :=
  kept_descRead (fun _ h0 => (by split <;> [exact (kept_retire (kept_unpendAll (kept_putDesc h0))); exact (kept_trap
      h0)])) h

theorem keeps_execTsDarm {cb : Ctr} {d : Dix} : Keeps s (execTsDarm b cb d s) :=
  keeps_next (kept_issue (fun _ h0 => (kept_darm h0)) Kept.refl)

theorem keeps_execXfDarm {cb : Ctr} {d1 : Dix} : Keeps s (execXfDarm b cb d1 s) :=
  keeps_next (kept_issue (fun _ h0 => (kept_darm h0)) Kept.refl)

theorem keeps_execXfDnew {ca : Ctr} {d1 : Dix} : Keeps s (execXfDnew b ca d1 s) :=
  keeps_next (kept_issue (fun _ h0 => (kept_ite (kept_trap h0) (by split <;> [exact (kept_trap (kept_ueAt h0)); exact
      (by split <;> [exact (kept_retire (kept_putDesc (kept_ite (kept_unpendAll h0) h0))); exact (kept_trap h0)])])))
      Kept.refl)

theorem keeps_execXfDdel {d1 : Dix} : Keeps s (execXfDdel b d1 s) :=
  keeps_next (kept_issue (fun _ h0 => (kept_ite (kept_retire (kept_unpendAll (kept_putDesc h0))) (kept_trap h0)))
      Kept.refl)

/-! ### Data queues and pools -/

theorem keeps_execTsQput {q : Fin 8} {cn : Ctr} {m1 : Fin 16} : Keeps s (execTsQput b st q cn m1 s) :=
  keeps_next (kept_issue (fun _ h0 => (kept_ite (kept_stall h0) (kept_retire (kept_updBay (fun _ => rfl) h0))))
      Kept.refl)

theorem keeps_execTsQpop {q : Fin 8} {cd : Ctr} {m1 : Fin 16} {ev : CodeEvent} : Keeps s (execTsQpop b st q cd m1 ev s)
    :=
  keeps_next (kept_issue (fun _ h0 => (by split <;> [exact (by dsimp only; split <;> [exact (kept_trap (kept_ueAt
      (kept_updBay (fun _ => rfl) h0))); exact (kept_updStrm (kept_noteFixed (kept_updBay (fun _ => rfl) h0)))]); exact
      (kept_stall h0)])) Kept.refl)

theorem keeps_execTsRel {cb : Ctr} : Keeps s (execTsRel b st cb s) :=
  keeps_next (kept_issue (fun _ h0 => (kept_ite h0 (kept_ite (kept_retire h0) (kept_stall h0)))) Kept.refl)

theorem keeps_execReleaseWaitEnd : Keeps s (execReleaseWaitEnd b st s) := by
  refine keeps_next ?_
  have h : Kept s s := Kept.refl
  split
  · exact kept_ite (kept_retire h) h
  · exact h

theorem keeps_execTsYield : Keeps s (execTsYield b st s) :=
  keeps_next (kept_issue (fun _ h0 => (kept_ite (kept_updStrm h0) (kept_retire h0))) Kept.refl)

theorem kept_putPool {p : Fin 64} {x : Pool} (h : Kept s₀ s) : Kept s₀ (putPool p x s) := kept_with h

theorem kept_usePool {p : Fin 64} (h : Kept s₀ s) : Kept s₀ (usePool b st p s) := kept_setStrm h

theorem kept_forgetPool {p : Fin 64} {keep : List (Bay × Strm × Nat × BayMask)} (h : Kept s₀ s) : Kept s₀ (forgetPool p
    keep s) :=
  kept_mapBays (fun _ _ => rfl) h

theorem keeps_execTsPinit {cn cm : Ctr} {p : Fin 64} : Keeps s (execTsPinit b st cn cm p s) :=
  keeps_next (kept_issue (fun _ h0 => (kept_ite (kept_stall h0) (kept_ite (kept_stall h0) (kept_usePool (kept_putPool
      (kept_stall h0)))))) Kept.refl)

theorem kept_haltPool {l : List (Bay × Strm × Nat × BayMask)} (h : Kept s₀ s) : Kept s₀ (haltPool l s) :=
  kept_foldl (fun _ hu _ => (kept_trap hu)) h

theorem kept_retireDecls {l : List (Bay × Strm × Nat × BayMask)} (h : Kept s₀ s) : Kept s₀ (retireDecls l s) :=
  kept_foldl (fun _ hu _ => (kept_ite (kept_retire hu) hu)) h

theorem kept_haltOutside {p : Fin 64} {mask : BayMask} (h : Kept s₀ s) : Kept s₀ (haltOutside p mask s) :=
  kept_foldl (fun _ hu _ => (kept_ite (kept_trap hu) hu)) h

theorem keeps_execPoolArmed {p : Fin 64} : Keeps s (execPoolArmed p s) := by
  refine keeps_next ?_
  have h : Kept s s := Kept.refl
  refine kept_ite ?_ h
  split
  · exact h
  · exact kept_ite (kept_ite (kept_throttle (kept_haltOutside (kept_retireDecls (kept_putPool h)))) (kept_haltOutside
      (kept_retireDecls (kept_putPool h)))) (kept_haltPool (kept_forgetPool (kept_putPool h)))

theorem keeps_execTsTake {cd : Ctr} {p : Fin 64} : Keeps s (execTsTake b st cd p s) :=
  keeps_next (kept_issue (fun _ h0 => (kept_ite (kept_stall (kept_ite (kept_usePool h0) h0)) (kept_ite (kept_trap
      (kept_ite (kept_usePool h0) h0)) (kept_updStrm (kept_putPool (kept_ite (kept_usePool h0) h0)))))) Kept.refl)

theorem keeps_execTakeIndexWrite : Keeps s (execTakeIndexWrite b st s) := by
  refine keeps_next ?_
  have h : Kept s s := Kept.refl
  split
  · exact kept_ite (kept_ite (kept_ite (kept_putPool (kept_updStrm h)) (kept_forgetPool (kept_putPool (kept_updStrm
      h)))) (kept_updStrm h)) h
  · exact h

end Sys2Proof.Proofs.Invariants
end

section
/-! PROOFS. What every step keeps, continued: transfers, tiles, the NT. unit, Tide and the vector engine. -/

namespace Sys2Proof.Proofs.Invariants

open Sys2Proof Sys2Proof.Machine Sys2Proof.Laws.State Sys2Proof.Laws.Memory

variable {s₀ s t : State} {b : Bay} {st : Strm}

/-! ### Transfers -/

theorem kept_updXf {f : Xfer → Xfer} (h : Kept s₀ s) : Kept s₀ (updXf b f s) := kept_updBay (fun _ => rfl) h

theorem kept_xfPush {op : XOp} {fd : Option LFlag} (h : Kept s₀ s) : Kept s₀ (xfPush b op fd s) :=
  kept_retire (kept_updXf h)

theorem kept_xfIssue {c : Instr} {ds : List Dix} {op : State → Option XOp} {fd : Option LFlag} (h : Kept s₀ s) : Kept s₀
    (xfIssue b c ds op fd s) :=
  kept_issue (fun _ h0 => (kept_ite (kept_stall h0) (kept_descRead (fun _ h1 => (by split <;> [exact (kept_trap h1);
      exact (kept_xfPush h1)])) h0))) h

theorem keeps_execXfMov {dst : XDest} {fd : Option LFlag} {d2 : Dix} : Keeps s (execXfMov b dst fd d2 s) := by
  refine keeps_next ?_
  have h : Kept s s := Kept.refl
  split
  · exact kept_xfIssue h
  · exact kept_issue (fun _ h0 => (kept_ite (kept_stall h0) (kept_descRead (fun _ h1 => (by split <;> [exact (kept_trap
      h1); exact (kept_ite (kept_stall h1) (kept_xfPush (kept_updBay (fun _ => rfl) h1)))])) h0))) h

theorem keeps_execXfGath {di : Dix} {fd : Option LFlag} {d2 d1 : Dix} : Keeps s (execXfGath b di fd d2 d1 s) :=
  keeps_next (kept_xfIssue Kept.refl)

theorem keeps_execXfScat {acc : Bool} {di : Dix} {fd : Option LFlag} {d2 d1 : Dix} : Keeps s (execXfScat b acc di fd d2
    d1 s) :=
  keeps_next (kept_xfIssue Kept.refl)

theorem keeps_execXfRing {fd : Option LFlag} {d1 : Dix} : Keeps s (execXfRing b fd d1 s) :=
  keeps_next (kept_xfIssue Kept.refl)

theorem keeps_execXfStat {cn : Ctr} : Keeps s (execXfStat b cn s) :=
  keeps_next (kept_issue (fun _ h0 => (kept_putCtr h0)) Kept.refl)

theorem keeps_execTransferStart : Keeps s (execTransferStart b s) :=
  keeps_next (kept_ite (kept_updXf Kept.refl) Kept.refl)

theorem kept_storeRuns {l : List (Nat × List Byte)} {via : Option Bay} (h : Kept s₀ s) : Kept s₀ (storeRuns l s via) :=
  kept_foldl (fun _ hu _ => (kept_store hu)) h

theorem kept_streamOut {d : Desc} {bs : List Byte} {via : Option Bay} (h : Kept s₀ s) : Kept s₀ (streamOut d bs s via)
    :=
  kept_storeRuns (kept_storeRuns h)

theorem kept_scatRow {acc : Bool} {y : Desc} {v : Nat} {bs : List Byte} (h : Kept s₀ s) : Kept s₀ (scatRow b acc y v bs
    s) :=
  kept_storeRuns h

theorem kept_recordDone {no : Nat} (h : Kept s₀ s) : Kept s₀ (recordDone b no s) := kept_putFlagOpt (kept_updXf h)

theorem kept_haltChannel {code : Nat} (h : Kept s₀ s) : Kept s₀ (haltChannel b code s) :=
  kept_channelFault (kept_updXf h)

theorem kept_scatFrom {s' : State} {acc : Bool} {i x y : Desc} {r : XDone} {p n : Nat} (h : Kept s₀ r.st) :
    Kept s₀ (scatFrom b s' acc i x y r p n).st := by
  induction n generalizing r p with
  | zero => exact h
  | succ n ih =>
    unfold scatFrom
    extract_lets v src dst need
    split
    · exact h
    · split
      · refine ih ?_
        exact kept_scatRow h
      · refine ih ?_
        exact h

theorem kept_runXfer {op : XOp} (h : Kept s₀ s) : Kept s₀ (runXfer b s op).st := by
  cases op with
  | mov x y => exact kept_streamOut h
  | movq x q t n => exact kept_updBay (fun _ => rfl) h
  | gath i x y => exact kept_streamOut h
  | scat acc i x y => exact kept_scatFrom h
  | ring _ _ => exact h

theorem kept_finishXfer {i : Nat} {e : XEntry} (h : Kept s₀ s) : Kept s₀ (finishXfer b i e s) := by
  unfold finishXfer
  extract_lets l r u
  have hu : Kept s₀ u := kept_traffic (kept_passPorts (kept_updXf (kept_runXfer h)))
  split
  · exact kept_haltChannel (kept_ueBytes hu)
  · split
    · exact kept_recordDone (kept_putFlagOpt hu)
    · exact kept_putFlagOpt hu

theorem keeps_execTransferComplete {i : Fin 4} {rb : Bay} {ev : CodeEvent} : Keeps s (execTransferComplete b i rb ev s)
    := by
  refine keeps_next ?_
  have h : Kept s s := Kept.refl
  refine kept_ite ?_ h
  split
  · exact kept_guarded (fun _ h0 => (kept_finishXfer h0)) h
  · exact h

theorem kept_fetchBurst {r : RingRun} (h : Kept s₀ s) : Kept s₀ (fetchBurst b r s) :=
  kept_ite (kept_haltChannel (kept_ueBytes (kept_traffic (kept_passPorts h)))) (kept_updXf (kept_traffic (kept_passPorts
      h)))

theorem keeps_execRingBurstFetch {rb : Bay} {ev : CodeEvent} : Keeps s (execRingBurstFetch b rb ev s) := by
  refine keeps_next ?_
  have h : Kept s s := Kept.refl
  split
  · exact kept_ite (kept_guarded (fun _ h0 => (kept_fetchBurst h0)) h) h
  · exact h

theorem kept_advanceRing {r : RingRun} (h : Kept s₀ s) : Kept s₀ (advanceRing b r s) := by
  unfold advanceRing
  split
  · exact kept_ite (kept_updBay (fun _ => rfl) h) h
  · exact h

theorem kept_recordStarted {r : RingRun} (h : Kept s₀ s) : Kept s₀ (recordStarted b r s) :=
  kept_ite (kept_advanceRing (kept_updXf h)) (kept_updXf h)

theorem kept_startRecord {r : RingRun} {l : List Byte} (h : Kept s₀ s) : Kept s₀ (startRecord b r l s) := by
  unfold startRecord
  dsimp only
  split
  · exact kept_ite (kept_trap (kept_ueAt h)) h
  · split
    · exact kept_haltChannel h
    · exact kept_ite (kept_recordStarted (kept_updXf h)) h
    · exact kept_recordDone (kept_putFlagOpt (kept_recordStarted (kept_unpendAll (kept_putDesc h))))

theorem keeps_execRingRecordStart : Keeps s (execRingRecordStart b s) := by
  refine keeps_next ?_
  have h : Kept s s := Kept.refl
  split
  · split
    · exact kept_ite (kept_startRecord h) h
    · exact h
  · exact h

/-! ### Tiles -/

theorem kept_updTile {lt : Lt} {f : Tile → Tile} (h : Kept s₀ s) : Kept s₀ (updTile b lt f s) :=
  kept_updBay (fun _ => rfl) h

theorem kept_countIssue (h : Kept s₀ s) : Kept s₀ (countIssue b s) := kept_updBay (fun _ => rfl) h

theorem kept_tilePush {mask : BitVec 8} {op : TileOp} (h : Kept s₀ s) : Kept s₀ (tilePush b mask op s) :=
  kept_retire (kept_countIssue (kept_updBay (fun _ => rfl) h))

theorem kept_tileIssue {mask : BitVec 8} {c : Instr} {op : TileOp} (h : Kept s₀ s) : Kept s₀ (tileIssue b mask c op s)
    :=
  kept_ite (kept_stall h) (kept_tilePush h)

theorem kept_tileIssueD {mask : BitVec 8} {c : Instr} {d : Dix} {op : Desc → TileOp} (h : Kept s₀ s) : Kept s₀
    (tileIssueD b mask c d op s) :=
  kept_ite (kept_stall h) (kept_unitRead (fun _ _ h0 => (kept_tilePush h0)) h)

theorem keeps_execMmCfg {lt : Lt} {imm : W32} : Keeps s (execMmCfg b lt imm s) :=
  keeps_next (kept_issue (fun _ h0 => (kept_ite (kept_retire (kept_updTile h0)) (kept_stall h0))) Kept.refl)

theorem keeps_execMmLdp {lt : Lt} {e m1 : Fin 256} {d : Dix} : Keeps s (execMmLdp b lt e m1 d s) :=
  keeps_next (kept_issue (fun _ h0 => (kept_ite (kept_unitRead (fun _ _ h1 => (kept_tilePush h1)) h0) (kept_stall h0)))
      Kept.refl)

theorem keeps_execMmLds {lt : Lt} {buf resume tide : Bool} {n1 : Fin 256} {d : Dix} : Keeps s (execMmLds b lt buf resume
    tide n1 d s) :=
  keeps_next (kept_issue (fun _ h0 => (kept_ite (kept_tileIssue h0) (kept_tileIssueD h0))) Kept.refl)

theorem keeps_execMmMul {mask : BitVec 8} {buf ob acc : Bool} {n1 : Fin 256} {d : Dix} : Keeps s (execMmMul b mask buf
    ob acc n1 d s) :=
  keeps_next (kept_issue (fun _ h0 => (kept_tileIssueD h0)) Kept.refl)

theorem keeps_execMmDrain {lt : Lt} {ob : Bool} {fd fo : LFlag} {n1 : Fin 256} {d : Dix} : Keeps s (execMmDrain b lt ob
    fd fo n1 d s) :=
  keeps_next (kept_issue (fun _ h0 => (kept_tileIssueD h0)) Kept.refl)

theorem keeps_execMmClr {lt : Lt} {ob : Bool} : Keeps s (execMmClr b lt ob s) :=
  keeps_next (kept_issue (fun _ h0 => (kept_tileIssue h0)) Kept.refl)

theorem keeps_execMmStat {lt : Lt} {r : TileReg} {cn : Ctr} : Keeps s (execMmStat b lt r cn s) :=
  keeps_next (kept_issue (fun _ h0 => (kept_ite (kept_stall h0) (kept_tilePush (kept_updStrm h0)))) Kept.refl)

theorem kept_popTiles {l : List Lt} {seq : Nat} (h : Kept s₀ s) : Kept s₀ (popTiles b l seq s) :=
  kept_foldl (fun _ hu _ => (kept_updTile hu)) h

theorem kept_runMmLdp {lt : Lt} {ent : TileEnt} {e m : Nat} {d : Desc} (h : Kept s₀ s) : Kept s₀ (runMmLdp b lt ent e m
    d s) :=
  kept_ite (kept_haltReadPath (kept_ueBytes (kept_updTile h))) (kept_ite (kept_rewrote (kept_updTile h))
      (kept_haltStream h))

theorem kept_runMmMul {lt : Lt} {ent : TileEnt} {mask : BitVec 8} {buf ob acc : Bool} {n : Nat} {d : Desc} (h : Kept s₀
    s) : Kept s₀ (runMmMul b lt ent mask buf ob acc n d s) :=
  kept_ite (kept_haltStream h) (kept_ite (kept_haltStream h) (kept_ite (kept_haltReadPath (kept_ueBytes (kept_foldl (fun
      _ hu _ => (kept_updTile hu)) h))) (kept_foldl (fun _ hu _ => (kept_updTile hu)) h)))

theorem kept_startTile {lt : Lt} {ent : TileEnt} (h : Kept s₀ s) : Kept s₀ (startTile b lt ent s) := by
  unfold startTile
  dsimp only
  split
  · exact kept_runMmLdp (kept_popTiles h)
  · exact kept_updTile (kept_popTiles h)
  · exact kept_runMmMul (kept_popTiles h)
  · exact kept_updTile (kept_popTiles h)
  · exact kept_updTile (kept_popTiles h)
  · exact kept_landCtr (kept_popTiles h)

theorem keeps_execTileInstrStart {lt : Lt} {ev : CodeEvent} : Keeps s (execTileInstrStart b lt ev s) := by
  refine keeps_next ?_
  have h : Kept s s := Kept.refl
  split
  · exact kept_guarded (fun _ h0 => (kept_startTile h0)) h
  · exact h

theorem kept_rowsWritten {lt : Lt} {mode : Nat} {buf : Bool} {row n : Nat} (h : Kept s₀ s) : Kept s₀ (rowsWritten b lt
    mode buf row n s) :=
  kept_rewrote h

theorem kept_finishLoad {lt : Lt} {l : LoadRun} (h : Kept s₀ s) : Kept s₀ (finishLoad b lt l s) := by
  unfold finishLoad
  dsimp only
  split
  · exact kept_ite (kept_channelFault (kept_ueBytes (kept_updTile (kept_rowsWritten h)))) (kept_updTile
      (kept_rowsWritten h))
  · exact kept_ite (kept_updTile h) h

theorem keeps_execStationaryLoadComplete {lt : Lt} {ev : CodeEvent} : Keeps s (execStationaryLoadComplete b lt ev s) :=
    by
  refine keeps_next ?_
  have h : Kept s s := Kept.refl
  split
  · exact kept_ite (kept_guarded (fun _ h0 => (kept_finishLoad h0)) h) h
  · exact h

theorem kept_finishMul {lt : Lt} {m : MulRun} {ev : CodeEvent} (h : Kept s₀ s) : Kept s₀ (finishMul b lt m ev s) := by
  unfold finishMul
  dsimp only
  split
  · exact kept_haltStream (kept_ueAt (kept_updTile h))
  · exact kept_rewrote (kept_updTile (kept_noteFixed h))

theorem keeps_execMmMulComplete {lt : Lt} {ev : CodeEvent} : Keeps s (execMmMulComplete b lt ev s) := by
  refine keeps_next ?_
  have h : Kept s s := Kept.refl
  split
  · exact kept_ite (kept_finishMul h) h
  · exact h

theorem kept_finishDrain {lt : Lt} {r : DrainRun} {ev : CodeEvent} (h : Kept s₀ s) : Kept s₀ (finishDrain b lt r ev s)
    := by
  unfold finishDrain
  dsimp only
  split
  · exact kept_haltStream (kept_ueAt (kept_updTile (kept_streamOut h)))
  · exact kept_putFlag (kept_putFlag (kept_updTile (kept_streamOut (kept_noteFixed h))))

theorem keeps_execMmDrainComplete {lt : Lt} {ev : CodeEvent} : Keeps s (execMmDrainComplete b lt ev s) := by
  refine keeps_next ?_
  have h : Kept s s := Kept.refl
  split
  · exact kept_ite (kept_guarded (fun _ h0 => (kept_finishDrain h0)) h) h
  · exact h

/-! ### The NT. unit and the tables -/

theorem kept_updNt {f : Nt → Nt} (h : Kept s₀ s) : Kept s₀ (updNt b f s) := kept_updBay (fun _ => rfl) h

theorem kept_ntPush {o : NtOp} (h : Kept s₀ s) : Kept s₀ (ntPush b o s) := kept_retire (kept_countIssue (kept_updNt h))

theorem kept_ntIssue {c : Instr} {rs : List Ctr} {ds : List Dix} {op : State → Option NtOp} (h : Kept s₀ s) : Kept s₀
    (ntIssue b c rs ds op s) :=
  kept_issue (fun _ h0 => (kept_ite (kept_stall h0) (kept_descRead (fun _ h1 => (by split <;> [exact (kept_trap h1);
      exact (kept_ntPush h1)])) h0))) h

theorem keeps_execNtCfg {imm : W32} : Keeps s (execNtCfg b imm s) := keeps_next (kept_ntIssue Kept.refl)

theorem keeps_execNtLdp {d : Dix} : Keeps s (execNtLdp b d s) := keeps_next (kept_ntIssue Kept.refl)

theorem keeps_execNtFwd {fd : LFlag} {d2 d1 : Dix} : Keeps s (execNtFwd b fd d2 d1 s) :=
  keeps_next (kept_ntIssue Kept.refl)

theorem keeps_execNtInv {fd : LFlag} {d2 d1 : Dix} : Keeps s (execNtInv b fd d2 d1 s) :=
  keeps_next (kept_ntIssue Kept.refl)

theorem keeps_execNtTv {ac ident : Bool} {slot : Fin 16} {cb : Ctr} : Keeps s (execNtTv b ac ident slot cb s) :=
  keeps_next (kept_ntIssue Kept.refl)

theorem keeps_execNtStep {ac : Bool} {fd : LFlag} {ce : Ctr} {d1 : Dix} : Keeps s (execNtStep b ac fd ce d1 s) :=
  keeps_next (kept_ntIssue Kept.refl)

theorem keeps_execNtAcc {ac : Bool} {fd : LFlag} {d2 : Dix} : Keeps s (execNtAcc b ac fd d2 s) :=
  keeps_next (kept_ntIssue Kept.refl)

theorem keeps_execNtOut {ac : Bool} {fd : LFlag} {d1 : Dix} : Keeps s (execNtOut b ac fd d1 s) :=
  keeps_next (kept_ntIssue Kept.refl)

theorem kept_ntUe {e : NtEnt} {l : List Nat} (h : Kept s₀ s) : Kept s₀ (ntUe b e l s) :=
  kept_haltReadPath (kept_ueBytes (kept_updNt h))

theorem kept_startNt {e : NtEnt} {ev : CodeEvent} (h : Kept s₀ s) : Kept s₀ (startNt b e ev s) :=
  kept_ite (kept_haltStream (kept_updNt h)) (kept_withUnits (fun _ h0 => (kept_ite (kept_ntUe h0) (kept_updNt h0)))
      (kept_updNt h))

theorem keeps_execNtInstrStart {ev : CodeEvent} : Keeps s (execNtInstrStart b ev s) := by
  refine keeps_next ?_
  have h : Kept s s := Kept.refl
  split
  · exact kept_ite (kept_guarded (fun _ h0 => (kept_startNt h0)) h) h
  · exact h

theorem kept_transformed {f : Nat → Nat → List Nat → List Nat} {q n : Nat} {ls : List (List Nat)} (h : Kept s₀ s) :
    Kept s₀ (transformed f q n ls s).2 := by
  unfold transformed
  split
  · exact h
  · exact kept_drew h

theorem kept_putPolys {d : Desc} {ls : List (List Nat)} (h : Kept s₀ s) : Kept s₀ (putPolys d ls s) := kept_streamOut h

theorem kept_ntRun {op : NtOp} (h : Kept s₀ s) : Kept s₀ (ntRun b op s) := by
  cases op with
  | cfg _ => exact kept_updNt h
  | ldp _ => exact h
  | fwd _ _ _ => exact kept_putPolys (kept_transformed h)
  | inv _ _ _ => exact kept_putPolys (kept_transformed h)
  | tv _ _ _ _ => exact kept_updNt h
  | step _ _ _ _ => exact kept_putPolys (kept_transformed h)
  | acc _ _ _ => exact kept_updNt (kept_transformed h)
  | out _ _ _ => exact kept_putPolys h

theorem kept_ntZero {op : NtOp} (h : Kept s₀ s) : Kept s₀ (ntZero b op s) := by
  unfold ntZero
  dsimp only
  split
  · exact kept_putPolys h
  · exact kept_putPolys h
  · exact kept_putPolys h
  · exact kept_updNt h
  · exact kept_putPolys h
  · exact h
  · exact h
  · exact h

theorem kept_ntLdp {e : NtEnt} {d : Desc} (h : Kept s₀ s) : Kept s₀ (ntLdp b e d s) :=
  kept_ite (kept_rewrote (kept_updNt h)) (kept_haltStream h)

theorem kept_accWritten {op : NtOp} (h : Kept s₀ s) : Kept s₀ (accWritten b op s) := by
  unfold accWritten
  split
  · exact kept_rewrote h
  · exact kept_rewrote h
  · exact h

theorem kept_finishNt {e : NtEnt} (h : Kept s₀ s) : Kept s₀ (finishNt b e s) := by
  unfold finishNt
  refine kept_ite (kept_ntUe h) ?_
  dsimp only
  split
  · exact kept_ntLdp (kept_updNt h)
  · exact kept_putFlagOpt (kept_accWritten (kept_ite (kept_ntZero (kept_updNt h)) (kept_ntRun (kept_updNt h))))

theorem keeps_execNtInstrComplete : Keeps s (execNtInstrComplete b s) := by
  refine keeps_next ?_
  have h : Kept s s := Kept.refl
  split
  · exact kept_ite (kept_guarded (fun _ h0 => (kept_finishNt h0)) h) h
  · exact h

theorem kept_updTbl {f : Tbl → Tbl} (h : Kept s₀ s) : Kept s₀ (updTbl b f s) := kept_updBay (fun _ => rfl) h

theorem kept_startTbl {bank : Bool} {slot : Fin 16} {fd : LFlag} {x : Desc} (h : Kept s₀ s) : Kept s₀ (startTbl b bank
    slot fd x s) :=
  kept_ite (kept_retire (kept_putFlag (kept_updTbl (kept_countFault h)))) (kept_retire (kept_countIssue (kept_updTbl
      h)))

theorem keeps_execTblLd {bank : Bool} {slot : Fin 16} {fd : LFlag} {d : Dix} : Keeps s (execTblLd b bank slot fd d s) :=
  keeps_next (kept_issue (fun _ h0 => (kept_ite (kept_stall h0) (kept_unitRead (fun _ _ h1 => (kept_startTbl h1)) h0)))
      Kept.refl)

theorem kept_finishTbl {e : TblLoad} (h : Kept s₀ s) : Kept s₀ (finishTbl b e s) := by
  unfold finishTbl
  extract_lets as u l ws
  have hu : Kept s₀ u := kept_updTbl h
  exact kept_ite (kept_haltReadPath (kept_ueBytes (kept_updTbl hu))) (kept_putFlag (kept_rewrote (kept_updTbl hu)))

theorem keeps_execTblLdComplete {ev : CodeEvent} : Keeps s (execTblLdComplete b ev s) := by
  refine keeps_next ?_
  have h : Kept s s := Kept.refl
  split
  · exact kept_ite (kept_guarded (fun _ h0 => (kept_finishTbl h0)) h) h
  · exact h

theorem keeps_execTblSwap : Keeps s (execTblSwap b s) :=
  keeps_next (kept_issue (fun _ h0 => (kept_retire (kept_updTbl h0))) Kept.refl)

theorem keeps_execTblStat {cn : Ctr} : Keeps s (execTblStat b cn s) :=
  keeps_next (kept_issue (fun _ h0 => (kept_putCtr h0)) Kept.refl)

theorem keeps_execTableBankFlip : Keeps s (execTableBankFlip b s) :=
  keeps_next (kept_ite (kept_updTbl Kept.refl) Kept.refl)

/-! ### Tide streams -/

theorem kept_updTide {f : Tide → Tide} (h : Kept s₀ s) : Kept s₀ (updTide b f s) := kept_updBay (fun _ => rfl) h

theorem kept_judgeBay (h : Kept s₀ s) : Kept s₀ (judgeBay b s) := by
  unfold judgeBay
  split
  · exact kept_judgeIn h
  · exact h

theorem kept_openStream {x : TStream} {ev : CodeEvent} (h : Kept s₀ s) : Kept s₀ (openStream b x ev s) :=
  kept_judgeBay (kept_ite (kept_refUp (kept_updTide (kept_traffic (kept_countBad (kept_readIn h))))) (kept_updTide
      (kept_traffic (kept_countBad (kept_readIn h)))))

theorem keeps_execTdKey {ck cg : Ctr} {cb : Option Ctr} {next : Bool} {level : Fin 64} {ev : CodeEvent} : Keeps s
    (execTdKey b ck cg cb next level ev s) :=
  keeps_next (kept_issue (fun _ h0 => (kept_ite (kept_stall h0) (kept_ite h0 (kept_retire (kept_ite (kept_openStream
      (kept_updTide h0)) (kept_judgeBay (kept_updTide h0))))))) Kept.refl)

theorem keeps_execTdDrop : Keeps s (execTdDrop b s) :=
  keeps_next (kept_issue (fun _ h0 => (kept_retire (kept_endStreams h0))) Kept.refl)

theorem keeps_execTdStat {cn : Ctr} : Keeps s (execTdStat b cn s) :=
  keeps_next (kept_issue (fun _ h0 => (kept_putCtr h0)) Kept.refl)

theorem keeps_execKeyStreamOpen {i : Fin 4} {ev : CodeEvent} : Keeps s (execKeyStreamOpen b i ev s) := by
  refine keeps_next ?_
  have h : Kept s s := Kept.refl
  split
  · split
    · exact kept_ite (kept_openStream h) h
    · exact h
  · exact h

theorem kept_passSet {k : Nat} (h : Kept s₀ s) : Kept s₀ (passSet k b s) := kept_updTide h

theorem kept_failSet {o : OpenOp} {k : Nat} (h : Kept s₀ s) : Kept s₀ (failSet o k b s) :=
  kept_endStreams (kept_updTide h)

theorem kept_updOp {mask : BayMask} {f : OpenOp → OpenOp} (h : Kept s₀ s) : Kept s₀ (updOp mask f s) :=
  kept_mapBracket h

theorem kept_haltEnded {o : OpenOp} (h : Kept s₀ s) : Kept s₀ (haltEnded o s) :=
  kept_ite (kept_foldl (fun _ hu _ => (kept_haltMismatch hu)) h) h

theorem keeps_execKeySetCombine {mask : BayMask} {k : Nat} : Keeps s (execKeySetCombine mask k s) := by
  refine keeps_next ?_
  have h : Kept s s := Kept.refl
  split
  · exact kept_ite (kept_ite (kept_forBays (fun _ _ h0 => (kept_passSet h0)) (kept_updOp h)) (kept_ite (kept_haltEnded
      (kept_postVerdict (kept_updOp (kept_forBays (fun _ _ h0 => (kept_failSet h0)) (kept_updOp h))))) (kept_forBays
      (fun _ _ h0 => (kept_failSet h0)) (kept_updOp h)))) h
  · exact h

theorem keeps_execKeyFillStart : Keeps s (execKeyFillStart b s) := by
  refine keeps_next ?_
  have h : Kept s s := Kept.refl
  dsimp only
  split
  · exact kept_ite (kept_updTide h) h
  · exact h

theorem kept_haltTide (h : Kept s₀ s) : Kept s₀ (haltTide b s) := kept_channelFault (kept_updTide h)

theorem npc_putKeyRow {x : Bays} {c : Codes} {n k : Nat} {ws : List W32} : (x.putKeyRow c n k ws).npc = x.npc := rfl

theorem kept_fillRow {x : Bool} {y : TStream} {c : TideCap} {ev : CodeEvent} (h : Kept s₀ s) :
    Kept s₀ (fillRow b x y c ev s) := by
  unfold fillRow
  extract_lets g bl f r blk a u
  have hu : Kept s₀ u := kept_traffic (kept_passPorts (kept_readIn h))
  refine kept_ite h (kept_ite (kept_haltTide (kept_countBad hu)) ?_)
  exact kept_with (kept_updTide (kept_updBay (fun _ => npc_putKeyRow) hu))

theorem keeps_execKeyFillData {ev : CodeEvent} : Keeps s (execKeyFillData b ev s) := by
  refine keeps_next ?_
  have h : Kept s s := Kept.refl
  dsimp only
  split
  · split
    · split
      · exact kept_ite (kept_fillRow h) h
      · exact h
    · exact h
  · exact h

theorem keeps_execXofSegmentStart : Keeps s (execXofSegmentStart b s) := by
  refine keeps_next ?_
  have h : Kept s s := Kept.refl
  dsimp only
  split
  · exact kept_ite (kept_updTide h) h
  · exact h

theorem keeps_execXofSegmentComplete {core : Fin 36} : Keeps s (execXofSegmentComplete b core s) := by
  refine keeps_next ?_
  have h : Kept s s := Kept.refl
  dsimp only
  split
  · split
    · exact kept_ite (kept_with (kept_rewrote (kept_updTide h))) h
    · exact h
  · exact h

theorem kept_rowOut {x : TStream} (h : Kept s₀ s) : Kept s₀ (rowOut b x s) := kept_endStreams (kept_updTide h)

/-! ### Vector registers -/

theorem kept_maskOut {d : Desc} {l : List (Option Byte)} (h : Kept s₀ s) : Kept s₀ (maskOut d l s) := kept_storeRuns h

/-! ### The vector engine -/

theorem kept_updVec {f : Vec → Vec} (h : Kept s₀ s) : Kept s₀ (updVec b f s) := kept_updBay (fun _ => rfl) h

theorem kept_vePush {op : VecOp} (h : Kept s₀ s) : Kept s₀ (vePush b op s) :=
  kept_retire (kept_countIssue (kept_updVec h))

theorem kept_veIssueD {c : Instr} {rs : List Ctr} {ds : List Dix} {op : State → Option VecOp} (h : Kept s₀ s) : Kept s₀
    (veIssueD b c rs ds op s) :=
  kept_issue (fun _ h0 => (kept_ite (kept_stall h0) (kept_descRead (fun _ h1 => (by split <;> [exact (kept_trap h1);
      exact (kept_vePush h1)])) h0))) h

theorem kept_veIssue {c : Instr} {rs : List Ctr} {op : State → VecOp} (h : Kept s₀ s) : Kept s₀ (veIssue b c rs op s) :=
  kept_issue (fun _ h0 => (kept_ite (kept_stall h0) (kept_vePush h0))) h

theorem kept_veAlu {c : Instr} {op : VAlu} {vd va : VReg} {o : VBOp} {pg : PReg} (h : Kept s₀ s) : Kept s₀ (veAlu b c op
    vd va o pg s) :=
  kept_veIssue h

theorem keeps_execVeAdd {vd va : VReg} {o : VBOp} {pg : PReg} : Keeps s (execVeAdd b vd va o pg s) :=
  keeps_next (kept_veAlu Kept.refl)

theorem keeps_execVeSub {vd va : VReg} {o : VBOp} {pg : PReg} : Keeps s (execVeSub b vd va o pg s) :=
  keeps_next (kept_veAlu Kept.refl)

theorem keeps_execVeMull {vd va : VReg} {o : VBOp} {pg : PReg} : Keeps s (execVeMull b vd va o pg s) :=
  keeps_next (kept_veAlu Kept.refl)

theorem keeps_execVeMulh {vd va : VReg} {o : VBOp} {pg : PReg} : Keeps s (execVeMulh b vd va o pg s) :=
  keeps_next (kept_veAlu Kept.refl)

theorem keeps_execVeMulhu {vd va : VReg} {o : VBOp} {pg : PReg} : Keeps s (execVeMulhu b vd va o pg s) :=
  keeps_next (kept_veAlu Kept.refl)

theorem keeps_execVeAnd {vd va : VReg} {o : VBOp} {pg : PReg} : Keeps s (execVeAnd b vd va o pg s) :=
  keeps_next (kept_veAlu Kept.refl)

theorem keeps_execVeOr {vd va : VReg} {o : VBOp} {pg : PReg} : Keeps s (execVeOr b vd va o pg s) :=
  keeps_next (kept_veAlu Kept.refl)

theorem keeps_execVeXor {vd va : VReg} {o : VBOp} {pg : PReg} : Keeps s (execVeXor b vd va o pg s) :=
  keeps_next (kept_veAlu Kept.refl)

theorem keeps_execVeShl {vd va : VReg} {o : VBOp} {pg : PReg} : Keeps s (execVeShl b vd va o pg s) :=
  keeps_next (kept_veAlu Kept.refl)

theorem keeps_execVeShr {vd va : VReg} {o : VBOp} {pg : PReg} : Keeps s (execVeShr b vd va o pg s) :=
  keeps_next (kept_veAlu Kept.refl)

theorem keeps_execVeSra {vd va : VReg} {o : VBOp} {pg : PReg} : Keeps s (execVeSra b vd va o pg s) :=
  keeps_next (kept_veAlu Kept.refl)

theorem keeps_execVeMin {vd va : VReg} {o : VBOp} {pg : PReg} : Keeps s (execVeMin b vd va o pg s) :=
  keeps_next (kept_veAlu Kept.refl)

theorem keeps_execVeMax {vd va : VReg} {o : VBOp} {pg : PReg} : Keeps s (execVeMax b vd va o pg s) :=
  keeps_next (kept_veAlu Kept.refl)

theorem keeps_execVeMinu {vd va : VReg} {o : VBOp} {pg : PReg} : Keeps s (execVeMinu b vd va o pg s) :=
  keeps_next (kept_veAlu Kept.refl)

theorem keeps_execVeMaxu {vd va : VReg} {o : VBOp} {pg : PReg} : Keeps s (execVeMaxu b vd va o pg s) :=
  keeps_next (kept_veAlu Kept.refl)

theorem keeps_execVeSel {vd va : VReg} {o : VBOp} {ps pg : PReg} : Keeps s (execVeSel b vd va o ps pg s) :=
  keeps_next (kept_veIssue Kept.refl)

theorem keeps_execVeIota {vd : VReg} {cb : Ctr} {pg : PReg} : Keeps s (execVeIota b vd cb pg s) :=
  keeps_next (kept_veIssue Kept.refl)

theorem keeps_execVeCmp {pd : PReg} {r : Rel} {va : VReg} {o : VBOp} {pg : PReg} : Keeps s (execVeCmp b pd r va o pg s)
    :=
  keeps_next (kept_veIssue Kept.refl)

theorem keeps_execVeFcmp {pd : PReg} {r : FRel} {va : VReg} {o : VBOp} {pg : PReg} : Keeps s (execVeFcmp b pd r va o pg
    s) :=
  keeps_next (kept_veIssue Kept.refl)

theorem keeps_execVePand {pd pa pb pg : PReg} : Keeps s (execVePand b pd pa pb pg s) :=
  keeps_next (kept_veIssue Kept.refl)

theorem keeps_execVePor {pd pa pb pg : PReg} : Keeps s (execVePor b pd pa pb pg s) :=
  keeps_next (kept_veIssue Kept.refl)

theorem keeps_execVePxor {pd pa pb pg : PReg} : Keeps s (execVePxor b pd pa pb pg s) :=
  keeps_next (kept_veIssue Kept.refl)

theorem keeps_execVePnot {pd pa pg : PReg} : Keeps s (execVePnot b pd pa pg s) := keeps_next (kept_veIssue Kept.refl)

theorem kept_veFalu {c : Instr} {op : VFalu} {vd va : VReg} {o : VBOp} {pg : PReg} (h : Kept s₀ s) : Kept s₀ (veFalu b c
    op vd va o pg s) :=
  kept_veIssue h

theorem keeps_execVeFadd {vd va : VReg} {o : VBOp} {pg : PReg} : Keeps s (execVeFadd b vd va o pg s) :=
  keeps_next (kept_veFalu Kept.refl)

theorem keeps_execVeFsub {vd va : VReg} {o : VBOp} {pg : PReg} : Keeps s (execVeFsub b vd va o pg s) :=
  keeps_next (kept_veFalu Kept.refl)

theorem keeps_execVeFmul {vd va : VReg} {o : VBOp} {pg : PReg} : Keeps s (execVeFmul b vd va o pg s) :=
  keeps_next (kept_veFalu Kept.refl)

theorem keeps_execVeFma {vd va : VReg} {o : VBOp} {vc : VReg} {pg : PReg} : Keeps s (execVeFma b vd va o vc pg s) :=
  keeps_next (kept_veIssue Kept.refl)

theorem keeps_execVeFmin {vd va : VReg} {o : VBOp} {pg : PReg} : Keeps s (execVeFmin b vd va o pg s) :=
  keeps_next (kept_veFalu Kept.refl)

theorem keeps_execVeFmax {vd va : VReg} {o : VBOp} {pg : PReg} : Keeps s (execVeFmax b vd va o pg s) :=
  keeps_next (kept_veFalu Kept.refl)

theorem keeps_execVeCvt {vd va : VReg} {toInt : Bool} {pg : PReg} : Keeps s (execVeCvt b vd va toInt pg s) :=
  keeps_next (kept_veIssue Kept.refl)

theorem kept_veModb {c : Instr} {op : VMod} {vd va : VReg} {o : VBOp} {v : Fin 64} {pg : PReg} (h : Kept s₀ s) : Kept s₀
    (veModb b c op vd va o v pg s) :=
  kept_veIssue h

theorem keeps_execVeMadd {vd va : VReg} {o : VBOp} {v : Fin 64} {pg : PReg} : Keeps s (execVeMadd b vd va o v pg s) :=
  keeps_next (kept_veModb Kept.refl)

theorem keeps_execVeMsub {vd va : VReg} {o : VBOp} {v : Fin 64} {pg : PReg} : Keeps s (execVeMsub b vd va o v pg s) :=
  keeps_next (kept_veModb Kept.refl)

theorem keeps_execVeMmul {vd va : VReg} {o : VBOp} {v : Fin 64} {pg : PReg} : Keeps s (execVeMmul b vd va o v pg s) :=
  keeps_next (kept_veModb Kept.refl)

theorem keeps_execVeMmac {vd va : VReg} {o : VBOp} {v : Fin 64} {pg : PReg} : Keeps s (execVeMmac b vd va o v pg s) :=
  keeps_next (kept_veModb Kept.refl)

theorem keeps_execVeMneg {vd va : VReg} {v : Fin 64} {pg : PReg} : Keeps s (execVeMneg b vd va v pg s) :=
  keeps_next (kept_veIssue Kept.refl)

theorem keeps_execVeMred {vd va : VReg} {v : Fin 64} {pg : PReg} : Keeps s (execVeMred b vd va v pg s) :=
  keeps_next (kept_veIssue Kept.refl)

theorem keeps_execVeMlift {vd va : VReg} {v sp : Fin 64} {pg : PReg} : Keeps s (execVeMlift b vd va v sp pg s) :=
  keeps_next (kept_veIssue Kept.refl)

theorem keeps_execVeKmac {cr : Ctr} {init : Bool} {dx : Dix} {wb : Option KmacWb} : Keeps s (execVeKmac b cr init dx wb
    s) :=
  keeps_next (kept_veIssueD Kept.refl)

theorem keeps_execVeLrot {vd va : VReg} {cb : Ctr} {pg : PReg} : Keeps s (execVeLrot b vd va cb pg s) :=
  keeps_next (kept_veIssue Kept.refl)

theorem keeps_execVePerm {vd va vb : VReg} {pg : PReg} : Keeps s (execVePerm b vd va vb pg s) :=
  keeps_next (kept_veIssue Kept.refl)

theorem keeps_execVeSf {vd va : VReg} {func : SfFunc} {m1 : Fin 32} {cc : Ctr} {pg : PReg} : Keeps s (execVeSf b vd va
    func m1 cc pg s) :=
  keeps_next (kept_veIssue Kept.refl)

theorem keeps_execVeLd {vd : VReg} {fmt : VFmt} {d : Dix} {pg : PReg} : Keeps s (execVeLd b vd fmt d pg s) :=
  keeps_next (kept_veIssueD Kept.refl)

theorem keeps_execVeSt {va : VReg} {fmt : VFmt} {d : Dix} {pg : PReg} : Keeps s (execVeSt b va fmt d pg s) :=
  keeps_next (kept_veIssueD Kept.refl)

theorem keeps_execVeLdq {vd : VReg} {q : Fin 8} {m1 : Fin 32} {pg : PReg} : Keeps s (execVeLdq b vd q m1 pg s) :=
  keeps_next (kept_veIssue Kept.refl)

theorem keeps_execVeGsign {pd : PReg} {cg cb : Ctr} {logn : Nat} {pg : PReg} : Keeps s (execVeGsign b pd cg cb logn pg
    s) :=
  keeps_next (kept_veIssue Kept.refl)

theorem kept_markSum {cn : Ctr} {fn : LFlag} (h : Kept s₀ s) : Kept s₀ (markSum b cn fn s) :=
  kept_updBay (fun _ => rfl) h

theorem keeps_execVeSum {cn : Ctr} {kind : SumKind} {fn : LFlag} {pg : PReg} : Keeps s (execVeSum b cn kind fn pg s) :=
  keeps_next (kept_issue (fun _ h0 => (kept_ite (kept_stall h0) (kept_vePush (kept_markSum h0)))) Kept.refl)

theorem keeps_execVeLdp {e m1 : Fin 64} {d : Dix} : Keeps s (execVeLdp b e m1 d s) :=
  keeps_next (kept_veIssueD Kept.refl)

theorem keeps_execVeStat {cn : Ctr} : Keeps s (execVeStat b cn s) :=
  keeps_next (kept_issue (fun _ h0 => (kept_ite (kept_stall h0) (kept_vePush (kept_updStrm h0)))) Kept.refl)

theorem kept_veUe {e : VecEnt} {l : List Nat} (h : Kept s₀ s) : Kept s₀ (veUe b e l s) :=
  kept_haltReadPath (kept_ueBytes (kept_updVec h))

theorem kept_runLd {e : VecEnt} {vd : VReg} {f : VFmt} {d : Desc} {pg : PReg} (h : Kept s₀ s) : Kept s₀ (runLd b e vd f
    d pg s) :=
  kept_ite (kept_updVec h) (kept_ite (kept_veUe h) (kept_updVec h))

theorem kept_runSt {e : VecEnt} {va : VReg} {f : VFmt} {d : Desc} {pg : PReg} (h : Kept s₀ s) : Kept s₀ (runSt b e va f
    d pg s) :=
  kept_updVec (kept_maskOut h)

theorem kept_runLdq {e : VecEnt} {vd : VReg} {q : Fin 8} {m : Nat} {pg : PReg} {ev : CodeEvent} (h : Kept s₀ s) : Kept
    s₀ (runLdq b e vd q m pg ev s) := by
  unfold runLdq
  split
  · exact kept_withUnits (fun _ h0 => (kept_updVec h0)) (kept_updBay (fun _ => rfl) h)
  · exact h

theorem kept_runKmac {e : VecEnt} {r : Nat} {init : Bool} {dx : Desc} {wb : Option KWb} (h : Kept s₀ s) : Kept s₀
    (runKmac b e r init dx wb s) := by
  unfold runKmac
  dsimp only
  split
  · exact kept_ite (kept_veUe (kept_updVec h)) (kept_updVec (kept_updVec h))
  · exact h

theorem kept_runVeLdp {e : VecEnt} {n m : Nat} {d : Desc} (h : Kept s₀ s) : Kept s₀ (runVeLdp b e n m d s) :=
  kept_ite (kept_veUe h) (kept_ite (kept_rewrote (kept_updVec h)) (kept_haltStream h))

theorem kept_wroteRegs {op : VecOp} {x : Vec} (h : Kept s₀ s) : Kept s₀ (wroteRegs b op x s) :=
  kept_ite h (kept_updProt h)

theorem kept_startVec {e : VecEnt} {ev : CodeEvent} (h : Kept s₀ s) : Kept s₀ (startVec b e ev s) :=
  kept_withUnits (fun _ h0 => (kept_wroteRegs (by split <;> [exact (kept_runLd h0); exact (kept_runSt h0); exact
      (kept_runLdq h0); exact (kept_runKmac h0); exact (kept_runVeLdp h0); exact (kept_landCtr h0); exact (kept_updVec
      h0); exact (kept_drew (kept_updVec h0))]))) (kept_updVec h)

theorem keeps_execVeInstrStart {ev : CodeEvent} : Keeps s (execVeInstrStart b ev s) := by
  refine keeps_next ?_
  have h : Kept s s := Kept.refl
  split
  · exact kept_ite (kept_guarded (fun _ h0 => (kept_startVec h0)) h) h
  · exact h

theorem kept_landKmac {k : KmacPend} (h : Kept s₀ s) : Kept s₀ (landKmac b k s) :=
  kept_putFlag (kept_streamOut (kept_streamOut (kept_updVec h)))

theorem keeps_execVeKmacWriteback {ev : CodeEvent} : Keeps s (execVeKmacWriteback b ev s) := by
  refine keeps_next ?_
  have h : Kept s s := Kept.refl
  split
  · exact kept_ite (kept_guarded (fun _ h0 => (kept_landKmac h0)) h) h
  · exact h

theorem keeps_execVeSumResult : Keeps s (execVeSumResult b s) := by
  refine keeps_next ?_
  have h : Kept s s := Kept.refl
  split
  · exact kept_ite (kept_putFlag (kept_landCtr (kept_updBay (fun _ => rfl) h))) h
  · exact h

theorem kept_rowTaken {lt : Lt} (h : Kept s₀ s) : Kept s₀ (rowTaken b lt s) := by
  unfold rowTaken
  split
  · exact kept_rowsWritten h
  · exact h

theorem kept_giveRow {k : Taker} {sid : Nat} {row : KeyRow} (h : Kept s₀ s) : Kept s₀ (giveRow b k sid row s) := by
  unfold giveRow
  split
  · exact kept_rowTaken (kept_updTile h)
  · exact kept_updVec h
  · exact h

theorem kept_rowRead {ev : CodeEvent} {w : Option Nat} {g : Option (Nat × Nat × Nat)} {k : State → State} (hk0 : ∀ u,
    Kept s₀ u → Kept s₀ (k u)) (h : Kept s₀ s) : Kept s₀ (rowRead b ev w g k s) := by
  unfold rowRead
  split
  · refine kept_ite h ?_
    split
    · exact kept_ite (kept_askRepair h) (hk0 _ h)
    · exact hk0 _ (kept_ite (kept_misread h) h)
    · exact hk0 _ (kept_ite (kept_correctedAt h) h)
    · exact hk0 _ h
  · split
    · dsimp only
      split
      · exact kept_haltTide (kept_ueAt h)
      · exact hk0 _ (kept_ite (kept_correctedAt h) h)
      · exact hk0 _ (kept_ite (kept_updTide h) h)
      · exact hk0 _ h
    · exact hk0 _ h

theorem kept_deliverRow {st : TStream} {k : Taker} {w : Option Nat} (h : Kept s₀ s) : Kept s₀ (deliverRow b st k w s) :=
    by
  unfold deliverRow
  split
  · exact kept_haltTide (kept_uePage h)
  · split
    · exact kept_rowOut (kept_giveRow (kept_updBay (fun _ => rfl) h))
    · exact h

theorem keeps_execKeyRowDeliver {ev : CodeEvent} : Keeps s (execKeyRowDeliver b ev s) := by
  refine keeps_next ?_
  have h : Kept s s := Kept.refl
  dsimp only
  split
  · refine kept_ite h ?_
    split
    · exact kept_ite (kept_deliverRow h) (kept_rowRead (fun _ h0 => (kept_deliverRow h0)) h)
    · exact h
  · exact h

end Sys2Proof.Proofs.Invariants
end

section
/-! PROOFS. What every step keeps, continued: waits, the beat, the big-number engine, the TS. instructions and the link. -/

namespace Sys2Proof.Proofs.Invariants

open Sys2Proof Sys2Proof.Machine Sys2Proof.Laws.State Sys2Proof.Laws.Memory

variable {s₀ s t : State} {b : Bay} {st : Strm}

/-! ### Waits, the no-progress detector and parks -/

theorem keeps_execWaitTimeout : Keeps s (execWaitTimeout b st s) := by
  refine keeps_next ?_
  have h : Kept s s := Kept.refl
  refine kept_ite h ?_
  dsimp only
  split
  · exact kept_updStrm (kept_haltStream (kept_repeat (fun _ h0 => (kept_countFault h0)) h))
  · exact kept_ite (kept_updStrm (kept_trap h)) h

theorem kept_dlkStream (h : Kept s₀ s) : Kept s₀ (dlkStream b st s) := kept_ite h (kept_updStrm (kept_haltRec h))

theorem keeps_execDlk : Keeps s (execDlk b s) := by
  refine keeps_next (kept_ite ?_ Kept.refl)
  exact kept_setBay_le (fun _ => Nat.zero_le _)
    (kept_withdrawHop (kept_dlkStream (kept_dlkStream (kept_countFault Kept.refl))))

theorem keeps_execParkComplete : Keeps s (execParkComplete b s) :=
  keeps_next (kept_ite (kept_setBay rfl Kept.refl) Kept.refl)

theorem kept_startBays {mask : BayMask} (h : Kept s₀ s) : Kept s₀ (startBays mask s) :=
  kept_foldl (fun _ hu _ => (kept_ite (kept_updBay (fun _ => rfl) hu) hu)) h

theorem keeps_execProgramRelease {mask : BayMask} : Keeps s (execProgramRelease mask s) := by
  refine keeps_next ?_
  have h : Kept s s := Kept.refl
  split
  · exact kept_ite (kept_with (kept_startBays h)) h
  · exact h

/-! ### The beat -/

theorem kept_updBeat {f : Beat → Beat} (h : Kept s₀ s) : Kept s₀ (updBeat f s) := kept_with h

theorem kept_beatExc {code bnum before : Nat} {off : ℤ} (h : Kept s₀ s) : Kept s₀ (beatExc code bnum before off s) := by
  unfold beatExc
  exact kept_record h

theorem keeps_execBeatBlockReceive {bnum : BitVec 48} {crc : Byte} : Keeps s (execBeatBlockReceive bnum crc s) :=
  keeps_next (kept_ite (kept_ite (kept_updBeat Kept.refl) (kept_with Kept.refl)) Kept.refl)

theorem kept_rejectMarker {number : Bool} {bnum : Nat} {off : ℤ} (h : Kept s₀ s) : Kept s₀ (rejectMarker number bnum off
    s) :=
  kept_ite (kept_beatExc (kept_updBeat (kept_strobe h))) (kept_beatExc (kept_updBeat (kept_strobe h)))

theorem kept_rejectLive {number : Bool} {bnum : Nat} {off : ℤ} (h : Kept s₀ s) : Kept s₀ (rejectLive number bnum off s)
    := by
  unfold rejectLive
  split
  · exact kept_rejectMarker h
  · exact kept_ite (kept_rejectMarker h) (kept_ite (kept_rejectMarker h) (kept_ite (kept_updBeat h) h))

theorem kept_acceptMarker {bnum : BitVec 48} {off : ℤ} (h : Kept s₀ s) : Kept s₀ (acceptMarker bnum off s) :=
  kept_ite (kept_rejectLive h) (kept_ite (kept_rejectLive h) (kept_ite (kept_rejectMarker (kept_updBeat h)) (kept_ite
      (kept_updBeat h) (kept_strobe (kept_updBeat h)))))

theorem keeps_execMarkerArrival {off : ℤ} {gap : Nat} : Keeps s (execMarkerArrival off gap s) := by
  refine keeps_next ?_
  have h : Kept s s := Kept.refl
  split
  · exact kept_ite (kept_ite (kept_acceptMarker (kept_updBeat h)) (kept_updBeat h)) h
  · exact h

theorem kept_missedReject {e : Entry} {before : Nat} (h : Kept s₀ s) : Kept s₀ (missedReject e before s) :=
  kept_beatExc (kept_updBeat h)

theorem kept_lockedEdge (h : Kept s₀ s) : Kept s₀ (lockedEdge s) := by
  unfold lockedEdge
  refine kept_ite (kept_updBeat h) ?_
  refine kept_ite (kept_ite (kept_ite (kept_updBeat (kept_updBeat (kept_ite (kept_diverge h) h))) (kept_updBeat
      (kept_ite (kept_diverge h) h))) (kept_beatExc (kept_ite (kept_updBeat (kept_updBeat (kept_ite (kept_diverge h)
      h))) (kept_updBeat (kept_ite (kept_diverge h) h))))) ?_
  refine kept_ite (kept_ite (kept_updBeat (kept_updBeat (kept_ite (kept_diverge h) h))) (kept_updBeat (kept_ite
      (kept_diverge h) h))) ?_
  split
  · exact kept_missedReject (kept_ite (kept_updBeat (kept_updBeat (kept_ite (kept_diverge h) h))) (kept_updBeat
      (kept_ite (kept_diverge h) h)))
  · exact kept_ite (kept_beatExc (kept_ite (kept_updBeat (kept_updBeat (kept_ite (kept_diverge h) h))) (kept_updBeat
      (kept_ite (kept_diverge h) h)))) (kept_ite (kept_updBeat (kept_updBeat (kept_ite (kept_diverge h) h)))
      (kept_updBeat (kept_ite (kept_diverge h) h)))

theorem kept_freeEdge (h : Kept s₀ s) : Kept s₀ (freeEdge s) :=
  kept_ite (kept_updBeat h) (kept_throttle (kept_beatExc (kept_updBeat (kept_ite (kept_lockedEdge h) (kept_ite
      (kept_updBeat h) h)))))

theorem kept_jumpEdge {bnum : BitVec 48} (h : Kept s₀ s) : Kept s₀ (jumpEdge bnum s) := kept_beatExc (kept_updBeat h)

theorem kept_enterLost (h : Kept s₀ s) : Kept s₀ (enterLost s) :=
  kept_recFault (kept_throttle (kept_beatExc (kept_updBeat (kept_countFault h))))

theorem kept_enterLocked (h : Kept s₀ s) : Kept s₀ (enterLocked s) := kept_beatExc (kept_updBeat h)

theorem kept_scriptedEdge {e : Entry} (h : Kept s₀ s) : Kept s₀ (scriptedEdge e s) :=
  kept_ite (kept_enterLost h) (kept_ite (kept_enterLocked (kept_lockedEdge h)) (kept_jumpEdge h))

theorem kept_edgeBeat (h : Kept s₀ s) : Kept s₀ (edgeBeat s) :=
  kept_updBeat (kept_ite (kept_freeEdge (kept_updBeat (kept_with (kept_strobe h)))) (by split <;> [exact
      (kept_scriptedEdge (kept_updBeat (kept_with (kept_strobe h)))); exact (kept_jumpEdge (kept_updBeat (kept_with
      (kept_strobe h)))); exact (by split <;> [exact (kept_lockedEdge (kept_updBeat (kept_with (kept_strobe h)))); exact
      (kept_lockedEdge (kept_updBeat (kept_with (kept_strobe h)))); exact (kept_updBeat (kept_updBeat (kept_with
      (kept_strobe h)))); exact (kept_updBeat (kept_updBeat (kept_with (kept_strobe h)))); exact (kept_updBeat
      (kept_updBeat (kept_with (kept_strobe h)))); exact (kept_updBeat (kept_with (kept_strobe h)))])]))

theorem kept_barEdge {old : Nat} (h : Kept s₀ s) : Kept s₀ (barEdge old s) :=
  kept_ite h (kept_checkGap (kept_with (kept_record (kept_strobe h))))

theorem npc_tickUnits {f : UTick} : (tickUnits f b s).npc = (s.bay b).npc := by
  unfold tickUnits
  dsimp only
  split <;> rfl

theorem npc_tickBay : (tickBay s b).npc = (s.bay b).npc := npc_tickUnits

theorem isSome_lessRaise {r : Option (Nat × Nat)} : (lessRaise r).isSome = r.isSome := by
  cases r <;> rfl

theorem capsAt_steps {p : Power} :
    p.capsAt.step = p.step ∧ p.capsAt.raise = p.raise ∧ p.capsAt.target = p.target := by
  unfold Power.capsAt
  dsimp only
  split
  · exact ⟨rfl, rfl, rfl⟩
  · split
    · exact ⟨rfl, rfl, rfl⟩
    · split <;> exact ⟨rfl, rfl, rfl⟩

theorem edge_steps {p : Power} {smp : Sample} {w : Nat} {i : Int} :
    (p.edge smp w i).step = p.step ∧ (p.edge smp w i).raise = p.raise.map lessRaise ∧ (p.edge smp w i).target = p.target := by
  unfold Power.edge
  extract_lets q r u
  exact capsAt_steps (p := r)

theorem pwrInv_edge {p : Power} {smp : Sample} {w : Nat} {i : Int} (h : PwrInv p) : PwrInv (p.edge smp w i) := by
  intro b
  obtain ⟨hs, hr, ht⟩ := edge_steps (p := p) (smp := smp) (w := w) (i := i)
  simpa [hs, hr, ht, isSome_lessRaise] using h b

theorem keeps_execBeatEdge {smp : Sample} : Keeps s (execBeatEdge smp s) := by
  refine keeps_next (kept_ite ?_ Kept.refl)
  refine kept_replayAdvance (kept_barEdge (kept_setTargets (kept_resumePulses (kept_with (kept_updPwr_inv pwrInv_edge ?_)))))
  exact kept_edgeBeat (kept_mapBays_le (fun _ hn => npc_tickBay.trans_le hn) (kept_with Kept.refl))

theorem keeps_execHoldEnter : Keeps s (execHoldEnter s) :=
  keeps_next (kept_ite (kept_throttle (kept_beatExc (kept_updBeat Kept.refl))) Kept.refl)

theorem kept_refuseExit {n : BitVec 48} (h : Kept s₀ s) : Kept s₀ (refuseExit n s) := kept_beatExc (kept_updBeat h)

theorem keeps_execHoldExit : Keeps s (execHoldExit s) := by
  refine keeps_next ?_
  have h : Kept s s := Kept.refl
  split
  · exact kept_ite (kept_ite (kept_updBeat h) (kept_refuseExit h)) h
  · exact h

theorem keeps_execBeatLost : Keeps s (execBeatLost s) := keeps_next (kept_ite (kept_enterLost Kept.refl) Kept.refl)

theorem keeps_execAcquisitionDone : Keeps s (execAcquisitionDone s) := by
  refine keeps_next ?_
  have h : Kept s s := Kept.refl
  split
  · exact kept_ite (kept_ite (kept_updBeat h) (kept_refuseExit h)) h
  · exact h

theorem keeps_execLockingDone : Keeps s (execLockingDone s) :=
  keeps_next (kept_ite (kept_enterLocked Kept.refl) Kept.refl)

theorem keeps_execLockingFail : Keeps s (execLockingFail s) :=
  keeps_next (kept_ite (kept_ite (kept_throttle (kept_beatExc (kept_updBeat Kept.refl))) (kept_ite (kept_throttle
      (kept_beatExc (kept_updBeat Kept.refl))) (kept_updBeat Kept.refl))) Kept.refl)

/-! ### The big-number engine -/

theorem kept_updBn {f : Bn → Bn} (h : Kept s₀ s) : Kept s₀ (updBn f s) := kept_with h

theorem kept_bnCure {lo hi : Nat} (h : Kept s₀ s) : Kept s₀ (bnCure lo hi s) := kept_with h

theorem kept_cureSlots {l : List (Fin 64)} (h : Kept s₀ s) : Kept s₀ (cureSlots l s) :=
  kept_foldl (fun _ hu _ => (kept_bnCure hu)) h

theorem kept_slotRefused (h : Kept s₀ s) : Kept s₀ (slotRefused s) := kept_updBn h

theorem kept_bnLenWrite {slot : Fin 64} {len : BitVec 7} (h : Kept s₀ s) : Kept s₀ (bnLenWrite slot len s) :=
  kept_ite (kept_slotRefused h) (kept_updBn (kept_cureSlots h))

theorem keeps_execBnSlotLenWrite {slot : Fin 64} {len : BitVec 7} : Keeps s (execBnSlotLenWrite slot len s) :=
  keeps_next (kept_ite (kept_bnLenWrite Kept.refl) Kept.refl)

theorem keeps_execBnSlotDataWrite {slot word : Fin 64} {v : BitVec 64} : Keeps s (execBnSlotDataWrite slot word v s) :=
  keeps_next (kept_ite (kept_ite (kept_updBn (kept_bnCure Kept.refl)) (kept_slotRefused Kept.refl)) Kept.refl)

theorem kept_bnFail (h : Kept s₀ s) : Kept s₀ (bnFail s) := kept_countFault h

theorem kept_bnCommand {op : Nat} {x : BnArgs} {trng : Nat} (h : Kept s₀ s) : Kept s₀ (bnCommand op x trng s) :=
  kept_ite (kept_ite (kept_bnFail (kept_updBn h)) (kept_updBn h)) h

theorem kept_bnWordCommand {w : BitVec 64} {trng : Nat} (h : Kept s₀ s) : Kept s₀ (bnWordCommand w trng s) :=
  kept_bnCommand h

theorem kept_bnStatWrite {w : W32} (h : Kept s₀ s) : Kept s₀ (bnStatWrite w s) := kept_updBn h

theorem keeps_execBnModmul {x : BnArgs} : Keeps s (execBnModmul x s) := keeps_next (kept_bnCommand Kept.refl)

theorem keeps_execBnModexp {x : BnArgs} : Keeps s (execBnModexp x s) := keeps_next (kept_bnCommand Kept.refl)

theorem keeps_execBnModinv {x : BnArgs} : Keeps s (execBnModinv x s) := keeps_next (kept_bnCommand Kept.refl)

theorem keeps_execBnPchk {x : BnArgs} : Keeps s (execBnPchk x s) := keeps_next (kept_bnCommand Kept.refl)

theorem keeps_execBnPmul {x : BnArgs} : Keeps s (execBnPmul x s) := keeps_next (kept_bnCommand Kept.refl)

theorem keeps_execBnPmulg {x : BnArgs} : Keeps s (execBnPmulg x s) := keeps_next (kept_bnCommand Kept.refl)

theorem keeps_execBnPadd {x : BnArgs} : Keeps s (execBnPadd x s) := keeps_next (kept_bnCommand Kept.refl)

theorem keeps_execBnRands {x : BnArgs} {trng : Nat} : Keeps s (execBnRands x trng s) :=
  keeps_next (kept_bnCommand Kept.refl)

theorem kept_bnReason {op : Nat} {y : BnWhy} (h : Kept s₀ s) : Kept s₀ (bnReason op y s) :=
  kept_ite (kept_drew (kept_updBn h)) (kept_updBn h)

theorem kept_bnFinish {r : BnRun} (h : Kept s₀ s) : Kept s₀ (bnFinish r s) := by
  unfold bnFinish
  dsimp only
  split
  · exact kept_updBn (kept_cureSlots h)
  · exact kept_bnFail (kept_bnReason (kept_updBn (kept_cureSlots h)))

theorem kept_bnAbortWith {r : BnRun} {y : BnWhy} (h : Kept s₀ s) : Kept s₀ (bnAbortWith r y s) :=
  kept_bnFail (kept_bnReason (kept_updBn h))

theorem keeps_execBnOpComplete : Keeps s (execBnOpComplete s) := by
  refine keeps_next ?_
  have h : Kept s s := Kept.refl
  split
  · refine kept_ite ?_ h
    split
    · exact kept_bnAbortWith (kept_ueAt h)
    · exact kept_bnFinish h
  · exact h

theorem kept_bnAbortNow (h : Kept s₀ s) : Kept s₀ (bnAbortNow s) := by
  unfold bnAbortNow
  split
  · exact kept_ite (kept_bnAbortWith h) h
  · exact h

theorem keeps_execBnAbort : Keeps s (execBnAbort s) := keeps_next (kept_bnAbortNow Kept.refl)

theorem keeps_execBnUeAbort {slot : Fin 64} {byte : Fin 512} : Keeps s (execBnUeAbort slot byte s) := by
  refine keeps_next ?_
  have h : Kept s s := Kept.refl
  split
  · split
    · exact kept_ite (kept_bnAbortWith (kept_ueAt (kept_ite h (kept_dieSpoil h)))) h
    · exact h
  · exact h

theorem keeps_execTrngHealthFail : Keeps s (execTrngHealthFail s) := by
  refine keeps_next ?_
  have h : Kept s s := Kept.refl
  split
  · exact kept_ite (kept_bnAbortWith h) h
  · exact h

theorem keeps_execBnAbortComplete : Keeps s (execBnAbortComplete s) := by
  refine keeps_next ?_
  have h : Kept s s := Kept.refl
  split
  · exact kept_ite (kept_updBn (kept_cureSlots h)) h
  · exact h

/-! ### Counters -/

theorem kept_ctrAlu {f : W32 → W32 → W32} {c : Instr} {cd ca : Ctr} {o : BOp} (h : Kept s₀ s) : Kept s₀ (ctrAlu f b st c
    cd ca o s) :=
  kept_issue (fun _ h0 => (kept_putCtr h0)) h

theorem keeps_execTsCset {cd : Ctr} {imm : W32} : Keeps s (execTsCset b st cd imm s) :=
  keeps_next (kept_issue (fun _ h0 => (kept_putCtr h0)) Kept.refl)

theorem keeps_execTsCadd {cd ca : Ctr} {o : BOp} : Keeps s (execTsCadd b st cd ca o s) :=
  keeps_next (kept_ctrAlu Kept.refl)

theorem keeps_execTsCsub {cd ca : Ctr} {o : BOp} : Keeps s (execTsCsub b st cd ca o s) :=
  keeps_next (kept_ctrAlu Kept.refl)

theorem keeps_execTsCmul {cd ca : Ctr} {o : BOp} : Keeps s (execTsCmul b st cd ca o s) :=
  keeps_next (kept_ctrAlu Kept.refl)

theorem keeps_execTsCshl {cd ca : Ctr} {o : BOp} : Keeps s (execTsCshl b st cd ca o s) :=
  keeps_next (kept_ctrAlu Kept.refl)

theorem keeps_execTsCshr {cd ca : Ctr} {o : BOp} : Keeps s (execTsCshr b st cd ca o s) :=
  keeps_next (kept_ctrAlu Kept.refl)

theorem keeps_execTsCand {cd ca : Ctr} {o : BOp} : Keeps s (execTsCand b st cd ca o s) :=
  keeps_next (kept_ctrAlu Kept.refl)

theorem keeps_execTsCor {cd ca : Ctr} {o : BOp} : Keeps s (execTsCor b st cd ca o s) :=
  keeps_next (kept_ctrAlu Kept.refl)

theorem keeps_execTsCxor {cd ca : Ctr} {o : BOp} : Keeps s (execTsCxor b st cd ca o s) :=
  keeps_next (kept_ctrAlu Kept.refl)

theorem keeps_execTsCmp {kd : Fin 8} {ca : Ctr} {r : Rel} {o : BOp} : Keeps s (execTsCmp b st kd ca r o s) :=
  keeps_next (kept_issue (fun _ h0 => (kept_updStrm h0)) Kept.refl)

theorem keeps_execTsKlog {kd ka : Fin 8} {op : KOp} {kb : Fin 8} : Keeps s (execTsKlog b st kd ka op kb s) :=
  keeps_next (kept_issue (fun _ h0 => (kept_updStrm h0)) Kept.refl)

theorem keeps_execTsLdw {cd ca : Ctr} {imm : BitVec 16} {ev : CodeEvent} : Keeps s (execTsLdw b st cd ca imm ev s) :=
  keeps_next (kept_issue (fun _ h0 => (kept_ite (kept_trap h0) (kept_ite (kept_trap (kept_ueAt h0)) (kept_putCtr
      (kept_noteFixed h0))))) Kept.refl)

theorem keeps_execTsStw {cs ca : Ctr} {imm : BitVec 16} : Keeps s (execTsStw b st cs ca imm s) :=
  keeps_next (kept_issue (fun _ h0 => (kept_ite (kept_trap h0) (kept_cure (kept_updStrm h0)))) Kept.refl)

theorem keeps_execTsBeat {cd : Ctr} : Keeps s (execTsBeat b st cd s) :=
  keeps_next (kept_issue (fun _ h0 => (kept_putCtr h0)) Kept.refl)

theorem keeps_execTsLidx {cd : Ctr} {l : Fin 4} : Keeps s (execTsLidx b st cd l s) :=
  keeps_next (kept_issue (fun _ h0 => (kept_putCtr h0)) Kept.refl)

/-! ### Statistics -/

theorem kept_putScale {t : Nat} {x : ScaleSlot} (h : Kept s₀ s) : Kept s₀ (putScale t x s) := kept_with h

theorem kept_putRatio {t : Nat} {x : RatioSlot} (h : Kept s₀ s) : Kept s₀ (putRatio t x s) := kept_with h

theorem kept_statResult {cd : Ctr} {v : W32} (h : Kept s₀ s) : Kept s₀ (statResult b cd v s) := kept_with h

theorem kept_statRun {o : StatOp} (h : Kept s₀ s) : Kept s₀ (statRun b o s) := by
  unfold statRun
  split
  · exact kept_putScale h
  · exact kept_ite (kept_putScale (kept_ite (kept_with h) h)) (kept_putScale h)
  · exact kept_drew (kept_statResult h)
  · exact kept_ite (kept_drew (kept_putRatio h)) (kept_putRatio h)
  · exact kept_statResult h

theorem kept_statUe {o : StatOp} (h : Kept s₀ s) : Kept s₀ (statUe o s) :=
  kept_ite (kept_putRatio (kept_countFault (kept_drew (kept_ueAt h)))) (kept_putScale (kept_countFault (kept_drew
      (kept_ueAt h))))

theorem kept_statSlip {o : StatOp} {v : W32} (h : Kept s₀ s) : Kept s₀ (statSlip o v s) :=
  kept_ite (kept_putRatio h) (kept_putScale h)

theorem kept_statRead {o : StatOp} {ev : CodeEvent} (h : Kept s₀ s) : Kept s₀ (statRead o ev s) := by
  unfold statRead
  refine kept_ite (kept_statUe h) ?_
  refine kept_ite (kept_drew (kept_correctedAt h)) ?_
  split
  · exact kept_ite (kept_statSlip h) h
  · exact h

theorem kept_statNext {ev : CodeEvent} (h : Kept s₀ s) : Kept s₀ (statNext b ev s) := by
  unfold statNext
  split
  · exact kept_statRun (kept_statRead (kept_with h))
  · exact h

theorem kept_statFlush (h : Kept s₀ s) : Kept s₀ (statFlush b s) := kept_foldl (fun _ hu _ => (kept_statNext hu)) h

theorem kept_statIssue {c : Instr} {rs : List Ctr} {cs : Ctr} {cd : Option Ctr} {o : Nat → State → StatOp} (h : Kept s₀
    s) : Kept s₀ (statIssue b c rs cs cd o s) :=
  kept_issue (fun _ h0 => (kept_ite (kept_trap h0) (kept_updStrm (kept_with h0)))) h

theorem keeps_execTsScfg {cs cc : Ctr} : Keeps s (execTsScfg b cs cc s) := keeps_next (kept_statIssue Kept.refl)

theorem keeps_execTsAmax {cs cv : Ctr} {cmt ovf : Bool} : Keeps s (execTsAmax b cs cv cmt ovf s) :=
  keeps_next (kept_statIssue Kept.refl)

theorem keeps_execTsScale {cs cd : Ctr} : Keeps s (execTsScale b cs cd s) := keeps_next (kept_statIssue Kept.refl)

theorem keeps_execTsUwr {cs cu cw : Ctr} {cmt : Bool} : Keeps s (execTsUwr b cs cu cw cmt s) :=
  keeps_next (kept_statIssue Kept.refl)

theorem keeps_execTsUstat {cs cd : Ctr} : Keeps s (execTsUstat b cs cd s) := keeps_next (kept_statIssue Kept.refl)

theorem keeps_execStatsApply {ev : CodeEvent} : Keeps s (execStatsApply b ev s) :=
  keeps_next (kept_ite (kept_statNext Kept.refl) Kept.refl)

theorem keeps_execStatsResultWrite : Keeps s (execStatsResultWrite b s) := by
  refine keeps_next ?_
  have h : Kept s s := Kept.refl
  split
  · exact kept_ite (kept_landCtr (kept_with h)) h
  · exact h

/-! ### Flag instructions -/

theorem keeps_execTsFset {f : LFlag} : Keeps s (execTsFset b st f s) :=
  keeps_next (kept_issue (fun _ h0 => (kept_retire (kept_putFlag h0))) Kept.refl)

theorem keeps_execTsFclr {f : LFlag} : Keeps s (execTsFclr b st f s) :=
  keeps_next (kept_issue (fun _ h0 => (kept_retire (kept_putFlag h0))) Kept.refl)

theorem kept_endFlagWait {f : LFlag} {pol clr : Bool} (h : Kept s₀ s) : Kept s₀ (endFlagWait b st f pol clr s) :=
  kept_retire (kept_ite (kept_putFlag h) h)

theorem keeps_execTsWait {f : LFlag} {pol clr : Bool} : Keeps s (execTsWait b st f pol clr s) :=
  keeps_next (kept_issue (fun _ h0 => (kept_ite h0 (kept_ite (kept_endFlagWait h0) (kept_stall h0)))) Kept.refl)

theorem keeps_execFlagWaitEnd : Keeps s (execFlagWaitEnd b st s) := by
  refine keeps_next ?_
  have h : Kept s s := Kept.refl
  split
  · exact kept_ite (kept_endFlagWait h) h
  · exact h

theorem kept_beforeFlag (h : Kept s₀ s) : Kept s₀ (beforeFlag b st s) := by
  unfold beforeFlag
  split
  · exact h
  · exact kept_statFlush h

theorem keeps_execTsGadd {g : Fin 256} {imm : Byte} : Keeps s (execTsGadd b st g imm s) :=
  keeps_next (kept_issue (fun _ h0 => (kept_retire (kept_putGflag (kept_beforeFlag h0)))) Kept.refl)

theorem keeps_execTsGset {g : Fin 256} {cs : Ctr} : Keeps s (execTsGset b st g cs s) :=
  keeps_next (kept_issue (fun _ h0 => (kept_retire (kept_putGflag (kept_beforeFlag h0)))) Kept.refl)

theorem keeps_execTsGwait {g : Fin 256} {cn : Ctr} : Keeps s (execTsGwait b st g cn s) :=
  keeps_next (kept_issue (fun _ h0 => (kept_ite h0 (kept_ite (kept_retire h0) (kept_stall h0)))) Kept.refl)

theorem keeps_execGlobalWaitEnd : Keeps s (execGlobalWaitEnd b st s) := by
  refine keeps_next ?_
  have h : Kept s s := Kept.refl
  split
  · exact kept_ite (kept_retire h) h
  · exact h

/-! ### The link -/

theorem kept_updLink {f : Link → Link} (h : Kept s₀ s) : Kept s₀ (updLink f s) := kept_with h

theorem kept_updSess {i : Slot} {f : Session → Session} (h : Kept s₀ s) : Kept s₀ (updSess i f s) := kept_with h

theorem kept_flushOut (h : Kept s₀ s) : Kept s₀ (flushOut s) := kept_updLink h

theorem kept_pushFrame {f : OutFrame} (h : Kept s₀ s) : Kept s₀ (pushFrame f s) := kept_flushOut (kept_updLink h)

theorem kept_sendFrame {f : OutFrame} (h : Kept s₀ s) : Kept s₀ (sendFrame f s) := kept_pushFrame h

theorem kept_sendReady {n : Nat} (h : Kept s₀ s) : Kept s₀ (sendReady n s) := by
  induction n generalizing s with
  | zero => exact h
  | succ n ih =>
    unfold sendReady
    split
    · split
      · exact ih (kept_pushFrame (kept_updLink h))
      · exact h
    · exact h

theorem kept_flushResps (h : Kept s₀ s) : Kept s₀ (flushResps s) := kept_sendReady h

theorem kept_awaitResp {i : Slot} {lseq : Nat} (h : Kept s₀ s) : Kept s₀ (awaitResp i lseq s) := kept_updLink h

theorem kept_respond {i : Slot} {lseq : Nat} {f : OutFrame} (h : Kept s₀ s) : Kept s₀ (respond i lseq f s) :=
  kept_flushResps (kept_updLink h)

theorem kept_sendLink {opc : Byte} {arg : BitVec 64} {payload : List Byte} (h : Kept s₀ s) : Kept s₀ (sendLink opc arg
    payload s) :=
  kept_updLink h

theorem kept_sendAck (h : Kept s₀ s) : Kept s₀ (sendAck s) := kept_updLink (kept_sendLink h)

theorem kept_sendCredit (h : Kept s₀ s) : Kept s₀ (sendCredit s) := kept_updLink (kept_sendLink h)

theorem kept_creditBack {ch : Option (Fin 8)} (h : Kept s₀ s) : Kept s₀ (creditBack ch s) := by
  unfold creditBack
  split
  · exact kept_ite (kept_sendCredit (kept_updLink h)) (kept_updLink h)
  · exact h

theorem kept_orphanReqs {i : Slot} (h : Kept s₀ s) : Kept s₀ (orphanReqs i s) := kept_withTrust rfl h

theorem kept_freeSlot {i : Slot} (h : Kept s₀ s) : Kept s₀ (freeSlot i s) :=
  kept_flushResps (kept_foldl (fun _ hu _ => (kept_creditBack hu)) (kept_with (kept_updLink (kept_orphanReqs
      (kept_updSess h)))))

theorem kept_closeSlot {i : Slot} (h : Kept s₀ s) : Kept s₀ (closeSlot i s) :=
  kept_ite h (kept_pushFrame (kept_freeSlot h))

theorem kept_closeLeft (h : Kept s₀ s) : Kept s₀ (closeLeft s) :=
  kept_foldl (fun _ hu _ => (kept_ite (kept_closeSlot hu) hu)) h

theorem kept_reinit (h : Kept s₀ s) : Kept s₀ (reinit s) := by
  unfold reinit
  extract_lets u v r w
  have hw : Kept s₀ w := kept_with (kept_updLink (kept_foldl (fun _ hu _ => kept_freeSlot hu) h))
  exact kept_ite (kept_sendCredit hw) hw

theorem kept_lseqEnd (h : Kept s₀ s) : Kept s₀ (lseqEnd s) := kept_ite (kept_reinit h) h

theorem keeps_execLinkAlignmentChange {lanes : BitVec 4} : Keeps s (execLinkAlignmentChange lanes s) :=
  keeps_next (kept_ite (kept_ite (kept_closeLeft (kept_flushOut (kept_sendCredit (kept_updLink Kept.refl))))
      (kept_updLink Kept.refl)) Kept.refl)

theorem keeps_execLinkReinit : Keeps s (execLinkReinit s) := keeps_next (kept_ite (kept_reinit Kept.refl) Kept.refl)

theorem kept_ackBelow {n : Nat} (h : Kept s₀ s) : Kept s₀ (ackBelow n s) := kept_flushOut (kept_updLink h)

theorem kept_resendAll (h : Kept s₀ s) : Kept s₀ (resendAll s) := kept_updLink h

theorem kept_receiveLink {opc : Byte} {f : Frame} {crc : W32} {k : State → State} (hk0 : ∀ u, Kept s₀ u → Kept s₀ (k u))
    (h : Kept s₀ s) : Kept s₀ (receiveLink opc f crc k s) :=
  kept_ite (kept_ite (kept_lseqEnd (kept_closeLeft (hk0 _ h))) (kept_updLink h)) h

theorem keeps_execLinkAck {f : Frame} {crc : W32} : Keeps s (execLinkAck f crc s) :=
  keeps_next (kept_receiveLink (fun _ h0 => (kept_ackBelow h0)) Kept.refl)

theorem kept_nakFrom {n : Nat} (h : Kept s₀ s) : Kept s₀ (nakFrom n s) :=
  kept_flushOut (kept_resendAll (kept_updLink h))

theorem keeps_execLinkNak {f : Frame} {crc : W32} : Keeps s (execLinkNak f crc s) :=
  keeps_next (kept_receiveLink (fun _ h0 => (kept_nakFrom h0)) Kept.refl)

theorem keeps_execRetransmitTimeout : Keeps s (execRetransmitTimeout s) :=
  keeps_next (kept_ite (kept_resendAll Kept.refl) Kept.refl)

theorem keeps_execResendLimit : Keeps s (execResendLimit s) := keeps_next (kept_ite (kept_reinit Kept.refl) Kept.refl)

theorem keeps_execAckDue : Keeps s (execAckDue s) := keeps_next (kept_ite (kept_sendAck Kept.refl) Kept.refl)

theorem keeps_execCreditRepeat : Keeps s (execCreditRepeat s) :=
  keeps_next (kept_ite (kept_sendCredit Kept.refl) Kept.refl)

theorem kept_discard (h : Kept s₀ s) : Kept s₀ (discard s) :=
  kept_ite (kept_updLink h) (kept_updLink (kept_sendLink (kept_updLink h)))

theorem keeps_execFrameCrcFail {v : List Byte} : Keeps s (execFrameCrcFail v s) :=
  keeps_next (kept_ite (kept_discard Kept.refl) Kept.refl)

theorem keeps_execBlockError : Keeps s (execBlockError s) := keeps_next (kept_ite (kept_updLink Kept.refl) Kept.refl)

theorem kept_acceptSeq (h : Kept s₀ s) : Kept s₀ (acceptSeq s) :=
  kept_ite (kept_sendAck (kept_updLink h)) (kept_updLink h)

theorem kept_recordInput {f : Frame} (h : Kept s₀ s) : Kept s₀ (recordInput f s) := by
  unfold recordInput
  split
  · exact kept_record h
  · exact h

theorem kept_refuseFrame {f : Frame} {step : Nat} {why : Fin 6} (h : Kept s₀ s) : Kept s₀ (refuseFrame f step why s) :=
    by
  unfold refuseFrame
  refine kept_ite ?_ (kept_creditBack (kept_updLink h))
  split
  · exact kept_ite (kept_closeSlot (kept_creditBack (kept_updLink h))) (kept_creditBack (kept_updLink h))
  · exact kept_creditBack (kept_updLink h)

theorem kept_touch {f : Frame} (h : Kept s₀ s) : Kept s₀ (touch f s) := by
  unfold touch
  split
  · exact kept_ite (kept_updSess h) h
  · exact h

theorem kept_receive {cls opc : Byte} {f : Frame} {k : State → State} (hk0 : ∀ u, Kept s₀ u → Kept s₀ (k u)) (h : Kept
    s₀ s) : Kept s₀ (receive cls opc f k s) :=
  kept_ite (kept_ite (kept_lseqEnd (by split <;> [exact (kept_refuseFrame (kept_acceptSeq h)); exact (hk0 _ (kept_touch
      (kept_acceptSeq h)))])) (kept_discard h)) h

/-! ### The gate -/

theorem kept_answer {q : OdReq} {status : Nat} (h : Kept s₀ s) : Kept s₀ (answer q status s) :=
  kept_ite (kept_creditBack h) (kept_closeLeft (kept_respond (kept_creditBack h)))

theorem kept_odCure {i : Slot} {ix sub : Nat} (h : Kept s₀ s) : Kept s₀ (odCure i ix sub s) := kept_with h

theorem kept_finish {q : OdReq} {status : Nat} (h : Kept s₀ s) : Kept s₀ (finish q status s) :=
  kept_ite (kept_odCure (kept_answer (kept_with h))) (kept_answer (kept_with h))

theorem kept_serveRead {f : Frame} {ev : CodeEvent} (h : Kept s₀ s) : Kept s₀ (serveRead f ev s) := by
  unfold serveRead
  split
  · refine kept_ite (kept_respond (kept_creditBack h)) ?_
    dsimp only
    split
    · exact kept_respond (kept_ueAt (kept_ite (kept_drew (kept_creditBack h)) (kept_creditBack h)))
    · exact kept_ite (kept_respond (kept_dieSpoil (kept_ueAt (kept_ite (kept_drew (kept_creditBack h)) (kept_creditBack
        h))))) (kept_respond (kept_ite (kept_drew (kept_creditBack h)) (kept_creditBack h)))
    · exact kept_respond (kept_ite (kept_correctedAt (kept_ite (kept_drew (kept_creditBack h)) (kept_creditBack h)))
        (kept_ite (kept_drew (kept_creditBack h)) (kept_creditBack h)))
    · exact kept_respond (kept_ite (kept_drew (kept_creditBack h)) (kept_creditBack h))
    · exact kept_respond (kept_ite (kept_drew (kept_creditBack h)) (kept_creditBack h))
  · exact h

theorem kept_serveWrite {f : Frame} (h : Kept s₀ s) : Kept s₀ (serveWrite f s) := by
  unfold serveWrite
  split
  · exact kept_ite (kept_answer h) (kept_with h)
  · exact h

/-! ### Frames -/

theorem kept_sendSession {opc sess : Byte} {tid : BitVec 16} {v : List Byte} (h : Kept s₀ s) : Kept s₀ (sendSession opc
    sess tid v s) :=
  kept_sendFrame h

theorem kept_refuse {i : Slot} {reason : Byte} (h : Kept s₀ s) : Kept s₀ (refuse i reason s) :=
  kept_sendSession (kept_freeSlot h)

theorem kept_refuseHello {tid : BitVec 16} {reason : Byte} (h : Kept s₀ s) : Kept s₀ (refuseHello tid reason s) :=
  kept_sendSession h

theorem kept_serveHello {f : Frame} (h : Kept s₀ s) : Kept s₀ (serveHello f s) :=
  kept_ite (kept_refuseHello (kept_creditBack h)) (kept_ite (kept_updLink (kept_creditBack h)) (kept_refuseHello
      (kept_creditBack h)))

theorem kept_freeZ {z : Fin 64} (h : Kept s₀ s) : Kept s₀ (freeZ z s) := kept_updBn (kept_cureSlots h)

theorem kept_acceptHello {i : Slot} {q : Hello} {y : Handshake} (h : Kept s₀ s) : Kept s₀ (acceptHello i q y s) :=
  kept_sendSession (kept_updSess (kept_freeZ h))

theorem kept_answerHello {i : Slot} {q : Hello} {y : Handshake} (h : Kept s₀ s) : Kept s₀ (answerHello i q y s) :=
  kept_ite (kept_refuseHello h) (kept_ite (kept_refuseHello h) (kept_ite (kept_refuseHello h) (kept_acceptHello h)))

theorem keeps_execSessionAccept {slot : Slot} {y : Handshake} : Keeps s (execSessionAccept slot y s) := by
  refine keeps_next ?_
  have h : Kept s s := Kept.refl
  split
  · exact kept_ite (kept_answerHello (kept_updLink h)) h
  · exact h

theorem kept_serveFinish {f : Frame} (h : Kept s₀ s) : Kept s₀ (serveFinish f s) := by
  unfold serveFinish
  dsimp only
  split
  · exact kept_ite (kept_refuse (kept_updSess (kept_creditBack h))) (kept_ite (kept_refuse (kept_updSess
      (kept_creditBack h))) (kept_sendSession (kept_updSess (kept_updSess (kept_creditBack h)))))
  · exact kept_creditBack h

theorem kept_serveClose {f : Frame} (h : Kept s₀ s) : Kept s₀ (serveClose f s) := by
  unfold serveClose
  dsimp only
  split
  · exact kept_freeSlot (kept_creditBack h)
  · exact kept_creditBack h

theorem keeps_execFinishTimeout {slot : Slot} : Keeps s (execFinishTimeout slot s) :=
  keeps_next (kept_ite (kept_refuse Kept.refl) Kept.refl)

theorem keeps_execSessionIdleTimeout {slot : Slot} : Keeps s (execSessionIdleTimeout slot s) :=
  keeps_next (kept_ite (kept_closeSlot Kept.refl) Kept.refl)

theorem kept_serveBulkWrite {f : Frame} {ev : CodeEvent} (h : Kept s₀ s) : Kept s₀ (serveBulkWrite f ev s) :=
  kept_creditBack (kept_guarded (fun _ h0 => (kept_traffic (kept_store h0))) h)

theorem kept_meetPage {f : Frame} {ev : CodeEvent} {keep : State → State} {go : State → State} (hk0 : ∀ u, Kept s₀ u →
    Kept s₀ (keep u)) (hk1 : ∀ u, Kept s₀ u → Kept s₀ (go u)) (h : Kept s₀ s) : Kept s₀ (meetPage f ev keep go s) := by
  unfold meetPage
  split
  · exact hk0 _ (kept_askRepair h)
  · exact hk1 _ h

theorem kept_serveBulkRead {f : Frame} (h : Kept s₀ s) : Kept s₀ (serveBulkRead f s) := kept_creditBack (kept_updLink h)

theorem kept_serveFlag {f : Frame} (h : Kept s₀ s) : Kept s₀ (serveFlag f s) :=
  kept_ite (kept_withTrust rfl (kept_creditBack (kept_putGflag h))) (kept_creditBack (kept_putGflag h))

theorem kept_stageEntry {q : Nat} {v : List Byte} (h : Kept s₀ s) : Kept s₀ (stageEntry q v s) :=
  kept_ite (kept_diverge h) (kept_with (kept_putEntry h))

theorem kept_stageAll {q n : Nat} {v : List Byte} (h : Kept s₀ s) : Kept s₀ (stageAll q v n s) := by
  induction n generalizing s q v with
  | zero => cases v <;> exact h
  | succ n ih =>
    cases v <;> exact ih (kept_ite (kept_stageEntry h) h)

theorem kept_serveScript {f : Frame} (h : Kept s₀ s) : Kept s₀ (serveScript f s) :=
  kept_creditBack (kept_replayAdvance (kept_stageAll h))

theorem kept_passFrame {f : Frame} {ev : CodeEvent} (h : Kept s₀ s) : Kept s₀ (passFrame f ev s) := by
  unfold passFrame
  dsimp only
  split
  · exact kept_serveHello (kept_recordInput h)
  · exact kept_serveFinish (kept_recordInput h)
  · exact kept_serveClose (kept_recordInput h)
  · exact kept_serveWrite (kept_recordInput h)
  · exact kept_serveBulkWrite (kept_recordInput h)
  · exact kept_serveBulkRead (kept_recordInput h)
  · exact kept_serveFlag (kept_recordInput h)
  · exact kept_serveScript (kept_recordInput h)
  · exact kept_recordInput h

theorem kept_consumeGate {q : Nat} (h : Kept s₀ s) : Kept s₀ (consumeGate q s) := by
  unfold consumeGate
  extract_lets u
  have hu : Kept s₀ u := kept_readEntry h
  exact kept_ite (kept_endStaging hu) (kept_with hu)

theorem kept_gateInput {f : Frame} {ev : CodeEvent} {late : Bool} {keep : State → State} (hk0 : ∀ u, Kept s₀ u → Kept s₀
    (keep u)) (h : Kept s₀ s) : Kept s₀ (gateInput f ev late keep s) := by
  unfold gateInput
  refine kept_ite ?_ (kept_passFrame h)
  split
  · split
    · exact kept_replayAdvance (kept_passFrame (kept_consumeGate h))
    · exact kept_replayAdvance (kept_passFrame (kept_consumeGate (kept_diverge h)))
    · exact kept_passFrame (kept_diverge h)
    · exact hk0 _ h
  · exact hk0 _ h

theorem kept_goOn {f : Frame} {ev : CodeEvent} (h : Kept s₀ s) : Kept s₀ (goOn f ev s) :=
  kept_ite (kept_with h) (kept_gateInput (fun _ h0 => (kept_with h0)) h)

theorem kept_holdFrame {f : Frame} (h : Kept s₀ s) : Kept s₀ (holdFrame f s) := kept_updLink h

theorem kept_arriveMet {f : Frame} {ev : CodeEvent} (h : Kept s₀ s) : Kept s₀ (arriveMet f ev s) :=
  kept_ite (kept_holdFrame h) (kept_meetPage (fun _ h0 => (kept_holdFrame h0)) (fun _ h0 => (kept_goOn h0)) h)

theorem kept_arrive {f : Frame} (h : Kept s₀ s) : Kept s₀ (arrive f s) := kept_arriveMet h

theorem keeps_execReplayInputRelease {ev : CodeEvent} : Keeps s (execReplayInputRelease ev s) := by
  refine keeps_next ?_
  have h : Kept s s := Kept.refl
  split
  · exact kept_ite (kept_meetPage (fun _ h0 => h0) (fun _ h0 => (kept_gateInput (fun _ h1 => (kept_with h1)) (kept_with
      h0))) h) h
  · exact h

theorem keeps_execHeldFrameRelease {i : Nat} {ev : CodeEvent} : Keeps s (execHeldFrameRelease i ev s) := by
  refine keeps_next ?_
  have h : Kept s s := Kept.refl
  split
  · exact kept_ite (kept_meetPage (fun _ h0 => h0) (fun _ h0 => (kept_goOn (kept_updLink h0))) h) h
  · exact h

theorem keeps_execSessionHello {f : Frame} : Keeps s (execSessionHello f s) :=
  keeps_next (kept_receive (fun _ h0 => (kept_arrive h0)) Kept.refl)

theorem kept_noteFinish {f : Frame} (h : Kept s₀ s) : Kept s₀ (noteFinish f s) := by
  unfold noteFinish
  split
  · exact kept_updSess h
  · exact h

theorem keeps_execSessionFinish {f : Frame} : Keeps s (execSessionFinish f s) :=
  keeps_next (kept_receive (fun _ h0 => (kept_arrive (kept_noteFinish h0))) Kept.refl)

theorem keeps_execSessionClose {f : Frame} : Keeps s (execSessionClose f s) :=
  keeps_next (kept_receive (fun _ h0 => (kept_arrive h0)) Kept.refl)

theorem keeps_execOdRead {f : Frame} {ev : CodeEvent} : Keeps s (execOdRead f ev s) :=
  keeps_next (kept_receive (fun _ h0 => (kept_serveRead h0)) Kept.refl)

theorem kept_awaitWrite {f : Frame} (h : Kept s₀ s) : Kept s₀ (awaitWrite f s) := by
  unfold awaitWrite
  split
  · exact kept_awaitResp h
  · exact h

theorem keeps_execOdWrite {f : Frame} : Keeps s (execOdWrite f s) :=
  keeps_next (kept_receive (fun _ h0 => (kept_arrive (kept_awaitWrite h0))) Kept.refl)

theorem keeps_execBulkWrite {f : Frame} {ev : CodeEvent} : Keeps s (execBulkWrite f ev s) :=
  keeps_next (kept_receive (fun _ h0 => (kept_arriveMet h0)) Kept.refl)

theorem keeps_execBulkRead {f : Frame} : Keeps s (execBulkRead f s) :=
  keeps_next (kept_receive (fun _ h0 => (kept_arrive h0)) Kept.refl)

theorem keeps_execFlagUpdate {f : Frame} : Keeps s (execFlagUpdate f s) :=
  keeps_next (kept_receive (fun _ h0 => (kept_arrive h0)) Kept.refl)

theorem keeps_execRecordScript {f : Frame} : Keeps s (execRecordScript f s) :=
  keeps_next (kept_receive (fun _ h0 => (kept_arrive h0)) Kept.refl)

theorem kept_countChunk {r : BulkRun} (h : Kept s₀ s) : Kept s₀ (countChunk r s) :=
  kept_ite (kept_countBad h) (kept_ueRead h)

theorem kept_sendChunk {r : BulkRun} {rest : List BulkRun} (h : Kept s₀ s) : Kept s₀ (sendChunk r rest s) :=
  kept_sendFrame (kept_updLink (kept_traffic (kept_countChunk h)))

theorem keeps_execBulkReadData {ev : CodeEvent} : Keeps s (execBulkReadData ev s) := by
  refine keeps_next ?_
  have h : Kept s s := Kept.refl
  split
  · exact kept_ite (kept_guarded (fun _ h0 => (kept_sendChunk h0)) h) h
  · exact h

theorem keeps_execRecordDrain {n : Nat} {ev : CodeEvent} : Keeps s (execRecordDrain n ev s) := by
  refine keeps_next ?_
  have h : Kept s s := Kept.refl
  split
  · exact kept_ite (kept_sendFrame (kept_with (kept_countBad (kept_readIn (kept_traffic h))))) h
  · exact h

/-! ### Resets -/

theorem kept_cutBracket (h : Kept s₀ s) : Kept s₀ (cutBracket b s) := by
  unfold cutBracket
  split
  · exact h
  · exact kept_with (kept_repeat (fun _ h0 => (kept_countFault h0)) h)

theorem kept_idlePool {p : Fin 64} {gone : Bay → Strm → Bool} (h : Kept s₀ s) : Kept s₀ (idlePool p gone s) :=
  kept_forgetPool (kept_putPool h)

theorem kept_idleUsed (h : Kept s₀ s) : Kept s₀ (idleUsed b st s) := kept_foldl (fun _ hu _ => (kept_idlePool hu)) h

theorem kept_idleNamed (h : Kept s₀ s) : Kept s₀ (idleNamed b s) :=
  kept_foldl (fun _ hu _ => (kept_ite (kept_idlePool hu) hu)) h

theorem kept_dropStats (h : Kept s₀ s) : Kept s₀ (dropStats b s) := kept_with (kept_statFlush h)

theorem kept_resetStream (h : Kept s₀ s) : Kept s₀ (resetStream b st s) := by
  unfold resetStream
  dsimp only
  split
  · exact kept_updBay (fun _ => rfl) (kept_idleUsed h)
  · exact kept_updBay (fun _ => rfl) (kept_endStreams (kept_cutBracket (kept_withdrawHop (kept_dropStats (kept_idleUsed
      h)))))

theorem kept_resetBay (h : Kept s₀ s) : Kept s₀ (resetBay b s) :=
  kept_setBay_le (fun _ => Nat.zero_le _)
    (kept_endStreams (kept_cutBracket (kept_withdrawHop (kept_dropStats (kept_idleNamed h)))))

end Sys2Proof.Proofs.Invariants
end

section
/-! PROOFS. What every step keeps, concluded: the object dictionary, the stacks, the security die, and the step itself. -/

namespace Sys2Proof.Proofs.Invariants

open Sys2Proof Sys2Proof.Machine Sys2Proof.Laws.State Sys2Proof.Laws.Memory

variable {s₀ s t : State} {b : Bay} {st : Strm}

/-! ### Object dictionary writes -/

theorem kept_finishCur {status : Nat} (h : Kept s₀ s) : Kept s₀ (finishCur status s) := by
  unfold finishCur
  split
  · exact kept_finish h
  · exact h

theorem kept_applyOd {ix sub : Nat} {ok : Nat → Bool} {k : OdReq → Nat → State → State × Nat} (hk0 : ∀ i0 i1 u, Kept s₀
    u → Kept s₀ (k i0 i1 u).1) (h : Kept s₀ s) : Kept s₀ (applyOd ix sub ok k s) := by
  unfold applyOd
  split
  · exact kept_finishCur (hk0 _ _ _ h)
  · exact h

theorem kept_armWaits (h : Kept s₀ s) : Kept s₀ (armWaits s) := kept_mapBays_le (fun _ hn => npc_tickUnits.trans_le hn) h

theorem kept_updOd {f : Od → Od} (h : Kept s₀ s) : Kept s₀ (updOd f s) := kept_with h

theorem kept_plainWrite {q : OdReq} (h : Kept s₀ s) : KeptOpt s₀ (plainWrite q s) := by
  unfold plainWrite
  refine keptOpt_ite ?_ ?_
  · exact keptOpt_some (kept_ite h (kept_with h))
  · dsimp only
    split
    · exact keptOpt_some (kept_updOd h)
    · exact keptOpt_some (kept_updOd h)
    · exact keptOpt_some (kept_updOd (kept_armWaits h))
    · exact keptOpt_some (kept_updOd h)
    · exact keptOpt_some (kept_with h)
    · exact keptOpt_some (kept_with h)
    · exact keptOpt_some (kept_with h)
    · exact keptOpt_some (kept_withPwr rfl rfl rfl h)
    · split
      · exact keptOpt_some (kept_withPwr rfl rfl rfl h)
      · exact keptOpt_none
    · exact keptOpt_some (kept_with h)
    · exact keptOpt_some (kept_with h)
    · exact keptOpt_some (kept_with h)
    · exact keptOpt_some (kept_with h)
    · exact keptOpt_some (kept_with h)
    · exact keptOpt_some (kept_with h)
    · exact keptOpt_some (kept_with h)
    · exact keptOpt_some (kept_updOd h)
    · exact keptOpt_some (kept_updOd h)
    · exact keptOpt_some (kept_with h)
    · exact keptOpt_some (kept_with h)
    · exact keptOpt_some (kept_updOd h)
    · exact keptOpt_some (kept_updOd h)
    · exact keptOpt_some (kept_updOd h)
    · exact keptOpt_none

theorem keeps_execWriteOther : Keeps s (execWriteOther s) := by
  refine keeps_next ?_
  split
  · split
    · split
      case h_1 t ht => exact kept_finishCur (kept_plainWrite Kept.refl t ht)
      case h_2 => exact Kept.refl
    · exact Kept.refl
  · exact Kept.refl

theorem kept_dirRead {ev : CodeEvent} (h : Kept s₀ s) : Kept s₀ (dirRead ev s) :=
  kept_ite (kept_traffic (kept_readIn (kept_readIn h))) h

theorem kept_startInstall {ev : CodeEvent} (h : Kept s₀ s) : Kept s₀ (startInstall ev s) :=
  kept_with (kept_traffic (kept_store (kept_readIn (kept_putCtx h))))

theorem kept_install {ev : CodeEvent} (h : Kept s₀ s) : Kept s₀ (install ev s) :=
  kept_ite (kept_with h) (kept_ite (kept_startInstall (kept_countBad (kept_dirRead h))) (kept_with (kept_countBad
      (kept_dirRead h))))

theorem keeps_execOdInstall {ev : CodeEvent} : Keeps s (execOdInstall ev s) :=
  keeps_next (kept_ite Kept.refl (kept_applyOd (fun _ _ _ h0 => (kept_install h0)) Kept.refl))

theorem keeps_execInstallComplete : Keeps s (execInstallComplete s) := by
  refine keeps_next ?_
  have h : Kept s s := Kept.refl
  split
  · exact kept_ite (kept_with (kept_putCtx h)) h
  · exact h

theorem keeps_execOdEvict : Keeps s (execOdEvict s) :=
  keeps_next (kept_ite Kept.refl (kept_applyOd (fun _ _ _ h0 => (kept_ite (kept_with (kept_putCtx h0)) (kept_with h0)))
      Kept.refl))

theorem keeps_execContextRetireEmpty {ctx : Fin 16384} : Keeps s (execContextRetireEmpty ctx s) :=
  keeps_next (kept_ite (kept_putCtx Kept.refl) Kept.refl)

theorem kept_restartTide (h : Kept s₀ s) : Kept s₀ (restartTide b s) := kept_updBay (fun _ => rfl) (kept_endStreams h)

theorem keeps_execOdTideRestart : Keeps s (execOdTideRestart s) :=
  keeps_next (kept_applyOd (fun _ _ _ h0 => (kept_forBays (fun _ _ h1 => (kept_restartTide h1)) h0)) Kept.refl)

theorem kept_stopLoad {lt : Lt} (h : Kept s₀ s) : Kept s₀ (stopLoad b s lt) := by
  unfold stopLoad
  dsimp only
  split
  · exact h
  · refine kept_ite h ?_
    split
    · exact kept_drew (kept_updTile h)
    · exact kept_updTile h

theorem kept_parkBay (h : Kept s₀ s) : Kept s₀ (parkBay b s) :=
  kept_ite h (kept_foldl (fun _ hu _ => (kept_stopLoad hu)) (kept_setBay rfl h))

theorem keeps_execOdPark : Keeps s (execOdPark s) :=
  keeps_next (kept_applyOd (fun _ _ _ h0 => (kept_forBays (fun _ _ h1 => (kept_parkBay h1)) h0)) Kept.refl)

theorem kept_resumeBay (h : Kept s₀ s) : Kept s₀ (resumeBay b s) := kept_updBay (fun _ => rfl) h

theorem keeps_execOdResume : Keeps s (execOdResume s) :=
  keeps_next (kept_applyOd (fun _ _ _ h0 => (kept_forBays (fun _ _ h1 => (kept_resumeBay h1)) h0)) Kept.refl)

theorem kept_restartXfer (h : Kept s₀ s) : Kept s₀ (restartXfer b s) := kept_updBay (fun _ => rfl) h

theorem keeps_execOdChannelRestart : Keeps s (execOdChannelRestart s) :=
  keeps_next (kept_applyOd (fun _ _ _ h0 => (kept_forBays (fun _ _ h1 => (kept_restartXfer h1)) h0)) Kept.refl)

theorem keeps_execOdLinkReset : Keeps s (execOdLinkReset s) :=
  keeps_next (kept_applyOd (fun _ _ _ h0 => (kept_with h0)) Kept.refl)

theorem kept_dropGongHeld (h : Kept s₀ s) : Kept s₀ (dropGongHeld s) :=
  kept_ite h (kept_foldl (fun _ hu _ => (kept_creditBack hu)) (kept_with h))

theorem kept_linkReset (h : Kept s₀ s) : Kept s₀ (linkReset s) := by
  refine (kept_dropGongHeld h).trans ⟨fun _ => rfl, fun _ b => ?_, id, rfl⟩
  simp [State.bay, linkReset, Bays.relinked, Bays.reset]

theorem kept_gongAgain (h : Kept s₀ s) : Kept s₀ (gongAgain s) := kept_ite (kept_gong h) h

theorem keeps_execLinkResetEffect : Keeps s (execLinkResetEffect s) :=
  keeps_next (kept_ite (kept_gongAgain (kept_linkReset Kept.refl)) Kept.refl)

theorem keeps_execOdBayReset : Keeps s (execOdBayReset s) :=
  keeps_next (kept_applyOd (fun _ _ _ h0 => (kept_with h0)) Kept.refl)

theorem keeps_execBayResetEffect : Keeps s (execBayResetEffect s) :=
  keeps_next (kept_ite (kept_with (kept_forBays (fun _ _ h0 => (kept_resetBay h0)) Kept.refl)) Kept.refl)

theorem kept_resetStreams {n : Nat} (h : Kept s₀ s) : Kept s₀ (resetStreams n b s) :=
  kept_ite h (kept_ite (kept_resetStream (kept_ite (kept_resetStream h) h)) (kept_ite (kept_resetStream h) h))

theorem keeps_execOdStreamReset : Keeps s (execOdStreamReset s) :=
  keeps_next (kept_applyOd (fun _ _ _ h0 => (kept_foldl (fun _ hu _ => (kept_resetStreams hu)) h0)) Kept.refl)

theorem kept_setCeiling {n : Nat} (h : Kept s₀ s) : Kept s₀ (setCeiling n s) := kept_withPwr rfl rfl rfl h

theorem keeps_execOdPowerCeiling : Keeps s (execOdPowerCeiling s) :=
  keeps_next (kept_applyOd (fun _ _ _ h0 => (kept_setCeiling h0)) Kept.refl)

theorem kept_setStrength {key : Bool} {n : Nat} (h : Kept s₀ s) : Kept s₀ (setStrength key n s) := kept_with h

theorem keeps_execOdPageCodeStrength : Keeps s (execOdPageCodeStrength s) :=
  keeps_next (kept_applyOd (fun _ _ _ h0 => (kept_setStrength h0)) (kept_applyOd (fun _ _ _ h0 => (kept_setStrength h0))
      Kept.refl))

theorem kept_zeroBand {k : Nat} (h : Kept s₀ s) : Kept s₀ (zeroBand s k) :=
  kept_foldl (fun _ hu _ => (kept_zeroRange hu)) h

theorem kept_setBands {n : Nat} (h : Kept s₀ s) : Kept s₀ (setBands n s) :=
  kept_with (kept_foldl (fun _ hu _ => (kept_zeroBand hu)) h)

theorem keeps_execOdBandModes : Keeps s (execOdBandModes s) :=
  keeps_next (kept_ite Kept.refl (kept_applyOd (fun _ _ _ h0 => (kept_setBands h0)) Kept.refl))

theorem keeps_execOdBeatFree : Keeps s (execOdBeatFree s) :=
  keeps_next (kept_applyOd (fun _ _ _ h0 => (kept_updBeat h0)) Kept.refl)

theorem keeps_execOdBeatRelock : Keeps s (execOdBeatRelock s) :=
  keeps_next (kept_applyOd (fun _ _ _ h0 => (kept_updBeat h0)) Kept.refl)

theorem keeps_execOdRunArm : Keeps s (execOdRunArm s) :=
  keeps_next (kept_applyOd (fun _ _ _ h0 => (kept_ite (kept_with h0) (kept_throttle (kept_with h0)))) Kept.refl)

theorem keeps_execOdRunClose : Keeps s (execOdRunClose s) :=
  keeps_next (kept_applyOd (fun _ _ _ h0 => (kept_ite (kept_with h0) h0)) Kept.refl)

theorem kept_setRecording {n : Nat} (h : Kept s₀ s) : Kept s₀ (setRecording n s) := kept_with h

theorem keeps_execOdRecordingEnable : Keeps s (execOdRecordingEnable s) :=
  keeps_next (kept_applyOd (fun _ _ _ h0 => (kept_setRecording h0)) Kept.refl)

theorem keeps_execOdReplayArm : Keeps s (execOdReplayArm s) :=
  keeps_next (kept_applyOd (fun _ _ _ h0 => (kept_with h0)) Kept.refl)

theorem keeps_execOdReplayStop : Keeps s (execOdReplayStop s) :=
  keeps_next (kept_applyOd (fun _ _ _ h0 => (kept_endStaging h0)) Kept.refl)

theorem keeps_execOdSessionClose : Keeps s (execOdSessionClose s) :=
  keeps_next (kept_applyOd (fun _ _ _ h0 => (kept_foldl (fun _ hu _ => (kept_ite (kept_closeSlot hu) hu)) h0))
      Kept.refl)

theorem keeps_execOdAttestNonce : Keeps s (execOdAttestNonce s) :=
  keeps_next (kept_applyOd (fun _ _ _ h0 => (by split <;> [exact h0; exact (kept_ite h0 (kept_updSess h0))])) Kept.refl)

theorem keeps_execAttestReportReady {slot : Slot} : Keeps s (execAttestReportReady slot s) :=
  keeps_next (kept_ite (kept_updSess Kept.refl) Kept.refl)

theorem kept_selectTmx {n : Nat} (h : Kept s₀ s) : Kept s₀ (selectTmx n s) := kept_updOd h

theorem keeps_execOdTmxSelect : Keeps s (execOdTmxSelect s) :=
  keeps_next (kept_applyOd (fun _ _ _ h0 => (kept_selectTmx h0)) Kept.refl)

theorem kept_regEffect {q : OdReq} (h : Kept s₀ s) : KeptOpt s₀ (regEffect q s) := by
  unfold regEffect
  dsimp only
  split
  · exact keptOpt_some (kept_setCeiling h)
  · exact keptOpt_some (kept_setStrength h)
  · exact keptOpt_some (kept_setStrength h)
  · exact keptOpt_some (kept_setBands h)
  · exact keptOpt_some (kept_setRecording h)
  · exact keptOpt_some (kept_selectTmx h)
  · exact kept_plainWrite h

/-! ### Loader and launch -/

theorem kept_updLdr {f : Loader → Loader} (h : Kept s₀ s) : Kept s₀ (updLdr f s) := kept_with h

theorem keeps_execOdLoad : Keeps s (execOdLoad s) :=
  keeps_next (kept_applyOd (fun _ _ _ h0 => (kept_ite (kept_updLdr h0) (kept_ite (kept_updLdr h0) (kept_updLdr h0))))
      Kept.refl)

theorem kept_endLoad {status sec ix : Nat} (h : Kept s₀ s) : Kept s₀ (endLoad status sec ix s) := kept_updLdr h

theorem kept_loadSpad {m : Img} {l : List Sec} (h : Kept s₀ s) : Kept s₀ (loadSpad m l b s) :=
  kept_foldl (fun _ hu _ => (kept_store hu)) h

theorem kept_loadBay {m : Img} {l : List Sec} {g : Loaded} (h : Kept s₀ s) : Kept s₀ (loadBay m l g b s) :=
  kept_loadSpad (kept_updBay (fun _ => rfl) (kept_resetStream (kept_resetStream h)))

theorem kept_finishLoading {m : Img} (h : Kept s₀ s) : Kept s₀ (finishLoading m s) :=
  kept_endLoad (kept_updLdr (kept_forBays (fun _ _ h0 => (kept_loadBay h0)) h))

theorem kept_loadUe {a : Option Nat} (h : Kept s₀ s) : Kept s₀ (loadUe a s) := by
  unfold loadUe
  split
  · exact kept_sectorUe h
  · exact h

theorem kept_imageRead {ev : CodeEvent} (h : Kept s₀ s) : Kept s₀ (imageRead ev s) :=
  kept_traffic (kept_readIn (kept_readIn h))

theorem kept_endLoading (h : Kept s₀ s) : Kept s₀ (endLoading s) := by
  unfold endLoading
  refine kept_ite (kept_endLoad h) ?_
  split
  · exact kept_endLoad (kept_loadUe h)
  · exact kept_finishLoading h

theorem keeps_execLoadComplete {ev : CodeEvent} : Keeps s (execLoadComplete ev s) :=
  keeps_next (kept_ite (kept_endLoading (kept_imageRead Kept.refl)) Kept.refl)

theorem kept_unloadBay (h : Kept s₀ s) : Kept s₀ (unloadBay b s) := by
  unfold unloadBay
  extract_lets u
  have hu : Kept s₀ u := kept_resetStream (kept_resetStream h)
  exact kept_updBay (fun _ => rfl) hu

theorem kept_unload (h : Kept s₀ s) : Kept s₀ (unload s) :=
  kept_ite (kept_endLoad h) (kept_ite (kept_endLoad h) (kept_endLoad (kept_updLdr (kept_forBays (fun _ _ h0 =>
      (kept_unloadBay h0)) h))))

theorem keeps_execOdUnload : Keeps s (execOdUnload s) :=
  keeps_next (kept_applyOd (fun _ _ _ h0 => (kept_ite (kept_updLdr h0) (kept_unload h0))) Kept.refl)

theorem kept_launchBay {mask : BayMask} {beat : W32} (h : Kept s₀ s) : Kept s₀ (launchBay mask beat b s) :=
  kept_updBay (fun _ => rfl) h

theorem kept_launch {o : LaunchObj} (h : Kept s₀ s) : Kept s₀ (launch o s) :=
  kept_updLdr (kept_forBays (fun _ _ h0 => (kept_launchBay h0)) h)

theorem keeps_execOdLaunch : Keeps s (execOdLaunch s) :=
  keeps_next (kept_applyOd (fun _ _ _ h0 => (kept_ite (kept_launch (kept_updLdr h0)) (kept_updLdr h0))) Kept.refl)

/-! ### The stacks -/

theorem keeps_execMemRequestArrive {ms : Stk} {req : Nat} {src : Bay} {addr len : Nat} {data : Option (List Byte)} :
    Keeps s (execMemRequestArrive ms req src addr len data s) := by
  unfold execMemRequestArrive
  split
  · exact keeps_fault
  · exact keeps_next (kept_ite (kept_updStack Kept.refl) Kept.refl)

theorem kept_serveReq {ms : Stk} {q : MemReq} {errs : List SectorErr} (h : Kept s₀ s) : Kept s₀ (serveReq ms q errs s)
    :=
  kept_landReq (kept_ite (kept_readSectors h) h)

theorem keeps_execMemRequestServe {ms : Stk} {pc : Fin 32} {errs : List SectorErr} : Keeps s (execMemRequestServe ms pc
    errs s) := by
  refine keeps_next ?_
  have h : Kept s s := Kept.refl
  split
  · exact kept_ite (kept_serveReq h) h
  · exact h

theorem kept_readFails {ms : Stk} {q : MemReq} (h : Kept s₀ s) : Kept s₀ (readFails ms q s) :=
  kept_ite (kept_haltChannel (kept_sectorUe h)) (kept_ite (kept_haltChannel (kept_sectorUe h)) (kept_ite (kept_haltTide
      (kept_sectorUe h)) (kept_sectorUe h)))

theorem keeps_execMemReadReturn {ms : Stk} {req : Nat} {src : Bay} : Keeps s (execMemReadReturn ms req src s) := by
  refine keeps_next ?_
  have h : Kept s s := Kept.refl
  split
  · exact kept_ite (kept_ite (kept_readFails (kept_updStack h)) (kept_updStack h)) h
  · exact h

theorem keeps_execDramRefresh {ms : Stk} : Keeps s (execDramRefresh ms s) :=
  keeps_next (kept_ite (kept_updStack Kept.refl) Kept.refl)

theorem keeps_execHotRefreshEnter {ms : Stk} : Keeps s (execHotRefreshEnter ms s) := by
  refine keeps_next ?_
  have h : Kept s s := Kept.refl
  split
  · exact kept_ite (kept_throttle (kept_updStack h)) h
  · exact h

theorem keeps_execHotRefreshLeave {ms : Stk} : Keeps s (execHotRefreshLeave ms s) := by
  refine keeps_next ?_
  have h : Kept s s := Kept.refl
  split
  · exact kept_ite (kept_throttle (kept_updStack h)) h
  · exact h

theorem kept_patrolUe {a : Nat} (h : Kept s₀ s) : Kept s₀ (patrolUe a s) :=
  kept_with (kept_countFault (kept_sectorUe h))

theorem kept_patrolRead {e : SectorErr} (h : Kept s₀ s) : Kept s₀ (patrolRead e s) := by
  unfold patrolRead
  refine kept_ite h ?_
  split
  · exact kept_sectorSpoil h
  · exact kept_ite h (kept_sectorPut h)
  · exact kept_with (kept_sectorPut h)

theorem kept_patrolScan {l : List Nat} {errs : List SectorErr} (h : Kept s₀ s) : Kept s₀ (patrolScan l errs s) :=
  kept_foldl (fun _ hu _ => (kept_patrolUe hu)) (kept_foldl (fun _ hu _ => (kept_ite (kept_patrolRead hu) hu))
      (kept_traffic h))

theorem keeps_execPatrolScrub {ms : Stk} {pc : Fin 32} {errs : List SectorErr} : Keeps s (execPatrolScrub ms pc errs s)
    :=
  keeps_next (kept_ite (kept_ite (kept_updStack (kept_updStack Kept.refl)) (kept_patrolScan (kept_traffic (kept_updStack
      (kept_updStack Kept.refl))))) Kept.refl)

theorem keeps_execStackTempRead {ms : Stk} {dies : Vector ℤ 16} : Keeps s (execStackTempRead ms dies s) :=
  keeps_next (kept_ite (kept_updStack Kept.refl) Kept.refl)

theorem kept_moveCap {ms : Stk} (h : Kept s₀ s) : Kept s₀ (moveCap ms s) := kept_updStack h

theorem keeps_execStackCapLower {ms : Stk} : Keeps s (execStackCapLower ms s) :=
  keeps_next (kept_ite (kept_moveCap Kept.refl) Kept.refl)

theorem keeps_execStackCapRaise {ms : Stk} : Keeps s (execStackCapRaise ms s) :=
  keeps_next (kept_ite (kept_moveCap Kept.refl) Kept.refl)

theorem keeps_execActLimitSet {ms : Stk} : Keeps s (execActLimitSet ms s) :=
  keeps_next (kept_ite (kept_throttle (kept_updStack Kept.refl)) Kept.refl)

theorem keeps_execActLimitLift {ms : Stk} : Keeps s (execActLimitLift ms s) :=
  keeps_next (kept_ite (kept_throttle (kept_updStack Kept.refl)) Kept.refl)

theorem keeps_execStackThermFault {ms : Stk} : Keeps s (execStackThermFault ms s) :=
  keeps_next (kept_ite (kept_gong (kept_updStack Kept.refl)) Kept.refl)

theorem keeps_execBandZeroComplete : Keeps s (execBandZeroComplete s) :=
  keeps_next (kept_ite (kept_with Kept.refl) Kept.refl)

theorem keeps_execStackInitComplete : Keeps s (execStackInitComplete s) :=
  keeps_next (kept_ite (kept_with Kept.refl) Kept.refl)

/-! ### Scrubbing -/

theorem kept_misreadPage {g : Nat} {rd : PageRead} (h : Kept s₀ s) : Kept s₀ (misreadPage b g rd s) :=
  kept_foldl (fun _ hu _ => (kept_ite (kept_misread hu) hu)) h

theorem kept_reparity {g : Nat} (h : Kept s₀ s) : Kept s₀ (reparity b g s) := kept_updProt h

theorem kept_pageRestored {g : Nat} (h : Kept s₀ s) : Kept s₀ (pageRestored b g s) :=
  kept_reparity (kept_with (kept_updProt (kept_foldl (fun _ hu _ => (kept_putWord hu)) h)))

theorem kept_pageFailed {g : Nat} {l : List Nat} (h : Kept s₀ s) : Kept s₀ (pageFailed b g l s) :=
  kept_reparity (kept_updProt (kept_foldl (fun _ hu _ => (kept_putWord hu)) h))

theorem kept_uePageFail {g : Nat} {l : List Nat} (h : Kept s₀ s) : Kept s₀ (uePageFail b g l s) := by
  unfold uePageFail
  split
  · exact kept_uePage h
  · exact kept_ite (kept_ueAt h) (kept_ueAt h)

theorem kept_scrubUe {g : Nat} {l : List Nat} (h : Kept s₀ s) : Kept s₀ (scrubUe b g l s) :=
  kept_with (kept_countFault (kept_uePageFail h))

theorem kept_repairPage {r : Repair} {rd : PageRead} (h : Kept s₀ s) : Kept s₀ (repairPage b r rd s) :=
  kept_ite (kept_pageRestored (kept_misreadPage h)) (kept_ite (kept_scrubUe (kept_pageFailed (kept_misreadPage h)))
      (kept_pageFailed (kept_misreadPage h)))

theorem keeps_execPageRepairStart : Keeps s (execPageRepairStart b s) := by
  refine keeps_next ?_
  have h : Kept s s := Kept.refl
  split
  · exact kept_ite (kept_updProt h) h
  · exact h

theorem keeps_execPageRepairComplete {rd : PageRead} : Keeps s (execPageRepairComplete b rd s) := by
  refine keeps_next ?_
  have h : Kept s s := Kept.refl
  split
  · exact kept_ite (kept_repairPage (kept_updProt h)) h
  · exact h

theorem keeps_execCorrectedWriteback {id : Byte} {met : Option Nat} : Keeps s (execCorrectedWriteback b id met s) := by
  refine keeps_next ?_
  have h : Kept s s := Kept.refl
  refine kept_ite ?_ h
  split
  · exact kept_ite (kept_with h) h
  · exact kept_updProt h

theorem kept_scrubFixed {id : Nat} {l : List Nat} (h : Kept s₀ s) : Kept s₀ (scrubFixed id l s) :=
  kept_foldl (fun _ hu _ => (kept_with hu)) h

theorem kept_scrubPage {g : Nat} {rd : PageRead} (h : Kept s₀ s) : Kept s₀ (scrubPage b g rd s) :=
  kept_ite (kept_misreadPage (kept_scrubFixed h)) (kept_updProt (kept_misreadPage (kept_scrubFixed h)))

theorem kept_smallSpoil {id off : Nat} (h : Kept s₀ s) : Kept s₀ (smallSpoil b id off s) :=
  kept_ite (kept_updProt h) (kept_ite (kept_dieSpoil h) h)

theorem npc_slip {x : Bays} {map : BitVec 108} {id off : Nat} {v : Byte} : (x.slip map b id off v).npc = x.npc := by
  unfold Bays.slip
  split
  · split <;> rfl
  · split
    · rfl
    · exact npc_putUnit

theorem kept_slipAt {id off : Nat} {v : Byte} (h : Kept s₀ s) : Kept s₀ (slipAt b id off v s) := by
  unfold slipAt
  split
  · exact kept_ite (kept_putCtxByte h) h
  · split
    · exact kept_with h
    · split
      · exact kept_withTrust rfl h
      · exact kept_ite (kept_setBay npc_slip h) h

theorem kept_scrubSmall {id : Nat} {rd : PageRead} (h : Kept s₀ s) : Kept s₀ (scrubSmall b id rd s) :=
  kept_foldl (fun _ hu _ => (kept_smallSpoil (kept_ueAt hu))) (kept_scrubFixed (kept_foldl (fun _ hu _ => (kept_slipAt
      hu)) h))

theorem keeps_execScrubStep {rd : PageRead} : Keeps s (execScrubStep b rd s) := by
  refine keeps_next ?_
  have h : Kept s s := Kept.refl
  refine kept_ite ?_ h
  refine kept_ite (kept_scrubPage (kept_updProt h)) ?_
  split
  · exact kept_scrubSmall (kept_updProt h)
  · exact kept_updProt h

theorem keeps_execReencodeComplete : Keeps s (execReencodeComplete s) :=
  keeps_next (kept_ite (kept_mapBays (fun _ _ => rfl) (kept_with Kept.refl)) Kept.refl)

theorem keeps_execScratchpadInitComplete : Keeps s (execScratchpadInitComplete s) :=
  keeps_next (kept_ite (kept_with Kept.refl) Kept.refl)

/-! ### The security die -/

theorem kept_updTrust {f : Trust → Trust} (hf : ∀ x, (f x).fuses = x.fuses) (h : Kept s₀ s) : Kept s₀ (updTrust f s) :=
  kept_withTrust (hf _) h

theorem kept_startLimited {entry : Nat} {q : OdReq} (h : Kept s₀ s) : Kept s₀ (startLimited entry q s) := by
  unfold startLimited
  split
  · exact kept_finish h
  · exact kept_burnSome (kept_withTrust rfl h)

theorem kept_applyLimited {ix entry : Nat} (h : Kept s₀ s) : Kept s₀ (applyLimited ix entry s) := by
  unfold applyLimited
  split
  · exact kept_startLimited h
  · exact h

theorem keeps_execOdSecurityVersion : Keeps s (execOdSecurityVersion s) := keeps_next (kept_applyLimited Kept.refl)

theorem keeps_execOdOwnerKey : Keeps s (execOdOwnerKey s) := keeps_next (kept_applyLimited Kept.refl)

theorem keeps_execOdTileRetire : Keeps s (execOdTileRetire s) := keeps_next (kept_applyLimited Kept.refl)

theorem keeps_execOdDebugClose : Keeps s (execOdDebugClose s) := keeps_next (kept_applyLimited Kept.refl)

theorem kept_endLimited {w : Wlim} (h : Kept s₀ s) : Kept s₀ (endLimited w s) := kept_withTrust rfl h

theorem kept_readIntent {w : Wlim} (h : Kept s₀ s) : Kept s₀ (readIntent w s) := kept_withTrust rfl h

theorem keeps_execJournalIntentDone {readBackOk : Bool} : Keeps s (execJournalIntentDone readBackOk s) := by
  refine keeps_next ?_
  have h : Kept s s := Kept.refl
  split
  · exact kept_ite (kept_ite (kept_updTrust (fun _ => rfl) h) (kept_ite (kept_readIntent h) (kept_ite (kept_answer
      (kept_endLimited (kept_drew (kept_updTrust (fun _ => rfl) h)))) h))) h
  · exact h

theorem kept_closeOwned {writer : OdReq} (h : Kept s₀ s) : Kept s₀ (closeOwned writer s) :=
  kept_foldl (fun _ hu _ => (kept_ite (kept_closeSlot hu) hu)) h

theorem kept_closeWriter {writer : OdReq} (h : Kept s₀ s) : Kept s₀ (closeWriter writer s) := kept_ite h (kept_with h)

theorem kept_closePolicy (h : Kept s₀ s) : Kept s₀ (closePolicy s) := kept_with h

theorem kept_commitEffect {w : Wlim} (h : Kept s₀ s) : Kept s₀ (commitEffect w s) := by
  unfold commitEffect
  split
  · exact kept_closeWriter (kept_closeOwned h)
  · exact kept_closePolicy h
  · exact h

theorem keeps_execJournalCommitDone : Keeps s (execJournalCommitDone s) := by
  refine keeps_next ?_
  have h : Kept s s := Kept.refl
  split
  · exact kept_ite (kept_ite (kept_ite (kept_answer (kept_commitEffect (kept_endLimited (kept_updTrust (fun _ => rfl)
      h)))) (kept_commitEffect (kept_endLimited (kept_updTrust (fun _ => rfl) h)))) (kept_endLimited (kept_updTrust (fun
      _ => rfl) h))) h
  · exact h

theorem fuses_voidIncomplete {x : Trust} : (voidIncomplete x).fuses = x.fuses := by
  unfold voidIncomplete
  refine List.foldlRecOn (motive := fun y : Trust => y.fuses = x.fuses) _ _ rfl fun y hy i _ => ?_
  dsimp only
  split <;> exact hy

theorem keeps_execBootStageFuseDone : Keeps s (execBootStageFuseDone s) := by
  refine keeps_next (kept_ite ?_ Kept.refl)
  extract_lets u
  have hu : u.fuses = s.trust.fuses := fuses_voidIncomplete
  clear_value u
  exact kept_withTrust hu Kept.refl

theorem keeps_execBootStageIdentityDone : Keeps s (execBootStageIdentityDone s) :=
  keeps_next (kept_ite (kept_updTrust (fun _ => rfl) Kept.refl) Kept.refl)

theorem kept_fwReadIn {ev : CodeEvent} (h : Kept s₀ s) : Kept s₀ (fwReadIn ev s) :=
  kept_traffic (kept_readIn (kept_readIn h))

theorem kept_startFirmware (h : Kept s₀ s) : Kept s₀ (startFirmware s) :=
  kept_traffic (kept_zeroRange (kept_withTrust rfl h))

theorem keeps_execFwVerifyDone {ev : CodeEvent} : Keeps s (execFwVerifyDone ev s) :=
  keeps_next (kept_ite (kept_ite (kept_startFirmware (kept_countBad (kept_fwReadIn Kept.refl))) (kept_countFault
      (kept_updTrust (fun _ => rfl) (kept_countBad (kept_fwReadIn Kept.refl))))) Kept.refl)

theorem kept_putImem {ix : Nat} {v : BitVec 64} (h : Kept s₀ s) : Kept s₀ (putImem b st ix v s) :=
  kept_cure (kept_updStrm h)

theorem kept_putDmem {ix : Nat} {v : W32} (h : Kept s₀ s) : Kept s₀ (putDmem b st ix v s) := kept_cure (kept_updStrm h)

theorem kept_putRoutine {kind : Nat} {pc : BitVec 15} (h : Kept s₀ s) : Kept s₀ (putRoutine b kind pc s) :=
  kept_updBay (fun _ => rfl) h

theorem kept_writeReg {ix : BitVec 16} {sub : Byte} {v : List Byte} (h : Kept s₀ s) : KeptOpt s₀ (writeReg ix sub v s) := by
  unfold writeReg
  dsimp only
  split
  · refine keptOpt_some ?_
    cases hr : regEffect
        { slot := 0, mute := false, role := 2, lseq := 0, tid := 0#16, ix := ix, sub := sub, value := v, head := [] } s with
    | none => exact h
    | some u => exact kept_regEffect h u hr
  · exact keptOpt_none

theorem kept_fwGets {v : List Byte} (h : Kept s₀ s) : Kept s₀ (fwGets v s) := kept_updTrust (fun _ => rfl) h

theorem kept_stewardRead {off : Nat} {ue : Bool} (h : Kept s₀ s) : Kept s₀ (stewardRead off ue s) :=
  kept_ite (kept_countFault (kept_updTrust (fun _ => rfl) (kept_dieSpoil (kept_ueAt h)))) (kept_fwGets h)

theorem kept_fwStore {a : Nat} {v : Byte} {ev : CodeEvent} (h : Kept s₀ s) : Kept s₀ (fwStore a v ev s) :=
  kept_guarded (fun _ h0 => (kept_traffic (kept_store h0))) h

theorem kept_fenced {acc : FwAccess} (h : Kept s₀ s) : KeptOpt s₀ (fenced acc s) := by
  unfold fenced
  split
  · refine keptOpt_ite ?_ ?_
    · exact keptOpt_some (kept_withPwr rfl rfl rfl h)
    · exact keptOpt_none
  · refine keptOpt_ite ?_ ?_
    · exact keptOpt_some (kept_with h)
    · exact keptOpt_none
  · refine keptOpt_ite ?_ ?_
    · exact keptOpt_some h
    · exact keptOpt_none
  · split
    · refine keptOpt_ite ?_ ?_
      · exact keptOpt_some (kept_fwStore h)
      · exact keptOpt_none
    · exact keptOpt_none
  · refine keptOpt_ite ?_ ?_
    · exact keptOpt_some (kept_fwStore h)
    · exact keptOpt_none
  · refine keptOpt_ite ?_ ?_
    · exact keptOpt_some (kept_putImem h)
    · exact keptOpt_none
  · refine keptOpt_ite ?_ ?_
    · exact keptOpt_some (kept_putDmem h)
    · exact keptOpt_none
  · refine keptOpt_ite ?_ ?_
    · exact keptOpt_some (kept_putDesc h)
    · exact keptOpt_none
  · refine keptOpt_ite ?_ ?_
    · exact keptOpt_some (kept_putRoutine h)
    · exact keptOpt_none
  · exact keptOpt_some (kept_putCtxByte h)
  · refine keptOpt_ite ?_ ?_
    · exact keptOpt_some (kept_fwStore h)
    · exact keptOpt_none
  · exact kept_writeReg h
  · exact keptOpt_none
  · exact keptOpt_none
  · exact keptOpt_none
  · exact keptOpt_none
  · refine keptOpt_ite ?_ ?_
    · exact keptOpt_some h
    · exact keptOpt_none
  · exact keptOpt_none
  · exact keptOpt_none
  · exact keptOpt_none
  · refine keptOpt_ite ?_ ?_
    · exact keptOpt_none
    · exact keptOpt_some (kept_fwGets h)
  · refine keptOpt_ite ?_ ?_
    · exact keptOpt_some (kept_stewardRead h)
    · exact keptOpt_none
  · exact keptOpt_some (kept_bnWordCommand h)
  · exact keptOpt_some (kept_ite (kept_bnAbortNow h) h)
  · exact keptOpt_some (kept_bnStatWrite h)
  · exact keptOpt_some (kept_bnLenWrite h)
  · exact keptOpt_some (kept_fwGets h)
  · exact keptOpt_some (kept_fwGets h)
  · exact keptOpt_some (kept_fwGets h)
  · exact keptOpt_some (kept_fwGets h)
  · exact keptOpt_some (kept_fwGets h)
  · exact keptOpt_some (kept_fwGets h)

theorem kept_deniedRead {acc : FwAccess} (h : Kept s₀ s) : Kept s₀ (deniedRead acc s) := kept_ite (kept_fwGets h) h

theorem keeps_execFirmwareAccess {acc : FwAccess} : Keeps s (execFirmwareAccess acc s) := by
  refine keeps_next (kept_ite ?_ Kept.refl)
  split
  case h_1 t ht => exact kept_fenced Kept.refl t ht
  case h_2 => exact kept_countFault (kept_deniedRead Kept.refl)

/-! ### The TAP -/

theorem kept_updTap {f : Tap → Tap} (h : Kept s₀ s) : Kept s₀ (updTap f s) := kept_with h

theorem kept_stopDie (h : Kept s₀ s) : Kept s₀ (stopDie s) := h.trans ⟨memInv_stopDie, id, id, rfl⟩

theorem kept_loadIr {code : Byte} (h : Kept s₀ s) : Kept s₀ (loadIr code s) :=
  kept_ite (kept_ite (kept_stopDie (kept_updTap h)) (kept_updTap h)) h

theorem keeps_execTrstAssert {low : Bool} : Keeps s (execTrstAssert low s) := keeps_next (kept_updTap Kept.refl)

theorem keeps_execTapIdcode : Keeps s (execTapIdcode s) := keeps_next (kept_loadIr Kept.refl)

theorem keeps_execTapBypass {code : Byte} : Keeps s (execTapBypass code s) := keeps_next (kept_loadIr Kept.refl)

theorem kept_boundaryScan {refclk : Bool} {load : Option (BitVec 21)} (h : Kept s₀ s) : Kept s₀ (boundaryScan refclk
    load s) := by
  unfold boundaryScan
  split
  · exact kept_drew (kept_updTap h)
  · exact h

theorem keeps_execTapExtest {refclk : Bool} {load : Option (BitVec 21)} : Keeps s (execTapExtest refclk load s) :=
  keeps_next (kept_ite (kept_boundaryScan (kept_loadIr Kept.refl)) Kept.refl)

theorem keeps_execTapSamplePreload {refclk : Bool} {load : Option (BitVec 21)} : Keeps s (execTapSamplePreload refclk
    load s) :=
  keeps_next (kept_ite (kept_boundaryScan (kept_loadIr Kept.refl)) Kept.refl)

theorem keeps_execTapIntscan : Keeps s (execTapIntscan s) := keeps_next (kept_loadIr Kept.refl)

theorem kept_memaccUpdate {cmd : Byte} {addr : BitVec 48} {data : Option (BitVec 64)} (h : Kept s₀ s) : Kept s₀
    (memaccUpdate cmd addr data s) :=
  kept_ite (kept_updTap h) h

theorem keeps_execTapMemacc {dr : Option (BitVec 128)} : Keeps s (execTapMemacc dr s) := by
  refine keeps_next ?_
  have h : Kept s s := Kept.refl
  dsimp only
  split
  · exact kept_memaccUpdate (kept_loadIr h)
  · exact kept_loadIr h

theorem keeps_execMemaccRead {addr : BitVec 48} : Keeps s (execMemaccRead addr s) :=
  keeps_next (kept_memaccUpdate Kept.refl)

theorem keeps_execMemaccWrite {addr : BitVec 48} {data : BitVec 64} : Keeps s (execMemaccWrite addr data s) :=
  keeps_next (kept_memaccUpdate Kept.refl)

theorem kept_memaccEnd {sts : BitVec 2} (h : Kept s₀ s) : Kept s₀ (memaccEnd sts s) := kept_updTap h

theorem kept_memaccReads {a : Nat} (h : Kept s₀ s) : Kept s₀ (memaccReads a s) :=
  kept_ite (kept_memaccEnd (kept_ite (kept_drew (kept_sectorUe (kept_traffic h))) (by split <;> [exact (kept_ueAt
      (kept_traffic h)); exact (kept_traffic h)]))) (kept_updTap (kept_traffic h))

theorem kept_memaccWrites {a : Nat} (h : Kept s₀ s) : Kept s₀ (memaccWrites a s) :=
  kept_drew (kept_memaccEnd (kept_store (kept_traffic h)))

theorem keeps_execMemaccServe {ev : CodeEvent} : Keeps s (execMemaccServe ev s) :=
  keeps_next (kept_ite (kept_ite (kept_memaccEnd Kept.refl) (kept_ite (kept_guardedBy (fun _ _ _ h0 => (kept_askQuiet
      h0)) (fun _ h0 => (kept_memaccReads h0)) Kept.refl) (kept_guarded (fun _ h0 => (kept_memaccWrites h0))
      Kept.refl))) Kept.refl)

theorem keeps_exec {c : Instr} : Keeps s (exec c s) := by
  cases c with
  | tsCset => exact keeps_execTsCset
  | tsCadd => exact keeps_execTsCadd
  | tsCsub => exact keeps_execTsCsub
  | tsCmul => exact keeps_execTsCmul
  | tsCshl => exact keeps_execTsCshl
  | tsCshr => exact keeps_execTsCshr
  | tsCand => exact keeps_execTsCand
  | tsCor => exact keeps_execTsCor
  | tsCxor => exact keeps_execTsCxor
  | tsCmp => exact keeps_execTsCmp
  | tsKlog => exact keeps_execTsKlog
  | tsLdw => exact keeps_execTsLdw
  | tsStw => exact keeps_execTsStw
  | tsBeat => exact keeps_execTsBeat
  | tsLidx => exact keeps_execTsLidx
  | tsBr => exact keeps_execTsBr
  | tsJmp => exact keeps_execTsJmp
  | tsCall => exact keeps_execTsCall
  | tsRet => exact keeps_execTsRet
  | tsEnd => exact keeps_execTsEnd
  | tsLoop => exact keeps_execTsLoop
  | tsBreak => exact keeps_execTsBreak
  | tsFset => exact keeps_execTsFset
  | tsFclr => exact keeps_execTsFclr
  | tsWait => exact keeps_execTsWait
  | flagWaitEnd => exact keeps_execFlagWaitEnd
  | tsGadd => exact keeps_execTsGadd
  | tsGset => exact keeps_execTsGset
  | tsGwait => exact keeps_execTsGwait
  | globalWaitEnd => exact keeps_execGlobalWaitEnd
  | tsQput => exact keeps_execTsQput
  | tsQpop => exact keeps_execTsQpop
  | tsRel => exact keeps_execTsRel
  | releaseWaitEnd => exact keeps_execReleaseWaitEnd
  | tsYield => exact keeps_execTsYield
  | tsPinit => exact keeps_execTsPinit
  | poolArmed => exact keeps_execPoolArmed
  | tsTake => exact keeps_execTsTake
  | takeIndexWrite => exact keeps_execTakeIndexWrite
  | tsHop => exact keeps_execTsHop
  | bracketOpen => exact keeps_execBracketOpen
  | tsHend => exact keeps_execTsHend
  | bracketClose => exact keeps_execBracketClose
  | tsHout => exact keeps_execTsHout
  | tsDarm => exact keeps_execTsDarm
  | tsScfg => exact keeps_execTsScfg
  | tsAmax => exact keeps_execTsAmax
  | tsScale => exact keeps_execTsScale
  | tsUwr => exact keeps_execTsUwr
  | tsUstat => exact keeps_execTsUstat
  | statsApply => exact keeps_execStatsApply
  | statsResultWrite => exact keeps_execStatsResultWrite
  | tdKey => exact keeps_execTdKey
  | tdDrop => exact keeps_execTdDrop
  | tdStat => exact keeps_execTdStat
  | keyStreamOpen => exact keeps_execKeyStreamOpen
  | keySetCombine => exact keeps_execKeySetCombine
  | keyFillStart => exact keeps_execKeyFillStart
  | keyFillData => exact keeps_execKeyFillData
  | xofSegmentStart => exact keeps_execXofSegmentStart
  | xofSegmentComplete => exact keeps_execXofSegmentComplete
  | keyRowDeliver => exact keeps_execKeyRowDeliver
  | mmCfg => exact keeps_execMmCfg
  | mmLdp => exact keeps_execMmLdp
  | mmLds => exact keeps_execMmLds
  | mmMul => exact keeps_execMmMul
  | mmDrain => exact keeps_execMmDrain
  | mmClr => exact keeps_execMmClr
  | mmStat => exact keeps_execMmStat
  | tileInstrStart => exact keeps_execTileInstrStart
  | stationaryLoadComplete => exact keeps_execStationaryLoadComplete
  | mmMulComplete => exact keeps_execMmMulComplete
  | mmDrainComplete => exact keeps_execMmDrainComplete
  | ntCfg => exact keeps_execNtCfg
  | ntLdp => exact keeps_execNtLdp
  | ntFwd => exact keeps_execNtFwd
  | ntInv => exact keeps_execNtInv
  | ntTv => exact keeps_execNtTv
  | ntStep => exact keeps_execNtStep
  | ntAcc => exact keeps_execNtAcc
  | ntOut => exact keeps_execNtOut
  | ntInstrStart => exact keeps_execNtInstrStart
  | ntInstrComplete => exact keeps_execNtInstrComplete
  | tblLd => exact keeps_execTblLd
  | tblLdComplete => exact keeps_execTblLdComplete
  | tblSwap => exact keeps_execTblSwap
  | tblStat => exact keeps_execTblStat
  | tableBankFlip => exact keeps_execTableBankFlip
  | veAdd => exact keeps_execVeAdd
  | veSub => exact keeps_execVeSub
  | veMull => exact keeps_execVeMull
  | veMulh => exact keeps_execVeMulh
  | veMulhu => exact keeps_execVeMulhu
  | veAnd => exact keeps_execVeAnd
  | veOr => exact keeps_execVeOr
  | veXor => exact keeps_execVeXor
  | veShl => exact keeps_execVeShl
  | veShr => exact keeps_execVeShr
  | veSra => exact keeps_execVeSra
  | veMin => exact keeps_execVeMin
  | veMax => exact keeps_execVeMax
  | veMinu => exact keeps_execVeMinu
  | veMaxu => exact keeps_execVeMaxu
  | veSel => exact keeps_execVeSel
  | veIota => exact keeps_execVeIota
  | veCmp => exact keeps_execVeCmp
  | veFcmp => exact keeps_execVeFcmp
  | vePand => exact keeps_execVePand
  | vePor => exact keeps_execVePor
  | vePxor => exact keeps_execVePxor
  | vePnot => exact keeps_execVePnot
  | veFadd => exact keeps_execVeFadd
  | veFsub => exact keeps_execVeFsub
  | veFmul => exact keeps_execVeFmul
  | veFma => exact keeps_execVeFma
  | veFmin => exact keeps_execVeFmin
  | veFmax => exact keeps_execVeFmax
  | veCvt => exact keeps_execVeCvt
  | veMadd => exact keeps_execVeMadd
  | veMsub => exact keeps_execVeMsub
  | veMmul => exact keeps_execVeMmul
  | veMmac => exact keeps_execVeMmac
  | veMneg => exact keeps_execVeMneg
  | veMred => exact keeps_execVeMred
  | veMlift => exact keeps_execVeMlift
  | veKmac => exact keeps_execVeKmac
  | veKmacWriteback => exact keeps_execVeKmacWriteback
  | veLrot => exact keeps_execVeLrot
  | vePerm => exact keeps_execVePerm
  | veSf => exact keeps_execVeSf
  | veLd => exact keeps_execVeLd
  | veSt => exact keeps_execVeSt
  | veLdq => exact keeps_execVeLdq
  | veGsign => exact keeps_execVeGsign
  | veSum => exact keeps_execVeSum
  | veSumResult => exact keeps_execVeSumResult
  | veLdp => exact keeps_execVeLdp
  | veStat => exact keeps_execVeStat
  | veInstrStart => exact keeps_execVeInstrStart
  | xfMov => exact keeps_execXfMov
  | xfGath => exact keeps_execXfGath
  | xfScat => exact keeps_execXfScat
  | xfRing => exact keeps_execXfRing
  | xfDnew => exact keeps_execXfDnew
  | xfDarm => exact keeps_execXfDarm
  | xfDdel => exact keeps_execXfDdel
  | xfStat => exact keeps_execXfStat
  | transferStart => exact keeps_execTransferStart
  | transferComplete => exact keeps_execTransferComplete
  | ringBurstFetch => exact keeps_execRingBurstFetch
  | ringRecordStart => exact keeps_execRingRecordStart
  | waitTimeout => exact keeps_execWaitTimeout
  | dlk => exact keeps_execDlk
  | parkComplete => exact keeps_execParkComplete
  | programRelease => exact keeps_execProgramRelease
  | memRequestArrive => exact keeps_execMemRequestArrive
  | memRequestServe => exact keeps_execMemRequestServe
  | memReadReturn => exact keeps_execMemReadReturn
  | dramRefresh => exact keeps_execDramRefresh
  | hotRefreshEnter => exact keeps_execHotRefreshEnter
  | hotRefreshLeave => exact keeps_execHotRefreshLeave
  | patrolScrub => exact keeps_execPatrolScrub
  | stackTempRead => exact keeps_execStackTempRead
  | stackCapLower => exact keeps_execStackCapLower
  | stackCapRaise => exact keeps_execStackCapRaise
  | actLimitSet => exact keeps_execActLimitSet
  | actLimitLift => exact keeps_execActLimitLift
  | stackThermFault => exact keeps_execStackThermFault
  | bandZeroComplete => exact keeps_execBandZeroComplete
  | stackInitComplete => exact keeps_execStackInitComplete
  | pageRepairStart => exact keeps_execPageRepairStart
  | pageRepairComplete => exact keeps_execPageRepairComplete
  | correctedWriteback => exact keeps_execCorrectedWriteback
  | scrubStep b rd => exact keeps_execScrubStep (b := b) (rd := rd)
  | reencodeComplete => exact keeps_execReencodeComplete
  | scratchpadInitComplete => exact keeps_execScratchpadInitComplete
  | beatBlockReceive => exact keeps_execBeatBlockReceive
  | markerArrival => exact keeps_execMarkerArrival
  | beatEdge => exact keeps_execBeatEdge
  | holdEnter => exact keeps_execHoldEnter
  | holdExit => exact keeps_execHoldExit
  | beatLost => exact keeps_execBeatLost
  | acquisitionDone => exact keeps_execAcquisitionDone
  | lockingDone => exact keeps_execLockingDone
  | lockingFail => exact keeps_execLockingFail
  | recordDrain => exact keeps_execRecordDrain
  | replayInputRelease => exact keeps_execReplayInputRelease
  | linkAlignmentChange => exact keeps_execLinkAlignmentChange
  | linkReinit => exact keeps_execLinkReinit
  | linkAck => exact keeps_execLinkAck
  | linkNak => exact keeps_execLinkNak
  | retransmitTimeout => exact keeps_execRetransmitTimeout
  | resendLimit => exact keeps_execResendLimit
  | ackDue => exact keeps_execAckDue
  | creditRepeat => exact keeps_execCreditRepeat
  | sessionHello => exact keeps_execSessionHello
  | sessionAccept => exact keeps_execSessionAccept
  | sessionFinish => exact keeps_execSessionFinish
  | sessionClose => exact keeps_execSessionClose
  | finishTimeout => exact keeps_execFinishTimeout
  | sessionIdleTimeout => exact keeps_execSessionIdleTimeout
  | odRead => exact keeps_execOdRead
  | odWrite => exact keeps_execOdWrite
  | bulkWrite => exact keeps_execBulkWrite
  | bulkRead => exact keeps_execBulkRead
  | bulkReadData => exact keeps_execBulkReadData
  | flagUpdate => exact keeps_execFlagUpdate
  | recordScript => exact keeps_execRecordScript
  | heldFrameRelease => exact keeps_execHeldFrameRelease
  | writeOther => exact keeps_execWriteOther
  | odInstall => exact keeps_execOdInstall
  | installComplete => exact keeps_execInstallComplete
  | odEvict => exact keeps_execOdEvict
  | contextRetireEmpty => exact keeps_execContextRetireEmpty
  | odTideRestart => exact keeps_execOdTideRestart
  | odPark => exact keeps_execOdPark
  | odResume => exact keeps_execOdResume
  | odLoad => exact keeps_execOdLoad
  | loadComplete => exact keeps_execLoadComplete
  | odUnload => exact keeps_execOdUnload
  | odLaunch => exact keeps_execOdLaunch
  | odChannelRestart => exact keeps_execOdChannelRestart
  | odLinkReset => exact keeps_execOdLinkReset
  | linkResetEffect => exact keeps_execLinkResetEffect
  | odBayReset => exact keeps_execOdBayReset
  | bayResetEffect => exact keeps_execBayResetEffect
  | odStreamReset => exact keeps_execOdStreamReset
  | odPowerCeiling => exact keeps_execOdPowerCeiling
  | odPageCodeStrength => exact keeps_execOdPageCodeStrength
  | odBandModes => exact keeps_execOdBandModes
  | odBeatFree => exact keeps_execOdBeatFree
  | odBeatRelock => exact keeps_execOdBeatRelock
  | odRunArm => exact keeps_execOdRunArm
  | odRunClose => exact keeps_execOdRunClose
  | odRecordingEnable => exact keeps_execOdRecordingEnable
  | odReplayArm => exact keeps_execOdReplayArm
  | odReplayStop => exact keeps_execOdReplayStop
  | odSessionClose => exact keeps_execOdSessionClose
  | odAttestNonce => exact keeps_execOdAttestNonce
  | attestReportReady => exact keeps_execAttestReportReady
  | odTmxSelect => exact keeps_execOdTmxSelect
  | odSecurityVersion => exact keeps_execOdSecurityVersion
  | odOwnerKey => exact keeps_execOdOwnerKey
  | odTileRetire => exact keeps_execOdTileRetire
  | odDebugClose => exact keeps_execOdDebugClose
  | journalIntentDone => exact keeps_execJournalIntentDone
  | journalCommitDone => exact keeps_execJournalCommitDone
  | bootStageFuseDone => exact keeps_execBootStageFuseDone
  | bootStageIdentityDone => exact keeps_execBootStageIdentityDone
  | fwVerifyDone => exact keeps_execFwVerifyDone
  | firmwareAccess => exact keeps_execFirmwareAccess
  | bnModmul => exact keeps_execBnModmul
  | bnModexp => exact keeps_execBnModexp
  | bnModinv => exact keeps_execBnModinv
  | bnPchk => exact keeps_execBnPchk
  | bnPmul => exact keeps_execBnPmul
  | bnPmulg => exact keeps_execBnPmulg
  | bnPadd => exact keeps_execBnPadd
  | bnRands => exact keeps_execBnRands
  | bnAbort => exact keeps_execBnAbort
  | bnSlotLenWrite => exact keeps_execBnSlotLenWrite
  | bnSlotDataWrite => exact keeps_execBnSlotDataWrite
  | bnOpComplete => exact keeps_execBnOpComplete
  | bnUeAbort => exact keeps_execBnUeAbort
  | trngHealthFail => exact keeps_execTrngHealthFail
  | bnAbortComplete => exact keeps_execBnAbortComplete
  | inputRise => exact keeps_execInputRise
  | rampStep => exact keeps_execRampStep
  | refclkValid => exact keeps_execRefclkValid
  | powerOnResetRelease => exact keeps_execPowerOnResetRelease
  | rampAbort => exact keeps_execRampAbort
  | inputFail => exact keeps_execInputFail
  | holdupEnd => exact keeps_execHoldupEnd
  | failRestart => exact keeps_execFailRestart
  | brownoutEnter => exact keeps_execBrownoutEnter
  | brownoutLeave => exact keeps_execBrownoutLeave
  | overvoltageFault => exact keeps_execOvervoltageFault
  | psDieFault => exact keeps_execPsDieFault
  | sensorHistoryFull => exact keeps_execSensorHistoryFull
  | powerCapRaise => exact keeps_execPowerCapRaise
  | powerCeilingFault => exact keeps_execPowerCeilingFault
  | dvfsClockSwitch => exact keeps_execDvfsClockSwitch
  | railSettled => exact keeps_execRailSettled
  | thermalCapLower => exact keeps_execThermalCapLower
  | thermalCapRaise => exact keeps_execThermalCapRaise
  | neighbourThermFault => exact keeps_execNeighbourThermFault
  | bayThermFault => exact keeps_execBayThermFault
  | uncoreThermFault => exact keeps_execUncoreThermFault
  | trstAssert => exact keeps_execTrstAssert
  | tapExtest => exact keeps_execTapExtest
  | tapSamplePreload => exact keeps_execTapSamplePreload
  | tapIdcode => exact keeps_execTapIdcode
  | tapIntscan => exact keeps_execTapIntscan
  | tapMemacc => exact keeps_execTapMemacc
  | tapBypass => exact keeps_execTapBypass
  | memaccRead => exact keeps_execMemaccRead
  | memaccWrite => exact keeps_execMemaccWrite
  | memaccServe => exact keeps_execMemaccServe
  | frameCrcFail => exact keeps_execFrameCrcFail
  | blockError => exact keeps_execBlockError

theorem npcNext_le {x : Bays} {waits : List Cause} {moves device cy : Bool} (h : x.npc ≤ 4096) :
    npcNext x waits moves device cy ≤ 4096 := by
  unfold npcNext
  split
  · exact Nat.zero_le _
  · split
    · exact Nat.zero_le _
    · split
      · exact Nat.min_le_left _ _
      · exact h

theorem npc_bayTick_le (h : (s.bay b).npc ≤ 4096) : (bayTick b s).npc ≤ 4096 := by
  unfold bayTick
  extract_lets x y cy n p
  split <;> exact npcNext_le h

theorem kept_tick (h : Kept s₀ s) : Kept s₀ (tick s) := by
  unfold tick
  refine kept_ite ?_ h
  have ht : Kept s₀ (s.mapBays (fun b _ => bayTick b s)) := kept_mapBays_le (fun _ hn => npc_bayTick_le hn) h
  exact kept_replayAdvance (kept_withPwr (s := s.mapBays (fun b _ => bayTick b s)) rfl rfl rfl ht)

theorem keeps_step : Keeps s (step s) := by
  unfold step
  split
  · exact keeps_next (kept_tick Kept.refl)
  · exact fun t ht => (kept_with Kept.refl).trans (keeps_exec t ht)

theorem kept_withFetchWord {nbits w : Nat} (h : Kept s₀ s) : Kept s₀ (State.withFetchWord s nbits w) := by
  unfold State.withFetchWord
  split
  · exact kept_with h
  · exact h

/-! ### The obligations -/

/-- Settles O59: every function of the model keeps the canonical form, so every command and the cy do. -/
theorem memoryKept : Obligations.MemoryKept := by
  intro s t hm ht
  obtain ⟨hk, -, -, -⟩ := keeps_step t ht
  exact hk hm

/-- Settles O60: every function of the model keeps the bounds, split into those of the bays and of the power manager, and
the manufactured fuse fields. -/
theorem clocksKept : Obligations.ClocksKept := by
  intro s t hc hr ht
  obtain ⟨-, hn, hp, hf⟩ := keeps_step t ht
  obtain ⟨hns, hps⟩ := clockInv_and_raiseInv_iff.1 ⟨hc, hr⟩
  obtain ⟨hct, hrt⟩ := clockInv_and_raiseInv_iff.2 ⟨hn hns, hp hps⟩
  exact ⟨hct, hrt, hf⟩

end Sys2Proof.Proofs.Invariants
end

section
/-! PROOFS. NT. and VE. instructions enter the queue of their unit with what they captured (RingIssue, VectorIssue,
VectorIssueOther). -/

namespace Sys2Proof.Proofs.UnitIssue

open Sys2Proof Sys2Proof.Machine Sys2Proof.Laws.State Sys2Proof.Laws.Ops Sys2Proof.Proofs.Tables

variable {s : State} {b : Bay} {c : Instr} {rs : List Ctr}

/-! ### Descriptors read at issue (R215, R251) -/

theorem descBad_swap {d e : Dix} : descBad b [d, e] s = descBad b [e, d] s := by
  simp only [descBad, List.any_cons, List.any_nil, Bool.or_left_comm]

theorem descRead_of_sound {st : Strm} {ds : List Dix} {k : State → State} (h : descBad b ds s = none) :
    descRead b st ds k s = k s := by
  simp [descRead, h]

/-- What an instruction that retires into a queue leaves of its bay, but for the unit whose queue it enters. -/
def issued (x : Bays) : Bays := { x with x := x.x.next, issued := x.issued + 1, moved := true }

/-! ### The NT. queue (R130) -/

/-- The entry an NT. instruction puts into the queue. -/
def ntEntry (b : Bay) (o : NtOp) (s : State) : NtEnt :=
  { op := o, seq := (s.bay b).issued, pc := (s.strm b .x).pc, quench := quenched b s, wl := none }

theorem onlyBay_ntPush {o : NtOp} : onlyBay b s (ntPush b o s) :=
  onlyBay_trans onlyBay_updBay (onlyBay_trans onlyBay_countIssue onlyBay_retire)

theorem bay_ntPush {o : NtOp} :
    (ntPush b o s).bay b =
      { issued (s.bay b) with nt := { (s.bay b).nt with queue := (s.bay b).nt.queue ++ [ntEntry b o s] } } := by
  simp [ntPush, retire, State.updStrm, countIssue, updNt, issued, ntEntry, Bays.setStrm, Bays.strm]

theorem ntIssue_ready {ds : List Dix} {op : State → Option NtOp} {o : NtOp} (hm : mayIssue b .x c s = true)
    (hf : (s.strm b .x).free rs = true) (hq : (s.bay b).nt.queue.length < 4) (hd : descBad b ds s = none)
    (ho : op s = some o) : ntIssue b c rs ds op s = ntPush b o s := by
  rw [ntIssue, issue_ready hm hf, if_neg (by omega), descRead_of_sound hd, ho]

/-- Settles O20: each NT. instruction comes to `ntPush` with the operation of its row. -/
theorem ringIssue : Obligations.RingIssue := by
  unfold Obligations.RingIssue
  intro b imm fd ac ident slot cn d1 d2 x1 x2 s c op rs ds hmem hm hf hbad hds hq
  have hexec : exec c s = .next (ntPush b op s) := by
    simp only [List.mem_cons, Prod.mk.injEq, List.not_mem_nil, or_false] at hmem
    obtain ⟨rfl, rfl, rfl, rfl⟩ | ⟨rfl, rfl, rfl, rfl⟩ | ⟨rfl, rfl, rfl, rfl⟩ | ⟨rfl, rfl, rfl, rfl⟩ | ⟨rfl, rfl, rfl, rfl⟩ |
      ⟨rfl, rfl, rfl, rfl⟩ | ⟨rfl, rfl, rfl, rfl⟩ | ⟨rfl, rfl, rfl, rfl⟩ := hmem
    · exact congrArg Host.Outcome.next (ntIssue_ready hm hf hq hbad rfl)
    · exact congrArg Host.Outcome.next (ntIssue_ready hm hf hq hbad (by simp [hds (d1, x1)]))
    · exact congrArg Host.Outcome.next
        (ntIssue_ready hm hf hq (descBad_swap.trans hbad) (by simp [hds (d1, x1), hds (d2, x2)]))
    · exact congrArg Host.Outcome.next
        (ntIssue_ready hm hf hq (descBad_swap.trans hbad) (by simp [hds (d1, x1), hds (d2, x2)]))
    · exact congrArg Host.Outcome.next (ntIssue_ready hm hf hq hbad rfl)
    · exact congrArg Host.Outcome.next (ntIssue_ready hm hf hq hbad (by simp [hds (d1, x1), ctrOf]))
    · exact congrArg Host.Outcome.next (ntIssue_ready hm hf hq hbad (by simp [hds (d2, x2)]))
    · exact congrArg Host.Outcome.next (ntIssue_ready hm hf hq hbad (by simp [hds (d1, x1)]))
  refine ⟨_, hexec, onlyBay_ntPush, ?_, ?_, ntEntry b op s, ?_, rfl, rfl, rfl⟩
  · simp [State.strm, bay_ntPush, Bays.strm, issued]
  · simp [State.strm, bay_ntPush, Bays.strm, issued]
  · simp [bay_ntPush]

/-! ### The vector queue (R154) -/

/-- The entry a VE. instruction puts into the queue. -/
def veEntry (b : Bay) (o : VecOp) (s : State) : VecEnt :=
  { op := o, seq := (s.bay b).issued, pc := (s.strm b .x).pc, quench := quenched b s, inBr := inBracket b s, wl := none }

theorem onlyBay_vePush {o : VecOp} : onlyBay b s (vePush b o s) :=
  onlyBay_trans onlyBay_updBay (onlyBay_trans onlyBay_countIssue onlyBay_retire)

theorem bay_vePush {o : VecOp} :
    (vePush b o s).bay b =
      { issued (s.bay b) with vec := { (s.bay b).vec with queue := (s.bay b).vec.queue ++ [veEntry b o s] } } := by
  simp [vePush, retire, State.updStrm, countIssue, updVec, issued, veEntry, Bays.setStrm, Bays.strm]

theorem strm_vePush {o : VecOp} : (vePush b o s).strm b .x = (s.strm b .x).next := by
  simp [State.strm, bay_vePush, Bays.strm, issued]

theorem veIssue_ready {op : State → VecOp} (hm : mayIssue b .x c s = true) (hf : (s.strm b .x).free rs = true)
    (hq : (s.bay b).vec.queue.length < 16) : veIssue b c rs op s = vePush b (op s) s := by
  rw [veIssue, issue_ready hm hf, if_neg (by omega)]

theorem veIssueD_ready {ds : List Dix} {op : State → Option VecOp} {o : VecOp} (hm : mayIssue b .x c s = true)
    (hf : (s.strm b .x).free rs = true) (hq : (s.bay b).vec.queue.length < 16) (hd : descBad b ds s = none)
    (ho : op s = some o) : veIssueD b c rs ds op s = vePush b o s := by
  rw [veIssueD, issue_ready hm hf, if_neg (by omega), descRead_of_sound hd, ho]

/-- What a VE. instruction that enters the queue leaves, as the obligations state it. -/
theorem vePush_spec {o : VecOp} :
    onlyBay b s (vePush b o s) ∧ (vePush b o s).strm b .x = (s.strm b .x).next ∧
      (vePush b o s).bay b = { s.bay b with x := (vePush b o s).strm b .x, vec := ((vePush b o s).bay b).vec
                                            issued := (s.bay b).issued + 1, moved := true } ∧
      ∃ e : VecEnt, ((vePush b o s).bay b).vec = { (s.bay b).vec with queue := (s.bay b).vec.queue ++ [e] } ∧ e.op = o ∧
        e.pc = (s.strm b .x).pc ∧ e.quench = quenched b s := by
  refine ⟨onlyBay_vePush, strm_vePush, ?_, veEntry b o s, ?_, rfl, rfl, rfl⟩
  · rw [strm_vePush, bay_vePush]
    rfl
  · rw [bay_vePush]

/-- Settles O25: each instruction of two operands comes to `vePush`, operand B as `vbVal` captures it. -/
theorem vectorIssue : Obligations.VectorIssue := by
  unfold Obligations.VectorIssue
  intro b vd va vc o pd ps pg r fr v s c op hmem hm hf hq
  have hexec : exec c s = .next (vePush b op s) := by
    simp only [List.mem_cons, Prod.mk.injEq, List.not_mem_nil, or_false] at hmem
    rcases hmem with ⟨rfl, rfl⟩ | ⟨rfl, rfl⟩ | ⟨rfl, rfl⟩ | ⟨rfl, rfl⟩ | ⟨rfl, rfl⟩ | ⟨rfl, rfl⟩ | ⟨rfl, rfl⟩ | ⟨rfl, rfl⟩ |
      ⟨rfl, rfl⟩ | ⟨rfl, rfl⟩ | ⟨rfl, rfl⟩ | ⟨rfl, rfl⟩ | ⟨rfl, rfl⟩ | ⟨rfl, rfl⟩ | ⟨rfl, rfl⟩ | ⟨rfl, rfl⟩ |
      ⟨rfl, rfl⟩ | ⟨rfl, rfl⟩ | ⟨rfl, rfl⟩ | ⟨rfl, rfl⟩ | ⟨rfl, rfl⟩ | ⟨rfl, rfl⟩ | ⟨rfl, rfl⟩ | ⟨rfl, rfl⟩ |
      ⟨rfl, rfl⟩ | ⟨rfl, rfl⟩ | ⟨rfl, rfl⟩ | ⟨rfl, rfl⟩
    all_goals exact congrArg Host.Outcome.next (veIssue_ready hm hf hq)
  exact ⟨_, hexec, vePush_spec⟩

theorem bitsAt_low {n hi : Nat} : bitsAt n hi 0 = n % 2 ^ (hi + 1) := by simp [bitsAt]

/-! ### Summaries mark their counter and flag first (R151) -/

theorem onlyBay_markSum {cn : Ctr} {fn : LFlag} : onlyBay b s (markSum b cn fn s) := onlyBay_updBay

theorem strm_markSum {cn : Ctr} {fn : LFlag} : (markSum b cn fn s).strm b .x = (s.strm b .x).mark cn true := by
  simp [markSum, State.strm, Bays.strm, Bays.setStrm]

theorem vec_markSum {cn : Ctr} {fn : LFlag} : ((markSum b cn fn s).bay b).vec = (s.bay b).vec := by
  simp [markSum, Bays.setStrm]

theorem vec_updStrm {st : Strm} {f : Stream → Stream} : ((s.updStrm b st f).bay b).vec = (s.bay b).vec := by
  cases st <;> simp [State.updStrm, Bays.setStrm]

/-- An instruction that enters the queue from a state which differs in its marked counter. -/
theorem vePush_marked {t : State} {o : VecOp} {cn : Ctr} (ht : onlyBay b s t)
    (hx : t.strm b .x = (s.strm b .x).mark cn true) (hv : (t.bay b).vec = (s.bay b).vec) :
    onlyBay b s (vePush b o t) ∧
      (vePush b o t).strm b .x = { (s.strm b .x).next with busy := setBit (s.strm b .x).busy cn true } ∧
      ∃ e : VecEnt, ((vePush b o t).bay b).vec = { (s.bay b).vec with queue := (s.bay b).vec.queue ++ [e] } ∧ e.op = o := by
  refine ⟨onlyBay_trans ht onlyBay_vePush, ?_, veEntry b o t, ?_, rfl⟩
  · rw [strm_vePush, hx]
    rfl
  · rw [bay_vePush, hv]

/-- Settles O26: each instruction comes to `vePush`, with the descriptors read at issue, or with its counter marked. -/
theorem vectorIssueOther : Obligations.VectorIssueOther := by
  unfold Obligations.VectorIssueOther
  constructor
  · intro b vd va vb pd pa pb pg v w cn cm f m fmt q logn toInt init fd dx d1 d2 x x1 x2 e m1 s c op rs ds hmem hm hf hbad
      hds hq
    have hexec : exec c s = .next (vePush b op s) := by
      simp only [List.mem_cons, Prod.mk.injEq, List.not_mem_nil, or_false] at hmem
      rcases hmem with ⟨rfl, rfl, rfl, rfl⟩ | ⟨rfl, rfl, rfl, rfl⟩ | ⟨rfl, rfl, rfl, rfl⟩ | ⟨rfl, rfl, rfl, rfl⟩ |
        ⟨rfl, rfl, rfl, rfl⟩ | ⟨rfl, rfl, rfl, rfl⟩ | ⟨rfl, rfl, rfl, rfl⟩ | ⟨rfl, rfl, rfl, rfl⟩ | ⟨rfl, rfl, rfl, rfl⟩ |
        ⟨rfl, rfl, rfl, rfl⟩ | ⟨rfl, rfl, rfl, rfl⟩ | ⟨rfl, rfl, rfl, rfl⟩ | ⟨rfl, rfl, rfl, rfl⟩ | ⟨rfl, rfl, rfl, rfl⟩ |
        ⟨rfl, rfl, rfl, rfl⟩ | ⟨rfl, rfl, rfl, rfl⟩ | ⟨rfl, rfl, rfl, rfl⟩ | ⟨rfl, rfl, rfl, rfl⟩ | ⟨rfl, rfl, rfl, rfl⟩
      · exact congrArg Host.Outcome.next (veIssue_ready hm hf hq)
      · exact congrArg Host.Outcome.next (veIssue_ready hm hf hq)
      · exact congrArg Host.Outcome.next (veIssue_ready hm hf hq)
      · exact congrArg Host.Outcome.next (veIssue_ready hm hf hq)
      · exact congrArg Host.Outcome.next (veIssue_ready hm hf hq)
      · exact congrArg Host.Outcome.next (veIssue_ready hm hf hq)
      · exact congrArg Host.Outcome.next (veIssue_ready hm hf hq)
      · exact congrArg Host.Outcome.next (veIssue_ready hm hf hq)
      · exact congrArg Host.Outcome.next (veIssue_ready hm hf hq)
      · exact congrArg Host.Outcome.next
          (veIssueD_ready hm hf hq hbad (by simp [hds (dx, x), kmacWb, ctrOf, bitsAt_low]))
      · exact congrArg Host.Outcome.next (veIssueD_ready hm hf hq hbad
          (by simp [hds (dx, x), hds (d1, x1), hds (d2, x2), kmacWb, ctrOf, bitsAt_low]))
      · exact congrArg Host.Outcome.next (veIssue_ready hm hf hq)
      · exact congrArg Host.Outcome.next (veIssue_ready hm hf hq)
      · exact congrArg Host.Outcome.next (veIssue_ready hm hf hq)
      · exact congrArg Host.Outcome.next (veIssueD_ready hm hf hq hbad (by simp [hds (dx, x)]))
      · exact congrArg Host.Outcome.next (veIssueD_ready hm hf hq hbad (by simp [hds (dx, x)]))
      · exact congrArg Host.Outcome.next (veIssue_ready hm hf hq)
      · exact congrArg Host.Outcome.next (veIssue_ready hm hf hq)
      · exact congrArg Host.Outcome.next (veIssueD_ready hm hf hq hbad (by simp [hds (dx, x)]))
    exact ⟨_, hexec, vePush_spec⟩
  · intro b cn kind fn pg s c op hmem hm hf hq
    simp only [List.mem_cons, Prod.mk.injEq, List.not_mem_nil, or_false] at hmem
    obtain ⟨rfl, rfl⟩ | ⟨rfl, rfl⟩ := hmem
    · exact ⟨_, congrArg Host.Outcome.next ((issue_ready hm hf).trans (if_neg (by omega))),
        vePush_marked onlyBay_markSum strm_markSum vec_markSum⟩
    · exact ⟨_, congrArg Host.Outcome.next ((issue_ready hm hf).trans (if_neg (by omega))),
        vePush_marked onlyBay_updBay strm_updStrm vec_updStrm⟩

end Sys2Proof.Proofs.UnitIssue
end

section
/-! PROOFS. The refutation of TileEvents: a multiplication that starts over an EMPTY bank adds to nothing, so the run it
leaves does not have the ACC it was issued with. -/

namespace Sys2Proof.Proofs.TileEvents

open Sys2Proof Sys2Proof.Machine

/-- A descriptor of one streamed row of bay 0's scratchpad. -/
def rowDesc : Desc :=
  { kind := 1, etype := 0, red := false, form := false, sbay := 0, alloc := 0xFFFF, base := 0x200000000000, q := 0, gal := 0,
    size := #v[256, 1, 1, 1], stride := #v[1, 256, 256, 256], origin := 0x200000000000, pos := 0 }

/-- An MM.MUL of tile 0 with ACC set, over its bank 0. -/
def accMul : TileEnt := ⟨.mul 1#8 false false true 1 rowDesc, 0, 0#15, false, false, none⟩

/-- After reset, but for tile 0 of bay 0: a LOADED buffer, EMPTY banks and that MM.MUL at the head of its queue. -/
def accMulState : State :=
  State.reset.setBay 0
    { Bays.reset with tiles := Bays.reset.tiles.set 0 { Tile.reset with queue := [accMul], s0 := ⟨.loaded, []⟩ } }

theorem tileNext_accMulState : dieRuns accMulState = true ∧ memFree accMulState = true ∧
    tileNext 0 0 accMulState = some accMul := by decide +kernel

theorem accMulState_ready :
    (∀ i : Lt, (1#8).getLsbD i = true → (tileOf 0 i accMulState).mode = (tileOf 0 0 accMulState).mode ∧
      ((tileOf 0 i accMulState).bank false).count true ≤ 262144) ∧
    (rowDesc.addrs 0 256).any (byteBad accMulState) = false := by decide +kernel

/-- The state the step leaves. -/
def accMulStarted : State := guarded 0 .clean (startAddrs 0 accMul) [] (startTile 0 0 accMul) accMulState

theorem acc_accMulStarted : (tileOf 0 0 accMulStarted).muls.map (fun m => m.acc) = [false] := by decide +kernel

theorem exec_accMulState : exec (.tileInstrStart 0 0 .clean) accMulState = .next accMulStarted := by
  obtain ⟨-, -, hn⟩ := tileNext_accMulState
  change execTileInstrStart 0 0 .clean accMulState = _
  rw [execTileInstrStart, hn]
  rfl

/-- Refutes O18: `accMul` starts on an EMPTY bank, and the run in the tile has ACC clear, while the statement gives it the
ACC of the instruction. -/
theorem not_tileEvents : ¬ Obligations.TileEvents := by
  unfold Obligations.TileEvents
  rintro ⟨h, -⟩
  obtain ⟨hd, hm, hn⟩ := tileNext_accMulState
  obtain ⟨hmode, hgood⟩ := accMulState_ready
  obtain ⟨t, ht, -, hmul⟩ := h 0 0 accMul accMulState hd hm hn hmode hgood
  obtain rfl : accMulStarted = t := Host.Outcome.next.inj (exec_accMulState.symm.trans ht)
  obtain ⟨-, -, hruns⟩ := hmul 0 rfl
  have hacc := acc_accMulStarted
  rw [hruns] at hacc
  revert hacc
  decide +kernel

end Sys2Proof.Proofs.TileEvents
end

section
/-! PROOFS. MM. instructions enter the queue of every tile they name (TileIssue). -/

namespace Sys2Proof.Proofs.TileIssue

open Sys2Proof Sys2Proof.Machine Sys2Proof.Laws.State Sys2Proof.Laws.Ops Sys2Proof.Proofs.Tables
  Sys2Proof.Proofs.UnitIssue Sys2Proof.Proofs.DataMemory Sys2Proof.Proofs.Counters Sys2Proof.Proofs.VectorEngine

variable {s t : State} {b : Bay} {lt : Lt} {m : BitVec 8} {op : TileOp} {c : Instr}

/-! ### Tiles of a bay -/

theorem tileOf_updTile {f : Tile → Tile} : tileOf b lt (updTile b lt f s) = f (tileOf b lt s) := by
  simp [tileOf, updTile]

theorem tileOf_updTile_ne {f : Tile → Tile} {i : Lt} (h : i ≠ lt) : tileOf b i (updTile b lt f s) = tileOf b i s := by
  have hv : lt.val ≠ i.val := fun e => h (Fin.ext e.symm)
  simp [tileOf, updTile, hv]

theorem onlyBay_updTile {f : Tile → Tile} : onlyBay b s (updTile b lt f s) := onlyBay_updBay

theorem strm_updTile {f : Tile → Tile} {st : Strm} : (updTile b lt f s).strm b st = s.strm b st := by
  cases st <;> exact strm_updBay

theorem tileOf_updStrm {st : Strm} {f : Stream → Stream} : tileOf b lt (s.updStrm b st f) = tileOf b lt s := by
  cases st <;> simp [tileOf, State.updStrm, Bays.setStrm]

theorem tileOf_retire {st : Strm} : tileOf b lt (retire b st s) = tileOf b lt s := tileOf_updStrm

theorem tileOf_congr (h : (t.bay b).tiles = (s.bay b).tiles) : tileOf b lt t = tileOf b lt s := by
  simp only [tileOf, h]

/-! ### The queues of the tiles a mask names (R78) -/

theorem tilesFull_eq_false (h : ∀ i : Lt, m.getLsbD i = true → (tileOf b i s).queue.length < 8) : tilesFull b m s = false := by
  simp only [tilesFull, List.any_eq_false, List.mem_finRange, forall_const, Bool.and_eq_true, decide_eq_true_eq, not_and,
    Nat.not_le]
  exact h

theorem onlyBay_tilePush : onlyBay b s (tilePush b m op s) :=
  onlyBay_trans onlyBay_updBay (onlyBay_trans onlyBay_countIssue onlyBay_retire)

theorem bay_tilePush :
    (tilePush b m op s).bay b =
      { issued (s.bay b) with
        tiles := (s.bay b).tiles.mapFinIdx (fun i t _ =>
          if m.getLsbD i then { t with queue := t.queue ++ [tileEnt b op s] } else t) } := by
  simp [tilePush, retire, State.updStrm, countIssue, issued, Bays.setStrm, Bays.strm]

theorem strm_x_tilePush : (tilePush b m op s).strm b .x = (s.strm b .x).next := by
  simp [State.strm, bay_tilePush, Bays.strm, issued]

theorem strm_a_tilePush : (tilePush b m op s).strm b .a = s.strm b .a := by
  simp [State.strm, bay_tilePush, Bays.strm, issued]

theorem tileOf_tilePush {i : Lt} : tileOf b i (tilePush b m op s) =
    if m.getLsbD i then { tileOf b i s with queue := (tileOf b i s).queue ++ [tileEnt b op s] } else tileOf b i s := by
  simp [tileOf, bay_tilePush]

/-- The entry in every queue the mask names, and the others as they were. -/
theorem queues_tilePush (i : Lt) :
    if m.getLsbD i = true then
      ∃ g : TileEnt, (tileOf b i (tilePush b m op s)).queue = (tileOf b i s).queue ++ [g] ∧ g.op = op ∧
        g.pc = (s.strm b .x).pc ∧ g.quench = quenched b s
    else tileOf b i (tilePush b m op s) = tileOf b i s := by
  rw [tileOf_tilePush]
  split
  · exact ⟨tileEnt b op s, rfl, rfl, rfl, rfl⟩
  · rfl

theorem tileIssue_ready (h : ∀ i : Lt, m.getLsbD i = true → (tileOf b i s).queue.length < 8) :
    tileIssue b m c op s = tilePush b m op s := by
  simp [tileIssue, tilesFull_eq_false h]

theorem tileIssueD_ready {d : Dix} {x : Desc} {f : Desc → TileOp}
    (h : ∀ i : Lt, m.getLsbD i = true → (tileOf b i s).queue.length < 8) (hbad : descBad b [d] s = none)
    (hd : unitDesc b d s = some x) : tileIssueD b m c d f s = tilePush b m (f x) s := by
  simp [tileIssueD, tilesFull_eq_false h, unitRead_of_unitDesc hbad hd]

/-! ### A descriptor that may not be used (R251, R263) -/

/-- The state a descriptor that may not be used leaves: fault 0x44 where its entry is uncorrectable, else 0x43. -/
def descFault (b : Bay) (d : Dix) (s : State) : State :=
  match descBad b [d] s with
  | some o => trap b .x 0x44 (ueAt 0x12 b o s)
  | none => trap b .x 0x43 s

theorem unitRead_refused {d : Dix} {k : Desc → State → State} (h : descBad b [d] s ≠ none ∨ unitDesc b d s = none) :
    unitRead b d k s = descFault b d s := by
  unfold unitRead descRead descFault
  cases hb : descBad b [d] s with
  | some o => rfl
  | none =>
    have hd : unitDesc b d s = none := h.resolve_left (fun h => h hb)
    simp [hd]

theorem ringOnly_descFault {d : Dix} : ringOnly s (descFault b d s) := by
  unfold descFault
  split
  · exact ringOnly_trap_ueAt
  · exact fun a ha => ringOnly_haltStream (s := s) a ha

theorem strm_descFault {d : Dix} (h : (s.strm b .x).status ≠ .halted) : (descFault b d s).strm b .x =
    { s.strm b .x with
      status := .halted, fault := if descBad b [d] s = none then 0x43#8 else 0x44#8, fpc := (s.strm b .x).pc
      wait := (s.strm b .x).dueWait, haltAge := some (s.bay b).issued } := by
  unfold descFault
  split
  next o ho =>
    rw [strm_trap_live (s := ueAt 0x12 b o s) h, if_neg (by rw [ho]; exact Option.some_ne_none o)]
    rfl
  next hn =>
    rw [strm_trap_live h, if_pos hn]
    rfl

theorem tileOf_trap {code : Nat} (h : (s.strm b .x).status ≠ .halted) : tileOf b lt (trap b .x code s) = tileOf b lt s :=
  tileOf_congr (by simp [bay_trap h, Bays.setStrm])

theorem tileOf_descFault {d : Dix} (h : (s.strm b .x).status ≠ .halted) : tileOf b lt (descFault b d s) = tileOf b lt s := by
  unfold descFault
  split
  · exact tileOf_trap (s := ueAt 0x12 b _ s) h
  · exact tileOf_trap h

/-! ### The obligation -/

/-- The X-stream with the counter marked as awaiting a result, or as it is. -/
def markedX (x : Stream) : Option Ctr → Stream
  | some cn => x.mark cn true
  | none => x

/-- The state `u` differs from `s` in that mark at most. -/
def Marked (b : Bay) (k : Option Ctr) (s u : State) : Prop :=
  onlyBay b s u ∧ u.strm b .x = markedX (s.strm b .x) k ∧ u.strm b .a = s.strm b .a ∧ (u.bay b).tiles = (s.bay b).tiles ∧
    quenched b u = quenched b s

theorem marked_none : Marked b none s s := ⟨onlyBay_refl, rfl, rfl, rfl, rfl⟩

theorem marked_some {cn : Ctr} : Marked b (some cn) s (s.updStrm b .x (fun x => x.mark cn true)) :=
  ⟨onlyBay_updBay, strm_updStrm, strm_updStrm_ne (.inr (by decide)), by simp [State.updStrm, Bays.setStrm], rfl⟩

/-- What an instruction that enters the queues of a mask leaves, from a state that may differ in its marked counter. -/
theorem tilePush_spec {u : State} {k : Option Ctr} (hu : Marked b k s u) :
    onlyBay b s (tilePush b m op u) ∧ ((tilePush b m op u).strm b .x).pc = (s.strm b .x).next.pc ∧
      ((tilePush b m op u).strm b .x).ctr = (s.strm b .x).ctr ∧ (tilePush b m op u).strm b .a = s.strm b .a ∧
      (∀ cn, k = some cn → ((tilePush b m op u).strm b .x).busy.getLsbD cn = true) ∧
      ∀ i : Lt, if m.getLsbD i = true then
          ∃ g : TileEnt, (tileOf b i (tilePush b m op u)).queue = (tileOf b i s).queue ++ [g] ∧ g.op = op ∧
            g.pc = (s.strm b .x).pc ∧ g.quench = quenched b s
        else tileOf b i (tilePush b m op u) = tileOf b i s := by
  obtain ⟨hu, hx, ha, ht, hq⟩ := hu
  refine ⟨onlyBay_trans hu onlyBay_tilePush, ?_, ?_, strm_a_tilePush.trans ha, ?_, fun i => ?_⟩
  · rw [strm_x_tilePush, hx]
    cases k <;> rfl
  · rw [strm_x_tilePush, hx]
    cases k <;> rfl
  · rintro cn rfl
    rw [strm_x_tilePush, hx]
    exact (getLsbD_setBit cn.isLt).trans (if_pos rfl)
  · have hpc : (u.strm b .x).pc = (s.strm b .x).pc := by
      rw [hx]
      cases k <;> rfl
    rw [← tileOf_congr (t := u) (s := s) ht, ← hpc, ← hq]
    exact queues_tilePush i

theorem mmCfg_spec {imm : W32} :
    onlyBay b s (retire b .x (updTile b lt (fun t => t.configure imm) s)) := onlyBay_trans onlyBay_updTile onlyBay_retire

theorem cfg_configure {x : Tile} {imm : W32} : (x.configure imm).cfg = imm ∧ (x.configure imm).cpt = x.cpt := by
  unfold Tile.configure
  split <;> exact ⟨rfl, rfl⟩

theorem sbufs_configure {x : Tile} {imm : W32} (h : imm.toNat % 8 ≠ x.cfg.toNat % 8) :
    (x.configure imm).s0.st = .empty ∧ (x.configure imm).s1.st = .empty := by
  have hm : ¬ bitsAt imm.toNat 2 0 = x.mode := by simpa [Tile.mode, bitsAt] using h
  rw [Tile.configure, if_neg hm]
  exact ⟨rfl, rfl⟩

/-- Settles O17: each instruction comes to `tilePush`, MM.STAT's from a state with its counter marked; MM.CFG writes TCFG;
a descriptor that may not be used leaves `descFault`. -/
theorem tileIssue : Obligations.TileIssue := by
  unfold Obligations.TileIssue
  refine ⟨?_, ?_, ?_⟩
  · intro b lt mask buf resume acc ob fd fo n1 e r cn dx d s c m op named hmem hm hfree hnamed hroom hquiet
    simp only [List.mem_cons, Prod.mk.injEq, List.not_mem_nil, or_false] at hmem
    obtain ⟨u, k, hu, hexec, hk⟩ : ∃ u k, Marked b k s u ∧ exec c s = .next (tilePush b m op u) ∧
        (c = .mmStat b lt r cn → k = some cn) := by
      rcases hmem with ⟨rfl, rfl, rfl, rfl⟩ | ⟨rfl, rfl, rfl, rfl⟩ | ⟨rfl, rfl, rfl, rfl⟩ | ⟨rfl, rfl, rfl, rfl⟩ |
        ⟨rfl, rfl, rfl, rfl⟩ | ⟨rfl, rfl, rfl, rfl⟩ | ⟨rfl, rfl, rfl, rfl⟩
      · exact ⟨s, none, marked_none, congrArg Host.Outcome.next ((issue_ready hm free_nil).trans (tileIssue_ready hroom)), nofun⟩
      · obtain ⟨hbad, hd⟩ := hnamed rfl
        exact ⟨s, none, marked_none,
          congrArg Host.Outcome.next ((issue_ready hm free_nil).trans (tileIssueD_ready hroom hbad hd)), nofun⟩
      · obtain ⟨hbad, hd⟩ := hnamed rfl
        exact ⟨s, none, marked_none,
          congrArg Host.Outcome.next ((issue_ready hm free_nil).trans (tileIssueD_ready hroom hbad hd)), nofun⟩
      · obtain ⟨hbad, hd⟩ := hnamed rfl
        exact ⟨s, none, marked_none,
          congrArg Host.Outcome.next ((issue_ready hm free_nil).trans (tileIssueD_ready hroom hbad hd)), nofun⟩
      · exact ⟨s, none, marked_none, congrArg Host.Outcome.next ((issue_ready hm free_nil).trans (tileIssue_ready hroom)), nofun⟩
      · obtain ⟨hbad, hd⟩ := hnamed rfl
        exact ⟨s, none, marked_none, congrArg Host.Outcome.next
          ((issue_ready hm free_nil).trans ((if_pos (hquiet ⟨n1, rfl⟩)).trans (unitRead_of_unitDesc hbad hd))), nofun⟩
      · exact ⟨_, some cn, marked_some, congrArg Host.Outcome.next ((issue_ready hm (hfree rfl)).trans
          (if_neg (ne_true_of_eq_false (tilesFull_eq_false hroom)))), fun _ => rfl⟩
    obtain ⟨hframe, hpc, hctr, ha, hbusy, hqueues⟩ := tilePush_spec (m := m) (op := op) hu
    exact ⟨_, hexec, hframe, hpc, hctr, ha, fun hc => hbusy cn (hk hc), hqueues⟩
  · intro b lt imm s hm hq
    refine ⟨_, congrArg Host.Outcome.next ((issue_ready hm free_nil).trans (if_pos hq)), mmCfg_spec, ?_, ?_, ?_, ?_, ?_⟩
    · rw [strm_retire, strm_updTile]
    · rw [tileOf_retire, tileOf_updTile]
      exact cfg_configure.1
    · rw [tileOf_retire, tileOf_updTile]
      exact cfg_configure.2
    · intro i hi
      rw [tileOf_retire, tileOf_updTile_ne hi]
    · intro h
      rw [tileOf_retire, tileOf_updTile]
      exact sbufs_configure h
  · intro b lt mask buf resume acc ob fd fo n1 e dx s c hc hm hroom hquiet hbad
    have hlive : (s.strm b .x).status ≠ .halted := status_ne_halted_of_mayIssue hm
    have hentry : ∀ {m : BitVec 8} {f : Desc → TileOp}, tileIssueD b m c dx f s = descFault b dx s := fun {m f} => by
      rw [tileIssueD, tilesFull_eq_false fun i _ => hroom i]
      exact unitRead_refused hbad
    have hexec : exec c s = .next (descFault b dx s) := by
      simp only [List.mem_cons, List.not_mem_nil, or_false] at hc
      rcases hc with rfl | rfl | rfl | rfl
      · exact congrArg Host.Outcome.next ((issue_ready hm free_nil).trans hentry)
      · exact congrArg Host.Outcome.next ((issue_ready hm free_nil).trans hentry)
      · exact congrArg Host.Outcome.next ((issue_ready hm free_nil).trans hentry)
      · exact congrArg Host.Outcome.next
          ((issue_ready hm free_nil).trans ((if_pos hquiet).trans (unitRead_refused hbad)))
    exact ⟨_, hexec, ringOnly_descFault, strm_descFault hlive, fun i => tileOf_descFault hlive⟩

end Sys2Proof.Proofs.TileIssue
end

section
/-! PROOFS. The power manager: clock switches, caps and the supply's states (DvfsSteps, ThermalGong, SupplyStates). -/

namespace Sys2Proof.Proofs.PowerManager

open Sys2Proof Sys2Proof.Machine Sys2Proof.Laws.State Sys2Proof.Laws.Memory Sys2Proof.Laws.Ops Sys2Proof.Proofs.Tables

variable {s t : State} {b : Bay} {st : Strm}

/-! ### What a throttle event leaves (R316, R320) -/

theorem run_writeEnts {q : Nat} {l : List Nat} : (writeEnts q l s).run = s.run := by
  obtain ⟨r, h⟩ := writeEnts_frame (s := s) (q := q) (l := l)
  rw [h]

theorem run_recRoom : ∃ v, (recRoom s).run = { s.run with replayable := v } := by
  unfold recRoom
  split
  · exact ⟨_, rfl⟩
  · simp only [Run.unreplayable]
    split
    · exact ⟨_, rfl⟩
    · exact ⟨_, rfl⟩

/-- Recording changes nothing of the run but REPLAYABLE. -/
theorem run_record {ty arg len payload : Nat} : ∃ v, (record ty arg len payload s).run = { s.run with replayable := v } := by
  unfold record
  split
  · obtain ⟨v, h⟩ := run_recRoom (s := s)
    exact ⟨v, run_writeEnts.trans h⟩
  · exact ⟨_, rfl⟩

theorem pwr_record {ty arg len payload : Nat} : (record ty arg len payload s).pwr = s.pwr := by
  obtain ⟨r, h⟩ := record_frame (s := s) (ty := ty) (arg := arg) (len := len) (payload := payload)
  rw [h]

theorem beat_record {ty arg len payload : Nat} : (record ty arg len payload s).beat = s.beat := by
  obtain ⟨r, h⟩ := record_frame (s := s) (ty := ty) (arg := arg) (len := len) (payload := payload)
  rw [h]

theorem pwr_throttle {code unit level : Nat} : (throttle code unit level s).pwr = s.pwr := pwr_record

theorem event_replayable {r : Run} {v : Bool} {code unit beat : Nat} :
    ∃ w, ({ r with replayable := v } : Run).event code unit beat = { r.event code unit beat with replayable := w } := by
  unfold Run.event
  dsimp only
  split <;> exact ⟨_, rfl⟩

theorem run_throttle {code unit level : Nat} : (throttle code unit level s).run =
    { s.run.event code unit s.beatNat with replayable := (throttle code unit level s).run.replayable } := by
  obtain ⟨v, hv⟩ := run_record (s := s) (ty := 0x10) (arg := unit) (len := code) (payload := level)
  have hrun : (throttle code unit level s).run = ({ s.run with replayable := v } : Run).event code unit s.beatNat := by
    simp only [throttle, strobe, hv, State.beatNat, beat_record]
  obtain ⟨w, hw⟩ := event_replayable (r := s.run) (v := v) (code := code) (unit := unit) (beat := s.beatNat)
  rw [hrun, hw]

/-! ### Clock switches and raises (R414, R415) -/

theorem startRaise_frame : ∃ r : Vector (Option (Nat × Nat)) 12, startRaise s b = { s with pwr := { s.pwr with raise := r } } := by
  unfold startRaise
  split
  · exact ⟨_, rfl⟩
  · exact ⟨_, rfl⟩

/-- Starting raises changes nothing but which are under way. -/
theorem startRaises_frame : ∃ r : Vector (Option (Nat × Nat)) 12, startRaises s = { s with pwr := { s.pwr with raise := r } } := by
  unfold startRaises
  split
  · exact ⟨_, rfl⟩
  · refine List.foldlRecOn (motive := fun t : State => ∃ r, t = { s with pwr := { s.pwr with raise := r } }) _ _
      ⟨s.pwr.raise, rfl⟩ ?_
    rintro _ ⟨r, rfl⟩ b -
    obtain ⟨r', h⟩ := startRaise_frame (s := { s with pwr := { s.pwr with raise := r } }) (b := b)
    exact ⟨r', h⟩

theorem pwr_switchClock {code k : Nat} : (switchClock code b k s).pwr =
    { s.pwr with step := s.pwr.step.set b k, raise := s.pwr.raise.set b none, pause := s.pwr.pause.set b 32 } := pwr_throttle

theorem getElem_set_ne {α : Type} {v : Vector α 12} {x : α} {m : Bay} (h : m ≠ b) : (v.set b x)[m] = v[m] := by
  have hv : b.val ≠ m.val := fun e => h (Fin.ext e.symm)
  simp [hv]

theorem dvfsClockSwitch_spec {code : Nat} (he : atEdge s = true) (hr : s.pwr.raise[b] = some (0, code)) :
    ∃ t, exec (.dvfsClockSwitch b) s = .next t ∧ ringOnly s t ∧ t.pwr.step[b] = s.pwr.step[b] + 1 ∧ t.pwr.pause[b] = 32 ∧
      (∀ m : Bay, m ≠ b → t.pwr.step[m] = s.pwr.step[m] ∧ t.pwr.pause[m] = s.pwr.pause[m]) ∧
      t.run = { s.run.event code b.val s.beatNat with replayable := t.run.replayable } ∧
      (∀ (m : Bay) (st : Strm), t.strm m st = s.strm m st) := by
  have hex : exec (.dvfsClockSwitch b) s = .next (startRaises (switchClock code b (s.pwr.step[b] + 1) s)) := by
    change execDvfsClockSwitch b s = _
    simp only [execDvfsClockSwitch, hr, he, if_true]
  obtain ⟨r, hs⟩ := startRaises_frame (s := switchClock code b (s.pwr.step[b] + 1) s)
  refine ⟨_, hex, ?_⟩
  rw [hs]
  refine ⟨fun a ha => ringOnly_throttle a ha, ?_, ?_, fun m hm => ⟨?_, ?_⟩, run_throttle, fun m st => strm_throttle⟩
  · simp [pwr_switchClock]
  · simp [pwr_switchClock]
  · simpa [pwr_switchClock] using getElem_set_ne hm
  · simpa [pwr_switchClock] using getElem_set_ne hm

/-! ### Caps (R418, R419) -/

theorem foldl_min_le_init {l : List Nat} {n : Nat} : l.foldl min n ≤ n := by
  induction l generalizing n with
  | nil => exact Nat.le_refl n
  | cons x l ih => exact Nat.le_trans ih (Nat.min_le_left _ _)

theorem foldl_min_le_mem {l : List Nat} {n x : Nat} (h : x ∈ l) : l.foldl min n ≤ x := by
  induction l generalizing n with
  | nil => cases h
  | cons y l ih =>
    rcases List.mem_cons.1 h with rfl | h
    · exact (foldl_min_le_init (l := l)).trans (Nat.min_le_right n x)
    · exact ih h

theorem le_foldl_min {l : List Nat} {n k : Nat} (hn : k ≤ n) (h : ∀ x ∈ l, k ≤ x) : k ≤ l.foldl min n := by
  induction l generalizing n with
  | nil => exact hn
  | cons y l ih =>
    exact ih (Nat.le_min.2 ⟨hn, h y (List.mem_cons_self ..)⟩) (fun x hx => h x (List.mem_cons_of_mem _ hx))

/-- The lowest caps, if below 15, go up by one. -/
theorem getElem_raisePwr {v : Vector Nat 12} {m : Bay} :
    (raisePwr v)[m] = if (∀ n : Bay, v[m] ≤ v[n]) ∧ v[m] < 15 then v[m] + 1 else v[m] := by
  have hmem : ∀ n : Bay, v[n] ∈ v.toList := fun n => by simp
  have hlow : ∀ n : Bay, v.toList.foldl min 15 ≤ v[n] := fun n => foldl_min_le_mem (hmem n)
  have hall : (∀ n : Bay, v[m] ≤ v[n]) → v[m] < 15 → v.toList.foldl min 15 = v[m] := by
    intro h h15
    refine Nat.le_antisymm (hlow m) (le_foldl_min (Nat.le_of_lt h15) fun x hx => ?_)
    obtain ⟨i, hi, rfl⟩ := List.getElem_of_mem hx
    simpa using h ⟨i, by simpa using hi⟩
  have h15 : v.toList.foldl min 15 ≤ 15 := foldl_min_le_init
  by_cases h15' : v.toList.foldl min 15 = 15
  · have hv : raisePwr v = v := if_pos h15'
    rw [hv, if_neg]
    rintro ⟨h, hlt⟩
    have := hall h hlt
    omega
  · have hv : raisePwr v = v.map (fun c => if c = v.toList.foldl min 15 then v.toList.foldl min 15 + 1 else c) := if_neg h15'
    have hget : (raisePwr v)[m] = if v[m] = v.toList.foldl min 15 then v.toList.foldl min 15 + 1 else v[m] := by simp [hv]
    rw [hget]
    by_cases he : v[m] = v.toList.foldl min 15
    · rw [if_pos he, if_pos ⟨fun n => he ▸ hlow n, by omega⟩, he]
    · rw [if_neg he, if_neg (fun ⟨h, hlt⟩ => he (hall h hlt).symm)]

/-- Settles O37: a clock switch is `dvfsClockSwitch_spec`, and each other row changes one field of the manager. -/
theorem dvfsSteps : Obligations.DvfsSteps := by
  unfold Obligations.DvfsSteps
  refine ⟨fun b code s he hr => dvfsClockSwitch_spec he hr, ?_, ?_, ?_, ?_⟩
  · intro b s he hs
    exact congrArg Host.Outcome.next (if_pos (by simp [he, hs]))
  · rintro b cap s c he (⟨rfl, hh, h4, hc⟩ | ⟨rfl, hh, h64, hlt, rfl⟩)
    · refine ⟨_, congrArg Host.Outcome.next (if_pos ?_), rfl, ?_, fun m hm => getElem_set_ne hm, rfl⟩
      · simpa [he, hh, hc] using h4
      · simp [updPwr, hc]
    · refine ⟨_, congrArg Host.Outcome.next (if_pos ?_), rfl, ?_, fun m hm => getElem_set_ne hm, rfl⟩
      · simpa [he, hh] using ⟨h64, hlt⟩
      · simp [updPwr]
  · intro s he hq
    exact ⟨_, congrArg Host.Outcome.next (if_pos (by simp [he, hq])), rfl, rfl, rfl, fun m => getElem_raisePwr⟩
  · intro s he hh hl
    exact ⟨_, congrArg Host.Outcome.next (if_pos (by simp [he, hh, hl])), rfl, rfl, rfl, rfl⟩

/-! ### Gong by a fault of device-fatal class (R430) -/

/-- The state the first Gong makes of the one in which it has been counted and recorded. -/
def gongRaised (code : Nat) (s : State) : State :=
  let s := s.mapBays (fun _ x => { x with a := x.a.gonged code, x := x.x.gonged code, moved := true })
  { s with
    faults := { s.faults with gong := BitVec.ofNat 8 code, gongNow := true }
    hdr := { s.hdr with brackets := openBrackets s.hdr.brackets }
    pwr := { s.pwr with step := Vector.replicate 12 0, raise := Vector.replicate 12 none } }

theorem gong_recFault {arg code : Nat} {fpc : BitVec 15} : (recFault arg code fpc s).faults = s.faults := by
  obtain ⟨r, hr⟩ := record_frame (s := s) (ty := 0x11) (arg := arg) (len := code) (payload := fpc.toNat)
  rw [recFault, hr]

theorem gong_first {code bay : Nat} (h : s.faults.gong = 0#8) :
    gong code bay s = gongRaised code (recFault 15 code 0#15 (countFault code bay 3 s)) := by
  have hg : (recFault 15 code 0#15 (countFault code bay 3 s)).faults.gong = 0#8 := by
    rw [gong_recFault, gong_countFault, h]
  unfold gong
  rw [if_neg (by simp [hg]), if_pos hg]
  rfl

theorem strm_gongRaised {code : Nat} : (gongRaised code s).strm b st = (s.strm b st).gonged code := by
  have hb : (gongRaised code s).strm b st =
      (s.mapBays (fun _ x => { x with a := x.a.gonged code, x := x.x.gonged code, moved := true })).strm b st := rfl
  rw [hb, State.strm, bay_mapBays]
  cases st <;> rfl

theorem strm_recFault {arg code : Nat} {fpc : BitVec 15} : (recFault arg code fpc s).strm b st = s.strm b st := strm_record

/-- What a first Gong leaves, as ThermalGong states it. -/
theorem gong_spec {code : Nat} {c8 : Byte} (hc : BitVec.ofNat 8 code = c8) (h : t.faults.gong = 0#8)
    (hr : ringOnly s t) (hs : ∀ m st, t.strm m st = s.strm m st) :
    ringOnly s (gong code 15 t) ∧ (gong code 15 t).faults.gong = c8 ∧
      (∀ (m : Bay) (st : Strm), (gong code 15 t).strm m st =
        { s.strm m st with status := .halted, fault := c8, fpc := (s.strm m st).pc, wait := none, haltAge := none }) ∧
      ∀ m : Bay, (gong code 15 t).pwr.step[m] = 0 := by
  refine ⟨fun a ha => (ringOnly_gong a ha).trans (hr a ha), ?_, fun m st => ?_, fun m => ?_⟩
  · rw [gong_first h]
    exact hc
  · rw [gong_first h, strm_gongRaised, strm_recFault, strm_countFault, hs, ← hc]
    rfl
  · rw [gong_first h]
    simp [gongRaised]

/-- A die that did not yet report makes one more. -/
theorem bitsSet_setBit : ∀ (v : BitVec 6) (ps : Fin 6), v.getLsbD ps = false →
    (bitsSet 6 (setBit v ps true)).length = (bitsSet 6 v).length + 1 := by
  decide +kernel

/-- A report takes no die away. -/
theorem bitsSet_le_setBit : ∀ (v : BitVec 6) (ps : Fin 6),
    (bitsSet 6 v).length ≤ (bitsSet 6 (setBit v ps true)).length := by
  decide +kernel

/-- The manager with a die's report noted. -/
def psNoted (ps : Fin 6) (p : Power) : Power :=
  { p with psFault := setBit p.psFault ps true, limit := { p with psFault := setBit p.psFault ps true }.limitNow }

theorem exec_psDieFault {ps : Fin 6} (hc : clocked s = true) : exec (.psDieFault ps) s = .next
    (if (updPwr (psNoted ps) s).pwr.faulty ≤ 2 then
      (if !s.pwr.psFault.getLsbD ps then countFault 0x62 15 3 (updPwr (psNoted ps) s) else updPwr (psNoted ps) s)
    else if (!s.pwr.psFault.getLsbD ps) = true ∧ (updPwr (psNoted ps) s).pwr.faulty = 3 ∨ s.faults.gong = 0#8 then
      gong 0x62 15 (updPwr (psNoted ps) s)
    else updPwr (psNoted ps) s) := congrArg Host.Outcome.next (if_pos hc)

theorem faulty_psNoted {ps : Fin 6} (h : s.pwr.psFault.getLsbD ps = false ∧ s.pwr.faulty = 2 ∨ 3 ≤ s.pwr.faulty) :
    ¬ (updPwr (psNoted ps) s).pwr.faulty ≤ 2 := by
  have hle := bitsSet_le_setBit s.pwr.psFault ps
  have hf : (updPwr (psNoted ps) s).pwr.faulty = (bitsSet 6 (setBit s.pwr.psFault ps true)).length := rfl
  have h0 : s.pwr.faulty = (bitsSet 6 s.pwr.psFault).length := rfl
  rcases h with ⟨hn, h2⟩ | h3
  · have := bitsSet_setBit s.pwr.psFault ps hn
    omega
  · omega

/-- Settles O38: each row raises Gong over a state that differs in the manager's counts only. -/
theorem thermalGong : Obligations.ThermalGong := by
  unfold Obligations.ThermalGong
  constructor
  · intro b b1 b2 ps s c code hrow hg
    have hframe : ∀ f, ringOnly s (updPwr f s) := fun _ _ _ => rfl
    rcases hrow with ⟨rfl, rfl, he, hk⟩ | ⟨rfl, rfl, he, hk⟩ | ⟨rfl, rfl, he, hk⟩ | ⟨rfl, rfl, he, hk⟩ | ⟨rfl, rfl, he, hk⟩ |
      ⟨rfl, rfl, hc, hk⟩
    · exact ⟨_, congrArg Host.Outcome.next (if_pos (by simp [he, hk])), gong_spec rfl hg (hframe _) (fun _ _ => rfl)⟩
    · exact ⟨_, congrArg Host.Outcome.next (if_pos (by simpa [he] using hk)), gong_spec rfl hg (hframe _) (fun _ _ => rfl)⟩
    · exact ⟨_, congrArg Host.Outcome.next (if_pos (by simp [he, hk])), gong_spec rfl hg (hframe _) (fun _ _ => rfl)⟩
    · exact ⟨_, congrArg Host.Outcome.next (if_pos (by simp [he, hk])), gong_spec rfl hg (hframe _) (fun _ _ => rfl)⟩
    · exact ⟨_, congrArg Host.Outcome.next (if_pos (by simp [he, hk])), gong_spec rfl hg (hframe _) (fun _ _ => rfl)⟩
    · refine ⟨_, (exec_psDieFault hc).trans (congrArg Host.Outcome.next ((if_neg (faulty_psNoted hk)).trans
        (if_pos (.inr hg)))), gong_spec rfl hg (hframe _) (fun _ _ => rfl)⟩
  · intro ps s hc hn hf
    have h2 : (updPwr (psNoted ps) s).pwr.faulty ≤ 2 := by
      have hset := bitsSet_setBit s.pwr.psFault ps hn
      have h0 : s.pwr.faulty = (bitsSet 6 s.pwr.psFault).length := rfl
      have h1 : (updPwr (psNoted ps) s).pwr.faulty = (bitsSet 6 (setBit s.pwr.psFault ps true)).length := rfl
      omega
    exact ⟨_, (exec_psDieFault hc).trans (congrArg Host.Outcome.next ((if_pos h2).trans (if_pos (by rw [hn]; rfl)))),
      rfl, rfl, rfl⟩

/-! ### The supply (R411, R422 to R424) -/

theorem wf_putRecord {x : Trust} {i : Nat} {r : BitVec 320} (h : Sparse.wf (fun _ => 0#320) x.journal = true) :
    Sparse.wf (fun _ => 0#320) (x.putRecord i r).journal = true := Laws.Sparse.wf_set h

theorem recordAt_putRecord {x : Trust} {i : Nat} {r : BitVec 320} (h : Sparse.wf (fun _ => 0#320) x.journal = true) :
    recordAt (x.putRecord i r) i = r := (Laws.Sparse.get_set h).trans (if_pos rfl)

theorem recordAt_putRecord_ne {x : Trust} {i j : Nat} {r : BitVec 320} (hj : j ≠ i) :
    recordAt (x.putRecord i r) j = recordAt x j := Laws.Sparse.get_set_ne hj

/-- What the end of hold-up does to the record of a limited write touches the journal and a free value only. -/
theorem cutLimited_frame : ∃ j f, cutLimited s = { s with trust := { s.trust with journal := j }, free := f } := by
  unfold cutLimited
  split
  next w hw =>
    split
    · exact ⟨_, _, rfl⟩
    · unfold burnSome
      rw [hw]
      dsimp only
      split
      · exact ⟨_, _, rfl⟩
      · exact ⟨_, _, rfl⟩
  · exact ⟨_, _, rfl⟩

theorem cutLimited_none (h : s.trust.wlim = none) : cutLimited s = s := by simp [cutLimited, h]

theorem cutLimited_commit {w : Wlim} (h : s.trust.wlim = some w) (hi : w.intentDone = true) :
    (cutLimited s).trust =
      if w.pulse then s.trust.putRecord w.rcd (recordAt s.trust w.rcd ||| 2#320) else s.trust := by
  cases hp : w.pulse <;> simp [cutLimited, burnSome, h, hi, hp]

theorem cutLimited_intent {w : Wlim} (h : s.trust.wlim = some w) (hi : w.intentDone = false) :
    (cutLimited s).trust =
      if w.pulse then
        s.trust.putRecord w.rcd (recordAt s.trust w.rcd ||| (recIntent w.entry w.value &&& BitVec.ofNat 320 (freeVal s)))
      else s.trust := by
  cases hp : w.pulse <;> simp [cutLimited, burnSome, h, hi, hp, drew]

/-- The record of the limited write after hold-up, and every other one. -/
theorem records_cutLimited {w : Wlim} (h : s.trust.wlim = some w) (hwf : Sparse.wf (fun _ => 0#320) s.trust.journal = true) :
    (∀ j : Nat, j ≠ w.rcd → recordAt (cutLimited s).trust j = recordAt s.trust j) ∧
      (w.intentDone = true → recordAt (cutLimited s).trust w.rcd =
        recordAt s.trust w.rcd ||| (if w.pulse = true then 2#320 else 0#320)) ∧
      (w.intentDone = false → ∃ v : BitVec 320,
        recordAt (cutLimited s).trust w.rcd = recordAt s.trust w.rcd ||| (recIntent w.entry w.value &&& v) ∧
          (w.pulse = false → v = 0#320)) := by
  refine ⟨fun j hj => ?_, fun hi => ?_, fun hi => ?_⟩
  · cases hi : w.intentDone with
    | true =>
      rw [cutLimited_commit h hi]
      split
      · exact recordAt_putRecord_ne hj
      · rfl
    | false =>
      rw [cutLimited_intent h hi]
      split
      · exact recordAt_putRecord_ne hj
      · rfl
  · rw [cutLimited_commit h hi]
    split
    · exact recordAt_putRecord hwf
    · exact BitVec.or_zero.symm
  · rw [cutLimited_intent h hi]
    cases hp : w.pulse with
    | true => exact ⟨_, recordAt_putRecord hwf, nofun⟩
    | false => exact ⟨0#320, by simp, fun _ => rfl⟩

theorem powerOff_frame {p : PwrSt} : powerOff p s =
    { State.reset with
      pending := s.pending, free := s.free + 1, tmx := { Tmx.reset with seed := s.free }
      tap := { Tap.reset with trstLow := s.tap.trstLow }
      trust := { Trust.reset with fuses := s.trust.fuses, journal := s.trust.journal, romVer := s.trust.romVer }
      pwr := { Power.reset with st := p, ramp := 0, refclk := false, regsOn := false, inputMv := s.pwr.inputMv } } := rfl

theorem limitNow_brownout {p : Power} : ({ p with brownout := true } : Power).limitNow ≤ 2000 := by
  simp only [Power.limitNow, Bool.true_or, if_true]
  exact Nat.min_le_left _ _

/-- Settles O39: each row as its guard allows it; the journal by `records_cutLimited`. -/
theorem supplyStates : Obligations.SupplyStates := by
  unfold Obligations.SupplyStates
  refine ⟨?_, ?_, ?_, ?_, ?_, ?_, ?_, ?_, ?_, ?_⟩
  · intro mv s hst hmv
    exact congrArg Host.Outcome.next (if_pos (by simp [hst, hmv]))
  · intro s hst hr hclk
    refine ⟨_, congrArg Host.Outcome.next (if_pos ?_), by simp [updPwr]⟩
    have hgo : s.pwr.ramp ≠ 2 ∨ s.pwr.refclk = true := (em (s.pwr.ramp = 2)).symm.imp id hclk
    simpa [hst, hr] using hgo
  · exact fun s => rfl
  · intro s hst hr
    exact ⟨_, congrArg Host.Outcome.next (if_pos (by simp [hst, hr])), rfl, rfl, rfl⟩
  · intro mv s hst hmv
    exact ⟨_, congrArg Host.Outcome.next (if_pos (by simp [hst, hmv])), rfl⟩
  · intro mv s hst hmv
    exact congrArg Host.Outcome.next (if_pos (by simp [hst, hmv]))
  · intro s hst hon
    refine ⟨_, congrArg Host.Outcome.next (if_pos (by simp [hst, hon])), ?_, fun hw => ?_, fun w hw hwf => ?_⟩
    · obtain ⟨j, f, h⟩ := cutLimited_frame (s := s)
      rw [h]
      rfl
    · rw [cutLimited_none hw]
      rfl
    · exact records_cutLimited hw hwf
  · intro s hst hoff
    exact congrArg Host.Outcome.next (if_pos (by simp [hst, hoff]))
  · intro s he h36 h40 hb
    exact ⟨_, congrArg Host.Outcome.next (if_pos (by simp [he, h36, h40, hb])), rfl, rfl, rfl, limitNow_brownout, rfl⟩
  · intro s he h40 hb
    exact ⟨_, congrArg Host.Outcome.next (if_pos (by simp [he, h40, hb])), rfl, rfl, rfl⟩

end Sys2Proof.Proofs.PowerManager
end

section
/-! PROOFS. The refutation of MarkersAndEdges: at an edge whose sample reads 40 V or above a limited write that had to wait
begins its pulses, so an edge does not leave the security die as it is. -/

namespace Sys2Proof.Proofs.MarkersAndEdges

open Sys2Proof Sys2Proof.Machine

/-- A limited write of the debug policy that waits for 40 V: its pulse has not begun. -/
def waitingWrite : Wlim :=
  { req := { slot := 0, mute := false, role := 2, lseq := 0, tid := 0#16, ix := 0x9010#16, sub := 4#8, value := [1#8], head := [] }
    entry := 4, value := 1#256, rcd := 0, intentDone := false, pulse := false }

/-- After reset, with that write under way. -/
def waitingState : State := { State.reset with trust := { Trust.reset with wlim := some waitingWrite } }

/-- The readings of a position whose input reads 48 V. -/
def soundSample : Sample :=
  ⟨Vector.replicate 12 (Vector.replicate 4 0), Vector.replicate 2 0, Vector.replicate 12 0, 0, 48000, 0, 0#6, 0, 0⟩

/-- Whether an outcome leaves a limited write whose pulse has begun. -/
def pulseBegun : Host.Outcome State Fault Refusal → Bool
  | .next t => t.trust.wlim.any (fun w => w.pulse)
  | _ => false

theorem pulseBegun_beatEdge : clocked waitingState = true ∧ pulseBegun (exec (.beatEdge soundSample) waitingState) = true := by
  decide +kernel

/-- Refutes O40: from `waitingState` the edge begins the pulse of the limited write, while the statement keeps the security
die. -/
theorem not_markersAndEdges : ¬ Obligations.MarkersAndEdges := by
  unfold Obligations.MarkersAndEdges
  rintro ⟨-, -, -, h⟩
  obtain ⟨hclk, hpulse⟩ := pulseBegun_beatEdge
  obtain ⟨t, ht, -, -, -, -, -, -, -, -, htrust, -⟩ := h soundSample waitingState hclk
  rw [ht] at hpulse
  simp only [pulseBegun, htrust] at hpulse
  revert hpulse
  decide +kernel

end Sys2Proof.Proofs.MarkersAndEdges
end

section
/-! PROOFS. What the link's sending, the closing of sessions and the answer to an OD write change. -/

namespace Sys2Proof.Proofs.Answers
open Sys2Proof Sys2Proof.Machine Sys2Proof.Laws.State Sys2Proof.Laws.Memory Sys2Proof.Laws.Ops

/-! ### Sending changes the link alone -/

/-- Nothing but the link has changed. -/
def LinkOnly (s t : State) : Prop := t = { s with link := t.link }

theorem LinkOnly.refl (s : State) : LinkOnly s s := rfl

theorem LinkOnly.of_link (s : State) (l : Link) : LinkOnly s { s with link := l } := rfl

theorem LinkOnly.trans {s t u : State} (h : LinkOnly s t) (k : LinkOnly t u) : LinkOnly s u := by
  unfold LinkOnly at *
  rw [k, h]

theorem linkOnly_updLink (f : Link → Link) (s : State) : LinkOnly s (updLink f s) := rfl

theorem linkOnly_pushFrame (f : OutFrame) (s : State) : LinkOnly s (pushFrame f s) := rfl

theorem linkOnly_sendFrame (f : OutFrame) (s : State) : LinkOnly s (sendFrame f s) := rfl

theorem linkOnly_sendReady (n : Nat) (s : State) : LinkOnly s (sendReady n s) := by
  induction n generalizing s with
  | zero => exact .refl s
  | succ n ih =>
    unfold sendReady
    split
    · split
      · exact ((linkOnly_updLink _ s).trans (linkOnly_pushFrame _ _)).trans (ih _)
      · exact .refl s
    · exact .refl s

theorem linkOnly_flushResps (s : State) : LinkOnly s (flushResps s) := linkOnly_sendReady _ s

theorem linkOnly_respond (i : Slot) (lseq : Nat) (f : OutFrame) (s : State) : LinkOnly s (respond i lseq f s) :=
  (linkOnly_updLink _ s).trans (linkOnly_flushResps _)

theorem linkOnly_sendLink (opc : Byte) (arg : BitVec 64) (v : List Byte) (s : State) : LinkOnly s (sendLink opc arg v s) := rfl

theorem linkOnly_sendCredit (s : State) : LinkOnly s (sendCredit s) := rfl

theorem linkOnly_creditBack (ch : Option (Fin 8)) (s : State) : LinkOnly s (creditBack ch s) := by
  unfold creditBack
  split
  · dsimp only
    split
    · exact (linkOnly_updLink _ s).trans (linkOnly_sendCredit _)
    · exact linkOnly_updLink _ s
  · exact .refl s

theorem linkOnly_creditsBack (l : List (Option (Fin 8))) (s : State) :
    LinkOnly s (l.foldl (fun (s : State) c => creditBack c s) s) := by
  induction l generalizing s with
  | nil => exact .refl s
  | cons c l ih => exact (linkOnly_creditBack c s).trans (ih _)

/-! ### A frame that is built is sent, or waits to be (R336 to R338) -/

/-- Some frame built, or sent and unacknowledged, has the property. -/
def SendsIn (l : Link) (p : OutFrame → Prop) : Prop := ∃ g ∈ l.out ++ l.unacked, p g

/-- Sending what may be sent gives frames an LSEQ and their bytes, no more. -/
theorem sends_flush {p : OutFrame → Prop} (hp : ∀ g q, p g → p (g.sent q)) {l : Link} {n : Nat} (h : SendsIn l p) :
    SendsIn (l.flush n) p := by
  induction n generalizing l with
  | zero => exact h
  | succ n ih =>
    unfold Link.flush
    split
    · rename_i f _
      split
      · obtain ⟨g, hg, hpg⟩ := h
        refine ih ?_
        by_cases hf : g = f
        · subst hf
          exact ⟨g.sent l.txNext, by simp, hp g _ hpg⟩
        · refine ⟨g, ?_, hpg⟩
          rcases List.mem_append.1 hg with ho | hu
          · exact List.mem_append_left _ ((List.mem_erase_of_ne hf).2 ho)
          · simp [hu]
      · exact h
    · exact h

theorem sends_pushFrame {p : OutFrame → Prop} {f : OutFrame} {s : State} (hp : ∀ g q, p g → p (g.sent q)) (h : p f) :
    sends (pushFrame f s) p :=
  sends_flush hp ⟨f, List.mem_append_left _ (List.mem_append_right _ (List.mem_singleton_self f)), h⟩

theorem sends_sendFrame {p : OutFrame → Prop} {f : OutFrame} {s : State} (hp : ∀ g q, p g → p (g.sent q)) (h : p (keyed f s)) :
    sends (sendFrame f s) p := sends_pushFrame hp h

/-- The keys of a frame's session are all that building it adds. -/
theorem keyed_eq (f : OutFrame) (s : State) : ∃ k v, keyed f s = { f with key := k, iv := v } := by
  unfold keyed
  split <;> exact ⟨_, _, rfl⟩

/-! ### Closing a session and answering an OD write -/

/-- Nothing has changed but the link, the sessions, the requests being applied, the held inputs and the device's record of
stored values that do not read; no request is taken up. -/
def Answered (s t : State) : Prop :=
  ∃ l x c o g w d, (s.od.cur = none → c = none) ∧ (s.trust.wlim = none → w = none) ∧
    t = { s with
      link := l, sess := x, od := { s.od with cur := c, closeAfter := o }, rcd := { s.rcd with gated := g }
      trust := { s.trust with wlim := w }, ms := { s.ms with dieBad := d } }

theorem Answered.refl (s : State) : Answered s s := ⟨_, _, _, _, _, _, _, id, id, rfl⟩

theorem Answered.trans {s t u : State} (h : Answered s t) (k : Answered t u) : Answered s u := by
  obtain ⟨l, x, c, o, g, w, d, hc, hw, rfl⟩ := h
  obtain ⟨l', x', c', o', g', w', d', hc', hw', rfl⟩ := k
  exact ⟨l', x', c', o', g', w', d', hc' ∘ hc, hw' ∘ hw, rfl⟩

theorem LinkOnly.answered {s t : State} (h : LinkOnly s t) : Answered s t := ⟨_, _, _, _, _, _, _, id, id, h⟩

theorem answered_freeSlot (i : Slot) (s : State) : Answered s (freeSlot i s) := by
  unfold freeSlot
  extract_lets back s₁ s₂ r s₃
  have h : Answered s s₃ := by
    refine ⟨s₃.link, s₃.sess, s₃.od.cur, s₃.od.closeAfter, s₃.rcd.gated, s₃.trust.wlim, s₃.ms.dieBad, ?_, ?_, rfl⟩
    · intro hc
      show s.od.cur.map _ = none
      rw [hc]; rfl
    · intro hw
      show s.trust.wlim.map _ = none
      rw [hw]; rfl
  exact (h.trans (linkOnly_creditsBack _ _).answered).trans (linkOnly_flushResps _).answered

theorem answered_closeSlot (i : Slot) (s : State) : Answered s (closeSlot i s) := by
  unfold closeSlot
  split
  · exact .refl s
  · exact (answered_freeSlot i s).trans (linkOnly_pushFrame _ _).answered

theorem answered_foldl {α : Type} (f : State → α → State) (hf : ∀ s a, Answered s (f s a)) (l : List α) (s : State) :
    Answered s (l.foldl f s) := by
  induction l generalizing s with
  | nil => exact .refl s
  | cons a l ih => exact (hf s a).trans (ih _)

theorem answered_closeLeft (s : State) : Answered s (closeLeft s) :=
  answered_foldl _ (fun s e => by split; exacts [answered_closeSlot _ s, .refl s]) _ s

theorem closeLeft_of_nil {s : State} (h : s.od.closeAfter = []) : closeLeft s = s := by
  unfold closeLeft; rw [h]; rfl

theorem answered_answer (q : OdReq) (n : Nat) (s : State) : Answered s (answer q n s) := by
  unfold answer
  dsimp only
  split
  · exact (linkOnly_creditBack _ s).answered
  · exact ((linkOnly_creditBack _ s).answered.trans (linkOnly_respond _ _ _ _).answered).trans (answered_closeLeft _)

theorem answered_odCure (i : Slot) (ix sub : Nat) (s : State) : Answered s (odCure i ix sub s) :=
  ⟨_, _, _, _, _, _, _, id, id, rfl⟩

/-- With no session waiting for its last response, an answer changes the link alone. -/
theorem linkOnly_answer {q : OdReq} {n : Nat} {s : State} (h : s.od.closeAfter = []) : LinkOnly s (answer q n s) := by
  have hb := linkOnly_creditBack (some 0) s
  unfold answer
  dsimp only
  split
  · exact hb
  · have hr := hb.trans (linkOnly_respond q.slot q.lseq (respFrame q.slot q.tid n []) _)
    rw [closeLeft_of_nil (by rw [hr]; exact h)]
    exact hr

/-- The write being applied is no longer. -/
def noCur (s : State) : State := { s with od := { s.od with cur := none } }

theorem answered_finish (q : OdReq) (n : Nat) (s : State) : Answered (noCur s) (finish q n s) := by
  unfold finish
  dsimp only
  split
  · exact (answered_answer q n _).trans (answered_odCure _ _ _ _)
  · exact answered_answer q n _

theorem finishCur_of_cur {q : OdReq} {n : Nat} {s : State} (h : s.od.cur = some q) : finishCur n s = finish q n s := by
  unfold finishCur; rw [h]

/-- The write being applied is answered: nothing else has changed, and none is being applied. -/
theorem finishCur_spec (n : Nat) (s : State) : Answered (noCur s) (finishCur n s) ∧ (finishCur n s).od.cur = none := by
  unfold finishCur
  split
  · rename_i q h
    have ha := answered_finish q n s
    obtain ⟨l, x, c, o, g, w, d, hc, hw, ht⟩ := ha
    exact ⟨⟨l, x, c, o, g, w, d, hc, hw, ht⟩, by rw [ht]; exact hc rfl⟩
  · rename_i h
    have e : noCur s = s := by
      show { s with od := { s.od with cur := none } } = s
      rw [← h]
    exact ⟨e ▸ .refl s, h⟩

/-- A write whose row takes it is applied and answered with the status of its effect. -/
theorem applyOd_taken {ix sub : Nat} {ok : Nat → Bool} {k : OdReq → Nat → State → State × Nat} {q : OdReq} {s : State}
    (h : odTaken ix sub ok s = some q) : applyOd ix sub ok k s = finishCur (k q (leNat q.value) s).2 (k q (leNat q.value) s).1 := by
  unfold applyOd; rw [h]

/-- What the row of a taken write has found. -/
theorem of_odTaken {ix sub : Nat} {ok : Nat → Bool} {q : OdReq} {s : State} (h : odTaken ix sub ok s = some q) :
    s.od.cur = some q ∧ q.ix.toNat = ix ∧ q.sub.toNat = sub ∧ ok (leNat q.value) = true ∧ canApply q s = true := by
  unfold odTaken at h
  split at h
  · split at h
    · rename_i q' hq hc
      obtain ⟨rfl⟩ := h
      exact ⟨hq, hc⟩
    · simp at h
  · simp at h

/-- A taken write whose effect leaves its state with an OK answer. -/
theorem okOd_taken {ix sub : Nat} {ok : Nat → Bool} {f : OdReq → Nat → State → State} {q : OdReq} {s : State}
    (h : odTaken ix sub ok s = some q) :
    ∃ t, applyOd ix sub ok (fun q n => okOd (f q n)) s = t ∧ Answered (noCur (f q (leNat q.value) s)) t ∧ t.od.cur = none :=
  ⟨_, rfl, by rw [applyOd_taken h]; exact finishCur_spec _ _⟩

theorem applyOd_of_noCur {ix sub : Nat} {ok : Nat → Bool} {k : OdReq → Nat → State → State × Nat} {s : State}
    (h : s.od.cur = none) : applyOd ix sub ok k s = s := by
  simp [applyOd, odTaken, h]

/-- A row leaves a write of another entry alone. -/
theorem applyOd_of_other {ix sub : Nat} {ok : Nat → Bool} {k : OdReq → Nat → State → State × Nat} {q : OdReq} {s : State}
    (h : s.od.cur = some q) (hq : ¬(q.ix.toNat = ix ∧ q.sub.toNat = sub)) : applyOd ix sub ok k s = s := by
  have hn : odTaken ix sub ok s = none := by
    simp only [odTaken, h]
    exact if_neg fun ⟨hi, hs, _⟩ => hq ⟨hi, hs⟩
  unfold applyOd
  rw [hn]

end Sys2Proof.Proofs.Answers
end

section
/-! PROOFS. The states of the time base (BeatStates). -/

namespace Sys2Proof.Proofs.BeatStates

open Sys2Proof Sys2Proof.Machine Sys2Proof.Laws.State Sys2Proof.Laws.Memory Sys2Proof.Laws.Ops Sys2Proof.Proofs.Tables
open Sys2Proof.Proofs.DataMemory Sys2Proof.Proofs.HopNesting Sys2Proof.Proofs.PowerManager Sys2Proof.Proofs.Answers

variable {s t u : State} {b : Bay}

/-! ### What a step at an edge leaves of the faults and the time base -/

/-- The faults, the time base and the OD's values stand as they did. -/
def SameTime (s t : State) : Prop := t.faults = s.faults ∧ t.beat = s.beat ∧ t.od = s.od

theorem SameTime.faults (h : SameTime s t) : t.faults = s.faults := h.1

theorem SameTime.beat (h : SameTime s t) : t.beat = s.beat := h.2.1

theorem SameTime.od (h : SameTime s t) : t.od = s.od := h.2.2

theorem SameTime.refl (s : State) : SameTime s s := ⟨rfl, rfl, rfl⟩

theorem SameTime.trans (h : SameTime s t) (k : SameTime t u) : SameTime s u :=
  ⟨k.faults.trans h.faults, k.beat.trans h.beat, k.od.trans h.od⟩

theorem sameTime_foldl {α : Type} (f : State → α → State) (hf : ∀ s a, SameTime s (f s a)) (l : List α) (s : State) :
    SameTime s (l.foldl f s) := by
  induction l generalizing s with
  | nil => exact .refl s
  | cons a l ih => exact (hf s a).trans (ih _)

theorem sameTime_record {ty arg len payload : Nat} : SameTime s (record ty arg len payload s) := by
  obtain ⟨r, h⟩ := record_frame (s := s) (ty := ty) (arg := arg) (len := len) (payload := payload)
  rw [h]
  exact ⟨rfl, rfl, rfl⟩

theorem sameTime_throttle {code n level : Nat} : SameTime s (throttle code n level s) := sameTime_record

theorem sameTime_diverge {kind q : Nat} : SameTime s (diverge kind q s) := by
  unfold diverge
  split <;> exact ⟨rfl, rfl, rfl⟩

theorem sameTime_checkGap {bar : Nat} : SameTime s (checkGap bar s) := by
  unfold checkGap
  split
  · exact sameTime_diverge
  · exact .refl s

theorem sameTime_strobe {i : Fin 5} : SameTime s (strobe i s) := ⟨rfl, rfl, rfl⟩

theorem sameTime_run {r : Run} : SameTime s { s with run := r } := ⟨rfl, rfl, rfl⟩

theorem sameTime_barEdge {old : Nat} : SameTime s (barEdge old s) := by
  unfold barEdge
  dsimp only
  split
  · exact .refl s
  · exact sameTime_strobe.trans (sameTime_record.trans (sameTime_run.trans sameTime_checkGap))

theorem burnSome_frame : ∃ x f, burnSome s = { s with trust := x, free := f } := by
  unfold burnSome
  split
  · dsimp only
    split
    · exact ⟨_, _, rfl⟩
    · exact ⟨s.trust, s.free, rfl⟩
  · exact ⟨s.trust, s.free, rfl⟩

theorem sameTime_burnSome : SameTime s (burnSome s) := by
  obtain ⟨x, f, h⟩ := burnSome_frame (s := s)
  rw [h]
  exact ⟨rfl, rfl, rfl⟩

theorem sameTime_resumePulses : SameTime s (resumePulses s) := by
  unfold resumePulses
  split
  · split
    · exact sameTime_burnSome (s := { s with trust := _ })
    · exact .refl s
  · exact .refl s

theorem sameTime_lowerBay : SameTime s (lowerBay s b) := by
  unfold lowerBay
  dsimp only
  split
  · exact sameTime_throttle (s := updPwr _ (updPwr _ s))
  · exact .refl s

theorem sameTime_dropRaise : SameTime s (dropRaise s b) := by
  unfold dropRaise
  split <;> exact ⟨rfl, rfl, rfl⟩

theorem sameTime_startRaises : SameTime s (startRaises s) := by
  obtain ⟨r, h⟩ := startRaises_frame (s := s)
  rw [h]
  exact ⟨rfl, rfl, rfl⟩

theorem sameTime_updPwr {f : Power → Power} : SameTime s (updPwr f s) := ⟨rfl, rfl, rfl⟩

theorem sameTime_applyTargets : SameTime s (applyTargets s) := by
  unfold applyTargets
  split
  · exact .refl s
  · exact ((sameTime_foldl _ (fun _ _ => sameTime_lowerBay) _ _).trans
      (sameTime_foldl _ (fun _ _ => sameTime_dropRaise) _ _)).trans sameTime_startRaises

theorem sameTime_stk {k : Vector Stack 12} : SameTime s { s with stk := k } := ⟨rfl, rfl, rfl⟩

theorem sameTime_setTargets : SameTime s (setTargets s) :=
  (sameTime_stk.trans sameTime_updPwr).trans sameTime_applyTargets

theorem sameTime_rcd {r : Rec} : SameTime s { s with rcd := r } := ⟨rfl, rfl, rfl⟩

theorem sameTime_readEntry {q : Nat} : SameTime s (readEntry q s) := by
  obtain ⟨r, h⟩ := landSector_frame (s := s) (a := stageAddr q)
  unfold readEntry staged
  rw [h]
  exact ⟨rfl, rfl, rfl⟩

theorem sameTime_consume : SameTime s (consume s) := by
  unfold consume
  split
  · dsimp only
    split
    · exact sameTime_readEntry.trans sameTime_rcd
    · exact sameTime_readEntry.trans sameTime_rcd
  · exact sameTime_readEntry.trans sameTime_rcd
  · exact .refl s

/-- What is given, if anything is, meets a predicate. -/
def Gives (P : State → Prop) (o : Option State) : Prop := ∀ t, o = some t → P t

theorem gives_none {P : State → Prop} : Gives P none := fun _ h => nomatch h

theorem gives_some {P : State → Prop} (h : P s) : Gives P (some s) := fun _ e => Option.some.inj e ▸ h

theorem gives_ite {P : State → Prop} {c : Prop} [Decidable c] {o p : Option State} (h : Gives P o) (k : Gives P p) :
    Gives P (if c then o else p) := by
  split <;> assumption

/-- A step along the script consumes entries, drops outcomes, counts an unreadable sector or notes a divergence, no more. -/
theorem scriptStep_spec (P : State → Prop) (hc : ∀ u, P u → P (consume u)) (hd : ∀ k q u, P u → P (diverge k q u))
    (hl : ∀ u, P u → P (dropLive u)) (hu : ∀ a r u, P u → P (sectorUe a r u)) (hs : P s) : Gives P (scriptStep s) := by
  unfold scriptStep
  dsimp only
  split
  · exact gives_none
  · refine gives_ite (gives_some (hc _ (hd _ _ _ (hu _ _ _ hs)))) (gives_ite (gives_some (hc _ hs)) (gives_ite ?_ ?_))
    · refine gives_ite (gives_some (hc _ hs)) ?_
      split
      · exact gives_ite (gives_some (hd _ _ _ (hl _ hs))) gives_none
      · exact gives_none
    · refine gives_ite (gives_ite (gives_some (hc _ hs)) ?_) (gives_ite (gives_some (hc _ hs)) ?_)
      · split
        · exact gives_ite (gives_some (hd _ _ _ (hl _ hs))) gives_none
        · exact gives_none
      · split
        · exact gives_ite (gives_some (hc _ (hl _ hs))) (gives_ite (gives_some (hd _ _ _ (hl _ hs)))
            (gives_some (hc _ (hd _ _ _ (hl _ hs)))))
        · exact gives_ite (gives_some (hc _ (hd _ _ _ hs))) gives_none

theorem sameTime_scriptStep (h : scriptStep s = some t) : SameTime s t :=
  scriptStep_spec (SameTime s) (fun _ h => h.trans sameTime_consume) (fun _ _ _ h => h.trans sameTime_diverge)
    (fun _ h => h.trans sameTime_rcd) (fun _ _ _ h => h.trans ⟨rfl, rfl, rfl⟩) (.refl s) t h

theorem sameTime_replayRun {n : Nat} : SameTime s (replayRun n s) := by
  induction n generalizing s with
  | zero => exact .refl s
  | succ n ih =>
    unfold replayRun
    split
    · split
      · rename_i u hu
        exact (sameTime_scriptStep hu).trans ih
      · exact .refl s
    · exact .refl s

theorem sameTime_replayAdvance : SameTime s (replayAdvance s) := sameTime_replayRun

/-- The faults and the OD's values stand as they did, whatever the time base has become. -/
def SameFaults (s t : State) : Prop := t.faults = s.faults ∧ t.od = s.od

theorem SameFaults.trans (h : SameFaults s t) (k : SameFaults t u) : SameFaults s u := ⟨k.1.trans h.1, k.2.trans h.2⟩

theorem SameTime.sameFaults (h : SameTime s t) : SameFaults s t := ⟨h.faults, h.od⟩

theorem sameFaults_updBeat {f : Beat → Beat} : SameFaults s (updBeat f s) := ⟨rfl, rfl⟩

theorem sameFaults_beatExc {code n before : Nat} {off : Int} : SameFaults s (beatExc code n before off s) :=
  sameTime_record.sameFaults

theorem sameFaults_missedReject {e : Entry} {n : Nat} : SameFaults s (missedReject e n s) :=
  sameFaults_updBeat.trans sameFaults_beatExc

theorem sameFaults_lockedEdge : SameFaults s (lockedEdge s) := by
  unfold lockedEdge
  extract_lets before live code s₁ m s₂ rej came s₃
  have h₁ : SameFaults s s₁ := by
    show SameFaults s (if _ then diverge 1 (headSeq s) s else s)
    split
    · exact sameTime_diverge.sameFaults
    · exact ⟨rfl, rfl⟩
  have h₃ : SameFaults s s₃ := by
    have h₂ : SameFaults s s₂ := h₁
    show SameFaults s (if m ≤ 7 then _ else s₂)
    split
    · exact h₂
    · exact h₂
  clear_value s₃ rej
  split
  · exact ⟨rfl, rfl⟩
  · split
    · split
      · exact h₃
      · exact h₃.trans sameFaults_beatExc
    · split
      · exact h₃
      · split
        · exact h₃.trans sameFaults_missedReject
        · split
          · exact h₃.trans sameFaults_beatExc
          · exact h₃

theorem freeEdge_spec : SameFaults s (freeEdge s) ∧ (freeEdge s).beat.st = .free := by
  unfold freeEdge
  extract_lets before st s₁
  have h₁ : SameFaults s s₁ := by
    show SameFaults s (if _ then lockedEdge s else if _ then updBeat Beat.advance s else s)
    split
    · exact sameFaults_lockedEdge
    · split <;> exact ⟨rfl, rfl⟩
  clear_value s₁
  split
  · rename_i hst
    refine ⟨⟨rfl, rfl⟩, ?_⟩
    show (Beat.advance s.beat).st = _
    unfold Beat.advance
    split <;> exact hst
  · obtain ⟨hf, hb, ho⟩ := (sameTime_record (s := updBeat _ s₁)).trans (sameTime_throttle (code := 7) (n := 255) (level := 0))
    exact ⟨h₁.trans ⟨hf, ho⟩, congrArg Beat.st hb⟩

/-- Under a pending free edge an edge enters FREE and counts no fault. -/
theorem edgeBeat_free (h : s.beat.freePend = true) : (edgeBeat s).faults = s.faults ∧ (edgeBeat s).beat.st = .free := by
  unfold edgeBeat
  extract_lets turn s₁ s₂ s₃
  have h₂ : s₂.beat.freePend = true := h
  have hf : s₂.faults = s.faults := rfl
  have h₃ : s₃ = freeEdge s₂ := if_pos h₂
  clear_value s₂ s₃
  subst h₃
  exact ⟨freeEdge_spec.1.1.trans hf, freeEdge_spec.2⟩

/-- The state an edge begins from: a new cy of the ring, the waits of every bay advanced. -/
def edgeStart (s : State) : State :=
  State.mapBays { s with rcd := { s.rcd with cyEnt := [] }, faults := { s.faults with gongNow := false } } (fun b _ => tickBay
    { s with rcd := { s.rcd with cyEnt := [] }, faults := { s.faults with gongNow := false } } b)

/-- An edge leaves the faults and the state of the time base as `edgeBeat` gives them, and shows the selected test group. -/
theorem exec_beatEdge {smp : Sample} (hc : clocked s = true) : ∃ t, exec (.beatEdge smp) s = .next t ∧
    t.faults = (edgeBeat (edgeStart s)).faults ∧ t.beat = (edgeBeat (edgeStart s)).beat ∧
    t.od = { (edgeBeat (edgeStart s)).od with tmxNow := (edgeBeat (edgeStart s)).od.tmxSel } := by
  have hx : ∃ u, (u.faults = (edgeBeat (edgeStart s)).faults ∧ u.beat = (edgeBeat (edgeStart s)).beat ∧
      u.od = { (edgeBeat (edgeStart s)).od with tmxNow := (edgeBeat (edgeStart s)).od.tmxSel }) ∧
      exec (.beatEdge smp) s = .next (replayAdvance (barEdge (s.beatNat / 1024) (setTargets (resumePulses u)))) := by
    refine ⟨_, ?_, congrArg Host.Outcome.next (if_pos hc)⟩
    exact ⟨rfl, rfl, rfl⟩
  obtain ⟨u, ⟨hf, hb, ho⟩, hx⟩ := hx
  obtain ⟨gf, gb, go⟩ := sameTime_resumePulses.trans (sameTime_setTargets.trans
    (sameTime_barEdge.trans (sameTime_replayAdvance (s := barEdge (s.beatNat / 1024) (setTargets (resumePulses u))))))
  exact ⟨_, hx, gf.trans hf, gb.trans hb, go.trans ho⟩

theorem beatEdge_free {smp : Sample} (hc : clocked s = true) (h : s.beat.freePend = true) :
    ∃ t, exec (.beatEdge smp) s = .next t ∧ t.beat.st = .free ∧ t.faults = { s.faults with gongNow := false } := by
  obtain ⟨t, hx, tf, tb, -⟩ := exec_beatEdge (smp := smp) hc
  obtain ⟨hf, hs⟩ := edgeBeat_free (s := edgeStart s) h
  exact ⟨t, hx, (congrArg Beat.st tb).trans hs, tf.trans hf⟩

/-! ### Notes of the ring and throttle events -/

/-- A note in the ring: no byte outside it, no bay, and of the run only REPLAYABLE may have changed. -/
structure Noted (s t : State) : Prop where
  ring : ringOnly s t
  bays : t.bays = s.bays
  beat : t.beat = s.beat
  faults : t.faults = s.faults

theorem Noted.trans (h : Noted s t) (k : Noted t u) : Noted s u :=
  ⟨ringOnly_trans h.ring k.ring, k.bays.trans h.bays, k.beat.trans h.beat, k.faults.trans h.faults⟩

theorem noted_record {ty arg len payload : Nat} : Noted s (record ty arg len payload s) :=
  ⟨ringOnly_record, bays_record, sameTime_record.beat, sameTime_record.faults⟩

theorem noted_throttle {code n level : Nat} : Noted s (throttle code n level s) := by
  obtain ⟨hr, hy, hb, hf⟩ := noted_record (s := s) (ty := 0x10) (arg := n) (len := code) (payload := level)
  exact ⟨hr, hy, hb, hf⟩

theorem Noted.bay (h : Noted s t) : t.bay b = s.bay b := congrArg (fun l => l[b]) h.bays

/-- A run that differs from another in REPLAYABLE alone. -/
def RunLike (r q : Run) : Prop := q = { r with replayable := q.replayable }

theorem runLike_record {ty arg len payload : Nat} : RunLike s.run (record ty arg len payload s).run := by
  obtain ⟨v, h⟩ := run_record (s := s) (ty := ty) (arg := arg) (len := len) (payload := payload)
  rw [h]; rfl

theorem RunLike.trans {r q p : Run} (h : RunLike r q) (k : RunLike q p) : RunLike r p := by
  unfold RunLike at *
  rw [k, h]

theorem runLike_event {r q : Run} {code n beat : Nat} (h : RunLike r q) : RunLike (r.event code n beat) (q.event code n beat) := by
  rw [h]
  obtain ⟨w, hw⟩ := event_replayable (r := r) (v := q.replayable) (code := code) (unit := n) (beat := beat)
  rw [hw]; rfl

theorem runLike_throttle {code n level : Nat} (h : RunLike s.run t.run) (hb : t.beat.beat = s.beat.beat) :
    RunLike (s.run.event code n s.beatNat) (throttle code n level t).run := by
  have ht : RunLike (t.run.event code n t.beatNat) (throttle code n level t).run := run_throttle
  have hn : t.beatNat = s.beatNat := congrArg BitVec.toNat hb
  exact (runLike_event h).trans (hn ▸ ht)

/-- An event with its beat exception is noted, and the run has its event. -/
theorem noted_event {code exc n before : Nat} {off : Int} :
    Noted s (throttle code 255 0 (beatExc exc n before off s)) ∧
      RunLike (s.run.event code 255 s.beatNat) (throttle code 255 0 (beatExc exc n before off s)).run :=
  ⟨noted_record.trans noted_throttle, runLike_throttle runLike_record (congrArg Beat.beat sameTime_record.beat)⟩

/-! ### HOLD_ENTER, BEAT_LOST, LOCKING_FAIL, LOCKING_DONE -/

theorem holdEnter_spec (hc : clocked s = true) (he : s.beat.edgeNow = true) (hs : s.beat.st = .locked) (hm : 8 ≤ s.beat.missing) :
    ∃ t, exec .holdEnter s = .next t ∧ ringOnly s t ∧ (∀ b : Bay, t.bay b = s.bay b) ∧
      t.beat = { s.beat with st := .hold, qual := 0, cHold := min (2 ^ 32 - 1) (s.beat.cHold + 1) } ∧
      t.run = { s.run.event 6 255 s.beatNat with replayable := t.run.replayable } := by
  have hx : exec .holdEnter s = .next (throttle 6 255 0 (beatExc 4 0 s.beatNat 0
      (updBeat (fun t => { t with st := .hold, qual := 0, cHold := satAdd 32 t.cHold 1 }) s))) :=
    congrArg Host.Outcome.next (if_pos (by simp [hc, he, hs, hm]))
  obtain ⟨hn, hr⟩ := noted_event (s := updBeat (fun t => { t with st := .hold, qual := 0, cHold := satAdd 32 t.cHold 1 }) s)
    (code := 6) (exc := 4) (n := 0) (before := s.beatNat) (off := 0)
  exact ⟨_, hx, hn.ring, fun b => hn.bay, hn.beat, hr⟩

theorem enterLost_spec : ringOnly s (enterLost s) ∧ (∀ b : Bay, (enterLost s).bay b = s.bay b) ∧ (enterLost s).beat.st = .lost ∧
    (enterLost s).beat.beat = s.beat.beat ∧ (enterLost s).faults = (countFault 0x51 15 3 s).faults ∧
    (enterLost s).run = { s.run.event 7 255 s.beatNat with replayable := (enterLost s).run.replayable } := by
  obtain ⟨he, hr⟩ := noted_event (code := 7) (exc := 6) (n := 0) (before := s.beatNat) (off := 0)
    (s := updBeat (fun t => { t with st := .lost, missing := 0, qual := 0, acquiring := false }) (countFault 0x51 15 3 s))
  have hn := he.trans (noted_record (ty := 0x11) (arg := 15) (len := 0x51) (payload := (0#15).toNat))
  replace hr := hr.trans (runLike_record (ty := 0x11) (arg := 15) (len := 0x51) (payload := (0#15).toNat))
  exact ⟨hn.ring, fun b => hn.bay, (congrArg Beat.st hn.beat :), (congrArg Beat.beat hn.beat :), hn.faults, hr⟩

theorem lockingFail_spec (hc : clocked s = true) (he : s.beat.edgeNow = true) (hs : s.beat.st = .locking) (hm : 8 ≤ s.beat.missing) :
    ∃ t, exec .lockingFail s = .next t ∧ ringOnly s t ∧ t.beat = { s.beat with st := s.beat.from_, missing := 0, qual := 0 } := by
  refine ⟨_, congrArg Host.Outcome.next (if_pos (by simp [hc, he, hs, hm])), ?_⟩
  extract_lets dest u
  have hu : ringOnly s u ∧ u.beat = { s.beat with st := s.beat.from_, missing := 0, qual := 0 } := ⟨fun _ _ => rfl, rfl⟩
  clear_value u
  have hn : ∀ exc : Nat, Noted u (throttle 7 255 0 (beatExc exc 0 u.beatNat 0 u)) := fun exc => noted_event.1
  split
  · exact ⟨ringOnly_trans hu.1 (hn 6).ring, (hn 6).beat.trans hu.2⟩
  · split
    · exact ⟨ringOnly_trans hu.1 (hn 7).ring, (hn 7).beat.trans hu.2⟩
    · exact hu

/-! ### HOLD_EXIT and ACQUISITION_DONE -/

theorem refuseExit_spec {n : BitVec 48} : Noted (updBeat (fun t => { t with qual := 0, cRefused := satAdd 32 t.cRefused 1 }) s)
    (refuseExit n s) := noted_record

/-- A grid move is noted for the next edge, or refused and counted. -/
theorem exit_spec {n : BitVec 48} {c : Bool} {p : Prop} [Decidable p] (hp : c = true ↔ p) :
    let t := if c then updBeat (fun t => { t with jump := some n, qual := 0 }) s else refuseExit n s
    ringOnly s t ∧ t.beat.beat = s.beat.beat ∧ t.beat.qual = 0 ∧
      (if p then t = { s with beat := t.beat } ∧ t.beat.jump = some n
       else t.beat.jump = s.beat.jump ∧ t.beat.cRefused = min (2 ^ 32 - 1) (s.beat.cRefused + 1)) := by
  dsimp only
  by_cases h : p
  · rw [if_pos h, if_pos (hp.2 h)]
    exact ⟨fun _ _ => rfl, rfl, rfl, rfl, rfl⟩
  · rw [if_neg h, if_neg (fun k => h (hp.1 k))]
    have hn := refuseExit_spec (s := s) (n := n)
    exact ⟨hn.ring, (congrArg Beat.beat hn.beat :), (congrArg Beat.qual hn.beat :), (congrArg Beat.jump hn.beat :),
      (congrArg Beat.cRefused hn.beat :)⟩

theorem holdExit_spec {n : BitVec 48} (hc : clocked s = true) (hn : s.beat.lastBnum = some n) (hs : s.beat.st = .hold)
    (hq : 4 ≤ s.beat.qual) : exec .holdExit s = .next (if s.beatNat < n.toNat && !scriptRefuses s then
      updBeat (fun t => { t with jump := some n, qual := 0 }) s else refuseExit n s) := by
  change execHoldExit s = _
  rw [execHoldExit, hn]
  exact congrArg Host.Outcome.next (if_pos (by simp [hc, hs, hq]))

theorem acquisitionDone_spec {n : BitVec 48} (hc : clocked s = true) (hn : s.beat.lastBnum = some n) (hs : s.beat.acquires = true)
    (hq : 16 ≤ s.beat.qual) : exec .acquisitionDone s = .next
      (if (s.beat.st == .acquire || decide (s.beatNat < n.toNat)) && !scriptRefuses s then
        updBeat (fun t => { t with jump := some n, qual := 0 }) s else refuseExit n s) := by
  change execAcquisitionDone s = _
  rw [execAcquisitionDone, hn]
  exact congrArg Host.Outcome.next (if_pos (by simp [hc, hs, hq]))

/-- Settles O41: HOLD, LOST, LOCKING and FREE are entered and left as the rules say; each row leaves the ring's notes and the
time base it states. -/
theorem beatStates : Obligations.BeatStates := by
  refine ⟨fun s => holdEnter_spec, ?_, fun s => lockingFail_spec, ?_, ?_, ?_, ?_, fun smp s => beatEdge_free⟩
  · intro s hc he hs hm
    exact ⟨_, congrArg Host.Outcome.next (if_pos (by simp [hc, he, hs, hm])), enterLost_spec⟩
  · intro n s hc hn
    refine ⟨fun hs hq => ⟨_, holdExit_spec hc hn hs hq, exit_spec ?_⟩,
      fun hs hq => ⟨_, acquisitionDone_spec hc hn hs hq, exit_spec ?_⟩⟩
    · rw [Bool.and_eq_true, decide_eq_true_iff, Bool.not_eq_true']; exact Iff.rfl
    · rw [Bool.and_eq_true, Bool.or_eq_true, beq_iff_eq, decide_eq_true_iff, Bool.not_eq_true']; exact Iff.rfl
  · intro s hc hs hm
    have hn : Noted (updBeat (fun t => { t with st := .locked }) s) (enterLocked s) := noted_record
    exact ⟨_, congrArg Host.Outcome.next (if_pos (by simp [hc, hs, hm])), hn.ring, hn.beat⟩
  · intro q s h
    obtain ⟨t, hx, ⟨l, x, c, o, g, w, d, -, -, rfl⟩, hcur⟩ :=
      okOd_taken h (f := fun _ _ => updBeat (fun t => { t with freePend := true }))
    exact ⟨_, congrArg Host.Outcome.next hx, rfl, rfl, hcur, rfl, rfl⟩
  · intro q s h
    obtain ⟨t, hx, ⟨l, x, c, o, g, w, d, -, -, rfl⟩, hcur⟩ := okOd_taken h (f := fun _ _ => updBeat (fun t =>
      if t.st = .lost ∨ t.st = .free then { t with acquiring := true, qual := 0 } else t))
    exact ⟨_, congrArg Host.Outcome.next hx, hcur, rfl, rfl, rfl⟩

end Sys2Proof.Proofs.BeatStates
end

section
/-! PROOFS. Power ceiling, code strengths, band modes and test groups (DeviceModes). -/

namespace Sys2Proof.Proofs.DeviceModes

open Sys2Proof Sys2Proof.Machine Sys2Proof.Laws.State Sys2Proof.Laws.Memory Sys2Proof.Laws.Ops Sys2Proof.Proofs.Tables
open Sys2Proof.Proofs.Answers Sys2Proof.Proofs.BeatStates

variable {s t u : State} {b : Bay}

/-! ### Band modes (R282) -/

/-- Zeroing changes memory and what tracks it alone, and reads 0 in the range. -/
structure Zeroed (p : Nat → Prop) [DecidablePred p] (s t : State) : Prop where
  bays : t.bays = s.bays
  od : t.od = s.od
  rd : ∀ a, t.rd a = if p a then 0#8 else s.rd a

theorem zeroed_nil : Zeroed (fun _ => False) s s := ⟨rfl, rfl, fun _ => (if_neg not_false).symm⟩

theorem Zeroed.trans {p q r : Nat → Prop} [DecidablePred p] [DecidablePred q] [DecidablePred r] (h : Zeroed p s t) (k : Zeroed q t u)
    (hr : ∀ a, r a ↔ p a ∨ q a) : Zeroed r s u := by
  refine ⟨k.bays.trans h.bays, k.od.trans h.od, fun a => ?_⟩
  rw [k.rd, h.rd]
  simp only [hr]
  by_cases hp : p a <;> by_cases hq : q a <;> simp [hp, hq]

theorem zeroed_zeroRange {lo len : Nat} : Zeroed (fun a => lo ≤ a ∧ a < lo + len) s (s.zeroRange lo len) :=
  ⟨rfl, rfl, fun _ => rd_zero⟩

theorem zeroed_foldl {α : Type} {f : State → α → State} {p : α → Nat → Prop} [∀ x, DecidablePred (p x)]
    (hf : ∀ s x, Zeroed (p x) s (f s x)) (l : List α) (s : State) : Zeroed (fun a => ∃ x ∈ l, p x a) s (l.foldl f s) := by
  induction l generalizing s with
  | nil => exact zeroed_nil.trans zeroed_nil (by simp)
  | cons x l ih => exact (hf s x).trans (ih _) (by simp)

theorem zeroed_zeroBand {k : Nat} :
    Zeroed (fun a => ∃ w ∈ List.range 12, w * winSize + k * 2 ^ 30 ≤ a ∧ a < w * winSize + k * 2 ^ 30 + 2 ^ 30) s
      (zeroBand s k) :=
  zeroed_foldl (fun _ _ => zeroed_zeroRange) _ _

/-- A band is 1 GiB of every window (R281). -/
theorem mem_band {k a : Nat} (hk : k < 127) :
    (∃ w ∈ List.range 12, w * winSize + k * 2 ^ 30 ≤ a ∧ a < w * winSize + k * 2 ^ 30 + 2 ^ 30) ↔ a < stackEnd ∧ bandOf a = k := by
  simp only [List.mem_range, winSize, stackEnd, bandOf]
  constructor
  · rintro ⟨w, hw, h⟩
    omega
  · rintro ⟨ha, h⟩
    exact ⟨a / 0x2000000000, by omega⟩

theorem mem_changedBands {k n : Nat} : k ∈ changedBands s n ↔ k < 127 ∧ n.testBit k ≠ s.ms.bands.getLsbD k := by
  simp [changedBands]

theorem setBands_spec {n : Nat} : (setBands n s).bays = s.bays ∧ (setBands n s).od = s.od ∧
    (setBands n s).ms.bands = BitVec.ofNat 128 n ∧ (setBands n s).ms.zeroing = changedBands s n ∧
    ∀ a : Nat, (setBands n s).rd a = (if a < stackEnd ∧ bandOf a ∈ changedBands s n then 0#8 else s.rd a) := by
  obtain ⟨hb, ho, hr⟩ := zeroed_foldl (fun s k => zeroed_zeroBand (s := s) (k := k)) (changedBands s n) s
  refine ⟨hb, ho, rfl, rfl, fun a => (hr a).trans (if_congr ?_ rfl rfl)⟩
  constructor
  · rintro ⟨k, hk, hw⟩
    obtain ⟨ha, rfl⟩ := (mem_band (mem_changedBands.1 hk).1).1 hw
    exact ⟨ha, hk⟩
  · rintro ⟨ha, hk⟩
    exact ⟨_, hk, (mem_band (mem_changedBands.1 hk).1).2 ⟨ha, rfl⟩⟩

/-! ### Test groups (R450) -/

theorem od_beatExc {code n before : Nat} {off : Int} : (beatExc code n before off s).od = s.od := sameTime_record.od

theorem od_enterLost : (enterLost s).od = s.od := by
  have hod : ∀ v : State, (recFault 15 0x51 0#15 (throttle 7 255 0 v)).od = v.od := fun v =>
    sameTime_record.od.trans sameTime_throttle.od
  exact (hod _).trans od_beatExc

theorem od_scriptedEdge {e : Entry} : (scriptedEdge e s).od = s.od := by
  unfold scriptedEdge
  split
  · exact od_enterLost
  · split
    · exact od_beatExc.trans sameFaults_lockedEdge.2
    · exact od_beatExc

theorem od_edgeBeat : (edgeBeat s).od = s.od := by
  unfold edgeBeat
  extract_lets turn s₁ s₂ s₃
  have h₂ : s₂.od = s.od := rfl
  have h₃ : s₃.od = s₂.od := by
    show (if s₂.beat.freePend then freeEdge s₂ else _).od = s₂.od
    split
    · exact freeEdge_spec.1.2
    · split
      · exact od_scriptedEdge
      · exact od_beatExc
      · split
        · exact sameFaults_lockedEdge.2
        · exact sameFaults_lockedEdge.2
        all_goals rfl
  exact h₃.trans h₂

theorem tmxNow_beatEdge {smp : Sample} (hc : clocked s = true) :
    ∃ u, exec (.beatEdge smp) s = .next u ∧ u.od.tmxNow = s.od.tmxSel := by
  obtain ⟨u, hx, -, -, ho⟩ := exec_beatEdge (smp := smp) hc
  have hod : (edgeBeat (edgeStart s)).od = s.od := od_edgeBeat
  exact ⟨u, hx, by rw [ho, hod]⟩

/-- Settles O51: each entry takes its value and is answered; the band modes wait for earlier requests and then read 0. -/
theorem deviceModes : Obligations.DeviceModes := by
  refine ⟨?_, ?_, ?_, ?_⟩
  · intro q s h
    obtain ⟨_, hx, ⟨l, x, c, o, g, w, d, -, -, rfl⟩, hcur⟩ := okOd_taken h (f := fun _ n => setCeiling n)
    exact ⟨_, congrArg Host.Outcome.next hx, hcur, rfl, rfl, rfl⟩
  · intro q s
    constructor
    · intro h
      obtain ⟨_, hx, ⟨l, x, c, o, g, w, d, -, -, rfl⟩, hcur⟩ := okOd_taken h (f := fun _ n => setStrength false n)
      refine ⟨_, congrArg Host.Outcome.next ?_, hcur, rfl, rfl, rfl⟩
      rw [hx]
      exact applyOd_of_noCur hcur
    · intro h
      obtain ⟨hcur, hix, hsub, -, -⟩ := of_odTaken h
      obtain ⟨t, hx, ⟨l, x, c, o, g, w, d, -, -, rfl⟩, hcur'⟩ := okOd_taken h (f := fun _ n => setStrength true n)
      refine ⟨_, congrArg Host.Outcome.next ?_, hcur', rfl, rfl, rfl⟩
      rw [applyOd_of_other hcur (fun k => by omega)]
      exact hx
  · intro q s h
    obtain ⟨hcur, -⟩ := of_odTaken h
    constructor
    · intro ha
      exact congrArg Host.Outcome.next (if_pos (by rw [hcur]; exact ha))
    · intro ha
      obtain ⟨hb, -, hm, hz, hr⟩ := setBands_spec (s := s) (n := leNat q.value)
      obtain ⟨t, hx, ⟨l, x, c, o, g, w, d, -, -, rfl⟩, hcur'⟩ := okOd_taken h (f := fun _ n => setBands n)
      refine ⟨_, congrArg Host.Outcome.next ((if_neg (by rw [hcur]; simp [ha])).trans hx), hcur', hm, fun k => ?_, fun a => ?_,
        fun b => congrArg (fun l => l[b]) hb⟩
      · exact (iff_of_eq (congrArg (k ∈ ·) hz)).trans mem_changedBands
      · exact (hr a).trans (by rw [← hz]; rfl)
  · intro q s h
    obtain ⟨_, hx, ⟨l, x, c, o, g, w, d, -, -, rfl⟩, hcur⟩ := okOd_taken h (f := fun _ n => selectTmx n)
    exact ⟨_, congrArg Host.Outcome.next hx, hcur, rfl, rfl, rfl, rfl, fun smp hc => tmxNow_beatEdge hc⟩

end Sys2Proof.Proofs.DeviceModes
end

section
/-! PROOFS. The record ring: where entries lie, what recording stores, how they drain. -/

namespace Sys2Proof.Proofs.RecordRing

open Sys2Proof Sys2Proof.Machine Sys2Proof.Laws.State Sys2Proof.Laws.Memory Sys2Proof.Laws.Ops Sys2Proof.Proofs.Tables
open Sys2Proof.Proofs.DataMemory

variable {s t u : State} {b : Bay}

/-! ### Byte runs -/

theorem ld_eq_map {a n : Nat} : s.ld a n = (List.range' a n).map s.rd := VectorEngine.getList_eq_map

theorem ld_congr {a n : Nat} (h : ∀ x, a ≤ x → x < a + n → t.rd x = s.rd x) : t.ld a n = s.ld a n := by
  rw [ld_eq_map, ld_eq_map]
  refine List.map_congr_left fun x hx => ?_
  obtain ⟨hlo, hhi⟩ := List.mem_range'_1.1 hx
  exact h x hlo hhi

theorem length_leBytes {v n : Nat} : (leBytes v n).length = n := by
  induction n generalizing v with
  | zero => rfl
  | succ n ih => simp [leBytes, ih]

/-- A number is read back from its bytes, modulo what they hold. -/
theorem leNat_leBytes {v n : Nat} : leNat (leBytes v n) = v % 256 ^ n := by
  induction n generalizing v with
  | zero => simp [leBytes, leNat, Nat.mod_one]
  | succ n ih =>
    rw [leBytes, leNat, ih, BitVec.toNat_ofNat, show 256 ^ (n + 1) = 256 * 256 ^ n from Nat.pow_succ', Nat.mod_mul]

/-- A whole aligned sector stored below the scratchpads reads back, whatever was uncorrectable in it (R287). -/
theorem ld_store_sector {a req : Nat} {v : List Byte} (hm : MemInv s) (ha : a % 64 = 0) (hv : v.length = 64)
    (hs : a + 64 ≤ spadBase 0) : (s.store a v req).ld a 64 = v := by
  rw [ld_eq_map]
  refine List.ext_getElem (by simp [hv]) fun i h₁ h₂ => ?_
  have hi : i < 64 := by simpa using h₁
  have hsp : spadAt (a + i) = none := if_pos (show a + i < spadBase 0 by omega)
  have hk : storeKeeps s a v.length (a + i) = true := by
    simp only [storeKeeps, hsp, hv, Bool.or_eq_true, Bool.and_eq_true, decide_eq_true_eq]
    right
    simp only [Option.isSome_none, Bool.false_eq_true, if_false]
    omega
  rw [List.getElem_map, List.getElem_range', Nat.one_mul, rd_store_inside hm h₂, if_pos hk]

/-! ### Entries in the ring (R318) -/

theorem entryAddr_congr {q : Nat} (h : t.rcd = s.rcd) : entryAddr t q = entryAddr s q := by
  unfold entryAddr; rw [h]

theorem entryAddr_below {q : Nat} : entryAddr s q + 64 ≤ spadBase 0 :=
  Nat.le_trans entryAddr_range.2 ring_below_spads

/-- Entries fewer than half a ring apart lie in different sectors, on either side of the step to the lower half. -/
theorem entryAddr_apart {p q : Nat} (hpq : p < q) (hd : q < p + 4194304) :
    entryAddr s p + 64 ≤ entryAddr s q ∨ entryAddr s q + 64 ≤ entryAddr s p := by
  unfold entryAddr
  generalize ringBase = r
  split <;> split <;> omega

theorem ld_putEntry_self {q : Nat} {v : List Byte} (hm : MemInv s) (hv : v.length = 64) :
    (putEntry (entryAddr s q) v s).ld (entryAddr s q) 64 = v :=
  (ld_congr fun x _ _ => rd_congr mem_traffic x).trans
    (ld_store_sector (memInv_landSector hm) entryAddr_aligned hv entryAddr_below)

theorem ld_putEntry_apart {p q : Nat} {v : List Byte} (hv : v.length = 64)
    (h : entryAddr s p + 64 ≤ entryAddr s q ∨ entryAddr s q + 64 ≤ entryAddr s p) :
    (putEntry (entryAddr s q) v s).ld (entryAddr s p) 64 = s.ld (entryAddr s p) 64 :=
  ld_congr fun x hlo hhi => rd_putEntry (Nat.le_of_eq hv) entryAddr_aligned (by omega)

theorem rcd_putEntry {a : Nat} {v : List Byte} : (putEntry a v s).rcd = s.rcd := by
  obtain ⟨r, h⟩ := putEntry_frame (s := s) (a := a) (v := v)
  rw [h]

theorem rcd_writeEnts {q : Nat} {l : List Nat} : (writeEnts q l s).rcd = s.rcd := by
  obtain ⟨r, h⟩ := writeEnts_frame (s := s) (q := q) (l := l)
  rw [h]

/-- Entries written from a SEQ on leave the earlier ones of the last half ring. -/
theorem ld_writeEnts_before {p q : Nat} {l : List Nat} (hp : p < q) (hl : q + l.length ≤ p + 4194304) :
    (writeEnts q l s).ld (entryAddr s p) 64 = s.ld (entryAddr s p) 64 := by
  induction l generalizing q s with
  | nil => rfl
  | cons v r ih =>
    rw [List.length_cons] at hl
    have hr : entryAddr (putEntry (entryAddr s q) (recBytes v q) s) p = entryAddr s p := entryAddr_congr rcd_putEntry
    rw [writeEnts, ← hr, ih (by omega) (by omega), hr]
    exact ld_putEntry_apart recBytes_length (entryAddr_apart hp (by omega))

/-- Entries written from a SEQ on lie one behind the other. -/
theorem ld_writeEnts {q i : Nat} {l : List Nat} (hm : MemInv s) (hi : i < l.length) (hl : l.length ≤ 4194304) :
    (writeEnts q l s).ld (entryAddr s (q + i)) 64 = recBytes (l.getD i 0) (q + i) := by
  induction l generalizing q i s with
  | nil => exact absurd hi (Nat.not_lt_zero i)
  | cons v r ih =>
    rw [List.length_cons] at hl hi
    have hr : ∀ p, entryAddr (putEntry (entryAddr s q) (recBytes v q) s) p = entryAddr s p := fun p => entryAddr_congr rcd_putEntry
    rw [writeEnts]
    cases i with
    | zero =>
      have hk := ld_writeEnts_before (s := putEntry (entryAddr s q) (recBytes v q) s) (p := q) (q := q + 1) (l := r)
        (by omega) (by omega)
      rw [hr] at hk
      exact hk.trans (ld_putEntry_self hm recBytes_length)
    | succ i =>
      have hk := ih (q := q + 1) (i := i) (memInv_putEntry (a := entryAddr s q) (v := recBytes v q) hm) (by omega) (by omega)
      rw [hr, Nat.add_right_comm q 1 i] at hk
      exact hk

/-! ### The place of an entry among those of its cy (R318) -/

theorem entBefore_trans {u v w : Nat} (h : entBefore u v = true) (k : entBefore v w = true) : entBefore u w = true := by
  simp only [entBefore, Bool.or_eq_true, Bool.and_eq_true, decide_eq_true_eq, beq_iff_eq] at *
  omega

theorem entBefore_total {v w : Nat} (h : ¬entBefore v w = true) : entBefore w v = true := by
  simp only [entBefore, Bool.or_eq_true, Bool.and_eq_true, decide_eq_true_eq, beq_iff_eq] at *
  omega

/-- In entries in order, those before a new one stand in front of the others. -/
theorem take_drop_before {v : Nat} {l : List Nat} (hl : l.Pairwise (fun x y => entBefore x y = true)) :
    l.take (l.filter (fun w => entBefore w v)).length = l.filter (fun w => entBefore w v) ∧
      l.drop (l.filter (fun w => entBefore w v)).length = l.filter (fun w => !entBefore w v) := by
  induction l with
  | nil => exact ⟨rfl, rfl⟩
  | cons w r ih =>
    obtain ⟨hw, hr⟩ := List.pairwise_cons.1 hl
    obtain ⟨ht, hd⟩ := ih hr
    by_cases h : entBefore w v = true
    · simp [h, ht, hd]
    · have hn : r.filter (fun x => entBefore x v) = [] :=
        List.filter_eq_nil_iff.2 fun x hx hxv => h (entBefore_trans (hw x hx) hxv)
      have ha : r.filter (fun x => !entBefore x v) = r := by rw [← hd, hn]; rfl
      simp [h, hn, ha]

/-- A new entry placed behind those before it leaves the entries in order. -/
theorem pairwise_insert {v : Nat} {l : List Nat} (hl : l.Pairwise (fun x y => entBefore x y = true)) :
    let k := (l.filter (fun w => entBefore w v)).length
    (l.take k ++ v :: l.drop k).Pairwise (fun x y => entBefore x y = true) := by
  obtain ⟨ht, hd⟩ := take_drop_before (v := v) hl
  dsimp only
  have hsplit := hl
  rw [← List.take_append_drop (l.filter (fun w => entBefore w v)).length l, List.pairwise_append] at hsplit
  obtain ⟨h₁, h₂, h₁₂⟩ := hsplit
  have hbefore : ∀ x ∈ l.take (l.filter (fun w => entBefore w v)).length, entBefore x v = true := by
    rw [ht]; exact fun x hx => (List.mem_filter.1 hx).2
  have hbehind : ∀ x ∈ l.drop (l.filter (fun w => entBefore w v)).length, entBefore v x = true := by
    rw [hd]; exact fun x hx => entBefore_total (by simpa using (List.mem_filter.1 hx).2)
  refine List.pairwise_append.2 ⟨h₁, List.pairwise_cons.2 ⟨hbehind, h₂⟩, fun x hx y hy => ?_⟩
  rcases List.mem_cons.1 hy with rfl | hy
  · exact hbefore x hx
  · exact h₁₂ x hx y hy

/-! ### What recording stores -/

theorem record_on {ty arg len payload : Nat} (hon : s.rcd.on = true) (hcd : s.tap.cdStopped = false)
    (hroom : s.rcd.seq - s.rcd.drain < ringCap s) (hcy : s.rcd.drain + s.rcd.cyEnt.length ≤ s.rcd.seq) :
    let v := entryNew s ty arg len payload
    let k := (s.rcd.cyEnt.filter (fun w => entBefore w v)).length
    ∃ live, record ty arg len payload s =
      { writeEnts (s.rcd.seq - s.rcd.cyEnt.length + k) (v :: s.rcd.cyEnt.drop k) s with
        rcd := { s.rcd with
          seq := s.rcd.seq + 1, cyEnt := s.rcd.cyEnt.take k ++ v :: s.rcd.cyEnt.drop k, live := live } } := by
  dsimp only
  have hr : recRoom s = s := if_pos hroom
  have hp : entPlace s.rcd (entryNew s ty arg len payload) =
      (s.rcd.cyEnt.filter (fun w => entBefore w (entryNew s ty arg len payload))).length :=
    (congrArg (max _) (Nat.sub_eq_zero_of_le (by omega))).trans (Nat.max_zero _)
  unfold record
  rw [if_pos ⟨hon, hcd⟩]
  dsimp only
  rw [hr, hp, rcd_writeEnts]
  exact ⟨_, rfl⟩

/-- The fields of an entry as they are read back from the ring (R319). -/
theorem entry_fields {ty arg len payload q : Nat} (ht : ty < 2 ^ 8) (hp : payload < 2 ^ 256) :
    let e := Entry.ofNat (leNat (recBytes (entryNew s ty arg len payload) q))
    e.ty = ty ∧ e.seq = q % 2 ^ 40 ∧ e.beat = s.beat.beat.toNat ∧ e.len = len % 2 ^ 32 ∧ e.arg = arg % 2 ^ 48 ∧
      e.payload = payload := by
  have hb : s.beat.beat.toNat < 2 ^ 48 := s.beat.beat.isLt
  dsimp only
  rw [recBytes, leNat_leBytes, entryNew, State.beatNat, Nat.mod_eq_of_lt hp]
  generalize s.beat.beat.toNat = beat at *
  have ho : min s.tick 4095 < 2 ^ 12 := by omega
  have hh : min s.beat.hpos 65535 < 2 ^ 16 := by omega
  generalize min s.tick 4095 = off at *
  generalize min s.beat.hpos 65535 = hpos at *
  simp only [Entry.ofNat, bitsAt]
  norm_num at *
  omega

/-- An entry joins those of its cy in their order, and each lies at the SEQ of its place. -/
theorem record_places {ty arg len payload : Nat} (hm : MemInv s) (hon : s.rcd.on = true) (hcd : s.tap.cdStopped = false)
    (hroom : s.rcd.seq - s.rcd.drain < ringCap s) (hcy : s.rcd.drain + s.rcd.cyEnt.length ≤ s.rcd.seq)
    (hlen : s.rcd.cyEnt.length < 4096) (hord : s.rcd.cyEnt.Pairwise (fun v w => entBefore v w = true))
    (hld : ∀ i < s.rcd.cyEnt.length, s.ld (entryAddr s (s.rcd.seq - s.rcd.cyEnt.length + i)) 64 =
      recBytes (s.rcd.cyEnt.getD i 0) (s.rcd.seq - s.rcd.cyEnt.length + i)) :
    let t := record ty arg len payload s
    ringOnly s t ∧ t.rcd.seq = s.rcd.seq + 1 ∧ t.rcd.drain = s.rcd.drain ∧
      t.rcd.cyEnt.Perm (entryNew s ty arg len payload :: s.rcd.cyEnt) ∧
      t.rcd.cyEnt.Pairwise (fun v w => entBefore v w = true) ∧
      ∀ i < t.rcd.cyEnt.length, t.ld (entryAddr t (s.rcd.seq - s.rcd.cyEnt.length + i)) 64 =
        recBytes (t.rcd.cyEnt.getD i 0) (s.rcd.seq - s.rcd.cyEnt.length + i) := by
  obtain ⟨live, ht⟩ := record_on (ty := ty) (arg := arg) (len := len) (payload := payload) hon hcd hroom hcy
  have hring : ringOnly s (record ty arg len payload s) := ringOnly_record
  have hpair := pairwise_insert (v := entryNew s ty arg len payload) hord
  have hk : (s.rcd.cyEnt.filter (fun w => entBefore w (entryNew s ty arg len payload))).length ≤ s.rcd.cyEnt.length :=
    List.length_filter_le _ _
  dsimp only at ht hpair ⊢
  rw [ht] at hring ⊢
  generalize entryNew s ty arg len payload = v at *
  generalize (s.rcd.cyEnt.filter (fun w => entBefore w v)).length = k at *
  refine ⟨hring, rfl, rfl, ?_, hpair, fun i hi => ?_⟩
  · exact List.perm_middle.trans (by rw [List.take_append_drop])
  · change i < (s.rcd.cyEnt.take k ++ v :: s.rcd.cyEnt.drop k).length at hi
    change (writeEnts (s.rcd.seq - s.rcd.cyEnt.length + k) (v :: s.rcd.cyEnt.drop k) s).ld
      (entryAddr s (s.rcd.seq - s.rcd.cyEnt.length + i)) 64 =
      recBytes ((s.rcd.cyEnt.take k ++ v :: s.rcd.cyEnt.drop k).getD i 0) _
    have htk : (s.rcd.cyEnt.take k).length = k := List.length_take_of_le hk
    have hdk : (v :: s.rcd.cyEnt.drop k).length = s.rcd.cyEnt.length - k + 1 := by simp
    rw [List.length_append, htk, hdk] at hi
    by_cases hik : i < k
    · rw [ld_writeEnts_before (by omega) (by omega), hld i (by omega), List.getD_append _ _ _ _ (by omega)]
      congr 1
      simp [List.getD_eq_getElem?_getD, hik]
    · obtain ⟨j, rfl⟩ : ∃ j, i = k + j := ⟨i - k, by omega⟩
      rw [← Nat.add_assoc, ld_writeEnts hm (by omega) (by omega), List.getD_append_right _ _ _ _ (by omega), htk,
        Nat.add_sub_cancel_left]

end Sys2Proof.Proofs.RecordRing
end

section
/-! PROOFS. Runs and the record ring (RunsAndRecord). -/

namespace Sys2Proof.Proofs.RunsAndRecord

open Sys2Proof Sys2Proof.Machine Sys2Proof.Laws.State Sys2Proof.Laws.Memory Sys2Proof.Laws.Ops Sys2Proof.Proofs.Tables
open Sys2Proof.Proofs.VectorEngine Sys2Proof.Proofs.PowerManager Sys2Proof.Proofs.Answers Sys2Proof.Proofs.RecordRing

variable {s t u : State} {b : Bay}

/-! ### ARM (R314, R316) -/

theorem run_record_off {ty arg len payload : Nat} (h : s.rcd.on = false) : (record ty arg len payload s).run = s.run := by
  unfold record
  rw [if_neg (by simp [h])]

theorem run_record_room {ty arg len payload : Nat} (h : s.rcd.seq - s.rcd.drain < ringCap s) :
    (record ty arg len payload s).run = s.run := by
  have hr : recRoom s = s := if_pos h
  unfold record
  split
  · dsimp only
    rw [hr]
    exact run_writeEnts
  · rfl

theorem replayable_event {r : Run} {code n beat : Nat} : (r.event code n beat).replayable = r.replayable := by
  unfold Run.event
  split <;> rfl

theorem replayable_throttle {code n level : Nat} (h : s.rcd.on = false ∨ s.rcd.seq - s.rcd.drain < ringCap s) :
    (throttle code n level s).run.replayable = s.run.replayable := by
  have hr : (record 0x10 n code level s).run = s.run := h.elim run_record_off run_record_room
  exact replayable_event.trans (congrArg Run.replayable hr)

theorem void_armed (x : BeatSt) : (x == .lost || x == .free) = decide (x = .lost ∨ x = .free) := by
  cases x <;> rfl

/-- The effect of ARM. -/
def armRun (s : State) : State :=
  if s.beat.st = .locked then { s with run := armedRun s } else throttle 8 255 0 { s with run := armedRun s }

theorem armRun_spec : ringOnly s (armRun s) ∧ (armRun s).run.isOpen = true ∧
    (armRun s).run.time = decide (s.beat.st = .locked) ∧
    (armRun s).run.void = decide (s.beat.st = .lost ∨ s.beat.st = .free) ∧
    (armRun s).run.armBeat = s.beat.beat ∧ (armRun s).run.throttles = 0 ∧ (armRun s).run.digest = 0#64 ∧
    (armRun s).run.barDigest = 0#64 ∧ (armRun s).run.lastBar = 0#64 ∧
    (s.rcd.on = false → (armRun s).run.replayable = false) ∧
    (s.rcd.on = true → s.rcd.seq - s.rcd.drain < ringCap s → (armRun s).run.replayable = true) := by
  unfold armRun
  split
  · rename_i h
    refine ⟨fun _ _ => rfl, rfl, ?_, ?_, rfl, rfl, rfl, rfl, rfl, id, fun h _ => h⟩
    · simp [armedRun, h]
    · simp [armedRun, h]
  · rename_i h
    have hrep := replayable_throttle (s := { s with run := armedRun s }) (code := 8) (n := 255) (level := 0)
    rw [run_throttle]
    refine ⟨ringOnly_throttle (s := { s with run := armedRun s }), rfl, ?_, ?_, rfl, rfl, rfl, rfl, rfl, fun ho => ?_, fun ho hr => ?_⟩
    · simp [armedRun, Run.event, h]
    · exact (Bool.or_false _).trans (void_armed _)
    · exact (hrep (.inl ho)).trans ho
    · exact (hrep (.inr hr)).trans ho

theorem run_setRecording {n : Nat} : (setRecording n s).run =
    (if n = 1 ∨ s.run.isOpen = false then s.run else { s.run with replayable := false }) := by
  show (if n = 1 then s.run else s.run.unreplayable) = _
  unfold Run.unreplayable
  by_cases hn : n = 1
  · simp [hn]
  · cases ho : s.run.isOpen <;> simp [hn, ho]

/-! ### RECORD_DRAIN (R323, R349) -/

theorem sectorUe_frame {a r : Nat} : ∃ c, sectorUe a r s = { s with codes := c } := ⟨_, rfl⟩

/-- Counting unreadable sectors changes the counters of the codes alone. -/
theorem countBad_frame {l : List Nat} {r : Nat} : ∃ c, countBad l r s = { s with codes := c } := by
  have hf : ∀ (m : List Nat) (v : State), ∃ c, m.foldl (fun (s : State) x => sectorUe x r s) v = { v with codes := c } := by
    intro m
    induction m with
    | nil => exact fun v => ⟨v.codes, rfl⟩
    | cons x m ih => exact fun v => (ih _).imp fun c h => h
  exact hf _ s

theorem drainList_damaged {q n : Nat} : ((drainList s q n).filter (fun e => e.2)).length =
    ((List.range n).filter (fun m => rangeBad s (entryAddr s (q + m)) 64)).length := by
  have h : ∀ m, (drainEntry s (q + m)).2 = rangeBad s (entryAddr s (q + m)) 64 := fun m => by
    unfold drainEntry
    split <;> simp_all
  rw [drainList, List.filter_map, List.length_map]
  simp [Function.comp_def, h]

theorem drainList_bytes {q n : Nat} : (drainList s q n).flatMap (fun e => e.1) =
    (List.range n).flatMap (fun m => if rangeBad s (entryAddr s (q + m)) 64 = true then List.replicate 64 0#8
      else s.ld (entryAddr s (q + m)) 64) := by
  have h : ∀ m, (drainEntry s (q + m)).1 = if rangeBad s (entryAddr s (q + m)) 64 = true then List.replicate 64 0#8
      else s.ld (entryAddr s (q + m)) 64 := fun m => by
    unfold drainEntry
    split <;> rfl
  rw [drainList, List.flatMap_map]
  simp only [h]

/-- The entries of a drained frame counted and sent to a slot. -/
def drainSent (k : Slot) (q n : Nat) (s : State) : State :=
  let l := drainList s q n
  let bad := (l.filter (fun e => e.2)).length
  let arg := (l.zipIdx.filter (fun e => e.1.2)).foldl (fun (a : Nat) e => a + 2 ^ e.2) 0
  sendFrame (outFrame 6#8 1#8 (BitVec.ofNat 8 k.val) 0#16 (BitVec.ofNat 48 q) (BitVec.ofNat 64 arg) (l.flatMap (fun e => e.1)))
    { s with
      rcd := { s.rcd with drain := q + n, damaged := satAdd 64 s.rcd.damaged bad }
      run := if bad = 0 then s.run else s.run.unreplayable }

theorem exec_recordDrain {n : Nat} {k : Slot} (hc : clocked s = true) (hq : noReqs s = true) (hk : sinkOf s = some k)
    (h1 : 1 ≤ n) (h64 : n ≤ 64) (hn : n ≤ s.rcd.seq - s.rcd.drain) :
    ∃ d c, exec (.recordDrain n .clean) s = .next (drainSent k s.rcd.drain n { s with stk := d, codes := c }) := by
  have hm : min (min n 64) (s.rcd.seq - s.rcd.drain) = n := by omega
  have ha := ahead_of_noReqs (rd := wordSpans (drainWords s s.rcd.drain n)) (wr := []) hq
  obtain ⟨d, hd⟩ := traffic_frame (s := s) (rd := wordSpans (drainWords s s.rcd.drain n)) (wr := [])
  obtain ⟨c, hb⟩ := countBad_frame (l := drainWords s s.rcd.drain n) (r := 2) (s := { s with stk := d })
  refine ⟨d, c, ?_⟩
  change execRecordDrain n .clean s = _
  rw [execRecordDrain, hk]
  dsimp only
  rw [hm, if_pos (by simp [hc, ha]; omega), ← hb, ← hd]
  rfl

theorem recordDrain_spec {n : Nat} {k : Slot} (hc : clocked s = true) (hq : noReqs s = true) (hk : sinkOf s = some k)
    (h1 : 1 ≤ n) (h64 : n ≤ 64) (hn : n ≤ s.rcd.seq - s.rcd.drain) :
    ∃ t, exec (.recordDrain n .clean) s = .next t ∧ t.mem = s.mem ∧ t.rcd.drain = s.rcd.drain + n ∧ t.rcd.seq = s.rcd.seq ∧
      t.rcd.damaged = satAdd 64 s.rcd.damaged
        (((List.range n).filter (fun m => rangeBad s (entryAddr s (s.rcd.drain + m)) 64)).length) ∧
      sends t (fun g => g.cls = 6#8 ∧ g.opc = 1#8 ∧ g.sess.toNat = k.val ∧ g.addr = BitVec.ofNat 48 s.rcd.drain ∧
        g.payload = (List.range n).flatMap (fun m =>
          if rangeBad s (entryAddr s (s.rcd.drain + m)) 64 = true then List.replicate 64 0#8
          else s.ld (entryAddr s (s.rcd.drain + m)) 64)) := by
  obtain ⟨d, c, hx⟩ := exec_recordDrain hc hq hk h1 h64 hn
  have hl : drainList { s with stk := d, codes := c } s.rcd.drain n = drainList s s.rcd.drain n := rfl
  refine ⟨_, hx, rfl, rfl, rfl, ?_, sends_sendFrame (fun g q h => h) ?_⟩
  · exact congrArg (satAdd 64 s.rcd.damaged) (drainList_damaged (s := s))
  · obtain ⟨key, iv, he⟩ := keyed_eq (outFrame 6#8 1#8 (BitVec.ofNat 8 k.val) 0#16 (BitVec.ofNat 48 s.rcd.drain) (BitVec.ofNat 64
      ((((drainList s s.rcd.drain n).zipIdx.filter (fun e => e.1.2)).foldl (fun (a : Nat) e => a + 2 ^ e.2) 0)))
      ((drainList s s.rcd.drain n).flatMap (fun e => e.1))) _
    rw [hl, he]
    exact ⟨rfl, rfl, Nat.mod_eq_of_lt (Nat.lt_of_lt_of_le k.isLt (by decide)), rfl, drainList_bytes⟩

/-! ### The only entry of its cy -/

theorem record_alone {ty arg len payload : Nat} (hm : MemInv s) (hon : s.rcd.on = true) (hcd : s.tap.cdStopped = false)
    (hcy : s.rcd.cyEnt = []) (hd : s.rcd.drain ≤ s.rcd.seq) (hroom : s.rcd.seq - s.rcd.drain < ringCap s)
    (hhalf : ¬(s.rcd.halfFrom ≤ s.rcd.seq ∧ s.rcd.seq < s.rcd.halfTo)) (ht : ty < 2 ^ 8) (hp : payload < 2 ^ 256) :
    let t := record ty arg len payload s
    let e := Entry.ofNat (t.ldNat (ringBase + s.rcd.seq % 8388608 * 64) 64)
    ringOnly s t ∧ t.rcd.seq = s.rcd.seq + 1 ∧ t.rcd.drain = s.rcd.drain ∧ e.ty = ty ∧ e.seq = s.rcd.seq % 2 ^ 40 ∧
      e.beat = s.beat.beat.toNat ∧ e.len = len % 2 ^ 32 ∧ e.arg = arg % 2 ^ 48 ∧ e.payload = payload := by
  have hcy' : s.rcd.drain + s.rcd.cyEnt.length ≤ s.rcd.seq := by simpa [hcy] using hd
  obtain ⟨live, hx⟩ := record_on (ty := ty) (arg := arg) (len := len) (payload := payload) hon hcd hroom hcy'
  obtain ⟨hring, hseq, hdrain, hperm, -, hld⟩ := record_places (ty := ty) (arg := arg) (len := len) (payload := payload) hm hon hcd
    hroom hcy' (by simp [hcy]) (by simp [hcy]) (by simp [hcy])
  rw [hcy] at hperm
  rw [List.perm_singleton.1 hperm, hcy] at hld
  have haddr : entryAddr (record ty arg len payload s) s.rcd.seq = ringBase + s.rcd.seq % 8388608 * 64 := by
    have he : entryAddr (record ty arg len payload s) s.rcd.seq = entryAddr s s.rcd.seq := by rw [hx]; rfl
    rw [he, entryAddr, if_neg hhalf]
  have hbytes := hld 0 (by simp)
  rw [List.length_nil, Nat.sub_zero, Nat.add_zero, haddr, List.getD_cons_zero] at hbytes
  have hf := entry_fields (s := s) (arg := arg) (len := len) (q := s.rcd.seq) ht hp
  dsimp only at hf ⊢
  rw [State.ldNat, hbytes]
  exact ⟨hring, hseq, hdrain, hf⟩

/-- Settles O42: ARM and CLOSE by their effects, an entry by its place in the ring (`record_places`), a drain by what it sends. -/
theorem runsAndRecord : Obligations.RunsAndRecord := by
  refine ⟨?_, ?_, ?_, ?_, ?_, fun n k s => recordDrain_spec⟩
  · intro q s h
    obtain ⟨_, hx, ⟨l, x, c, o, g, w, d, -, -, rfl⟩, hcur⟩ := okOd_taken h (f := fun _ _ => armRun)
    obtain ⟨hr, hspec⟩ := armRun_spec (s := s)
    exact ⟨_, congrArg Host.Outcome.next hx, hr, hcur, hspec⟩
  · intro q s h
    obtain ⟨_, hx, ⟨l, x, c, o, g, w, d, -, -, rfl⟩, hcur⟩ := okOd_taken h (f := fun _ _ (s : State) =>
      if s.run.isOpen then { s with run := { s.run with isOpen := false, closeBeat := s.beat.beat } } else s)
    refine ⟨_, congrArg Host.Outcome.next hx, hcur, ?_, ?_⟩
    · show (if s.run.isOpen = true then _ else s).mem = _
      split <;> rfl
    · show (if s.run.isOpen = true then _ else s).run = _
      split <;> rfl
  · intro q s h
    obtain ⟨_, hx, ⟨l, x, c, o, g, w, d, -, -, rfl⟩, hcur⟩ := okOd_taken h (f := fun _ n => setRecording n)
    refine ⟨_, congrArg Host.Outcome.next hx, hcur, rfl, rfl, rfl, rfl, rfl, ?_⟩
    exact run_setRecording
  · intro ty arg len payload s hm hon hcd hcy hd hroom hhalf ht hp
    exact record_alone hm hon hcd hcy hd hroom hhalf ht hp
  · intro ty arg len payload s hm hon hcd hroom hcy hlen hord hld
    exact record_places hm hon hcd hroom hcy hlen hord hld

end Sys2Proof.Proofs.RunsAndRecord
end

section
/-! PROOFS. The refutation of Replay: the write that stops a replay is not gated, so where it waits in order behind a gated input
it passes in its turn without meeting the gate. -/

namespace Sys2Proof.Proofs.Replay

open Sys2Proof Sys2Proof.Machine

/-- An OD WRITE of 2, the STOP, to 0x7030:05, from slot 0. -/
def stopWrite : Frame :=
  { ver := 1#8, rsvd := 0, cls := 3#8, opc := 2#8, sess := 0#8, lseq := 0#48, tid := 0#16, addr := 0x703005#48, arg := 0#64
    payload := [2#8], tag := [] }

/-- After reset, but for an active replay whose one staged entry, SEQ 0, records an OD write, and that STOP the next input in
order. -/
def stopWaits : State :=
  { State.reset with
    pwr := { Power.reset with st := .run }
    mem := [(stageAddr 0 + 1, 2#8)]
    rcd := { Rec.reset with replay := .active, script := [0], scriptNext := some 1, gated := [stopWrite] } }

/-- The STOP taken from the inputs that wait. -/
def stopTaken : State := { stopWaits with rcd := { stopWaits.rcd with gated := [] } }

/-- The staged entry. -/
def stagedWrite : Entry := entryAt stopTaken 0

theorem stopWaits_ready : stopWaits.pwr.st = .run ∧ mustHold stopWrite stopWaits = false ∧
    nextGate stopTaken = some (0, stagedWrite) ∧ gateVerdict stopWrite stagedWrite false stopWaits = some 2 := by
  decide +kernel

/-- The kind of divergence an outcome's state shows. -/
def shownDivergence : Host.Outcome State Fault Refusal → Nat
  | .next t => t.rcd.divKind
  | _ => 0

theorem stop_passes : shownDivergence (exec (.replayInputRelease .clean) stopWaits) = 0 ∧
    (passFrame stopWrite .clean (diverge 2 0 stopTaken)).rcd.divKind = 2 := by
  decide +kernel

/-- Refutes O43: from `stopWaits` the STOP passes and no divergence is noted, while the statement has it meet the gate, whose
entry it does not agree with. -/
theorem not_replay : ¬ Obligations.Replay := by
  unfold Obligations.Replay
  rintro ⟨-, -, -, -, -, h, -⟩
  obtain ⟨hrun, hhold, hgate, hverdict⟩ := stopWaits_ready
  obtain ⟨hpass, hdiv⟩ := stop_passes
  have hx := h stopWrite [] 0 stagedWrite 2 stopWaits hrun rfl hhold rfl hgate hverdict
  have hshown : shownDivergence (exec (.replayInputRelease .clean) stopWaits) =
      (passFrame stopWrite .clean (diverge 2 0 stopTaken)).rcd.divKind := congrArg shownDivergence hx
  rw [hpass, hdiv] at hshown
  exact absurd hshown (by decide)

end Sys2Proof.Proofs.Replay
end

section
/-! PROOFS. The events of the link (LinkEvents). -/

namespace Sys2Proof.Proofs.LinkEvents

open Sys2Proof Sys2Proof.Machine Sys2Proof.Laws.State Sys2Proof.Laws.Memory Sys2Proof.Laws.Ops Sys2Proof.Proofs.Tables
open Sys2Proof.Proofs.Answers

variable {s t u : State} {b : Bay}

/-! ### What freeing slots leaves of the link (R345) -/

/-- The lanes and counters of a link, which no closing session changes. -/
def counters (l : Link) : BitVec 4 × Nat × Nat × Nat × Nat × Vector Nat 6 × BitVec 64 × Nat × Nat :=
  (l.lanes, l.fecCorr, l.fecUncorr, l.cResent, l.cDiscard, l.cRefused, l.lastRefusal, l.cReinit, l.cBadBeat)

theorem counters_flush {l : Link} {n : Nat} : counters (l.flush n) = counters l := by
  induction n generalizing l with
  | zero => rfl
  | succ n ih =>
    unfold Link.flush
    split
    · split
      · exact ih
      · rfl
    · rfl

theorem counters_pushFrame {f : OutFrame} : counters (pushFrame f s).link = counters s.link := counters_flush

theorem counters_sendReady {n : Nat} : counters (sendReady n s).link = counters s.link := by
  induction n generalizing s with
  | zero => rfl
  | succ n ih =>
    unfold sendReady
    split
    · split
      · exact ih.trans counters_pushFrame
      · rfl
    · rfl

theorem counters_creditBack {ch : Option (Fin 8)} : counters (creditBack ch s).link = counters s.link := by
  unfold creditBack
  split
  · dsimp only
    split <;> rfl
  · rfl

theorem counters_creditsBack {l : List (Option (Fin 8))} :
    counters (l.foldl (fun (s : State) c => creditBack c s) s).link = counters s.link := by
  induction l generalizing s with
  | nil => rfl
  | cons c l ih => exact ih.trans counters_creditBack

theorem counters_freeSlot {i : Slot} : counters (freeSlot i s).link = counters s.link :=
  counters_sendReady.trans counters_creditsBack

/-- Freeing a slot resets it, and no other. -/
theorem sess_freeSlot {i : Slot} : (freeSlot i s).sess = s.sess.set i Session.reset := by
  have hc : ∀ (v : State) (l : List (Option (Fin 8))),
      (flushResps (l.foldl (fun (s : State) c => creditBack c s) v)).sess = v.sess := by
    intro v l
    rw [(linkOnly_creditsBack l v).trans (linkOnly_flushResps _)]
  exact hc _ _

theorem sess_freeSlot_self {i : Slot} : (freeSlot i s).sess[i] = Session.reset := by
  rw [sess_freeSlot]; simp

theorem sess_freeSlot_ne {i j : Slot} (h : j ≠ i) : (freeSlot i s).sess[j] = s.sess[j] := by
  rw [sess_freeSlot]
  simp only [Fin.getElem_fin]
  exact Vector.getElem_set_ne _ _ (fun e => h (Fin.ext e.symm))

/-- Freeing the slots of a list resets each of them, and no other. -/
theorem sess_freeSlots {l : List Slot} {k : Slot} : (l.foldl (fun (s : State) (i : Slot) => freeSlot i s) s).sess[k] =
    if k ∈ l then Session.reset else s.sess[k] := by
  induction l generalizing s with
  | nil => rfl
  | cons i l ih =>
    rw [List.foldl_cons, ih]
    by_cases hk : k = i
    · subst hk
      rw [sess_freeSlot_self, ite_self, if_pos List.mem_cons_self]
    · rw [sess_freeSlot_ne hk]
      simp [hk]

theorem counters_freeSlots {l : List Slot} :
    counters (l.foldl (fun (s : State) (i : Slot) => freeSlot i s) s).link = counters s.link := by
  induction l generalizing s with
  | nil => rfl
  | cons i l ih => exact ih.trans counters_freeSlot

theorem reinit_spec : (reinit s).mem = s.mem ∧ (reinit s).bays = s.bays ∧ (∀ k : Slot, (reinit s).sess[k] = Session.reset) ∧
    (reinit s).rcd.gated = [] ∧
    (reinit s).link = { Link.reset with
      lanes := s.link.lanes, linkOut := (reinit s).link.linkOut, fecCorr := s.link.fecCorr, fecUncorr := s.link.fecUncorr
      cResent := s.link.cResent, cDiscard := s.link.cDiscard, cRefused := s.link.cRefused
      lastRefusal := s.link.lastRefusal, cReinit := min (2 ^ 32 - 1) (s.link.cReinit + 1), cBadBeat := s.link.cBadBeat } := by
  have ha : Answered s ((List.finRange 4).foldl (fun (s : State) (i : Slot) => freeSlot i s) s) :=
    answered_foldl _ (fun s i => answered_freeSlot i s) _ s
  have hs : ∀ k : Slot, ((List.finRange 4).foldl (fun (s : State) (i : Slot) => freeSlot i s) s).sess[k] = Session.reset :=
    fun k => sess_freeSlots.trans (if_pos (List.mem_finRange k))
  have hcnt := counters_freeSlots (s := s) (l := List.finRange 4)
  unfold reinit
  generalize (List.finRange 4).foldl (fun (s : State) (i : Slot) => freeSlot i s) s = v at *
  obtain ⟨l, x, c, o, g, w, d, -, -, rfl⟩ := ha
  simp only [counters, Prod.mk.injEq] at hcnt
  obtain ⟨h₁, h₂, h₃, h₄, h₅, h₆, h₇, h₈, h₉⟩ := hcnt
  dsimp only [updLink] at *
  split
  · refine ⟨rfl, rfl, hs, rfl, ?_⟩
    simp [sendCredit, sendLink, updLink, Link.reset, satAdd, *]
  · refine ⟨rfl, rfl, hs, rfl, ?_⟩
    simp [Link.reset, satAdd, *]

theorem exec_reinit {c : Instr} (hr : s.pwr.st = .run)
    (hc : (c = .linkReinit ∧ s.link.lanes ≠ 0xF#4 ∧ 64 ≤ s.link.downPos) ∨
      (c = .linkReinit ∧ (2 ^ 48 - 1 ≤ s.link.rxNext ∨ 2 ^ 48 - 1 ≤ s.link.txNext)) ∨ (c = .resendLimit ∧ 64 ≤ s.link.resends)) :
    exec c s = .next (reinit s) := by
  obtain ⟨rfl, hl, hd⟩ | ⟨rfl, hq⟩ | ⟨rfl, hn⟩ := hc
  · exact congrArg Host.Outcome.next (if_pos (by simp [hr, linkUp, hl, hd]))
  · have hs : s.link.spent = true := by simpa [Link.spent] using hq
    exact congrArg Host.Outcome.next (if_pos (by simp [hr, hs]))
  · exact congrArg Host.Outcome.next (if_pos (by simp [hr, hn]))

/-! ### ACK, NAK and resends (R337, R338) -/

theorem lseqEnd_of_low (hr : s.link.rxNext < 2 ^ 48 - 1) (ht : s.link.txNext < 2 ^ 48 - 1) : lseqEnd s = s :=
  if_neg (by simp [Link.spent]; omega)

/-- With nothing built and unsent, sending changes nothing. -/
theorem flushOut_of_nil (h : s.link.out = []) : flushOut s = s := by
  show { s with link := s.link.flush s.link.out.length } = s
  rw [h]
  rfl

/-- The frames below an LSEQ dropped from a link. -/
def dropBelow (n : Nat) (l : Link) : Link :=
  let u := l.unacked.filter (fun f => decide (n ≤ f.lseq))
  if u.length = l.unacked.length then l else { l with unacked := u, resends := 0, sinceAck := 0 }

theorem unacked_dropBelow {n : Nat} {l : Link} : (dropBelow n l).unacked = l.unacked.filter (fun f => decide (n ≤ f.lseq)) := by
  unfold dropBelow
  dsimp only
  split
  · rename_i h
    exact (List.filter_eq_self.2 (List.length_filter_eq_length_iff.1 h)).symm
  · rfl

theorem dropBelow_keeps {n : Nat} {l : Link} :
    (dropBelow n l).out = l.out ∧ (dropBelow n l).rxNext = l.rxNext ∧ (dropBelow n l).txNext = l.txNext := by
  unfold dropBelow
  dsimp only
  split <;> exact ⟨rfl, rfl, rfl⟩

theorem receiveLink_valid {opc : Byte} {f : Frame} {crc : W32} {k : State → State} (hl : linkOn s = true)
    (hv : linkValid opc f crc = true) : receiveLink opc f crc k s = lseqEnd (closeLeft (k s)) := by
  have ht : linkTakes opc f = true := by
    simp only [linkValid, Bool.and_eq_true] at hv
    simp [linkTakes, hv]
  unfold receiveLink
  rw [if_pos (by simp [hl, ht]), if_pos hv]

theorem linkAck_spec {f : Frame} {crc : W32} (hl : linkOn s = true) (ho : s.link.out = []) (hc : s.od.closeAfter = [])
    (hr : s.link.rxNext < 2 ^ 48 - 1) (ht : s.link.txNext < 2 ^ 48 - 1) (hv : linkValid 1#8 f crc = true) :
    exec (.linkAck f crc) s = .next { s with link := dropBelow (f.arg.toNat % 2 ^ 48) s.link } := by
  obtain ⟨ko, kr, kt⟩ := dropBelow_keeps (n := f.arg.toNat % 2 ^ 48) (l := s.link)
  have hk : ackBelow (linkNext f) s = { s with link := dropBelow (f.arg.toNat % 2 ^ 48) s.link } :=
    flushOut_of_nil (s := { s with link := dropBelow (f.arg.toNat % 2 ^ 48) s.link }) (ko.trans ho)
  refine congrArg Host.Outcome.next ((receiveLink_valid hl hv).trans ?_)
  rw [hk, closeLeft_of_nil (by exact hc), lseqEnd_of_low (by rw [← kr] at hr; exact hr) (by rw [← kt] at ht; exact ht)]

theorem linkNak_spec {f : Frame} {crc : W32} (hl : linkOn s = true) (ho : s.link.out = []) (hc : s.od.closeAfter = [])
    (hr : s.link.rxNext < 2 ^ 48 - 1) (ht : s.link.txNext < 2 ^ 48 - 1) (hv : linkValid 2#8 f crc = true) :
    exec (.linkNak f crc) s = .next (resendAll { s with link := dropBelow (f.arg.toNat % 2 ^ 48) s.link }) := by
  obtain ⟨ko, kr, kt⟩ := dropBelow_keeps (n := f.arg.toNat % 2 ^ 48) (l := s.link)
  have hres : ∀ v : State, (resendAll v).link.out = v.link.out ∧ (resendAll v).link.rxNext = v.link.rxNext ∧
      (resendAll v).link.txNext = v.link.txNext := by
    intro v
    unfold resendAll updLink
    dsimp only
    split <;> exact ⟨rfl, rfl, rfl⟩
  obtain ⟨ro, rr, rt⟩ := hres { s with link := dropBelow (f.arg.toNat % 2 ^ 48) s.link }
  refine congrArg Host.Outcome.next ((receiveLink_valid hl hv).trans ?_)
  have hk : nakFrom (linkNext f) s = resendAll { s with link := dropBelow (f.arg.toNat % 2 ^ 48) s.link } :=
    flushOut_of_nil (s := resendAll { s with link := dropBelow (f.arg.toNat % 2 ^ 48) s.link }) (ro.trans (ko.trans ho))
  rw [hk, closeLeft_of_nil (by exact hc), lseqEnd_of_low (by rw [rr]; exact kr ▸ hr) (by rw [rt]; exact kt ▸ ht)]

theorem resendAll_eq : resendAll s = { s with
    link := if s.link.unacked = [] then s.link
      else { s.link with
        resends := s.link.resends + 1, sinceAck := 0, cResent := satAdd 64 s.link.cResent s.link.unacked.length } } := by
  simp only [resendAll, updLink, List.isEmpty_iff]

theorem link_badFrame {f : Frame} {crc : W32} (hl : linkOn s = true) (hcls : f.cls = 1#8) (hopc : f.opc = 1#8 ∨ f.opc = 2#8)
    (hbad : f.ver ≠ 1#8 ∨ f.rsvd ≠ 0 ∨ crc ≠ frameCrc f) (opc : Byte) (k : State → State) :
    receiveLink opc f crc k s =
      if f.opc = opc then { s with link := { s.link with cDiscard := satAdd 64 s.link.cDiscard 1 } } else s := by
  have hv : linkValid opc f crc = false := by
    rcases hbad with h | h | h <;> simp [linkValid, h]
  unfold receiveLink
  by_cases hf : f.opc = opc
  · rw [if_pos (by simp [hl, linkTakes, hcls, hf]), if_neg (by simp [hv]), if_pos hf]
    rfl
  · rw [if_neg (by rcases hopc with h | h <;> simp_all [linkTakes]), if_neg hf]

/-! ### Discarded frames (R334, R337) -/

theorem discard_spec : Machine.discard s = { s with link := (Machine.discard s).link } ∧ (Machine.discard s).link.rxNext = s.link.rxNext ∧
    (Machine.discard s).link.nakSent = true ∧ (Machine.discard s).link.cDiscard = satAdd 64 s.link.cDiscard 1 ∧
    (s.link.nakSent = true → (Machine.discard s).link.linkOut = s.link.linkOut) ∧
    (s.link.nakSent = false → ∃ g ∈ (Machine.discard s).link.linkOut, g.opc = 2#8 ∧ g.arg = BitVec.ofNat 64 s.link.rxNext) := by
  unfold Machine.discard
  dsimp only
  split
  · rename_i h
    exact ⟨rfl, rfl, h, rfl, fun _ => rfl, fun hn => absurd (h.symm.trans hn) (by decide)⟩
  · rename_i h
    exact ⟨rfl, rfl, rfl, rfl, fun hn => absurd hn h, fun _ => ⟨_, List.mem_append_right _ (List.mem_singleton_self _), rfl, rfl⟩⟩

theorem receive_outOfOrder {cls opc : Byte} {f : Frame} {k : State → State} (hl : linkOn s = true)
    (ht : rowTakes f cls opc = true) (hq : f.lseq.toNat ≠ s.link.rxNext) : receive cls opc f k s = Machine.discard s := by
  unfold receive
  rw [if_pos (by simp [hl, ht]), if_neg hq]

theorem exec_discard {f : Frame} {c : Instr} (hl : linkOn s = true)
    (hc : (∃ v : List Byte, c = .frameCrcFail v ∧ wireOk v = false) ∨ (f.lseq.toNat ≠ s.link.rxNext ∧
      ((c = .odWrite f ∧ rowTakes f 3#8 2#8 = true) ∨ ((∃ ev : CodeEvent, c = .bulkWrite f ev) ∧ rowTakes f 4#8 1#8 = true) ∨
        (c = .flagUpdate f ∧ rowTakes f 5#8 1#8 = true) ∨ (c = .sessionHello f ∧ rowTakes f 2#8 1#8 = true)))) :
    exec c s = .next (Machine.discard s) := by
  obtain ⟨v, rfl, hv⟩ | ⟨hq, ⟨rfl, ht⟩ | ⟨⟨ev, rfl⟩, ht⟩ | ⟨rfl, ht⟩ | ⟨rfl, ht⟩⟩ := hc
  · exact congrArg Host.Outcome.next (if_pos (by simp [hl, hv]))
  all_goals exact congrArg Host.Outcome.next (receive_outOfOrder hl ht hq)

/-! ### LINK_ALIGNMENT_CHANGE (R331, R339) -/

theorem flush_keeps {l : Link} {n : Nat} : (l.flush n).rxNext = l.rxNext ∧ (l.flush n).creditsSent = l.creditsSent := by
  induction n generalizing l with
  | zero => exact ⟨rfl, rfl⟩
  | succ n ih =>
    unfold Link.flush
    split
    · split
      · exact ih
      · exact ⟨rfl, rfl⟩
    · exact ⟨rfl, rfl⟩

theorem alignment_spec {lanes : BitVec 4} (hr : s.pwr.st = .run) (hc : s.od.closeAfter = []) :
    ∃ t, exec (.linkAlignmentChange lanes) s = .next t ∧ t = { s with link := t.link } ∧ t.link.lanes = lanes ∧
      t.link.rxNext = s.link.rxNext ∧ (lanes = 0xF#4 → s.link.lanes ≠ 0xF#4 → t.link.creditsSent = s.link.credits) := by
  have hx : exec (.linkAlignmentChange lanes) s = .next
      (if linkUp (updLink (fun l => { l with lanes := lanes }) s) && !linkUp s then
        closeLeft (flushOut (sendCredit (updLink (fun l => { l with lanes := lanes }) s)))
       else updLink (fun l => { l with lanes := lanes }) s) := congrArg Host.Outcome.next (if_pos (by simp [hr]))
  refine ⟨_, hx, ?_⟩
  split
  · rw [closeLeft_of_nil (s := flushOut (sendCredit (updLink (fun l => { l with lanes := lanes }) s))) hc]
    exact ⟨rfl, congrArg Prod.fst counters_flush, flush_keeps.1, fun _ _ => flush_keeps.2⟩
  · rename_i h
    refine ⟨rfl, rfl, rfl, fun hl hn => absurd ?_ h⟩
    simp [linkUp, updLink, hl, hn]

/-- Settles O44: each row by what it leaves of the link; a reinitialisation frees every slot (`reinit_spec`). -/
theorem linkEvents : Obligations.LinkEvents := by
  refine ⟨fun lanes s => alignment_spec, fun c s hr hc => ⟨_, exec_reinit hr hc, reinit_spec⟩, ?_, ?_, ?_, ?_, ?_, ?_⟩
  · intro f crc s hl ho hc hr ht
    refine ⟨linkAck_spec hl ho hc hr ht, fun hv => (linkNak_spec hl ho hc hr ht hv).trans ?_⟩
    rw [resendAll_eq, unacked_dropBelow]
    rfl
  · intro f crc s hl hcls hopc hbad
    refine ⟨(congrArg Host.Outcome.next (link_badFrame hl hcls hopc hbad 1#8 _)),
      (congrArg Host.Outcome.next (link_badFrame hl hcls hopc hbad 2#8 _))⟩
  · intro s hr h8 hu
    refine congrArg Host.Outcome.next ((if_pos (by simp [hr, h8, hu])).trans ?_)
    rw [resendAll_eq, if_neg hu]
  · intro s hl he
    refine ⟨fun h0 => ⟨sendAck s, congrArg Host.Outcome.next (if_pos (by simp [hl, he, h0])), rfl, rfl, ?_⟩,
      fun h0 => ⟨sendCredit s, congrArg Host.Outcome.next (if_pos (by simp [hl, he, h0])), rfl, rfl, ?_⟩⟩
    · exact ⟨_, List.mem_append_right _ (List.mem_singleton_self _), rfl, rfl, rfl⟩
    · exact ⟨_, List.mem_append_right _ (List.mem_singleton_self _), rfl, rfl, rfl⟩
  · intro f s c hl hc
    exact ⟨_, exec_discard hl hc, discard_spec⟩
  · intro s hl
    exact congrArg Host.Outcome.next (if_pos hl)

end Sys2Proof.Proofs.LinkEvents
end

section
/-! PROOFS. Restarts, parks and resumes act on the bays of their mask (ChannelsAndParks). -/

namespace Sys2Proof.Proofs.ChannelsAndParks

open Sys2Proof Sys2Proof.Machine Sys2Proof.Laws.State Sys2Proof.Laws.Memory Sys2Proof.Laws.Ops Sys2Proof.Proofs.Tables
open Sys2Proof.Proofs.Answers

variable {s t u : State} {b : Bay} {st : Strm}

/-! ### What is done for the bays of a mask -/

/-- A step of one bay: memory and every other bay stay, and its own bay goes over as the relation says. -/
structure BayStep (R : Bays → Bays → Prop) (f : Bay → State → State) : Prop where
  mem : ∀ b s, (f b s).mem = s.mem
  other : ∀ b d s, d ≠ b → (f b s).bay d = s.bay d
  own : ∀ b s, R (s.bay b) ((f b s).bay b)

theorem BayStep.foldl {R : Bays → Bays → Prop} {f : Bay → State → State} (h : BayStep R f) {mask : BayMask} {l : List Bay}
    (hl : l.Nodup) (s : State) :
    let t := l.foldl (fun (s : State) (b : Bay) => if mask.getLsbD b then f b s else s) s
    t.mem = s.mem ∧ ∀ b, if b ∈ l ∧ mask.getLsbD b = true then R (s.bay b) (t.bay b) else t.bay b = s.bay b := by
  induction l generalizing s with
  | nil => exact ⟨rfl, fun b => by simp⟩
  | cons d l ih =>
    obtain ⟨hd, hl'⟩ := List.nodup_cons.1 hl
    obtain ⟨hm, hb⟩ := ih hl' (if mask.getLsbD d then f d s else s)
    refine ⟨hm.trans ?_, fun b => ?_⟩
    · split
      · exact h.mem d s
      · rfl
    · have hbay := hb b
      by_cases hbd : b = d
      · subst hbd
        rw [if_neg (by simp [hd])] at hbay
        rw [List.foldl_cons, hbay]
        by_cases hk : mask.getLsbD b = true
        · rw [if_pos ⟨List.mem_cons_self, hk⟩, if_pos hk]
          exact h.own b s
        · rw [if_neg fun h => hk h.2, if_neg hk]
      · have hs : (if mask.getLsbD d then f d s else s).bay b = s.bay b := by
          split
          · exact h.other d b s hbd
          · rfl
        rw [hs] at hbay
        rw [List.foldl_cons]
        simpa [hbd] using hbay

theorem testBit_mask {n : Nat} : (BitVec.ofNat 12 n).getLsbD b = n.testBit b.val := by
  rw [BitVec.getLsbD_ofNat, decide_eq_true b.isLt, Bool.true_and]

/-- What the bays of a mask have become. -/
theorem BayStep.forBays {R : Bays → Bays → Prop} {f : Bay → State → State} (h : BayStep R f) (n : Nat) (s : State) :
    (forBays (BitVec.ofNat 12 n) f s).mem = s.mem ∧ ∀ b : Bay,
      if n.testBit b.val = true then R (s.bay b) ((forBays (BitVec.ofNat 12 n) f s).bay b)
      else (forBays (BitVec.ofNat 12 n) f s).bay b = s.bay b := by
  obtain ⟨hm, hb⟩ := h.foldl (mask := BitVec.ofNat 12 n) (List.nodup_finRange 12) s
  refine ⟨hm, fun b => ?_⟩
  have hbay := hb b
  rw [testBit_mask] at hbay
  simp only [List.mem_finRange, true_and] at hbay
  exact hbay

/-- A write that does something for the bays of its value's mask. -/
theorem forBays_taken {R : Bays → Bays → Prop} {f : Bay → State → State} (h : BayStep R f) {ix sub : Nat} {q : OdReq}
    (hq : odTaken ix sub (fun _ => true) s = some q) :
    ∃ t, applyOd ix sub (fun _ => true) (fun _ n => okOd (forBays (BitVec.ofNat 12 n) f)) s = t ∧ t.od.cur = none ∧ t.mem = s.mem ∧
      ∀ b : Bay, if (leNat q.value).testBit b.val = true then R (s.bay b) (t.bay b) else t.bay b = s.bay b := by
  obtain ⟨hm, hb⟩ := h.forBays (leNat q.value) s
  obtain ⟨_, hx, ⟨l, x, c, o, g, w, d, -, -, rfl⟩, hcur⟩ := okOd_taken hq (f := fun _ n => forBays (BitVec.ofNat 12 n) f)
  exact ⟨_, hx, hcur, hm, hb⟩

/-! ### Restarts of the Tide channel (R108) -/

theorem mem_refDown {i : Nat} : (refDown i s).mem = s.mem := by
  unfold refDown
  dsimp only
  split <;> rfl

theorem mem_refsDown {l : List TStream} :
    (l.foldl (fun s t => if t.refs then refDown t.ctx s else s) s).mem = s.mem := by
  refine List.foldlRecOn (motive := fun t : State => t.mem = s.mem) _ _ rfl (fun t ht e _ => ?_)
  split
  · exact mem_refDown.trans ht
  · exact ht

/-- Ending every stream of a bay changes its Tide alone, which holds none. -/
theorem endStreams_all : (endStreams b (fun _ => true) true s).mem = s.mem ∧
    (∀ d, d ≠ b → (endStreams b (fun _ => true) true s).bay d = s.bay d) ∧
    ∃ td m, (endStreams b (fun _ => true) true s).bay b = { s.bay b with tide := td, moved := m } ∧ td.streams = [] := by
  unfold endStreams
  dsimp only
  split
  · rename_i h
    have hnil : (s.bay b).tide.streams = [] := by simpa [List.isEmpty_iff] using h
    exact ⟨rfl, fun _ _ => rfl, (s.bay b).tide, (s.bay b).moved, rfl, hnil⟩
  · rw [if_pos rfl]
    have hb : ∀ (v : State) (l : List TStream) (d : Bay),
        (l.foldl (fun s t => if t.refs then refDown t.ctx s else s) v).bay d = v.bay d :=
      fun v l d => congrArg (fun y : Vector Bays 12 => y[d]) DataMemory.bays_refsDown
    exact ⟨mem_refsDown, fun d h => (hb _ _ d).trans (bay_updBay_ne h), _, true, (hb _ _ b).trans bay_updBay,
      List.filter_eq_nil_iff.2 fun t _ => by simp⟩

theorem bayStep_restartTide : BayStep (fun y z => z.tide.streams = [] ∧ z.tide.kh0 = Half.reset ∧ z.tide.kh1 = Half.reset ∧
    z.tide.halt = false ∧ z.strm .a = y.strm .a ∧ z.strm .x = y.strm .x) restartTide where
  mem b s := endStreams_all.1
  other b d s h := (bay_updBay_ne h).trans (endStreams_all.2.1 d h)
  own b s := by
    obtain ⟨-, -, td, m, hb, hnil⟩ := endStreams_all (s := s) (b := b)
    unfold restartTide
    rw [bay_updBay, hb]
    exact ⟨hnil, rfl, rfl, rfl, rfl, rfl⟩

/-! ### Parks and resumes (R207, R208) -/

theorem updTile_spec {lt : Lt} {f : Tile → Tile} : (updTile b lt f s).mem = s.mem ∧
    (∀ d, d ≠ b → (updTile b lt f s).bay d = s.bay d) ∧
    ∃ x m, (updTile b lt f s).bay b = { s.bay b with tiles := x, moved := m } :=
  ⟨rfl, fun _ h => bay_updBay_ne h, _, _, bay_updBay⟩

theorem stopLoad_spec {lt : Lt} : (stopLoad b s lt).mem = s.mem ∧ (∀ d, d ≠ b → (stopLoad b s lt).bay d = s.bay d) ∧
    ∃ x m, (stopLoad b s lt).bay b = { s.bay b with tiles := x, moved := m } := by
  unfold stopLoad
  extract_lets t
  split
  · exact ⟨rfl, fun _ _ => rfl, _, _, rfl⟩
  · split
    · exact ⟨rfl, fun _ _ => rfl, _, _, rfl⟩
    · split
      · have hd : ∀ v : State, (drew 1 v).mem = v.mem ∧ ∀ d, (drew 1 v).bay d = v.bay d := fun v => ⟨rfl, fun _ => rfl⟩
        dsimp only
        simp only [hd]
        exact updTile_spec
      · exact updTile_spec

theorem stopLoads_spec {l : List Lt} : (l.foldl (stopLoad b) s).mem = s.mem ∧
    (∀ d, d ≠ b → (l.foldl (stopLoad b) s).bay d = s.bay d) ∧
    ∃ x m, (l.foldl (stopLoad b) s).bay b = { s.bay b with tiles := x, moved := m } := by
  induction l generalizing s with
  | nil => exact ⟨rfl, fun _ _ => rfl, _, _, rfl⟩
  | cons i l ih =>
    obtain ⟨hm, ho, x, m, hb⟩ := ih (s := stopLoad b s i)
    obtain ⟨km, ko, x', m', kb⟩ := stopLoad_spec (s := s) (b := b) (lt := i)
    exact ⟨hm.trans km, fun d h => (ho d h).trans (ko d h), x, m, hb.trans (by rw [kb])⟩

theorem bayStep_parkBay : BayStep (fun y z => if y.parked = true then z = y else
    z.parkPend = true ∧ z.strm .a = y.strm .a ∧ z.strm .x = y.strm .x ∧ z.flags = y.flags ∧ z.dq = y.dq ∧ z.xf = y.xf)
    parkBay where
  mem b s := by
    unfold parkBay
    split
    · rfl
    · exact stopLoads_spec.1
  other b d s h := by
    unfold parkBay
    split
    · rfl
    · exact (stopLoads_spec.2.1 d h).trans (bay_setBay_ne h)
  own b s := by
    unfold parkBay
    split
    · rfl
    · obtain ⟨-, -, x, m, hb⟩ := stopLoads_spec (b := b) (s := s.setBay b { s.bay b with parkPend := true }) (l := List.finRange 8)
      rw [hb, bay_setBay]
      exact ⟨rfl, rfl, rfl, rfl, rfl, rfl⟩

theorem bayStep_resumeBay : BayStep (fun y z => z.parkPend = false ∧ z.parked = false ∧ ∀ st : Strm, z.strm st =
    (if (y.strm st).status = .parked then { y.strm st with status := .run, wait := none, fpc := 0#15 } else y.strm st))
    resumeBay where
  mem b s := rfl
  other b d s h := bay_updBay_ne h
  own b s := by
    unfold resumeBay
    rw [bay_updBay]
    exact ⟨rfl, rfl, fun st => by cases st <;> rfl⟩

theorem bayStep_restartXfer : BayStep (fun y z => z.xf.queue = [] ∧ z.xf.active = [] ∧ z.xf.ring = none ∧ z.xf.halt = false ∧
    z.desc = y.desc ∧ z.strm .a = y.strm .a ∧ z.strm .x = y.strm .x) restartXfer where
  mem b s := rfl
  other b d s h := bay_updBay_ne h
  own b s := by
    unfold restartXfer
    rw [bay_updBay]
    exact ⟨rfl, rfl, rfl, rfl, rfl, rfl, rfl⟩

/-- Settles O48: each of the four writes is a step of every bay of its mask (`forBays_taken`). -/
theorem channelsAndParks : Obligations.ChannelsAndParks := by
  refine ⟨?_, ?_, ?_, ?_⟩
  · intro q s h
    obtain ⟨t, hx, hspec⟩ := forBays_taken bayStep_restartTide h
    exact ⟨t, congrArg Host.Outcome.next hx, hspec⟩
  · intro q s h
    obtain ⟨t, hx, hcur, hmem, hb⟩ := forBays_taken bayStep_parkBay h
    refine ⟨t, congrArg Host.Outcome.next hx, hcur, hmem, fun b => ?_⟩
    have hbay := hb b
    by_cases hm : (leNat q.value).testBit b.val = true
    · rw [if_pos hm] at hbay
      cases hp : (s.bay b).parked
      · rw [if_neg (by simp [hp])] at hbay
        rw [if_pos ⟨hm, rfl⟩]
        exact hbay
      · rw [if_pos hp] at hbay
        rw [if_neg (by simp)]
        exact hbay
    · rw [if_neg hm] at hbay
      rw [if_neg fun k => hm k.1]
      exact hbay
  · intro q s h
    obtain ⟨t, hx, hspec⟩ := forBays_taken bayStep_resumeBay h
    exact ⟨t, congrArg Host.Outcome.next hx, hspec⟩
  · intro q s h
    obtain ⟨t, hx, hspec⟩ := forBays_taken bayStep_restartXfer h
    exact ⟨t, congrArg Host.Outcome.next hx, hspec⟩

end Sys2Proof.Proofs.ChannelsAndParks
end

section
/-! PROOFS. Descriptors and the issue of transfers (Descriptors, TransferIssue). -/

namespace Sys2Proof.Proofs.Transfers

open Sys2Proof Sys2Proof.Machine Sys2Proof.Laws.State Sys2Proof.Laws.Memory Sys2Proof.Laws.Ops Sys2Proof.Laws.Sparse
open Sys2Proof.Proofs.Tables Sys2Proof.Proofs.DataMemory Sys2Proof.Proofs.UnitIssue Sys2Proof.Proofs.TileIssue Sys2Proof.Proofs.Counters

variable {s t u : State} {b : Bay} {st : Strm} {d : Dix}

/-! ### Entries of the descriptor table (R215) -/

theorem descAt_putDesc {v : Option Desc} (h : Sparse.wf (fun _ => none) (s.bay b).desc = true) :
    descAt b d (putDesc b d v s) = v := by
  simp only [descAt, putDesc, bay_updBay]
  exact get_set_self h

theorem descAt_putDesc_ne {v : Option Desc} {j : Dix} (h : j ≠ d) : descAt b j (putDesc b d v s) = descAt b j s := by
  simp only [descAt, putDesc, bay_updBay]
  exact get_set_ne fun e => h (Fin.ext e)

theorem descAt_congr {j : Dix} (h : (t.bay b).desc = (s.bay b).desc) : descAt b j t = descAt b j s := by
  unfold descAt; rw [h]

theorem desc_retire : ((retire b st s).bay b).desc = (s.bay b).desc := by
  cases st <;> simp [retire, State.updStrm, Bays.setStrm]

theorem desc_unpendAll : ((unpendAll b d s).bay b).desc = (s.bay b).desc := by simp [unpendAll]

theorem strm_unpendAll : (unpendAll b d s).strm b st = s.strm b st := by
  cases st <;> exact strm_updBay

theorem strm_putDesc {v : Option Desc} : (putDesc b d v s).strm b st = s.strm b st := by
  cases st <;> exact strm_updBay

theorem onlyBay_unpendAll : onlyBay b s (unpendAll b d s) := onlyBay_updBay

theorem onlyBay_putDesc {v : Option Desc} : onlyBay b s (putDesc b d v s) := onlyBay_updBay

/-- A descriptor put in its place over one that tiles may wait to resume. -/
theorem putDesc_retired {v : Option Desc} (h : Sparse.wf (fun _ => none) (s.bay b).desc = true) :
    let t := retire b st (unpendAll b d (putDesc b d v s))
    onlyBay b s t ∧ t.strm b st = (s.strm b st).next ∧ descAt b d t = v ∧ ∀ j : Dix, j ≠ d → descAt b j t = descAt b j s := by
  refine ⟨onlyBay_trans onlyBay_putDesc (onlyBay_trans onlyBay_unpendAll onlyBay_retire), ?_, ?_, fun j hj => ?_⟩
  · rw [strm_retire, strm_unpendAll, strm_putDesc]
  · rw [descAt_congr (desc_retire.trans desc_unpendAll), descAt_putDesc h]
  · rw [descAt_congr (desc_retire.trans desc_unpendAll), descAt_putDesc_ne hj]

/-- A new descriptor put in its place, tiles told where one was there. -/
theorem putDesc_new {v : Option Desc} (h : Sparse.wf (fun _ => none) (s.bay b).desc = true) :
    let t := retire b st (putDesc b d v (if (descAt b d s).isSome then unpendAll b d s else s))
    onlyBay b s t ∧ t.strm b st = (s.strm b st).next ∧ descAt b d t = v ∧ ∀ j : Dix, j ≠ d → descAt b j t = descAt b j s := by
  have hu : let u := if (descAt b d s).isSome then unpendAll b d s else s
      onlyBay b s u ∧ u.strm b st = s.strm b st ∧ (u.bay b).desc = (s.bay b).desc := by
    dsimp only
    split
    · exact ⟨onlyBay_unpendAll, strm_unpendAll, desc_unpendAll⟩
    · exact ⟨VectorEngine.onlyBay_refl, rfl, rfl⟩
  dsimp only at hu ⊢
  generalize (if (descAt b d s).isSome then unpendAll b d s else s) = u at *
  obtain ⟨ho, hs, hd⟩ := hu
  refine ⟨onlyBay_trans ho (onlyBay_trans onlyBay_putDesc onlyBay_retire), ?_, ?_, fun j hj => ?_⟩
  · rw [strm_retire, strm_putDesc, hs]
  · rw [descAt_congr desc_retire, descAt_putDesc (hd ▸ h)]
  · rw [descAt_congr desc_retire, descAt_putDesc_ne hj, descAt_congr hd]

theorem tiles_putDesc {v : Option Desc} : ((putDesc b d v s).bay b).tiles = (s.bay b).tiles := by simp [putDesc]

/-! ### A re-arm (R261) -/

theorem rearm_eq {o x : Desc} {regions : List Region} {w : W32} (h : o.rearm regions w = some x) :
    x = { o with base := (o.origin + 64 * w.toNat) % 2 ^ 48, pos := 0 } := by
  unfold Desc.rearm at h
  split at h
  · dsimp only at h
    split at h
    · exact (Option.some.inj h).symm
    · simp at h
  · simp at h

theorem desc_trap {code : Nat} (h : (s.strm b st).status ≠ .halted) : ((trap b st code s).bay b).desc = (s.bay b).desc := by
  rw [bay_trap h]
  cases st <;> rfl

/-- XF.DARM and TS.DARM run one re-arm. -/
theorem exec_darm {cb : Ctr} {c : Instr} (hc : (c, st) ∈ ([(.xfDarm b cb d, .a), (.tsDarm b cb d, .x)] : List (Instr × Strm)))
    (hm : mayIssue b st c s = true) (hf : (s.strm b st).free [cb] = true) (hd : descBad b [d] s = none) :
    exec c s = .next (match (descAt b d s).bind (fun x => x.rearm (regionsOf b s) ((s.strm b st).ctr[cb])) with
      | some x => retire b st (unpendAll b d (putDesc b d (some x) s))
      | none => trap b st 0x43 s) := by
  have hx : darm b st cb d s = _ := descRead_of_sound hd
  simp only [List.mem_cons, Prod.mk.injEq, List.not_mem_nil, or_false] at hc
  obtain ⟨rfl, rfl⟩ | ⟨rfl, rfl⟩ := hc
  · exact congrArg Host.Outcome.next ((issue_ready hm hf).trans hx)
  · exact congrArg Host.Outcome.next ((issue_ready hm hf).trans hx)

theorem pend_unpendAll {lt : Lt} (h : (s.bay b).tiles[lt].stRow.desc = BitVec.ofNat 16 d.val) :
    ((unpendAll b d s).bay b).tiles[lt].stRow.pend = false := by
  have ht : ((unpendAll b d s).bay b).tiles[lt] = ((s.bay b).tiles[lt]).unpend d := by simp [unpendAll]
  rw [ht, Tile.unpend, if_pos h]

theorem tiles_retire : ((retire b st s).bay b).tiles = (s.bay b).tiles := by
  cases st <;> simp [retire, State.updStrm, Bays.setStrm]

/-- Settles O31: the table is written through `putDesc`, and every refusal is a trap that leaves it. -/
theorem descriptors : Obligations.Descriptors := by
  refine ⟨?_, ?_, ?_, ?_⟩
  · intro b ca d1 d s hm hf hr hb hwf hck
    have hx : exec (.xfDnew b ca d1) s = .next
        (retire b .a (putDesc b d1 (some d) (if (descAt b d1 s).isSome then unpendAll b d1 s else s))) := by
      refine congrArg Host.Outcome.next ((issue_ready hm hf).trans ?_)
      change (if 16383 < ((s.strm b .a).ctr[ca]).toNat + 15 then _ else _) = _
      rw [if_neg (by omega)]
      dsimp only [ctrOf]
      rw [hb, hck]
    obtain ⟨hb, hs, hat, hne⟩ := putDesc_new (d := d1) (v := some d) hwf
    exact ⟨_, hx, hb, hs, hat, hne⟩
  · intro b cb d1 s c st hc hm hf hd hwf
    have hx := exec_darm hc hm hf hd
    have hlive := status_ne_halted_of_mayIssue hm
    split
    · rename_i x hre
      rw [hre] at hx
      obtain ⟨o, ho, hox⟩ := Option.bind_eq_some_iff.1 hre
      obtain ⟨hb, hs, hat, hne⟩ := putDesc_retired (st := st) (d := d1) (v := some x) hwf
      exact ⟨_, hx, hb, hs, hat, ⟨o, ho, rearm_eq hox⟩, hne⟩
    · rename_i hre
      rw [hre] at hx
      exact ⟨_, hx, ringOnly_haltStream, desc_trap hlive, strm_trap_live hlive⟩
  · intro b d1 s hm hsome hwf
    obtain ⟨hb, hs, hat, hne⟩ := putDesc_retired (st := .a) (d := d1) (v := none) hwf
    refine ⟨_, congrArg Host.Outcome.next ((issue_ready hm free_nil).trans (if_pos hsome)), hb, hs, hat, hne, fun lt hl => ?_⟩
    rw [tiles_retire]
    refine pend_unpendAll ?_
    rw [tiles_putDesc]
    exact hl
  · intro b d1 s hm hnone
    have hlive := status_ne_halted_of_mayIssue hm
    exact ⟨_, congrArg Host.Outcome.next ((issue_ready hm free_nil).trans (if_neg (by simp [hnone]))), ringOnly_haltStream,
      desc_trap hlive, strm_trap_live hlive⟩

/-! ### The transfer queue (R264) -/

/-- The entry an instruction's transfer makes. -/
def entryOf (b : Bay) (o : XOp) (fd : Option LFlag) (s : State) : XEntry := ⟨o, fd, none, (s.strm b .a).pc, none⟩

theorem bay_xfPush {o : XOp} {fd : Option LFlag} : (xfPush b o fd s).bay b =
    { s.bay b with
      a := (s.bay b).a.next, xf := { (s.bay b).xf with queue := (s.bay b).xf.queue ++ [entryOf b o fd s] }, moved := true } := by
  simp [xfPush, updXf, retire, State.updStrm, Bays.setStrm, entryOf, Bays.strm]

theorem onlyBay_xfPush {o : XOp} {fd : Option LFlag} : onlyBay b s (xfPush b o fd s) := onlyBay_trans onlyBay_updBay onlyBay_retire

theorem strm_a_xfPush {o : XOp} {fd : Option LFlag} : (xfPush b o fd s).strm b .a = (s.strm b .a).next := by
  simp [State.strm, bay_xfPush, Bays.strm]

theorem strm_x_xfPush {o : XOp} {fd : Option LFlag} : (xfPush b o fd s).strm b .x = s.strm b .x := by
  simp [State.strm, bay_xfPush, Bays.strm]

/-- A transfer enters the queue, or, where a descriptor may not be used, halts its stream. -/
def taken (b : Bay) (fd : Option LFlag) (op : Option XOp) (s : State) : State :=
  match op with
  | none => trap b .a 0x43 s
  | some o => xfPush b o fd s

theorem xfIssue_ready {c : Instr} {ds : List Dix} {op : State → Option XOp} {fd : Option LFlag} (hm : mayIssue b .a c s = true)
    (hq : (s.bay b).xf.queue.length < 16) (hd : descBad b ds s = none) :
    xfIssue b c ds op fd s = taken b fd (op s) s := by
  rw [xfIssue, issue_ready hm free_nil, if_neg (by omega), descRead_of_sound hd]
  rfl

/-- The transfers between descriptors come to one issue. -/
theorem exec_transfer {fd : Option LFlag} {acc : Bool} {di d1 d2 : Dix} {c : Instr} {ds : List Dix} {op : Option XOp}
    (hc : (c, ds, op) ∈ ([(.xfMov b (.desc d1) fd d2, [d2, d1], movOp b d2 d1 s),
      (.xfGath b di fd d2 d1, [di, d2, d1], gathOp b di d2 d1 s),
      (.xfScat b acc di fd d2 d1, [di, d2, d1], scatOp b acc di d2 d1 s),
      (.xfRing b fd d1, [d1], (descOf b d1 [3] s).map (fun d => XOp.ring d1 d))] : List (Instr × List Dix × Option XOp)))
    (hm : mayIssue b .a c s = true) (hq : (s.bay b).xf.queue.length < 16) (hd : descBad b ds s = none) :
    exec c s = .next (taken b fd op s) := by
  simp only [List.mem_cons, Prod.mk.injEq, List.not_mem_nil, or_false] at hc
  obtain ⟨rfl, rfl, rfl⟩ | ⟨rfl, rfl, rfl⟩ | ⟨rfl, rfl, rfl⟩ | ⟨rfl, rfl, rfl⟩ := hc
  all_goals exact congrArg Host.Outcome.next (xfIssue_ready hm hq hd)

theorem xf_trap {code : Nat} (h : (s.strm b st).status ≠ .halted) : ((trap b st code s).bay b).xf = (s.bay b).xf := by
  rw [bay_trap h]
  cases st <;> rfl

/-! ### A copy into a data queue (R192, R266) -/

/-- The entries reserved at a data queue's tail. -/
def reserved (x : Bays) (n : Nat) : List DqEntry := (List.range n).map (fun i => ⟨x.tickets + i, none⟩)

theorem exec_movq {fd : Option LFlag} {q : Fin 8} {d2 : Dix} {d : Desc} (hm : mayIssue b .a (.xfMov b (.queue q) fd d2) s = true)
    (hbad : descBad b [d2] s = none) (hd : descOf b d2 [1, 2, 4] s = some d) (hq : (s.bay b).xf.queue.length < 16)
    (hroom : (s.bay b).dq[q].length + dqEntries d ≤ 32) :
    exec (.xfMov b (.queue q) fd d2) s = .next (xfPush b (.movq d q (s.bay b).tickets (dqEntries d)) fd
      (s.updBay b (fun x => x.reserve q (dqEntries d) none))) := by
  refine congrArg Host.Outcome.next ((issue_ready hm free_nil).trans ?_)
  rw [if_neg (by omega), descRead_of_sound hbad, hd]
  exact if_neg (by omega)

theorem dq_reserve {x : Bays} {q : Fin 8} {n : Nat} : (x.reserve q n none).dq[q] = x.dq[q] ++ reserved x n := by
  simp [Bays.reserve, Bays.setDq, reserved]

theorem dq_reserve_ne {x : Bays} {q k : Fin 8} {n : Nat} (h : k ≠ q) : (x.reserve q n none).dq[k] = x.dq[k] := by
  have hv : q.val ≠ k.val := fun e => h (Fin.ext e.symm)
  simp [Bays.reserve, Bays.setDq, hv]

theorem strm_reserve {q : Fin 8} {n : Nat} : (s.updBay b (fun x => x.reserve q n none)).strm b st = s.strm b st := by
  cases st <;> exact strm_updBay

theorem data_reserved {x : Bays} {n : Nat} {e : DqEntry} (h : e ∈ reserved x n) : e.data = none := by
  obtain ⟨i, -, rfl⟩ := List.mem_map.1 h
  rfl

/-- Settles O30: every transfer comes to `xfPush`, one into a data queue behind the entries it reserves. -/
theorem transferIssue : Obligations.TransferIssue := by
  refine ⟨?_, ?_, ?_⟩
  · intro b fd acc di d1 d2 s c ds op hc hm hq hd
    have hx := exec_transfer hc hm hq hd
    have hlive := status_ne_halted_of_mayIssue hm
    cases op with
    | some o =>
      refine ⟨xfPush b o fd s, hx, onlyBay_xfPush, strm_a_xfPush, strm_x_xfPush, ?_, ?_, ?_, entryOf b o fd s, ?_, rfl, rfl, rfl, rfl⟩
      all_goals rw [bay_xfPush]
    | none => exact ⟨_, hx, ringOnly_haltStream, xf_trap hlive, strm_trap_live hlive⟩
  · intro b fd q d2 d s hm hbad hd hq hroom
    have hx := exec_movq hm hbad hd hq hroom
    have hb := bay_xfPush (b := b) (o := .movq d q (s.bay b).tickets (dqEntries d)) (fd := fd)
      (s := s.updBay b (fun x => x.reserve q (dqEntries d) none))
    have hlen : (reserved (s.bay b) (dqEntries d)).length = (min 2048 d.bytes + 63) / 64 := by simp [reserved, dqEntries]
    refine ⟨_, hx, onlyBay_trans onlyBay_updBay onlyBay_xfPush, ?_, ?_, ?_, ?_, ?_, ?_, ?_, fun k hk => ?_,
      entryOf b (.movq d q (s.bay b).tickets (dqEntries d)) fd s, ?_, rfl, rfl, rfl, rfl⟩
    · exact strm_a_xfPush.trans (congrArg Stream.next strm_reserve)
    · exact strm_x_xfPush.trans strm_reserve
    · rw [hb, bay_updBay]; rfl
    · rw [hb, bay_updBay]; rfl
    · rw [hb, bay_updBay]
      show ((s.bay b).reserve q (dqEntries d) none).dq[q].length = _
      rw [dq_reserve, List.length_append, hlen]
    · rw [hb, bay_updBay]
      show ((s.bay b).reserve q (dqEntries d) none).dq[q].take _ = _
      rw [dq_reserve, List.take_left]
    · rw [hb, bay_updBay]
      show ∀ e ∈ ((s.bay b).reserve q (dqEntries d) none).dq[q].drop _, _
      rw [dq_reserve, List.drop_left]
      exact fun e => data_reserved
    · rw [hb, bay_updBay]
      exact dq_reserve_ne hk
    · have he : entryOf b (.movq d q (s.bay b).tickets (dqEntries d)) fd
          (s.updBay b (fun x => x.reserve q (dqEntries d) none)) = entryOf b (.movq d q (s.bay b).tickets (dqEntries d)) fd s := by
        simp only [entryOf, strm_reserve]
      rw [hb, bay_updBay, he]
      rfl
  · intro b cn s hm hf
    exact ⟨_, congrArg Host.Outcome.next (issue_ready hm hf), onlyStrm_putCtr, strm_putCtr⟩

end Sys2Proof.Proofs.Transfers
end

section
/-! PROOFS. The M32 cell and the reduction of its drain (ModularPass). -/

namespace Sys2Proof.Proofs.ModularPass

open Sys2Proof Sys2Proof.Machine

/-! ### The Barrett reduction of R82 -/

/-- The quotient estimate never passes the quotient: with A·B = 2^89, T the sum over A and h the estimate. -/
theorem estimate_le {A B q mu acc T h : ℕ} (hA : 0 < A) (hB : 0 < B) (hmu : mu * q ≤ A * B) (hT : T * A ≤ acc) (hh : h * B ≤ T * mu) :
    h * q ≤ acc := by
  have h1 : h * q * (A * B) ≤ acc * (A * B) := calc
    h * q * (A * B) = h * B * (q * A) := by ring
    _ ≤ T * mu * (q * A) := Nat.mul_le_mul_right _ hh
    _ = T * A * (mu * q) := by ring
    _ ≤ acc * (A * B) := Nat.mul_le_mul hT hmu
  exact Nat.le_of_mul_le_mul_right h1 (Nat.mul_pos hA hB)

/-- The quotient estimate lies less than three below the quotient. -/
theorem lt_estimate {A B q mu acc T h : ℕ} (hAq : A ≤ q) (hmu : A * B < (mu + 1) * q) (hacc : 2 * acc < A * B)
    (hT : T * A ≤ acc) (hT' : acc < (T + 1) * A) (hh : T * mu < (h + 1) * B) : acc < (h + 3) * q := by
  have hq : 0 < q := by
    rcases Nat.eq_zero_or_pos q with rfl | h
    · simp at hmu
    · exact h
  have hA : 0 < A := by
    rcases Nat.eq_zero_or_pos A with rfl | h
    · simp at hT'
    · exact h
  have h1 : T * A * (A * B) ≤ (h + 1) * q * (A * B) + acc * q := calc
    T * A * (A * B) ≤ T * A * ((mu + 1) * q) := Nat.mul_le_mul_left _ hmu.le
    _ = T * mu * (A * q) + T * A * q := by ring
    _ ≤ (h + 1) * B * (A * q) + acc * q := Nat.add_le_add (Nat.mul_le_mul_right _ hh.le) (Nat.mul_le_mul_right _ hT)
    _ = (h + 1) * q * (A * B) + acc * q := by ring
  have h2 : acc * (A * B) < (h + 3) * q * (A * B) := by
    nlinarith [Nat.mul_lt_mul_of_pos_right hT' (show 0 < A * B by omega), Nat.mul_le_mul_right (A * B) hAq,
      Nat.mul_lt_mul_of_pos_right hacc hq]
  exact Nat.lt_of_mul_lt_mul_right h2

/-- A remainder below three moduli is left reduced by two conditional subtractions. -/
theorem sub_twice {r q : ℕ} (h : r < 3 * q) :
    (if q ≤ (if q ≤ r then r - q else r) then (if q ≤ r then r - q else r) - q else if q ≤ r then r - q else r) = r % q := by
  have hq : 0 < q := by omega
  by_cases h1 : q ≤ r
  · rw [if_pos h1, Nat.mod_eq_sub_mod h1]
    by_cases h2 : q ≤ r - q
    · rw [if_pos h2, Nat.mod_eq_sub_mod h2, Nat.mod_eq_of_lt (by omega)]
    · rw [if_neg h2, Nat.mod_eq_of_lt (by omega)]
  · rw [if_neg h1, if_neg h1, Nat.mod_eq_of_lt (by omega)]

/-- What R83 asks of a record that a prime table holds. -/
theorem of_primeOk {p : PrimeRec} (h : primeOk (p, 0) = true) : 2 ^ 27 < p.q.toNat ∧ p.q.toNat < 2 ^ 31 ∧
    p.mlen.toNat = Nat.log2 p.q.toNat + 1 ∧ p.mu.toNat * p.q.toNat ≤ 2 ^ 89 ∧ 2 ^ 89 < (p.mu.toNat + 1) * p.q.toNat := by
  simp only [primeOk, beq_self_eq_true, Bool.true_and, Bool.and_eq_true, decide_eq_true_eq] at h
  obtain ⟨⟨⟨⟨hlo, hhi⟩, hlen⟩, hmu⟩, hmu'⟩ := h
  rw [bitLength, if_neg (by omega)] at hlen
  exact ⟨hlo, hhi, hlen, hmu, hmu'⟩

/-- The reduction gives the remainder of every sum below 2^88 (R82). -/
theorem reduce_eq {p : PrimeRec} {acc : ℕ} (h : primeOk (p, 0) = true) (hacc : acc < 2 ^ 88) : p.reduce acc = acc % p.q.toNat := by
  obtain ⟨hlo, hhi, hlen, hmu, hmu'⟩ := of_primeOk h
  obtain ⟨q, mlen, mu⟩ := p
  dsimp only at *
  unfold PrimeRec.reduce
  dsimp only
  generalize q.toNat = q at *
  generalize mu.toNat = mu at *
  rw [hlen, Nat.add_sub_cancel]
  have hq0 : q ≠ 0 := by omega
  have hk : Nat.log2 q ≤ 89 := Nat.le_of_lt_succ (Nat.lt_of_lt_of_le (Nat.log2_lt hq0 |>.2 hhi) (by decide))
  have hAB : 2 ^ Nat.log2 q * 2 ^ (90 - (Nat.log2 q + 1)) = 2 ^ 89 := by
    rw [← Nat.pow_add]; congr 1; omega
  have hA : 0 < 2 ^ Nat.log2 q := Nat.two_pow_pos _
  have hB : 0 < 2 ^ (90 - (Nat.log2 q + 1)) := Nat.two_pow_pos _
  have hAq : 2 ^ Nat.log2 q ≤ q := Nat.log2_self_le hq0
  generalize 2 ^ Nat.log2 q = A at *
  generalize 2 ^ (90 - (Nat.log2 q + 1)) = B at *
  have hle := estimate_le hA hB (hAB ▸ hmu) (Nat.div_mul_le_self acc A) (Nat.div_mul_le_self (acc / A * mu) B)
  have hlt := lt_estimate hAq (hAB ▸ hmu') (by omega) (Nat.div_mul_le_self acc A)
    (by rw [Nat.mul_comm]; exact Nat.lt_mul_div_succ acc hA)
    (by rw [Nat.mul_comm (_ + 1)]; exact Nat.lt_mul_div_succ (acc / A * mu) hB)
  generalize acc / A * mu / B = h at *
  have hr : (acc + 2 ^ 34 * (h * q / 2 ^ 34 + 1) - h * q) % 2 ^ 34 = acc - h * q := by
    rw [show acc + 2 ^ 34 * (h * q / 2 ^ 34 + 1) - h * q = acc - h * q + 2 ^ 34 * (h * q / 2 ^ 34 + 1) from Nat.sub_add_comm hle,
      Nat.add_mul_mod_self_left]
    refine Nat.mod_eq_of_lt ?_
    rw [Nat.add_mul] at hlt
    omega
  rw [hr, sub_twice (by rw [Nat.add_mul] at hlt; omega), Nat.mul_comm]
  exact Nat.sub_mul_mod (Nat.mul_comm h q ▸ hle)

/-! ### One streamed row (R64) -/

/-- The products of a streamed row with a column, entry by entry. -/
theorem products_eq {t : SBuf} {x : List W32} {c : Nat} (hx : x.length = 256) :
    (x.zip (t.col c (List.range 256))).map (fun p => p.1.toNat % 2 ^ 31 * (p.2 % 2 ^ 31)) =
      (List.range 256).map (fun k => (x.getD k 0#32).toNat % 2 ^ 31 *
        ((Sparse.get (fun _ => 0#32) t.words (256 * k + c)).toNat % 2 ^ 31)) := by
  refine List.ext_getElem (by simp [SBuf.col, hx]) fun i h₁ h₂ => ?_
  have hi : i < x.length := by simpa [hx] using h₂
  simp [SBuf.col, hi]

theorem cell_m32 {t : Tile} {buf acc : Bool} {x : List W32} {c : Nat} {old : BitVec 96} (h : t.mode = 3) :
    t.cell buf acc x c old =
      let v := ((x.zip ((t.sbuf buf).col c (List.range 256))).map (fun p => p.1.toNat % 2 ^ 31 * (p.2 % 2 ^ 31))).foldl (· + ·) 0
      (BitVec.ofNat 96 (if acc then old.toNat + v else v), false) := by
  unfold Tile.cell
  rw [h]
  rfl

/-- Settles O19: the cell sums the products of the row with its column, and the drain reduces by Barrett (`reduce_eq`). -/
theorem modularPass : Obligations.ModularPass := by
  intro t buf acc x c a old hmode hx hold
  refine ⟨?_, fun hp => ?_⟩
  · rw [cell_m32 hmode, products_eq hx, ← List.sum_eq_foldl]
    cases acc
    · rw [if_neg nofun, Nat.zero_add]; rfl
    · rfl
  · rw [Tile.drainWord, if_pos hmode, reduce_eq hp hold]

end Sys2Proof.Proofs.ModularPass
end

section

/-! PROOFS. The number-theoretic transform and the gadget digits (R85, R128, R129): what each list
function computes, as a sum or a power of plain numbers. -/

namespace Sys2Proof.Proofs.Transforms

open Sys2Proof Sys2Proof.Machine

/-- A polynomial with `k` coefficients is the sum of its terms, as a congruence. -/
theorem evalPoly_modEq (q x : Nat) (l : List Nat) :
    evalPoly q x l ≡ ((List.range l.length).map (fun k => l.getD k 0 * x ^ k)).sum [MOD q] := by
  induction l with
  | nil => exact Nat.ModEq.refl 0
  | cons a l ih =>
    have hs : ((List.range (a :: l).length).map (fun k => (a :: l).getD k 0 * x ^ k)).sum =
        a + x * ((List.range l.length).map (fun k => l.getD k 0 * x ^ k)).sum := by
      rw [List.length_cons, List.range_succ_eq_map, ← List.sum_map_mul_left]
      simp only [List.map_cons, List.map_map, List.sum_cons, List.getD_cons_zero, pow_zero, mul_one]
      congr 2
      refine List.map_congr_left fun k _ => ?_
      simp only [Function.comp, Nat.succ_eq_add_one, List.getD_cons_succ, pow_succ]
      ring
    rw [hs]
    exact (Nat.mod_modEq _ q).trans ((ih.mul_left x).add_left a)

/-- A polynomial with a coefficient is evaluated to a reduced value. -/
theorem evalPoly_lt {q : Nat} (x : Nat) {l : List Nat} (hq : 1 < q) : evalPoly q x l < q := by
  cases l with
  | nil => exact Nat.zero_lt_of_lt hq
  | cons a l => exact Nat.mod_lt _ (by omega)

theorem length_powers (q x p : Nat) (k : Nat) : (powers q x p k).length = k := by
  induction k generalizing p with
  | zero => rfl
  | succ k ih => exact congrArg (· + 1) (ih _)

/-- Entry `i` of the list of powers is the start times the `i`-th power, as a congruence. -/
theorem powers_getElem (q x p : Nat) {k i : Nat} (hi : i < k) :
    ∃ y, (powers q x p k)[i]? = some y ∧ y ≡ p * x ^ i [MOD q] := by
  induction k generalizing p i with
  | zero => exact absurd hi (Nat.not_lt_zero i)
  | succ k ih =>
    cases i with
    | zero => exact ⟨p, rfl, by rw [pow_zero, mul_one]⟩
    | succ i =>
      obtain ⟨y, hy, hm⟩ := ih (p * x % q) (Nat.lt_of_succ_lt_succ hi)
      refine ⟨y, hy, hm.trans (((Nat.mod_modEq (p * x) q).mul_right (x ^ i)).trans ?_)⟩
      rw [pow_succ, mul_assoc, mul_comm x]

/-- Halving finds the power of every exponent below two to the fuel. -/
theorem powMod_modEq (q x : Nat) {fuel e : Nat} (he : e < 2 ^ fuel) :
    powMod q x fuel e ≡ x ^ e [MOD q] := by
  induction fuel generalizing x e with
  | zero =>
    obtain rfl : e = 0 := by simpa using he
    exact Nat.mod_modEq 1 q
  | succ fuel ih =>
    unfold powMod
    by_cases h0 : e = 0
    · rw [if_pos h0, h0, pow_zero]
      exact Nat.mod_modEq 1 q
    rw [if_neg h0]
    have hh : powMod q (x * x % q) fuel (e / 2) ≡ x ^ (2 * (e / 2)) [MOD q] := by
      refine (ih (x * x % q) (by rw [pow_succ] at he; omega)).trans ?_
      rw [pow_mul, pow_two]
      exact (Nat.mod_modEq _ q).pow _
    by_cases h1 : e % 2 = 1
    · have hx : x ^ e = x ^ (2 * (e / 2)) * x := by rw [← pow_succ]; congr 1; omega
      simp only [if_pos h1]
      rw [hx]
      exact (Nat.mod_modEq _ q).trans (hh.mul_right x)
    · have hx : 2 * (e / 2) = e := by omega
      rw [hx] at hh
      simpa only [if_neg h1] using hh

/-- A sum of terms is congruent where the base is. -/
theorem sum_modEq {q : Nat} {x y : Nat} (c : Nat → Nat) (e : Nat → Nat) (n : Nat)
    (h : ∀ k, x ^ k ≡ y ^ e k [MOD q]) :
    ((List.range n).map (fun k => c k * x ^ k)).sum ≡ ((List.range n).map (fun k => c k * y ^ e k)).sum [MOD q] := by
  induction List.range n with
  | nil => exact Nat.ModEq.refl 0
  | cons k l ih => exact ((h k).mul_left (c k)).add ih

/-- Word `m` of the forward transform is the polynomial's value at the power 2m + 1 (R85). -/
theorem nttFwd_word {q : Nat} (psi : Nat) {l : List Nat} {m : Nat} (hq : 1 < q) (hm : m < l.length) :
    (nttFwd q psi l)[m]? =
      some (((List.range l.length).map (fun k => l.getD k 0 * psi ^ (k * (2 * m + 1)))).sum % q) := by
  obtain ⟨y, hy, hp⟩ := powers_getElem q (psi * psi % q) psi hm
  have hbase : y ≡ psi ^ (2 * m + 1) [MOD q] := by
    refine hp.trans ((((Nat.mod_modEq (psi * psi) q).pow m).mul_left psi).trans ?_)
    rw [← pow_two, ← pow_mul, mul_comm psi, ← pow_succ]
  unfold nttFwd
  rw [List.getElem?_map, hy]
  refine congrArg some ?_
  refine (Nat.mod_eq_of_lt (evalPoly_lt y hq)).symm.trans ((evalPoly_modEq q y l).trans ?_)
  refine sum_modEq _ (fun k => k * (2 * m + 1)) _ fun k => ?_
  rw [mul_comm k, pow_mul]
  exact hbase.pow k

/-- Word `k` of the inverse transform, before the powers are named (R128). -/
theorem nttInv_word {q : Nat} (psi : Nat) {l : List Nat} {k : Nat} (hq : 1 < q) (hq64 : q < 2 ^ 64)
    (hk : k < l.length) (hl : l.length < 2 ^ 32) :
    (nttInv q psi l)[k]? = some (l.length ^ (q - 2) *
      ((List.range l.length).map (fun m => l.getD m 0 * (psi ^ (2 * l.length - 1)) ^ (k * (2 * m + 1)))).sum % q) := by
  have hinv := powMod_modEq q psi (fuel := 64) (e := 2 * l.length - 1) (by omega)
  have hn : powMod q (l.length % q) 64 (q - 2) ≡ l.length ^ (q - 2) [MOD q] :=
    (powMod_modEq q (l.length % q) (fuel := 64) (by omega)).trans ((Nat.mod_modEq _ q).pow _)
  unfold nttInv
  extract_lets n inv ninv w t
  generalize hc : psi ^ (2 * l.length - 1) = c at hinv ⊢
  have hinv : inv ≡ c [MOD q] := hinv
  obtain ⟨y, hy, hyp⟩ := powers_getElem q (inv * inv % q) 1 hk
  obtain ⟨z, hz, hzp⟩ := powers_getElem q inv 1 hk
  have hyc : y ≡ c ^ (2 * k) [MOD q] := by
    refine hyp.trans ?_
    rw [one_mul, pow_mul, pow_two]
    exact ((Nat.mod_modEq _ q).trans (hinv.mul hinv)).pow k
  have hzc : z ≡ c ^ k [MOD q] := by
    refine hzp.trans ?_
    rw [one_mul]
    exact hinv.pow k
  rw [List.getElem?_map, show (w.zip t)[k]? = some (y, z) from List.getElem?_zip_eq_some.mpr ⟨hy, hz⟩]
  refine congrArg some (Nat.ModEq.mul hn ((Nat.mod_modEq _ q).trans ?_))
  refine (hzc.mul (evalPoly_modEq q y l)).trans ?_
  rw [← List.sum_map_mul_left]
  have hs : ∀ m, c ^ k * (l.getD m 0 * (c ^ (2 * k)) ^ m) = l.getD m 0 * c ^ (k * (2 * m + 1)) := fun m => by
    rw [← pow_mul, mul_left_comm, ← pow_add]
    congr 2; ring
  have hm : ((List.range l.length).map (fun m => c ^ k * (l.getD m 0 * y ^ m))).sum ≡
      ((List.range l.length).map (fun m => c ^ k * (l.getD m 0 * (c ^ (2 * k)) ^ m))).sum [MOD q] := by
    rw [List.sum_map_mul_left, List.sum_map_mul_left]
    exact (sum_modEq _ id _ fun m => hyc.pow m).mul_left _
  exact hm.trans (by simp only [hs]; exact Nat.ModEq.refl _)

/-- The remainder moved into the balanced range of one digit (R129). -/
def digit (glog : Nat) (v : Int) : Int :=
  let m := v % (2 ^ glog : Nat)
  if (2 ^ (glog - 1) : Nat) ≤ m then m - (2 ^ glog : Nat) else m

theorem gadget_succ (glog : Nat) (v : Int) (k : Nat) :
    gadget glog v (k + 2) = digit glog v :: gadget glog ((v - digit glog v) / (2 ^ glog : Nat)) (k + 1) := rfl

theorem digit_range {glog : Nat} (v : Int) (hg : 0 < glog) :
    -(2 ^ (glog - 1) : Int) ≤ digit glog v ∧ digit glog v < 2 ^ (glog - 1) := by
  obtain ⟨g, rfl⟩ : ∃ g, glog = g + 1 := ⟨glog - 1, by omega⟩
  have h0 : 0 < (2 ^ g : Int) := by positivity
  have hm := Int.emod_nonneg v (b := 2 * 2 ^ g) (by omega)
  have hl := Int.emod_lt_of_pos v (b := 2 * 2 ^ g) (by omega)
  simp only [digit, Nat.add_sub_cancel, pow_succ, Nat.cast_mul, Nat.cast_pow, Nat.cast_ofNat]
  rw [mul_comm ((2 : Int) ^ g) 2]
  split_ifs <;> omega

/-- What the digit leaves divides by the weight. -/
theorem digit_dvd (glog : Nat) (v : Int) : ((2 ^ glog : Nat) : Int) ∣ v - digit glog v := by
  have h : ((2 ^ glog : Nat) : Int) ∣ v - v % (2 ^ glog : Nat) := Int.dvd_self_sub_emod
  simp only [digit]
  split_ifs
  · rw [← sub_add]
    exact dvd_add h (dvd_refl _)
  · exact h

theorem length_gadget (glog : Nat) (v : Int) (k : Nat) : (gadget glog v k).length = k := by
  induction k generalizing v with
  | zero => rfl
  | succ k ih =>
    cases k with
    | zero => rfl
    | succ k => rw [gadget_succ, List.length_cons, ih]

/-- The digits add up to the value. -/
theorem gadget_sum (glog : Nat) (v : Int) (k : Nat) :
    ((List.range (k + 1)).map (fun i => (gadget glog v (k + 1)).getD i 0 * 2 ^ (glog * i))).sum = v := by
  induction k generalizing v with
  | zero =>
    change (List.map (fun i => [v].getD i 0 * 2 ^ (glog * i)) [0]).sum = v
    simp
  | succ k ih =>
    have ht := ih ((v - digit glog v) / (2 ^ glog : Nat))
    have hd := Int.ediv_mul_cancel (digit_dvd glog v)
    rw [gadget_succ, List.range_succ_eq_map, List.map_cons, List.map_map, List.sum_cons]
    have hs : ((fun i => (digit glog v :: gadget glog ((v - digit glog v) / (2 ^ glog : Nat)) (k + 1)).getD i 0 *
          (2 : Int) ^ (glog * i)) ∘ Nat.succ) =
        fun i => (gadget glog ((v - digit glog v) / (2 ^ glog : Nat)) (k + 1)).getD i 0 * 2 ^ (glog * i) *
          (2 ^ glog : Nat) := by
      funext i
      simp only [Function.comp, Nat.succ_eq_add_one, List.getD_cons_succ, mul_add, pow_add, mul_one, mul_assoc,
        Nat.cast_pow, Nat.cast_ofNat]
    rw [hs, List.sum_map_mul_right, ht, hd, List.getD_cons_zero, Nat.mul_zero, pow_zero, mul_one]
    exact add_sub_cancel _ _

theorem gadget_range {glog : Nat} (v : Int) {k i : Nat} (hg : 0 < glog) (hi : i < k) :
    -(2 ^ (glog - 1) : Int) ≤ (gadget glog v (k + 1)).getD i 0 ∧
      (gadget glog v (k + 1)).getD i 0 < 2 ^ (glog - 1) := by
  induction k generalizing v i with
  | zero => exact absurd hi (Nat.not_lt_zero i)
  | succ k ih =>
    rw [gadget_succ]
    cases i with
    | zero => rw [List.getD_cons_zero]; exact digit_range v hg
    | succ i => rw [List.getD_cons_succ]; exact ih _ (Nat.lt_of_succ_lt_succ hi)

/-- Settles O22: the transforms by congruence of the powers they list, the digits by induction on
their number. -/
theorem transformOrder : Obligations.TransformOrder := by
  unfold Obligations.TransformOrder
  refine ⟨fun q psi l m hq hm => nttFwd_word psi hq hm, fun q psi l k hq h64 hk hl => nttInv_word psi hq h64 hk hl,
    fun glog dd v hg hd => ?_⟩
  obtain ⟨k, rfl⟩ : ∃ k, dd = k + 1 := ⟨dd - 1, by omega⟩
  exact ⟨length_gadget glog v (k + 1), gadget_sum glog v k,
    fun i hi => gadget_range v hg (Nat.lt_of_succ_lt_succ hi)⟩

end Sys2Proof.Proofs.Transforms

end

section
/-! PROOFS. The table banks: a load's landing, TBL.SWAP, TBL.STAT and the flip (TableBanks). -/

namespace Sys2Proof.Proofs.TableLoads

open Sys2Proof Sys2Proof.Machine Sys2Proof.Laws.State Sys2Proof.Laws.Sparse Sys2Proof.Laws.Ops
  Sys2Proof.Proofs.Tables Sys2Proof.Proofs.VectorEngine Sys2Proof.Proofs.FlagWaits

variable {b : Bay} {s : State}

/-- A run of entries reads back as it was written, and the others as before. -/
theorem get_setList {α : Type} [DecidableEq α] {d : Nat → α} {m : Sparse α} {k j : Nat} {vs : List α}
    (h : Sparse.wf d m = true) :
    Sparse.get d (Sparse.setList d m k vs) j =
      if k ≤ j then (vs[j - k]?).getD (Sparse.get d m j) else Sparse.get d m j := by
  induction vs generalizing m k with
  | nil => simp [Sparse.setList]
  | cons v vs ih =>
    rw [Sparse.setList, ih (wf_set h)]
    rcases Nat.lt_trichotomy j k with hlt | rfl | hgt
    · rw [if_neg (by omega), if_neg (by omega), get_set_ne (by omega)]
    · rw [if_neg (by omega), if_pos (le_refl j), get_set_self h, Nat.sub_self]
      rfl
    · have hs : j - k = j - (k + 1) + 1 := by omega
      rw [if_pos (by omega), if_pos (by omega), get_set_ne (by omega), hs, List.getElem?_cons_succ]

/-- A bay's known-bad words stand while its protection does. -/
theorem badWords_setBay {x : Bays} (h : x.prot = (s.bay b).prot) (n : Nat) :
    badWords (s.setBay b x) n = badWords s n := by
  unfold badWords
  split
  case isFalse => rfl
  case isTrue hn =>
    by_cases hb : (⟨n, hn⟩ : Bay) = b
    · subst hb
      exact (congrArg (fun y : Bays => y.prot.bad) (bay_setBay (s := s) (b := ⟨n, hn⟩))).trans (congrArg Prot.bad h)
    · exact congrArg (fun y : Bays => y.prot.bad) (bay_setBay_ne (s := s) (b := b) hb)

/-- Moving a bay's units leaves which bytes read as bad. -/
theorem byteBad_setBay {x : Bays} (h : x.prot = (s.bay b).prot) : byteBad (s.setBay b x) = byteBad s := by
  funext a
  unfold byteBad
  cases spadAt a with
  | none => rfl
  | some p => exact congrArg (fun l : List Nat => l.contains (p.2 / 8)) (badWords_setBay h p.1)

theorem byteBad_updTbl {f : Tbl → Tbl} : byteBad (updTbl b f s) = byteBad s := byteBad_setBay rfl

/-- Superseded write-backs move no unit (R243). -/
theorem tbl_rewrote {id lo n : Nat} : ((rewrote b id lo n s).bay b).tbl = (s.bay b).tbl := by
  simp [rewrote, updProt]

theorem onlyBay_rewrote {id lo n : Nat} : onlyBay b s (rewrote b id lo n s) := onlyBay_updProt

/-- The first entry of a load's slot. -/
def slotBase (e : TblLoad) : Nat := (if e.bank = true then 16384 else 0) + 1024 * e.slot.val

/-- The 1,024 entries a load's source holds. -/
def loadWords (e : TblLoad) (s : State) : List (BitVec 16) :=
  (List.range 1024).map (fun i => BitVec.ofNat 16 (fieldAt (s.gather (e.d.addrs 0 2048)) (2 * i) 2))

/-- The load's source is sound: the entries are written and the flag set. -/
theorem finishTbl_sound {e : TblLoad} (h : (e.d.addrs 0 2048).any (byteBad s) = false) :
    finishTbl b e s = putFlag b e.fd true (rewrote b 0x14 ((if e.bank then 0x8000 else 0) + 2048 * e.slot.val) 2048
      (updTbl b (fun t => { t with ent := Sparse.setList tblDefault t.ent (slotBase e) (loadWords e s) })
        (updTbl b (fun t => { t with loads := t.loads.drop 1 }) s))) := by
  have hb : (e.d.addrs 0 2048).any (byteBad (updTbl b (fun t => { t with loads := t.loads.drop 1 }) s)) = false := by
    rw [byteBad_updTbl, h]
  unfold finishTbl
  exact if_neg (Bool.eq_false_iff.mp hb)

theorem exec_tblLdComplete {e : TblLoad} {r : List TblLoad} (hr : dieRuns s = true) (hm : memFree s = true)
    (hl : (s.bay b).tbl.loads = e :: r) : exec (.tblLdComplete b .clean) s = .next (finishTbl b e s) := by
  change execTblLdComplete b .clean s = _
  rw [execTblLdComplete, hl]
  exact congrArg Host.Outcome.next ((if_pos (alive_of_dieRuns hr)).trans (guarded_clean hm))

/-- Inside the slot an entry reads as its source's field, outside as before (R136). -/
theorem get_loadWords {e : TblLoad} {m : Sparse (BitVec 16)} (h : Sparse.wf tblDefault m = true) (i : Nat) :
    Sparse.get tblDefault (Sparse.setList tblDefault m (slotBase e) (loadWords e s)) i =
      if slotBase e ≤ i ∧ i < slotBase e + 1024 then
        BitVec.ofNat 16 (fieldAt (s.gather (e.d.addrs 0 2048)) (2 * (i - slotBase e)) 2)
      else Sparse.get tblDefault m i := by
  rw [get_setList h]
  by_cases hlo : slotBase e ≤ i
  · rw [if_pos hlo, loadWords, List.getElem?_map]
    by_cases hhi : i < slotBase e + 1024
    · rw [if_pos ⟨hlo, hhi⟩, List.getElem?_range (by omega)]
      rfl
    · rw [if_neg fun h => hhi h.2, List.getElem?_eq_none (by simpa using by omega)]
      rfl
  · rw [if_neg hlo, if_neg fun h => hlo h.1]

/-- Settles O24: a landing is one run of sparse writes, the others one change of the unit. -/
theorem tableBanks : Obligations.TableBanks := by
  unfold Obligations.TableBanks
  refine ⟨fun b e r s hr hm hl hok hw => ?_, fun b s hm => ?_, fun b cn s hm hf => ?_, fun b s hr hp hl ho => ?_⟩
  · refine ⟨_, (exec_tblLdComplete hr hm hl).trans (congrArg _ (finishTbl_sound hok)), ?_, ?_, ?_, ?_, fun i => ?_⟩
    · exact onlyBay_trans onlyBay_updTbl (onlyBay_trans onlyBay_updTbl (onlyBay_trans onlyBay_rewrote onlyBay_putFlag))
    · exact flagOf_putFlag.trans (if_pos rfl)
    · simp [tbl_rewrote, hl]
    · simp [tbl_rewrote]
    · simp only [tbl_putFlag, tbl_rewrote, tbl_updTbl]
      exact get_loadWords hw i
  · refine ⟨_, congrArg Host.Outcome.next (issue_ready hm free_nil), onlyBay_trans onlyBay_updTbl onlyBay_retire, ?_, ?_⟩
    · rw [strm_retire, strm_updTbl]
    · simp
  · refine ⟨_, congrArg Host.Outcome.next (issue_ready hm hf), onlyStrm_updStrm, ?_⟩
    simp [putCtr]
  · refine ⟨_, congrArg Host.Outcome.next (if_pos (by simp [alive_of_dieRuns hr, hp, hl, ho])), onlyBay_updTbl, ?_⟩
    simp

end Sys2Proof.Proofs.TableLoads
end

section
/-! PROOFS. The test access port: its instructions, the boundary register and memory access (TestAccess). -/

namespace Sys2Proof.Proofs.TestPort

open Sys2Proof Sys2Proof.Machine Sys2Proof.Laws.State Sys2Proof.Laws.Memory Sys2Proof.Laws.Ops Sys2Proof.Proofs.Tables
  Sys2Proof.Proofs.VectorEngine Sys2Proof.Proofs.RecordRing

variable {s t : State}

/-! ### A run of sound words reads back as it was stored -/

theorem storeKeeps_of_sound {a len i : Nat} (hb : rangeBad s a len = false) (hi : i < len) :
    storeKeeps s a len (a + i) = true := by
  have h : byteBad s (a + i) = false := by
    simpa using List.any_eq_false.mp hb i (List.mem_range.mpr hi)
  rw [storeKeeps, h]
  rfl

theorem ld_store_sound {a req : Nat} {v : List Byte} (hm : MemInv s) (hb : rangeBad s a v.length = false) :
    (s.store a v req).ld a v.length = v := by
  rw [ld_eq_map]
  refine List.ext_getElem (by simp) fun i h₁ h₂ => ?_
  rw [List.getElem_map, List.getElem_range', Nat.one_mul, rd_store_inside hm h₂, if_pos (storeKeeps_of_sound hb h₂)]

/-! ### The instructions (R444) -/

theorem tapInstr_eq (code : Byte) (closed : Bool) : tapInstr code closed =
    (if code = 0x00#8 then .extest else if code = 0x01#8 then .sample else if code = 0x02#8 then .idcode
     else if code = 0x10#8 ∧ closed = false then .intscan else if code = 0x11#8 ∧ closed = false then .memacc
     else .bypass) := by
  revert code closed
  decide +kernel

theorem loadIr_of_held {code : Byte} (h : tapFree s = false) : loadIr code s = s := by
  rw [loadIr, h]
  rfl

theorem memaccUpdate_of_held {cmd : Byte} {a : BitVec 48} {d : Option (BitVec 64)} (h : tapFree s = false) :
    memaccUpdate cmd a d s = s := by
  rw [memaccUpdate, h]
  rfl

theorem tapFree_eq_false (h : s.pwr.st ≠ .run ∨ s.tap.trstLow = true) : tapFree s = false := by
  rcases h with h | h <;> simp [tapFree, tapOn, h]

theorem tapFree_of_run (hp : s.pwr.st = .run) (ht : s.tap.trstLow = false) : tapFree s = true := by
  simp [tapFree, tapOn, hp, ht]

/-- The state with a code loaded. -/
def irLoaded (code : Byte) (s : State) : State :=
  { s with tap := { s.tap with
    ir := code, irOut := 1#8, byp := s.tap.byp && decide (tapInstr code (policyClosed s.trust) ≠ .bypass) } }

/-- A free TAP takes a code; INTSCAN, where the policy permits it, stops the die (R444, R448). -/
theorem loadIr_of_free {code : Byte} (h : tapFree s = true) :
    loadIr code s = if tapInstr code (policyClosed s.trust) = .intscan then stopDie (irLoaded code s) else irLoaded code s := by
  have hb : (tapInstr code (policyClosed s.trust) != TapIr.bypass) =
      decide (tapInstr code (policyClosed s.trust) ≠ TapIr.bypass) := by
    generalize tapInstr code (policyClosed s.trust) = r
    cases r <;> rfl
  rw [loadIr, if_pos h, hb]
  rfl

theorem mem_stopDie : (stopDie s).mem = s.mem.filter (fun e => decide (stackEnd ≤ e.1)) := by
  refine List.filter_congr fun e _ => ?_
  by_cases h : e.1 < stackEnd <;> simp [inStack, h, Nat.not_le.mpr, Nat.le_of_not_lt]

theorem loadIr_eq {code : Byte} (h : tapFree s = true) :
    loadIr code s = (if tapInstr code (policyClosed s.trust) = .intscan then
      { irLoaded code s with tap := { (irLoaded code s).tap with cdStopped := true }
                             mem := s.mem.filter (fun e => decide (stackEnd ≤ e.1)) } else irLoaded code s) := by
  rw [loadIr_of_free h]
  congr 1
  exact congrArg (fun m => { irLoaded code s with tap := { (irLoaded code s).tap with cdStopped := true }, mem := m })
    (mem_stopDie (s := irLoaded code s))

/-! ### The boundary register (R446, R447) -/

/-- A code whose instruction neither scans nor bypasses only becomes current. -/
theorem loadIr_scan {code : Byte} (h : tapFree s = true) (hi : tapInstr code (policyClosed s.trust) ≠ .intscan)
    (hb : tapInstr code (policyClosed s.trust) ≠ .bypass) :
    loadIr code s = { s with tap := { s.tap with ir := code, irOut := 1#8 } } := by
  rw [loadIr_of_free h, if_neg hi, irLoaded, decide_eq_true hb, Bool.and_true]

theorem tapInstr_extest (closed : Bool) : tapInstr 0x00#8 closed = .extest := rfl

theorem tapInstr_sample (closed : Bool) : tapInstr 0x01#8 closed = .sample := rfl

/-- The five contacts below TMX, as cells 0 to 4. -/
def lowCells (r p g n e : Bool) : BitVec 5 :=
  BitVec.ofNat 5 (bitAt 0 r + (bitAt 1 p + bitAt 2 g + bitAt 3 n) + bitAt 4 e)

theorem lowCells_spec (r p g n e : Bool) :
    (lowCells r p g n e).toNat = bitAt 0 r + (bitAt 1 p + bitAt 2 g + bitAt 3 n) + bitAt 4 e ∧
    (lowCells r p g n e).getLsbD 0 = r ∧ (lowCells r p g n e).getLsbD 1 = p ∧ (lowCells r p g n e).getLsbD 2 = g ∧
    (lowCells r p g n e).getLsbD 3 = n ∧ (lowCells r p g n e).getLsbD 4 = e := by
  revert r p g n e
  decide

/-- A boundary value is the TMX levels above the five other cells. -/
theorem ofNat_cells (l : BitVec 5) (w : BitVec 16) : BitVec.ofNat 21 (l.toNat + w.toNat * 32) = w ++ l := by
  apply BitVec.eq_of_toNat_eq
  have hw := w.isLt
  have hl := l.isLt
  rw [BitVec.toNat_append, BitVec.toNat_ofNat, ← Nat.shiftLeft_add_eq_or_of_lt hl, Nat.shiftLeft_eq]
  omega

/-- The cells of a boundary value built from its parts. -/
theorem boundary_cells (r p g n e : Bool) (w : BitVec 16) :
    let x := BitVec.ofNat 21 (bitAt 0 r + (bitAt 1 p + bitAt 2 g + bitAt 3 n) + bitAt 4 e + w.toNat * 32)
    x.getLsbD 0 = r ∧ x.getLsbD 1 = p ∧ x.getLsbD 2 = g ∧ x.getLsbD 3 = n ∧ x.getLsbD 4 = e ∧ x.extractLsb' 5 16 = w := by
  obtain ⟨hl, h0, h1, h2, h3, h4⟩ := lowCells_spec r p g n e
  have hbit : ∀ i, i < 5 → (w ++ lowCells r p g n e).getLsbD i = (lowCells r p g n e).getLsbD i := fun i hi => by
    rw [BitVec.getLsbD_append, if_pos hi]
  intro x
  have hx : x = w ++ lowCells r p g n e := by rw [← ofNat_cells, hl]
  rw [hx, hbit 0 (by decide), hbit 1 (by decide), hbit 2 (by decide), hbit 3 (by decide), hbit 4 (by decide)]
  refine ⟨h0, h1, h2, h3, h4, ?_⟩
  apply BitVec.eq_of_getLsbD_eq
  intro i hi
  rw [BitVec.getLsbD_extractLsb', BitVec.getLsbD_append, if_neg (by omega), Nat.add_sub_cancel_left, decide_eq_true hi, Bool.true_and]

theorem statusLevels_of_extest (h : tapNow s = .extest) : statusLevels s = s.tap.bndOut.toNat / 2 % 8 * 2 := if_pos h

theorem tmxLevels_of_extest (h : tapNow s = .extest) (hp : s.pwr.st = .run) :
    tmxLevels s = (if s.tap.bndOut.getLsbD 4 = true then some (s.tap.bndOut.extractLsb' 5 16) else none) := by
  have hon : tapOn s = true := by simp [tapOn, hp]
  rw [tmxLevels, hon, if_neg (by decide), if_pos h]

theorem statusLevels_of_not_extest (h : tapNow s ≠ .extest) : statusLevels s = statusPins s := if_neg h

theorem tmxLevels_of_run (h : tapNow s ≠ .extest) (hp : s.pwr.st = .run) : tmxLevels s = some (tmxPins s) := by
  simp [tmxLevels, tapOn, hp, h]

theorem tmxLevels_of_off (hp : s.pwr.st ≠ .run) : tmxLevels s = none := by
  simp [tmxLevels, tapOn, hp]

/-- What the boundary register captures from the device's own levels. -/
theorem boundary_of_run {refclk : Bool} {w : Nat} (h : tapNow s ≠ .extest) (hp : s.pwr.st = .run) :
    boundary refclk s w = BitVec.ofNat 21 (bitAt 0 refclk + (bitAt 1 true + bitAt 2 (s.faults.gong == 0#8) +
      bitAt 3 (!s.pwr.thermN)) + bitAt 4 true + (tmxPins s).toNat * 32) := by
  rw [boundary, tmxLevels_of_run h hp, statusLevels_of_not_extest h, statusPins, hp]
  rfl

/-- The state with SAMPLE/PRELOAD current. -/
def sampling (s : State) : State := { s with tap := { s.tap with ir := 0x01#8, irOut := 1#8 } }

/-- Sampling captures REFCLK, the status contacts and the TMX contacts. -/
theorem boundary_sample {refclk : Bool} {w : Nat} (hp : s.pwr.st = .run) :
    (boundary refclk (sampling s) w).getLsbD 0 = refclk ∧ (boundary refclk (sampling s) w).getLsbD 1 = true ∧
    (boundary refclk (sampling s) w).getLsbD 2 = decide (s.faults.gong = 0#8) ∧
    (boundary refclk (sampling s) w).getLsbD 3 = !s.pwr.thermN ∧ (boundary refclk (sampling s) w).getLsbD 4 = true ∧
    (s.tmx.hold = 0 → s.od.tmxNow ≠ 3 → (boundary refclk (sampling s) w).extractLsb' 5 16 = s.tmx.out) := by
  have hnow : tapNow (sampling s) ≠ .extest := fun h => by cases h
  obtain ⟨h0, h1, h2, h3, h4, h5⟩ := boundary_cells refclk true (s.faults.gong == 0#8) (!s.pwr.thermN) true (tmxPins s)
  have hb : boundary refclk (sampling s) w = _ := boundary_of_run (refclk := refclk) (w := w) hnow hp
  rw [hb]
  refine ⟨h0, h1, h2.trans (beq_eq_decide _ _), h3, h4, fun hh hn => h5.trans ?_⟩
  simp [tmxPins, hh, hn]

/-! ### Memory access (R449) -/

/-- What a code event may change before a unit's step goes on: memory, bays, stacks and codes, not the record. -/
def RecordStands (s t : State) : Prop := t.rcd = s.rcd ∧ t.run = s.run ∧ t.beat = s.beat ∧ t.tick = s.tick

theorem recordStands_refl : RecordStands s s := ⟨rfl, rfl, rfl, rfl⟩

theorem ite_stands {u : State} {c : Prop} [Decidable c] (h : RecordStands s t) (g : RecordStands s u) :
    RecordStands s (if c then t else u) := by
  split
  · exact h
  · exact g

theorem recordStands_trans {u : State} (h : RecordStands s t) (g : RecordStands t u) : RecordStands s u := by
  obtain ⟨h₁, h₂, h₃, h₄⟩ := h
  obtain ⟨g₁, g₂, g₃, g₄⟩ := g
  exact ⟨g₁.trans h₁, g₂.trans h₂, g₃.trans h₃, g₄.trans h₄⟩

theorem recordStands_sectorPut {a : Nat} {v : List Byte} : RecordStands s (sectorPut a v s) := ⟨rfl, rfl, rfl, rfl⟩

theorem recordStands_sectorSpoil {a : Nat} : RecordStands s (sectorSpoil a s) := ⟨rfl, rfl, rfl, rfl⟩

theorem recordStands_updStk {n : Nat} {f : Stack → Stack} : RecordStands s (s.updStk n f) := by
  unfold State.updStk
  split
  · exact ⟨rfl, rfl, rfl, rfl⟩
  · exact recordStands_refl

theorem recordStands_sectorCorrected {a : Nat} : RecordStands s (sectorCorrected a s) :=
  ite_stands ⟨rfl, rfl, rfl, rfl⟩
    (recordStands_trans (t := { s with codes := { s.codes with secCorr := satAdd 64 s.codes.secCorr 1 } })
      ⟨rfl, rfl, rfl, rfl⟩ recordStands_updStk)

theorem recordStands_sectorRead {e : SectorErr} : RecordStands s (sectorRead e s) := by
  simp only [sectorRead]
  generalize secDecode (errPattern e) = d
  refine ite_stands recordStands_refl ?_
  cases d with
  | report => exact recordStands_sectorSpoil
  | unseen => exact ite_stands recordStands_refl recordStands_sectorPut
  | correct f => exact recordStands_trans recordStands_sectorPut recordStands_sectorCorrected

theorem recordStands_readSectors {es : List SectorErr} {l : List Nat} : RecordStands s (readSectors es l s) := by
  rw [readSectors]
  induction es generalizing s with
  | nil => exact recordStands_refl
  | cons e es ih =>
    rw [List.foldl_cons]
    split
    · exact recordStands_trans recordStands_sectorRead ih
    · exact ih

theorem recordStands_misread {b : Bay} {w : Nat} {v : BitVec 64} : RecordStands s (misread b w v s) := by
  rw [misread]
  split
  · exact recordStands_refl
  · simp only [putWord]
    split <;> exact ⟨rfl, rfl, rfl, rfl⟩

theorem recordStands_guardedQuiet {b : Bay} {ev : CodeEvent} {rd wr : List Nat} {k : State → State}
    (hk : ∀ t, RecordStands t (k t)) : RecordStands s (guardedBy askQuiet b ev rd wr k s) := by
  rw [guardedBy]
  split
  · exact recordStands_refl
  cases ev with
  | page w =>
    dsimp only
    split
    · exact ⟨rfl, rfl, rfl, rfl⟩
    · exact hk s
  | wrong w v =>
    refine recordStands_trans ?_ (hk _)
    split
    · exact recordStands_misread
    · exact recordStands_refl
  | fixed id i =>
    refine recordStands_trans ?_ (hk _)
    split
    · exact ⟨rfl, rfl, rfl, rfl⟩
    · exact recordStands_refl
  | sectors es => exact recordStands_trans recordStands_readSectors (hk _)
  | clean => exact hk s
  | small _ _ => exact hk s
  | vreg _ => exact hk s
  | queue _ => exact hk s
  | slip _ _ _ => exact hk s

theorem recordStands_memaccReads {a : Nat} : RecordStands s (memaccReads a s) := by
  rw [memaccReads]
  split
  · split
    · exact ⟨rfl, rfl, rfl, rfl⟩
    · cases spadAt a <;> exact ⟨rfl, rfl, rfl, rfl⟩
  · exact ⟨rfl, rfl, rfl, rfl⟩

theorem exec_memaccServe (ev : CodeEvent) : exec (.memaccServe ev) s = .next
    (if clocked s && s.tap.maSts == 1#2 && !memaccYields s.tap.maAddr.toNat s then
       if !memaccReaches s.tap.maAddr.toNat then memaccEnd 2#2 s
       else if s.tap.maCmd = 1#8 then guardedBy askQuiet (memaccBay s.tap.maAddr.toNat) ev (memaccWord s.tap.maAddr.toNat) []
         (memaccReads s.tap.maAddr.toNat) s
       else guarded (memaccBay s.tap.maAddr.toNat) ev [] (memaccWord s.tap.maAddr.toNat) (memaccWrites s.tap.maAddr.toNat) s
     else s) := rfl

/-- Serving a read leaves the record ring, the run and the beat as they are. -/
theorem memaccServe_read (ev : CodeEvent) (h : s.tap.maCmd = 1#8) :
    ∃ t, exec (.memaccServe ev) s = .next t ∧ RecordStands s t := by
  refine ⟨_, exec_memaccServe ev, ?_⟩
  rw [if_pos h]
  split
  · split
    · exact ⟨rfl, rfl, rfl, rfl⟩
    · exact recordStands_guardedQuiet fun _ => recordStands_memaccReads
  · exact recordStands_refl

theorem memaccYields_of_noReqs {a : Nat} (h : noReqs s = true) : memaccYields a s = false := by
  have hserved : ∀ k ∈ s.stk.toList, ∀ q ∈ k.reqs, q.served = true := by
    simpa only [noReqs, List.all_eq_true] using h
  have hany : (inChan s (s.stack (Fin.ofNat 12 (placeOf s a).1)) (coordOf (placeOf s a).2).1).any (fun q => !q.served) = false := by
    rw [List.any_eq_false]
    intro q hq
    simp [hserved _ (Vector.mem_toList_iff.mpr (Vector.getElem_mem _)) q (List.mem_filter.mp hq).1]
  rw [memaccYields]
  exact (congrArg (inStack a && ·) hany).trans (Bool.and_false _)

/-- The command in front of an idle memory, by what its address reaches and what it is. -/
theorem memaccServe_clean (hc : clocked s = true) (hm : memFree s = true) (hs : s.tap.maSts = 1#2) :
    exec (.memaccServe .clean) s = .next
      (if !memaccReaches s.tap.maAddr.toNat then memaccEnd 2#2 s
       else if s.tap.maCmd = 1#8 then memaccReads s.tap.maAddr.toNat s else memaccWrites s.tap.maAddr.toNat s) := by
  obtain ⟨hrep, hreq⟩ : noRepair s = true ∧ noReqs s = true := by simpa [memFree] using hm
  have hg : guardedBy askQuiet (memaccBay s.tap.maAddr.toNat) .clean (memaccWord s.tap.maAddr.toNat) []
      (memaccReads s.tap.maAddr.toNat) s = memaccReads s.tap.maAddr.toNat s := by
    simp [guardedBy, underRepair_of_noRepair hrep, ahead_of_noReqs hreq]
  rw [exec_memaccServe, if_pos (by simp [hc, hs, memaccYields_of_noReqs hreq]), hg, guarded_clean hm]

theorem memaccReads_sound {a : Nat} (hb : rangeBad s a 8 = false) :
    memaccReads a s = { s with tap := { s.tap with maSts := 0#2, maData := BitVec.ofNat 64 (s.ldNat a 8) }
                               stk := (traffic [(a, 8)] [] s).stk } := by
  have h : rangeBad (traffic [(a, 8)] [] s) a 8 = false := hb
  simp only [memaccReads, h]
  rfl

theorem memaccWrites_sound {a : Nat} (hb : rangeBad s a 8 = false) :
    memaccWrites a s = drew 1 (memaccEnd 0#2 ((traffic [] [(a, 8)] s).store a (leBytes s.tap.maData.toNat 8) (freeVal s % 256))) := by
  have h : (inStack a && rangeBad (traffic [] [(a, 8)] s) a 8) = false := by
    rw [show rangeBad (traffic [] [(a, 8)] s) a 8 = false from hb, Bool.and_false]
  simp only [memaccWrites, h]
  rfl

/-- A served write stores its word and nothing else. -/
theorem memaccWrites_spec {a : Nat} (hb : rangeBad s a 8 = false) (hm : MemInv s) :
    (memaccWrites a s).tap = { s.tap with maSts := 0#2 } ∧ (memaccWrites a s).ldNat a 8 = s.tap.maData.toNat ∧
      (∀ x : Nat, x < a ∨ a + 8 ≤ x → (memaccWrites a s).rd x = s.rd x) ∧
      ∀ (b : Bay) (st : Strm), (memaccWrites a s).strm b st = s.strm b st := by
  have hlen : (leBytes s.tap.maData.toNat 8).length = 8 := length_leBytes
  rw [memaccWrites_sound hb]
  generalize hu : traffic [] [(a, 8)] s = u
  have hmu : MemInv u := hu ▸ hm
  have hbu : rangeBad u a (leBytes s.tap.maData.toNat 8).length = false := by rw [hlen, ← hu]; exact hb
  refine ⟨by rw [← hu]; rfl, ?_, fun x hx => ?_, fun b st => ?_⟩
  · have h := ld_store_sound (req := freeVal s % 256) hmu hbu
    rw [hlen] at h
    refine (congrArg leNat h).trans (leNat_leBytes.trans (Nat.mod_eq_of_lt s.tap.maData.isLt))
  · refine (rd_store_outside (s := u) (req := freeVal s % 256) (by rw [hlen]; exact hx)).trans ?_
    rw [← hu]
    rfl
  · refine (strm_store (s := u) (req := freeVal s % 256)).trans ?_
    rw [← hu]
    rfl

theorem memaccUpdate_of_free {cmd : Byte} {a : BitVec 48} {d : Option (BitVec 64)} (h : tapFree s = true) :
    memaccUpdate cmd a d s = if tapNow s = .memacc then
      { s with tap := { s.tap with
        maAddr := a, maCmd := cmd, maData := d.getD s.tap.maData
        maSts := if cmd = 1#8 ∨ cmd = 2#8 then 1#2 else if s.tap.maSts = 1#2 then 0#2 else s.tap.maSts } } else s := by
  rw [memaccUpdate, h]
  refine if_congr ?_ rfl rfl
  rw [Bool.true_and]
  generalize tapNow s = r
  cases r <;> decide

/-- Settles O56: an instruction is one change of the instruction register, a served command one guarded access. -/
theorem testAccess : Obligations.TestAccess := by
  unfold Obligations.TestAccess
  refine ⟨tapInstr_eq, fun low s => ?_, fun refclk load code dr addr data s c h hc => ?_,
    fun refclk code s c k hp ht hc => ?_, fun refclk v s hp ht => ?_, fun refclk load s hp ht => ?_,
    fun s h => ⟨statusLevels_of_not_extest h, tmxLevels_of_run h⟩, fun s h => tmxLevels_of_off h,
    fun ev s h => memaccServe_read ev h, fun addr data v s hp ht => ⟨?_, ?_, fun hcl => ?_⟩, fun ev s h => ?_,
    fun s hc hm hs => ⟨fun hr => ?_, fun hr hb hcmd => ⟨memaccReads s.tap.maAddr.toNat s, ?_, ?_⟩, fun hr hb hcmd hinv => ⟨_, ?_, memaccWrites_spec hb hinv⟩⟩⟩
  · cases low <;> rfl
  · have hf := tapFree_eq_false h
    simp only [List.mem_cons, List.not_mem_nil, or_false] at hc
    rcases hc with rfl | rfl | rfl | rfl | rfl | rfl | rfl | rfl
    · exact congrArg Host.Outcome.next (if_neg (by simp [hf]))
    · exact congrArg Host.Outcome.next (if_neg (by simp [hf]))
    · exact congrArg Host.Outcome.next (loadIr_of_held hf)
    · exact congrArg Host.Outcome.next (loadIr_of_held hf)
    · exact congrArg Host.Outcome.next (loadIr_of_held hf)
    · refine congrArg Host.Outcome.next ?_
      rw [loadIr_of_held hf]
      cases dr with
      | none => rfl
      | some v => exact memaccUpdate_of_held hf
    · exact congrArg Host.Outcome.next (memaccUpdate_of_held hf)
    · exact congrArg Host.Outcome.next (memaccUpdate_of_held hf)
  · have hf := tapFree_of_run hp ht
    simp only [List.mem_cons, List.not_mem_nil, or_false, Prod.mk.injEq] at hc
    rcases hc with ⟨rfl, rfl⟩ | ⟨rfl, rfl⟩ | ⟨rfl, rfl⟩ | ⟨rfl, rfl⟩ | ⟨rfl, rfl⟩
    · exact congrArg Host.Outcome.next ((if_pos hf).trans (loadIr_eq hf))
    · exact congrArg Host.Outcome.next (loadIr_eq hf)
    · exact congrArg Host.Outcome.next (loadIr_eq hf)
    · exact congrArg Host.Outcome.next (loadIr_eq hf)
    · exact congrArg Host.Outcome.next (loadIr_eq hf)
  · have hl := loadIr_scan (code := 0x00#8) (tapFree_of_run hp ht) (by rw [tapInstr_extest]; decide) (by rw [tapInstr_extest]; decide)
    refine ⟨_, congrArg Host.Outcome.next (if_pos (tapFree_of_run hp ht)), ?_⟩
    rw [hl]
    exact ⟨rfl, statusLevels_of_extest rfl, tmxLevels_of_extest rfl hp⟩
  · have hl := loadIr_scan (code := 0x01#8) (tapFree_of_run hp ht) (by rw [tapInstr_sample]; decide) (by rw [tapInstr_sample]; decide)
    refine ⟨_, congrArg Host.Outcome.next (if_pos (tapFree_of_run hp ht)), ?_⟩
    rw [hl]
    exact ⟨rfl, boundary_sample hp⟩
  · exact congrArg Host.Outcome.next (memaccUpdate_of_free (tapFree_of_run hp ht))
  · exact congrArg Host.Outcome.next (memaccUpdate_of_free (tapFree_of_run hp ht))
  · have hmem : tapInstr 0x11#8 (policyClosed s.trust) = .memacc := by rw [hcl]; rfl
    have hl := loadIr_scan (code := 0x11#8) (tapFree_of_run hp ht) (by rw [hmem]; decide) (by rw [hmem]; decide)
    refine congrArg Host.Outcome.next ?_
    rw [hl]
    exact (memaccUpdate_of_free (s := { s with tap := { s.tap with ir := 0x11#8, irOut := 1#8 } }) (tapFree_of_run hp ht)).trans
      (if_pos hmem)
  · rw [exec_memaccServe, if_neg (by simp [h])]
  · rw [memaccServe_clean hc hm hs, if_pos (by simp [hr])]
    rfl
  · rw [memaccServe_clean hc hm hs, if_neg (by simp [hr]), if_pos hcmd]
  · rw [memaccReads_sound hb]
  · rw [memaccServe_clean hc hm hs, if_neg (by simp [hr]), if_neg hcmd]

end Sys2Proof.Proofs.TestPort
end

section
/-! PROOFS. The big-number engine: commands, slot writes, aborts and results (BignumCommands, BignumResults). -/

namespace Sys2Proof.Proofs.Bignum

open Sys2Proof Sys2Proof.Machine Sys2Proof.Laws.State Sys2Proof.Laws.Sparse Sys2Proof.Proofs.Tables

variable {s t : State} {e : Bn} {i j : Fin 64} {r : BnRun}

/-! ### Slots -/

theorem slots_put {x : BnSlot} : (e.put i x).slots[j] = if j = i then x else e.slots[j] := by
  simp only [Bn.put, Fin.getElem_fin, Vector.getElem_set, Fin.val_inj, eq_comm]

/-- A change made to each slot of a list, one that made twice is made once. -/
theorem slots_foldl_put {g : BnSlot → BnSlot} (hg : ∀ x, g (g x) = g x) (l : List (Fin 64)) (e : Bn) :
    (l.foldl (fun (e : Bn) i => e.put i (g e.slots[i])) e).slots[j] = if j ∈ l then g e.slots[j] else e.slots[j] := by
  induction l generalizing e with
  | nil => rfl
  | cons i l ih =>
    rw [List.foldl_cons, ih, slots_put]
    by_cases hj : j = i
    · subst hj
      by_cases hl : j ∈ l <;> simp [hl, hg]
    · by_cases hl : j ∈ l <;> simp [hl, hj]

theorem slots_foldl_mark {st : BnSt} (l : List (Fin 64)) (e : Bn) :
    (l.foldl (fun (e : Bn) i => e.mark i st) e).slots[j] =
      if j ∈ l then { e.slots[j] with st := st } else e.slots[j] :=
  slots_foldl_put (g := fun x => { x with st := st }) (fun _ => rfl) l e

theorem slots_freeScratch : (e.freeScratch r).slots[j] =
    if j ∈ bnScratch r.op r.x then BnSlot.reset else e.slots[j] :=
  slots_foldl_put (g := fun _ => BnSlot.reset) (fun _ => rfl) _ e

/-- Sources go back to their former states with their contents kept (R403, R406). -/
theorem slots_restore : (e.restore r).slots[j].words = e.slots[j].words ∧ (e.restore r).slots[j].len = e.slots[j].len := by
  unfold Bn.restore
  induction r.former generalizing e with
  | nil => exact ⟨rfl, rfl⟩
  | cons p l ih =>
    obtain ⟨hw, hl⟩ := ih (e := e.mark p.1 p.2)
    rw [List.foldl_cons, hw, hl, Bn.mark, slots_put]
    split
    case isTrue h => subst h; exact ⟨rfl, rfl⟩
    case isFalse => exact ⟨rfl, rfl⟩

/-! ### Frames -/

/-- Bytes written anew change the list of die-wide uncorrectable bytes alone (R251). -/
theorem cureSlots_frame (l : List (Fin 64)) (s : State) : ∃ d, cureSlots l s = { s with ms := { s.ms with dieBad := d } } := by
  unfold cureSlots
  induction l generalizing s with
  | nil => exact ⟨s.ms.dieBad, rfl⟩
  | cons i l ih =>
    obtain ⟨d, h⟩ := ih (bnCure (512 * i.val) (512 * i.val + 512) s)
    exact ⟨d, by rw [List.foldl_cons, h]; rfl⟩

theorem bnFail_updBn {f : Bn → Bn} : bnFail (updBn f s) = updBn f (bnFail s) := rfl

/-- BN_REASON of a code that names a slot with its operand (R405). -/
def reasonWord (op c : Nat) (p : Fin 64 × Nat) : W32 :=
  BitVec.ofNat 32 (op * 2 ^ 24 + c * 2 ^ 16 + p.1.val * 2 ^ 8 + p.2)

theorem bnReason_named (op : Nat) (c : Nat) (p : Fin 64 × Nat) :
    bnReason op (c, some p) s = updBn (fun e => { e with reason := reasonWord op c p }) s := by
  simp [bnReason, reasonWord]

theorem reason_frame (v : W32) (c : Bool) (s : State) :
    ∃ v' n, (if c then drew 2 (updBn (fun e => { e with reason := v }) s) else updBn (fun e => { e with reason := v }) s) =
      { s with bn := { s.bn with reason := v' }, free := n } := by
  cases c
  · exact ⟨v, s.free, rfl⟩
  · exact ⟨v, s.free + 2, rfl⟩

/-- A recorded reason moves the register and perhaps draws values, nothing else. -/
theorem bnReason_frame (op : Nat) (y : BnWhy) (s : State) :
    ∃ v n, bnReason op y s = { s with bn := { s.bn with reason := v }, free := n } :=
  reason_frame _ y.2.isNone s

/-- An abort that begins records itself, its reason and the fault, and leaves every slot (R405, R406, R408). -/
theorem bnAbortWith_spec (r : BnRun) (y : BnWhy) (s : State) : ∃ v n a, bnAbortWith r y s =
    { s with bn := { s.bn with run := some { r with abort := some a }, reason := v }, free := n
             faults := (countFault 0x47 15 3 s).faults } := by
  unfold bnAbortWith
  obtain ⟨v, n, h⟩ := bnReason_frame r.op y
    (updBn (fun e => { e with run := some { r with abort := some (y.1, (y.2.map (fun p => p.1)).getD r.x.d) } }) s)
  exact ⟨v, n, _, by dsimp only; rw [h]; rfl⟩

/-- An abort of a named slot records that slot. -/
theorem bnAbortWith_named (r : BnRun) (c : Nat) (p : Fin 64 × Nat) (s : State) : bnAbortWith r (c, some p) s =
    { s with bn := { s.bn with
                run := some { r with abort := some (c, p.1) }
                reason := reasonWord r.op c p }
             faults := (countFault 0x47 15 3 s).faults } := by
  unfold bnAbortWith
  dsimp only
  rw [bnReason_named]
  rw [bnFail_updBn, bnFail_updBn]
  rfl

/-- The same, field by field. -/
theorem bnAbortWith_fields (r : BnRun) (c : Nat) (p : Fin 64 × Nat) (s : State) :
    (bnAbortWith r (c, some p) s).bn.slots = s.bn.slots ∧ (bnAbortWith r (c, some p) s).codes = s.codes ∧
    (∃ q : BnRun, (bnAbortWith r (c, some p) s).bn.run = some q ∧ q.abort.isSome = true) ∧
    (bnAbortWith r (c, some p) s).bn.reason = reasonWord r.op c p := by
  have hbn := congrArg (fun t : State => t.bn) (bnAbortWith_named r c p s)
  have hcodes := congrArg (fun t : State => t.codes) (bnAbortWith_named r c p s)
  generalize reasonWord r.op c p = v at hbn ⊢
  generalize bnAbortWith r (c, some p) s = w at hbn hcodes ⊢
  dsimp only at hbn hcodes
  rw [hbn, hcodes]
  exact ⟨rfl, rfl, ⟨_, rfl, rfl⟩, rfl⟩

/-! ### Commands -/

theorem bnCommand_err {op : Nat} {x : BnArgs} {trng : Nat} (hp : s.pwr.st = .run) (h : bnCerr s op x ≠ 0) :
    bnCommand op x trng s =
      { s with bn := { s.bn with cerr := bnCerr s op x }, faults := (countFault 0x47 15 3 s).faults } :=
  (if_pos (by rw [hp]; rfl)).trans (if_pos h)

/-- The distinct source slots of a command. -/
def sourceSlots (op : Nat) (x : BnArgs) : List (Fin 64) := ((bnSources op x).map (fun e => e.1)).eraseDups

theorem bnCommand_ok {op : Nat} {x : BnArgs} {trng : Nat} (hp : s.pwr.st = .run) (h : bnCerr s op x = 0) :
    bnCommand op x trng s = updBn (fun e =>
      { (sourceSlots op x ++ [x.d] ++ bnScratch op x).foldl (fun (e : Bn) i => e.mark i .busy) e with
        cerr := 0, lop := op, out := 0
        run := some ⟨op, x, trng, (sourceSlots op x).map (fun i => (i, (slotAt s i).st)), none⟩ }) s :=
  (if_pos (by rw [hp]; rfl)).trans (if_neg (not_not.mpr h))

/-- Every slot a command names is BUSY with its contents kept (R403). -/
theorem slots_busy {op : Nat} {x : BnArgs} {k : Fin 64} :
    ((sourceSlots op x ++ [x.d] ++ bnScratch op x).foldl (fun (e : Bn) i => e.mark i .busy) e).slots[k] =
      if k = x.d ∨ k ∈ bnScratch op x ∨ k ∈ (bnSources op x).map (fun e => e.1) then { e.slots[k] with st := .busy }
      else e.slots[k] := by
  refine (slots_foldl_mark _ _).trans (if_congr ?_ rfl rfl)
  rw [List.mem_append, List.mem_append, sourceSlots, List.mem_eraseDups, List.mem_singleton]
  tauto

/-- What a command without an error leaves (R398, R403). -/
theorem bnCommand_spec {op : Nat} {x : BnArgs} {trng : Nat} (hp : s.pwr.st = .run) (h : bnCerr s op x = 0) :
    ∃ e : Bn, bnCommand op x trng s = { s with bn := e } ∧ e.cerr = 0 ∧ e.lop = op ∧ e.out = 0 ∧
      (∃ r : BnRun, e.run = some r ∧ r.op = op ∧ r.x = x ∧ r.trng = trng ∧ r.abort = none) ∧
      ∀ k : Fin 64, e.slots[k].words = s.bn.slots[k].words ∧ e.slots[k].len = s.bn.slots[k].len ∧
        e.slots[k].st =
          (if k = x.d ∨ k ∈ bnScratch op x ∨ k ∈ (bnSources op x).map (fun e => e.1) then .busy else s.bn.slots[k].st) := by
  refine ⟨_, bnCommand_ok hp h, rfl, rfl, rfl, ⟨_, rfl, rfl, rfl, rfl, rfl⟩, fun k => ?_⟩
  have hs : (({ (sourceSlots op x ++ [x.d] ++ bnScratch op x).foldl (fun (e : Bn) i => e.mark i .busy) s.bn with
      cerr := 0, lop := op, out := 0
      run := some ⟨op, x, trng, (sourceSlots op x).map (fun i => (i, (slotAt s i).st)), none⟩ } : Bn).slots[k]) = _ :=
    slots_busy (e := s.bn)
  rw [hs]
  split <;> exact ⟨rfl, rfl, rfl⟩

/-! ### Slot writes -/

theorem sealed_iff {k : Fin 64} : sealed k = true ↔ 56 ≤ k.val := decide_eq_true_iff

theorem bnLenWrite_refused {k : Fin 64} {len : BitVec 7}
    (h : s.bn.slots[k].st = .busy ∨ 64 < len.toNat ∨ (56 ≤ k.val ∧ len ≠ 0#7)) :
    bnLenWrite k len s = { s with bn := { s.bn with werr := true } } :=
  if_pos (by rwa [sealed_iff])

theorem bnLenWrite_taken {k : Fin 64} {len : BitVec 7}
    (h : ¬(s.bn.slots[k].st = .busy ∨ 64 < len.toNat ∨ (56 ≤ k.val ∧ len ≠ 0#7))) :
    ∃ d, bnLenWrite k len s = { s with
      bn := s.bn.put k { st := if len = 0#7 then .free else .loaded, len := len.toNat, words := [] }
      ms := { s.ms with dieBad := d } } := by
  obtain ⟨d, hd⟩ := cureSlots_frame [k] s
  refine ⟨d, (if_neg (by rwa [sealed_iff])).trans ?_⟩
  rw [hd]
  rfl

/-- A write of LEN, refused or taken (R396, R397). -/
theorem exec_bnSlotLenWrite {k : Fin 64} {len : BitVec 7} (hp : s.pwr.st = .run) :
    ∃ t, exec (.bnSlotLenWrite k len) s = .next t ∧ t = { s with bn := t.bn, ms := { s.ms with dieBad := t.ms.dieBad } } ∧
      (if s.bn.slots[k].st = .busy ∨ 64 < len.toNat ∨ (56 ≤ k.val ∧ len ≠ 0#7) then t.bn = { s.bn with werr := true }
       else t.bn.slots[k].words = [] ∧ t.bn.slots[k].len = len.toNat ∧
        t.bn.slots[k].st = (if len = 0#7 then .free else .loaded) ∧ ∀ j : Fin 64, j ≠ k → t.bn.slots[j] = s.bn.slots[j]) := by
  have hx : exec (.bnSlotLenWrite k len) s = .next (bnLenWrite k len s) :=
    congrArg Host.Outcome.next (if_pos (by rw [hp]; rfl))
  by_cases h : s.bn.slots[k].st = .busy ∨ 64 < len.toNat ∨ (56 ≤ k.val ∧ len ≠ 0#7)
  · rw [bnLenWrite_refused h] at hx
    exact ⟨_, hx, rfl, by rw [if_pos h]⟩
  · obtain ⟨d, hd⟩ := bnLenWrite_taken h
    rw [hd] at hx
    refine ⟨_, hx, rfl, ?_⟩
    rw [if_neg h]
    refine ⟨?_, ?_, ?_, fun j hj => slots_put.trans (if_neg hj)⟩
    · exact congrArg BnSlot.words (slots_put.trans (if_pos rfl))
    · exact congrArg BnSlot.len (slots_put.trans (if_pos rfl))
    · exact congrArg BnSlot.st (slots_put.trans (if_pos rfl))

theorem exec_bnSlotDataWrite {k w : Fin 64} {v : BitVec 64} (hp : s.pwr.st = .run) :
    exec (.bnSlotDataWrite k w v) s = .next
      (if s.bn.slots[k].ready = true ∧ k.val < 56 ∧ w.val < s.bn.slots[k].len then
        updBn (fun e => e.put k ⟨.loaded, s.bn.slots[k].len, Sparse.set (fun _ => 0#64) s.bn.slots[k].words w v⟩)
          (bnCure (512 * k.val + 8 * w.val) (512 * k.val + 8 * w.val + 8) s)
       else slotRefused s) := by
  refine congrArg Host.Outcome.next ((if_pos (by rw [hp]; rfl)).trans (if_congr ?_ rfl rfl))
  rw [Bool.and_eq_true, Bool.and_eq_true, decide_eq_true_iff, Bool.not_eq_true', ← Bool.not_eq_true, sealed_iff, and_assoc, not_le]
  rfl

/-! ### Aborts -/

/-- Every slot after an abort's end (R406). -/
theorem bnAbortComplete_spec {r : BnRun} (hp : s.pwr.st = .run) (hr : s.bn.run = some r) (ha : r.abort.isSome = true) :
    ∃ u, exec .bnAbortComplete s = .next u ∧ u.bn.run = none ∧ u.bn.out = 3 ∧
      (∀ j : Fin 64, j = r.x.d ∨ j ∈ bnScratch r.op r.x →
        u.bn.slots[j] = { st := .aborted, len := s.bn.slots[j].len, words := [] }) ∧
      (∀ j : Fin 64, j ≠ r.x.d → j ∉ bnScratch r.op r.x → u.bn.slots[j].words = s.bn.slots[j].words) := by
  obtain ⟨d, hd⟩ := cureSlots_frame (r.x.d :: bnScratch r.op r.x) s
  have hs := fun j => slots_foldl_put (j := j) (g := fun x => { st := .aborted, len := x.len, words := [] }) (fun _ => rfl)
    (r.x.d :: bnScratch r.op r.x) (s.bn.restore r)
  have hx : exec .bnAbortComplete s = .next (updBn (fun e =>
      { (r.x.d :: bnScratch r.op r.x).foldl
          (fun (e : Bn) i => e.put i { st := .aborted, len := e.slots[i].len, words := [] }) (e.restore r) with
        run := none, out := 3 }) (cureSlots (r.x.d :: bnScratch r.op r.x) s)) := by
    change execBnAbortComplete s = _
    rw [execBnAbortComplete, hr]
    exact congrArg Host.Outcome.next (if_pos (by rw [hp, ha]; rfl))
  refine ⟨_, hx, ?_⟩
  rw [hd]
  refine ⟨rfl, rfl, fun j hj => (hs j).trans ?_, fun j hd hsc => (congrArg BnSlot.words (hs j)).trans ?_⟩
  · rw [if_pos (List.mem_cons.mpr hj), slots_restore.2]
  · rw [if_neg (fun h => (List.mem_cons.mp h).elim hd hsc), slots_restore.1]

/-- The ways an abort begins: BN_CTL, an uncorrectable byte of a slot in use, and a failed TRNG for RANDS. -/
theorem bnAbort_begins {r : BnRun} {k : Fin 64} {n : Fin 512} {c : Instr} (hp : s.pwr.st = .run) (hr : s.bn.run = some r)
    (ha : r.abort = none)
    (hc : c = .bnAbort ∨ (c = .bnUeAbort k n ∧ (bnRole r k).isSome = true) ∨ (c = .trngHealthFail ∧ r.op = 0x0C)) :
    ∃ y u, exec c s = .next (bnAbortWith r y u) ∧ u.mem = s.mem ∧ u.bays = s.bays ∧ u.bn = s.bn ∧ u.pwr = s.pwr ∧
      (countFault 0x47 15 3 u).faults = (countFault 0x47 15 3 s).faults := by
  rcases hc with rfl | ⟨rfl, hk⟩ | ⟨rfl, hop⟩
  · refine ⟨(0x10, none), s, congrArg Host.Outcome.next ?_, rfl, rfl, rfl, rfl, rfl⟩
    rw [bnAbortNow, hr]
    exact if_pos (by rw [hp, ha]; rfl)
  · obtain ⟨o, ho⟩ := Option.isSome_iff_exists.mp hk
    refine ⟨(0x11, some (k, o)), ueAt 0x23 15 (512 * k.val + n.val)
      (if o = 3 then s else dieSpoil 0x23 (512 * k.val + n.val) s), ?_, ?_⟩
    · change execBnUeAbort k n s = _
      rw [execBnUeAbort, hr]
      dsimp only
      rw [ho]
      exact congrArg Host.Outcome.next (if_pos (by rw [hp, ha]; rfl))
    · split <;> exact ⟨rfl, rfl, rfl, rfl, rfl⟩
  · refine ⟨(0x12, none), s, ?_, rfl, rfl, rfl, rfl, rfl⟩
    change execTrngHealthFail s = _
    rw [execTrngHealthFail, hr]
    exact congrArg Host.Outcome.next (if_pos (by rw [hp, ha, hop]; rfl))

/-! ### Firmware accesses to the engine -/

theorem exec_engine {acc : FwAccess} {t : State} (hp : s.pwr.st = .run) (he : ofEngine acc = true)
    (hn : ofCompute acc = false) (hw : fwWaits acc s = false) (hf : fenced acc s = some t) :
    exec (.firmwareAccess acc) s = .next t := by
  change execFirmwareAccess acc s = _
  rw [execFirmwareAccess, if_pos (by simp [canMake, hp, he, hn, hw]), hf]

/-- A word of a slot reads where it is unsealed and LOADED or RESULT. -/
theorem leBytes_bnWordRead {i k : Fin 64} : leBytes (bnWordRead i k s).toNat 8 =
    leBytes (if s.bn.slots[i].ready = true ∧ i.val < 56 then s.bn.slots[i].word k else 0) 8 := by
  have hlt : s.bn.slots[i].word k < 2 ^ 64 := BitVec.isLt _
  have hc : (s.bn.slots[i].ready && !sealed i) = true ↔ s.bn.slots[i].ready = true ∧ i.val < 56 := by
    simp [sealed]
  refine congrArg (leBytes · 8) ?_
  unfold bnWordRead slotAt
  by_cases h : s.bn.slots[i].ready = true ∧ i.val < 56
  · rw [if_pos (hc.mpr h), if_pos h, BitVec.toNat_ofNat, Nat.mod_eq_of_lt hlt]
  · rw [if_neg (fun h' => h (hc.mp h')), if_neg h]
    rfl

/-- Settles O54: a command marks slots, a write puts one, an abort puts the destination and scratch slots. -/
theorem bignumCommands : Obligations.BignumCommands := by
  unfold Obligations.BignumCommands
  refine ⟨fun c op x trng s hc hp => ?_,
    fun k len s hp => exec_bnSlotLenWrite hp,
    fun k w v s hp hwf => ⟨_, exec_bnSlotDataWrite hp, ?_⟩, fun r k n s c hp hr ha hc => ?_,
    fun w v i k trng s hp => ⟨?_, ?_, ?_⟩⟩
  · have hx : exec c s = .next (bnCommand op x trng s) := by
      simp only [List.mem_cons, List.not_mem_nil, or_false, Prod.mk.injEq] at hc
      rcases hc with ⟨rfl, rfl, rfl⟩ | ⟨rfl, rfl, rfl⟩ | ⟨rfl, rfl, rfl⟩ | ⟨rfl, rfl, rfl⟩ | ⟨rfl, rfl, rfl⟩ |
        ⟨rfl, rfl, rfl⟩ | ⟨rfl, rfl, rfl⟩ | ⟨rfl, rfl, -⟩
      all_goals rfl
    by_cases h : bnCerr s op x = 0
    · obtain ⟨e, he, hspec⟩ := bnCommand_spec (trng := trng) hp h
      rw [he] at hx
      exact ⟨_, hx, by rw [if_pos h]; exact ⟨rfl, hspec⟩⟩
    · exact ⟨_, hx, by rw [if_neg h]; exact bnCommand_err hp h⟩
  · by_cases h : s.bn.slots[k].ready = true ∧ k.val < 56 ∧ w.val < s.bn.slots[k].len
    · rw [if_pos h, if_pos h]
      have hk : (s.bn.put k ⟨.loaded, s.bn.slots[k].len, Sparse.set (fun _ => 0#64) s.bn.slots[k].words w v⟩).slots[k] = _ :=
        slots_put.trans (if_pos rfl)
      refine ⟨rfl, (congrArg BnSlot.st hk :), (congrArg BnSlot.len hk :), (congrArg (BnSlot.word · w) hk).trans ?_,
        fun j hj => (congrArg (BnSlot.word · j) hk).trans ?_, fun j hj => slots_put.trans (if_neg hj)⟩
      · exact congrArg BitVec.toNat (get_set_self hwf)
      · exact congrArg BitVec.toNat (get_set_ne hj)
    · rw [if_neg h, if_neg h]
      exact ⟨rfl, rfl⟩
  · obtain ⟨y, u, hx, hmem, hbays, hbn, hpwr, hf⟩ := bnAbort_begins hp hr ha hc
    obtain ⟨v, m, a, hu⟩ := bnAbortWith_spec r y u
    rw [hu] at hx
    obtain ⟨w, hw, hrun, hout, hin, hother⟩ := bnAbortComplete_spec
      (s := { u with bn := { u.bn with run := some { r with abort := some a }, reason := v }, free := m
                     faults := (countFault 0x47 15 3 u).faults })
      (r := { r with abort := some a }) (by rw [hpwr]; exact hp) rfl rfl
    refine ⟨_, w, hx, hmem, hbays, hf, (congrArg Bn.slots hbn :), hw, hrun, hout, ?_, ?_⟩
    · intro j hj
      exact (hin j hj).trans (by dsimp only; rw [hbn])
    · intro j hd hs
      exact (hother j hd hs).trans (by dsimp only; rw [hbn])
  · refine exec_engine hp rfl rfl rfl (congrArg some ?_)
    exact congrArg (fun n => bnCommand n (BnArgs.ofWord w) trng s) (by simp [bnOpOf, bitsAt])
  · exact exec_engine hp rfl rfl rfl rfl
  · refine exec_engine hp rfl rfl rfl ?_
    change some (fwGets _ s) = _
    rw [leBytes_bnWordRead]
    rfl

/-! ### Values of slots -/

theorem part_succ {x : BnSlot} {lo n : Nat} : x.part lo (n + 1) = x.part lo n + x.word (lo + n) * 2 ^ (64 * n) := by
  simp [BnSlot.part, List.range_succ]

theorem part_lt {x : BnSlot} {lo n : Nat} : x.part lo n < 2 ^ (64 * n) := by
  induction n with
  | zero => exact Nat.one_pos
  | succ n ih =>
    have hw : x.word (lo + n) < 2 ^ 64 := BitVec.isLt _
    calc x.part lo (n + 1) = x.part lo n + x.word (lo + n) * 2 ^ (64 * n) := part_succ
      _ < 2 ^ (64 * n) + x.word (lo + n) * 2 ^ (64 * n) := Nat.add_lt_add_right ih _
      _ = (x.word (lo + n) + 1) * 2 ^ (64 * n) := by ring
      _ ≤ 2 ^ 64 * 2 ^ (64 * n) := Nat.mul_le_mul_right _ hw
      _ = 2 ^ (64 * (n + 1)) := by rw [← pow_add]; congr 1; ring

/-- A run of words that spells a number, word by word, has that number's low words as its value. -/
theorem part_of_words {x : BnSlot} {v n : Nat} (h : ∀ i, i < n → x.word i = v / 2 ^ (64 * i) % 2 ^ 64) :
    x.part 0 n = v % 2 ^ (64 * n) := by
  induction n with
  | zero => exact (Nat.mod_one v).symm
  | succ n ih =>
    rw [part_succ, ih fun i hi => h i (Nat.lt_succ_of_lt hi), Nat.zero_add, h n (Nat.lt_succ_self n), Nat.mul_succ, pow_add,
      Nat.mod_mul, mul_comm (_ % _)]

/-- A result slot's value is the value put there, as long as it fits. -/
theorem val_result {v n : Nat} (hv : v < 2 ^ (64 * n)) : (BnSlot.result v n).val = v := by
  refine (part_of_words fun i hi => ?_).trans (Nat.mod_eq_of_lt hv)
  have hget : Sparse.get (fun _ => 0#64) (wordsOf v n) i = BitVec.ofNat 64 (v / 2 ^ (64 * i)) := by
    rw [wordsOf, TableLoads.get_setList rfl, if_pos (Nat.zero_le i), Nat.sub_zero, List.getElem?_map, List.getElem?_range (show i < n from hi)]
    rfl
  exact (congrArg BitVec.toNat hget).trans (BitVec.toNat_ofNat ..)

/-! ### The end of an operation (R402 to R405) -/

theorem exec_bnOpComplete (hp : s.pwr.st = .run) (hr : s.bn.run = some r) (ha : r.abort = none) :
    exec .bnOpComplete s = .next (match bnBadSource s r with
      | some (o, e) => bnAbortWith r (0x11, some e) (ueAt 0x23 15 o s)
      | none => bnFinish r s) := by
  change execBnOpComplete s = _
  rw [execBnOpComplete, hr]
  exact congrArg Host.Outcome.next (if_pos (by rw [hp, ha]; rfl))

theorem exec_bnOpComplete_sound (hp : s.pwr.st = .run) (hr : s.bn.run = some r) (ha : r.abort = none)
    (hb : bnBadSource s r = none) : exec .bnOpComplete s = .next (bnFinish r s) := by
  rw [exec_bnOpComplete hp hr ha, hb]

/-- The outcome of an operation reads its slots, which writing their bytes anew leaves. -/
theorem bnOutcome_cured {d : List (Nat × Nat)} : bnOutcome { s with ms := { s.ms with dieBad := d } } r = bnOutcome s r := rfl

/-- The engine as an operation leaves it but for its destination slot. -/
def released (r : BnRun) (e : Bn) : Bn := (e.restore r).freeScratch r

theorem bnFinish_done {v n : Nat} (h : bnOutcome s r = .inr (v, n)) : ∃ d, bnFinish r s =
    { s with bn := { (released r s.bn).put r.x.d (BnSlot.result v n) with run := none, out := 1 }
             ms := { s.ms with dieBad := d } } := by
  obtain ⟨d, hd⟩ := cureSlots_frame (r.x.d :: bnScratch r.op r.x) s
  refine ⟨d, ?_⟩
  unfold bnFinish
  dsimp only
  rw [hd, bnOutcome_cured, h]
  rfl

theorem bnFinish_refused {c o : Nat} {k : Fin 64} (h : bnOutcome s r = .inl (c, some (k, o))) : ∃ d, bnFinish r s =
    { s with bn := { (released r s.bn).put r.x.d ⟨.refused, s.bn.slots[r.x.d].len, []⟩ with
               run := none, out := 2, reason := reasonWord r.op c (k, o) }
             ms := { s.ms with dieBad := d }, faults := (countFault 0x47 15 3 s).faults } := by
  obtain ⟨d, hd⟩ := cureSlots_frame (r.x.d :: bnScratch r.op r.x) s
  refine ⟨d, ?_⟩
  unfold bnFinish
  dsimp only
  rw [hd, bnOutcome_cured, h]
  dsimp only
  rw [bnReason_named]
  rw [bnFail_updBn, bnFail_updBn]
  rfl

/-- MODMUL's operands within their bounds give the product (R402). -/
theorem bnOutcome_modmul (hop : r.op = 0x01) (hodd : s.bn.slots[r.x.c].val % 2 = 1) (hm : 1 < s.bn.slots[r.x.c].val)
    (ha2 : 2 ≤ s.bn.slots[r.x.a].val) (ha : s.bn.slots[r.x.a].val < s.bn.slots[r.x.c].val)
    (hb2 : 2 ≤ s.bn.slots[r.x.b].val) (hb : s.bn.slots[r.x.b].val < s.bn.slots[r.x.c].val) :
    bnOutcome s r = .inr (s.bn.slots[r.x.a].val * s.bn.slots[r.x.b].val % s.bn.slots[r.x.c].val,
      s.bn.slots[r.x.c].len) := by
  have hw : bnW s 0x01 r.x = s.bn.slots[r.x.c].len := rfl
  have hmod : whyMod r.x.c s.bn.slots[r.x.c].val = none := by
    rw [whyMod, if_neg (by omega), if_neg (by omega), if_neg (by omega)]
  have hval : ∀ (i : Fin 64) (o v : Nat), 2 ≤ v → v < s.bn.slots[r.x.c].val →
      whyVal i o v (some s.bn.slots[r.x.c].val) = none := fun i o v h2 hv => by
    rw [whyVal, if_neg (by omega), if_neg (by omega)]
    exact if_neg (by omega)
  unfold bnOutcome
  rw [hop]
  dsimp only [slotAt]
  rw [hmod, hval r.x.a 0 _ ha2 ha, hval r.x.b 1 _ hb2 hb]
  rfl

/-- MODMUL refuses an even modulus as EVEN (R402, R405). -/
theorem bnOutcome_even (hop : r.op = 0x01) (heven : s.bn.slots[r.x.c].val % 2 = 0) (hm : 0 < s.bn.slots[r.x.c].val) :
    bnOutcome s r = .inl (4, some (r.x.c, 2)) := by
  have hmod : whyMod r.x.c s.bn.slots[r.x.c].val = some (4, some (r.x.c, 2)) := by
    rw [whyMod, if_neg (by omega), if_neg (by omega), if_pos heven]
  unfold bnOutcome
  rw [hop]
  dsimp only [slotAt]
  rw [hmod]
  rfl

/-- BN_REASON of MODMUL's even modulus. -/
theorem reasonWord_even {c : Fin 64} (hop : r.op = 0x01) :
    reasonWord r.op 4 (c, 2) = BitVec.ofNat 32 (0x01040002 + c.val * 2 ^ 8) := by
  rw [reasonWord, hop]
  exact congrArg (BitVec.ofNat 32) (by dsimp only; omega)

theorem slots_released (hj : j ∈ bnScratch r.op r.x) : (released r e).slots[j] = BnSlot.reset :=
  slots_freeScratch.trans (if_pos hj)

/-- An operation ends DONE with its result in the destination slot. -/
theorem bnOpComplete_done {v n : Nat} (hp : s.pwr.st = .run) (hr : s.bn.run = some r) (ha : r.abort = none)
    (hb : bnBadSource s r = none) (ho : bnOutcome s r = .inr (v, n)) :
    ∃ t, exec .bnOpComplete s = .next t ∧ t = { s with bn := t.bn, ms := { s.ms with dieBad := t.ms.dieBad } } ∧
      t.bn.run = none ∧ t.bn.out = 1 ∧ t.bn.slots[r.x.d] = BnSlot.result v n ∧
      (∀ j ∈ bnScratch r.op r.x, j ≠ r.x.d → t.bn.slots[j] = BnSlot.reset) := by
  obtain ⟨d, hd⟩ := bnFinish_done ho
  exact ⟨_, (exec_bnOpComplete_sound hp hr ha hb).trans (congrArg _ hd), rfl, rfl, rfl, slots_put.trans (if_pos rfl),
    fun j hj hne => slots_put.trans ((if_neg hne).trans (slots_released hj))⟩

/-- An operation refused over a named slot zeroes its destination and records the reason. -/
theorem bnOpComplete_refused {c o : Nat} {k : Fin 64} (hp : s.pwr.st = .run) (hr : s.bn.run = some r) (ha : r.abort = none)
    (hb : bnBadSource s r = none) (ho : bnOutcome s r = .inl (c, some (k, o))) :
    ∃ t, exec .bnOpComplete s = .next t ∧
      t = { s with bn := t.bn, faults := t.faults, ms := { s.ms with dieBad := t.ms.dieBad } } ∧
      t.faults = (countFault 0x47 15 3 s).faults ∧ t.bn.run = none ∧ t.bn.out = 2 ∧ t.bn.slots[r.x.d].st = .refused ∧
      t.bn.slots[r.x.d].words = [] ∧ t.bn.reason = reasonWord r.op c (k, o) := by
  obtain ⟨d, hd⟩ := bnFinish_refused ho
  exact ⟨_, (exec_bnOpComplete_sound hp hr ha hb).trans (congrArg _ hd), rfl, rfl, rfl, rfl,
    congrArg BnSlot.st (slots_put.trans (if_pos rfl)), congrArg BnSlot.words (slots_put.trans (if_pos rfl)), rfl⟩

/-- An uncorrectable byte of a source aborts the operation and leaves every slot. -/
theorem bnOpComplete_bad {o : Nat} {p : Fin 64 × Nat} (hp : s.pwr.st = .run) (hr : s.bn.run = some r) (ha : r.abort = none)
    (hb : bnBadSource s r = some (o, p)) :
    ∃ t, exec .bnOpComplete s = .next t ∧ t.bn.slots = s.bn.slots ∧ t.codes = (ueAt 0x23 15 o s).codes ∧
      (∃ q : BnRun, t.bn.run = some q ∧ q.abort.isSome = true) ∧ t.bn.reason = reasonWord r.op 0x11 p := by
  have hx : exec .bnOpComplete s = .next (bnAbortWith r (0x11, some p) (ueAt 0x23 15 o s)) := by
    rw [exec_bnOpComplete hp hr ha, hb]
  have hbn : (ueAt 0x23 15 o s).bn = s.bn := rfl
  generalize ueAt 0x23 15 o s = u at hx hbn ⊢
  obtain ⟨hslots, hcodes, hrun, hreason⟩ := bnAbortWith_fields r 0x11 p u
  exact ⟨_, hx, hslots.trans (congrArg Bn.slots hbn), hcodes, hrun, hreason⟩

/-- Settles O55: an operation ends by one write of its destination over freed scratch slots. -/
theorem bignumResults : Obligations.BignumResults := by
  unfold Obligations.BignumResults
  refine ⟨fun r v n s hp hr ha hb ho => bnOpComplete_done hp hr ha hb ho,
    fun r c o k s hp hr ha hb ho => by simpa only [reasonWord] using bnOpComplete_refused hp hr ha hb ho,
    fun r o e s hp hr ha hb => by simpa only [reasonWord] using bnOpComplete_bad hp hr ha hb,
    fun r s hp hr ha hb hop => ⟨fun hodd hm ha2 ham hb2 hbm => ?_, fun heven hm => ?_⟩⟩
  · obtain ⟨t, hx, -, -, hout, hslot, -⟩ := bnOpComplete_done hp hr ha hb (bnOutcome_modmul hop hodd hm ha2 ham hb2 hbm)
    refine ⟨t, hx, hout, (congrArg BnSlot.val hslot).trans (val_result ?_)⟩
    exact (Nat.mod_lt _ (by omega)).trans part_lt
  · obtain ⟨t, hx, -, -, -, hout, -, -, hreason⟩ := bnOpComplete_refused hp hr ha hb (bnOutcome_even hop heven hm)
    exact ⟨t, hx, hout, hreason.trans (reasonWord_even hop)⟩

end Sys2Proof.Proofs.Bignum
end

section
/-! PROOFS. Link-commanded, bay and stream resets (ResetsKeepAndClear). -/

namespace Sys2Proof.Proofs.Resetting

open Sys2Proof Sys2Proof.Machine Sys2Proof.Laws.State Sys2Proof.Laws.Memory Sys2Proof.Laws.Ops Sys2Proof.Proofs.Tables
  Sys2Proof.Proofs.DataMemory Sys2Proof.Proofs.ChannelsAndParks Sys2Proof.Proofs.Answers Sys2Proof.Proofs.PowerManager

variable {s t u : State} {b d : Bay} {st : Strm} {x y z : Bays} {n : Nat}

/-! ### What a reset leaves alone -/

/-- Memory, the power manager, the requested resets, the loader, the OD and the sessions stand. -/
def Stands (s t : State) : Prop :=
  t.mem = s.mem ∧ t.pwr = s.pwr ∧ t.rst = s.rst ∧ t.ldr = s.ldr ∧ t.od = s.od ∧ t.sess = s.sess

theorem stands_refl : Stands s s := ⟨rfl, rfl, rfl, rfl, rfl, rfl⟩

theorem stands_trans (h : Stands s t) (g : Stands t u) : Stands s u := by
  obtain ⟨hm, hp, hr, hl, ho, hs⟩ := h
  obtain ⟨gm, gp, gr, gl, go, gs⟩ := g
  exact ⟨gm.trans hm, gp.trans hp, gr.trans hr, gl.trans hl, go.trans ho, gs.trans hs⟩

theorem stands_foldl {α : Type} {f : State → α → State} (hf : ∀ s a, Stands s (f s a)) (l : List α) (s : State) :
    Stands s (l.foldl f s) := by
  induction l generalizing s with
  | nil => exact stands_refl
  | cons a l ih => exact stands_trans (hf s a) (ih _)

/-- A bay as before, but for the lists of pools its streams have used (R211). -/
def PoolsOnly (x y : Bays) : Prop := y = { x with a := { x.a with pools := y.a.pools }, x := { x.x with pools := y.x.pools } }

theorem poolsOnly_refl : PoolsOnly x x := rfl

theorem poolsOnly_trans (h : PoolsOnly x y) (g : PoolsOnly y z) : PoolsOnly x z := by
  unfold PoolsOnly at *
  rw [g, h]

theorem poolsOnly_of_eq (h : y = x) : PoolsOnly x y := by rw [h]; exact poolsOnly_refl

/-! ### The parts of a reset -/

theorem stands_idlePool {p : Fin 64} {gone : Bay → Strm → Bool} : Stands s (idlePool p gone s) := ⟨rfl, rfl, rfl, rfl, rfl, rfl⟩

theorem poolsOnly_idlePool {p : Fin 64} {gone : Bay → Strm → Bool} :
    PoolsOnly (s.bay d) ((idlePool p gone s).bay d) := by
  unfold idlePool forgetPool
  rw [bay_mapBays]
  dsimp only
  split <;> split <;> rfl

/-- Folds of steps that move pool lists only. -/
theorem poolsOnly_foldl {α : Type} {f : State → α → State} (hf : ∀ s a d, PoolsOnly (s.bay d) ((f s a).bay d)) (l : List α)
    (s : State) : PoolsOnly (s.bay d) ((l.foldl f s).bay d) := by
  induction l generalizing s with
  | nil => exact poolsOnly_refl
  | cons a l ih => exact poolsOnly_trans (hf s a d) (ih _)

theorem stands_idleNamed : Stands s (idleNamed b s) :=
  stands_foldl (fun s p => by split; exacts [stands_idlePool, stands_refl]) _ s

theorem poolsOnly_idleNamed : PoolsOnly (s.bay d) ((idleNamed b s).bay d) :=
  poolsOnly_foldl (fun s p d => by split; exacts [poolsOnly_idlePool, poolsOnly_refl]) _ s

theorem stands_idleUsed : Stands s (idleUsed b st s) := stands_foldl (fun _ _ => stands_idlePool) _ s

theorem poolsOnly_idleUsed : PoolsOnly (s.bay d) ((idleUsed b st s).bay d) :=
  poolsOnly_foldl (fun _ _ _ => poolsOnly_idlePool) _ s

theorem stands_ite {c : Prop} [Decidable c] (h : Stands s t) (g : Stands s u) : Stands s (if c then t else u) := by
  split
  exacts [h, g]

theorem stands_statRun {o : StatOp} : Stands s (statRun b o s) := by
  cases o with
  | scfg t c => exact ⟨rfl, rfl, rfl, rfl, rfl, rfl⟩
  | amax t v cmt ovf =>
    refine stands_ite ?_ ⟨rfl, rfl, rfl, rfl, rfl, rfl⟩
    dsimp only
    split <;> exact ⟨rfl, rfl, rfl, rfl, rfl, rfl⟩
  | scale t cd => exact ⟨rfl, rfl, rfl, rfl, rfl, rfl⟩
  | uwr t u w cmt => exact stands_ite ⟨rfl, rfl, rfl, rfl, rfl, rfl⟩ ⟨rfl, rfl, rfl, rfl, rfl, rfl⟩
  | ustat t cd => exact ⟨rfl, rfl, rfl, rfl, rfl, rfl⟩

theorem stands_statNext_clean : Stands s (statNext b .clean s) := by
  unfold statNext
  split
  · exact stands_statRun
  · exact stands_refl

theorem stands_dropStats : Stands s (dropStats b s) := by
  have h : Stands s (statFlush b s) := stands_foldl (fun _ _ => stands_statNext_clean) _ s
  exact h

theorem stands_countFault {code bay unit k : Nat} : Stands s (Nat.repeat (countFault code bay unit) k s) := by
  induction k with
  | zero => exact stands_refl
  | succ k ih => exact ih

theorem stands_cutBracket : Stands s (cutBracket b s) := by
  unfold cutBracket
  split
  · exact stands_refl
  · exact stands_countFault

theorem stands_refDown {i : Nat} : Stands s (refDown i s) := stands_ite stands_refl ⟨rfl, rfl, rfl, rfl, rfl, rfl⟩

theorem stands_endStreams {p : TStream → Bool} {count : Bool} : Stands s (endStreams b p count s) := by
  have hfold : ∀ (l : List TStream) (v : State), Stands v (l.foldl (fun s t => if t.refs then refDown t.ctx s else s) v) :=
    fun l v => stands_foldl (fun _ _ => stands_ite stands_refDown stands_refl) l v
  refine stands_ite stands_refl (stands_ite (hfold _ _) (hfold _ _))

/-- The shared part of both resets of a bay's X-stream: results dropped, its bracket cut, its key streams ended. -/
def unhooked (b : Bay) (s : State) : State :=
  endStreams b (fun _ => true) true (cutBracket b (withdrawHop b (dropStats b s)))

theorem stands_updBay {f : Bays → Bays} : Stands s (s.updBay b f) := ⟨rfl, rfl, rfl, rfl, rfl, rfl⟩

theorem stands_unhooked : Stands s (unhooked b s) := by
  have hw : Stands (dropStats b s) (withdrawHop b (dropStats b s)) := ⟨rfl, rfl, rfl, rfl, rfl, rfl⟩
  exact stands_trans stands_dropStats (stands_trans hw (stands_trans stands_cutBracket stands_endStreams))

theorem bays_beforeEnd : (cutBracket b (withdrawHop b (dropStats b s))).bays = s.bays := bays_cutBracket.trans bays_dropStats

theorem bay_unhooked_ne (h : d ≠ b) : (unhooked b s).bay d = s.bay d :=
  (endStreams_all.2.1 d h).trans (congrArg (fun v : Vector Bays 12 => v[d]) bays_beforeEnd)

/-- Only the Tide of the bay itself and its mark of having moved differ. -/
theorem bay_unhooked : ∃ td m, (unhooked b s).bay b = { s.bay b with tide := td, moved := m } := by
  obtain ⟨-, -, td, m, h, -⟩ := endStreams_all (b := b) (s := cutBracket b (withdrawHop b (dropStats b s)))
  have hb : (cutBracket b (withdrawHop b (dropStats b s))).bay b = s.bay b :=
    congrArg (fun v : Vector Bays 12 => v[b]) bays_beforeEnd
  rw [hb] at h
  exact ⟨td, m, h⟩

/-! ### Resets of several bays, one after another -/

/-- A step of one bay, in states whose pending resets are `m`, whose relation looks past pool lists. -/
structure ResetStep (m : BayMask) (R : Bay → Bays → Bays → Prop) (f : Bay → State → State) : Prop where
  stands : ∀ b s, Stands s (f b s)
  other : ∀ b d s, d ≠ b → PoolsOnly (s.bay d) ((f b s).bay d)
  own : ∀ b s, s.rst.bays = m → R b (s.bay b) ((f b s).bay b)
  before : ∀ b x y z, PoolsOnly x y → R b y z → R b x z
  after : ∀ b x y z, R b x y → PoolsOnly y z → R b x z

theorem ResetStep.foldl {m : BayMask} {R : Bay → Bays → Bays → Prop} {f : Bay → State → State} (h : ResetStep m R f)
    {l : List Bay} (hl : l.Nodup) (s : State) (hm : s.rst.bays = m) :
    let t := l.foldl (fun (s : State) (b : Bay) => f b s) s
    Stands s t ∧ ∀ b, (b ∈ l → R b (s.bay b) (t.bay b)) ∧ (b ∉ l → PoolsOnly (s.bay b) (t.bay b)) := by
  induction l generalizing s with
  | nil => exact ⟨stands_refl, fun b => ⟨fun hb => absurd hb List.not_mem_nil, fun _ => poolsOnly_refl⟩⟩
  | cons e l ih =>
    obtain ⟨he, hl'⟩ := List.nodup_cons.1 hl
    obtain ⟨-, -, hr, -⟩ := h.stands e s
    obtain ⟨hs, hb⟩ := ih hl' (f e s) (by rw [hr, hm])
    refine ⟨stands_trans (h.stands e s) hs, fun b => ?_⟩
    obtain ⟨hin, hout⟩ := hb b
    rw [List.foldl_cons, List.mem_cons]
    by_cases hbe : b = e
    · subst hbe
      exact ⟨fun _ => h.after b _ _ _ (h.own b s hm) (hout he), fun hn => absurd (.inl rfl) hn⟩
    · have hother := h.other e b s hbe
      exact ⟨fun hin' => h.before b _ _ _ hother (hin (hin'.resolve_left hbe)),
        fun hn => poolsOnly_trans hother (hout fun hin' => hn (.inr hin'))⟩

theorem ResetStep.allBays {m : BayMask} {R : Bay → Bays → Bays → Prop} {f : Bay → State → State} (h : ResetStep m R f)
    (s : State) (hm : s.rst.bays = m) :
    let t := (List.finRange 12).foldl (fun (s : State) (b : Bay) => f b s) s
    Stands s t ∧ ∀ b, R b (s.bay b) (t.bay b) := by
  obtain ⟨hs, hb⟩ := h.foldl (List.nodup_finRange 12) s hm
  exact ⟨hs, fun b => (hb b).1 (List.mem_finRange b)⟩

/-! ### Bay resets (R434) -/

/-- A stream after a bay reset. -/
def StrmReset (x y : Stream) : Prop :=
  y.status = .idle ∧ y.pc = 0#15 ∧ y.ctr = Vector.replicate 16 0#32 ∧ y.cmp = 0#8 ∧ y.imem = x.imem ∧ y.dmem = x.dmem

/-- A bay after its reset. -/
def BayReset (x y : Bays) : Prop :=
  (y.flags = 0#64 ∧ y.tiles = Bays.reset.tiles ∧ y.vec = Vec.reset ∧ y.nt = Nt.reset ∧ y.tbl = Tbl.reset ∧
    y.dq = Bays.reset.dq ∧ y.desc = x.desc ∧ y.parked = false ∧ y.tide.streams = [] ∧ y.keyBuf = x.keyBuf ∧ y.prot = x.prot) ∧
  ∀ st : Strm, StrmReset (x.strm st) (y.strm st)

theorem strmReset_cleared {v : Stream} : StrmReset v v.cleared := by
  unfold StrmReset Stream.cleared
  dsimp only
  exact ⟨rfl, rfl, rfl, rfl, rfl, rfl⟩

theorem bayReset_cleared {td : Tide} {m : Bool} :
    BayReset x { ({ x with tide := td, moved := m } : Bays).cleared b with moved := true } := by
  unfold BayReset Bays.cleared
  dsimp only
  refine ⟨⟨rfl, rfl, rfl, rfl, rfl, rfl, rfl, rfl, rfl, rfl, rfl⟩, fun st => ?_⟩
  cases st <;> exact strmReset_cleared

theorem bayReset_before (h : PoolsOnly x y) (g : BayReset y z) : BayReset x z := by
  unfold PoolsOnly at h
  rw [h] at g
  obtain ⟨g₁, g₂⟩ := g
  exact ⟨g₁, fun st => by have := g₂ st; cases st <;> exact this⟩

theorem bayReset_after (h : BayReset x y) (g : PoolsOnly y z) : BayReset x z := by
  unfold PoolsOnly at g
  rw [g]
  obtain ⟨h₁, h₂⟩ := h
  exact ⟨h₁, fun st => by have := h₂ st; cases st <;> exact this⟩

theorem resetBay_eq : resetBay b s = (unhooked b (idleNamed b s)).updBay b (fun x => x.cleared b) := rfl

theorem bayReset_resetBay : BayReset (s.bay b) ((resetBay b s).bay b) := by
  obtain ⟨td, m, h⟩ := bay_unhooked (b := b) (s := idleNamed b s)
  rw [resetBay_eq, bay_updBay, h]
  exact bayReset_before poolsOnly_idleNamed bayReset_cleared

theorem stands_resetBay : Stands s (resetBay b s) := by
  rw [resetBay_eq]
  exact stands_trans stands_idleNamed (stands_trans stands_unhooked stands_updBay)

theorem resetBay_other (h : d ≠ b) : PoolsOnly (s.bay d) ((resetBay b s).bay d) := by
  rw [resetBay_eq, bay_updBay_ne h, bay_unhooked_ne h]
  exact poolsOnly_idleNamed

/-- What a bay has become, by whether the reset names it. -/
def BayAfter (named : Bool) (x y : Bays) : Prop := if named = true then BayReset x y else PoolsOnly x y

theorem bayAfter_before {c : Bool} (h : PoolsOnly x y) (g : BayAfter c y z) : BayAfter c x z := by
  cases c
  · exact poolsOnly_trans h g
  · exact bayReset_before h g

theorem bayAfter_after {c : Bool} (h : BayAfter c x y) (g : PoolsOnly y z) : BayAfter c x z := by
  cases c
  · exact poolsOnly_trans h g
  · exact bayReset_after h g

theorem bayAfter_resetBay (c : Bool) : BayAfter c (s.bay b) ((if c then resetBay b s else s).bay b) := by
  by_cases h : c = true
  · rw [BayAfter, if_pos h, if_pos h]
    exact bayReset_resetBay
  · rw [BayAfter, if_neg h, if_neg h]
    exact poolsOnly_refl

theorem resetStep_resetBay (m k : BayMask) :
    ResetStep k (fun b => BayAfter (m.getLsbD b)) (fun b s => if m.getLsbD b then resetBay b s else s) where
  stands b s := stands_ite stands_resetBay stands_refl
  other b d s h := by
    split
    · exact resetBay_other h
    · exact poolsOnly_refl
  own b s _ := bayAfter_resetBay (m.getLsbD b)
  before _ _ _ _ h g := bayAfter_before h g
  after _ _ _ _ h g := bayAfter_after h g

/-! ### Stream resets (R434) -/

/-- A stream after its own reset. -/
def StrmIdled (x y : Stream) : Prop :=
  y.status = .idle ∧ y.pc = 0#15 ∧ y.fault = 0#8 ∧ y.loops = [] ∧ y.ctr = x.ctr ∧ y.cmp = x.cmp ∧ y.imem = x.imem ∧ y.dmem = x.dmem

/-- What a stream has become: reset where it is named, else as before but for its pools. -/
def StrmAfter (named : Bool) (x y : Stream) : Prop :=
  if named = true then StrmIdled x y else y = { x with pools := y.pools }

theorem strm_poolsOnly (h : PoolsOnly x y) : y.strm st = { x.strm st with pools := (y.strm st).pools } := by
  unfold PoolsOnly at h
  rw [h]
  cases st <;> rfl

theorem strmAfter_before {c : Bool} {v w : Stream} (h : PoolsOnly x y) (hv : v = y.strm st) (g : StrmAfter c v w) :
    StrmAfter c (x.strm st) w := by
  have hs := strm_poolsOnly (st := st) h
  unfold StrmAfter at *
  split
  case isTrue hc =>
    rw [if_pos hc, hv, hs] at g
    exact g
  case isFalse hc =>
    rw [if_neg hc, hv, hs] at g
    exact g

theorem strmAfter_after {c : Bool} {v w : Stream} (h : StrmAfter c v w) (g : PoolsOnly y z) (hw : w = y.strm st) :
    StrmAfter c v (z.strm st) := by
  have hs := strm_poolsOnly (st := st) g
  unfold StrmAfter at *
  rw [hs, ← hw]
  split
  case isTrue hc =>
    rw [if_pos hc] at h
    exact h
  case isFalse hc =>
    rw [if_neg hc] at h
    rw [h]

/-- The two streams of a bay after a reset of the named ones. -/
def StrmsAfter (named : Strm → Bool) (x y : Bays) : Prop := ∀ st, StrmAfter (named st) (x.strm st) (y.strm st)

theorem strmsAfter_of_poolsOnly (h : PoolsOnly x y) : StrmsAfter (fun _ => false) x y := fun _ => strm_poolsOnly h

theorem stands_resetStream : Stands s (resetStream b st s) := by
  cases st with
  | a => exact stands_trans (t := idleUsed b .a s) stands_idleUsed stands_updBay
  | x => exact stands_trans stands_idleUsed (stands_trans (t := unhooked b (idleUsed b .x s)) stands_unhooked stands_updBay)

theorem resetStream_other (h : d ≠ b) : PoolsOnly (s.bay d) ((resetStream b st s).bay d) := by
  cases st with
  | a => exact poolsOnly_trans poolsOnly_idleUsed (poolsOnly_of_eq (bay_updBay_ne h))
  | x =>
    refine poolsOnly_trans (poolsOnly_idleUsed (b := b) (st := .x)) (poolsOnly_of_eq ?_)
    exact (bay_updBay_ne h).trans (bay_unhooked_ne (s := idleUsed b .x s) h)

theorem bay_resetStream_a : (resetStream b .a s).bay b = { ((idleUsed b .a s).bay b).dropA with moved := true } := bay_updBay

theorem bay_resetStream_x : ∃ td m,
    (resetStream b .x s).bay b = { ({ (idleUsed b .x s).bay b with tide := td, moved := m } : Bays).dropX with moved := true } := by
  obtain ⟨td, m, h⟩ := bay_unhooked (b := b) (s := idleUsed b .x s)
  have hx : (resetStream b .x s).bay b = { ((unhooked b (idleUsed b .x s)).bay b).dropX with moved := true } := bay_updBay
  exact ⟨td, m, by rw [hx, h]⟩

theorem strmsAfter_resetStream : StrmsAfter (fun r => r == st) (s.bay b) ((resetStream b st s).bay b) := by
  intro r
  have hp := strm_poolsOnly (st := r) (poolsOnly_idleUsed (b := b) (st := st) (s := s) (d := b))
  cases st with
  | a =>
    rw [bay_resetStream_a]
    generalize (idleUsed b .a s).bay b = y at hp
    cases r with
    | a => 
      have hp : y.a = _ := hp
      exact ⟨rfl, rfl, rfl, rfl, by change y.a.ctr = _; rw [hp], by change y.a.cmp = _; rw [hp], by change y.a.imem = _; rw [hp],
        by change y.a.dmem = _; rw [hp]⟩
    | x => exact hp
  | x =>
    obtain ⟨td, m, h⟩ := bay_resetStream_x (b := b) (s := s)
    rw [h]
    generalize (idleUsed b .x s).bay b = y at hp
    cases r with
    | a => exact hp
    | x =>
      have hp : y.x = _ := hp
      exact ⟨rfl, rfl, rfl, rfl, by change y.x.ctr = _; rw [hp], by change y.x.cmp = _; rw [hp], by change y.x.imem = _; rw [hp],
        by change y.x.dmem = _; rw [hp]⟩

theorem strmAfter_merge {p q : Bool} {v w r : Stream} (h : StrmAfter p v w) (g : StrmAfter q w r) :
    StrmAfter (p || q) v r := by
  unfold StrmAfter StrmIdled at *
  cases p <;> cases q <;> simp only [Bool.or_true, Bool.or_false, Bool.false_eq_true, if_true, if_false] at h g ⊢
  · rw [g, h]
  · obtain ⟨g₁, g₂, g₃, g₄, g₅, g₆, g₇, g₈⟩ := g
    rw [h] at g₅ g₆ g₇ g₈
    exact ⟨g₁, g₂, g₃, g₄, g₅, g₆, g₇, g₈⟩
  · rw [g]
    exact h
  · obtain ⟨-, -, -, -, h₅, h₆, h₇, h₈⟩ := h
    obtain ⟨g₁, g₂, g₃, g₄, g₅, g₆, g₇, g₈⟩ := g
    exact ⟨g₁, g₂, g₃, g₄, g₅.trans h₅, g₆.trans h₆, g₇.trans h₇, g₈.trans h₈⟩

/-- The streams a reset of number `n` names in a bay that no requested reset covers. -/
def namedIn (m : BayMask) (n : Nat) (b : Bay) (st : Strm) : Bool := n.testBit (2 * b.val + strmNo st) && !m.getLsbD b

theorem strmsAfter_resetStreams (hm : s.rst.bays = m) :
    StrmsAfter (namedIn m n b) (s.bay b) ((resetStreams n b s).bay b) := by
  have hite : ∀ (r : Strm) (c : Bool) (v : State), StrmsAfter (fun q => c && (q == r)) (v.bay b)
      ((if c then resetStream b r v else v).bay b) := fun r c v => by
    cases c
    · exact strmsAfter_of_poolsOnly poolsOnly_refl
    · exact strmsAfter_resetStream
  intro st
  unfold resetStreams namedIn
  rw [hm]
  cases m.getLsbD b
  case true => rw [Bool.not_true, Bool.and_false]; exact strmsAfter_of_poolsOnly poolsOnly_refl st
  case false =>
    have h := strmAfter_merge (hite .a (n.testBit (2 * b.val)) s st)
      (hite .x (n.testBit (2 * b.val + 1)) (if n.testBit (2 * b.val) then resetStream b .a s else s) st)
    cases st with
    | a => simpa [strmNo, show (Strm.a == Strm.x) = false from rfl] using h
    | x => simpa [strmNo, show (Strm.x == Strm.a) = false from rfl] using h

theorem strmsAfter_before {named : Strm → Bool} (h : PoolsOnly x y) (g : StrmsAfter named y z) : StrmsAfter named x z :=
  fun st => strmAfter_before h rfl (g st)

theorem strmsAfter_after {named : Strm → Bool} (h : StrmsAfter named x y) (g : PoolsOnly y z) : StrmsAfter named x z :=
  fun st => strmAfter_after (h st) g rfl

theorem stands_resetStreams : Stands s (resetStreams n b s) := by
  refine stands_ite stands_refl ?_
  exact stands_trans (stands_ite stands_resetStream stands_refl) (stands_ite stands_resetStream stands_refl)

theorem resetStreams_other (h : d ≠ b) : PoolsOnly (s.bay d) ((resetStreams n b s).bay d) := by
  have hite : ∀ (r : Strm) (c : Bool) (v : State), PoolsOnly (v.bay d) ((if c then resetStream b r v else v).bay d) :=
    fun r c v => by
      cases c
      · exact poolsOnly_refl
      · exact resetStream_other h
  unfold resetStreams
  split
  · exact poolsOnly_refl
  · exact poolsOnly_trans (hite .a _ s) (hite .x _ _)

theorem resetStep_resetStreams (n : Nat) (m : BayMask) :
    ResetStep m (fun b => StrmsAfter (namedIn m n b)) (resetStreams n) where
  stands _ _ := stands_resetStreams
  other _ _ _ h := resetStreams_other h
  own _ _ hm := strmsAfter_resetStreams hm
  before _ _ _ _ h g := strmsAfter_before h g
  after _ _ _ _ h g := strmsAfter_after h g

/-! ### Link-commanded reset (R433, R434) -/

theorem linkOnly_creditFold {α : Type} (f : α → Option (Fin 8)) (l : List α) (s : State) :
    LinkOnly s (l.foldl (fun (s : State) a => creditBack (f a) s) s) := by
  induction l generalizing s with
  | nil => exact LinkOnly.refl s
  | cons a l ih => exact (linkOnly_creditBack (f a) s).trans (ih _)

/-- Frames that Gong held go with their credits: the link and the inputs gated for replay alone differ. -/
theorem dropGongHeld_frame (s : State) : ∃ l r, dropGongHeld s = { s with link := l, rcd := r } := by
  unfold dropGongHeld
  split
  · exact ⟨s.link, s.rcd, rfl⟩
  · exact ⟨_, _, linkOnly_creditFold _ _ _⟩

theorem exec_linkResetEffect (hc : clocked s = true) (he : s.beat.edgeNow = true) (hd : s.rst.linkDue = true) :
    exec .linkResetEffect s = .next (gongAgain (linkReset s)) := congrArg Host.Outcome.next (if_pos (by simp [hc, he, hd]))

/-- A first Gong requests no reset. -/
theorem rst_gong {code k : Nat} (h : s.faults.gong = 0#8) : (gong code k s).rst = s.rst := by
  obtain ⟨r, hr⟩ := record_frame (s := countFault code k 3 s) (ty := 0x11) (arg := 15) (len := code) (payload := (0#15).toNat)
  have hrec : (recFault 15 code 0#15 (countFault code k 3 s)).rst = s.rst := by
    rw [recFault, hr]
    rfl
  rw [gong_first h]
  exact hrec

/-- The device after a link-commanded reset, but for the parts of the link and of the gated inputs that were Gong's. -/
theorem linkReset_spec : (∀ b : Bay, (linkReset s).bay b = { Bays.reset with prot := { Prot.reset with lapStart := s.beat.pos } }) ∧
    (linkReset s).mem = [] ∧ (linkReset s).ms.bands = 0#128 ∧
    (linkReset s).hdr.ctx = [] ∧ (linkReset s).hdr.brackets = [] ∧ (linkReset s).hdr.gflags = [] ∧ (linkReset s).pools = [] ∧
    (linkReset s).faults.gong = 0#8 ∧ (linkReset s).rcd.seq = 0 ∧ (linkReset s).ldr.images = [] ∧ (linkReset s).sess = s.sess ∧
    (linkReset s).od = s.od ∧ (linkReset s).beat.beat = s.beat.beat ∧ (linkReset s).beat.st = s.beat.st ∧
    (linkReset s).trust.fuses = s.trust.fuses ∧ (linkReset s).trust.journal = s.trust.journal ∧
    (linkReset s).trust.stage = s.trust.stage ∧ (linkReset s).trust.mapNow = mapNext s.trust ∧ (linkReset s).pwr = s.pwr ∧
    (linkReset s).rst = Resets.reset := by
  obtain ⟨l, r, h⟩ := dropGongHeld_frame s
  unfold linkReset
  rw [h]
  refine ⟨fun b => ?_, rfl, rfl, rfl, rfl, rfl, rfl, rfl, rfl, rfl, rfl, rfl, rfl, rfl, rfl, rfl, rfl, rfl, rfl, rfl⟩
  exact Vector.getElem_replicate _

/-- The bays' resets at their edge. -/
theorem exec_bayResetEffect (hc : clocked s = true) (he : s.beat.edgeNow = true) (hd : s.rst.baysDue ≠ 0#12) :
    ∃ t, exec .bayResetEffect s = .next t ∧ t.mem = s.mem ∧ t.pwr = s.pwr ∧ t.rst.baysDue = 0#12 ∧
      ∀ b : Bay, BayAfter (s.rst.baysDue.getLsbD b) (s.bay b) (t.bay b) := by
  obtain ⟨⟨hm, hp, -⟩, hb⟩ := (resetStep_resetBay s.rst.baysDue s.rst.bays).allBays s rfl
  exact ⟨_, congrArg Host.Outcome.next (if_pos (by simp [hc, he, hd])), hm, hp, rfl, hb⟩

/-- Settles O50: a link-commanded reset replaces the parts it clears, the others go bay by bay, each past the pool lists the
rest may shorten. -/
theorem resetsKeepAndClear : Obligations.ResetsKeepAndClear := by
  unfold Obligations.ResetsKeepAndClear
  refine ⟨fun q s => ⟨fun h => ?_, fun h => ?_⟩, fun s hc he hd hf => ?_, fun s hc he hd hf => ?_, fun s hc he hd => ?_,
    fun q s h => ?_⟩
  · obtain ⟨_, hx, ⟨l, x, c, o, g, w, d, -, -, rfl⟩, hcur⟩ :=
      okOd_taken h (f := fun q _ s => { s with rst := { s.rst with link := some q.lseq } })
    exact ⟨_, congrArg Host.Outcome.next hx, hcur, rfl, rfl, rfl⟩
  · obtain ⟨_, hx, ⟨l, x, c, o, g, w, d, -, -, rfl⟩, hcur⟩ :=
      okOd_taken h (f := fun _ n s => { s with rst := { s.rst with bays := s.rst.bays ||| BitVec.ofNat 12 n } })
    exact ⟨_, congrArg Host.Outcome.next hx, hcur, rfl, rfl, rfl⟩
  · obtain ⟨-, -, -, -, -, -, -, hg, -, -, -, -, -, -, -, -, -, -, hp, hr⟩ := linkReset_spec (s := s)
    have hx := exec_linkResetEffect hc he hd
    rw [gongAgain, if_pos (by rw [hp]; exact hf)] at hx
    obtain ⟨-, hgong, hstrm, -⟩ := gong_spec (code := 0x62) (c8 := 0x62#8) rfl hg (fun _ _ => rfl) (fun _ _ => rfl)
    exact ⟨_, hx, hgong, (rst_gong hg).trans hr, fun b st => by rw [hstrm]; exact ⟨rfl, rfl⟩⟩
  · obtain ⟨-, -, -, -, -, -, -, -, -, -, -, -, -, -, -, -, -, -, hp, -⟩ := linkReset_spec (s := s)
    have hx := exec_linkResetEffect hc he hd
    rw [gongAgain, if_neg (by rw [hp]; omega)] at hx
    exact ⟨_, hx, linkReset_spec⟩
  · obtain ⟨t, hx, hm, hp, hr, hb⟩ := exec_bayResetEffect hc he hd
    refine ⟨t, hx, hm, hp, hr, fun b => ?_⟩
    have h := hb b
    unfold BayAfter at h
    split at h
    case isTrue hn =>
      rw [if_pos hn]
      obtain ⟨⟨h₁, h₂, h₃, h₄, h₅, h₆, h₇, h₈, h₉, h₁₀, h₁₁⟩, hs⟩ := h
      exact ⟨h₁, h₂, h₃, h₄, h₅, h₆, h₇, h₈, h₉, h₁₀, h₁₁, hs⟩
    case isFalse hn =>
      rw [if_neg hn]
      unfold sameBay
      exact h
  · obtain ⟨_, hx, ⟨l, x, c, o, g, w, d, -, -, rfl⟩, hcur⟩ := okOd_taken h
      (f := fun _ n s => (List.finRange 12).foldl (fun (s : State) (b : Bay) => resetStreams n b s) s)
    obtain ⟨⟨hm, -, -⟩, hb⟩ := (resetStep_resetStreams (leNat q.value) s.rst.bays).allBays s rfl
    refine ⟨_, congrArg Host.Outcome.next hx, hcur, hm, fun b st => ?_⟩
    have hs := hb b st
    have hn : namedIn s.rst.bays (leNat q.value) b st = true ↔
        (leNat q.value).testBit (2 * b.val + strmNo st) = true ∧ s.rst.bays.getLsbD b = false := by
      rw [namedIn, Bool.and_eq_true, Bool.not_eq_true']
    unfold StrmAfter at hs
    split at hs
    case isTrue hc =>
      rw [if_pos (hn.mp hc)]
      exact hs
    case isFalse hc =>
      rw [if_neg fun h => hc (hn.mpr h)]
      exact hs

end Sys2Proof.Proofs.Resetting
end

section
/-! PROOFS. INSTALL, EVICT, the end of a context, and the entries that only take a value (ContextsAndEntries). -/

namespace Sys2Proof.Proofs.Contexts

open Sys2Proof Sys2Proof.Machine Sys2Proof.Laws.State Sys2Proof.Laws.Memory Sys2Proof.Laws.Sparse Sys2Proof.Laws.Ops
  Sys2Proof.Proofs.Tables Sys2Proof.Proofs.VectorEngine Sys2Proof.Proofs.RecordRing Sys2Proof.Proofs.Answers
  Sys2Proof.Proofs.TestPort

variable {s t u : State} {i j : Nat} {c : CtxEntry}

/-! ### The context table -/

/-- A value other than the default reads back from any list. -/
theorem get_set_self_of_ne {α : Type} [DecidableEq α] {d : Nat → α} {m : Sparse α} {k : Nat} {v : α} (h : v ≠ d k) :
    Sparse.get d (Sparse.set d m k v) k = v := by
  induction m with
  | nil => simp [Sparse.set, Sparse.get, h]
  | cons e r ih =>
    obtain ⟨j, w⟩ := e
    rcases Nat.lt_trichotomy j k with hlt | rfl | hgt
    · have hne : ¬ j = k := by omega
      simpa only [Sparse.set, hlt, if_true, Sparse.get, hne, if_false] using ih
    · simp [Sparse.set, Sparse.get, h]
    · have h1 : ¬ j < k := by omega
      have h2 : ¬ j = k := by omega
      simp [Sparse.set, Sparse.get, h1, h2, h]

theorem ctxAt_congr (h : t.hdr.ctx = s.hdr.ctx) : ctxAt t i = ctxAt s i := by
  unfold ctxAt
  rw [h]

theorem ctxAt_putCtx_ne (h : j ≠ i) : ctxAt (putCtx i c s) j = ctxAt s j := get_set_ne h

/-- An entry that is not EMPTY reads back. -/
theorem ctxAt_putCtx (h : c.st ≠ .empty) : ctxAt (putCtx i c s) i = c :=
  get_set_self_of_ne fun he => h (congrArg CtxEntry.st he)

/-! ### INSTALL (R47 to R49) -/

/-- The directory's reads count as traffic and change nothing else where no error is met. -/
theorem dirRead_clean : ∃ k, dirRead .clean s = { s with stk := k } := by
  unfold dirRead
  dsimp only
  split
  · exact ⟨_, rfl⟩
  · exact ⟨s.stk, rfl⟩

theorem countBad_codes {l : List Nat} {r : Nat} : ∃ k, countBad l r s = { s with codes := k } := by
  unfold countBad
  generalize s.ms.badSectors.filter _ = m
  induction m generalizing s with
  | nil => exact ⟨s.codes, rfl⟩
  | cons x m ih => exact (ih (s := sectorUe x r s)).imp fun _ h => h

/-- The first failing check of INSTALL; 0 for none. -/
def installCheck (s : State) : Nat := if installEarly s = 0 then installLate s else installEarly s

theorem installLate_congr {k : Vector Stack 12} : installLate { s with stk := k } = installLate s := rfl

/-- A refused INSTALL writes its status. -/
theorem install_refused (h : installCheck s ≠ 0) : ∃ k e, install .clean s =
    { s with stk := k, codes := e, hdr := { s.hdr with status := BitVec.ofNat 8 (installCheck s) } } := by
  unfold installCheck at *
  unfold install
  dsimp only
  by_cases h0 : installEarly s = 0
  · rw [if_pos h0] at h ⊢
    obtain ⟨k, hk⟩ := dirRead_clean (s := s)
    rw [if_neg (not_not.mpr h0), hk, installLate_congr, if_neg h]
    obtain ⟨e, he⟩ := countBad_codes (l := dirWords { s with stk := k } s.hdr.dir) (r := 4) (s := { s with stk := k })
    rw [he]
    exact ⟨k, e, rfl⟩
  · rw [if_pos h0, if_neg h0]
    exact ⟨s.stk, s.codes, rfl⟩

/-- The entry an accepted INSTALL makes. -/
def installed (s : State) : CtxEntry :=
  { stagedCtx s.hdr with
    dcount := s.ldNat (s.hdr.dir + 4) 4
    rkeys := (dirEntries s s.hdr.dir (s.ldNat (s.hdr.dir + 4) 4)).any (fun e => e.kind == 4) }

/-- The state whose memory an accepted INSTALL writes the block to. -/
def installing (k : Vector Stack 12) (e : Codes) (s : State) : State :=
  putCtx s.hdr.sel (installed s) { s with stk := k, codes := e }

theorem install_accepted (h : installCheck s = 0) : ∃ k e l, install .clean s =
    { (installing k e s).store (paramBase + 512 * s.hdr.sel) s.hdr.ppb 4 with
      stk := l, hdr := { (installing k e s).hdr with installing := some (Fin.ofNat 16384 s.hdr.sel) } } := by
  unfold installCheck at h
  have h0 : installEarly s = 0 := by
    by_contra hne
    rw [if_neg hne] at h
    exact hne h
  rw [if_pos h0] at h
  obtain ⟨k, hk⟩ := dirRead_clean (s := s)
  unfold install
  dsimp only
  rw [if_neg (not_not.mpr h0), hk, installLate_congr, if_pos h]
  obtain ⟨e, he⟩ := countBad_codes (l := dirWords { s with stk := k } s.hdr.dir) (r := 4) (s := { s with stk := k })
  rw [he]
  exact ⟨k, e, _, rfl⟩

/-- A refused INSTALL leaves every context entry and memory. -/
theorem install_refused_spec (h : installCheck s ≠ 0) : (install .clean s).mem = s.mem ∧ (install .clean s).bays = s.bays ∧
    (install .clean s).hdr = { s.hdr with status := BitVec.ofNat 8 (installCheck s) } := by
  obtain ⟨k, e, hin⟩ := install_refused h
  rw [hin]
  exact ⟨rfl, rfl, rfl⟩

/-- An accepted INSTALL puts one entry, copies the block to the parameter area, and leaves the streams. -/
theorem install_accepted_spec (h : installCheck s = 0) :
    (install .clean s).hdr = { (putCtx s.hdr.sel (installed s) s).hdr with installing := some (Fin.ofNat 16384 s.hdr.sel) } ∧
    (∀ (b : Bay) (st : Strm), (install .clean s).strm b st = s.strm b st) ∧
    (∀ a : Nat, a < paramBase + 512 * s.hdr.sel ∨ paramBase + 512 * s.hdr.sel + s.hdr.ppb.length ≤ a →
      (install .clean s).rd a = s.rd a) ∧
    (MemInv s → rangeBad s (paramBase + 512 * s.hdr.sel) s.hdr.ppb.length = false →
      (install .clean s).ld (paramBase + 512 * s.hdr.sel) s.hdr.ppb.length = s.hdr.ppb) := by
  obtain ⟨k, e, l, hin⟩ := install_accepted h
  rw [hin]
  refine ⟨rfl, fun b st => ?_, fun a ha => ?_, fun hm hb => ?_⟩
  · exact strm_store (s := installing k e s) (req := 4)
  · exact rd_store_outside (s := installing k e s) (req := 4) ha
  · exact ld_store_sound (s := installing k e s) (req := 4) hm hb

theorem exec_odInstall (hi : s.hdr.installing = none) (hq : noReqs s = true) : exec (.odInstall .clean) s =
    .next (applyOd 0x5010 5 (fun n => n == 1) (fun _ _ => okOd (install .clean)) s) := by
  refine congrArg Host.Outcome.next (if_neg ?_)
  rw [hi, ahead_of_noReqs hq]
  decide

/-! ### Entries that only take a value (R353) -/

/-- The value is in its place, by the entry's index and sub-index. -/
def HasValue (ix sub n : Nat) (u : State) : Prop :=
  (ix = 0x2130 → u.od.waitTimeout = n) ∧ (ix = 0x2120 → u.od.tideHalt = (n == 1)) ∧
  (ix = 0x5010 ∧ sub = 1 → u.hdr.sel = n) ∧ (ix = 0x3010 ∧ sub = 1 → u.pwr.opLimit = n) ∧
  (∀ b : Bay, ix = 0x3020 ∧ sub = 13 + b.val → u.pwr.opcap[b] = n)

/-- What a taken write leaves alone of the request and of the sessions. -/
def RequestStands (q : OdReq) (s u : State) : Prop :=
  u.od.cur = s.od.cur ∧ u.od.closeAfter = s.od.closeAfter ∧ (q.mute = true → u.sess = s.sess)

theorem odSelector_ix {ix sub : Nat} (h : odSelector ix sub = true) :
    ix = 0x6010 ∨ ix = 0x6020 ∨ ix = 0x6030 ∨ ix = 0x6050 ∨ ix = 0x6051 ∨ ix = 0x6060 ∨ ix = 0x6070 ∨ ix = 0x9000 := by
  unfold odSelector at h
  split at h <;> simp_all

/-- A selector's write is the writing session's alone. -/
theorem plainWrite_selector {q : OdReq} (hs : odSelector q.ix.toNat q.sub.toNat = true) : plainWrite q s =
    some (if q.mute then s else { s with sess := s.sess.set q.slot (s.sess[q.slot].select q.ix.toNat (leNat q.value)) }) :=
  if_pos hs

theorem selector_spec {q : OdReq} (hs : odSelector q.ix.toNat q.sub.toNat = true) (h : plainWrite q s = some u) :
    RequestStands q s u ∧ HasValue q.ix.toNat q.sub.toNat (leNat q.value) u ∧
      (q.ix.toNat = 0x6010 → q.mute = false → u.sess[q.slot].selFault = BitVec.ofNat 8 (leNat q.value)) := by
  rw [plainWrite_selector hs] at h
  obtain rfl := Option.some.inj h
  have hix := odSelector_ix hs
  refine ⟨?_, ⟨by omega, by omega, by omega, by omega, by omega⟩, fun h6 hm => ?_⟩
  · cases hm : q.mute
    · exact ⟨rfl, rfl, fun h => by rw [hm] at h; cases h⟩
    · exact ⟨rfl, rfl, fun _ => rfl⟩
  · rw [hm, h6]
    simp [Session.select]

/-- An entry other than a selector: the value is in its place. -/
theorem plain_spec {q : OdReq} (hs : odSelector q.ix.toNat q.sub.toNat = false) (h : plainWrite q s = some u) :
    RequestStands q s u ∧ HasValue q.ix.toNat q.sub.toNat (leNat q.value) u ∧ q.ix.toNat ≠ 0x6010 := by
  unfold plainWrite at h
  dsimp only at h
  rw [hs, if_neg (by decide)] at h
  split at h
  case h_9 sub hix =>
    split at h
    case isTrue hk =>
      obtain rfl := Option.some.inj h
      rw [hix]
      refine ⟨⟨rfl, rfl, fun _ => rfl⟩, ⟨by omega, by omega, by omega, by omega, fun b hb => ?_⟩, by decide⟩
      have hsub : q.sub.toNat - 13 = b.val := by omega
      simp [hsub]
    case isFalse => cases h
  case h_24 => cases h
  all_goals
    rename_i hix hsub
    obtain rfl := Option.some.inj h
    rw [hix, hsub]
    exact ⟨⟨rfl, rfl, fun _ => rfl⟩, by simp [HasValue, updOd], by decide⟩

/-- An entry written anew holds no uncorrectable byte (R251). -/
theorem odBad_odCure {i : Slot} {ix sub : Nat} : odBad i ix sub (odCure i ix sub s) = none := by
  unfold odBad odCure
  rw [Option.map_eq_none_iff, List.find?_eq_none]
  intro e he
  have h := (List.mem_filter.mp he).2
  simpa [imp_iff_not_or] using h

/-- A plain write is answered with OK: the value as taken, and the link, the request and the stored value's code else. -/
theorem exec_writeOther {q : OdReq} (ha : canApply q s = true) (hc : s.od.cur = some q) (hp : plainWrite q s = some u)
    (hu : u.od.cur = some q) (hn : u.od.closeAfter = []) :
    ∃ l d, exec .writeOther s = .next { u with link := l, od := { u.od with cur := none }, ms := { u.ms with dieBad := d } } ∧
      ∀ t : State, t.ms.dieBad = d → odBad q.slot q.ix.toNat q.sub.toNat t = none := by
  have hx : exec .writeOther s = .next (finish q 0 u) := by
    change execWriteOther s = _
    simp only [execWriteOther, hc, ha, hp, if_true, finishCur_of_cur hu]
  have hl : LinkOnly (noCur u) (answer q 0 (noCur u)) := linkOnly_answer hn
  have hf : finish q 0 u = odCure q.slot q.ix.toNat q.sub.toNat (answer q 0 (noCur u)) := rfl
  have hb := odBad_odCure (i := q.slot) (ix := q.ix.toNat) (sub := q.sub.toNat) (s := answer q 0 (noCur u))
  rw [hf] at hx
  refine ⟨(answer q 0 (noCur u)).link, (odCure q.slot q.ix.toNat q.sub.toNat (answer q 0 (noCur u))).ms.dieBad, ?_,
    fun t ht => ?_⟩
  · rw [hx]
    refine congrArg Host.Outcome.next ?_
    generalize answer q 0 (noCur u) = v at hl ⊢
    rw [LinkOnly] at hl
    rw [hl]
    rfl
  · rw [← hb]
    unfold odBad
    rw [ht]

/-- INSTALL, taken or refused (R47 to R49). -/
theorem odInstall_spec {q : OdReq} (h : odTaken 0x5010 5 (fun n => n == 1) s = some q) (hi : s.hdr.installing = none)
    (hq : noReqs s = true) :
    ∃ t, exec (.odInstall .clean) s = .next t ∧ t.od.cur = none ∧ t.hdr = (install .clean s).hdr ∧
      t.bays = (install .clean s).bays ∧ t.mem = (install .clean s).mem := by
  obtain ⟨t, hx, ha, hcur⟩ := okOd_taken h (f := fun _ _ => install .clean)
  obtain ⟨l, x, c, o, g, w, d, -, -, rfl⟩ := ha
  exact ⟨_, (exec_odInstall hi hq).trans (congrArg Host.Outcome.next hx), hcur, rfl, rfl, rfl⟩

/-- EVICT of a READY entry makes it RETIRING, of another reports NOT_READY (R50). -/
def evicted (s : State) : State :=
  if (ctxAt s s.hdr.sel).isReady then
    { putCtx s.hdr.sel { ctxAt s s.hdr.sel with st := .retiring } s with
      hdr := { (putCtx s.hdr.sel { ctxAt s s.hdr.sel with st := .retiring } s).hdr with status := 0#8 } }
  else { s with hdr := { s.hdr with status := 7#8 } }

theorem evicted_frame : (evicted s).mem = s.mem ∧ (evicted s).bays = s.bays := by
  unfold evicted
  split <;> exact ⟨rfl, rfl⟩

theorem odEvict_spec {q : OdReq} (h : odTaken 0x5010 5 (fun n => n == 2) s = some q) (hi : s.hdr.installing = none) :
    ∃ t, exec .odEvict s = .next t ∧ t.od.cur = none ∧ t.hdr = (evicted s).hdr ∧ t.bays = (evicted s).bays ∧
      t.mem = (evicted s).mem := by
  obtain ⟨t, hx, ha, hcur⟩ := okOd_taken h (f := fun _ _ => evicted)
  obtain ⟨l, x, c, o, g, w, d, -, -, rfl⟩ := ha
  refine ⟨_, ?_, hcur, rfl, rfl, rfl⟩
  exact congrArg Host.Outcome.next ((if_neg (by rw [hi]; decide)).trans hx)

theorem exec_installComplete {k : Fin 16384} (hc : clocked s = true) (hd : s.trust.stewardDown = false)
    (hi : s.hdr.installing = some k) : exec .installComplete s = .next
      { s with hdr := { (putCtx k.val { ctxAt s k.val with st := .ready } s).hdr with installing := none, status := 0#8 } } := by
  change execInstallComplete s = _
  rw [execInstallComplete, hi]
  exact congrArg Host.Outcome.next (if_pos (by simp [hc, hd]))

/-- Settles O47: INSTALL writes one entry and the block, EVICT and the ends one entry, a plain write its own place. -/
theorem contextsAndEntries : Obligations.ContextsAndEntries := by
  unfold Obligations.ContextsAndEntries
  refine ⟨fun q s h hi hq => ?_, fun k s hc hd hi => ?_, fun q s h hi => ?_, fun k s hc hu hst hr hw => ?_,
    fun q u s ha hc hp hn => ?_⟩
  · obtain ⟨t, hx, hcur, hhdr, hbays, hmem⟩ := odInstall_spec h hi hq
    have hstrm : ∀ (b : Bay) (st : Strm), t.strm b st = (install .clean s).strm b st := fun b st => by
      rw [State.strm, State.bay, hbays]
      rfl
    refine ⟨t, hx, hcur, ?_⟩
    change _ ∧ _ ∧ if installCheck s = 0 then _ else _ ∧ t.hdr.status = BitVec.ofNat 8 (installCheck s) ∧ _
    by_cases hk : installCheck s = 0
    · obtain ⟨hih, his, hir, hil⟩ := install_accepted_spec hk
      rw [hih] at hhdr
      have hctx : ∀ j, ctxAt t j = ctxAt (putCtx s.hdr.sel (installed s) s) j := fun j => ctxAt_congr (by rw [hhdr])
      have hself : ctxAt t s.hdr.sel = installed s := (hctx _).trans (ctxAt_putCtx fun h => by cases h)
      rw [if_pos hk]
      refine ⟨fun b => ⟨(hstrm b .a).trans (his b .a), (hstrm b .x).trans (his b .x)⟩,
        fun j hj => (hctx j).trans (ctxAt_putCtx_ne hj), hself, by rw [hself]; rfl, by rw [hself]; rfl, fun hm hl hb => ?_,
        by rw [hhdr], by rw [hhdr]; rfl, fun a ha => ?_⟩
      · have hld := hil hm (by rw [hl]; exact hb)
        rw [hl] at hld
        exact (by rw [State.ld, hmem]; rfl : t.ld _ 336 = (install .clean s).ld _ 336).trans hld
      · exact (by rw [State.rd, hmem]; rfl : t.rd a = (install .clean s).rd a).trans (hir a ha)
    · obtain ⟨him, hib, hih⟩ := install_refused_spec hk
      rw [hih] at hhdr
      have hctx : ∀ j, ctxAt t j = ctxAt s j := fun j => ctxAt_congr (by rw [hhdr])
      have hs : ∀ (b : Bay) (st : Strm), t.strm b st = s.strm b st := fun b st => by
        rw [State.strm, State.bay, hbays.trans hib]
        rfl
      rw [if_neg hk]
      exact ⟨fun b => ⟨hs b .a, hs b .x⟩, fun j _ => hctx j, hctx _, by rw [hhdr], hmem.trans him⟩
  · exact ⟨_, exec_installComplete hc hd hi, rfl, rfl, rfl, ctxAt_putCtx (by simp), fun j hj => ctxAt_putCtx_ne hj⟩
  · obtain ⟨t, hx, hcur, hhdr, hbays, hmem⟩ := odEvict_spec h hi
    have hctx : ∀ j, ctxAt t j = ctxAt (evicted s) j := fun j => ctxAt_congr (by rw [hhdr])
    refine ⟨t, hx, hcur, hmem.trans evicted_frame.1, hbays.trans evicted_frame.2, ?_⟩
    by_cases hr : (ctxAt s s.hdr.sel).isReady = true
    · rw [evicted, if_pos hr] at hhdr hctx
      rw [if_pos hr]
      exact ⟨fun j hj => (hctx j).trans (ctxAt_putCtx_ne hj), (hctx _).trans (ctxAt_putCtx (by simp)), by rw [hhdr]⟩
    · rw [evicted, if_neg hr] at hhdr hctx
      rw [if_neg hr]
      exact ⟨fun j _ => (hctx j).trans (ctxAt_congr rfl), (hctx _).trans (ctxAt_congr rfl), by rw [hhdr]⟩
  · exact ⟨_, congrArg Host.Outcome.next (if_pos (by simp [hc, hu, hst, hr])), rfl, get_set_self hw,
      fun j hj => ctxAt_putCtx_ne hj⟩
  · have hspec : RequestStands q s u ∧ HasValue q.ix.toNat q.sub.toNat (leNat q.value) u ∧
        (q.ix.toNat = 0x6010 → q.mute = false → u.sess[q.slot].selFault = BitVec.ofNat 8 (leNat q.value)) := by
      cases hs : odSelector q.ix.toNat q.sub.toNat
      · obtain ⟨hr, hv, hne⟩ := plain_spec hs hp
        exact ⟨hr, hv, fun h => absurd h hne⟩
      · exact selector_spec hs hp
    obtain ⟨⟨hcur, hca, hmute⟩, ⟨h1, h2, h3, h4, h5⟩, h6⟩ := hspec
    obtain ⟨l, d, hx, hb⟩ := exec_writeOther ha hc hp (hcur.trans hc) (hca.trans hn)
    exact ⟨_, hx, rfl, rfl, hb _ rfl, fun h => h1 (by rw [h]; rfl), fun h => h2 (by rw [h]; rfl),
      fun ⟨h, h'⟩ => h3 ⟨by rw [h]; rfl, by rw [h']; rfl⟩, fun ⟨h, h'⟩ => h4 ⟨by rw [h]; rfl, by rw [h']; rfl⟩,
      fun b ⟨h, h'⟩ => h5 b ⟨by rw [h]; rfl, h'⟩, hmute, fun h => h6 (by rw [h]; rfl)⟩

end Sys2Proof.Proofs.Contexts
end

section
/-! PROOFS. LOAD, UNLOAD and LAUNCH (LoaderAndLaunch). -/

namespace Sys2Proof.Proofs.Loading

open Sys2Proof Sys2Proof.Machine Sys2Proof.Laws.State Sys2Proof.Laws.Memory Sys2Proof.Laws.Ops Sys2Proof.Proofs.Tables
  Sys2Proof.Proofs.VectorEngine Sys2Proof.Proofs.FlagWaits Sys2Proof.Proofs.ChannelsAndParks Sys2Proof.Proofs.Answers
  Sys2Proof.Proofs.Resetting

variable {s t u : State} {b d : Bay} {st : Strm} {x y z : Bays}

/-! ### Both streams of a bay reset -/

/-- Both streams of a bay reset, as LOAD and UNLOAD begin with a bay. -/
def bothReset (b : Bay) (s : State) : State := resetStream b .x (resetStream b .a s)

theorem bothReset_idled : StrmIdled ((s.bay b).strm st) (((bothReset b s).bay b).strm st) := by
  have h := strmAfter_merge (strmsAfter_resetStream (b := b) (st := .a) (s := s) st)
    (strmsAfter_resetStream (b := b) (st := .x) (s := resetStream b .a s) st)
  have hb : ((st == Strm.a) || (st == Strm.x)) = true := by cases st <;> rfl
  rw [hb] at h
  exact h

theorem bothReset_other (h : d ≠ b) : PoolsOnly (s.bay d) ((bothReset b s).bay d) :=
  poolsOnly_trans (resetStream_other h) (resetStream_other h)

theorem stands_bothReset : Stands s (bothReset b s) := stands_trans stands_resetStream stands_resetStream

/-! ### UNLOAD (R233) -/

/-- A bay after its image was unloaded. -/
def BayUnloaded (x y : Bays) : Prop :=
  y.desc = [] ∧ ∀ st : Strm, (y.strm st).status = .idle ∧ (y.strm st).imem = [] ∧ (y.strm st).dmem = [] ∧
    (y.strm st).ctr = (x.strm st).ctr

/-- A bay's memories and descriptors emptied. -/
def emptied (x : Bays) : Bays :=
  { x with
    a := { x.a with imem := [], dmem := [] }, x := { x.x with imem := [], dmem := [] }, desc := [], routines := []
    prot := x.prot.reloaded }

theorem unloadBay_eq : unloadBay b s = (bothReset b s).updBay b emptied := rfl

theorem bayUnloaded_unloadBay : BayUnloaded (s.bay b) ((unloadBay b s).bay b) := by
  have h := fun st => bothReset_idled (s := s) (b := b) (st := st)
  rw [unloadBay_eq, bay_updBay]
  generalize (bothReset b s).bay b = y at h
  refine ⟨rfl, fun st => ?_⟩
  obtain ⟨hi, -, -, -, hc, -⟩ := h st
  cases st <;> exact ⟨hi, rfl, rfl, hc⟩

/-- What a bay has become, by whether the UNLOAD names it. -/
def UnloadAfter (named : Bool) (x y : Bays) : Prop := if named = true then BayUnloaded x y else PoolsOnly x y

theorem unloadAfter_before {c : Bool} (h : PoolsOnly x y) (g : UnloadAfter c y z) : UnloadAfter c x z := by
  cases c
  · exact poolsOnly_trans h g
  · obtain ⟨hd, hs⟩ := g
    refine ⟨hd, fun st => ?_⟩
    obtain ⟨h₁, h₂, h₃, h₄⟩ := hs st
    exact ⟨h₁, h₂, h₃, h₄.trans (by rw [strm_poolsOnly h])⟩

theorem unloadAfter_after {c : Bool} (h : UnloadAfter c x y) (g : PoolsOnly y z) : UnloadAfter c x z := by
  cases c
  · exact poolsOnly_trans h g
  · obtain ⟨hd, hs⟩ := h
    refine ⟨?_, fun st => ?_⟩
    · unfold PoolsOnly at g
      rw [g]
      exact hd
    · rw [strm_poolsOnly g]
      exact hs st

theorem resetStep_unloadBay (m k : BayMask) :
    ResetStep k (fun b => UnloadAfter (m.getLsbD b)) (fun b s => if m.getLsbD b then unloadBay b s else s) where
  stands b s := stands_ite (by rw [unloadBay_eq]; exact stands_trans stands_bothReset stands_updBay) stands_refl
  other b d s h := by
    split
    · rw [unloadBay_eq, bay_updBay_ne h]
      exact bothReset_other h
    · exact poolsOnly_refl
  own b s _ := by
    by_cases h : m.getLsbD b = true
    · rw [UnloadAfter, if_pos h, if_pos h]
      exact bayUnloaded_unloadBay
    · rw [UnloadAfter, if_neg h, if_neg h]
      exact poolsOnly_refl
  before _ _ _ _ h g := unloadAfter_before h g
  after _ _ _ _ h g := unloadAfter_after h g

/-- An UNLOAD with no LOAD in progress, by the first check that fails (R233). -/
theorem unload_spec (s : State) :
    let m := s.ldr.unloadMask
    (unload s).mem = s.mem ∧
      (if baysStill s m.toNat = true ∧ (∃ k ∈ s.ldr.images, k.bays = m) then
        (unload s).ldr.status = 0#8 ∧ (unload s).ldr.images = s.ldr.images.filter (fun k => k.bays != m) ∧
          ∀ b : Bay, UnloadAfter (m.getLsbD b) (s.bay b) ((unload s).bay b)
       else (unload s).bays = s.bays ∧ (unload s).ldr.images = s.ldr.images ∧
        (unload s).ldr.status = (if baysStill s m.toNat = true then 2#8 else 11#8)) := by
  intro m
  have hany : s.ldr.images.any (fun i => i.bays == m) = true ↔ ∃ k ∈ s.ldr.images, k.bays = m := by
    simp [List.any_eq_true]
  unfold unload
  by_cases hs : baysStill s m.toNat = true
  · rw [if_neg (by simp [m, hs])]
    by_cases hk : ∃ k ∈ s.ldr.images, k.bays = m
    · have hn : ¬(!s.ldr.images.any (fun i => i.bays == m)) = true := by rw [hany.mpr hk]; decide
      rw [if_neg hn, if_pos ⟨hs, hk⟩]
      obtain ⟨⟨hm, -, -, hl, -⟩, hb⟩ := (resetStep_unloadBay m s.rst.bays).allBays s rfl
      refine ⟨hm, rfl, congrArg (fun l : Loader => l.images.filter (fun k : Image => k.bays != m)) hl, hb⟩
    · rw [if_pos (by simpa using fun h => hk (hany.mp h)), if_neg fun h => hk h.2, if_pos hs]
      exact ⟨rfl, rfl, rfl, rfl⟩
  · rw [if_pos (by simpa [m] using hs), if_neg fun h => hs h.1, if_neg hs]
    exact ⟨rfl, rfl, rfl, rfl⟩

/-! ### The end of a LOAD (R232) -/

/-- What a LOAD leaves of a bay it does not name. -/
def StreamsStand (x y : Bays) : Prop := ∀ st : Strm,
  (y.strm st).status = (x.strm st).status ∧ (y.strm st).pc = (x.strm st).pc ∧ (y.strm st).imem = (x.strm st).imem ∧
    (y.strm st).ctr = (x.strm st).ctr

/-- What a LOAD leaves of a bay it names. -/
def StreamsIdle (x y : Bays) : Prop := ∀ st : Strm,
  (y.strm st).status = .idle ∧ (y.strm st).pc = 0#15 ∧ (y.strm st).ctr = (x.strm st).ctr

theorem streamsStand_refl : StreamsStand x x := fun _ => ⟨rfl, rfl, rfl, rfl⟩

theorem streamsStand_trans (h : StreamsStand x y) (g : StreamsStand y z) : StreamsStand x z := fun st => by
  obtain ⟨h₁, h₂, h₃, h₄⟩ := h st
  obtain ⟨g₁, g₂, g₃, g₄⟩ := g st
  exact ⟨g₁.trans h₁, g₂.trans h₂, g₃.trans h₃, g₄.trans h₄⟩

theorem streamsStand_of_poolsOnly (h : PoolsOnly x y) : StreamsStand x y := fun st => by
  rw [strm_poolsOnly h]
  exact ⟨rfl, rfl, rfl, rfl⟩

theorem streamsStand_of_strm (h : ∀ st, y.strm st = x.strm st) : StreamsStand x y := fun st => by
  rw [h st]
  exact ⟨rfl, rfl, rfl, rfl⟩

/-- What a bay has become, by whether the LOAD names it. -/
def LoadAfter (named : Bool) (x y : Bays) : Prop := if named = true then StreamsIdle x y else StreamsStand x y

theorem loadAfter_before {c : Bool} (h : StreamsStand x y) (g : LoadAfter c y z) : LoadAfter c x z := by
  cases c
  · exact streamsStand_trans h g
  · intro st
    obtain ⟨-, -, -, h₄⟩ := h st
    obtain ⟨g₁, g₂, g₃⟩ := g st
    exact ⟨g₁, g₂, g₃.trans h₄⟩

theorem loadAfter_after {c : Bool} (h : LoadAfter c x y) (g : StreamsStand y z) : LoadAfter c x z := by
  cases c
  · exact streamsStand_trans h g
  · intro st
    obtain ⟨h₁, h₂, h₃⟩ := h st
    obtain ⟨g₁, g₂, -, g₄⟩ := g st
    exact ⟨g₁.trans h₁, g₂.trans h₂, g₄.trans h₃⟩

/-- The loader, the OD and the sessions stand. -/
def LoaderStands (s t : State) : Prop := t.ldr = s.ldr ∧ t.od = s.od ∧ t.sess = s.sess

theorem loaderStands_of_stands (h : Stands s t) : LoaderStands s t := by
  obtain ⟨-, -, -, h₁, h₂, h₃⟩ := h
  exact ⟨h₁, h₂, h₃⟩

theorem loaderStands_trans (h : LoaderStands s t) (g : LoaderStands t u) : LoaderStands s u := by
  obtain ⟨h₁, h₂, h₃⟩ := h
  obtain ⟨g₁, g₂, g₃⟩ := g
  exact ⟨g₁.trans h₁, g₂.trans h₂, g₃.trans h₃⟩

/-- The scratchpad bytes of an image move no stream (R232). -/
theorem loadSpad_spec {m : Img} {l : List Sec} : LoaderStands s (loadSpad m l b s) ∧
    ∀ (d : Bay) (st : Strm), (loadSpad m l b s).strm d st = s.strm d st := by
  unfold loadSpad
  generalize l.filter _ = k
  induction k generalizing s with
  | nil => exact ⟨⟨rfl, rfl, rfl⟩, fun _ _ => rfl⟩
  | cons e k ih =>
    rw [List.foldl_cons]
    obtain ⟨hl, hs⟩ := ih (s := s.store (spadBase b + e.dest) (s.ld (m.base + e.off) e.len) 4)
    exact ⟨loaderStands_trans (t := s.store (spadBase b + e.dest) (s.ld (m.base + e.off) e.len) 4) ⟨rfl, rfl, rfl⟩ hl,
      fun d st => (hs d st).trans strm_store⟩

/-- A bay's memories and table as an image gives them. -/
def imaged (g : Loaded) (b : Bay) (x : Bays) : Bays :=
  { x with
    a := { x.a with imem := imemOf g.codes b 0, dmem := dmemOf g.datas b 0 }
    x := { x.x with imem := imemOf g.codes b 1, dmem := dmemOf g.datas b 1 }
    desc := descTable g.descs b, routines := (g.routines.filter (fun r => r.1 == b.val)).map (fun r => r.2), prot := x.prot.reloaded }

theorem loadBay_eq {m : Img} {l : List Sec} {g : Loaded} :
    loadBay m l g b s = loadSpad m l b ((bothReset b s).updBay b (imaged g b)) := rfl

theorem loadBay_spec {m : Img} {l : List Sec} {g : Loaded} : LoaderStands s (loadBay m l g b s) ∧
    StreamsIdle (s.bay b) ((loadBay m l g b s).bay b) ∧
    ∀ d, d ≠ b → StreamsStand (s.bay d) ((loadBay m l g b s).bay d) := by
  have hreset := fun st => bothReset_idled (s := s) (b := b) (st := st)
  obtain ⟨hl, hs⟩ := loadSpad_spec (m := m) (l := l) (b := b) (s := (bothReset b s).updBay b (imaged g b))
  rw [loadBay_eq]
  refine ⟨loaderStands_trans (loaderStands_of_stands (stands_trans stands_bothReset stands_updBay)) hl, fun st => ?_,
    fun d hd => streamsStand_trans (streamsStand_of_poolsOnly (bothReset_other hd))
      (streamsStand_of_strm fun st => (hs d st).trans (congrArg (Bays.strm · st) (bay_updBay_ne hd)))⟩
  have h : ((loadSpad m l b ((bothReset b s).updBay b (imaged g b))).bay b).strm st =
      ({ imaged g b ((bothReset b s).bay b) with moved := true } : Bays).strm st :=
    (hs b st).trans (congrArg (Bays.strm · st) bay_updBay)
  rw [h]
  obtain ⟨h₁, h₂, -, -, h₅, -⟩ := hreset st
  generalize (bothReset b s).bay b = y at h₁ h₂ h₅ ⊢
  cases st <;> exact ⟨h₁, h₂, h₅⟩

/-- The bays of an image, one after another. -/
theorem loadBays_spec {k : BayMask} {m : Img} {l : List Sec} {g : Loaded} (s : State) :
    LoaderStands s (forBays k (loadBay m l g) s) ∧
      ∀ b : Bay, LoadAfter (k.getLsbD b) (s.bay b) ((forBays k (loadBay m l g) s).bay b) := by
  have hfold : ∀ (bs : List Bay), bs.Nodup → ∀ v : State,
      let t := bs.foldl (fun (s : State) (b : Bay) => if k.getLsbD b then loadBay m l g b s else s) v
      LoaderStands v t ∧ ∀ b : Bay, (b ∈ bs → LoadAfter (k.getLsbD b) (v.bay b) (t.bay b)) ∧
        (b ∉ bs → StreamsStand (v.bay b) (t.bay b)) := by
    intro bs
    induction bs with
    | nil => exact fun _ v => ⟨⟨rfl, rfl, rfl⟩, fun b => ⟨fun h => absurd h List.not_mem_nil, fun _ => streamsStand_refl⟩⟩
    | cons e bs ih =>
      intro hn v
      obtain ⟨he, hbs⟩ := List.nodup_cons.1 hn
      have hstep : LoaderStands v (if k.getLsbD e then loadBay m l g e v else v) ∧
          LoadAfter (k.getLsbD e) (v.bay e) ((if k.getLsbD e then loadBay m l g e v else v).bay e) ∧
          ∀ d, d ≠ e → StreamsStand (v.bay d) ((if k.getLsbD e then loadBay m l g e v else v).bay d) := by
        unfold LoadAfter
        split
        · exact loadBay_spec
        · exact ⟨⟨rfl, rfl, rfl⟩, streamsStand_refl, fun _ _ => streamsStand_refl⟩
      obtain ⟨hl, hown, hother⟩ := hstep
      obtain ⟨hl', hb⟩ := ih hbs (if k.getLsbD e then loadBay m l g e v else v)
      refine ⟨loaderStands_trans hl hl', fun b => ?_⟩
      obtain ⟨hin, hout⟩ := hb b
      rw [List.foldl_cons, List.mem_cons]
      by_cases hbe : b = e
      · subst hbe
        exact ⟨fun _ => loadAfter_after hown (hout he), fun h => absurd (.inl rfl) h⟩
      · exact ⟨fun h => loadAfter_before (hother b hbe) (hin (h.resolve_left hbe)),
          fun h => streamsStand_trans (hother b hbe) (hout fun h' => h (.inr h'))⟩
  obtain ⟨hl, hb⟩ := hfold _ (List.nodup_finRange 12) s
  exact ⟨hl, fun b => (hb b).1 (List.mem_finRange b)⟩

/-- The image's reads count as traffic and change nothing else where no error is met. -/
theorem imageRead_clean : ∃ k, imageRead .clean s = { s with stk := k } := ⟨_, rfl⟩

theorem exec_loadComplete (hr : dieRuns s = true) (hm : memFree s = true) (hd : s.trust.stewardDown = false)
    (hl : s.ldr.loading = true) : exec (.loadComplete .clean) s = .next (endLoading (imageRead .clean s)) := by
  obtain ⟨hrep, hreq⟩ : noRepair s = true ∧ noReqs s = true := by simpa [memFree] using hm
  exact congrArg Host.Outcome.next
    (if_pos (by simp [alive_of_dieRuns hr, hl, hd, loadWaits, underRepair_of_noRepair hrep, ahead_of_noReqs hreq]))

/-- A LOAD's checks read no stack's counters. -/
theorem fails_congr {k : Vector Stack 12} {m : Img} : m.fails { s with stk := k } = m.fails s := rfl

theorem endLoading_busy (h : BitVec.ofNat 12 (Img.at s s.ldr.loadAddr).bays &&& loadedMask s ≠ 0#12) :
    endLoading s = endLoad 1 0 0 s := if_pos h

theorem endLoading_failed {f : Fail} (h : BitVec.ofNat 12 (Img.at s s.ldr.loadAddr).bays &&& loadedMask s = 0#12)
    (hf : (Img.at s s.ldr.loadAddr).fails s = some f) : endLoading s = endLoad f.status f.sec f.ix (loadUe f.ue s) := by
  unfold endLoading
  dsimp only
  rw [if_neg (not_not.mpr h), hf]

theorem endLoading_passed (h : BitVec.ofNat 12 (Img.at s s.ldr.loadAddr).bays &&& loadedMask s = 0#12)
    (hf : (Img.at s s.ldr.loadAddr).fails s = none) : endLoading s = finishLoading (Img.at s s.ldr.loadAddr) s := by
  unfold endLoading
  dsimp only
  rw [if_neg (not_not.mpr h), hf]

theorem loadUe_frame {a : Option Nat} : ∃ e, loadUe a s = { s with codes := e } := by
  cases a with
  | none => exact ⟨s.codes, rfl⟩
  | some a => exact ⟨_, rfl⟩

/-- A LOAD whose checks all passed: the image is added and its bays' streams are IDLE (R232). -/
theorem finishLoading_spec (m : Img) (s : State) :
    (finishLoading m s).ldr.loading = false ∧ (finishLoading m s).od = s.od ∧ (finishLoading m s).sess = s.sess ∧
      (finishLoading m s).ldr.status = 0#8 ∧ (finishLoading m s).ldr.detail = 0#32 ∧
      (∃ k : Image, (finishLoading m s).ldr.images = s.ldr.images ++ [k] ∧ k.bays = BitVec.ofNat 12 m.bays) ∧
      ∀ b : Bay, LoadAfter (m.bays.testBit b.val) (s.bay b) ((finishLoading m s).bay b) := by
  unfold finishLoading
  extract_lets l regs g meas bays img s'
  obtain ⟨⟨hl, ho, hs⟩, hb⟩ := loadBays_spec (k := bays) (m := m) (l := l) (g := g) s
  refine ⟨rfl, ho, hs, rfl, rfl, ⟨img, congrArg (fun r : Loader => r.images ++ [img]) hl, rfl⟩, fun b => ?_⟩
  have h := hb b
  rw [show bays.getLsbD b = m.bays.testBit b.val from testBit_mask] at h
  exact h

/-! ### LAUNCH (R234, R235) -/

/-- A bay of a launched image. -/
def launched (m : BayMask) (r : W32) (x : Bays) : Bays :=
  { x.dropQueues with a := x.a.launch m r, x := x.x.launch m r, flags := 0#64, flagBusy := 0#64 }

theorem launched_spec {m : BayMask} {r : W32} (h : y = { launched m r x with moved := true }) :
    y.flags = 0#64 ∧ y.desc = x.desc ∧ ∀ st : Strm, (y.strm st).status = .wait ∧ (y.strm st).pc = 0#15 ∧
      (y.strm st).ctr = Vector.replicate 16 0#32 ∧ (y.strm st).dmem = (x.strm st).dmem ∧ (y.strm st).loops = [] ∧
      (y.strm st).calls = [] ∧ (y.strm st).wait = some ⟨.beat, 0, 0, .programRelease m, r⟩ := by
  subst h
  refine ⟨rfl, rfl, fun st => ?_⟩
  have hs : ({ launched m r x with moved := true } : Bays).strm st = (x.strm st).launch m r := by cases st <;> rfl
  rw [hs]
  exact ⟨rfl, rfl, rfl, rfl, rfl, rfl, rfl⟩

theorem bayStep_launchBay (m : BayMask) (r : W32) :
    BayStep (fun x y => y = { launched m r x with moved := true }) (launchBay m r) where
  mem _ _ := rfl
  other _ _ _ h := bay_updBay_ne h
  own _ _ := bay_updBay

/-- A launch, accepted or refused. -/
def launchEffect (v : List Byte) (s : State) : State :=
  if launchCode s v = 0 then
    launch (LaunchObj.ofBytes v) (updLdr (fun l => { l with launchCode := BitVec.ofNat 8 (launchCode s v) }) s)
  else updLdr (fun l => { l with launchCode := BitVec.ofNat 8 (launchCode s v) }) s

/-- What a launch does to the bays takes the loader as it is. -/
theorem ldr_launchBays (m k : BayMask) (r : W32) (s : State) : (forBays m (launchBay k r) s).ldr = s.ldr := by
  unfold forBays
  generalize List.finRange 12 = l
  induction l generalizing s with
  | nil => rfl
  | cons b l ih =>
    rw [List.foldl_cons, ih]
    split <;> rfl

theorem launchEffect_accepted {v : List Byte} (h : launchCode s v = 0) :
    let o := LaunchObj.ofBytes v
    (launchEffect v s).mem = s.mem ∧ (launchEffect v s).ldr.launchCode = 0#8 ∧
      ⟨BitVec.ofNat 12 o.bays, BitVec.ofNat 48 o.release⟩ ∈ (launchEffect v s).ldr.launches ∧
      ∀ b : Bay, if o.bays.testBit b.val = true then
          (launchEffect v s).bay b =
            { launched (BitVec.ofNat 12 o.bays) (BitVec.ofNat 32 o.release) (s.bay b) with moved := true }
        else (launchEffect v s).bay b = s.bay b := by
  intro o
  unfold launchEffect
  rw [if_pos h, h]
  obtain ⟨hm, hb⟩ := (bayStep_launchBay (BitVec.ofNat 12 o.bays) (BitVec.ofNat 32 o.release)).forBays o.bays
    (updLdr (fun l => { l with launchCode := BitVec.ofNat 8 0 }) s)
  have hl := ldr_launchBays (BitVec.ofNat 12 o.bays) (BitVec.ofNat 12 o.bays) (BitVec.ofNat 32 o.release)
    (updLdr (fun l => { l with launchCode := BitVec.ofNat 8 0 }) s)
  exact ⟨hm, congrArg Loader.launchCode hl, List.mem_append_right _ (List.mem_singleton.mpr rfl), hb⟩

/-- Settles O49: LOAD and UNLOAD go bay by bay over the streams' reset, LAUNCH bay by bay over the queues' drop. -/
theorem loaderAndLaunch : Obligations.LoaderAndLaunch := by
  unfold Obligations.LoaderAndLaunch
  refine ⟨fun q s h hl => ?_, fun s hr hm hd hl hb => ?_, fun s hr hm hd hl hb => ?_, fun q s h hl => ?_, fun q s h => ?_⟩
  · obtain ⟨_, hx, ⟨l, x, c, o, g, w, d, -, -, rfl⟩, hcur⟩ := okOd_taken h (f := fun _ _ s =>
      if s.ldr.loading then updLdr (fun l => { l with busyShown := true }) s
      else if loadBusy (headBays s) s then updLdr (fun l => { l with status := 1#8, detail := 0#32 }) s
      else updLdr (fun l => { l with
        loading := true, busyShown := false, loadMask := headBays s, loadAddr := l.imgAddr, loadBind := l.bindAddr }) s)
    rw [hl, if_neg (by decide)] at hx hcur
    refine ⟨_, congrArg Host.Outcome.next hx, hcur, ?_⟩
    split <;> exact ⟨rfl, rfl, rfl⟩
  · refine ⟨_, (exec_loadComplete hr hm hd hl).trans (congrArg _ (endLoading_busy (s := imageRead .clean s) hb)), ?_⟩
    exact ⟨rfl, rfl, rfl, rfl, rfl, rfl, rfl⟩
  · have hx := exec_loadComplete hr hm hd hl
    obtain ⟨k, hk⟩ := imageRead_clean (s := s)
    rw [hk] at hx
    cases hf : (Img.at s s.ldr.loadAddr).fails s with
    | some f =>
      rw [endLoading_failed (s := { s with stk := k }) hb (fails_congr.trans hf)] at hx
      obtain ⟨e, he⟩ := loadUe_frame (a := f.ue) (s := { s with stk := k })
      rw [he] at hx
      exact ⟨_, hx, rfl, rfl, rfl, rfl, rfl, rfl, rfl, rfl⟩
    | none =>
      rw [endLoading_passed (s := { s with stk := k }) hb (fails_congr.trans hf)] at hx
      obtain ⟨hload, ho, hs, hst, hdt, himg, hbays⟩ := finishLoading_spec (Img.at s s.ldr.loadAddr) { s with stk := k }
      refine ⟨_, hx, hload, ho, hs, hst, hdt, himg, fun b st => ?_⟩
      have hbay := hbays b
      unfold LoadAfter at hbay
      split at hbay
      case isTrue hn =>
        rw [if_pos hn]
        exact hbay st
      case isFalse hn =>
        rw [if_neg hn]
        obtain ⟨h₁, -, h₃, -⟩ := hbay st
        exact ⟨h₁, h₃⟩
  · obtain ⟨_, hx, ⟨l, x, c, o, g, w, d, -, -, rfl⟩, hcur⟩ := okOd_taken h (f := fun _ _ s =>
      if s.ldr.loading then updLdr (fun l => { l with busyShown := true }) s else unload s)
    rw [hl, if_neg (by decide)] at hx hcur
    obtain ⟨hm, hspec⟩ := unload_spec s
    refine ⟨_, congrArg Host.Outcome.next hx, hcur, hm, ?_⟩
    split at hspec
    case isTrue hc =>
      rw [if_pos hc]
      obtain ⟨hst, himg, hb⟩ := hspec
      refine ⟨hst, himg, fun b => ?_⟩
      have hbay := hb b
      unfold UnloadAfter at hbay
      split at hbay
      case isTrue hn => rw [if_pos hn]; exact hbay
      case isFalse hn => rw [if_neg hn]; exact hbay
    case isFalse hc =>
      rw [if_neg hc]
      exact hspec
  · obtain ⟨_, hx, ⟨l, x, c, o, g, w, d, -, -, rfl⟩, hcur⟩ := okOd_taken h (f := fun q _ => launchEffect q.value)
    by_cases hk : launchCode s q.value = 0
    · obtain ⟨hm, hc, hin, hb⟩ := launchEffect_accepted hk
      refine ⟨_, congrArg Host.Outcome.next hx, hcur, hm, ?_, ?_⟩
      · rw [hk]
        exact hc
      · rw [if_pos hk]
        refine ⟨hin, fun b => ?_⟩
        have hbay := hb b
        split at hbay
        case isTrue hn =>
          rw [if_pos hn]
          exact launched_spec hbay
        case isFalse hn =>
          rw [if_neg hn]
          exact hbay
    · rw [launchEffect, if_neg hk] at hx hcur
      refine ⟨_, congrArg Host.Outcome.next hx, hcur, rfl, rfl, ?_⟩
      rw [if_neg hk]
      exact ⟨rfl, rfl⟩

end Sys2Proof.Proofs.Loading
end

section
/-! PROOFS. The statistics unit: issue, application and results (Statistics). -/

namespace Sys2Proof.Proofs.StatisticsUnit

open Sys2Proof Sys2Proof.Machine Sys2Proof.Laws.State Sys2Proof.Laws.Sparse Sys2Proof.Laws.Ops Sys2Proof.Proofs.Tables
  Sys2Proof.Proofs.FlagWaits Sys2Proof.Proofs.Counters Sys2Proof.Proofs.DataMemory

variable {s t : State} {b : Bay} {o : StatOp} {k : Nat}

/-! ### Issue (R171) -/

/-- A statistics operation at the end of the unit's queue, the stream gone on. -/
def statQueued (b : Bay) (o : StatOp) (cd : Option Ctr) (s : State) : State :=
  ({ s with stats := { s.stats with queue := s.stats.queue ++ [(b, o)] } } : State).updStrm b .x
    (fun x => (match cd with | some r => x.mark r true | none => x).next)

theorem statIssue_queued {c : Instr} {rs : List Ctr} {cs : Ctr} {cd : Option Ctr} {f : Nat → State → StatOp}
    (hm : mayIssue b .x c s = true) (hf : (s.strm b .x).free rs = true) (hk : ((s.strm b .x).ctr[cs]).toNat ≤ 1023) :
    statIssue b c rs cs cd f s = statQueued b (f ((s.strm b .x).ctr[cs]).toNat s) cd s :=
  (issue_ready hm hf).trans (if_neg (Nat.not_lt.mpr hk))

theorem statIssue_trapped {c : Instr} {rs : List Ctr} {cs : Ctr} {cd : Option Ctr} {f : Nat → State → StatOp}
    (hm : mayIssue b .x c s = true) (hf : (s.strm b .x).free rs = true) (hk : 1023 < ((s.strm b .x).ctr[cs]).toNat) :
    statIssue b c rs cs cd f s = trap b .x 0x43 s :=
  (issue_ready hm hf).trans (if_pos hk)

theorem strm_statQueued {cd : Option Ctr} : (statQueued b o cd s).strm b .x =
    (match cd with
     | some r => { (s.strm b .x).next with busy := setBit (s.strm b .x).busy r true }
     | none => (s.strm b .x).next) := by
  refine strm_updStrm.trans ?_
  cases cd <;> rfl

/-- What the five instructions do at issue: they queue their operation, or trap on a slot out of range. -/
def StatIssued (b : Bay) (c : Instr) (cs : Ctr) (o : StatOp) (mark : Option Ctr) (s : State) : Prop :=
  (((s.strm b .x).ctr[cs]).toNat ≤ 1023 → exec c s = .next (statQueued b o mark s)) ∧
  (1023 < ((s.strm b .x).ctr[cs]).toNat → exec c s = .next (trap b .x 0x43 s))

theorem statIssued_of {c : Instr} {rs : List Ctr} {cs : Ctr} {cd : Option Ctr} {f : Nat → State → StatOp}
    (hx : exec c s = .next (statIssue b c rs cs cd f s)) (hm : mayIssue b .x c s = true)
    (hf : (s.strm b .x).free rs = true) : StatIssued b c cs (f ((s.strm b .x).ctr[cs]).toNat s) cd s :=
  ⟨fun hk => hx.trans (congrArg _ (statIssue_queued hm hf hk)), fun hk => hx.trans (congrArg _ (statIssue_trapped hm hf hk))⟩

theorem free_of_subset {x : Stream} {l m : List Ctr} (h : x.free l = true) (hs : ∀ c ∈ m, c ∈ l) : x.free m = true :=
  List.all_eq_true.mpr fun c hc => List.all_eq_true.mp h c (hs c hc)

theorem dieRuns_of_mayIssue {st : Strm} {c : Instr} (h : mayIssue b st c s = true) : dieRuns s = true := by
  simp only [mayIssue, Bool.and_eq_true] at h
  obtain ⟨⟨⟨⟨hd, -⟩, -⟩, -⟩, -⟩ := h
  exact hd

/-! ### The queue -/

theorem takeStat_append {q : List (Bay × StatOp)} (h : q.all (fun e => e.1 != b) = true) :
    takeStat b (q ++ [(b, o)]) = some (o, q) := by
  induction q with
  | nil => simp [takeStat]
  | cons e q ih =>
    obtain ⟨he, hq⟩ : (e.1 != b) = true ∧ q.all (fun e => e.1 != b) = true := by simpa using h
    have hne : ¬ e.1 = b := by simpa using he
    rw [List.cons_append, takeStat, if_neg hne, ih hq]
    rfl

theorem statRun_frame : (statRun b o s).mem = s.mem ∧ (statRun b o s).hdr = s.hdr ∧
    (statRun b o s).stats.queue = s.stats.queue := by
  cases o with
  | scfg t c => exact ⟨rfl, rfl, rfl⟩
  | amax t v cmt ovf =>
    unfold statRun
    dsimp only
    split
    · split <;> exact ⟨rfl, rfl, rfl⟩
    · exact ⟨rfl, rfl, rfl⟩
  | scale t cd => exact ⟨rfl, rfl, rfl⟩
  | uwr t u w cmt =>
    unfold statRun
    dsimp only
    split <;> exact ⟨rfl, rfl, rfl⟩
  | ustat t cd => exact ⟨rfl, rfl, rfl⟩

/-- The oldest operation of a bay is applied to the queue without it. -/
theorem exec_statsApply {r : List (Bay × StatOp)} (hr : dieRuns s = true) (ht : takeStat b s.stats.queue = some (o, r)) :
    exec (.statsApply b .clean) s = .next (statRun b o { s with stats := { s.stats with queue := r } }) := by
  refine congrArg Host.Outcome.next ((if_pos (alive_of_dieRuns hr)).trans ?_)
  unfold statNext
  rw [ht]
  rfl

/-! ### Slots -/

theorem scaleAt_putScale {x : ScaleSlot} (hw : Sparse.wf (fun _ => ScaleSlot.reset) s.stats.scale = true) :
    scaleAt (putScale k x s) k = x := get_set_self hw

theorem scaleAt_putScale_ne {x : ScaleSlot} {j : Nat} (h : j ≠ k) : scaleAt (putScale k x s) j = scaleAt s j := get_set_ne h

theorem ratioAt_putRatio {x : RatioSlot} (hw : Sparse.wf (fun _ => RatioSlot.reset) s.stats.ratio = true) :
    ratioAt (putRatio k x s) k = x := get_set_self hw

theorem ratioAt_putRatio_ne {x : RatioSlot} {j : Nat} (h : j ≠ k) : ratioAt (putRatio k x s) j = ratioAt s j := get_set_ne h

theorem clampInt_fst (lo hi v : Int) (h : lo ≤ hi) : (clampInt lo hi v).1 = max lo (min hi v) := by
  unfold clampInt
  split
  · simp only; omega
  · split <;> simp only <;> omega

/-- What a commit leaves of a scale slot (R173). -/
theorem commit_spec (x : ScaleSlot) (ovf : Bool) :
    (ovf = true ∨ finite32 x.p = false →
      x.skips ovf = true ∧ x.commit ovf = { x with backoff := min (x.backoff + 1) 7, clean := 0, p := 0#32 }) ∧
    (¬(ovf = true ∨ finite32 x.p = false) →
      x.skips ovf = false ∧ x.commit ovf = { x with
        hist := (if x.hist.length = 16 then x.hist.drop 1 else x.hist) ++ [x.p]
        clean := if x.clean + 1 = 16 then 0 else x.clean + 1
        backoff := if x.clean + 1 = 16 then x.backoff - 1 else x.backoff, p := 0#32 }) := by
  have hs : x.skips ovf = true ↔ ovf = true ∨ finite32 x.p = false := by simp [ScaleSlot.skips]
  refine ⟨fun h => ⟨hs.mpr h, if_pos (hs.mpr h)⟩, fun h => ?_⟩
  have hn : x.skips ovf = false := Bool.eq_false_iff.mpr fun h' => h (hs.mp h')
  refine ⟨hn, ?_⟩
  rw [ScaleSlot.commit, hn, if_neg (by decide), ScaleSlot.push]
  split <;> rfl

/-- The scale word of a slot (R173). -/
theorem word_spec (x : ScaleSlot) (n : Nat) :
    let h := x.hist.foldl fmax32 0#32
    let a := if x.hist.length < 16 then fmax32 h x.p else h
    ∃ e : BitVec 8, (a = 0#32 → e = 0#8) ∧
      (a ≠ 0#32 → finite32 a = true → e = BitVec.ofInt 8
        (max (-127) (min 127 ((if x.e5m2 then 15 else 8) - exOf a - (x.margin : Int) - (x.backoff : Int))))) ∧
      x.word n = BitVec.ofNat 32
        (e.toNat + (if x.hist.length < 16 then 1 else 0) * 2 ^ 8 + x.hist.length * 2 ^ 9 + x.backoff * 2 ^ 14) := by
  intro h a
  have hk : x.k n = if a = 0#32 then 0#8 else if finite32 a = true then
      BitVec.ofInt 8 (clampInt (-127) 127 ((if x.e5m2 then 15 else 8) - exOf a - x.margin - x.backoff)).1
      else BitVec.ofNat 8 n := rfl
  refine ⟨x.k n, fun h0 => by rw [hk, if_pos h0], fun h0 hf => ?_, ?_⟩
  · rw [hk, if_neg h0, if_pos hf, clampInt_fst _ _ _ (by decide)]
  · unfold ScaleSlot.word
    congr 1
    split <;> omega

/-- The quotient of a slot whose sums are not finite, or whose divisor is 0, is the canonical NaN (R175). -/
theorem ratioOf_nan {u w : W32} {n : Nat} (h : finite32 u = false ∨ finite32 w = false ∨ (finDy w).m = 0) :
    ratioOf u w n = 0x7FC00000#32 := by
  refine if_pos ?_
  rcases h with h | h | h <;> simp [h]

/-! ### One operation after another (R171 to R175) -/

theorem apply_scfg {c : W32} (hw : Sparse.wf (fun _ => ScaleSlot.reset) s.stats.scale = true) :
    scaleAt (statRun b (.scfg k c) s) k = { (if c.getLsbD 3 then ScaleSlot.reset else scaleAt s k) with
      e5m2 := c.getLsbD 0, margin := c.toNat / 2 % 4 } ∧
    (∀ j, j ≠ k → scaleAt (statRun b (.scfg k c) s) j = scaleAt s j) ∧
    (statRun b (.scfg k c) s).stats.ratio = s.stats.ratio :=
  ⟨scaleAt_putScale hw, fun _ h => scaleAt_putScale_ne h, rfl⟩

theorem apply_amax {v : W32} {ovf : Bool} (hw : Sparse.wf (fun _ => ScaleSlot.reset) s.stats.scale = true) :
    scaleAt (statRun b (.amax k v false ovf) s) k =
      { scaleAt s k with p := fmax32 (scaleAt s k).p (v &&& 0x7FFFFFFF#32) } ∧
    (∀ j, j ≠ k → scaleAt (statRun b (.amax k v false ovf) s) j = scaleAt s j) ∧
    (statRun b (.amax k v false ovf) s).stats.ratio = s.stats.ratio :=
  ⟨scaleAt_putScale hw, fun _ h => scaleAt_putScale_ne h, rfl⟩

/-- The unit's count of skipped steps. -/
def skipped (c : Bool) (s : State) : State :=
  if c then { s with stats := { s.stats with skips := satAdd 32 s.stats.skips 1 } } else s

theorem scaleAt_skipped {c : Bool} : scaleAt (skipped c s) k = scaleAt s k := by cases c <;> rfl

theorem apply_commit_eq {v : W32} {ovf : Bool} : statRun b (.amax k v true ovf) s =
    putScale k (((scaleAt s k).amax v).commit ovf) (skipped (((scaleAt s k).amax v).skips ovf) s) := rfl

theorem apply_commit {v : W32} {ovf : Bool} (hw : Sparse.wf (fun _ => ScaleSlot.reset) s.stats.scale = true) :
    (let x := scaleAt s k
     let p := fmax32 x.p (v &&& 0x7FFFFFFF#32)
     if ovf = true ∨ finite32 p = false then
       scaleAt (statRun b (.amax k v true ovf) s) k = { x with backoff := min (x.backoff + 1) 7, clean := 0, p := 0#32 } ∧
       (statRun b (.amax k v true ovf) s).stats.skips = satAdd 32 s.stats.skips 1
     else
       scaleAt (statRun b (.amax k v true ovf) s) k = { x with
         hist := (if x.hist.length = 16 then x.hist.drop 1 else x.hist) ++ [p]
         clean := if x.clean + 1 = 16 then 0 else x.clean + 1
         backoff := if x.clean + 1 = 16 then x.backoff - 1 else x.backoff, p := 0#32 } ∧
       (statRun b (.amax k v true ovf) s).stats.skips = s.stats.skips) ∧
    (∀ j, j ≠ k → scaleAt (statRun b (.amax k v true ovf) s) j = scaleAt s j) ∧
    (statRun b (.amax k v true ovf) s).stats.ratio = s.stats.ratio := by
  obtain ⟨hskip, hpush⟩ := commit_spec ((scaleAt s k).amax v) ovf
  have hw' : ∀ c, Sparse.wf (fun _ => ScaleSlot.reset) (skipped c s).stats.scale = true := fun c => by
    cases c <;> exact hw
  rw [apply_commit_eq]
  refine ⟨?_, fun j hj => (scaleAt_putScale_ne hj).trans scaleAt_skipped, ?_⟩
  · intro x p
    by_cases h : ovf = true ∨ finite32 p = false
    · obtain ⟨hs, hc⟩ := hskip h
      rw [if_pos h, scaleAt_putScale (hw' _), hs, hc]
      exact ⟨rfl, rfl⟩
    · obtain ⟨hs, hc⟩ := hpush h
      rw [if_neg h, scaleAt_putScale (hw' _), hs, hc]
      exact ⟨rfl, rfl⟩
  · cases ((scaleAt s k).amax v).skips ovf <;> rfl

theorem apply_scale {cd : Ctr} :
    (statRun b (.scale k cd) s).stats.scale = s.stats.scale ∧ (statRun b (.scale k cd) s).stats.ratio = s.stats.ratio ∧
    (statRun b (.scale k cd) s).stats.results = s.stats.results ++ [(b, cd, (scaleAt s k).word (freeVal s))] := ⟨rfl, rfl, rfl⟩

theorem apply_uwr {u w : W32} (hw : Sparse.wf (fun _ => RatioSlot.reset) s.stats.ratio = true) :
    (ratioAt (statRun b (.uwr k u w false) s) k).pairs[b] = some (u, w) ∧
    (ratioAt (statRun b (.uwr k u w false) s) k).last = (ratioAt s k).last ∧
    (∀ j, j ≠ k → ratioAt (statRun b (.uwr k u w false) s) j = ratioAt s j) ∧
    (statRun b (.uwr k u w false) s).stats.scale = s.stats.scale := by
  have h : ratioAt (statRun b (.uwr k u w false) s) k =
      { ratioAt s k with pairs := (ratioAt s k).pairs.set b (some (u, w)) } := ratioAt_putRatio hw
  rw [h]
  exact ⟨Vector.getElem_set_self _, rfl, fun _ hj => ratioAt_putRatio_ne hj, rfl⟩

/-- The pairs of a ratio slot summed over the bays. -/
def pairSum (f : W32 × W32 → W32) (ps : Vector (Option (W32 × W32)) 12) : W32 :=
  bayTree (ps.toList.map (fun p => (p.map f).getD 0#32))

theorem apply_ratio {u w : W32} (hw : Sparse.wf (fun _ => RatioSlot.reset) s.stats.ratio = true) :
    let ps := (ratioAt s k).pairs.set b (some (u, w))
    let t := statRun b (.uwr k u w true) s
    (ratioAt t k).pairs = Vector.replicate 12 none ∧
    ((∃ x, (ratioAt t k).last = ratioOf (pairSum Prod.fst ps) (pairSum Prod.snd ps) x) ∧
      (finite32 (pairSum Prod.fst ps) = false ∨ finite32 (pairSum Prod.snd ps) = false ∨ (finDy (pairSum Prod.snd ps)).m = 0 →
        (ratioAt t k).last = 0x7FC00000#32)) ∧
    (ratioAt t k).commits = min ((ratioAt s k).commits + 1) (2 ^ 32 - 1) ∧
    (∀ j, j ≠ k → ratioAt t j = ratioAt s j) ∧ t.stats.scale = s.stats.scale := by
  intro ps t
  have h : ratioAt t k = ({ ratioAt s k with pairs := ps } : RatioSlot).commit (freeVal s) := ratioAt_putRatio hw
  rw [h]
  exact ⟨rfl, ⟨⟨freeVal s, rfl⟩, fun hn => ratioOf_nan hn⟩, Nat.min_comm _ _, fun _ hj => ratioAt_putRatio_ne hj, rfl⟩

/-- Settles O14: issue queues the operation with what it captured, an application writes the one slot it names. -/
theorem statistics : Obligations.Statistics := by
  unfold Obligations.Statistics
  refine ⟨fun b cs c1 c2 cd cmt ovf s c o mark hc hm hf => ?_, fun b o r s hr ht hw hw' => ?_, fun b cd v r s hr ht => ?_⟩
  · have hi : StatIssued b c cs o mark s := by
      simp only [List.mem_cons, List.not_mem_nil, or_false, Prod.mk.injEq] at hc
      rcases hc with ⟨rfl, rfl, rfl⟩ | ⟨rfl, rfl, rfl⟩ | ⟨rfl, rfl, rfl⟩ | ⟨rfl, rfl, rfl⟩ | ⟨rfl, rfl, rfl⟩
      · exact statIssued_of rfl hm (free_of_subset hf (by simp))
      · exact statIssued_of rfl hm (free_of_subset hf (by simp))
      · exact statIssued_of rfl hm (free_of_subset hf (by simp))
      · exact statIssued_of rfl hm (free_of_subset hf (by simp))
      · exact statIssued_of rfl hm (free_of_subset hf (by simp))
    obtain ⟨hq, htrap⟩ := hi
    refine ⟨fun hk => ⟨_, hq hk, rfl, fun d hd => bay_updBay_ne hd, strm_updStrm_ne (.inr (by decide)), strm_statQueued⟩,
      fun hk hall => ⟨_, hq hk, takeStat_append hall, _, exec_statsApply ?_ (takeStat_append hall), ?_⟩,
      fun hk => ⟨_, htrap hk, (congrArg (fun v : State => v.stats) (trap_frame (status_ne_halted_of_mayIssue hm)) :),
        ringOnly_haltStream, ?_⟩⟩
    · exact (dieRuns_of_mayIssue (s := s) hm :)
    · obtain ⟨hmem, -, hqueue⟩ := statRun_frame (b := b) (o := o)
        (s := { statQueued b o mark s with stats := { (statQueued b o mark s).stats with queue := s.stats.queue } })
      exact ⟨hqueue, hmem⟩
    · rw [strm_trap_live (status_ne_halted_of_mayIssue hm)]
      rfl
  · have hx := exec_statsApply hr ht
    generalize hv : ({ s with stats := { s.stats with queue := r } } : State) = v at hx
    obtain ⟨hmem, hhdr, hqueue⟩ := statRun_frame (b := b) (o := o) (s := v)
    subst hv
    refine ⟨_, hx, hmem, bays_statRun, hhdr, hqueue, ?_⟩
    cases o with
    | scfg k c => exact apply_scfg hw
    | amax k v cmt ovf =>
      cases cmt
      · exact apply_amax hw
      · exact apply_commit (b := b) (k := k) (v := v) (ovf := ovf) (s := { s with stats := { s.stats with queue := r } }) hw
    | scale k cd =>
      obtain ⟨hs, hr, hres⟩ := apply_scale (b := b) (k := k) (cd := cd) (s := { s with stats := { s.stats with queue := r } })
      obtain ⟨e, h0, hf, hword⟩ := word_spec (scaleAt s k) (freeVal s)
      refine ⟨hs, hr, e, h0, hf, hres.trans ?_⟩
      rw [← hword]
      rfl
    | uwr k u w cmt =>
      cases cmt
      · exact apply_uwr hw'
      · exact apply_ratio hw'
    | ustat k cd => exact ⟨rfl, rfl, rfl⟩
  · refine ⟨landCtr b .x cd v { s with stats := { s.stats with results := r } }, ?_, rfl, fun d hd => bay_updBay_ne hd,
      strm_updStrm_ne (.inr (by decide)), strm_updStrm⟩
    change execStatsResultWrite b s = _
    rw [execStatsResultWrite, ht]
    exact congrArg Host.Outcome.next (if_pos (alive_of_dieRuns hr))

end Sys2Proof.Proofs.StatisticsUnit
end

section
/-! PROOFS. TD.KEY, TD.DROP and TD.STAT (TideIssue). -/

namespace Sys2Proof.Proofs.KeyStreams

open Sys2Proof Sys2Proof.Machine Sys2Proof.Laws.State Sys2Proof.Laws.Ops
  Sys2Proof.Proofs.VectorEngine Sys2Proof.Proofs.Contexts Sys2Proof.Proofs.ChannelsAndParks
  Sys2Proof.Proofs.TableLoads

variable {b : Bay} {s t u : State}

/-- Memory and both streams of a bay stand. -/
def TideOnly (b : Bay) (s t : State) : Prop :=
  t.mem = s.mem ∧ t.strm b .x = s.strm b .x ∧ t.strm b .a = s.strm b .a

theorem tideOnly_trans (h : TideOnly b s t) (h' : TideOnly b t u) : TideOnly b s u :=
  ⟨h'.1.trans h.1, h'.2.1.trans h.2.1, h'.2.2.trans h.2.2⟩

theorem tideOnly_bay (hm : t.mem = s.mem) (hb : t.bay b = s.bay b) : TideOnly b s t :=
  ⟨hm, congrArg (fun y : Bays => y.strm .x) hb, congrArg (fun y : Bays => y.strm .a) hb⟩

theorem tideOnly_updTide {f : Tide → Tide} : TideOnly b s (updTide b f s) :=
  ⟨rfl, (congrArg (fun y : Bays => y.strm .x) bay_updBay).trans rfl,
    (congrArg (fun y : Bays => y.strm .a) bay_updBay).trans rfl⟩

theorem tide_updTide {f : Tide → Tide} : ((updTide b f s).bay b).tide = f (s.bay b).tide :=
  congrArg Bays.tide bay_updBay

/-! ### Ending streams -/

theorem endStreams_spec {p : TStream → Bool} {count : Bool} : TideOnly b s (endStreams b p count s) ∧
    ((endStreams b p count s).bay b).tide.streams = (s.bay b).tide.streams.filter (fun x => !p x) := by
  unfold endStreams
  dsimp only
  split
  case isTrue h =>
    have hnone : ∀ x ∈ (s.bay b).tide.streams, ¬ p x = true := by
      simpa [List.isEmpty_iff, List.filter_eq_nil_iff] using h
    exact ⟨⟨rfl, rfl, rfl⟩, (List.filter_eq_self.2 fun x hx => by simpa using hnone x hx).symm⟩
  case isFalse =>
    obtain ⟨l, hl⟩ : ∃ l, l = (s.bay b).tide.streams.filter p := ⟨_, rfl⟩
    obtain ⟨v, hv⟩ : ∃ v, v = updTide b (fun y =>
      { y.freeHalves (l.map (fun t => t.sid)) with streams := y.streams.filter (fun t => !p t) }) s := ⟨_, rfl⟩
    have hbay : (l.foldl (fun s t => if t.refs then refDown t.ctx s else s) v).bay b = v.bay b :=
      congrArg (fun y : Vector Bays 12 => y[b]) DataMemory.bays_refsDown
    have hkey : TideOnly b s (l.foldl (fun s t => if t.refs then refDown t.ctx s else s) v) ∧
        ((l.foldl (fun s t => if t.refs then refDown t.ctx s else s) v).bay b).tide.streams =
          (s.bay b).tide.streams.filter (fun x => !p x) := by
      refine ⟨tideOnly_trans (hv ▸ tideOnly_updTide) (tideOnly_bay mem_refsDown hbay), ?_⟩
      rw [hbay, hv, tide_updTide]
    subst hv hl
    split
    exacts [hkey, hkey]

/-! ### Judging -/

/-- Judging touches only the check code and the zero mark. -/
theorem judge_eq {x : TStream} {o : OpenOp} : ∃ c z, x.judge s o = { x with chk := c, zero := z } := by
  unfold TStream.judge
  split
  exacts [⟨_, _, rfl⟩, ⟨x.chk, x.zero, rfl⟩]

/-- A judged bay holds each stream of before as judged, but a bound one without rows may have ended. -/
theorem judgeIn_spec {o : OpenOp} : TideOnly b s (judgeIn o b s) ∧
    ∀ x ∈ (s.bay b).tide.streams, ∃ c z, let y := { x with chk := c, zero := z }
      y ∈ ((judgeIn o b s).bay b).tide.streams ∨ (x.bound = true ∧ x.total b = some 0) := by
  have ht : TideOnly b s (updTide b (fun t => t.judgeAll s o) s) := tideOnly_updTide
  obtain ⟨he, hl⟩ := endStreams_spec (b := b) (count := false)
    (s := updCur b (fun c => c.noteChecks b ((updTide b (fun t => t.judgeAll s o) s).bay b).tide.streams)
      (updTide b (fun t => t.judgeAll s o) s))
    (p := fun t => t.bound && (t.chk.isSome || t.zero) && t.total b == some 0)
  refine ⟨tideOnly_trans ht he, fun x hx => ?_⟩
  obtain ⟨c, z, hj⟩ := judge_eq (s := s) (x := x) (o := o)
  refine ⟨c, z, ?_⟩
  by_cases hend : x.bound = true ∧ x.total b = some 0
  · exact .inr hend
  · refine .inl ?_
    have hin : x.judge s o ∈ ((updTide b (fun t => t.judgeAll s o) s).bay b).tide.streams := by
      rw [tide_updTide]
      exact List.mem_map_of_mem hx
    refine (congrArg (_ ∈ ·) hl).mpr (List.mem_filter.2 ⟨hj ▸ hin, ?_⟩)
    have htot : TStream.total { x with chk := c, zero := z } b = x.total b := rfl
    rw [htot]
    cases hb : x.bound with
    | false => rfl
    | true =>
      have hne : (x.total b == some 0) = false := beq_false_of_ne fun h => hend ⟨hb, h⟩
      rw [hne, Bool.and_false]
      rfl

/-- The same of the operation the bay is in; without one the bay stands. -/
theorem judgeBay_spec : TideOnly b s (judgeBay b s) ∧ (hendOp b s = none → judgeBay b s = s) ∧
    ∀ x ∈ (s.bay b).tide.streams, ∃ c z, let y := { x with chk := c, zero := z }
      y ∈ ((judgeBay b s).bay b).tide.streams ∨ (x.bound = true ∧ x.total b = some 0) := by
  unfold judgeBay
  cases hendOp b s with
  | none => exact ⟨⟨rfl, rfl, rfl⟩, fun _ => rfl, fun x hx => ⟨x.chk, x.zero, .inl hx⟩⟩
  | some o => exact ⟨judgeIn_spec.1, fun h => (Option.some_ne_none o h).elim, judgeIn_spec.2⟩

/-! ### Opening -/

theorem hendOp_hdr (h : t.hdr.brackets = s.hdr.brackets) : hendOp b t = hendOp b s := by
  unfold hendOp curOf bracketOf
  rw [h]

theorem captureKey_setBay {x : Bays} (h : x.prot = (s.bay b).prot) (n e l : Nat) :
    captureKey (s.setBay b x) n e l = captureKey s n e l := by
  have hbad : rangeBad (s.setBay b x) = rangeBad s :=
    funext fun a => funext fun m => congrArg (fun g : Nat → Bool => (List.range m).any (fun i => g (a + i)))
      (byteBad_setBay h)
  unfold captureKey
  rw [hbad]
  rfl

theorem captureKey_updTide {f : Tide → Tide} {n e l : Nat} : captureKey (updTide b f s) n e l = captureKey s n e l :=
  captureKey_setBay (b := b) (s := s) (by rfl) n e l

theorem captureKey_counted {c : Codes} {k : Vector Stack 12} {n e l : Nat} :
    captureKey { { s with codes := c } with stk := k } n e l = captureKey s n e l := rfl

theorem refUp_frame {i : Nat} : (refUp i s).mem = s.mem ∧ (refUp i s).bays = s.bays ∧
    (refUp i s).hdr.brackets = s.hdr.brackets := by
  unfold refUp
  dsimp only
  split
  exacts [⟨rfl, rfl, rfl⟩, ⟨rfl, rfl, rfl⟩]

/-- A stream opens with what R97 captures, and its bay is judged. -/
theorem openStream_clean {f : Tide → Tide} {x : TStream} : ∃ u r, openStream b x .clean (updTide b f s) = judgeBay b u ∧
    TideOnly b s u ∧ hendOp b u = hendOp b s ∧ (u.bay b).tide = (f (s.bay b).tide).mapStream x.sid (fun y =>
      { y with opened := true, cap := captureKey s x.ctx x.eidx x.level, refs := r }) := by
  obtain ⟨c, hc⟩ := countBad_codes (l := openReads (updTide b f s) x) (r := 7) (s := updTide b f s)
  obtain ⟨k, hk⟩ := traffic_frame (rd := wordSpans (openReads (updTide b f s) x)) (wr := [])
    (s := { updTide b f s with codes := c })
  unfold openStream readIn
  dsimp only
  rw [hc, hk]
  have hcap : captureKey { { updTide b f s with codes := c } with stk := k } x.ctx x.eidx x.level =
      captureKey s x.ctx x.eidx x.level := captureKey_counted.trans captureKey_updTide
  rw [hcap]
  generalize (ctxAt { { updTide b f s with codes := c } with stk := k } x.ctx).isReady = r
  obtain ⟨v, hv⟩ : ∃ v : State, v = { { updTide b f s with codes := c } with stk := k } := ⟨_, rfl⟩
  have hsv : TideOnly b s v ∧ (v.bay b).tide = f (s.bay b).tide ∧ v.hdr.brackets = s.hdr.brackets :=
    hv ▸ ⟨tideOnly_trans tideOnly_updTide ⟨rfl, rfl, rfl⟩, tide_updTide, rfl⟩
  rw [← hv]
  obtain ⟨hf, htide, hbr⟩ := hsv
  refine ⟨_, r, rfl, ?_⟩
  cases r with
  | false =>
    rw [if_neg (by decide)]
    exact ⟨tideOnly_trans hf tideOnly_updTide, hendOp_hdr hbr, by rw [tide_updTide, htide]⟩
  | true =>
    rw [if_pos rfl]
    obtain ⟨hm, hb, hk⟩ := refUp_frame (i := x.ctx)
      (s := updTide b (fun t => t.mapStream x.sid (fun y => { y with opened := true, cap := captureKey s x.ctx x.eidx x.level, refs := true })) v)
    have hbay := congrArg (fun y : Vector Bays 12 => y[b]) hb
    exact ⟨tideOnly_trans (tideOnly_trans hf tideOnly_updTide) (tideOnly_bay hm hbay), hendOp_hdr (hk.trans hbr),
      (congrArg Bays.tide hbay).trans (tide_updTide.trans (by rw [htide]))⟩

/-! ### TD.KEY -/

/-- The stream a TD.KEY adds, as it joins the bay's list. -/
def keyStream (b : Bay) (ck cg : Ctr) (cb : Option Ctr) (next : Bool) (level : Fin 64) (s : State) : TStream :=
  { sid := (s.bay b).tide.nextSid, ctx := Fin.ofNat 16384 (bitsAt (ctrOf b .x ck s).toNat 13 0)
    eidx := bitsAt (ctrOf b .x ck s).toNat 27 16, cg := ctrOf b .x cg s, level := level
    start := cb.map (fun c => ctrOf b .x c s), next := next, opened := false, cap := none
    bound := (hendOp b s).isSome && !next, nset := (s.bay b).tide.nbound, chk := none, zero := false
    allowed := false, refs := false, rows := 0, segs := 0, fills := 0 }

/-- Tide with one stream more. -/
def withStream (x : TStream) (t : Tide) : Tide :=
  { t with
    streams := t.streams ++ [x], nextSid := t.nextSid + 1, nbound := if x.bound then t.nbound + 1 else t.nbound
    spoiled := t.spoiled || (x.bound && t.halt) }

theorem exec_tdKey {ck cg : Ctr} {cb : Option Ctr} {next : Bool} {level : Fin 64} {ev : CodeEvent}
    (hm : mayIssue b .x (.tdKey b ck cg cb next level ev) s = true)
    (hf : (s.strm b .x).free ([ck, cg] ++ cb.toList) = true) :
    exec (.tdKey b ck cg cb next level ev) s = .next (
      if 4 ≤ (s.bay b).tide.streams.length then stall b .x .tdOpen (.tdKey b ck cg cb next level ev) 0#32 s
      else if (cb.isNone && ahead s (wordSpans (openReads s (keyStream b ck cg cb next level s))) []) = true then s
      else retire b .x (if cb.isNone then
          openStream b (keyStream b ck cg cb next level s) ev
            (updTide b (withStream (keyStream b ck cg cb next level s)) s)
        else judgeBay b (updTide b (withStream (keyStream b ck cg cb next level s)) s))) := by
  change execTdKey b ck cg cb next level ev s = _
  rw [execTdKey, issue_ready hm hf]
  rfl

theorem exec_tdKey_full {ck cg : Ctr} {cb : Option Ctr} {next : Bool} {level : Fin 64} {ev : CodeEvent}
    (hm : mayIssue b .x (.tdKey b ck cg cb next level ev) s = true) (hw : (s.strm b .x).wait = none)
    (hf : (s.strm b .x).free ([ck, cg] ++ cb.toList) = true) (h4 : 4 ≤ (s.bay b).tide.streams.length) :
    exec (.tdKey b ck cg cb next level ev) s = .next (s.setBay b ((s.bay b).setStrm .x
      { s.strm b .x with
        status := .wait, fpc := (s.strm b .x).pc
        wait := some ⟨.tdOpen, 0, s.od.waitTimeout, .tdKey b ck cg cb next level ev, 0#32⟩ })) := by
  rw [exec_tdKey hm hf, if_pos h4, stall, Stream.waiting, hw]

/-- What the bay holds of a stream added under the operation it is in. -/
def Added (b : Bay) (x : TStream) (s t : State) : Prop :=
  TideOnly b s t ∧ (hendOp b s = none → (t.bay b).tide.streams.length = (s.bay b).tide.streams.length + 1) ∧
    ∃ c z r, let y := { x with chk := c, zero := z, refs := r }
      y ∈ (t.bay b).tide.streams ∨ (y.bound = true ∧ y.total b = some 0)

theorem added_judged {x : TStream} (hx : x ∈ (t.bay b).tide.streams) (hf : TideOnly b s t)
    (hh : hendOp b t = hendOp b s) (hl : (t.bay b).tide.streams.length = (s.bay b).tide.streams.length + 1) :
    Added b x s (judgeBay b t) := by
  obtain ⟨hj, hnone, hin⟩ := judgeBay_spec (b := b) (s := t)
  obtain ⟨c, z, hy⟩ := hin x hx
  exact ⟨tideOnly_trans hf hj, fun h => by rw [hnone (hh.trans h), hl], c, z, x.refs, hy⟩

/-- A TD.KEY without a start beat opens its stream at once. -/
theorem added_opened {x : TStream} :
    Added b { x with opened := true, cap := captureKey s x.ctx x.eidx x.level } s
      (openStream b x .clean (updTide b (withStream x) s)) := by
  obtain ⟨u, r, ho, hf, hh, ht⟩ := openStream_clean (b := b) (s := s) (f := withStream x) (x := x)
  rw [ho]
  obtain ⟨hj, hl, c, z, r', hy⟩ := added_judged (x := { x with opened := true, cap := captureKey s x.ctx x.eidx x.level, refs := r })
    (by
      rw [ht]
      refine List.mem_map.2 ⟨x, List.mem_append_right _ (List.mem_singleton_self x), ?_⟩
      rw [if_pos rfl]) hf hh
    (by rw [ht]; simp [Tide.mapStream, withStream])
  exact ⟨hj, hl, c, z, r', hy⟩

theorem added_waiting {x : TStream} : Added b x s (judgeBay b (updTide b (withStream x) s)) :=
  added_judged (by rw [tide_updTide]; exact List.mem_append_right _ (List.mem_singleton_self x)) tideOnly_updTide
    (hendOp_hdr rfl) (by rw [tide_updTide]; simp [withStream])

theorem exec_tdKey_room {ck cg : Ctr} {cb : Option Ctr} {next : Bool} {level : Fin 64}
    (hm : mayIssue b .x (.tdKey b ck cg cb next level .clean) s = true)
    (hf : (s.strm b .x).free ([ck, cg] ++ cb.toList) = true) (h4 : (s.bay b).tide.streams.length < 4)
    (hq : cb = none → noReqs s = true) :
    ∃ t, exec (.tdKey b ck cg cb next level .clean) s = .next (retire b .x t) ∧
      Added b { keyStream b ck cg cb next level s with
        opened := cb.isNone, cap := if cb.isNone then captureKey s (keyStream b ck cg cb next level s).ctx
          (keyStream b ck cg cb next level s).eidx level else none } s t := by
  rw [exec_tdKey hm hf, if_neg (by omega)]
  cases cb with
  | none =>
    rw [if_neg (by rw [ahead_of_noReqs (hq rfl)]; decide)]
    exact ⟨_, rfl, added_opened⟩
  | some c => exact ⟨_, rfl, added_waiting⟩

theorem retire_frame : (retire b .x s).mem = s.mem ∧ (retire b .x s).strm b .x = (s.strm b .x).next ∧
    (retire b .x s).strm b .a = s.strm b .a ∧ ((retire b .x s).bay b).tide = (s.bay b).tide :=
  ⟨rfl, strm_retire, (congrArg Bays.a bay_updBay).trans rfl, (congrArg Bays.tide bay_updBay).trans rfl⟩

theorem exec_tdDrop (hm : mayIssue b .x (.tdDrop b) s = true) :
    exec (.tdDrop b) s = .next (retire b .x (endStreams b (fun x => !x.bound) true s)) :=
  congrArg Host.Outcome.next (issue_ready hm free_nil)

theorem exec_tdStat {cn : Ctr} (hm : mayIssue b .x (.tdStat b cn) s = true) (hf : (s.strm b .x).free [cn] = true) :
    exec (.tdStat b cn) s = .next (putCtr b .x cn (tdStat (s.bay b).tide) s) :=
  congrArg Host.Outcome.next (issue_ready hm hf)

/-- Settles O15: the stream a TD.KEY appends is followed through its opening and its judging, neither of which touches what
its operands name. -/
theorem tideIssue : Obligations.TideIssue := by
  refine ⟨?_, ?_, ?_, ?_⟩
  · intro b ck cg cb next level s hm hf h4 hq
    obtain ⟨t, he, ⟨hmem, hx, ha⟩, hl, c, z, r, hy⟩ := exec_tdKey_room hm hf h4 hq
    obtain ⟨rm, rx, ra, rt⟩ := retire_frame (b := b) (s := t)
    refine ⟨_, he, rm.trans hmem, by rw [rx, hx], ra.trans ha, fun h => by rw [rt, hl h], _,
      hy.imp_left fun h => by rw [rt]; exact h, ?_, rfl, rfl, rfl, rfl, rfl, rfl, rfl, rfl, rfl⟩
    exact Nat.mod_eq_of_lt (Nat.mod_lt _ (by decide))
  · intro b ck cg cb next level ev s hm _ hw hf h4
    exact exec_tdKey_full hm hw hf h4
  · intro b s hm
    obtain ⟨⟨hmem, hx, -⟩, hs⟩ := endStreams_spec (b := b) (s := s) (p := fun x => !x.bound) (count := true)
    obtain ⟨rm, rx, -, rt⟩ := retire_frame (b := b) (s := endStreams b (fun x => !x.bound) true s)
    exact ⟨_, exec_tdDrop hm, rm.trans hmem, by rw [rx, hx], by rw [rt, hs]; simp only [Bool.not_not]⟩
  · intro b cn s hm hf
    exact ⟨_, exec_tdStat hm hf, onlyStrm_putCtr, strm_putCtr⟩

end Sys2Proof.Proofs.KeyStreams
end

section
/-! PROOFS. Work pools: declaring, arming, taking and the landing of an index (WorkPools). -/

namespace Sys2Proof.Proofs.Pools

open Sys2Proof Sys2Proof.Machine Sys2Proof.Laws.State Sys2Proof.Laws.Ops Sys2Proof.Laws.Memory Sys2Proof.Laws.Sparse
  Sys2Proof.Proofs.DataMemory Sys2Proof.Proofs.HopNesting Sys2Proof.Proofs.FlagWaits Sys2Proof.Proofs.Counters
  Sys2Proof.Proofs.Tables Sys2Proof.Proofs.TableLoads

variable {b d : Bay} {st r : Strm} {p q : Fin 64} {x : Pool} {s t u : State}

/-! ### The pools (R209) -/

theorem poolOf_congr (h : t.pools = s.pools) : poolOf q t = poolOf q s := by rw [poolOf, poolOf, h]

theorem poolOf_putPool_self (h : Sparse.wf (fun _ => Pool.reset) s.pools = true) : poolOf p (putPool p x s) = x :=
  get_set_self h

theorem poolOf_putPool_ne (h : q ≠ p) : poolOf q (putPool p x s) = poolOf q s :=
  get_set_ne fun hv => h (Fin.ext hv)

theorem strm_forgetPool {keep : List (Bay × Strm × Nat × BayMask)} :
    ∃ l, (forgetPool p keep s).strm b st = { s.strm b st with pools := l } := by
  have hb : (forgetPool p keep s).bay b = _ := bay_mapBays
  have hs : (forgetPool p keep s).strm b st = _ := congrArg (fun y : Bays => y.strm st) hb
  rw [hs]
  cases st <;>
  · dsimp only [Bays.strm]
    split
    exacts [⟨_, rfl⟩, ⟨_, rfl⟩]

theorem strm_usePool : ∃ l, (usePool b st p s).strm b st = { s.strm b st with pools := l } :=
  ⟨_, (congrArg (fun y : Bays => y.strm st) bay_setBay).trans strm_setStrm⟩

/-! ### Faults leave the pools -/

theorem pools_record {ty arg len payload : Nat} : (record ty arg len payload s).pools = s.pools := by
  obtain ⟨r, hr⟩ := record_frame (s := s) (ty := ty) (arg := arg) (len := len) (payload := payload)
  rw [hr]

theorem pools_throttle {code unit level : Nat} : (throttle code unit level s).pools = s.pools := pools_record (s := s)

theorem pools_trap {code : Nat} : (trap b st code s).pools = s.pools := by
  have hrec : ∀ age, (haltRec b st (b + 16 * strmNo st) code (s.strm b st).pc age false
      (countFault code b (strmNo st) s)).pools = s.pools := fun age => by
    unfold haltRec
    dsimp only
    split <;> exact pools_record
  unfold trap haltStream haltBy
  split
  · rfl
  · dsimp only
    split <;> exact hrec _

theorem haltPool_frame {l : List (Bay × Strm × Nat × BayMask)} : (haltPool l s).pools = s.pools ∧ ringOnly s (haltPool l s) :=
  List.foldlRecOn (motive := fun t : State => t.pools = s.pools ∧ ringOnly s t) l _ ⟨rfl, fun _ _ => rfl⟩
    fun _ ht _ _ => ⟨pools_trap.trans ht.1, ringOnly_trans ht.2 ringOnly_haltStream⟩

/-- The stream is HALTED, with fault 0x37 unless it was so before. -/
def OutOfPool (x y : Stream) : Prop := y.status = .halted ∧ (x.status ≠ .halted → y.fault = 0x37#8)

/-- A fault halts its stream with its code, or finds it HALTED and leaves it. -/
theorem strm_trap_or {code : Nat} :
    (trap b st code s).strm b st =
      { (s.strm b st).halted code (s.strm b st).pc false with haltAge := some (s.bay b).issued } ∨
    (s.strm b st).status = .halted ∧ (trap b st code s).strm b st = s.strm b st := by
  by_cases ho : (s.strm b st).outdone code (s.bay b).issued = true
  · by_cases hd : (s.strm b st).deaf = true
    · exact .inr ⟨beq_iff_eq.1 (Bool.and_eq_true_iff.1 hd).1, congrArg (·.strm b st) (haltStream_deaf hd)⟩
    · exact .inl (strm_haltStream (by simpa using hd) ho)
  · have hh : (s.strm b st).status = .halted := by
      by_contra hne
      simp [Stream.outdone, hne] at ho
    refine .inr ⟨hh, ?_⟩
    unfold trap haltStream haltBy haltRec
    split
    · rfl
    · dsimp only
      rw [strm_recFault, strm_countFault, if_neg ho]
      split <;> exact strm_recFault

theorem outOfPool_trap {v : Stream} (h : OutOfPool v (s.strm b st)) : OutOfPool v ((trap d r 0x37 s).strm b st) := by
  by_cases he : b ≠ d ∨ st ≠ r
  · rwa [trap, strm_haltStream_ne he]
  · obtain ⟨rfl, rfl⟩ : b = d ∧ st = r := by simpa [not_or] using he
    rcases strm_trap_or (b := b) (st := st) (code := 0x37) (s := s) with ht | ⟨-, ht⟩
    · rw [ht]
      exact ⟨rfl, fun _ => rfl⟩
    · rwa [ht]

/-- Every stream that is listed halts with fault 0x37. -/
theorem outOfPool_haltPool {l : List (Bay × Strm × Nat × BayMask)} {e : Bay × Strm × Nat × BayMask} (he : e ∈ l) :
    OutOfPool (s.strm e.1 e.2.1) ((haltPool l s).strm e.1 e.2.1) := by
  have hkeep : ∀ (m : List (Bay × Strm × Nat × BayMask)) (v : Stream) (u : State), OutOfPool v (u.strm e.1 e.2.1) →
      OutOfPool v ((haltPool m u).strm e.1 e.2.1) := fun m v u hu =>
    List.foldlRecOn (motive := fun t : State => OutOfPool v (t.strm e.1 e.2.1)) m _ hu fun _ ht _ _ => outOfPool_trap ht
  induction l generalizing s with
  | nil => cases he
  | cons c l ih =>
    by_cases hc : e.1 ≠ c.1 ∨ e.2.1 ≠ c.2.1
    · have hel : e ∈ l := (List.mem_cons.1 he).resolve_left fun h => by subst h; simp at hc
      have hs : (trap c.1 c.2.1 0x37 s).strm e.1 e.2.1 = s.strm e.1 e.2.1 := strm_haltStream_ne hc
      exact hs ▸ ih (s := trap c.1 c.2.1 0x37 s) hel
    · obtain ⟨h1, h2⟩ : e.1 = c.1 ∧ e.2.1 = c.2.1 := by simpa [not_or] using hc
      refine hkeep l _ (trap c.1 c.2.1 0x37 s) ?_
      rw [← h1, ← h2]
      rcases strm_trap_or (b := e.1) (st := e.2.1) (code := 0x37) (s := s) with ht | ⟨hh, ht⟩
      · rw [ht]
        exact ⟨rfl, fun _ => rfl⟩
      · rw [ht]
        exact ⟨hh, fun hn => (hn hh).elim⟩

/-! ### Arming (R209) -/

theorem pinits_next : (s.strm b st).next.pinits = false := rfl

/-- Arming retires each stream that waits on its declaration, once. -/
theorem strm_retireDecls {l : List (Bay × Strm × Nat × BayMask)} : (retireDecls l s).strm b st =
    if (∃ e ∈ l, e.1 = b ∧ e.2.1 = st) ∧ (s.strm b st).pinits = true then (s.strm b st).next else s.strm b st := by
  induction l generalizing s with
  | nil => simp [retireDecls]
  | cons c l ih =>
    have hstep : retireDecls (c :: l) s =
      retireDecls l (if (s.strm c.1 c.2.1).pinits then retire c.1 c.2.1 s else s) := rfl
    rw [hstep, ih]
    by_cases hc : b ≠ c.1 ∨ st ≠ c.2.1
    · have hs : (if (s.strm c.1 c.2.1).pinits then retire c.1 c.2.1 s else s).strm b st = s.strm b st := by
        split
        exacts [strm_updStrm_ne hc, rfl]
      have hne : ¬ (c.1 = b ∧ c.2.1 = st) := fun ⟨h1, h2⟩ => hc.elim (fun h => h h1.symm) fun h => h h2.symm
      simp only [hs, List.mem_cons, exists_eq_or_imp, hne, false_or]
    · obtain ⟨rfl, rfl⟩ : b = c.1 ∧ st = c.2.1 := by simpa [not_or] using hc
      by_cases hp : (s.strm c.1 c.2.1).pinits = true
      · have hs : (if (s.strm c.1 c.2.1).pinits then retire c.1 c.2.1 s else s).strm c.1 c.2.1 = (s.strm c.1 c.2.1).next := by
          rw [if_pos hp, strm_retire]
        rw [hs, pinits_next, if_neg (by simp), if_pos ⟨⟨c, by simp⟩, hp⟩]
      · rw [if_neg hp, if_neg (by simp [hp]), if_neg (by simp [hp])]

theorem retireDecls_frame {l : List (Bay × Strm × Nat × BayMask)} :
    (retireDecls l s).pools = s.pools ∧ (retireDecls l s).mem = s.mem :=
  List.foldlRecOn (motive := fun t : State => t.pools = s.pools ∧ t.mem = s.mem) l _ ⟨rfl, rfl⟩ fun _ ht _ _ => by
    split
    exacts [ht, ht]

/-- Halting the TS.TAKEs that wait outside the mask touches no pool and no stream that does not wait. -/
theorem haltOutside_frame {mask : BayMask} : (haltOutside p mask s).pools = s.pools ∧ ringOnly s (haltOutside p mask s) ∧
    ∀ b st, (s.strm b st).status ≠ .wait → (haltOutside p mask s).strm b st = s.strm b st := by
  refine List.foldlRecOn (motive := fun t : State => t.pools = s.pools ∧ ringOnly s t ∧
    ∀ b st, (s.strm b st).status ≠ .wait → t.strm b st = s.strm b st) _ _ ⟨rfl, fun _ _ => rfl, fun _ _ _ => rfl⟩ ?_
  intro u ⟨hp, hr, hs⟩ e _
  split
  case isFalse => exact ⟨hp, hr, hs⟩
  case isTrue hout =>
    refine ⟨pools_trap.trans hp, ringOnly_trans hr ringOnly_haltStream, fun b st hw => ?_⟩
    have hne : b ≠ e.1 ∨ st ≠ e.2 := by
      by_contra hc
      obtain ⟨rfl, rfl⟩ : b = e.1 ∧ st = e.2 := by simpa [not_or] using hc
      simp [takesOutside, hs _ _ hw, hw] at hout
    exact (strm_haltStream_ne hne).trans (hs b st hw)

/-- A pool as its arming leaves it. -/
def armedPool (n : Nat) (mask : BayMask) (p : Fin 64) (s : State) : Pool :=
  { Pool.reset with arming := (poolOf p s).arming + 1, armed := true, count := n, mask := mask, bal := s.od.balance }

/-- Arming the pool lets every stream that waits on its declaration go on. -/
theorem poolArmed_agreed {n : Nat} {mask : BayMask} {l : List (Bay × Strm × Nat × BayMask)} (hd : dieRuns s = true)
    (ha : (poolOf p s).armed = false) (hl : (poolOf p s).decls = (b, st, n, mask) :: l)
    (hf : declsFull (poolOf p s).decls = true) (hg : declsAgree (poolOf p s).decls = true) :
    ∃ t, exec (.poolArmed p) s = .next t ∧ ringOnly s t ∧ t.pools = (putPool p (armedPool n mask p s) s).pools ∧
      ∀ e ∈ (poolOf p s).decls, (s.strm e.1 e.2.1).pinits = true → t.strm e.1 e.2.1 = (s.strm e.1 e.2.1).next := by
  have hc : (alive s && !(poolOf p s).armed && declsFull (poolOf p s).decls) = true := by
    rw [alive_of_dieRuns hd, ha, hf]
    rfl
  obtain ⟨u, hu⟩ : ∃ u, u = retireDecls (poolOf p s).decls (putPool p (armedPool n mask p s) s) := ⟨_, rfl⟩
  obtain ⟨hup, hum⟩ : u.pools = (putPool p (armedPool n mask p s) s).pools ∧ u.mem = s.mem := hu ▸ retireDecls_frame
  obtain ⟨hvp, hvr, hvs⟩ := haltOutside_frame (p := p) (mask := mask) (s := u)
  have hur : ringOnly s (haltOutside p mask u) := fun a h => (hvr a h).trans (rd_congr hum a)
  have hus : ∀ e ∈ (poolOf p s).decls, (s.strm e.1 e.2.1).pinits = true →
      (haltOutside p mask u).strm e.1 e.2.1 = (s.strm e.1 e.2.1).next := fun e he hp => by
    have hn : u.strm e.1 e.2.1 = (s.strm e.1 e.2.1).next := by
      rw [hu, strm_retireDecls, if_pos ⟨⟨e, he, rfl, rfl⟩, hp⟩]
      rfl
    rw [hvs _ _ (by rw [hn]; exact nofun), hn]
  refine ⟨if (haltOutside p mask u).od.balance then throttle 9 255 0 (haltOutside p mask u) else haltOutside p mask u, ?_, ?_, ?_, ?_⟩
  · change execPoolArmed p s = _
    unfold execPoolArmed
    rw [if_pos hc]
    split
    case h_1 h => exact absurd (hl.symm.trans h) nofun
    case h_2 h =>
      obtain ⟨-, -, rfl, rfl⟩ := by simpa using (List.cons.inj (hl.symm.trans h)).1
      simp only [if_pos hg, hu, armedPool]
  · split
    exacts [ringOnly_trans hur ringOnly_throttle, hur]
  · split
    exacts [pools_throttle.trans (hvp.trans hup), hvp.trans hup]
  · intro e he hp
    split
    exacts [strm_throttle.trans (hus e he hp), hus e he hp]

/-- Where the declarations differ every declaring stream halts and the pool forgets them. -/
theorem exec_poolArmed_differing (hd : dieRuns s = true) (ha : (poolOf p s).armed = false)
    (hf : declsFull (poolOf p s).decls = true) (hg : declsAgree (poolOf p s).decls = false) :
    exec (.poolArmed p) s =
      .next (haltPool (poolOf p s).decls (forgetPool p [] (putPool p { poolOf p s with decls := [] } s))) := by
  have hc : (alive s && !(poolOf p s).armed && declsFull (poolOf p s).decls) = true := by
    rw [alive_of_dieRuns hd, ha, hf]
    rfl
  change execPoolArmed p s = _
  unfold execPoolArmed
  rw [if_pos hc]
  split
  case h_1 h => exact absurd (h ▸ hf) nofun
  case h_2 h => simp only [hg, Bool.false_eq_true, if_false]

/-! ### TS.PINIT (R209) -/

/-- A stream that stalls waits with the cause, and its control state stands. -/
theorem waiting_spec {y : Stream} {cause : Cause} {limit : Nat} {c : Instr} {target : W32} :
    ∃ n k v i, y.waiting cause limit c target = { y with status := .wait, fpc := v, wait := some ⟨cause, n, k, i, target⟩ } ∧
      (i = c ∨ plainCmd i = plainCmd c) := by
  unfold Stream.waiting
  split
  · split
    case isTrue h => exact ⟨_, _, y.fpc, _, by rw [← h.1], .inr h.2⟩
    case isFalse => exact ⟨_, _, _, _, rfl, .inl rfl⟩
  · exact ⟨_, _, _, _, rfl, .inl rfl⟩

theorem exec_tsPinit {cn cm : Ctr} (hm : mayIssue b st (.tsPinit b st cn cm p) s = true)
    (hf : (s.strm b st).free [cn, cm] = true) (ha : (poolOf p s).armed = false)
    (hn : (poolOf p s).decls.all (fun e => !(e.1 == b && e.2.1 == st)) = true) :
    exec (.tsPinit b st cn cm p) s = .next (usePool b st p (putPool p { poolOf p s with
      decls := (poolOf p s).decls ++
        [(b, st, (s.strm b st).ctr[cn].toNat, BitVec.ofNat 12 (s.strm b st).ctr[cm].toNat)] }
      (stall b st .pool (.tsPinit b st cn cm p) 0#32 s))) := by
  have hnot : ((poolOf p s).decls.any fun e => e.1 == b && e.2.1 == st) = false := by
    rw [List.all_eq_not_any_not] at hn
    simpa using hn
  change execTsPinit b st cn cm p s = _
  rw [execTsPinit, issue_ready hm hf]
  simp only [ha, hnot, Bool.false_eq_true, if_false]
  have hctr : ∀ c, ctrOf b st c (stall b st .pool (.tsPinit b st cn cm p) 0#32 s) = (s.strm b st).ctr[c] := fun c => by
    obtain ⟨n, k, v, i, hw, -⟩ := waiting_spec (y := s.strm b st) (cause := .pool) (limit := s.od.waitTimeout)
      (c := .tsPinit b st cn cm p) (target := 0#32)
    have hs : (stall b st .pool (.tsPinit b st cn cm p) 0#32 s).strm b st = _ :=
      (congrArg (fun y : Bays => y.strm st) bay_setBay).trans (strm_setStrm.trans hw)
    rw [ctrOf, hs]
  rw [hctr, hctr]
  rfl

/-- A declaring stream waits for the pool with its declaration noted. -/
theorem strm_declared {x : Pool} {c : Instr} : ∃ n k v i l,
    (usePool b st p (putPool p x (stall b st .pool c 0#32 s))).strm b st =
      { s.strm b st with status := .wait, fpc := v, wait := some ⟨.pool, n, k, i, 0#32⟩, pools := l } ∧
      (i = c ∨ plainCmd i = plainCmd c) := by
  obtain ⟨n, k, v, i, hw, hi⟩ := waiting_spec (y := s.strm b st) (cause := .pool) (limit := s.od.waitTimeout)
      (c := c) (target := 0#32)
  obtain ⟨l, hl⟩ := strm_usePool (b := b) (st := st) (p := p) (s := putPool p x (stall b st .pool c 0#32 s))
  have hs : (putPool p x (stall b st .pool c 0#32 s)).strm b st = _ :=
    (congrArg (fun y : Bays => y.strm st) (bay_setBay (b := b) (s := s))).trans (strm_setStrm.trans hw)
  rw [hs] at hl
  exact ⟨n, k, v, i, l, hl, hi⟩

/-- Only a TS.PINIT reads as one. -/
theorem pinits_of_plain {y : Stream} {cause : Cause} {n k : Nat} {i : Instr} {g : W32} {cn cm : Ctr}
    (hs : y.status = .wait) (hw : y.wait = some ⟨cause, n, k, i, g⟩)
    (hi : i = .tsPinit b st cn cm p ∨ plainCmd i = plainCmd (.tsPinit b st cn cm p)) : y.pinits = true := by
  have hc : i = .tsPinit b st cn cm p := hi.elim id fun h => by
    have hp : plainCmd (.tsPinit b st cn cm p) = .tsPinit b st cn cm p := rfl
    rw [hp] at h
    unfold plainCmd at h
    split at h
    exacts [absurd h nofun, absurd h nofun, absurd h nofun, h]
  rw [Stream.pinits, hs, hw, hc]
  rfl

/-- A stream declares a pool and waits for it; its arming lets it go on. -/
theorem tsPinit_spec {cn cm : Ctr} (hm : mayIssue b st (.tsPinit b st cn cm p) s = true)
    (hf : (s.strm b st).free [cn, cm] = true) (ha : (poolOf p s).armed = false)
    (hn : (poolOf p s).decls.all (fun e => !(e.1 == b && e.2.1 == st)) = true) :
    ∃ t, exec (.tsPinit b st cn cm p) s = .next t ∧ t = { s with bays := t.bays, pools := t.pools } ∧
      t.pools = (putPool p { poolOf p s with
        decls := (poolOf p s).decls ++
          [(b, st, (s.strm b st).ctr[cn].toNat, BitVec.ofNat 12 (s.strm b st).ctr[cm].toNat)] } s).pools ∧
      (t.strm b st).status = .wait ∧ (t.strm b st).wait.map (fun w => w.cause) = some .pool ∧
      (t.strm b st).pinits = true ∧ (t.strm b st).next.pc = (s.strm b st).next.pc ∧
      (t.strm b st).pc = (s.strm b st).pc ∧ (t.strm b st).ctr = (s.strm b st).ctr := by
  obtain ⟨x, hx⟩ : ∃ x : Pool, x = { poolOf p s with
    decls := (poolOf p s).decls ++
      [(b, st, (s.strm b st).ctr[cn].toNat, BitVec.ofNat 12 (s.strm b st).ctr[cm].toNat)] } := ⟨_, rfl⟩
  have hex := exec_tsPinit hm hf ha hn
  rw [← hx] at hex ⊢
  obtain ⟨n, k, v, i, l, hs, hi⟩ := strm_declared (b := b) (st := st) (p := p) (x := x) (c := .tsPinit b st cn cm p) (s := s)
  refine ⟨_, hex, rfl, rfl, ?_⟩
  rw [hs]
  exact ⟨rfl, rfl, pinits_of_plain rfl rfl hi, rfl, rfl, rfl⟩

/-! ### TS.TAKE (R210) -/

/-- The state in which a bay's TS.TAKE is answered: its stream uses a pool that has left IDLE. -/
def takeSeen (b : Bay) (st : Strm) (p : Fin 64) (s : State) : State := if (poolOf p s).left then usePool b st p s else s

theorem takeSeen_frame : (takeSeen b st p s).pools = s.pools ∧ (takeSeen b st p s).mem = s.mem ∧
    ∃ l, (takeSeen b st p s).strm b st = { s.strm b st with pools := l } := by
  unfold takeSeen
  split
  exacts [⟨rfl, rfl, strm_usePool⟩, ⟨rfl, rfl, _, rfl⟩]

theorem exec_tsTake {cd : Ctr} (hm : mayIssue b st (.tsTake b st cd p) s = true) (hf : (s.strm b st).free [cd] = true)
    (ha : (poolOf p s).armed = true) :
    exec (.tsTake b st cd p) s = .next (if (poolOf p s).mask.getLsbD b = true then
        (putPool p ((poolOf p s).hand b) (takeSeen b st p s)).updStrm b st (fun x =>
          ({ x with takes := x.takes ++ [(cd, BitVec.ofNat 32 ((poolOf p s).index b), p, (poolOf p s).arming)] }.mark cd
            true).next)
      else trap b st 0x37 (takeSeen b st p s)) := by
  change execTsTake b st cd p s = _
  rw [execTsTake, issue_ready hm hf]
  cases hk : (poolOf p s).mask.getLsbD b <;>
  · simp only [ha, hk, Bool.not_true, Bool.not_false, Bool.false_eq_true, if_false, if_true]
    rfl

/-- The word of the index a bay receives. -/
theorem index_word {i : Nat} (hi : i = if x.bal = true then x.next
    else rankIn x.mask b + (bitsSet 12 x.mask).length * x.taken[b]) :
    BitVec.ofNat 32 (x.index b) = if i < x.count then BitVec.ofNat 32 i else 0xFFFFFFFF#32 := by
  unfold Pool.index
  rw [← hi]
  exact apply_ite (BitVec.ofNat 32) _ _ _

/-! ### The landing of an index (R210) -/

/-- A stream once its oldest index has landed. -/
def landed (cd : Ctr) (v : W32) (l : List (Ctr × W32 × Fin 64 × Nat)) (y : Stream) : Stream :=
  ({ y with takes := l }.setCtr cd v).mark cd false

theorem exec_takeIndexWrite {cd : Ctr} {v : W32} {g : Nat} {l : List (Ctr × W32 × Fin 64 × Nat)} (hd : dieRuns s = true)
    (ht : (s.strm b st).takes = (cd, v, p, g) :: l) :
    exec (.takeIndexWrite b st) s = .next (if v = 0xFFFFFFFF#32 ∧ (poolOf p s).armed ∧ (poolOf p s).arming = g then
        let u := putPool p ((poolOf p s).exhaust b) (s.updStrm b st (landed cd v l))
        if ((poolOf p s).exhaust b).armed then u else forgetPool p ((poolOf p s).exhaust b).decls u
      else s.updStrm b st (landed cd v l)) := by
  change execTakeIndexWrite b st s = _
  rw [execTakeIndexWrite, ht]
  dsimp only
  rw [if_pos (alive_of_dieRuns hd)]
  rfl

/-- The landing reaches the stream and, with the exhaustion value of the pool's own arming, the pool. -/
theorem takeIndexWrite_spec {cd : Ctr} {v : W32} {g : Nat} {l : List (Ctr × W32 × Fin 64 × Nat)} (hd : dieRuns s = true)
    (ht : (s.strm b st).takes = (cd, v, p, g) :: l) :
    ∃ t, exec (.takeIndexWrite b st) s = .next t ∧ t = { s with bays := t.bays, pools := t.pools } ∧
      (∃ m, t.strm b st = { landed cd v l (s.strm b st) with pools := m }) ∧
      (¬ (v = 0xFFFFFFFF#32 ∧ (poolOf p s).armed = true ∧ (poolOf p s).arming = g) → onlyStrm b st s t) ∧
      (v = 0xFFFFFFFF#32 ∧ (poolOf p s).armed = true ∧ (poolOf p s).arming = g →
        t.pools = (putPool p ((poolOf p s).exhaust b) s).pools) := by
  refine ⟨_, exec_takeIndexWrite hd ht, ?_⟩
  by_cases hc : v = 0xFFFFFFFF#32 ∧ (poolOf p s).armed = true ∧ (poolOf p s).arming = g
  · rw [if_pos hc]
    dsimp only
    split
    · exact ⟨rfl, ⟨_, strm_updStrm⟩, fun h => (h hc).elim, fun _ => rfl⟩
    · obtain ⟨m, hm⟩ := strm_forgetPool (b := b) (st := st) (p := p) (keep := ((poolOf p s).exhaust b).decls)
        (s := putPool p ((poolOf p s).exhaust b) (s.updStrm b st (landed cd v l)))
      have hu : (putPool p ((poolOf p s).exhaust b) (s.updStrm b st (landed cd v l))).strm b st = landed cd v l (s.strm b st) :=
        strm_updStrm (s := s)
      exact ⟨rfl, ⟨m, hm.trans (by rw [hu])⟩, fun h => (h hc).elim, fun _ => rfl⟩
  · rw [if_neg hc]
    exact ⟨rfl, ⟨_, strm_updStrm⟩, fun _ => onlyStrm_updStrm, fun h => (hc h).elim⟩

/-- Settles O9: a pool is armed by retiring every declaring stream once, and an index lands in its stream and, as the
exhaustion value of the pool's own arming, in the pool. -/
theorem workPools : Obligations.WorkPools := by
  refine ⟨?_, ?_, ?_, ?_, ?_, ?_⟩
  · intro b st cn cm p s hm hf ha hn hw
    obtain ⟨t, he, hfr, hp, hst, hca, hpin, hnext, hpc, hctr⟩ := tsPinit_spec hm hf ha hn
    have hpt := (poolOf_congr (q := p) hp).trans (poolOf_putPool_self hw)
    refine ⟨t, he, hfr, hst, hca, hpc, hctr, hpt, fun q hq => (poolOf_congr hp).trans (poolOf_putPool_ne hq), ?_⟩
    intro hfull hag
    have hds : dieRuns s = true := StatisticsUnit.dieRuns_of_mayIssue hm
    have hd : dieRuns t = true := by
      rw [hfr]
      exact hds
    have hin : (b, st, (s.strm b st).ctr[cn].toNat, BitVec.ofNat 12 (s.strm b st).ctr[cm].toNat) ∈ (poolOf p t).decls := by
      rw [hpt]
      exact List.mem_append_right _ (List.mem_singleton_self _)
    obtain ⟨c, l, hl⟩ := List.exists_cons_of_ne_nil (List.ne_nil_of_mem hin)
    obtain ⟨u, hu, -, -, hs⟩ := poolArmed_agreed hd (by rw [hpt]; exact ha) hl hfull hag
    have hsu : u.strm b st = (t.strm b st).next := hs _ hin hpin
    exact ⟨u, hu, by rw [hsu, hnext], by rw [hsu]; rfl, by rw [hsu]; rfl, by rw [hsu]; exact hctr⟩
  · intro p b st n mask r s hd ha hl hf hg hw
    obtain ⟨t, he, hr, hp, hs⟩ := poolArmed_agreed hd ha hl hf hg
    exact ⟨t, he, hr, (poolOf_congr hp).trans (poolOf_putPool_self hw), hs,
      fun q hq => (poolOf_congr hp).trans (poolOf_putPool_ne hq)⟩
  · intro p s hd ha hf hg hw
    obtain ⟨u, hu⟩ : ∃ u, u = forgetPool p [] (putPool p { poolOf p s with decls := [] } s) := ⟨_, rfl⟩
    obtain ⟨hp, hr⟩ := haltPool_frame (l := (poolOf p s).decls) (s := u)
    have hst : ∀ b st, (u.strm b st).status = (s.strm b st).status := fun b st => by
      obtain ⟨l, hl⟩ := strm_forgetPool (b := b) (st := st) (p := p) (keep := [])
        (s := putPool p { poolOf p s with decls := [] } s)
      rw [hu, hl]
      rfl
    refine ⟨_, exec_poolArmed_differing hd ha hf hg, ?_⟩
    rw [← hu]
    refine ⟨fun a h => (hr a h).trans (rd_congr (by rw [hu]; rfl) a), ?_, fun e he => ?_⟩
    · exact (poolOf_congr (hp.trans (by rw [hu]; rfl))).trans (poolOf_putPool_self hw)
    · obtain ⟨h1, h2⟩ := outOfPool_haltPool (s := u) he
      exact ⟨h1, fun h => h2 (by rw [hst]; exact h)⟩
  · intro b st cd p s hm hf ha hk hw
    obtain ⟨hp, hmem, l, hl⟩ := takeSeen_frame (b := b) (st := st) (p := p) (s := s)
    refine ⟨_, exec_tsTake hm hf ha, ?_⟩
    rw [if_pos hk, strm_updStrm]
    have hs : (putPool p ((poolOf p s).hand b) (takeSeen b st p s)).strm b st = _ := hl
    rw [hs]
    refine ⟨fun a _ => rd_congr (s := s) (t := takeSeen b st p s) hmem a, rfl, ?_, rfl, ⟨_, rfl, ?_⟩, ?_⟩
    · exact (getLsbD_setBit cd.isLt).trans (if_pos rfl)
    · rw [← index_word (b := b) (x := poolOf p s) rfl]
      rfl
    · have hpt : poolOf p ((putPool p ((poolOf p s).hand b) (takeSeen b st p s)).updStrm b st fun x =>
          ({ x with takes := x.takes ++ [(cd, BitVec.ofNat 32 ((poolOf p s).index b), p, (poolOf p s).arming)] }.mark cd
            true).next) = (poolOf p s).hand b := poolOf_putPool_self (s := takeSeen b st p s) (by rw [hp]; exact hw)
      rw [hpt, Pool.hand]
      exact Vector.getElem_set_self b.isLt
  · intro b st cd p s hm hf ha hk
    obtain ⟨hp, hmem, l, hl⟩ := takeSeen_frame (b := b) (st := st) (p := p) (s := s)
    have hlive : ((takeSeen b st p s).strm b st).status ≠ .halted := by
      rw [hl]
      exact status_ne_halted_of_mayIssue hm
    refine ⟨_, exec_tsTake hm hf ha, ?_⟩
    rw [if_neg (by rw [hk]; decide), strm_trap_live hlive, hl]
    have hpt : poolOf p (trap b st 0x37 (takeSeen b st p s)) = poolOf p s := poolOf_congr (pools_trap.trans hp)
    rw [hpt]
    exact ⟨fun a h => (ringOnly_haltStream a h).trans (rd_congr hmem a), rfl, rfl, rfl, rfl, rfl⟩
  · intro b st cd v p g r s hd ht
    obtain ⟨t, he, hfr, ⟨m, hm⟩, hno, hyes⟩ := takeIndexWrite_spec hd ht
    refine ⟨t, he, hfr, by rw [hm]; rfl, by rw [hm]; rfl, by rw [hm]; rfl, by rw [hm]; rfl, by rw [hm]; rfl, hno, ?_⟩
    intro h1 h2 h3 hw
    exact (poolOf_congr (hyes ⟨h1, h2, h3⟩)).trans (poolOf_putPool_self hw)

end Sys2Proof.Proofs.Pools
end

section
/-! PROOFS. TS.HOP, TS.HEND and TS.HOUT (BracketIssue). -/

namespace Sys2Proof.Proofs.BracketIssues

open Sys2Proof Sys2Proof.Machine Sys2Proof.Laws.State Sys2Proof.Laws.Ops
  Sys2Proof.Proofs.Tables Sys2Proof.Proofs.VectorEngine Sys2Proof.Proofs.DataMemory Sys2Proof.Proofs.HopNesting
  Sys2Proof.Proofs.ChannelsAndParks Sys2Proof.Proofs.KeyStreams Sys2Proof.Proofs.Pools

variable {b : Bay} {s t : State} {k : Bracket} {o : OpenOp}

/-! ### TS.HOP (R222, R223) -/

section Hop

variable {s1 s2 dst x : Ctr} {kind : Fin 16} {mask : BayMask} {i : Image} {n : HopIssue}

/-- A TS.HOP joins the group that forms for its mask, or opens one. -/
theorem mem_addIssue : ∃ k ∈ (addIssue mask n s).hdr.brackets, k.mask = mask ∧ n ∈ k.issues := by
  unfold addIssue
  dsimp only
  split
  case isTrue h =>
    obtain ⟨k, hk, hf⟩ := List.any_eq_true.1 h
    refine ⟨{ k with issues := k.issues ++ [n] }, List.mem_map.2 ⟨k, hk, if_pos hf⟩, ?_,
      List.mem_append_right _ (List.mem_singleton_self n)⟩
    have hm : (k.mask == mask) = true := (Bool.and_eq_true_iff.1 (Bool.and_eq_true_iff.1 hf).1).1
    exact eq_of_beq hm
  case isFalse =>
    exact ⟨_, List.mem_append_right _ (List.mem_singleton_self _), rfl, List.mem_singleton_self n⟩

/-- What a bay's TS.HOP brings to its group. -/
def hopIssue (b : Bay) (s1 s2 dst x : Ctr) (kind : Fin 16) (i : Image) (s : State) : HopIssue :=
  { bay := b, kind := kind, s1 := hdrAddr i (ctrOf b .x s1 s)
    s2 := if hopUsesS2 kind then some (hdrAddr i (ctrOf b .x s2 s)) else none, dst := hdrAddr i (ctrOf b .x dst s)
    x := hopOperand kind (ctrOf b .x x s) }

theorem exec_tsHop_joins (hm : mayIssue b .x (.tsHop b s1 s2 dst x kind mask) s = true)
    (hf : (s.strm b .x).free (hopCtrs s1 s2 dst x kind) = true) (hb : inBracket b s = false)
    (hn : hopIssued b mask s = false) (hi : hopImage b s1 s2 dst kind s = some i) :
    exec (.tsHop b s1 s2 dst x kind mask) s = .next (stall b .x .hop (.tsHop b s1 s2 dst x kind mask) 0#32
      (addIssue mask (hopIssue b s1 s2 dst x kind i s) s)) := by
  change execTsHop b s1 s2 dst x kind mask s = _
  rw [hopImage] at hi
  rw [execTsHop, issue_ready hm hf]
  simp only [hb, hn, Bool.false_and, Bool.false_eq_true, if_false, hi]
  rfl

/-- A header index out of range faults where the TS.HOP is not one already issued. -/
theorem exec_tsHop_range (hm : mayIssue b .x (.tsHop b s1 s2 dst x kind mask) s = true)
    (hf : (s.strm b .x).free (hopCtrs s1 s2 dst x kind) = true) (hb : inBracket b s = false)
    (hn : hopIssued b mask s = false) (hi : hopImage b s1 s2 dst kind s = none) :
    exec (.tsHop b s1 s2 dst x kind mask) s = .next (trap b .x 0x36 s) := by
  have hstill : inBracket b (trap b .x 0x36 s) = false :=
    (inBracket_trap (status_ne_halted_of_mayIssue hm)).trans hb
  change execTsHop b s1 s2 dst x kind mask s = _
  rw [hopImage] at hi
  rw [execTsHop, issue_ready hm hf]
  simp only [hb, hn, Bool.false_and, Bool.false_eq_true, if_false, hi, hstill]

theorem hopImage_of_ge (hi : imageOf b s = some i)
    (h : i.hwCount ≤ ((s.strm b .x).ctr[s1]).toNat ∨ i.hwCount ≤ ((s.strm b .x).ctr[dst]).toNat ∨
      hopUsesS2 kind = true ∧ i.hwCount ≤ ((s.strm b .x).ctr[s2]).toNat) : hopImage b s1 s2 dst kind s = none := by
  rw [hopImage, hi, Option.filter_some, if_neg]
  intro hall
  have hlt := List.all_eq_true.1 hall
  rcases h with h | h | ⟨hu, h⟩
  · exact Nat.not_lt.2 h (of_decide_eq_true (hlt (ctrOf b .x s1 s) (by simp)))
  · exact Nat.not_lt.2 h (of_decide_eq_true (hlt (ctrOf b .x dst s) (by simp)))
  · exact Nat.not_lt.2 h (of_decide_eq_true (hlt (ctrOf b .x s2 s) (by simp [hu])))

end Hop

/-! ### TS.HEND and TS.HOUT (R98, R121, R203, R454) -/

/-- A bay whose bracket has opened without an insertion is in the bracket's own operation. -/
theorem hendOp_of_open (hk : bracketOf b s = some k) (hi : k.insOp = none) (hn : k.ins = none) (ho : k.op = some o) :
    hendOp b s = some o := by
  simp [hendOp, curOf, hk, Bracket.curIn, Bracket.cur, hi, hn, ho]

/-- Rewriting the operation a bay is in rewrites the one of its bracket. -/
theorem mem_updCur {f : OpenOp → OpenOp} (hk : bracketOf b s = some k) (hi : k.insOp = none) (ho : k.op = some o) :
    { k with op := some (f o) } ∈ (updCur b f s).hdr.brackets := by
  have hin := List.mem_of_find?_eq_some hk
  have hh : k.holds b = true := List.find?_some (p := fun k : Bracket => k.holds b) hk
  refine List.mem_map.2 ⟨k, hin, ?_⟩
  rw [if_pos hh, hi, ho]
  rfl

/-- What a TS.HEND makes of its operation. -/
theorem hend_spec {nf : NForm} {pc : BitVec 15} {age : Nat} {v : Bool} : ∃ e m,
    o.hend b nf pc age v = { o with ended := setBit o.ended b true, nf := o.nf ++ [nf], hends := e, mark := m } ∧
      m = if v = true ∧ o.mark = none then some 0x42#8 else o.mark := by
  cases v with
  | false => exact ⟨_, o.mark, rfl, by simp⟩
  | true =>
    unfold OpenOp.hend OpenOp.markBy
    rw [if_pos rfl]
    by_cases hm : o.mark = none
    · rw [if_pos (Option.isNone_iff_eq_none.2 hm)]
      exact ⟨_, _, rfl, by simp [hm]⟩
    · rw [if_neg (by simpa using hm)]
      exact ⟨_, o.mark, rfl, by simp [hm]⟩

theorem brackets_endStreams {p : TStream → Bool} {count : Bool} :
    (endStreams b p count s).hdr.brackets = s.hdr.brackets := by
  have hdown : ∀ (i : Nat) (v : State), (refDown i v).hdr.brackets = v.hdr.brackets := fun i v => by
    unfold refDown
    dsimp only
    split <;> rfl
  have hfold : ∀ (l : List TStream) (v : State),
      (l.foldl (fun s t => if t.refs then refDown t.ctx s else s) v).hdr.brackets = v.hdr.brackets := fun l v =>
    List.foldlRecOn (motive := fun t : State => t.hdr.brackets = v.hdr.brackets) l _ rfl fun _ ht _ _ => by
      split
      exacts [(hdown _ _).trans ht, ht]
  unfold endStreams
  dsimp only
  split
  · rfl
  · split <;> exact hfold _ _

/-- The state after a TS.HEND whose bracket holds no mismatch under HALT. -/
def hended (b : Bay) (nf : NForm) (s : State) : State :=
  retire b .x ((endStreams b (fun z => z.bound) true
    (updCur b (fun o => o.hend b nf (s.strm b .x).pc (s.bay b).issued (s.bay b).tide.spoiled) s)).updBay b
      (fun x => { x with tide := { x.tide with spoiled := false } }))

theorem exec_tsHend_ready {nf : NForm} (hm : mayIssue b .x (.tsHend b nf) s = true) (ho : hendOp b s = some o)
    (hk : keyConsumers b s = false) (hv : ¬ (o.verdict = .mismatch ∧ o.haltOn = true)) :
    exec (.tsHend b nf) s = .next (hended b nf s) := by
  change execTsHend b nf s = _
  rw [execTsHend, issue_ready hm free_nil, ho]
  simp only [hk, Bool.false_eq_true, if_false, if_neg hv]
  rfl

theorem exec_tsHout_declares {level scale : Byte} (hm : mayIssue b .x (.tsHout b level scale) s = true)
    (ho : hendOp b s = some o) (hd : declares o.kind o.src = true) : exec (.tsHout b level scale) s =
      .next (retire b .x (updCur b (fun o => { o with hout := o.hout ++ [(b, level, scale)] }) s)) := by
  change execTsHout b level scale s = _
  rw [execTsHout, issue_ready hm free_nil, ho]
  exact congrArg Host.Outcome.next (if_pos hd)

theorem exec_tsHout_closed {level scale : Byte} (hm : mayIssue b .x (.tsHout b level scale) s = true)
    (hb : bracketOf b s = none) : exec (.tsHout b level scale) s = .next (retire b .x s) := by
  have ho : hendOp b s = none := by rw [hendOp, curOf, hb]; rfl
  change execTsHout b level scale s = _
  rw [execTsHout, issue_ready hm free_nil, ho]

/-- Settles O10: each instruction comes to one equation of its issue, and the bracket's rewriting is read off the list. -/
theorem bracketIssue : Obligations.BracketIssue := by
  refine ⟨?_, ?_, ?_, ?_, ?_⟩
  · intro b s1 s2 dst x kind mask i s hm hf hb hn hi h1 hd h2
    obtain ⟨k, hk, hmask, hmem⟩ := mem_addIssue (mask := mask) (n := hopIssue b s1 s2 dst x kind i s) (s := s)
    obtain ⟨n, l, v, c, hw, -⟩ := waiting_spec (y := s.strm b .x) (cause := .hop) (limit := s.od.waitTimeout)
      (c := .tsHop b s1 s2 dst x kind mask) (target := 0#32)
    have hs : (stall b .x .hop (.tsHop b s1 s2 dst x kind mask) 0#32
        (addIssue mask (hopIssue b s1 s2 dst x kind i s) s)).strm b .x = _ :=
      (congrArg (fun y : Bays => y.strm .x) bay_setBay).trans (strm_setStrm.trans hw)
    refine ⟨_, exec_tsHop_joins hm hf hb hn (hopImage_of_lt hi h1 hd h2), rfl, by rw [hs], by rw [hs]; rfl, by rw [hs],
      by rw [hs], fun d h => bay_setBay_ne h, k, hk, hmask, ?_⟩
    have hx : hopOperand kind (ctrOf b .x x s) = if kind = 2 then (s.strm b .x).ctr[x] &&& 0xFF#32
        else if kind = 8 then (s.strm b .x).ctr[x] else 0#32 := by
      unfold hopOperand hopUsesX ctrOf
      by_cases hk2 : kind = 2
      · rw [if_pos hk2, if_pos hk2]
      · by_cases hk8 : kind = 8 <;> simp [hk2, hk8]
    rw [hopIssue, hx] at hmem
    exact hmem
  · intro b nf k o s hm hk hi hn ho hc hv
    obtain ⟨e, m, hh, hmark⟩ := hend_spec (b := b) (o := o) (nf := nf) (pc := (s.strm b .x).pc) (age := (s.bay b).issued)
      (v := (s.bay b).tide.spoiled)
    obtain ⟨⟨hmem, hx, -⟩, -⟩ := endStreams_spec (b := b) (p := fun z => z.bound) (count := true)
      (s := updCur b (fun o => o.hend b nf (s.strm b .x).pc (s.bay b).issued (s.bay b).tide.spoiled) s)
    have hstrm : (hended b nf s).strm b .x = (s.strm b .x).next := by
      rw [hended, strm_retire]
      exact congrArg Stream.next (((congrArg (fun y : Bays => y.strm .x) bay_updBay).trans rfl).trans hx)
    refine ⟨_, exec_tsHend_ready hm (hendOp_of_open hk hi hn ho) hc hv, hmem, by rw [hstrm], by rw [hstrm]; rfl,
      { k with op := some (o.hend b nf (s.strm b .x).pc (s.bay b).issued (s.bay b).tide.spoiled) },
      ?_, _, rfl, rfl, ?_, ?_, ?_, ?_, ?_⟩
    · exact (congrArg (_ ∈ ·) brackets_endStreams).mpr (mem_updCur hk hi ho)
    all_goals rw [hh]
    · exact (getLsbD_setBit b.isLt).trans (if_pos rfl)
    · exact hmark
  · intro b level scale k o s hm hk hi hn ho hd
    exact ⟨_, exec_tsHout_declares hm (hendOp_of_open hk hi hn ho) hd, rfl, strm_retire,
      { k with op := some { o with hout := o.hout ++ [(b, level, scale)] } }, mem_updCur hk hi ho, _, rfl, rfl⟩
  · intro b level scale s hm hb
    exact ⟨_, exec_tsHout_closed hm hb, onlyStrm_retire, strm_retire⟩
  · intro b s1 s2 dst x kind mask i s hm hf hi hr hor
    have hlive := status_ne_halted_of_mayIssue hm
    have hawake := deaf_of_not_halted hlive
    cases hb : inBracket b s with
    | false =>
      have hn : hopIssued b mask s = false := hor.resolve_left (by rw [hb]; decide)
      refine ⟨_, exec_tsHop_range hm hf hb hn (hopImage_of_ge hi hr), ringOnly_trap, ?_, ?_, ?_, ?_, strm_a_trap,
        fun _ => mem_brackets_of_trap hawake, faults_trap hlive⟩ <;> rw [HopNesting.strm_trap hlive] <;> rfl
    | true =>
      have hstrm : (trap b .x 0x38 (trap b .x 0x36 s)).strm b .x =
          { (s.strm b .x).halted 0x36 (s.strm b .x).pc false with haltAge := some (s.bay b).issued } :=
        (strm_trap_kept (awake_trap hlive) (outdone_trap hlive (by decide))).trans (HopNesting.strm_trap hlive)
      refine ⟨_, exec_tsHop_nested_range hm hf hb (hopImage_of_ge hi hr), ringOnly_trans ringOnly_trap ringOnly_trap,
        ?_, ?_, ?_, ?_, strm_a_trap.trans strm_a_trap,
        fun _ hk ho => mem_brackets_of_trap hawake (mem_brackets_of_trap (awake_trap hlive) hk ho) ho,
        faults_trap_trap hlive⟩ <;> rw [hstrm] <;> rfl

end Sys2Proof.Proofs.BracketIssues
end

section
/-! PROOFS. Wait timeouts, the no-progress detector, parks and launches (WaitsEnd). -/

namespace Sys2Proof.Proofs.WaitEnds

open Sys2Proof Sys2Proof.Machine Sys2Proof.Laws.State Sys2Proof.Laws.Ops Sys2Proof.Laws.Memory
  Sys2Proof.Proofs.DataMemory Sys2Proof.Proofs.HopNesting Sys2Proof.Proofs.FlagWaits Sys2Proof.Proofs.Resetting
  Sys2Proof.Proofs.ChannelsAndParks Sys2Proof.Proofs.Counters

variable {b d : Bay} {st r : Strm} {s t : State} {w : Wait}

/-! ### Timed waits (R199) -/

theorem timed_of_ne (hb : w.cause ≠ .beat) (hp : w.cause ≠ .park) : w.cause.timed = true := by
  unfold Cause.timed
  split
  case h_1 h => exact (hb h).elim
  case h_2 h => exact (hp h).elim
  case h_3 => rfl

theorem exec_waitTimeout (hd : dieRuns s = true) (hst : (s.strm b st).status = .wait) (hw : (s.strm b st).wait = some w)
    (hb : w.cause ≠ .beat) (hp : w.cause ≠ .park) (hl : w.limit ≤ w.timer) (hu : expiredUnits b st s = [])
    (hn : (s.bay b).npc ≠ 4096) (ht : (s.strm b st).timedOut = false) : exec (.waitTimeout b st) s =
      .next ((trap b st 0x32 s).updStrm b st (fun x => { x with timedOut := true })) := by
  have hown : (s.strm b st).ownDue = true := by
    simp [Stream.ownDue, Stream.expired, hst, hw, timed_of_ne hb hp, hl]
  have hdeaf : (s.strm b st).deaf = false := by simp [Stream.deaf, hst]
  have hnpc : ((s.bay b).npc == dlkCount) = false := beq_false_of_ne hn
  change execWaitTimeout b st s = _
  rw [execWaitTimeout]
  simp only [alive_of_dieRuns hd, hdeaf, ht, hnpc, hu, hown, Bool.not_true, Bool.or_false, Bool.false_eq_true, if_false,
    if_true, oldestWait]

/-! ### The no-progress detector (R201) -/

/-- Two states in which a bay's units wait alike: its A-stream and its mark of having moved apart. -/
def UnitsAlike (b : Bay) (s t : State) : Prop :=
  alive t = alive s ∧ ∃ y m, t.bay b = { s.bay b with a := y, moved := m }

theorem xLive_alike (h : UnitsAlike b s t) : xLive b t = xLive b s := by
  obtain ⟨-, y, m, hb⟩ := h
  unfold xLive State.strm
  rw [hb]
  rfl

theorem unitsRun_alike (h : UnitsAlike b s t) : unitsRun b t = unitsRun b s := by
  obtain ⟨ha, y, m, hb⟩ := h
  unfold unitsRun
  rw [ha, hb]

theorem tileOf_alike {lt : Lt} (h : UnitsAlike b s t) : tileOf b lt t = tileOf b lt s := by
  obtain ⟨-, y, m, hb⟩ := h
  unfold tileOf
  rw [hb]

theorem tileCan_alike {lt : Lt} (h : UnitsAlike b s t) : tileCan b lt t = tileCan b lt s := by
  unfold tileCan entCan
  simp only [tileOf_alike h, unitsRun_alike h, xLive_alike h]

theorem vecCan_alike (h : UnitsAlike b s t) : vecCan b t = vecCan b s := by
  unfold vecCan
  rw [unitsRun_alike h, xLive_alike h]
  obtain ⟨-, y, m, hb⟩ := h
  rw [hb]
  rfl

theorem ntCan_alike (h : UnitsAlike b s t) : ntCan b t = ntCan b s := by
  unfold ntCan
  rw [unitsRun_alike h, xLive_alike h]
  obtain ⟨-, y, m, hb⟩ := h
  rw [hb]

theorem unitWaits_alike (h : UnitsAlike b s t) : unitWaits b .x t = unitWaits b .x s := by
  unfold unitWaits tileWaits
  simp only [vecCan_alike h, ntCan_alike h, tileCan_alike h, tileOf_alike h]
  obtain ⟨-, y, m, hb⟩ := h
  rw [hb]
  rfl

theorem waitAge_alike (h : UnitsAlike b s t) : waitAge b .x t = waitAge b .x s := by
  unfold waitAge
  rw [unitWaits_alike h]
  obtain ⟨-, y, m, hb⟩ := h
  unfold State.strm
  rw [hb]
  rfl

/-- What the no-progress detector makes of a stream whose oldest waiting instruction has an age. -/
def DlkOutcome (age : Nat) (x y : Stream) : Prop :=
  if x.status = .idle ∨ x.status = .halted ∧ x.haltAge = none then y.status = x.status ∧ y.fault = x.fault
  else if x.status = .halted then
    y.status = .halted ∧ y.fault = (if x.outdone 0x31 age = true then 0x31#8 else x.fault)
  else y.status = .halted ∧ y.fault = 0x31#8 ∧ y.pc = x.pc ∧ y.wait = x.wait

theorem deaf_iff {x : Stream} : x.deaf = true ↔ x.status = .halted ∧ x.haltAge = none := by simp [Stream.deaf]

theorem dlkStream_outcome : DlkOutcome (waitAge b st s) (s.strm b st) ((dlkStream b st s).strm b st) := by
  have hiff := or_congr (Iff.refl ((s.strm b st).status = .idle)) (deaf_iff (x := s.strm b st))
  unfold DlkOutcome
  by_cases hx : (s.strm b st).status = .idle ∨ (s.strm b st).status = .halted ∧ (s.strm b st).haltAge = none
  · have hd : dlkStream b st s = s := if_pos (hiff.2 hx)
    rw [if_pos hx, hd]
    exact ⟨rfl, rfl⟩
  · rw [if_neg hx, dlkStream, if_neg (hx ∘ hiff.1)]
    dsimp only
    rw [strm_updStrm]
    by_cases ho : (s.strm b st).outdone 0x31 (waitAge b st s) = true
    · rw [strm_haltRec ho, if_pos ho]
      split
      exacts [⟨rfl, rfl⟩, ⟨rfl, rfl, rfl, rfl⟩]
    · have hh : (s.strm b st).status = .halted := by
        by_contra hne
        simp [Stream.outdone, hne] at ho
      rw [strm_haltRec_kept (by simpa using ho), if_pos hh, if_neg ho]
      exact ⟨hh, rfl⟩

theorem haltRec_bays {arg code age : Nat} {p : BitVec 15} {keep : Bool} :
    ∃ y, ∃ m, (haltRec b .a arg code p age keep s).bay b = { s.bay b with a := y, moved := m } := by
  have hrec : (recFault arg code p s).bay b = s.bay b := congrArg (fun v : Vector Bays 12 => v[b]) bays_record
  unfold haltRec
  dsimp only
  split
  · rw [State.updStrm, bay_updBay, hrec]
    exact ⟨_, _, rfl⟩
  · rw [hrec]
    exact ⟨_, _, rfl⟩

/-- The detector's halt of a stream leaves the others, and writes the record ring alone. -/
theorem dlkStream_frame : ringOnly s (dlkStream b st s) ∧
    ∀ e r, e ≠ b ∨ r ≠ st → (dlkStream b st s).strm e r = s.strm e r := by
  unfold dlkStream
  split
  · exact ⟨fun _ _ => rfl, fun _ _ _ => rfl⟩
  · dsimp only
    exact ⟨fun a h => (rd_congr mem_haltRec a).trans (ringOnly_record a h),
      fun e r h => (strm_updStrm_ne h).trans (strm_haltRec_ne h)⟩

theorem unitsAlike_dlkStream : UnitsAlike b s (dlkStream b .a s) := by
  unfold dlkStream
  split
  · exact ⟨rfl, (s.bay b).a, (s.bay b).moved, rfl⟩
  · dsimp only
    generalize hp : (if (s.strm b .a).status = .parked then (s.strm b .a).fpc
      else if (s.strm b .a).status = .wait then (s.strm b .a).pc else waitPc b .a s) = p
    obtain ⟨u, hu⟩ := haltRec_frame (s := s) (b := b) (st := .a) (arg := b + 16 * strmNo .a) (code := 0x31) (p := p)
      (age := waitAge b .a s) (keep := true)
    obtain ⟨y, m, hb⟩ := haltRec_bays (s := s) (b := b) (arg := b + 16 * strmNo .a) (code := 0x31) (p := p)
      (age := waitAge b .a s) (keep := true)
    refine ⟨?_, ?_⟩
    · rw [hu]
      rfl
    · rw [State.updStrm, bay_updBay, hb]
      exact ⟨_, _, rfl⟩

theorem exec_dlk (hd : dieRuns s = true) (hn : (s.bay b).npc = 4096)
    (h : dlkHits b .a s = true ∨ dlkHits b .x s = true) : ∃ unit, exec (.dlk b) s =
      .next (let v := withdrawHop b (dlkStream b .x (dlkStream b .a (countFault 0x31 b unit s)))
        v.setBay b { v.bay b with npc := 0 }) := by
  refine ⟨_, congrArg Host.Outcome.next (if_pos ?_)⟩
  have hnpc : ((s.bay b).npc == dlkCount) = true := beq_iff_eq.2 hn
  rw [alive_of_dieRuns hd, hnpc]
  rcases h with h | h <;> simp [h]

/-! ### Launches (R196) -/

theorem bayStep_start {mask : BayMask} : BayStep
    (fun x y => y = { x with a := x.a.start mask, x := x.x.start mask, moved := true })
    (fun b s => s.updBay b (fun x => { x with a := x.a.start mask, x := x.x.start mask })) where
  mem _ _ := rfl
  other _ _ _ h := bay_updBay_ne h
  own _ _ := bay_updBay

theorem startBays_frame {mask : BayMask} : (startBays mask s).ldr = s.ldr ∧ (startBays mask s).mem = s.mem ∧
    (mask.getLsbD b = true → (startBays mask s).strm b st = (s.strm b st).start mask) := by
  obtain ⟨hm, hb⟩ := (bayStep_start (mask := mask)).foldl (mask := mask) (List.nodup_finRange 12) s
  obtain ⟨-, -, -, hl, -, -⟩ : Stands s (startBays mask s) :=
    stands_foldl (fun s b => by split; exacts [⟨rfl, rfl, rfl, rfl, rfl, rfl⟩, stands_refl]) _ s
  refine ⟨hl, hm, fun hk => ?_⟩
  have hbay := hb b
  rw [if_pos ⟨List.mem_finRange b, hk⟩] at hbay
  exact (congrArg (fun y : Bays => y.strm st) hbay).trans (by cases st <;> rfl)

theorem exec_programRelease {mask : BayMask} {l : Launch} (hd : dieRuns s = true)
    (hl : s.ldr.launches.find? (fun l => l.bays == mask && released l s) = some l) : exec (.programRelease mask) s =
      .next { startBays mask s with
        ldr := { (startBays mask s).ldr with launches := (startBays mask s).ldr.launches.erase l } } := by
  change execProgramRelease mask s = _
  rw [execProgramRelease, hl]
  exact congrArg Host.Outcome.next (if_pos (alive_of_dieRuns hd))

/-- Settles O33: the detector's halt of the A-stream leaves the X-stream and what its units wait for, so both streams are
judged on the state of before. -/
theorem waitsEnd : Obligations.WaitsEnd := by
  refine ⟨?_, ?_, ?_, ?_⟩
  · intro b st w s hd hst hw hb hp hl hu hn ht
    have hlive : (s.strm b st).status ≠ .halted := by rw [hst]; decide
    refine ⟨_, exec_waitTimeout hd hst hw hb hp hl hu hn ht, ringOnly_haltStream, ?_⟩
    rw [strm_updStrm, strm_trap_live hlive]
    rfl
  · intro b s hd hn hh
    obtain ⟨unit, he⟩ := exec_dlk hd hn hh
    obtain ⟨v, hv⟩ : ∃ v, v = dlkStream b .a (countFault 0x31 b unit s) := ⟨_, rfl⟩
    obtain ⟨hra, hsa⟩ : ringOnly s v ∧ ∀ e r, e ≠ b ∨ r ≠ .a → v.strm e r = s.strm e r := hv ▸ dlkStream_frame (st := .a)
    obtain ⟨hrx, hsx⟩ := dlkStream_frame (b := b) (st := .x) (s := v)
    have hal : UnitsAlike b s v := hv ▸ unitsAlike_dlkStream (s := countFault 0x31 b unit s)
    have ha : DlkOutcome (waitAge b .a s) (s.strm b .a) (v.strm b .a) :=
      hv ▸ dlkStream_outcome (s := countFault 0x31 b unit s)
    have hx := dlkStream_outcome (b := b) (st := .x) (s := v)
    rw [waitAge_alike hal, hsa b .x (.inr nofun)] at hx
    rw [← hv] at he
    refine ⟨_, he, ringOnly_trans hra hrx, congrArg Bays.npc bay_setBay, fun st => ?_⟩
    have hs : ∀ st, ((withdrawHop b (dlkStream b .x v)).setBay b
        { (withdrawHop b (dlkStream b .x v)).bay b with npc := 0 }).strm b st = (dlkStream b .x v).strm b st :=
      fun st => (congrArg (fun y : Bays => y.strm st) bay_setBay).trans (by cases st <;> rfl)
    change DlkOutcome (waitAge b st s) (s.strm b st) (State.strm _ b st)
    rw [hs]
    cases st with
    | a => rw [hsx b .a (.inr nofun)]; exact ha
    | x => exact hx
  · intro b s hd hp ha hx hu
    exact congrArg Host.Outcome.next (if_pos (by simp [alive_of_dieRuns hd, hp, ha, hx, hu]))
  · intro mask l b st s hd hl hk hw
    obtain ⟨hld, hm, hs⟩ := startBays_frame (s := s) (b := b) (st := st) (mask := mask)
    refine ⟨_, exec_programRelease hd hl, hm, by rw [hld], ?_⟩
    have hst : (startBays mask s).strm b st = _ := (hs hk).trans (if_pos hw)
    exact hst

end Sys2Proof.Proofs.WaitEnds
end

section
/-! PROOFS. Refresh, patrol, temperature caps and initialisation of the stacks (StackUpkeep). -/

namespace Sys2Proof.Proofs.Stacks

open Sys2Proof Sys2Proof.Machine Sys2Proof.Laws.State Sys2Proof.Laws.Ops Sys2Proof.Laws.Memory Sys2Proof.Laws.Sparse
  Sys2Proof.Proofs.DataMemory Sys2Proof.Proofs.PowerManager Sys2Proof.Proofs.BeatStates

variable {s t u : State} {ms : Stk} {k l : Stack}

/-! ### What a note in the ring leaves of a stack -/

/-- The thermal state of a stack. -/
def heat (k : Stack) : Bool × List Bool × Int × Nat × Nat × Nat × Bool :=
  (k.hot, k.hotDue, k.temp, k.cap, k.capDue, k.capSince, k.actLimit)

/-- Every stack is as hot, as capped and as limited as before. -/
structure SameHeat (s t : State) : Prop where
  stk : t.stk.map heat = s.stk.map heat

theorem SameHeat.trans (h : SameHeat s t) (g : SameHeat t u) : SameHeat s u := ⟨g.stk.trans h.stk⟩

/-- Fields other than the stacks do not matter. -/
theorem SameHeat.with_stk (h : SameHeat s t) (e : u.stk = t.stk) : SameHeat s u := ⟨e ▸ h.stk⟩

theorem SameHeat.refl (s : State) : SameHeat s s := ⟨rfl⟩

theorem SameHeat.heat_stack (h : SameHeat s t) (ms : Stk) : heat (t.stack ms) = heat (s.stack ms) := by
  have hv := congrArg (fun v : Vector _ 12 => v[ms]) h.stk
  simpa [State.stack] using hv

theorem sameHeat_of_stk (h : t.stk = s.stk) : SameHeat s t := ⟨congrArg (Vector.map heat) h⟩

theorem sameHeat_of_each (h : ∀ ms : Stk, heat (t.stack ms) = heat (s.stack ms)) : SameHeat s t := by
  refine ⟨Vector.ext fun i hi => ?_⟩
  simpa [State.stack] using h ⟨i, hi⟩

theorem sameHeat_traffic {rd wr : List (Nat × Nat)} : SameHeat s (traffic rd wr s) :=
  sameHeat_of_each fun ms => by simp [State.stack, traffic, Stack.transferred, heat]

theorem sameHeat_store {a req : Nat} {v : List Byte} {via : Option Bay} : SameHeat s (s.store a v req via) :=
  sameHeat_of_each fun ms => by simp [State.stack, State.store, Stack.written, heat]

theorem sameHeat_foldl {α : Type} {f : State → α → State} (hf : ∀ s a, SameHeat s (f s a)) (l : List α) (s : State) :
    SameHeat s (l.foldl f s) := by
  induction l generalizing s with
  | nil => exact .refl s
  | cons a l ih => exact (hf s a).trans (ih _)

theorem heat_takeIn {q : List MemReq} : heat (k.takeIn s q) = heat k := by
  have hadmit : ∀ (j : Stack) (q : MemReq), heat (Stack.admit1 s j q) = heat j := fun j q => by
    unfold Stack.admit1
    split
    exacts [rfl, rfl]
  exact List.foldlRecOn (motive := fun j => heat j = heat k) _ _ rfl fun j hj q _ => (hadmit j q).trans hj

theorem heat_unblock : heat (k.unblock s) = heat k := heat_takeIn

theorem heat_serve {q : MemReq} {got : Option (List Byte)} : heat (k.serve s q got) = heat k := rfl

theorem sameHeat_updStack {f : Stack → Stack} (hf : ∀ k, heat (f k) = heat k) : SameHeat s (updStack ms f s) :=
  sameHeat_of_each fun m => by
    by_cases h : m = ms
    · subst h
      simp [State.stack, updStack, hf]
    · have hne : (ms : Nat) ≠ m := fun hv => h (Fin.ext hv.symm)
      simp [State.stack, updStack, Vector.getElem_set_ne, hne]

theorem sameHeat_landReq {n : Stk} {q : MemReq} {d : Option (List Byte)} : SameHeat s (landReq n q d s) := by
  have h : SameHeat s (updStack n (fun k => (k.serve s q
      (if rangeBad s q.addr q.len then none else some (s.ld q.addr q.len))).unblock s) s) :=
    sameHeat_updStack fun k => heat_unblock.trans heat_serve
  cases d with
  | none => exact h
  | some v => exact h.trans sameHeat_store

theorem sameHeat_landSector {a : Nat} : SameHeat s (landSector a s) :=
  landSector_induct (P := SameHeat s) (fun _ _ _ _ h => h.trans sameHeat_landReq) (.refl s)

theorem sameHeat_writeEnts {q : Nat} {l : List Nat} : SameHeat s (writeEnts q l s) := by
  induction l generalizing q s with
  | nil => exact .refl s
  | cons v r ih =>
    exact ((sameHeat_landSector.trans sameHeat_store).trans
      (sameHeat_traffic (s := (landSector (entryAddr s q) s).store (entryAddr s q) (recBytes v q) 2))).trans ih

theorem sameHeat_recRoom : SameHeat s (recRoom s) := by
  unfold recRoom
  split
  exacts [⟨rfl⟩, ⟨rfl⟩]

theorem sameHeat_record {ty arg len payload : Nat} : SameHeat s (record ty arg len payload s) := by
  unfold record
  split
  · extract_lets v w k q r x
    have h : SameHeat s x := sameHeat_recRoom.trans sameHeat_writeEnts
    clear_value x
    exact ⟨h.stk⟩
  · exact .refl s

theorem sameHeat_throttle {code unit level : Nat} : SameHeat s (throttle code unit level s) :=
  ⟨(sameHeat_record (s := s)).stk⟩

theorem sameHeat_recFault {arg code : Nat} {p : BitVec 15} : SameHeat s (recFault arg code p s) := sameHeat_record

theorem sameHeat_readEntry {q : Nat} : SameHeat s (readEntry q s) := sameHeat_landSector.trans sameHeat_traffic

/-! ### What an edge leaves of a stack -/

theorem sameHeat_consume : SameHeat s (consume s) := by
  have hread : ∀ q, SameHeat s (readEntry q s) := fun q => sameHeat_readEntry
  unfold consume
  split
  · rename_i q _
    have h := hread q
    generalize readEntry q s = v at h
    dsimp only
    split
    exacts [⟨h.stk⟩, ⟨h.stk⟩]
  · rename_i q _ _ _
    have h := hread q
    generalize readEntry q s = v at h
    exact ⟨h.stk⟩
  · exact .refl s

theorem sameHeat_diverge {kind q : Nat} : SameHeat s (diverge kind q s) := by
  unfold diverge
  split
  exacts [⟨rfl⟩, ⟨rfl⟩]

theorem sameHeat_replayRun {n : Nat} : SameHeat s (replayRun n s) := by
  induction n generalizing s with
  | zero => exact .refl s
  | succ n ih =>
    unfold replayRun
    split
    · split
      · rename_i u hu
        exact (scriptStep_spec (SameHeat s) (fun _ h => h.trans sameHeat_consume) (fun _ _ _ h => h.trans sameHeat_diverge)
          (fun _ h => ⟨h.stk⟩) (fun _ _ _ h => ⟨h.stk⟩) (.refl s) u hu).trans ih
      · exact .refl s
    · exact .refl s

theorem sameHeat_barEdge {n : Nat} : SameHeat s (barEdge n s) := by
  have hgap : ∀ (n : Nat) (v : State), SameHeat v (checkGap n v) := fun n v => by
    unfold checkGap
    split
    exacts [sameHeat_diverge, .refl v]
  unfold barEdge
  extract_lets new r v w
  split
  · exact .refl s
  · have h : SameHeat s w := SameHeat.trans (t := strobe 1 s) ⟨rfl⟩ sameHeat_record
    clear_value w
    refine SameHeat.trans ?_ (hgap _ _)
    exact ⟨h.stk⟩

theorem sameHeat_burnSome : SameHeat s (burnSome s) := by
  obtain ⟨x, f, h⟩ := burnSome_frame (s := s)
  rw [h]
  exact ⟨rfl⟩

theorem sameHeat_resumePulses : SameHeat s (resumePulses s) := by
  unfold resumePulses
  split
  · split
    · refine SameHeat.trans ?_ sameHeat_burnSome
      exact ⟨rfl⟩
    · exact .refl s
  · exact .refl s

theorem sameHeat_beatExc {code n before : Nat} {off : Int} : SameHeat s (beatExc code n before off s) := sameHeat_record

theorem sameHeat_updBeat {f : Beat → Beat} : SameHeat s (updBeat f s) := ⟨rfl⟩

theorem sameHeat_missedReject {e : Entry} {n : Nat} : SameHeat s (missedReject e n s) :=
  sameHeat_updBeat.trans sameHeat_beatExc

theorem sameHeat_lockedEdge : SameHeat s (lockedEdge s) := by
  unfold lockedEdge
  extract_lets before live code s₁ m s₂ rej came s₃
  have h₁ : SameHeat s s₁ := by
    show SameHeat s (if _ then diverge 1 (headSeq s) s else s)
    split
    exacts [sameHeat_diverge, .refl s]
  have h₃ : SameHeat s s₃ := by
    have h₂ : SameHeat s s₂ := ⟨h₁.stk⟩
    show SameHeat s (if m ≤ 7 then _ else s₂)
    split
    exacts [⟨h₂.stk⟩, h₂]
  clear_value s₃ rej
  split
  · exact ⟨rfl⟩
  · split
    · split
      exacts [h₃, h₃.trans sameHeat_beatExc]
    · split
      · exact h₃
      · split
        · exact h₃.trans sameHeat_missedReject
        · split
          exacts [h₃.trans sameHeat_beatExc, h₃]

theorem sameHeat_freeEdge : SameHeat s (freeEdge s) := by
  unfold freeEdge
  extract_lets before st s₁
  have h₁ : SameHeat s s₁ := by
    show SameHeat s (if _ then lockedEdge s else if _ then updBeat Beat.advance s else s)
    split
    · exact sameHeat_lockedEdge
    · split
      exacts [⟨rfl⟩, ⟨rfl⟩]
  clear_value s₁
  split
  · exact ⟨rfl⟩
  · exact h₁.trans (sameHeat_updBeat.trans (sameHeat_beatExc.trans sameHeat_throttle))

theorem sameHeat_jumpEdge {n : BitVec 48} : SameHeat s (jumpEdge n s) := by
  unfold jumpEdge
  exact sameHeat_updBeat.trans sameHeat_beatExc

theorem sameHeat_countFault {code bay unit : Nat} : SameHeat s (countFault code bay unit s) := ⟨rfl⟩

theorem sameHeat_scriptedEdge {e : Entry} : SameHeat s (scriptedEdge e s) := by
  unfold scriptedEdge enterLost enterLocked
  split
  · exact (sameHeat_countFault.trans (sameHeat_updBeat.trans sameHeat_beatExc)).trans (sameHeat_throttle.trans sameHeat_recFault)
  · split
    · exact sameHeat_lockedEdge.trans (sameHeat_updBeat.trans sameHeat_beatExc)
    · exact sameHeat_jumpEdge

theorem sameHeat_edgeBeat : SameHeat s (edgeBeat s) := by
  unfold edgeBeat
  extract_lets turn s₁ s₂ s₃
  have h₂ : SameHeat s s₂ := ⟨rfl⟩
  have h₃ : SameHeat s₂ s₃ := by
    show SameHeat s₂ (if _ then freeEdge s₂ else _)
    split
    · exact sameHeat_freeEdge
    · split
      · exact sameHeat_scriptedEdge
      · exact sameHeat_jumpEdge
      · split
        exacts [sameHeat_lockedEdge, sameHeat_lockedEdge, ⟨rfl⟩, ⟨rfl⟩, ⟨rfl⟩, .refl s₂]
  exact ⟨(h₂.trans h₃).stk⟩

theorem sameHeat_applyTargets : SameHeat s (applyTargets s) := by
  have hlower : ∀ (v : State) (b : Bay), SameHeat v (lowerBay v b) := fun v b => by
    unfold lowerBay
    dsimp only
    split
    exacts [SameHeat.trans (t := updPwr _ (updPwr _ v)) ⟨rfl⟩ sameHeat_throttle, .refl v]
  have hdrop : ∀ (v : State) (b : Bay), SameHeat v (dropRaise v b) := fun v b => by
    unfold dropRaise
    split
    exacts [⟨rfl⟩, ⟨rfl⟩]
  have hstart : ∀ v : State, SameHeat v (startRaises v) := fun v => by
    obtain ⟨r, h⟩ := startRaises_frame (s := v)
    rw [h]
    exact ⟨rfl⟩
  unfold applyTargets
  split
  · exact .refl s
  · exact ((sameHeat_foldl hlower _ _).trans (sameHeat_foldl hdrop _ _)).trans (hstart _)

/-- The thermal state once the cap move that is due has been latched depends on the thermal state alone. -/
theorem heat_latchCap : heat k.latchCap = (k.hot, k.hotDue, k.temp, k.cap,
    if k.capDue = k.cap ∧ k.capNext ≠ k.cap then k.capNext else k.capDue,
    if k.capDue = k.cap ∧ k.capNext ≠ k.cap then 0 else k.capSince, k.actLimit) := by
  unfold Stack.latchCap
  split
  exacts [rfl, rfl]

theorem heat_latchCap_congr (h : heat k = heat l) : heat k.latchCap = heat l.latchCap := by
  obtain ⟨h1, h2, h3, h4, h5, h6, h7⟩ : k.hot = l.hot ∧ k.hotDue = l.hotDue ∧ k.temp = l.temp ∧ k.cap = l.cap ∧
      k.capDue = l.capDue ∧ k.capSince = l.capSince ∧ k.actLimit = l.actLimit := by
    simpa [heat] using h
  rw [heat_latchCap, heat_latchCap, Stack.capNext, Stack.capNext, h1, h2, h3, h4, h5, h6, h7]

theorem sameHeat_edgeStart : SameHeat s (edgeStart s) := ⟨rfl⟩

/-- An edge latches the cap move that is due, and leaves the rest of each stack's thermal state. -/
theorem beatEdge_heat {smp : Sample} (hc : clocked s = true) : ∃ t, exec (.beatEdge smp) s = .next t ∧
    ∀ ms : Stk, heat (t.stack ms) = heat (s.stack ms).latchCap := by
  have hx : ∃ u, u.stk = (edgeBeat (edgeStart s)).stk ∧
      exec (.beatEdge smp) s = .next (replayAdvance (barEdge (s.beatNat / 1024) (setTargets (resumePulses u)))) := by
    refine ⟨_, ?_, congrArg Host.Outcome.next (if_pos hc)⟩
    rfl
  obtain ⟨u, hu, hx⟩ := hx
  refine ⟨_, hx, fun ms => ?_⟩
  have he : SameHeat s (edgeBeat (edgeStart s)) := sameHeat_edgeStart.trans sameHeat_edgeBeat
  have hv : SameHeat s (resumePulses u) := (he.with_stk hu).trans sameHeat_resumePulses
  generalize resumePulses u = v at hv
  obtain ⟨w, hw, hset⟩ : ∃ w, w.stk = v.stk.map Stack.latchCap ∧ setTargets v = applyTargets w := ⟨_, rfl, rfl⟩
  have hlatch : w.stack ms = (v.stack ms).latchCap := by simp [State.stack, hw]
  rw [hset]
  calc heat ((replayAdvance (barEdge (s.beatNat / 1024) (applyTargets w))).stack ms)
    _ = heat (w.stack ms) := ((sameHeat_applyTargets.trans sameHeat_barEdge).trans sameHeat_replayRun).heat_stack ms
    _ = heat (s.stack ms).latchCap := by rw [hlatch, heat_latchCap_congr (hv.heat_stack ms)]

/-! ### Refresh (R292, R293) -/

theorem stack_updStack {f : Stack → Stack} : (updStack ms f s).stack ms = f (s.stack ms) := by
  simp [State.stack, updStack]

theorem stack_updStack_ne {f : Stack → Stack} {m : Stk} (h : m ≠ ms) : (updStack ms f s).stack m = s.stack m := by
  have hne : (ms : Nat) ≠ m := fun hv => h (Fin.ext hv.symm)
  simp [State.stack, updStack, Vector.getElem_set_ne, hne]

theorem get_tab {α : Type} [DecidableEq α] {d f : Nat → α} {i n j : Nat} (h : i ≤ j ∧ j < i + n) :
    Sparse.get d (Sparse.tab d f i n) j = f j := by
  have hbelow : ∀ (n i : Nat), j < i → Sparse.get d (Sparse.tab d f i n) j = d j := fun n => by
    induction n with
    | zero => exact fun _ _ => rfl
    | succ n ih =>
      intro i hi
      rw [Sparse.tab]
      split
      · exact ih (i + 1) (by omega)
      · rw [Sparse.get, if_neg (by omega), ih (i + 1) (by omega)]
  induction n generalizing i with
  | zero => omega
  | succ n ih =>
    rw [Sparse.tab]
    rcases Nat.lt_or_ge i j with hlt | hge
    · split
      · exact ih (by omega)
      · rw [Sparse.get, if_neg (by omega), ih (by omega)]
    · obtain rfl : i = j := by omega
      split
      case isTrue hd => rw [hbelow n (i + 1) (by omega), hd]
      case isFalse => rw [Sparse.get, if_pos rfl]

/-- The row counters once the scheduled banks of a position are refreshed. -/
def refreshedRows (k : Stack) (pos : Nat) : Sparse Nat :=
  Sparse.tab (fun _ => 0) (fun i =>
    if k.refreshes pos (i / 32) (i % 32) then (Sparse.get (fun _ => 0) k.rowCtr i + 8) % 65536
    else Sparse.get (fun _ => 0) k.rowCtr i) 0 1024

theorem exec_dramRefresh (hc : clocked s = true) (hr : (s.stack ms).refreshedAt ≠ some s.beat.pos) :
    exec (.dramRefresh ms) s = .next (updStack ms (fun k =>
      { k with refreshedAt := some s.beat.pos, rowCtr := refreshedRows k s.beat.pos }) s) :=
  congrArg Host.Outcome.next (if_pos (by simp [hc, hr]))

theorem get_refreshedRows {pos c b : Nat} (hc : c < 32) (hb : b < 32) :
    Sparse.get (fun _ => 0) (refreshedRows k pos) (32 * c + b) =
      if (b + c) % (if k.hot = true then 2 else 4) = pos % (if k.hot = true then 2 else 4) then
        (Sparse.get (fun _ => 0) k.rowCtr (32 * c + b) + 8) % 65536
      else Sparse.get (fun _ => 0) k.rowCtr (32 * c + b) := by
  have h1 : (32 * c + b) / 32 = c := by omega
  have h2 : (32 * c + b) % 32 = b := by omega
  rw [refreshedRows, get_tab ⟨Nat.zero_le _, by omega⟩, h1, h2]
  refine if_congr ?_ rfl rfl
  unfold Stack.refreshes
  split <;> exact beq_iff_eq

/-! ### Throttle events of a stack (R293, R297, R298) -/

/-- The thermal state and the streams after a throttle event of a stack whose thermal state moves. -/
theorem throttled_stack {f : Stack → Stack} {code : Nat} :
    ringOnly s (throttle code ms 0 (updStack ms f s)) ∧
    (throttle code ms 0 (updStack ms f s)).run =
      { s.run.event code ms.val s.beatNat with replayable := (throttle code ms 0 (updStack ms f s)).run.replayable } ∧
    heat ((throttle code ms 0 (updStack ms f s)).stack ms) = heat (f (s.stack ms)) ∧
    ∀ (b : Bay) (st : Strm), (throttle code ms 0 (updStack ms f s)).strm b st = s.strm b st :=
  ⟨fun a h => ringOnly_throttle (s := updStack ms f s) a h, run_throttle (s := updStack ms f s),
    (sameHeat_throttle.heat_stack ms).trans (congrArg heat stack_updStack), fun _ _ => strm_throttle (s := updStack ms f s)⟩

/-- The four events and what each makes of its stack. -/
theorem exec_stackEvent {c : Instr} {code : Nat} (hc : clocked s = true)
    (h : (c = .hotRefreshEnter ms ∧ atEdge s = true ∧ (s.stack ms).hotDue = true :: k.hotDue ∧ s.beat.pos % 4 = 0 ∧
        k = { s.stack ms with hot := true, hotDue := k.hotDue } ∧ code = 3) ∨
      (c = .hotRefreshLeave ms ∧ atEdge s = true ∧ (s.stack ms).hotDue = false :: k.hotDue ∧ s.beat.pos % 4 = 0 ∧
        k = { s.stack ms with hot := false, hotDue := k.hotDue } ∧ code = 3) ∨
      (c = .actLimitSet ms ∧ 105 * 16 ≤ (s.stack ms).temp ∧ (s.stack ms).actLimit = false ∧
        k = { s.stack ms with actLimit := true } ∧ code = 4) ∨
      (c = .actLimitLift ms ∧ (s.stack ms).temp < 103 * 16 ∧ (s.stack ms).actLimit = true ∧
        k = { s.stack ms with actLimit := false } ∧ code = 4)) :
    ∃ f, exec c s = .next (throttle code ms 0 (updStack ms f s)) ∧ f (s.stack ms) = k := by
  rcases h with ⟨rfl, he, hd, hp, hk, rfl⟩ | ⟨rfl, he, hd, hp, hk, rfl⟩ | ⟨rfl, ht, hl, hk, rfl⟩ | ⟨rfl, ht, hl, hk, rfl⟩
  · refine ⟨fun j => { j with hot := true, hotDue := k.hotDue }, ?_, hk.symm⟩
    change execHotRefreshEnter ms s = _
    rw [execHotRefreshEnter, hd]
    exact congrArg Host.Outcome.next (if_pos (by simp [he, hp]))
  · refine ⟨fun j => { j with hot := false, hotDue := k.hotDue }, ?_, hk.symm⟩
    change execHotRefreshLeave ms s = _
    rw [execHotRefreshLeave, hd]
    exact congrArg Host.Outcome.next (if_pos (by simp [he, hp]))
  · have hd : decide (deg 105 ≤ (s.stack ms).temp) = true := decide_eq_true ht
    exact ⟨fun j => { j with actLimit := true }, congrArg Host.Outcome.next (if_pos (by simp [hc, hl, hd])), hk.symm⟩
  · have hd : decide ((s.stack ms).temp < deg 103) = true := decide_eq_true ht
    exact ⟨fun j => { j with actLimit := false }, congrArg Host.Outcome.next (if_pos (by simp [hc, hl, hd])), hk.symm⟩

/-! ### Patrol (R294, R302) -/

theorem patrolScan_sound {l : List Nat} (h : ∀ a ∈ l, byteBad s a = false) :
    patrolScan l [] s = traffic (l.map (fun a => (a, 64))) [] s := by
  have hnone : l.filter (byteBad s) = [] := List.filter_eq_nil_iff.2 fun a ha => by simp [h a ha]
  unfold patrolScan
  exact congrArg (fun m : List Nat => m.foldl (fun (s : State) (a : Nat) => patrolUe a s)
    (traffic (l.map (fun a => (a, 64))) [] s)) hnone

/-- A patrol step moves its pseudo-channel's row on and does its write-backs. -/
theorem patrolled_spec {c pos : Nat} : (k.patrolled c pos).scrubAt = k.scrubAt ∧
    (k.patrolled c pos).wbq = k.wbq.filter (fun e => e.1 != c) ∧
    (k.patrolled c pos).patrol =
      Sparse.set (fun _ => 0) k.patrol c ((Sparse.get (fun _ => 0) k.patrol c + 1) % 2097152) := by
  unfold Stack.patrolled
  dsimp only
  split
  exacts [⟨rfl, rfl, rfl⟩, ⟨rfl, rfl, rfl⟩]

/-- Traffic counts, and moves no queue and no position of a stack. -/
theorem stack_traffic {rd wr : List (Nat × Nat)} : ((traffic rd wr s).stack ms).scrubAt = (s.stack ms).scrubAt ∧
    ((traffic rd wr s).stack ms).wbq = (s.stack ms).wbq ∧ ((traffic rd wr s).stack ms).patrol = (s.stack ms).patrol := by
  have h : (traffic rd wr s).stack ms = (s.stack ms).transferred s ms rd wr := by simp [State.stack, traffic]
  rw [h]
  exact ⟨rfl, rfl, rfl⟩

/-- The state in which a pseudo-channel has had its opportunity of the position. -/
def markScrub (ms : Stk) (pc : Fin 32) (s : State) : State :=
  updStack ms (fun k => { k with scrubAt := Sparse.set (fun _ => 0) k.scrubAt pc (s.beat.pos + 1) }) s

theorem inChan_markScrub {pc : Fin 32} :
    inChan (markScrub ms pc s) ((markScrub ms pc s).stack ms) pc = inChan s (s.stack ms) pc := by
  rw [markScrub, stack_updStack]
  rfl

/-- With no request waiting a patrol step scans its row, from a state that differs in the stacks alone. -/
theorem exec_patrolScrub_idle {pc : Fin 32} {errs : List SectorErr} (hc : clocked s = true) (hp : s.codes.patrolOn = true)
    (hsc : (s.stack ms).scrubbedAt pc s.beat.pos = false)
    (hq : (inChan s (s.stack ms) pc).any (fun q => !q.served) = false) :
    ∃ v, exec (.patrolScrub ms pc errs) s =
      .next (patrolScan (patrolRow s ms pc (Sparse.get (fun _ => 0) (s.stack ms).patrol pc)) errs v) ∧
      v = { s with stk := v.stk } ∧ (∀ a, byteBad v a = byteBad s a) ∧
      (v.stack ms).scrubAt = Sparse.set (fun _ => 0) (s.stack ms).scrubAt pc (s.beat.pos + 1) ∧
      (v.stack ms).wbq = (s.stack ms).wbq.filter (fun e => e.1 != pc.val) ∧
      (v.stack ms).patrol =
        Sparse.set (fun _ => 0) (s.stack ms).patrol pc ((Sparse.get (fun _ => 0) (s.stack ms).patrol pc + 1) % 2097152) := by
  have hq' : ¬ (inChan (markScrub ms pc s) ((markScrub ms pc s).stack ms) pc).any (fun q => !q.served) = true := by
    rw [inChan_markScrub, hq]
    decide
  have hpat : ((markScrub ms pc s).stack ms).patrol = (s.stack ms).patrol := by rw [markScrub, stack_updStack]
  have he : exec (.patrolScrub ms pc errs) s = .next (patrolScan
      (patrolRow s ms pc (Sparse.get (fun _ => 0) ((markScrub ms pc s).stack ms).patrol pc)) errs
      (traffic [] ((((markScrub ms pc s).stack ms).wbq.filter (fun e => e.1 == pc.val)).map (fun e => (e.2, 64)))
        (updStack ms (fun k => k.patrolled pc s.beat.pos) (markScrub ms pc s)))) :=
    congrArg Host.Outcome.next ((if_pos (by simp [hc, hp, hsc])).trans (if_neg hq'))
  rw [hpat] at he
  obtain ⟨h1, h2, h3⟩ := stack_traffic (ms := ms) (rd := [])
    (wr := (((markScrub ms pc s).stack ms).wbq.filter (fun e => e.1 == pc.val)).map (fun e => (e.2, 64)))
    (s := updStack ms (fun k => k.patrolled pc s.beat.pos) (markScrub ms pc s))
  obtain ⟨g1, g2, g3⟩ := patrolled_spec (k := (markScrub ms pc s).stack ms) (c := pc) (pos := s.beat.pos)
  refine ⟨_, he, rfl, fun _ => rfl, ?_, ?_, ?_⟩
  · rw [h1, stack_updStack, g1, markScrub, stack_updStack]
  · rw [h2, stack_updStack, g2, markScrub, stack_updStack]
  · rw [h3, stack_updStack, g3, markScrub, stack_updStack]

/-! ### Temperature (R293, R296) -/

/-- The largest of a list's readings and of the one it starts from. -/
theorem foldl_max_spec {l : List Int} {a : Int} : a ≤ l.foldl max a ∧ (∀ x ∈ l, x ≤ l.foldl max a) ∧
    (l.foldl max a = a ∨ l.foldl max a ∈ l) := by
  induction l generalizing a with
  | nil => exact ⟨le_refl a, nofun, .inl rfl⟩
  | cons y l ih =>
    obtain ⟨h1, h2, h3⟩ := ih (a := max a y)
    refine ⟨(le_max_left a y).trans h1, fun x hx => ?_, ?_⟩
    · rcases List.mem_cons.1 hx with rfl | hx
      exacts [(le_max_right a x).trans h1, h2 x hx]
    · rcases h3 with h3 | h3
      · rcases max_choice a y with hm | hm
        · exact .inl (h3.trans hm)
        · exact .inr (List.mem_cons.2 (.inl (h3.trans hm)))
      · exact .inr (List.mem_cons_of_mem _ h3)

theorem hotNext_idle {v : Int} (h : k.hotDue = []) : k.hotNext v =
    if 85 * 16 ≤ v ∧ k.hot = false then [true] else if v < 83 * 16 ∧ k.hot = true then [false] else [] := by
  have ha : k.hotAhead = k.hot := by simp [Stack.hotAhead, h]
  unfold Stack.hotNext
  rw [ha, h]
  cases k.hot with
  | false => simp [deg]
  | true => simp [deg]

/-- Settles O35: the thermal state of a stack follows its own events alone, whatever the ring takes at the same time. -/
theorem stackUpkeep : Obligations.StackUpkeep := by
  refine ⟨?_, ?_, ?_, ?_, ?_, ?_, ?_, ?_, ?_, ?_⟩
  · intro ms s hc hr
    refine ⟨_, exec_dramRefresh hc hr, rfl, ?_⟩
    rw [stack_updStack]
    exact ⟨rfl, fun c b hcc hb => get_refreshedRows hcc hb⟩
  · intro ms s c k code hc h
    obtain ⟨f, he, hk⟩ := exec_stackEvent hc h
    obtain ⟨hr, hrun, hh, hs⟩ := throttled_stack (s := s) (ms := ms) (f := f) (code := code)
    rw [hk] at hh
    obtain ⟨h1, h2, h3, h4, h5, h6, h7⟩ := by simpa [heat] using hh
    exact ⟨_, he, hr, hrun, h1, h2, h7, h3, fun b => ⟨hs b .a, hs b .x⟩⟩
  · intro ms s c cap he h
    have hcap : ∀ v : Nat, (s.stack ms).capDue = v → moveCap ms s = updStack ms (fun k => { k with cap := v }) s := by
      rintro _ rfl
      rfl
    rcases h with ⟨rfl, hd, hl⟩ | ⟨rfl, hd, hl⟩
    · rw [← hcap cap hd]
      exact congrArg Host.Outcome.next (if_pos (by simp [he, hd, hl]))
    · rw [← hcap cap hd]
      exact congrArg Host.Outcome.next (if_pos (by simp [he, hd, hl]))
  · intro ms smp s hc hcap
    obtain ⟨t, he, hh⟩ := beatEdge_heat (smp := smp) hc
    have hms := hh ms
    rw [heat_latchCap] at hms
    obtain ⟨-, -, h3, h4, h5, -, -⟩ := by simpa [heat] using hms
    refine ⟨t, he, h4, h3, h5.trans ?_⟩
    change _ = (s.stack ms).capNext
    split
    case isTrue => rfl
    case isFalse hn => rw [hcap, of_not_not fun hne => hn ⟨hcap, hne⟩]
  · intro ms s hc hh hg
    have he : exec (.stackThermFault ms) s = .next (gong 0x61 15 (updStack ms (fun k => { k with hotBt := 0 }) s)) :=
      congrArg Host.Outcome.next (if_pos (by simp [hc, hh]))
    obtain ⟨hr, hf, hs, -⟩ := gong_spec (t := updStack ms (fun k => { k with hotBt := 0 }) s) (s := s) (code := 0x61)
      (c8 := 0x61#8) rfl hg (fun _ _ => rfl) (fun _ _ => rfl)
    exact ⟨_, he, hr, hf, fun b st => by rw [hs b st]; exact ⟨rfl, rfl⟩⟩
  · intro ms pc s hc hp hsc hq hb hw1 hw2
    obtain ⟨v, he, hv, hbad, hstk⟩ := exec_patrolScrub_idle hc hp hsc hq
    rw [patrolScan_sound (fun a ha => (hbad a).trans (hb a ha))] at he
    obtain ⟨h1, h2, h3⟩ := stack_traffic (s := v) (ms := ms) (wr := [])
      (rd := (patrolRow s ms pc (Sparse.get (fun _ => 0) (s.stack ms).patrol pc)).map (fun a => (a, 64)))
    obtain ⟨g1, g2, g3⟩ := hstk
    refine ⟨_, he, by rw [hv]; rfl, ?_, ?_, h2.trans g2⟩
    · rw [Stack.scrubbedAt, h1, g1, get_set_self hw2]
      exact beq_self_eq_true _
    · rw [h3, g3, get_set_self hw1]
  · intro ms pc errs s hc hp hsc hq
    have hq' : (inChan (markScrub ms pc s) ((markScrub ms pc s).stack ms) pc).any (fun q => !q.served) = true := by
      rw [inChan_markScrub]
      exact hq
    have he : exec (.patrolScrub ms pc errs) s =
        .next (updStack ms (fun k => { k with missed := satAdd 64 k.missed 1 }) (markScrub ms pc s)) :=
      congrArg Host.Outcome.next ((if_pos (by simp [hc, hp, hsc])).trans (if_pos hq'))
    refine ⟨_, he, rfl, ?_, ?_⟩
    all_goals rw [stack_updStack, markScrub, stack_updStack]
    exact Nat.min_comm _ _
  · intro ms dies s hc hr
    have he : exec (.stackTempRead ms dies) s = .next (updStack ms (fun k =>
        { k.read (dies.toList.foldl max dies[0]) with readAt := some s.beat.pos }) s) :=
      congrArg Host.Outcome.next (if_pos (by simp [hc, hr]))
    obtain ⟨-, hle, hin⟩ := foldl_max_spec (l := dies.toList) (a := dies[0])
    refine ⟨_, he, rfl, ?_, ?_, ?_, fun m hm => stack_updStack_ne hm⟩
    all_goals rw [stack_updStack]
    · exact fun i => hle _ (by simp)
    · rcases hin with h | h
      · exact ⟨0, h.symm⟩
      · obtain ⟨i, hi, hv⟩ := List.getElem_of_mem h
        exact ⟨⟨i, by simpa using hi⟩, by simpa [Stack.read] using hv⟩
    · exact fun h => hotNext_idle h
  · intro s hc hz
    exact congrArg Host.Outcome.next (if_pos (by simpa [hc] using hz))
  · intro s hc hi
    exact congrArg Host.Outcome.next (if_pos (by simp [hc, hi]))

end Sys2Proof.Proofs.Stacks
end

section
/-! PROOFS. The refutation of MemoryRequests: where the failed read halts a channel, the FAULT entry of that halt is written to the
ring, and an older write that waits there and meets an uncorrectable sector in part is counted as it lands. -/

namespace Sys2Proof.Proofs.Requests

open Sys2Proof Sys2Proof.Machine

/-- A read of fabric inbound for bay 0 that was served and found an uncorrectable sector. -/
def failedRead : MemReq :=
  { req := 5, src := 0, addr := 0, len := 64, data := none, served := true, got := none, age := 0 }

/-- A write of part of the ring's first sector that waits. -/
def waitingWrite : MemReq :=
  { req := 2, src := 0, addr := ringBase, len := 8, data := some (List.replicate 8 0#8), served := false, got := none, age := 0 }

/-- After reset, but for recording on, the ring's first sector uncorrectable, and the two requests. -/
def readFailing : State :=
  { State.reset with
    pwr := { Power.reset with st := .run }
    rcd := { Rec.reset with on := true }
    ms := { State.reset.ms with badSectors := [ringBase] }
    stk := State.reset.stk.set 0 { Stack.reset with reqs := [failedRead, waitingWrite] } }

/-- The count of uncorrectable sectors an outcome's state shows. -/
def shownSecUe : Host.Outcome State Fault Refusal → Nat
  | .next t => t.codes.secUe
  | _ => 0

theorem readFailing_ready : clocked readFailing = true ∧
    (readFailing.stack 0).reqs.find? (fun q => q.req == 5 && q.src == 0 && q.data.isNone) = some failedRead ∧
    readFailing.codes.secUe = 0 := by
  decide +kernel

theorem readFailing_counts : shownSecUe (exec (.memReadReturn 0 5 0) readFailing) = 2 := by
  decide +kernel

/-- Refutes O34: from `readFailing` the return of the failed read counts two uncorrectable sectors, its own and the one that
the waiting write of the ring meets, where the statement has it count one. -/
theorem not_memoryRequests : ¬ Obligations.MemoryRequests := by
  unfold Obligations.MemoryRequests
  rintro ⟨-, -, -, -, -, -, h⟩
  obtain ⟨hrun, hfind, hzero⟩ := readFailing_ready
  obtain ⟨t, hx, hue, -⟩ := h 0 5 0 failedRead readFailing hrun hfind rfl rfl
  have hshown := readFailing_counts
  rw [hx, shownSecUe, hue, hzero] at hshown
  exact absurd hshown (by decide)

end Sys2Proof.Proofs.Requests
end

section
/-! PROOFS. Page repairs, corrected words, scrubbing and re-encoding (OnDieCodes). -/

namespace Sys2Proof.Proofs.PageCode

open Sys2Proof Sys2Proof.Machine Sys2Proof.Laws.State Sys2Proof.Laws.Ops Sys2Proof.Laws.Memory Sys2Proof.Laws.Sparse
  Sys2Proof.Proofs.VectorEngine Sys2Proof.Proofs.FlagWaits Sys2Proof.Proofs.Stacks

variable {b : Bay} {s t u : State} {g : Nat} {r : Repair} {rd : PageRead}

/-! ### What a page's rewriting leaves (R246, R248) -/

/-- The bytes of a bay's page. -/
def InPage (b : Bay) (g a : Nat) : Prop := ∃ o, spadAt a = some (b.val, o) ∧ o / 4096 = g

/-- Outside a page every byte reads as before, and so stand the other bays, the codes, and of the bay all but its key buffer
and protection. -/
def PageOnly (b : Bay) (g : Nat) (s t : State) : Prop :=
  (∀ c : Bay, c ≠ b → t.bay c = s.bay c) ∧ (∀ a, ¬ InPage b g a → t.rd a = s.rd a)

theorem PageOnly.refl (s : State) : PageOnly b g s s := ⟨fun _ _ => rfl, fun _ _ => rfl⟩

theorem PageOnly.trans (h : PageOnly b g s t) (k : PageOnly b g t u) : PageOnly b g s u :=
  ⟨fun c hc => (k.1 c hc).trans (h.1 c hc), fun a ha => (k.2 a ha).trans (h.2 a ha)⟩

theorem pageOnly_updProt {f : Prot → Prot} : PageOnly b g s (updProt b f s) :=
  ⟨fun _ hc => bay_setBay_ne hc, fun _ _ => rfl⟩

theorem prot_updProt {f : Prot → Prot} : ((updProt b f s).bay b).prot = f (s.bay b).prot := congrArg Bays.prot bay_setBay

/-- A word of the scratchpad lies in its page. -/
theorem inPage_word {w i : Nat} (hw : w < spadWords) (hi : i < 8) : InPage b (w / 512) (spadBase b + 8 * w + i) := by
  have hb := b.isLt
  unfold spadWords at hw
  refine ⟨8 * w + i, ?_, by omega⟩
  unfold spadAt spadBase spadSize
  rw [if_neg (by omega)]
  dsimp only
  rw [if_pos (by omega)]
  exact congrArg some (Prod.ext (by dsimp only; omega) (by dsimp only; omega))

theorem pageOnly_putWord {w : Nat} {v : BitVec 64} (hw : w / 512 = g) : PageOnly b g s (putWord b w v s) := by
  have hset : PageOnly b g s (s.setBay b ((s.bay b).putWord w v)) := ⟨fun _ hc => bay_setBay_ne hc, fun _ _ => rfl⟩
  unfold putWord
  dsimp only
  split
  case isFalse => exact hset
  case isTrue hs =>
    refine ⟨hset.1, fun a ha => rd_wrRun_outside ?_⟩
    by_contra hin
    have hlen : (leBytes v.toNat 8).length = 8 := by simp [leBytes]
    rw [hlen] at hin
    refine ha ?_
    have hword := inPage_word (b := b) (i := a - (spadBase b + 8 * w)) hs (by omega)
    rwa [hw, show spadBase b + 8 * w + (a - (spadBase b + 8 * w)) = a by omega] at hword

/-- A word's rewriting leaves the protection and the codes. -/
theorem putWord_frame {w : Nat} {v : BitVec 64} : ((putWord b w v s).bay b).prot = (s.bay b).prot ∧
    (putWord b w v s).codes = s.codes := by
  have hput : ((s.bay b).putWord w v).prot = (s.bay b).prot := by
    unfold Bays.putWord
    split
    exacts [rfl, rfl]
  have hset : ((s.setBay b ((s.bay b).putWord w v)).bay b).prot = (s.bay b).prot := (congrArg Bays.prot bay_setBay).trans hput
  unfold putWord
  dsimp only
  split
  exacts [⟨hset, rfl⟩, ⟨hset, rfl⟩]

/-- Words of one page rewritten in turn. -/
theorem putWords_frame {α : Type} {l : List α} {w : α → Nat} {v : α → BitVec 64} (hw : ∀ e ∈ l, w e / 512 = g) :
    PageOnly b g s (l.foldl (fun (s : State) e => putWord b (w e) (v e) s) s) ∧
    ((l.foldl (fun (s : State) e => putWord b (w e) (v e) s) s).bay b).prot = (s.bay b).prot ∧
    (l.foldl (fun (s : State) e => putWord b (w e) (v e) s) s).codes = s.codes := by
  refine List.foldlRecOn (motive := fun t : State => PageOnly b g s t ∧ (t.bay b).prot = (s.bay b).prot ∧
    t.codes = s.codes) _ _ ⟨.refl s, rfl, rfl⟩ ?_
  intro t ⟨hp, hprot, hc⟩ e he
  obtain ⟨kp, kc⟩ := putWord_frame (b := b) (w := w e) (v := v e) (s := t)
  exact ⟨hp.trans (pageOnly_putWord (hw e he)), kp.trans hprot, kc.trans hc⟩

/-- A parity line computed afresh changes only itself. -/
theorem reparity_frame : PageOnly b g s (reparity b g s) ∧
    (∃ l, ((reparity b g s).bay b).prot = { (s.bay b).prot with par := l }) ∧ (reparity b g s).codes = s.codes :=
  ⟨pageOnly_updProt, ⟨_, prot_updProt⟩, rfl⟩

theorem pageRestored_spec : PageOnly b g s (pageRestored b g s) ∧
    (∃ l, ((pageRestored b g s).bay b).prot = { (s.bay b).prot with
      silent := (s.bay b).prot.silent.filter (fun e => e.1 / 512 != g), par := l }) ∧
    (pageRestored b g s).codes = s.codes.repaired g := by
  obtain ⟨hp, hprot, hc⟩ := putWords_frame (b := b) (s := s) (g := g) (w := fun e : Nat × BitVec 64 => e.1)
    (v := fun e => e.2) (l := (s.bay b).prot.silent.filter (fun e => e.1 / 512 == g))
    (fun e he => by simpa using (List.mem_filter.1 he).2)
  generalize hv : ((s.bay b).prot.silent.filter (fun e => e.1 / 512 == g)).foldl
    (fun (s : State) e => putWord b e.1 e.2 s) s = v at hp hprot hc
  obtain ⟨w, hw⟩ : ∃ w, w = updProt b (fun p => { p with silent := p.silent.filter (fun e => e.1 / 512 != g) }) v := ⟨_, rfl⟩
  have hwb : PageOnly b g s w := hp.trans (hw ▸ pageOnly_updProt)
  have hwp : PageOnly b g s { w with codes := w.codes.repaired g } := ⟨hwb.1, hwb.2⟩
  have hwprot : (w.bay b).prot =
      { (s.bay b).prot with silent := (s.bay b).prot.silent.filter (fun e => e.1 / 512 != g) } := by
    rw [hw, prot_updProt, hprot]
  have hwc : w.codes = s.codes := by rw [hw]; exact hc
  have he : pageRestored b g s = reparity b g { w with codes := w.codes.repaired g } := by
    rw [hw, ← hv]
    rfl
  obtain ⟨rp, ⟨l, rprot⟩, rc⟩ := reparity_frame (b := b) (g := g) (s := { w with codes := w.codes.repaired g })
  rw [he]
  exact ⟨hwp.trans rp, ⟨l, rprot.trans (congrArg (fun p : Prot => { p with par := l }) hwprot)⟩, rc.trans (by rw [hwc])⟩

theorem pageFailed_spec {l : List Nat} (hl : ∀ w ∈ l, w / 512 = g) : PageOnly b g s (pageFailed b g l s) ∧
    (∃ m, ((pageFailed b g l s).bay b).prot = { (s.bay b).prot with
      bad := (s.bay b).prot.bad ++ l, silent := (s.bay b).prot.silent.filter (fun e => e.1 / 512 != g), par := m }) ∧
    (pageFailed b g l s).codes = s.codes := by
  obtain ⟨hp, hprot, hc⟩ := putWords_frame (b := b) (s := s) (g := g) (w := fun w : Nat => w) (v := fun _ => 0#64) (l := l) hl
  generalize hv : l.foldl (fun (s : State) w => putWord b w 0#64 s) s = v at hp hprot hc
  obtain ⟨w, hw⟩ : ∃ w, w = updProt b (fun p =>
    { p with bad := p.bad ++ l, silent := p.silent.filter (fun e => e.1 / 512 != g) }) v := ⟨_, rfl⟩
  have hwp : PageOnly b g s w := hp.trans (hw ▸ pageOnly_updProt)
  have hwprot : (w.bay b).prot = { (s.bay b).prot with
      bad := (s.bay b).prot.bad ++ l, silent := (s.bay b).prot.silent.filter (fun e => e.1 / 512 != g) } := by
    rw [hw, prot_updProt, hprot]
  have he : pageFailed b g l s = reparity b g w := by
    rw [hw, ← hv]
    rfl
  obtain ⟨rp, ⟨m, rprot⟩, rc⟩ := reparity_frame (b := b) (g := g) (s := w)
  rw [he]
  exact ⟨hwp.trans rp, ⟨m, by rw [rprot, hwprot]⟩, rc.trans (by rw [hw]; exact hc)⟩

/-- Reporting a scrub repair that failed counts, and touches no bay and no byte. -/
theorem scrubUe_frame {l : List Nat} : (scrubUe b g l s).bays = s.bays ∧ (scrubUe b g l s).mem = s.mem := by
  unfold scrubUe uePageFail uePage
  split
  · split
    exacts [⟨rfl, rfl⟩, ⟨rfl, rfl⟩]
  · split
    exacts [⟨rfl, rfl⟩, ⟨rfl, rfl⟩]

/-! ### PAGE_REPAIR_COMPLETE (R248, R252) -/

theorem failing_page (hr : r.page = g) {p : Prot} : ∀ w ∈ failing p r rd, w / 512 = g := by
  intro w hw
  unfold failing at hw
  have hin := List.mem_eraseDups.1 (List.mem_filter.1 hw).1
  rcases List.mem_append.1 hin with h | h
  · rw [← hr]
    simpa using (List.mem_filter.1 h).2
  · unfold pageWordsOf at h
    obtain ⟨k, hk, rfl⟩ := List.mem_map.1 (List.mem_eraseDups.1 h)
    have hlt : k < 512 := of_decide_eq_true (List.mem_filter.1 hk).2
    omega

/-- The protection a repair's completion is judged in. -/
def repairTaken (b : Bay) (r : Repair) (s : State) : State :=
  updProt b (fun p => { p with repairing := none, repairs := p.repairs.filter (fun q => q.page != r.page) }) s

theorem exec_pageRepairComplete (hd : dieRuns s = true) (hr : (s.bay b).prot.repairing = some r) (hw : rd.wrong = []) :
    exec (.pageRepairComplete b rd) s = .next (
      if pageLoad b r.page (failing (s.bay b).prot r rd) rd s ≤ s.codes.pageP r.page then
        pageRestored b r.page (repairTaken b r s)
      else if r.scrub then
        scrubUe b r.page (failing (s.bay b).prot r rd)
          (pageFailed b r.page (failing (s.bay b).prot r rd) (repairTaken b r s))
      else pageFailed b r.page (failing (s.bay b).prot r rd) (repairTaken b r s)) := by
  have hmis : misreadPage b r.page rd (repairTaken b r s) = repairTaken b r s := by
    unfold misreadPage
    rw [hw]
    rfl
  have hprot : ((repairTaken b r s).bay b).prot = _ := prot_updProt
  have hfail : failing ((repairTaken b r s).bay b).prot r rd = failing (s.bay b).prot r rd := by
    rw [hprot]
    rfl
  have hload : pageLoad b r.page (failing (s.bay b).prot r rd) rd (repairTaken b r s) =
      pageLoad b r.page (failing (s.bay b).prot r rd) rd s := by
    have hword : ∀ w, wordOf b w (repairTaken b r s) = wordOf b w s := fun w =>
      congrArg (fun k => wordAt s.mem k b w) ((congrArg Bays.keyBuf (bay_setBay (b := b) (s := s))).trans rfl)
    unfold pageLoad
    simp only [hprot, hword]
  change execPageRepairComplete b rd s = _
  rw [execPageRepairComplete, hr]
  dsimp only
  rw [if_pos (alive_of_dieRuns hd)]
  change Host.Outcome.next (repairPage b r rd (repairTaken b r s)) = _
  unfold repairPage
  dsimp only
  rw [hmis, hfail, hload]
  rfl

theorem repairTaken_frame : PageOnly b g s (repairTaken b r s) ∧
    ((repairTaken b r s).bay b).prot = { (s.bay b).prot with
      repairing := none, repairs := (s.bay b).prot.repairs.filter (fun q => q.page != r.page) } :=
  ⟨pageOnly_updProt, prot_updProt⟩

theorem rd_of_pageOnly (h : PageOnly b g s t) {a : Nat} (ha : ∀ o : Nat, spadAt a = some (b.val, o) → o / 4096 ≠ g) :
    t.rd a = s.rd a :=
  h.2 a fun ⟨o, ho, hg⟩ => ha o ho hg

theorem not_mem_page {l : List (Nat × BitVec 64)} : ∀ e ∈ l.filter (fun e => e.1 / 512 != g), e.1 / 512 ≠ g :=
  fun _ he => by simpa using (List.mem_filter.1 he).2

theorem pageRepairComplete_restores (hd : dieRuns s = true) (hr : (s.bay b).prot.repairing = some r) (hw : rd.wrong = [])
    (hl : pageLoad b r.page (failing (s.bay b).prot r rd) rd s ≤ s.codes.pageP r.page) :
    ∃ t, exec (.pageRepairComplete b rd) s = .next t ∧ PageOnly b r.page s t ∧ (t.bay b).prot.repairing = none ∧
      (∀ e ∈ (t.bay b).prot.silent, e.1 / 512 ≠ r.page) ∧ (t.bay b).prot.bad = (s.bay b).prot.bad ∧
      t.codes = s.codes.repaired r.page := by
  obtain ⟨hp, hprot⟩ := repairTaken_frame (b := b) (g := r.page) (r := r) (s := s)
  obtain ⟨kp, ⟨l, kprot⟩, kc⟩ := pageRestored_spec (b := b) (g := r.page) (s := repairTaken b r s)
  rw [hprot] at kprot
  refine ⟨_, (exec_pageRepairComplete hd hr hw).trans (congrArg Host.Outcome.next (if_pos hl)), hp.trans kp, ?_, ?_, ?_, kc⟩
  all_goals rw [kprot]
  exact not_mem_page

theorem pageRepairComplete_fails (hd : dieRuns s = true) (hr : (s.bay b).prot.repairing = some r) (hw : rd.wrong = [])
    (hl : ¬ pageLoad b r.page (failing (s.bay b).prot r rd) rd s ≤ s.codes.pageP r.page) :
    ∃ t, exec (.pageRepairComplete b rd) s = .next t ∧ PageOnly b r.page s t ∧ (t.bay b).prot.repairing = none ∧
      (∀ e ∈ (t.bay b).prot.silent, e.1 / 512 ≠ r.page) ∧
      (t.bay b).prot.bad = (s.bay b).prot.bad ++ failing (s.bay b).prot r rd ∧ (r.scrub = false → t.codes = s.codes) := by
  obtain ⟨hp, hprot⟩ := repairTaken_frame (b := b) (g := r.page) (r := r) (s := s)
  obtain ⟨kp, ⟨l, kprot⟩, kc⟩ := pageFailed_spec (b := b) (g := r.page) (s := repairTaken b r s)
    (failing_page (rd := rd) (p := (s.bay b).prot) (r := r) rfl)
  rw [hprot] at kprot
  have he := (exec_pageRepairComplete hd hr hw).trans (congrArg Host.Outcome.next (if_neg hl))
  cases hsc : r.scrub with
  | false =>
    rw [if_neg (by rw [hsc]; decide)] at he
    refine ⟨_, he, hp.trans kp, ?_, ?_, ?_, fun _ => kc⟩
    all_goals rw [kprot]
    exact not_mem_page
  | true =>
    obtain ⟨sb, sm⟩ := scrubUe_frame (b := b) (g := r.page) (l := failing (s.bay b).prot r rd)
      (s := pageFailed b r.page (failing (s.bay b).prot r rd) (repairTaken b r s))
    have hbay : ∀ c : Bay, (scrubUe b r.page (failing (s.bay b).prot r rd)
        (pageFailed b r.page (failing (s.bay b).prot r rd) (repairTaken b r s))).bay c = _ :=
      fun c => congrArg (fun v : Vector Bays 12 => v[c]) sb
    rw [if_pos hsc] at he
    have sprot := (congrArg Bays.prot (hbay b)).trans kprot
    refine ⟨_, he, hp.trans (kp.trans ⟨fun c _ => hbay c, fun a _ => rd_congr sm a⟩), ?_, ?_, ?_, nofun⟩
    all_goals rw [sprot]
    exact not_mem_page

/-! ### Write-backs, the scrubber and re-encoding (R243, R250, R252) -/

theorem exec_correctedWriteback_ends {id : Byte} {e : Nat × Nat} (hc : clocked s = true)
    (he : (s.bay b).prot.wbs.find? (fun e => e.1 == id.toNat) = some e) : exec (.correctedWriteback b id none) s =
      .next (s.setBay b { s.bay b with prot := { (s.bay b).prot with wbs := (s.bay b).prot.wbs.erase e } }) := by
  change execCorrectedWriteback b id none s = _
  rw [execCorrectedWriteback, if_pos hc, updProt, he]

/-- The Ids of the memories whose corrected reads have no event of their own. -/
theorem eventless_spec {n : Nat} (h1 : 0x10 ≤ n) (h2 : n ≤ 0x12 ∨ 0x20 ≤ n ∧ n ≤ 0x24) : eventless.contains n = true := by
  have hn : n = 0x10 ∨ n = 0x11 ∨ n = 0x12 ∨ n = 0x20 ∨ n = 0x21 ∨ n = 0x22 ∨ n = 0x23 ∨ n = 0x24 := by omega
  rcases hn with rfl | rfl | rfl | rfl | rfl | rfl | rfl | rfl <;> rfl

theorem corrected_byte {c : Codes} {i : Nat} (h : 0x10 ≤ i) :
    c.corrected i = { c with byteCorr := satAdd 64 c.byteCorr 1 } := by
  unfold Codes.corrected
  rw [if_neg (by omega), if_neg (by omega), if_neg (by omega)]

theorem setBay_setBay {x y : Bays} : (s.setBay b x).setBay b y = s.setBay b y := by
  simp [State.setBay]

/-- The scrubber has nothing to ask for its page: no word fails and no syndrome is nonzero, or a repair of it waits. -/
def pageQuiet (b : Bay) (rd : PageRead) (s : State) : Bool :=
  ((failing (s.bay b).prot ⟨(s.bay b).prot.scrubPos, [], true, true⟩ rd).isEmpty &&
      !syndromeBad (s.bay b).prot (s.bay b).prot.scrubPos rd) ||
    (s.bay b).prot.repairs.any (fun r => r.page == (s.bay b).prot.scrubPos)

/-- A bay's protection once the scrubber has passed a page. -/
def pageScrubbed (b : Bay) (rd : PageRead) (s : State) : Prot :=
  { (s.bay b).prot with
    scrubPos := (s.bay b).prot.scrubPos + 1
    repairs := if pageQuiet b rd s then (s.bay b).prot.repairs
      else (s.bay b).prot.repairs ++
        [⟨(s.bay b).prot.scrubPos, failing (s.bay b).prot ⟨(s.bay b).prot.scrubPos, [], true, true⟩ rd, true, true⟩] }

theorem scrubbed_page {p : Prot} {pos : Nat} (h : p.scrubPos < 14336) :
    p.scrubbed b pos = { p with scrubPos := p.scrubPos + 1 } := by
  have hlap : p.scrubPos + 1 < lapSteps b := by
    have h8 : 8 ≤ (smallIds b).length := by
      unfold smallIds
      rw [List.length_append]
      exact Nat.le_add_right_of_le (by decide)
    unfold lapSteps allPages
    omega
  exact if_pos hlap

theorem scrubPage_read (hw : rd.wrong = []) (hx : rd.fixed = []) : scrubPage b g rd s =
    if ((failing (s.bay b).prot ⟨g, [], true, true⟩ rd).isEmpty && !syndromeBad (s.bay b).prot g rd) ||
      (s.bay b).prot.repairs.any (fun r => r.page == g) then s
    else updProt b (fun p => { p with
      repairs := p.repairs ++ [⟨g, failing (s.bay b).prot ⟨g, [], true, true⟩ rd, true, true⟩] }) s := by
  have hfix : ∀ i : Nat, scrubFixed i (pageWordsOf g rd.fixed) s = s := fun i => by
    rw [hx]
    rfl
  have hmis : misreadPage b g rd s = s := by
    unfold misreadPage
    rw [hw]
    rfl
  unfold scrubPage
  rw [hfix, hmis]

/-- A scrub step of a page whose words are read as they stand: the position advances, and a page whose syndrome is nonzero asks
for its repair once. -/
theorem exec_scrubStep (hd : dieRuns s = true) (ho : s.codes.scrubOn = true) (hp : (s.bay b).prot.scrubPos < 14336)
    (hr : (s.bay b).prot.repairs? (s.bay b).prot.scrubPos = false) (hw : rd.wrong = []) (hx : rd.fixed = []) :
    exec (.scrubStep b rd) s = .next (s.setBay b { s.bay b with prot := pageScrubbed b rd s }) := by
  obtain ⟨u, hu⟩ : ∃ u, u = s.setBay b { s.bay b with prot := { (s.bay b).prot with scrubPos := (s.bay b).prot.scrubPos + 1 } } :=
    ⟨_, rfl⟩
  have hub : u.bay b = { s.bay b with prot := { (s.bay b).prot with scrubPos := (s.bay b).prot.scrubPos + 1 } } := by
    rw [hu, bay_setBay]
  have hupd : updProt b (fun p => p.scrubbed b s.beat.pos) s = u := by
    rw [updProt, scrubbed_page hp, hu]
  have hex : exec (.scrubStep b rd) s = .next (scrubPage b (s.bay b).prot.scrubPos rd u) := by
    rw [← hupd]
    exact congrArg Host.Outcome.next ((if_pos (by simp [alive_of_dieRuns hd, ho, hr])).trans (if_pos hp))
  rw [hex, scrubPage_read hw hx, hub]
  refine congrArg Host.Outcome.next ?_
  unfold pageScrubbed
  cases hq : pageQuiet b rd s with
  | true => exact (if_pos hq).trans hu
  | false =>
    refine (if_neg (ne_true_of_eq_false hq)).trans ?_
    rw [updProt, hub, hu]
    exact setBay_setBay

/-- The codes once re-encoding has ended. -/
def reencodedCodes (c : Codes) : Codes := { c with reenc := none, spadNow := c.spadP, keyNow := c.keyP }

theorem exec_reencodeComplete (hd : dieRuns s = true) (hr : s.codes.reenc ≠ none) : exec .reencodeComplete s =
    .next (State.mapBays { s with codes := reencodedCodes s.codes } (fun b x =>
      { x with prot := Prot.reencoded x.prot (reencodedCodes s.codes) s.mem x.keyBuf b })) := by
  have hc : (alive s && s.codes.reenc.isSome) = true := by
    rw [alive_of_dieRuns hd, Option.isSome_iff_ne_none.2 hr]
    rfl
  exact congrArg Host.Outcome.next (if_pos hc)

theorem prot_reencoded {p : Prot} {c : Codes} {m : List Host.Cell} {kb : Sparse W32} {n : Nat} :
    ∃ l, p.reencoded c m kb n = { p with par := l } ∧
      ∀ g, g < 14336 → Sparse.get (fun _ => ParLine.zero) l g = parityOf (c.pageP g) (p.pageWritten m kb n g) := by
  unfold Prot.reencoded
  refine ⟨_, rfl, fun g hg => get_tab ⟨Nat.zero_le g, ?_⟩⟩
  rw [Nat.zero_add]
  exact hg

/-- Settles O36: a repair rewrites the words of its page alone, so every byte outside it and every other bay stand. -/
theorem onDieCodes : Obligations.OnDieCodes := by
  refine ⟨?_, ?_, ?_, ?_, ?_, ?_, ?_, ?_⟩
  · intro b r l s hd hr hn
    have he : exec (.pageRepairStart b) s = .next (updProt b (fun p => { p with repairs := l, repairing := some r }) s) := by
      change execPageRepairStart b s = _
      rw [execPageRepairStart, hr, hn]
      exact congrArg Host.Outcome.next (if_pos (alive_of_dieRuns hd))
    exact ⟨_, he, onlyBay_updProt, bay_setBay⟩
  · intro b r rd s hd hr hg hw
    by_cases hl : pageLoad b r.page (failing (s.bay b).prot r rd) rd s ≤ s.codes.pageP r.page
    · obtain ⟨t, he, hp, hn, hs, hbad, hc⟩ := pageRepairComplete_restores hd hr hw hl
      refine ⟨t, he, hn, hp.1, fun a ha => rd_of_pageOnly hp ha, hs, ?_⟩
      rw [if_pos hl]
      refine ⟨hbad, hc.trans ?_⟩
      unfold Codes.repaired satAdd pagesSpad
      rw [Nat.min_comm, Nat.min_comm (2 ^ 64 - 1)]
    · obtain ⟨t, he, hp, hn, hs, hbad, hc⟩ := pageRepairComplete_fails hd hr hw hl
      refine ⟨t, he, hn, hp.1, fun a ha => rd_of_pageOnly hp ha, hs, ?_⟩
      rw [if_neg hl, hbad]
      exact ⟨fun w => List.mem_append, hc⟩
  · intro b id e s hc he
    exact exec_correctedWriteback_ends hc he
  · intro b id o s hc h1 h2
    have he : exec (.correctedWriteback b id (some o)) s = .next { s with codes := s.codes.corrected id.toNat } :=
      congrArg Host.Outcome.next ((if_pos hc).trans (if_pos (eventless_spec h1 h2)))
    rw [he, corrected_byte h1, satAdd, Nat.min_comm]
  · intro b s hd ho hp hr hs
    have hany : (s.bay b).prot.silent.any (fun e => e.1 / 512 == (s.bay b).prot.scrubPos) = false :=
      List.any_eq_false.2 fun e he => by simpa using hs e he
    rw [exec_scrubStep hd ho hp hr rfl rfl, pageScrubbed, if_pos]
    simp [pageQuiet, failing, pageWordsOf, syndromeBad, hany]
  · intro b rd s hd ho hp hr hw hx hf hn
    rw [exec_scrubStep hd ho hp hr hw hx, pageScrubbed, if_neg]
    have hany : (s.bay b).prot.repairs.any (fun r => r.page == (s.bay b).prot.scrubPos) = false :=
      List.any_eq_false.2 fun r hr => by simpa using hn r hr
    simp [pageQuiet, hany, hf]
  · intro s hd hr
    refine ⟨_, exec_reencodeComplete hd hr, rfl, rfl, fun b g hg => ?_⟩
    obtain ⟨l, hl, hget⟩ := prot_reencoded (p := (s.bay b).prot) (c := reencodedCodes s.codes) (m := s.mem)
      (kb := (s.bay b).keyBuf) (n := b)
    have hx := (congrArg Bays.prot (bay_mapBays (s := { s with codes := reencodedCodes s.codes }) (b := b) (f := fun b x =>
      { x with prot := Prot.reencoded x.prot (reencodedCodes s.codes) s.mem x.keyBuf b }))).trans hl
    rw [hx]
    exact ⟨rfl, hget g hg⟩
  · intro s hc hi
    exact congrArg Host.Outcome.next (if_pos (by simp [hc, hi]))

end Sys2Proof.Proofs.PageCode
end

section
/-! PROOFS. Transfers start, complete and follow their ring (TransferEvents). -/

namespace Sys2Proof.Proofs.TransferRuns

open Sys2Proof Sys2Proof.Machine Sys2Proof.Laws.State Sys2Proof.Laws.Memory Sys2Proof.Laws.Ops Sys2Proof.Laws.Sparse
open Sys2Proof.Proofs.Tables Sys2Proof.Proofs.FlagWaits Sys2Proof.Proofs.UnitIssue Sys2Proof.Proofs.TileIssue
open Sys2Proof.Proofs.Transfers Sys2Proof.Proofs.VectorEngine Sys2Proof.Proofs.DataMemory

variable {s t u : State} {b : Bay} {st : Strm} {e : XEntry}

/-! ### What the movement of data leaves to every bay -/

/-- A bay keeps its streams, flags, queues and transfer engine. -/
def BayKept (x y : Bays) : Prop := y.a = x.a ∧ y.x = x.x ∧ y.flags = x.flags ∧ y.dq = x.dq ∧ y.xf = x.xf

/-- Every bay keeps them. -/
def BaysKept (s t : State) : Prop := ∀ c, BayKept (s.bay c) (t.bay c)

theorem BaysKept.refl : BaysKept s s := fun _ => ⟨rfl, rfl, rfl, rfl, rfl⟩

theorem BaysKept.trans (h : BaysKept s t) (k : BaysKept t u) : BaysKept s u := fun c => by
  obtain ⟨ha, hx, hf, hd, he⟩ := h c
  obtain ⟨ka, kx, kf, kd, ke⟩ := k c
  exact ⟨ka.trans ha, kx.trans hx, kf.trans hf, kd.trans hd, ke.trans he⟩

theorem baysKept_store {a req : Nat} {v : List Byte} {via : Option Bay} : BaysKept s (s.store a v req via) := fun c => by
  have h : ∃ p, (s.store a v req via).bay c = { s.bay c with prot := p } :=
    ⟨_, by simp only [State.store, State.bay, Fin.getElem_fin, Vector.getElem_mapFinIdx]; rfl⟩
  obtain ⟨p, hp⟩ := h
  rw [hp]
  exact ⟨rfl, rfl, rfl, rfl, rfl⟩

theorem baysKept_storeRuns {l : List (Nat × List Byte)} {via : Option Bay} : BaysKept s (storeRuns l s via) := by
  induction l generalizing s with
  | nil => exact BaysKept.refl
  | cons r l ih => exact baysKept_store.trans ih

theorem baysKept_streamOut {d : Desc} {bs : List Byte} {via : Option Bay} : BaysKept s (streamOut d bs s via) :=
  baysKept_storeRuns.trans baysKept_storeRuns

theorem baysKept_passPorts {rd wr : List Nat} : BaysKept s (passPorts b rd wr s) := fun c => by
  rw [passPorts, bay_mapBays]
  split_ifs <;> exact ⟨rfl, rfl, rfl, rfl, rfl⟩

theorem baysKept_scatFrom {s0 : State} {acc : Bool} {i x y : Desc} {n p : Nat} {r : XDone} :
    BaysKept r.st (scatFrom b s0 acc i x y r p n).st := by
  induction n generalizing r p with
  | zero => exact BaysKept.refl
  | succ n ih =>
    unfold scatFrom
    extract_lets v src
    split_ifs
    · exact BaysKept.refl
    · exact baysKept_storeRuns.trans ih
    · exact ih

/-! ### The bytes written do not depend on which bay's transfer writes them (R288) -/

/-- The two states hold the same bytes, codes and page strengths. -/
def SameCells (s t : State) : Prop := t.mem = s.mem ∧ t.ms = s.ms ∧ t.bays = s.bays ∧ t.codes.pageP = s.codes.pageP

theorem SameCells.store {a req req' : Nat} {v : List Byte} {via via' : Option Bay} (h : SameCells s t) :
    SameCells (s.store a v req via) (t.store a v req' via') := by
  obtain ⟨hm, hs, hb, hp⟩ := h
  have hk : storeKeeps t a v.length = storeKeeps s a v.length := by
    funext x
    have hw (n : Nat) : badWords t n = badWords s n := by unfold badWords; rw [hb]
    unfold storeKeeps byteBad
    simp only [hs, hw]
  refine ⟨?_, ?_, ?_, ?_⟩
  · simp only [State.store, hk, hm]
  · simp only [State.store, hs]
  · simp only [State.store, hk, hm, hb, Prot.afterWrite, hp]
  · exact hp

theorem SameCells.storeRuns {l : List (Nat × List Byte)} {via via' : Option Bay} (h : SameCells s t) :
    SameCells (storeRuns l s via) (storeRuns l t via') := by
  induction l generalizing s t with
  | nil => exact h
  | cons r l ih => exact ih h.store

theorem SameCells.elemRuns {d : Desc} {p : Nat} {bs : List Byte} (h : SameCells s t) :
    elemRuns t d p bs = elemRuns s d p bs := by
  have hl (a n : Nat) : t.ld a n = s.ld a n := by unfold State.ld; rw [h.1]
  unfold Machine.elemRuns redBytes
  simp only [hl]

theorem mem_streamOut_via {d : Desc} {bs : List Byte} {via : Option Bay} :
    (streamOut d bs s via).mem = (streamOut d bs s).mem := by
  have h : SameCells (storeRuns (joinRuns (elemRuns s d 0 (bs.take (esz d.etype * (bs.length / esz d.etype))))) s none)
    (storeRuns (joinRuns (elemRuns s d 0 (bs.take (esz d.etype * (bs.length / esz d.etype))))) s via) :=
    SameCells.storeRuns ⟨rfl, rfl, rfl, rfl⟩
  dsimp only [streamOut]
  rw [h.elemRuns]
  exact h.storeRuns.1

/-! ### What a transfer moves when no read fails (R266, R269, R270) -/

theorem goodPart_eq {l : List OutByte} (h : (l[(goodPart s l).length]?).map (fun o => o.1) = none) : goodPart s l = l := by
  rw [Option.map_eq_none_iff, List.getElem?_eq_none_iff] at h
  exact (List.takeWhile_sublist _).eq_of_length_le h

theorem outBytes_movOut {x : Desc} {n : Nat} : outBytes s (movOut x n) = s.gather (x.addrs 0 n) := by
  unfold outBytes movOut State.gather
  rw [List.map_map]; rfl

theorem outBytes_gathOut {i x : Desc} : outBytes s (gathOut s i x) = (List.range i.count).flatMap (fun p =>
    if idxVal s i p < x.rows then s.gather (x.addrs (idxVal s i p * x.rowBytes) x.rowBytes)
    else List.replicate x.rowBytes 0#8) := by
  unfold outBytes gathOut
  rw [List.map_flatMap]
  congr 1
  funext p
  dsimp only
  split_ifs
  · unfold State.gather
    rw [List.map_map]; rfl
  · rw [List.map_replicate]

/-- The rows of a scatter from row `p` on, in order (R270). -/
def scattered (b : Bay) (s : State) (acc : Bool) (i x y : Desc) (l : List Nat) (t : State) : State :=
  l.foldl (fun (u : State) p =>
    if idxVal s i p < y.rows then scatRow b acc y (idxVal s i p) (s.gather (x.addrs (p * y.rowBytes) y.rowBytes)) u else u) t

theorem scatFrom_good {s0 : State} {acc : Bool} {i x y : Desc} {n p : Nat} {r : XDone}
    (h : (scatFrom b s0 acc i x y r p n).bad = none) :
    (scatFrom b s0 acc i x y r p n).st = scattered b s0 acc i x y (List.range' p n) r.st := by
  induction n generalizing r p with
  | zero => rfl
  | succ n ih =>
    unfold scatFrom at h ⊢
    extract_lets at h ⊢
    have hs : scattered b s0 acc i x y (List.range' p (n + 1)) r.st = scattered b s0 acc i x y (List.range' (p + 1) n)
      (if idxVal s0 i p < y.rows then
        scatRow b acc y (idxVal s0 i p) (s0.gather (x.addrs (p * y.rowBytes) y.rowBytes)) r.st else r.st) := by
      rw [List.range'_succ]; rfl
    rw [hs]
    split_ifs at h ⊢
    · exact ih h
    · exact ih h

/-! ### A completion (R265) -/

theorem putFlagOpt_other {fd : Option LFlag} {c : Bay} (h : c ≠ b) : (putFlagOpt b fd s).bay c = s.bay c := by
  cases fd with
  | none => rfl
  | some f => exact bay_updBay_ne h

theorem putFlagOpt_own {fd : Option LFlag} : ((putFlagOpt b fd s).bay b).a = (s.bay b).a ∧
    ((putFlagOpt b fd s).bay b).x = (s.bay b).x ∧ ((putFlagOpt b fd s).bay b).dq = (s.bay b).dq ∧
    ((putFlagOpt b fd s).bay b).xf = (s.bay b).xf ∧ ((putFlagOpt b fd s).bay b).flags =
      (match fd with | some f => setBit (s.bay b).flags f true | none => (s.bay b).flags) := by
  cases fd with
  | none => exact ⟨rfl, rfl, rfl, rfl, rfl⟩
  | some f => simp [putFlagOpt, putFlag, Bays.setFlag]

theorem mem_putFlagOpt {fd : Option LFlag} : (putFlagOpt b fd s).mem = s.mem := by cases fd <;> rfl

/-- The state of a transfer as its last write is done, and the moves that its flag then adds to. -/
def moved (b : Bay) (i : Nat) (e : XEntry) (s : State) : State :=
  let l := e.op.touched s
  let r := runXfer b s e.op
  traffic (byteSpans l.1) (byteSpans l.2)
    (passPorts b l.1 l.2 (updXf b (fun x => { (x.counted r) with active := x.active.eraseIdx i }) r.st))

theorem finishXfer_good {i : Nat} (hr : e.run = none) (hb : (runXfer b s e.op).bad = none) :
    finishXfer b i e s = putFlagOpt b e.fd (moved b i e s) := by
  unfold finishXfer moved
  simp only [hb, hr]

theorem mem_moved {i : Nat} : (moved b i e s).mem = (runXfer b s e.op).st.mem := rfl

theorem moved_other {i : Nat} {c : Bay} (h : c ≠ b) : BayKept ((runXfer b s e.op).st.bay c) ((moved b i e s).bay c) := by
  unfold moved
  extract_lets l r
  have k := baysKept_passPorts (b := b) (rd := l.1) (wr := l.2)
    (s := updXf b (fun x => { (x.counted r) with active := x.active.eraseIdx i }) r.st) c
  rwa [updXf, bay_updBay_ne h] at k

theorem moved_own {i : Nat} : ((moved b i e s).bay b).a = ((runXfer b s e.op).st.bay b).a ∧
    ((moved b i e s).bay b).x = ((runXfer b s e.op).st.bay b).x ∧
    ((moved b i e s).bay b).flags = ((runXfer b s e.op).st.bay b).flags ∧
    ((moved b i e s).bay b).dq = ((runXfer b s e.op).st.bay b).dq ∧
    ((moved b i e s).bay b).xf.active = ((runXfer b s e.op).st.bay b).xf.active.eraseIdx i ∧
    ((moved b i e s).bay b).xf.queue = ((runXfer b s e.op).st.bay b).xf.queue := by
  unfold moved
  extract_lets l r
  obtain ⟨ha, hx, hf, hd, hxf⟩ := baysKept_passPorts (b := b) (rd := l.1) (wr := l.2)
    (s := updXf b (fun x => { (x.counted r) with active := x.active.eraseIdx i }) r.st) b
  rw [updXf, bay_updBay] at ha hx hf hd hxf
  exact ⟨ha, hx, hf, hd, (congrArg Xfer.active hxf :), (congrArg Xfer.queue hxf :)⟩

/-- The bays a transfer leaves: those of the state before, but for the entries of its own bay that a queue copy fills. -/
theorem runXfer_kept (h : ∀ x q tk n, e.op ≠ .movq x q tk n) : BaysKept s (runXfer b s e.op).st := by
  cases ho : e.op with
  | mov x y => exact baysKept_streamOut
  | movq x q tk n => exact absurd ho (h x q tk n)
  | gath i x y => exact baysKept_streamOut
  | scat acc i x y => exact baysKept_scatFrom (r := ⟨s, 0, 0, 0, none⟩)
  | ring ix d => exact BaysKept.refl

theorem xf_runXfer : ((runXfer b s e.op).st.bay b).xf = (s.bay b).xf := by
  cases ho : e.op with
  | movq x q tk n => simp [runXfer, fillQueue, Bays.setDq, Bays.dqWritten]
  | _ =>
    rw [← ho]
    exact (runXfer_kept (fun _ _ _ _ h => by simp [ho] at h) b).2.2.2.2

theorem runXfer_others {c : Bay} : BayKept (s.bay c) ((runXfer b s e.op).st.bay c) ∨
    c = b ∧ BayKept (s.bay b) { (runXfer b s e.op).st.bay b with dq := (s.bay b).dq } := by
  cases ho : e.op with
  | movq x q tk n =>
    by_cases hc : c = b
    · refine .inr ⟨hc, ?_⟩
      simp [runXfer, fillQueue, Bays.setDq, Bays.dqWritten, BayKept]
    · refine .inl ?_
      simp [runXfer, bay_updBay_ne hc, BayKept]
  | _ =>
    rw [← ho]
    exact .inl (runXfer_kept (fun _ _ _ _ h => by simp [ho] at h) c)

/-- What a completed transfer's memory and own queues are, by its kind. -/
def Done (b : Bay) (s t : State) : XOp → Prop
  | .mov x y => t.mem = (streamOut y (s.gather (x.addrs 0 y.bytes)) s).mem ∧ (t.bay b).dq = (s.bay b).dq
  | .movq x q tk n =>
      t.mem = s.mem ∧ (∀ k : Fin 8, k ≠ q → (t.bay b).dq[k] = (s.bay b).dq[k]) ∧
      (t.bay b).dq[q] = (s.bay b).dq[q].map (fun g =>
        if tk ≤ g.ticket ∧ g.ticket < tk + n then
          { g with data := some (padTo 64 (((s.gather (x.addrs 0 (min 2048 x.bytes))).drop (64 * (g.ticket - tk))).take 64)) }
        else g)
  | .gath i x y =>
      (t.bay b).dq = (s.bay b).dq ∧
      t.mem = (streamOut y ((List.range i.count).flatMap (fun p =>
        if idxVal s i p < x.rows then s.gather (x.addrs (idxVal s i p * x.rowBytes) x.rowBytes)
        else List.replicate x.rowBytes 0#8)) s).mem
  | .scat acc i x y =>
      (t.bay b).dq = (s.bay b).dq ∧ t.mem = (scattered b s acc i x y (List.range i.count) s).mem
  | .ring _ _ => True

theorem dq_fillQueue {q : Fin 8} {t : Nat} {es : List (List Byte)} {x : Bays} :
    (fillQueue b q t es x).dq[q] = x.dq[q].map (fun e =>
      if decide (t ≤ e.ticket) && decide (e.ticket < t + es.length) then { e with data := es[e.ticket - t]? } else e) := by
  simp [fillQueue, Bays.setDq, Bays.dqWritten]

theorem dq_fillQueue_ne {q k : Fin 8} {t : Nat} {es : List (List Byte)} {x : Bays} (h : k ≠ q) :
    (fillQueue b q t es x).dq[k] = x.dq[k] := by
  have hv : q.val ≠ k.val := fun hv => h (Fin.ext hv.symm)
  simp [fillQueue, Bays.setDq, Bays.dqWritten, hv]

theorem done_runXfer (hb : (runXfer b s e.op).bad = none) : Done b s (runXfer b s e.op).st e.op := by
  have hk := runXfer_kept (b := b) (s := s) (e := e)
  cases ho : e.op with
  | mov x y =>
    rw [ho] at hb hk
    refine ⟨?_, (hk (by simp) b).2.2.2.1⟩
    have hg := goodPart_eq hb
    simp only [runXfer, hg, outBytes_movOut, mem_streamOut_via]
  | movq x q tk n =>
    rw [ho] at hb
    have hg := goodPart_eq hb
    refine ⟨rfl, fun k h => ?_, ?_⟩
    · simp only [runXfer, bay_updBay]
      exact dq_fillQueue_ne h
    · simp only [runXfer, bay_updBay, dq_fillQueue, hg, if_pos, outBytes_movOut]
      refine List.map_congr_left fun g _ => ?_
      simp only [dqChunks, List.length_map, List.length_range, Bool.and_eq_true, decide_eq_true_eq]
      split_ifs with h
      · rw [List.getElem?_map, List.getElem?_range (by omega)]; rfl
      · rfl
  | gath i x y =>
    rw [ho] at hb hk
    refine ⟨(hk (by simp) b).2.2.2.1, ?_⟩
    have hg := goodPart_eq hb
    simp only [runXfer, hg, outBytes_gathOut, mem_streamOut_via]
  | scat acc i x y =>
    rw [ho] at hb hk
    refine ⟨(hk (by simp) b).2.2.2.1, ?_⟩
    rw [List.range_eq_range']
    exact congrArg State.mem (scatFrom_good hb)
  | ring ix d => trivial

theorem Done.of_kept {op : XOp} (h : Done b s t op) (hm : u.mem = t.mem) (hq : (u.bay b).dq = (t.bay b).dq) : Done b s u op := by
  cases op <;> simp only [Done, hm, hq] at h ⊢ <;> exact h

/-- What the completion of an active transfer of bay `b` leaves. -/
theorem finishXfer_spec {i : Nat} (hr : e.run = none) (hb : (runXfer b s e.op).bad = none) :
    ((finishXfer b i e s).bay b).flags = (match e.fd with | some f => setBit (s.bay b).flags f true | none => (s.bay b).flags) ∧
    ((finishXfer b i e s).bay b).xf.active = (s.bay b).xf.active.eraseIdx i ∧
    ((finishXfer b i e s).bay b).xf.queue = (s.bay b).xf.queue ∧
    (∀ (c : Bay) (st : Strm), (finishXfer b i e s).strm c st = s.strm c st) ∧
    (∀ c : Bay, c ≠ b → BayKept (s.bay c) ((finishXfer b i e s).bay c)) ∧
    Done b s (finishXfer b i e s) e.op := by
  rw [finishXfer_good hr hb]
  obtain ⟨oa, ox, of, od, oq, oe⟩ := moved_own (b := b) (e := e) (s := s) (i := i)
  obtain ⟨fa, fx, fd, fxf, ff⟩ := putFlagOpt_own (b := b) (s := moved b i e s) (fd := e.fd)
  have other (c : Bay) (h : c ≠ b) : BayKept (s.bay c) ((putFlagOpt b e.fd (moved b i e s)).bay c) := by
    rw [putFlagOpt_other h]
    obtain ⟨ma, mx, mf, md, me⟩ := moved_other (b := b) (e := e) (s := s) (i := i) h
    obtain ⟨ra, rx, rf, rd, re⟩ | ⟨hc, -⟩ := runXfer_others (b := b) (e := e) (s := s) (c := c)
    · exact ⟨ma.trans ra, mx.trans rx, mf.trans rf, md.trans rd, me.trans re⟩
    · exact absurd hc h
  have own : ((runXfer b s e.op).st.bay b).a = (s.bay b).a ∧ ((runXfer b s e.op).st.bay b).x = (s.bay b).x ∧
      ((runXfer b s e.op).st.bay b).flags = (s.bay b).flags := by
    obtain ⟨ra, rx, rf, -⟩ | ⟨-, ra, rx, rf, -⟩ := runXfer_others (b := b) (e := e) (s := s) (c := b)
    · exact ⟨ra, rx, rf⟩
    · exact ⟨ra, rx, rf⟩
  obtain ⟨ra, rx, rf⟩ := own
  refine ⟨?_, ?_, ?_, fun c st => ?_, other, ?_⟩
  · rw [ff, of, rf]
  · rw [fxf, oq, xf_runXfer]
  · rw [fxf, oe, xf_runXfer]
  · by_cases h : c = b
    · subst h
      cases st
      · exact fa.trans (oa.trans ra)
      · exact fx.trans (ox.trans rx)
    · obtain ⟨ha, hx, -⟩ := other c h
      cases st
      · exact ha
      · exact hx
  · exact (done_runXfer hb).of_kept (mem_putFlagOpt.trans mem_moved) (fd.trans od)

/-! ### Ring runs (R271 to R274) -/

variable {r : RingRun}

theorem burst_sound (h : ∀ k : Nat, k < min r.d.size[1] (r.d.size[2] - r.fetched) →
    rangeBad s (r.d.base + 32 * ((r.d.pos + r.fetched + k) % r.d.size[0])) 32 = false) :
    r.burstBytes.any (byteBad s) = false := by
  unfold RingRun.burstBytes RingRun.burst RingRun.addr
  rw [List.any_flatMap, List.any_map, List.any_eq_false]
  intro k hk
  have := h k (List.mem_range.1 hk)
  unfold rangeBad at this
  rw [Bool.not_eq_true, Function.comp_apply, List.any_map, ← Nat.add_assoc]
  exact this

theorem recordStarted_own {b : Bay} {r : RingRun} {s : State} :
    ((recordStarted b r s).bay b).xf.active = (s.bay b).xf.active ∧
      ((recordStarted b r s).bay b).flags = (s.bay b).flags ∧ onlyBay b s (recordStarted b r s) := by
  unfold recordStarted
  extract_lets r2 w
  have hw : (w.bay b).xf.active = (s.bay b).xf.active ∧ (w.bay b).flags = (s.bay b).flags ∧ onlyBay b s w :=
    ⟨by simp [w, updXf], by simp [w, updXf], onlyBay_updBay⟩
  split_ifs
  · obtain ⟨h, hf, ho⟩ := hw
    unfold advanceRing
    split
    · split_ifs
      · exact ⟨by simpa using h, by simpa using hf, onlyBay_trans ho onlyBay_updBay⟩
      · exact ⟨h, hf, ho⟩
    · exact ⟨h, hf, ho⟩
  · exact hw

theorem onlyBay_putFlagOpt {fd : Option LFlag} : onlyBay b s (putFlagOpt b fd s) := by
  cases fd with
  | none => exact ⟨rfl, fun _ _ => rfl⟩
  | some f => exact onlyBay_putFlag

theorem flagOf_putFlagOpt {fd : Option LFlag} {f : LFlag} (h : fd = some f ∨ flagOf b f s = true) :
    flagOf b f (putFlagOpt b fd s) = true := by
  unfold flagOf at h ⊢
  rw [putFlagOpt_own.2.2.2.2]
  cases fd with
  | none => exact h.resolve_left (by simp)
  | some g =>
    obtain h | h := h
    · rw [Option.some.inj h]; simp [setBit]
    · simp only [setBit, if_true, BitVec.getLsbD_or, h, Bool.true_or]

theorem recordDone_spec {no : Nat} : ((recordDone b no s).bay b).xf.active = (s.bay b).xf.active ∧
    onlyBay b s (recordDone b no s) ∧ ∀ f : LFlag, flagOf b f s = true → flagOf b f (recordDone b no s) = true := by
  unfold recordDone
  extract_lets q
  have hq : q.1.active = (s.bay b).xf.active := by
    show (endRecord no (s.bay b).xf).1.active = _
    unfold endRecord
    split
    · split_ifs <;> rfl
    · rfl
  have hf (f : LFlag) : flagOf b f (updXf b (fun _ => q.1) s) = flagOf b f s := by simp [flagOf, updXf]
  refine ⟨?_, onlyBay_trans onlyBay_updBay onlyBay_putFlagOpt, fun f h => flagOf_putFlagOpt (.inr ((hf f).trans h))⟩
  rw [putFlagOpt_own.2.2.2.1]
  simpa [updXf] using hq

theorem exec_recordStart {l : List Byte} {ls : List (List Byte)} (hd : dieRuns s = true) (hr : (s.bay b).xf.ring = some r)
    (hl : r.buf = l :: ls) (hh : (s.bay b).xf.halt = false) :
    exec (.ringRecordStart b) s = .next (startRecord b r l s) := by
  change execRingRecordStart b s = _
  rw [execRingRecordStart, hr]
  simp only [hl, alive_of_dieRuns hd, hh, Bool.not_false, Bool.and_self, if_true]

theorem channelHalt_spec {code : Nat} : ringOnly s (haltChannel b code s) ∧
    (haltChannel b code s).bays = (updXf b (fun x => { x with halt := true, hcode := if x.halt then x.hcode else BitVec.ofNat 8 code }) s).bays :=
  ⟨fun a ha => ringOnly_record a ha, bays_record⟩

/-- Settles O32: each step's outcome from its guard, a completion by what every kind of transfer leaves to the bays and the
bytes it writes. -/
theorem transferEvents : Obligations.TransferEvents := by
  unfold Obligations.TransferEvents
  refine ⟨fun b e q s hq hc hn => ?_, fun b slot e s hd hm he hr hb => ?_, fun b r s hd hm hr hh hc _ => ?_,
    fun b r l ls s hd hr hl hh hdb => ?_⟩
  · refine ⟨_, congrArg Host.Outcome.next (if_pos hc), onlyBay_updBay, ?_⟩
    rw [updXf, bay_updBay]
    simp only [Xfer.startHead, hq]
  · have hx : exec (.transferComplete b slot b .clean) s = .next (finishXfer b slot.val e s) := by
      change execTransferComplete b slot b .clean s = _
      rw [execTransferComplete, if_pos (alive_of_dieRuns hd), he]
      exact congrArg Host.Outcome.next (guarded_clean hm)
    obtain ⟨hf, ha, hq, hst, ho, hdone⟩ := finishXfer_spec (i := slot.val) hr hb
    refine ⟨_, hx, hf, ha, hq, hst, fun c h => ?_, ?_⟩
    · obtain ⟨-, -, cf, cd, ce⟩ := ho c h
      exact ⟨cf, cd, ce⟩
    · cases hop : e.op <;> rw [hop] at hdone <;> exact hdone
  · intro n hs
    have hx : exec (.ringBurstFetch b b .clean) s = .next (fetchBurst b r s) := by
      change execRingBurstFetch b b .clean s = _
      rw [execRingBurstFetch, hr]
      simp only [alive_of_dieRuns hd, hh, hc, Bool.not_false, Bool.and_self, if_true]
      exact congrArg Host.Outcome.next (guarded_clean hm)
    have hf : fetchBurst b r s = updXf b (fun x => { x with
        ring := some { r with buf := r.buf ++ r.burst.map (fun a => s.ld a 32), fetched := r.fetched + n }
        rd := satAdd 64 x.rd (32 * n) }) (traffic (byteSpans r.burstBytes) [] (passPorts b r.burstBytes [] s)) := by
      unfold fetchBurst
      exact if_neg (by rw [burst_sound hs]; decide)
    refine ⟨_, hx, ?_⟩
    have hk := baysKept_passPorts (b := b) (rd := r.burstBytes) (wr := []) (s := s)
    rw [hf]
    have own : (passPorts b r.burstBytes [] s).bay b = (traffic (byteSpans r.burstBytes) [] (passPorts b r.burstBytes [] s)).bay b := rfl
    refine ⟨rfl, fun c st => ?_, fun c => ?_, ?_⟩
    · obtain ⟨ca, cx, -⟩ := hk c
      by_cases h : c = b
      · subst h
        cases st
        · simpa [updXf, State.strm, Bays.strm] using ca
        · simpa [updXf, State.strm, Bays.strm] using cx
      · rw [State.strm, updXf, bay_updBay_ne h]
        cases st
        · exact ca
        · exact cx
    · obtain ⟨-, -, cf, cd, ce⟩ := hk c
      by_cases h : c = b
      · subst h
        exact ⟨by simpa [updXf] using cf, by simpa [updXf] using cd, fun h => absurd rfl h⟩
      · rw [updXf, bay_updBay_ne h]
        exact ⟨cf, cd, fun _ => ce⟩
    · rw [updXf, bay_updBay]
      simp only [RingRun.burst, RingRun.addr, List.map_map, Function.comp_def, ← Nat.add_assoc]
      rfl
  · have hx := exec_recordStart hd hr hl hh
    unfold startRecord at hx
    simp only [hdb] at hx
    generalize hact : ringAct b l s = act at hx ⊢
    cases act with
    | bad =>
      obtain ⟨hro, hb⟩ := channelHalt_spec (b := b) (code := 0x43) (s := s)
      have hbay : (haltChannel b 0x43 s).bay b = _ := congrArg (fun v : Vector Bays 12 => v[b]) hb
      refine ⟨_, hx, hro, ?_, ?_, ?_, ?_⟩
      · rw [hbay]; simp [updXf, State.updBay, State.setBay]
      · rw [hbay]; simp [updXf, State.updBay, State.setBay, hh]
      · rw [hbay]; simp [updXf, State.updBay, State.setBay]
      · rw [State.strm, hbay]; simp [updXf, State.updBay, State.setBay, State.strm, Bays.strm, State.bay]
    | start op fd =>
      intro hfit
      simp only [if_pos hfit] at hx
      obtain ⟨ha, -, ho⟩ := recordStarted_own (b := b) (r := r)
        (s := updXf b (fun x => { x with active := x.active ++ [⟨op, fd, some r.no, (s.strm b .a).pc, none⟩] }) s)
      exact ⟨_, hx, onlyBay_trans onlyBay_updBay ho, ⟨op, fd, some r.no, (s.strm b .a).pc, none⟩, by
        rw [ha]; simp [updXf], rfl, rfl, rfl⟩
    | darm d1 d fd =>
      obtain ⟨ra, rf, ro⟩ := recordStarted_own (b := b) (r := r) (s := unpendAll b d1 (putDesc b d1 (some d) s))
      dsimp only at hx
      generalize recordStarted b r (unpendAll b d1 (putDesc b d1 (some d) s)) = u at ra rf ro hx
      obtain ⟨da, dO, df⟩ := recordDone_spec (b := b) (no := r.no) (s := putFlagOpt b fd u)
      refine ⟨_, hx, onlyBay_trans (onlyBay_trans (onlyBay_trans onlyBay_putDesc onlyBay_unpendAll) ro)
        (onlyBay_trans onlyBay_putFlagOpt dO), ?_, fun f h => df f (flagOf_putFlagOpt (.inl h))⟩
      rw [da, putFlagOpt_own.2.2.2.1, ra]
      simp [unpendAll, putDesc]

end Sys2Proof.Proofs.TransferRuns
end

section
/-! PROOFS. Limited writes and the journal (LimitedWrites). -/

namespace Sys2Proof.Proofs.Journal

open Sys2Proof Sys2Proof.Machine Sys2Proof.Laws.State Sys2Proof.Laws.Memory Sys2Proof.Laws.Sparse Sys2Proof.Laws.Ops
open Sys2Proof.Proofs.Answers Sys2Proof.Proofs.Contexts Sys2Proof.Proofs.LinkEvents

variable {s t u : State} {w : Wlim} {q : OdReq} {T U : Trust} {i j n entry : Nat}

/-! ### Records of the journal (R362) -/

theorem recordAt_putRecord {v : BitVec 320} (h : v ≠ 0#320) : recordAt (T.putRecord i v) i = v := get_set_self_of_ne h

theorem recordAt_putRecord_ne {v : BitVec 320} (h : j ≠ i) : recordAt (T.putRecord i v) j = recordAt T j := get_set_ne h

/-- Records that are the same, or neither of them committed, commit the same values. -/
theorem committed_congr (h : ∀ i, recordAt U i = recordAt T i ∨
    recCommitted (recordAt U i) = false ∧ recCommitted (recordAt T i) = false) : committed U entry = committed T entry := by
  unfold committed
  refine List.filterMap_congr fun i _ => ?_
  obtain h | ⟨hu, ht⟩ := h i
  · rw [h]
  · simp [hu, ht]

/-- The value of the last record stands last among its entry's. -/
theorem committed_last {v : Nat} (hn : n < 96) (hc : recCommitted (recordAt T n) = true) (he : recEntry (recordAt T n) = entry)
    (hv : recValue (recordAt T n) = v) (hz : ∀ j, n < j → j < 96 → recordAt T j = 0#320) :
    ∃ l, committed T entry = l ++ [v] := by
  have hr : List.range 96 = List.range' 0 n ++ (n :: List.range' (n + 1) (95 - n)) := by
    have h := List.range'_append (s := 0) (m := n) (n := 96 - n) (step := 1)
    rw [Nat.one_mul, Nat.zero_add, show 96 - n = 95 - n + 1 by omega, List.range'_succ] at h
    rw [List.range_eq_range', h]
    congr 1
    omega
  have htail : (List.range' (n + 1) (95 - n)).filterMap (fun i =>
      if recCommitted (recordAt T i) && recEntry (recordAt T i) == entry then some (recValue (recordAt T i)) else none) = [] := by
    rw [List.filterMap_eq_nil_iff]
    intro j hj
    rw [List.mem_range'_1] at hj
    simp [hz j (by omega) (by omega), recCommitted]
  refine ⟨(List.range' 0 n).filterMap (fun i =>
    if recCommitted (recordAt T i) && recEntry (recordAt T i) == entry then some (recValue (recordAt T i)) else none), ?_⟩
  unfold committed
  dsimp only
  rw [hr, List.filterMap_append, List.filterMap_cons, htail]
  simp [hc, he, hv]

/-! ### An intent with its COMMIT bit (R362) -/

theorem recIntent_and_commit {v : BitVec 256} : recIntent entry v &&& 2#320 = 0#320 := by
  apply BitVec.eq_of_getLsbD_eq
  intro k hk
  by_cases h1 : k = 1
  · subst h1
    have : (recIntent entry v).getLsbD 1 = false := by
      rw [recIntent, BitVec.getLsbD_ofNat, Nat.testBit_eq_decide_div_mod_eq]
      simp only [Bool.and_eq_false_iff, decide_eq_false_iff_not]
      right
      omega
    rw [BitVec.getLsbD_and, this]
    simp
  · rw [BitVec.getLsbD_and]
    have : (2#320).getLsbD k = false := by
      rw [BitVec.getLsbD_ofNat, Nat.testBit_two_pow (n := 1), decide_eq_false (Ne.symm h1), Bool.and_false]
    rw [this, Bool.and_false, BitVec.getLsbD_zero]

theorem toNat_committed {v : BitVec 256} (he : entry ≤ 4) :
    (recIntent entry v ||| 2#320).toNat = 3 + entry * 2 ^ 16 + v.toNat * 2 ^ 64 := by
  rw [← BitVec.add_eq_or_of_and_eq_zero _ _ recIntent_and_commit, BitVec.toNat_add, recIntent, BitVec.toNat_ofNat]
  have := v.isLt
  rw [BitVec.toNat_ofNat]
  omega

theorem committed_intent {v : BitVec 256} (he : entry ≤ 4) : recCommitted (recIntent entry v ||| 2#320) = true ∧
    recEntry (recIntent entry v ||| 2#320) = entry ∧ recValue (recIntent entry v ||| 2#320) = v.toNat := by
  have hv := v.isLt
  refine ⟨?_, ?_, ?_⟩
  · rw [recCommitted, BitVec.getLsbD, BitVec.getLsbD, toNat_committed he, Nat.testBit_eq_decide_div_mod_eq,
      Nat.testBit_eq_decide_div_mod_eq]
    simp only [Bool.and_eq_true, Bool.not_eq_true', decide_eq_true_eq, decide_eq_false_iff_not]
    omega
  · rw [recEntry, toNat_committed he, bitsAt]
    omega
  · rw [recValue, toNat_committed he]
    omega

theorem ne_zero_of_bit {x : BitVec 320} {k : Nat} (h : x.getLsbD k = true) : x ≠ 0#320 := by
  rintro rfl
  simp at h

theorem burned_ne_zero {x : BitVec 320} {v : BitVec 256} : x ||| recIntent entry v ≠ 0#320 := by
  refine ne_zero_of_bit (k := 0) ?_
  rw [BitVec.getLsbD_or, recIntent, BitVec.getLsbD_ofNat, Nat.testBit_zero]
  simp only [Bool.or_eq_true, Bool.and_eq_true, decide_eq_true_eq]
  exact .inr (by omega)

theorem commit_ne_zero {x : BitVec 320} : x ||| 2#320 ≠ 0#320 := ne_zero_of_bit (k := 1) (by simp)

theorem void_getLsbD {x : BitVec 320} : (x ||| 4#320).getLsbD 2 = true := by simp

/-! ### The start of a limited write (R363) -/

theorem freeRecord_some (h : freeRecord T = some n) : n < 96 ∧ recordAt T n = 0#320 ∧ ∀ j < n, recordAt T j ≠ 0#320 := by
  rw [freeRecord, List.find?_range_eq_some] at h
  obtain ⟨h0, hn, hj⟩ := h
  exact ⟨List.mem_range.1 hn, by simpa using h0, fun j hlt => by simpa using hj j hlt⟩

theorem exec_limited {c : Instr} {ix : Nat} (hc : (c, ix, entry) ∈ ([(.odSecurityVersion, 0x9010, 1), (.odOwnerKey, 0x9020, 2),
    (.odTileRetire, 0x9030, 3), (.odDebugClose, 0x9040, 4)] : List (Instr × Nat × Nat)))
    (h : odTaken ix 1 (fun _ => true) s = some q) : exec c s = .next (startLimited entry q s) := by
  have ha : applyLimited ix entry s = startLimited entry q s := by unfold applyLimited; rw [h]
  simp only [List.mem_cons, Prod.mk.injEq, List.mem_nil_iff, or_false] at hc
  obtain ⟨rfl, rfl, rfl⟩ | ⟨rfl, rfl, rfl⟩ | ⟨rfl, rfl, rfl⟩ | ⟨rfl, rfl, rfl⟩ := hc <;> exact congrArg Host.Outcome.next ha

/-- The write whose lowest free record is `n`. -/
def begun (entry n : Nat) (q : OdReq) (s : State) : Wlim :=
  ⟨q, entry, BitVec.ofNat 256 (leNat q.value), n, false, s.pwr.low == 0⟩

theorem startLimited_full (h : freeRecord s.trust = none) : startLimited entry q s = finish q 0x0E s := by
  unfold startLimited; rw [h]

theorem startLimited_free (h : freeRecord s.trust = some n) : startLimited entry q s =
    burnSome { s with od := { s.od with cur := none }, trust := { s.trust with wlim := some (begun entry n q s) } } := by
  unfold startLimited; rw [h]; rfl

theorem burnSome_idle (h : s.trust.wlim = some w) (hp : w.pulse = false) : burnSome s = s := by
  unfold burnSome; simp only [h, hp, Bool.false_and, Bool.false_eq_true, if_false]

theorem burnSome_pulse (h : s.trust.wlim = some w) (hp : w.pulse = true) (hi : w.intentDone = false) : burnSome s =
    drew 1 (updTrust (fun t => t.putRecord w.rcd
      (recordAt t w.rcd ||| (recIntent w.entry w.value &&& BitVec.ofNat 320 (freeVal s)))) s) := by
  unfold burnSome; simp only [h, hp, hi, Bool.not_false, Bool.and_self, if_true]; rfl

/-- What a limited write that found the free record `n` begins with. -/
theorem startLimited_spec (hw : Sparse.wf (fun _ => 0#320) s.trust.journal = true) (h : freeRecord s.trust = some n) :
    ∃ J k, startLimited entry q s = { s with
        od := { s.od with cur := none }, trust := { s.trust with journal := J, wlim := some (begun entry n q s) }, free := k } ∧
      (s.pwr.low ≠ 0 → J = s.trust.journal) ∧
      (∃ x, Sparse.get (fun _ => 0#320) J n = recIntent entry (BitVec.ofNat 256 (leNat q.value)) &&& x) ∧
      ∀ j, j ≠ n → Sparse.get (fun _ => 0#320) J j = recordAt s.trust j := by
  obtain ⟨-, hz, -⟩ := freeRecord_some h
  rw [startLimited_free h]
  by_cases hl : s.pwr.low = 0
  · rw [burnSome_pulse rfl (beq_iff_eq.2 hl) rfl]
    have hr : recordAt s.trust n ||| (recIntent entry (BitVec.ofNat 256 (leNat q.value)) &&& BitVec.ofNat 320 (freeVal s)) =
        recIntent entry (BitVec.ofNat 256 (leNat q.value)) &&& BitVec.ofNat 320 (freeVal s) := by rw [hz, BitVec.zero_or]
    exact ⟨_, _, rfl, fun h => absurd hl h, ⟨BitVec.ofNat 320 (freeVal s), (get_set_self hw).trans hr⟩, fun j hj => get_set_ne hj⟩
  · rw [burnSome_idle rfl (beq_eq_false_iff_ne.2 hl)]
    exact ⟨_, _, rfl, fun _ => rfl, ⟨0#320, hz.trans BitVec.and_zero.symm⟩, fun j _ => rfl⟩

/-! ### The end of an intent (R363, R422, R424) -/

theorem exec_intentDone (hw : s.trust.wlim = some w) (ok : Bool) : exec (.journalIntentDone ok) s = .next
    (if intentEnds w s then
       if !journalRuns s then updTrust (burnIntent w) s
       else if ok then readIntent w s
       else if s.pwr.low = 0 then
         answer w.req 0x0F (endLimited w (drew 1 (updTrust (fun t => t.putRecord w.rcd (badRecord w s)) s)))
       else s
     else s) := by
  change execJournalIntentDone ok s = _
  rw [execJournalIntentDone, hw]

theorem exec_commitDone (hw : s.trust.wlim = some w) : exec .journalCommitDone s = .next
    (if pulseHeld s && w.pulse && w.intentDone then
       let s := endLimited w (updTrust (fun t => t.putRecord w.rcd (recordAt t w.rcd ||| 2#320)) s)
       if s.pwr.st == .run then
         let s := commitEffect w s
         if stewardRuns s then answer w.req 0 s else s
       else s
     else s) := by
  change execJournalCommitDone s = _
  rw [execJournalCommitDone, hw]

/-- The record an intent leaves that read back wrong: void, with every bit burned before. -/
theorem badRecord_spec : badRecord w s ≠ 0#320 ∧ recVoid (badRecord w s) = true ∧
    badRecord w s &&& recordAt s.trust w.rcd = recordAt s.trust w.rcd := by
  have hv : recVoid (badRecord w s) = true := void_getLsbD
  refine ⟨ne_zero_of_bit hv, hv, ?_⟩
  apply BitVec.eq_of_getLsbD_eq
  intro k _
  rw [badRecord, BitVec.getLsbD_and, BitVec.getLsbD_or, BitVec.getLsbD_or]
  cases (recordAt s.trust w.rcd).getLsbD k <;> simp

/-- Records that commit the same values give the same values in force. -/
theorem inForce_congr (hf : U.fuses = T.fuses) (h : ∀ e, committed U e = committed T e) : svnNow U = svnNow T ∧
    ownerHash U = ownerHash T ∧ mapNext U = mapNext T ∧ policyClosed U = policyClosed T := by
  unfold svnNow ownerHash mapNext policyClosed
  simp only [h, hf, and_self]

/-! ### The end of a COMMIT pulse (R389, R391) -/

/-- One slot of the sessions an owner key closes. -/
def closeOther (q : OdReq) (s : State) (i : Slot) : State :=
  if s.sess[i].ph = .opened ∧ s.sess[i].role ≠ 0 ∧ (i ≠ q.slot ∨ q.mute = true) then closeSlot i s else s

theorem closeOwned_eq : closeOwned q s = (List.finRange 4).foldl (closeOther q) s := rfl

theorem answered_closeOwned : Answered s (closeOwned q s) :=
  answered_foldl _ (fun s i => by split; exacts [answered_closeSlot i s, .refl s]) _ s

theorem sess_closeSlot {i k : Slot} : (closeSlot i s).sess[k] = if k = i ∧ s.sess[i].ph ≠ .free then Session.reset else s.sess[k] := by
  unfold closeSlot
  by_cases h : s.sess[i].ph = .free
  · rw [if_pos h, if_neg fun e => e.2 h]
  · rw [if_neg h]
    change (freeSlot i s).sess[k] = _
    by_cases hk : k = i
    · subst hk; rw [sess_freeSlot_self, if_pos ⟨rfl, h⟩]
    · rw [sess_freeSlot_ne hk, if_neg fun e => hk e.1]

theorem free_closeSlot {i k : Slot} (h : s.sess[k].ph = .free) : (closeSlot i s).sess[k].ph = .free := by
  rw [sess_closeSlot]; split_ifs
  · rfl
  · exact h

theorem free_closeLeft {k : Slot} (h : s.sess[k].ph = .free) : (closeLeft s).sess[k].ph = .free := by
  unfold closeLeft
  generalize s.od.closeAfter = l
  induction l generalizing s with
  | nil => exact h
  | cons e l ih =>
    refine ih ?_
    dsimp only
    split_ifs
    · exact free_closeSlot h
    · exact h

theorem free_answer {k : Slot} (h : s.sess[k].ph = .free) : (answer q n s).sess[k].ph = .free := by
  have hs : (creditBack (some 0) s).sess[k].ph = .free := by rw [linkOnly_creditBack (some 0) s]; exact h
  unfold answer
  extract_lets u
  split_ifs
  · exact hs
  · exact free_closeLeft (by rw [linkOnly_respond]; exact hs)

theorem free_closeOther {k i : Slot} (h : s.sess[k].ph = .free) : (closeOther q s i).sess[k].ph = .free := by
  unfold closeOther
  split_ifs
  · exact free_closeSlot h
  · exact h

theorem sess_closeOther_ne {k i : Slot} (h : k ≠ i) : (closeOther q s i).sess[k] = s.sess[k] := by
  unfold closeOther
  split_ifs
  · rw [sess_closeSlot, if_neg fun e => h e.1]
  · rfl

theorem free_closeOthers_of_free {k : Slot} {l : List Slot} (h : s.sess[k].ph = .free) :
    (l.foldl (closeOther q) s).sess[k].ph = .free := by
  induction l generalizing s with
  | nil => exact h
  | cons i l ih => exact ih (free_closeOther h)

theorem free_closeOthers {k : Slot} {l : List Slot} (hl : k ∈ l)
    (h : s.sess[k].ph = .free ∨ s.sess[k].ph = .opened ∧ s.sess[k].role ≠ 0 ∧ k ≠ q.slot) :
    (l.foldl (closeOther q) s).sess[k].ph = .free := by
  induction l generalizing s with
  | nil => simp at hl
  | cons i l ih =>
    rw [List.foldl_cons]
    obtain hf | ⟨ho, hr, hk⟩ := h
    · exact free_closeOthers_of_free (free_closeOther hf)
    by_cases hi : k = i
    · subst hi
      refine free_closeOthers_of_free ?_
      rw [closeOther, if_pos ⟨ho, hr, .inl hk⟩, sess_closeSlot, if_pos ⟨rfl, by rw [ho]; decide⟩]
      rfl
    · exact ih ((List.mem_cons.1 hl).resolve_left hi) (.inr (by rw [sess_closeOther_ne hi]; exact ⟨ho, hr, hk⟩))

theorem free_closeOwned {k : Slot} (ho : s.sess[k].ph = .opened) (hr : s.sess[k].role ≠ 0) (hk : k ≠ q.slot) :
    (closeOwned q s).sess[k].ph = .free := by
  rw [closeOwned_eq]
  exact free_closeOthers (List.mem_finRange k) (.inr ⟨ho, hr, hk⟩)

/-- The state of a committed record, before its effect and its answer. -/
def committedBy (w : Wlim) (s : State) : State :=
  endLimited w (updTrust (fun t => t.putRecord w.rcd (recordAt t w.rcd ||| 2#320)) s)

/-- The journal of a state in which the record of `w` alone was committed. -/
def Commits (w : Wlim) (s t : State) : Prop := t.trust.fuses = s.trust.fuses ∧ t.trust.journal = (committedBy w s).trust.journal

theorem recordAt_committedBy : recordAt (committedBy w s).trust w.rcd = recordAt s.trust w.rcd ||| 2#320 :=
  recordAt_putRecord commit_ne_zero

theorem recordAt_committedBy_ne (h : j ≠ w.rcd) : recordAt (committedBy w s).trust j = recordAt s.trust j :=
  recordAt_putRecord_ne h

theorem recordAt_congr (h : U.journal = T.journal) : recordAt U i = recordAt T i := by unfold recordAt; rw [h]

theorem committed_congr_journal (h : U.journal = T.journal) : committed U entry = committed T entry :=
  committed_congr fun _ => .inl (recordAt_congr h)

/-- The value committed last is the entry's last one. -/
theorem committedBy_last (hn : w.rcd < 96) (he : w.entry ≤ 4) (hr : recordAt s.trust w.rcd = recIntent w.entry w.value)
    (hz : ∀ j : Nat, w.rcd < j → j < 96 → recordAt s.trust j = 0#320) (hj : t.trust.journal = (committedBy w s).trust.journal) :
    ∃ l, committed t.trust w.entry = l ++ [w.value.toNat] := by
  obtain ⟨hc, hent, hv⟩ := committed_intent (v := w.value) he
  rw [committed_congr_journal hj]
  have h := recordAt_committedBy (s := s) (w := w)
  rw [hr] at h
  refine committed_last hn ?_ ?_ ?_ fun j hlt hj => ?_
  · rw [h, hc]
  · rw [h, hent]
  · rw [h, hv]
  · rw [recordAt_committedBy_ne (by omega), hz j hlt hj]

/-- A commit in RUN: the effect, and the answer of a steward that runs. -/
def ended (w : Wlim) (s : State) : State :=
  let u := commitEffect w (committedBy w s)
  if stewardRuns u then answer w.req 0 u else u

theorem exec_commit_run (hw : s.trust.wlim = some w) (hp : w.pulse = true) (hi : w.intentDone = true) (hs : s.pwr.st = .run) :
    exec .journalCommitDone s = .next (ended w s) := by
  have hh : pulseHeld s = true := by simp [pulseHeld, hs]
  have hr : ((committedBy w s).pwr.st == PwrSt.run) = true := by rw [show (committedBy w s).pwr = s.pwr from rfl, hs]; rfl
  rw [exec_commitDone hw, hh, hp, hi]
  exact congrArg Host.Outcome.next (if_pos hr)

theorem answered_ended : Answered (commitEffect w (committedBy w s)) (ended w s) := by
  unfold ended
  extract_lets u
  split_ifs
  · exact answered_answer _ _ u
  · exact .refl u

theorem commitEffect_owner (he : w.entry = 2) : commitEffect w u = closeWriter w.req (closeOwned w.req u) := by
  simp only [commitEffect, he]

theorem commitEffect_policy (he : w.entry = 4) : commitEffect w u = closePolicy u := by
  simp only [commitEffect, he]

theorem answered_closeWriter : Answered s (closeWriter q s) := by
  unfold closeWriter
  split_ifs
  · exact .refl s
  · exact ⟨s.link, s.sess, s.od.cur, _, s.rcd.gated, s.trust.wlim, s.ms.dieBad, id, id, rfl⟩

theorem sess_closeWriter : (closeWriter q s).sess = s.sess := by
  unfold closeWriter
  split_ifs <;> rfl

/-- Memory, the fuses and the journal are kept, and no limited write goes on. -/
def Settled (s t : State) : Prop := t.mem = s.mem ∧ t.trust.wlim = none ∧ t.trust.fuses = s.trust.fuses ∧ t.trust.journal = s.trust.journal

theorem settled_of_answered (h : Answered s t) (hs : s.trust.wlim = none) : Settled s t := by
  obtain ⟨l, x, c, o, g, v, d, -, hv, rfl⟩ := h
  exact ⟨rfl, hv hs, rfl, rfl⟩

theorem commitEffect_settled (hu : u.trust.wlim = none) : Settled u (commitEffect w u) := by
  by_cases h2 : w.entry = 2
  · rw [commitEffect_owner h2]
    exact settled_of_answered (answered_closeOwned.trans answered_closeWriter) hu
  by_cases h4 : w.entry = 4
  · rw [commitEffect_policy h4]
    exact ⟨rfl, hu, rfl, rfl⟩
  · have : commitEffect w u = u := by simp only [commitEffect]
    rw [this]
    exact ⟨rfl, hu, rfl, rfl⟩

theorem ended_spec : (ended w s).mem = s.mem ∧ (ended w s).trust.wlim = none ∧ Commits w s (ended w s) := by
  obtain ⟨hm, hw, hf, hj⟩ := commitEffect_settled (w := w) (u := committedBy w s) rfl
  obtain ⟨am, aw, af, aj⟩ := settled_of_answered (answered_ended (w := w) (s := s)) hw
  exact ⟨am.trans hm, aw, af.trans hf, aj.trans hj⟩

/-- An owner key closes the sessions of others. -/
theorem ended_closes {k : Slot} (he : w.entry = 2) (ho : s.sess[k].ph = .opened) (hr : s.sess[k].role ≠ 0) (hk : k ≠ w.req.slot) :
    (ended w s).sess[k].ph = .free := by
  have hc : (commitEffect w (committedBy w s)).sess[k].ph = .free := by
    have h : (closeOwned w.req (committedBy w s)).sess[k].ph = .free := free_closeOwned ho hr hk
    rwa [commitEffect_owner he, sess_closeWriter]
  unfold ended
  extract_lets u
  split_ifs
  · exact free_answer hc
  · exact hc

/-- A closed policy puts the TAP in Test-Logic-Reset and leaves the pins of a group it does not permit at zero. -/
theorem ended_closed (he : w.entry = 4) : (ended w s).tap.ir = 2#8 ∧ (ended w s).tap.maSts = 0#2 ∧
    ((ended w s).od.tmxNow ≠ s.od.tmxNow → tmxPins (ended w s) = 0#16) := by
  have hu : commitEffect w (committedBy w s) = closePolicy (committedBy w s) := commitEffect_policy he
  obtain ⟨l, x, c, o, g, v, d, -, -, ha⟩ := answered_ended (w := w) (s := s)
  rw [hu] at ha
  rw [ha]
  refine ⟨rfl, rfl, fun hne => ?_⟩
  generalize hmay : (tmxGroups (committedBy w s).trust).getLsbD (committedBy w s).od.tmxNow = may
  cases may with
  | true => exact absurd (if_pos hmay) hne
  | false =>
    have hh : (closePolicy (committedBy w s)).tmx.hold = 16 := by
      unfold closePolicy
      simp only [hmay, Bool.false_eq_true, if_false]
    refine if_pos ?_
    change (closePolicy (committedBy w s)).tmx.hold ≠ 0
    rw [hh]
    decide

/-- Settles O52: a write begins in the lowest free record, its intent's last pulse only adds bits there, and the value committed
last is the one in force. -/
theorem limitedWrites : Obligations.LimitedWrites := by
  unfold Obligations.LimitedWrites
  refine ⟨fun c ix entry q s hc h hw => ?_, fun w ok s hw => ⟨fun he => ?_, fun hp => ?_, fun hs => ?_, fun hp => ?_⟩,
    fun w s he hw => ⟨fun ok hok => ?_, fun hj hl => ?_, fun hj hl hn => ?_⟩, fun w s hh hp hs hw hi => ?_,
    fun w s hp hs hw hi hn he1 he4 hr hz => ?_⟩
  · have hx := exec_limited hc h
    cases hf : freeRecord s.trust with
    | none =>
      rw [startLimited_full hf] at hx
      obtain ⟨l, x, c, o, g, v, d, hcur, -, ht⟩ := answered_finish q 0x0E s
      rw [ht] at hx
      exact ⟨_, hx, hcur rfl, rfl, rfl, rfl, rfl⟩
    | some n =>
      obtain ⟨J, k, hst, hl, ⟨x, hx0⟩, hj⟩ := startLimited_spec (entry := entry) (q := q) hw hf
      rw [hst] at hx
      refine ⟨_, hx, rfl, rfl, rfl, rfl, rfl, rfl, ?_, hl, (freeRecord_some hf).2.2, hj⟩
      change Sparse.get _ J n = recIntent _ _ &&& Sparse.get _ J n
      rw [hx0, ← BitVec.and_assoc, BitVec.and_self]
  · rw [exec_intentDone hw, he]; rfl
  · rw [exec_commitDone hw]
    refine congrArg Host.Outcome.next (if_neg ?_)
    obtain hp | hp | hp := hp <;> simp [hp]
  · obtain hs | hs := hs <;> simp [pulseHeld, hs]
  · simp [intentEnds, hp]
  · have hx := exec_intentDone hw ok
    rw [if_pos he] at hx
    cases hj : journalRuns s with
    | false =>
      rw [hj] at hx
      refine ⟨updTrust (burnIntent w) s, hx, ?_, recordAt_putRecord burned_ne_zero, fun j h => recordAt_putRecord_ne h⟩
      rw [if_neg (by decide), ← hw]
      rfl
    | true =>
      obtain rfl : ok = true := hok.resolve_right (by rw [hj]; decide)
      rw [hj] at hx
      exact ⟨readIntent w s, hx, rfl, recordAt_putRecord burned_ne_zero, fun j h => recordAt_putRecord_ne h⟩
  · rw [exec_intentDone hw, if_pos he, hj]
    exact congrArg Host.Outcome.next (if_neg hl)
  · have hx := exec_intentDone hw false
    rw [if_pos he, hj] at hx
    replace hx := hx.trans (congrArg Host.Outcome.next (if_pos hl))
    obtain ⟨l, x, c, o, g, v, d, -, hv, ha⟩ := answered_answer w.req 0x0F
      (endLimited w (drew 1 (updTrust (fun t => t.putRecord w.rcd (badRecord w s)) s)))
    obtain ⟨hb0, hbv, hba⟩ := badRecord_spec (w := w) (s := s)
    have hrec : recordAt (s.trust.putRecord w.rcd (badRecord w s)) w.rcd = badRecord w s := recordAt_putRecord hb0
    have hother (j : Nat) (h : j ≠ w.rcd) : recordAt (s.trust.putRecord w.rcd (badRecord w s)) j = recordAt s.trust j :=
      recordAt_putRecord_ne h
    rw [ha] at hx
    have hc (e : Nat) : committed (s.trust.putRecord w.rcd (badRecord w s)) e = committed s.trust e := by
      refine committed_congr fun i => ?_
      by_cases h : i = w.rcd
      · subst h
        refine .inr ⟨?_, hn⟩
        rw [hrec, recCommitted, show (badRecord w s).getLsbD 2 = true from hbv]
        simp
      · exact .inl (hother i h)
    have hforce := inForce_congr (T := s.trust) (U := s.trust.putRecord w.rcd (badRecord w s)) rfl hc
    exact ⟨_, hx, rfl, hv rfl, (congrArg recVoid hrec).trans hbv, (congrArg (· &&& _) hrec).trans hba, hother, hforce⟩
  · refine ⟨committedBy w s, ?_, rfl, recordAt_committedBy, fun j h => recordAt_committedBy_ne h⟩
    rw [exec_commitDone hw, hh, hp, hi]
    refine congrArg Host.Outcome.next ((if_pos rfl).trans (if_neg ?_))
    rw [show (endLimited w (updTrust (fun t => t.putRecord w.rcd (recordAt t w.rcd ||| 2#320)) s)).pwr.st = s.pwr.st from rfl, hs]
    decide
  · obtain ⟨hm, hwl, hf, hj⟩ := ended_spec (w := w) (s := s)
    obtain ⟨l, hlast⟩ := committedBy_last hn he4 hr hz hj
    refine ⟨_, exec_commit_run hw hp hi hs, hm, hwl, hf, (recordAt_congr hj).trans recordAt_committedBy,
      fun j h => (recordAt_congr hj).trans (recordAt_committedBy_ne h), fun he => ?_, fun he => ⟨?_, fun k ho hrole hk =>
        ended_closes he ho hrole hk⟩, fun he => ?_⟩
    · rw [he] at hlast
      rw [svnNow, hlast, List.getLastD_concat]
    · rw [he] at hlast
      rw [ownerHash, hlast, List.getLastD_concat]
    · obtain ⟨hir, hma, hpin⟩ := ended_closed (s := s) he
      rw [he] at hlast
      exact ⟨by simp [policyClosed, hlast], hir, hma, hpin⟩

end Sys2Proof.Proofs.Journal
end

section
/-! PROOFS. Boot stages and the firmware's fences (BootAndFences). -/

namespace Sys2Proof.Proofs.Firmware

open Sys2Proof Sys2Proof.Machine Sys2Proof.Laws.State Sys2Proof.Laws.Memory Sys2Proof.Laws.Sparse Sys2Proof.Laws.Ops
open Sys2Proof.Proofs.VectorEngine Sys2Proof.Proofs.Contexts Sys2Proof.Proofs.Journal Sys2Proof.Proofs.PageCode
open Sys2Proof.Proofs.TestPort Sys2Proof.Proofs.DeviceModes Sys2Proof.Proofs.TransferRuns

variable {s t u : State} {b : Bay} {st : Strm} {acc : FwAccess}

/-! ### What the firmware's accesses leave (R386) -/

/-- Fuses, journal, keys, sessions and the streams' PCs are kept. -/
def Firm (s t : State) : Prop :=
  (∃ f d, t.trust = { s.trust with fwRead := f, stewardDown := d }) ∧ t.sess = s.sess ∧
    ∀ b st, (t.strm b st).pc = (s.strm b st).pc

/-- The run and the record are kept, but for the two entries a firmware may write. -/
def Quiet (s t : State) : Prop :=
  (∃ p, t.run = { s.run with replayable := p }) ∧ ∃ p o, t.rcd = { s.rcd with stopOn := p, on := o }

/-- The record ring reads as before. -/
def RingKept (s t : State) : Prop := ∀ a, ringBase ≤ a → a < ringBase + 2 ^ 29 → t.rd a = s.rd a

theorem Firm.refl : Firm s s := ⟨⟨_, _, rfl⟩, rfl, fun _ _ => rfl⟩

theorem Quiet.refl : Quiet s s := ⟨⟨_, rfl⟩, _, _, rfl⟩

theorem RingKept.refl : RingKept s s := fun _ _ _ => rfl

theorem Firm.trans (h : Firm s t) (k : Firm t u) : Firm s u := by
  obtain ⟨⟨f, d, ht⟩, hs, hp⟩ := h
  obtain ⟨⟨f', d', kt⟩, ks, kp⟩ := k
  exact ⟨⟨f', d', by rw [kt, ht]⟩, ks.trans hs, fun b st => (kp b st).trans (hp b st)⟩

theorem Quiet.trans (h : Quiet s t) (k : Quiet t u) : Quiet s u := by
  obtain ⟨⟨p, hr⟩, a, o, hc⟩ := h
  obtain ⟨⟨p', kr⟩, a', o', kc⟩ := k
  exact ⟨⟨p', by rw [kr, hr]⟩, a', o', by rw [kc, hc]⟩

theorem RingKept.trans (h : RingKept s t) (k : RingKept t u) : RingKept s u := fun a ha hb => (k a ha hb).trans (h a ha hb)

theorem ringKept_of_mem (h : t.mem = s.mem) : RingKept s t := fun a _ _ => rd_congr h a

theorem quiet_of_stands (h : RecordStands s t) : Quiet s t := by
  obtain ⟨hr, hu, -, -⟩ := h
  exact ⟨⟨s.run.replayable, hu⟩, s.rcd.stopOn, s.rcd.on, hr⟩

/-- A step that leaves trust, sessions and the streams. -/
theorem firm_of (ht : t.trust = s.trust) (hs : t.sess = s.sess) (hb : ∀ b, (t.bay b).a.pc = (s.bay b).a.pc ∧ (t.bay b).x.pc = (s.bay b).x.pc) :
    Firm s t := by
  refine ⟨⟨s.trust.fwRead, s.trust.stewardDown, ht⟩, hs, fun b st => ?_⟩
  cases st
  · exact (hb b).1
  · exact (hb b).2

theorem firm_of_bays (ht : t.trust = s.trust) (hs : t.sess = s.sess) (hb : t.bays = s.bays) : Firm s t :=
  firm_of ht hs fun b => by rw [State.bay, hb]; exact ⟨rfl, rfl⟩

theorem firm_setBay {x : Bays} (ha : x.a.pc = (s.bay b).a.pc) (hx : x.x.pc = (s.bay b).x.pc) : Firm s (s.setBay b x) :=
  firm_of rfl rfl fun c => by
    by_cases hc : c = b
    · subst hc; rw [bay_setBay]; exact ⟨ha, hx⟩
    · rw [bay_setBay_ne hc]; exact ⟨rfl, rfl⟩

theorem firm_updProt {f : Prot → Prot} : Firm s (updProt b f s) := firm_setBay rfl rfl

theorem firm_updBay {f : Bays → Bays} (ha : (f (s.bay b)).a.pc = (s.bay b).a.pc) (hx : (f (s.bay b)).x.pc = (s.bay b).x.pc) :
    Firm s (s.updBay b f) := firm_setBay ha hx

theorem firm_store {a req : Nat} {v : List Byte} : Firm s (s.store a v req) := firm_of rfl rfl fun c => by
  obtain ⟨ha, hx, -⟩ := baysKept_store (s := s) (a := a) (v := v) (req := req) (via := none) c
  rw [ha, hx]
  exact ⟨rfl, rfl⟩

/-! ### What a code event changes before the firmware's write (R242, R243, R287) -/

theorem firm_updStk {n : Nat} {f : Stack → Stack} : Firm s (s.updStk n f) := by
  unfold State.updStk
  split
  · exact firm_of_bays rfl rfl rfl
  · exact .refl

theorem ite_kept {R : State → State → Prop} {c : Prop} [Decidable c] {x y : State} (h : R s x) (k : R s y) :
    R s (if c then x else y) := by
  split
  · exact h
  · exact k

theorem firm_sectorPut {a : Nat} {v : List Byte} : Firm s (sectorPut a v s) := firm_of_bays rfl rfl rfl

theorem firm_sectorSpoil {a : Nat} : Firm s (sectorSpoil a s) := firm_of_bays rfl rfl rfl

theorem firm_codes {c : Codes} : Firm s { s with codes := c } := firm_of_bays rfl rfl rfl

theorem firm_sectorCorrected {a : Nat} : Firm s (sectorCorrected a s) :=
  ite_kept (Firm.trans firm_codes firm_codes) (Firm.trans firm_codes firm_updStk)

theorem firm_sectorRead {e : SectorErr} : Firm s (sectorRead e s) := by
  simp only [sectorRead]
  generalize secDecode (errPattern e) = d
  refine ite_kept .refl ?_
  cases d with
  | report => exact firm_sectorSpoil
  | unseen => exact ite_kept .refl firm_sectorPut
  | correct f => exact firm_sectorPut.trans firm_sectorCorrected

theorem mem_updStk {n : Nat} {f : Stack → Stack} : (s.updStk n f).mem = s.mem := by
  unfold State.updStk
  split <;> rfl

theorem mem_sectorCorrected {a : Nat} : (sectorCorrected a s).mem = s.mem := by
  unfold sectorCorrected
  extract_lets
  split_ifs
  · rfl
  · exact mem_updStk

/-- The bytes of a sector that is not the ring's. -/
theorem ringKept_sectorPut {n : Nat} {v : List Byte} (hv : v.length ≤ 64)
    (hn : ¬ (ringBase ≤ n * 64 ∧ n * 64 < ringBase + 2 ^ 29)) : RingKept s (sectorPut (n * 64) v s) := by
  intro x hx hlt
  refine rd_wrRun_outside ?_
  unfold ringBase at hn hx hlt
  omega

theorem length_ld {a n : Nat} : (s.ld a n).length = n := by
  rw [State.ld, getList_eq_map, List.length_map, List.length_range']

theorem length_symApply {e : SymErrs} {v : List Byte} : (symApply e v).length = v.length := by simp [symApply]

theorem ringKept_sectorRead {e : SectorErr} (hn : ¬ (ringBase ≤ e.sec * 64 ∧ e.sec * 64 < ringBase + 2 ^ 29)) :
    RingKept s (sectorRead e s) := by
  have hl : (s.ld (e.sec * 64) 64).length = 64 := length_ld
  simp only [sectorRead]
  generalize secDecode (errPattern e) = d
  refine ite_kept .refl ?_
  cases d with
  | report => exact ringKept_of_mem rfl
  | unseen => exact ite_kept .refl (ringKept_sectorPut (by rw [length_symApply, hl]) hn)
  | correct f =>
    exact (ringKept_sectorPut (by rw [length_symApply, length_symApply, hl]) hn).trans (ringKept_of_mem mem_sectorCorrected)

/-- Reads of sectors, none of the ring's. -/
theorem readSectors_kept {R : State → State → Prop} {es : List SectorErr} {l : List Nat} (hr : ∀ s, R s s)
    (ht : ∀ s t u, R s t → R t u → R s u) (hs : ∀ s e, (∃ a ∈ l, a / 64 = e.sec) → R s (sectorRead e s)) :
    R s (readSectors es l s) := by
  rw [readSectors]
  induction es generalizing s with
  | nil => exact hr s
  | cons e es ih =>
    rw [List.foldl_cons]
    refine ht _ _ _ ?_ ih
    split_ifs with h
    · refine hs s e ?_
      simpa using (Bool.and_eq_true_iff.1 h).2
    · exact hr s

theorem firm_misread {w : Nat} {v : BitVec 64} : Firm s (misread b w v s) := by
  have hput (x : Bays) : (x.putWord w v).a.pc = x.a.pc ∧ (x.putWord w v).x.pc = x.x.pc := by
    unfold Bays.putWord
    split <;> exact ⟨rfl, rfl⟩
  have hw (s : State) : Firm s (putWord b w v s) := by
    obtain ⟨ha, hx⟩ := hput (s.bay b)
    refine (firm_setBay ha hx).trans ?_
    unfold putWord
    exact ite_kept (firm_of_bays rfl rfl rfl) .refl
  unfold misread
  exact ite_kept .refl (firm_updProt.trans (hw _))

/-- The ring lies below every scratchpad. -/
theorem not_inPage_ring {g a : Nat} (h : a < ringBase + 2 ^ 29) : ¬ InPage b g a := by
  rintro ⟨o, ho, -⟩
  unfold ringBase at h
  rw [spadAt, if_pos (by omega)] at ho
  cases ho

theorem ringKept_misread {w : Nat} {v : BitVec 64} : RingKept s (misread b w v s) := by
  unfold misread
  refine ite_kept .refl fun a _ ha => ?_
  exact (pageOnly_putWord (b := b) (v := v) rfl).2 a (not_inPage_ring ha)

theorem firm_throttle {code unit level : Nat} : Firm s (throttle code unit level s) := by
  obtain ⟨r, hr⟩ := record_frame (s := s) (ty := 0x10) (arg := unit) (len := code) (payload := level)
  refine ⟨⟨s.trust.fwRead, s.trust.stewardDown, ?_⟩, ?_, fun b st => congrArg Stream.pc strm_throttle⟩
  · exact (congrArg State.trust hr :)
  · exact (congrArg State.sess hr :)

theorem firm_askRepair {w : Nat} : Firm s (askRepair b w s) := by
  unfold askRepair
  exact ite_kept ((firm_updBay rfl rfl).trans firm_throttle) (firm_updBay rfl rfl)

/-- A byte the firmware writes, and what its read meets. -/
theorem fwStore_kept {R : State → State → Prop} {a : Nat} {v : Byte} {ev : CodeEvent} (hr : ∀ s, R s s)
    (ht : ∀ s t u, R s t → R t u → R s u) (hask : ∀ w, ev = .page w → touches (spadBay a) (partWrites [a]) w = true →
      R s (askRepair (spadBay a) w s))
    (hsec : ∀ s e, a / 64 = e.sec → R s (sectorRead e s)) (hmis : ∀ b w v s, R s (misread b w v s))
    (hfix : ∀ b i s, R s (correctedAt b 1 i s)) (hst : ∀ s, R s (traffic [] [(a, 1)] (s.store a [v] 4))) :
    R s (fwStore a v ev s) := by
  unfold fwStore guarded guardedBy
  refine ite_kept (hr s) ?_
  cases ev with
  | page w =>
    dsimp only
    split_ifs with h
    · refine hask w rfl ?_
      simpa using (Bool.and_eq_true_iff.1 h).1
    · exact hst s
  | wrong w v => exact ht _ _ _ (ite_kept (hmis _ w v s) (hr s)) (hst _)
  | fixed id i => exact ht _ _ _ (ite_kept (hfix _ _ s) (hr s)) (hst _)
  | sectors es =>
    refine ht _ _ _ (readSectors_kept hr ht fun s e h => hsec s e ?_) (hst _)
    obtain ⟨x, hx, he⟩ := h
    rw [List.nil_append] at hx
    rw [← he, List.mem_singleton.1 (List.mem_of_mem_filter hx)]
  | _ => exact hst s

theorem firm_fwStore {a : Nat} {v : Byte} {ev : CodeEvent} : Firm s (fwStore a v ev s) :=
  fwStore_kept (fun _ => .refl) (fun _ _ _ => .trans) (fun _ _ _ => firm_askRepair) (fun _ _ _ => firm_sectorRead)
    (fun _ _ _ _ => firm_misread) (fun _ _ _ => firm_codes.trans firm_updProt) (fun s => (firm_store (s := s) (a := a) (v := [v]) (req := 4)).trans (firm_of_bays rfl rfl rfl))

/-- Outside the ring, and with no repair asked for, the run, the record and the ring are kept. -/
theorem calm_fwStore {a : Nat} {v : Byte} {ev : CodeEvent} (ha : ¬ (ringBase ≤ a ∧ a < ringBase + 2 ^ 29))
    (hp : ∀ w, ev = .page w → touches (spadBay a) (partWrites [a]) w = false) :
    Quiet s (fwStore a v ev s) ∧ RingKept s (fwStore a v ev s) := by
  constructor
  · exact fwStore_kept (fun _ => .refl) (fun _ _ _ => .trans) (fun w hw ht => by rw [hp w hw] at ht; cases ht)
      (fun _ _ _ => quiet_of_stands recordStands_sectorRead) (fun _ _ _ _ => quiet_of_stands recordStands_misread)
      (fun _ _ _ => quiet_of_stands ⟨rfl, rfl, rfl, rfl⟩) (fun _ => quiet_of_stands ⟨rfl, rfl, rfl, rfl⟩)
  · refine fwStore_kept (fun _ => .refl) (fun _ _ _ => .trans) (fun w hw ht => by rw [hp w hw] at ht; cases ht)
      (fun _ e he => ringKept_sectorRead ?_) (fun _ _ _ _ => ringKept_misread)
      (fun _ _ _ => ringKept_of_mem rfl) (fun s x hx hlt => ?_)
    · unfold ringBase at ha ⊢
      omega
    · refine rd_store_outside (req := 4) ?_
      rw [List.length_singleton]
      omega

/-! ### The accesses one by one -/

/-- The access is no write that may ask for a repair. -/
def AsksNone (acc : FwAccess) : Prop := ∀ (a : Nat) (v : Byte) (w : Nat), acc ≠ .writeSpad a v (.page w)

/-- What an access may do to the state: the first part always, the rest where it asks for no repair. -/
def Lets (acc : FwAccess) (s t : State) : Prop := Firm s t ∧ (AsksNone acc → Quiet s t ∧ RingKept s t)

theorem lets_of (hf : Firm s t) (hq : Quiet s t) (hr : RingKept s t) : Lets acc s t := ⟨hf, fun _ => ⟨hq, hr⟩⟩

theorem lets_refl : Lets acc s s := lets_of .refl .refl .refl

/-- An access of units that neither the run nor the record, memory nor the security die sees. -/
theorem lets_apart (ht : t.trust = s.trust) (hs : t.sess = s.sess) (hb : t.bays = s.bays) (hm : t.mem = s.mem)
    (hr : t.run = s.run) (hc : t.rcd = s.rcd) : Lets acc s t :=
  lets_of (firm_of_bays ht hs hb) ⟨⟨s.run.replayable, hr⟩, s.rcd.stopOn, s.rcd.on, hc⟩ (ringKept_of_mem hm)

theorem lets_fwGets {v : List Byte} : Lets acc s (fwGets v s) :=
  lets_of ⟨⟨v, s.trust.stewardDown, rfl⟩, rfl, fun _ _ => rfl⟩ .refl .refl

theorem lets_countFault {code bay unit : Nat} : Lets acc s (countFault code bay unit s) := lets_apart rfl rfl rfl rfl rfl rfl

/-- A change of one bay that keeps its streams' PCs. -/
theorem lets_setBay {x : Bays} (ha : x.a.pc = (s.bay b).a.pc) (hx : x.x.pc = (s.bay b).x.pc) : Lets acc s (s.setBay b x) :=
  lets_of (firm_setBay ha hx) .refl .refl

theorem Lets.trans (h : Lets acc s t) (k : Lets acc t u) : Lets acc s u :=
  ⟨h.1.trans k.1, fun hn => ⟨(h.2 hn).1.trans (k.2 hn).1, (h.2 hn).2.trans (k.2 hn).2⟩⟩

theorem lets_bn {f : Bn → Bn} : Lets acc s (updBn f s) := lets_apart rfl rfl rfl rfl rfl rfl

theorem lets_bnCommand {op : Nat} {x : BnArgs} {trng : Nat} : Lets acc s (bnCommand op x trng s) := by
  unfold bnCommand
  refine ite_kept ?_ lets_refl
  exact ite_kept (lets_bn.trans lets_countFault) lets_bn

theorem lets_drew {n : Nat} : Lets acc s (drew n s) := lets_apart rfl rfl rfl rfl rfl rfl

theorem lets_bnReason {op : Nat} {y : BnWhy} : Lets acc s (bnReason op y s) :=
  ite_kept (lets_bn.trans lets_drew) lets_bn

theorem lets_bnAbortWith {r : BnRun} {y : BnWhy} : Lets acc s (bnAbortWith r y s) :=
  (lets_bn.trans lets_bnReason).trans lets_countFault

theorem lets_bnAbortNow : Lets acc s (bnAbortNow s) := by
  unfold bnAbortNow
  split
  · exact ite_kept lets_bnAbortWith lets_refl
  · exact lets_refl

theorem lets_cureSlots {l : List (Fin 64)} : Lets acc s (cureSlots l s) := by
  unfold cureSlots
  induction l generalizing s with
  | nil => exact lets_refl
  | cons i l ih => exact Lets.trans (lets_apart rfl rfl rfl rfl rfl rfl) ih

theorem lets_bnLenWrite {i : Fin 64} {n : BitVec 7} : Lets acc s (bnLenWrite i n s) := by
  unfold bnLenWrite
  exact ite_kept lets_bn (lets_cureSlots.trans lets_bn)

theorem lets_stewardRead {off : Nat} {ue : Bool} : Lets acc s (stewardRead off ue s) := by
  unfold stewardRead
  refine ite_kept ?_ lets_fwGets
  refine lets_of ⟨⟨s.trust.fwRead, true, rfl⟩, rfl, fun _ _ => rfl⟩ .refl .refl

theorem lets_putImem {ix : Nat} {v : BitVec 64} : Lets acc s (putImem b st ix v s) := by
  unfold putImem cure updProt
  refine Lets.trans (lets_setBay ?_ ?_) (lets_setBay rfl rfl) <;> cases st <;> rfl

theorem lets_putDmem {ix : Nat} {v : W32} : Lets acc s (putDmem b st ix v s) := by
  unfold putDmem cure updProt
  refine Lets.trans (lets_setBay ?_ ?_) (lets_setBay rfl rfl) <;> cases st <;> rfl

theorem lets_armWaits : Lets acc s (armWaits s) := by
  refine lets_of (firm_of rfl rfl fun b => ?_) .refl .refl
  rw [armWaits, bay_mapBays, tickUnits]
  dsimp only
  split_ifs <;> exact ⟨rfl, rfl⟩

theorem lets_od {f : Od → Od} : Lets acc s (updOd f s) := lets_apart rfl rfl rfl rfl rfl rfl

/-- An entry of a configuration register, other than a selector, that a firmware writes. -/
theorem lets_plainWrite {q : OdReq} (hs : odSelector q.ix.toNat q.sub.toNat = false) (h : plainWrite q s = some t) :
    Lets acc s t := by
  unfold plainWrite at h
  dsimp only at h
  rw [hs, if_neg (by decide)] at h
  split at h
  case h_3 => obtain rfl := Option.some.inj h; exact lets_armWaits.trans lets_od
  case h_9 =>
    split at h
    case isTrue hk => obtain rfl := Option.some.inj h; exact lets_apart rfl rfl rfl rfl rfl rfl
    case isFalse => cases h
  case h_24 => cases h
  case h_20 => obtain rfl := Option.some.inj h; exact lets_of (firm_of_bays rfl rfl rfl) ⟨⟨_, rfl⟩, _, _, rfl⟩ .refl
  all_goals
    obtain rfl := Option.some.inj h
    exact lets_apart rfl rfl rfl rfl rfl rfl

/-- Zeroing of bands leaves all but memory and what tracks it. -/
def ZeroesOnly (s t : State) : Prop := t.trust = s.trust ∧ t.sess = s.sess ∧ t.run = s.run ∧ t.rcd = s.rcd

theorem zeroesOnly_foldl {α : Type} {f : State → α → State} (hf : ∀ s x, ZeroesOnly s (f s x)) (l : List α) (s : State) :
    ZeroesOnly s (l.foldl f s) := by
  induction l generalizing s with
  | nil => exact ⟨rfl, rfl, rfl, rfl⟩
  | cons x l ih =>
    obtain ⟨ht, hs, hr, hc⟩ := hf s x
    obtain ⟨kt, ks, kr, kc⟩ := ih (f s x)
    exact ⟨kt.trans ht, ks.trans hs, kr.trans hr, kc.trans hc⟩

theorem zeroesOnly_zeroRange {lo len : Nat} : ZeroesOnly s (s.zeroRange lo len) := ⟨rfl, rfl, rfl, rfl⟩

theorem zeroesOnly_zeroBand (s : State) (k : Nat) : ZeroesOnly s (zeroBand s k) :=
  zeroesOnly_foldl (fun _ _ => zeroesOnly_zeroRange) _ _

/-- The ring's band changes no mode (R281, R282). -/
theorem lets_setBands {n : Nat} : Lets acc s (setBands n s) := by
  obtain ⟨ht, hs, hr, hc⟩ := zeroesOnly_foldl zeroesOnly_zeroBand (changedBands s n) s
  obtain ⟨hb, -, -, -, hrd⟩ := setBands_spec (s := s) (n := n)
  refine lets_of (firm_of_bays ht hs hb) ⟨⟨s.run.replayable, hr⟩, s.rcd.stopOn, s.rcd.on, hc⟩ fun a ha hlt => ?_
  rw [hrd, if_neg]
  rintro ⟨-, hk⟩
  have := (mem_changedBands.1 hk).1
  unfold bandOf at this
  unfold ringBase at ha hlt
  omega

theorem lets_regEffect {q : OdReq} (hs : odSelector q.ix.toNat q.sub.toNat = false) (h : regEffect q s = some t) : Lets acc s t := by
  unfold regEffect at h
  dsimp only at h
  split at h
  case h_4 => obtain rfl := Option.some.inj h; exact lets_setBands
  case h_5 =>
    obtain rfl := Option.some.inj h
    refine lets_of (firm_of_bays rfl rfl rfl) ⟨?_, _, _, rfl⟩ .refl
    unfold setRecording Run.unreplayable
    dsimp only
    split_ifs
    · exact ⟨_, rfl⟩
    · exact ⟨_, rfl⟩
    · exact ⟨_, rfl⟩
  case h_7 => exact lets_plainWrite hs h
  all_goals
    obtain rfl := Option.some.inj h
    exact lets_apart rfl rfl rfl rfl rfl rfl

theorem lets_writeReg {ix : BitVec 16} {sub : Byte} {v : List Byte} (h : writeReg ix sub v s = some t) : Lets acc s t := by
  unfold writeReg at h
  extract_lets i k q at h
  split_ifs at h with hc
  obtain ⟨-, hsel, -⟩ := hc
  have hs : odSelector q.ix.toNat q.sub.toNat = false := by simpa using hsel
  obtain rfl := Option.some.inj h
  cases he : regEffect q s with
  | none => exact lets_refl
  | some t => exact lets_regEffect hs he

theorem lets_putCtxByte {ctx : Fin 16384} {off : Fin 256} {v : Byte} : Lets acc s (putCtxByte ctx off v s) :=
  lets_apart rfl rfl rfl rfl rfl rfl

theorem lets_putDesc {d : Dix} {v : Option Desc} : Lets acc s (putDesc b d v s) := lets_setBay rfl rfl

theorem lets_putRoutine {kind : Nat} {pc : BitVec 15} : Lets acc s (putRoutine b kind pc s) := lets_setBay rfl rfl

/-- Stacked memory is in no scratchpad, so no word of a page is met there. -/
theorem touches_memory {a w : Nat} (ha : a < stackEnd) : touches b (partWrites [a]) w = false := by
  unfold touches
  rw [Bool.and_eq_false_iff, List.any_eq_false]
  right
  intro x hx
  rw [List.mem_singleton.1 (List.mem_of_mem_filter hx), beq_iff_eq]
  unfold stackEnd winSize at ha
  unfold spadBase
  omega

theorem lets_memory {a : Nat} {v : Byte} {ev : CodeEvent} (ha : paramBase ≤ a) (hb : a < paramBase + 0x800000) :
    Lets acc s (fwStore a v ev s) := by
  unfold paramBase at ha hb
  obtain ⟨hq, hr⟩ := calm_fwStore (s := s) (v := v) (ev := ev) (a := a) (by unfold ringBase; omega)
    (fun w _ => touches_memory (by unfold stackEnd winSize; omega))
  exact lets_of firm_fwStore hq hr

theorem lets_spad {a n o : Nat} {v : Byte} {ev : CodeEvent} (ha : spadAt a = some (n, o)) :
    Lets (.writeSpad a v ev) s (fwStore a v ev s) := by
  refine ⟨firm_fwStore, fun hn => calm_fwStore (fun h => ?_) fun w hw => absurd (by rw [hw]) (hn a v w)⟩
  unfold ringBase at h
  rw [spadAt, if_pos (by omega)] at ha
  cases ha

/-- Every access the fences let pass keeps fuses, journal, keys and sessions. -/
theorem lets_fenced (h : fenced acc s = some t) : Lets acc s t := by
  cases acc <;> unfold fenced at h <;> dsimp only at h
  case writeSpad a v ev =>
    split at h
    case h_1 n o ha =>
      split_ifs at h
      obtain rfl := Option.some.inj h
      exact lets_spad ha
    case h_2 => cases h
  case writeReg ix sub v => exact lets_writeReg h
  case writeMem a v ev => split_ifs at h with hc; obtain rfl := Option.some.inj h; exact lets_memory hc.1 hc.2
  case writeParam off v ev =>
    split_ifs at h with hc
    obtain rfl := Option.some.inj h
    exact lets_memory (by omega) (by omega)
  case writeImem => split_ifs at h; obtain rfl := Option.some.inj h; exact lets_putImem
  case writeDmem => split_ifs at h; obtain rfl := Option.some.inj h; exact lets_putDmem
  case writeDesc => split_ifs at h; obtain rfl := Option.some.inj h; exact lets_putDesc
  case writeRoutine => split_ifs at h; obtain rfl := Option.some.inj h; exact lets_putRoutine
  case writeCtx => obtain rfl := Option.some.inj h; exact lets_putCtxByte
  case powerLimit => split_ifs at h; obtain rfl := Option.some.inj h; exact lets_apart rfl rfl rfl rfl rfl rfl
  case opticalClass => split_ifs at h; obtain rfl := Option.some.inj h; exact lets_apart rfl rfl rfl rfl rfl rfl
  case laneRate => split_ifs at h; obtain rfl := Option.some.inj h; exact lets_refl
  case lowerVersion => split_ifs at h; obtain rfl := Option.some.inj h; exact lets_refl
  case readFuse => split_ifs at h; obtain rfl := Option.some.inj h; exact lets_fwGets
  case readSteward => split_ifs at h; obtain rfl := Option.some.inj h; exact lets_stewardRead
  case bnCmd => obtain rfl := Option.some.inj h; exact lets_bnCommand
  case bnCtl => obtain rfl := Option.some.inj h; exact ite_kept lets_bnAbortNow lets_refl
  case bnStat => obtain rfl := Option.some.inj h; exact lets_bn
  case bnSlot => obtain rfl := Option.some.inj h; exact lets_bnLenWrite
  case readRing => cases h
  case readSecret => cases h
  case clearMapBit => cases h
  case setMapBit => cases h
  case startImage => cases h
  case reopenPolicy => cases h
  case editGate => cases h
  all_goals
    obtain rfl := Option.some.inj h
    exact lets_fwGets

theorem lets_deniedRead : Lets acc s (deniedRead acc s) := ite_kept lets_fwGets lets_refl

theorem exec_firmwareAccess : exec (.firmwareAccess acc) s = .next
    (if canMake acc s then (match fenced acc s with | some t => t | none => countFault 0x49 15 3 (deniedRead acc s)) else s) := rfl

theorem exec_passed (hc : canMake acc s = true) (h : fenced acc s = some t) : exec (.firmwareAccess acc) s = .next t := by
  rw [exec_firmwareAccess, if_pos hc, h]

theorem exec_refused (hc : canMake acc s = true) (h : fenced acc s = none) :
    exec (.firmwareAccess acc) s = .next (countFault 0x49 15 3 (deniedRead acc s)) := by
  rw [exec_firmwareAccess, if_pos hc, h]

theorem firmwareAccess_lets : ∃ t, exec (.firmwareAccess acc) s = .next t ∧ Lets acc s t := by
  refine ⟨_, exec_firmwareAccess, ite_kept ?_ lets_refl⟩
  cases h : fenced acc s with
  | none => exact lets_deniedRead.trans lets_countFault
  | some t => exact lets_fenced h

/-- An access of the firmware alone, with nothing it waits for. -/
theorem canMake_of (hp : s.pwr.st = .run) (hs : ofEngine acc = true ∨ stewardRuns s = true) (hc : ofCompute acc = true → clocked s = true)
    (hw : fwWaits acc s = false) : canMake acc s = true := by
  unfold canMake
  rw [hp, hw]
  have h1 : (ofEngine acc || stewardRuns s) = true := by simpa using hs
  have h2 : (!ofCompute acc || clocked s) = true := by
    cases h : ofCompute acc
    · rfl
    · rw [hc h]; rfl
  rw [h1, h2]
  rfl

/-! ### The verification of an image (R382, R383) -/

/-- The image as staged, however its read was counted. -/
theorem fwAccepted_congr (hm : t.mem = s.mem) (hs : t.ms = s.ms) (hb : t.bays = s.bays) (ht : t.trust = s.trust) :
    fwAccepted t = fwAccepted s := by
  have hl : t.ld = s.ld := by funext a n; unfold State.ld; rw [hm]
  have hn : t.ldNat = s.ldNat := by funext a n; unfold State.ldNat; rw [hl]
  have hw (n : Nat) : badWords t n = badWords s n := by unfold badWords; rw [hb]
  have hbad : byteBad t = byteBad s := by funext a; unfold byteBad; simp only [hw, hs]
  have hsh : fwShape t = fwShape s := by unfold fwShape fwBody; rw [hn]
  have hww : fwWords t = fwWords s := by unfold fwWords fwBody; rw [hsh, hn]
  have hko : fwKeyOk t = fwKeyOk s := by unfold fwKeyOk; rw [hl, hn, ht]
  have hsg : fwSigned t = fwSigned s := by unfold fwSigned fwMessage fwBody; rw [hl, hn]
  unfold fwAccepted
  rw [hsh, hww, hbad, hko, hsg, ht, hn]

theorem exec_fwVerify (hc : clocked s = true) (hq : noReqs s = true) (hs : s.trust.stage = .verify) :
    ∃ k c, exec (.fwVerifyDone .clean) s = .next
      (if fwAccepted s then startFirmware { s with stk := k, codes := c }
       else countFault 0x48 15 3 (updTrust (fun t => { t with stage := .service }) { s with stk := k, codes := c })) := by
  obtain ⟨k, hk⟩ : ∃ k, fwReadIn .clean s = { s with stk := k } := ⟨_, rfl⟩
  obtain ⟨c, hcb⟩ := countBad_codes (s := { s with stk := k }) (l := fwWords { s with stk := k }) (r := 4)
  refine ⟨k, c, ?_⟩
  change execFwVerifyDone .clean s = _
  rw [execFwVerifyDone, if_pos (by rw [hc, hs, ahead_of_noReqs hq]; rfl)]
  dsimp only
  rw [hk]
  have ha : fwAccepted (countBad (fwWords { s with stk := k }) 4 { s with stk := k }) = fwAccepted s :=
    fwAccepted_congr (by rw [hcb]) (by rw [hcb]) (by rw [hcb]) (by rw [hcb])
  rw [ha, hcb]

theorem fwAccepted_spec (h : fwAccepted s = true) : svnNow s.trust ≤ s.ldNat 5 1 ∧
    falconVerify (s.ld 64 1793) (asciiBytes "SHOZAL-F" ++ s.ld 0 1920 ++ shake256 (s.ld 4096 (s.ldNat 12 4)) 64) (s.ld 1920 1280)
      = true := by
  unfold fwAccepted at h
  rw [Bool.and_eq_true, Bool.and_eq_true] at h
  exact ⟨of_decide_eq_true h.1.2, h.2⟩

/-! ### The end of stage 0 (R364) -/

/-- A record with what was left incomplete voided. -/
def voidedRecord (r : BitVec 320) : BitVec 320 := if r = 0#320 ∨ recCommitted r = true then r else r ||| 4#320

/-- One record's turn. -/
def voidOne (t : Trust) (i : Nat) : Trust :=
  let r := recordAt t i
  if r ≠ 0#320 ∧ recCommitted r = false then t.putRecord i (r ||| 4#320) else t

theorem voidIncomplete_eq {t : Trust} : voidIncomplete t = (List.range 96).foldl voidOne t := rfl

theorem recordAt_voidOne {t : Trust} {i j : Nat} : recordAt (voidOne t i) j =
    if j = i then voidedRecord (recordAt t i) else recordAt t j := by
  unfold voidOne voidedRecord
  dsimp only
  by_cases hc : recordAt t i ≠ 0#320 ∧ recCommitted (recordAt t i) = false
  · have hno : ¬ (recordAt t i = 0#320 ∨ recCommitted (recordAt t i) = true) := by
      rintro (h | h)
      · exact hc.1 h
      · rw [hc.2] at h; cases h
    rw [if_pos hc, if_neg hno]
    split_ifs with hj
    · subst hj
      exact recordAt_putRecord (ne_zero_of_bit (k := 2) void_getLsbD)
    · exact recordAt_putRecord_ne hj
  · have hyes : recordAt t i = 0#320 ∨ recCommitted (recordAt t i) = true := by
      by_cases h0 : recordAt t i = 0#320
      · exact .inl h0
      · exact .inr (by simpa [h0] using hc)
    rw [if_neg hc, if_pos hyes]
    split_ifs with hj
    · rw [hj]
    · rfl

theorem recordAt_voidRange {t : Trust} {n j : Nat} : recordAt ((List.range n).foldl voidOne t) j =
    if j < n then voidedRecord (recordAt t j) else recordAt t j := by
  induction n with
  | zero => rfl
  | succ n ih =>
    rw [List.range_succ, List.foldl_append, List.foldl_cons, List.foldl_nil, recordAt_voidOne]
    by_cases h : j = n
    · subst h
      rw [if_pos rfl, ih, if_neg (by omega), if_pos (by omega)]
    · rw [if_neg h, ih]
      exact if_congr (by omega) rfl rfl

theorem recordAt_voidIncomplete {t : Trust} {j : Nat} : recordAt (voidIncomplete t) j =
    if j < 96 then voidedRecord (recordAt t j) else recordAt t j := recordAt_voidRange

theorem fuses_voidIncomplete {t : Trust} : ∃ J, voidIncomplete t = { t with journal := J } := by
  rw [voidIncomplete_eq]
  refine List.foldlRecOn (motive := fun u : Trust => ∃ J, u = { t with journal := J }) _ _ ⟨_, rfl⟩ ?_
  rintro u ⟨J, rfl⟩ i -
  unfold voidOne
  dsimp only
  split_ifs <;> exact ⟨_, rfl⟩

/-- Voiding changes no committed value. -/
theorem mapNext_voidIncomplete {t : Trust} : mapNext (voidIncomplete t) = mapNext t := by
  obtain ⟨J, hJ⟩ := fuses_voidIncomplete (t := t)
  refine (inForce_congr (by rw [hJ]) fun e => committed_congr fun i => ?_).2.2.1
  rw [recordAt_voidIncomplete]
  by_cases hc : recordAt t i = 0#320 ∨ recCommitted (recordAt t i) = true
  · left
    rw [voidedRecord, if_pos hc, ite_self]
  · split_ifs with hi
    · right
      refine ⟨?_, by simpa using fun h => hc (.inr h)⟩
      rw [voidedRecord, if_neg hc, recCommitted, void_getLsbD, Bool.not_true, Bool.and_false]
    · exact .inl rfl

/-- Settles O53: the stages by their guards, the fences by what each access that they let pass may change. -/
theorem bootAndFences : Obligations.BootAndFences := by
  unfold Obligations.BootAndFences
  refine ⟨fun f msg => ⟨?_, idSign_verifies f msg⟩, fun s hl hi => ?_, fun s hp hs hl => ?_, fun s hp hs => ?_,
    fun s hc hq hs => ?_, fun acc s hp hs => ?_, fun a k s acc hp hs ha => ?_, fun a w n o v s hc hs hm ha hl ht hb => ?_,
    fun s hp => ?_, fun f s hp hs => ?_, fun off ue s hp hs ho => ?_, fun w s hc hs => ?_⟩
  · have h := idSign_verifies f msg
    simp only [falconVerify, falconKeyOk, Bool.and_eq_true, beq_iff_eq] at h
    exact h.1.1.1.1.1
  · exact congrArg Host.Outcome.next (if_neg (by simp [hl, hi]))
  · have hg : (s.pwr.st == PwrSt.run && s.trust.stage == Stage.fuse && (s.pwr.low == 0 || !leftIncomplete s.trust)) = true := by
      rw [hp, hs]
      obtain h | h := hl <;> simp [h]
    have hx : exec .bootStageFuseDone s = .next
        { s with trust := { voidIncomplete s.trust with stage := .identity, mapNow := mapNext (voidIncomplete s.trust) } } :=
      congrArg Host.Outcome.next (if_pos hg)
    have hf : (voidIncomplete s.trust).fuses = s.trust.fuses := by
      obtain ⟨J, hJ⟩ := fuses_voidIncomplete (t := s.trust)
      rw [hJ]
    have hm := mapNext_voidIncomplete (t := s.trust)
    have hr (j : Nat) (hj : j < 96) : recordAt (voidIncomplete s.trust) j = voidedRecord (recordAt s.trust j) :=
      recordAt_voidIncomplete.trans (if_pos hj)
    generalize voidIncomplete s.trust = T at hx hf hm hr
    exact ⟨_, hx, rfl, rfl, hf, hm, hr⟩
  · exact congrArg Host.Outcome.next (if_pos (by rw [hp, hs]; rfl))
  · obtain ⟨k, c, hx⟩ := exec_fwVerify hc hq hs
    refine ⟨_, hx, ?_⟩
    cases hacc : fwAccepted s with
    | true =>
      obtain ⟨hv, hsig⟩ := fwAccepted_spec hacc
      refine ⟨rfl, rfl, rfl, rfl, rfl, hv, rfl, rfl, hsig, fun a => ?_⟩
      refine (rd_zeroRange (s := s)).trans (if_congr ?_ rfl rfl)
      rw [Nat.zero_add]
      exact ⟨fun h => h.2, fun h => ⟨Nat.zero_le a, h⟩⟩
    | false => exact ⟨rfl, rfl, rfl, rfl, rfl⟩
  · obtain ⟨t, hx, ⟨⟨f, d, ht⟩, hss, hpc⟩, hcalm⟩ := firmwareAccess_lets (acc := acc) (s := s)
    refine ⟨t, hx, by rw [ht], hss, fun hn => ?_, fun b => ⟨hpc b .a, hpc b .x⟩⟩
    obtain ⟨⟨⟨p, hr⟩, a, o, hc⟩, hring⟩ := hcalm hn
    exact ⟨by rw [hr], by rw [hc], hring⟩
  · simp only [List.mem_cons, List.mem_nil_iff, or_false] at ha
    obtain rfl | rfl | rfl | rfl | rfl | rfl | rfl := ha <;>
      exact exec_refused (canMake_of hp (.inr hs) (fun h => by cases h) rfl) rfl
  · obtain ⟨hrep, hreq⟩ : noRepair s = true ∧ noReqs s = true := by simpa [memFree] using hm
    have hp : s.pwr.st = .run := by
      simp only [clocked, Bool.and_eq_true, beq_iff_eq] at hc
      exact hc.1
    refine exec_passed (canMake_of hp (.inr hs) (fun _ => hc) (underRepair_of_noRepair hrep)) ?_
    simp only [fenced, ha, hl, if_true]
    refine congrArg some ?_
    simp only [fwStore, guarded, guardedBy, underRepair_of_noRepair hrep, ahead_of_noReqs hreq, Bool.or_self, Bool.false_eq_true,
      if_false, List.nil_append, ht, hb, Bool.not_false, Bool.and_self, if_true]
  · exact ⟨_, _, exec_passed (canMake_of hp (.inl rfl) (fun h => by cases h) rfl) rfl,
      exec_passed (canMake_of hp (.inl rfl) (fun h => by cases h) rfl) rfl, rfl, rfl⟩
  · have hcan : canMake (.readFuse f) s = true := canMake_of hp (.inr hs) (fun h => by cases h) rfl
    by_cases hf : f = .seed
    · subst hf
      exact ⟨_, exec_refused hcan rfl, by rw [if_pos rfl]; exact ⟨rfl, rfl⟩⟩
    · exact ⟨_, exec_passed hcan (if_neg hf), by rw [if_neg hf]; rfl⟩
  · refine ⟨_, exec_passed (canMake_of hp (.inr hs) (fun h => by cases h) rfl) (if_pos ho), ?_⟩
    unfold stewardRead
    by_cases hu : ue = true ∨ (0x24, off) ∈ s.ms.dieBad
    · rw [if_pos hu, if_pos (by simpa using hu)]
      refine ⟨?_, rfl, rfl⟩
      unfold stewardRuns
      exact Bool.and_false _
    · rw [if_neg hu, if_neg (by simpa using hu)]
      rfl
  · have hp : s.pwr.st = .run := by
      simp only [clocked, Bool.and_eq_true, beq_iff_eq] at hc
      exact hc.1
    have hcan : canMake (.powerLimit w) s = true := canMake_of hp (.inr hs) (fun _ => hc) rfl
    split_ifs with hw
    · exact exec_passed hcan (if_pos hw)
    · exact exec_refused hcan (if_neg hw)

end Sys2Proof.Proofs.Firmware
end

section
/-! PROOFS. The reception of frames: what accepting one, passing it on and sending an answer change (R337 to R348). -/

namespace Sys2Proof.Proofs.Reception

open Sys2Proof Sys2Proof.Machine Sys2Proof.Laws.State Sys2Proof.Laws.Memory Sys2Proof.Laws.Ops
open Sys2Proof.Proofs.Answers Sys2Proof.Proofs.LinkEvents

variable {s t u : State} {i k : Slot} {f : Frame} {cls opc : Byte} {n m : Nat}

/-! ### Sending (R336 to R339, R347) -/

/-- The LSEQ a link reaches once everything that waits has been sent. -/
def load (l : Link) : Nat := l.txNext + l.out.length + l.resps.length

/-- Nothing but frames built, sent or acknowledged, and credits, has changed, and at most `n` frames were added. -/
def Sent (n : Nat) (s t : State) : Prop :=
  (∃ o a x r c d l, t = { s with link := { s.link with
    out := o, unacked := a, txNext := x, resps := r, credits := c, creditsSent := d, linkOut := l } }) ∧
  load t.link ≤ load s.link + n

theorem Sent.refl : Sent n s s := ⟨⟨_, _, _, _, _, _, _, rfl⟩, Nat.le_add_right _ _⟩

theorem Sent.trans (h : Sent n s t) (g : Sent m t u) : Sent (n + m) s u := by
  obtain ⟨⟨o, a, x, r, c, d, l, rfl⟩, hl⟩ := h
  obtain ⟨⟨o', a', x', r', c', d', l', rfl⟩, gl⟩ := g
  exact ⟨⟨o', a', x', r', c', d', l', rfl⟩, by omega⟩

theorem Sent.mono (h : Sent n s t) (hm : n ≤ m) : Sent m s t := ⟨h.1, h.2.trans (by omega)⟩

theorem Sent.linkOnly (h : Sent n s t) : LinkOnly s t := by
  obtain ⟨⟨o, a, x, r, c, d, l, rfl⟩, -⟩ := h
  exact LinkOnly.of_link _ _

/-- What sending leaves of the link. -/
theorem Sent.link (h : Sent n s t) : t.link.rxNext = s.link.rxNext ∧ t.link.held = s.link.held ∧ t.link.hellos = s.link.hellos ∧
    t.link.reads = s.link.reads := by
  obtain ⟨⟨o, a, x, r, c, d, l, rfl⟩, -⟩ := h
  exact ⟨rfl, rfl, rfl, rfl⟩

theorem nextOut_mem {l : List OutFrame} {g : OutFrame} (h : nextOut l = some g) : g ∈ l := by
  cases l with
  | nil => cases h
  | cons f r =>
    obtain rfl := Option.some.inj h
    refine List.foldlRecOn (motive := fun x => x ∈ f :: r) r _ List.mem_cons_self fun a ha g hg => ?_
    split_ifs
    · exact List.mem_cons_of_mem _ hg
    · exact ha

theorem flush_frame {l : Link} : ∃ o a x, l.flush n = { l with out := o, unacked := a, txNext := x } ∧
    x + o.length ≤ l.txNext + l.out.length := by
  induction n generalizing l with
  | zero => exact ⟨_, _, _, rfl, le_rfl⟩
  | succ n ih =>
    unfold Link.flush
    split
    · rename_i g hg
      split_ifs
      · obtain ⟨o, a, x, h, hl⟩ := ih (l := { l with out := l.out.erase g, unacked := l.unacked ++ [g.sent l.txNext], txNext := l.txNext + 1 })
        refine ⟨o, a, x, h, hl.trans ?_⟩
        have := List.length_erase_of_mem (nextOut_mem hg)
        have := List.length_pos_of_mem (nextOut_mem hg)
        dsimp only
        omega
      · exact ⟨_, _, _, rfl, le_rfl⟩
    · exact ⟨_, _, _, rfl, le_rfl⟩

theorem sent_pushFrame {g : OutFrame} : Sent 1 s (pushFrame g s) := by
  obtain ⟨o, a, x, h, hl⟩ := flush_frame (l := { s.link with out := s.link.out ++ [g] }) (n := (s.link.out ++ [g]).length)
  have he : pushFrame g s = { s with link := { s.link with out := o, unacked := a, txNext := x } } :=
    congrArg (fun l => { s with link := l }) h
  rw [he]
  refine ⟨⟨_, _, _, _, _, _, _, rfl⟩, ?_⟩
  dsimp only at hl
  rw [List.length_append, List.length_singleton] at hl
  unfold load
  dsimp only
  omega

theorem sent_sendFrame {g : OutFrame} : Sent 1 s (sendFrame g s) := sent_pushFrame

theorem sent_sendReady : Sent 0 s (sendReady n s) := by
  induction n generalizing s with
  | zero => exact .refl
  | succ n ih =>
    unfold sendReady
    split
    · rename_i r rest hr
      split
      · rename_i g hg
        have hp : Sent 1 (updLink (fun l => { l with resps := rest }) s) (pushFrame g (updLink (fun l => { l with resps := rest }) s)) :=
          sent_pushFrame
        obtain ⟨⟨o, a, x, p, c, d, l, he⟩, hl⟩ := hp.trans (ih (s := pushFrame g (updLink (fun l => { l with resps := rest }) s)))
        refine ⟨⟨o, a, x, p, c, d, l, he⟩, hl.trans ?_⟩
        unfold load updLink
        rw [hr, List.length_cons]
        dsimp only
        omega
      · exact .refl
    · exact .refl

theorem sent_flushResps : Sent 0 s (flushResps s) := sent_sendReady

theorem sent_creditBack {ch : Option (Fin 8)} : Sent 0 s (creditBack ch s) := by
  unfold creditBack
  cases ch with
  | none => exact .refl
  | some c =>
    dsimp only
    split_ifs
    · exact ⟨⟨_, _, _, _, _, _, _, rfl⟩, le_rfl⟩
    · exact ⟨⟨_, _, _, _, _, _, _, rfl⟩, le_rfl⟩

theorem sent_creditsBack {l : List (Option (Fin 8))} : Sent 0 s (l.foldl (fun (s : State) c => creditBack c s) s) := by
  induction l generalizing s with
  | nil => exact .refl
  | cons c l ih => exact sent_creditBack.trans ih

theorem sent_respond {lseq : Nat} {g : OutFrame} : Sent 1 s (respond i lseq g s) := by
  unfold respond
  refine Sent.trans (n := 1) (m := 0) ⟨⟨_, _, _, _, _, _, _, rfl⟩, ?_⟩ sent_flushResps
  unfold load
  dsimp only
  split_ifs
  · rw [List.length_map]
    omega
  · rw [List.length_append, List.length_singleton]
    omega

theorem sent_answer {q : OdReq} (h : s.od.closeAfter = []) : Sent 1 s (answer q n s) := by
  have hb : Sent 0 s (creditBack (some 0) s) := sent_creditBack
  unfold answer
  extract_lets v
  split_ifs
  · exact hb.mono (by omega)
  · have hr : Sent 1 s (respond q.slot q.lseq (respFrame q.slot q.tid n []) v) := hb.trans sent_respond
    rw [closeLeft_of_nil (by rw [hr.linkOnly]; exact h)]
    exact hr

/-! ### A frame that passes every check (R337, R346) -/

/-- What `accepts` says. -/
theorem accepts_iff : accepts cls opc f s = true ↔ linkOn s = true ∧ f.cls = cls ∧ f.opc = opc ∧ f.lseq.toNat = s.link.rxNext ∧
    frameFails f s = none ∧ s.link.rxNext + 1 < 2 ^ 48 - 1 ∧ s.link.txNext + s.link.out.length + s.link.resps.length + 8 < 2 ^ 48 := by
  simp only [accepts, Bool.and_eq_true, beq_iff_eq, decide_eq_true_eq, Option.isNone_iff_eq_none]
  tauto

theorem frameFails_congr (hs : t.sess = s.sess) (hr : t.rcd = s.rcd) : frameFails f t = frameFails f s := by
  unfold frameFails slotServes frameTag roleOf replaying
  simp only [hs, hr]

/-- Acceptance counts the frame, and acknowledges every 32nd. -/
theorem acceptSeq_spec : ∃ a l, acceptSeq s = { s with link := { s.link with
    rxNext := s.link.rxNext + 1, nakSent := false, rxUnacked := a, linkOut := l } } := by
  unfold acceptSeq
  dsimp only
  split_ifs
  · exact ⟨_, _, rfl⟩
  · exact ⟨_, _, rfl⟩

/-- The state in which an accepted frame is served. -/
def taken (f : Frame) (s : State) : State := touch f (acceptSeq s)

/-- An accepted frame changes the link's counts and its own session's idle time. -/
theorem taken_spec : ∃ a l x, taken f s = { s with
      link := { s.link with rxNext := s.link.rxNext + 1, nakSent := false, rxUnacked := a, linkOut := l }, sess := x } ∧
    (∀ k : Slot, slotOf f.sess ≠ some k → x[k] = s.sess[k]) ∧
    ∀ k : Slot, x[k] = { s.sess[k] with timer := (x[k]).timer } ∧ (s.sess[k].ph ≠ .opened → x[k] = s.sess[k]) := by
  obtain ⟨a, l, h⟩ := acceptSeq_spec (s := s)
  have same : ∀ k : Slot, s.sess[k] = { s.sess[k] with timer := (s.sess[k]).timer } ∧ (s.sess[k].ph ≠ .opened → s.sess[k] = s.sess[k]) :=
    fun k => ⟨rfl, fun _ => rfl⟩
  unfold taken
  rw [h]
  unfold touch
  split
  · rename_i i hi
    split_ifs with ho
    · refine ⟨a, l, _, rfl, fun k hk => ?_, fun k => ?_⟩
      · have : k ≠ i := fun e => hk (hi.trans (congrArg some e.symm))
        simp only [Fin.getElem_fin]
        exact Vector.getElem_set_ne _ _ fun e => this (Fin.ext e.symm)
      · by_cases hk : k = i
        · subst hk
          have hx : (s.sess.set k { s.sess[k] with timer := 0 })[k] = { s.sess[k] with timer := 0 } := by
            simp only [Fin.getElem_fin, Vector.getElem_set_self]
          rw [hx]
          exact ⟨rfl, fun hn => absurd ho.2 hn⟩
        · have hx : (s.sess.set i { s.sess[i] with timer := 0 })[k] = s.sess[k] := by
            simp only [Fin.getElem_fin]
            exact Vector.getElem_set_ne _ _ fun e => hk (Fin.ext e.symm)
          rw [hx]
          exact same k
    · exact ⟨a, l, _, rfl, fun _ _ => rfl, same⟩
  · exact ⟨a, l, _, rfl, fun _ _ => rfl, same⟩

/-- An accepted frame is served, and the link is not reinitialised while its LSEQs are low. -/
theorem receive_accepted {g : State → State} (h : accepts cls opc f s = true) :
    receive cls opc f g s = lseqEnd (g (taken f s)) := by
  obtain ⟨hl, hc, ho, hq, hf, -⟩ := accepts_iff.1 h
  obtain ⟨a, l, he⟩ := acceptSeq_spec (s := s)
  have hff : frameFails f (acceptSeq s) = none := by rw [he]; exact (frameFails_congr rfl rfl).trans hf
  have hr : rowTakes f cls opc = true := by simp [rowTakes, hc, ho]
  unfold receive
  rw [if_pos (by rw [hl, hr]; rfl), if_pos hq]
  dsimp only
  rw [hff]
  rfl

/-- What the frame's service may add before the link is reinitialised. -/
theorem lseqEnd_of_sent (h : accepts cls opc f s = true) (hr : t.link.rxNext = s.link.rxNext + 1)
    (hl : load t.link ≤ load s.link + 6) : lseqEnd t = t := by
  obtain ⟨-, -, -, -, -, h1, h2⟩ := accepts_iff.1 h
  unfold load at hl
  exact lseqEnd_of_low (by omega) (by omega)

theorem load_taken : load (taken f s).link = load s.link := by
  obtain ⟨a, l, x, h, -⟩ := taken_spec (f := f) (s := s)
  rw [h]; rfl

theorem rxNext_taken : (taken f s).link.rxNext = s.link.rxNext + 1 := by
  obtain ⟨a, l, x, h, -⟩ := taken_spec (f := f) (s := s)
  rw [h]

/-- Whether a frame may be passed depends on neither the link nor the sessions. -/
theorem canPass_link {l : List Frame} {L : Link} {x : Vector Session 4} :
    canPass f l { s with link := L, sess := x } = canPass f l s := rfl

theorem passes_iff : passes cls opc f s = true ↔ accepts cls opc f s = true ∧ canPass f s.link.held s = true ∧
    s.rcd.replay ≠ .active ∧ s.rcd.gated = [] := by
  simp only [passes, Bool.and_eq_true, bne_iff_ne, List.isEmpty_iff, and_assoc]

/-! ### Passing a frame on (R318, R326, R340) -/

/-- A frame that reads nothing unsound and that nothing keeps is passed. -/
theorem arriveMet_passes (hc : canPass f s.link.held s = true) (hg : isGated f = false ∨ s.rcd.replay ≠ .active)
    (ho : inOrder f = false ∨ s.rcd.gated = []) : arriveMet f .clean s = passFrame f .clean s := by
  have h1 : ¬ ((inOrder f && !s.rcd.gated.isEmpty) = true) := by
    obtain h | h := ho <;> simp [h]
  have h2 : ¬ (isGated f = true ∧ s.rcd.replay = .active) := by
    obtain h | h := hg
    · rw [h]; simp
    · exact fun e => h e.2
  unfold arriveMet meetPage bulkPage
  simp only [hc, Bool.not_true, Bool.false_eq_true, if_false]
  unfold goOn
  rw [if_neg h1]
  unfold gateInput
  rw [if_neg h2]

/-- A frame that passes is passed in the state its acceptance leaves. -/
theorem arriveMet_taken (h : passes cls opc f s = true) : arriveMet f .clean (taken f s) = passFrame f .clean (taken f s) := by
  obtain ⟨-, hcan, hrep, hgat⟩ := passes_iff.1 h
  obtain ⟨a, l, x, ht, -⟩ := taken_spec (f := f) (s := s)
  rw [ht]
  exact arriveMet_passes (canPass_link.trans hcan) (.inr hrep) (.inr hgat)

/-- Recording an input writes the record ring and what follows it, and nothing of the link or the security die. -/
theorem recordInput_spec : ringOnly s (recordInput f s) ∧ (recordInput f s).bays = s.bays ∧ ∃ r : State,
    recordInput f s = { s with mem := r.mem, ms := r.ms, bays := r.bays, codes := r.codes, stk := r.stk, rcd := r.rcd, run := r.run } := by
  unfold recordInput
  split
  · exact ⟨fun a ha => ringOnly_record a ha, Sys2Proof.Proofs.DataMemory.bays_record, record_frame⟩
  · exact ⟨fun _ _ => rfl, rfl, s, rfl⟩

/-- A slot freed, before the credits of what it held are returned. -/
def vacated (i : Slot) (s : State) : State :=
  let u := updLink (fun l => l.dropSlot i) (orphanReqs i (updSess i (fun _ => Session.reset) s))
  { u with rcd := { u.rcd with gated := u.rcd.gated.filter (fun f => f.sess.toNat != i.val) } }

theorem sent_freeSlot : Sent 0 (vacated i s) (freeSlot i s) :=
  Sent.trans (n := 0) (m := 0) sent_creditsBack sent_flushResps

theorem load_vacated : load (vacated i s).link ≤ load s.link := by
  have ho := List.length_filter_le (fun f : OutFrame => f.sess.toNat != i.val) s.link.out
  have hr := List.length_filter_le (fun r : RespSlot => r.slot != i) s.link.resps
  show s.link.txNext + (s.link.out.filter _).length + (s.link.resps.filter _).length ≤ _
  unfold load
  omega

/-- What freeing a slot leaves of the link, and that nothing of the slot waits any more (R345). -/
theorem link_freeSlot : (freeSlot i s).link.rxNext = s.link.rxNext ∧ load (freeSlot i s).link ≤ load s.link ∧
    ∀ g ∈ (freeSlot i s).link.held ++ (freeSlot i s).rcd.gated, g.sess.toNat ≠ i.val := by
  have h := sent_freeSlot (i := i) (s := s)
  obtain ⟨hx, hh, -, -⟩ := h.link
  have hg : (freeSlot i s).rcd.gated = (vacated i s).rcd.gated := by rw [h.linkOnly]
  refine ⟨hx, h.2.trans load_vacated, ?_⟩
  rw [hh, hg]
  intro g hm
  have : g ∈ s.link.held.filter (fun f => f.sess.toNat != i.val) ++ s.rcd.gated.filter (fun f => f.sess.toNat != i.val) := hm
  rcases List.mem_append.1 this with hm | hm
  · simpa using (List.mem_filter.1 hm).2
  · simpa using (List.mem_filter.1 hm).2

end Sys2Proof.Proofs.Reception
end

section
/-! PROOFS. Sessions: the handshake, closing, attestation reports (Sessions). -/

namespace Sys2Proof.Proofs.SessionSteps

open Sys2Proof Sys2Proof.Machine Sys2Proof.Laws.State Sys2Proof.Laws.Memory Sys2Proof.Laws.Ops
open Sys2Proof.Proofs.Answers Sys2Proof.Proofs.LinkEvents Sys2Proof.Proofs.Reception Sys2Proof.Proofs.HopNesting
open Sys2Proof.Proofs.Journal

variable {s t u : State} {i j k : Slot} {f : Frame} {q : Hello} {h : Handshake}

/-! ### Slots -/

theorem sess_updSess {g : Session → Session} : (updSess k g s).sess[k] = g s.sess[k] := by
  simp [updSess]

theorem sess_updSess_ne {g : Session → Session} (hj : j ≠ k) : (updSess k g s).sess[j] = s.sess[j] := by
  simp only [updSess, Fin.getElem_fin]
  exact Vector.getElem_set_ne _ _ fun e => hj (Fin.ext e.symm)

theorem custodianOpen_congr (hs : ∀ j : Slot, j ≠ k → t.sess[j].role = s.sess[j].role ∧ (t.sess[j].ph = .opened ↔ s.sess[j].ph = .opened)) :
    custodianOpen k t = custodianOpen k s := by
  unfold custodianOpen
  rw [Bool.eq_iff_iff, List.any_eq_true, List.any_eq_true]
  refine exists_congr fun j => and_congr_right fun _ => ?_
  simp only [Bool.and_eq_true, bne_iff_ne, beq_iff_eq, and_assoc]
  exact and_congr_right fun hj => by rw [(hs j hj).1, (hs j hj).2]

theorem proofHolds_congr (ht : t.trust = s.trust) (hr : t.sess[k].role = s.sess[k].role) (hh : t.sess[k].th = s.sess[k].th) :
    proofHolds f k t = proofHolds f k s := by
  unfold proofHolds finishMessage
  simp only [hr, hh, ht]

/-- A session frame of the steward: who and what it is for. -/
theorem sends_sendSession {opc sess : Byte} {tid : BitVec 16} {v : List Byte} : sends (sendSession opc sess tid v s)
    (fun g => g.cls = 2#8 ∧ g.opc = opc ∧ g.sess = sess ∧ g.payload = v) := by
  refine sends_sendFrame (fun g n hg => hg) ?_
  obtain ⟨a, b, hk⟩ := keyed_eq (outFrame 2#8 opc sess tid 0#48 0#64 v) s
  rw [hk]
  exact ⟨rfl, rfl, rfl, rfl⟩

theorem sends_mono {p p' : OutFrame → Prop} (hs : sends s p) (hp : ∀ g, p g → p' g) : sends s p' := by
  obtain ⟨g, hg, h⟩ := hs
  exact ⟨g, hg, hp g h⟩

theorem linkOnly_sendSession {opc sess : Byte} {tid : BitVec 16} {v : List Byte} : LinkOnly s (sendSession opc sess tid v s) :=
  linkOnly_sendFrame _ s

/-! ### HELLO (R342) -/

/-- A HELLO waits for its handshake, or is refused with a reason. -/
theorem serveHello_spec : LinkOnly s (serveHello f s) ∧ (serveHello f s).link.rxNext = s.link.rxNext ∧
    load (serveHello f s).link ≤ load s.link + 1 ∧
    (if fieldAt f.payload 2 2 / 2 % 2 = 1 ∧ slotFree s = true then
      (serveHello f s).link.hellos = s.link.hellos ++ [⟨fieldAt f.payload 1 1, f.tid, f.payload⟩]
     else (serveHello f s).link.hellos = s.link.hellos ∧ sends (serveHello f s) (fun g => g.cls = 2#8 ∧ g.opc = 5#8 ∧
      g.sess = 0xFF#8 ∧ g.payload = [if fieldAt f.payload 2 2 / 2 % 2 = 1 then 2#8 else 1#8])) := by
  have hb : Sent 0 s (creditBack (some 5) s) := sent_creditBack
  have hfree : slotFree (creditBack (some 5) s) = slotFree s := by rw [hb.linkOnly]; rfl
  obtain ⟨hrx, -, hhe, -⟩ := hb.link
  have refused (r : Byte) : LinkOnly s (refuseHello f.tid r (creditBack (some 5) s)) ∧
      (refuseHello f.tid r (creditBack (some 5) s)).link.rxNext = s.link.rxNext ∧
      load (refuseHello f.tid r (creditBack (some 5) s)).link ≤ load s.link + 1 ∧
      (refuseHello f.tid r (creditBack (some 5) s)).link.hellos = s.link.hellos ∧
      sends (refuseHello f.tid r (creditBack (some 5) s)) (fun g => g.cls = 2#8 ∧ g.opc = 5#8 ∧ g.sess = 0xFF#8 ∧ g.payload = [r]) := by
    have hs : Sent 1 s (refuseHello f.tid r (creditBack (some 5) s)) := hb.trans sent_sendFrame
    exact ⟨hs.linkOnly, hs.link.1, hs.2, hs.link.2.2.1, sends_sendSession⟩
  unfold serveHello
  extract_lets v
  by_cases hbit : fieldAt f.payload 2 2 / 2 % 2 = 0
  · obtain ⟨h1, h2, h3, h4, h5⟩ := refused 1#8
    rw [if_pos hbit]
    refine ⟨h1, h2, h3, ?_⟩
    rw [if_neg fun e => by omega, if_neg (by omega)]
    exact ⟨h4, h5⟩
  · have hone : fieldAt f.payload 2 2 / 2 % 2 = 1 := by omega
    rw [if_neg hbit]
    by_cases hf : slotFree v = true
    · rw [if_pos hf, if_pos ⟨hone, hfree ▸ hf⟩]
      refine ⟨hb.linkOnly.trans (linkOnly_updLink _ _), hrx, ?_, congrArg (· ++ _) hhe⟩
      exact hb.2.trans (Nat.le_succ _)
    · obtain ⟨h1, h2, h3, h4, h5⟩ := refused 2#8
      rw [if_neg hf, if_neg fun e => hf (hfree.trans e.2), if_pos hone]
      exact ⟨h1, h2, h3, h4, h5⟩

/-- A HELLO is no session's, so its acceptance leaves the sessions. -/
theorem sess_taken_hello (hc : f.cls = 2#8) (ho : f.opc = 1#8) : (taken f s).sess = s.sess := by
  have hs : frameSealed f = false := by simp [frameSealed, hc, ho]
  obtain ⟨a, l, h⟩ := acceptSeq_spec (s := s)
  unfold taken touch
  rw [hs, h]
  split
  · rw [if_neg fun e => Bool.false_ne_true e.1]
  · rfl

theorem mem_taken : (taken f s).mem = s.mem := by
  obtain ⟨a, l, x, h, -⟩ := taken_spec (f := f) (s := s)
  rw [h]

theorem held_taken : (taken f s).link.held = s.link.held := by
  obtain ⟨a, l, x, h, -⟩ := taken_spec (f := f) (s := s)
  rw [h]

theorem hellos_taken : (taken f s).link.hellos = s.link.hellos := by
  obtain ⟨a, l, x, h, -⟩ := taken_spec (f := f) (s := s)
  rw [h]

/-! ### ACCEPT (R342, R343) -/

theorem exec_accept {r : List Hello} (hp : s.pwr.st = .run) (hi : s.trust.idKey = true) (hh : s.link.hellos = q :: r)
    (hk : s.sess[k].ph = .free ∨ slotFree s = false) :
    exec (.sessionAccept k h) s = .next (answerHello k q h (updLink (fun l => { l with hellos := r }) s)) := by
  change execSessionAccept k h s = _
  rw [execSessionAccept, hh]
  refine congrArg Host.Outcome.next (if_pos ?_)
  have hor : (s.sess[k].ph == SessPh.free || !slotFree s) = true := by
    obtain hk | hk := hk
    · rw [hk]; rfl
    · rw [hk]; exact Bool.or_true _
  rw [hp, hi, hor]
  rfl

theorem slotFree_of (hk : s.sess[k].ph = .free) : slotFree s = true := by
  unfold slotFree
  rw [List.any_eq_true]
  exact ⟨k, List.mem_finRange k, beq_iff_eq.2 hk⟩

theorem hellos_cureSlots {l : List (Fin 64)} : ∃ d, cureSlots l s = { s with ms := { s.ms with dieBad := d } } := by
  unfold cureSlots
  refine List.foldlRecOn (motive := fun u : State => ∃ d, u = { s with ms := { s.ms with dieBad := d } }) _ _ ⟨_, rfl⟩ ?_
  rintro u ⟨d, rfl⟩ e -
  exact ⟨_, rfl⟩

theorem slots_put {e : Bn} {z : Fin 64} {x : BnSlot} : (e.put z x).slots[z] = x ∧
    ∀ j : Fin 64, j ≠ z → (e.put z x).slots[j] = e.slots[j] := by
  refine ⟨by simp [Bn.put], fun j hj => ?_⟩
  simp only [Bn.put, Fin.getElem_fin]
  exact Vector.getElem_set_ne _ _ fun e => hj (Fin.ext e.symm)

/-- The slot's secret and the session that awaits its FINISH. -/
theorem acceptHello_spec (k : Slot) (q : Hello) (h : Handshake) (s : State) :
    let th := transcript q.bytes (acceptHead k q h s)
    (acceptHello k q h s).mem = s.mem ∧ (acceptHello k q h s).bays = s.bays ∧
    (acceptHello k q h s).link.hellos = s.link.hellos ∧
    (∀ j : Slot, j ≠ k → (acceptHello k q h s).sess[j] = s.sess[j]) ∧
    (acceptHello k q h s).sess[k] = q.keyed th (sessionOkm q h th s) ∧
    (acceptHello k q h s).bn.slots[h.z] = BnSlot.reset ∧
    (∀ j : Fin 64, j ≠ h.z → (acceptHello k q h s).bn.slots[j] = s.bn.slots[j]) ∧
    sends (acceptHello k q h s) (fun g => g.cls = 2#8 ∧ g.opc = 2#8 ∧ g.sess.toNat = k.val ∧
      g.payload = acceptHead k q h s ++ idSign s.trust.fuses (asciiBytes "HORRIC-S" ++ th)) := by
  intro th
  have he : acceptHello k q h s = sendSession 2#8 (BitVec.ofNat 8 k.val) q.tid
      (acceptHead k q h s ++ idSign s.trust.fuses (asciiBytes "HORRIC-S" ++ th))
      (updSess k (fun _ => q.keyed th (sessionOkm q h th s)) (freeZ h.z s)) := rfl
  obtain ⟨d, hd⟩ := hellos_cureSlots (l := [h.z]) (s := s)
  have hz : freeZ h.z s = { s with ms := { s.ms with dieBad := d }, bn := s.bn.put h.z BnSlot.reset } := by
    unfold freeZ
    rw [hd]
    rfl
  generalize acceptHead k q h s ++ idSign s.trust.fuses (asciiBytes "HORRIC-S" ++ th) = v at he ⊢
  generalize sessionOkm q h th s = okm at he ⊢
  generalize hw : updSess k (fun _ => q.keyed th okm) (freeZ h.z s) = w at he
  have hs : Sent 1 w (sendSession 2#8 (BitVec.ofNat 8 k.val) q.tid v w) := sent_sendFrame
  obtain ⟨-, -, hhe, -⟩ := hs.link
  obtain ⟨hp, hpn⟩ := slots_put (e := s.bn) (z := h.z) (x := BnSlot.reset)
  have hframe : (acceptHello k q h s) = { w with link := (acceptHello k q h s).link } := by
    rw [he]; exact hs.linkOnly
  have hwz : w.mem = s.mem ∧ w.bays = s.bays ∧ w.link = s.link ∧ w.bn = s.bn.put h.z BnSlot.reset := by
    rw [← hw, hz]; exact ⟨rfl, rfl, rfl, rfl⟩
  obtain ⟨wm, wb, wl, wn⟩ := hwz
  refine ⟨?_, ?_, ?_, fun j hj => ?_, ?_, ?_, fun j hj => ?_, ?_⟩
  · rw [hframe]; exact wm
  · rw [hframe]; exact wb
  · rw [he, hhe, wl]
  · rw [hframe]
    change w.sess[j] = _
    rw [← hw, sess_updSess_ne hj, hz]
  · rw [hframe]
    change w.sess[k] = _
    rw [← hw, sess_updSess]
  · rw [hframe]
    change w.bn.slots[h.z] = _
    rw [wn, hp]
  · rw [hframe]
    change w.bn.slots[j] = _
    rw [wn, hpn j hj]
  · rw [he]
    refine sends_mono sends_sendSession fun g hg => ?_
    obtain ⟨h1, h2, h3, h4⟩ := hg
    have := k.isLt
    exact ⟨h1, h2, by rw [h3, BitVec.toNat_ofNat]; omega, h4⟩

theorem refuseHello_spec {tid : BitVec 16} {r : Byte} : LinkOnly s (refuseHello tid r s) ∧
    (refuseHello tid r s).link.hellos = s.link.hellos ∧
    sends (refuseHello tid r s) (fun g => g.cls = 2#8 ∧ g.opc = 5#8 ∧ g.sess = 0xFF#8 ∧ g.payload = [r]) := by
  have hs : Sent 1 s (refuseHello tid r s) := sent_sendFrame
  exact ⟨hs.linkOnly, hs.link.2.2.1, sends_sendSession⟩

/-! ### FINISH and CLOSE (R342, R345, R388) -/

theorem refuse_eq {r : Byte} : refuse k r s = sendSession 5#8 (BitVec.ofNat 8 k.val) s.sess[k].tid [r] (freeSlot k s) := rfl

/-- A refusal frees its slot and no other. -/
theorem refuse_spec {r : Byte} : Answered s (refuse k r s) ∧ (refuse k r s).link.rxNext = s.link.rxNext ∧
    load (refuse k r s).link ≤ load s.link + 1 ∧ (refuse k r s).sess[k] = Session.reset ∧
    (∀ j : Slot, j ≠ k → (refuse k r s).sess[j] = s.sess[j]) ∧
    (∀ g ∈ (refuse k r s).link.held ++ (refuse k r s).rcd.gated, g.sess.toNat ≠ k.val) ∧
    sends (refuse k r s) (fun g => g.cls = 2#8 ∧ g.opc = 5#8 ∧ g.payload = [r]) := by
  have hs : Sent 1 (freeSlot k s) (refuse k r s) := sent_sendFrame
  obtain ⟨hx, hl, hg⟩ := link_freeSlot (i := k) (s := s)
  obtain ⟨kx, kh, -, -⟩ := hs.link
  have hsess : (refuse k r s).sess = (freeSlot k s).sess := by rw [hs.linkOnly]
  have hgat : (refuse k r s).rcd = (freeSlot k s).rcd := by rw [hs.linkOnly]
  refine ⟨(answered_freeSlot k s).trans hs.linkOnly.answered, kx.trans hx, ?_, ?_, fun j hj => ?_, ?_, ?_⟩
  · have := hs.2
    omega
  · rw [hsess, sess_freeSlot_self]
  · rw [hsess, sess_freeSlot_ne hj]
  · rw [kh, hgat]
    exact hg
  · rw [refuse_eq]
    exact sends_mono sends_sendSession fun g hg => ⟨hg.1, hg.2.1, hg.2.2.2⟩

/-- A session frame that no earlier frame precedes is passed at once: none of its kind is gated or kept in order. -/
theorem arrive_session {opc : Byte} (hc : f.cls = 2#8) (ho : f.opc = opc) (hn : opc = 3#8 ∨ opc = 6#8) (hh : s.link.held = []) :
    arrive f s = passFrame f .clean s := by
  have hm : mustHold f s = false := by
    unfold mustHold
    rw [hc, ho]
    obtain rfl | rfl := hn <;> rfl
  have hp : precedes f s.link.held s = true := by
    unfold precedes
    rw [hh]
    split_ifs <;> rfl
  refine arriveMet_passes ?_ (.inl ?_) (.inl ?_)
  · unfold canPass
    rw [hm, hp]
    rfl
  · simp [isGated, isOdWrite, hc]
  · simp [inOrder, hc]

theorem passFrame_finish (hc : f.cls = 2#8) (ho : f.opc = 3#8) : passFrame f .clean s = serveFinish f (recordInput f s) := by
  unfold passFrame
  rw [hc, ho]
  rfl

theorem passFrame_close (hc : f.cls = 2#8) (ho : f.opc = 6#8) : passFrame f .clean s = serveClose f (recordInput f s) := by
  unfold passFrame
  rw [hc, ho]
  rfl

theorem passFrame_hello (hc : f.cls = 2#8) (ho : f.opc = 1#8) : passFrame f .clean s = serveHello f (recordInput f s) := by
  unfold passFrame
  rw [hc, ho]
  rfl

theorem frameSealed_of (ho : f.opc ≠ 1#8) : frameSealed f = true := by simp [frameSealed, ho]

/-- The slot of an accepted FINISH awaits it. -/
theorem finish_of_accepts (h : accepts 2#8 3#8 f s = true) (hk : slotOf f.sess = some k) : s.sess[k].ph = .finish := by
  obtain ⟨-, hc, ho, -, hf, -⟩ := accepts_iff.1 h
  by_contra hn
  have hs : slotServes f s = false := by
    unfold slotServes
    rw [hk]
    simp only [hc, ho, and_self, if_true]
    exact beq_eq_false_iff_ne.2 hn
  unfold frameFails at hf
  rw [frameSealed_of (by rw [ho]; decide), hs] at hf
  split_ifs at hf with h1 h2
  exact h2 rfl

/-- A FINISH opens the session, or frees the slot with a reason (R342, R388). -/
theorem serveFinish_spec (hk : slotOf f.sess = some k) : (serveFinish f s).mem = s.mem ∧
    (serveFinish f s).link.rxNext = s.link.rxNext ∧ load (serveFinish f s).link ≤ load s.link + 1 ∧
    (∀ j : Slot, j ≠ k → (serveFinish f s).sess[j] = s.sess[j]) ∧
    (if proofHolds f k s = true ∧ ¬(s.sess[k].role = 2 ∧ custodianOpen k s = true) then
      (serveFinish f s).sess[k] = Session.open { s.sess[k] with tid := f.tid } ∧
        sends (serveFinish f s) (fun g => g.cls = 2#8 ∧ g.opc = 4#8 ∧ g.sess = f.sess)
     else (serveFinish f s).sess[k] = Session.reset ∧
        sends (serveFinish f s) (fun g => g.cls = 2#8 ∧ g.opc = 5#8 ∧ g.payload = [if proofHolds f k s = true then 4#8 else 5#8])) := by
  generalize hv : updSess k (fun x => { x with tid := f.tid }) (creditBack (some 5) s) = v
  have hb : Sent 0 s (creditBack (some 5) s) := sent_creditBack
  have hbs : (creditBack (some 5) s).sess = s.sess := by rw [hb.linkOnly]
  have hself : v.sess[k] = { s.sess[k] with tid := f.tid } := by rw [← hv, sess_updSess, hbs]
  have hother (j : Slot) (hj : j ≠ k) : v.sess[j] = s.sess[j] := by rw [← hv, sess_updSess_ne hj, hbs]
  have hbt : (creditBack (some 5) s).trust = s.trust := by rw [hb.linkOnly]
  have hbm : (creditBack (some 5) s).mem = s.mem := by rw [hb.linkOnly]
  have htrust : v.trust = s.trust := by rw [← hv]; exact hbt
  have hmem : v.mem = s.mem := by rw [← hv]; exact hbm
  have hlink : v.link = (creditBack (some 5) s).link := by rw [← hv]; rfl
  have hrx : v.link.rxNext = s.link.rxNext := by rw [hlink]; exact hb.link.1
  have hload : load v.link ≤ load s.link := by rw [hlink]; exact hb.2
  have hproof : proofHolds f k v = proofHolds f k s := proofHolds_congr htrust (by rw [hself]) (by rw [hself])
  have hcust : custodianOpen k v = custodianOpen k s := custodianOpen_congr fun j hj => by rw [hother j hj]; exact ⟨rfl, Iff.rfl⟩
  have hrole : v.sess[k].role = s.sess[k].role := by rw [hself]
  have he : serveFinish f s = if !proofHolds f k v then refuse k 5#8 v
      else if v.sess[k].role == 2 && custodianOpen k v then refuse k 4#8 v
      else sendSession 4#8 f.sess f.tid [] (updSess k Session.open v) := by
    unfold serveFinish
    rw [hk, ← hv]
  have refused (r : Byte) (hr : serveFinish f s = refuse k r v) : (serveFinish f s).mem = s.mem ∧
      (serveFinish f s).link.rxNext = s.link.rxNext ∧ load (serveFinish f s).link ≤ load s.link + 1 ∧
      (∀ j : Slot, j ≠ k → (serveFinish f s).sess[j] = s.sess[j]) ∧ (serveFinish f s).sess[k] = Session.reset ∧
        sends (serveFinish f s) (fun g => g.cls = 2#8 ∧ g.opc = 5#8 ∧ g.payload = [r]) := by
    obtain ⟨⟨l, x, c, o, g, w, d, -, -, ha⟩, h1, h2, h3, h4, -, h6⟩ := refuse_spec (k := k) (r := r) (s := v)
    rw [hr]
    exact ⟨(congrArg State.mem ha).trans hmem, h1.trans hrx, by omega, fun j hj => (h4 j hj).trans (hother j hj), h3, h6⟩
  cases hp : proofHolds f k s with
  | false =>
    obtain ⟨h1, h2, h3, h4, h5, h6⟩ := refused 5#8 (by rw [he, hproof, hp]; rfl)
    refine ⟨h1, h2, h3, h4, ?_⟩
    rw [if_neg fun e => Bool.false_ne_true e.1, if_neg Bool.false_ne_true]
    exact ⟨h5, h6⟩
  | true =>
    by_cases hcu : s.sess[k].role = 2 ∧ custodianOpen k s = true
    · obtain ⟨h1, h2, h3, h4, h5, h6⟩ := refused 4#8 (by rw [he, hproof, hp, hrole, hcu.1, hcust, hcu.2]; rfl)
      refine ⟨h1, h2, h3, h4, ?_⟩
      rw [if_neg fun e => e.2 hcu, if_pos rfl]
      exact ⟨h5, h6⟩
    · have hno : (v.sess[k].role == 2 && custodianOpen k v) = false := by
        rw [hrole, hcust]
        simpa using hcu
      have heq : serveFinish f s = sendSession 4#8 f.sess f.tid [] (updSess k Session.open v) := by
        rw [he, hproof, hp, hno]
        rfl
      have hs : Sent 1 (updSess k Session.open v) (sendSession 4#8 f.sess f.tid [] (updSess k Session.open v)) := sent_sendFrame
      rw [if_pos ⟨rfl, hcu⟩, heq]
      have hsess : (sendSession 4#8 f.sess f.tid [] (updSess k Session.open v)).sess = (updSess k Session.open v).sess := by
        rw [hs.linkOnly]
      refine ⟨?_, hs.link.1.trans hrx, ?_, fun j hj => ?_, ?_, sends_mono sends_sendSession fun g hg => ⟨hg.1, hg.2.1, hg.2.2.1⟩⟩
      · exact (congrArg State.mem hs.linkOnly).trans hmem
      · have hl : load (updSess k Session.open v).link = load v.link := rfl
        have := hs.2
        omega
      · rw [hsess, sess_updSess_ne hj, hother j hj]
      · rw [hsess, sess_updSess, hself]

/-- A CLOSE frees its slot (R345). -/
theorem serveClose_spec (hk : slotOf f.sess = some k) : Answered s (serveClose f s) ∧
    (serveClose f s).link.rxNext = s.link.rxNext ∧ load (serveClose f s).link ≤ load s.link ∧
    (serveClose f s).sess[k] = Session.reset ∧ (∀ j : Slot, j ≠ k → (serveClose f s).sess[j] = s.sess[j]) ∧
    ∀ g ∈ (serveClose f s).link.held ++ (serveClose f s).rcd.gated, g.sess.toNat ≠ k.val := by
  have hb : Sent 0 s (creditBack (some 5) s) := sent_creditBack
  have hbs : (creditBack (some 5) s).sess = s.sess := by rw [hb.linkOnly]
  have he : serveClose f s = freeSlot k (creditBack (some 5) s) := by
    unfold serveClose
    rw [hk]
  obtain ⟨hx, hl, hg⟩ := link_freeSlot (i := k) (s := creditBack (some 5) s)
  rw [he]
  refine ⟨hb.linkOnly.answered.trans (answered_freeSlot _ _), hx.trans hb.link.1, hl.trans hb.2, sess_freeSlot_self,
    fun j hj => ?_, hg⟩
  rw [sess_freeSlot_ne hj, hbs]

/-! ### Closed by an OD write, and a nonce (R345, R385) -/

/-- The sessions an answer leaves when none waits for its response to close. -/
theorem sess_finishCur {n : Nat} (h : s.od.closeAfter = []) : (finishCur n s).sess = s.sess := by
  unfold finishCur
  split
  · rename_i q hq
    unfold finish
    have hl : LinkOnly { s with od := { s.od with cur := none } } (answer q n { s with od := { s.od with cur := none } }) :=
      linkOnly_answer h
    dsimp only
    split_ifs
    · show (answer q n { s with od := { s.od with cur := none } }).sess = s.sess
      rw [hl]
    · rw [hl]
  · rfl

theorem mem_finishCur {n : Nat} : (finishCur n s).mem = s.mem := by
  obtain ⟨⟨l, x, c, o, g, w, d, -, -, h⟩, -⟩ := finishCur_spec n s
  rw [h]
  rfl

/-- The slots a mask names close. -/
def closeNamed (n : Nat) (s : State) (i : Slot) : State := if n.testBit i.val then closeSlot i s else s

theorem answered_closeNamed {n : Nat} {l : List Slot} : Answered s (l.foldl (closeNamed n) s) :=
  answered_foldl _ (fun s i => by unfold closeNamed; split; exacts [answered_closeSlot i s, .refl s]) _ s

theorem sess_closeNamed {n : Nat} : (closeNamed n s i).sess[k] =
    if k = i ∧ n.testBit i.val = true ∧ s.sess[i].ph ≠ .free then Session.reset else s.sess[k] := by
  unfold closeNamed
  by_cases h1 : n.testBit i.val = true
  · rw [if_pos h1, sess_closeSlot]
    simp only [h1, true_and]
  · rw [if_neg h1, if_neg fun e => h1 e.2.1]

theorem sess_closeAll_unnamed {n : Nat} {l : List Slot} (hn : n.testBit k.val = false) :
    (l.foldl (closeNamed n) s).sess[k] = s.sess[k] := by
  induction l generalizing s with
  | nil => rfl
  | cons i l ih =>
    rw [List.foldl_cons, ih, sess_closeNamed, if_neg]
    rintro ⟨rfl, h, -⟩
    rw [hn] at h
    cases h

theorem free_closeNamed {n : Nat} (h : s.sess[k].ph = .free ∨ n.testBit k.val = true ∧ k = i) :
    (closeNamed n s i).sess[k].ph = .free := by
  rw [sess_closeNamed]
  by_cases hf : s.sess[k].ph = .free
  · split_ifs
    · rfl
    · exact hf
  · obtain ⟨hb, rfl⟩ := h.resolve_left hf
    rw [if_pos ⟨rfl, hb, hf⟩]
    rfl

theorem free_closeAll {n : Nat} {l : List Slot} (h : s.sess[k].ph = .free ∨ n.testBit k.val = true ∧ k ∈ l) :
    (l.foldl (closeNamed n) s).sess[k].ph = .free := by
  induction l generalizing s with
  | nil => exact h.resolve_right fun e => by simp at e
  | cons i l ih =>
    rw [List.foldl_cons]
    refine ih ?_
    obtain h | ⟨hb, hm⟩ := h
    · exact .inl (free_closeNamed (.inl h))
    · by_cases hi : k = i
      · exact .inl (free_closeNamed (.inr ⟨hb, hi⟩))
      · exact .inr ⟨hb, (List.mem_cons.1 hm).resolve_left hi⟩

theorem closeAfter_closeAll {n : Nat} {l : List Slot} (h : s.od.closeAfter = []) : (l.foldl (closeNamed n) s).od.closeAfter = [] := by
  refine List.foldlRecOn (motive := fun u : State => u.od.closeAfter = []) _ _ h fun u hu i _ => ?_
  unfold closeNamed closeSlot
  split_ifs
  · exact hu
  · have hs := sent_freeSlot (i := i) (s := u)
    have ho : (freeSlot i u).od = (vacated i u).od := by rw [hs.linkOnly]
    show (freeSlot i u).od.closeAfter = []
    rw [ho]
    show u.od.closeAfter.filter _ = []
    rw [hu]
    rfl
  · exact hu

/-- What a nonce begins: a report of the state at the write's stamp, unless one is in progress (R385). -/
def nonceTaken (q : OdReq) (s : State) : State × Nat :=
  if s.sess[q.slot].att.status = 1 then (s, 0x0C)
  else (if q.mute then s else
    updSess q.slot (fun x => { x with att := { s.sess[q.slot].att with status := 1, snapshot := q.head } }) s, 0)

theorem mem_nonceTaken {q : OdReq} : (nonceTaken q s).1.mem = s.mem := by
  unfold nonceTaken
  split_ifs
  · rfl
  · rfl
  · rfl

/-- Settles O45: a frame accepted is served and its answer leaves the link's LSEQs low, so no reinitialisation follows. -/
theorem sessions : Obligations.Sessions := by
  unfold Obligations.Sessions
  refine ⟨fun f s h => ?_, fun k h q r s hp hi hh => ⟨fun hk => ?_, fun hf => ?_, fun hk hf => ?_⟩, fun f k s h hk hh => ?_,
    fun f k s h hk hh => ?_, fun k s c hp hc => ?_, fun q s h hca => ?_, fun q s h hca hm => ?_, fun k s hp ha => ?_⟩
  · have hacc := (passes_iff.1 h).1
    obtain ⟨-, hc, ho, -⟩ := accepts_iff.1 hacc
    obtain ⟨hro, -, r, hr⟩ := recordInput_spec (f := f) (s := taken f s)
    obtain ⟨hl, hrx, hload, hres⟩ := serveHello_spec (f := f) (s := recordInput f (taken f s))
    have hlink : (recordInput f (taken f s)).link = (taken f s).link := by rw [hr]
    have hsess : (recordInput f (taken f s)).sess = s.sess := by rw [hr]; exact sess_taken_hello hc ho
    have hx : exec (.sessionHello f) s = .next (serveHello f (recordInput f (taken f s))) := by
      refine congrArg Host.Outcome.next ((receive_accepted hacc).trans ?_)
      have hp : arrive f (taken f s) = serveHello f (recordInput f (taken f s)) :=
        (arriveMet_taken h).trans (passFrame_hello hc ho)
      rw [hp]
      refine lseqEnd_of_sent hacc ?_ ?_
      · rw [hrx, hlink, rxNext_taken]
      · rw [hlink, load_taken] at hload
        omega
    have hmem : (serveHello f (recordInput f (taken f s))).mem = (recordInput f (taken f s)).mem := by rw [hl]
    refine ⟨_, hx, ?_, ?_, ?_, ?_⟩
    · refine ringOnly_trans (t := recordInput f (taken f s)) (ringOnly_trans (t := taken f s) ?_ hro) fun a _ => rd_congr hmem a
      exact fun a _ => rd_congr mem_taken a
    · rw [hrx, hlink, rxNext_taken]
    · rw [hl]
      exact hsess
    · have hfree : slotFree (recordInput f (taken f s)) = slotFree s := by unfold slotFree; rw [hsess]
      rw [hfree, hlink, hellos_taken] at hres
      exact hres
  · have hx := exec_accept (h := h) hp hi hh (.inl hk)
    have hfree : slotFree (updLink (fun l => { l with hellos := r }) s) = true := slotFree_of (s := updLink _ s) hk
    unfold answerHello at hx
    rw [if_neg (by rw [hfree]; decide)] at hx
    by_cases hko : keysOk q h s = true
    · have hko' : keysOk q h (updLink (fun l => { l with hellos := r }) s) = true := hko
      rw [if_neg (by rw [hko']; decide)] at hx
      by_cases hcu : q.role = 2 ∧ custodianOpen k s = true
      · have hcu' : (q.role == 2 && custodianOpen k (updLink (fun l => { l with hellos := r }) s)) = true := by
          rw [hcu.1]
          exact hcu.2
        rw [if_pos hcu'] at hx
        obtain ⟨hl, hhe, hse⟩ := refuseHello_spec (s := updLink (fun l => { l with hellos := r }) s) (tid := q.tid) (r := 4#8)
        refine ⟨_, hx, ?_, ?_, hhe, fun j _ => ?_, ?_⟩
        · rw [hl]; rfl
        · rw [hl]; rfl
        · rw [hl]; rfl
        · rw [if_neg fun e => e.2 hcu, if_pos hko]
          exact ⟨by rw [hl]; rfl, by rw [hl]; rfl, hse⟩
      · have hcu' : ¬ (q.role == 2 && custodianOpen k (updLink (fun l => { l with hellos := r }) s)) = true := by
          rw [Bool.and_eq_true, beq_iff_eq]
          exact hcu
        rw [if_neg hcu'] at hx
        obtain ⟨h1, h2, h3, h4, h5, h6, h7, h8⟩ := acceptHello_spec k q h (updLink (fun l => { l with hellos := r }) s)
        refine ⟨_, hx, h1, h2, h3, h4, ?_⟩
        rw [if_pos ⟨hko, hcu⟩]
        exact ⟨h5, h6, h7, h8⟩
    · have hko' : keysOk q h (updLink (fun l => { l with hellos := r }) s) = false :=
        Bool.eq_false_iff.2 hko
      rw [if_pos (by rw [hko']; rfl)] at hx
      obtain ⟨hl, hhe, hse⟩ := refuseHello_spec (s := updLink (fun l => { l with hellos := r }) s) (tid := q.tid) (r := 3#8)
      refine ⟨_, hx, ?_, ?_, hhe, fun j _ => ?_, ?_⟩
      · rw [hl]; rfl
      · rw [hl]; rfl
      · rw [hl]; rfl
      · rw [if_neg fun e => hko e.1, if_neg hko]
        exact ⟨by rw [hl]; rfl, by rw [hl]; rfl, hse⟩
  · have hx := exec_accept (k := k) (h := h) hp hi hh (.inr hf)
    unfold answerHello at hx
    rw [if_pos (by rw [show slotFree (updLink (fun l => { l with hellos := r }) s) = false from hf]; rfl)] at hx
    obtain ⟨hl, hhe, hse⟩ := refuseHello_spec (s := updLink (fun l => { l with hellos := r }) s) (tid := q.tid) (r := 2#8)
    exact ⟨_, hx, by rw [hl]; rfl, by rw [hl]; rfl, by rw [hl]; rfl, by rw [hl]; rfl, hhe, hse⟩
  · change execSessionAccept k h s = _
    rw [execSessionAccept, hh]
    refine congrArg Host.Outcome.next (if_neg ?_)
    rw [hf, beq_eq_false_iff_ne.2 hk]
    simp
  · intro ok
    obtain ⟨-, hc, ho, -⟩ := accepts_iff.1 h
    have hfin := finish_of_accepts h hk
    obtain ⟨a, l, x, ht, hxo, hxk⟩ := taken_spec (f := f) (s := s)
    have hself : (taken f s).sess[k] = s.sess[k] := by rw [ht]; exact (hxk k).2 (by rw [hfin]; decide)
    have hother (j : Slot) (hj : j ≠ k) : (taken f s).sess[j] = s.sess[j] := by
      rw [ht]
      exact hxo j fun e => hj (Option.some.inj (e.symm.trans hk))
    generalize hu : noteFinish f (taken f s) = u
    have hue : u = updSess k (fun x => { x with finCame := true }) (taken f s) := by
      rw [← hu, noteFinish, hk]
    obtain ⟨hro, -, r, hr⟩ := recordInput_spec (f := f) (s := u)
    generalize hw : recordInput f u = w at hro hr
    have hwk : w.sess[k] = { s.sess[k] with finCame := true } := by
      rw [hr]
      change u.sess[k] = _
      rw [hue, sess_updSess, hself]
    have hwo (j : Slot) (hj : j ≠ k) : w.sess[j] = s.sess[j] := by
      rw [hr]
      change u.sess[j] = _
      rw [hue, sess_updSess_ne hj, hother j hj]
    have hwl : w.link = (taken f s).link := by
      rw [hr]
      change u.link = _
      rw [hue]
      rfl
    have hwt : w.trust = s.trust := by
      rw [hr]
      change u.trust = _
      rw [hue, updSess, ht]
    obtain ⟨h1, h2, h3, h4, h5⟩ := serveFinish_spec (s := w) hk
    have hx : exec (.sessionFinish f) s = .next (serveFinish f w) := by
      refine congrArg Host.Outcome.next ((receive_accepted h).trans ?_)
      have hp : arrive f (noteFinish f (taken f s)) = serveFinish f w := by
        rw [hu, arrive_session hc ho (.inl rfl) (by rw [hue]; exact held_taken.trans hh), passFrame_finish hc ho, hw]
      rw [hp]
      refine lseqEnd_of_sent h ?_ ?_
      · rw [h2, hwl, rxNext_taken]
      · rw [hwl, load_taken] at h3
        omega
    have hproof : proofHolds f k w = ok := proofHolds_congr hwt (by rw [hwk]) (by rw [hwk])
    have hcust : custodianOpen k w = custodianOpen k s := custodianOpen_congr fun j hj => by rw [hwo j hj]; exact ⟨rfl, Iff.rfl⟩
    refine ⟨_, hx, ?_, fun j hj => (h4 j hj).trans (hwo j hj), ?_⟩
    · refine ringOnly_trans (t := w) (ringOnly_trans (t := u) ?_ hro) fun a _ => rd_congr h1 a
      rw [hue]
      exact fun a _ => rd_congr mem_taken a
    · rw [hproof, hcust, hwk] at h5
      exact h5
  · obtain ⟨-, hc, ho, -⟩ := accepts_iff.1 h
    obtain ⟨hro, -, r, hr⟩ := recordInput_spec (f := f) (s := taken f s)
    obtain ⟨⟨l, x, c, o, g, w, d, -, -, ha⟩, h2, h3, h4, h5, h6⟩ := serveClose_spec (s := recordInput f (taken f s)) hk
    have hlink : (recordInput f (taken f s)).link = (taken f s).link := by rw [hr]
    have hsess (j : Slot) (hj : j ≠ k) : (recordInput f (taken f s)).sess[j] = s.sess[j] := by
      obtain ⟨a, l, x, ht, hxo, -⟩ := taken_spec (f := f) (s := s)
      rw [hr]
      change (taken f s).sess[j] = _
      rw [ht]
      exact hxo j fun e => hj (Option.some.inj (e.symm.trans hk))
    have hx : exec (.sessionClose f) s = .next (serveClose f (recordInput f (taken f s))) := by
      refine congrArg Host.Outcome.next ((receive_accepted h).trans ?_)
      have hp : arrive f (taken f s) = serveClose f (recordInput f (taken f s)) := by
        rw [arrive_session hc ho (.inr rfl) (held_taken.trans hh), passFrame_close hc ho]
      rw [hp]
      refine lseqEnd_of_sent h ?_ ?_
      · rw [h2, hlink, rxNext_taken]
      · rw [hlink, load_taken] at h3
        omega
    refine ⟨_, hx, ?_, h4, fun j hj => (h5 j hj).trans (hsess j hj), h6⟩
    refine ringOnly_trans (t := recordInput f (taken f s)) (ringOnly_trans (t := taken f s) ?_ hro) fun a _ => ?_
    · exact fun a _ => rd_congr mem_taken a
    · exact rd_congr (by rw [ha]) a
  · obtain ⟨rfl, hph, hfc, hti⟩ | ⟨rfl, hph, hti⟩ := hc
    · have hx : exec (.finishTimeout k) s = .next (refuse k 6#8 s) :=
        congrArg Host.Outcome.next (if_pos (by
          show (s.pwr.st == .run && s.sess[k].ph == .finish && !s.sess[k].finCame && decide (1024 ≤ s.sess[k].timer)) = true
          rw [hp, hph, hfc, decide_eq_true hti]
          rfl))
      obtain ⟨⟨l, x, c, o, g, w, d, -, -, ha⟩, -, -, h3, h4, h5, -⟩ := refuse_spec (k := k) (r := 6#8) (s := s)
      exact ⟨_, hx, by rw [ha], by rw [ha], h3, h4, h5⟩
    · have hx : exec (.sessionIdleTimeout k) s = .next (closeSlot k s) :=
        congrArg Host.Outcome.next (if_pos (by
          rw [hp, hph, decide_eq_true hti]
          rfl))
      obtain ⟨l, x, c, o, g, w, d, -, -, ha⟩ := answered_closeSlot k s
      have hne : s.sess[k].ph ≠ .free := by rw [hph]; decide
      refine ⟨_, hx, by rw [ha], by rw [ha], ?_, fun j hj => ?_, ?_⟩
      · rw [sess_closeSlot, if_pos ⟨rfl, hne⟩]
      · rw [sess_closeSlot, if_neg fun e => hj e.1]
      · have he : closeSlot k s = pushFrame (keyed (outFrame 2#8 6#8 (BitVec.ofNat 8 k.val) 0#16 0#48 0#64 []) s) (freeSlot k s) :=
          if_neg hne
        have hs : Sent 1 (freeSlot k s) (closeSlot k s) := by rw [he]; exact sent_pushFrame
        have hg : (closeSlot k s).rcd = (freeSlot k s).rcd := by rw [hs.linkOnly]
        rw [hs.link.2.1, hg]
        exact link_freeSlot.2.2
  · have hx : exec .odSessionClose s = .next (finishCur 0 ((List.finRange 4).foldl (closeNamed (leNat q.value)) s)) :=
      congrArg Host.Outcome.next (applyOd_taken h)
    obtain ⟨l, x, c, o, g, w, d, -, -, ha⟩ := answered_closeNamed (s := s) (n := leNat q.value) (l := List.finRange 4)
    refine ⟨_, hx, mem_finishCur.trans (by rw [ha]), (finishCur_spec _ _).2, fun k => ?_⟩
    rw [sess_finishCur (closeAfter_closeAll hca)]
    split_ifs with hb
    · exact free_closeAll (.inr ⟨hb, List.mem_finRange k⟩)
    · exact sess_closeAll_unnamed (by simpa using hb)
  · have hx : exec .odAttestNonce s = .next (finishCur (nonceTaken q s).2 (nonceTaken q s).1) :=
      congrArg Host.Outcome.next (applyOd_taken h)
    refine ⟨_, hx, mem_finishCur.trans mem_nonceTaken, (finishCur_spec _ _).2, ?_⟩
    by_cases hst : s.sess[q.slot].att.status = 1
    · rw [if_pos hst, nonceTaken, if_pos hst]
      exact sess_finishCur hca
    · rw [if_neg hst, nonceTaken, if_neg hst, hm]
      dsimp only
      rw [if_neg Bool.false_ne_true, sess_finishCur (s := updSess _ _ s) hca, sess_updSess]
  · intro a
    have hx : exec (.attestReportReady k) s = .next (updSess k (fun x => { x with att := { a with
        status := 2, report := padTo 4096 (a.snapshot ++ idSign s.trust.fuses (asciiBytes "SHOZAL-A" ++ a.snapshot)) } }) s) :=
      congrArg Host.Outcome.next (if_pos (by
        show (s.pwr.st == .run && s.sess[k].att.status == 1) = true
        rw [hp, ha]
        rfl))
    exact ⟨_, hx, rfl, sess_updSess, fun j hj => sess_updSess_ne hj⟩

end Sys2Proof.Proofs.SessionSteps
end

section
/-! PROOFS. The refutation of Frames: a bulk read with no bytes left, at an address inside a word, still reads that word, and counts
it where it is uncorrectable, though its range of no bytes holds no bad one. -/

namespace Sys2Proof.Proofs.FrameReads

open Sys2Proof Sys2Proof.Machine

/-- A read of no bytes that starts inside the first word of memory. -/
def emptyRead : BulkRun := { sess := 0#8, tid := 0#16, addr := 1, left := 0 }

/-- After reset, but for the supply in RUN, the first sector uncorrectable, and the read to be answered. -/
def readWaiting : State :=
  { State.reset with
    pwr := { Power.reset with st := .run }
    ms := { State.reset.ms with badSectors := [0] }
    link := { Link.reset with reads := [emptyRead] } }

/-- The count of uncorrectable sectors an outcome's state shows. -/
def shownSecUe : Host.Outcome State Fault Refusal → Nat
  | .next t => t.codes.secUe
  | _ => 0

theorem readWaiting_ready : clocked readWaiting = true ∧ memFree readWaiting = true ∧
    readWaiting.link.reads = [emptyRead] ∧ rangeBad readWaiting emptyRead.addr (min 4096 emptyRead.left) = false ∧
    readWaiting.codes.secUe = 0 := by
  decide +kernel

theorem readWaiting_counts : shownSecUe (exec (.bulkReadData .clean) readWaiting) = 1 := by
  decide +kernel

/-- Refutes O46: answering `emptyRead` counts an uncorrectable sector, where the statement has the codes stay as they are for a
chunk whose range holds no bad byte. Frames that pass R346 ask for one byte at least; the statement does not suppose it. -/
theorem not_frames : ¬ Obligations.Frames := by
  unfold Obligations.Frames
  rintro ⟨-, -, -, -, -, -, h, -⟩
  obtain ⟨hrun, hfree, hreads, hsound, hzero⟩ := readWaiting_ready
  obtain ⟨t, hx, -, hcodes, -⟩ := h emptyRead [] readWaiting hrun hfree hreads
  have hshown := readWaiting_counts
  rw [hx, shownSecUe, hcodes hsound, hzero] at hshown
  exact absurd hshown (by decide)

end Sys2Proof.Proofs.FrameReads
end

section
/-! PROOFS. Closing a bracket: the destination's limbs zeroed, its header written, the bracket gone (R53, R54, R121, R203, R454). -/

namespace Sys2Proof.Proofs.BracketCloses

open Sys2Proof Sys2Proof.Machine Sys2Proof.Laws.State Sys2Proof.Laws.Memory Sys2Proof.Laws.Ops Sys2Proof.Proofs.FlagWaits
  Sys2Proof.Proofs.RecordRing Sys2Proof.Proofs.DeviceModes

variable {s t u : State} {mask : BayMask} {o : OpenOp}

/-! ### What a closure decides -/

theorem scaleOk_one {e : Nat} : scaleOk 1#2 e = true ↔ 1 ≤ e ∧ e ≤ 120 := by
  simp only [scaleOk, if_true, Bool.and_eq_true, decide_eq_true_eq]
  omega

/-- Every bay of the mask declares once and all declare alike, both values in range (R121). -/
def Declares (s : State) (mask : BayMask) (o : OpenOp) (l e : Byte) : Prop :=
  (∀ b : Bay, mask.getLsbD b = true → (o.hout.filter (fun d => d.1 == b)).length = 1) ∧ (∀ d ∈ o.hout, d.2 = (l, e)) ∧
    (ctxAt s o.src.ctx.toNat).levelOk l.toNat = true ∧ 1 ≤ e.toNat ∧ e.toNat ≤ 120

theorem declared_nil (h : o.hout = []) : declared s mask o = none := by
  rw [declared, h]

theorem declared_cons {b : Bay} {l e : Byte} {r : List (Bay × Byte × Byte)} (h : o.hout = (b, l, e) :: r) {_ : Decidable (Declares s mask o l e)} :
    declared s mask o = if Declares s mask o l e then some (l, e) else none := by
  unfold declared
  split
  next h' => rw [h] at h'; cases h'
  next h' =>
    rw [h] at h'
    obtain ⟨⟨rfl, rfl, rfl⟩, -⟩ := List.cons.inj h'
    refine if_congr ?_ rfl rfl
    simp only [Declares, Bool.and_eq_true, List.all_eq_true, List.mem_finRange, true_imp_iff, Bool.or_eq_true, Bool.not_eq_true',
      beq_iff_eq, scaleOk_one, and_assoc]
    refine and_congr (forall_congr' fun b => ?_) Iff.rfl
    cases mask.getLsbD b <;> simp

/-- The bays' forms differ, or no bay declared one (R454). -/
def formsDiffer (o : OpenOp) : Bool := o.nf.isEmpty || o.nf.any (fun f => o.nf.head? != some f)

theorem formsDiffer_cons {f : NForm} {r : List NForm} (h : o.nf = f :: r) : formsDiffer o = !r.all (fun g => g == f) := by
  have hb (g : NForm) : (some f != some g) = !(g == f) := by
    rw [Bool.eq_iff_iff]
    simp [@eq_comm _ f]
  rw [formsDiffer, h, List.not_all_eq_any_not]
  simp [hb]

theorem declaredForm_cons {f : NForm} {r : List NForm} (h : o.nf = f :: r) :
    declaredForm o = if r.all (fun g => g == f) = true then some f else none := by
  rw [declaredForm, h]

theorem declaredForm_of_differ (h : formsDiffer o = true) : declaredForm o = none := by
  rcases hn : o.nf with _ | ⟨f, r⟩
  · rw [declaredForm, hn]
  · rw [formsDiffer_cons hn, Bool.not_eq_true'] at h
    rw [declaredForm_cons hn, if_neg (ne_true_of_eq_false h)]

/-- The form a declaration gives the header (R454). -/
def formOf (f : NForm) (src : Hdr) : Bool :=
  match f with
  | .keep => src.nttf
  | .coef => false
  | .ntt => true

theorem withDecl_eq {h : Hdr} :
    withDecl s mask o h = if declares o.kind o.src = true then
      { h with level := ((declared s mask o).getD (0#8, 0#8)).1, scale := ((declared s mask o).getD (0#8, 0#8)).2 } else h := by
  unfold withDecl
  split
  · rcases declared s mask o with _ | ⟨l, e⟩ <;> rfl
  · rfl

theorem closing_malformed (hv : o.verdict = .malformed) : closing s mask o = (o.out, false, false) := if_pos hv

theorem closing_refused (hm : o.verdict ≠ .malformed) (hr : o.verdict ≠ .run) :
    closing s mask o = (withDecl s mask o o.out, true, false) := (if_neg hm).trans (if_pos hr)

section Run

variable (hv : o.verdict = .run)
include hv

theorem closing_marked {c : Byte} (hm : o.mark = some c) :
    closing s mask o = ((withDecl s mask o o.clamped).mark o.src true false c, true, false) := by
  rw [closing, if_neg (by simp [hv]), if_neg (by simp [hv]), hm]
  rfl

theorem closing_failed (hm : o.mark = none)
    (hb : formsDiffer o = true ∨ declares o.kind o.src = true ∧ (declared s mask o).isNone = true) :
    closing s mask o = ((withDecl s mask o o.out).badDecl o.src, false, true) := by
  rw [closing, if_neg (by simp [hv]), if_neg (by simp [hv]), hm]
  rcases hb with hb | hb
  · rw [declaredForm_of_differ hb]
  · rcases declaredForm o with _ | f
    · rfl
    · exact if_pos hb

theorem closing_formed {f : NForm} {r : List NForm} (hm : o.mark = none) (hn : o.nf = f :: r) (hf : formsDiffer o = false)
    (hd : ¬ (declares o.kind o.src = true ∧ (declared s mask o).isNone = true)) :
    closing s mask o = ({ withDecl s mask o o.out with nttf := formOf f o.src }, false, false) := by
  rw [formsDiffer_cons hn, Bool.not_eq_false'] at hf
  rw [closing, if_neg (by simp [hv]), if_neg (by simp [hv]), hm, declaredForm_cons hn, if_pos hf]
  exact if_neg hd

end Run

/-! ### What a closure leaves -/

/-- Bytes may have been zeroed and words made good; the headers' state, the faults and the streams are as before. -/
def Swept (s t : State) : Prop :=
  t.hdr = s.hdr ∧ t.faults = s.faults ∧ t.beat = s.beat ∧ t.bays = s.bays ∧ (MemInv s → MemInv t) ∧
    ∀ a, byteBad t a = true → byteBad s a = true

theorem Swept.trans (h : Swept s t) (k : Swept t u) : Swept s u := by
  obtain ⟨h₁, h₂, h₃, h₄, h₅, h₆⟩ := h
  obtain ⟨k₁, k₂, k₃, k₄, k₅, k₆⟩ := k
  exact ⟨k₁.trans h₁, k₂.trans h₂, k₃.trans h₃, k₄.trans h₄, k₅ ∘ h₅, fun a ha => h₆ a (k₆ a ha)⟩

theorem swept_zeroRange {lo len : Nat} : Swept s (s.zeroRange lo len) := by
  refine ⟨rfl, rfl, rfl, rfl, memInv_zeroRange, fun a ha => ?_⟩
  unfold byteBad at ha ⊢
  split at ha
  · exact ha
  · exact List.contains_iff_mem.2 (List.mem_of_mem_filter (List.contains_iff_mem.1 ha))

theorem swept_foldl {f : State → Nat → State} (hf : ∀ s k, Swept s (f s k)) (l : List Nat) (s : State) : Swept s (l.foldl f s) := by
  induction l generalizing s with
  | nil => exact ⟨rfl, rfl, rfl, rfl, id, fun _ => id⟩
  | cons k l ih => exact (hf s k).trans (ih _)

/-- Byte `a` lies among the limbs that a header names in window `k`, at ring degree `n` (R41). -/
abbrev InLimbs (n : Nat) (h : Hdr) (k a : Nat) : Prop :=
  k * winSize + h.limbPg.toNat * 4096 ≤ a ∧
    a < k * winSize + h.limbPg.toNat * 4096 + residuesIn h.level.toNat k * h.comp.toNat * 4 * n

/-- The limbs of window `k` zeroed. -/
def zeroLimb (n : Nat) (h : Hdr) (s : State) (k : Nat) : State :=
  traffic [] [(k * winSize + h.limbPg.toNat * 4096, residuesIn h.level.toNat k * h.comp.toNat * 4 * n)]
    (s.zeroRange (k * winSize + h.limbPg.toNat * 4096) (residuesIn h.level.toNat k * h.comp.toNat * 4 * n))

theorem zeroLimbs_eq {h : Hdr} : zeroLimbs h s = (List.range 12).foldl (zeroLimb (ctxAt s h.ctx.toNat).n h) s := rfl

theorem swept_zeroLimb {n k : Nat} {h : Hdr} : Swept s (zeroLimb n h s k) := by
  obtain ⟨h₁, h₂, h₃, h₄, h₅, h₆⟩ := swept_zeroRange (s := s) (lo := k * winSize + h.limbPg.toNat * 4096)
    (len := residuesIn h.level.toNat k * h.comp.toNat * 4 * n)
  exact ⟨h₁, h₂, h₃, h₄, h₅, h₆⟩

theorem zeroed_zeroLimb {n k : Nat} {h : Hdr} : Zeroed (InLimbs n h k) s (zeroLimb n h s k) := ⟨rfl, rfl, fun _ => rd_zeroRange⟩

theorem swept_zeroLimbs {h : Hdr} : Swept s (zeroLimbs h s) := by
  rw [zeroLimbs_eq]
  exact swept_foldl (fun _ _ => swept_zeroLimb) _ _

theorem rd_zeroLimbs {h : Hdr} {a : Nat} :
    (zeroLimbs h s).rd a = if ∃ k ∈ List.range 12, InLimbs (ctxAt s h.ctx.toNat).n h k a then 0#8 else s.rd a := by
  rw [zeroLimbs_eq]
  exact (zeroed_foldl (fun _ _ => zeroed_zeroLimb) (List.range 12) s).rd a

theorem rd_writeHdr_outside {a x : Nat} {h : Hdr} (hx : x < a ∨ a + 64 ≤ x) : (writeHdr a h s).rd x = s.rd x :=
  rd_store_outside (req := 1) (by rwa [length_leBytes])

theorem ldNat_writeHdr {a : Nat} {h : Hdr} (hm : MemInv s) (hb : ∀ j, j < 64 → byteBad s (a + j) = false) :
    (writeHdr a h s).ldNat a 64 = h.toNat % 2 ^ 512 := by
  have hl : (writeHdr a h s).ld a 64 = leBytes h.toNat 64 := by
    change (s.store a (leBytes h.toNat 64) 1).ld a 64 = _
    rw [ld_eq_map]
    refine List.ext_getElem (by simp [length_leBytes]) fun i h₁ h₂ => ?_
    have hi : i < 64 := by simpa using h₁
    rw [List.getElem_map, List.getElem_range', Nat.one_mul, rd_store_inside hm h₂,
      if_pos (by rw [storeKeeps, hb i hi]; rfl)]
  rw [State.ldNat, hl, leNat_leBytes, show (256 : Nat) = 2 ^ 8 from rfl, ← Nat.pow_mul]

/-- What a lowering of REFS leaves as it was: everything but the context table. -/
def RefsOnly (s t : State) : Prop :=
  t.mem = s.mem ∧ t.faults = s.faults ∧ t.bays = s.bays ∧ t.hdr.brackets = s.hdr.brackets

theorem refsOnly_lowerRefs {l : List (Fin 16384)} : RefsOnly s (lowerRefs l s) := by
  unfold lowerRefs
  induction l generalizing s with
  | nil => exact ⟨rfl, rfl, rfl, rfl⟩
  | cons i l ih =>
    obtain ⟨h₁, h₂, h₃, h₄⟩ := ih (s := refDown i.val s)
    have hr : RefsOnly s (refDown i.val s) := by
      simp only [refDown]
      split
      · exact ⟨rfl, rfl, rfl, rfl⟩
      · exact ⟨rfl, rfl, rfl, rfl⟩
    obtain ⟨k₁, k₂, k₃, k₄⟩ := hr
    exact ⟨h₁.trans k₁, h₂.trans k₂, h₃.trans k₃, h₄.trans k₄⟩

/-- A closure as the rules have it: header `h` at its destination, the limbs it names zeroed when `zeroes` says so, fault 0x24
counted when `bad` says so. -/
structure Closed (mask : BayMask) (o : OpenOp) (h : Hdr) (zeroes bad : Bool) (s t : State) : Prop where
  header : t.ldNat o.dst 64 = h.toNat % 2 ^ 512
  brackets : t.hdr.brackets = s.hdr.brackets
  zeroed : ∀ a, (a < o.dst ∨ o.dst + 64 ≤ a) → zeroes = true → (∃ k, k < 12 ∧ InLimbs (ctxAt s h.ctx.toNat).n h k a) → t.rd a = 0#8
  kept : ∀ a, (a < o.dst ∨ o.dst + 64 ≤ a) → (zeroes = false ∨ ∀ k, k < 12 → ¬ InLimbs (ctxAt s h.ctx.toNat).n h k a) → t.rd a = s.rd a
  faults : bad = true → t.faults = (countFault 0x24 ((bitsSet 12 mask).headD 15) 1 s).faults
  strm : ∀ b st, t.strm b st = s.strm b st

theorem closeOp_closed {h : Hdr} {zeroes bad : Bool} (hr : closing s mask o = (h, zeroes, bad)) (hd : o.dstBad = false)
    (hm : MemInv s) (hb : ∀ j, j < 64 → byteBad s (o.dst + j) = false) : Closed mask o h zeroes bad s (closeOp mask o s) := by
  let u := if zeroes = true then zeroLimbs h s else s
  have hu : Swept s u := by
    unfold u
    split
    · exact swept_zeroLimbs
    · exact ⟨rfl, rfl, rfl, rfl, id, fun _ => id⟩
  have hrd (a : Nat) : u.rd a =
      if zeroes = true ∧ ∃ k ∈ List.range 12, InLimbs (ctxAt s h.ctx.toNat).n h k a then 0#8 else s.rd a := by
    unfold u
    cases zeroes
    · rfl
    · simpa using rd_zeroLimbs
  obtain ⟨hh, hf, hbt, hbs, hmi, hbb⟩ := hu
  let v := if bad = true then operationFault 0x24 mask (writeHdr o.dst h u) else writeHdr o.dst h u
  have hv : v.mem = (writeHdr o.dst h u).mem ∧ v.bays = (writeHdr o.dst h u).bays ∧ v.hdr = u.hdr := by
    unfold v
    split <;> exact ⟨rfl, rfl, rfl⟩
  have ht : RefsOnly v (closeOp mask o s) := by
    have := refsOnly_lowerRefs (l := o.refs) (s := v)
    rw [closeOp, hr, hd]
    exact this
  obtain ⟨ht₁, ht₂, ht₃, ht₄⟩ := ht
  obtain ⟨hv₁, hv₂, hv₃⟩ := hv
  generalize closeOp mask o s = t at *
  have hmem : t.mem = (writeHdr o.dst h u).mem := ht₁.trans hv₁
  have hbays : t.bays = (writeHdr o.dst h u).bays := ht₃.trans hv₂
  have hout (a : Nat) (ha : a < o.dst ∨ o.dst + 64 ≤ a) : t.rd a = u.rd a := by
    rw [State.rd, hmem]
    exact rd_writeHdr_outside ha
  refine ⟨?_, ?_, fun a ha hz ⟨k, hk, hl⟩ => ?_, fun a ha hz => ?_, fun hb' => ?_, fun b st => ?_⟩
  · rw [State.ldNat, State.ld, hmem]
    exact ldNat_writeHdr (hmi hm) fun j hj => Bool.eq_false_iff.2 fun hc => ne_true_of_eq_false (hb j hj) (hbb _ hc)
  · rw [ht₄, hv₃, hh]
  · rw [hout a ha, hrd, if_pos ⟨hz, k, List.mem_range.2 hk, hl⟩]
  · rw [hout a ha, hrd, if_neg]
    rintro ⟨hz', k, hk, hl⟩
    rcases hz with hz | hz
    · simp [hz] at hz'
    · exact hz k (List.mem_range.1 hk) hl
  · rw [ht₂]
    simp only [v, hb', if_true]
    have : (writeHdr o.dst h u).faults = s.faults ∧ (writeHdr o.dst h u).beatNat = s.beatNat :=
      ⟨hf, congrArg (fun x : Beat => x.beat.toNat) hbt⟩
    simp only [operationFault, countFault, this]
  · rw [State.strm, State.bay, hbays]
    exact (strm_store (s := u) (req := 1) (a := o.dst) (v := leBytes h.toNat 64)).trans
      (by rw [State.strm, State.bay, hbs]; rfl)

/-! ### The command -/

/-- The bracket of the mask whose operation in front every bay has ended. -/
def closable (mask : BayMask) (q : Bracket) : Bool :=
  q.mask == mask && q.op.isSome &&
    (match q.cur with | some o => o.allEnded mask && (q.insOp.isSome || q.ins.isNone) | none => false)

/-- The brackets once `k` has closed with header `h` at `a`. -/
def bracketsAfter (k : Bracket) (a : Nat) (h : Hdr) (l : List Bracket) : List Bracket :=
  if k.insOp.isSome then l.map (fun q => if q == k then { q with insOp := none, wrote := q.wrote ++ [(a, h)] } else q)
  else l.erase k

theorem cur_of_closable {k : Bracket} (hk : closable mask k = true)
    (ho : k.insOp = some o ∧ k.op.isSome = true ∨ k.insOp = none ∧ k.op = some o) : k.cur = some o := by
  rcases ho with ⟨hi, -⟩ | ⟨hi, ho⟩
  · rw [Bracket.cur, hi]
  · simp only [closable, Bracket.cur, hi] at hk ⊢
    cases hn : k.ins.isSome
    · exact (if_neg Bool.false_ne_true).trans ho
    · simp [hn] at hk

theorem execBracketClose_of_closable {k : Bracket} (ha : alive s = true) (hf : s.hdr.brackets.find? (closable mask) = some k)
    (ho : k.insOp = some o ∧ k.op.isSome = true ∨ k.insOp = none ∧ k.op = some o)
    (hw : ahead s [] (closeSpans s mask o) = false) :
    ∃ t, execBracketClose mask s = .next t ∧ t.mem = (closeOp mask o s).mem ∧ t.faults = (closeOp mask o s).faults ∧
      t.bays = (closeOp mask o s).bays ∧
      t.hdr.brackets = bracketsAfter k o.dst (closing s mask o).1 (closeOp mask o s).hdr.brackets := by
  have hc := cur_of_closable (List.find?_some hf) ho
  have hn : ¬ ((k.cur.map (closeSpans s mask)).any (ahead s [])) = true := by simp [hc, hw]
  simp only [execBracketClose, if_pos ha]
  split
  next k' hk' =>
    obtain rfl : k' = k := Option.some.inj (hk'.symm.trans hf)
    rw [if_neg hn]
    rcases ho with ⟨hi, hop⟩ | ⟨hi, hop⟩
    · obtain ⟨p, hp⟩ := Option.isSome_iff_exists.1 hop
      simp only [hi, hp, bracketsAfter]
      exact ⟨_, rfl, rfl, rfl, rfl, rfl⟩
    · simp only [hi, hop, bracketsAfter]
      exact ⟨_, rfl, rfl, rfl, rfl, rfl⟩
  next hn' => exact absurd (hn'.symm.trans hf) (by simp)

/-- Settles O13: the header a closure writes is computed case by case, and the closure of an operation is followed once. -/
theorem bracketCloses : Obligations.BracketCloses := by
  intro mask k o s dv decl w h zeroes bad hdv hdecl hbad hzeroes hw hh hd hm hf ho hdst hb hah
  have hdv' : dv = declared s mask o := by
    rw [hdv]
    split
    next hn => exact (declared_nil hn).symm
    next hc => exact (declared_cons hc).symm
  have hcl : closing s mask o = (h, zeroes, bad) := by
    rw [hdv'] at hdecl hbad
    rw [hh, hzeroes, hbad, hw, hdecl]
    cases hv : o.verdict
    case malformed => exact closing_malformed hv
    case poison | mismatch | spent =>
      rw [closing_refused (by simp [hv]) (by simp [hv]), withDecl_eq]
      simp
    case run =>
      rcases hmk : o.mark with _ | c
      · by_cases hx : formsDiffer o = true ∨ declares o.kind o.src = true ∧ (declared s mask o).isNone = true
        · have hb' : (o.nf.isEmpty || o.nf.any (fun f => o.nf.head? != some f) ||
              (declares o.kind o.src && (declared s mask o).isNone)) = true := by
            change (formsDiffer o || _) = true
            simpa using hx
          rw [closing_failed hv hmk hx, withDecl_eq]
          simp only [beq_self_eq_true, Option.isNone_none, Bool.true_and, hb']
          by_cases hd : declares o.kind o.src = true <;> simp [hd, Hdr.badDecl, Hdr.mark]
        · have hb' : (o.nf.isEmpty || o.nf.any (fun f => o.nf.head? != some f) ||
              (declares o.kind o.src && (declared s mask o).isNone)) = false := by
            change (formsDiffer o || _) = false
            rw [Bool.eq_false_iff]
            simpa using hx
          obtain ⟨hfd, hnd⟩ := not_or.1 hx
          rcases hnf : o.nf with _ | ⟨f, r⟩
          · simp [formsDiffer, hnf] at hfd
          · rw [closing_formed hv hmk hnf (Bool.eq_false_iff.2 hfd) hnd, withDecl_eq, ← hnf]
            simp only [beq_self_eq_true, Option.isNone_none, Bool.true_and, hb']
            by_cases hd : declares o.kind o.src = true <;> cases f <;> simp [hd, hnf, formOf]
      · rw [closing_marked hv hmk, withDecl_eq]
        by_cases hd : declares o.kind o.src = true <;> simp [hd, Hdr.mark]
  obtain ⟨t, ht, hmem, hfa, hba, hbr⟩ := execBracketClose_of_closable (alive_of_dieRuns hd) hf ho hah
  obtain ⟨hc₁, hc₂, hc₃, hc₄, hc₅, hc₆⟩ := closeOp_closed hcl hdst hm hb
  rw [hcl, hc₂] at hbr
  have hrd (a : Nat) : t.rd a = (closeOp mask o s).rd a := by rw [State.rd, hmem]; rfl
  have hst (b : Bay) (st : Strm) : t.strm b st = s.strm b st := by
    rw [← hc₆, State.strm, State.bay, hba]; rfl
  refine ⟨t, ht, ?_, hbr, fun hz n a hn ha h₁ h₂ => ?_, fun a ha hz => ?_, fun hbd _ => hfa.trans (hc₅ hbd),
    fun b => ⟨hst b .x, hst b .a⟩⟩
  · rw [State.ldNat, State.ld, hmem]
    exact hc₁
  · exact (hrd a).trans (hc₃ a ha hz ⟨n, hn, h₁, h₂⟩)
  · exact (hrd a).trans (hc₄ a ha hz)

end Sys2Proof.Proofs.BracketCloses
end

section
/-! PROOFS. An insertion in a group of no bay (R51, R61): a bracket whose mask is empty opens with a refusal that R61 turns into
a refresh, and every bay of its mask has ended it from the start, so the insertion finds no bracket that is going on. -/

namespace Sys2Proof.Proofs.BracketOpens

open Sys2Proof Sys2Proof.Machine

/-- A multiplication of the low headers at 0x1000 and 0x1040 into 0x1080. -/
def lowIssue : HopIssue := ⟨0, 3, 0x1000, some 0x1040, 0x1080, 0#32⟩

/-- Its group, of no bay, still forming. -/
def emptyGroup : Bracket := ⟨0#12, [lowIssue], none, none, none, [], []⟩

/-- An exact-class context of one prime, its policy REFRESH, its C_FRESH 512. -/
def refreshCtx : CtxEntry :=
  { CtxEntry.reset with
    st := .ready, cls := 2#2, pol := 2#2, rkeys := true, logn := 10, l := 1, k := 1, d := 1
    cost := (Vector.replicate 16 0).set 11 512 }

/-- A well-formed header of it with BUDGET 16, below the threshold. -/
def lowHdr : Hdr := { Hdr.blank with cls := 2#2, level := 1#8, slots := 1#24, comp := 2#2, budget := 16#16 }

/-- The group in a block that holds low headers at the three addresses. -/
def emptyGroupS : State :=
  { State.reset with
    hdr := { State.reset.hdr with brackets := [emptyGroup], ctx := [(0, refreshCtx)] }
    mem := ([0x1000, 0x1040, 0x1080].foldl (fun (s : State) (a : Nat) => s.store a (leBytes lowHdr.toNat 64)) State.reset).mem }

/-- The headers read. -/
def emptyGroupR : State := readHeaders (issueLocks lowIssue) .clean emptyGroupS

/-- An outcome's state counts one inserted refresh, and none of its brackets carries one. -/
def insertionLost : Host.Outcome State Fault Refusal → Bool
  | .next t => t.hdr.cInserted == 1 && t.hdr.brackets.all (fun k => k.ins.isNone)
  | _ => false

theorem emptyGroupS_loses : insertionLost (exec (.bracketOpen 0#12 .clean) emptyGroupS) = true := by
  decide +kernel

/-- Refutes O12: with an empty mask the refresh of the second clause is counted as inserted and no bracket carries it. A TS.HOP that is
well-formed names its own bay in its mask; the statement does not suppose it of the brackets. -/
theorem not_bracketOpens : ¬ Obligations.BracketOpens := by
  unfold Obligations.BracketOpens
  rintro ⟨-, h, -, -⟩
  obtain ⟨t, ht, -, -, ⟨k', hk', -, -, -, -, hins, -⟩, -⟩ :=
    h 0#12 emptyGroup lowIssue .clean emptyGroupS emptyGroupR _ 0x1000 [0x1040] _ _ false rfl rfl rfl rfl rfl (by decide +kernel)
      (by decide +kernel) (by decide +kernel) (by decide +kernel) (by decide +kernel) (by decide +kernel) (by decide +kernel)
      (by decide +kernel) (by decide +kernel)
  have hlost := emptyGroupS_loses
  rw [ht, insertionLost, Bool.and_eq_true, List.all_eq_true] at hlost
  have hnone := hlost.2 k' hk'
  rw [hins] at hnone
  exact absurd hnone (by decide)

end Sys2Proof.Proofs.BracketOpens
end

section
/-! PROOFS. A fill into a page of the key buffer under repair (R104, R248): its row waits for the repair. -/

namespace Sys2Proof.Proofs.KeyFills

open Sys2Proof Sys2Proof.Machine

/-- A key stream of one block of ring degree 1,024. -/
def fillCap : TideCap :=
  { fprint := 0#64, seed := List.replicate 32 0#8, primes := [12289, 12289], cls := 1#2, logn := 10, l := 1, k := 1, d := 1,
    kind := 1, dx := 0, gal := 0, kpg := 0, kidx := 0#32 }

def fillStream : TStream :=
  { sid := 0, ctx := 0, eidx := 0, cg := 0#32, level := 1, start := none, next := false, opened := true, cap := some fillCap,
    bound := true, nset := 0, chk := some 0#8, zero := false, allowed := false, refs := false, rows := 0, segs := 0, fills := 1 }

/-- Bay 0 with the fill of half 0 under way, its first row to come, and that half's first page under repair. -/
def fillBay : Bays :=
  { Bays.reset with
    tide := { Bays.reset.tide with streams := [fillStream], kh0 := ⟨.filling, 0, 0, 0⟩ }
    prot := { Bays.reset.prot with repairing := some ⟨pagesSpad, [], false, false⟩ } }

/-- After reset, but for the supply in RUN and bay 0. -/
def fillWaiting : State := { State.reset.setBay 0 fillBay with pwr := { Power.reset with st := .run } }

/-- The rows an outcome's state shows to have come into half 0 of bay 0. -/
def shownRows : Host.Outcome State Fault Refusal → Nat
  | .next t => ((t.bay 0).tide.half false).rows
  | _ => 0

theorem fillWaiting_ready : dieRuns fillWaiting = true ∧ (fillWaiting.bay 0).tide.fillingHalf = some false ∧
    (fillWaiting.bay 0).tide.streams.find? (fun x => x.sid == ((fillWaiting.bay 0).tide.half false).sid) = some fillStream ∧
    (fillWaiting.bay 0).tide.halt = false ∧ noReqs fillWaiting = true ∧ ((fillWaiting.bay 0).tide.half false).rows = 0 := by
  decide +kernel

theorem fillWaiting_sound :
    (let g := (fillWaiting.bay 0).tide.half false
     let r := (fillSpan fillCap.polyRows (fillStream.blocks (0 : Bay)).length g.fill).1 + g.rows
     let blk := (fillStream.blocks (0 : Bay)).getD (r / fillCap.polyRows) (0, 0)
     rangeBad fillWaiting (fillCap.stored (0 : Bay) blk + 1024 * (r % fillCap.polyRows)) 1024) = false := by
  decide +kernel

theorem fillWaiting_keyBuf : Sparse.wf (fun _ => 0#32) (fillWaiting.bay 0).keyBuf = true := by
  decide +kernel

theorem fillWaiting_waits : shownRows (exec (.keyFillData 0 .clean) fillWaiting) = 0 := by
  decide +kernel

/-- Refutes O16: no row comes into `fillWaiting`'s half while its page is under repair, where the statement has one arrive whenever
its sectors are sound. -/
theorem not_tideEvents : ¬ Obligations.TideEvents := by
  unfold Obligations.TideEvents
  rintro ⟨-, -, -, h, -⟩
  obtain ⟨hrun, hhalf, hstr, hhalt, hreqs, hrows⟩ := fillWaiting_ready
  obtain ⟨hfill, -⟩ := h 0 false fillStream fillCap fillWaiting hrun hhalf hstr rfl hhalt rfl hreqs
  obtain ⟨t, hx, -, -, hone, -⟩ := hfill fillWaiting_sound fillWaiting_keyBuf
  have hshown := fillWaiting_waits
  rw [hx, shownRows, hone, hrows] at hshown
  exact absurd hshown (by decide)

end Sys2Proof.Proofs.KeyFills
end

section
/-! PROOFS. The NT. instructions start and complete (R128 to R132). -/

namespace Sys2Proof.Proofs.RingUnit

open Sys2Proof Sys2Proof.Machine Sys2Proof.Laws.State Sys2Proof.Laws.Memory Sys2Proof.Laws.Ops Sys2Proof.Laws.Sparse
open Sys2Proof.Proofs.Tables Sys2Proof.Proofs.FlagWaits Sys2Proof.Proofs.VectorEngine Sys2Proof.Proofs.TableLoads
  Sys2Proof.Proofs.HopNesting Sys2Proof.Proofs.UnitIssue

variable {s t u : State} {b : Bay} {e : NtEnt}

/-! ### Data streamed out of a unit -/

/-- Bytes written through a descriptor touch no bay but its codes' state. -/
def ProtOnly (s t : State) : Prop := ∀ c, ∃ p, t.bay c = { s.bay c with prot := p }

theorem ProtOnly.trans (h : ProtOnly s t) (k : ProtOnly t u) : ProtOnly s u := fun c => by
  obtain ⟨p, hp⟩ := h c
  obtain ⟨q, hq⟩ := k c
  exact ⟨q, by rw [hq, hp]⟩

theorem protOnly_storeRuns {l : List (Nat × List Byte)} : ProtOnly s (storeRuns l s none) := by
  induction l generalizing s with
  | nil => exact fun _ => ⟨_, rfl⟩
  | cons r l ih => exact ProtOnly.trans (fun _ => bay_store) ih

theorem protOnly_streamOut {d : Desc} {bs : List Byte} : ProtOnly s (streamOut d bs s) :=
  protOnly_storeRuns.trans protOnly_storeRuns

/-- The two states hold the same bytes under the same codes. -/
def SameBytes (s t : State) : Prop :=
  t.mem = s.mem ∧ t.ms = s.ms ∧ t.codes.pageP = s.codes.pageP ∧
    ∀ c, (t.bay c).prot = (s.bay c).prot ∧ (t.bay c).keyBuf = (s.bay c).keyBuf

theorem badWords_congr (h : ∀ c, (t.bay c).prot = (s.bay c).prot) (n : Nat) : badWords t n = badWords s n := by
  unfold badWords
  split
  next hn => exact congrArg Prot.bad (h ⟨n, hn⟩)
  next => rfl

theorem SameBytes.store {a req : Nat} {v : List Byte} (h : SameBytes s t) : SameBytes (s.store a v req) (t.store a v req) := by
  obtain ⟨hm, hs, hp, hb⟩ := h
  have hk : storeKeeps t a v.length = storeKeeps s a v.length := by
    funext x
    unfold storeKeeps byteBad
    simp only [hs, badWords_congr fun c => (hb c).1]
  have hbay (x : State) (c : Bay) : (x.store a v req).bay c = { x.bay c with
      prot := (x.bay c).prot.afterWrite x.codes (x.bay c).keyBuf c a v x.mem
        (Memory.wrRun (storeKeeps x a v.length) x.mem a v) } := by
    simp only [State.store, State.bay, Fin.getElem_fin, Vector.getElem_mapFinIdx]
  refine ⟨?_, ?_, hp, fun c => ?_⟩
  · simp only [State.store, hk, hm]
  · simp only [State.store, hs]
  · rw [hbay, hbay]
    exact ⟨by simp only [hk, hm, hb c, Prot.afterWrite, hp], (hb c).2⟩

theorem SameBytes.storeRuns {l : List (Nat × List Byte)} (h : SameBytes s t) :
    SameBytes (storeRuns l s) (storeRuns l t) := by
  induction l generalizing s t with
  | nil => exact h
  | cons r l ih => exact ih h.store

theorem SameBytes.elemRuns {d : Desc} {p : Nat} {bs : List Byte} (h : SameBytes s t) :
    elemRuns t d p bs = elemRuns s d p bs := by
  have hl (a n : Nat) : t.ld a n = s.ld a n := by unfold State.ld; rw [h.1]
  unfold Machine.elemRuns redBytes
  simp only [hl]

theorem SameBytes.streamOut {d : Desc} {bs : List Byte} (h : SameBytes s t) : SameBytes (streamOut d bs s) (streamOut d bs t) := by
  dsimp only [Machine.streamOut]
  rw [h.elemRuns, h.storeRuns.elemRuns]
  exact h.storeRuns.storeRuns

/-! ### The steps of a completing instruction -/

/-- The unit with its running instruction gone. -/
def freed (b : Bay) (s : State) : State := updNt b (fun x => { x with run := none }) s

theorem nt_updNt {f : Nt → Nt} : ((updNt b f s).bay b).nt = f (s.bay b).nt := by simp [updNt]

theorem nt_freed : ((freed b s).bay b).nt = { (s.bay b).nt with run := none } := nt_updNt

/-- Zero words are zero bytes. -/
theorem bytes_zeros {n : Nat} : ([List.replicate n 0].flatten.flatMap (fun v => leBytes v 4)) = List.replicate (4 * n) 0#8 := by
  rw [List.flatten_singleton, List.flatMap_replicate, Nat.mul_comm 4 n]
  exact (List.flatten_replicate_replicate (m := 4) (n := n) (a := 0#8))

theorem sameBytes_freed : SameBytes s (freed b s) := by
  refine ⟨rfl, rfl, rfl, fun c => ?_⟩
  by_cases hc : c = b
  · subst hc
    simp [freed, updNt]
  · rw [freed, updNt, bay_updBay_ne hc]
    exact ⟨rfl, rfl⟩

theorem execNtInstrComplete_eq (hd : dieRuns s = true) (hm : memFree s = true) (hr : (s.bay b).nt.run = some e) :
    exec (.ntInstrComplete b) s = .next (finishNt b e s) := by
  change execNtInstrComplete b s = _
  simp only [execNtInstrComplete, hr, if_pos (alive_of_dieRuns hd), guarded_clean hm]

/-- A completing instruction but NT.LDP: what it does, then its flag. -/
def completed (b : Bay) (e : NtEnt) (s : State) : State :=
  putFlagOpt b e.op.flag (accWritten b e.op (if e.idle then ntZero b e.op (freed b s) else ntRun b e.op (freed b s)))

theorem finishNt_completed (hb : e.idle = true ∨ (e.op.reads (s.bay b).nt).any (byteBad s) = false)
    (hl : ∀ d, e.op ≠ .ldp d) : finishNt b e s = completed b e s := by
  have hn : ¬ (if e.idle = true then [] else e.op.reads (s.bay b).nt).any (byteBad s) = true := by
    rcases hb with hb | hb
    · simp [hb]
    · split
      · simp
      · simp [hb]
  unfold finishNt
  rw [if_neg hn]
  split
  next d hd => exact absurd hd (hl d)
  next => rfl

/-- Polynomials written by an instruction with a flag: the bytes, the flag set, the unit free and otherwise as it was. -/
theorem putPolys_spec {d : Desc} {ls : List (List Nat)} {fd : LFlag} :
    let t := putFlagOpt b (some fd) (putPolys d ls (freed b s))
    flagOf b fd t = true ∧ (t.bay b).nt = { (s.bay b).nt with run := none } ∧
      t.mem = (streamOut d (ls.flatten.flatMap (fun v => leBytes v 4)) s).mem := by
  intro t
  obtain ⟨p, hp⟩ := protOnly_streamOut (s := freed b s) (d := d) (bs := ls.flatten.flatMap (fun v => leBytes v 4)) b
  refine ⟨?_, ?_, (sameBytes_freed (b := b) (s := s)).streamOut.1⟩
  · exact flagOf_putFlag.trans (if_pos rfl)
  · have hn : (t.bay b).nt = ((putPolys d ls (freed b s)).bay b).nt := by
      simp only [t, putFlagOpt, putFlag, bay_updBay]
      rfl
    rw [hn, putPolys, hp]
    exact nt_updNt

/-! ### Accumulators (R127) -/

section Poly

variable {x : Nt} {ac ac' : Bool} {c c' : Nat} {l : List Nat}

theorem length_poly : (x.poly ac c).length = x.n := by
  rw [Nt.poly, getList_eq_map]
  simp

theorem wf_putPoly (h : Sparse.wf (fun _ => 0#32) x.acc = true) : Sparse.wf (fun _ => 0#32) (x.putPoly ac c l).acc = true :=
  wf_setList h

theorem poly_eq_map : x.poly ac c =
    (List.range' (4096 * ((if ac then 2 else 0) + c)) x.n).map (fun i => (Sparse.get (fun _ => 0#32) x.acc i).toNat) := by
  rw [Nt.poly, getList_eq_map, List.map_map]
  rfl

/-- A component of words reads back as it was written. -/
theorem poly_putPoly_same (h : Sparse.wf (fun _ => 0#32) x.acc = true) (hl : l.length = x.n) (hv : ∀ v ∈ l, v < 2 ^ 32) :
    (x.putPoly ac c l).poly ac c = l := by
  rw [poly_eq_map]
  refine List.ext_getElem (by simp [hl, Nt.putPoly, Nt.n]) fun i h₁ h₂ => ?_
  rw [List.getElem_map, List.getElem_range', Nt.putPoly, get_setList h, if_pos (by omega), Nat.one_mul, Nat.add_sub_cancel_left,
    List.getElem?_map, List.getElem?_eq_getElem h₂]
  simpa using hv _ (List.getElem_mem h₂)

/-- The other components stay as they are. -/
theorem poly_putPoly_ne (h : Sparse.wf (fun _ => 0#32) x.acc = true) (hn : x.n ≤ 4096) (hl : l.length = x.n) (hc : c < 2)
    (hc' : c' < 2) (hne : ac' ≠ ac ∨ c' ≠ c) : (x.putPoly ac c l).poly ac' c' = x.poly ac' c' := by
  have hk : 4096 * ((if ac' = true then 2 else 0) + c') + 4096 ≤ 4096 * ((if ac = true then 2 else 0) + c) ∨
      4096 * ((if ac = true then 2 else 0) + c) + 4096 ≤ 4096 * ((if ac' = true then 2 else 0) + c') := by
    cases ac <;> cases ac' <;> simp at hne ⊢ <;> omega
  rw [poly_eq_map, poly_eq_map]
  refine List.map_congr_left fun i hi => congrArg BitVec.toNat ?_
  obtain ⟨hlo, hhi⟩ := List.mem_range'_1.1 hi
  have hhi' : i < 4096 * ((if ac' = true then 2 else 0) + c') + x.n := hhi
  rw [Nt.putPoly, get_setList h]
  by_cases hle : 4096 * ((if ac = true then 2 else 0) + c) ≤ i
  · rw [if_pos hle, List.getElem?_map, List.getElem?_eq_none (by omega)]
    rfl
  · rw [if_neg hle]

end Poly

theorem transformed_some {f : Nat → Nat → List Nat → List Nat} {q n psi : Nat} {ls : List (List Nat)} (h : canonRoot q n = some psi) :
    transformed f q n ls s = (ls.map (f q psi), s) := by
  rw [transformed, h]

theorem pos_of_canonRoot {q n psi : Nat} (h : canonRoot q n = some psi) : 0 < q := by
  rcases Nat.eq_zero_or_pos q with rfl | hq
  · rw [canonRoot] at h
    have : isPrime32 0 = false := by decide +kernel
    simp [this] at h
  · exact hq

theorem transformed_frame {f : Nat → Nat → List Nat → List Nat} {q n : Nat} {ls : List (List Nat)} :
    (transformed f q n ls s).2.mem = s.mem ∧ (transformed f q n ls s).2.bays = s.bays := by
  unfold transformed
  split <;> exact ⟨rfl, rfl⟩

/-! ### Starting (R130) -/

/-- The unit with the head of its queue gone. -/
def dequeued (b : Bay) (s : State) : State := updNt b (fun x => { x with queue := x.queue.drop 1 }) s

theorem execNtInstrStart_eq {r : List NtEnt} (hm : memFree s = true) (hq : (s.bay b).nt.queue = e :: r)
    (hc : ntCan b s = true) : exec (.ntInstrStart b .clean) s = .next (startNt b e .clean s) := by
  change execNtInstrStart b .clean s = _
  simp only [execNtInstrStart, hq, if_pos hc, guarded_clean hm]

/-- The digits of an NT.STEP cannot hold the modulus (R129). -/
def tooShort (b : Bay) (e : NtEnt) (s : State) : Prop :=
  ∃ ac fd v d, e.op = .step ac fd v d ∧ (s.bay b).nt.dd * (s.bay b).nt.glog < (s.bay b).nt.prime.mlen.toNat

theorem soundUnits_dequeued (h : soundUnits b s = true) : soundUnits b (dequeued b s) = true := by
  simpa [soundUnits, dequeued, updNt] using h

theorem startNt_of_short (h : tooShort b e s) : startNt b e .clean s = haltStream b .x 0x29 e.pc e.seq (dequeued b s) := by
  obtain ⟨ac, fd, v, d, he, hlt⟩ := h
  unfold startNt
  simp only [he, decide_eq_true hlt, if_true]
  rfl

theorem startNt_runs (hu : soundUnits b s = true) (hs : ¬ tooShort b e s)
    (hb : e.idle = true ∨ (e.op.reads (s.bay b).nt).any (byteBad s) = false) :
    startNt b e .clean s = updNt b (fun x => { x with run := some e }) (dequeued b s) := by
  have hbad : byteBad (dequeued b s) = byteBad s := byteBad_setBay rfl
  have hn : ¬ (if e.idle = true then [] else e.op.reads (s.bay b).nt).any (byteBad (dequeued b s)) = true := by
    rw [hbad]
    rcases hb with hb | hb
    · simp [hb]
    · split
      · simp
      · simp [hb]
  unfold startNt
  have hsh : (match e.op with
      | .step .. => decide ((s.bay b).nt.dd * (s.bay b).nt.glog < (s.bay b).nt.prime.mlen.toNat)
      | _ => false) = false := by
    split
    next ac fd v d he => exact decide_eq_false fun hlt => hs ⟨ac, fd, v, d, he, hlt⟩
    next => rfl
  extract_lets x s' short l
  have hx : short = false := hsh
  rw [hx, if_neg Bool.false_ne_true]
  exact (withUnits_clean (soundUnits_dequeued hu)).trans (if_neg hn)

/-! ### Completing with a flag (R128, R129) -/

theorem gather_freed {l : List Nat} : (freed b s).gather l = s.gather l := rfl

theorem polyAt_freed {d : Desc} {q w n : Nat} : polyAt (freed b s) d q w n = polyAt s d q w n := rfl

theorem ntRun_fwd {fd : LFlag} {src dst : Desc} {psi : Nat} (h : canonRoot (s.bay b).nt.q (s.bay b).nt.n = some psi) :
    ntRun b (.fwd fd src dst) (freed b s) = putPolys dst
      [nttFwd (s.bay b).nt.q psi (polyAt s src (s.bay b).nt.q 0 (s.bay b).nt.n)] (freed b s) := by
  have hx : ((freed b s).bay b).nt.q = (s.bay b).nt.q ∧ ((freed b s).bay b).nt.n = (s.bay b).nt.n := by
    rw [nt_freed]; exact ⟨rfl, rfl⟩
  simp only [ntRun, hx, transformed_some h, List.map_cons, List.map_nil, polyAt_freed]

theorem ntRun_inv {fd : LFlag} {src dst : Desc} {psi : Nat} (h : canonRoot (s.bay b).nt.q (s.bay b).nt.n = some psi) :
    ntRun b (.inv fd src dst) (freed b s) = putPolys dst
      [nttInv (s.bay b).nt.q psi (polyAt s src (s.bay b).nt.q 0 (s.bay b).nt.n)] (freed b s) := by
  have hx : ((freed b s).bay b).nt.q = (s.bay b).nt.q ∧ ((freed b s).bay b).nt.n = (s.bay b).nt.n := by
    rw [nt_freed]; exact ⟨rfl, rfl⟩
  simp only [ntRun, hx, transformed_some h, List.map_cons, List.map_nil, polyAt_freed]

theorem ntRun_step {ac : Bool} {fd : LFlag} {v : W32} {dst : Desc} {psi : Nat}
    (h : canonRoot (s.bay b).nt.q (s.bay b).nt.n = some psi) :
    ntRun b (.step ac fd v dst) (freed b s) = putPolys dst
      (((s.bay b).nt.digits ac v.toNat).map (nttFwd (s.bay b).nt.q psi)) (freed b s) := by
  have hx : ((freed b s).bay b).nt.q = (s.bay b).nt.q ∧ ((freed b s).bay b).nt.n = (s.bay b).nt.n ∧
      ((freed b s).bay b).nt.digits ac v.toNat = (s.bay b).nt.digits ac v.toNat := by
    rw [nt_freed]; exact ⟨rfl, rfl, rfl⟩
  simp only [ntRun, hx, transformed_some h]

theorem ntRun_out {ac : Bool} {fd : LFlag} {dst : Desc} :
    ntRun b (.out ac fd dst) (freed b s) = putPolys dst [(s.bay b).nt.poly ac 0, (s.bay b).nt.poly ac 1] (freed b s) := by
  have hx (c : Nat) : ((freed b s).bay b).nt.poly ac c = (s.bay b).nt.poly ac c := by
    rw [nt_freed]; rfl
  simp only [ntRun, hx]

/-- An instruction under RUN that writes polynomials through a descriptor and sets a flag. -/
theorem finishNt_writes {dst : Desc} {ls : List (List Nat)} {fd : LFlag} (hi : e.idle = false)
    (hb : (e.op.reads (s.bay b).nt).any (byteBad s) = false) (hl : ∀ d, e.op ≠ .ldp d) (hf : e.op.flag = some fd)
    (ha : ∀ u, accWritten b e.op u = u) (hr : ntRun b e.op (freed b s) = putPolys dst ls (freed b s)) :
    flagOf b fd (finishNt b e s) = true ∧ ((finishNt b e s).bay b).nt = { (s.bay b).nt with run := none } ∧
      (finishNt b e s).mem = (streamOut dst (ls.flatten.flatMap (fun v => leBytes v 4)) s).mem := by
  rw [finishNt_completed (.inr hb) hl, completed, hi, hf, ha, if_neg Bool.false_ne_true, hr]
  exact putPolys_spec

/-- One that only works inside the unit. -/
theorem finishNt_inside (hi : e.idle = false) (hb : (e.op.reads (s.bay b).nt).any (byteBad s) = false) (hl : ∀ d, e.op ≠ .ldp d) :
    finishNt b e s = putFlagOpt b e.op.flag (accWritten b e.op (ntRun b e.op (freed b s))) := by
  rw [finishNt_completed (.inr hb) hl, completed, hi, if_neg Bool.false_ne_true]

theorem finishNt_ldp {d : Desc} (he : e.op = .ldp d) (hi : e.idle = false)
    (hb : (e.op.reads (s.bay b).nt).any (byteBad s) = false)
    (hp : primeOk (PrimeRec.ofNat (leNat (s.gather (d.addrs 0 16)))) = true) :
    finishNt b e s = rewrote b 0x13 0x11000 16
      (updNt b (fun x => { x with prime := (PrimeRec.ofNat (leNat (s.gather (d.addrs 0 16)))).1 }) (freed b s)) := by
  unfold finishNt
  rw [hi]
  refine (if_neg (by simp [hb])).trans ?_
  simp only [he]
  exact if_pos hp

theorem nt_rewrote {id lo n : Nat} : ((rewrote b id lo n s).bay b).nt = (s.bay b).nt := by
  simp [rewrote, updProt]

theorem nt_putFlagOpt {fd : Option LFlag} : ((putFlagOpt b fd s).bay b).nt = (s.bay b).nt := by
  cases fd with
  | none => rfl
  | some f => simp [putFlagOpt, putFlag, Bays.setFlag]

/-! ### The accumulators' instructions (R129, R132) -/

/-- The unit with both components of an accumulator replaced. -/
def twoPolys (x : Nt) (ac : Bool) (p q : List Nat) : Nt := (x.putPoly ac 0 p).putPoly ac 1 q

theorem poly_twoPolys {x : Nt} {ac : Bool} {p q : List Nat} (h : Sparse.wf (fun _ => 0#32) x.acc = true) (hn : x.n ≤ 4096)
    (hp : p.length = x.n) (hp' : ∀ v ∈ p, v < 2 ^ 32) (hq : q.length = x.n) (hq' : ∀ v ∈ q, v < 2 ^ 32) :
    (twoPolys x ac p q).poly ac 0 = p ∧ (twoPolys x ac p q).poly ac 1 = q ∧
      ∀ c, c < 2 → (twoPolys x ac p q).poly (!ac) c = x.poly (!ac) c := by
  have h' : Sparse.wf (fun _ => 0#32) (x.putPoly ac 0 p).acc = true := wf_putPoly h
  refine ⟨?_, poly_putPoly_same h' hq hq', fun c hc => ?_⟩
  · exact (poly_putPoly_ne h' hn hq (by decide) (by decide) (.inr (by decide))).trans (poly_putPoly_same h hp hp')
  · exact (poly_putPoly_ne h' hn hq (by decide) hc (.inl (by simp))).trans
      (poly_putPoly_ne h hn hp (by decide) hc (.inl (by simp)))

theorem length_nttInv {q psi : Nat} {l : List Nat} : (nttInv q psi l).length = l.length := by
  simp [nttInv, Transforms.length_powers]

theorem length_polyAt {d : Desc} {q w n : Nat} : (polyAt s d q w n).length = n := by
  simp [polyAt, State.walkWords]

/-- The sums of a component with a transformed polynomial (R129). -/
def accSum (x : Nt) (ac : Bool) (r : List (List Nat)) (c : Nat) : List Nat :=
  ((x.poly ac c).zip (r.getD c [])).map (fun p => (p.1 + p.2) % x.q)

/-- The two transforms an NT.ACC adds. -/
def accParts (b : Bay) (src : Desc) (s : State) : List (List Nat) × State :=
  let x := (s.bay b).nt
  transformed nttInv x.q x.n [polyAt s src x.q 0 x.n, polyAt s src x.q x.n x.n] s

theorem ntRun_acc {ac : Bool} {fd : LFlag} {src : Desc} :
    ntRun b (.acc ac fd src) s = updNt b (fun x => twoPolys x ac (accSum (s.bay b).nt ac (accParts b src s).1 0)
      (accSum (s.bay b).nt ac (accParts b src s).1 1)) (accParts b src s).2 := rfl

theorem finishNt_acc {ac : Bool} {fd : LFlag} {src : Desc} (he : e.op = .acc ac fd src) (hi : e.idle = false)
    (hb : (e.op.reads (s.bay b).nt).any (byteBad s) = false) :
    flagOf b fd (finishNt b e s) = true ∧ (finishNt b e s).mem = s.mem ∧
      ((finishNt b e s).bay b).nt = twoPolys { (s.bay b).nt with run := none } ac
        (accSum (s.bay b).nt ac (accParts b src (freed b s)).1 0) (accSum (s.bay b).nt ac (accParts b src (freed b s)).1 1) := by
  have hx : ((freed b s).bay b).nt = { (s.bay b).nt with run := none } := nt_freed
  rw [finishNt_inside hi hb (by simp [he]), he, ntRun_acc]
  refine ⟨flagOf_putFlag.trans (if_pos rfl), ?_, ?_⟩
  · rw [TransferRuns.mem_putFlagOpt]
    exact transformed_frame.1
  · rw [nt_putFlagOpt]
    refine nt_rewrote.trans (nt_updNt.trans ?_)
    have hb' : (accParts b src (freed b s)).2.bay b = (freed b s).bay b := by
      rw [State.bay, State.bay, accParts, transformed_frame.2]
    rw [hb', hx]
    rfl

/-- Coefficient `j` of the test polynomial of R132 at modulus `q`, degree `n`, over the table `T` of 2^tlog entries. -/
def testCoef (q n tlog : Nat) (T : Nat → Nat) (j : Nat) : Nat :=
  if (j + n / 2 ^ tlog / 2) / (n / 2 ^ tlog) < 2 ^ tlog then
    q / (2 * 2 ^ tlog) * (T ((j + n / 2 ^ tlog / 2) / (n / 2 ^ tlog)) % 2 ^ tlog) % q
  else (q - q / (2 * 2 ^ tlog) * (T 0 % 2 ^ tlog) % q) % q

theorem testCoef_lt {q n tlog j : Nat} {T : Nat → Nat} (hq : 0 < q) : testCoef q n tlog T j < q := by
  unfold testCoef
  split <;> exact Nat.mod_lt _ hq

theorem testPoly_eq {q n tlog : Nat} {T : Nat → Nat} : testPoly q n tlog T = (List.range n).map (testCoef q n tlog T) := rfl

/-- A rotation by minus `v`: coefficient `k` is the one at `k + v`, negated past the end (R129). -/
theorem getElem?_rotPoly {q n v k : Nat} {l : List Nat} (hl : l.length = n) (hk : k < n) :
    (rotPoly q (2 * n - v % (2 * n)) l)[k]? = some (if (k + v) % (2 * n) < n then l.getD ((k + v) % (2 * n)) 0
      else (q - l.getD ((k + v) % (2 * n) - n) 0 % q) % q) := by
  have hr : v % (2 * n) < 2 * n := Nat.mod_lt _ (by omega)
  have hj : (k + 2 * n - (2 * n - v % (2 * n)) % (2 * n)) % (2 * n) = (k + v) % (2 * n) := by
    rw [Nat.add_mod k v]
    rcases Nat.eq_zero_or_pos (v % (2 * n)) with h | h
    · rw [h, Nat.sub_zero, Nat.mod_self, Nat.sub_zero, Nat.add_mod_right, Nat.add_zero, Nat.mod_mod]
    · rw [Nat.mod_eq_of_lt (show 2 * n - v % (2 * n) < 2 * n by omega), Nat.mod_eq_of_lt (show k < 2 * n by omega)]
      congr 1
      omega
  subst hl
  rw [rotPoly, List.getElem?_map, List.getElem?_range hk]
  simp only [Option.map_some, hj]

theorem rotPoly_lt {q r : Nat} {l : List Nat} (hq : 0 < q) (hl : ∀ v ∈ l, v < q) : ∀ v ∈ rotPoly q r l, v < q := by
  intro v hv
  obtain ⟨k, -, rfl⟩ := List.mem_map.1 hv
  dsimp only
  split
  · rw [List.getD_eq_getElem?_getD]
    rcases hg : l[(k + 2 * l.length - r % (2 * l.length)) % (2 * l.length)]? with _ | w
    · exact hq
    · exact hl w (List.mem_of_getElem? hg)
  · exact Nat.mod_lt _ hq

theorem length_rotPoly {q r : Nat} {l : List Nat} : (rotPoly q r l).length = l.length := by simp [rotPoly]

/-- The rotated test polynomial an NT.TV puts into its accumulator. -/
def tvPoly (x : Nt) (T : Nat → Nat) (bt : W32) : List Nat :=
  rotPoly x.q (2 * x.n - bt.toNat % (2 * x.n)) (testPoly x.q x.n x.tlog T)

theorem getElem?_tvPoly {x : Nt} {T : Nat → Nat} {bt : W32} {k : Nat} (hq : 0 < x.q) (hk : k < x.n) :
    (tvPoly x T bt)[k]? = some (if (k + bt.toNat) % (2 * x.n) < x.n then testCoef x.q x.n x.tlog T ((k + bt.toNat) % (2 * x.n))
      else (x.q - testCoef x.q x.n x.tlog T ((k + bt.toNat) % (2 * x.n) - x.n)) % x.q) := by
  have hg {j : Nat} (hj : j < x.n) : (testPoly x.q x.n x.tlog T).getD j 0 = testCoef x.q x.n x.tlog T j := by
    rw [testPoly_eq, List.getD_eq_getElem?_getD, List.getElem?_map, List.getElem?_range hj]
    rfl
  have hr : (k + bt.toNat) % (2 * x.n) < 2 * x.n := Nat.mod_lt _ (by omega)
  rw [tvPoly, getElem?_rotPoly (by simp [testPoly_eq]) hk]
  split
  · rw [hg ‹_›]
  · rw [hg (by omega), Nat.mod_eq_of_lt (testCoef_lt hq)]

theorem finishNt_tv {ac refresh : Bool} {slot : Option (Bool × Fin 16)} {bt : W32} (he : e.op = .tv ac slot bt refresh)
    (hi : e.idle = false) (hb : (e.op.reads (s.bay b).nt).any (byteBad s) = false) :
    onlyBay b s (finishNt b e s) ∧ ((finishNt b e s).bay b).nt = twoPolys { (s.bay b).nt with run := none } ac
      (tvPoly (s.bay b).nt (tvTable (s.bay b).tbl slot refresh) bt) (List.replicate (s.bay b).nt.n 0) := by
  have hx : ((freed b s).bay b).nt = { (s.bay b).nt with run := none } := nt_freed
  have ht : ((freed b s).bay b).tbl = (s.bay b).tbl := by simp [freed, updNt]
  have hr : ntRun b (.tv ac slot bt refresh) (freed b s) = updNt b (fun x => twoPolys x ac
      (tvPoly (s.bay b).nt (tvTable (s.bay b).tbl slot refresh) bt) (List.replicate (s.bay b).nt.n 0)) (freed b s) := by
    unfold ntRun
    rw [ht, hx]
    rfl
  rw [finishNt_inside hi hb (by simp [he]), he, hr]
  refine ⟨onlyBay_trans (onlyBay_trans onlyBay_updBay onlyBay_updBay) onlyBay_rewrote, ?_⟩
  exact nt_rewrote.trans (nt_updNt.trans (by rw [hx]))

/-- Settles O21, by the instruction that starts or completes. -/
theorem ringEvents : Obligations.RingEvents := by
  unfold Obligations.RingEvents
  refine ⟨fun b e r s hd hm hu hq hc hr hs => ?_, fun b e r ac fd v d s hd hm hq hc he hs => ?_,
    fun b e s hd hm hr hq hb => ?_, fun b e fd src dst s hd hm hr hq he => ?_⟩
  · have hsh : ¬ tooShort b e s := by
      rintro ⟨ac, fd, v, d, he, hlt⟩
      rw [he] at hs
      exact absurd hlt (Nat.not_lt.2 hs)
    refine ⟨_, (execNtInstrStart_eq hm hq hc).trans (congrArg _ (startNt_runs hu hsh hr)),
      onlyBay_trans onlyBay_updBay onlyBay_updBay, ?_⟩
    rw [nt_updNt, dequeued, nt_updNt, hq]
    rfl
  · have hx : ((dequeued b s).strm b .x) = s.strm b .x := by simp [dequeued, updNt, State.strm]; rfl
    have hl : (s.strm b .x).status ≠ .halted := by
      simp only [ntCan, xLive, Bool.and_eq_true] at hc
      obtain ⟨⟨⟨⟨-, hl⟩, -⟩, -⟩, -⟩ := hc
      simpa using hl
    have hst := strm_haltStream (s := dequeued b s) (b := b) (st := .x) (code := 0x29) (age := e.seq) (p := e.pc)
      (by rw [hx]; simp [Stream.deaf, hl]) (by rw [hx]; simp [Stream.outdone, hl])
    refine ⟨_, (execNtInstrStart_eq hm hq hc).trans (congrArg _ (startNt_of_short ⟨ac, fd, v, d, he, hs⟩)),
      ringOnly_haltStream, ?_⟩
    rw [hst]
    exact ⟨rfl, rfl, rfl⟩
  · have hi : e.idle = false := by simp [NtEnt.idle, hq]
    refine ⟨_, execNtInstrComplete_eq hd hm hr, ?_⟩
    cases he : e.op with
    | cfg imm =>
      have hf : finishNt b e s = updNt b (fun x => { x with cfg := imm }) (freed b s) := by
        rw [finishNt_inside hi hb (by simp [he]), he]
        rfl
      simp only [hf]
      refine ⟨onlyBay_trans onlyBay_updBay onlyBay_updBay, ?_, ?_⟩
      · rw [nt_updNt]
      · rw [nt_updNt, nt_freed]
    | ldp d =>
      intro hp
      simp only [finishNt_ldp he hi hb hp]
      refine ⟨onlyBay_trans (onlyBay_trans onlyBay_updBay onlyBay_updBay) onlyBay_rewrote, ?_⟩
      rw [nt_rewrote, nt_updNt]
    | fwd fd src dst =>
      intro psi hpsi
      obtain ⟨hf, hn, hmem⟩ := finishNt_writes (fd := fd) hi hb (by simp [he]) (by rw [he]; rfl) (by simp [he, accWritten])
        (by rw [he]; exact ntRun_fwd hpsi)
      refine ⟨hf, by rw [hn], ?_⟩
      rw [hmem, List.flatten_singleton]
    | inv fd src dst =>
      intro psi hpsi
      obtain ⟨hf, hn, hmem⟩ := finishNt_writes (fd := fd) hi hb (by simp [he]) (by rw [he]; rfl) (by simp [he, accWritten])
        (by rw [he]; exact ntRun_inv hpsi)
      refine ⟨hf, by rw [hn], ?_⟩
      rw [hmem, List.flatten_singleton]
    | tv ac slot bt refresh =>
      obtain ⟨ho, hn⟩ := finishNt_tv he hi hb
      refine ⟨ho, by rw [hn]; rfl, fun hle hq hwf => ?_⟩
      have hlt : ∀ v ∈ tvPoly (s.bay b).nt (tvTable (s.bay b).tbl slot refresh) bt, v < 2 ^ 32 := fun v hv =>
        Nat.lt_trans (rotPoly_lt hq (by
          intro v hv
          obtain ⟨j, -, rfl⟩ := List.mem_map.1 hv
          exact testCoef_lt hq) v hv) (s.bay b).nt.prime.q.isLt
      obtain ⟨h₀, h₁, h₂⟩ := poly_twoPolys (x := { (s.bay b).nt with run := none }) (ac := ac) (q := List.replicate (s.bay b).nt.n 0)
        hwf hle (by rw [tvPoly, length_rotPoly, testPoly_eq]; simp; rfl) hlt (by simp; rfl) (by simp)
      rw [hn]
      refine ⟨fun k hk => ?_, h₁, h₂⟩
      rw [h₀, getElem?_tvPoly hq hk]
      rcases slot with _ | ⟨k1, k⟩ <;> rfl
    | step ac fd v dst =>
      intro psi hpsi
      obtain ⟨hf, hn, hmem⟩ := finishNt_writes (fd := fd) hi hb (by simp [he]) (by rw [he]; rfl) (by simp [he, accWritten])
        (by rw [he]; exact ntRun_step hpsi)
      refine ⟨hf, by rw [hn], by rw [hn], ?_⟩
      rw [hmem, List.flatMap_def (f := nttFwd _ _)]
    | acc ac fd src =>
      obtain ⟨hf, hmem, hn⟩ := finishNt_acc he hi hb
      refine ⟨hf, hmem, fun psi hpsi hle hwf c hc => ?_⟩
      have hq := pos_of_canonRoot hpsi
      have hp : (accParts b src (freed b s)).1 = [nttInv (s.bay b).nt.q psi (polyAt s src (s.bay b).nt.q 0 (s.bay b).nt.n),
          nttInv (s.bay b).nt.q psi (polyAt s src (s.bay b).nt.q (s.bay b).nt.n (s.bay b).nt.n)] := by
        rw [accParts, nt_freed]
        exact congrArg Prod.fst (transformed_some hpsi)
      have hlt (c : Nat) : ∀ v ∈ accSum (s.bay b).nt ac (accParts b src (freed b s)).1 c, v < 2 ^ 32 := by
        intro v hv
        obtain ⟨p, -, rfl⟩ := List.mem_map.1 hv
        exact Nat.lt_trans (Nat.mod_lt _ hq) (s.bay b).nt.prime.q.isLt
      obtain ⟨h₀, h₁, h₂⟩ := poly_twoPolys (x := { (s.bay b).nt with run := none }) (ac := ac) hwf hle
        (by simp [accSum, hp, length_poly, length_nttInv, length_polyAt]; rfl) (hlt 0)
        (by simp [accSum, hp, length_poly, length_nttInv, length_polyAt]; rfl) (hlt 1)
      rw [hn]
      refine ⟨?_, h₂ c hc⟩
      obtain rfl | rfl : c = 0 ∨ c = 1 := by omega
      · rw [h₀, hp, Nat.zero_mul]
        rfl
      · rw [h₁, hp, Nat.one_mul]
        rfl
    | out ac fd dst =>
      obtain ⟨hf, hn, hmem⟩ := finishNt_writes (fd := fd) hi hb (by simp [he]) (by rw [he]; rfl) (by simp [he, accWritten])
        (by rw [he]; exact ntRun_out)
      refine ⟨hf, ?_⟩
      rw [hmem]
      simp
  · have hi : e.idle = true := by
      rcases he with he | he <;> simp [NtEnt.idle, hq, he, NtOp.cipher]
    have hl : ∀ d, e.op ≠ .ldp d := by
      rcases he with he | he <;> simp [he]
    have hc : completed b e s = putFlagOpt b (some fd) (putPolys dst [List.replicate (s.bay b).nt.n 0] (freed b s)) := by
      have hn : ((freed b s).bay b).nt.n = (s.bay b).nt.n := by rw [nt_freed]; rfl
      rcases he with he | he <;> simp [completed, hi, he, NtOp.flag, accWritten, ntZero, hn]
    obtain ⟨hf, -, hmem⟩ := putPolys_spec (s := s) (b := b) (d := dst) (ls := [List.replicate (s.bay b).nt.n 0]) (fd := fd)
    refine ⟨_, (execNtInstrComplete_eq hd hm hr).trans (congrArg _ ((finishNt_completed (.inl hi) hl).trans hc)), hf, ?_⟩
    rw [hmem, bytes_zeros]

end Sys2Proof.Proofs.RingUnit
end

section
/-! PROOFS. The instructions on registers and predicates: what each lane and each predicate bit takes (R142, R145 to R148, R150,
R152, R157, R166, R167). -/

namespace Sys2Proof.Proofs.VectorEffects

open Sys2Proof Sys2Proof.Machine Sys2Proof.Laws.State Sys2Proof.Laws.Ops Sys2Proof.Proofs.Tables Sys2Proof.Proofs.VectorEngine
  Sys2Proof.Proofs.ModularPass

variable {s t : State} {b : Bay} {x y : Vec} {vd va vb vc : VReg} {pg : PReg} {e : VecEnt}

/-! ### A write of lanes (R142) -/

/-- Lane `i` of a register. -/
def lane (x : Vec) (u : VReg) (i : Nat) : W32 := Sparse.get (fun _ => 0#32) x.vregs[u] i

theorem getElem_lane {i : Nat} (h : i < (x.lanes va).length) : (x.lanes va)[i] = lane x va i := getElem_lanes h

theorem lane_write {l : List W32} {i : Nat} (hl : l.length = 512) (h : i < 512) :
    lane (x.write pg vd l) vd i = if (x.pred pg).getLsbD i = true then l[i] else lane x vd i := get_write hl h

/-- The active lanes of `vd` take `f`, the rest of the engine but its overflow bit is as it was, and that is set by an active lane
that `g` names. -/
structure Lanes (x y : Vec) (pg : PReg) (vd : VReg) (f : Nat → W32) (g : Nat → Bool) : Prop where
  get : ∀ i, i < 512 → lane y vd i = if (x.pred pg).getLsbD i = true then f i else lane x vd i
  vregs : ∀ u, u ≠ vd → y.vregs[u] = x.vregs[u]
  preds : y.preds = x.preds
  ka : y.ka = x.ka
  queue : y.queue = x.queue
  ovf : y.ovf = true ↔ x.ovf = true ∨ ∃ i, i < 512 ∧ (x.pred pg).getLsbD i = true ∧ g i = true

theorem lanes_write {l : List W32} {f : Nat → W32} (hl : l.length = 512) (hf : ∀ i (h : i < l.length), l[i] = f i) :
    Lanes x (x.write pg vd l) pg vd f (fun _ => false) where
  get i hi := by rw [lane_write hl hi, hf i (by omega)]
  vregs _ hu := vregs_write_ne hu
  preds := rfl
  ka := rfl
  queue := rfl
  ovf := by
    change x.ovf = true ↔ _
    simp

theorem lanes_result {r : List W32 × List Bool} {f : Nat → W32} {g : Nat → Bool} (hl : r.1.length = 512) (hl' : r.2.length = 512)
    (hf : ∀ i (h : i < r.1.length), r.1[i] = f i) (hg : ∀ i (h : i < r.2.length), r.2[i] = g i) :
    Lanes x (x.result pg vd r) pg vd f g where
  get i hi := by
    rw [Vec.result, lane_write hl hi, hf i (by omega)]
    rfl
  vregs _ hu := vregs_write_ne hu
  preds := rfl
  ka := rfl
  queue := rfl
  ovf := by
    refine Iff.trans ovf_over (or_congr_right (exists_congr fun i => ?_))
    constructor
    · rintro ⟨hi, hlane, hon⟩
      exact ⟨by omega, hon, by rw [← hg i hi]; exact hlane⟩
    · rintro ⟨hi, hon, hgi⟩
      exact ⟨by omega, by rw [hg i]; exact hgi, hon⟩

theorem lanes_lanes2 {h : W32 → W32 → W32 × Bool} {l : List W32} {f : Nat → W32} {g : Nat → Bool} (hl : l.length = 512)
    (hf : ∀ i (hi : i < l.length), h (lane x va i) l[i] = (f i, g i)) :
    Lanes x (x.result pg vd (lanes2 h (x.lanes va) l)) pg vd f g := by
  refine lanes_result (by simp [lanes2, hl]) (by simp [lanes2, hl]) (fun i hi => ?_) (fun i hi => ?_)
  · have hi' : i < l.length := by simp [lanes2, hl] at hi; omega
    simpa [lanes2, -getElem_lanes, getElem_lane] using congrArg Prod.fst (hf i hi')
  · have hi' : i < l.length := by simp [lanes2, hl] at hi; omega
    simpa [lanes2, -getElem_lanes, getElem_lane] using congrArg Prod.snd (hf i hi')

theorem lanes_opB {h : W32 → W32 → W32 × Bool} {o : VB} {f : Nat → W32} {g : Nat → Bool}
    (hf : ∀ i, h (lane x va i) (operandB x o i) = (f i, g i)) :
    Lanes x (x.result pg vd (lanes2 h (x.lanes va) (x.opB o))) pg vd f g :=
  lanes_lanes2 length_opB fun i hi => by rw [getElem_opB]; exact hf i

/-- Lanes written from one register. -/
theorem lanes_map {h : W32 → W32} {f : Nat → W32} (hf : ∀ i, h (lane x va i) = f i) :
    Lanes x (x.write pg vd ((x.lanes va).map h)) pg vd f (fun _ => false) :=
  lanes_write (by simp) fun i hi => by simpa [-getElem_lanes, getElem_lane] using hf i

/-! ### One lane (R145 to R148, R221) -/

section OneLane

variable {a c : W32} {p : PrimeRec} {n : Nat}

theorem shl_eq : a <<< n = BitVec.ofNat 32 (a.toNat * 2 ^ n) :=
  BitVec.eq_of_toNat_eq (by rw [BitVec.toNat_shiftLeft, Nat.shiftLeft_eq, BitVec.toNat_ofNat])

theorem shr_eq : a >>> n = BitVec.ofNat 32 (a.toNat / 2 ^ n) :=
  BitVec.eq_of_toNat_eq (by
    rw [BitVec.toNat_ushiftRight, Nat.shiftRight_eq_div_pow, BitVec.toNat_ofNat,
      Nat.mod_eq_of_lt (Nat.lt_of_le_of_lt (Nat.div_le_self _ _) a.isLt)])

theorem sra_eq : a.sshiftRight n = BitVec.ofInt 32 (a.toInt / 2 ^ n) := by
  rw [BitVec.sshiftRight, Int.shiftRight_eq_div_pow]
  norm_cast

theorem min_eq : (if a.slt c then a else c) = if a.toInt ≤ c.toInt then a else c := by
  rcases Int.lt_trichotomy a.toInt c.toInt with h | h | h
  · rw [if_pos (by simpa [BitVec.slt] using h), if_pos (by omega)]
  · rw [BitVec.eq_of_toInt_eq h]; simp
  · rw [if_neg (by simp [BitVec.slt]; omega), if_neg (by omega)]

theorem max_eq : (if a.slt c then c else a) = if a.toInt ≤ c.toInt then c else a := by
  rcases Int.lt_trichotomy a.toInt c.toInt with h | h | h
  · rw [if_pos (by simpa [BitVec.slt] using h), if_pos (by omega)]
  · rw [BitVec.eq_of_toInt_eq h]; simp
  · rw [if_neg (by simp [BitVec.slt]; omega), if_neg (by omega)]

theorem minu_eq : (if a.ult c then a else c) = if a.toNat ≤ c.toNat then a else c := by
  rcases Nat.lt_trichotomy a.toNat c.toNat with h | h | h
  · rw [if_pos (by simpa [BitVec.ult] using h), if_pos (by omega)]
  · rw [BitVec.eq_of_toNat_eq h]; simp
  · rw [if_neg (by simp [BitVec.ult]; omega), if_neg (by omega)]

theorem maxu_eq : (if a.ult c then c else a) = if a.toNat ≤ c.toNat then c else a := by
  rcases Nat.lt_trichotomy a.toNat c.toNat with h | h | h
  · rw [if_pos (by simpa [BitVec.ult] using h), if_pos (by omega)]
  · rw [BitVec.eq_of_toNat_eq h]; simp
  · rw [if_neg (by simp [BitVec.ult]; omega), if_neg (by omega)]

/-- A record that R83 lets be loaded reduces modulo its q. -/
theorem reduce_sound (hn : n < 2 ^ 88) : p.reduce n = if primeOk (p, 0) = true then n % p.q.toNat else p.reduce n := by
  split
  · exact reduce_eq ‹_› hn
  · rfl

theorem res31_lt : res31 a < 2 ^ 31 := Nat.mod_lt _ (by decide)

/-- The sums and products of two lanes stay below 2^88. -/
theorem add_lt : res31 a + res31 c < 2 ^ 88 := by
  have ha := @res31_lt a
  have hc := @res31_lt c
  omega

theorem mac_lt {d : W32} : res31 d + res31 a * res31 c < 2 ^ 88 := by
  have hm : res31 a * res31 c < 2 ^ 31 * 2 ^ 31 := Nat.mul_lt_mul'' res31_lt res31_lt
  have hd := @res31_lt d
  omega

theorem mul_lt : res31 a * res31 c < 2 ^ 88 := Nat.lt_of_le_of_lt (Nat.le_add_left _ _) (mac_lt (d := 0#32))

theorem toNat_lt : a.toNat < 2 ^ 88 := Nat.lt_trans a.isLt (by decide)

end OneLane

/-! ### An instruction on registers (R146 to R152, R157, R166) -/

/-- The instructions that only work on registers and predicates. -/
def onRegs : VecOp → Bool
  | .kmac .. | .ld .. | .st .. | .ldq .. | .sum .. | .ldp .. | .stat _ => false
  | _ => true

/-- An instruction that writes lanes: what it does under RUN, and quenched, where `z` says that it writes zeros. -/
structure WritesLanes (x : Vec) (op : VecOp) (pg : PReg) (vd : VReg) (f : Nat → W32) (g : Nat → Bool) (z : Bool) : Prop where
  regs : onRegs op = true
  run : ∀ w, Lanes x (x.apply op w) pg vd f g
  quench : Lanes x (x.quench op) pg vd (fun i => if z = true then 0#32 else f i) (fun _ => false)

theorem lanes_zeros {f : Nat → W32} :
    Lanes x (x.write pg vd (List.replicate 512 0#32)) pg vd (fun i => if true = true then 0#32 else f i) (fun _ => false) :=
  lanes_write List.length_replicate fun _ hi => (List.getElem_replicate hi).trans (if_pos rfl).symm

section Ops

variable {o : VB} {v : Fin 64} {f : Nat → W32} {g : Nat → Bool} {w : W32} {ps : PReg} {i : Nat}

theorem writesLanes_alu {op : VAlu} (h : ∀ i, aluLane op (lane x va i) (operandB x o i) = (f i, g i)) :
    WritesLanes x (.alu op vd va o pg) pg vd f g true :=
  ⟨rfl, fun _ => lanes_opB h, lanes_zeros⟩

theorem writesLanes_falu {op : VFalu} (h : ∀ i, faluLane op (lane x va i) (operandB x o i) = (f i, g i)) :
    WritesLanes x (.falu op vd va o pg) pg vd f g true :=
  ⟨rfl, fun _ => lanes_opB h, lanes_zeros⟩

theorem writesLanes_sel (h : ∀ i, i < 512 → (if (x.pred ps).getLsbD i = true then lane x va i else operandB x o i) = f i) :
    WritesLanes x (.sel vd va o ps pg) pg vd f (fun _ => false) true := by
  refine ⟨rfl, fun _ => lanes_write (by simp) fun i hi => ?_, lanes_zeros⟩
  have hi' : i < 512 := by simpa using hi
  simpa [-getElem_lanes, getElem_lane] using h i hi'

theorem writesLanes_iota : WritesLanes x (.iota vd w pg) pg vd (fun i => BitVec.ofNat 32 (w.toNat + i)) (fun _ => false) false := by
  have h : Lanes x (x.write pg vd ((List.range 512).map (fun i => w + BitVec.ofNat 32 i))) pg vd
      (fun i => BitVec.ofNat 32 (w.toNat + i)) (fun _ => false) :=
    lanes_write (by simp) fun i hi => by simp [BitVec.ofNat_add]
  exact ⟨rfl, fun _ => h, h⟩

theorem writesLanes_fma (h : ∀ i, fmaLane (lane x va i) (operandB x o i) (lane x vc i) = (f i, g i)) :
    WritesLanes x (.fma vd va o vc pg) pg vd f g true := by
  refine ⟨rfl, fun _ => lanes_result (by simp [lanes3]) (by simp [lanes3]) (fun i hi => ?_) (fun i hi => ?_), lanes_zeros⟩
  · simpa [lanes3, -getElem_lanes, getElem_lane] using congrArg Prod.fst (h i)
  · simpa [lanes3, -getElem_lanes, getElem_lane] using congrArg Prod.snd (h i)

theorem lanes_one {h : W32 → W32 × Bool} :
    Lanes x (x.result pg vd (lanes2 (fun a _ => h a) (x.lanes va) (x.lanes va))) pg vd (fun i => (h (lane x va i)).1)
      (fun i => (h (lane x va i)).2) :=
  lanes_lanes2 length_lanes fun _ _ => rfl

theorem apply_toInt {k : Nat → W32} : x.apply (.cvt vd va true pg) k =
    x.result pg vd (lanes2 (fun a _ => toI32 a) (x.lanes va) (x.lanes va)) := by
  simp only [Vec.apply, if_true]

theorem apply_ofInt {k : Nat → W32} : x.apply (.cvt vd va false pg) k =
    x.result pg vd (lanes2 (fun a _ => (ofI32 a, false)) (x.lanes va) (x.lanes va)) := by
  simp only [Vec.apply, Bool.false_eq_true, if_false]

theorem writesLanes_toInt : WritesLanes x (.cvt vd va true pg) pg vd (fun i => (toI32 (lane x va i)).1)
    (fun i => (toI32 (lane x va i)).2) true :=
  ⟨rfl, fun _ => by rw [apply_toInt]; exact lanes_one, lanes_zeros⟩

theorem writesLanes_ofInt : WritesLanes x (.cvt vd va false pg) pg vd (fun i => ofI32 (lane x va i)) (fun _ => false) true :=
  ⟨rfl, fun _ => by rw [apply_ofInt]; exact lanes_one (h := fun a => (ofI32 a, false)), lanes_zeros⟩

theorem writesLanes_modb {op : VMod}
    (h : ∀ i, modLane op (primeAt x.vpt v) (lane x vd i) (lane x va i) (operandB x o i) = f i) :
    WritesLanes x (.modb op vd va o v pg) pg vd f (fun _ => false) true := by
  refine ⟨rfl, fun _ => lanes_write (by simp) fun i hi => ?_, lanes_zeros⟩
  simpa [-getElem_lanes, getElem_lane] using h i

theorem writesLanes_perm : WritesLanes x (.perm vd va vb pg) pg vd (fun i => lane x va ((lane x vb i).toNat % 512))
    (fun _ => false) true := by
  refine ⟨rfl, fun _ => lanes_map fun i => ?_, lanes_zeros⟩
  have hi : (lane x vb i).toNat % 512 < (x.lanes va).length := by rw [length_lanes]; omega
  rw [List.getD_eq_getElem _ _ hi, getElem_lane]

theorem writesLanes_sf {sf : SfFunc} {m : Nat} (h : sf.isRow = false) :
    WritesLanes x (.sf sf vd va m w pg) pg vd (fun i => sfElem sf (lane x va i)) (fun _ => false) true := by
  have hr (k : Nat → W32) : x.apply (.sf sf vd va m w pg) k = x.write pg vd ((x.lanes va).map (sfElem sf)) := by
    simp only [Vec.apply, h, Bool.false_eq_true, if_false]
  have hq : x.quench (.sf sf vd va m w pg) = x.write pg vd (List.replicate 512 0#32) := by
    simp only [Vec.quench, h, Bool.false_eq_true, if_false]
  exact ⟨rfl, fun k => by rw [hr]; exact lanes_map fun _ => rfl, by rw [hq]; exact lanes_zeros⟩

theorem writesLanes_lrot : WritesLanes x (.lrot vd va w pg) pg vd (fun i => lane x va ((i + w.toNat) % 512)) (fun _ => false) true := by
  refine ⟨rfl, fun _ => lanes_write (by simp; omega) fun i hi => ?_, lanes_zeros⟩
  have hi' : i < 512 := by simp at hi; omega
  by_cases hd : i < 512 - w.toNat % 512
  · rw [List.getElem_append_left (by simpa using hd), List.getElem_drop, getElem_lane]
    congr 1
    omega
  · rw [List.getElem_append_right (by simpa using hd), List.getElem_take, getElem_lane]
    congr 1
    simp
    omega

end Ops

/-! ### The start of such an instruction (R154) -/

/-- The engine after the instruction. -/
def ran (e : VecEnt) (k : Nat → W32) (x : Vec) : Vec := if e.quench then x.quench e.op else x.apply e.op k

/-- The state after the start: the head of the queue gone, the instruction done, two free values used. -/
def regsRun (b : Bay) (e : VecEnt) (s : State) : State :=
  wroteRegs b e.op (unqueued (s.bay b).vec)
    (updVec b (ran e (fun i => BitVec.ofNat 32 (Config.freeNat (s.free + i)))) (updVec b unqueued (drew 2 s)))

theorem startVec_regs (hu : soundUnits b s = true) (ho : onRegs e.op = true) : startVec b e .clean s = regsRun b e s := by
  rw [startVec, withUnits_clean (soundUnits_updVec.trans hu), regsRun]
  unfold ran
  simp only [vec_updVec]
  split
  case h_8 => rfl
  all_goals
    rename_i h
    rw [h] at ho
    exact absurd ho Bool.false_ne_true

theorem onlyBay_regsRun : onlyBay b (drew 2 s) (regsRun b e s) :=
  onlyBay_trans (onlyBay_trans onlyBay_updVec onlyBay_updVec) onlyBay_wroteRegs

theorem vec_regsRun : ((regsRun b e s).bay b).vec =
    ran e (fun i => BitVec.ofNat 32 (Config.freeNat (s.free + i))) (unqueued (s.bay b).vec) := by
  simp [regsRun]

theorem x_wroteRegs {op : VecOp} : ((wroteRegs b op x s).bay b).x = (s.bay b).x := by
  unfold wroteRegs
  split
  · rfl
  · simp [updProt]

theorem strm_regsRun : (regsRun b e s).strm b .x = s.strm b .x := by
  change ((regsRun b e s).bay b).x = (s.bay b).x
  rw [regsRun, x_wroteRegs]
  simp [updVec]

/-- What every start of an instruction on registers leaves outside the engine. -/
theorem regsRun_frame : regsRun b e s = { s with bays := (regsRun b e s).bays, free := (regsRun b e s).free } ∧
    (∀ c : Bay, c ≠ b → (regsRun b e s).bay c = s.bay c) ∧ (regsRun b e s).strm b .x = s.strm b .x := by
  obtain ⟨hf, hc⟩ := onlyBay_regsRun (b := b) (e := e) (s := s)
  exact ⟨by rw [hf]; rfl, hc, strm_regsRun⟩

theorem lanes_ran {f : Nat → W32} {g : Nat → Bool} {z : Bool} {k : Nat → W32} (h : WritesLanes x e.op pg vd f g z) :
    Lanes x (ran e k x) pg vd (fun i => if e.quench = true ∧ z = true then 0#32 else f i) (fun i => !e.quench && g i) := by
  obtain ⟨-, hrun, hq⟩ := h
  unfold ran
  cases he : e.quench
  · simpa using hrun k
  · simpa using hq

/-- The start of an instruction that writes lanes. -/
theorem start_lanes {r : List VecEnt} {f : Nat → W32} {g : Nat → Bool} {z : Bool} (hm : memFree s = true)
    (hu : soundUnits b s = true) (hq : (s.bay b).vec.queue = e :: r) (hc : vecCan b s = true)
    (hw : WritesLanes (unqueued (s.bay b).vec) e.op pg vd f g z) :
    exec (.veInstrStart b .clean) s = .next (regsRun b e s) ∧
      Lanes (unqueued (s.bay b).vec) ((regsRun b e s).bay b).vec pg vd (fun i => if e.quench = true ∧ z = true then 0#32 else f i)
        (fun i => !e.quench && g i) := by
  rw [exec_veInstrStart_clean hm hq hc, startVec_regs hu hw.regs, vec_regsRun]
  exact ⟨rfl, lanes_ran hw⟩

/-! ### An instruction on predicates (R142, R150, R221) -/

/-- The active bits of `pd` take `f`, and the rest of the engine is as it was. -/
structure Bits (x y : Vec) (pg pd : PReg) (f : Nat → Bool) : Prop where
  get : ∀ i, i < 512 → (y.preds[pd]).getLsbD i = if (x.pred pg).getLsbD i = true then f i else (x.preds[pd]).getLsbD i
  preds : ∀ n, n ≠ pd → y.preds[n] = x.preds[n]
  vregs : y.vregs = x.vregs
  ovf : y.ovf = x.ovf
  queue : y.queue = x.queue

section Predicates

variable {pd pa pc : PReg} {p : BitVec 512} {f : Nat → Bool} {z : Bool} {i : Nat} {o : VB}

theorem bits_writePred (hpd : pd ≠ 0) (hp : ∀ i, i < 512 → p.getLsbD i = f i) : Bits x (x.writePred pg pd p) pg pd f where
  get i hi := by
    have hx : x.pred pd = x.preds[pd] := if_neg hpd
    have hs : (x.writePred pg pd p).preds[pd] = (x.preds[pd] &&& ~~~(x.pred pg)) ||| (p &&& x.pred pg) := by
      rw [← hx]
      simp [Vec.writePred, Vec.setPred]
    rw [hs]
    by_cases hg : (x.pred pg).getLsbD i = true
    · rw [if_pos hg, BitVec.getLsbD_or, BitVec.getLsbD_and, BitVec.getLsbD_and, BitVec.getLsbD_not, hg, hp i hi]
      simp
    · rw [if_neg hg, BitVec.getLsbD_or, BitVec.getLsbD_and, BitVec.getLsbD_and, BitVec.getLsbD_not, Bool.eq_false_iff.2 hg,
        decide_eq_true hi]
      simp
  preds n hn := by
    have hne : pd.val ≠ n.val := fun h => hn (Fin.ext h.symm)
    simp [Vec.writePred, Vec.setPred, hne]
  vregs := rfl
  ovf := rfl
  queue := rfl

theorem testBit_ofBits {l : List Bool} :
    (l.foldr (fun (b : Bool) acc => (if b then 1 else 0) + 2 * acc) 0).testBit i = l.getD i false := by
  induction l generalizing i with
  | nil => simp
  | cons c l ih =>
    cases i with
    | zero => cases c <;> simp [Nat.testBit_zero]
    | succ i =>
      rw [List.foldr_cons, Nat.testBit_succ, List.getD_cons_succ, ← ih]
      congr 1
      split <;> omega

theorem getLsbD_ofBits {l : List Bool} (hi : i < 512) : (ofBits l).getLsbD i = l.getD i false := by
  rw [ofBits, BitVec.getLsbD_ofNat, testBit_ofBits, decide_eq_true hi, Bool.true_and]

/-- The bits of a comparison of a register with operand B. -/
theorem getLsbD_compared {h : W32 × W32 → Bool} (hi : i < 512) :
    (ofBits (((x.lanes va).zip (x.opB o)).map h)).getLsbD i = h (lane x va i, operandB x o i) := by
  rw [getLsbD_ofBits hi, List.getD_eq_getElem _ _ (by simpa using hi)]
  simp [-getElem_lanes, getElem_lane]

/-- An instruction that writes a predicate: under RUN, and quenched, where `z` says that it writes zeros. -/
structure WritesBits (x : Vec) (op : VecOp) (pg pd : PReg) (f : Nat → Bool) (z : Bool) : Prop where
  regs : onRegs op = true
  run : ∀ w, Bits x (x.apply op w) pg pd f
  quench : Bits x (x.quench op) pg pd (fun i => if z = true then false else f i)

theorem bits_zeros (hpd : pd ≠ 0) : Bits x (x.writePred pg pd 0#512) pg pd (fun i => if true = true then false else f i) :=
  bits_writePred hpd fun i _ => by simp

theorem bits_ran {k : Nat → W32} (h : WritesBits x e.op pg pd f z) :
    Bits x (ran e k x) pg pd (fun i => if e.quench = true ∧ z = true then false else f i) := by
  obtain ⟨-, hrun, hq⟩ := h
  unfold ran
  cases e.quench
  · simpa using hrun k
  · simpa using hq

theorem start_bits {r : List VecEnt} (hm : memFree s = true) (hu : soundUnits b s = true) (hq : (s.bay b).vec.queue = e :: r)
    (hc : vecCan b s = true) (hw : WritesBits (unqueued (s.bay b).vec) e.op pg pd f z) :
    exec (.veInstrStart b .clean) s = .next (regsRun b e s) ∧
      Bits (unqueued (s.bay b).vec) ((regsRun b e s).bay b).vec pg pd (fun i => if e.quench = true ∧ z = true then false else f i) := by
  rw [exec_veInstrStart_clean hm hq hc, startVec_regs hu hw.regs, vec_regsRun]
  exact ⟨rfl, bits_ran hw⟩

/-- Bit `i` of a predicate, P0 all ones (R141). -/
theorem getLsbD_pred_or (hi : i < 512) : (x.pred pa).getLsbD i = (pa == 0 || (x.preds[pa]).getLsbD i) := by
  rw [Bool.eq_iff_iff, getLsbD_pred hi]
  simp

theorem writesBits_cmp {rel : Rel} (hpd : pd ≠ 0) (h : ∀ i, Machine.Rel.holds rel (lane x va i) (operandB x o i) = f i) :
    WritesBits x (.cmp pd rel va o pg) pg pd f true :=
  ⟨rfl, fun _ => bits_writePred hpd fun i hi => (getLsbD_compared hi).trans (h i), bits_zeros hpd⟩

theorem writesBits_fcmp {rel : FRel} (hpd : pd ≠ 0) (h : ∀ i, frelLane rel (lane x va i) (operandB x o i) = f i) :
    WritesBits x (.fcmp pd rel va o pg) pg pd f true :=
  ⟨rfl, fun _ => bits_writePred hpd fun i hi => (getLsbD_compared hi).trans (h i), bits_zeros hpd⟩

theorem writesBits_gsign {c k0 : W32} {logn : Nat} (hpd : pd ≠ 0) :
    WritesBits x (.gsign pd c k0 logn pg) pg pd (gsignLane c k0 logn) false := by
  have h : Bits x (x.writePred pg pd (ofBits ((List.range 512).map (gsignLane c k0 logn)))) pg pd (gsignLane c k0 logn) :=
    bits_writePred hpd fun i hi => by
      rw [getLsbD_ofBits hi, List.getD_eq_getElem _ _ (by simpa using hi)]
      simp
  exact ⟨rfl, fun _ => h, h⟩

end Predicates

theorem holds_ne {a c : W32} : Machine.Rel.holds .ne a c = decide (a ≠ c) := by
  rw [Bool.eq_iff_iff]
  simp [Machine.Rel.holds]

theorem holds_ge {a c : W32} : Machine.Rel.holds .ge a c = decide (c.toInt ≤ a.toInt) := by
  rw [Bool.eq_iff_iff]
  simp [Machine.Rel.holds, BitVec.slt]

theorem holds_geu {a c : W32} : Machine.Rel.holds .geu a c = decide (c.toNat ≤ a.toNat) := by
  rw [Bool.eq_iff_iff]
  simp [Machine.Rel.holds, BitVec.ult]

/-- What VE.FCMP gives for an order of its operands, none where one is NaN (R221). -/
def relBit (r : FRel) (o : Option Ordering) : Bool :=
  match o with
  | none => r == .ne || r == .un
  | some c =>
    match r with
    | .eq => c == .eq
    | .ne => c != .eq
    | .lt => c == .lt
    | .ge => c != .lt
    | .le => c != .gt
    | .gt => c == .gt
    | .un => false

theorem frelLane_eq {r : FRel} {a c : W32} : frelLane r a c = relBit r (cmp32 a c) := by
  unfold frelLane
  rcases cmp32 a c with _ | o
  · cases r <;> rfl
  · cases r <;> rfl

/-! ### A row function (R167) -/

theorem length_lanes8 {l : List W32} (h : l.length ≤ 8) : (lanes8 l).length = 8 := by
  simp [lanes8]
  omega

theorem length_rowSumExp {c : W32} {l : List W32} : (rowSumExp c l).length = 2 := by
  unfold rowSumExp
  split <;> rfl

theorem length_rowStat {m : Bool} {c : W32} {l : List W32} : (rowStat m c l).length = 5 := by
  unfold rowStat
  extract_lets
  split_ifs <;> rfl

theorem length_sfRow {f : SfFunc} {c : W32} {l : List W32} : (sfRow f c l).length = 8 := by
  unfold sfRow
  split
  · exact length_lanes8 (by simp)
  · exact length_lanes8 (by rw [length_rowSumExp]; decide)
  · exact length_lanes8 (by rw [length_rowStat]; decide)
  · exact length_lanes8 (by rw [length_rowStat]; decide)
  · exact length_lanes8 (by simp)
  all_goals exact length_lanes8 (by simp)

theorem length_rowLanes {f : SfFunc} {c : W32} {l : List W32} {k : Nat → W32} : (rowLanes f c l k).length = 8 := by
  unfold rowLanes
  split
  · exact length_lanes8 (by simp)
  · exact length_sfRow

/-- Lanes 0 to 7 are written, the others stay (R167). -/
structure LowLanes (x y : Vec) (vd : VReg) (f : Nat → W32) : Prop where
  get : ∀ i, i < 512 → lane y vd i = if i < 8 then f i else lane x vd i
  vregs : ∀ u, u ≠ vd → y.vregs[u] = x.vregs[u]
  preds : y.preds = x.preds
  ovf : y.ovf = x.ovf

theorem lowLanes_writeLow {l : List W32} (hl : l.length = 8) : LowLanes x (x.writeLow vd l) vd (fun i => l.getD i 0#32) where
  get i hi := by
    have hg : lane (x.writeLow vd l) vd i = (l ++ (x.lanes vd).drop 8).getD i 0#32 := by
      simp [lane, Vec.writeLow, Vec.setReg, get_ofLanes]
    rw [hg]
    by_cases h8 : i < 8
    · rw [if_pos h8, List.getD_append _ _ _ _ (by omega)]
    · rw [if_neg h8, List.getD_append_right _ _ _ _ (by omega), hl,
        List.getD_eq_getElem _ _ (by simp; omega), List.getElem_drop, getElem_lane]
      congr 1
      omega
  vregs u hu := by
    have hne : vd.val ≠ u.val := fun h => hu (Fin.ext h.symm)
    simp [Vec.writeLow, Vec.setReg, hne]
  preds := rfl
  ovf := rfl

theorem row_ran {sf : SfFunc} {m : Nat} {c : W32} {k : Nat → W32} (ho : e.op = .sf sf vd va m c pg) (hsf : sf.isRow = true) :
    LowLanes x (ran e k x) vd
      (fun i => if e.quench = true then 0#32 else (rowLanes sf c (x.rowElems pg va m) k).getD i 0#32) := by
  unfold ran
  rw [ho]
  cases e.quench
  · simpa [Vec.apply, hsf] using lowLanes_writeLow length_rowLanes
  · have h := lowLanes_writeLow (x := x) (vd := vd) (l := List.replicate 8 0#32) rfl
    have hz : (fun i => (List.replicate 8 0#32).getD i 0#32) = fun _ => 0#32 := by
      funext i
      rw [List.getD_eq_getElem?_getD, List.getElem?_replicate]
      split <;> rfl
    rw [hz] at h
    simpa [Vec.quench, hsf] using h

/-- Settles O28, by the instruction: the lanes, bits or low lanes it writes, then the frame of a start. -/
theorem vectorEffects : Obligations.VectorEffects := by
  unfold Obligations.VectorEffects
  refine ⟨?_, ?_, ?_⟩
  · intro b e r vd va vb vc y ps pg w v v2 sf m s op f g z x lane' a o k q red r31 no bad hmem hd hm hu hq hc ho hsf
    have hw : WritesLanes (unqueued (s.bay b).vec) op pg vd f g z := by
      simp only [List.mem_cons, List.not_mem_nil, or_false, Prod.mk.injEq] at hmem
      rcases hmem with ⟨rfl, rfl, rfl, rfl⟩ | ⟨rfl, rfl, rfl, rfl⟩ | ⟨rfl, rfl, rfl, rfl⟩ | ⟨rfl, rfl, rfl, rfl⟩ |
        ⟨rfl, rfl, rfl, rfl⟩ | ⟨rfl, rfl, rfl, rfl⟩ | ⟨rfl, rfl, rfl, rfl⟩ | ⟨rfl, rfl, rfl, rfl⟩ | ⟨rfl, rfl, rfl, rfl⟩ |
        ⟨rfl, rfl, rfl, rfl⟩ | ⟨rfl, rfl, rfl, rfl⟩ | ⟨rfl, rfl, rfl, rfl⟩ | ⟨rfl, rfl, rfl, rfl⟩ | ⟨rfl, rfl, rfl, rfl⟩ |
        ⟨rfl, rfl, rfl, rfl⟩ | ⟨rfl, rfl, rfl, rfl⟩ | ⟨rfl, rfl, rfl, rfl⟩ | ⟨rfl, rfl, rfl, rfl⟩ | ⟨rfl, rfl, rfl, rfl⟩ |
        ⟨rfl, rfl, rfl, rfl⟩ | ⟨rfl, rfl, rfl, rfl⟩ | ⟨rfl, rfl, rfl, rfl⟩ | ⟨rfl, rfl, rfl, rfl⟩ | ⟨rfl, rfl, rfl, rfl⟩ |
        ⟨rfl, rfl, rfl, rfl⟩ | ⟨rfl, rfl, rfl, rfl⟩ | ⟨rfl, rfl, rfl, rfl⟩ | ⟨rfl, rfl, rfl, rfl⟩ | ⟨rfl, rfl, rfl, rfl⟩ |
        ⟨rfl, rfl, rfl, rfl⟩
      · exact writesLanes_alu fun i => rfl
      · exact writesLanes_alu fun i => rfl
      · exact writesLanes_alu fun i => rfl
      · exact writesLanes_alu fun i => Prod.ext shl_eq rfl
      · exact writesLanes_alu fun i => Prod.ext shr_eq rfl
      · exact writesLanes_alu fun i => Prod.ext sra_eq rfl
      · exact writesLanes_alu fun i => Prod.ext min_eq rfl
      · exact writesLanes_alu fun i => Prod.ext max_eq rfl
      · exact writesLanes_alu fun i => Prod.ext minu_eq rfl
      · exact writesLanes_alu fun i => Prod.ext maxu_eq rfl
      · exact writesLanes_sel fun i hi => if_congr (getLsbD_pred hi) rfl rfl
      · exact writesLanes_iota
      · exact writesLanes_falu fun i => rfl
      · exact writesLanes_falu fun i => rfl
      · exact writesLanes_falu fun i => rfl
      · exact writesLanes_falu fun i => rfl
      · exact writesLanes_falu fun i => rfl
      · exact writesLanes_fma fun i => rfl
      · exact writesLanes_toInt
      · exact writesLanes_ofInt
      · exact writesLanes_modb fun i => congrArg (BitVec.ofNat 32) (reduce_sound add_lt)
      · exact writesLanes_modb fun i => rfl
      · exact writesLanes_modb fun i => congrArg (BitVec.ofNat 32) (reduce_sound mul_lt)
      · exact writesLanes_modb fun i => congrArg (BitVec.ofNat 32) (reduce_sound mac_lt)
      · exact ⟨rfl, fun _ => lanes_map fun i => rfl, lanes_zeros⟩
      · exact ⟨rfl, fun _ => lanes_map fun i => congrArg (BitVec.ofNat 32) (reduce_sound toNat_lt), lanes_zeros⟩
      · exact ⟨rfl, fun _ => lanes_map fun i => rfl, lanes_zeros⟩
      · exact writesLanes_lrot
      · exact writesLanes_perm
      · exact writesLanes_sf (hsf rfl)
    subst ho
    obtain ⟨hx, hl⟩ := start_lanes hm hu hq hc hw
    obtain ⟨hf, hne, hst⟩ := regsRun_frame (b := b) (e := e) (s := s)
    refine ⟨_, hx, hf, hne, hst, hl.queue.trans (queue_unqueued hq), fun i hi => (hl.get i hi).trans ?_, hl.vregs, hl.preds, hl.ka,
      hl.ovf.trans (or_congr_right ?_)⟩
    · exact if_congr (getLsbD_pred hi) rfl rfl
    · rw [← exists_and_left]
      refine exists_congr fun i => ?_
      constructor
      · rintro ⟨hi, hon, hg⟩
        rw [Bool.and_eq_true, Bool.not_eq_true'] at hg
        exact ⟨hg.1, hi, (getLsbD_pred hi).1 hon, hg.2⟩
      · rintro ⟨hqn, hi, hon, hg⟩
        exact ⟨hi, (getLsbD_pred hi).2 hon, by rw [hqn, hg]; rfl⟩
  · intro b e r pd pa pb pg va y rel fr c k0 logn s op f z x a o p hmem hd hm hu hq hc ho hpd
    have hw : WritesBits (unqueued (s.bay b).vec) op pg pd f z := by
      simp only [List.mem_cons, List.not_mem_nil, or_false, Prod.mk.injEq] at hmem
      rcases hmem with ⟨rfl, rfl, rfl⟩ | ⟨rfl, rfl, rfl⟩ | ⟨rfl, rfl, rfl⟩ | ⟨rfl, rfl, rfl⟩ | ⟨rfl, rfl, rfl⟩ | ⟨rfl, rfl, rfl⟩ |
        ⟨rfl, rfl, rfl⟩
      · refine writesBits_cmp hpd fun i => ?_
        cases rel
        · rfl
        · exact holds_ne
        · rfl
        · exact holds_ge
        · rfl
        · exact holds_geu
      · refine writesBits_fcmp hpd fun i => ?_
        exact frelLane_eq
      · exact ⟨rfl, fun _ => bits_writePred hpd fun i hi => by
          rw [BitVec.getLsbD_and, getLsbD_pred_or hi, getLsbD_pred_or hi]; rfl, bits_zeros hpd⟩
      · exact ⟨rfl, fun _ => bits_writePred hpd fun i hi => by
          rw [BitVec.getLsbD_or, getLsbD_pred_or hi, getLsbD_pred_or hi]; rfl, bits_zeros hpd⟩
      · exact ⟨rfl, fun _ => bits_writePred hpd fun i hi => by
          rw [BitVec.getLsbD_xor, getLsbD_pred_or hi, getLsbD_pred_or hi]; rfl, bits_zeros hpd⟩
      · exact ⟨rfl, fun _ => bits_writePred hpd fun i hi => by
          rw [BitVec.getLsbD_not, getLsbD_pred_or hi, decide_eq_true hi]; rfl, bits_zeros hpd⟩
      · exact writesBits_gsign hpd
    subst ho
    obtain ⟨hx, hl⟩ := start_bits hm hu hq hc hw
    obtain ⟨hf, hne, hst⟩ := regsRun_frame (b := b) (e := e) (s := s)
    exact ⟨_, hx, hf, hne, hst, hl.queue.trans (queue_unqueued hq), hl.vregs, hl.ovf, hl.preds,
      fun i hi => (hl.get i hi).trans (if_congr (getLsbD_pred hi) rfl rfl)⟩
  · intro b e r sf vd va m c pg s hd hm hu hq hc ho hsf
    obtain ⟨hf, -, -⟩ := regsRun_frame (b := b) (e := e) (s := s)
    refine ⟨regsRun b e s, ?_, hf, ?_⟩
    · rw [exec_veInstrStart_clean hm hq hc, startVec_regs hu (by rw [ho]; rfl)]
    · obtain ⟨h₁, h₂, h₃, h₄⟩ := row_ran (x := unqueued (s.bay b).vec) (k := fun i => BitVec.ofNat 32 (Config.freeNat (s.free + i))) ho hsf
      rw [vec_regsRun]
      exact ⟨⟨_, h₁⟩, h₂, h₃, h₄⟩

end Sys2Proof.Proofs.VectorEffects
end

section
/-! PROOFS. Loads, stores, key products and summaries of the vector engine, and their landings (R142 to R144, R149, R151, R152,
R157 to R159). -/

namespace Sys2Proof.Proofs.VectorLandings

open Sys2Proof Sys2Proof.Machine Sys2Proof.Laws.State Sys2Proof.Laws.Ops Sys2Proof.Laws.Sparse Sys2Proof.Proofs.Tables
  Sys2Proof.Proofs.VectorEngine Sys2Proof.Proofs.VectorEffects Sys2Proof.Proofs.RingUnit Sys2Proof.Proofs.TableLoads
  Sys2Proof.Proofs.FlagWaits Sys2Proof.Proofs.UnitIssue

variable {s t u : State} {b : Bay} {x y : Vec} {vd va : VReg} {pg : PReg} {e : VecEnt}

/-! ### The head of the queue starts (R154) -/

/-- The block with the head of the vector queue gone. -/
def popped (b : Bay) (s : State) : State := updVec b unqueued s

theorem vec_popped : ((popped b s).bay b).vec = unqueued (s.bay b).vec := vec_updVec

theorem onlyBay_popped : onlyBay b s (popped b s) := onlyBay_updVec

theorem byteBad_popped : byteBad (popped b s) = byteBad s := byteBad_setBay rfl

/-- A start marks its registers as written: the rest of the bay stands. -/
theorem bay_wroteRegs {op : VecOp} : ∃ p, (wroteRegs b op x s).bay b = { s.bay b with prot := p } := by
  unfold wroteRegs
  split
  · exact ⟨_, rfl⟩
  · exact ⟨_, bay_setBay⟩

theorem mem_wroteRegs {op : VecOp} : (wroteRegs b op x s).mem = s.mem := by
  unfold wroteRegs
  split <;> rfl

/-- The end of a start: what waits to be written back to the registers written is gone. -/
def settled (b : Bay) (e : VecEnt) (s u : State) : State := wroteRegs b e.op (unqueued (s.bay b).vec) u

theorem onlyBay_settled (h : onlyBay b s u) : onlyBay b s (settled b e s u) := onlyBay_trans h onlyBay_wroteRegs

theorem bay_settled : ∃ p, (settled b e s u).bay b = { u.bay b with prot := p } := bay_wroteRegs

theorem vec_settled : ((settled b e s u).bay b).vec = (u.bay b).vec := vec_wroteRegs

theorem strm_settled : (settled b e s u).strm b .x = u.strm b .x := by
  obtain ⟨p, hp⟩ := bay_settled (b := b) (e := e) (s := s) (u := u)
  rw [State.strm, hp]
  rfl

theorem mem_settled : (settled b e s u).mem = u.mem := mem_wroteRegs

theorem strm_updVec {f : Vec → Vec} : (updVec b f s).strm b .x = s.strm b .x := by
  rw [State.strm, updVec, bay_updBay]
  rfl

theorem dq_settled : ((settled b e s u).bay b).dq = (u.bay b).dq := by
  obtain ⟨p, hp⟩ := bay_settled (b := b) (e := e) (s := s) (u := u)
  rw [hp]

theorem dq_updVec {f : Vec → Vec} : ((updVec b f s).bay b).dq = (s.bay b).dq := by simp [updVec]

theorem strm_of_protOnly (h : ProtOnly s t) : t.strm b .x = s.strm b .x := by
  obtain ⟨p, hp⟩ := h b
  rw [State.strm, hp]
  rfl

theorem vec_of_protOnly (h : ProtOnly s t) : (t.bay b).vec = (s.bay b).vec := by
  obtain ⟨p, hp⟩ := h b
  rw [hp]

theorem onlyBay_landCtr {c : Ctr} {v : W32} : onlyBay b s (landCtr b .x c v s) := ⟨rfl, fun _ h => bay_updBay_ne h⟩

section Starts

variable (hu : soundUnits b s = true)
include hu

theorem startVec_ld {f : VFmt} {d : Desc} (ho : e.op = .ld vd f d pg) :
    startVec b e .clean s = settled b e s (runLd b e vd f d pg (popped b s)) := by
  rw [startVec, withUnits_clean (soundUnits_updVec.trans hu), settled]
  simp only [ho, vec_updVec]
  rfl

theorem startVec_st {f : VFmt} {d : Desc} (ho : e.op = .st va f d pg) :
    startVec b e .clean s = settled b e s (runSt b e va f d pg (popped b s)) := by
  rw [startVec, withUnits_clean (soundUnits_updVec.trans hu), settled]
  simp only [ho, vec_updVec]
  rfl

theorem startVec_ldq {q : Fin 8} {m : Nat} (ho : e.op = .ldq vd q m pg) :
    startVec b e .clean s = settled b e s (runLdq b e vd q m pg .clean (popped b s)) := by
  rw [startVec, withUnits_clean (soundUnits_updVec.trans hu), settled]
  simp only [ho, vec_updVec]
  rfl

theorem startVec_kmac {n : Nat} {init : Bool} {d : Desc} {wb : Option KWb} (ho : e.op = .kmac n init d wb) :
    startVec b e .clean s = settled b e s (runKmac b e n init d wb (popped b s)) := by
  rw [startVec, withUnits_clean (soundUnits_updVec.trans hu), settled]
  simp only [ho, vec_updVec]
  rfl

theorem startVec_ldp {n m : Nat} {d : Desc} (ho : e.op = .ldp n m d) :
    startVec b e .clean s = settled b e s (runVeLdp b e n m d (popped b s)) := by
  rw [startVec, withUnits_clean (soundUnits_updVec.trans hu), settled]
  simp only [ho, vec_updVec]
  rfl

theorem startVec_stat {cn : Ctr} (ho : e.op = .stat cn) :
    startVec b e .clean s = settled b e s (landCtr b .x cn (veStat (unqueued (s.bay b).vec)) (popped b s)) := by
  rw [startVec, withUnits_clean (soundUnits_updVec.trans hu), settled]
  simp only [ho, vec_updVec]
  rfl

/-- The engine with a summary left to land (R151). -/
def summed (cn : Ctr) (kind : SumKind) (fn : LFlag) (pg : PReg) (x : Vec) : Vec :=
  { x with sums := x.sums ++ [⟨cn, fn, x.sum kind pg⟩], ovf := if kind = .ovf then false else x.ovf }

theorem startVec_sum {cn : Ctr} {kind : SumKind} {fn : LFlag} (ho : e.op = .sum cn kind fn pg) :
    startVec b e .clean s = settled b e s (updVec b (summed cn kind fn pg) (popped b s)) := by
  rw [startVec, withUnits_clean (soundUnits_updVec.trans hu), settled]
  simp only [ho, vec_updVec]
  rfl

end Starts

theorem ovf_summed {cn : Ctr} {kind : SumKind} {fn : LFlag} : (summed cn kind fn pg x).ovf = (x.ovf && kind != .ovf) := by
  by_cases hk : kind = .ovf <;> simp [summed, hk]

theorem sameBytes_updVec {f : Vec → Vec} : SameBytes s (updVec b f s) := by
  refine ⟨rfl, rfl, rfl, fun c => ?_⟩
  by_cases hc : c = b
  · subst hc
    simp [updVec]
  · rw [updVec, bay_updBay_ne hc]
    exact ⟨rfl, rfl⟩

theorem sameBytes_popped : SameBytes s (popped b s) := sameBytes_updVec

/-! ### VE.LD (R142, R144) -/

/-- The converted elements of the active lanes. -/
def loaded (x : Vec) (f : VFmt) (d : Desc) (pg : PReg) (s : State) : List W32 :=
  (List.range 512).map (fun i => if (x.pred pg).getLsbD i then fmtLoad f (leNat (s.gather (laneAddrs d f i))) else 0#32)

theorem runLd_eq {f : VFmt} {d : Desc} (h : e.quench = true ∨ ((s.bay b).vec.lanesAddrs pg d f).any (byteBad s) = false) :
    runLd b e vd f d pg (popped b s) = updVec b (fun x => x.write pg vd
      (if e.quench = true then List.replicate 512 0#32 else loaded (s.bay b).vec f d pg s)) (popped b s) := by
  unfold runLd
  rw [vec_popped, byteBad_popped]
  cases hq : e.quench
  · have hb : ¬ ((unqueued (s.bay b).vec).lanesAddrs pg d f).any (byteBad s) = true := by
      rcases h with h | h
      · simp [hq] at h
      · exact ne_true_of_eq_false h
    simp only [Bool.false_eq_true, if_false, if_neg hb]
    rfl
  · simp only [if_true]

/-- Only the active lanes of a written list matter. -/
theorem lanes_write_active {l : List W32} {f : Nat → W32} (hl : l.length = 512)
    (hf : ∀ i (h : i < l.length), (x.pred pg).getLsbD i = true → l[i] = f i) :
    Lanes x (x.write pg vd l) pg vd f (fun _ => false) := by
  have h : Lanes x (x.write pg vd l) pg vd (fun i => l.getD i 0#32) (fun _ => false) :=
    lanes_write hl fun i hi => (List.getD_eq_getElem _ _ hi).symm
  refine { h with get := fun i hi => (h.get i hi).trans ?_ }
  split
  next hp => rw [List.getD_eq_getElem _ _ (by omega), hf i (by omega) hp]
  next => rfl

theorem lanes_runLd {f : VFmt} {d : Desc} : Lanes x (x.write pg vd
      (if e.quench = true then List.replicate 512 0#32 else loaded x f d pg s)) pg vd
    (fun i => if e.quench = true then 0#32 else fmtLoad f (leNat (s.gather (laneAddrs d f i)))) (fun _ => false) := by
  cases e.quench
  · exact lanes_write_active (by simp [loaded]) fun i hi hp => by simp [loaded, hp]
  · exact lanes_write List.length_replicate fun _ hi => List.getElem_replicate hi

/-! ### VE.ST (R142, R144, R152, R157) -/

theorem zipIdx_eq_map {α : Type} {l : List α} {a : α} : l.zipIdx = (List.range l.length).map (fun i => (l.getD i a, i)) := by
  refine List.ext_getElem (by simp) fun i h₁ h₂ => ?_
  have hi : i < l.length := by simpa using h₁
  simp [hi]

/-- The element a lane stores, and whether it sets the overflow bit. -/
def stored (x : Vec) (e : VecEnt) (va : VReg) (f : VFmt) (i : Nat) : Nat × Bool :=
  if e.quench then (0, false) else fmtStore f (lane x va i)

/-- The bytes of a store, none for an inactive lane. -/
def storeBytes (x : Vec) (e : VecEnt) (va : VReg) (f : VFmt) (pg : PReg) : List (Option Byte) :=
  (List.range 512).flatMap (fun i =>
    if (x.pred pg).getLsbD i then (leBytes (stored x e va f i).1 (fmtSize f)).map some else List.replicate (fmtSize f) none)

theorem lanes_eq_map : x.lanes va = (List.range 512).map (lane x va) := by
  refine List.ext_getElem (by simp) fun i h₁ h₂ => ?_
  rw [getElem_lane h₁, List.getElem_map, List.getElem_range]

theorem stored_eq_map {f : VFmt} : (x.lanes va).map (fun w => if e.quench then (0, false) else fmtStore f w) =
    (List.range 512).map (stored x e va f) := by
  rw [lanes_eq_map, List.map_map]
  rfl

theorem bytes_eq {f : VFmt} :
    ((List.range 512).map (stored x e va f)).zipIdx.flatMap (fun p =>
      if (x.pred pg).getLsbD p.2 then (leBytes p.1.1 (fmtSize f)).map some else List.replicate (fmtSize f) none) =
      storeBytes x e va f pg := by
  rw [zipIdx_eq_map (a := (0, false)), List.flatMap_map, List.length_map, List.length_range]
  refine List.flatMap_congr fun i hi => ?_
  rw [List.getD_eq_getElem _ _ (by simpa using hi), List.getElem_map, List.getElem_range]

theorem runSt_eq {f : VFmt} {d : Desc} : runSt b e va f d pg s =
    updVec b (fun x => x.over pg ((List.range 512).map (fun i => (stored (s.bay b).vec e va f i).2)))
      (maskOut d (storeBytes (s.bay b).vec e va f pg) s) := by
  unfold runSt
  extract_lets x r bytes
  have hr : r = (List.range 512).map (stored x e va f) := stored_eq_map
  have hb : bytes = storeBytes x e va f pg := by
    unfold bytes
    rw [hr]
    exact bytes_eq
  rw [hb, hr, List.map_map]
  rfl

theorem protOnly_maskOut {d : Desc} {l : List (Option Byte)} : ProtOnly s (maskOut d l s) := protOnly_storeRuns

theorem redMerge_congr (h : t.mem = s.mem) {d : Desc} {l : List (Option Byte)} : redMerge t d l = redMerge s d l := by
  funext acc g
  have hl (a n : Nat) : t.ld a n = s.ld a n := by unfold State.ld; rw [h]
  simp only [redMerge, hl]

theorem mem_maskOut_congr (h : SameBytes s t) {d : Desc} {l : List (Option Byte)} : (maskOut d l t).mem = (maskOut d l s).mem := by
  have hr : maskRuns t d l = maskRuns s d l := by
    unfold maskRuns
    rw [redMerge_congr h.1]
  rw [maskOut, maskOut, hr]
  exact h.storeRuns.1

theorem ovf_stored {f : VFmt} : (x.over pg ((List.range 512).map (fun i => (stored x e va f i).2))).ovf = true ↔
    x.ovf = true ∨ (e.quench = false ∧ ∃ i, i < 512 ∧ (x.pred pg).getLsbD i = true ∧ (fmtStore f (lane x va i)).2 = true) := by
  rw [ovf_over, ← exists_and_left]
  refine or_congr_right (exists_congr fun i => ?_)
  unfold stored
  cases e.quench
  · simp only [Bool.false_eq_true, if_false, List.length_map, List.length_range, List.getElem_map, List.getElem_range]
    constructor
    · rintro ⟨hi, ho, hp⟩
      exact ⟨trivial, hi, hp, ho⟩
    · rintro ⟨-, hi, hp, ho⟩
      exact ⟨hi, ho, hp⟩
  · refine ⟨fun h => ?_, fun h => absurd h.1.symm Bool.false_ne_true⟩
    obtain ⟨hi, ho, -⟩ := h
    rw [List.getElem_map] at ho
    exact absurd ho Bool.false_ne_true

/-! ### VE.LDQ (R146, R158) -/

theorem bay_popped : (popped b s).bay b = { s.bay b with vec := unqueued (s.bay b).vec, moved := true } := by simp [popped, updVec]

theorem length_of_ready {z : Bays} {q : Fin 8} {m : Nat} {l : List (List Byte)} (h : z.ready q m = some l) : l.length = m := by
  unfold Bays.ready at h
  extract_lets k at h
  split at h
  next hk => rw [← Option.some.inj h, hk]
  next => cases h

/-- Word `i` of entries of 16 words each. -/
theorem getElem?_entryWords {l : List (List Byte)} {i : Nat} (hi : i < 16 * l.length) :
    (entryWords l)[i]? = some (BitVec.ofNat 32 (fieldAt (l.getD (i / 16) []) (4 * (i % 16)) 4)) := by
  induction l generalizing i with
  | nil => simp at hi
  | cons c l ih =>
    rw [entryWords, List.flatMap_cons]
    by_cases h : i < 16
    · rw [List.getElem?_append_left (by simpa using h), List.getElem?_map, List.getElem?_range h, Nat.div_eq_of_lt h,
        Nat.mod_eq_of_lt h]
      rfl
    · rw [List.getElem?_append_right (by simpa using h), List.length_map, List.length_range]
      have hd : i / 16 = (i - 16) / 16 + 1 := by omega
      have hm : i % 16 = (i - 16) % 16 := by omega
      rw [hd, hm, List.getD_cons_succ]
      exact ih (by simp at hi; omega)

theorem length_entryWords {l : List (List Byte)} : (entryWords l).length = 16 * l.length := by
  simp [entryWords, List.length_flatMap, Nat.mul_comm]

/-- The words a VE.LDQ puts into its first lanes. -/
def takenWords (e : VecEnt) (m : Nat) (l : List (List Byte)) : List W32 :=
  if e.quench then List.replicate (16 * m) 0#32 else entryWords l

theorem length_takenWords {m : Nat} {l : List (List Byte)} (hl : l.length = m) : (takenWords e m l).length = 16 * m := by
  unfold takenWords
  split
  · exact List.length_replicate
  · rw [length_entryWords, hl]

theorem getD_takenWords {m i : Nat} {l : List (List Byte)} (hl : l.length = m) (hi : i < 16 * m) : (takenWords e m l).getD i 0#32 =
    if e.quench = true then 0#32 else BitVec.ofNat 32 (fieldAt (l.getD (i / 16) []) (4 * (i % 16)) 4) := by
  unfold takenWords
  split
  · rw [List.getD_eq_getElem?_getD, List.getElem?_replicate_of_lt hi]
    rfl
  · rw [List.getD_eq_getElem?_getD, getElem?_entryWords (by rw [hl]; exact hi)]
    rfl

theorem runLdq_eq {q : Fin 8} {m : Nat} {l : List (List Byte)} (hu : soundUnits b s = true) (hl : (s.bay b).ready q m = some l) :
    runLdq b e vd q m pg .clean s =
      updVec b (fun x => x.write pg vd (takenWords e m l ++ (x.lanes vd).drop (16 * m))) (s.updBay b (fun x => x.pop q m)) := by
  have hs : soundUnits b (s.updBay b (fun x => x.pop q m)) = true := by
    simpa [soundUnits, Bays.pop, Bays.setDq] using hu
  unfold runLdq
  rw [hl]
  refine (withUnits_clean hs).trans ?_
  have hv : ((s.updBay b (fun x => x.pop q m)).bay b).vec = (s.bay b).vec := by simp [Bays.pop, Bays.setDq]
  simp only [updVec, takenWords]
  congr 1

theorem lanes_takenWords {m : Nat} {l : List (List Byte)} (hl : l.length = m) (hm : m ≤ 32) :
    Lanes x (x.write pg vd (takenWords e m l ++ (x.lanes vd).drop (16 * m))) pg vd
      (fun i => if i < 16 * m then (takenWords e m l).getD i 0#32 else lane x vd i) (fun _ => false) := by
  have hw := length_takenWords (e := e) hl
  refine lanes_write (by simp [hw]; omega) fun i hi => ?_
  by_cases h : i < 16 * m
  · rw [if_pos h, List.getElem_append_left (by omega), List.getD_eq_getElem _ _ (by omega)]
  · rw [if_neg h, List.getElem_append_right (by omega), List.getElem_drop, getElem_lane]
    congr 1
    omega

/-! ### VE.KMAC (R149, R157) -/

theorem length_kaRow {n : Nat} {k : Bool} : (x.kaRow n k).length = 256 := by
  rw [Vec.kaRow, getList_eq_map, List.length_map, List.length_range']

theorem getElem_kaRow {n i : Nat} {k : Bool} (h : i < (x.kaRow n k).length) :
    (x.kaRow n k)[i] = Sparse.get (fun _ => 0#32) x.ka (512 * n + (if k = true then 256 else 0) + i) := by
  simp only [Vec.kaRow, getList_eq_map, List.getElem_map, List.getElem_range', Nat.one_mul]

theorem length_walkWords {d : Desc} {w n : Nat} : (s.walkWords d w n).length = n := by simp [State.walkWords]

/-- One half of the accumulator row a key product leaves. -/
def product (e : VecEnt) (q : Nat) (init : Bool) (old src row : List W32) : List W32 :=
  if e.quench then List.replicate 256 0#32 else kmacRow q init old src row

section Product

variable {q : Nat} {init : Bool} {old src row : List W32} (ho : old.length = 256) (hs : src.length = 256) (hr : row.length = 256)
include ho hs hr

theorem length_product : (product e q init old src row).length = 256 := by
  unfold product
  split
  · exact List.length_replicate
  · simp [kmacRow, ho, hs, hr]

theorem getElem_product {i : Nat} (hi : i < 256) :
    (product e q init old src row)[i]? = some (if e.quench = true then 0#32
      else BitVec.ofNat 32 (((if init = true then 0 else (old.getD i 0#32).toNat % 2 ^ 31) +
        (src.getD i 0#32).toNat % 2 ^ 31 * ((row.getD i 0#32).toNat % 2 ^ 31)) % q)) := by
  unfold product
  split
  · exact List.getElem?_replicate_of_lt hi
  · rw [List.getD_eq_getElem _ _ (by omega), List.getD_eq_getElem _ _ (by omega), List.getD_eq_getElem _ _ (by omega),
      List.getElem?_eq_getElem (by simp [kmacRow, ho, hs, hr, hi])]
    simp [kmacRow, res31]

end Product

/-- Word `i` of a half of the accumulator row a key product leaves. -/
theorem getD_product_row {q n i : Nat} {init k : Bool} {src row : List W32} (hs : src.length = 256) (hr : row.length = 256)
    (hi : i < 256) : (product e q init (x.kaRow n k) src row).getD i 0#32 = if e.quench = true then 0#32
      else BitVec.ofNat 32 (((if init = true then 0
        else (Sparse.get (fun _ => 0#32) x.ka (512 * n + (if k = true then 256 else 0) + i)).toNat % 2 ^ 31) +
        (src.getD i 0#32).toNat % 2 ^ 31 * ((row.getD i 0#32).toNat % 2 ^ 31)) % q) := by
  rw [List.getD_eq_getElem?_getD, getElem_product length_kaRow hs hr hi,
    List.getD_eq_getElem (x.kaRow n k) _ (by rw [length_kaRow]; exact hi), getElem_kaRow]
  rfl

/-- The engine after a key product with residue index `j` has given the rows `nb` and `na`. -/
def multiplied (n : Nat) (wb : Option KWb) (j : Nat) (nb na : List W32) (x : Vec) : Vec :=
  { (x.setKa n nb na) with
    lastJ := BitVec.ofNat 6 j
    kmacs := match wb with | some w => x.kmacs ++ [⟨w, nb, na⟩] | none => x.kmacs }

theorem runKmac_eq {n : Nat} {init : Bool} {d : Desc} {wb : Option KWb} {kb ka : KeyRow} {rows : List KeyRow}
    (hr : (s.bay b).vec.rowsIn = kb :: ka :: rows) (hb : e.quench = true ∨ (d.addrs 0 1024).any (byteBad s) = false) :
    runKmac b e n init d wb s = updVec b (multiplied n wb kb.j
      (product e ((s.bay b).vec.q kb.j) init ((s.bay b).vec.kaRow n false) (s.walkWords d 0 256) kb.words)
      (product e ((s.bay b).vec.q kb.j) init ((s.bay b).vec.kaRow n true) (s.walkWords d 0 256) ka.words))
      (updVec b (fun x => { x with rowsIn := rows }) s) := by
  have hbad : byteBad (updVec b (fun x => { x with rowsIn := rows }) s) = byteBad s := byteBad_setBay rfl
  have hn : ¬ (!e.quench && (d.addrs 0 1024).any (byteBad s)) = true := by
    rcases hb with hb | hb <;> simp [hb]
  unfold runKmac
  dsimp only
  rw [hr]
  dsimp only
  rw [hbad, if_neg hn]
  rfl

theorem ka_multiplied {n j : Nat} {wb : Option KWb} {nb na : List W32} :
    (multiplied n wb j nb na x).ka = Sparse.setList (fun _ => 0#32) x.ka (512 * n) (nb ++ na) := rfl

section Multiplied

variable {n j : Nat} {wb : Option KWb} {nb na : List W32} (hw : Sparse.wf (fun _ => 0#32) x.ka = true) (hb : nb.length = 256)
  (ha : na.length = 256)
include hw hb ha

theorem get_multiplied {k : Bool} {i : Nat} (hi : i < 256) :
    Sparse.get (fun _ => 0#32) (multiplied n wb j nb na x).ka (512 * n + (if k = true then 256 else 0) + i) =
      (if k = true then na else nb).getD i 0#32 := by
  rw [ka_multiplied, get_setList hw, if_pos (by omega)]
  cases k
  · rw [if_neg Bool.false_ne_true, if_neg Bool.false_ne_true, List.getElem?_append_left (by omega),
      List.getElem?_eq_getElem (by omega), List.getD_eq_getElem _ _ (by omega)]
    simp
  · rw [if_pos rfl, if_pos rfl, List.getElem?_append_right (by omega), List.getElem?_eq_getElem (by omega),
      List.getD_eq_getElem _ _ (by omega)]
    simp only [Option.getD_some]
    congr 1
    omega

theorem get_multiplied_outside {i : Nat} (hi : i < 512 * n ∨ 512 * n + 512 ≤ i) :
    Sparse.get (fun _ => 0#32) (multiplied n wb j nb na x).ka i = Sparse.get (fun _ => 0#32) x.ka i := by
  rw [ka_multiplied, get_setList hw]
  rcases hi with hi | hi
  · rw [if_neg (by omega)]
  · rw [if_pos (by omega), List.getElem?_eq_none (by simp; omega)]
    rfl

theorem kaRow_multiplied {k : Bool} : (multiplied n wb j nb na x).kaRow n k = if k = true then na else nb := by
  have hl : (if k = true then na else nb).length = 256 := by split <;> assumption
  refine List.ext_getElem (by rw [length_kaRow, hl]) fun i h₁ h₂ => ?_
  rw [getElem_kaRow, get_multiplied hw hb ha (by omega), List.getD_eq_getElem _ _ h₂]

end Multiplied

/-! ### VE.SUM (R151) -/

/-- The active lanes that a predicate has, in terms of bits. -/
theorem eq_zero_iff_bits {p : BitVec 512} : p = 0#512 ↔ ∀ i, i < 512 → p.getLsbD i = false := by
  constructor
  · rintro rfl i -
    simp
  · intro h
    refine BitVec.eq_of_getLsbD_eq fun i hi => ?_
    rw [h i hi]
    simp

theorem and_eq_right_iff {p m : BitVec 512} : p &&& m = m ↔ ∀ i, i < 512 → m.getLsbD i = true → p.getLsbD i = true := by
  constructor
  · intro h i _ hm
    have := congrArg (fun v => BitVec.getLsbD v i) h
    simpa [BitVec.getLsbD_and, hm] using this
  · intro h
    refine BitVec.eq_of_getLsbD_eq fun i hi => ?_
    rw [BitVec.getLsbD_and]
    cases hm : m.getLsbD i
    · simp
    · rw [h i hi hm]
      rfl

theorem sum_any {a : PReg} : (x.sum (.any a) pg = 1#32 ∨ x.sum (.any a) pg = 0#32) ∧ (x.sum (.any a) pg = 1#32 ↔
    ∃ i, i < 512 ∧ (x.pred pg).getLsbD i = true ∧ (x.pred a).getLsbD i = true) := by
  have hs : x.sum (.any a) pg = if x.pred a &&& x.pred pg = 0#512 then 0#32 else 1#32 := rfl
  rw [hs]
  split
  next h =>
    refine ⟨.inr rfl, fun h' => absurd h' (by decide), ?_⟩
    rintro ⟨i, hi, hg, ha⟩
    have := eq_zero_iff_bits.1 h i hi
    simp [BitVec.getLsbD_and, ha, hg] at this
  next h =>
    refine ⟨.inl rfl, fun _ => ?_, fun _ => rfl⟩
    by_contra hn
    refine h (eq_zero_iff_bits.2 fun i hi => ?_)
    rw [BitVec.getLsbD_and, Bool.eq_false_iff]
    intro hc
    rw [Bool.and_eq_true] at hc
    exact hn ⟨i, hi, hc.2, hc.1⟩

theorem sum_all {a : PReg} : (x.sum (.all a) pg = 1#32 ∨ x.sum (.all a) pg = 0#32) ∧ (x.sum (.all a) pg = 1#32 ↔
    ∀ i, i < 512 → (x.pred pg).getLsbD i = true → (x.pred a).getLsbD i = true) := by
  have hs : x.sum (.all a) pg = if x.pred a &&& x.pred pg = x.pred pg then 1#32 else 0#32 := rfl
  rw [hs, ← and_eq_right_iff]
  split
  next h => exact ⟨.inl rfl, fun _ => h, fun _ => rfl⟩
  next h => exact ⟨.inr rfl, fun h' => absurd h' (by decide), fun h' => absurd h' h⟩

theorem sum_cnt {a : PReg} : x.sum (.cnt a) pg =
    BitVec.ofNat 32 ((List.range 512).filter (fun i => (x.pred pg).getLsbD i && (x.pred a).getLsbD i)).length := by
  have hs : x.sum (.cnt a) pg = BitVec.ofNat 32 (popCount (x.pred a &&& x.pred pg)) := rfl
  rw [hs, popCount]
  congr 3
  funext i
  rw [BitVec.getLsbD_and, Bool.and_comm]

theorem active_eq : x.active pg va = ((List.range 512).filter (fun i => (x.pred pg).getLsbD i)).map (lane x va) := by
  rw [Vec.active, zipIdx_eq_map (a := 0#32), length_lanes, List.filter_map, List.map_map]
  refine List.map_congr_left fun i hi => ?_
  have hi' : i < (x.lanes va).length := by
    rw [length_lanes]
    exact List.mem_range.1 (List.mem_of_mem_filter hi)
  change (x.lanes va).getD i 0#32 = _
  rw [List.getD_eq_getElem _ _ hi', getElem_lane]

/-- A running maximum from `a` on: no less than `a` or any element, and one of them. -/
theorem foldl_max {f : W32 → Int} {g : W32 → W32 → W32} (hg : ∀ a c, g a c = if f a < f c then c else a) (l : List W32) (a : W32) :
    f a ≤ f (l.foldl g a) ∧ (∀ c ∈ l, f c ≤ f (l.foldl g a)) ∧ (l.foldl g a = a ∨ l.foldl g a ∈ l) := by
  induction l generalizing a with
  | nil => simp
  | cons c l ih =>
    obtain ⟨h₁, h₂, h₃⟩ := ih (g a c)
    rw [List.foldl_cons]
    have ha : f a ≤ f (g a c) ∧ f c ≤ f (g a c) ∧ (g a c = a ∨ g a c = c) := by
      rw [hg]
      split
      · exact ⟨by omega, by omega, .inr rfl⟩
      · exact ⟨by omega, by omega, .inl rfl⟩
    obtain ⟨k₁, k₂, k₃⟩ := ha
    refine ⟨k₁.trans h₁, fun d hd => ?_, ?_⟩
    · rcases List.mem_cons.1 hd with rfl | hd
      · exact k₂.trans h₁
      · exact h₂ d hd
    · rcases h₃ with h | h
      · rw [h]
        rcases k₃ with k | k
        · exact .inl k
        · exact .inr (by rw [k]; exact List.mem_cons_self)
      · exact .inr (List.mem_cons_of_mem _ h)

/-- The maximum over the active lanes, no less than any and one of them unless it is the start. -/
theorem max_active {f : W32 → Int} {g : W32 → W32 → W32} (hg : ∀ a c, g a c = if f a < f c then c else a) {u : VReg} {a : W32} :
    (∀ i, i < 512 → (x.pred pg).getLsbD i = true → f (lane x u i) ≤ f ((x.active pg u).foldl g a)) ∧
      ((x.active pg u).foldl g a = a ∨ ∃ i, i < 512 ∧ (x.pred pg).getLsbD i = true ∧ lane x u i = (x.active pg u).foldl g a) := by
  obtain ⟨-, h₂, h₃⟩ := foldl_max hg (x.active pg u) a
  refine ⟨fun i hi hp => h₂ _ ?_, h₃.imp id fun h => ?_⟩
  · rw [active_eq]
    exact List.mem_map_of_mem (List.mem_filter.2 ⟨List.mem_range.2 hi, hp⟩)
  · rw [active_eq, List.mem_map] at h
    obtain ⟨i, hi, hx⟩ := h
    obtain ⟨hr, hp⟩ := List.mem_filter.1 hi
    rw [← active_eq] at hx
    exact ⟨i, List.mem_range.1 hr, hp, hx⟩

/-! ### VE.STAT, VE.LDP and the landings (R143, R149, R151, R159) -/

theorem vec_landCtr {c : Ctr} {v : W32} : ((landCtr b .x c v s).bay b).vec = (s.bay b).vec := by
  rw [landCtr, State.updStrm, bay_updBay]
  rfl

theorem vec_rewrote {id lo n : Nat} : ((rewrote b id lo n s).bay b).vec = (s.bay b).vec := by simp [rewrote, updProt]

theorem vec_putFlag {f : LFlag} {v : Bool} : ((putFlag b f v s).bay b).vec = (s.bay b).vec := by
  simp [putFlag, Bays.setFlag]

theorem strm_putFlag {f : LFlag} {v : Bool} : (putFlag b f v s).strm b .x = s.strm b .x := by
  rw [State.strm, putFlag, bay_updBay]
  rfl

theorem runVeLdp_eq {n m : Nat} {d : Desc} (hb : (d.addrs 0 (16 * m)).any (byteBad s) = false)
    (hp : (primeRecs (s.gather (d.addrs 0 (16 * m))) m).all primeOk = true) :
    runVeLdp b e n m d s = rewrote b 0x13 (0x10000 + 16 * n) (16 * m)
      (updVec b (fun x => { x with vpt := putPrimes x.vpt n (primeRecs (s.gather (d.addrs 0 (16 * m))) m) }) s) := by
  unfold runVeLdp
  exact (if_neg (ne_true_of_eq_false hb)).trans (if_pos hp)

/-- A bay with its oldest summary taken, the interlock of its flag gone with the last summary of the flag. -/
def sumTaken (k : SumPend) (r : List SumPend) (x : Bays) : Bays :=
  { x with
    vec := { x.vec with sums := r }
    flagBusy := if r.any (fun z => z.fn == k.fn) || x.vec.queue.any (fun e => e.op.writesFlag k.fn) then x.flagBusy
      else setBit x.flagBusy k.fn false }

/-- The block with that summary in its counter and its flag. -/
def sumLanded (b : Bay) (k : SumPend) (r : List SumPend) (s : State) : State :=
  putFlag b k.fn (k.val != 0#32) (landCtr b .x k.cn k.val (s.updBay b (sumTaken k r)))

theorem slt_max (a c : W32) : (if a.slt c then c else a) = if a.toInt < c.toInt then c else a := by
  simp only [BitVec.slt, decide_eq_true_eq]

theorem ult_max (a c : W32) : (if a.ult c then c else a) = if (a.toNat : Int) < (c.toNat : Int) then c else a := by
  simp only [BitVec.ult, decide_eq_true_eq, Int.ofNat_lt]

/-- Settles O29: each instruction is followed from the head of the queue to the engine it leaves, each landing to its counter, flag or
bytes. -/
theorem vectorLandings : Obligations.VectorLandings := by
  unfold Obligations.VectorLandings
  refine ⟨?_, ?_, ?_⟩
  · intro b e r vd va f d q m n pg init wb kb ka rows cn kind fn l s hd hm hu hq hc x lane' p acc
    have hx := exec_veInstrStart_clean hm hq hc
    have hp (n : PReg) (i : Nat) (hi : i < 512) : (x.pred n).getLsbD i = p n i := getLsbD_pred_or hi
    refine ⟨fun ho hb => ?_, fun ho => ?_, fun ho hl hm32 => ?_, fun ho hr hkb hka hb hwf => ?_, fun ho => ?_, fun ho => ?_,
      fun ho hb hpr => ?_⟩
    · rw [startVec_ld hu ho, runLd_eq hb] at hx
      refine ⟨_, hx, onlyBay_settled (onlyBay_trans onlyBay_popped onlyBay_updVec), ?_⟩
      rw [vec_settled, vec_updVec, vec_popped]
      obtain ⟨h₁, h₂, h₃, -, h₅, -⟩ := lanes_runLd (x := unqueued x) (e := e) (pg := pg) (vd := vd) (f := f) (d := d) (s := s)
      refine ⟨h₅.trans (queue_unqueued hq), fun i hi => (h₁ i hi).trans ?_, h₂, h₃⟩
      exact if_congr (by rw [← hp pg i hi]; rfl) rfl rfl
    · rw [startVec_st hu ho, runSt_eq, vec_popped] at hx
      refine ⟨_, hx, ?_⟩
      rw [vec_settled, vec_updVec, strm_settled, strm_updVec, mem_settled, strm_of_protOnly protOnly_maskOut, vec_of_protOnly protOnly_maskOut, vec_popped]
      refine ⟨queue_unqueued hq, rfl, rfl, strm_updVec, ?_, ovf_stored.trans (or_congr_right (and_congr_right fun _ =>
        exists_congr fun i => and_congr_right fun hi => and_congr_left fun _ => ?_))⟩
      · refine (mem_maskOut_congr sameBytes_popped).trans ?_
        refine congrArg (fun l => (maskOut d l s).mem) (List.flatMap_congr fun i hi =>
          if_congr (by rw [← hp pg i (List.mem_range.1 hi)]; rfl) ?_ rfl)
        unfold stored
        cases e.quench <;> rfl
      · rw [← hp pg i hi]
        rfl
    · have hl' : ((popped b s).bay b).ready q m = some l := by rw [bay_popped]; exact hl
      have hlen := length_of_ready hl
      rw [startVec_ldq hu ho, runLdq_eq (s := popped b s) (soundUnits_updVec.trans hu) hl'] at hx
      have ho' := onlyBay_settled (e := e) (onlyBay_trans (onlyBay_trans (onlyBay_popped (b := b) (s := s))
        (onlyBay_updBay (f := fun z => z.pop q m))) (onlyBay_updVec
          (f := fun z => z.write pg vd (takenWords e m l ++ (z.lanes vd).drop (16 * m)))))
      obtain ⟨hfr, -⟩ := ho'
      refine ⟨_, hx, by rw [hfr], ?_, fun k hk => ?_, fun i hi => ?_⟩
      · rw [dq_settled, dq_updVec, bay_updBay, bay_popped]
        simp [Bays.pop, Bays.setDq]
      · have hne : q.val ≠ k.val := fun h => hk (Fin.ext h.symm)
        rw [dq_settled, dq_updVec, bay_updBay, bay_popped]
        simp [Bays.pop, Bays.setDq, hne]
      · rw [vec_settled, vec_updVec, bay_updBay, bay_popped]
        refine ((lanes_takenWords (x := unqueued x) (e := e) hlen hm32).get i hi).trans ?_
        have hpi : ((unqueued x).pred pg).getLsbD i = p pg i := hp pg i hi
        simp only [hpi]
        by_cases h₁ : p pg i = true <;> by_cases h₂ : i < 16 * m
        · rw [if_pos h₁, if_pos h₂, if_pos ⟨h₁, h₂⟩, getD_takenWords hlen h₂]
        · rw [if_pos h₁, if_neg h₂, if_neg fun h => h₂ h.2]
          rfl
        · rw [if_neg h₁, if_neg fun h => h₁ h.1]
          rfl
        · rw [if_neg h₁, if_neg fun h => h₁ h.1]
          rfl
    · rw [startVec_kmac hu ho, runKmac_eq (by rw [vec_popped]; exact hr) (by rw [byteBad_popped]; exact hb), vec_popped] at hx
      refine ⟨_, hx, onlyBay_settled (onlyBay_trans (onlyBay_trans onlyBay_popped onlyBay_updVec) onlyBay_updVec), ?_⟩
      rw [vec_settled, vec_updVec, vec_updVec, vec_popped]
      have hlb := length_product (e := e) (q := (unqueued x).q kb.j) (init := init) (length_kaRow (x := unqueued x) (n := n) (k := false))
        (length_walkWords (s := popped b s) (d := d) (w := 0)) hkb
      have hla := length_product (e := e) (q := (unqueued x).q kb.j) (init := init) (length_kaRow (x := unqueued x) (n := n) (k := true))
        (length_walkWords (s := popped b s) (d := d) (w := 0)) hka
      refine ⟨queue_unqueued hq, rfl, rfl, rfl, fun k i hi => ?_, fun j hj => get_multiplied_outside (wb := wb) (j := kb.j) hwf hlb hla hj,
        fun k hk => ?_, fun hk => by rw [hk]; rfl⟩
      · refine (get_multiplied (wb := wb) (j := kb.j) hwf hlb hla hi).trans ?_
        cases k
        · exact getD_product_row (length_walkWords (s := popped b s) (d := d) (w := 0)) hkb hi
        · exact getD_product_row (length_walkWords (s := popped b s) (d := d) (w := 0)) hka hi
      · refine ⟨_, _, by rw [hk]; rfl, ?_, ?_⟩
        · exact (kaRow_multiplied (wb := wb) (j := kb.j) hwf hlb hla (k := false)).symm
        · exact (kaRow_multiplied (wb := wb) (j := kb.j) hwf hlb hla (k := true)).symm
    · rw [startVec_sum hu ho] at hx
      refine ⟨_, hx, onlyBay_settled (onlyBay_trans onlyBay_popped onlyBay_updVec), ?_⟩
      rw [vec_settled, vec_updVec, vec_popped, strm_settled, strm_updVec]
      refine ⟨queue_unqueued hq, ?_, strm_updVec, ?_⟩
      · exact ovf_summed
      · have hpx (n : PReg) (i : Nat) (hi : i < 512) : ((unqueued x).pred n).getLsbD i = p n i := hp n i hi
        refine ⟨_, rfl, ?_⟩
        cases kind with
        | any a =>
          refine ⟨sum_any.1, sum_any.2.trans (exists_congr fun i => and_congr_right fun hi => ?_)⟩
          rw [hpx pg i hi, hpx a i hi]
        | all a =>
          refine ⟨sum_all.1, sum_all.2.trans (forall_congr' fun i => forall_congr' fun hi => ?_)⟩
          rw [hpx pg i hi, hpx a i hi]
        | cnt a =>
          refine sum_cnt.trans (congrArg (fun l : List Nat => BitVec.ofNat 32 l.length) (List.filter_congr fun i hi => ?_))
          have hi' := List.mem_range.1 hi
          rw [hpx pg i hi', hpx a i hi']
        | maxi u =>
          obtain ⟨h₁, h₂⟩ := max_active (x := unqueued x) (pg := pg) (f := BitVec.toInt) slt_max (u := u) (a := 0x80000000#32)
          refine ⟨fun i hi hon => h₁ i hi ((hpx pg i hi).trans hon), h₂.imp id ?_⟩
          rintro ⟨i, hi, hon, hv⟩
          exact ⟨i, hi, (hpx pg i hi).symm.trans hon, hv⟩
        | maxu u =>
          obtain ⟨h₁, h₂⟩ := max_active (x := unqueued x) (pg := pg) (f := fun a => (a.toNat : Int)) ult_max (u := u) (a := 0#32)
          refine ⟨fun i hi hon => Int.ofNat_le.1 (h₁ i hi ((hpx pg i hi).trans hon)), h₂.imp id ?_⟩
          rintro ⟨i, hi, hon, hv⟩
          exact ⟨i, hi, (hpx pg i hi).symm.trans hon, hv⟩
        | maxf u =>
          refine congrArg rowMax (active_eq.trans ?_)
          rw [List.filter_congr fun i hi => hpx pg i (List.mem_range.1 hi)]
          rfl
        | ovf => rfl
    · rw [startVec_stat hu ho] at hx
      refine ⟨_, hx, onlyBay_settled (onlyBay_trans onlyBay_popped onlyBay_landCtr), ?_⟩
      have hv : (landCtr b .x cn (veStat (unqueued (s.bay b).vec)) (popped b s)).strm b .x =
          ((s.strm b .x).setCtr cn (veStat (unqueued (s.bay b).vec))).mark cn false := by
        rw [landCtr, strm_updStrm, popped, strm_updVec]
      have hvec : ((landCtr b .x cn (veStat (unqueued (s.bay b).vec)) (popped b s)).bay b).vec = unqueued (s.bay b).vec := by
        rw [vec_landCtr, vec_popped]
      rw [vec_settled, strm_settled, hv, hvec]
      refine ⟨queue_unqueued hq, ?_, ?_⟩
      · have hqu : unqueued (s.bay b).vec = { x with queue := r } := by rw [unqueued, hq]; rfl
        rw [hqu]
        rfl
      · exact (getLsbD_setBit cn.isLt).trans (if_pos rfl)
    · rw [startVec_ldp hu ho, runVeLdp_eq (s := popped b s) (by rw [byteBad_popped]; exact hb) hpr] at hx
      refine ⟨_, hx, onlyBay_settled (onlyBay_trans (onlyBay_trans onlyBay_popped onlyBay_updVec) onlyBay_rewrote), ?_⟩
      rw [vec_settled, vec_rewrote, vec_updVec, vec_popped]
      exact ⟨queue_unqueued hq, rfl, rfl⟩
  · intro b k r s hd hm hk
    refine ⟨landKmac b k s, ?_, ?_, flagOf_putFlag.trans (if_pos rfl), ?_, ?_⟩
    · change execVeKmacWriteback b .clean s = _
      simp only [execVeKmacWriteback, hk, if_pos (alive_of_dieRuns hd), guarded_clean hm]
    · rw [landKmac, vec_putFlag, vec_of_protOnly protOnly_streamOut, vec_of_protOnly protOnly_streamOut, vec_updVec, hk]
      rfl
    · rw [landKmac, strm_putFlag, strm_of_protOnly protOnly_streamOut, strm_of_protOnly protOnly_streamOut, strm_updVec]
    · exact (sameBytes_updVec.streamOut).streamOut.1
  · intro b k r s hd hk
    have hx : exec (.veSumResult b) s = .next (sumLanded b k r s) := by
      change execVeSumResult b s = _
      simp only [execVeSumResult, hk, if_pos (alive_of_dieRuns hd)]
      rfl
    have hbay : (s.updBay b (sumTaken k r)).bay b = { sumTaken k r (s.bay b) with moved := true } := bay_updBay
    have hst : (s.updBay b (sumTaken k r)).strm b .x = s.strm b .x := by rw [State.strm, hbay]; rfl
    refine ⟨_, hx, onlyBay_trans (onlyBay_trans onlyBay_updBay onlyBay_landCtr) onlyBay_putFlag, ?_, ?_,
      flagOf_putFlag.trans (if_pos rfl), fun f hf => (flagOf_putFlag.trans (if_neg hf)).trans ?_, fun hz he => ?_⟩
    · rw [sumLanded, vec_putFlag, vec_landCtr, hbay]
      rfl
    · rw [sumLanded, strm_putFlag, landCtr, strm_updStrm, hst]
      rfl
    · rw [flagOf, landCtr, State.updStrm, bay_updBay, hbay]
      rfl
    · rw [sumLanded, putFlag, bay_updBay, landCtr, State.updStrm, bay_updBay, hbay]
      have hn : ¬ (r.any (fun z => z.fn == k.fn) || (s.bay b).vec.queue.any (fun e => e.op.writesFlag k.fn)) = true := by
        simp only [Bool.or_eq_true, List.any_eq_true, beq_iff_eq, not_or, not_exists, not_and]
        exact ⟨hz, fun e hm => ne_true_of_eq_false (he e hm)⟩
      have hb : (sumTaken k r (s.bay b)).flagBusy = setBit (s.bay b).flagBusy k.fn false := if_neg hn
      change (sumTaken k r (s.bay b)).flagBusy.getLsbD k.fn = false
      rw [hb]
      exact (getLsbD_setBit k.fn.isLt).trans (if_pos rfl)

end Sys2Proof.Proofs.VectorLandings
end
